-- ==== Sys2Proof/Word.lean ====
section
/-! DEFINITION. Word.lean: the word types of Lorvaus (R8) and their plainest arithmetic. -/
namespace Sys2Proof

/-- One byte of host memory, of a record or of a page. -/
abbrev Byte := BitVec 8
/-- A 16-bit field. -/
abbrev Half := BitVec 16
/-- A register or a DW of a structure: 32 bits (R8, R422). -/
abbrev Word := BitVec 32
/-- A 64-bit field: host addresses, DISC_ID, MID, OPDATA. -/
abbrev Dword := BitVec 64

/-- A fold number, 0 to 7 (Table 0.3, R30). -/
abbrev FoldId := Fin 8
/-- A work ring number, 0 to 3. -/
abbrev RingId := Fin 4
/-- A done ring number, 0 or 1. -/
abbrev DringId := Fin 2

end Sys2Proof
end

