-- ==== Sys2Proof/Syntax.lean ====
section
/-! DEFINITION. Syntax.lean: the commands. `Instr` has one constructor for each row of spec/opcode_table.json, in the
table's order. A command carries what its sender gives: the fold and descriptor it acts on, the register value written,
the host-memory data a read brought back, or the physical measurement an event reports. -/
namespace Sys2Proof

/-- The result of one host memory read (R41, R88, R100, R250): the data, or one of Unsupported Request, Completer Abort,
poisoned data and completion timeout, which Lorvaus treats alike. -/
inductive ReadResult (α : Type) where
  | ok (data : α)
  | failed
  deriving DecidableEq, Repr

/-- A 64-byte descriptor as fetched (Table 4.1), by its 16 DWs. -/
structure RawDesc where
  dw0 : Word := 0
  dw1 : Word := 0
  dw2 : Word := 0
  dw3 : Word := 0
  dw4 : Word := 0
  dw5 : Word := 0
  dw6 : Word := 0
  dw7 : Word := 0
  dw8 : Word := 0
  dw9 : Word := 0
  dw10 : Word := 0
  dw11 : Word := 0
  dw12 : Word := 0
  dw13 : Word := 0
  dw14 : Word := 0
  dw15 : Word := 0
  deriving DecidableEq, Repr

/-- A scatter list entry as read (Table 4.2). -/
structure RawEntry where
  addr : Dword
  len : Word
  flags : Word
  deriving DecidableEq, Repr

/-- A grant table entry as read (Table 2.3). The ignored reserved fields (R40) are not carried. -/
structure RawGrant where
  seqA : Half
  foldByte : Byte
  rights : Byte
  startLba : Word
  endLba : Word
  discId : Dword
  seqB : Half
  deriving DecidableEq, Repr

/-- The tails and heads that a poll of bytes 0x000-0x047 returns (Table 3.2, R69). -/
structure PollData where
  tail0 : Word
  tail1 : Word
  tail2 : Word
  tail3 : Word
  head0 : Word
  head1 : Word
  deriving DecidableEq, Repr

/-- MEDIUM of Table 4.7. -/
inductive Medium where
  | cdRom | cdR | cdRw | dvdRom | dvdR | dvdPlusR | dvdRw | dvdPlusRw | bdRom | bdR | bdRe
  deriving DecidableEq, Repr

/-- One track of write-once media (R453). `next` is its next writable block, none once it is closed or full. -/
structure Track where
  number : Nat
  first : Nat
  last : Nat
  next : Option Nat
  isOpen : Bool
  /-- false for the open-ended track -/
  reserved : Bool
  /-- the session the track belongs to (R458) -/
  session : Nat := 1
  deriving DecidableEq, Repr

/-- What identification learns of a disc (Table 4.7, R453, R459): the medium outside Lorvaus, reported by the sender. -/
structure DiscInfo where
  discId : Dword
  medium : Medium
  layers : Nat
  writeProtected : Bool
  bca : Bool
  finalised : Bool
  capacity : Nat
  /-- write-once media -/
  tracks : List Track
  /-- none on a blank disc -/
  lastRecorded : Option Nat
  /-- ranges of CD-DA sectors (R224) -/
  cdda : List (Nat × Nat)
  /-- DVD opposite track path (R459) -/
  opposite : Bool
  /-- free spare clusters of each layer (R254) -/
  spares : List Nat
  /-- unused test partitions of each layer (R247) -/
  pca : List Nat
  /-- media maker identity (Table 9.2) -/
  mid : Dword
  session : Nat
  /-- the defect list: the first LBA of each replaced unit, and its spare cluster's number in its layer (R254) -/
  defects : List (Nat × Nat) := []
  /-- disc structures by format number, BCA contents and lead-in structures among them, as the disc carries them (R225) -/
  structures : List (Nat × List Byte) := []
  /-- CD-TEXT packs as the disc carries them (R225) -/
  cdText : List Byte := []
  deriving DecidableEq, Repr

/-- The measurement counts of one unit (Table 9.5). -/
structure ScanCounts where
  e1 : Nat := 0
  e2 : Nat := 0
  e3 : Nat := 0
  erased : Nat := 0
  jitter : Nat := 0
  asym : Int := 0
  feRms : Nat := 0
  teRms : Nat := 0
  refl : Nat := 0
  defects : Nat := 0
  deriving DecidableEq, Repr

/-- One channel strobe of the pickup's RF signal: the RF ADC's 10-bit code and, once every 4 strobes, the wobble ADC's (R211), the RF
envelope (R221), whether a sync pattern is found here (R218), and how many channel bits ahead the first sync of a unit that is to be read
lies, with the unit's first LBA; 0 where it passes the spot. -/
structure RfSample where
  code : Int
  wob : Option Int := none
  env : Nat := 0
  sync : Bool := false
  ahead : Option (Nat × Nat) := none
  deriving DecidableEq, Repr

/-- The layers of the formats' codes (Table 8.3). -/
inductive CodeLayer where
  | c1 | c2 | p | q | pi | po | bis | ldc
  deriving DecidableEq, Repr

/-- A codeword of a recording unit: the places of its bytes, counted in the order they are recorded, and the blocks whose bytes it
holds. On CD places count from the first of the two sectors before the unit. -/
structure Codeword where
  layer : CodeLayer
  bytes : List Nat
  blocks : List Nat
  deriving DecidableEq, Repr

/-- A recording unit as the medium gives it to the decoders: its first LBA, the content of each block, whether it is recorded at all; the
RF samples since the channel's last command; the recorded bytes, the places where detection went wrong, the
format's codewords, the blocks whose EDC does not pass after decoding, and on DVD the places of ID and IED bytes that passed. -/
structure UnitSignal where
  first : Nat
  blocks : List (List Byte)
  recorded : Bool
  rf : List RfSample := []
  bytes : List Byte := []
  wrong : List Nat := []
  codewords : List Codeword := []
  edcBad : List Nat := []
  ids : List Nat := []
  deriving DecidableEq, Repr

/-- The address formats of Table 8.5 with, for pressed media and by Table 8.3, the addresses in the data. -/
inductive AddrFormat where
  | atip | adip | lpp | qSub | dvdId | bdUnit
  deriving DecidableEq, Repr

/-- An address as read from the medium: its format, whether its check passes, the LBA, how many tracks outward of it a seek's target lies,
and the measured wobble carrier in Hz where it is one of the wobble. -/
structure AddressRead where
  format : AddrFormat
  checkOk : Bool
  lba : Nat
  tracks : Int
  carrier : Option Nat := none
  deriving DecidableEq, Repr

/-- What Bronze's decoders make of one recording unit (R223): its first LBA, the data of each block in
order, the blocks that failed their check, whether sync was lost, whether the unit was recorded, and the measurements. -/
structure UnitRead where
  first : Nat
  blocks : List (List Byte)
  failed : List Nat
  lostSync : Bool
  recorded : Bool
  /-- the unit's samples, and on CD those of the two sectors before it, are still whole in the ring (R227) -/
  samplesWhole : Bool
  layer : Nat
  scan : ScanCounts
  deriving DecidableEq, Repr

/-- The rotor as found at a start request (R187): its speed, and for one that turns forward the step of Table 7.1 that its back-EMF
calls for. -/
inductive Rotor where
  | stopped
  | forward (rpm step : Nat)
  | backward (rpm : Nat)
  deriving DecidableEq, Repr

/-- The seven Iron bridges of event 0x0760 (R207). -/
inductive Bridge where
  | spindle | sledA | sledB | loader | focus | tracking | tilt
  deriving DecidableEq, Repr

/-- The eight rails, in the order of R332. -/
inductive Rail where
  | vio | vdd1 | vdd2 | vddq | vcore | van | vmot | vpu
  deriving DecidableEq, Repr

/-- A Yelxo-B frame's governor content (R334). -/
inductive FrameValue where
  | slack (s : Nat)
  | overrun
  | none
  deriving DecidableEq, Repr

/-- The four causes of input loss (R340). -/
inductive LossCause where
  | undervoltage | overvoltage | mainsPeak | mainsRms
  deriving DecidableEq, Repr

/-- Die temperatures in 0.1 °C; Nickel is absent in the DC form (R345, Table 13.7). -/
structure DieTemps where
  bronze : Int
  pewter : Int
  iron : Int
  nickel : Option Int
  deriving DecidableEq, Repr

/-- The registers that GOV_WRITE names (Table 13.8). -/
inductive GovReg where
  | ctl | limit
  deriving DecidableEq, Repr

/-- The configuration-space fields that CONFIGURATION_WRITE names (R31, R32). -/
inductive CfgField where
  | numVfs (n : Nat)
  | busMaster (en : Bool)
  | maxReadRequest (bytes : Nat)
  | maxPayload (bytes : Nat)
  /-- the bus, device and function numbers that a configuration write carries for the physical function -/
  | routingId (id : Half)
  | msixEnable (en : Bool)
  | msixFunctionMask (mask : Bool)
  deriving DecidableEq, Repr

/-- Where a REGISTER_WRITE comes from: a fold's own BAR0 with the DW's byte enables (R422), or the I²C sideband (R412). -/
inductive RegPort where
  | bar (fold : FoldId) (offset : Nat) (value : Word) (allBytes : Bool)
  | sideband (target : Nat) (addr : Nat) (value : Byte)
  deriving DecidableEq, Repr

/-- Buffer accounts of Table 10.1. -/
inductive Account where
  | work (f : FoldId)
  | pen (f : FoldId)
  | internal
  deriving DecidableEq, Repr

/-- A converter's two measurements, each at VREF_PU + CAL_REF / 2 and at VREF_PU − CAL_REF / 2: the sums of their 4,096 samples (R415). -/
structure ConvSums where
  plus1 : Int
  minus1 : Int
  plus2 : Int
  minus2 : Int
  deriving DecidableEq, Repr

/-- METER_I's two measurements: the readings with and without the load in µA (R415), and the offsets found in 1/1000 code. -/
structure LoadReads where
  with1 : Int
  without1 : Int
  with2 : Int
  without2 : Int
  o1 : Int
  o2 : Int
  deriving DecidableEq, Repr

/-- Two measurements of one calibration quantity (R415): gains in parts per million, offsets in 1/1000 code. -/
structure CalPair where
  g1 : Int
  g2 : Int
  o1 : Int
  o2 : Int
  deriving DecidableEq, Repr

/-- What CALIBRATE measures (Table 16.8): item 0 for each of 16 channels, item 1 for the RF and wobble ADCs, item 2 in
microvolts (two measurements), items 3 and 4, and for item 5 whether APC settled, with the target and maximum found. -/
structure CalMeas where
  servo : List ConvSums
  rf : List ConvSums
  vref : Int × Int
  meterV : CalPair
  meterI : LoadReads
  apcSettled : Bool
  apcTarget : Nat
  apcMax : Nat
  deriving DecidableEq, Repr

/-- One unit's read-back (R253): whether every EDC passes, and for each codeword its errors, its erasures and its layer's capacity
(Table 8.3). -/
structure Readback where
  edcOk : Bool
  words : List (Nat × Nat × Nat)
  deriving DecidableEq, Repr

/-- One step of a power calibration as read back: the positive and the negative peak of the AC-coupled RF, and the modulation (R246). -/
structure OpcStep where
  a1 : Int
  a2 : Int
  m : Int
  deriving DecidableEq, Repr

/-- The keeper's two oscillators (R386). -/
inductive Osc where
  | crystal | rc
  deriving DecidableEq, Repr

/-- The keeper's two watchdogs (R384). -/
inductive Dog where
  | collie | internal
  deriving DecidableEq, Repr

/-- Which link a packet travels on (R20, R21). -/
inductive Link where
  | yelxoM | yelxoB
  deriving DecidableEq, Repr

/-- The token buckets of R299: a region's, or a fold's vault bucket. -/
inductive Bucket where
  | region (r : Nat)
  | vault (f : FoldId)
  deriving DecidableEq, Repr

/-- Where an uncorrectable error that resets Bronze was found (Table 11.2). -/
inductive ResetSite where
  | sramFirmware (word : Nat)
  | cacheTag (set way : Nat)
  deriving DecidableEq, Repr

/-- What an MRAM read's decode found (R293, R305): bits corrected, or none when uncorrectable. -/
abbrev DecodeBits := Option Nat

/-- The commands of Lorvaus, one constructor for each row of spec/opcode_table.json. `f` is the fold, `k` the descriptor's
in-flight identity in that fold. -/
inductive Instr where
  -- descriptor opcodes (Table 4.6)
  | nop (f : FoldId) (k : Nat)
  | identifyDisc (f : FoldId) (k : Nat) (found : Option DiscInfo)
  | load (f : FoldId) (k : Nat) (found : Option DiscInfo)
  | eject (f : FoldId) (k : Nat)
  | lockMedium (f : FoldId) (k : Nat)
  | unlockMedium (f : FoldId) (k : Nat)
  | spin (f : FoldId) (k : Nat)
  | seekHint (f : FoldId) (k : Nat)
  | read (f : FoldId) (k : Nat)
  | readRaw (f : FoldId) (k : Nat)
  | write (f : FoldId) (k : Nat)
  | verify (f : FoldId) (k : Nat)
  | closeTrack (f : FoldId) (k : Nat)
  | closeSession (f : FoldId) (k : Nat)
  | finalise (f : FoldId) (k : Nat)
  | formatQuick (f : FoldId) (k : Nat)
  | formatFull (f : FoldId) (k : Nat)
  | formatFullCertify (f : FoldId) (k : Nat) (failing : List (Nat × List Readback))
  | reserveTrack (f : FoldId) (k : Nat)
  -- sealing opcodes (Table 4.9)
  | sealedRead (f : FoldId) (k : Nat) (aad aux : List Byte)
  | sealedWrite (f : FoldId) (k : Nat) (aad plain : List Byte)
  | keyLoad (f : FoldId) (k : Nat) (key : List Byte)
  | keyLoadWrapped (f : FoldId) (k : Nat) (wrapped : List Byte)
  | keyClear (f : FoldId) (k : Nat)
  | sealBuffer (f : FoldId) (k : Nat) (aad plain : List Byte)
  | openBuffer (f : FoldId) (k : Nat) (aad aux cipher : List Byte)
  -- vault opcodes (Table 4.10)
  | vaultGet (f : FoldId) (k : Nat) (key : List Byte)
  | vaultPut (f : FoldId) (k : Nat) (key value : List Byte)
  | vaultDelete (f : FoldId) (k : Nat) (key : List Byte)
  | vaultList (f : FoldId) (k : Nat)
  -- measurement and fold-0 opcodes (Table 4.11)
  | scan (f : FoldId) (k : Nat)
  | energyReadSnapshot (f : FoldId) (k : Nat)
  | energyReadRing (f : FoldId) (k : Nat)
  | telemetry (f : FoldId) (k : Nat)
  | timeRead (f : FoldId) (k : Nat)
  | foldSet (k : Nat) (rec : List Byte)
  | grantInvalidate (k : Nat)
  | grantInvalidateAll (k : Nat)
  | loopRate (k : Nat) (payload : List Byte)
  | loopBank (k : Nat) (payload : List Byte)
  | bankSwap (k : Nat) (payload : List Byte)
  | signal (k : Nat) (payload : List Byte)
  | sequence (k : Nat) (payload : List Byte)
  | servoResync (k : Nat) (payload : List Byte)
  | apc (k : Nat) (payload : List Byte)
  | spindle (k : Nat) (payload : List Byte)
  | sled (k : Nat) (payload : List Byte)
  | sledTable (k : Nat) (payload : List Byte)
  | loader (k : Nat) (payload : List Byte)
  | sledTableDefault (k : Nat) (payload : List Byte)
  | channel (k : Nat) (payload : List Byte)
  | secondLook (k : Nat) (payload : List Byte)
  | channelDefault (k : Nat) (payload : List Byte)
  | wstrat (k : Nat) (payload : List Byte)
  | wstratDefault (k : Nat) (payload : List Byte)
  | lds (k : Nat) (payload : List Byte)
  | capture (k : Nat) (payload : List Byte)
  | timeSetStep (k : Nat) (rec : List Byte)
  | timeSetSlew (k : Nat) (rec : List Byte)
  | tariffSet (k : Nat) (rec : List Byte)
  | energyClose (k : Nat)
  | collieArm (k : Nat)
  | collieDisarm (k : Nat)
  | collieServe (k : Nat)
  | modeSetVigil (k : Nat)
  | modeSetDoze (k : Nat)
  | modeSetIdle (k : Nat)
  | modeSetService (k : Nat)
  | calibrate (k : Nat) (meas : CalMeas)
  | fwDownload (k : Nat) (image : List Byte)
  | fwActivateTry (k : Nat)
  | fwActivateConfirm (k : Nat)
  | logRead (k : Nat)
  -- MMC PASS (Table 4.12); `cdb` is the command block read at AAD_PTR
  | testUnitReady (f : FoldId) (k : Nat) (cdb : List Byte)
  | requestSense (f : FoldId) (k : Nat) (cdb : List Byte)
  | formatUnit (f : FoldId) (k : Nat) (cdb params : List Byte)
  | inquiry (f : FoldId) (k : Nat) (cdb : List Byte)
  | startStopUnit (f : FoldId) (k : Nat) (cdb : List Byte)
  | preventAllowMediumRemoval (f : FoldId) (k : Nat) (cdb : List Byte)
  | readFormatCapacities (f : FoldId) (k : Nat) (cdb : List Byte)
  | readCapacity (f : FoldId) (k : Nat) (cdb : List Byte)
  | read10 (f : FoldId) (k : Nat) (cdb : List Byte)
  | read12 (f : FoldId) (k : Nat) (cdb : List Byte)
  | write10 (f : FoldId) (k : Nat) (cdb : List Byte)
  | write12 (f : FoldId) (k : Nat) (cdb : List Byte)
  | verify10 (f : FoldId) (k : Nat) (cdb : List Byte)
  | synchronizeCache (f : FoldId) (k : Nat) (cdb : List Byte)
  | readTocPmaAtip (f : FoldId) (k : Nat) (cdb : List Byte)
  | getConfiguration (f : FoldId) (k : Nat) (cdb : List Byte)
  | getEventStatusNotification (f : FoldId) (k : Nat) (cdb : List Byte)
  | readDiscInformation (f : FoldId) (k : Nat) (cdb : List Byte)
  | readTrackInformation (f : FoldId) (k : Nat) (cdb : List Byte)
  | mmcReserveTrack (f : FoldId) (k : Nat) (cdb : List Byte)
  | modeSense10 (f : FoldId) (k : Nat) (cdb : List Byte)
  | closeTrackSession (f : FoldId) (k : Nat) (cdb : List Byte)
  | readDiscStructure (f : FoldId) (k : Nat) (cdb : List Byte)
  | setCdSpeed (f : FoldId) (k : Nat) (cdb : List Byte)
  | readCd (f : FoldId) (k : Nat) (cdb : List Byte)
  -- doorbell page, rings and the descriptor pipeline
  | doorbellPoll (f : FoldId)
  | pollResult (f : FoldId) (r : ReadResult PollData)
  | sleepEnter (f : FoldId)
  | finalTailRead (f : FoldId) (r : ReadResult PollData)
  | dbpWake (f : FoldId)
  | statusBlockWrite (f : FoldId)
  | headRead (f : FoldId) (m : DringId) (r : ReadResult Word)
  | descriptorFetch
  | descriptorConsume (f : FoldId) (n : RingId) (r : ReadResult (List RawDesc))
  | listRead (f : FoldId) (k : Nat) (r : ReadResult (List RawEntry))
  | grantTableRead (f : FoldId) (k : Nat) (r : ReadResult (List RawGrant))
  | grantReread (f : FoldId) (k : Nat) (r : ReadResult RawGrant)
  | requestGranted
  | descriptorStart (f : FoldId) (k : Nat)
  | droverDispatch
  | mechanismFree
  | descriptorTimeout (f : FoldId) (k : Nat)
  | hostDataRead (f : FoldId) (k : Nat) (r : ReadResult (List Byte))
  | completionPost (f : FoldId) (k : Nat)
  | coalTimeExpiry (f : FoldId) (m : DringId)
  -- ring and doorbell set-up
  | wringEnable (f : FoldId) (n : RingId) (v : Word)
  | wringDisable (f : FoldId) (n : RingId)
  | wringAbort (f : FoldId) (n : RingId)
  | dringEnable (f : FoldId) (m : DringId) (v : Word)
  | dringDisable (f : FoldId) (m : DringId)
  | dringReconfigure (f : FoldId) (m : DringId) (v : Word)
  | dbpEnable (f : FoldId) (v : Word)
  | dbpDisable (f : FoldId)
  -- resets of functions
  | flrFold (f : FoldId)
  | foldResetComplete (f : FoldId)
  | flrFold0
  | perstN
  | vfEnableClear
  | vfEnableSet
  -- register accesses
  | registerWrite (p : RegPort)
  | pwrLinkStatClear (f : FoldId)
  | gntBaseWrite (high : Bool) (v : Word)
  | gntCtlWrite (v : Word)
  | gntStatClear
  | penFlush (v : Word)
  | fqRejectClear
  | fqWaitClear (f : FoldId)
  | fqAuditStart
  | auditDone
  | wayOff (v : Word)
  | wayWalkDone
  | wayOn (v : Word)
  | capDataRead
  | capDrop
  | eccBktStatClear (n : Fin 4)
  | eccCountClear (n : Fin 4)
  | scrubStatClear
  | eccFlipArm (v : Word)
  | mramRawProgram
  | mramRawRead (found : DecodeBits)
  | cphLockTake
  | cphLockRelease
  | cphKatStart
  | cphKatDone (matched : Bool)
  | cphStatClear
  | kprTickLoRead
  | wdgCtlWrite (v : Word)
  | haltAck (v : Word)
  | haltRelease
  | govWrite (r : GovReg) (v : Word)
  | govStatClear
  | pwrStatClear
  -- sideband
  | sbWake (target : Nat) (v : Byte)
  | sbServe (target : Nat) (bytes : List Byte)
  | sbIgnoredClear (target : Nat)
  | sbRead (target pointer len : Nat)
  -- watchdogs
  | collieTokenLatch
  | collieExpiry
  | wdogPulseEnd
  | internalWatchdogServe (token : Word)
  | internalWatchdogExpiry
  | bronzeRestart
  | clockTrip (d : Dog) (stopped : Osc)
  | oscillatorResume (o : Osc)
  | logBlockCommit
  | bootFailsClear
  -- start-up, modes and power
  | keeperPowerUp (fromVin addrSel : Bool)
  | startUp
  | drainComplete
  | park
  | autoDoze
  | pcieRequestWake (f : FoldId)
  | inputLoss (c : LossCause)
  | inputLossRailDown
  | inputReturn
  | mainsStart (rms : Nat)
  | mainsStop
  | regulationLoss
  | regulationRestart
  | railFault (r : Rail)
  | railFaultRestart
  | thermalReading (t : DieTemps)
  | thermalRailDown
  | thermalRestart (t : DieTemps)
  | paceChange
  | governorFrame
  | keeperToBattery
  | keeperToVin
  | vbatMeasure (mv : Nat)
  | keeperLost
  | keeperMirrorCommit
  -- time and the ledger
  | meterUpdate (nWh : Nat) (milliwatts : Nat) (milliHz : Nat)
  | intervalBoundary
  | timeStep
  | slewEnd
  | calendarEnd
  -- servo
  | loopStrobe
  | servoSampleArrival (c : Vector Int 16)
  | loopComputeDone (left period : Nat)
  | overrunLimit
  | defectLong
  | pickupOpen
  | apcLimit
  | puTempOpen
  | puTempClear
  | bankSwapApply
  | focusOn (layer : Nat)
  | trackOn
  | trackOnTimeout
  | trackJump (tracks : Nat) (outward : Bool)
  | jumpTimeout
  | layerJump (layer : Nat)
  | layerJumpTimeout
  -- links
  | servoPacketBad
  | channelPacketBad (bytes : Nat)
  | controlPacketArrival (l : Link) (good : Bool)
  | yelxoBCommandFrame (good : Bool)
  | linkStall (l : Link)
  | loopTickLoss
  -- motion
  | tbLock
  | spindleStart (r : Rotor)
  | forcedStep (crossing : Option Nat)
  | startCoastEnd
  | zeroCrossing (rising : Bool) (t60 : Nat)
  | commutate
  | hallEdge (code : BitVec 3) (t60 : Nat)
  | hallInvalid (code : BitVec 3)
  | spinStall
  | bridgeOc (b : Bridge)
  | spinCeilingSet
  | spinCeilingClear
  | spindleStopped
  | sledUpdate
  | sledSeek (lba : Nat)
  | seekSettleEnd
  | sledRecover (addr : Option Nat)
  | sledHome
  | homeNChange (asserted : Bool)
  | trayInNChange (asserted : Bool) (found : Option DiscInfo)
  | trayOutNChange (asserted : Bool)
  | ejectButton
  | loaderJam
  | solenoidPulseEnd
  | solenoidTimeout
  -- read channel
  | acquisitionLock (rf : List RfSample)
  | slip (rf : List RfSample)
  | lossOfLock (rf : List RfSample)
  | relockTimeout (rf : List RfSample)
  | defectFlagSet (rf : List RfSample)
  | defectFlagClear (rf : List RfSample)
  | addressAccept (a : AddressRead)
  | unitDecode (u : UnitSignal)
  | secondLookPassEnd (u : UnitSignal)
  | physicalReread (u : UnitSignal)
  | readAhead
  | speculativeSeek
  | penCopyExpire (f : FoldId)
  -- recording
  | opc (first again : List OpcStep)
  | unitRecorded (levels : List Int)
  | underrun
  | readbackDone (r : List (List Readback))
  | ldsTransaction (addr : BitVec 7) (value back : Half)
  | captureTrigger
  | capturePacket
  -- pool
  | alloc (requester : Nat) (acct : Account)
  | share (requester index : Nat)
  | drop (requester index : Nat)
  | free (requester index : Nat)
  | pass (requester index new : Nat)
  | stackRefill
  | stackSpill
  -- integrity
  | scrubBurst (flips : List (Nat × BitVec 64 × BitVec 8))
  | bucketLeak (n : Fin 4)
  | mramScrubRead (found : List (Nat × DecodeBits))
  | mramPageProgram (back : DecodeBits)
  -- sealing engine
  | lockGrant
  | tagVerify
  | lockRelease
  | cipherParityFault
  | nonceReservation (slot : Fin 17)
  -- the rest of the table
  | configurationWrite (f : FoldId) (c : CfgField)
  | x32CrystalStart
  | tokenBucketRefill (b : Bucket)
  | memoryResetRequest (site : ResetSite)
  deriving DecidableEq, Repr

end Sys2Proof
end

