-- ==== Sys2Proof/Decode.lean ====
section
/-! DEFINITION. Decode.lean: the commands that words spell by the opcode table's bits. Lorvaus is a block and its table gives
no row any bits, so no word spells a command; descriptors are decoded by Machine/Operands.lean, from Tables 4.1 and 4.6 to
4.12. -/
namespace Sys2Proof

/-- The command that a word spells: none, since no row of the table gives bits. -/
def decodeTableWord (_nbits _w : Nat) : Option Instr := none

end Sys2Proof
end

