-- ==== Sys2Proof/Config.lean ====
section
/-! DEFINITION. Config.lean: what an implementation fixes and the free values. Every `opaque` below has no body: nothing
in Lean can evaluate it, and a statement proved of the model holds whatever it is. The spec leaves each of these values
open; the assumption log says so entry by entry. -/
namespace Sys2Proof.Config

/-- Bronze's random source (R310, R377, R384): the n-th word drawn. -/
opaque randomWord : Nat → BitVec 32
/-- A field of a built-in loop bank (R164): rate, loop, medium class, layer, field number; a Q2.21 code. -/
opaque builtinBank : Nat → Nat → Nat → Nat → Nat → Int
/-- A field of a built-in write-strategy table (R245): medium code, layer, class, field number. -/
opaque builtinStrategy : Nat → Nat → Nat → Nat → Nat
/-- The radius in µm of a block of a layer, from the disc's address layout (R190, R459): medium code, layers, and the block's number
counted from the layer's inner edge. -/
opaque radius : Nat → Nat → Nat → Nat
/-- Whether the spindle bridge runs at a PWM duty of 100 % (R191): measured rpm and the current asked for in mA. -/
opaque dutyFull : Nat → Nat → Bool
/-- The APC_TARGET and APC_MAX of the pickup's calibration at manufacture (Table 6.10). -/
opaque factoryApc : Nat × Nat
/-- The wafer-test trim of a converter: gain in parts per million and offset in 1/1000 code; the 16 servo channels, then the RF and the
wobble ADC (R417). -/
opaque factoryTrim : Nat → Int × Int
/-- Whether a firmware image's signature verifies against the boot ROM key (R398): header bytes 0x00-0xBF, the signature
and the body. -/
opaque signatureOk : List (BitVec 8) → List (BitVec 8) → List (BitVec 8) → Bool
/-- The factory image of a slot: whether it is valid, its SVN and VERSION (R398, R399). -/
opaque factoryImage : Nat → Bool × Nat × BitVec 32
/-- Content of data a standard defines and the manual does not restate, returned through MMC PASS (R121): the operation
code, a counter that advances with every use, and the byte's offset. -/
opaque mmcByte : Nat → Nat → Nat → BitVec 8
/-- How many bytes such a reply has before it is cut to the allocation length. -/
opaque mmcLength : Nat → Nat → Nat
/-- How many blocks the format places between tracks or sessions for links or structures, none of them user blocks
(R457, R458): medium code, whether a session structure lies between, and the last block before them. -/
opaque afterLink : Nat → Bool → Nat → Nat
/-- The content of an MRAM page that no rule of the manual lays out, as a raw read shows it (R305). -/
opaque mramPageByte : Nat → Nat → Nat → BitVec 8
/-- The TYPE of a record whose owner's chapter gives none (Table 11.5): region and RECORD_ID. -/
opaque recordType : Nat → Nat → Nat
/-- A byte of a record's pages that no rule lays out: a payload without a layout, or what follows the payload: region, RECORD_ID, SEQ and
the byte's offset in the record (Table 11.5; log entry 29). -/
opaque recordByte : Nat → Nat → Nat → Nat → BitVec 8
/-- A check byte of the BCH code over a page: the 269 bytes that the codeword covers, t, and the byte's offset (Table 11.3; log entry
29). -/
opaque pageCheck : List (BitVec 8) → Nat → Nat → BitVec 8
/-- The part's 256-bit root key, fixed at wafer test (R308). -/
opaque rootKey : List (BitVec 8)
/-- What a register bit that the manual leaves undefined reads, and any other single value it leaves open: a key naming
the point, and the model's counter. -/
opaque openWord : Nat → Nat → BitVec 32
/-- A byte as channel levels (R229): medium index, the modulation state that enters it, the byte; its levels, and the state that leaves it.
State 0 is the one after a sync pattern. -/
opaque modulate : Nat → Nat → Nat → List Bool × Nat
/-- The channel levels of a medium's sync pattern (R229). -/
opaque syncBits : Nat → List Bool
/-- The marks of a recording unit as its format encodes it (R243): MEDIUM code, first LBA and the unit's data; in order, the space before
each mark and the mark's length, in channel bits. -/
opaque marks : Nat → Nat → List (BitVec 8) → List (Nat × Nat)
/-- The result of a division by 0 that a rule asks for and does not state (R153, R246): the dividend (log entry 119). -/
opaque quotientByZero : Int → Int
/-- A field of a SCAN record for a unit that gave the circuit nothing to measure: the field's offset and the unit's first block (Table 9.5;
log entry 118). -/
opaque unmeasured : Nat → Nat → Nat
/-- The reference level of a transition under a TARGET whose levels are all 0, which cannot be scaled (R216; log entry 114). -/
opaque unscaledLevel : Nat → Int
/-- The bits of the data that a correction delivers wrong from a word with three or more wrong bits, an odd number (R286; log entry 120). -/
opaque miscorrected : BitVec 64 → BitVec 8 → BitVec 64
/-- The vault key, derived from the part's root key, which no interface reads (R308, R327). -/
opaque vaultKey : List (BitVec 8)
/-- Whether a word with four or more wrong bits, an even number, shows a zero syndrome (R286; log entry 120). -/
opaque escapes : BitVec 64 → BitVec 8 → Bool
/-- What the firmware working copy keeps in a line: 0 code or a constant table, 1 an index of a stream or of the pen, any other number a
loaded profile, by its place among the assigned types (Table 10.8; log entry 121). -/
opaque tableUse : Nat → Nat
/-- The slot of SRAM descriptor staging, of the short lists and of the list store that a descriptor uses (Tables 10.8 and 10.9; log
entry 121). -/
opaque slotOf : Nat → Nat → Nat

end Sys2Proof.Config
end

