-- ==== Sys2Proof/Machine/Bits.lean ====
section
/-! DEFINITION. Machine/Bits.lean: bit fields, little-endian bytes, saturation and small list helpers (R8). -/
namespace Sys2Proof.Machine

/-- Bits [hi:lo] of a word, as a number (R8). -/
def bits {n : Nat} (w : BitVec n) (hi lo : Nat) : Nat := w.toNat / 2 ^ lo % 2 ^ (hi - lo + 1)

/-- Bit i of a word (R8). -/
def bit {n : Nat} (w : BitVec n) (i : Nat) : Bool := w.getLsbD i

/-- A bit as a number. -/
def b2n (b : Bool) : Nat := if b then 1 else 0

/-- A number as a 32-bit word, reduced modulo 2³². -/
def w32 (n : Nat) : Word := BitVec.ofNat 32 n

/-- The byte at offset i of a payload, 0 beyond its end. -/
def byteAt (l : List Byte) (i : Nat) : Nat := (l.getD i 0).toNat

/-- The little-endian 16-bit field at offset i (R8). -/
def le16 (l : List Byte) (i : Nat) : Nat := byteAt l i + 256 * byteAt l (i + 1)

/-- The little-endian 32-bit field at offset i (R8). -/
def le32 (l : List Byte) (i : Nat) : Nat := le16 l i + 65536 * le16 l (i + 2)

/-- The little-endian 64-bit field at offset i (R8). -/
def le64 (l : List Byte) (i : Nat) : Nat := le32 l i + 2 ^ 32 * le32 l (i + 4)

/-- The big-endian 16-bit field at offset i, as SCSI command blocks hold it. -/
def be16 (l : List Byte) (i : Nat) : Nat := 256 * byteAt l i + byteAt l (i + 1)

/-- The big-endian 32-bit field at offset i, as SCSI command blocks hold it. -/
def be32 (l : List Byte) (i : Nat) : Nat := 65536 * be16 l i + be16 l (i + 2)

/-- n as k little-endian bytes (R8). -/
def leBytes : Nat → Nat → List Byte
  | 0, _ => []
  | k + 1, n => BitVec.ofNat 8 n :: leBytes k (n / 256)

/-- n as k big-endian bytes. -/
def beBytes (k n : Nat) : List Byte := (leBytes k n).reverse

/-- k zero bytes. -/
def zeros (k : Nat) : List Byte := List.replicate k 0

/-- Exactly k bytes: the payload cut or zero-padded. -/
def fit (k : Nat) (l : List Byte) : List Byte := l.take k ++ zeros (k - l.length)

/-- A 16-bit two's complement field as an integer. -/
def int16 (n : Nat) : Int := if n % 65536 < 32768 then (n % 65536 : Nat) else (n % 65536 : Nat) - 65536

/-- A 32-bit two's complement field as an integer. -/
def int32 (n : Nat) : Int := if n % 2 ^ 32 < 2 ^ 31 then (n % 2 ^ 32 : Nat) else (n % 2 ^ 32 : Nat) - 2 ^ 32

/-- An integer as an unsigned two's complement number of k bits. -/
def toBits (k : Nat) (i : Int) : Nat := (i % (2 ^ k : Nat)).toNat

/-- n, saturating at the largest k-bit number. -/
def sat (k n : Nat) : Nat := min n (2 ^ k - 1)

/-- i, saturating between lo and hi. -/
def clampI (lo hi i : Int) : Int := if i < lo then lo else if hi < i then hi else i

/-- n, moved to the nearer limit of lo and hi. -/
def clampN (lo hi n : Nat) : Nat := if n < lo then lo else if hi < n then hi else n

/-- Ceiling division. -/
def ceilDiv (a b : Nat) : Nat := (a + b - 1) / b

/-- Integer division rounding to nearest, halves away from zero. -/
def roundDiv (a : Int) (b : Nat) : Int :=
  if 0 ≤ a then (((2 * a).toNat + b) / (2 * b) : Nat) else -((((2 * -a).toNat + b) / (2 * b) : Nat) : Int)

/-- A division to the nearest by a divisor of either sign; free where the divisor is 0 (log entry 119). -/
def signedDiv (a b : Int) : Int :=
  if 0 < b then roundDiv a b.toNat else if b < 0 then roundDiv (-a) (-b).toNat else Config.quotientByZero a

/-- The integer square root by bisection on k bits. -/
def isqrtGo : Nat → Nat → Nat → Nat
  | 0, _, r => r
  | k + 1, n, r => let c := r + 2 ^ k; if c * c ≤ n then isqrtGo k n c else isqrtGo k n r

/-- The integer square root of a number below 2¹²⁸. -/
def isqrt (n : Nat) : Nat := isqrtGo 64 n 0

/-- Rotate a 32-bit word left. -/
def rotl32 (w : Word) (n : Nat) : Word := w.rotateLeft (n % 32)

/-- Put a pair into a list of key and value kept with keys rising; a key that is there is replaced. -/
def putKey {α : Type} (k : Nat) (a : α) : List (Nat × α) → List (Nat × α)
  | [] => [(k, a)]
  | (j, b) :: r => if k < j then (k, a) :: (j, b) :: r else if k = j then (k, a) :: r else (j, b) :: putKey k a r

/-- The value of a key. -/
def getKey {α : Type} (k : Nat) (l : List (Nat × α)) : Option α := (l.find? fun p => p.1 == k).map (·.2)

/-- The list without a key. -/
def delKey {α : Type} (k : Nat) (l : List (Nat × α)) : List (Nat × α) := l.filter fun p => p.1 != k

/-- Every element less those equal to one given. -/
def without (n : Nat) (l : List Nat) : List Nat := l.filter fun m => m != n

/-- Replace the first element that passes a test. -/
def updFirst {α : Type} (p : α → Bool) (g : α → α) : List α → List α
  | [] => []
  | a :: r => if p a then g a :: r else a :: updFirst p g r

/-- Insert before the first element that the new one goes before: a stable insertion by `lt`. -/
def insertBy {α : Type} (lt : α → α → Bool) (a : α) : List α → List α
  | [] => [a]
  | b :: r => if lt a b then a :: b :: r else b :: insertBy lt a r

/-- A stable insertion sort. -/
def sortBy {α : Type} (lt : α → α → Bool) (l : List α) : List α := l.foldr (insertBy fun a b => !lt b a) []

/-- Bytes compared one by one, the shorter first where one runs out (R118). -/
def bytesLt : List Byte → List Byte → Bool
  | [], [] => false
  | [], _ :: _ => true
  | _ :: _, [] => false
  | a :: r, b :: t => if a = b then bytesLt r t else a.toNat < b.toNat

/-- The sum of a list of numbers. -/
def sumOf {α : Type} (g : α → Nat) (l : List α) : Nat := l.foldl (fun a x => a + g x) 0

end Sys2Proof.Machine
end

