-- ==== Sys2Proof/Machine/State.lean ====
section
/-! DEFINITION. Machine/State.lean: every piece of state the manual gives Lorvaus, as plain data. The default value of a
field is its value in `State.reset`, the machine at READY after a first start with no disc (log entry 1). Each structure
names its chapter; INVENTORY.md lists every field with its rule and reset value. -/
namespace Sys2Proof.Machine

/-! ### Chapters 2 to 4: folds, rings, descriptors -/

/-- A fold record (Table 2.2), its FOLD byte aside. -/
structure FoldRec where
  flock : Nat
  weight : Nat
  level : Nat
  bufMin : Nat
  bufMax : Nat
  penQuota : Nat
  wayMask : BitVec 16
  vaultQuota : Nat
  maxBlocks : Nat
  defTimeout : Nat
  deriving DecidableEq, Repr

/-- The status codes of Table 4.5. -/
inductive Status where
  | ok | okRecovered | okRepeated
  | badOpcode | badField | badCount | lenShort | dupInflight | badList
  | noGrant | overQuota | mediumLocked | notPlatform
  | noDisc | discChanged | unreadable | writeFailed | servoFault | blank | outOfRange
  | cipherFault | authFailed | keySpent | noKey
  | thermalStop | powerLost | memoryFault
  | aborted | timedOut | serviceMode | badDate
  deriving DecidableEq, Repr

/-- The native operation of a descriptor, by opcode (Tables 4.6, 4.9, 4.10, 4.11, and MMC PASS). -/
inductive Op where
  | nop | identifyDisc | loadEject | lockMedium | spin | seekHint
  | read | readRaw | write | verify | close | format | reserveTrack
  | sealedRead | sealedWrite | keyLoad | keyClear | sealBuffer | openBuffer
  | vaultGet | vaultPut | vaultDelete | vaultList
  | scan | energyRead | telemetry | timeRead
  | foldSet | grantInvalidate | profileLoad | timeSet | tariffSet | energyClose
  | collieArm | collieServe | modeSet | calibrate | fwDownload | fwActivate | logRead
  | mmcPass
  /-- a command block executed under READ with disc scope (Table 4.12) -/
  | mmcReply
  deriving DecidableEq, Repr

/-- The fields of a descriptor (Table 4.1). -/
structure Fields where
  opcode : Nat
  dupchk : Bool
  irq : Bool
  fence : Bool
  specok : Bool
  sealedFlag : Bool
  reserved : Nat
  tag : Half
  stream : Nat
  keySlot : Nat
  timeout : Nat
  address : Nat
  count : Nat
  opfield : BitVec 16
  length : Nat
  listPtr : Nat
  aadPtr : Nat
  aadLen : Nat
  auxPtr : Nat
  opdata : BitVec 64
  deriving DecidableEq, Repr

/-- A completion less its phase bit, which its done ring slot decides (Table 4.4). -/
structure Completion where
  tag : Half
  status : Nat
  head : Half
  ring : Nat
  dup : Bool
  bytes : Word
  mechTime : Half
  queueWait : Half
  deriving DecidableEq, Repr

/-- An entry of the grant table that passed, as the grant cache and a descriptor keep it (R42, R45). -/
structure Grant where
  index : Nat
  fold : Nat
  rights : BitVec 8
  startLba : Nat
  endLba : Nat
  discId : Dword
  deriving DecidableEq, Repr

/-- A grant cache entry: the entry, the instant it was read and the instant it was last used (R45). -/
structure CachedGrant where
  grant : Grant
  readAt : Nat
  usedAt : Nat
  deriving DecidableEq, Repr

/-- How far a consumed descriptor has come. -/
inductive Stage where
  /-- consumed; its scatter list is being read (R101) -/
  | list
  /-- consumed; the key of a VAULT GET is being read for check 7 of Table 4.3 (R103, R104) -/
  | vaultKey
  /-- accepted; the grant table is being read from an index (R45), with the reads made of a torn entry (R41) -/
  | grant (index reads : Nat)
  /-- past step 5; its working set waits (R265) -/
  | buffers
  /-- ready to be started or dispatched -/
  | ready
  /-- started or dispatched; waiting for CPH_LOCK (R317) -/
  | lock
  /-- started, or on the mechanism -/
  | running
  /-- started; waiting for work to drain (R405, R406) -/
  | draining
  /-- started; waiting for an MRAM commit (R295) -/
  | commit
  /-- started; waiting for a keeper tick, an interval boundary or a swap -/
  | waiting
  /-- ended; its completion has not been posted -/
  | done
  /-- its completion is held in a full done ring (R75) -/
  | held
  deriving DecidableEq, Repr

/-- A block of user data. -/
abbrev Block := List Byte

/-- A pen copy's block pinned to a descriptor (R129). -/
structure Pin where
  buf : Nat
  lba : Nat
  data : Block
  recovered : Bool
  deriving DecidableEq, Repr

/-- A consumed descriptor that is not yet completed. -/
structure Desc where
  k : Nat
  ring : RingId
  idx : Word
  op : Op
  fld : Fields
  /-- a command block of MMC PASS, once firmware has read it (R121) -/
  mmc : Bool := false
  stage : Stage
  list : List (Nat × Nat) := []
  acceptedAt : Nat := 0
  deadline : Nat := 0
  startedAt : Option Nat := none
  queueWait : Nat := 0
  mechUs : Nat := 0
  /-- the disc's identity at acceptance, and how often a disc had been removed by then (R110) -/
  discId : Option Dword := none
  removals : Nat := 0
  /-- when the torn data of a grant entry arrived (R41) -/
  tornAt : Nat := 0
  grant : Option Grant := none
  want : Nat := 0
  aside : List Nat := []
  bufs : List Nat := []
  waitedSince : Option Nat := none
  pins : List Pin := []
  /-- it has passed step 5 of R44 -/
  past5 : Bool := false
  /-- data for host memory, each with its address, in order (R76) -/
  writes : List (Nat × List Byte) := []
  aux : List Byte := []
  status : Status := .ok
  bytes : Nat := 0
  failLba : Option Nat := none
  /-- the counter value a sealing descriptor took (R314) -/
  counter : Option Nat := none
  /-- nonce and tag for AUX (R117) -/
  nonceOut : List Byte := []
  /-- a fold record that takes effect when the completion is posted (R37) -/
  applies : Option (FoldId × FoldRec) := none
  deriving DecidableEq, Repr

/-- A tag of the last 64 consumed, and its completion once posted (R84). -/
structure Hist where
  tag : Half
  idx : Word
  comp : Option Completion
  k : Nat
  deriving DecidableEq, Repr

/-- A work ring and its registers (Table 3.6). -/
structure Wring where
  baseLo : Word := 0
  baseHi : Word := 0
  en : Bool := false
  dring : DringId := 0
  log2 : Nat := 0
  err : Nat := 0
  /-- the absolute index consumed to -/
  cons : Word := 0
  /-- the tail as last read -/
  tail : Word := 0
  /-- a descriptor fetch read is outstanding (R78) -/
  fetching : Bool := false
  /-- the outstanding read was issued before the ring was last disabled: its data is dropped (R78, R89) -/
  stale : Bool := false
  hist : List Hist := []
  deriving DecidableEq, Repr

/-- What waits for, or goes into, a done ring slot: a completion or an event. -/
inductive Item where
  | comp (k : Nat) (c : Completion) (irq : Bool)
  | event (code : Nat) (dw2 dw3 : Word)
  deriving DecidableEq, Repr

/-- A done ring and its registers (Table 3.6). -/
structure Dring where
  baseLo : Word := 0
  baseHi : Word := 0
  en : Bool := false
  vec : Fin 8 := 0
  log2 : Nat := 0
  coalCount : Nat := 0
  coalTime : Nat := 0
  err : Nat := 0
  posted : Word := 0
  head : Word := 0
  held : List Item := []
  /-- completions pending for the vector, and when the oldest was written (R77) -/
  pend : Nat := 0
  oldest : Option Nat := none
  /-- events discarded since the queue filled (R93) -/
  lostEvents : Nat := 0
  deriving DecidableEq, Repr

/-- The doorbell page's registers and polling state (R69 to R73, Table 3.6). -/
structure Doorbell where
  baseLo : Word := 0
  baseHi : Word := 0
  en : Bool := false
  sleepAfter : Nat := 256
  sleeping : Bool := false
  /-- polling has stopped after the final tail read (R70) -/
  stopped : Bool := true
  pollFault : Bool := false
  wakes : Nat := 0
  sleepSeq : Half := 0
  interval : Nat := 1
  issuedAt : Nat := 0
  /-- a read of the page is outstanding (R69) -/
  polling : Bool := false
  finalRead : Bool := false
  /-- the outstanding read belongs to polling that has stopped since: its data is dropped (R69, R88, R90) -/
  stale : Bool := false
  newTailAt : Nat := 0
  /-- a WAKE asks for a poll at once (R71) -/
  pollNow : Bool := false
  /-- CONSUMED or POSTED changed since the last status block (R67) -/
  dirty : Bool := false
  blockAt : Nat := 0
  deriving DecidableEq, Repr

/-- A stream record (R131). A fold keeps its records in the order of their last use, the least recent first. -/
structure Stream where
  label : Nat
  next : Nat
  limit : Nat
  seq : Bool
  deriving DecidableEq, Repr

/-- One MSI-X table entry (R33). -/
structure MsixEntry where
  addrLo : Word := 0
  addrHi : Word := 0
  data : Word := 0
  control : Word := 1
  pending : Bool := false
  deriving DecidableEq, Repr

/-- The sense a fold's previous MMC PASS left (R121, R122). -/
structure Sense where
  key : Nat := 0
  asc : Nat := 0
  ascq : Nat := 0
  info : Option Nat := none
  deriving DecidableEq, Repr

/-- One fold (chapters 2 to 5). -/
structure Fold where
  record : FoldRec
  wrings : Vector Wring 4 := Vector.replicate 4 {}
  drings : Vector Dring 2 := Vector.replicate 2 {}
  dbp : Doorbell := {}
  descs : List Desc := []
  nextK : Nat := 0
  /-- the work ring served last in the fold's round robin of fetches (R78) -/
  rrRing : RingId := 3
  ownHits : Nat := 0
  flockHits : Nat := 0
  waits : Nat := 0
  longest : Nat := 0
  deficit : Int := 0
  /-- the speed class SPIN asked for (R114) -/
  class_ : Option Nat := none
  locked : Bool := false
  sense : Sense := {}
  streams : List Stream := []
  msix : Vector MsixEntry 8 := Vector.replicate 8 {}
  msixEnable : Bool := false
  msixMask : Bool := false
  busMaster : Bool := false
  maxReadRequest : Nat := 512
  /-- the programmed Max Payload Size in bytes (Table 2.1) -/
  maxPayload : Nat := 128
  /-- AER has reported an error of one of the fold's requests (R41, R250) -/
  aer : Bool := false
  /-- a function level reset is in progress (R55): the aborted count, and whether FOLD_RESET reports it (R32, R57) -/
  resetting : Option (Nat × Bool) := none
  deriving DecidableEq, Repr

/-! ### Chapters 5 and 10: pen, pool, cache, capture -/

/-- A pen copy: a pool buffer holding blocks 2p and 2p + 1 of the disc (chapter 5, "The pen"). -/
structure PenCopy where
  owner : FoldId
  buf : Nat
  blocks : List (Nat × Block)
  placedAt : Nat
  hold : Nat
  recovered : Bool
  /-- removed from lookup but still pinned (R137) -/
  removed : Bool := false
  deriving DecidableEq, Repr

/-- A held buffer's record (chapter 10, "Shared buffers and the last owner"). -/
structure Buf where
  acct : Account
  holds : Nat
  last : Nat
  deriving DecidableEq, Repr

/-- The buffer pool and its free store (R262 to R274). -/
structure Pool where
  /-- held buffers by index, rising -/
  bufs : List (Nat × Buf) := []
  /-- the on-chip stack, top first -/
  stack : List Nat := []
  /-- the free-store ring, oldest first, as runs (first index, count) -/
  ring : List (Nat × Nat) := [(0, 22528)]
  /-- the place of the ring's oldest entry (R271) -/
  head : Nat := 0
  /-- buffers set aside for waiting requests (R265) -/
  aside : List (Nat × Account) := []
  /-- buffers out of use (R274, Table 11.2) whose record is lost -/
  outOfUse : List Nat := []
  /-- buffers out of use whose ring entry was lost; an audit recovers these -/
  lostEntries : List Nat := []
  rejects : Nat := 0
  lost : Nat := 0
  lastCause : Nat := 0
  rejectAt : Option Nat := none
  auditing : Bool := false
  /-- waiting requests, oldest first (R265) -/
  queue : List (FoldId × Nat) := []
  deriving DecidableEq, Repr

/-- The bits of a stored 8-byte word that differ from what was last written there: of its data, and of its check byte (R286). -/
abbrev Flip := BitVec 64 × BitVec 8

/-- A cache line: its internal line number, its way, whether it is dirty, when it was last used, and its wrong bits by word
(chapter 10, "The system cache"). -/
structure CacheLine where
  line : Nat
  way : Nat
  dirty : Bool := false
  used : Nat := 0
  words : List (Nat × Flip) := []
  deriving DecidableEq, Repr

/-- The system cache (R275 to R279): its ways, and the valid lines. -/
structure Cache where
  lines : List CacheLine := []
  /-- counts accesses, for the age order; the SDRAM bursts of the last access that needed any, in order: a line written (true) or read
  (R275, R276) -/
  clock : Nat := 0
  bus : List (Bool × Nat) := []
  powered : BitVec 16 := 0xFFFF
  /-- ways still to be walked, in ascending order; the head is being walked -/
  walks : List Nat := []
  /-- WAY_ON for a way being walked (R279) -/
  onAfter : BitVec 16 := 0
  writebacks : Nat := 0
  /-- WAY_PWR before DOZE (R279) -/
  saved : BitVec 16 := 0xFFFF
  deriving DecidableEq, Repr

/-- The CAPTURE profile and the capture FIFO (R260, R280 to R283). -/
structure Capture where
  source : Nat := 0
  trigger : Nat := 0
  decimate : Nat := 1
  running : Bool := false
  first : Bool := false
  /-- readable packets, oldest first; the head may be partly read -/
  packets : List (List Word) := []
  formed : Nat := 0
  lost : Nat := 0
  strobes : Nat := 0
  /-- samples or decisions kept for the next packet, the sources' count for DECIMATE, and the strobe of the last packet of a loop
  source (R260, R280) -/
  taken : List Int := []
  passed : Nat := 0
  lastStrobe : Nat := 0
  deriving DecidableEq, Repr

/-! ### Chapter 11: integrity and MRAM -/

/-- The four leaky buckets with their registers (R289, Table 11.7). -/
structure EccBucket where
  cfg : Word := 0x03E80010
  level : Nat := 0
  overflows : Nat := 0
  corrected : Nat := 0
  uncorrected : Nat := 0
  leakTick : Nat := 0
  deriving DecidableEq, Repr

/-- Error-correction, scrubber and raw-test registers (Table 11.7). -/
structure Ecc where
  /-- wrong bits of SDRAM words, by word number; words whose right code holds wrong data (R286, R288; log
  entry 120) -/
  sdram : List (Nat × Flip) := []
  wrong : List (Nat × BitVec 64) := []
  buckets : Vector EccBucket 4 := Vector.replicate 4 {}
  flipTarget : Word := 0
  flipAddr : Word := 0
  flipDataLo : Word := 0
  flipDataHi : Word := 0
  flipCheck : Word := 0
  flipDone : Bool := false
  scrubCtl : Word := 0x1818
  passes : Nat := 0
  poisoned : Nat := 0
  /-- next SDRAM line, and the pass's start -/
  scrubPos : Nat := 0
  passAt : Nat := 0
  mramPos : Nat := 0
  /-- when the MRAM scrubber's last read was due, in µs (R293) -/
  mramAt : Nat := 0
  strength : Word := 0xAAAA
  vrate : Word := 0x40
  refreshed : Nat := 0
  retired : Nat := 0
  rawPage : Word := 0
  rawData : Vector Word 64 := Vector.replicate 64 0
  rawSpare : Vector Word 8 := Vector.replicate 8 0
  rawBusy : Bool := false
  rawRefused : Bool := false
  rawCorrected : Nat := 0
  rawUncorrectable : Bool := false
  /-- MRAM_WEAR: the highest WEAR at the last start (Table 17.3) -/
  wearAtStart : Nat := 0
  deriving DecidableEq, Repr

/-- A key slot or the vault counter as its MRAM record keeps it (Table 12.1). -/
structure SlotRecord where
  slot : Nat
  aes256 : Bool
  guarded : Bool
  salt : Word
  reservedTo : Nat
  useLimit : Nat
  key : List Byte
  deriving DecidableEq, Repr

/-- A tariff schedule (Table 14.4): entries are (minute of day, band). -/
structure Tariff where
  interval : Nat := 15
  weekdayMask : BitVec 7 := 0
  a : List (Nat × Nat) := [(0, 0)]
  b : List (Nat × Nat) := [(0, 0)]
  deriving DecidableEq, Repr

/-- An interval ring entry (Table 14.5). -/
structure Interval where
  start : Nat
  lengthS : Nat
  band : Nat
  shortTimeSet : Bool := false
  crossedInOutage : Bool := false
  powerFail : Bool := false
  noTime : Bool := false
  slewed : Bool := false
  powerReturn : Bool := false
  energy : Nat := 0
  deriving DecidableEq, Repr

/-- The energy ledger (Table 14.6), in nWh where it accumulates (R364). -/
structure Ledger where
  energy : Vector Nat 4 := Vector.replicate 4 0
  maxDemand : Vector (Nat × Nat) 4 := Vector.replicate 4 (0, 0)
  period : Nat := 0
  periodStart : Nat := 0
  losses : Nat := 0
  steps : Nat := 0
  openEnergy : Nat := 0
  openI : Interval := { start := 0, lengthS := 0, band := 0, noTime := true }
  ring : List Interval := []
  pNow : Nat := 0
  deriving DecidableEq, Repr

/-- An event log entry (Table 15.6). -/
structure LogEntry where
  tick : Nat
  code : Nat
  detail : Word
  cal : Nat
  flags : Nat
  fold : Nat
  extra : Nat
  seq : Nat
  deriving DecidableEq, Repr

/-- Retained evidence (Table 15.4). -/
structure Evidence where
  expiries : Nat := 0
  intResets : Nat := 0
  clkTrips : Nat := 0
  lastCause : Nat := 1
  lastTick : Nat := 0
  deriving DecidableEq, Repr

/-- The boot record (R399). `trial` is none, slot 0 (A) or slot 1 (B). -/
structure BootRecord where
  active : Nat := 0
  trial : Option Nat := none
  validA : Bool := true
  validB : Bool := true
  deriving DecidableEq, Repr

/-- A calibration record (R416): for each item its kept values (gain in ppm, offset in 1/1000 code), none when not
calibrated. -/
structure CalRecord where
  items : List (Option (List (Int × Int))) := [none, none, none, none, none, none]
  deriving DecidableEq, Repr

/-- What a journalled record holds. -/
inductive Payload where
  | vault (fold : FoldId) (key value : List Byte)
  | slot (r : SlotRecord)
  | ledger (l : Ledger) (t : Tariff)
  | schedule (t : Tariff)
  | powerFail (tick cal : Nat) (l : Ledger)
  | log (entries : List LogEntry)
  | mirror (tickMark : Nat) (e : Evidence)
  | boot (b : BootRecord)
  | calibration (c : CalRecord)
  deriving DecidableEq, Repr

/-- How a vault record is sealed: its nonce, its ciphertext and its tag (R327). -/
structure Sealed where
  nonce : List Byte
  cipher : List Byte
  tag : List Byte
  deriving DecidableEq, Repr

/-- A committed record of an MRAM region (Table 11.5, R295). -/
structure Rec where
  region : Nat
  id : Nat
  seq : Nat
  payload : Payload
  /-- header page first -/
  pages : List Nat
  strength : Nat
  /-- R297: it has an uncorrectable page or fails CHECK -/
  unreadable : Bool := false
  sealing : Option Sealed := none
  deriving DecidableEq, Repr

/-- What happens when a record's header has been programmed. -/
inductive OnCommit where
  | nothing
  | vaultPut (f : FoldId) (k : Nat)
  | vaultDelete (f : FoldId) (k : Nat)
  | keyLoad (f : FoldId) (k slot : Nat)
  | keyClear (f : FoldId) (k slot : Nat)
  | slotDeleted (slot : Nat)
  | reserve (slot : Nat)
  | tariff (k : Nat)
  | logBlock
  | calibrate (k : Nat)
  /-- a slot's VALID bit cleared, and the pages to program then (R402) -/
  | bootDownload (k off : Nat) (image : List Byte)
  | bootTry (k : Nat)
  | bootConfirm (k : Nat)
  deriving DecidableEq, Repr

/-- The priority classes of R298, first to last (the record in progress aside). -/
inductive Prio where
  | inputLoss | mirror | other | refresh
  deriving DecidableEq, Repr

/-- A record write or deletion waiting for, or in, its page programs (R295, R298). `left` counts the programs still to
come, the header last; none of them has begun while `begun` is false. -/
structure Prog where
  region : Nat
  id : Nat
  /-- none for a deletion -/
  payload : Option Payload
  left : Nat
  pages : Nat
  begun : Bool := false
  prio : Prio := .other
  /-- tokens are needed and not yet there (R299) -/
  needs : Bool := false
  bucket : Option Bucket := none
  act : OnCommit := .nothing
  used : List Nat := []
  /-- the last program's read-back called for one more program (R301) -/
  again : Bool := false
  /-- the strength in force when its first page was programmed (R294) -/
  strength : Nat := 2
  sealing : Option Sealed := none
  deriving DecidableEq, Repr

/-- A firmware image slot (R398, R402): the factory image, or pages downloaded, by byte offset rising. -/
structure ImageSlot where
  factory : Bool := true
  pages : List (Nat × List Byte) := []
  deriving DecidableEq, Repr

/-- The records that the first start commits: the ledger, the vault counter and the keeper mirror (R315, R353, R375). -/
def firstRecords : List Rec :=
  [{ region := 4, id := 0, seq := 1, payload := .ledger {} {}, pages := [0x3040, 0x3041, 0x3042, 0x3043, 0x3044, 0x3045, 0x3046]
     strength := 2 },
   { region := 6, id := 255, seq := 1, pages := [0x3840], strength := 2
     payload := .slot { slot := 255, aes256 := true, guarded := true, salt := 0, reservedTo := 65536, useLimit := 2 ^ 64 - 1, key := [] } },
   { region := 7, id := 0, seq := 1, payload := .mirror 0 {}, pages := [0x3880], strength := 2 }]

/-- The MRAM (chapter 11). -/
structure Mram where
  recs : List Rec := firstRecords
  /-- the version before the newest, kept outside the vault (R295, R297) -/
  prev : List Rec := []
  queue : List Prog := []
  /-- WEAR of pages that have been programmed, by page, rising -/
  wear : List (Nat × Nat) := [(0x3040, 1), (0x3041, 1), (0x3042, 1), (0x3043, 1), (0x3044, 1), (0x3045, 1), (0x3046, 1), (0x3840, 1), (0x3880, 1)]
  retiredPages : List Nat := []
  /-- the buckets of R299 in 10⁻⁶ pages, as they stood at `tokenAt` -/
  tokens : Vector Nat 8 := Vector.replicate 8 1024000000
  vaultTokens : Vector Nat 8 := Vector.replicate 8 1024000000
  tokenAt : Nat := 0
  /-- pages programmed raw: data and spare words (R305) -/
  raw : List (Nat × (List Word × List Word)) := []
  refresh : List Nat := []
  /-- the refreshed page's read-back called for one more program (R301) -/
  refreshAgain : Bool := false
  /-- the strength of pages refreshed at another one than their record's (R293) -/
  strengthAt : List (Nat × Nat) := []
  /-- what a decode of a page finds where it is not a page without a wrong bit, by page (R293, R296; log entry 125) -/
  found : List (Nat × DecodeBits) := []
  /-- header pages programmed with zeros and not programmed since (R295) -/
  cleared : List Nat := []
  imageA : ImageSlot := {}
  imageB : ImageSlot := {}
  nextVaultId : Nat := 0
  deriving DecidableEq, Repr

/-! ### Chapter 12: the sealing engine -/

/-- The state of a key slot (R307). -/
inductive SlotState where
  | empty | loaded | spent
  deriving DecidableEq, Repr

/-- A key slot (R307). Slot 16 stands for the vault's counter. -/
structure KeySlot where
  st : SlotState := .empty
  key : List Byte := []
  aes256 : Bool := false
  guarded : Bool := false
  salt : Word := 0
  counter : Nat := 0
  useLimit : Nat := 0
  reservedTo : Nat := 0
  /-- a reservation record has been requested (R315) -/
  reserving : Bool := false
  deriving DecidableEq, Repr

/-- What the engine does for the descriptor that holds the lock. -/
inductive CphPhase where
  | idle
  /-- decrypting; the tag result is not known (R318) -/
  | verifying
  /-- the tag is known; the lock is released at an instant (R318) -/
  | releasing (at_ : Nat)
  deriving DecidableEq, Repr

/-- The sealing engine (chapter 12). Requester 8 is the vault, 9 the drover (R317). -/
structure Cph where
  owner : Nat := 15
  direct : Bool := false
  holder : Option (FoldId × Nat) := none
  waiters : List (Nat × FoldId × Nat) := []
  lastReq : Nat := 9
  heldSince : Nat := 0
  phase : CphPhase := .idle
  hold : List Byte := []
  /-- AAD, nonce and tag given at the start of SEALED READ and OPEN BUFFER -/
  aad : List Byte := []
  auxIn : List Byte := []
  disabled : Bool := false
  faults : Nat := 0
  /-- ticks of the last two parity faults, latest first (R324) -/
  faultTicks : List Nat := []
  holdMax : Nat := 0
  katBusy : Bool := false
  katPass : Bool := false
  katFail : Bool := false
  slots : Vector KeySlot 17 := (Vector.replicate 17 {}).set 16 { st := .loaded, aes256 := true, guarded := true, counter := 1, useLimit := 2 ^ 64 - 1, reservedTo := 65536 }
  deriving DecidableEq, Repr

/-! ### Chapters 6 to 9: the mechanism -/

/-- The eight modes (Table 16.7). -/
inductive Mode where
  | vigil | doze | load | idle | read | write | scan | service
  deriving DecidableEq, Repr

/-- PWR_MOTION.TRAY (Table 7.9). -/
inductive Tray where
  | closed | open_ | moving | unknown
  deriving DecidableEq, Repr

/-- A biquad's coefficients in Q2.21 (R159). -/
structure Section where
  b0 : Int := 2097152
  b1 : Int := 0
  b2 : Int := 0
  a1 : Int := 0
  a2 : Int := 0
  deriving DecidableEq, Repr

/-- A section's state (R159), with the rounding error that sections 4 and 5 keep. -/
structure SecState where
  x1 : Int := 0
  x2 : Int := 0
  y1 : Int := 0
  y2 : Int := 0
  err : Int := 0
  deriving DecidableEq, Repr

/-- A coefficient bank (R163). -/
structure Bank where
  inOffset : Int
  inGain : Int
  integMask : BitVec 6
  outLo : Int
  outHi : Int
  secs : List Section
  deriving DecidableEq, Repr

/-- Which bank: a built-in set, by rate, loop, medium class and layer, or a loaded one (R164). -/
inductive BankRef where
  | builtin (rate loop cls layer : Nat)
  | loaded (b : Bank)
  deriving DecidableEq, Repr

/-- Where a sequence of the loop engine stands (Tables 6.4 to 6.7). -/
inductive SeqPhase where
  | idle
  /-- LD_EN is up; APC settles before the first sweep (Table 6.4) -/
  | settle
  /-- the up-sweep and the down-sweep of a focus search (Table 6.4) -/
  | up | down
  /-- FOCUS is closed, and FOK is to be declared (Table 6.4) -/
  | focusHold
  /-- intervals between TE zero crossings are measured; a long one has come; the brake pulse is driven (Table 6.5) -/
  | measure | ready | brake
  /-- TRACK is closed and is to lock; it has locked, and SLED is to close (Table 6.5) -/
  | closing | lockHold
  /-- a track jump before and after crossing N (Table 6.6) -/
  | jumpKick | jumpBrake
  /-- a layer jump: kick, coast, brake, and the wait for FOK (Table 6.7) -/
  | layerKick | layerCoast | layerBrake | layerHold
  deriving DecidableEq, Repr

/-- The sequencer of the loop engine (R169, R170, Tables 6.4 to 6.7). -/
structure Seq where
  phase : SeqPhase := .idle
  /-- strobes since the phase began -/
  strobes : Nat := 0
  /-- the target layer, and whether the focus-on follows a layer jump -/
  layer : Nat := 0
  afterJump : Bool := false
  /-- sweep pairs made, qualifying S-curves of the present sweep, the largest count of an up-sweep -/
  pairs : Nat := 0
  curves : Nat := 0
  most : Nat := 0
  /-- peaks of SUM and of the size of FE in the S-curve being passed, in codes; 0 between curves -/
  sumPeak : Int := 0
  fePeak : Int := 0
  /-- FE and TE of the last valid sample, Q2.21 -/
  fe : Int := 0
  te : Int := 0
  /-- strobes since the last TE zero crossing, and crossings counted in a jump -/
  cross : Option Nat := none
  crossings : Nat := 0
  /-- consecutive samples with |TE| below TON_LOCK; in a layer jump, how far FE has left the old layer's S-curve -/
  run : Nat := 0
  /-- the brake pulse's sign -/
  brakeUp : Bool := false
  deriving DecidableEq, Repr

/-- One loop (R158, R163). -/
structure Loop where
  active : BankRef
  inactive : BankRef
  inactiveValid : Bool := true
  secs : List SecState := List.replicate 6 {}
  /-- the applied output, and the one computed for the next strobe with its section states -/
  out : Int := 0
  next : Option (Int × List SecState) := none
  closed : Bool := false
  /-- held by a sequence (output repeated, integrators kept) -/
  held : Bool := false
  deriving DecidableEq, Repr

/-- The SIGNAL profile (Table 6.10). -/
structure SignalProf where
  teMode : Nat := 0
  kAuto : Bool := true
  tiltEn : Bool := true
  kDpp : Int := 3145728
  tiltFixed : Int := 0
  w : List Int := [0, 0, 0, 0, 2097152, 2097152, -2097152, -2097152]
  deriving DecidableEq, Repr

/-- The SEQUENCE profile (Table 6.10). -/
structure SequenceProf where
  fsRange : Nat := 600
  fsTime : Nat := 100
  fsTries : Nat := 3
  fsSumTh : Nat := 120
  fePeakTh : Nat := 40
  fokTh : Nat := 160
  tonSlow : Nat := 200
  brkT : Nat := 50
  tonLock : Nat := 30
  kickAmp : Nat := 250
  ljKick : Nat := 300
  ljKickT : Nat := 400
  ljBrakeTh : Nat := 40
  dhMax : Nat := 1000
  deriving DecidableEq, Repr

/-- A track jump in progress (Table 6.6). -/
structure Jump where
  tracks : Nat
  outward : Bool
  at_ : Nat
  deriving DecidableEq, Repr

/-- The loop engine and the light path (chapter 6). -/
structure Servo where
  /-- 0 = 100 kHz, 1 = 200 kHz, 2 = 400 kHz -/
  rate : Nat := 1
  /-- the strobe counter of R154, and all strobes counted -/
  n : Nat := 0
  strobes : Nat := 0
  loops : Vector Loop 6 := Vector.ofFn fun i => { active := .builtin 1 i.val 2 0, inactive := .builtin 1 i.val 2 0 }
  /-- stored banks that a LOOP_BANK profile replaced: loop, class, layer -/
  stored : List (Nat × Nat × Nat × Bank) := []
  swap : Option (BitVec 6 × Bool × Nat) := none
  /-- the swap has taken effect, and its profile is to complete (R165) -/
  swapped : Option Nat := none
  /-- banks being written into inactive ones, each with its loop and its profile (R163, R164) -/
  bankWrites : List (Nat × Bank × Nat) := []
  /-- stored banks of a class and layer that are loaded and swapped in at the next strobe (R166) -/
  bankLoad : Option (Nat × Nat) := none
  signal : Vector SignalProf 3 := Vector.replicate 3 {}
  sequence : Vector SequenceProf 3 := Vector.replicate 3 {}
  /-- the profiles in use, and whether a change of the loaded class's waits for the next strobe (R179) -/
  signalIn : SignalProf := {}
  sequenceIn : SequenceProf := {}
  profLoad : Bool := false
  apcTarget : Option Nat := none
  apcMax : Option Nat := none
  /-- the period's computation has not finished -/
  computing : Bool := false
  /-- the sample packet of the present strobe has not arrived yet (R18) -/
  expect : Bool := false
  slack : Option Nat := none
  overrunNow : Bool := false
  overrunRun : Nat := 0
  overruns : Nat := 0
  runMax : Nat := 0
  /-- a synchronising reset is asked for; invalid samples still to come (R177) -/
  resync : Bool := false
  invalid : Nat := 0
  samples : Vector Int 16 := Vector.replicate 16 0
  defect : Bool := false
  /-- how long the defect has lasted, in half µs (R172) -/
  defectHalfUs : Nat := 0
  /-- the tracked level of SUM, scaled by 65,536 (R171) -/
  tracked : Int := 0
  band : Vector Nat 9 := Vector.replicate 9 0
  puHigh : Nat := 0
  puLow : Nat := 0
  puOpen : Bool := false
  ldEn : Bool := false
  ldStrobes : Nat := 0
  apcSettle : Nat := 0
  apcSettled : Bool := false
  apcMaxed : Nat := 0
  wgate : Bool := false
  fok : Bool := false
  locked : Bool := false
  layer : Nat := 0
  kdpp : Int := 3145728
  trackTries : Nat := 0
  trackOnAt : Option Nat := none
  jump : Option Jump := none
  /-- a jump has failed, and no jump has succeeded since (Table 6.6) -/
  jumpFails : Nat := 0
  layerJump : Option (Nat × Nat) := none
  trackSum : Int := 0
  seq : Seq := {}
  /-- SUM and SSUM of the valid samples of the last 2 ms, the latest first (R153) -/
  sums : List (Int × Int) := []
  /-- the layer for which Pewter's servo gain range is set (Table 6.7) -/
  gainLayer : Nat := 0
  /-- the focus, tracking and tilt outputs ramp to zero: the instant it began, and the outputs then (R23, R178) -/
  ramp : Option (Nat × Int × Int × Int) := none
  deriving DecidableEq, Repr

/-- The SPINDLE profile (Table 7.8). -/
structure SpindleProf where
  polePairs : Nat := 4
  hallEn : Bool := false
  commAdv : Nat := 0
  blank : Nat := 15
  ilim : Nat := 600
  spinMax : Nat := 6400
  idleRpm : Nat := 1500
  alignT : Nat := 100
  alignI : Nat := 400
  startT0 : Nat := 20
  ramp : Nat := 8
  handover : Nat := 600
  startTries : Nat := 3
  stopRpm : Nat := 300
  deriving DecidableEq, Repr

/-- What the spindle does (R182 to R193). -/
inductive SpinState where
  | stopped | align | forced (k : Nat) | startCoast | closed | braking | shorted | coasting
  deriving DecidableEq, Repr

/-- The spindle (chapter 7). -/
structure Spindle where
  prof : SpindleProf := {}
  /-- the profile in force until the next start (R209) -/
  inUse : SpindleProf := {}
  st : SpinState := .stopped
  step : Nat := 1
  t60 : List Nat := []
  rpm : Nat := 0
  /-- consecutive forced steps each with a valid crossing (R186), forced steps made at HANDOVER -/
  run : Nat := 0
  atHandover : Nat := 0
  tries : Nat := 0
  setPoint : Nat := 0
  ceiling : Bool := false
  crossedAt : Nat := 0
  since : Nat := 0
  /-- spindle periods in a row with the limit reported short of the set-point, and without (R191) -/
  limitRun : Nat := 0
  clearRun : Nat := 0
  /-- a crossing is seen and commutation is scheduled (R183) -/
  commutating : Option Nat := none
  /-- start again once stopped (R187) -/
  restart : Bool := false
  hall : BitVec 3 := 0b101
  /-- the speed class in use (R189) -/
  class_ : Option Nat := none
  /-- classes by which thermal pacing lowers it (R54) -/
  paceDrop : Nat := 0
  /-- the drop that takes effect at the next unit boundary of the WRITE on the mechanism (R54) -/
  paceNext : Option Nat := none
  paceAt : Nat := 0
  pacing : Bool := false
  deriving DecidableEq, Repr

/-- The SLED profile (Table 7.8). -/
structure SledProf where
  sCurve : Bool := false
  vMax : Nat := 2500
  accel : Nat := 50000
  jerk : Nat := 2000000
  sledI : Nat := 300
  holdI : Nat := 100
  pitch : Nat := 150
  followV : Nat := 200
  homeV : Nat := 400
  homeMax : Nat := 500
  homePos : Nat := 22000
  seekSettle : Nat := 2000
  seekTries : Nat := 4
  deriving DecidableEq, Repr

/-- The microstep table in use or in the shadow (R195, R197). -/
inductive TableRef where
  | builtin
  | loaded (t : List Nat)
  deriving DecidableEq, Repr

/-- What the sled does. -/
inductive SledMove where
  | rest
  /-- a profile move: from, to (24-bit fractions of a full step), updates made -/
  | move (start target : Int) (updates : Nat)
  /-- homing: moving off the switch, or toward it, with the full steps made -/
  | homeOut (made : Nat)
  | homeIn (made : Nat)
  | follow
  deriving DecidableEq, Repr

/-- The sled (chapter 7). Positions are in 2⁻²⁴ full steps, radii in µm. -/
structure Sled where
  prof : SledProf := {}
  inUse : SledProf := {}
  pos : Int := 0
  lost : Bool := true
  home : Bool := false
  move : SledMove := .rest
  table : TableRef := .builtin
  /-- a table waiting for its swap, and the profile that completes with it (R197) -/
  shadow : Option (TableRef × Option Nat) := none
  /-- phase currents in µA -/
  ia : Int := 0
  ib : Int := 0
  /-- a seek: target LBA and moves made; settling -/
  seek : Option (Nat × Nat) := none
  settling : Bool := false
  /-- when the last move came to rest -/
  restAt : Nat := 0
  /-- the address of the present position is known -/
  radius : Option Nat := none
  /-- track-on attempts made for the last lock (R202) -/
  lockTries : Nat := 0
  deriving DecidableEq, Repr

/-- The LOADER profile (Table 7.8). -/
structure LoaderProf where
  solenoid : Bool := false
  btnEn : Bool := true
  duty : Nat := 70
  ilim : Nat := 400
  tmax : Nat := 3000
  solT : Nat := 60
  deriving DecidableEq, Repr

/-- What the loader drives. -/
inductive LoaderDrive where
  | none | opening (since : Nat) | closing (since : Nat) | pulse (since : Nat) | afterPulse (since : Nat)
  deriving DecidableEq, Repr

/-- The loader (chapter 7). -/
structure Loader where
  prof : LoaderProf := {}
  tray : Tray := .unknown
  trayIn : Bool := false
  trayOut : Bool := false
  drive : LoaderDrive := .none
  /-- an eject waits for the spindle to stop (Table 7.5) -/
  ejecting : Bool := false
  /-- the eject button asked for an eject (R206) -/
  button : Bool := false
  /-- the open tray was pushed, and is to be closed once the motors may run (R206) -/
  pushed : Bool := false
  /-- a disc may be in the tray and is not yet identified (R396, R114) -/
  unident : Bool := false
  /-- how often a disc has been removed or the tray has opened (R110) -/
  removals : Nat := 0
  deriving DecidableEq, Repr

/-- The CHANNEL profile (Table 8.6). -/
structure ChannelProf where
  target : List Int
  muEq : Nat := 12
  muAgc : Nat := 8
  muOfs : Nat := 8
  muAsym : Nat := 10
  defGuard : Nat := 32
  acqBw : Nat := 100
  trkBw : Nat := 5
  preset : List Int := [0, 0, 0, 0, 0, 0, 0, 8192, 0, 0, 0, 0, 0, 0, 0]
  acqLead : Nat
  deriving DecidableEq, Repr

/-- The SECOND_LOOK profile (Table 8.6). -/
structure SecondLookProf where
  passes : Nat := 2
  pin : BitVec 3 := 7
  target2 : List Int
  deriving DecidableEq, Repr

/-- Timing recovery (R218 to R220). -/
inductive Acq where
  | off | acquiring | tracking
  deriving DecidableEq, Repr

/-- Which reference steers the channel strobe (R212). -/
inductive StrobeRef where
  | data | wobble | spindle
  deriving DecidableEq, Repr

/-- The sums of the present update of 64 channel bits (R213): bits, the equaliser outputs' size at decided peaks, the detector errors, all
and at positive and at negative decided levels, and the digital sum value. -/
structure FrontSums where
  n : Nat := 0
  peak : Int := 0
  peakN : Nat := 0
  err : Int := 0
  pos : Int := 0
  posN : Nat := 0
  neg : Int := 0
  negN : Nat := 0
  dsv : Int := 0
  deriving DecidableEq, Repr

/-- The front end and the detectors (R213 to R217, R221). Gain, offset, α and the slicer level are in 2⁻¹⁶ codes (log entry 114). -/
structure Front where
  gain : Int := 0
  offset : Int := 0
  alpha : Int := 0
  slicer : Int := 0
  /-- gain and offset of the wobble channel, and its sums of an update -/
  wobGain : Int := 0
  wobOffset : Int := 0
  wob : FrontSums := {}
  /-- samples, and equaliser outputs less the asymmetry term, the latest first -/
  xs : List Int := []
  zs : List Int := []
  /-- the survivor of each of the 16 states: its metric, and its levels as bits with the latest lowest (R216) -/
  paths : List (Option (Nat × Nat)) := []
  /-- final decisions of the unit under the spot, the latest first (R143) -/
  decided : List Bool := []
  /-- the slicer's last decision, the peak detector's output level, its run, and the edges still to be output: negative where edges were
  output ahead of time (R217) -/
  raw : Bool := false
  level : Bool := false
  run : Nat := 0
  owed : Int := 0
  sums : FrontSums := {}
  /-- the tracked level of the RF envelope, scaled by 65,536, and the runs of R221: below 40 %, above 160 %, within 45 % to 155 % -/
  envelope : Int := 0
  dark : Nat := 0
  bright : Nat := 0
  inRange : Nat := 0
  /-- where the defect flag set, and channel bits for which the loops stay held after it cleared (R214) -/
  flagAt : Nat := 0
  guard : Nat := 0
  deriving DecidableEq, Repr

/-- The sample ring and its index (R226): samples with their channel bit, the oldest first; each unit's first LBA and first channel bit;
the places of syncs. -/
structure SampleRing where
  samples : List (Nat × Int) := []
  units : List (Nat × Nat) := []
  syncs : List Nat := []
  deriving DecidableEq, Repr

/-- The measurement circuits' sums over one unit (R259, Table 9.5; log entry 118): over its strobes FE² and TE² in Q2.21, and SUM; over its
channel bits edges and their squared errors in 0.1 % of T, and the peaks of longest and of shortest runs, above and below. -/
structure UnitMeter where
  strobes : Nat := 0
  fe2 : Nat := 0
  te2 : Nat := 0
  sum : Int := 0
  edges : Nat := 0
  jit2 : Nat := 0
  longHi : Int := 0
  longHiN : Nat := 0
  longLo : Int := 0
  longLoN : Nat := 0
  shortHi : Int := 0
  shortHiN : Nat := 0
  shortLo : Int := 0
  shortLoN : Nat := 0
  deriving DecidableEq, Repr

/-- The read channel (chapter 8). -/
structure Channel where
  prof : Vector ChannelProf 4 := #v[{ target := [0, 0, 0, 0, 0], acqLead := 4704 }, { target := [3, 4, 4, 3, 0], acqLead := 2976 }, { target := [1, 2, 2, 1, 0], acqLead := 0 }, { target := [1, 2, 2, 2, 1], acqLead := 0 }]
  look : Vector SecondLookProf 4 := #v[{ target2 := [1, 2, 2, 1, 0] }, { target2 := [1, 2, 2, 1, 0] }, { target2 := [1, 2, 2, 2, 1] }, { target2 := [1, 2, 3, 2, 1] }]
  /-- the profile in force since the last acquisition (R235) -/
  inUse : Option ChannelProf := none
  acq : Acq := .off
  ref : StrobeRef := .spindle
  /-- taps loaded from EQ_PRESET at acquisition (R215) -/
  taps : List Int := []
  /-- the SECOND_LOOK profile in force since the last acquisition (R235) -/
  lookInUse : Option SecondLookProf := none
  /-- channel bits sampled, and the strobe's frequency in Hz (R211, R212) -/
  pos : Nat := 0
  hz : Nat := 0
  /-- the wobble PLL's frequency times the channel bits per wobble (R212, R233, R237) -/
  wobbleHz : Option Nat := none
  front : Front := {}
  ring : SampleRing := {}
  /-- final decisions made since the last command that brought samples, the latest first (R260) -/
  fresh : List Bool := []
  /-- the unit that acquisition aims at, whether its first sync passed before lock, and the unit under the spot (R218, R219) -/
  target : Option Nat := none
  passed : Bool := false
  under : Option Nat := none
  /-- the last sync found or, in tracking, the last place where one was due; the last one found; whether two lie at their spacing;
  syncs missed in a row (R218, R220) -/
  lastSync : Option Nat := none
  foundAt : Nat := 0
  spaced : Bool := false
  missed : Nat := 0
  /-- where lock was lost: it is to be regained within 2,048 channel bits (R220) -/
  relock : Option Nat := none
  /-- spans of channel bits whose bytes are erasures: from, and just past the end (R222) -/
  erased : List (Nat × Nat) := []
  /-- past defect flag intervals, and the measurements of each unit since reading began, by first LBA (R221, R259) -/
  flags : List (Nat × Nat) := []
  meters : List (Nat × UnitMeter) := []
  /-- the present run of the equalised signal: its length and its peak (R259) -/
  meterRun : Nat := 0
  meterPeak : Int := 0
  defect : Bool := false
  /-- the flag has been set since the last servo sample (R171) -/
  flagged : Bool := false
  defects : Nat := 0
  /-- the address that the flywheel predicts next, and when it will pass, in µs (R234) -/
  flywheel : Option Nat := none
  flyAt : Nat := 0
  /-- an address far from the prediction waits for the next to agree (R234) -/
  far : Option (Nat × Nat) := none
  accepted : Bool := false
  /-- units pinned in the sample ring (R228) -/
  pinned : List Nat := []
  deriving DecidableEq, Repr

/-- A loaded write-strategy table (Table 9.2); entries are raw 16-bit segments. -/
structure Strategy where
  medium : Nat
  layer : Nat
  class_ : Nat
  spaceCode : Nat
  mid : Dword
  levels : List (Nat × Nat)
  valueMax : Nat
  opcMethod : Nat
  opcSteps : Nat
  opcSpan : Nat
  target : Int
  kappa : Nat
  runGain : Nat
  runLimit : Nat
  entries : List (List Half)
  deriving DecidableEq, Repr

/-- The laser driver serial port's profile (Table 9.6). -/
structure LdsProf where
  div : Nat := 4
  readback : Bool := true
  vfyLimit : Nat := 50
  deriving DecidableEq, Repr

/-- A power calibration result: layer, class and f in units of 2⁻²⁸ (R246, R248). -/
structure OpcRec where
  disc : Dword
  layer : Nat
  class_ : Nat
  f : Int
  /-- f when OPC ended, for RUN_LIMIT -/
  f0 : Int
  /-- the RF level of the first unit after OPC -/
  rho0 : Option Int := none
  puTemp : Int := 0
  /-- OPC is called for before the next recording here -/
  due : Bool := false
  deriving DecidableEq, Repr

/-- How one unit of a reading command stands. -/
inductive UnitState where
  | waiting
  /-- read; blocks confirmed, recovered by second look or re-read -/
  | good (blocks : List Block) (recovered : Bool)
  /-- uncorrectable: pinned for a second-look pass -/
  | looking (pass : Nat)
  /-- spending physical re-reads -/
  | rereading (left : Nat)
  | failed (blocks : List Block) (failedAt : List Nat) (lostSync : Bool)
  deriving DecidableEq, Repr

/-- A recording unit of a command: its first LBA, how it stands and its measurement. -/
structure JobUnit where
  first : Nat
  st : UnitState := .waiting
  meas : Option UnitRead := none
  slipped : Bool := false
  /-- slips on the unit (R219), and whether it has lost sync (R220) -/
  slips : Nat := 0
  lostSync : Bool := false
  /-- the tick at the unit's end, and its layer (Table 9.5) -/
  tick : Nat := 0
  layer : Nat := 0
  /-- the taps of the first reading, places of the bytes of codewords that decoded, the pinned bytes, and the last pass's taps and
  decisions (R229, R230) -/
  taps : List Int := []
  good : List Nat := []
  fixed : List Nat := []
  lookTaps : List Int := []
  lookBits : List Bool := []
  deriving DecidableEq, Repr

/-- What the mechanism is doing. -/
inductive JobKind where
  | reading | writing | moving | speculation (f : FoldId)
  deriving DecidableEq, Repr

/-- The command, or speculative action, on the mechanism. -/
structure Job where
  kind : JobKind
  f : FoldId
  k : Nat
  at_ : Nat
  units : List JobUnit := []
  /-- recording: plaintext or ciphertext still to record, by block, from LBA `next` -/
  data : List Block := []
  next : Nat := 0
  last : Nat := 0
  /-- blocks of the command recorded whole -/
  recorded : Nat := 0
  /-- units recorded and not yet read back (R253) -/
  unverified : List Nat := []
  tries : List (Nat × Nat) := []
  underruns : Nat := 0
  links : Nat := 0
  replaced : Nat := 0
  opcRuns : Nat := 0
  firstFail : Option Nat := none
  /-- the next unit's merge read is still to come (R251) -/
  merge : List Nat := []
  waitingData : Bool := false
  /-- serial writes still to send before recording, tries made (R242) -/
  lds : List (Nat × Nat) := []
  ldsTry : Bool := false
  /-- stop at the next unit boundary with this status -/
  stopWith : Option Status := none
  /-- the command has ended; the mechanism is about to be free (R51) -/
  ended : Bool := false
  /-- a reset of fold 0 has returned the deficits to 0: this command is charged to no fold (R57) -/
  uncharged : Bool := false
  /-- a reading command: blocks written to the host, the first that memory spoilt, and blocks whose data memory altered (R108, R286) -/
  sent : Nat := 0
  memFail : Option Nat := none
  altered : List (Nat × Block) := []
  deriving DecidableEq, Repr

/-- Recording state that outlives one command (chapter 9). -/
structure Recording where
  strategies : List Strategy := []
  lds : LdsProf := {}
  opc : List OpcRec := []
  pcaFull : Bool := false
  /-- VALUE_k in force after OPC (R246) -/
  values : List (Nat × Nat) := []
  deriving DecidableEq, Repr

/-- The drover (R50). -/
structure Drover where
  last : FoldId := 7
  turn : Option FoldId := none
  raLast : FoldId := 7
  /-- the fold served last in the round robin of fetches (R78) -/
  fetchLast : FoldId := 7
  deriving DecidableEq, Repr

/-! ### Chapters 13 to 16 -/

/-- A fault of the mechanism that has been detected, and takes effect at the next strobe (R24, R178, R207). -/
inductive PendFault where
  | link (code : Nat)
  | servo (cause mask : Nat)
  | motion (cause bridge : Nat)
  /-- VMOT is 6 and VPU is 7 (R332, R333) -/
  | rail (n : Nat)
  /-- the mechanism is made safe with no HALT: input loss, thermal shutdown (Tables 13.5 and 13.6) -/
  | down
  deriving DecidableEq, Repr

/-- HALT (R390, R391, Table 15.7). -/
structure Halt where
  /-- faults detected since the last strobe -/
  pend : List PendFault := []
  inHalt : Bool := false
  cause : Nat := 0
  seq : BitVec 8 := 0
  ackStale : Nat := 0
  at_ : Nat := 0
  /-- a valid acknowledgement has been written -/
  acked : Bool := false
  deriving DecidableEq, Repr

/-- What a Yelxo-B command frame brings Iron, which it keeps until the next good frame (R22, R155, R156): codes for the focus, tracking
and tilt drivers, the SPINDLE and SLED outputs in Q2.21, and the period's slack or overrun. -/
structure Command where
  focus : Int := 0
  track : Int := 0
  tilt : Int := 0
  spindle : Int := 0
  sled : Int := 0
  value : FrameValue := .none
  deriving DecidableEq, Repr

/-- The Yelxo links (chapter 1). -/
structure Links where
  cmd : Command := {}
  ylm : Nat := 0
  ylb : Nat := 0
  resends : Nat := 0
  lastFault : Nat := 0
  failsM : Nat := 0
  failsB : Nat := 0
  badFrames : Nat := 0
  deriving DecidableEq, Repr

/-- The slack governor (R334 to R337). -/
structure Gov where
  ctl : Word := 0x32040C01
  limit : Word := 0x3200
  code : Nat := 50
  /-- the code of VCORE itself: a new one is taken at a loop strobe (R335) -/
  vcore : Nat := 50
  winMin : Nat := 63
  n : Nat := 0
  hold : Nat := 0
  lastWin : Option Nat := none
  lowMin : Option Nat := none
  overruns : Nat := 0
  limitTick : Option Nat := none
  deriving DecidableEq, Repr

/-- A shutdown in progress: input loss or thermal, from an instant (R341, R347). -/
inductive Shutdown where
  | none
  | inputLoss (at_ : Nat)
  | thermal (at_ : Nat)
  deriving DecidableEq, Repr

/-- Supply, rails and temperatures (chapter 13). -/
structure Power where
  mains : Bool := false
  /-- rails up, in the order of R332 -/
  rails : Vector Bool 8 := Vector.replicate 8 true
  keepOnBat : Bool := false
  batLow : Bool := false
  keepLost : Bool := false
  thermWarn : Bool := false
  acFreqBad : Bool := false
  auxOk : Bool := false
  lastShutdown : Nat := 0
  shutdownDie : Nat := 0
  lossCfg : Word := 0
  /-- VIN is present: no outage in force -/
  input : Bool := true
  outageTick : Nat := 0
  vbat : Nat := 0
  temps : DieTemps := { bronze := 250, pewter := 250, iron := 250, nickel := none }
  shutdown : Shutdown := .none
  /-- a module rail fault: the sequence runs again 100 ms after this instant (R333) -/
  railDownAt : Option Nat := none
  /-- a thermal shutdown's earliest restart (R348) -/
  coolUntil : Option Nat := none
  /-- Nickel is switching, and when regulation stopped it (R330) -/
  switching : Bool := false
  regStop : Option Nat := none
  gov : Gov := {}
  links : Links := {}
  tbLock : Bool := false
  deriving DecidableEq, Repr

/-- A watchdog of the keeper (R377 to R387). -/
structure Watchdog where
  armed : Bool := false
  seed : Word := 0
  chal : Word := 0
  wOpen : Nat := 0
  wClose : Nat := 0
  limit : Nat := 1
  strikes : Nat := 0
  ref : Nat := 0
  actEvent : Bool := false
  actStop : Bool := false
  actWdog : Bool := false
  lastResult : Nat := 0
  lateTokens : Nat := 0
  safeStop : Bool := false
  /-- the tick of the last expiry: a token latched at it is discarded (Table 15.2) -/
  expiredAt : Option Nat := none
  deriving DecidableEq, Repr

/-- The keeper island: what survives every reset but its own loss (R25, chapters 14 and 15). -/
structure Keeper where
  tick : Nat := 0
  /-- calendar seconds since 2000-01-01 00:00:00, and SUBSEC -/
  cal : Nat := 0
  subsec : Nat := 0
  calValid : Bool := false
  rcTime : Bool := false
  atEnd : Bool := false
  /-- a slew: remaining calendar ticks, signed, and counter ticks into the present thousand -/
  slew : Int := 0
  slewPhase : Nat := 0
  /-- a step waiting for its tick: tick, seconds, SUBSEC, descriptor -/
  step : Option (Nat × Nat × Nat × Nat) := none
  ledger : Ledger := {}
  tariff : Tariff := {}
  pending : Option Tariff := none
  /-- an ENERGY CLOSE waiting for a boundary: descriptors in order (R374) -/
  closing : List Nat := []
  collie : Watchdog := {}
  internal : Watchdog := { armed := true, seed := 0, chal := 1, wOpen := 8, wClose := 256, limit := 1 }
  /-- internal watchdog paused, with its count held (R384) -/
  intHeld : Option Nat := none
  /-- COLLIE SERVEs waiting for their tick: descriptor, token, and the first tick that may latch it (R380) -/
  latch : List (Nat × Word × Nat) := []
  /-- an I²C token waiting for its tick (R380) -/
  sbToken : Option (Word × Nat) := none
  /-- the collie asserts WDOG_N; until an instant, or held (R383) -/
  wdogLow : Bool := false
  wdogUntil : Option Nat := none
  /-- both oscillators have stopped, and the monitor holds WDOG_N (R387) -/
  wdogBoth : Bool := false
  wdgCtl : Word := 0x6401
  crystalOk : Bool := true
  rcOk : Bool := true
  evidence : Evidence := {}
  vigilHold : Bool := false
  trayWake : Bool := false
  sbIgnored : Nat := 0
  addrHigh : Bool := false
  slotClear : BitVec 16 := 0
  bootFails : Nat := 0
  /-- BOOT_FAILS reached 3 once without an intervening 10 s READY hold (R400) -/
  bootFailedOnce : Bool := false
  held : Bool := false
  wakePending : Bool := false
  /-- the start-up sequence is to run (R396) -/
  starting : Bool := false
  /-- Bronze is held in reset, with the cause (R385) -/
  restartCause : Option Nat := none
  /-- the latched time registers (R357) -/
  latTickHi : Word := 0
  latCal0 : Word := 0x06000000
  latCal1 : Word := 0x07D00101
  /-- TICK of the last committed mirror and whether evidence changed since -/
  mirrorTick : Nat := 0
  mirrorDirty : Bool := false
  vbatTick : Nat := 0
  running : Bool := true
  /-- the keeper's state was lost, and the next start restores what the MRAM holds (R349, R353, R389) -/
  stateLost : Bool := false
  /-- boundaries and tariff switches of an outage that the next start reports (R372) -/
  crossed : Option (Nat × Nat) := none
  deriving DecidableEq, Repr

/-- The event log (R392, R393). -/
structure EventLog where
  staged : List LogEntry := []
  lost : Nat := 0
  lostPending : Nat := 0
  nextSeq : Nat := 0
  nextBlock : Nat := 0
  committing : Nat := 0
  deriving DecidableEq, Repr

/-- An entry to DOZE or VIGIL in progress: the MODE SET that asked for it, whether it is to VIGIL, and whether a wake has come that acts
once it has ended (R407, R408, R410). -/
structure SleepEntry where
  k : Option Nat
  vigil : Bool
  wake : Bool := false
  /-- folds whose DBP_WAKE write was the wake -/
  dbp : List FoldId := []
  deriving DecidableEq, Repr

/-- The mode, the boot and the firmware (chapter 16). -/
structure Sys where
  mode : Mode := .idle
  ready : Bool := true
  readyAt : Nat := 0
  rescue : Bool := false
  parked : Bool := true
  uncal : BitVec 6 := 0x3F
  modeCfg : Word := 0x012C
  boot : BootRecord := {}
  /-- the slot that runs -/
  running : Nat := 0
  rollback : Nat := 0
  cal : CalRecord := {}
  /-- consumption is stopped: by a drain (R405), and for folds 1 to 7 (R406) -/
  drainAll : Bool := false
  drainOthers : Bool := false
  idleSince : Nat := 0
  quietSince : Nat := 0
  /-- FW ACTIVATE asks for a restart of Bronze (R403) -/
  restartReq : Bool := false
  /-- an entry to DOZE or VIGIL waits for the spindle to stop (R407, R408) -/
  entry : Option SleepEntry := none
  deriving DecidableEq, Repr

/-- A winding of the spindle (R182, Table 7.1). -/
inductive Winding where
  | u | v | w
  deriving DecidableEq, Repr

/-- What Lorvaus puts on the bus, its pins and the medium, in order: the model's record of its outputs. -/
inductive Out where
  /-- a posted memory write for a fold (R76, R82) -/
  | write (f : FoldId) (addr : Nat) (bytes : List Byte)
  | msix (f : FoldId) (vec : Nat)
  /-- a memory read issued for a fold: address and length -/
  | readReq (f : FoldId) (addr len : Nat)
  /-- AER reports an error of a fold's request (R41, R250) -/
  | aer (f : FoldId)
  | wdogN (low : Bool)
  | ldEn (on : Bool)
  /-- WGATE; while it is low the level code is 0 (R238) -/
  | wgate (on : Bool)
  /-- user blocks recorded on the medium from an LBA -/
  | recorded (lba : Nat) (blocks : List Block)
  /-- user blocks recorded with zeros: the first and how many (R255, R458) -/
  | zeroed (lba count : Nat)
  /-- the level code's steps while a unit is recorded: when, in T/32, and to which code (R239, R244) -/
  | pulses (steps : List (Nat × Nat))
  /-- medium structures recorded: what, and a number (track, session or layer) -/
  | structure_ (what num : Nat)
  /-- a transaction of the laser driver's serial port: the divider of its 24 MHz clock, and the 24 bits (R241) -/
  | lds (div : Nat) (frame : BitVec 24)
  | loopOut (loop : Nat) (code : Int)
  | phases (ia ib : Int)
  /-- the spindle bridge drives one winding high and one low, with the third floating, at a current in µA (R182, R186, R188) -/
  | spinDrive (high low floating : Winding) (current : Nat)
  | spinOff
  /-- the three low-side switches short the windings (R192) -/
  | spinShort
  /-- the tray motor drives at a duty in % with its current limited in mA (R204) -/
  | tray (open_ : Bool) (duty ilim : Nat)
  /-- the tray motor stops -/
  | trayOff
  | solenoid (on : Bool)
  /-- a sideband read's bytes -/
  | i2c (bytes : List Byte)
  /-- a register read's value -/
  | regRead (value : Word)
  | rail (n : Nat) (on : Bool)
  | moduleReset (asserted : Bool)
  | linkDown
  deriving DecidableEq, Repr

/-! ### The machine -/

/-- Registers of the grant unit and the pen (Tables 2.6, 5.2). -/
structure Plat where
  gntBaseLo : Word := 0
  gntBaseHi : Word := 0
  gntEn : Bool := false
  cache : List CachedGrant := []
  torn : Nat := 0
  misses : Nat := 0
  penCtl : Word := 0x07D00003
  penDepth : Word := 0x100
  vfEnable : Bool := false
  numVfs : Nat := 0
  /-- the physical function's routing ID, as configuration writes carry it (R30) -/
  routingId : Half := 0
  deriving DecidableEq, Repr

/-- The defaults of Table 2.2 for fold f (R34). -/
def FoldRec.default (f : FoldId) : FoldRec :=
  if f = 0 then
    { flock := 0, weight := 0x10, level := 1, bufMin := 0x400, bufMax := 0x2000, penQuota := 0x200, wayMask := 0x1F,
      vaultQuota := 0x100, maxBlocks := 0x400, defTimeout := 0x2710 }
  else
    { flock := 0, weight := 0x10, level := 1, bufMin := 0x200, bufMax := 0x2000, penQuota := 0x100,
      wayMask := (1 : BitVec 16) <<< (f.val + 4), vaultQuota := 0x40, maxBlocks := 0x400, defTimeout := 0x2710 }

/-- Lorvaus. `us` counts the interval timer in µs and `phase` the fraction of a keeper tick, in 10⁻⁶ ticks; `draws`
counts the words drawn from Bronze's random source and every other free value used (the model's own field, log entry 4). -/
structure State where
  pending : List Instr := []
  us : Nat := 0
  phase : Nat := 0
  draws : Nat := 0
  folds : Vector Fold 8 := Vector.ofFn fun f => { record := FoldRec.default f }
  plat : Plat := {}
  pool : Pool := {}
  pen : List PenCopy := []
  cache : Cache := {}
  cap : Capture := {}
  ecc : Ecc := {}
  mram : Mram := {}
  cph : Cph := {}
  servo : Servo := {}
  spindle : Spindle := {}
  sled : Sled := {}
  loader : Loader := {}
  chan : Channel := {}
  recd : Recording := {}
  disc : Option DiscInfo := none
  job : Option Job := none
  drover : Drover := {}
  halt : Halt := {}
  pwr : Power := {}
  kpr : Keeper := {}
  log : EventLog := {}
  sys : Sys := {}
  out : List Out := []
  deriving DecidableEq, Repr

/-- The machine at READY after a first start with no disc (R396, R429, R430; log entry 1). -/
def State.reset : State := {}

/-- Why a step stops. No meaning of this model raises one: every command has an effect the manual gives, or none. The
type has one constructor for the one thing the interface allows and the manual does not know. -/
inductive Fault where
  /-- raised by nothing; safe -/
  | noSuchThing
  deriving DecidableEq, Repr

/-- Why a command has no meaning. -/
inductive Refusal where
  /-- raised by exec's arm of a command not modelled yet; safe: the run stops -/
  | notModelled (mnemonic : String)
  deriving DecidableEq, Repr

/-- A meaning's answer in this model. -/
abbrev Answer := Host.Outcome State Fault Refusal

end Sys2Proof.Machine
end

