-- ==== Sys2Proof/Machine/Flags.lean ====
section
/-! DEFINITION. Machine/Flags.lean: status codes (Table 4.5), sense data (Table 4.13), event codes (Tables 2.4, 3.5 and the
event tables of the chapters) and the bytes of completions and events (Table 4.4, R92). -/
namespace Sys2Proof.Machine

/-- The code of a status (Table 4.5). -/
def statusCode : Status → Nat
  | .ok => 0x0000 | .okRecovered => 0x0001 | .okRepeated => 0x0002
  | .badOpcode => 0x0101 | .badField => 0x0102 | .badCount => 0x0103 | .lenShort => 0x0104
  | .dupInflight => 0x0105 | .badList => 0x0106
  | .noGrant => 0x0201 | .overQuota => 0x0202 | .mediumLocked => 0x0203 | .notPlatform => 0x0204
  | .noDisc => 0x0301 | .discChanged => 0x0302 | .unreadable => 0x0303 | .writeFailed => 0x0304
  | .servoFault => 0x0305 | .blank => 0x0306 | .outOfRange => 0x0307
  | .cipherFault => 0x0401 | .authFailed => 0x0402 | .keySpent => 0x0403 | .noKey => 0x0404
  | .thermalStop => 0x0501 | .powerLost => 0x0502 | .memoryFault => 0x0503
  | .aborted => 0x0601 | .timedOut => 0x0602 | .serviceMode => 0x0603 | .badDate => 0x0604

/-- Statuses that report success. -/
def statusGood : Status → Bool
  | .ok | .okRecovered | .okRepeated => true
  | _ => false

/-- Sense key, ASC and ASCQ of a status (Table 4.13). The last row's statuses no supported command produces; the model
gives them 0xB/0x00/0x00 (log entry 31). -/
def senseOf : Status → Nat × Nat × Nat
  | .ok | .okRepeated => (0x0, 0x00, 0x00)
  | .okRecovered => (0x1, 0x18, 0x00)
  | .noDisc => (0x2, 0x3A, 0x00)
  | .serviceMode => (0x2, 0x04, 0x00)
  | .unreadable => (0x3, 0x11, 0x00)
  | .writeFailed => (0x3, 0x0C, 0x00)
  | .servoFault => (0x4, 0x09, 0x00)
  | .thermalStop => (0x4, 0x0B, 0x01)
  | .powerLost | .memoryFault | .cipherFault => (0x4, 0x44, 0x00)
  | .badOpcode => (0x5, 0x20, 0x00)
  | .badField | .badCount | .lenShort | .badList => (0x5, 0x24, 0x00)
  | .noGrant | .notPlatform | .overQuota => (0x5, 0x20, 0x02)
  | .outOfRange => (0x5, 0x21, 0x00)
  | .mediumLocked => (0x5, 0x53, 0x02)
  | .discChanged => (0x6, 0x28, 0x00)
  | .blank => (0x8, 0x00, 0x00)
  | .aborted | .timedOut | .dupInflight => (0xB, 0x00, 0x00)
  | .authFailed | .keySpent | .noKey | .badDate => (0xB, 0x00, 0x00)

/-- The sense a status leaves, with the failing block if there is one (R122). -/
def senseRecord (st : Status) (fail : Option Nat) : Sense :=
  let (k, a, q) := senseOf st
  { key := k, asc := a, ascq := q, info := fail }

/-- 18 bytes of fixed-format sense data (R122, and its worked example). -/
def senseBytes (x : Sense) : List Byte :=
  [BitVec.ofNat 8 (match x.info with | some _ => 0xF0 | none => 0x70), 0, BitVec.ofNat 8 x.key] ++
    beBytes 4 (x.info.getD 0) ++ [0x0A, 0, 0, 0, 0, BitVec.ofNat 8 x.asc, BitVec.ofNat 8 x.ascq, 0, 0, 0, 0]

/-- The SCSI status byte (R122). -/
def scsiStatus : Status → Byte
  | .ok | .okRepeated => 0x00
  | _ => 0x02

/-! ### Event codes -/

def evMediumChange : Nat := 0x0701
def evHaltEnter : Nat := 0x0702
def evHaltRelease : Nat := 0x0703
def evServiceEnter : Nat := 0x0704
def evServiceExit : Nat := 0x0705
def evPaceChange : Nat := 0x0706
def evRingError : Nat := 0x0730
def evEventsLost : Nat := 0x0731
def evFoldReset : Nat := 0x0740
def evPoolReject : Nat := 0x0780
def evCollieExpiry : Nat := 0x07C0
def evCollieStrike : Nat := 0x07C1
def evRestart : Nat := 0x07C2
def evClockStop : Nat := 0x07C3
def evLogLost : Nat := 0x07C4
/-- The log code of a time step (Table 15.6). -/
def logTimeStep : Nat := 0x07C5

/-! ### Completions in memory -/

/-- The phase bit of absolute index p in a ring of N entries (R74). -/
def phaseBit (p n : Nat) : Bool := p / n % 2 == 0

/-- The 16 bytes of a completion, with its phase bit (Table 4.4). -/
def completionBytes (c : Completion) (phase : Bool) : List Byte :=
  leBytes 2 c.tag.toNat ++ leBytes 2 c.status ++
    leBytes 4 (c.head.toNat + c.ring % 16 * 2 ^ 16 + b2n c.dup * 2 ^ 20 + b2n phase * 2 ^ 31) ++
    leBytes 4 c.bytes.toNat ++ leBytes 2 c.mechTime.toNat ++ leBytes 2 c.queueWait.toNat

/-- The 16 bytes of an event: tag 0xFFFF, the code, head 0, ring 0xF, the detail and the tick (R92). -/
def eventBytes (code : Nat) (dw2 dw3 : Word) (phase : Bool) : List Byte :=
  leBytes 2 0xFFFF ++ leBytes 2 code ++ leBytes 4 (0xF * 2 ^ 16 + b2n phase * 2 ^ 31) ++
    leBytes 4 dw2.toNat ++ leBytes 4 dw3.toNat

/-- The bytes of whatever goes into a done ring slot. -/
def itemBytes : Item → Bool → List Byte
  | .comp _ c _, ph => completionBytes c ph
  | .event code d2 d3, ph => eventBytes code d2 d3 ph

/-- A completion carries IRQ if its descriptor set it; every event does (R77). -/
def itemIrq : Item → Bool
  | .comp _ _ irq => irq
  | .event _ _ _ => true

/-- MECH_TIME: µs to 10 µs units, rounded down, saturating (R106). -/
def mechTimeOf (us : Nat) : Half := BitVec.ofNat 16 (sat 16 (us / 10))

/-- QUEUE_WAIT: µs to 100 µs units, rounded down, saturating (R106). -/
def queueWaitOf (us : Nat) : Half := BitVec.ofNat 16 (sat 16 (us / 100))

end Sys2Proof.Machine
end

