-- ==== Sys2Proof/Machine/Ops.lean ====
section
/-! DEFINITION. Machine/Ops.lean: the named operations over State: folds, descriptors, events, the event log, done rings,
interrupts, the status block and ring errors. Every command's meaning is written over these. -/
namespace Sys2Proof.Machine

/-! ### Folds and outputs -/

/-- The eight folds in order. -/
def allFolds : List FoldId := [0, 1, 2, 3, 4, 5, 6, 7]

/-- Fold f. -/
def State.fold (s : State) (f : FoldId) : Fold := s.folds.get f

/-- Put back fold f. -/
def State.setFold (s : State) (f : FoldId) (x : Fold) : State := { s with folds := s.folds.set f x }

/-- Change fold f. -/
def State.modFold (s : State) (f : FoldId) (g : Fold → Fold) : State := s.setFold f (g (s.fold f))

/-- Work ring n of fold f. -/
def State.wring (s : State) (f : FoldId) (n : RingId) : Wring := (s.fold f).wrings.get n

/-- Change work ring n of fold f. -/
def State.modWring (s : State) (f : FoldId) (n : RingId) (g : Wring → Wring) : State :=
  s.modFold f fun x => { x with wrings := x.wrings.set n (g (x.wrings.get n)) }

/-- Done ring m of fold f. -/
def State.dring (s : State) (f : FoldId) (m : DringId) : Dring := (s.fold f).drings.get m

/-- Change done ring m of fold f. -/
def State.modDring (s : State) (f : FoldId) (m : DringId) (g : Dring → Dring) : State :=
  s.modFold f fun x => { x with drings := x.drings.set m (g (x.drings.get m)) }

/-- Change fold f's doorbell page state. -/
def State.modDbp (s : State) (f : FoldId) (g : Doorbell → Doorbell) : State :=
  s.modFold f fun x => { x with dbp := g x.dbp }

/-- Put something on the bus, the pins or the medium. -/
def State.emit (s : State) (o : Out) : State := { s with out := s.out ++ [o] }

/-- Put several things on the bus in order. -/
def State.emits (s : State) (l : List Out) : State := { s with out := s.out ++ l }

/-- A fold exists: fold 0 always, fold n while VF Enable is set and NumVFs is at least n; above 7 counts as 7 (R32). -/
def foldExists (s : State) (f : FoldId) : Bool := f.val == 0 || (s.plat.vfEnable && decide (f.val ≤ min s.plat.numVfs 7))

/-- A fold that exists, may issue memory requests and is not being reset (R32, R55; log entry 5). -/
def canMaster (s : State) (f : FoldId) : Bool := foldExists s f && (s.fold f).busMaster && (s.fold f).resetting.isNone

/-- Memory requests reach a function: it exists, and Bronze runs firmware or RESCUE outside VIGIL and DOZE. In DOZE a request
first wakes Lorvaus (R32, R426). -/
def barUp (s : State) (f : FoldId) : Bool :=
  (s.sys.ready || s.sys.rescue) && s.sys.mode != .vigil && s.sys.mode != .doze && foldExists s f

/-- What a register access by a fold does, where it reaches Lorvaus. -/
def onBar (s : State) (f : FoldId) (g : State → State) : State := if barUp s f then g s else s

/-- The next word of the free source (log entry 4). -/
def drawWord (s : State) : Word × State := (Config.randomWord s.draws, { s with draws := s.draws + 1 })

/-- A non-zero challenge from Bronze's random source (R377): a drawn 0 counts as 1 (log entry 4). -/
def drawChallenge (s : State) : Word × State :=
  let (w, t) := drawWord s
  (if w = 0 then 1 else w, t)

/-! ### Descriptors in flight -/

/-- Descriptor k of fold f. -/
def State.desc? (s : State) (f : FoldId) (k : Nat) : Option Desc := (s.fold f).descs.find? fun d => d.k == k

/-- Change descriptor k of fold f. -/
def State.modDesc (s : State) (f : FoldId) (k : Nat) (g : Desc → Desc) : State :=
  s.modFold f fun x => { x with descs := updFirst (fun d => d.k == k) g x.descs }

/-- Descriptors of fold f that a done ring or an opcode has not finished with. -/
def descActive (d : Desc) : Bool :=
  match d.stage with
  | .done | .held => false
  | _ => true

/-- A descriptor has been started or dispatched. -/
def descStarted (d : Desc) : Bool := d.startedAt.isSome

/-- IN_FLIGHT of work ring n (Table 3.6). -/
def inFlight (s : State) (f : FoldId) (n : RingId) : Nat := ((s.fold f).descs.filter fun d => d.ring == n).length

/-- BUSY of work ring n: something consumed from it has not been posted or discarded (R89). -/
def ringBusy (s : State) (f : FoldId) (n : RingId) : Bool := (s.fold f).descs.any fun d => d.ring == n

/-! ### The event log (R392) -/

/-- Stage one log entry while Bronze runs; with 256 staged it is discarded and counted (R392). -/
def logStage (s : State) (code : Nat) (detail : Word) (fold : Nat) (extra : Nat) : State :=
  if !(s.sys.ready || s.sys.rescue) then s
  else if 256 ≤ s.log.staged.length then
    { s with log := { s.log with lost := sat 16 (s.log.lost + 1), lostPending := s.log.lostPending + 1 } }
  else
    let flags := b2n s.kpr.calValid + 2 * b2n s.kpr.rcTime
    let e := LogEntry.mk s.kpr.tick code detail s.kpr.cal flags fold extra s.log.nextSeq
    { s with log := { s.log with staged := s.log.staged ++ [e], nextSeq := (s.log.nextSeq + 1) % 2 ^ 32 } }

/-! ### Interrupts (R77) -/

/-- Send the message of a vector, or leave it pending while masked; nothing while MSI-X is disabled. -/
def sendMsix (s : State) (f : FoldId) (v : Fin 8) : State :=
  let x := s.fold f
  if !x.msixEnable then s
  else
    let e := x.msix.get v
    if x.msixMask || bit e.control 0 then
      s.modFold f fun x => { x with msix := x.msix.set v { e with pending := true } }
    else s.emit (.msix f v.val)

/-- A message falls due for done ring m: it clears the pending count (R77). -/
def signalRing (s : State) (f : FoldId) (m : DringId) : State :=
  sendMsix (s.modDring f m fun r => { r with pend := 0, oldest := none }) f (s.dring f m).vec

/-- A slot was written: it becomes pending, and the message is sent at once if IRQ is set, if the count reaches
COAL_COUNT or if COAL_TIME is 0 (R77). Where both done rings name one VEC the spec does not say whether they share a pending
count: the model keeps one count for each done ring (DESIGN CHOICE, log entry 102). -/
def notePending (s : State) (f : FoldId) (m : DringId) (irq : Bool) : State :=
  let t := s.modDring f m fun r => { r with pend := r.pend + 1, oldest := some (r.oldest.getD s.us) }
  let r := t.dring f m
  if irq || decide (max 1 r.coalCount ≤ r.pend) || r.coalTime == 0 then signalRing t f m else t

/-! ### Buffers: what a descriptor's end gives back -/

/-- Entries in the free-store ring. -/
def ringCount (p : Pool) : Nat := sumOf (·.2) p.ring

/-- The free count of R262. -/
def freeCount (p : Pool) : Nat := p.stack.length + ringCount p

/-- Add one index at the ring's tail, lengthening the last run where it continues it. -/
def ringPut (i : Nat) : List (Nat × Nat) → List (Nat × Nat)
  | [] => [(i, 1)]
  | [(a, n)] => if a + n = i then [(a, n + 1)] else [(a, n), (i, 1)]
  | r :: t => r :: ringPut i t

/-- Move up to n entries from the ring's head onto a stack (R271). -/
def ringTake : Nat → List (Nat × Nat) → List Nat → List Nat × List (Nat × Nat)
  | 0, r, st => (st, r)
  | _ + 1, [], st => (st, [])
  | n + 1, (_, 0) :: r, st => ringTake n r st
  | n + 1, (a, m + 1) :: r, st => ringTake n (if m = 0 then r else (a + 1, m) :: r) (a :: st)

/-- The 16-entry refill of the stack (R271). -/
def stackRefill (p : Pool) : Pool :=
  let (st, r) := ringTake 16 p.ring p.stack
  { p with stack := st, ring := r, head := (p.head + (st.length - p.stack.length)) % 22528 }

/-- The 16-entry spill of the stack's oldest entries to the ring's tail (R271). -/
def stackSpill (p : Pool) : Pool :=
  let keep := p.stack.length - 16
  { p with stack := p.stack.take keep, ring := (p.stack.drop keep).reverse.foldl (fun r i => ringPut i r) p.ring }

/-- Put an index on the stack; a full stack is spilled first (R271, R272). -/
def stackPush (p : Pool) (i : Nat) : Pool :=
  let q := if 64 ≤ p.stack.length then stackSpill p else p
  { q with stack := i :: q.stack }

/-- Take an index from the stack's top; an empty stack is refilled first (R271, R272). -/
def stackPop (p : Pool) : Option (Nat × Pool) :=
  let q := if p.stack.isEmpty then stackRefill p else p
  match q.stack with
  | [] => none
  | i :: st => some (i, { q with stack := st })

/-- A freed index goes to the oldest waiting request that still lacks buffers, or to the free store (R265). -/
def releaseIndexGo (s : State) (i : Nat) : List (FoldId × Nat) → State
  | [] => { s with pool := stackPush s.pool i }
  | (f, k) :: r =>
    match s.desc? f k with
    | some d =>
      if d.aside.length < d.want then
        { (s.modDesc f k fun d => { d with aside := d.aside ++ [i] }) with
          pool := { s.pool with aside := s.pool.aside ++ [(i, .work f)] } }
      else releaseIndexGo s i r
    | none => releaseIndexGo s i r

/-- A freed index finds its place (R265). -/
def releaseIndex (s : State) (i : Nat) : State := releaseIndexGo s i s.pool.queue

/-- Free a held buffer outright: its record goes, its account is debited, its index is released. -/
def freeBuf (s : State) (i : Nat) : State :=
  match getKey i s.pool.bufs with
  | none => s
  | some _ => releaseIndex { s with pool := { s.pool with bufs := delKey i s.pool.bufs } } i

/-- Take one hold off a buffer; the last hold frees it (R268, R269). -/
def dropHold (s : State) (i : Nat) : State :=
  match getKey i s.pool.bufs with
  | none => s
  | some b =>
    if b.holds ≤ 1 then freeBuf s i
    else { s with pool := { s.pool with bufs := putKey i { b with holds := b.holds - 1 } s.pool.bufs } }

/-- A pen copy's hold has run out (R127). -/
def penExpired (s : State) (c : PenCopy) : Bool := decide (c.placedAt + c.hold * 1000 ≤ s.us)

/-- Release one pin: the copy is discarded with its last pin when it was removed or has expired (R127, R137, R269). -/
def releasePin (s : State) (p : Pin) : State :=
  match s.pen.find? fun c => c.buf == p.buf with
  | none => dropHold s p.buf
  | some c =>
    match getKey p.buf s.pool.bufs with
    | none => s
    | some b =>
      if (c.removed || penExpired s c) && decide (b.holds ≤ 2) then
        { (freeBuf s p.buf) with pen := s.pen.filter fun c => c.buf != p.buf }
      else dropHold s p.buf

/-- The distinct buffers a descriptor's pins hold, one pin each. -/
def pinBufs (l : List Pin) : List Pin := l.foldl (fun acc p => if acc.any fun q => q.buf == p.buf then acc else acc ++ [p]) []

/-- Give back everything a descriptor holds: its working set, what was set aside for it, its pins and its place among the
waiting requests (R265, R269, R99). -/
def releaseHoldings (s : State) (f : FoldId) (d : Desc) : State :=
  let s1 := { s with pool := { s.pool with
    queue := s.pool.queue.filter fun q => !(q.1 == f && q.2 == d.k)
    aside := s.pool.aside.filter fun a => !d.aside.contains a.1 } }
  let s2 := s1.modDesc f d.k fun d => { d with aside := [], bufs := [], pins := [], want := 0 }
  let s3 := d.aside.foldl releaseIndex s2
  let s4 := d.bufs.foldl freeBuf s3
  (pinBufs d.pins).foldl releasePin s4

/-- A descriptor's completion has been posted or discarded: what it holds returns, and it leaves the fold; a fold
record takes effect (R37, R39, R87). -/
def retire (s : State) (f : FoldId) (k : Nat) (c : Completion) : State :=
  match s.desc? f k with
  | none => s
  | some d =>
    let t := releaseHoldings s f d
    let t := match d.applies with
      | some (g, r) => t.modFold g fun x => { x with record := r }
      | none => t
    let t := { t with sys := { t.sys with quietSince := t.us } }
    let t := t.modWring f d.ring fun w =>
      { w with hist := updFirst (fun h => h.k == k) (fun h => { h with comp := some c }) w.hist }
    t.modFold f fun x => { x with descs := x.descs.filter fun d => d.k != k }

/-! ### Done rings (R74, R75, R93) -/

/-- Entries of a ring. -/
def ringSize (log2 : Nat) : Nat := 2 ^ log2

/-- The base address of a ring: bits [7:0] count as 0 (R64). -/
def ringBase (lo hi : Word) : Nat := lo.toNat / 256 * 256 + hi.toNat * 2 ^ 32

/-- Space for one more: (POSTED − HEAD) mod 2³² is below N (R75). -/
def dringSpace (r : Dring) : Bool := decide ((r.posted - r.head).toNat < ringSize r.log2)

/-- HEAD_m is within the ring: not ahead of POSTED and no more than N behind (R75). -/
def headInRange (r : Dring) (h : Word) : Bool := decide ((r.posted - h).toNat ≤ ringSize r.log2)

/-- Write one item into the next slot, and retire its descriptor (R74, R76, R77). -/
def writeItem (s : State) (f : FoldId) (m : DringId) (it : Item) : State :=
  let r := s.dring f m
  let n := ringSize r.log2
  let p := r.posted.toNat
  let t := s.emit (.write f (ringBase r.baseLo r.baseHi + 16 * (p % n)) (itemBytes it (phaseBit p n)))
  let t := t.modDring f m fun r => { r with posted := r.posted + 1 }
  let t := t.modDbp f fun d => { d with dirty := true }
  let t := notePending t f m (itemIrq it)
  match it with
  | .comp k c _ => retire t f k c
  | .event _ _ _ => t

/-- Write held items, in order, while there is space (R75). -/
def drainHeldGo : Nat → State → FoldId → DringId → State
  | 0, s, _, _ => s
  | n + 1, s, f, m =>
    match (s.dring f m).held with
    | [] => s
    | it :: rest =>
      if dringSpace (s.dring f m) && canMaster s f then
        drainHeldGo n (writeItem (s.modDring f m fun r => { r with held := rest }) f m it) f m
      else s

/-- Events waiting among a done ring's held items. -/
def heldEvents (r : Dring) : Nat := (r.held.filter fun i => match i with | .event _ _ _ => true | _ => false).length

/-- Post an item that is due on a done ring: written if nothing waits and there is space, otherwise it waits in order; an
event that finds 16 waiting is discarded and counted (R75, R93). -/
def postItem (s : State) (f : FoldId) (m : DringId) (it : Item) : State :=
  let r := s.dring f m
  if r.held.isEmpty && dringSpace r && canMaster s f then writeItem s f m it
  else
    match it with
    | .event _ _ _ =>
      if 16 ≤ heldEvents r then s.modDring f m fun r => { r with lostEvents := r.lostEvents + 1 }
      else s.modDring f m fun r => { r with held := r.held ++ [it] }
    | .comp k _ _ =>
      (s.modDring f m fun r => { r with held := r.held ++ [it] }).modDesc f k fun d => { d with stage := .held }

/-- Post an event to done ring 0 of a fold; a fold whose done ring 0 is not enabled or is in error receives none (R92). -/
def postEventTo (s : State) (f : FoldId) (code : Nat) (dw2 : Word) : State :=
  let r := s.dring f 0
  if r.en && r.err == 0 && foldExists s f then postItem s f 0 (.event code dw2 (w32 s.kpr.tick)) else s

/-- Stage a log entry, preceded by LOG_LOST when entries were lost before it (R392, Table 15.8). -/
def logNote (s : State) (code : Nat) (detail : Word) (fold extra : Nat) : State :=
  if s.log.lostPending = 0 ∨ 256 ≤ s.log.staged.length then logStage s code detail fold extra
  else
    let t := postEventTo (logStage { s with log := { s.log with lostPending := 0 } } evLogLost
      (w32 (sat 16 s.log.lostPending)) 0 0) 0 evLogLost (w32 (sat 16 s.log.lostPending))
    logStage t code detail fold extra

/-- Post an event to one fold; the log keeps every event posted, or due, to fold 0 (R92, R392). -/
def postEvent (s : State) (f : FoldId) (code : Nat) (dw2 : Word) : State :=
  postEventTo (if f.val = 0 then logNote s code dw2 0 0 else s) f code dw2

/-- Post a broadcast event to every existing fold whose done ring 0 is enabled (R59). -/
def broadcast (s : State) (code : Nat) (dw2 : Word) : State :=
  allFolds.foldl (fun t f => postEventTo t f code dw2) (logNote s code dw2 0xFF 0)

/-- The queue of events has emptied: EVENTS_LOST reports what was discarded (R93). -/
def reportLost (s : State) (f : FoldId) : State :=
  let r := s.dring f 0
  if r.lostEvents = 0 || heldEvents r != 0 then s
  else postEvent (s.modDring f 0 fun r => { r with lostEvents := 0 }) f evEventsLost (w32 (sat 16 r.lostEvents))

/-- Held completions and events are written as space allows (R75, R93). -/
def drainHeld (s : State) (f : FoldId) (m : DringId) : State :=
  let t := drainHeldGo (s.dring f m).held.length s f m
  if m.val = 0 then reportLost t f else t

/-! ### The status block and ring errors (R66, R67, R88) -/

/-- The STATE word of the doorbell page (Table 3.2). -/
def stateWord (x : Fold) : Word :=
  let we (i : RingId) := b2n ((x.wrings.get i).err != 0)
  let de (i : DringId) := b2n ((x.drings.get i).err != 0)
  w32 (b2n x.dbp.sleeping + 2 * b2n x.dbp.pollFault + 2 ^ 8 * we 0 + 2 ^ 9 * we 1 + 2 ^ 10 * we 2 + 2 ^ 11 * we 3 +
    2 ^ 12 * de 0 + 2 ^ 13 * de 1 + 2 ^ 16 * x.dbp.sleepSeq.toNat)

/-- The 64 bytes of the status block (Table 3.2). -/
def statusBytes (x : Fold) : List Byte :=
  leBytes 4 (stateWord x).toNat ++ zeros 12 ++ (x.wrings.toList.flatMap fun w => leBytes 4 w.cons.toNat) ++
    (x.drings.toList.flatMap fun r => leBytes 4 r.posted.toNat) ++ zeros 24

/-- The doorbell page's address (Table 3.6). -/
def dbpBase (d : Doorbell) : Nat := d.baseLo.toNat / 4096 * 4096 + d.baseHi.toNat * 2 ^ 32

/-- Write the whole status block; nothing while DBP_CTL.EN is 0 (R67). -/
def statusBlock (s : State) (f : FoldId) : State :=
  let x := s.fold f
  if x.dbp.en && canMaster s f then
    (s.emit (.write f (dbpBase x.dbp + 0x80) (statusBytes x))).modDbp f fun d => { d with dirty := false, blockAt := s.us }
  else s

/-- End what waits in a done ring that is in error: its completions are discarded, and each ends its descriptor; events
are dropped uncounted (R88, R92). -/
def discardHeld (s : State) (f : FoldId) (m : DringId) : State :=
  let l := (s.dring f m).held
  l.foldl (fun t it => match it with
    | .comp k c _ => retire t f k c
    | .event _ _ _ => t) (s.modDring f m fun r => { r with held := [], lostEvents := 0 })

/-- RING_ERROR's detail (Table 3.5). -/
def ringErrorDetail (n : Nat) (done : Bool) (code : Nat) : Word := w32 (n + 16 * b2n done + 256 * code)

/-- A work ring enters error (R88). -/
def wringError (s : State) (f : FoldId) (n : RingId) (code : Nat) : State :=
  let t := s.modWring f n fun w => { w with err := code }
  postEvent (statusBlock t f) f evRingError (ringErrorDetail n.val false code)

/-- A done ring enters error (R88). -/
def dringError (s : State) (f : FoldId) (m : DringId) (code : Nat) : State :=
  let t := s.modDring f m fun r => { r with err := code }
  postEvent (statusBlock (discardHeld t f m) f) f evRingError (ringErrorDetail m.val true code)

/-- A read of the doorbell page failed: code 0x3. One event first, if done ring 0 has space; then every enabled ring
enters error, POLL_FAULT is set, polling stops, and the status block is attempted once (R88). -/
def pageFault (s : State) (f : FoldId) : State :=
  let r := s.dring f 0
  let d := ringErrorDetail 0 true 3
  let s1 := if f.val = 0 then logNote s evRingError d 0 0 else s
  let s1 := if r.en && r.err == 0 && r.held.isEmpty && dringSpace r && canMaster s f then
    writeItem s1 f 0 (.event evRingError d (w32 s.kpr.tick)) else s1
  let s2 := s1.modFold f fun x => { x with
    wrings := x.wrings.map fun w => if w.en && w.err == 0 then { w with err := 3 } else w
    drings := x.drings.map fun r => if r.en && r.err == 0 then { r with err := 3 } else r
    dbp := { x.dbp with pollFault := true, stopped := true, stale := x.dbp.polling, finalRead := false, pollNow := false } }
  let s3 := [(0 : DringId), 1].foldl (fun t m => if (t.dring f m).err != 0 then discardHeld t f m else t) s2
  statusBlock s3 f

/-! ### Completing a descriptor -/

/-- A descriptor has ended: its status and byte count are fixed; COMPLETION_POST posts it. It gives back what it waits in
at once (R99), its buffers and pins when its completion is posted (R269). -/
def finish (s : State) (f : FoldId) (k : Nat) (st : Status) (bytes : Nat) : State :=
  match s.desc? f k with
  | none => s
  | some d =>
    let t := { s with
      pool := { s.pool with queue := s.pool.queue.filter fun q => !(q.1 == f && q.2 == k)
                            aside := s.pool.aside.filter fun a => !d.aside.contains a.1 }
      cph := { s.cph with waiters := s.cph.waiters.filter fun w => !(w.2.1 == f && w.2.2 == k) } }
    let t := t.modDesc f k fun d => { d with stage := .done, status := st, bytes := bytes, aside := [], want := 0 }
    d.aside.foldl releaseIndex t

/-- A descriptor ends before it was started: DW2 = 0 and, unless data was written, no effect (R99). Table 4.4 gives QUEUE_WAIT no
value for an accepted descriptor that never starts: the model posts 0 (DESIGN CHOICE, log entry 103). -/
def finishUnstarted (s : State) (f : FoldId) (k : Nat) (st : Status) : State :=
  finish (s.modDesc f k fun d => { d with writes := [], aux := [] }) f k st 0

/-- QUEUE_WAIT of a descriptor that starts now (R106). -/
def noteStart (s : State) (f : FoldId) (k : Nat) : State :=
  s.modDesc f k fun d => { d with startedAt := some s.us, queueWait := s.us - d.acceptedAt, stage := .running }

/-- Spread data over a scatter list, in order, from the list's start (R103). -/
def scatter : List (Nat × Nat) → List Byte → List (Nat × List Byte)
  | [], _ => []
  | (a, n) :: r, l => if l.isEmpty then [] else (a, l.take n) :: scatter r (l.drop n)

/-- Spread data over a scatter list from an offset in it. -/
def scatterAt : List (Nat × Nat) → Nat → List Byte → List (Nat × List Byte)
  | [], _, _ => []
  | (a, n) :: r, off, l =>
    if l.isEmpty then []
    else if n ≤ off then scatterAt r (off - n) l
    else (a + off, l.take (n - off)) :: scatterAt r 0 (l.drop (n - off))

/-- Record data that a descriptor writes to host memory through its list, at an offset (R76, R103). -/
def deliverAt (s : State) (f : FoldId) (k : Nat) (off : Nat) (data : List Byte) : State :=
  s.modDesc f k fun d => { d with writes := d.writes ++ scatterAt d.list off data }

/-- Complete a descriptor that returns a record through its list: at most the implied length is written. -/
def deliver (s : State) (f : FoldId) (k : Nat) (data : List Byte) : State := deliverAt s f k 0 data

/-- Record the auxiliary bytes a descriptor writes at AUX_PTR, if it gave one. -/
def setAux (s : State) (f : FoldId) (k : Nat) (l : List Byte) : State :=
  s.modDesc f k fun d => if d.fld.auxPtr = 0 then d else { d with aux := l }

/-! ### CPH_LOCK's end (R316, R328) -/

/-- The rails that a change of supply turns on or off, in an order of R332. -/
def railOuts (s : State) (on : Bool) (l : List (Fin 8)) : List Out := (l.filter fun n => s.pwr.rails.get n != on).map fun n => .rail n.val on

/-- The lock is released: OWNER reads 0xF, the hold is zeroed, HOLD_MAX keeps the longest hold (R141, R316, Table 12.4). -/
def releaseLock (s : State) : State :=
  if s.cph.owner = 15 then s
  else
    let longest := max s.cph.holdMax (sat 16 ((s.us - s.cph.heldSince) / 10))
    { s with cph := { s.cph with owner := 15, direct := false, holder := none, phase := .idle, hold := [], aad := [],
                                 auxIn := [], holdMax := longest } }

/-- A descriptor holds the lock. -/
def lockHeldBy (s : State) (f : FoldId) (k : Nat) : Bool := s.cph.holder == some (f, k)

/-- The lock is inside R318's interval, or its tag is being verified. -/
def lockVerifying (s : State) : Bool := s.cph.phase == .verifying
def lockReleasing (s : State) : Bool :=
  match s.cph.phase with
  | .releasing _ => true
  | _ => false

/-- A descriptor's completion is posted or it has ended: a lock it still holds is released, but for the interval of R318
(Table 12.2). -/
def lockAtCompletion (s : State) (f : FoldId) (k : Nat) : State :=
  if lockHeldBy s f k && !lockReleasing s then releaseLock s else s

/-! ### Bits shared by several chapters -/

/-- SERVICE is in force. -/
def inService (s : State) : Bool := s.sys.mode == .service

/-- Any fold has accepted work waiting for, or on, the mechanism: decided from descriptors in Drover.lean. Here: HALT,
a safe stop, a shutdown or missing power keeps the mechanism (R28, R382, R341, R347). -/
def mechanismBarred (s : State) : Bool :=
  s.halt.inHalt || s.kpr.collie.safeStop || !s.sys.ready || (match s.pwr.shutdown with | .none => false | _ => true)

/-- Change a bit of a word. -/
def setBit (w : Word) (i : Nat) (b : Bool) : Word := if b then w ||| ((1 : Word) <<< i) else w &&& ~~~((1 : Word) <<< i)

end Sys2Proof.Machine
end

