-- ==== Sys2Proof/Machine/Ecc.lean ====
section
/-! DEFINITION. Machine/Ecc.lean: counting corrections, uncorrectable errors, the SDRAM scrubber and the flip test
(R286 to R292, R304, R306). -/
namespace Sys2Proof.Machine

def evEccBucket : Nat := 0x0710
def evMemoryUncorr : Nat := 0x0711
def evProfileLost : Nat := 0x0712

/-- Change the n-th bucket. -/
def State.modBucket (s : State) (n : Fin 4) (g : EccBucket → EccBucket) : State :=
  { s with ecc := { s.ecc with buckets := s.ecc.buckets.set n (g (s.ecc.buckets.get n)) } }

/-- CAPACITY of a bucket: 0 acts as 1 (R306). -/
def bucketCapacity (b : EccBucket) : Nat := max 1 (bits b.cfg 7 0)

/-- One leak interval in keeper ticks: ⌊LEAK_MS × 32,768 / 1000⌋, LEAK_MS 0 acting as 1 (R289, R306). -/
def leakTicks (b : EccBucket) : Nat := max 1 (bits b.cfg 31 16) * 32768 / 1000

/-- One correction in memory n: the bucket rises by 1, or overflows at CAPACITY (R289). -/
def eccCorrect (s : State) (n : Fin 4) : State :=
  let b := s.ecc.buckets.get n
  let b := { b with corrected := sat 24 (b.corrected + 1) }
  if bucketCapacity b ≤ b.level then
    let o := sat 16 (b.overflows + 1)
    postEvent (s.modBucket n fun _ => { b with level := 0, overflows := o }) 0 evEccBucket
      (w32 (n.val + 256 * bucketCapacity b + 65536 * o))
  else s.modBucket n fun _ => { b with level := b.level + 1 }

/-- Several corrections, one after the other. -/
def eccCorrects : Nat → State → Fin 4 → State
  | 0, s, _ => s
  | k + 1, s, n => eccCorrects k (eccCorrect s n) n

/-- An uncorrectable error in memory n: UNCORRECTED counts it, and 0x0711 goes to fold 0 (R290). -/
def eccUncorr (s : State) (n : Fin 4) (source : Nat) (fallback tag : Bool) (loc : Nat) : State :=
  let t := s.modBucket n fun b => { b with uncorrected := sat 8 (b.uncorrected + 1) }
  postEvent t 0 evMemoryUncorr (w32 (n.val + 16 * source + 64 * b2n fallback + 128 * b2n tag + 256 * (loc % 2 ^ 24)))

/-- BUCKET_LEAK: a leak interval has passed on the keeper tick: the bucket loses 1, down to 0 (R289). -/
def execBucketLeak (n : Fin 4) (s : State) : Answer :=
  let b := s.ecc.buckets.get n
  .next (if b.leakTick + leakTicks b ≤ s.kpr.tick then
    s.modBucket n fun b => { b with level := b.level - 1, leakTick := b.leakTick + leakTicks b }
  else s)

/-! ### Registers whose writes clear (R306) -/

/-- Any write to ECC_BKT_STAT_n clears LEVEL and OVERFLOWS. -/
def execEccBktStatClear (n : Fin 4) (s : State) : Answer :=
  .next (onBar s 0 fun s => s.modBucket n fun b => { b with level := 0, overflows := 0 })

/-- Any write to ECC_COUNT_n clears CORRECTED and UNCORRECTED. -/
def execEccCountClear (n : Fin 4) (s : State) : Answer :=
  .next (onBar s 0 fun s => s.modBucket n fun b => { b with corrected := 0, uncorrected := 0 })

/-- Any write to SCRUB_STAT clears PASSES and POISONED. -/
def execScrubStatClear (s : State) : Answer := .next (onBar s 0 fun s => { s with ecc := { s.ecc with passes := 0, poisoned := 0 } })

/-! ### The flip test (R304) -/

/-- ECC_FLIP_ARM: a write to ECC_FLIP_TARGET in SERVICE; values 5 to 7 are ignored, a non-zero one arms and clears
FLIP_DONE. -/
def execEccFlipArm (v : Word) (s : State) : Answer :=
  .next (if !inService s || decide (4 < bits v 2 0) then s
    else { s with ecc := { s.ecc with flipTarget := v &&& 0xF
                                      flipDone := if bits v 2 0 = 0 then s.ecc.flipDone else false } })

/-- The armed flip has been applied: the target reads 0 and FLIP_DONE reads 1. -/
def flipApplied (s : State) : State := { s with ecc := { s.ecc with flipTarget := 0, flipDone := true } }

/-- A write of a word to a memory meets the armed flip: always, or only at the armed address (R304; log entry 27). -/
def flipMeets (s : State) (target : Nat) (hit : Nat → Bool) : State :=
  if bits s.ecc.flipTarget 2 0 = target ∧ (!bit s.ecc.flipTarget 3 || hit s.ecc.flipAddr.toNat) = true then flipApplied s
  else s

/-! ### The SDRAM scrubber (R291, R292) -/

/-- Lines of a pass (Table 10.8). -/
def scrubLines : Nat := 1835008

/-- HOURS of a scrubber field: 0 acts as 1, above 168 as 168 (R306). -/
def scrubHours (h : Nat) : Nat := clampN 1 168 h

/-- A line of a pass is due (R291): the pass start plus k × P / 1,835,008. -/
def scrubDue (s : State) : Bool :=
  decide (s.ecc.passAt + s.ecc.scrubPos * (scrubHours (bits s.ecc.scrubCtl 7 0) * 3600000000) / scrubLines ≤ s.us)

/-- The walk moves on; after the last line the pass counts and the next starts at once (R291). -/
def scrubNext (s : State) : State :=
  let e := s.ecc
  if scrubLines ≤ e.scrubPos + 1 then
    { s with ecc := { e with scrubPos := 0, passes := sat 16 (e.passes + 1), passAt := s.us } }
  else { s with ecc := { e with scrubPos := e.scrubPos + 1 } }

end Sys2Proof.Machine
end

