-- ==== Sys2Proof/Machine/Memory.lean ====
section
/-! DEFINITION. Machine/Memory.lean: words under SECDED, the SDRAM with its check bytes and poisoned lines, and the system cache
(R275, R276, R286 to R288, R290, R304). What is stored is held as the bits that differ from what was last written; choices are in log
entries 120 and 121. -/
namespace Sys2Proof.Machine

/-! ### Words (R286) -/

/-- Ones of a word. -/
def ones {n : Nat} (w : BitVec n) : Nat := ((List.range n).filter fun i => bit w i).length

/-- What decoding a word with wrong bits finds: whether it is uncorrectable, whether it is corrected, and the wrong bits of the data it
delivers. -/
structure WordFound where
  bad : Bool := false
  corrected : Bool := false
  wrong : BitVec 64 := 0

/-- A syndrome of odd weight is a correction, a non-zero one of even weight is uncorrectable; for patterns of three or more bits the code
promises nothing, so what the data becomes, or whether the syndrome is zero, is free (R286; log entry 120). -/
def decodeWord (x : Flip) : WordFound :=
  let n := ones x.1 + ones x.2
  if n % 2 = 1 then { corrected := true, wrong := if n = 1 then 0 else Config.miscorrected x.1 x.2 }
  else if n = 0 then {}
  else if n = 2 || x.1 == 0 then { bad := true }
  else if Config.escapes x.1 x.2 then { wrong := x.1 } else { bad := true }

/-! ### Memory at work -/

/-- The stores with what an access found: corrections by memory, uncorrectable errors (memory, source, location), and whether the
requester's command fails. -/
structure Mem where
  cache : Cache
  ecc : Ecc
  corr : List (Fin 4) := []
  bad : List (Fin 4 × Nat × Nat) := []
  fault : Bool := false

/-- The data a word delivers is wrong in some bits. -/
def addWrong (m : Mem) (w : Nat) (x : BitVec 64) : Mem :=
  if x = 0 then m
  else
    let y := (getKey w m.ecc.wrong).getD 0 ^^^ x
    { m with ecc := { m.ecc with wrong := if y = 0 then delKey w m.ecc.wrong else putKey w y m.ecc.wrong } }

/-- A whole word is written with new data: what it delivers is right again. -/
def newData (m : Mem) (w : Nat) : Mem := { m with ecc := { m.ecc with wrong := delKey w m.ecc.wrong } }

/-- The armed flip applies to a write of this word of a memory (R304). -/
def flipArmed (e : Ecc) (target w : Nat) : Bool :=
  bits e.flipTarget 2 0 == target && (!bit e.flipTarget 3 || decide (e.flipAddr.toNat / 8 = w))

/-- The masks of the flip registers. -/
def flipMask (e : Ecc) : Flip := (BitVec.ofNat 64 (e.flipDataLo.toNat + 2 ^ 32 * e.flipDataHi.toNat), e.flipCheck.setWidth 8)

/-- The flip has been applied: the target reads 0 and FLIP_DONE reads 1. -/
def flipSpent (e : Ecc) : Ecc := { e with flipTarget := 0, flipDone := true }

/-- The wrong bits of a word, in a list that keeps none for a right word. -/
def setFlip (w : Nat) (x : Flip) (l : List (Nat × Flip)) : List (Nat × Flip) := if x = (0, 0) then delKey w l else putKey w x l

/-- Wrong bits added to a word. -/
def addFlip (l : List (Nat × Flip)) (w : Nat) (x : Flip) : List (Nat × Flip) :=
  let y := (getKey w l).getD (0, 0)
  setFlip w (y.1 ^^^ x.1, y.2 ^^^ x.2) l

/-! ### SDRAM (R287, R288, Table 10.8) -/

/-- The die address of the check byte of the word at an internal address (R287). -/
def checkAddress (a : Nat) : Nat := 0x7000000 + a / 8

/-- The words of a line. -/
def lineWords (line : Nat) : List Nat := (List.range 8).map (8 * line + ·)

/-- A word is written to the SDRAM with its check byte, save for the wrong bits x; an armed flip adds its own (R287, R304). -/
def storeWord (x : Flip) (m : Mem) (w : Nat) : Mem :=
  if flipArmed m.ecc 3 w then
    let y := flipMask m.ecc
    { m with ecc := flipSpent { m.ecc with sdram := setFlip w (x.1 ^^^ y.1, x.2 ^^^ y.2) m.ecc.sdram } }
  else { m with ecc := { m.ecc with sdram := setFlip w x m.ecc.sdram } }

/-- The complement of the check byte that the word's data needs (R288). -/
def poison : Flip := (0, 0xFF)

/-- All eight words of a line show syndrome 0xFF (R288). -/
def linePoisoned (e : Ecc) (line : Nat) : Bool := (lineWords line).all fun w => getKey w e.sdram == some poison

/-- A line is poisoned (R288). -/
def poisonLine (m : Mem) (line : Nat) : Mem := (lineWords line).foldl (storeWord poison) m

/-- A word is read from the SDRAM: a correction is counted and written back; answers whether it is uncorrectable (R286). -/
def loadWord (a : Mem × Bool) (w : Nat) : Mem × Bool :=
  match getKey w a.1.ecc.sdram with
  | none => a
  | some x =>
    let r := decodeWord x
    if r.bad then (a.1, true)
    else
      let m := addWrong a.1 w r.wrong
      (storeWord (0, 0) { m with corr := if r.corrected then m.corr ++ [2] else m.corr } w, a.2)

/-- A line lies in the buffer pool (Table 10.8). -/
def poolLine (line : Nat) : Bool := decide (line < 0x5800000 / 64)

/-- A line is read from the SDRAM, for a source of event 0x0711; an uncorrectable pool line is poisoned (Table 11.2). -/
def loadLine (source : Nat) (m : Mem) (line : Nat) : Mem × Bool :=
  if m.ecc.sdram.any fun x => x.1 / 8 == line then
    let (m, bad) := (lineWords line).foldl loadWord (m, false)
    if bad then ((fun m : Mem => if poolLine line then poisonLine m line else m) { m with bad := m.bad ++ [(2, source, line)] }, true)
    else (m, false)
  else (m, false)

/-! ### The cache (R275, R276) -/

/-- The valid line of an internal line number. -/
def findLine (m : Mem) (line : Nat) : Option CacheLine := m.cache.lines.find? fun l => l.line == line

/-- A line becomes invalid. -/
def dropLine (m : Mem) (line : Nat) : Mem := { m with cache := { m.cache with lines := m.cache.lines.filter fun l => l.line != line } }

/-- A line is put in place of what its number held, as the most recently used. -/
def putLine (m : Mem) (l : CacheLine) : Mem :=
  let m := dropLine m l.line
  { m with cache := { m.cache with lines := m.cache.lines ++ [{ l with used := m.cache.clock }], clock := m.cache.clock + 1 } }

/-- A transaction on the SDRAM's bus. -/
def onBus (m : Mem) (write : Bool) (line : Nat) : Mem := { m with cache := { m.cache with bus := m.cache.bus ++ [(write, line)] } }

/-- The words of a cached line are read: corrections are counted and made; answers whether one is uncorrectable (R286). -/
def checkLine (m : Mem) (l : CacheLine) : Mem × CacheLine × Bool :=
  let m' := l.words.foldl (fun m x =>
    let r := decodeWord x.2
    let m := addWrong m x.1 r.wrong
    if r.corrected then { m with corr := m.corr ++ [1] } else m) m
  (m', { l with words := l.words.filter fun x => (decodeWord x.2).bad }, l.words.any fun x => (decodeWord x.2).bad)

/-- The location of a cache error: the set and the way (R290). -/
def cacheLocation (l : CacheLine) : Nat := l.line % 1024 + 1024 * l.way

/-- A dirty line is written straight to the SDRAM; an uncorrectable one goes back poisoned, and the requester's command fails (R276,
Table 11.2). -/
def writeBack (m : Mem) (l : CacheLine) : Mem :=
  let (m, l, bad) := checkLine m l
  let m := onBus m true l.line
  if bad then poisonLine { m with bad := m.bad ++ [(1, 0, cacheLocation l)], fault := true } l.line
  else (lineWords l.line).foldl (storeWord (0, 0)) m

/-- A line leaves the cache. -/
def evict (m : Mem) (l : CacheLine) : Mem := dropLine (if l.dirty then writeBack m l else m) l.line

/-- Ways in which a requester's miss may allocate: those of its mask that are powered and not being walked (R275, R278). -/
def allowedWays (c : Cache) (mask : BitVec 16) : List Nat :=
  (List.range 16).filter fun w => bit mask w && bit c.powered w && !c.walks.contains w

/-- The way a miss takes: the lowest-numbered invalid one of the set, else the least recently used, with the line it evicts (R275). -/
def chooseWay (c : Cache) (mask : BitVec 16) (line : Nat) : Option (Nat × Option CacheLine) :=
  let here := c.lines.filter fun l => l.line % 1024 == line % 1024
  let ways := allowedWays c mask
  match ways.find? fun w => !here.any fun l => l.way == w with
  | some w => some (w, none)
  | none => ((sortBy (fun a b => decide (a.used < b.used)) (here.filter fun l => ways.contains l.way)).head?).map fun l => (l.way, some l)

/-- A miss: a line is allocated where the mask allows one, after the eviction's write has completed; unless the whole line is about to be
written it is filled. Answers whether the line is now in the cache (R275, R276; log entry 120). -/
def miss (m : Mem) (mask : BitVec 16) (line : Nat) (whole : Bool) : Mem × Bool :=
  match chooseWay m.cache mask line with
  | none => (m, false)
  | some (w, old) =>
    let m := match old with
      | some l => evict m l
      | none => m
    if whole then (putLine m { line := line, way := w }, true)
    else
      let (m, bad) := loadLine 0 (onBus m false line) line
      if bad then ({ m with fault := true }, true) else (putLine m { line := line, way := w }, true)

/-- A hit is read: an uncorrectable clean line is refilled and counts as a correction; a dirty one is written back poisoned, and the
requester's command fails (Table 11.2). -/
def readHit (m : Mem) (l : CacheLine) : Mem :=
  let (m, l', bad) := checkLine m l
  if !bad then putLine m l'
  else if l.dirty then evict m l
  else
    let (m, bad) := loadLine 0 (onBus (dropLine { m with corr := m.corr ++ [1] } l.line) false l.line) l.line
    if bad then { m with fault := true } else putLine m { l with words := [] }

/-- A requester reads a line. -/
def readLine (mask : BitVec 16) (m : Mem) (line : Nat) : Mem :=
  match findLine m line with
  | some l => readHit m l
  | none =>
    let (m, here) := miss m mask line false
    if here then m
    else
      let (m, bad) := loadLine 0 (onBus m false line) line
      { m with fault := m.fault || bad }

/-- Words of a line that a write of its bytes from and to covers, and those it covers in part. -/
def wholeWords (line from_ upTo : Nat) : List Nat := (lineWords line).filter fun w => decide (from_ ≤ 8 * (w % 8)) && decide (8 * (w % 8) + 8 ≤ upTo)
def partWords (line from_ upTo : Nat) : List Nat :=
  (lineWords line).filter fun w => decide (8 * (w % 8) < upTo) && decide (from_ < 8 * (w % 8) + 8) && !(wholeWords line from_ upTo).contains w

/-- A word is written in a cached line. -/
def cacheWord (m : Mem) (l : CacheLine) (w : Nat) : Mem × CacheLine :=
  if flipArmed m.ecc 2 w then ({ m with ecc := flipSpent m.ecc }, { l with words := setFlip w (flipMask m.ecc) l.words })
  else (m, { l with words := delKey w l.words })

/-- A line in the cache is written. -/
def writeHit (m : Mem) (line from_ upTo : Nat) : Mem :=
  match findLine m line with
  | none => m
  | some l =>
    let (m, l) := (wholeWords line from_ upTo ++ partWords line from_ upTo).foldl (fun a w => cacheWord a.1 a.2 w) (m, l)
    putLine ((wholeWords line from_ upTo).foldl newData m) { l with dirty := true }

/-- A word of which a write covers a part: read, merged and written back, poisoned where the read is uncorrectable; then the command
fails (R287). -/
def mergeWord (m : Mem) (w : Nat) : Mem :=
  let (m, bad) := loadWord (m, false) w
  if bad then storeWord poison { m with bad := m.bad ++ [(2, 0, w / 8)], fault := true } w else storeWord (0, 0) m w

/-- A requester writes bytes of a line (R275, R287). -/
def writeLine (mask : BitVec 16) (m : Mem) (x : Nat × Nat × Nat) : Mem :=
  let (line, from_, upTo) := x
  let part := partWords line from_ upTo
  match findLine m line with
  | some l => writeHit (if part.isEmpty then m else readHit m l) line from_ upTo
  | none =>
    let (m, here) := miss m mask line (decide (from_ = 0) && decide (64 ≤ upTo))
    if here then writeHit m line from_ upTo
    else part.foldl mergeWord ((wholeWords line from_ upTo).foldl (fun m w => storeWord (0, 0) (newData m w) w) (onBus m true line))

/-! ### Accesses -/

/-- The lines of a range of bytes, each with the part of it that the range covers. -/
def lineSpans (a n : Nat) : List (Nat × Nat × Nat) :=
  if n = 0 then []
  else (List.range ((a + n - 1) / 64 + 1 - a / 64)).map fun i =>
    let l := a / 64 + i
    (l, a - 64 * l, min 64 (a + n - 64 * l))

/-- An access by a requester with an allocation mask of Table 10.5: reading or writing n bytes at an internal address. -/
structure MemOp where
  write : Bool
  mask : BitVec 16
  at_ : Nat
  n : Nat
  deriving DecidableEq, Repr

/-- One access. -/
def memAccess (m : Mem) (o : MemOp) : Mem :=
  let l := lineSpans o.at_ o.n
  if o.write then l.foldl (writeLine o.mask) m else l.foldl (fun m x => readLine o.mask m x.1) m

/-- What was found is counted and reported (R289, R290). -/
def memReport (s : State) (m : Mem) : State :=
  m.bad.foldl (fun t x => eccUncorr t x.1 x.2.1 false false x.2.2)
    (m.corr.foldl eccCorrect { s with cache := m.cache, ecc := m.ecc })

/-- Accesses in order; answers whether the requester's command fails. -/
def memRun (s : State) (l : List MemOp) : State × Bool :=
  if l.isEmpty then (s, false)
  else
    let m := l.foldl memAccess { cache := { s.cache with bus := [] }, ecc := s.ecc }
    (memReport s m, m.fault)

/-- The mask of the engines, of firmware and of the free store (Table 10.5). -/
def engineMask : BitVec 16 := 0xF000

/-- The mask of a fold's transfers (Table 10.5). -/
def foldMask (s : State) (f : FoldId) : BitVec 16 := (s.fold f).record.wayMask

/-- The stretches of a working set that hold n bytes from an offset: buffers are used over and over in their order (R113; log entry
120). -/
def setSpans (bufs : List Nat) : Nat → Nat → Nat → List (Nat × Nat)
  | 0, _, _ => []
  | fuel + 1, o, n =>
    if n = 0 || bufs.isEmpty then []
    else
      let k := min n (4096 - o % 4096)
      (4096 * bufs.getD (o / 4096 % bufs.length) 0 + o % 4096, k) :: setSpans bufs fuel (o + k) (n - k)

/-- Accesses to n bytes of a working set. -/
def setOps (write : Bool) (mask : BitVec 16) (bufs : List Nat) (o n : Nat) : List MemOp :=
  (setSpans bufs (n / 4096 + 2) o n).map fun p => { write := write, mask := mask, at_ := p.1, n := p.2 }

/-- The place of a block in a pen buffer, which holds blocks 2p and 2p + 1 (chapter 5). -/
def penAddress (buf lba : Nat) : Nat := 4096 * buf + lba % 2 * 2048

/-- The data that words deliver from an address, with the bits that no code has caught wrong (R286). -/
def asStored (e : Ecc) (a : Nat) (l : List Byte) : List Byte :=
  if e.wrong.isEmpty then l
  else l.zipIdx.map fun p => match getKey ((a + p.2) / 8) e.wrong with
    | some x => p.1 ^^^ (x >>> (8 * ((a + p.2) % 8))).setWidth 8
    | none => p.1

/-! ### Walks (R277 to R279) -/

/-- A way is cleaned: each dirty line is written back and every line is invalidated, in the order of the sets; WRITEBACKS counts the
writes of walks (R277, R278, Table 10.10). -/
def cleanWay (s : State) (w : Nat) : State :=
  let mine := sortBy (fun a b => decide (a.line % 1024 < b.line % 1024)) (s.cache.lines.filter fun l => l.way == w)
  let m := mine.foldl evict { cache := { s.cache with bus := [] }, ecc := s.ecc }
  let t := memReport s m
  { t with cache := { t.cache with writebacks := sat 16 (t.cache.writebacks + (mine.filter (·.dirty)).length) } }

end Sys2Proof.Machine
end

