-- ==== Sys2Proof/Machine/ConfigSpace.lean ====
section
/-! DEFINITION. Machine/ConfigSpace.lean: what each PCIe function reports in its configuration space (R4, R30, R31, Table 2.1), its
routing ID, and the memory requests that Lorvaus makes for a fold as they stand on the link (R82). No row reads configuration space;
`functionConfig` is what such a read finds. -/
namespace Sys2Proof.Machine

/-- The SR-IOV capability, which the physical function alone has (R4, R30, Table 2.1). -/
structure SriovCap where
  firstVfOffset : Nat
  vfStride : Nat
  vfDeviceId : Half
  totalVfs : Nat
  initialVfs : Nat
  numVfs : Nat
  vfEnable : Bool
  deriving DecidableEq, Repr

/-- One function's configuration space (Table 2.1). -/
structure FnConfig where
  vendorId : Half
  deviceId : Half
  revisionId : Byte
  classCode : BitVec 24
  subsystemVendorId : Half
  subsystemId : Half
  /-- BAR0 in bytes; BAR1 to BAR5 are not implemented -/
  bar0Bytes : Nat
  bar0Is64 : Bool
  bar0Prefetchable : Bool
  msixVectors : Nat
  msi : Bool
  intx : Bool
  flr : Bool
  aer : Bool
  maxPayloadSupported : Nat
  maxPayload : Nat
  maxReadRequest : Nat
  busMaster : Bool
  /-- the link: generation and lanes -/
  linkGen : Nat
  linkWidth : Nat
  aspmL0s : Bool
  aspmL1 : Bool
  l1Substates : List Nat
  ats : Bool
  pasid : Bool
  resizableBar : Bool
  sriov : Option SriovCap
  deriving DecidableEq, Repr

/-- What fold f's function reports (Table 2.1): a virtual function's own Vendor ID and Device ID registers read 0xFFFF (R4). -/
def functionConfig (s : State) (f : FoldId) : FnConfig :=
  let x := s.fold f
  { vendorId := if f = 0 then 0x1F4C else 0xFFFF
    deviceId := if f = 0 then 0x4410 else 0xFFFF
    revisionId := 0xB0
    classCode := 0x018000
    subsystemVendorId := 0x1F4C
    subsystemId := 0x0001
    bar0Bytes := 16384
    bar0Is64 := true
    bar0Prefetchable := false
    msixVectors := 8
    msi := false
    intx := false
    flr := true
    aer := true
    maxPayloadSupported := 256
    maxPayload := x.maxPayload
    maxReadRequest := x.maxReadRequest
    busMaster := x.busMaster
    linkGen := 3
    linkWidth := 1
    aspmL0s := false
    aspmL1 := true
    l1Substates := [1, 2]
    ats := false
    pasid := false
    resizableBar := false
    sriov := if f = 0 then
      some { firstVfOffset := 1, vfStride := 1, vfDeviceId := 0x4411, totalVfs := 7, initialVfs := 7
             numVfs := s.plat.numVfs, vfEnable := s.plat.vfEnable } else none }

/-- Fold n's routing ID: that of the physical function plus n, First VF Offset and VF Stride being 1 (R30). -/
def routingIdOf (s : State) (f : FoldId) : Half := s.plat.routingId + BitVec.ofNat 16 f.val

/-- A memory request as it stands on the link (R82). -/
structure Request where
  routingId : Half
  noSnoop : Bool
  relaxedOrdering : Bool
  isWrite : Bool
  addr : Nat
  len : Nat
  data : List Byte
  deriving DecidableEq, Repr

/-- A request never crosses 4 KiB and never exceeds a size: the parts of a transfer, with their offsets (R31). -/
def cutRequest (size : Nat) : Nat → Nat → Nat → Nat → List (Nat × Nat × Nat)
  | 0, _, _, _ => []
  | n + 1, a, off, l =>
    if l = 0 then []
    else
      let m := max 1 (min l (min size (4096 - a % 4096)))
      (a, off, m) :: cutRequest size n (a + m) (off + m) (l - m)

/-- The payload of a write is at most the programmed Max Payload Size, of the 256 bytes that Lorvaus supports (Table 2.1). -/
def payloadLimit (s : State) (f : FoldId) : Nat := min (s.fold f).maxPayload 256

/-- A read asks for at most the programmed Max Read Request Size and 512 bytes (Table 2.1). -/
def readLimit (s : State) (f : FoldId) : Nat := min (s.fold f).maxReadRequest 512

/-- The memory requests of one output; each carries its fold's routing ID, with No Snoop and Relaxed Ordering clear (R82). An MSI-X
message is a write of its vector's table entry (R33). -/
def requestsOf (s : State) : Out → List Request
  | .write f a l => (cutRequest (payloadLimit s f) l.length a 0 l.length).map fun p =>
      { routingId := routingIdOf s f, noSnoop := false, relaxedOrdering := false, isWrite := true, addr := p.1
        len := p.2.2, data := (l.drop p.2.1).take p.2.2 }
  | .readReq f a n => (cutRequest (readLimit s f) n a 0 n).map fun p =>
      { routingId := routingIdOf s f, noSnoop := false, relaxedOrdering := false, isWrite := false, addr := p.1
        len := p.2.2, data := [] }
  | .msix f v =>
    let e := (s.fold f).msix.toList.getD v {}
    [{ routingId := routingIdOf s f, noSnoop := false, relaxedOrdering := false, isWrite := true
       addr := e.addrLo.toNat / 4 * 4 + 2 ^ 32 * e.addrHi.toNat, len := 4, data := leBytes 4 e.data.toNat }]
  | _ => []

/-- The reads of a transfer from host memory, one output for each (R31, R82). -/
def readsFor (s : State) (f : FoldId) (addr len : Nat) : List Out :=
  (cutRequest (readLimit s f) len addr 0 len).map fun p => .readReq f p.1 p.2.2

end Sys2Proof.Machine
end

