-- ==== Sys2Proof/Machine/Operands.lean ====
section
/-! DEFINITION. Machine/Operands.lean: every operand form of a descriptor: its fields (Table 4.1), its opcode (Tables 4.6,
4.9 to 4.11), the field checks of Table 4.3, the scatter list (R100, R101), implied lengths (R103) and working sets (R113). -/
namespace Sys2Proof.Machine

/-- A 64-bit field from two DWs, low first. -/
def dw64 (lo hi : Word) : Nat := lo.toNat + 2 ^ 32 * hi.toNat

/-- The fields of a descriptor (Table 4.1). -/
def fieldsOf (r : RawDesc) : Fields where
  opcode := bits r.dw0 7 0
  dupchk := bit r.dw0 8
  irq := bit r.dw0 9
  fence := bit r.dw0 10
  specok := bit r.dw0 11
  sealedFlag := bit r.dw0 12
  reserved := bits r.dw0 15 13
  tag := BitVec.ofNat 16 (bits r.dw0 31 16)
  stream := bits r.dw1 7 0
  keySlot := bits r.dw1 15 8
  timeout := bits r.dw1 31 16
  address := dw64 r.dw2 r.dw3
  count := bits r.dw4 15 0
  opfield := BitVec.ofNat 16 (bits r.dw4 31 16)
  length := r.dw5.toNat
  listPtr := dw64 r.dw6 r.dw7
  aadPtr := dw64 r.dw8 r.dw9
  aadLen := bits r.dw10 15 0
  auxPtr := dw64 r.dw12 r.dw13
  opdata := BitVec.ofNat 64 (dw64 r.dw14 r.dw15)

/-- The assigned opcodes (Tables 4.6, 4.9, 4.10, 4.11 and R121). -/
def opOf : Nat → Option Op
  | 0x00 => some .nop | 0x10 => some .identifyDisc | 0x11 => some .loadEject | 0x12 => some .lockMedium
  | 0x13 => some .spin | 0x14 => some .seekHint | 0x20 => some .read | 0x21 => some .readRaw
  | 0x22 => some .write | 0x23 => some .verify | 0x24 => some .close | 0x25 => some .format
  | 0x26 => some .reserveTrack | 0x30 => some .sealedRead | 0x31 => some .sealedWrite
  | 0x32 => some .keyLoad | 0x33 => some .keyClear | 0x34 => some .sealBuffer | 0x35 => some .openBuffer
  | 0x40 => some .vaultGet | 0x41 => some .vaultPut | 0x42 => some .vaultDelete | 0x43 => some .vaultList
  | 0x50 => some .scan | 0x51 => some .energyRead | 0x52 => some .telemetry | 0x53 => some .timeRead
  | 0x60 => some .foldSet | 0x61 => some .grantInvalidate | 0x62 => some .profileLoad | 0x63 => some .timeSet
  | 0x64 => some .tariffSet | 0x65 => some .energyClose | 0x66 => some .collieArm | 0x67 => some .collieServe
  | 0x68 => some .modeSet | 0x69 => some .calibrate | 0x6A => some .fwDownload | 0x6B => some .fwActivate
  | 0x6C => some .logRead | 0x70 => some .mmcPass
  | _ => none

/-- Opcodes 0x60 to 0x6C are reserved to fold 0 (R38). -/
def opPlatform : Op → Bool
  | .foldSet | .grantInvalidate | .profileLoad | .timeSet | .tariffSet | .energyClose | .collieArm | .collieServe
  | .modeSet | .calibrate | .fwDownload | .fwActivate | .logRead => true
  | _ => false

/-- Opcodes 0x30 to 0x35 carry SEALED = 1 (Table 4.1). -/
def opSealed : Op → Bool
  | .sealedRead | .sealedWrite | .keyLoad | .keyClear | .sealBuffer | .openBuffer => true
  | _ => false

/-- Opcodes whose COUNT is a number of blocks from ADDRESS (R102, R112). -/
def opBlocks : Op → Bool
  | .seekHint | .read | .readRaw | .write | .verify | .sealedRead | .sealedWrite | .scan => true
  | _ => false

/-- Vault opcodes, whose COUNT is a key length (Table 4.10). -/
def opVault : Op → Bool
  | .vaultGet | .vaultPut | .vaultDelete | .vaultList => true
  | _ => false

/-- Opcodes that use a scatter list (log entry 6). -/
def opList : Op → Bool
  | .identifyDisc | .read | .readRaw | .write | .sealedRead | .sealedWrite | .keyLoad | .sealBuffer | .openBuffer
  | .vaultGet | .vaultPut | .vaultList | .scan | .energyRead | .telemetry | .timeRead | .foldSet | .profileLoad
  | .timeSet | .tariffSet | .energyClose | .calibrate | .fwDownload | .logRead | .mmcPass => true
  | _ => false

/-- Opcodes that need AUX_PTR (R117, R121; log entry 9). -/
def opAux : Op → Bool
  | .sealedRead | .sealedWrite | .sealBuffer | .openBuffer | .mmcPass => true
  | _ => false

/-- Opcodes that name a key slot (Table 4.9). -/
def opKey (o : Op) : Bool := opSealed o

/-- Opcodes that write data (R133, R137, R99). -/
def opWrites : Op → Bool
  | .write | .sealedWrite | .close | .format | .reserveTrack => true
  | _ => false

/-- Commands that stop at a block boundary when their timeout expires (R99). -/
def opReads : Op → Bool
  | .read | .readRaw | .verify | .sealedRead | .scan => true
  | _ => false

/-- Opcodes that need a disc (R112, Tables 4.6, 4.9, 4.11). -/
def opDisc : Op → Bool
  | .identifyDisc | .spin | .seekHint | .read | .readRaw | .write | .verify | .close | .format | .reserveTrack
  | .sealedRead | .sealedWrite | .scan | .mmcReply => true
  | _ => false

/-- Opcodes with DUPCHK forced on (Table 3.3). -/
def dupForced : Op → Bool
  | .write | .format | .sealedWrite | .vaultPut | .vaultDelete | .foldSet | .profileLoad | .timeSet | .tariffSet
  | .energyClose | .collieArm | .modeSet | .fwDownload | .fwActivate => true
  | _ => false

/-- The four scopes of a grant check (R112). -/
inductive Scope where
  | range | whole | disc | none
  deriving DecidableEq, Repr

/-- Rights bits of a grant (Table 2.3). -/
def rightRead : BitVec 8 := 1
def rightWrite : BitVec 8 := 2
def rightEject : BitVec 8 := 4
def rightLock : BitVec 8 := 8
def rightSealed : BitVec 8 := 16
def rightScan : BitVec 8 := 32
def rightVault : BitVec 8 := 64

/-- The right or rights an opcode needs and their scope; none makes no grant check (R112, Tables 4.6, 4.9 to 4.11). -/
def opGrant : Op → Option (BitVec 8 × Scope)
  | .identifyDisc | .spin | .mmcReply => some (rightRead, .disc)
  | .loadEject => some (rightEject, .none)
  | .lockMedium => some (rightLock, .none)
  | .seekHint | .read | .readRaw | .verify => some (rightRead, .range)
  | .write => some (rightWrite, .range)
  | .close | .reserveTrack => some (rightWrite, .disc)
  | .format => some (rightWrite, .whole)
  | .sealedRead => some (rightRead ||| rightSealed, .range)
  | .sealedWrite => some (rightWrite ||| rightSealed, .range)
  | .keyLoad | .keyClear | .sealBuffer | .openBuffer => some (rightSealed, .none)
  | .vaultGet | .vaultPut | .vaultDelete | .vaultList => some (rightVault, .none)
  | .scan => some (rightScan, .range)
  | _ => none

/-- The profile types of R120 with their lengths (Tables 6.10, 7.8, 8.6, 9.6). -/
def profileLen : Nat → Option Nat
  | 0x10 => some 16 | 0x11 => some 160 | 0x12 => some 16 | 0x13 => some 64 | 0x14 => some 64 | 0x15 => some 16
  | 0x16 => some 16 | 0x20 => some 32 | 0x21 => some 48 | 0x22 => some 512 | 0x23 => some 16 | 0x24 => some 16
  | 0x30 => some 64 | 0x31 => some 16 | 0x32 => some 16 | 0x40 => some 1088 | 0x41 => some 16 | 0x42 => some 16
  | 0x43 => some 16
  | _ => none

/-- The disc LBA in ADDRESS, DW3 ignored (Table 4.1). -/
def lbaOf (x : Fields) : Nat := x.address % 2 ^ 32

/-- Check 4 of Table 4.3: COUNT under R102, which holds for every opcode that uses COUNT, and the vault key length; `maxBlocks` is the
fold's MAX_BLOCKS. -/
def countBad (o : Op) (x : Fields) (maxBlocks : Nat) : Bool :=
  (opBlocks o && (x.count == 0 || decide (maxBlocks < x.count))) ||
  ((o == .sealedRead || o == .sealedWrite) && decide (512 < x.count)) ||
  (opVault o && (x.count == 0 || decide (maxBlocks < x.count) || decide (32 < x.count)))

/-- COLLIE ARM's fields against Table 15.1 (R377). -/
def collieArmBad (x : Fields) : Bool :=
  let w := x.opfield
  let wOpen := bits x.opdata 47 32
  let wClose := bits x.opdata 63 48
  bits w 15 6 != 0 || (!bit w 5 && (bits w 1 0 == 0 || bits w 4 2 == 0 || wOpen == 65535 || decide (wClose ≤ wOpen)))

/-- The size of a wrapped or plain key (R117). -/
def keyBytes (w : BitVec 16) : Nat := (if bit w 0 then 32 else 16) + (if bit w 2 then 8 else 0)

/-- Check 5 of Table 4.3: the conditions that depend on the descriptor's own fields (R102, R35, R117, R460). -/
def fieldBad (o : Op) (x : Fields) : Bool :=
  (opBlocks o && decide (2 ^ 32 - 1 < lbaOf x + x.count - 1)) ||
  (opKey o && decide (1 < x.keySlot)) ||
  (opAux o && x.auxPtr == 0) ||
  match o with
  | .close | .format => bits x.opfield 1 0 == 3
  | .reserveTrack => bits x.opdata 31 0 == 0
  | .keyLoad => bit x.opfield 2 && x.length != keyBytes x.opfield
  | .sealBuffer | .openBuffer => x.length == 0 || decide (2 ^ 20 < x.length)
  | .vaultPut => x.length == 0 || decide (4096 < x.length)
  | .energyRead => bits x.opfield 15 1 != 0
  | .profileLoad => bits x.opfield 15 8 != 0 || (profileLen (bits x.opfield 7 0)).isNone
  | .modeSet => decide (3 < x.opfield.toNat)
  | .calibrate => bits x.opfield 5 0 == 0 || bits x.opfield 15 6 != 0
  | .fwDownload => bits (BitVec.ofNat 64 x.address) 7 0 != 0 || x.length % 256 != 0 || x.length == 0 ||
      decide (65536 < x.length) || decide (0x100000 < lbaOf x + x.length)
  | .fwActivate => x.opfield != 1 && x.opfield != 2
  | .logRead => decide (x.length < 32)
  | .collieArm => collieArmBad x
  | .mmcPass => x.aadLen != 6 && x.aadLen != 10 && x.aadLen != 12
  | _ => false

/-- Checks 1 to 5 of Table 4.3 in order (R104): the opcode, or the status of the first failure. -/
def checkFields (f : FoldId) (x : Fields) (maxBlocks : Nat) : Except Status Op :=
  match opOf x.opcode with
  | none => .error .badOpcode
  | some o =>
    if f.val ≠ 0 ∧ (opPlatform o || (o == .loadEject && bit x.opfield 1)) = true then .error .notPlatform
    else if x.reserved ≠ 0 ∨ x.tag = 0xFFFF ∨ x.sealedFlag ≠ opSealed o ∨ x.listPtr % 16 ≠ 0 ∨ x.auxPtr % 16 ≠ 0 then
      .error .badField
    else if countBad o x maxBlocks then .error .badCount
    else if fieldBad o x then .error .badField
    else .ok o

/-- One medium's blocks to a recording unit: a BD cluster, a DVD ECC block, a CD sector (chapter 5). -/
def unitBlocks : Medium → Nat
  | .cdRom | .cdR | .cdRw => 1
  | .dvdRom | .dvdR | .dvdPlusR | .dvdRw | .dvdPlusRw => 16
  | .bdRom | .bdR | .bdRe => 32

/-- How many recording units hold a block of a range. -/
def unitsTouched (ub lba count : Nat) : Nat := if count = 0 then 0 else (lba + count - 1) / ub - lba / ub + 1

/-- A READ RAW unit's bytes (Table 4.8). -/
def rawUnit (m : Medium) (form : Nat) : Nat :=
  match m with
  | .cdRom | .cdR | .cdRw => (if form % 2 = 1 then 294 else 0) + (if 2 ≤ form then 96 else 0) + 2352
  | .dvdRom | .dvdR | .dvdPlusR | .dvdRw | .dvdPlusRw => 2064
  | .bdRom | .bdR | .bdRe => 2052

/-- The implied length that step 1 knows (R103, R119 and each opcode's chapter); none where it is known later: READ RAW at
step 5 (R115), VAULT GET when the value is found (R118), MMC PASS when the command block is read, SCAN without a disc. -/
def implied (o : Op) (x : Fields) (disc : Option DiscInfo) : Option Nat :=
  match o with
  | .read | .write | .sealedRead | .sealedWrite => some (x.count * 2048)
  | .identifyDisc | .telemetry | .foldSet | .tariffSet => some 64
  | .timeRead | .timeSet => some 16
  | .energyClose => some 128
  | .energyRead => some (if bit x.opfield 0 then 1536 else 128)
  | .calibrate => some 8
  | .keyLoad => some (keyBytes x.opfield)
  | .sealBuffer | .openBuffer | .vaultPut | .fwDownload => some x.length
  | .vaultList => some (x.length / 36 * 36)
  | .logRead => some (x.length / 32 * 32)
  | .profileLoad => profileLen (bits x.opfield 7 0)
  | .scan => disc.map fun d => 32 * unitsTouched (unitBlocks d.medium) (lbaOf x) x.count
  | .readRaw | .vaultGet | .mmcPass | .mmcReply => none
  | _ => some 0

/-- Walk a list as read, in traversal order: the data entries as (address, length), or none where R100 rejects it. `seg`
is how many entries the present segment still has; none in the first, which has no stated size (log entry 8). -/
def walkList : List RawEntry → Option Nat → Nat → List (Nat × Nat) → Option (List (Nat × Nat))
  | [], _, _, _ => none
  | e :: r, seg, n, acc =>
    let chain := bit e.flags 0
    let fin := bit e.flags 1
    if 256 ≤ n ∨ seg = some 0 ∨ bits e.flags 31 2 ≠ 0 ∨ (chain && fin) = true then none
    else if chain then
      if e.addr.toNat % 16 ≠ 0 ∨ e.len.toNat = 0 ∨ e.len.toNat % 16 ≠ 0 then none
      else walkList r (some (e.len.toNat / 16)) (n + 1) acc
    else if e.len.toNat = 0 ∨ 0x1000000 < e.len.toNat then none
    else if fin then some (acc ++ [(e.addr.toNat, e.len.toNat)])
    else walkList r (seg.map (· - 1)) (n + 1) (acc ++ [(e.addr.toNat, e.len.toNat)])

/-- The bytes of one read of the list from an address: within the read size, the rest of the segment where it is known, and the 4 KiB
that a request may not cross (R31, R82, R100). -/
def listChunk (size addr : Nat) (seg : Option Nat) : Nat :=
  let n := min size (4096 - addr % 4096)
  match seg with
  | some k => min n (16 * k)
  | none => n

/-- The reads that a list takes, in order: address and length. `left` is what the read under way still covers, in entries. -/
def listReads (size : Nat) : List RawEntry → Nat → Option Nat → Nat → List (Nat × Nat)
  | [], _, _, _ => []
  | e :: r, addr, seg, left =>
    let n := if left = 0 then listChunk size addr seg else 16 * left
    let here := if left = 0 then [(addr, n)] else []
    here ++ if bit e.flags 0 then listReads size r e.addr.toNat (some (e.len.toNat / 16)) 0
      else listReads size r (addr + 16) (seg.map (· - 1)) (n / 16 - 1)

/-- A list is well formed and its data lengths sum to LENGTH (R100). -/
def checkList (es : List RawEntry) (length : Nat) : Option (List (Nat × Nat)) :=
  match walkList es none 0 [] with
  | none => none
  | some l => if sumOf (·.2) l = length then some l else none

/-- A descriptor's buffer working set (R113). -/
def workingSet (o : Op) (x : Fields) (rawLen : Nat) : Nat :=
  let l := match o with
    | .read | .write | .verify | .sealedRead | .sealedWrite => x.count * 2048
    | .readRaw => rawLen
    | .sealBuffer | .openBuffer => x.length
    | _ => 0
  ceilDiv (min l 262144) 4096

/-- REREADS of a reading command (Table 4.6, R109); READ RAW keeps its own in OPDATA, where a READ CD of MMC PASS puts
those of its OPFIELD (R121). -/
def rereadsOf (d : Desc) : Nat := if d.op == .readRaw then bits d.fld.opdata 3 0 else bits d.fld.opfield 3 0
/-- NO_SECOND of a reading command; READ RAW has none and never runs second look (R227). -/
def noSecondOf (d : Desc) : Bool := d.op == .readRaw || bit d.fld.opfield 4

end Sys2Proof.Machine
end

