-- ==== Sys2Proof/Machine/Tracks.lean ====
section
/-! DEFINITION. Machine/Tracks.lean: the loaded disc as chapters 4, 8 and 9 use it: media classes, tracks, the next
writable block, blank and writable ranges, CLOSE, RESERVE TRACK, FORMAT and the disc record (R114 to R116, R224, R236,
R453 to R458). -/
namespace Sys2Proof.Machine

/-- MEDIUM codes (Table 4.7). -/
def mediumCode : Medium → Nat
  | .cdRom => 0x01 | .cdR => 0x02 | .cdRw => 0x03 | .dvdRom => 0x10 | .dvdR => 0x11 | .dvdPlusR => 0x12
  | .dvdRw => 0x13 | .dvdPlusRw => 0x14 | .bdRom => 0x20 | .bdR => 0x21 | .bdRe => 0x22

/-- Media recorded once (R453). -/
def writeOnce : Medium → Bool
  | .cdR | .dvdR | .dvdPlusR | .bdR => true
  | _ => false

/-- Rewritable media (R454). -/
def rewritable : Medium → Bool
  | .cdRw | .dvdRw | .dvdPlusRw | .bdRe => true
  | _ => false

/-- Recordable media: everything that is not pressed. -/
def recordable (m : Medium) : Bool := writeOnce m || rewritable m

/-- A CD. -/
def isCd : Medium → Bool
  | .cdRom | .cdR | .cdRw => true
  | _ => false

/-- A BD. -/
def isBd : Medium → Bool
  | .bdRom | .bdR | .bdRe => true
  | _ => false

/-- The medium index of channel and servo profiles: 0 CD, 1 DVD, 2 BD, 3 BDXL (R235). -/
def mediumIndex (d : DiscInfo) : Fin 4 :=
  if isCd d.medium then 0 else if isBd d.medium then (if 3 ≤ d.layers then 3 else 2) else 1

/-- The medium class of servo profiles: 0 CD, 1 DVD, 2 BD including BDXL (chapter 6). -/
def mediumClass (d : DiscInfo) : Fin 3 := if isCd d.medium then 0 else if isBd d.medium then 2 else 1

/-- Blocks of the loaded disc's recording unit. -/
def discUnit (d : DiscInfo) : Nat := unitBlocks d.medium

/-- The number of speed classes of Table 7.2 (R189). -/
def classesOf (_ : Medium) : Nat := 4

/-- A track is open: it has an unrecorded block and has not been closed (R453). -/
def trackOpen (t : Track) : Bool := t.isOpen && t.next.isSome

/-- The open track of the highest number. -/
def lastOpen (d : DiscInfo) : Option Track := (d.tracks.filter trackOpen).getLast?

/-- The open-ended track (R453). -/
def openEnded (d : DiscInfo) : Option Track := d.tracks.find? fun t => t.isOpen && !t.reserved

/-- NEXT_WRITABLE (Table 4.7, R453, R454). -/
def nextWritable (d : DiscInfo) : Option Nat :=
  if writeOnce d.medium then (lastOpen d).bind (·.next)
  else if rewritable d.medium then
    if d.writeProtected || d.finalised then none
    else match d.lastRecorded with
      | none => some 0
      | some l => if l + 1 = d.capacity then none else some (l + 1)
  else none

/-- A number that may be absent, as the 32-bit field that reports 0xFFFF_FFFF for it. -/
def orFF (o : Option Nat) : Nat := o.getD 0xFFFFFFFF

/-- The 64-byte disc record (Table 4.7). -/
def discRecord (d : DiscInfo) : List Byte :=
  leBytes 8 d.discId.toNat ++ leBytes 1 (mediumCode d.medium) ++ leBytes 1 d.layers ++
    leBytes 1 (b2n d.writeProtected + 2 * b2n d.bca + 4 * b2n d.finalised) ++ leBytes 1 (classesOf d.medium) ++
    leBytes 4 d.capacity ++ leBytes 4 (orFF (nextWritable d)) ++ leBytes 4 (orFF d.lastRecorded) ++ zeros 40

/-- A range holds a block that was never recorded, as R116 and R455 judge it. -/
def blankRange (d : DiscInfo) (lba count : Nat) : Bool :=
  recordable d.medium &&
    ((match d.lastRecorded with
      | none => true
      | some l => decide (l < lba + count - 1)) ||
     (writeOnce d.medium && d.tracks.any fun t => trackOpen t &&
        match t.next with
        | some n => decide (max lba n ≤ min (lba + count - 1) t.last)
        | none => false))

/-- A range includes a CD-DA sector (R224). -/
def cddaRange (d : DiscInfo) (lba count : Nat) : Bool :=
  d.cdda.any fun r => decide (max lba r.1 ≤ min (lba + count - 1) r.2)

/-- The block after the unit that holds block b − 1: the end of a range padded under R251 (log entry 11). -/
def padEnd (ub b : Nat) : Nat := ceilDiv b ub * ub

/-- Recording is refused whatever the range: pressed or write-protected media (R236). -/
def neverWritable (d : DiscInfo) : Bool := !recordable d.medium || d.writeProtected

/-- A WRITE or SEALED WRITE may record this range (R236, R255, R454, R456). -/
def writeRangeOk (d : DiscInfo) (lba count : Nat) : Bool :=
  !neverWritable d && !d.finalised &&
    (rewritable d.medium || d.tracks.any fun t =>
      trackOpen t && t.next == some lba && decide (padEnd (discUnit d) (lba + count) - 1 ≤ t.last))

/-- RESERVE TRACK of a size in blocks: the disc it leaves and the reserved track (R457); none is OUT_OF_RANGE. -/
def reserveTrack (d : DiscInfo) (size : Nat) : Option (DiscInfo × Track) :=
  if !writeOnce d.medium || d.writeProtected || d.finalised then none
  else match openEnded d with
    | none => none
    | some t =>
      let n := ceilDiv size (discUnit d) * discUnit d
      if t.next ≠ some t.first ∨ t.last + 1 - t.first < n then none
      else
        let r : Track := { t with last := t.first + n - 1, reserved := true }
        let start := t.first + n + Config.afterLink (mediumCode d.medium) false (t.first + n - 1)
        let rest : List Track := if start ≤ t.last then
          [{ t with number := t.number + 1, first := start, next := some start }] else []
        some ({ d with tracks := (d.tracks.filter fun u => u.number != t.number) ++ [r] ++ rest }, r)

/-- The tracks and the last recorded block once one track is closed (R458), without the new open-ended track. -/
def closeOne (d : DiscInfo) (t : Track) : DiscInfo :=
  let fin := if t.reserved then t.last else (t.next.getD (t.last + 1)) - 1
  let u : Track := { t with last := fin, next := none, isOpen := false }
  let lr := if trackOpen t && t.reserved then max t.last (d.lastRecorded.getD 0) else d.lastRecorded.getD 0
  { d with tracks := d.tracks.map fun v => if v.number == t.number then u else v
           lastRecorded := if t.reserved || d.lastRecorded.isSome then some lr else none }

/-- The new empty open-ended track after a block, past whatever the format places there. -/
def newOpenTrack (d : DiscInfo) (number last : Nat) (session : Bool) : List Track :=
  let start := last + 1 + Config.afterLink (mediumCode d.medium) session last
  if start < d.capacity then
    [{ number := number, first := start, last := d.capacity - 1, next := some start, isOpen := true, reserved := false,
       session := d.session + b2n session }]
  else []

/-- CLOSE of a track (R458); none is OUT_OF_RANGE. -/
def closeTrack (d : DiscInfo) (num : Nat) : Option DiscInfo :=
  match d.tracks.find? fun t => t.number == num with
  | none => none
  | some t =>
    if !t.isOpen then none
    else if t.reserved then some (closeOne d t)
    else if t.next = some t.first then none
    else
      let e := closeOne d t
      some { e with tracks := e.tracks ++ newOpenTrack d (t.number + 1) ((t.next.getD (t.last + 1)) - 1) false }

/-- The session holds a recorded block. -/
def sessionRecorded (d : DiscInfo) : Bool :=
  d.tracks.any fun t => t.session == d.session && t.next != some t.first

/-- Every open track of the session closed; an empty open-ended track is dropped (R458; log entry 13). -/
def closeSessionTracks (d : DiscInfo) : DiscInfo :=
  let e := d.tracks.foldl (fun e t => if t.isOpen && (t.reserved || t.next != some t.first) then closeOne e t else e) d
  { e with tracks := e.tracks.filter fun t => !(t.isOpen && !t.reserved) }

/-- CLOSE of a session (R458); none is OUT_OF_RANGE. -/
def closeSession (d : DiscInfo) : Option DiscInfo :=
  if !sessionRecorded d then none
  else
    let e := closeSessionTracks d
    let num := e.tracks.foldl (fun a t => max a t.number) 0 + 1
    let last := e.tracks.foldl (fun a t => max a t.last) 0
    some { e with tracks := e.tracks ++ newOpenTrack e num last true, session := e.session + 1 }

/-- Finalisation (R458, R255); none is OUT_OF_RANGE. -/
def finaliseDisc (d : DiscInfo) : Option DiscInfo :=
  if d.lastRecorded.isNone && !(d.tracks.any fun t => t.next != some t.first) then none
  else some { closeSessionTracks d with finalised := true }

/-- CLOSE, by its OPFIELD (R255, R458; log entry 14); none is OUT_OF_RANGE. -/
def closeDisc (d : DiscInfo) (what num : Nat) : Option DiscInfo :=
  if neverWritable d || d.finalised || d.medium == .bdRe then none
  else if writeOnce d.medium then
    if what = 0 then closeTrack d num else if what = 1 then closeSession d else finaliseDisc d
  else if what = 2 then some { d with finalised := true } else some d

/-- FORMAT is accepted (R255, R236). -/
def formatOk (d : DiscInfo) : Bool := rewritable d.medium && !d.writeProtected

/-- The disc after a FORMAT: quick leaves no user block recorded, full records them all (R255, R454). -/
def formatDisc (d : DiscInfo) (full : Bool) : DiscInfo :=
  { d with finalised := false, lastRecorded := if full then some (d.capacity - 1) else none }

/-- The disc once blocks up to (not including) `stop` are recorded from `lba`, padding included (R251, R453, R454). -/
def noteRecorded (d : DiscInfo) (lba stop : Nat) : DiscInfo :=
  if stop ≤ lba then d
  else
    let lr := some (max (stop - 1) (d.lastRecorded.getD 0))
    if writeOnce d.medium then
      { d with
        lastRecorded := lr
        tracks := d.tracks.map fun t =>
          if trackOpen t && decide (t.first ≤ lba) && decide (lba ≤ t.last) then
            { t with next := if t.last < stop then none else some stop } else t }
    else { d with lastRecorded := lr }

/-- The disc once recording stopped inside a unit: on write-once media the track moves past that unit (R252). -/
def notePartial (d : DiscInfo) (unitFirst : Nat) : DiscInfo :=
  if writeOnce d.medium then
    { d with tracks := d.tracks.map fun t =>
        if trackOpen t && decide (t.first ≤ unitFirst) && decide (unitFirst ≤ t.last) then
          { t with next := if t.last < unitFirst + discUnit d then none else some (unitFirst + discUnit d) } else t }
  else d

/-- The layer of a block: layers of equal size, in order (R459; log entry 18). -/
def layerOf (d : DiscInfo) (lba : Nat) : Nat :=
  if d.layers ≤ 1 then 0 else min (d.layers - 1) (lba / max 1 (ceilDiv d.capacity d.layers))

/-- A layer runs from the outer radius inward: layer 1 on BD and on DVD with opposite track path (R459). -/
def layerInward (d : DiscInfo) (layer : Nat) : Bool :=
  layer == 1 && (isBd d.medium || (!isCd d.medium && d.opposite))

/-- The radius of a block in µm: within 24 to 58 mm, along the direction of its layer; a block of a replaced unit is in its spare cluster,
which the model numbers on from the layer's user blocks (R190, R254, R459; log entry 119). How blocks crowd along the radius is
the disc's own layout, a free value. -/
def radiusOf (d : DiscInfo) (lba : Nat) : Nat :=
  let n := max 1 (ceilDiv d.capacity (max 1 d.layers))
  let y := layerOf d lba
  let i := match d.defects.find? fun x => decide (x.1 ≤ lba) && decide (lba < x.1 + unitBlocks d.medium) with
    | some x => n + x.2 * unitBlocks d.medium
    | none => lba - y * n
  clampN 24000 58000 (Config.radius (mediumCode d.medium) d.layers (if layerInward d y then n - 1 - i else i))

/-- The fastest class that is not faster than the medium's write speed (Table 9.1, R189). -/
def writeClass (d : DiscInfo) : Nat :=
  match d.medium with
  | .cdR | .dvdR | .dvdPlusR => 0
  | .cdRw | .dvdRw | .dvdPlusRw => 1
  | .bdR => if 3 ≤ d.layers then 1 else 0
  | .bdRe => 2
  | _ => 0

/-! ### The spindle's set-point (R54, R189, R190, Table 7.2) -/

/-- A speed class (Table 7.2): CAV at a speed in rpm, or ZCLV or CLV at a linear speed in mm/s. -/
inductive SpeedClass where
  | cav (rpm : Nat) | zclv (v : Nat) | clv (v : Nat)
  deriving DecidableEq, Repr

/-- The class of a disc's medium (Table 7.2). -/
def speedClass (d : DiscInfo) (cls : Nat) : SpeedClass :=
  match mediumClass d, cls with
  | 2, 0 => .cav 4857 | 2, 1 => .cav 3238 | 2, 2 => .zclv 9834 | 2, _ => .clv 4917
  | 1, 0 => .cav 4597 | 1, 1 => .cav 3448 | 1, 2 => .zclv 13960 | 1, _ => .clv 3490
  | 0, 0 => .cav 5137 | 0, 1 => .cav 3425 | 0, 2 => .zclv 13000 | 0, _ => .clv 1300

/-- 60 v / (2π r) in rpm, to the nearest: v in mm/s, r in µm (R190; log entry 41). -/
def clvRpm (v r : Nat) : Nat := (roundDiv ((30000 * v * 1000000000 : Nat) : Int) (3141592654 * max 1 r)).toNat

/-- The speed of a class at a radius in µm (R190). -/
def classRpm (c : SpeedClass) (r : Nat) : Nat :=
  match c with
  | .cav n => n
  | .zclv v => clvRpm v (24000 + (r - 24000) / 2000 * 2000)
  | .clv v => clvRpm v r

/-- A command on the mechanism uses its class; otherwise the spindle idles (R189). -/
def dataSpinning (s : State) : Bool :=
  match s.sys.mode with
  | .read | .write | .scan => true
  | .service => s.job.isSome
  | _ => false

/-- The class that a command of fold f uses: what its SPIN asked for, no faster than the medium's write speed where it records, and
lowered from there by pacing (R54, R189, R236). -/
def classFor (s : State) (f : FoldId) (d : DiscInfo) (writes : Bool) : Nat :=
  let asked := min (classesOf d.medium - 1) ((s.fold f).class_.getD 0)
  min (classesOf d.medium - 1) (max asked (if writes then writeClass d else 0) + s.spindle.paceDrop)

/-- The command on the mechanism records: WRITE, SEALED WRITE, CLOSE, FORMAT or RESERVE TRACK (R236). -/
def jobRecords (s : State) (j : Job) : Bool :=
  match s.desc? j.f j.k with
  | some d => opWrites d.op
  | none => j.kind == .writing

/-- The class in use now: the one a command has set, lowered by pacing (R54, R189). -/
def classInUse (s : State) (d : DiscInfo) : Nat :=
  match s.job with
  | some j => classFor s j.f d (jobRecords s j)
  | none => min (classesOf d.medium - 1) (s.spindle.class_.getD 0 + s.spindle.paceDrop)

/-- The radius in µm of the address now being read or written (R190): the last accepted one, else the command's next. -/
def radiusNow (s : State) : Nat :=
  match s.sled.radius, s.disc, s.job with
  | some r, _, _ => r
  | none, some d, some j => radiusOf d j.next
  | _, _, _ => 24000

/-- The set-point in rpm, clamped to SPIN_MAX (R189). -/
def setPointNow (s : State) : Nat :=
  match s.disc with
  | some d => if dataSpinning s then min s.spindle.inUse.spinMax (classRpm (speedClass d (classInUse s d)) (radiusNow s))
              else min s.spindle.inUse.spinMax s.spindle.inUse.idleRpm
  | none => min s.spindle.inUse.spinMax s.spindle.inUse.idleRpm

end Sys2Proof.Machine
end

