-- ==== Sys2Proof/Machine/PoolOps.lean ====
section
/-! DEFINITION. Machine/PoolOps.lean: the accounts of the buffer pool, when a request is granted, working sets, and the
pool operations of Table 10.3 (R262 to R270). -/
namespace Sys2Proof.Machine

/-- Buffers charged to an account, those set aside for its waiting requests included (R262, R265). -/
def acctUse (p : Pool) (a : Account) : Nat :=
  (p.bufs.filter fun b => b.2.acct == a).length + (p.aside.filter fun b => b.2 == a).length

/-- An account's reservation (Table 10.1). -/
def acctReserved (s : State) : Account → Nat
  | .work f => (s.fold f).record.bufMin
  | .pen f => (s.fold f).record.penQuota
  | .internal => 2048

/-- Every account of Table 10.1. -/
def allAccounts : List Account := allFolds.map .work ++ allFolds.map .pen ++ [.internal]

/-- SURPLUS (R264). -/
def surplus (s : State) : Int :=
  (freeCount s.pool : Int) - (sumOf (fun a => acctReserved s a - acctUse s.pool a) allAccounts : Nat)

/-- R264 grants n more buffers to an account at once; during an audit nothing is allocated (R274). -/
def grantsNow (s : State) (a : Account) (n : Nat) : Bool :=
  let use := acctUse s.pool a
  !s.pool.auditing && decide (n ≤ freeCount s.pool) &&
  match a with
  | .work f =>
    let beyond := n - ((s.fold f).record.bufMin - use)
    decide (use + n ≤ (s.fold f).record.bufMax) && (beyond == 0 || decide ((beyond : Int) ≤ surplus s))
  | .pen f => decide (use + n ≤ (s.fold f).record.penQuota)
  | .internal => decide (use + n ≤ 2048)

/-! ### The free store's ring in SDRAM (R271, R274) -/

/-- The internal address of entry i of the ring, from its oldest. -/
def ringPlace (p : Pool) (i : Nat) : Nat := 0x6400000 + 2 * ((p.head + i) % 22528)

/-- Accesses to 16 entries of the ring, from entry i on: 32 bytes, which may wrap (R271, Table 10.5). -/
def ringOps (write : Bool) (p : Pool) (i : Nat) : List MemOp :=
  let n := min 16 (22528 - (p.head + i) % 22528)
  let one (j k : Nat) : MemOp := { write := write, mask := engineMask, at_ := ringPlace p j, n := 2 * k }
  if n = 16 then [one i 16] else [one i n, one (i + n) (16 - n)]

/-- A word as it would be read now is uncorrectable. -/
def wordBad (s : State) (w : Nat) : Bool :=
  let l := match s.cache.lines.find? fun l => l.line == w / 8 with
    | some l => l.words
    | none => s.ecc.sdram
  (getKey w l).any fun x => (decodeWord x).bad

/-- Entries of a refill found uncorrectable: discarded, LOST counts them, their buffers stay out of use (R274). -/
def loseEntries (p : Pool) (bad : List Nat) : Pool :=
  let hit := p.stack.filter bad.contains
  { p with stack := p.stack.filter (fun i => !bad.contains i), lost := sat 8 (p.lost + hit.length)
           lostEntries := p.lostEntries ++ hit }

/-- 16 entries come from the ring's head to the stack; those in an uncorrectable word are lost (R271, R274). -/
def refillStack (s : State) : State :=
  let got := (ringTake 16 s.pool.ring []).1.reverse
  let bad := (got.zipIdx.filter fun x => wordBad s (ringPlace s.pool x.2 / 8)).map (·.1)
  let (t, _) := memRun s (ringOps false s.pool 0)
  { t with pool := loseEntries (stackRefill t.pool) bad }

/-- Take one buffer from the free store for an account: HOLDS 1, LAST the requester (Table 10.3, ALLOC). -/
def takeBuf (s : State) (a : Account) (req : Nat) : Option (Nat × State) :=
  let s := if s.pool.stack.isEmpty then refillStack s else s
  match stackPop s.pool with
  | none => none
  | some (i, p) => some (i, { s with pool := { p with bufs := putKey i { acct := a, holds := 1, last := req } p.bufs } })

/-- Take n buffers. -/
def takeBufs : Nat → State → Account → Nat → List Nat × State
  | 0, s, _, _ => ([], s)
  | n + 1, s, a, req =>
    match takeBuf s a req with
    | none => ([], s)
    | some (i, t) => let (l, u) := takeBufs n t a req; (i :: l, u)

/-- The transfer engine's requester code (Table 10.2). -/
def transferEngine : Nat := 0x08

/-- A descriptor asks for its whole working set, or waits for all of it (R263, R265, R267). -/
def requestBuffers (s : State) (f : FoldId) (k n : Nat) : State :=
  if n = 0 then s.modDesc f k fun d => { d with stage := .ready }
  else if grantsNow s (.work f) n then
    let (l, t) := takeBufs n s (.work f) transferEngine
    t.modDesc f k fun d => { d with stage := .ready, bufs := l }
  else
    let t := s.modFold f fun x => { x with waits := sat 16 (x.waits + 1) }
    let t := { t with pool := { t.pool with queue := t.pool.queue ++ [(f, k)] } }
    t.modDesc f k fun d => { d with stage := .buffers, want := n, waitedSince := some s.us }

/-- A waiting request can be granted: with its set-aside buffers (`head`), or as R264 grants it at once. -/
def requestReady (s : State) (head : Bool) (q : FoldId × Nat) : Bool :=
  match s.desc? q.1 q.2 with
  | none => false
  | some d => if head then grantsNow s (.work q.1) (d.want - d.aside.length)
              else d.aside.isEmpty && grantsNow s (.work q.1) d.want

/-- Grant a waiting request: what was set aside becomes held, and the rest is taken (R265). -/
def grantWaiting (s : State) (f : FoldId) (k : Nat) : State :=
  match s.desc? f k with
  | none => s
  | some d =>
    let rest := d.want - d.aside.length
    let p := s.pool
    let held := d.aside.foldl (fun b i => putKey i { acct := .work f, holds := 1, last := transferEngine } b) p.bufs
    let s1 := { s with pool := { p with
      bufs := held
      aside := p.aside.filter fun a => !d.aside.contains a.1
      queue := p.queue.filter fun q => !(q.1 == f && q.2 == k) } }
    let (l, t) := takeBufs rest s1 (.work f) transferEngine
    let waited := (s.us - d.waitedSince.getD s.us) / 100
    let t := t.modFold f fun x => { x with longest := max x.longest (sat 16 waited) }
    t.modDesc f k fun d => { d with stage := .ready, bufs := d.aside ++ l, aside := [], want := 0 }

/-- A waiting request is granted: the oldest, or a later one that R264 grants at once (R265). -/
def execRequestGranted (s : State) : Answer :=
  .next (match s.pool.queue with
  | [] => s
  | q :: r =>
    if requestReady s true q then grantWaiting s q.1 q.2
    else match r.find? fun x => requestReady s false x with
      | some x => grantWaiting s x.1 x.2
      | none => s)

/-! ### The pool manager's operations (Table 10.3) -/

/-- Requester codes that are assigned (Table 10.2). -/
def requesterOk (r : Nat) : Bool := decide (r ≤ 0x0E)

/-- Count a rejection, and post POOL_REJECT for the first and then at most once a millisecond (R270); cause 0 stands for an operation on a
buffer out of use, which changes nothing and is not counted (Table 11.2). -/
def poolReject (s : State) (op req idx cause : Nat) : State :=
  if cause = 0 then s else
  let t := { s with pool := { s.pool with rejects := sat 16 (s.pool.rejects + 1), lastCause := cause } }
  let due := match s.pool.rejectAt with
    | none => true
    | some a => decide (a + 1000 ≤ s.us)
  if due then
    postEvent { t with pool := { t.pool with rejectAt := some s.us } } 0 evPoolReject
      (w32 (idx % 32768 + req % 32 * 2 ^ 16 + op * 2 ^ 21 + cause * 2 ^ 24))
  else t

/-- The checks every operation on an index makes first: the requester, the index, that the buffer's record is not lost, which gives 0,
and that the buffer is held (Table 10.4, Table 11.2). -/
def poolCheck (s : State) (req idx : Nat) : Except Nat Buf :=
  if !requesterOk req || decide (22527 < idx) then .error 5
  else if s.pool.outOfUse.contains idx then .error 0
  else match getKey idx s.pool.bufs with
    | none => .error 4
    | some b => .ok b

/-- Put back a buffer's record. -/
def setBuf (s : State) (i : Nat) (b : Buf) : State := { s with pool := { s.pool with bufs := putKey i b s.pool.bufs } }

/-- ALLOC (Table 10.3): granted under R264, else it waits with no effect yet (log entry 19). -/
def execAlloc (req : Nat) (a : Account) (s : State) : Answer :=
  .next (if !requesterOk req then poolReject s 0 req 0 5
    else if grantsNow s a 1 then
      match takeBuf s a req with
      | some (_, t) => t
      | none => s
    else s)

/-- SHARE (Table 10.3). -/
def execShare (req idx : Nat) (s : State) : Answer :=
  .next (match poolCheck s req idx with
  | .error c => poolReject s 1 req idx c
  | .ok b => if 16 ≤ b.holds then poolReject s 1 req idx 6 else setBuf s idx { b with holds := b.holds + 1 })

/-- DROP (Table 10.3). -/
def execDrop (req idx : Nat) (s : State) : Answer :=
  .next (match poolCheck s req idx with
  | .error c => poolReject s 2 req idx c
  | .ok b => if b.holds ≤ 1 then poolReject s 2 req idx 3 else setBuf s idx { b with holds := b.holds - 1 })

/-- FREE (Table 10.3): a requester that is not LAST, then HOLDS above 1 (Table 10.4). -/
def execFree (req idx : Nat) (s : State) : Answer :=
  .next (match poolCheck s req idx with
  | .error c => poolReject s 3 req idx c
  | .ok b => if b.last ≠ req then poolReject s 3 req idx 1
             else if 1 < b.holds then poolReject s 3 req idx 2 else freeBuf s idx)

/-- PASS (Table 10.3). -/
def execPass (req idx new : Nat) (s : State) : Answer :=
  .next (match poolCheck s req idx with
  | .error c => poolReject s 4 req idx c
  | .ok b => if !requesterOk new then poolReject s 4 req idx 5
             else if b.last ≠ req then poolReject s 4 req idx 1 else setBuf s idx { b with last := new })

/-- The stack holds fewer than 16 entries: 16 come from the ring's head (R271, R274). -/
def execStackRefill (s : State) : Answer := .next (if s.pool.stack.length < 16 then refillStack s else s)

/-- The stack holds more than 48 entries: the 16 oldest go to the ring's tail (R271). -/
def execStackSpill (s : State) : Answer :=
  .next (if 48 < s.pool.stack.length then
    let (t, _) := memRun s (ringOps true s.pool (ringCount s.pool))
    { t with pool := stackSpill t.pool }
  else s)

/-- Any write to FQ_REJECT clears it (R285). -/
def execFqRejectClear (s : State) : Answer :=
  .next (onBar s 0 fun s => { s with pool := { s.pool with rejects := 0, lost := 0, lastCause := 0 } })

/-- Any write to FQ_WAIT clears it (R285). -/
def execFqWaitClear (f : FoldId) (s : State) : Answer := .next (onBar s f fun s => s.modFold f fun x => { x with waits := 0, longest := 0 })

/-- FQ_AUDIT.START in SERVICE starts an audit; outside SERVICE the write is ignored (R274). -/
def execFqAuditStart (s : State) : Answer :=
  .next (if inService s then { s with pool := { s.pool with auditing := true } } else s)

/-- The audit ends: the free store is rebuilt from the buffer records, lost entries come back, LOST is 0 (R274). -/
def execAuditDone (s : State) : Answer :=
  .next (if s.pool.auditing then
    { s with pool := { s.pool with auditing := false, lost := 0, lostEntries := [], stack := [],
                                   ring := (s.pool.lostEntries ++ s.pool.stack.reverse).foldl (fun r i => ringPut i r) s.pool.ring } }
  else s)

end Sys2Proof.Machine
end

