-- ==== Sys2Proof/Machine/PenOps.lean ====
section
/-! DEFINITION. Machine/PenOps.lean: the pen (R125 to R130, R137 to R140), the streams (R131, R132) and flocks (R49). -/
namespace Sys2Proof.Machine

/-- How long a copy placed now is held, in ms (Table 5.2): HOLD, values below 16 acting as 16. -/
def penHold (s : State) : Nat := max 16 (bits s.plat.penCtl 31 16)

/-- Read-ahead depth in blocks, moved to the nearer limit of 32 and 4,096 (Table 5.2). -/
def penDepth (s : State) : Nat := clampN 32 4096 (bits s.plat.penDepth 15 0)

/-- HOLDS of a pool buffer, 0 when it is not held. -/
def holdsOf (s : State) (i : Nat) : Nat := ((getKey i s.pool.bufs).map (·.holds)).getD 0

/-- A copy that a lookup may still find: not removed, and not past its hold unless it is pinned (R127, R137). -/
def copyLive (s : State) (c : PenCopy) : Bool := !c.removed && (!penExpired s c || decide (1 < holdsOf s c.buf))

/-- PEN_IN_USE of a fold: buffers charged to its pen account (R130). -/
def penInUse (s : State) (f : FoldId) : Nat := acctUse s.pool (.pen f)

/-- A copy leaves the pen: freed at once when nothing pins it, otherwise passed to the transfer engine, which frees it when
the last pin is released (R137, R139, R140, R269). -/
def discardCopy (s : State) (c : PenCopy) : State :=
  if holdsOf s c.buf ≤ 1 then { (freeBuf s c.buf) with pen := s.pen.filter fun x => x.buf != c.buf }
  else
    let t := match getKey c.buf s.pool.bufs with
      | none => s
      | some b => setBuf s c.buf { b with last := transferEngine }
    { t with pen := t.pen.map fun x => if x.buf == c.buf then { x with removed := true, blocks := [] } else x }

/-- Remove every copy of the blocks of a range from every partition (R137). -/
def penRemoveRange (s : State) (lba count : Nat) : State :=
  let inR (b : Nat) := decide (lba ≤ b) && decide (b < lba + count)
  let t := { s with pen := s.pen.map fun c => { c with blocks := c.blocks.filter fun b => !inR b.1 } }
  let hit := s.pen.filter fun c => !c.removed && c.blocks.all (fun b => inR b.1)
  hit.foldl discardCopy t

/-- Empty one fold's partition (R140). -/
def penEmpty (s : State) (f : FoldId) : State :=
  (s.pen.filter fun c => c.owner == f && !c.removed).foldl discardCopy s

/-- Empty every partition (R137, R139). -/
def penEmptyAll (s : State) : State := (s.pen.filter fun c => !c.removed).foldl discardCopy s

/-- The other members of a fold's flock, in ascending fold number (R49, R129). -/
def flockOthers (s : State) (f : FoldId) : List FoldId :=
  let k := (s.fold f).record.flock
  if k = 0 then [] else allFolds.filter fun g => g != f && (s.fold g).record.flock == k

/-- The copy of a block in one fold's partition that a lookup finds; a buffer whose HOLDS is 16 counts as not found unless
this descriptor holds it already (R129, R269). -/
def findCopy (s : State) (g : FoldId) (mine : List Pin) (b : Nat) : Option (PenCopy × Block) :=
  (s.pen.filter fun c => c.owner == g && copyLive s c &&
      (mine.any (fun p => p.buf == c.buf) || decide (holdsOf s c.buf < 16))).findSome? fun c =>
    (c.blocks.find? fun x => x.1 == b).map fun x => (c, x.2)

/-- Look one block up: the fold's own partition, then its flock's, and pin what is found (R129). -/
def lookupBlock (s : State) (f : FoldId) (mine : List Pin) (b : Nat) : State × List Pin :=
  match (f :: flockOthers s f).findSome? fun g => (findCopy s g mine b).map fun r => (g, r) with
  | none => (s, mine)
  | some (g, (c, data)) =>
    let t := s.modFold f fun x =>
      if g = f then { x with ownHits := sat 16 (x.ownHits + 1) } else { x with flockHits := sat 16 (x.flockHits + 1) }
    let t := if mine.any fun p => p.buf == c.buf then t
      else match getKey c.buf t.pool.bufs with
        | none => t
        | some bf => setBuf t c.buf { bf with holds := bf.holds + 1 }
    (t, mine ++ [{ buf := c.buf, lba := b, data := data, recovered := c.recovered }])

/-- The pen lookup of a READ or SEALED READ over its range (R129). -/
def penLookup (s : State) (f : FoldId) (k lba count : Nat) : State :=
  let (t, pins) := (List.range count).foldl (fun (a : State × List Pin) i => lookupBlock a.1 f a.2 (lba + i)) (s, [])
  t.modDesc f k fun d => { d with pins := pins }

/-- An uncompleted write past step 5 covers a block: no copy of it is placed (R137). -/
def writeCovers (s : State) (b : Nat) : Bool :=
  allFolds.any fun f => (s.fold f).descs.any fun d =>
    (d.op == .write || d.op == .sealedWrite) && d.past5 && decide (lbaOf d.fld ≤ b) && decide (b < lbaOf d.fld + d.fld.count)

/-- The partition's oldest unpinned copy. -/
def oldestCopy (s : State) (f : FoldId) : Option PenCopy :=
  (s.pen.filter fun c => c.owner == f && !c.removed && decide (holdsOf s c.buf ≤ 1)).foldl
    (fun a c => match a with
      | none => some c
      | some x => if c.placedAt < x.placedAt then some c else some x) none

/-- Place one block in a fold's partition: beside its pair if that is there, else in a free buffer of the partition, else
in place of the oldest unpinned copy, whose buffer it takes over (R125). A block the partition already holds is left as it is (log
entry 20). HOLD as it stands at the placement decides how long the copy is held: a later write to PEN_CTL.HOLD does not change it
(DESIGN CHOICE, log entry 108; the spec does not say). -/
def placeBlock (f : FoldId) (recovered : Bool) (s : State) (x : Nat × Block) : State :=
  if writeCovers s x.1 || s.pool.auditing || (s.fold f).record.penQuota == 0 then s
  else
    match s.pen.find? fun c => c.owner == f && copyLive s c && c.blocks.any fun y => y.1 / 2 == x.1 / 2 with
    | some c =>
      if c.blocks.any fun y => y.1 == x.1 then s
      else { s with pen := s.pen.map fun z =>
               if z.buf == c.buf then { z with blocks := z.blocks ++ [x], recovered := z.recovered || recovered } else z }
    | none =>
      let fresh (i : Nat) : PenCopy :=
        { owner := f, buf := i, blocks := [x], placedAt := s.us, hold := penHold s, recovered := recovered }
      match (if grantsNow s (.pen f) 1 then takeBuf s (.pen f) f.val else none) with
      | some (i, u) => { u with pen := u.pen ++ [fresh i] }
      | none => match oldestCopy s f with
        | some c => { s with pen := s.pen.filter (fun y => y.buf != c.buf) ++ [fresh c.buf] }
        | none => s

/-- A block just placed is written into its copy's buffer by the format decoders (Table 10.5; log entry 121). -/
def penStore (s : State) (f : FoldId) (lba : Nat) : State :=
  match s.pen.find? fun c => c.owner == f && !c.removed && c.blocks.any fun y => y.1 == lba with
  | some c => (memRun s [{ write := true, mask := engineMask, at_ := penAddress c.buf lba, n := 2048 }]).1
  | none => s

/-- Place a block, unless the partition holds it already (R125). -/
def placeStored (f : FoldId) (recovered : Bool) (s : State) (x : Nat × Block) : State :=
  let t := placeBlock f recovered s x
  if t.pen = s.pen then t else penStore t f x.1

/-- Place the blocks of a cleanly decoded unit, less those a command named (R125, R126). -/
def penPlace (s : State) (f : FoldId) (first : Nat) (blocks : List Block) (named : Nat → Bool) (recovered : Bool) : State :=
  ((blocks.zipIdx.map fun p => (first + p.2, p.1)).filter fun x => !named x.1).foldl (placeStored f recovered) s

/-- Copies of a fold past their hold are discarded, unless pinned (R127). -/
def execPenCopyExpire (f : FoldId) (s : State) : Answer :=
  .next ((s.pen.filter fun c => c.owner == f && !c.removed && penExpired s c && decide (holdsOf s c.buf ≤ 1)).foldl discardCopy s)

/-- PEN_FLUSH empties the named partitions and leaves their streams (R140). -/
def execPenFlush (v : Word) (s : State) : Answer :=
  .next (onBar s 0 fun s => allFolds.foldl (fun t f => if bit v f.val then penEmpty t f else t) s)

/-! ### Streams (R131, R132) -/

/-- The fold's streams with the one of a label last, as the one used now: its record, or a new one in place of the least recently used
of four (R131). -/
def takeStream (l : List Stream) (label : Nat) : List Stream :=
  match l.find? fun x => x.label == label with
  | some x => l.filter (fun y => y.label != label) ++ [x]
  | none => l.drop (l.length - 3) ++ [{ label := label, next := 2 ^ 32, limit := 0, seq := false }]

/-- The bounds that a LIMIT also keeps: the grant's END_LBA, LAST_RECORDED on recordable media, which is 0xFFFF_FFFF on a blank disc,
and CAPACITY − 1 (R132, Table 4.7). -/
def limitBound (s : State) (d : Desc) (x : Nat) : Nat :=
  match s.disc with
  | none => x
  | some di =>
    let a := match d.grant with
      | some g => min x g.endLba
      | none => x
    let b := if recordable di.medium then min a (di.lastRecorded.getD 0xFFFFFFFF) else a
    min b (di.capacity - 1)

/-- A SPECOK descriptor that passes step 5 updates its stream (R98, R131, R132). -/
def streamUpdate (s : State) (f : FoldId) (d : Desc) : State :=
  let a := lbaOf d.fld
  s.modFold f fun x => { x with streams := (takeStream x.streams d.fld.stream).map fun r =>
    if r.label != d.fld.stream then r
    else if d.op == .seekHint then
      { r with next := a, seq := true, limit := limitBound s d (min (a + d.fld.count - 1) (a + penDepth s - 1)) }
    else
      let next := a + d.fld.count
      { r with seq := r.next == a, next := next, limit := limitBound s d (next + penDepth s - 1) } }

/-- Opcodes that feed a stream at step 5 (R132). -/
def opStreams : Op → Bool
  | .read | .readRaw | .sealedRead | .verify | .scan | .seekHint => true
  | _ => false

end Sys2Proof.Machine
end

