-- ==== Sys2Proof/Machine/Accept.lean ====
section
/-! DEFINITION. Machine/Accept.lean: a descriptor's way from its fetch to READY: consumption and duplicates (R84 to R86),
step 1 (R104), the scatter list (R101), acceptance (R99), grants (R41 to R45), quotas, medium checks and what follows
step 5 (R44, R113, R129, R132, R137). -/
namespace Sys2Proof.Machine

/-! ### Grants (R40 to R47) -/

/-- An entry as Lorvaus keeps it, its reserved bits dropped (R40). -/
def grantOf (index : Nat) (r : RawGrant) : Grant where
  index := index
  fold := bits r.foldByte 2 0
  rights := r.rights &&& 0x7F
  startLba := r.startLba.toNat
  endLba := r.endLba.toNat
  discId := r.discId

/-- One valid entry passes a descriptor of fold f (R42, R112). -/
def grantPasses (g : Grant) (f : FoldId) (need : BitVec 8) (sc : Scope) (lba count : Nat) (disc : Option DiscInfo) : Bool :=
  g.fold == f.val && g.rights &&& need == need &&
  (match sc with
    | .range => decide (g.startLba ≤ lba) && decide (lba + count - 1 ≤ g.endLba)
    | .whole => decide (g.startLba ≤ 0) && decide (((disc.map (·.capacity)).getD 0) - 1 ≤ g.endLba)
    | .disc | .none => true) &&
  (match sc with
    | .none => true
    | _ => g.discId == 0 || disc.map (·.discId) == some g.discId)

/-- The descriptor's own need (R112): none means no grant check. -/
def descPasses (s : State) (f : FoldId) (d : Desc) (g : Grant) : Bool :=
  match opGrant d.op with
  | none => true
  | some (need, sc) => grantPasses g f need sc (lbaOf d.fld) d.fld.count s.disc

/-- A cached entry is usable for checks made less than 100 ms after it was read (R45). -/
def grantFresh (s : State) (c : CachedGrant) : Bool := decide (s.us < c.readAt + 100000)

/-- The cached entry that passes, if one does (R45). -/
def cacheHit (s : State) (f : FoldId) (d : Desc) : Option CachedGrant :=
  s.plat.cache.find? fun c => grantFresh s c && descPasses s f d c.grant

/-- Place an entry in the cache: beside what is there, in place of its own older copy, of an expired entry, or of the least
recently used of 32 (R45). -/
def cachePlace (s : State) (g : Grant) : State :=
  let l := s.plat.cache.filter fun c => c.grant.index != g.index
  let l := if l.length < 32 then l
    else match l.find? fun c => !grantFresh s c with
      | some e => l.filter fun c => c.grant.index != e.grant.index
      | none =>
        match l.foldl (fun (a : Option CachedGrant) c => match a with
            | none => some c
            | some x => if c.usedAt < x.usedAt then some c else some x) none with
        | none => l
        | some o => l.filter fun c => c.grant.index != o.grant.index
  { s with plat := { s.plat with cache := l ++ [{ grant := g, readAt := s.us, usedAt := s.us }] } }

/-- Entries one read of the table covers: within Max Read Request Size and 512 bytes (R31, R40; log entry 21). -/
def grantChunk (s : State) : Nat := max 1 (min (s.fold 0).maxReadRequest 512 / 32)

/-- The grant table's address (Table 2.6). -/
def grantBase (s : State) : Nat := s.plat.gntBaseLo.toNat / 8192 * 8192 + s.plat.gntBaseHi.toNat * 2 ^ 32

/-- Read on in the table from an index (R45). -/
def readGrantsFrom (s : State) (f : FoldId) (k i : Nat) : State :=
  (s.modDesc f k fun d => { d with stage := .grant i 0 }).emit
    (.readReq 0 (grantBase s + 32 * i) (32 * min (grantChunk s) (256 - i)))

/-- A torn entry waits to be read again, 1 µs after its data arrived, with the reads made of it (R41). -/
def awaitReread (s : State) (f : FoldId) (k i reads : Nat) : State :=
  s.modDesc f k fun d => { d with stage := .grant i reads, tornAt := s.us }

/-- A fold's request has failed, and AER reports it (R41, R250). -/
def aerReport (s : State) (f : FoldId) : State := (s.modFold f fun x => { x with aer := true }).emit (.aer f)

/-! ### Step 5 and what follows it -/

/-- Another fold's lock stands against this fold's LOAD/EJECT (R58): the lowest such fold. -/
def lockAgainst (s : State) (f : FoldId) (force : Bool) : Option FoldId :=
  if f.val = 0 ∧ force = true then none else allFolds.find? fun g => g != f && (s.fold g).locked

/-- The medium checks of step 5: OUT_OF_RANGE, BLANK, MEDIUM_LOCKED, then the LEN_SHORT that needs the medium (R44, R115,
R116; log entry 16). -/
def mediumCheck (s : State) (f : FoldId) (d : Desc) : Option Status :=
  let lba := lbaOf d.fld
  let n := d.fld.count
  if d.op = .loadEject then (lockAgainst s f (bit d.fld.opfield 1)).map fun _ => .mediumLocked
  else match s.disc with
    | none => none
    | some di =>
      let oor :=
        (opBlocks d.op && decide (di.capacity < lba + n)) ||
        match d.op with
        | .read | .verify | .sealedRead => cddaRange di lba n
        | .write | .sealedWrite => !writeRangeOk di lba n
        | .close => (closeDisc di (bits d.fld.opfield 1 0) (lba % 65536)).isNone
        | .format => !formatOk di
        | .reserveTrack => (reserveTrack di (bits d.fld.opdata 31 0)).isNone
        | _ => false
      if oor then some .outOfRange
      else
        let blank := match d.op with
          | .read | .verify | .sealedRead | .scan => blankRange di lba n
          | _ => false
        if blank then some .blank
        else
          let need := match d.op with
            | .readRaw => n * rawUnit di.medium (bits d.fld.opfield 1 0)
            | .scan => 32 * unitsTouched (discUnit di) lba n
            | _ => 0
          if d.fld.length < need then some .lenShort else none

/-- A READ RAW's working set needs the medium (R113, R115). -/
def wantedBuffers (s : State) (d : Desc) : Nat :=
  workingSet d.op d.fld (match s.disc with
    | some di => d.fld.count * rawUnit di.medium (bits d.fld.opfield 1 0)
    | none => 0)

/-- A descriptor has passed step 5: pen removal, its stream, its pen lookup and its working set (R129, R132, R137, R263). -/
def afterStep5 (s : State) (f : FoldId) (k : Nat) : State :=
  match s.desc? f k with
  | none => s
  | some d =>
    let s1 := s.modDesc f k fun d => { d with past5 := true }
    let s2 := match d.op with
      | .write | .sealedWrite => penRemoveRange s1 (lbaOf d.fld) d.fld.count
      | .close | .format => penEmptyAll s1
      | _ => s1
    let s3 := if d.fld.specok && opStreams d.op && d.op != .seekHint then streamUpdate s2 f d else s2
    let s4 := match d.op with
      | .read | .sealedRead => penLookup s3 f k (lbaOf d.fld) d.fld.count
      | _ => s3
    requestBuffers s4 f k (wantedBuffers s4 d)

/-- Steps 4 and 5 of R44. -/
def steps45 (s : State) (f : FoldId) (k : Nat) : State :=
  match s.desc? f k with
  | none => s
  | some d =>
    if (s.fold f).record.bufMax < wantedBuffers s d then finishUnstarted s f k .overQuota
    else match mediumCheck s f d with
      | some st => finishUnstarted s f k st
      | none => afterStep5 s f k

/-- The grant check has passed under an entry, which the descriptor holds from now on (R48). -/
def grantHeld (s : State) (f : FoldId) (k : Nat) (g : Grant) : State :=
  steps45 (s.modDesc f k fun d => { d with grant := some g }) f k

/-- Step 3 of R44: no check, a hit in the cache, or a read of the table (R43, R45). -/
def step3 (s : State) (f : FoldId) (k : Nat) (d : Desc) : State :=
  if (opGrant d.op).isNone then steps45 s f k
  else if !s.plat.gntEn then finishUnstarted s f k .noGrant
  else match cacheHit s f d with
    | some c =>
      grantHeld { s with plat := { s.plat with cache := s.plat.cache.map fun x =>
        if x.grant.index == c.grant.index then { x with usedAt := s.us } else x } } f k c.grant
    | none => readGrantsFrom { s with plat := { s.plat with misses := sat 16 (s.plat.misses + 1) } } f k 0

/-- A disc is loaded for step 2: identified, or in the tray and not yet identified for IDENTIFY DISC (R112, R114). -/
def discThere (s : State) (o : Op) : Bool := s.disc.isSome || (o == .identifyDisc && s.loader.unident)

/-- Steps 2 to 5 of R44. -/
def steps25 (s : State) (f : FoldId) (k : Nat) : State :=
  match s.desc? f k with
  | none => s
  | some d => if opDisc d.op && !discThere s d.op then finishUnstarted s f k .noDisc else step3 s f k d

/-- A descriptor's timeout in µs (Table 4.1). -/
def timeoutUs (s : State) (f : FoldId) (x : Fields) : Nat :=
  1000 * if x.timeout = 0 then (s.fold f).record.defTimeout else x.timeout

/-- A descriptor passes step 1: it is accepted, its timeout starts, and the checks go on (R99, R110). The command block of
MMC PASS is read before its native checks (R121). -/
def accept (s : State) (f : FoldId) (k : Nat) : State :=
  match s.desc? f k with
  | none => s
  | some d =>
    let t := s.modDesc f k fun d =>
      { d with acceptedAt := s.us, deadline := s.us + timeoutUs s f d.fld, discId := s.disc.map (·.discId)
               removals := s.loader.removals, stage := .ready }
    if d.op = .mmcPass then t.emit (.readReq f d.fld.aadPtr d.fld.aadLen) else steps25 t f k

/-- A descriptor is rejected: it is not accepted, and its QUEUE_WAIT is 0 (R106). -/
def reject (s : State) (f : FoldId) (k : Nat) (st : Status) : State :=
  s.modDesc f k fun d => { d with stage := .done, status := st, bytes := 0, acceptedAt := s.us }

/-- Check 7 of Table 4.3, then acceptance (R103, R104). The implied length of a VAULT GET is that of the value its key names, so its
key is read from ADDRESS first (R118, Table 4.5). -/
def checkLength (s : State) (f : FoldId) (k : Nat) (d : Desc) : State :=
  if d.op = .vaultGet then
    (s.modDesc f k fun d => { d with stage := .vaultKey }).emit (.readReq f d.fld.address d.fld.count)
  else match implied d.op d.fld s.disc with
    | some n => if d.fld.length < n then reject s f k .lenShort else accept s f k
    | none => accept s f k

/-- The bytes of a value that a fold's vault holds under a key, 0 where it holds none (R103, R118). -/
def storedLength (s : State) (f : FoldId) (key : List Byte) : Nat :=
  (s.mram.recs.findSome? fun r => match r.payload with
    | .vault g k v => if g = f ∧ k = key then some v.length else none
    | _ => none).getD 0

/-- The key of a VAULT GET in step 1 arrives: check 7, then acceptance. Where its read fails no length is implied yet, and the start
judges it (log entry 107). -/
def vaultKeyRead (s : State) (f : FoldId) (k : Nat) (d : Desc) (r : ReadResult (List Byte)) : State :=
  match r with
  | .failed => accept (aerReport s f) f k
  | .ok key => if d.fld.length < storedLength s f (fit d.fld.count key) then reject s f k .lenShort else accept s f k

/-! ### Consumption (R78, R84 to R86, R105) -/

/-- The head field of an answer to the descriptor at an index (R87). -/
def headField (idx : Word) : Half := BitVec.ofNat 16 ((idx + 1).toNat % 65536)

/-- Record a consumed descriptor in its ring's history of 64 (R84). -/
def histPush (w : Wring) (h : Hist) : Wring := { w with hist := (h :: w.hist).take 64 }

/-- Send a duplicate's completion at once, and record it in the history (R86). A held one keeps its place among the
fold's uncompleted descriptors (R75, R39). -/
def postDuplicate (s : State) (f : FoldId) (n : RingId) (k : Nat) (idx : Word) (x : Fields) (c : Completion) : State :=
  let m := (s.wring f n).dring
  let r := s.dring f m
  let t := s.modWring f n fun w => histPush w { tag := x.tag, idx := idx, comp := some c, k := k }
  if !r.en || r.err != 0 then t
  else
    let d : Desc := { k := k, ring := n, idx := idx, op := .nop, fld := x, stage := .held, status := .ok }
    postItem (t.modFold f fun y => { y with descs := y.descs ++ [d] }) f m (.comp k c x.irq)

/-- The DUP_INFLIGHT completion (R86). -/
def dupInflightOf (n : RingId) (idx : Word) (x : Fields) : Completion :=
  { tag := x.tag, status := statusCode .dupInflight, head := headField idx, ring := n.val, dup := false, bytes := 0,
    mechTime := 0, queueWait := 0 }

/-- A re-posted completion (R86). -/
def repostOf (n : RingId) (idx : Word) (c : Completion) : Completion :=
  { c with head := headField idx, ring := n.val, dup := true }

/-- The opcodes that the boot ROM serves in RESCUE, from fold 0 (R401). -/
def rescueOp : Option Op → Bool
  | some .nop | some .fwDownload | some .fwActivate | some .logRead => true
  | _ => false

/-- A descriptor that no duplicate check stopped: SERVICE and RESCUE, then step 1 (R105, R401, R104). -/
def enterStep1 (s : State) (f : FoldId) (k : Nat) (x : Fields) : State :=
  if (decide (f.val ≠ 0) && inService s) || (s.sys.rescue && !(f.val == 0 && rescueOp (opOf x.opcode))) then
    reject s f k .serviceMode
  else match checkFields f x (s.fold f).record.maxBlocks with
    | .error st => reject s f k st
    | .ok o =>
      let t := s.modDesc f k fun d => { d with op := o }
      match t.desc? f k with
      | none => t
      | some d =>
        if !opList o then checkLength t f k d
        else if x.length = 0 ∧ x.listPtr = 0 then checkLength t f k d
        else if x.length = 0 ∨ x.listPtr = 0 then reject t f k .badList
        else t.emit (.readReq f x.listPtr (listChunk (min (s.fold f).maxReadRequest 512) x.listPtr none))

/-- Consume one descriptor of work ring n (R65, R84). -/
def consumeOne (f : FoldId) (n : RingId) (s : State) (raw : RawDesc) : State :=
  let w := s.wring f n
  let x := fieldsOf raw
  let idx := w.cons
  let k := (s.fold f).nextK
  let s1 := (s.modWring f n fun w => { w with cons := w.cons + 1 }).modFold f fun y =>
    { y with nextK := y.nextK + 1, dbp := { y.dbp with dirty := true } }
  let chk := x.dupchk || (match opOf x.opcode with
    | some o => dupForced o
    | none => false)
  let flying := (s.fold f).descs.any fun d => d.ring == n && d.fld.tag == x.tag
  let past := w.hist.find? fun h => h.tag == x.tag
  if chk && flying then postDuplicate s1 f n k idx x (dupInflightOf n idx x)
  else match (if chk then past.bind (·.comp) else none) with
    | some c => postDuplicate s1 f n k idx x (repostOf n idx c)
    | none =>
      let d : Desc := { k := k, ring := n, idx := idx, op := .nop, fld := x, stage := .list }
      let s2 := s1.modWring f n fun w => histPush w { tag := x.tag, idx := idx, comp := none, k := k }
      enterStep1 (s2.modFold f fun y => { y with descs := y.descs ++ [d] }) f k x

/-- How many descriptors one fetch of a ring reads: up to 8, up to the tail, the ring's end and the read size (R78). -/
def fetchCount (s : State) (f : FoldId) (n : RingId) : Nat :=
  let w := s.wring f n
  let size := ringSize w.log2
  min (min 8 (w.tail - w.cons).toNat) (min (size - w.cons.toNat % size) (min (s.fold f).maxReadRequest 512 / 64))

/-- Bronze consumes descriptors at all: it runs firmware or RESCUE, outside DOZE and VIGIL, and no drain stops it (R405,
R406, R73). -/
def consuming (s : State) (f : FoldId) : Bool :=
  (s.sys.ready || s.sys.rescue) && s.sys.mode != .doze && s.sys.mode != .vigil && !s.sys.drainAll &&
    !(s.sys.drainOthers && decide (f.val ≠ 0))

/-- A ring from which a fetch may be issued now (R39, R78). -/
def fetchable (s : State) (f : FoldId) (n : RingId) : Bool :=
  let w := s.wring f n
  consuming s f && canMaster s f && w.en && w.err == 0 && !w.fetching && w.tail != w.cons &&
    decide ((s.fold f).descs.length < 256)

/-- Fetch reads outstanding over all rings (R78). -/
def fetchesOut (s : State) : Nat :=
  sumOf (fun f => ((s.fold f).wrings.toList.filter (·.fetching)).length) allFolds

/-- The numbers after i, cyclically, ending with i. -/
def ringsAfter (i : RingId) : List RingId := [i + 1, i + 2, i + 3, i]
def foldsAfter (i : FoldId) : List FoldId := [i + 1, i + 2, i + 3, i + 4, i + 5, i + 6, i + 7, i]

/-- DESCRIPTOR_FETCH: the next fold and ring in the round robin issue one read (R78). -/
def execDescriptorFetch (s : State) : Answer :=
  .next (if 8 ≤ fetchesOut s then s
    else match (foldsAfter s.drover.fetchLast).findSome? fun f =>
        ((ringsAfter (s.fold f).rrRing).find? fun n => fetchable s f n).map fun n => (f, n) with
      | none => s
      | some (f, n) =>
        let w := s.wring f n
        let t := (s.modWring f n fun w => { w with fetching := true }).modFold f fun x => { x with rrRing := n }
        { t with drover := { t.drover with fetchLast := f } }.emit
          (.readReq f (ringBase w.baseLo w.baseHi + 64 * (w.cons.toNat % ringSize w.log2)) (64 * fetchCount s f n)))

/-- Consume descriptors one after the other while the fold is below 256 (R39). -/
def consumeAll (f : FoldId) (n : RingId) : State → List RawDesc → State
  | s, [] => s
  | s, r :: rest => if 256 ≤ (s.fold f).descs.length then s else consumeAll f n (consumeOne f n s r) rest

/-- DESCRIPTOR_CONSUME: a fetch's data arrives (R84 to R88). A ring disabled or in error since takes nothing; a failed fetch puts the
ring in error whatever stops consumption, and data that arrives while consumption is stopped is fetched again later (R88, R405). -/
def execDescriptorConsume (f : FoldId) (n : RingId) (r : ReadResult (List RawDesc)) (s : State) : Answer :=
  let w := s.wring f n
  .next (if !w.fetching then s
    else
      let t := s.modWring f n fun w => { w with fetching := false, stale := false }
      if !w.en || w.err != 0 || w.stale then t
      else match r with
        | .failed => wringError t f n 2
        | .ok l => if consuming s f then consumeAll f n t (l.take (fetchCount s f n)) else t)

/-- LIST_READ: the scatter list is read whole and judged; the descriptor leaves step 1 (R100, R101, R103). The reads after the first,
which the descriptor's consumption issued, are issued here (R82). -/
def execListRead (f : FoldId) (k : Nat) (r : ReadResult (List RawEntry)) (s : State) : Answer :=
  .next (match s.desc? f k with
  | none => s
  | some d =>
    if d.stage ≠ .list then s
    else match r with
      | .failed => reject s f k .badList
      | .ok es =>
        let s := s.emits (((listReads (min (s.fold f).maxReadRequest 512) es d.fld.listPtr none 0).drop 1).map fun r =>
          Out.readReq f r.1 r.2)
        match checkList es d.fld.length with
        | none => reject s f k .badList
        | some l => checkLength (s.modDesc f k fun d => { d with list := l }) f k d)

/-- Look through entries as they arrive, in index order: a torn one is read again, the first that passes ends the check
(R41, R45). -/
def scanEntries (s : State) (f : FoldId) (k : Nat) (d : Desc) : List RawGrant → Nat → State
  | [], i => if 256 ≤ i then finishUnstarted s f k .noGrant else readGrantsFrom s f k i
  | g :: rest, i =>
    if 256 ≤ i then finishUnstarted s f k .noGrant
    else if g.seqA ≠ g.seqB then awaitReread s f k i 1
    else if bit g.foldByte 7 && descPasses s f d (grantOf i g) then
      grantHeld (cachePlace s (grantOf i g)) f k (grantOf i g)
    else scanEntries s f k d rest (i + 1)

/-- GRANT_TABLE_READ: a read of the table returns (R41, R45); entries of a failed read are absent, and AER reports it. -/
def execGrantTableRead (f : FoldId) (k : Nat) (r : ReadResult (List RawGrant)) (s : State) : Answer :=
  .next (match s.desc? f k with
  | none => s
  | some d => match d.stage with
    | .grant i 0 =>
      if !s.plat.gntEn then finishUnstarted s f k .noGrant
      else
        let n := min (grantChunk s) (256 - i)
        match r with
        | .failed => scanEntries (aerReport s 0) f k d [] (i + n)
        | .ok l => scanEntries s f k d (l.take n) i
    | _ => s)

/-- GRANT_REREAD: 1 µs after its torn data arrived an entry is read again; after the eighth read it is absent and TORN counts it
(R41). -/
def execGrantReread (f : FoldId) (k : Nat) (r : ReadResult RawGrant) (s : State) : Answer :=
  .next (match s.desc? f k with
  | none => s
  | some d => match d.stage with
    | .grant i (n + 1) =>
      if !s.plat.gntEn then finishUnstarted s f k .noGrant
      else if s.us < d.tornAt + 1 then s
      else
        let s := s.emit (.readReq 0 (grantBase s + 32 * i) 32)
        match r with
        | .failed => scanEntries (aerReport s 0) f k d [] (i + 1)
        | .ok g =>
          if g.seqA ≠ g.seqB then
            if 7 ≤ n + 1 then
              scanEntries { s with plat := { s.plat with torn := sat 8 (s.plat.torn + 1) } } f k d [] (i + 1)
            else awaitReread s f k i (n + 2)
          else scanEntries s f k d [g] i
    | _ => s)

/-! ### Grant registers (R45, R63) -/

/-- GNT_BASE_WRITE: ignored while GNT_EN is 1; otherwise it takes effect and empties the cache (R45, R63). -/
def execGntBaseWrite (high : Bool) (v : Word) (s : State) : Answer :=
  .next (onBar s 0 fun s => if s.plat.gntEn then s
    else if high then { s with plat := { s.plat with gntBaseHi := v, cache := [] } }
    else { s with plat := { s.plat with gntBaseLo := v &&& 0xFFFFE000, cache := [] } })

/-- GNT_CTL_WRITE: a write that sets GNT_EN to 0 empties the cache (R45). -/
def execGntCtlWrite (v : Word) (s : State) : Answer :=
  .next (onBar s 0 fun s => if bit v 0 then { s with plat := { s.plat with gntEn := true } }
    else { s with plat := { s.plat with gntEn := false, cache := [] } })

/-- Any write to GNT_STAT clears TORN and MISSES and nothing else (R63). -/
def execGntStatClear (s : State) : Answer := .next (onBar s 0 fun s => { s with plat := { s.plat with torn := 0, misses := 0 } })

end Sys2Proof.Machine
end

