-- ==== Sys2Proof/Machine/Crypto.lean ====
section
/-! DEFINITION. Machine/Crypto.lean: AES-128 and AES-256, GCM (NIST SP 800-38D), AES-KW (NIST SP 800-38F) and CRC-32C, as
the manual's standards define them (R309, R313, R325, R295, R398). A block is 16 bytes, first byte first. -/
namespace Sys2Proof.Machine

/-- The AES S-box. -/
def sboxTable : List Nat :=
  [0x63, 0x7C, 0x77, 0x7B, 0xF2, 0x6B, 0x6F, 0xC5, 0x30, 0x01, 0x67, 0x2B, 0xFE, 0xD7, 0xAB, 0x76] ++
  [0xCA, 0x82, 0xC9, 0x7D, 0xFA, 0x59, 0x47, 0xF0, 0xAD, 0xD4, 0xA2, 0xAF, 0x9C, 0xA4, 0x72, 0xC0] ++
  [0xB7, 0xFD, 0x93, 0x26, 0x36, 0x3F, 0xF7, 0xCC, 0x34, 0xA5, 0xE5, 0xF1, 0x71, 0xD8, 0x31, 0x15] ++
  [0x04, 0xC7, 0x23, 0xC3, 0x18, 0x96, 0x05, 0x9A, 0x07, 0x12, 0x80, 0xE2, 0xEB, 0x27, 0xB2, 0x75] ++
  [0x09, 0x83, 0x2C, 0x1A, 0x1B, 0x6E, 0x5A, 0xA0, 0x52, 0x3B, 0xD6, 0xB3, 0x29, 0xE3, 0x2F, 0x84] ++
  [0x53, 0xD1, 0x00, 0xED, 0x20, 0xFC, 0xB1, 0x5B, 0x6A, 0xCB, 0xBE, 0x39, 0x4A, 0x4C, 0x58, 0xCF] ++
  [0xD0, 0xEF, 0xAA, 0xFB, 0x43, 0x4D, 0x33, 0x85, 0x45, 0xF9, 0x02, 0x7F, 0x50, 0x3C, 0x9F, 0xA8] ++
  [0x51, 0xA3, 0x40, 0x8F, 0x92, 0x9D, 0x38, 0xF5, 0xBC, 0xB6, 0xDA, 0x21, 0x10, 0xFF, 0xF3, 0xD2] ++
  [0xCD, 0x0C, 0x13, 0xEC, 0x5F, 0x97, 0x44, 0x17, 0xC4, 0xA7, 0x7E, 0x3D, 0x64, 0x5D, 0x19, 0x73] ++
  [0x60, 0x81, 0x4F, 0xDC, 0x22, 0x2A, 0x90, 0x88, 0x46, 0xEE, 0xB8, 0x14, 0xDE, 0x5E, 0x0B, 0xDB] ++
  [0xE0, 0x32, 0x3A, 0x0A, 0x49, 0x06, 0x24, 0x5C, 0xC2, 0xD3, 0xAC, 0x62, 0x91, 0x95, 0xE4, 0x79] ++
  [0xE7, 0xC8, 0x37, 0x6D, 0x8D, 0xD5, 0x4E, 0xA9, 0x6C, 0x56, 0xF4, 0xEA, 0x65, 0x7A, 0xAE, 0x08] ++
  [0xBA, 0x78, 0x25, 0x2E, 0x1C, 0xA6, 0xB4, 0xC6, 0xE8, 0xDD, 0x74, 0x1F, 0x4B, 0xBD, 0x8B, 0x8A] ++
  [0x70, 0x3E, 0xB5, 0x66, 0x48, 0x03, 0xF6, 0x0E, 0x61, 0x35, 0x57, 0xB9, 0x86, 0xC1, 0x1D, 0x9E] ++
  [0xE1, 0xF8, 0x98, 0x11, 0x69, 0xD9, 0x8E, 0x94, 0x9B, 0x1E, 0x87, 0xE9, 0xCE, 0x55, 0x28, 0xDF] ++
  [0x8C, 0xA1, 0x89, 0x0D, 0xBF, 0xE6, 0x42, 0x68, 0x41, 0x99, 0x2D, 0x0F, 0xB0, 0x54, 0xBB, 0x16]

def subByte (b : Byte) : Byte := BitVec.ofNat 8 (sboxTable.getD b.toNat 0)
def invSubByte (b : Byte) : Byte := BitVec.ofNat 8 (sboxTable.idxOf b.toNat)

/-- Multiply by x in the AES field. -/
def xtime (b : Byte) : Byte := if bit b 7 then (b <<< 1) ^^^ 0x1B else b <<< 1

/-- Multiply in the AES field. -/
def gfMulGo : Nat → Byte → Byte → Byte
  | 0, _, _ => 0
  | n + 1, a, b => (if bit b 0 then a else 0) ^^^ gfMulGo n (xtime a) (b >>> 1)

def gfMul (a b : Byte) : Byte := gfMulGo 8 a b

/-- Bytes XORed one by one, as far as both go. -/
def xorBytes (a b : List Byte) : List Byte := List.zipWith (· ^^^ ·) a b

/-- A list cut into pieces of 16. -/
def chunk16Go : Nat → List Byte → List (List Byte)
  | 0, _ => []
  | n + 1, l => if l.isEmpty then [] else l.take 16 :: chunk16Go n (l.drop 16)

def chunk16 (l : List Byte) : List (List Byte) := chunk16Go (l.length / 16 + 1) l

/-! ### The cipher -/

/-- One word of the key schedule from the word nk before, the word before, and the index. -/
def keyWord (nk i : Nat) (rcon : Byte) (back prev : List Byte) : List Byte :=
  if i % nk = 0 then
    let r := (prev.drop 1 ++ prev.take 1).map subByte
    xorBytes back (xorBytes r [rcon, 0, 0, 0])
  else if nk = 8 ∧ i % nk = 4 then xorBytes back (prev.map subByte)
  else xorBytes back prev

/-- The key schedule, latest word first. -/
def expandGo : Nat → Nat → Nat → Byte → List (List Byte) → List (List Byte)
  | 0, _, _, _, ws => ws
  | n + 1, nk, i, rcon, ws =>
    let w := keyWord nk i rcon (ws.getD (nk - 1) []) (ws.getD 0 [])
    expandGo n nk (i + 1) (if i % nk = 0 then xtime rcon else rcon) (w :: ws)

/-- The words of a key, 4 bytes each. -/
def words4 : Nat → List Byte → List (List Byte)
  | 0, _ => []
  | n + 1, l => l.take 4 :: words4 n (l.drop 4)

/-- The round keys of a 16- or 32-byte key, in order. -/
def roundKeys (key : List Byte) : List (List Byte) :=
  let nk := key.length / 4
  let rounds := nk + 6
  let ws := (expandGo (4 * (rounds + 1) - nk) nk nk 1 (words4 nk key).reverse).reverse
  (chunk16 ws.flatten)

/-- ShiftRows on a state held column by column. -/
def shiftRows (s : List Byte) : List Byte := (List.range 16).map fun i => s.getD ((i + 4 * (i % 4)) % 16) 0
def invShiftRows (s : List Byte) : List Byte := (List.range 16).map fun i => s.getD ((i + 16 - 4 * (i % 4)) % 16) 0

/-- MixColumns by a row of coefficients. -/
def mixWith (c : List Byte) (s : List Byte) : List Byte :=
  (List.range 16).map fun i =>
    let col := i / 4 * 4
    (List.range 4).foldl (fun a j => a ^^^ gfMul (c.getD ((j + 4 - i % 4) % 4) 0) (s.getD (col + j) 0)) 0

def mixColumns (s : List Byte) : List Byte := mixWith [2, 3, 1, 1] s
def invMixColumns (s : List Byte) : List Byte := mixWith [14, 11, 13, 9] s

/-- The rounds after the first AddRoundKey. -/
def encRounds : List (List Byte) → List Byte → List Byte
  | [], s => s
  | [k], s => xorBytes (shiftRows (s.map subByte)) k
  | k :: r, s => encRounds r (xorBytes (mixColumns (shiftRows (s.map subByte))) k)

/-- Encipher one block. -/
def aesEnc (rk : List (List Byte)) (b : List Byte) : List Byte := encRounds (rk.drop 1) (xorBytes b (rk.getD 0 []))

/-- The inverse rounds, with the round keys in reverse order. -/
def decRounds : List (List Byte) → List Byte → List Byte
  | [], s => s
  | [k], s => xorBytes ((invShiftRows s).map invSubByte) k
  | k :: r, s => decRounds r (invMixColumns (xorBytes ((invShiftRows s).map invSubByte) k))

/-- Decipher one block. -/
def aesDec (rk : List (List Byte)) (b : List Byte) : List Byte :=
  match rk.reverse with
  | [] => b
  | k :: r => decRounds r (xorBytes b k)

/-! ### GCM -/

/-- A block as a 128-bit number, first byte most significant. -/
def blockNat (b : List Byte) : Nat := b.foldl (fun a x => a * 256 + x.toNat) 0

/-- Multiply in the GCM field (bit 127 of the number is the field's first coefficient). -/
def ghMulGo : Nat → Nat → Nat → Nat → Nat
  | 0, _, _, z => z
  | n + 1, x, v, z =>
    let z' := if x.testBit n then z ^^^ v else z
    ghMulGo n x (if v % 2 = 1 then (v / 2) ^^^ (0xE1 * 2 ^ 120) else v / 2) z'

def ghMul (x y : Nat) : Nat := ghMulGo 128 x y 0

/-- GHASH of whole blocks. -/
def ghash (h : Nat) (l : List (List Byte)) : Nat := l.foldl (fun y b => ghMul (y ^^^ blockNat b) h) 0

/-- Bytes padded with zeros to whole blocks. -/
def padded (l : List Byte) : List (List Byte) := (chunk16 l).map (fit 16)

/-- The next counter block: the last 32 bits rise by 1. -/
def incBlock (b : List Byte) : List Byte := b.take 12 ++ beBytes 4 ((be32 b 12 + 1) % 2 ^ 32)

/-- Counter mode from a counter block on. -/
def ctrGo (rk : List (List Byte)) : List Byte → List (List Byte) → List Byte
  | _, [] => []
  | c, b :: r => xorBytes b (aesEnc rk c) ++ ctrGo rk (incBlock c) r

/-- J0 of a 12-byte IV (R313). -/
def j0Of (iv : List Byte) : List Byte := fit 12 iv ++ [0, 0, 0, 1]

/-- The counter-mode half of GCM: enciphers and deciphers alike. -/
def gcmCrypt (key iv text : List Byte) : List Byte := ctrGo (roundKeys key) (incBlock (j0Of iv)) (chunk16 text)

/-- The 16-byte GCM tag over the AAD and the ciphertext (R325). -/
def gcmTag (key iv aad cipher : List Byte) : List Byte :=
  let rk := roundKeys key
  let h := blockNat (aesEnc rk (zeros 16))
  let len := beBytes 8 (8 * aad.length) ++ beBytes 8 (8 * cipher.length)
  xorBytes (beBytes 16 (ghash h (padded aad ++ padded cipher ++ [len]))) (aesEnc rk (j0Of iv))

/-- Encrypt and authenticate: ciphertext and tag. -/
def gcmSeal (key iv aad plain : List Byte) : List Byte × List Byte :=
  let c := gcmCrypt key iv plain
  (c, gcmTag key iv aad c)

/-! ### AES-KW -/

/-- The inverse of one step of AES-KW: (A, registers latest first). -/
def kwStep (rk : List (List Byte)) (n t : Nat) (a : List Byte) (r : List (List Byte)) : List Byte × List (List Byte) :=
  let i := (t - 1) % n
  let x := xorBytes a (beBytes 8 t)
  let b := aesDec rk (x ++ r.getD i [])
  (b.take 8, r.set i (b.drop 8))

def kwGo (rk : List (List Byte)) (n : Nat) : Nat → List Byte → List (List Byte) → List Byte × List (List Byte)
  | 0, a, r => (a, r)
  | t + 1, a, r => let (b, q) := kwStep rk n (t + 1) a r; kwGo rk n t b q

/-- A list cut into pieces of 8. -/
def chunk8 : Nat → List Byte → List (List Byte)
  | 0, _ => []
  | n + 1, l => l.take 8 :: chunk8 n (l.drop 8)

/-- AES-KW unwrap with the default integrity check value; none where the check fails (R309). -/
def kwUnwrap (kek wrapped : List Byte) : Option (List Byte) :=
  let n := wrapped.length / 8 - 1
  let (a, r) := kwGo (roundKeys kek) n (6 * n) (wrapped.take 8) (chunk8 n (wrapped.drop 8))
  if a = List.replicate 8 0xA6 then some r.flatten else none

/-- One step of AES-KW: (A, registers). -/
def kwWrapStep (rk : List (List Byte)) (n t : Nat) (a : List Byte) (r : List (List Byte)) : List Byte × List (List Byte) :=
  let i := (t - 1) % n
  let b := aesEnc rk (a ++ r.getD i [])
  (xorBytes (b.take 8) (beBytes 8 t), r.set i (b.drop 8))

/-- The steps of AES-KW from step t on. -/
def kwWrapGo (rk : List (List Byte)) (n : Nat) : Nat → Nat → List Byte → List (List Byte) → List Byte × List (List Byte)
  | 0, _, a, r => (a, r)
  | k + 1, t, a, r => let (b, q) := kwWrapStep rk n t a r; kwWrapGo rk n k (t + 1) b q

/-- AES-KW wrap with the default integrity check value (R308). -/
def kwWrap (kek plain : List Byte) : List Byte :=
  let n := plain.length / 8
  let (a, r) := kwWrapGo (roundKeys kek) n (6 * n) 1 (List.replicate 8 0xA6) (chunk8 n plain)
  a ++ r.flatten

/-! ### CRC-32C -/

/-- One bit of the reflected CRC. -/
def crcBits : Nat → Word → Word
  | 0, c => c
  | n + 1, c => crcBits n (if bit c 0 then (c >>> 1) ^^^ 0x82F63B78 else c >>> 1)

/-- CRC-32C of bytes. -/
def crc32c (l : List Byte) : Word := (l.foldl (fun (c : Word) b => crcBits 8 (c ^^^ (b.zeroExtend 32))) 0xFFFFFFFF) ^^^ 0xFFFFFFFF

end Sys2Proof.Machine
end

