-- ==== Sys2Proof/Machine/Drover.lean ====
section
/-! DEFINITION. Machine/Drover.lean: starting descriptors, FENCE, the drover's deficit round robin, mechanism time, timeouts
and completions (R50 to R54, R56, R76, R79, R80, R99, R106, R108). -/
namespace Sys2Proof.Machine

/-! ### What needs the mechanism, and what FENCE allows -/

/-- A descriptor needs the mechanism: IDENTIFY DISC only while the disc is not identified (R114), READ and SEALED READ only
when the pen did not hold every block (R129). -/
def needsMech (s : State) (d : Desc) : Bool :=
  match d.op with
  | .identifyDisc => s.disc.isNone
  | .read | .sealedRead => decide (d.pins.length < d.fld.count)
  | .loadEject | .spin | .readRaw | .write | .verify | .close | .format | .reserveTrack | .sealedWrite | .scan => true
  | _ => false

/-- FENCE lets a descriptor start: nothing earlier of its ring is uncompleted if it has FENCE, and no earlier FENCE is
(R80). -/
def fenceOpen (x : Fold) (d : Desc) : Bool :=
  x.descs.all fun e => !(e.ring == d.ring && decide (e.k < d.k) && (d.fld.fence || e.fld.fence))

/-- A descriptor is past step 5 or has none to pass, and waits to be started or dispatched. -/
def descReady (d : Desc) : Bool := d.stage == .ready && d.startedAt.isNone

/-- A descriptor has been consumed and not started, dispatched or ended. -/
def descPending (d : Desc) : Bool :=
  d.startedAt.isNone && (match d.stage with
    | .list | .vaultKey | .grant _ _ | .buffers | .ready => true
    | _ => false)

/-- A descriptor has been accepted, which follows step 1 (R99). -/
def descAccepted (d : Desc) : Bool := d.stage != .list && d.stage != .vaultKey

/-- An earlier descriptor of the ring that needs no mechanism has not started (R79; log entry 22). -/
def startBlocked (s : State) (f : FoldId) (d : Desc) : Bool :=
  (s.fold f).descs.any fun e => e.ring == d.ring && decide (e.k < d.k) && descPending e && !needsMech s e

/-- The descriptor of a fold that is next in consumption order among those that need the mechanism, or may yet need it: an MMC PASS
whose command block is still to be read counts (R79, R121; log entry 109). -/
def nextMech (s : State) (f : FoldId) : Option Desc :=
  (s.fold f).descs.find? fun d => descPending d && (d.op == .mmcPass || needsMech s d)

/-- The mechanism command of a fold that may be dispatched now: the next in consumption order, ready, with nothing of its ring before
it to start and no FENCE that holds it (R50, R79, R80). Two points the spec leaves open are the model's choice (DESIGN CHOICE, log entry
109): a mechanism command that FENCE holds also holds the fold's later mechanism commands of its other rings, R79's order being taken
over "FENCE has no effect on other rings"; and for the drover's turns a fold has work waiting only while some may be dispatched. -/
def waitingWork (s : State) (f : FoldId) : Option Desc :=
  match nextMech s f with
  | some d =>
    if d.op != .mmcPass && descReady d && fenceOpen (s.fold f) d && !startBlocked s f d then some d else none
  | none => none

/-- Some fold has a mechanism command that may be dispatched (R51). -/
def anyWaiting (s : State) : Bool := allFolds.any fun f => (waitingWork s f).isSome

/-- Some fold has accepted work waiting for the mechanism, what still waits for a grant, for buffers or behind a FENCE included
(R133). -/
def anyAccepted (s : State) : Bool :=
  allFolds.any fun f => (s.fold f).descs.any fun d => descPending d && descAccepted d && d.op != .mmcPass && needsMech s d

/-! ### The command on the mechanism -/

/-- The mechanism runs a fold's command, and that command has not ended. -/
def jobOf (s : State) (f : FoldId) (k : Nat) : Option Job :=
  match s.job with
  | some j => match j.kind with
    | .speculation _ => none
    | _ => if j.f == f && j.k == k && !j.ended then some j else none
  | none => none

/-- Change the job. -/
def State.modJob (s : State) (g : Job → Job) : State := { s with job := s.job.map g }

/-- The command on the mechanism ends with a status and a byte count; its completion waits until the mechanism is free
(R51, R106). A speculative action just ends. -/
def endJob (s : State) (st : Status) (bytes : Nat) : State :=
  match s.job with
  | none => s
  | some j => match j.kind with
    | .speculation _ => { s with job := none }
    | _ => if j.ended then s
      else (s.modJob fun j => { j with ended := true }).modDesc j.f j.k fun d => { d with status := st, bytes := bytes }

/-- The command on the mechanism is this one, ended or not. -/
def onMechanism (s : State) (f : FoldId) (k : Nat) : Bool :=
  match s.job with
  | some j => match j.kind with
    | .speculation _ => false
    | _ => j.f == f && j.k == k
  | none => false

/-- The descriptor of the command on the mechanism. -/
def jobDesc (s : State) : Option (Job × Desc) :=
  match s.job with
  | none => none
  | some j => match j.kind with
    | .speculation _ => none
    | _ => if j.ended then none else (s.desc? j.f j.k).map fun d => (j, d)

/-! ### Reading commands: what has been delivered (R108, R114, R115, R257) -/

/-- A unit is settled as good. -/
def unitGood (u : JobUnit) : Bool :=
  match u.st with
  | .good _ _ => true
  | _ => false

/-- The block a reading command delivers for an LBA, once pinned or confirmed. -/
def blockFor (d : Desc) (j : Job) (lba : Nat) : Option Block :=
  (getKey lba j.altered).orElse fun _ => match d.pins.find? fun p => p.lba == lba with
  | some p => some p.data
  | none => j.units.findSome? fun u => match u.st with
    | .good bl _ => if u.first ≤ lba then bl[lba - u.first]? else none
    | _ => none

/-- A block lies in or past the first failed unit, or the first block that memory spoilt: nothing from there on is delivered (R108). -/
def pastFailure (j : Job) (lba : Nat) : Bool :=
  (j.memFail.any fun b => decide (b ≤ lba)) || j.units.any fun u => match u.st with
    | .failed _ _ _ => decide (u.first ≤ lba)
    | _ => false

/-- The blocks delivered so far: in address order, up to the first that is not yet confirmed, and only those before the first failed
unit (R108, R114). -/
def deliveredGo (d : Desc) (j : Job) : Nat → Nat → List Block
  | 0, _ => []
  | n + 1, lba =>
    if pastFailure j lba then []
    else match blockFor d j lba with
      | some b => b :: deliveredGo d j n (lba + 1)
      | none => []

def delivered (d : Desc) (j : Job) : List Block := deliveredGo d j d.fld.count (lbaOf d.fld)

/-- A 16-bit count that saturates at 0xFFFF (Table 9.5). -/
def cnt16 (n : Nat) : List Byte := leBytes 2 (sat 16 n)

/-- A SCAN record (Table 9.5) of a unit: counts of the first decoding. -/
def scanRecord (u : JobUnit) : List Byte :=
  let tick := u.tick % 2 ^ 32
  match u.meas with
  | none => leBytes 4 u.first ++ [BitVec.ofNat 8 (1 + 4 * b2n u.slipped), BitVec.ofNat 8 u.layer, 0, 0] ++ zeros 20 ++ leBytes 4 tick
  | some m =>
    let bad := match u.st with
      | .failed _ _ _ => true
      | _ => false
    let rec' := match u.st with
      | .good _ r => r
      | _ => false
    let c := m.scan
    let flags := b2n bad + 2 * b2n (decide (0 < c.defects)) + 4 * b2n u.slipped + 8 * b2n (!m.recorded) + 16 * b2n rec'
    leBytes 4 u.first ++ leBytes 1 flags ++ leBytes 1 u.layer ++ zeros 2 ++
      (if m.recorded then
        cnt16 c.e1 ++ cnt16 c.e2 ++ cnt16 c.e3 ++ cnt16 c.erased ++ cnt16 c.jitter ++
          leBytes 2 (toBits 16 (clampI (-32768) 32767 c.asym)) ++ cnt16 c.feRms ++ cnt16 c.teRms ++ cnt16 c.refl ++
          cnt16 c.defects
       else zeros 20) ++ leBytes 4 tick

/-- The records of a SCAN so far: one per settled unit, in address order; without CONTINUE the first failed unit's is the
last (R257). -/
def scanRecords (cont : Bool) : List JobUnit → List Byte
  | [] => []
  | u :: r => match u.st with
    | .good _ _ => scanRecord u ++ scanRecords cont r
    | .failed _ _ _ => scanRecord u ++ (if cont then scanRecords cont r else [])
    | _ => []

/-- BYTES of a command that stops now (R99, R108). -/
def jobBytes (s : State) (j : Job) (d : Desc) : Nat :=
  match d.op with
  | .read | .verify => 2048 * (delivered d j).length
  | .readRaw => ((delivered d j).map List.length).foldl (· + ·) 0
  | .scan => (scanRecords (bit d.fld.opfield 5) j.units).length
  | .write | .sealedWrite => 2048 * j.recorded
  | _ => 0

/-- The data a reading command has delivered through its list so far. -/
def jobWrites (s : State) (j : Job) (d : Desc) : List (Nat × List Byte) :=
  match d.op with
  | .read | .readRaw => scatter d.list (delivered d j).flatten
  | .scan => scatter d.list (scanRecords (bit d.fld.opfield 5) j.units)
  | _ => []

/-- The first failed block of a reading command, of those it names (R114, R122). -/
def firstFailed (d : Desc) (j : Job) : Option Nat :=
  j.units.findSome? fun u => match u.st with
    | .failed _ bad _ =>
      let named := bad.filter fun b => decide (lbaOf d.fld ≤ b) && decide (b < lbaOf d.fld + d.fld.count)
      some (named.head?.getD (max u.first (lbaOf d.fld)))
    | _ => none

/-- F_FINAL of the write report: f in Q2.14 (Table 9.4). -/
def fFinal (s : State) (d : Desc) : Nat :=
  match s.disc with
  | none => 16384
  | some di => match s.recd.opc.find? fun o => o.disc == di.discId && o.layer == layerOf di (lbaOf d.fld) with
    | some o => (roundDiv o.f 16384).toNat
    | none => 16384

/-- The write report (Table 9.4). -/
def writeReport (s : State) (j : Job) (d : Desc) : List Byte :=
  cnt16 j.underruns ++ cnt16 j.links ++ cnt16 j.replaced ++ leBytes 1 (sat 8 j.opcRuns) ++ [0] ++
    leBytes 2 (fFinal s d) ++ zeros 2 ++ leBytes 4 (orFF j.firstFail) ++ zeros 16

/-- AUX as written by SEAL BUFFER and SEALED WRITE: nonce, four zeros, tag or zeros (R117, R326). -/
def sealAux (nonce tag : List Byte) : List Byte := fit 12 nonce ++ zeros 4 ++ fit 16 tag

/-- What a command writes at AUX when it ends with a status (R114, R256, R326). -/
def jobAux (s : State) (j : Job) (d : Desc) (st : Status) : List Byte :=
  match d.op with
  | .verify => leBytes 4 (orFF (firstFailed d j))
  | .write | .format => writeReport s j d
  | .sealedWrite => if d.nonceOut.isEmpty then [] else sealAux d.nonceOut (if statusGood st then d.nonceOut.drop 12 else [])
  | _ => d.aux

/-- The command on the mechanism stops with a status; BYTES follows R108, and delivered data stands. -/
def stopJob (s : State) (st : Status) : State :=
  match jobDesc s with
  | none => endJob s st 0
  | some (j, d) =>
    let t := s.modDesc j.f j.k fun d =>
      { d with writes := d.writes ++ jobWrites s j d, aux := if d.fld.auxPtr = 0 then [] else jobAux s j d st
               failLba := (j.memFail.orElse fun _ => firstFailed d j).orElse fun _ => j.firstFail }
    endJob t st (jobBytes s j d)

/-- A command already recording inside a unit stops there: the unit is lost on write-once media (R252, R341). -/
def recordingNow (s : State) : Option Nat :=
  match s.job with
  | some j => if j.kind == .writing && s.servo.wgate then some j.next else none
  | none => none

/-- On write-once media the track moves past a unit whose recording stops inside it (R252). -/
def losePartial (s : State) : State :=
  match recordingNow s, s.disc with
  | some u, some di => { s with disc := some (notePartial di (u / discUnit di * discUnit di)) }
  | _, _ => s

/-- WGATE falls; a unit in progress is lost (R238, R252). -/
def dropGate (s : State) : State :=
  let t := losePartial s
  if t.servo.wgate then { t with servo := { t.servo with wgate := false } }.emit (.wgate false) else t

/-! ### Modes of the mechanism (R411) -/

/-- A data command, which takes IDLE to READ, WRITE or SCAN (Table 16.6). -/
def dataMode (o : Op) : Option Mode :=
  match o with
  | .read | .readRaw | .verify | .sealedRead => some .read
  | .write | .sealedWrite | .close | .format | .reserveTrack => some .write
  | .scan => some .scan
  | _ => none

/-- IDLE, LOAD, READ, WRITE and SCAN: the modes in which the mechanism takes commands, SERVICE aside (R404). -/
def idleLike (m : Mode) : Bool :=
  match m with
  | .idle | .load | .read | .write | .scan => true
  | _ => false

/-- The mode follows the command dispatched (Table 16.6); SERVICE stays. -/
def modeForOp (s : State) (o : Op) (eject : Bool) : Mode :=
  if !idleLike s.sys.mode then s.sys.mode
  else match dataMode o with
    | some m => m
    | none => if o == .loadEject && !eject then .load else .idle

/-- The mode when the mechanism falls free: IDLE unless a data command waits for it (Table 16.6). -/
def modeWhenFree (s : State) : Mode :=
  if !idleLike s.sys.mode then s.sys.mode
  else if allFolds.any fun f => match waitingWork s f with
      | some d => (dataMode d.op).isSome
      | none => false
    then s.sys.mode else .idle

/-! ### DROVER_DISPATCH and MECHANISM_FREE -/

/-- WEIGHT × 100 µs (R50). -/
def quantum (s : State) (f : FoldId) : Nat := (s.fold f).record.weight * 100

/-- How many turns a fold with work needs until its deficit is above 0. -/
def turnsNeeded (s : State) (f : FoldId) : Nat :=
  let d := (s.fold f).deficit
  let q := max 1 (quantum s f)
  if 0 < d + q then 1 else ((-d).toNat / q) + 1

/-- The fold whose turn dispatches next, with the deficits every visited fold has by then. Folds are visited in cyclic
order after the fold served last; each turn adds the quantum, and a turn whose deficit stays at 0 or below ends (R50). -/
def nextTurn (s : State) : Option (FoldId × State) :=
  let cand := (foldsAfter s.drover.last).filter fun f => (waitingWork s f).isSome
  match cand with
  | [] => none
  | f0 :: _ =>
    let m := cand.foldl (fun a f => min a (turnsNeeded s f)) (turnsNeeded s f0)
    match cand.find? fun f => turnsNeeded s f == m with
    | none => none
    | some w =>
      let before := cand.takeWhile fun f => f != w
      let t := cand.foldl (fun t f =>
        let n := if f == w || before.contains f then m else m - 1
        t.modFold f fun x => { x with deficit := x.deficit + (n * quantum s f : Nat) }) s
      some (w, { t with drover := { t.drover with turn := some w, last := w } })

/-- Host memory that a descriptor reads as it starts: AAD, nonce and tag, a vault key, and what its list holds. A WRITE's data is
read as it is recorded (R81, R82, R117 to R119, R250). -/
def startReads (d : Desc) : List (Nat × Nat) :=
  let engine := d.op == .sealedRead || d.op == .sealedWrite || d.op == .sealBuffer || d.op == .openBuffer
  let aad := if engine && d.fld.aadLen != 0 then [(d.fld.aadPtr, d.fld.aadLen)] else []
  let aux := if d.op == .sealedRead || d.op == .openBuffer then [(d.fld.auxPtr, 32)] else []
  let key := if d.op == .vaultGet || d.op == .vaultPut || d.op == .vaultDelete then [(d.fld.address, d.fld.count)] else []
  let list := match d.op with
    | .sealedWrite | .keyLoad | .sealBuffer | .openBuffer | .vaultPut | .foldSet | .profileLoad | .timeSet | .tariffSet
    | .fwDownload => d.list
    | _ => []
  aad ++ aux ++ key ++ list

/-- A descriptor starts, and its reads of host memory go out (R82, R106). -/
def startDesc (s : State) (f : FoldId) (d : Desc) : State :=
  (noteStart s f d.k).emits ((startReads d).flatMap fun r => readsFor s f r.1 r.2)

/-- The disc that a descriptor was accepted with is no longer there: another, or one put back after a removal (R110). -/
def discReplaced (s : State) (d : Desc) : Bool :=
  d.discId.isSome && (d.discId != s.disc.map (·.discId) || d.removals != s.loader.removals)

/-- The drover dispatches a descriptor: it starts, or ends at once when the disc is gone or changed, or when PU_TEMP is open
and it would record (R106, R110, R176). -/
def dispatchDesc (s : State) (f : FoldId) (d : Desc) : State :=
  let stop (st : Status) : State := finish (noteStart s f d.k) f d.k st 0
  if opDisc d.op && !discThere s d.op then stop .noDisc
  else if opDisc d.op && discReplaced s d then stop .discChanged
  else if opWrites d.op && s.servo.puOpen then stop .writeFailed
  else
    let t := startDesc s f d
    let t := { t with job := some { kind := .moving, f := f, k := d.k, at_ := s.us } }
    { t with sys := { t.sys with mode := modeForOp s d.op (bit d.fld.opfield 0), parked := false } }

/-- A turn ends when the deficit is 0 or below or no work waits; with no work a positive deficit becomes 0 (R50). -/
def endTurn (s : State) (f : FoldId) : State :=
  let x := s.fold f
  if (waitingWork s f).isNone then
    { (s.modFold f fun x => { x with deficit := min x.deficit 0 }) with drover := { s.drover with turn := none } }
  else if x.deficit ≤ 0 then { s with drover := { s.drover with turn := none } }
  else s

/-- No command of a fold is on the mechanism. -/
def mechanismFree (s : State) : Bool :=
  match s.job with
  | none => true
  | some j => match j.kind with
    | .speculation _ => true
    | _ => false

/-- A fold's turn ends when the work it was for has gone, unless a command is on the mechanism (R50, R52). -/
def settleFold (s : State) (f : FoldId) : State := if mechanismFree s then endTurn s f else s

/-- The turn in progress ends when the work it was for has gone: timed out or aborted (R50, R52). -/
def settleTurn (s : State) : State :=
  match s.drover.turn with
  | some f => settleFold s f
  | none => s

/-- The mechanism may be given a command now: it is free or only speculating, the loader is at rest, and nothing bars it (R28,
R51, R206, R382). -/
def mechanismOpen (s : State) : Bool :=
  !mechanismBarred s && !s.loader.ejecting && s.loader.drive == .none && (idleLike s.sys.mode || s.sys.mode == .service) &&
    mechanismFree s

/-- A seek ends where the sled is: it comes to rest there, and its radius follows the whole full steps made (R135; log entry 53). -/
def haltSeek (s : Sled) (us : Nat) : Sled :=
  match s.move with
  | .move a _ _ =>
    { s with seek := none, settling := false, move := .rest, restAt := us
             radius := s.radius.map fun r => ((r : Int) + (s.pos - a) / 16777216 * s.inUse.pitch).toNat }
  | _ => { s with seek := none, settling := false }

/-- A speculative action stops at its abort point: its unit is discarded whole, and a move of the sled that it made ends there (R51,
R134, R135). -/
def stopSpeculation (s : State) : State :=
  if !mechanismFree s then s
  else { s with job := none, sled := if s.sled.seek.isSome then haltSeek s.sled s.us else s.sled }

/-- DROVER_DISPATCH: the fold whose turn it is, or the next in the round, has its next command dispatched; a speculative
action ends at its abort point, and its unit is discarded whole (R50, R51, R134). -/
def execDroverDispatch (s : State) : Answer :=
  .next (if !mechanismOpen s || !anyWaiting s then s
    else
      let s := settleTurn (stopSpeculation s)
      let turn := match s.drover.turn with
        | some f => some (f, s)
        | none => nextTurn s
      match turn with
      | none => s
      | some (f, t) => match waitingWork t f with
        | none => t
        | some d => settleTurn (dispatchDesc t f d))

/-! ### Starting without the mechanism (R79, R80) -/

/-- Fold 0's FOLD SETs start one at a time (R36); its TIME SETs (R362) and its MODE SETs and FW ACTIVATEs (R404) likewise. -/
def serialGroup : Op → Nat
  | .foldSet => 1
  | .timeSet => 2
  | .modeSet | .fwActivate => 3
  | _ => 0

/-- An earlier member of the same group is still uncompleted. -/
def serialBlocked (x : Fold) (d : Desc) : Bool :=
  serialGroup d.op != 0 && x.descs.any fun e => decide (e.k < d.k) && serialGroup e.op == serialGroup d.op

/-- DESCRIPTOR_START: a descriptor that needs no mechanism starts (R79, R80, R106). -/
def execDescriptorStart (f : FoldId) (k : Nat) (s : State) : Answer :=
  .next (match s.desc? f k with
  | none => s
  | some d =>
    if descReady d && !needsMech s d && d.op != .mmcPass && fenceOpen (s.fold f) d && !startBlocked s f d &&
        !serialBlocked (s.fold f) d then startDesc s f d
    else s)

/-- A started descriptor of an opcode that uses no mechanism. -/
def runningAs (s : State) (f : FoldId) (k : Nat) (o : Op) : Option Desc :=
  match s.desc? f k with
  | some d => if d.stage == .running && d.op == o && (jobOf s f k).isNone then some d else none
  | none => none

/-- A dispatched descriptor of an opcode, whose command has not begun on the mechanism. -/
def dispatchedAs (s : State) (f : FoldId) (k : Nat) (o : Op) : Option Desc :=
  match s.desc? f k, jobOf s f k with
  | some d, some j => if d.stage == .running && d.op == o && j.kind == .moving then some d else none
  | _, _ => none

/-- Complete a started descriptor OK with a byte count. -/
def completeOk (s : State) (f : FoldId) (k bytes : Nat) : State := finish s f k .ok bytes

/-! ### Timeouts and aborts (R99, R56, R89) -/

/-- A recording is to stop at a lossless link at the next unit boundary; between units, or before it has begun, it stops at
once (R56, R382). -/
def stopAtBoundary (s : State) (st : Status) : State :=
  if s.servo.wgate then s.modJob fun j => { j with stopWith := some (j.stopWith.getD st) } else stopJob s st

/-- DESCRIPTOR_TIMEOUT: what has not started completes with TIMED_OUT and no effect; a reading command on the mechanism
stops; recording and everything else that has started runs on (R99). A MODE SET or FW ACTIVATE that still drains counts as
not started, and consumption resumes (R405). -/
def execDescriptorTimeout (f : FoldId) (k : Nat) (s : State) : Answer :=
  .next (match s.desc? f k with
  | none => s
  | some d =>
    if !descActive d || !descAccepted d || s.us < d.deadline then s
    else match jobOf s f k with
      | some _ => if opReads d.op then stopJob s .timedOut else s
      | none =>
        if d.startedAt.isNone then
          let t := if d.stage == .draining then
            { s with sys := { s.sys with drainAll := false, drainOthers := false } } else s
          settleTurn (finishUnstarted t f k .timedOut)
        else s)

/-- A drain ends without its MODE SET or FW ACTIVATE acting, and consumption resumes (R405). -/
def endDrain (s : State) : State := { s with sys := { s.sys with drainAll := false, drainOthers := false } }

/-- End one descriptor of a fold that has not started (R89). -/
def abortUnstarted (s : State) (f : FoldId) (d : Desc) : State :=
  if d.startedAt.isNone && descActive d then
    settleTurn (finishUnstarted (if d.stage == .draining then endDrain s else s) f d.k .aborted)
  else s

/-! ### COMPLETION_POST (R74 to R77, R106) -/

/-- The completion of a descriptor that has ended (Table 4.4). -/
def completionOf (d : Desc) : Completion where
  tag := d.fld.tag
  status := statusCode d.status
  head := headField d.idx
  ring := d.ring.val
  dup := false
  bytes := w32 d.bytes
  mechTime := mechTimeOf d.mechUs
  queueWait := queueWaitOf d.queueWait

/-- MMC PASS leaves sense data at AUX: 18 bytes, then the SCSI status byte (R122; log entry 23). -/
def mmcAux (d : Desc) : List Byte := senseBytes (senseRecord d.status d.failLba) ++ [scsiStatus d.status]

/-- The sense of a fold follows its MMC PASS, a REQUEST SENSE included (R121). -/
def noteSense (s : State) (f : FoldId) (d : Desc) : State :=
  if d.fld.opcode = 0x70 then s.modFold f fun x => { x with sense := senseRecord d.status d.failLba } else s

/-- A descriptor's completion is posted: data, then AUX, then the completion, then the message; a done ring in error or
disabled discards it (R76, R77, R88). A fold that is being reset posts nothing (R55). -/
def completionPost (f : FoldId) (k : Nat) (s : State) : State :=
  match s.desc? f k with
  | none => s
  | some d =>
    if d.stage ≠ .done ∨ (s.fold f).resetting.isSome then s
    else
      let aux := if d.fld.opcode = 0x70 then mmcAux d else d.aux
      let auxOut : List Out := if aux.isEmpty || d.fld.auxPtr == 0 || d.fld.auxPtr % 16 != 0 then []
        else [Out.write f d.fld.auxPtr aux]
      let t := s.emits ((d.writes.map fun w => Out.write f w.1 w.2) ++ auxOut)
      let t := lockAtCompletion ((noteSense t f d).modDesc f k fun d => { d with writes := [], aux := [] }) f k
      let m := (t.wring f d.ring).dring
      let r := t.dring f m
      let c := completionOf d
      if !r.en || r.err != 0 then retire t f k c
      else reportLost (postItem t f m (.comp k c d.fld.irq)) f

/-- COMPLETION_POST (R76, R77, R88). -/
def execCompletionPost (f : FoldId) (k : Nat) (s : State) : Answer := .next (completionPost f k s)

end Sys2Proof.Machine
end

