-- ==== Sys2Proof/Machine/Mram.lean ====
section
/-! DEFINITION. Machine/Mram.lean: the MRAM at the level of records: regions, pages and wear, token buckets, the order of
programs, commits, the scrubber and raw mode (R293 to R301, R305). -/
namespace Sys2Proof.Machine

/-- First page of a region, and its number of pages for records (Table 11.4). -/
def regionBase : Nat → Nat
  | 0 => 0x0000 | 1 => 0x1000 | 2 => 0x2000 | 3 => 0x2040 | 4 => 0x3040 | 5 => 0x3440 | 6 => 0x3840 | _ => 0x3880
def regionPages : Nat → Nat
  | 0 => 4096 | 1 => 4096 | 2 => 64 | 3 => 4096 | 4 => 1024 | 5 => 1024 | 6 => 64 | _ => 1904

/-- The region that holds a page (Table 11.4). -/
def regionOf (p : Nat) : Nat :=
  if p < 0x1000 then 0 else if p < 0x2000 then 1 else if p < 0x2040 then 2 else if p < 0x3040 then 3
  else if p < 0x3440 then 4 else if p < 0x3840 then 5 else if p < 0x3880 then 6 else 7

/-- The strength code in force for a region, and its t (Table 11.3, R294). -/
def strengthCode (s : State) (r : Nat) : Nat := bits s.ecc.strength (2 * r + 1) (2 * r)
def strengthT (code : Nat) : Nat := match code with
  | 0 => 2 | 1 => 4 | 2 => 8 | _ => 12

/-- WEAR of a page. -/
def wearOf (m : Mram) (p : Nat) : Nat := (getKey p m.wear).getD 0

/-- One more program of a page: WEAR saturates, and what the page held is gone (Table 11.3). -/
def wearUp (m : Mram) (p : Nat) : Mram :=
  { m with wear := putKey p (sat 32 (wearOf m p + 1)) m.wear, found := delKey p m.found, cleared := m.cleared.filter (· != p) }

/-- A superseded header page is programmed with zeros (R295). -/
def clearHead (m : Mram) (pages : List Nat) : Mram :=
  match pages.head? with
  | some p => { wearUp m p with cleared := (wearUp m p).cleared ++ [p] }
  | none => m

/-- What a decode of a page finds. -/
def foundIn (m : Mram) (p : Nat) : DecodeBits := (getKey p m.found).getD (some 0)

/-- The wrong bits of a page change: a decode finds this from now on. -/
def setFound (m : Mram) (p : Nat) (x : DecodeBits) : Mram :=
  { m with found := if x = some 0 then delKey p m.found else putKey p x m.found }

/-- A page is free: no readable record refers to it, no write in progress has taken it, it is not retired (R296, R301). -/
def pageFree (m : Mram) (p : Nat) : Bool :=
  !(m.recs.any fun r => r.pages.contains p) && !(m.prev.any fun r => r.pages.contains p) &&
    !(m.queue.any fun q => q.used.contains p) && !m.retiredPages.contains p

/-- Take n free pages of a region, lowest WEAR first, the lower number first among equals (R295; log entry 28). -/
def pickPages : Nat → Mram → Nat → List Nat → Option (List Nat)
  | 0, _, _, acc => some acc
  | n + 1, m, r, acc =>
    let best := (List.range (regionPages r)).foldl (fun (b : Option (Nat × Nat)) i =>
      let p := regionBase r + i
      let w := wearOf m p
      match b with
      | some (_, bw) => if w < bw && pageFree m p && !acc.contains p then some (p, w) else b
      | none => if pageFree m p && !acc.contains p then some (p, w) else none) none
    match best with
    | none => none
    | some (p, _) => pickPages n m r (acc ++ [p])

/-- The pages of a record with a payload of n bytes: a 48-byte header, header page included (chapter 11). -/
def recordPages (n : Nat) : Nat := max 1 (ceilDiv (48 + n) 256)

/-! ### Token buckets (R299, Table 11.6) -/

/-- A bucket's rate in pages a second; none where the table sets none. -/
def bucketRate (s : State) : Bucket → Option Nat
  | .region 4 => some 1
  | .region 5 => some 4
  | .region 6 => some 2
  | .region 7 => some 16
  | .region _ => none
  | .vault _ => some (clampN 1 64 (bits s.ecc.vrate 6 0))

/-- A bucket filled up to now: 1,024 pages at most. -/
def fillBucket (s : State) (b : Bucket) (n : Nat) : Nat :=
  match bucketRate s b with
  | none => n
  | some r => min 1024000000 (n + r * (s.us - s.mram.tokenAt))

/-- Every bucket filled up to now. -/
def settleTokens (s : State) : State :=
  { s with mram := { s.mram with
      tokens := Vector.ofFn fun i => fillBucket s (.region i.val) (s.mram.tokens.get i)
      vaultTokens := Vector.ofFn fun f => fillBucket s (.vault f) (s.mram.vaultTokens.get f)
      tokenAt := s.us } }

/-- What a bucket holds, in 10⁻⁶ pages. -/
def tokensIn (m : Mram) : Bucket → Nat
  | .region r => if h : r < 8 then m.tokens.get ⟨r, h⟩ else 0
  | .vault f => m.vaultTokens.get f

/-- Take n pages' tokens from a bucket. -/
def spendTokens (m : Mram) (b : Bucket) (n : Nat) : Mram :=
  match b with
  | .region r => if h : r < 8 then { m with tokens := m.tokens.set r (m.tokens.get ⟨r, h⟩ - n * 1000000) } else m
  | .vault f => { m with vaultTokens := m.vaultTokens.set f (m.vaultTokens.get f - n * 1000000) }

/-- A record write costs its pages plus one (R299). -/
def progCost (q : Prog) : Nat := q.pages + 1

/-! ### Requesting and choosing (R295, R298) -/

/-- The order of R298 among programs: the input-loss commit, the record in progress, the keeper mirror, other records. -/
def chooseProg (l : List Prog) : Option Prog :=
  (l.find? fun q => q.prio == .inputLoss).orElse fun _ =>
  (l.find? fun q => q.begun).orElse fun _ =>
  (l.find? fun q => q.prio == .mirror && !q.needs).orElse fun _ =>
  (l.find? fun q => q.prio == .other && !q.needs).orElse fun _ =>
  l.find? fun q => q.prio == .refresh

/-- A write takes its free pages and the strength in force, and begins; none where its region has too few (R294, R295,
R301). -/
def beginProg (s : State) (q : Prog) : Option Prog :=
  if q.begun then some q
  else (pickPages (q.pages - q.used.length) s.mram q.region q.used).map fun l =>
    { q with begun := true, used := l, strength := strengthCode s q.region }

/-- Replace a program in the queue by what it has become, or take it off. -/
def putProg (m : Mram) (old : Prog) (new : Option Prog) : Mram :=
  { m with queue := match new with
      | some q => updFirst (fun x => x == old) (fun _ => q) m.queue
      | none => m.queue.erase old }

/-- With no record in progress the next one begins, if its region has the pages (R295, R298). -/
def beginIfIdle (s : State) : State :=
  if s.mram.queue.any (·.begun) then s
  else match chooseProg s.mram.queue with
    | none => s
    | some q => match beginProg s q with
      | none => s
      | some b => { s with mram := putProg s.mram q (some b) }

/-- Ask for a record write, or a deletion with no payload: it takes its place among the programs, waiting for tokens where
its bucket has too few (R295, R298, R299). -/
def requestRecord (s : State) (region id : Nat) (payload : Option Payload) (bytes : Nat) (prio : Prio)
    (bucket : Option Bucket) (act : OnCommit) (sealing : Option Sealed := none) : State :=
  let s := settleTokens s
  let n := if payload.isSome then recordPages bytes else 1
  let short := match bucket with
    | none => false
    | some b => decide (tokensIn s.mram b < (n + 1) * 1000000)
  let m := match bucket with
    | some b => if short then s.mram else spendTokens s.mram b (n + 1)
    | none => s.mram
  let q : Prog := { region := region, id := id, payload := payload, left := n, pages := n, prio := prio, needs := short
                    bucket := bucket, act := act, sealing := sealing }
  beginIfIdle { s with mram := { m with queue := m.queue ++ [q] } }

/-- SEQ of the next version of a record. -/
def nextSeqOf (m : Mram) (region id : Nat) : Nat :=
  match m.recs.find? fun r => r.region == region && r.id == id with
  | some r => (r.seq + 1) % 2 ^ 32
  | none => 1

/-- The header is programmed: the record reads new. Outside the vault the version before stays readable; what it supersedes
is cleared by one more program of its header page (R295). A deletion leaves nothing. -/
def commitRecord (m : Mram) (q : Prog) : Mram :=
  let same (r : Rec) := r.region == q.region && r.id == q.id
  let old := m.recs.filter same
  let older := m.prev.filter same
  match q.payload with
  | none =>
    let m := clearHead (((old ++ older).map (·.pages)).foldl clearHead m) q.used
    { m with recs := m.recs.filter fun r => !same r, prev := m.prev.filter fun r => !same r }
  | some pl =>
    let new : Rec := { region := q.region, id := q.id, seq := nextSeqOf m q.region q.id, payload := pl,
                       pages := q.used.reverse, strength := q.strength, sealing := q.sealing }
    let m := ((if q.region = 3 then old else older).map (·.pages)).foldl clearHead m
    { m with recs := (m.recs.filter fun r => !same r) ++ [new]
             prev := (m.prev.filter fun r => !same r) ++ if q.region = 3 then [] else old }

/-- The most worn and the least worn page of a region that may hold records, with their WEAR. -/
def wearSpread (m : Mram) (r : Nat) : (Nat × Nat) × (Nat × Nat) :=
  (List.range (regionPages r)).foldl (fun (a : (Nat × Nat) × (Nat × Nat)) i =>
    let p := regionBase r + i
    let w := wearOf m p
    if m.retiredPages.contains p then a
    else (if a.1.2 < w then (p, w) else a.1, if w < a.2.2 then (p, w) else a.2)) ((regionBase r, 0), (regionBase r, 2 ^ 32))

/-- Wear levelling: past a spread of 4,096 the record on the least worn page moves to the most worn free page, at the
priority of refresh (R300). -/
def levelWear (s : State) (r : Nat) : State :=
  if s.mram.wear.all fun p => decide (p.2 ≤ 4096) then s
  else
    let (hi, lo) := wearSpread s.mram r
    if hi.2 ≤ lo.2 + 4096 then s
    else match s.mram.recs.find? fun x => x.pages.contains lo.1 with
      | none => s
      | some x =>
        if s.mram.queue.any fun q => q.region == x.region && q.id == x.id then s
        else
          let free := ((List.range (regionPages r)).map (regionBase r + ·)).filter (pageFree s.mram)
          match free.foldl (fun (b : Option (Nat × Nat)) p => match b with
              | none => some (p, wearOf s.mram p)
              | some (q, w) => if w < wearOf s.mram p then some (p, wearOf s.mram p) else some (q, w)) none with
          | none => s
          | some (p, _) =>
            { s with mram := { s.mram with queue := s.mram.queue ++ [{ region := x.region, id := x.id, payload := some x.payload,
                                                                       left := x.pages.length, pages := x.pages.length,
                                                                       prio := .refresh, used := [p], sealing := x.sealing }] } }

/-- TOKEN_BUCKET_REFILL: a bucket has gained enough for the first record that waits on it, which may then begin (R299). -/
def execTokenBucketRefill (b : Bucket) (s : State) : Answer :=
  let s := settleTokens s
  .next (match s.mram.queue.find? fun q => q.needs && q.bucket == some b with
  | none => s
  | some q =>
    if tokensIn s.mram b < progCost q * 1000000 then s
    else beginIfIdle { s with mram := putProg (spendTokens s.mram b (progCost q)) q (some { q with needs := false }) })

/-! ### The MRAM scrubber (R293) -/

/-- The strength a page was programmed at: its record's, or its region's for pages no record holds. -/
def pageStrength (s : State) (p : Nat) : Nat :=
  (getKey p s.mram.strengthAt).getD <| match s.mram.recs.find? fun r => r.pages.contains p with
  | some r => r.strength
  | none => match s.mram.prev.find? fun r => r.pages.contains p with
    | some r => r.strength
    | none => strengthCode s (regionOf p)

/-- A page of a record reads uncorrectable: in the vault the record stays present but unreadable; elsewhere the previous
version takes its place, or it is absent (R297). FALLBACK says whether a previous version is used. -/
def pageLost (m : Mram) (p : Nat) : Mram × Bool :=
  match m.recs.find? fun r => r.pages.contains p with
  | none => ({ m with prev := m.prev.filter fun r => !r.pages.contains p }, false)
  | some r =>
    if r.region = 3 then
      ({ m with recs := m.recs.map fun x => if x == r then { x with unreadable := true } else x }, false)
    else
      let rest := m.recs.filter fun x => x != r
      match m.prev.find? fun x => x.region == r.region && x.id == r.id with
      | none => ({ m with recs := if r.region = 6 ∧ r.id = 255 then rest ++ [{ r with unreadable := true }] else rest }, false)
      | some v =>
        if r.region = 6 then ({ m with recs := rest ++ [{ v with unreadable := true }], prev := m.prev.filter fun x => x != v }, true)
        else ({ m with recs := rest ++ [v], prev := m.prev.filter fun x => x != v }, true)

/-- A page is to be refreshed. -/
def wantRefresh (m : Mram) (p : Nat) : Mram :=
  if m.refresh.contains p then m else { m with refresh := m.refresh ++ [p] }

/-- What a decode of a page in use led to (R289, R293, R297). -/
def afterRead (s : State) (p : Nat) (found : DecodeBits) (source : Nat) : State :=
  let code := pageStrength s p
  match found with
  | some c =>
    let t := if c = 0 then s else eccCorrect s 3
    let differs := code != strengthCode t (regionOf p) && decide (source = 2)
    if strengthT code / 2 ≤ c || differs then { t with mram := wantRefresh t.mram p } else t
  | none =>
    let (m, fb) := pageLost s.mram p
    eccUncorr { s with mram := m } 3 source fb false p

/-- A page is read and decoded, by the firmware or, with source 2, by the scrubber or the start-up scan. -/
def readPage (source : Nat) (s : State) (p : Nat) : State := afterRead s p (foundIn s.mram p) source

/-- Pages are read one after the other. -/
def readPages (s : State) (l : List Nat) (source : Nat) : State := l.foldl (readPage source) s

/-- The time between two reads of the MRAM scrubber, in µs: a pass takes MRAM_HOURS (R293, R306). -/
def mramInterval (s : State) : Nat := scrubHours (bits s.ecc.scrubCtl 15 8) * 3600000000 / 16384

/-- MRAM_SCRUB_READ: pages whose wrong bits have changed since the last one, with what a decode of each now finds, and the read of the
next page, when it is due (R293). -/
def execMramScrubRead (found : List (Nat × DecodeBits)) (s : State) : Answer :=
  .next (if s.sys.mode == .vigil || s.sys.mode == .doze || decide (s.us < s.ecc.mramAt + mramInterval s) then s
    else
      let p := s.ecc.mramPos
      readPage 2 { s with
        mram := found.foldl (fun m x => setFound m x.1 x.2) s.mram
        ecc := { s.ecc with mramPos := (p + 1) % 16384, mramAt := s.ecc.mramAt + mramInterval s } } p)

/-! ### Raw mode (R305) -/

/-- XOR the armed flip into a page: data bytes 0 to 7 and check byte 0 (R304). -/
def flipPage (s : State) (data spare : List Word) : List Word × List Word :=
  if bits s.ecc.flipTarget 2 0 = 4 then
    (data.zipIdx.map fun p => if p.2 = 0 then p.1 ^^^ s.ecc.flipDataLo else if p.2 = 1 then p.1 ^^^ s.ecc.flipDataHi else p.1,
     spare.zipIdx.map fun p => if p.2 = 0 then p.1 ^^^ (s.ecc.flipCheck &&& 0xFF) else p.1)
  else (data, spare)

/-- MRAM_RAW_PROGRAM: in SERVICE a test page is programmed exactly as written; any other page sets REFUSED (R305). -/
def execMramRawProgram (s : State) : Answer :=
  .next (if !inService s then s
    else
      let p := bits s.ecc.rawPage 13 0
      if p < 0x3FF0 then { s with ecc := { s.ecc with rawRefused := true } }
      else
        let page := flipPage s s.ecc.rawData.toList s.ecc.rawSpare.toList
        let t := { s with
          mram := { s.mram with raw := putKey p page s.mram.raw }
          ecc := { s.ecc with rawRefused := false } }
        flipMeets t 4 fun a => a / 256 == p)

end Sys2Proof.Machine
end

