-- ==== Sys2Proof/Machine/Sealing.lean ====
section
/-! DEFINITION. Machine/Sealing.lean: the sealing engine: slots, nonces, CPH_LOCK, the sealing opcodes, engine faults, the
known-answer test (chapter 12). -/
namespace Sys2Proof.Machine

def evCipherFault : Nat := 0x0790
def evEngineDisabled : Nat := 0x0791
def evVaultAuth : Nat := 0x0792

/-! ### Slots (R307, R35) -/

/-- The engine slot of a fold's slot 0 or 1 (R35); 16 is the vault's counter. -/
def slotIndex (f : FoldId) (j : Nat) : Fin 17 := Fin.ofNat 17 (2 * f.val + j % 2)

/-- Slot i. -/
def State.slot (s : State) (i : Fin 17) : KeySlot := s.cph.slots.get i

/-- Put back slot i. -/
def State.setSlot (s : State) (i : Fin 17) (k : KeySlot) : State := { s with cph := { s.cph with slots := s.cph.slots.set i k } }

/-- The RECORD_ID of a slot's record: its number, 0xFF for the vault key (Table 12.1). -/
def slotRecordId (i : Fin 17) : Nat := if i.val = 16 then 255 else i.val

/-- The record of a slot's contents (R308, Table 12.1). -/
def recordOfSlot (i : Fin 17) (k : KeySlot) : SlotRecord :=
  { slot := slotRecordId i, aes256 := k.aes256, guarded := k.guarded, salt := k.salt, reservedTo := k.reservedTo,
    useLimit := k.useLimit, key := k.key }

/-- Payload bytes of a slot record (Table 12.1). -/
def slotRecordBytes (i : Fin 17) (k : KeySlot) : Nat := if i.val = 16 then 24 else if k.aes256 then 64 else 48

/-- Ask for a slot record with its own act at the commit (R308, R315). -/
def requestSlotRecord (s : State) (i : Fin 17) (k : KeySlot) (act : OnCommit) : State :=
  requestRecord s 6 (slotRecordId i) (some (.slot (recordOfSlot i k))) (slotRecordBytes i k) .other (some (.region 6)) act

/-- The nonce of counter value c: SALT, then c, little-endian (R313). -/
def nonceOf (salt : Word) (c : Nat) : List Byte := leBytes 4 salt.toNat ++ leBytes 8 c

/-! ### The lock (R316, R317) -/

/-- A requester takes the lock on behalf of a fold's descriptor, or the vault (R316). -/
def takeLock (s : State) (req : Nat) (f : FoldId) (k : Nat) : State :=
  { s with cph := { s.cph with owner := if req = 8 then 8 else f.val, direct := false, holder := some (f, k), lastReq := req,
                               heldSince := s.us, phase := .idle } }

/-- A descriptor asks for the lock and waits for its grant (R317). -/
def waitLock (s : State) (req : Nat) (f : FoldId) (k : Nat) : State :=
  { (s.modDesc f k fun d => { d with stage := .lock }) with cph := { s.cph with waiters := s.cph.waiters ++ [(req, f, k)] } }

/-- Run an operation under the lock: at once when the descriptor holds it, or when the lock is free and nobody waits;
otherwise the descriptor waits for LOCK_GRANT (R317). -/
def withLock (s : State) (req : Nat) (f : FoldId) (k : Nat) (g : State → State) : State :=
  if lockHeldBy s f k then g s
  else if s.cph.owner = 15 ∧ s.cph.waiters.isEmpty = true then g (takeLock s req f k)
  else waitLock s req f k

/-- The ten requesters after the one granted last, cyclically (R317). -/
def requestersAfter (r : Nat) : List Nat := (List.range 10).map fun i => (r + 1 + i) % 10

/-- LOCK_GRANT: the free lock goes to the next requester that waits, to its earliest descriptor (R317). -/
def execLockGrant (s : State) : Answer :=
  .next (if s.cph.owner ≠ 15 then s
    else match (requestersAfter s.cph.lastReq).findSome? fun r => s.cph.waiters.find? fun w => w.1 == r with
      | none => s
      | some (r, f, k) =>
        let t := takeLock { s with cph := { s.cph with waiters := s.cph.waiters.filter fun w => !(w == (r, f, k)) } } r f k
        t.modDesc f k fun d => { d with stage := .running })

/-- A descriptor of a sealing opcode that has started and does not hold the lock beyond its phases. -/
def sealRunning (s : State) (f : FoldId) (k : Nat) (o : Op) : Option Desc :=
  match runningAs s f k o with
  | some d => if lockHeldBy s f k && s.cph.phase != .idle then none else some d
  | none => none

/-! ### KEY LOAD and KEY CLEAR (R309 to R312) -/

/-- The slot a KEY LOAD makes of a key (R307, R310). -/
def loadedSlot (w : BitVec 16) (opdata : BitVec 64) (salt : Word) (key : List Byte) : KeySlot :=
  { st := .loaded, key := key, aes256 := bit w 0, guarded := bit w 1, salt := salt, counter := 1, reservedTo := 65536
    useLimit := if opdata = 0 then 2 ^ 64 - 1 else opdata.toNat }

/-- Draw a SALT and ask for the slot record; the slot keeps its contents until the commit (R310). -/
def loadKey (s : State) (f : FoldId) (k : Nat) (d : Desc) (key : List Byte) : State :=
  let i := slotIndex f d.fld.keySlot
  let (salt, t) := drawWord s
  let slot := loadedSlot d.fld.opfield d.fld.opdata salt key
  requestSlotRecord (t.modDesc f k fun d => { d with stage := .commit }) i slot (.keyLoad f k i.val)

/-- KEY LOAD with a plain key (R309). -/
def execKeyLoad (f : FoldId) (k : Nat) (key : List Byte) (s : State) : Answer :=
  .next (match sealRunning s f k .keyLoad with
  | none => s
  | some d =>
    if bit d.fld.opfield 2 then s
    else if s.cph.disabled then finish s f k .cipherFault 0
    else withLock s f.val f k fun t => loadKey t f k d (fit (keyBytes d.fld.opfield) key))

/-- KEY LOAD with a wrapped key: the fold's other slot unwraps it (R309). -/
def execKeyLoadWrapped (f : FoldId) (k : Nat) (wrapped : List Byte) (s : State) : Answer :=
  .next (match sealRunning s f k .keyLoad with
  | none => s
  | some d =>
    if !bit d.fld.opfield 2 then s
    else if s.cph.disabled then finish s f k .cipherFault 0
    else withLock s f.val f k fun t =>
      let kek := t.slot (slotIndex f (d.fld.keySlot + 1))
      if kek.st = .empty then finish t f k .noKey 0
      else match kwUnwrap kek.key (fit (keyBytes d.fld.opfield) wrapped) with
        | none => finish t f k .authFailed 0
        | some key => loadKey t f k d key)

/-- KEY CLEAR: the slot is emptied and its record deleted; an EMPTY slot is OK_REPEATED (R311, R111, R324). -/
def execKeyClear (f : FoldId) (k : Nat) (s : State) : Answer :=
  .next (match sealRunning s f k .keyClear with
  | none => s
  | some d => withLock s f.val f k fun t =>
    let i := slotIndex f d.fld.keySlot
    if (t.slot i).st = .empty then finish t f k .okRepeated 0
    else
      let u := (t.setSlot i {}).modDesc f k fun d => { d with stage := .commit }
      requestRecord u 6 (slotRecordId i) none 0 .other (some (.region 6)) (.keyClear f k i.val))

/-! ### Counter values (R313 to R315) -/

/-- What a start of SEALED WRITE or SEAL BUFFER finds in its slot. -/
inductive Counter where
  | stop (st : Status)
  | waits
  | value (c : Nat)
  deriving DecidableEq, Repr

/-- The check of R314, and the reservation of R315. -/
def counterCheck (k : KeySlot) : Counter :=
  if k.st = .empty then .stop .noKey
  else if k.st = .spent ∨ k.useLimit < k.counter then .stop .keySpent
  else if k.reservedTo < k.counter then .waits
  else .value k.counter

/-- A slot whose COUNTER exceeds USE_LIMIT becomes SPENT (R314). -/
def markSpent (s : State) (i : Fin 17) : State :=
  let k := s.slot i
  if k.st = .loaded ∧ k.useLimit < k.counter then s.setSlot i { k with st := .spent } else s

/-- A value is taken: COUNTER becomes c + 1, whatever becomes of the descriptor (R314). -/
def takeCounter (s : State) (i : Fin 17) : State := s.setSlot i { s.slot i with counter := (s.slot i).counter + 1 }

/-- A descriptor that needs a value above RESERVED_TO gives the lock back and waits for the commit (R315). -/
def waitReserve (s : State) (f : FoldId) (k : Nat) : State :=
  (lockAtCompletion s f k).modDesc f k fun d => { d with stage := .waiting, waitedSince := some s.us }

/-- The commit of a reservation wakes what waits for it; the wait counts in QUEUE_WAIT (R315). -/
def wakeReserve (s : State) : State :=
  allFolds.foldl (fun t f => t.modFold f fun x => { x with descs := x.descs.map fun d =>
    if d.stage == .waiting && (opSealed d.op || opVault d.op) then
      { d with stage := .running, queueWait := d.queueWait + (s.us - d.waitedSince.getD s.us), waitedSince := none } else d }) s

/-- A slot's last value taken calls for a new reservation (R315). -/
def reserveDue (k : KeySlot) : Bool := k.st != .empty && !k.reserving && decide (k.reservedTo < k.counter - 1 + 32768)

/-- NONCE_RESERVATION: a record with RESERVED_TO + 65,536 is requested (R315). -/
def execNonceReservation (i : Fin 17) (s : State) : Answer :=
  let k := s.slot i
  .next (if reserveDue k then
    requestSlotRecord (s.setSlot i { k with reserving := true }) i { k with reservedTo := k.reservedTo + 65536 } (.reserve i.val)
  else s)

/-! ### SEAL BUFFER and OPEN BUFFER (R117, R313, R318, R325, R326) -/

/-- A payload in the working set: written there by one requester and read by another (Table 10.5). -/
def throughSet (d : Desc) (upTo from_ : BitVec 16) : List MemOp := setOps true upTo d.bufs 0 d.fld.length ++ setOps false from_ d.bufs 0 d.fld.length

/-- SEAL BUFFER once it holds the lock. The lock is released with its completion (Table 12.2). -/
def sealBufferRun (f : FoldId) (k : Nat) (d : Desc) (aad plain : List Byte) (s : State) : State :=
  let i := slotIndex f d.fld.keySlot
  let s := markSpent s i
  match counterCheck (s.slot i) with
  | .stop st => finish s f k st 0
  | .waits => waitReserve s f k
  | .value c =>
    let key := s.slot i
    let nonce := nonceOf key.salt c
    let (cipher, tag) := gcmSeal key.key nonce (fit d.fld.aadLen aad) (fit d.fld.length plain)
    let t := (takeCounter s i).modDesc f k fun d =>
      { d with counter := some c, nonceOut := nonce, aux := sealAux nonce tag }
    let (t, bad) := memRun t (throughSet d (foldMask t f) engineMask ++ throughSet d engineMask (foldMask t f))
    if bad then finish (t.modDesc f k fun d => { d with aux := sealAux nonce [] }) f k .memoryFault 0
    else finish (deliver t f k cipher) f k .ok d.fld.length

def execSealBuffer (f : FoldId) (k : Nat) (aad plain : List Byte) (s : State) : Answer :=
  .next (match sealRunning s f k .sealBuffer with
  | none => s
  | some d =>
    if s.cph.disabled then finish s f k .cipherFault 0
    else withLock s f.val f k (sealBufferRun f k d aad plain))

/-- Decrypt into the hold; the tag is verified next (R141, R318). -/
def openInto (s : State) (key : KeySlot) (aad aux cipher : List Byte) : State :=
  { s with cph := { s.cph with phase := .verifying, hold := gcmCrypt key.key (aux.take 12) cipher, aad := aad, auxIn := aux } }

def execOpenBuffer (f : FoldId) (k : Nat) (aad aux cipher : List Byte) (s : State) : Answer :=
  .next (match sealRunning s f k .openBuffer with
  | none => s
  | some d =>
    if s.cph.disabled then finish s f k .cipherFault 0
    else withLock s f.val f k fun t =>
      let key := t.slot (slotIndex f d.fld.keySlot)
      if key.st = .empty then finish t f k .noKey 0
      else
        let (u, bad) := memRun t (throughSet d (foldMask t f) engineMask)
        if bad then finish u f k .memoryFault 0 else openInto u key (fit d.fld.aadLen aad) (fit 32 aux) (fit d.fld.length cipher))

/-- Zero the hold. -/
def zeroHold (s : State) : State := { s with cph := { s.cph with hold := zeros s.cph.hold.length } }

/-- The time L takes at 512 MiB/s, in µs, rounded up (R318). -/
def releaseTime (l : Nat) : Nat := ceilDiv (l * 1000000) (512 * 1048576)

/-- The descriptor whose tag is verified ends; a SEALED READ still on the mechanism completes when that is free (R51, R106). -/
def endSealed (s : State) (f : FoldId) (k : Nat) (st : Status) (bytes : Nat) : State :=
  let onMech := match s.job with
    | some j => j.f == f && j.k == k && j.ended
    | none => false
  if onMech then s.modDesc f k fun d => { d with status := st, bytes := bytes } else finish s f k st bytes

/-- A SEALED READ recovered by second look or re-read, or from a RECOVERED copy (R109, R129). -/
def sealedStatus (d : Desc) : Status := if d.status == .okRecovered || d.pins.any (·.recovered) then .okRecovered else .ok

/-- TAG_VERIFY: the tag result is known. The plaintext goes to host memory, or the hold is zeroed and AUTH_FAILED posted;
either way the lock stays for L / 512 MiB/s (R141, R318). -/
def execTagVerify (s : State) : Answer :=
  .next (match s.cph.holder with
  | none => s
  | some (f, k) =>
    match s.desc? f k with
    | none => s
    | some d =>
      if !lockVerifying s then s
      else
        let key := s.slot (slotIndex f d.fld.keySlot)
        let iv := s.cph.auxIn.take 12
        let plain := s.cph.hold
        let tag := gcmTag key.key iv s.cph.aad (gcmCrypt key.key iv plain)
        let t := { s with cph := { s.cph with phase := .releasing (s.us + releaseTime plain.length) } }
        if tag = (s.cph.auxIn.drop 16).take 16 then endSealed (deliver t f k plain) f k (sealedStatus d) plain.length
        else endSealed (zeroHold t) f k .authFailed 0)

/-- LOCK_RELEASE: T_rel has passed and, on a pass, the last plaintext write has been issued (R318). -/
def execLockRelease (s : State) : Answer :=
  .next (match s.cph.phase with
  | .releasing t =>
    let waitsWrites := match s.cph.holder with
      | some (f, k) => match s.desc? f k with
        | some d => statusGood d.status && !d.writes.isEmpty
        | none => false
      | none => false
    if t ≤ s.us ∧ waitsWrites = false then releaseLock s else s
  | _ => s)

/-! ### Engine faults (R323, R324) -/

/-- The operation that a parity fault stops ends with CIPHER_FAULT, all further output suppressed; a recording stops at a
unit boundary (R323, R108). A counter value taken stays used, and its nonce is still written (R326). -/
def cipherFaulted (s : State) (f : FoldId) (k : Nat) : State :=
  match s.desc? f k with
  | none => s
  | some d =>
    let t := s.modDesc f k fun d => { d with writes := [], aux := if d.nonceOut.isEmpty then [] else sealAux d.nonceOut [] }
    match jobOf s f k with
    | some j =>
      if j.kind == .writing then releaseLock (stopAtBoundary t .cipherFault) else releaseLock (stopJob t .cipherFault)
    | none =>
      if d.stage = .done then releaseLock (t.modDesc f k fun d => { d with status := .cipherFault, bytes := 0 })
      else releaseLock (endSealed t f k .cipherFault 0)

/-- A descriptor's own store is spoilt: it completes with MEMORY_FAULT, under R108 or with BYTES 0 (Table 11.2). -/
def spoilDesc (whole : Bool) (s : State) (f : FoldId) (k : Nat) : State :=
  match s.desc? f k with
  | none => s
  | some d =>
    if !descActive d then s
    else
      let t := match jobOf s f k with
        | some j =>
          if j.kind == .writing then stopAtBoundary s .memoryFault
          else if whole then
            endJob (s.modDesc f k fun d => { d with writes := [], aux := if d.nonceOut.isEmpty then [] else sealAux d.nonceOut [] })
              .memoryFault 0
          else stopJob s .memoryFault
        | none => finishUnstarted s f k .memoryFault
      if lockHeldBy s f k then releaseLock t else t

/-- CIPHER_PARITY_FAULT: the fault counts, 0x0790 is posted, and a third within 32,768 ticks of the first of three disables
the engine (R323, R324). It acts while the engine is in use and its output is not complete. -/
def execCipherParityFault (s : State) : Answer :=
  .next (if s.cph.owner = 15 ∨ lockReleasing s = true then s
    else
      let recent := s.cph.faultTicks.filter fun t => decide (s.kpr.tick ≤ t + 32768)
      let n := recent.length + 1
      let owner := s.cph.owner
      let t := match s.cph.holder with
        | some (f, k) => cipherFaulted s f k
        | none => s
      let t := { t with cph := { t.cph with faults := sat 8 (t.cph.faults + 1)
                                            faultTicks := (s.kpr.tick :: recent).take 2
                                            disabled := t.cph.disabled || decide (3 ≤ n) } }
      let t := postEvent t 0 evCipherFault (w32 (owner + 256 * min 3 n))
      if decide (3 ≤ n) && !s.cph.disabled then postEvent t 0 evEngineDisabled 0 else t)

/-! ### Direct use (R321, R328) -/

/-- CPH_LOCK_TAKE: fold 0 writes OWNER = 0 in SERVICE while OWNER reads 0xF (R321). -/
def execCphLockTake (s : State) : Answer :=
  .next (if inService s && s.cph.owner == 15 then
    { s with cph := { s.cph with owner := 0, direct := true, holder := none, heldSince := s.us, phase := .idle } }
  else s)

/-- CPH_LOCK_RELEASE: fold 0 writes OWNER = 0xF in SERVICE during a direct hold (R321). -/
def execCphLockRelease (s : State) : Answer := .next (if inService s && s.cph.direct then releaseLock s else s)

/-- CPH_KAT_START: the built-in tests run while DIRECT = 1 (R321). -/
def execCphKatStart (s : State) : Answer :=
  .next (onBar s 0 fun s => if s.cph.direct then { s with cph := { s.cph with katBusy := true, katPass := false, katFail := false } } else s)

/-- CPH_KAT_DONE: the tests have ended (Table 12.4). -/
def execCphKatDone (matched : Bool) (s : State) : Answer :=
  .next (if s.cph.katBusy then { s with cph := { s.cph with katBusy := false, katPass := matched, katFail := !matched } } else s)

/-- Any write to CPH_STAT clears FAULTS and HOLD_MAX (R328). -/
def execCphStatClear (s : State) : Answer := .next (onBar s 0 fun s => { s with cph := { s.cph with faults := 0, holdMax := 0 } })

/-! ### What a reset of a fold empties (R312) -/

/-- A reset empties a slot: the key is gone at once, SLOT_CLEAR keeps the deletion, which is requested (R312). -/
def resetSlot (s : State) (i : Fin 17) : State :=
  if (s.slot i).st = .empty then s
  else
    let t := s.setSlot i {}
    let t := { t with kpr := { t.kpr with slotClear := t.kpr.slotClear ||| ((1 : BitVec 16) <<< i.val) } }
    requestRecord t 6 (slotRecordId i) none 0 .other (some (.region 6)) (.slotDeleted i.val)

end Sys2Proof.Machine
end

