-- ==== Sys2Proof/Machine/Vault.lean ====
section
/-! DEFINITION. Machine/Vault.lean: the vault's objects, their charge and the four vault opcodes (R118, R111, R297, R324,
R327, Tables 4.10 and 12.2). An object is the committed record that holds its key and value; its sealing under the vault key
takes a value of the vault counter. -/
namespace Sys2Proof.Machine

/-- A committed vault record's object: fold, key, value. -/
def vaultObject (r : Rec) : Option (FoldId × List Byte × List Byte) :=
  match r.payload with
  | .vault f k v => if r.region = 3 then some (f, k, v) else none
  | _ => none

/-- The record that holds a fold's key. -/
def vaultFind (s : State) (f : FoldId) (key : List Byte) : Option Rec :=
  s.mram.recs.find? fun r => match vaultObject r with
    | some (g, k, _) => g == f && k == key
    | none => false

/-- The charge of an object, in bytes (R118). -/
def vaultCharge (key value : List Byte) : Nat := recordPages (key.length + value.length) * 256

/-- A write of a fold's object that waits for its commit. -/
def vaultPending (f : FoldId) (q : Prog) : Option (List Byte × List Byte) :=
  match q.payload with
  | some (.vault g k v) => if g = f then some (k, v) else none
  | _ => none

/-- A fold's objects, those whose write waits included: keys and values. -/
def vaultObjects (s : State) (f : FoldId) : List (List Byte × List Byte) :=
  let waiting := s.mram.queue.filterMap (vaultPending f)
  let held := s.mram.recs.filterMap fun r => match vaultObject r with
    | some (g, k, v) => if g = f ∧ (waiting.any fun w => w.1 == k) = false then some (k, v) else none
    | none => none
  held ++ waiting

/-- What a fold's objects are charged at, in bytes (R118). -/
def vaultUsed (s : State) (f : FoldId) : Nat := sumOf (fun o => vaultCharge o.1 o.2) (vaultObjects s f)

/-- A VAULT PUT would take the fold's total above VAULT_QUOTA (R118). -/
def overVaultQuota (s : State) (f : FoldId) (key value : List Byte) : Bool :=
  let rest := (vaultObjects s f).filter fun o => o.1 != key
  decide ((s.fold f).record.vaultQuota * 1024 < sumOf (fun o => vaultCharge o.1 o.2) rest + vaultCharge key value)

/-- A started vault opcode with the engine enabled runs under the lock of owner 8; disabled, it ends at once (R316, R324). -/
def vaultRun (s : State) (f : FoldId) (k : Nat) (o : Op) (g : Desc → State → State) : State :=
  match sealRunning s f k o with
  | none => s
  | some d => if s.cph.disabled then finish s f k .cipherFault 0 else withLock s 8 f k (g d)

/-- A record has been sealed or opened: the lock is free again (Table 12.2). -/
def endRecord (s : State) : State := releaseLock s

/-! ### Sealing of records (R327) -/

/-- The AAD of a record: the fold number and the RECORD_ID, each as 4 bytes (R327; log entry 122). -/
def vaultAad (f : FoldId) (id : Nat) : List Byte := leBytes 4 f.val ++ leBytes 4 id

/-- A record sealed under the vault key: the key and the value together, with a value of the vault counter (R313, R327). -/
def vaultSeal (s : State) (f : FoldId) (id c : Nat) (key value : List Byte) : Sealed :=
  let nonce := nonceOf (s.slot 16).salt c
  let x := gcmSeal Config.vaultKey nonce (vaultAad f id) (key ++ value)
  { nonce := nonce, cipher := x.1, tag := x.2 }

/-- A record's tag verifies. -/
def vaultOpens (f : FoldId) (r : Rec) : Bool :=
  match r.sealing with
  | some x => gcmTag Config.vaultKey x.nonce (vaultAad f r.id) x.cipher == x.tag
  | none => true

/-- A record whose tag fails is present but unreadable, and 0x0792 goes to fold 0 (R297, R327). -/
def vaultAuthFails (s : State) (f : FoldId) (r : Rec) : State :=
  let t := { s with mram := { s.mram with recs := s.mram.recs.map fun x => if x == r then { x with unreadable := true } else x } }
  postEvent t 0 evVaultAuth (w32 (f.val + 256 * r.pages.headD 0))

/-- The record that holds a fold's key is read from the MRAM (R293, R297). -/
def readVault (s : State) (f : FoldId) (key : List Byte) : State :=
  match vaultFind s f key with
  | some r => readPages s r.pages 0
  | none => s

/-- Every record of a fold is read. -/
def readVaultAll (s : State) (f : FoldId) : State :=
  readPages s (s.mram.recs.flatMap fun r => match vaultObject r with
    | some (g, _, _) => if g = f then r.pages else []
    | none => []) 0

/-- VAULT GET (R118, R297, R327). -/
def vaultGetRun (f : FoldId) (k : Nat) (key : List Byte) (d : Desc) (s : State) : State :=
  let s := endRecord (readVault s f (fit d.fld.count key))
  match vaultFind s f (fit d.fld.count key) with
  | none => finish s f k .ok 0
  | some r => match vaultObject r with
    | none => finish s f k .ok 0
    | some (_, _, v) =>
      if r.unreadable then finish s f k .memoryFault 0
      else if !vaultOpens f r then finish (vaultAuthFails s f r) f k .memoryFault 0
      else if d.fld.length < v.length then finish s f k .lenShort 0
      else finish (deliver s f k v) f k .ok v.length

def execVaultGet (f : FoldId) (k : Nat) (key : List Byte) (s : State) : Answer :=
  .next (vaultRun s f k .vaultGet (vaultGetRun f k key))

/-- The RECORD_ID of a key that has one, its first write perhaps still waiting. -/
def vaultId (s : State) (f : FoldId) (key : List Byte) : Option Nat :=
  ((vaultFind s f key).map (·.id)).orElse fun _ =>
    (s.mram.queue.find? fun q => (vaultPending f q).map (·.1) == some key).map (·.id)

/-- The RECORD_ID of a key: the one it has, or a new one. -/
def vaultIdFor (s : State) (f : FoldId) (key : List Byte) : Nat × State :=
  match vaultId s f key with
  | some i => (i, s)
  | none => (s.mram.nextVaultId, { s with mram := { s.mram with nextVaultId := s.mram.nextVaultId + 1 } })

/-- The fold's committed object under this key holds this value already (R117). -/
def vaultSame (s : State) (f : FoldId) (key value : List Byte) : Bool :=
  match vaultFind s f key with
  | some r => !r.unreadable && vaultObject r == some (f, key, value)
  | none => false

/-- VAULT PUT: an equal value is OK_REPEATED; otherwise the record is sealed under a vault counter value and committed (R118,
R111, R327). -/
def vaultPutRun (f : FoldId) (k : Nat) (key value : List Byte) (d : Desc) (s : State) : State :=
  let key := fit d.fld.count key
  let value := fit d.fld.length value
  let s := readVault s f key
  if vaultSame s f key value then finish (endRecord s) f k .okRepeated d.fld.length
  else if overVaultQuota s f key value then finish (endRecord s) f k .overQuota 0
  else match counterCheck (s.slot 16) with
    | .stop st => finish (endRecord s) f k st 0
    | .waits => waitReserve s f k
    | .value c =>
      let (id, t) := vaultIdFor (endRecord (takeCounter s 16)) f key
      requestRecord (t.modDesc f k fun d => { d with stage := .commit, counter := some c }) 3 id (some (.vault f key value))
        (key.length + value.length) .other (some (.vault f)) (.vaultPut f k) (some (vaultSeal s f id c key value))

def execVaultPut (f : FoldId) (k : Nat) (key value : List Byte) (s : State) : Answer :=
  .next (vaultRun s f k .vaultPut (vaultPutRun f k key value))

/-- VAULT DELETE: an absent key is OK_REPEATED; otherwise the record is deleted (R111, R295). It opens no record. -/
def execVaultDelete (f : FoldId) (k : Nat) (key : List Byte) (s : State) : Answer :=
  .next (match sealRunning s f k .vaultDelete with
  | none => s
  | some d =>
    if s.cph.disabled then finish s f k .cipherFault 0
    else match vaultId s f (fit d.fld.count key) with
      | none => finish s f k .okRepeated 0
      | some i =>
        requestRecord (s.modDesc f k fun d => { d with stage := .commit }) 3 i none 0 .other (some (.vault f)) (.vaultDelete f k))

/-- A VAULT LIST entry (R118). -/
def vaultEntry (key value : List Byte) : List Byte :=
  leBytes 1 key.length ++ leBytes 2 value.length ++ [0] ++ fit 32 key

/-- The fold's committed objects in ascending key order (R118). -/
def vaultSorted (s : State) (f : FoldId) : List (List Byte × List Byte) :=
  sortBy (fun a b => bytesLt a.1 b.1) (s.mram.recs.filterMap fun r => match vaultObject r with
    | some (g, k, v) => if g = f then some (k, v) else none
    | none => none)

/-- VAULT LIST (R118, Table 4.10). -/
def vaultListRun (f : FoldId) (k : Nat) (d : Desc) (s : State) : State :=
  let s := endRecord (readVaultAll s f)
  let l := vaultSorted s f
  let out := (l.take (d.fld.length / 36)).flatMap fun o => vaultEntry o.1 o.2
  finish (deliver (setAux s f k (leBytes 4 l.length)) f k out) f k .ok out.length

def execVaultList (f : FoldId) (k : Nat) (s : State) : Answer := .next (vaultRun s f k .vaultList (vaultListRun f k))

end Sys2Proof.Machine
end

