-- ==== Sys2Proof/Machine/Detect.lean ====
section
/-! DEFINITION. Machine/Detect.lean: what Pewter does with one RF sample: the equaliser, the front-end loops, the Viterbi and peak
detectors, the defect detector, sync patterns, acquisition and the sample ring (R211 to R222, R226). Media are numbered as MEDIUM of
Table 8.6; choices are in log entry 114. -/
namespace Sys2Proof.Machine

/-! ### Calibration at work (R415 to R417) -/

/-- The gain in parts per million and the offset in 1/1000 code of a converter: servo channel i, or 16 the RF and 17 the wobble ADC; an
item with no calibrated value uses its wafer-test trim (R417, Table 16.8). -/
def trimOf (s : State) (i : Nat) : Int × Int :=
  let (item, j) := if i < 16 then (0, i) else (1, i - 16)
  match s.sys.cal.items.getD item none with
  | some l => l.getD j (1000000, 0)
  | none => Config.factoryTrim i

/-- A corrected sample (c − o) × g, in units of 1/scale of a code (R415). -/
def corrected (s : State) (i scale : Nat) (c : Int) : Int :=
  let (g, o) := trimOf s i
  roundDiv ((1000 * c - o) * g * scale) 1000000000

/-! ### The formats' figures (Tables 8.1 and 8.4; the frames are the standards', log entry 115) -/

/-- Channel bits of a sync frame. -/
def frameBits (mi : Nat) : Nat := match mi with
  | 0 => 588
  | 1 => 1488
  | _ => 1932

/-- Channel bits of a recording unit (Table 8.4). -/
def unitBits (mi : Nat) : Nat := match mi with
  | 0 => 57624
  | 1 => 619008
  | _ => 962136

/-- Channel bits of a unit's run-in, ahead of its first sync. -/
def runInBits (mi : Nat) : Nat := if mi < 2 then 0 else 2760

/-- How far ahead of a unit's first sync acquisition starts: ACQ_LEAD, or the whole run-in (R218). -/
def leadOf (p : ChannelProf) (mi : Nat) : Nat := if p.acqLead = 0 then runInBits mi else p.acqLead

/-! ### PRML (R216) -/

/-- The transition whose last five levels are w, the newest in bit 0, keeps the medium's minimum run: 3 on CD and DVD, 2 on BD. -/
def runOk (mi w : Nat) : Bool :=
  w.testBit 0 == w.testBit 1 || (w.testBit 1 == w.testBit 2 && (decide (2 ≤ mi) || w.testBit 2 == w.testBit 3))

/-- A target convolved with five levels of ±1. -/
def rawLevel (target : List Int) (w : Nat) : Int :=
  target.zipIdx.foldl (fun a p => a + if w.testBit p.2 then p.1 else -p.1) 0

/-- The largest level of a target. -/
def prmlMax (mi : Nat) (target : List Int) : Nat :=
  ((List.range 32).filter (runOk mi)).foldl (fun a w => max a (rawLevel target w).natAbs) 0

/-- The reference level of five levels: the largest is 384 codes; free where a target's levels are all 0 (log entry 114). -/
def levelOf (mi : Nat) (target : List Int) (w : Nat) : Int :=
  if prmlMax mi target = 0 then Config.unscaledLevel w else roundDiv (384 * rawLevel target w) (prmlMax mi target)

/-- The better of two survivors; the first of equals. -/
def better : Option (Nat × Nat) → Option (Nat × Nat) → Option (Nat × Nat)
  | some a, some b => some (if b.1 < a.1 then b else a)
  | some a, none => some a
  | none, b => b

/-- The survivor of state n after one output z: the newest level is bit 0 of n, and a fixed level admits no other (R216, R229). -/
def survivor (mi : Nat) (target : List Int) (fix : Option Bool) (old : List (Option (Nat × Nat))) (z : Int) (n : Nat) :
    Option (Nat × Nat) :=
  let b := n.testBit 0
  if fix.any (· != b) then none
  else
    let via (k : Nat) : Option (Nat × Nat) :=
      let w := 2 * k + n % 2
      if runOk mi w then (old.getD k none).map fun m => (m.1 + ((z - levelOf mi target w) ^ 2).toNat, (2 * m.2 + n % 2) % 2 ^ 70) else none
    better (via (n / 2)) (via (n / 2 + 8))

/-- One step of the detector: metrics are kept relative to the lowest. -/
def viterbi (mi : Nat) (target : List Int) (fix : Option Bool) (old : List (Option (Nat × Nat))) (z : Int) : List (Option (Nat × Nat)) :=
  let from_ := if old.isEmpty then List.replicate 16 (some (0, 0)) else old
  let new := (List.range 16).map (survivor mi target fix from_ z)
  match new.foldl better none with
  | some b => new.map fun x => x.map fun m => (m.1 - b.1, m.2)
  | none => []

/-- The best survivor's levels, the newest in bit 0. -/
def bestPath (paths : List (Option (Nat × Nat))) : Nat := match paths.foldl better none with
  | some b => b.2
  | none => 0

/-! ### The equaliser (R215) -/

/-- The output for the samples in hand, the latest first; taps are Q2.13. -/
def equalise (taps xs : List Int) : Int := roundDiv ((taps.zip xs).foldl (fun a p => a + p.1 * p.2) 0) 8192

/-- LMS on every tap but c7; the error and the samples count as fractions of the converter's 512 codes (R150), and a tap saturates. -/
def adaptTaps (muEq : Nat) (taps : List Int) (e : Int) (xs : List Int) : List Int :=
  taps.zipIdx.map fun p =>
    if p.2 = 7 then p.1 else clampI (-32768) 32767 (p.1 + roundDiv (e * xs.getD p.2 0) (32 * 2 ^ muEq))

/-! ### The front-end loops (R213, R214) -/

/-- One bit's decided level d, error e and output y join the sums. -/
def addError (q : FrontSums) (d e y : Int) (peak bit : Bool) : FrontSums :=
  { n := q.n + 1
    peak := if peak then q.peak + y.natAbs else q.peak, peakN := if peak then q.peakN + 1 else q.peakN
    err := q.err + e
    pos := if 0 < d then q.pos + e else q.pos, posN := if 0 < d then q.posN + 1 else q.posN
    neg := if d < 0 then q.neg + e else q.neg, negN := if d < 0 then q.negN + 1 else q.negN
    dsv := if bit then q.dsv + 1 else q.dsv - 1 }

/-- The gain's step after an update, at `times` its size. -/
def gainStep (times mu : Nat) (q : FrontSums) : Int :=
  if q.peakN = 0 then 0 else roundDiv (65536 * times * (384 * q.peakN - q.peak)) (q.peakN * 2 ^ mu)

/-- The offset's step. -/
def offsetStep (mu : Nat) (q : FrontSums) : Int := roundDiv (65536 * q.err) (max 1 q.n * 2 ^ mu)

/-- The step of α: the mean error at negative decided levels less that at positive ones. -/
def asymStep (mu : Nat) (q : FrontSums) : Int :=
  roundDiv (65536 * (roundDiv q.neg (max 1 q.negN) - roundDiv q.pos (max 1 q.posN))) (2 ^ mu)

/-- The step of the slicer level in peak mode. -/
def slicerStep (mu : Nat) (q : FrontSums) : Int := roundDiv (65536 * q.dsv) (2 ^ mu)

/-- Every 64 channel bits the loops take their step: in acquisition the gain alone, 16 times as large (R213, R214). -/
def updateLoops (p : ChannelProf) (mi : Nat) (tracking : Bool) (x : Front) : Front :=
  if x.sums.n < 64 then x
  else if tracking then
    { x with sums := {}
             gain := x.gain + gainStep 1 p.muAgc x.sums, offset := x.offset + offsetStep p.muOfs x.sums
             alpha := if mi = 0 then x.alpha else x.alpha + asymStep p.muAsym x.sums
             slicer := if mi = 0 then x.slicer + slicerStep p.muAsym x.sums else x.slicer }
  else { x with sums := {}, gain := x.gain + gainStep 16 p.muAgc x.sums }

/-- The wobble channel's gain and offset adapt continuously; its ADC samples once every 4 strobes (R214, R233). -/
def wobble (p : ChannelProf) (w : Option Int) (x : Front) : Front :=
  match w with
  | none => x
  | some v =>
    let q := addError x.wob 0 (-v) v true false
    if q.n < 16 then { x with wob := q }
    else { x with wob := {}, wobGain := x.wobGain + gainStep 1 p.muAgc q, wobOffset := x.wobOffset + offsetStep p.muOfs q }

/-! ### Peak detection (R217) -/

/-- One bit of the peak detector: an edge of the slicer is output at its own bit, later where the run is still shorter than 3, and ahead
of time where the run has reached 11. Answers the new front end, and whether an edge was moved to this bit. -/
def peakStep (x : Front) (raw : Bool) : Front × Bool :=
  let edge := raw != x.raw
  let owed := if edge then x.owed + 1 else x.owed
  let due := decide (0 < owed) && decide (3 ≤ x.run)
  let cut := decide (11 ≤ x.run)
  if due || cut then
    ({ x with raw := raw, level := !x.level, run := 1, owed := owed - 1, decided := (!x.level) :: x.decided }, !(edge && decide (x.owed = 0)))
  else ({ x with raw := raw, run := x.run + 1, owed := owed, decided := x.level :: x.decided }, false)

/-! ### One bit -/

/-- The loops of a PRML medium are held: a defect flag is set, or cleared fewer than DEF_GUARD channel bits ago (R214). -/
def loopsHeld (c : Channel) (mi : Nat) : Bool := mi != 0 && (c.defect || decide (0 < c.front.guard))

/-- A slicer's decision of an output. -/
def slice (x : Front) (z : Int) : Bool := decide (x.slicer ≤ 65536 * z)

/-- With a slicer, the middle bit of three alike is at a decided peak. -/
def slicedPeak (x : Front) (b : Bool) : Bool := x.raw == b && (x.decided.headD b) == b

/-- A bit in tracking with PRML: final decisions 64 bits after their sample train the equaliser, tentative ones 8 bits after steer the
loops (R143, R213, R215, R216). -/
def prmlBit (p : ChannelProf) (mi : Nat) (held : Bool) (c : Channel) (z : Int) : Channel :=
  let x := { c.front with paths := viterbi mi p.target none c.front.paths z }
  let path := bestPath x.paths
  let w8 := path / 2 ^ 8 % 32
  let w64 := path / 2 ^ 64 % 32
  let x := { x with decided := w64.testBit 0 :: x.decided }
  if held then { c with front := x }
  else
    let d8 := levelOf mi p.target w8
    let z8 := x.zs.getD 8 0
    let sums := addError x.sums d8 (d8 - z8) z8 (decide (384 ≤ d8.natAbs)) (w8.testBit 0)
    let e := levelOf mi p.target w64 - x.zs.getD 64 0
    let taps := if 79 ≤ x.xs.length then adaptTaps p.muEq c.taps e (x.xs.drop 64) else c.taps
    { c with taps := taps, front := { x with sums := sums } }

/-- A bit decided by a slicer: in tracking on CD by the peak detector, in acquisition as it is (R215, R217, R218). -/
def sliceBit (p : ChannelProf) (tracking : Bool) (c : Channel) (z : Int) : Channel :=
  let x := c.front
  let b := slice x z
  let d : Int := if b then 384 else -384
  let level := roundDiv x.slicer 65536
  let y := z - level
  let sums := addError x.sums d (d - y) (x.zs.getD 1 0 - level) (slicedPeak x b) b
  if tracking then
    let (x, moved) := peakStep { x with sums := sums } b
    { c with front := x, taps := adaptTaps p.muEq c.taps (d - y) x.xs
             erased := if moved then c.erased ++ [(c.pos, c.pos + 1)] else c.erased }
  else { c with front := { x with sums := sums, raw := b, decided := b :: x.decided } }

/-- The RF envelope against its tracked level (R221). -/
def envelopeStep (c : Channel) (env : Nat) : Front :=
  let x := c.front
  let e : Int := 65536 * env
  let l := if x.envelope = 0 then e else x.envelope
  { x with
    envelope := if c.defect then l else l + roundDiv (e - l) 4096
    dark := if 100 * e < 40 * l then x.dark + 1 else 0
    bright := if 160 * l < 100 * e then x.bright + 1 else 0
    inRange := if 45 * l ≤ 100 * e ∧ 100 * e ≤ 155 * l then x.inRange + 1 else 0
    guard := if c.defect then x.guard else x.guard - 1 }

/-- The equalised signal of one sample, and the bit (R213 to R217). -/
def detectBit (p : ChannelProf) (mi : Nat) (c : Channel) (code : Int) : Channel :=
  let held := loopsHeld c mi
  let x := { c.front with xs := (code :: c.front.xs).take 79 }
  let y := equalise c.taps x.xs
  let z := if mi = 0 then y else y - roundDiv (x.alpha * y ^ 2) (65536 * 384 ^ 2)
  let c := { c with front := { x with zs := (z :: x.zs).take 65 } }
  let tracking := c.acq == .tracking
  let c := if tracking && mi != 0 then prmlBit p mi held c z else sliceBit p tracking c z
  { c with front := updateLoops p mi tracking c.front, fresh := c.front.decided.headD false :: c.fresh }

/-! ### Sync patterns (R212, R218, R220) -/

/-- A sync lies within 2 channel bits of where the format expects it after the last one. -/
def atSpacing (mi : Nat) (c : Channel) : Bool := c.lastSync.any fun l =>
  decide (l + frameBits mi ≤ c.pos + 2) && decide (c.pos ≤ l + frameBits mi + 2)

/-- The oscillator follows the spacing of syncs, by no more than the loop bandwidth of a sync frame: ACQ_BW in acquisition, TRK_BW in
tracking (R212, R218). -/
def steer (p : ChannelProf) (mi : Nat) (c : Channel) : Nat :=
  match c.lastSync with
  | none => c.hz
  | some l =>
    let lim := c.hz * (if c.acq = .tracking then p.trkBw else p.acqBw) / 10000
    (c.hz - clampI (-lim) lim (roundDiv (c.hz * ((c.pos : Int) - l - frameBits mi)) (frameBits mi))).toNat

/-- A sync found, or missed at its expected place (R218, R220). In tracking a sync at another place counts for none. -/
def syncStep (p : ChannelProf) (mi : Nat) (c : Channel) (found : Bool) : Channel :=
  if found && atSpacing mi c then
    { c with lastSync := some c.pos, foundAt := c.pos, spaced := true, missed := 0, hz := steer p mi c
             ring := { c.ring with syncs := c.ring.syncs ++ [c.pos] } }
  else if found && c.acq == .acquiring then
    { c with lastSync := some c.pos, spaced := false, ring := { c.ring with syncs := c.ring.syncs ++ [c.pos] } }
  else match c.acq, c.lastSync with
    | .tracking, some l => if c.pos = l + frameBits mi + 2 then { c with lastSync := some (l + frameBits mi), missed := c.missed + 1 } else c
    | _, _ => c

/-! ### The sample ring (R226, R228) -/

/-- 12 MiB hold this many samples, 16 in 20 bytes. -/
def ringSamples : Nat := 12582912 * 16 / 20

/-- The span of a unit's samples; on CD with the 2 sectors before it (R227). -/
def unitSpan (mi : Nat) (c : Channel) (first : Nat) : Option (Nat × Nat) :=
  (getKey first c.ring.units).map fun a => (if mi = 0 then a - 2 * unitBits 0 else a, a + unitBits mi)

/-- A sample of a pinned unit, which the ring does not overwrite (R228). -/
def samplePinned (mi : Nat) (c : Channel) (at_ : Nat) : Bool :=
  c.pinned.any fun u => (unitSpan mi c u).any fun x => decide (x.1 ≤ at_) && decide (at_ < x.2)

/-- A list without its first element for which `p` holds. -/
def dropFirst {α : Type} (p : α → Bool) : List α → List α
  | [] => []
  | a :: r => if p a then r else a :: dropFirst p r

/-- A sample goes into the ring, over the oldest that no pinned unit holds. -/
def ringAdd (mi : Nat) (c : Channel) (code : Int) : Channel :=
  let l := c.ring.samples ++ [(c.pos, code)]
  let l := if ringSamples < l.length then dropFirst (fun x => !samplePinned mi c x.1) l else l
  let oldest := (l.map (·.1)).headD c.pos
  { c with ring := { c.ring with samples := l, syncs := c.ring.syncs.filter fun a => decide (oldest ≤ a) } }

/-- A unit's samples are whole in the ring (R227). -/
def samplesWhole (mi : Nat) (c : Channel) (first : Nat) : Bool :=
  match unitSpan mi c first with
  | some (a, b) => (c.ring.samples.filter fun x => decide (a ≤ x.1) && decide (x.1 < b)).length == b - a
  | none => false

/-- A unit's first sync passes the spot: its samples begin, with the run-in, in place of those of an earlier read (R226, R232). -/
def unitBegins (mi : Nat) (c : Channel) (first : Nat) : Channel :=
  let old := getKey first c.ring.units
  let keep (a : Nat) : Bool := match old with
    | some o => decide (a < o) || decide (o + unitBits mi ≤ a)
    | none => true
  { c with under := some first, passed := c.passed || (c.target == some first && c.acq != .tracking)
           front := { c.front with decided := [] }, meters := delKey first c.meters
           ring := { c.ring with samples := c.ring.samples.filter fun x => keep x.1, units := putKey first (c.pos - runInBits mi) c.ring.units } }

/-! ### The measurement circuits (R259, Table 9.5; log entry 118) -/

/-- The longest run of the medium's code, syncs aside, in channel bits (log entry 115). -/
def longestRun (mi : Nat) : Nat := if mi < 2 then 11 else 8

/-- A run of the equalised signal ends: its peak joins those of the longest or of the shortest runs. -/
def meterRunEnds (mi run : Nat) (peak : Int) (m : UnitMeter) : UnitMeter :=
  if run = longestRun mi then
    if 0 < peak then { m with longHi := m.longHi + peak, longHiN := m.longHiN + 1 } else { m with longLo := m.longLo + peak, longLoN := m.longLoN + 1 }
  else if run = (if mi < 2 then 3 else 2) then
    if 0 < peak then { m with shortHi := m.shortHi + peak, shortHiN := m.shortHiN + 1 }
    else { m with shortLo := m.shortLo + peak, shortLoN := m.shortLoN + 1 }
  else m

/-- An edge between two samples: it lies where the straight line through them crosses the slicer, and the clock's edge half way. -/
def meterEdge (before now : Int) (m : UnitMeter) : UnitMeter :=
  { m with edges := m.edges + 1, jit2 := m.jit2 + ((roundDiv (1000 * before.natAbs) (before - now).natAbs - 500) ^ 2).toNat }

/-- The unit under the spot, while its channel bits pass. -/
def meterUnit (mi : Nat) (c : Channel) : Option Nat := c.under.filter fun u =>
  (getKey u c.ring.units).any fun a => decide (c.pos < a + unitBits mi)

/-- Change the measurement of the unit under the spot. -/
def modMeter (mi : Nat) (g : UnitMeter → UnitMeter) (c : Channel) : Channel :=
  match meterUnit mi c with
  | some u => { c with meters := putKey u (g ((getKey u c.meters).getD {})) c.meters }
  | none => c

/-- The measurement of one channel bit, once the equaliser has made it. -/
def meterBit (mi : Nat) (c : Channel) : Channel :=
  let level := if mi = 0 then roundDiv c.front.slicer 65536 else 0
  let z := c.front.zs.getD 0 0 - level
  let y := c.front.zs.getD 1 0 - level
  if decide (0 ≤ y) != decide (0 ≤ z) then
    { modMeter mi (fun m => meterRunEnds mi c.meterRun c.meterPeak (meterEdge y z m)) c with meterRun := 1, meterPeak := z }
  else { c with meterRun := c.meterRun + 1, meterPeak := if c.meterPeak.natAbs < z.natAbs then z else c.meterPeak }

/-! ### A strobe -/

/-- What the channel works with: the profiles of the medium, the references that steer the strobe without the data, whether samples go
to the ring, and the units to be read. -/
structure ChannelUse where
  mi : Nat
  prof : ChannelProf
  look : SecondLookProf
  free : StrobeRef
  freeHz : Nat
  stream : Bool
  wanted : List Nat

/-- Acquisition begins: the profiles now stored come into force, the equaliser is preset, and the oscillator starts from the reference in
force (R212, R215, R218, R235). -/
def beginAcquisition (u : ChannelUse) (c : Channel) : Channel :=
  { c with acq := .acquiring, inUse := some u.prof, lookInUse := some u.look, taps := u.prof.preset
           hz := if c.ref = .data then c.hz else u.freeHz, ref := if c.ref = .data then .data else u.free
           lastSync := none, spaced := false, missed := 0
           front := { c.front with paths := [], sums := {}, run := 3, owed := 0, level := c.front.raw } }

/-- Timing recovery stands idle: nothing is read (R212). -/
def idleChannel (c : Channel) : Channel :=
  { c with acq := .off, ref := .spindle, relock := none, target := none, passed := false, under := none, pinned := [] }

/-- A unit to be read comes within reach: acquisition starts its lead ahead, and its first sync marks it (R218). -/
def approach (u : ChannelUse) (c : Channel) (first ahead : Nat) : Channel :=
  if !u.wanted.contains first then c
  else
    let c := if 0 < ahead ∧ ahead ≤ leadOf u.prof u.mi ∧ c.target ≠ some first then
      { beginAcquisition u c with target := some first, passed := false, relock := none } else c
    if ahead = 0 then unitBegins u.mi c first else c

/-- One channel strobe (R211). -/
def strobe (u : ChannelUse) (c : Channel) (x : RfSample) : Channel :=
  let c := match x.ahead with
    | some (first, n) => approach u c first n
    | none => c
  let p := c.inUse.getD u.prof
  let c := { c with front := envelopeStep c x.env }
  let c := if c.acq = .off then c else syncStep p u.mi (meterBit u.mi (detectBit p u.mi c x.code)) x.sync
  let c := { c with front := wobble p x.wob c.front }
  let c := if u.stream then ringAdd u.mi c x.code else c
  { c with pos := c.pos + 1 }

end Sys2Proof.Machine
end

