-- ==== Sys2Proof/Machine/Rings.lean ====
section
/-! DEFINITION. Machine/Rings.lean: the doorbell page, polling, sleeping and waking, heads, coalescing, and setting rings up
and down (R64 to R75, R77, R88 to R90, R95). -/
namespace Sys2Proof.Machine

/-- Polling can run: the mode is neither VIGIL nor DOZE and Bronze runs (R69, R73). -/
def pollingMode (s : State) : Bool :=
  (s.sys.ready || s.sys.rescue) && s.sys.mode != .doze && s.sys.mode != .vigil

/-- A poll may be issued now (R69, R71). -/
def pollDue (s : State) (f : FoldId) : Bool :=
  let d := (s.fold f).dbp
  pollingMode s && canMaster s f && d.en && !d.sleeping && !d.stopped && !d.polling &&
    (d.pollNow || decide (d.issuedAt + d.interval ≤ s.us))

/-- DOORBELL_POLL: one read of bytes 0x000 to 0x047 (R69). -/
def execDoorbellPoll (f : FoldId) (s : State) : Answer :=
  .next (if pollDue s f then
    (s.modDbp f fun d => { d with polling := true, pollNow := false, issuedAt := s.us }).emit
      (.readReq f (dbpBase (s.fold f).dbp) 0x48)
  else s)

/-- One tail as read: no new work, published descriptors, or out of range (R68). True when it is new. -/
def takeTail (s : State) (f : FoldId) (n : RingId) (t : Word) : State × Bool :=
  let w := s.wring f n
  if !w.en || w.err != 0 then (s, false)
  else
    let diff := (t - w.cons).toNat
    if ringSize w.log2 < diff then (wringError s f n 1, false)
    else (s.modWring f n fun w => { w with tail := t }, t != w.tail && decide (0 < diff))

/-- The four tails of a poll (R68). True when any is new. -/
def takeTails (s : State) (f : FoldId) (p : PollData) : State × Bool :=
  [((0 : RingId), p.tail0), (1, p.tail1), (2, p.tail2), (3, p.tail3)].foldl
    (fun (a : State × Bool) x => let (t, b) := takeTail a.1 f x.1 x.2; (t, a.2 || b)) (s, false)

/-- One head as read: refreshed, and held items are written, or out of range (R69, R75). -/
def takeHead (f : FoldId) (m : DringId) (h : Word) (s : State) : State :=
  let r := s.dring f m
  if !r.en || r.err != 0 then s
  else if headInRange r h then drainHeld (s.modDring f m fun r => { r with head := h }) f m
  else dringError s f m 5

/-- POLL_RESULT: heads and tails arrive; I goes back to 1 µs on a new tail and doubles, up to 64 µs, otherwise (R68, R69,
R75, R83, R88). The quiet time of R70 counts from the issue of the poll that found the tail. Data of a read issued before polling
last stopped is dropped. -/
def execPollResult (f : FoldId) (r : ReadResult PollData) (s : State) : Answer :=
  let d := (s.fold f).dbp
  .next (if !d.polling || d.finalRead then s
    else if d.stale || !d.en then s.modDbp f fun d => { d with polling := false, stale := false }
    else
      let t := s.modDbp f fun d => { d with polling := false }
      match r with
      | .failed => pageFault t f
      | .ok p =>
        let (u, new) := takeTails (takeHead f 1 p.head1 (takeHead f 0 p.head0 t)) f p
        u.modDbp f fun d =>
          if new then { d with interval := 1, newTailAt := d.issuedAt } else { d with interval := min 64 (2 * d.interval) })

/-- SLEEP_ENTER: SLEEP_AFTER has elapsed with no new tail. SLEEPING and SLEEP_SEQ, the status block, then the final read of
the tails (R70). A poll whose data is still to come is waited for first (DEDUCED from R69's "polls never overlap", log entry
104). -/
def execSleepEnter (f : FoldId) (s : State) : Answer :=
  let d := (s.fold f).dbp
  .next (if pollingMode s && d.en && !d.sleeping && !d.stopped && !d.polling && canMaster s f &&
      decide (d.newTailAt + max 16 d.sleepAfter ≤ s.us) then
    let t := s.modDbp f fun d => { d with sleeping := true, sleepSeq := d.sleepSeq + 1, finalRead := true, polling := true }
    let t := { t with sys := { t.sys with quietSince := t.us } }
    (statusBlock t f).emit (.readReq f (dbpBase d) 0x10)
  else s)

/-- Polling runs again from now, with I = 1 µs (R69, R71). -/
def startPolling (s : State) (f : FoldId) : State :=
  s.modDbp f fun d => { d with interval := 1, stopped := false, pollNow := true, newTailAt := s.us }

/-- FINAL_TAIL_READ: a new tail wakes the fold again; otherwise polling stops (R70). The spec does not say what a failure of this
read does: the model takes it as a failed poll, code 0x3 for every enabled ring, with SLEEPING left set (DESIGN CHOICE, log entry
104). -/
def execFinalTailRead (f : FoldId) (r : ReadResult PollData) (s : State) : Answer :=
  let d := (s.fold f).dbp
  .next (if d.polling && d.stale then s.modDbp f fun d => { d with polling := false, stale := false }
    else if !d.finalRead || !d.en then s
    else
      let t := s.modDbp f fun d => { d with finalRead := false, polling := false }
      match r with
      | .failed => pageFault t f
      | .ok p =>
        let (u, new) := takeTails t f p
        if new then
          statusBlock ((startPolling u f).modDbp f fun d => { d with sleeping := false, pollNow := false, issuedAt := u.us }) f
        else if (u.fold f).dbp.sleeping then u.modDbp f fun d => { d with stopped := true }
        else u)

/-- What a DBP_WAKE write does at the instant it acts (R71). Three points the spec leaves open are the model's choice (DESIGN CHOICE,
log entry 104): a WAKE during the final tail read clears SLEEPING but does not start the quiet time anew, so SLEEP_ENTER may come
again before the poll it asked for; a WAKE while POLL_FAULT is set, or while DBP_CTL.EN is 0, only counts and leaves SLEEPING as it
is. -/
def wakeFold (f : FoldId) (s : State) : State :=
  let d := (s.fold f).dbp
  let t := s.modDbp f fun d => { d with wakes := sat 16 (d.wakes + 1) }
  if !d.en || d.pollFault then t
  else if d.sleeping then
    statusBlock ((if d.stopped then startPolling t f else t.modDbp f fun d => { d with interval := 1, pollNow := true }).modDbp f
      fun d => { d with sleeping := false }) f
  else t.modDbp f fun d => { d with interval := 1, pollNow := true }

/-- STATUS_BLOCK_WRITE: a CONSUMED or POSTED value has changed since the last write (R67). -/
def execStatusBlockWrite (f : FoldId) (s : State) : Answer :=
  .next (if (s.fold f).dbp.dirty then statusBlock s f else s)

/-- A done ring calls for reads of HEAD_m: it is full, or something waits for its space (R75). -/
def headWanted (s : State) (f : FoldId) (m : DringId) : Bool :=
  let d := s.dring f m
  (s.fold f).dbp.en && canMaster s f && pollingMode s && d.en && d.err == 0 && (!d.held.isEmpty || !dringSpace d)

/-- HEAD_READ: the read of HEAD_m that a full done ring calls for is made and returns (R75, R88). -/
def execHeadRead (f : FoldId) (m : DringId) (r : ReadResult Word) (s : State) : Answer :=
  .next (if !headWanted s f m then s
    else
      let t := s.emit (.readReq f (dbpBase (s.fold f).dbp + 0x40 + 4 * m.val) 4)
      match r with
      | .failed => pageFault t f
      | .ok h => takeHead f m h t)

/-- COAL_TIME_EXPIRY: COAL_TIME has passed since the oldest pending completion was written (R77). -/
def execCoalTimeExpiry (f : FoldId) (m : DringId) (s : State) : Answer :=
  let r := s.dring f m
  .next (match r.oldest with
    | some t => if 0 < r.pend ∧ t + r.coalTime ≤ s.us then signalRing s f m else s
    | none => s)

/-! ### Work rings (R89, R90, R95) -/

/-- LOG2_SIZE is 4 to 12 (R64, Table 3.4). -/
def log2Ok (n : Nat) : Bool := decide (4 ≤ n) && decide (n ≤ 12)

/-- The done ring number in a WRING_CTL word. -/
def dringOf (v : Word) : DringId := if bit v 2 then 1 else 0

/-- An index that goes back to 0 is a changed CONSUMED or POSTED value of the status block (R67). -/
def markIndex (s : State) (f : FoldId) (changed : Bool) : State :=
  s.modDbp f fun d => { d with dirty := d.dirty || changed }

/-- A write to WRING_CTL_n with EN = 1: fields other than EN are taken only while neither EN nor BUSY is 1; the index starts
at 0; a wrong size or a disabled done ring is error 0x4 and leaves EN at 0 (R64, R89, R90, Table 3.4). -/
def enableWring (f : FoldId) (n : RingId) (v : Word) (s : State) : State :=
  let w := s.wring f n
  if w.en then s
  else
    let t := if ringBusy s f n then s else s.modWring f n fun w => { w with dring := dringOf v, log2 := bits v 7 4 }
    let w := t.wring f n
    if !log2Ok w.log2 || !(t.dring f w.dring).en then wringError t f n 4
    else markIndex (t.modWring f n fun w => { w with en := true, err := 0, cons := 0, tail := 0 }) f (w.cons != 0)

def execWringEnable (f : FoldId) (n : RingId) (v : Word) (s : State) : Answer := .next (onBar s f fun s => enableWring f n v s)

/-- Clearing EN: the error and the history of completed descriptors go (R89); a fetch read still outstanding brings nothing. Two
points the spec leaves open are the model's choice (DESIGN CHOICE, log entry 105): the entry of a descriptor in flight leaves the
history too, so that once it has completed its tag is no duplicate under step 2 of R84; and a write with EN = 0 that finds EN
already 0 clears ERR_CODE as well, where the same write to a done ring keeps it until EN has been set. -/
def disableWring (f : FoldId) (n : RingId) (s : State) : State :=
  s.modWring f n fun w => { w with en := false, err := 0, hist := [], stale := w.fetching }

/-- A write with EN = 0 that finds or leaves the ring idle also takes DRING and LOG2_SIZE (R89, R95). -/
def wringFields (f : FoldId) (n : RingId) (v : Word) (s : State) : State :=
  let w := s.wring f n
  if w.en || ringBusy s f n then s else s.modWring f n fun w => { w with dring := dringOf v, log2 := bits v 7 4 }

def execWringDisable (f : FoldId) (n : RingId) (s : State) : Answer := .next (onBar s f fun s => disableWring f n s)

/-- ABORT: descriptors consumed from the ring and not started complete with ABORTED; a WRITE of it on the mechanism stops
under R56 (R89). -/
def abortWring (f : FoldId) (n : RingId) (s : State) : State :=
  let t := ((s.fold f).descs.filter fun d => d.ring == n).foldl (fun t d => abortUnstarted t f d) s
  match jobDesc t with
  | some (j, d) => if j.f == f && d.ring == n && (d.op == .write || d.op == .sealedWrite) then stopAtBoundary t .aborted else t
  | none => t

def execWringAbort (f : FoldId) (n : RingId) (s : State) : Answer := .next (onBar s f fun s => abortWring f n (disableWring f n s))

/-! ### Done rings (R90) -/

/-- The fields of DRING_CTL_m that any write with EN = 1 takes (R90). A COAL_COUNT lowered to or below the pending count sends no
message by itself: the next completion or expiry does (DESIGN CHOICE, log entry 102; the spec does not say). -/
def dringFields (v : Word) (r : Dring) : Dring :=
  { r with vec := Fin.ofNat 8 (bits v 3 1), coalCount := bits v 15 8, coalTime := bits v 31 16 }

/-- Setting EN on a done ring (R64, R90, Table 3.4). -/
def enableDring (f : FoldId) (m : DringId) (v : Word) (s : State) : State :=
  if (s.dring f m).en then s.modDring f m (dringFields v)
  else
    let t := s.modDring f m fun r => { dringFields v r with log2 := bits v 7 4 }
    if !log2Ok (bits v 7 4) then dringError t f m 4
    else markIndex (t.modDring f m fun r => { r with en := true, err := 0, posted := 0, head := 0, pend := 0, oldest := none,
                                                     held := [], lostEvents := 0 }) f ((s.dring f m).posted != 0)

def execDringEnable (f : FoldId) (m : DringId) (v : Word) (s : State) : Answer := .next (onBar s f fun s => enableDring f m v s)

/-- Some work ring that names done ring m has EN or BUSY at 1 (R90). -/
def dringNamed (s : State) (f : FoldId) (m : DringId) : Bool :=
  [(0 : RingId), 1, 2, 3].any fun n => (s.wring f n).dring == m && ((s.wring f n).en || ringBusy s f n)

/-- Clearing EN on a done ring: ignored while a work ring that names it has EN or BUSY; else POSTED and the error go (R90). -/
def disableDring (f : FoldId) (m : DringId) (s : State) : State :=
  if dringNamed s f m then s
  else markIndex (s.modDring f m fun r => { r with en := false, err := 0, posted := 0, head := 0, held := [], lostEvents := 0,
                                                   pend := 0, oldest := none }) f ((s.dring f m).posted != 0)

def execDringDisable (f : FoldId) (m : DringId) (s : State) : Answer := .next (onBar s f fun s => disableDring f m s)

/-- A write that keeps EN at 1 takes VEC, COAL_COUNT and COAL_TIME and keeps LOG2_SIZE (R90). -/
def execDringReconfigure (f : FoldId) (m : DringId) (v : Word) (s : State) : Answer :=
  .next (onBar s f fun s => if (s.dring f m).en then s.modDring f m (dringFields v) else s)

/-! ### The doorbell page (R69, R90, R95) -/

/-- Setting DBP_CTL.EN takes SLEEP_AFTER and starts polling; while EN is 1 the write changes nothing (R69, R90, R95). -/
def enableDbp (f : FoldId) (v : Word) (s : State) : State :=
  if (s.fold f).dbp.en then s
  else startPolling (s.modDbp f fun d =>
    { d with en := true, sleepAfter := bits v 31 16, sleeping := false, finalRead := false, issuedAt := s.us, blockAt := s.us }) f

def execDbpEnable (f : FoldId) (v : Word) (s : State) : Answer := .next (onBar s f fun s => enableDbp f v s)

/-- Clearing DBP_CTL.EN stops polling, clears SLEEPING and POLL_FAULT and writes no status block (R90). A read still outstanding
keeps the next poll back until its data, which is dropped, has arrived (R69). -/
def disableDbp (f : FoldId) (s : State) : State :=
  s.modDbp f fun d => { d with en := false, stopped := true, stale := d.polling, finalRead := false, pollNow := false,
                               sleeping := false, pollFault := false }

def execDbpDisable (f : FoldId) (s : State) : Answer := .next (onBar s f fun s => disableDbp f s)

end Sys2Proof.Machine
end

