-- ==== Sys2Proof/Machine/Faults.lean ====
section
/-! DEFINITION. Machine/Faults.lean: how the mechanism is made safe, HALT, and servo, motion and link faults (R20 to R24,
R178, R201, R207, R238, R252, R390, R391). A fault of the mechanism is recorded when it is detected and takes effect at the
loop strobe that follows (log entry 110). -/
namespace Sys2Proof.Machine

def evLinkFault : Nat := 0x0720
def evServoFault : Nat := 0x0750
def evPuTempOpen : Nat := 0x0751
def evMotionFault : Nat := 0x0760
def evRailFault : Nat := 0x07A4
def evSpinCeiling : Nat := 0x0761
def evSledPosition : Nat := 0x0762
def evEjectRequest : Nat := 0x0763

/-- LD_EN drops; WGATE falls with it, and APC stops (R167, R168, R238). -/
def dropLaser (s : State) : State :=
  let t := dropGate s
  let u := if t.servo.ldEn then t.emit (.ldEn false) else t
  { u with servo := { u.servo with ldEn := false, ldStrobes := 0, apcSettle := 0, apcSettled := false, apcMaxed := 0 } }

/-- Strobes in an interval of µs at the loop rate in force. -/
def strobesIn (s : State) (us : Nat) : Nat := us * (100 * 2 ^ s.servo.rate) / 1000

/-- Set one loop's output. -/
def setOut (s : State) (i : Fin 6) (o : Int) : State :=
  { s with servo := { s.servo with loops := s.servo.loops.set i { s.servo.loops.get i with out := o, next := none } } }

/-- A ramp of the focus, tracking and tilt outputs to zero begins from where they stand; one in progress goes on (R23, R178, Table
7.5). -/
def beginRamp (s : State) : State :=
  match s.servo.ramp with
  | some _ => s
  | none => { s with servo := { s.servo with
      ramp := some (s.us, (s.servo.loops.get 0).out, (s.servo.loops.get 1).out, (s.servo.loops.get 2).out) } }

/-- All loops open; the focus, tracking and tilt outputs ramp to zero over 1 ms and the others are zero; no sequence runs (R23, R178,
Table 7.5). -/
def openLoops (s : State) : State :=
  let t := beginRamp s
  let shut (l : Loop) : Loop := { l with closed := false, held := false, next := none }
  { t with servo := { t.servo with
      loops := Vector.ofFn fun i => if 3 ≤ i.val then { shut (t.servo.loops.get i) with out := 0 } else shut (t.servo.loops.get i)
      fok := false, locked := false, trackOnAt := none, trackTries := 0, jump := none, layerJump := none, computing := false,
      trackSum := 0, seq := {} } }

/-- The output of a ramp that began at a value, so many µs later: it falls evenly to zero over 1 ms (R178). -/
def rampAt (x : Int) (us : Nat) : Int := if 1000 ≤ us then 0 else roundDiv (x * (1000 - us : Nat)) 1000

/-- What Iron or the DAC is sent: a signed 12-bit code, or for APC an LD_VSET code (R158). -/
def outCode (loop : Nat) (q : Int) : Int :=
  if loop = 3 then clampI 0 1023 (roundDiv (q * 1023) 2097152) else roundDiv (q * 2047) 2097152

/-- A ramp moves on with time, and Iron's currents with it (R23, R178). -/
def rampStep (s : State) : State :=
  match s.servo.ramp with
  | none => s
  | some (t0, a, b, c) =>
    let e := s.us - t0
    let t := setOut (setOut (setOut s 0 (rampAt a e)) 1 (rampAt b e)) 2 (rampAt c e)
    { t with
      servo := { t.servo with ramp := if 1000 ≤ e then none else s.servo.ramp }
      pwr := { t.pwr with links := { t.pwr.links with cmd := { t.pwr.links.cmd with
        focus := outCode 0 (rampAt a e), track := outCode 1 (rampAt b e), tilt := outCode 2 (rampAt c e) } } } }

/-- SLED_POSITION's report when SLED_LOST goes from 0 to 1 (R201, Table 7.7). -/
def loseSled (s : State) : State :=
  let t := { s with sled := { s.sled with lost := true } }
  if s.sled.lost then t else postEvent t 0 evSledPosition 1

/-- Iron stops the sled at once: pulses end, both phase currents go to zero, SLED_LOST is set (R201). -/
def stopSled (s : State) : State :=
  let t := loseSled { s with sled := { s.sled with move := .rest, ia := 0, ib := 0, seek := none, settling := false } }
  t.emit (.phases 0 0)

/-- No crossing of the running rotor has been looked for: alignment, or forced steps. -/
def unseen (st : SpinState) : Bool :=
  match st with
  | .align | .forced _ => true
  | _ => false

/-- The spindle coasts: all six switches off (R192). A spindle that is stopped or coasts already stays so. The 200 ms of R193 count
from the last crossing, or from here where no crossing has been looked for yet (log entry 113). -/
def coastSpindle (s : State) : State :=
  if s.spindle.st = .stopped then s
  else if s.spindle.st = .coasting then { s with spindle := { s.spindle with restart := false } }
  else { s with spindle := { s.spindle with
      st := .coasting, restart := false, commutating := none
      crossedAt := if unseen s.spindle.st then s.us else s.spindle.crossedAt } }.emit .spinOff

/-- The loader's drive goes off (R178, R204, R205). -/
def stopLoader (s : State) : State :=
  let t := { s with loader := { s.loader with drive := .none, ejecting := false } }
  match s.loader.drive with
  | .opening _ | .closing _ => t.emit .trayOff
  | .pulse _ => t.emit (.solenoid false)
  | _ => t

/-- The mechanism made safe: laser off, actuators at zero, spindle coasting, sled stopped and lost, loader drive off. -/
def makeSafe (s : State) : State :=
  let t := stopLoader (stopSled (coastSpindle (openLoops (dropLaser s))))
  { t with chan := idleChannel t.chan }

/-- HALT entry: SEQ rises by 1 modulo 256, IN_HALT and CAUSE are set, and HALT_ENTER is broadcast unless HALT is already in
force (R390). A later fault starts its 1 ms anew and calls for a new acknowledgement (R391; log entry 26). -/
def enterHalt (s : State) (cause : Nat) : State :=
  let h := s.halt
  let t := { s with halt := { h with inHalt := true, seq := h.seq + 1, at_ := s.us, acked := false
                                     cause := if h.inHalt then h.cause else cause } }
  if h.inHalt then t else broadcast t evHaltEnter (w32 cause)

/-- The command on the mechanism completes with SERVO_FAULT; a speculative action ends (R24, R178). -/
def faultJob (s : State) : State := stopJob s .servoFault

/-! ### Faults between their detection and the strobe at which they take effect (R24, R178, R207) -/

/-- Faults with one more: a cause stands once, and the masks of open inputs found in one period join (R175, R178, R207). -/
def addFault (l : List PendFault) (p : PendFault) : List PendFault :=
  let same (q : PendFault) : Bool := match p, q with
    | .link a, .link b => a == b
    | .servo a _, .servo b _ => a == b
    | .motion a _, .motion b _ => a == b
    | .rail a, .rail b => a == b
    | .down, .down => true
    | _, _ => false
  let join (q : PendFault) : PendFault := match p, q with
    | .servo a m, .servo b n => if a == b then .servo b (m ||| n) else q
    | _, _ => q
  if l.any same then l.map join else l ++ [p]

/-- A fault is detected: it waits for the next strobe. -/
def noteFault (s : State) (p : PendFault) : State := { s with halt := { s.halt with pend := addFault s.halt.pend p } }

/-- A servo fault is detected (Table 6.9). -/
def servoFault (s : State) (cause mask : Nat) : State := noteFault s (.servo cause (mask % 512))

/-- A motion fault is detected (Table 7.6). -/
def motionFault (s : State) (cause bridge : Nat) : State := noteFault s (.motion cause bridge)

/-- A link fault is detected: its code is latched in PWR_LINK_STAT, and where Yelxo-M itself has failed Pewter drops LD_EN at once
(R24). -/
def linkFault (s : State) (code : Nat) : State :=
  let t := { s with pwr := { s.pwr with links := { s.pwr.links with lastFault := code } } }
  noteFault (if code = 1 ∨ code = 2 then dropLaser t else t) (.link code)

/-- The event of a fault (R24, Tables 6.11, 7.7). -/
def faultEvent : PendFault → Nat × Word
  | .link code => (evLinkFault, w32 code)
  | .servo cause mask => (evServoFault, w32 (cause + 256 * mask))
  | .motion cause bridge => (evMotionFault, w32 (cause + 256 * bridge))
  | .rail n => (evRailFault, w32 n)
  | .down => (0, 0)

/-- Faults in the order of their events: link faults as they came, then servo and motion faults by ascending cause (R178, R207, and
chapter 1, "At the edges"). -/
def faultOrder (l : List PendFault) : List PendFault :=
  let links := l.filter fun p => match p with
    | .link _ => true
    | _ => false
  let servo := (List.range 9).filterMap fun c => l.find? fun p => match p with
    | .servo a _ => a == c
    | _ => false
  let motion := (List.range 9).filterMap fun c => l.find? fun p => match p with
    | .motion a _ => a == c
    | _ => false
  let rails := l.filter fun p => match p with
    | .rail _ => true
    | _ => false
  links ++ rails ++ servo ++ motion

/-- The HALT_ENTER cause of faults that take effect together (Table 6.9, R24, R207): a link fault before a pickup fault before any
other (log entry 110). -/
def haltCauseOf (l : List PendFault) : Nat :=
  if l.any (fun p => match p with
    | .link _ => true
    | _ => false) then 4
  else if l.any (fun p => match p with
    | .servo c _ => c == 3 || c == 8
    | .rail n => n == 7
    | _ => false) then 3
  else 1

/-- The faults of the period that ends take effect at the strobe: their events, the command on the mechanism ends with SERVO_FAULT,
the mechanism is made safe, and HALT is entered once (R24, R178, R207). A supply that goes down makes it safe with no HALT
(Tables 13.5 and 13.6). -/
def takeFaults (s : State) : State :=
  match s.halt.pend with
  | [] => s
  | l =>
    let t := { s with halt := { s.halt with pend := [] } }
    let t := (faultOrder l).foldl (fun t p => postEvent t 0 (faultEvent p).1 (faultEvent p).2) t
    if l.all (· == .down) then makeSafe t else enterHalt (makeSafe (faultJob t)) (haltCauseOf l)

/-- HALT_ACK: a write to WDG_HALT with ACK = 1 whose ACK_SEQ is the current SEQ acknowledges; otherwise ACK_STALE counts it
(R391). A write with ACK = 0 acknowledges nothing. -/
def execHaltAck (v : Word) (s : State) : Answer :=
  .next (onBar s 0 fun s => if !bit v 24 then s
    else if s.halt.inHalt && bits v 15 8 == s.halt.seq.toNat then { s with halt := { s.halt with acked := true } }
    else { s with halt := { s.halt with ackStale := sat 8 (s.halt.ackStale + 1) } })

/-- HALT_RELEASE: a valid acknowledgement takes effect 1 ms after the most recent entry or fault: IN_HALT clears and
HALT_RELEASE is broadcast (R391). VMOT and VPU are back after a rail fault (R333; log entry 74). -/
def execHaltRelease (s : State) : Answer :=
  .next (if s.halt.inHalt && s.halt.acked && decide (s.halt.at_ + 1000 ≤ s.us) then
    broadcast { s with halt := { s.halt with inHalt := false, acked := false }
                       pwr := { s.pwr with rails := (s.pwr.rails.set 6 true).set 7 true }
                       out := (s.emits (railOuts s true [6, 7])).out } evHaltRelease 0
  else s)

/-! ### Links (R15 to R24, Table 1.5) -/

/-- Count a bad packet of a link, and a resend if it is resent (Table 1.7). -/
def countBadPacket (s : State) (l : Link) (resend : Bool) : State :=
  let k := s.pwr.links
  let k := match l with
    | .yelxoM => { k with ylm := sat 8 (k.ylm + 1) }
    | .yelxoB => { k with ylb := sat 8 (k.ylb + 1) }
  { s with pwr := { s.pwr with links := { k with resends := if resend then sat 8 (k.resends + 1) else k.resends } } }

/-- The links carry traffic: Bronze and Pewter run, RESCUE included, and not in VIGIL or DOZE (R20, R21, R401). -/
def linksUp (s : State) : Bool := (s.sys.ready || s.sys.rescue) && s.sys.mode != .vigil && s.sys.mode != .doze

/-- CONTROL_PACKET_ARRIVAL: a bad control packet is resent up to 3 times; its fourth failure is a link fault (R20). -/
def execControlPacketArrival (l : Link) (good : Bool) (s : State) : Answer :=
  .next (if !linksUp s then s
    else
      let n := match l with
        | .yelxoM => s.pwr.links.failsM
        | .yelxoB => s.pwr.links.failsB
      let put (t : State) (v : Nat) : State := { t with pwr := { t.pwr with links := match l with
        | .yelxoM => { t.pwr.links with failsM := v }
        | .yelxoB => { t.pwr.links with failsB := v } } }
      if good then put s 0
      else if 3 ≤ n then linkFault (put (countBadPacket s l false) 0) (match l with
        | .yelxoM => 2
        | .yelxoB => 4)
      else put (countBadPacket s l true) (n + 1))

/-- What the frame of the present strobe carries: the outputs that apply from this strobe, and the slack or the overrun of the period
before it (R13, R155, R156, R158). -/
def frameNow (s : State) : Command :=
  let out (i : Fin 6) : Int := (s.servo.loops.get i).out
  { focus := outCode 0 (out 0), track := outCode 1 (out 1), tilt := outCode 2 (out 2), spindle := out 4, sled := out 5
    value := if s.servo.overrunNow then .overrun else match s.servo.slack with
      | some x => .slack x
      | none => .none }

/-- LINK_STALL: a handshake not completed within 2 strobe periods is a link fault (R21). -/
def execLinkStall (l : Link) (s : State) : Answer :=
  .next (if linksUp s then linkFault s (match l with
    | .yelxoM => 1
    | .yelxoB => 3)
  else s)

/-- What Iron does by itself when ticks stop (R23): actuators to zero over 1 ms, spindle bridge off, sled stopped and lost. -/
def ironSafe (s : State) : State := stopSled (coastSpindle (openLoops s))

/-- LOOP_TICK_LOSS: Iron misses 3 expected ticks; it acts by itself, and the loss is a link fault (R23, R24, Table 1.5). -/
def execLoopTickLoss (s : State) : Answer :=
  .next (if linksUp s then
    let t := linkFault (ironSafe s) 6
    { t with pwr := { t.pwr with tbLock := false } }
  else s)

/-- Any write to PWR_LINK_STAT by fold 0 clears it; by another fold it is ignored (R29). -/
def execPwrLinkStatClear (f : FoldId) (s : State) : Answer :=
  .next (onBar s f fun s => if f.val = 0 then
    { s with pwr := { s.pwr with links := { s.pwr.links with ylm := 0, ylb := 0, resends := 0, lastFault := 0 } } }
  else s)

end Sys2Proof.Machine
end

