-- ==== Sys2Proof/Machine/Servo.lean ====
section
/-! DEFINITION. Machine/Servo.lean: the loop engine and the light path: error signals, loops, banks, strobes, the sequencer,
defects, open wires and servo faults (chapter 6). Signals and coefficients are Q2.21 codes held as integers (R162). -/
namespace Sys2Proof.Machine

/-! ### Arithmetic (R150, R152, R159, R162) -/

/-- Saturate at the limits of R162. -/
def satQ (i : Int) : Int := clampI (-8388608) 8388607 i

/-- A converter code c has the value c / 512 (R150). -/
def codeQ (c : Int) : Int := c * 4096

/-- The product of two Q2.21 values, rounded and saturated. -/
def mulQ (a b : Int) : Int := satQ (roundDiv (a * b) 2097152)

/-- Channel i of the last valid samples, corrected, as a Q2.21 value (R150, R415). -/
def chanQ (s : State) (i : Fin 16) : Int := satQ (corrected s i 4096 (s.servo.samples.get i))

/-- A channel's corrected sample in whole codes, as the sums that thresholds in codes are held against take it (log entry 123). -/
def chanCode (s : State) (i : Fin 16) : Int := corrected s i 1 (s.servo.samples.get i)

/-- SUM and SSUM in codes (Table 6.2). -/
def sumCode (s : State) : Int := chanCode s 0 + chanCode s 1 + chanCode s 2 + chanCode s 3
def ssumCode (s : State) : Int := chanCode s 4 + chanCode s 5 + chanCode s 6 + chanCode s 7

/-- FE, the main push-pull term less the side one (Table 6.2). -/
def feQ (s : State) : Int := satQ (satQ (chanQ s 0 + chanQ s 2) - satQ (chanQ s 1 + chanQ s 3))

/-- TE by DPP with a factor k (Table 6.2). -/
def teDpp (s : State) (k : Int) : Int :=
  let main := satQ (satQ (chanQ s 0 + chanQ s 3) - satQ (chanQ s 1 + chanQ s 2))
  let side := satQ (satQ (chanQ s 4 - chanQ s 5) + satQ (chanQ s 6 - chanQ s 7))
  satQ (main - mulQ k side)

/-- The medium class of the disc; BD before one is known (log entry 111). -/
def classNow (s : State) : Fin 3 :=
  match s.disc with
  | some d => mediumClass d
  | none => 2

/-- The SIGNAL and SEQUENCE profiles in use (R179). -/
def signalNow (s : State) : SignalProf := s.servo.signalIn
def sequenceNow (s : State) : SequenceProf := s.servo.sequenceIn

/-- k in force (R153). -/
def kNow (s : State) : Int := if (signalNow s).kAuto then s.servo.kdpp else (signalNow s).kDpp

/-- TE under TE_MODE (R153). -/
def teQ (s : State) : Int :=
  let dpd := match (signalNow s).teMode with
    | 0 => match s.disc with
      | some d => !recordable d.medium
      | none => false
    | 1 => false
    | _ => true
  if dpd then chanQ s 10 else teDpp s (kNow s)

/-- TILT_E (Table 6.2). -/
def tiltQ (s : State) : Int :=
  (((signalNow s).w.zipIdx).foldl (fun a p => satQ (a + mulQ p.1 (chanQ s (Fin.ofNat 16 p.2)))) 0)

/-! ### Loops and banks (R158 to R166) -/

/-- Field i of a built-in bank, saturated to the format (R164). -/
def builtinField (rate loop cls layer i : Nat) : Int := satQ (Config.builtinBank rate loop cls layer i)

/-- A built-in bank (R164): its limits within ±1.0 and in order. -/
def builtinBankOf (rate loop cls layer : Nat) : Bank :=
  let g := builtinField rate loop cls layer
  let lo := clampI (-2097152) 2097152 (g 2)
  { inOffset := g 0, inGain := g 1, integMask := BitVec.ofNat 6 (toBits 6 (g 4)), outLo := lo
    outHi := clampI lo 2097152 (g 3)
    secs := (List.range 6).map fun j =>
      { b0 := g (5 + 5 * j), b1 := g (6 + 5 * j), b2 := g (7 + 5 * j), a1 := g (8 + 5 * j), a2 := g (9 + 5 * j) } }

/-- The bank a reference names. -/
def bankOf : BankRef → Bank
  | .builtin r l c y => builtinBankOf r l c y
  | .loaded b => b

/-- The stored bank of a loop, medium class and layer (R164). -/
def storedBank (s : State) (loop cls layer : Nat) : BankRef :=
  match s.servo.stored.find? fun x => x.1 == loop && x.2.1 == cls && x.2.2.1 == layer with
  | some x => .loaded x.2.2.2
  | none => .builtin s.servo.rate loop cls layer

/-- The stored banks of a class and layer are loaded into the inactive banks and swapped in; a loop that runs them already keeps its
two banks (R166). -/
def loadBanks (s : State) (cls layer : Nat) : State :=
  { s with servo := { s.servo with
      loops := Vector.ofFn fun i =>
        let l := s.servo.loops.get i
        let b := storedBank s i.val cls layer
        if l.active = b then l else { l with active := b, inactive := l.active, inactiveValid := true }
      layer := layer } }

/-- A section's next output and state; `keep` keeps the rounding error (R159). -/
def runSection (keep : Bool) (c : Section) (z : SecState) (x : Int) : Int × SecState :=
  let exact := c.b0 * x + c.b1 * z.x1 + c.b2 * z.x2 - c.a1 * z.y1 - c.a2 * z.y2 + if keep then z.err else 0
  let r := roundDiv exact 2097152
  let y := satQ r
  (y, { x1 := x, x2 := z.x1, y1 := y, y2 := z.y1, err := if keep then exact - r * 2097152 else 0 })

/-- Pass a value through the sections in turn, numbered from i (R158). -/
def runSections : Nat → List Section → List SecState → Int → Int × List SecState
  | i, c :: cs, z :: zs, x =>
    let (y, z') := runSection (decide (4 ≤ i)) c z x
    let (o, r) := runSections (i + 1) cs zs y
    (o, z' :: r)
  | _, _, _, x => (x, [])

/-- Sections named in a mask keep their states (R160, R161). -/
def keepMasked (m : BitVec 6) (old new : List SecState) : List SecState :=
  (old.zip new).zipIdx.map fun p => if bit m p.2 then p.1.1 else p.1.2

/-- One computation of a loop: offset, gain, sections, clamp (R158, R160); no APC output is above `hiMax` (R167). -/
def runLoop (b : Bank) (z : List SecState) (x : Int) (hiMax : Int) : Int × List SecState :=
  let (y, z') := runSections 0 b.secs z (mulQ (satQ (x + b.inOffset)) b.inGain)
  let o := min hiMax (clampI b.outLo b.outHi y)
  (o, if o = y then z' else keepMasked b.integMask z z')

/-- A computation during a defect hold: the output repeats, the INTEG_MASK sections keep their states (R161). -/
def holdLoop (b : Bank) (z : List SecState) (x out : Int) : Int × List SecState :=
  let (_, z') := runSections 0 b.secs z (mulQ (satQ (x + b.inOffset)) b.inGain)
  (out, keepMasked b.integMask z z')

/-- The defaults of APC_TARGET and APC_MAX: item 5 of the calibration record, else the factory's (Table 16.8, R417). -/
def apcDefault (s : State) : Nat × Nat :=
  match s.sys.cal.items.getD 5 none with
  | some ((t, m) :: _) => (t.toNat, m.toNat)
  | _ => Config.factoryApc

/-- APC_TARGET as a value, and the highest APC output, from the profile or the pickup's calibration (Table 6.10). -/
def apcTargetNow (s : State) : Nat := s.servo.apcTarget.getD (apcDefault s).1
def apcMaxNow (s : State) : Nat := s.servo.apcMax.getD (apcDefault s).2

/-- A loop's input at this computation (Table 6.3). The spindle's is (set-point − measured) / SPIN_MAX (R188). -/
def loopInput (s : State) (i : Nat) : Int :=
  match i with
  | 0 => feQ s
  | 1 => teQ s
  | 2 => if (signalNow s).tiltEn then tiltQ s else (signalNow s).tiltFixed
  | 3 => satQ (codeQ (apcTargetNow s) - chanQ s 8)
  | 4 => satQ (roundDiv (((setPointNow s : Int) - s.spindle.rpm) * 2097152) (max 1 s.spindle.inUse.spinMax))
  | _ => satQ (roundDiv s.servo.trackSum 32)

/-- The highest APC output (R167, R158). -/
def apcTop (s : State) : Int := roundDiv ((apcMaxNow s : Int) * 2097152) 1023

/-! ### The sequencer's outputs (Tables 6.4 to 6.7; log entry 111) -/

/-- A profile's field in 0.1 % of full scale as an output. -/
def permille (n : Nat) : Int := roundDiv ((n : Int) * 2097152) 1000

/-- A number with a sign. -/
def signed (up : Bool) (x : Int) : Int := if up then x else -x

/-- The focus output of a sweep: it ramps from one end of FS_RANGE to the other over FS_TIME (Table 6.4). -/
def sweepOut (s : State) (up : Bool) : Int :=
  let n := max 1 (strobesIn s (1000 * (sequenceNow s).fsTime))
  let r := permille (sequenceNow s).fsRange
  signed up (roundDiv (2 * r * (min n s.servo.seq.strobes : Nat)) n - r)

/-- A layer jump goes to a higher layer, which is the positive direction (chapter 6, "Worked examples"). -/
def jumpsUp (s : State) : Bool := decide (s.servo.layer < s.servo.seq.layer)

/-- What a sequence drives a loop's output to while the loop is open; none where it drives nothing (Tables 6.4 to 6.7). -/
def seqDrive (s : State) (i : Nat) : Option Int :=
  let q := s.servo.seq
  let p := sequenceNow s
  match q.phase, i with
  | .up, 0 => some (sweepOut s true)
  | .down, 0 => some (sweepOut s false)
  | .layerKick, 0 => some (signed (jumpsUp s) (permille p.ljKick))
  | .layerCoast, 0 => some 0
  | .layerBrake, 0 => some (signed (!jumpsUp s) (permille p.ljKick))
  | .measure, 1 | .ready, 1 => some 0
  | .brake, 1 => some (signed q.brakeUp (permille p.kickAmp))
  | .jumpKick, 1 => s.servo.jump.map fun j => signed j.outward (permille p.kickAmp)
  | .jumpBrake, 1 => s.servo.jump.map fun j => signed (!j.outward) (permille p.kickAmp)
  | _, _ => none

/-! ### Computing the loops (R154, R158) -/

/-- A loop is computed in the period of strobe n; APC alone while it settles (R154, R167, Table 6.4). -/
def loopRuns (s : State) (i : Nat) : Bool :=
  match i with
  | 3 => s.servo.ldEn && !s.servo.wgate
  | 4 => s.servo.n % 16 == 8 && s.servo.seq.phase != .settle
  | 5 => s.servo.n % 32 == 4 && s.servo.seq.phase != .settle
  | _ => s.servo.seq.phase != .settle

/-- A loop's next output and states. FOCUS, TRACK, TILT and SLED hold during a defect (R161, R171), and under a spindle ceiling the
SPINDLE sections of INTEG_MASK hold (R191). A sequence drives an open loop and leaves its states alone. -/
def nextOutput (s : State) (i : Fin 6) : Option (Int × List SecState) :=
  let l := s.servo.loops.get i
  if !l.closed then (seqDrive s i.val).map fun o => (o, l.secs)
  else if !loopRuns s i.val then none
  else
    let b := bankOf l.active
    let x := loopInput s i.val
    let held := l.held || (s.servo.defect && (i.val == 0 || i.val == 1 || i.val == 2 || i.val == 5))
    if held then some (holdLoop b l.secs x l.out)
    else
      let (o, z) := runLoop b l.secs x (if i.val = 3 then apcTop s else 8388607)
      some (o, if i.val = 4 ∧ s.spindle.ceiling = true then keepMasked b.integMask l.secs z else z)

/-- The next output of every loop that is closed or driven, from the samples in hand (R154, R158). -/
def computeLoops (s : State) : State :=
  let track := (s.servo.loops.get 1).out
  let loops : Vector Loop 6 := Vector.ofFn fun i => { s.servo.loops.get i with next := nextOutput s i }
  { s with
    servo := { s.servo with loops := loops, trackSum := if s.servo.n % 32 = 4 then track else s.servo.trackSum + track }
    spindle := { s.spindle with setPoint := if s.servo.n % 16 = 8 then setPointNow s else s.spindle.setPoint } }

/-! ### Strobes (R13, R154 to R157, R165, R166, R177, R179) -/

/-- A defect lasts one strobe longer, invalid samples included (R172). -/
def defectLasts (s : State) : State :=
  if s.servo.defect then { s with servo := { s.servo with defectHalfUs := s.servo.defectHalfUs + 20 / 2 ^ s.servo.rate } } else s

/-- The period that ends without its computation is an overrun: outputs and states stand (R156, R157). -/
def overrun (s : State) : State :=
  let r := s.servo.overrunRun + 1
  { s with servo := { s.servo with computing := false, overrunNow := true, overruns := sat 32 (s.servo.overruns + 1)
                                   overrunRun := r, runMax := max s.servo.runMax r, slack := none
                                   loops := s.servo.loops.map fun l => { l with next := none } } }

/-- A sample that is bad or has not come: invalid, so that outputs repeat, a defect lasts on, and the period is an overrun, but for the
two samples after a synchronising reset, which are invalid in any case (R18, R172, R177). -/
def missedSample (s : State) : State :=
  let t := defectLasts { s with servo := { s.servo with expect := false } }
  if 0 < t.servo.invalid then { t with servo := { t.servo with invalid := t.servo.invalid - 1, slack := none, overrunNow := false } }
  else overrun t

/-- The computed outputs are applied (R13). -/
def applyOutputs (s : State) : State :=
  let outs := ((List.range 6).zip s.servo.loops.toList).filterMap fun p => p.2.next.map fun n => Out.loopOut p.1 (outCode p.1 n.1)
  let put (l : Loop) : Loop := match l.next with
    | some (o, z) => { l with out := o, secs := z, next := none }
    | none => l
  { s with servo := { s.servo with loops := s.servo.loops.map put } }.emits outs

/-- No APC output stays above APC_MAX (R167). -/
def limitApc (s : State) : State :=
  if (s.servo.loops.get 3).out ≤ apcTop s then s else (setOut s 3 (apcTop s)).emit (.loopOut 3 (outCode 3 (apcTop s)))

/-- A whole bank has been written to a loop's inactive bank, which is VALID from then on (R163). -/
def writeBank (s : State) (loop : Nat) (b : Bank) : State :=
  { s with servo := { s.servo with loops := Vector.ofFn fun i =>
      if i.val = loop then { s.servo.loops.get i with inactive := .loaded b, inactiveValid := true } else s.servo.loops.get i } }

/-- A profile that waited for the strobe completes (R164, R165). -/
def profileDone (s : State) (k : Nat) : State :=
  match s.desc? 0 k with
  | some d => finish s 0 k .ok d.fld.length
  | none => s

/-- Bank writes end at the strobe, each with its profile (R163, R164; log entry 112). -/
def endBankWrites (s : State) : State :=
  s.servo.bankWrites.foldl (fun t w => profileDone (writeBank t w.1 w.2.1) w.2.2) { s with servo := { s.servo with bankWrites := [] } }

/-- The swap itself: the banks change places, states cleared if asked (R165). -/
def swapBanks (s : State) (mask : BitVec 6) (clear : Bool) : State :=
  let swapped (i : Fin 6) : Loop :=
    let l := s.servo.loops.get i
    if bit mask i.val then
      { l with active := l.inactive, inactive := l.active, inactiveValid := true
               secs := if clear then List.replicate 6 {} else l.secs }
    else l
  { s with servo := { s.servo with loops := Vector.ofFn swapped } }

/-- A swap that a BANK_SWAP asked for takes effect at the strobe (R165). -/
def swapAtStrobe (s : State) : State :=
  match s.servo.swap with
  | none => s
  | some (mask, clear, k) => swapBanks { s with servo := { s.servo with swap := none, swapped := some k } } mask clear

/-- Banks of a medium just identified are loaded and swapped in at the strobe (R166). -/
def loadAtStrobe (s : State) : State :=
  match s.servo.bankLoad with
  | none => s
  | some (cls, layer) => loadBanks { s with servo := { s.servo with bankLoad := none } } cls layer

/-- SIGNAL and SEQUENCE profiles of the loaded class are in use from the strobe (R179). -/
def takeProfiles (s : State) : State :=
  if s.servo.profLoad then
    { s with servo := { s.servo with profLoad := false, signalIn := s.servo.signal.get (classNow s)
                                     sequenceIn := s.servo.sequence.get (classNow s) } }
  else s

/-- Iron reports the limit: the demand is positive with the current at ILIM or the PWM duty at 100 % (R191). -/
def limitReported (s : State) : Bool :=
  let d := s.pwr.links.cmd.spindle
  s.spindle.st == .closed && decide (0 < d) && (decide (2097152 ≤ d) || Config.dutyFull s.spindle.rpm (roundDiv (d * s.spindle.inUse.ilim) 2097152).toNat)

/-- The measured speed is more than 1 % below the set-point (R191). -/
def speedShort (s : State) : Bool := decide (100 * s.spindle.rpm < 99 * s.spindle.setPoint)

/-- Once a spindle period, the counts of R191: periods with the limit reported short of the set-point, and periods without the report
or within 1 %. -/
def countLimit (s : State) : State :=
  if s.servo.n % 16 ≠ 8 then s
  else
    { s with spindle := { s.spindle with
        limitRun := if limitReported s && speedShort s then s.spindle.limitRun + 1 else 0
        clearRun := if limitReported s && speedShort s then 0 else s.spindle.clearRun + 1 } }

/-- The end of a loop period: its outputs are applied, or it was an overrun (R13, R18, R156). -/
def endPeriod (s : State) : State :=
  if s.servo.computing then overrun s
  else if s.servo.expect then missedSample s
  else applyOutputs { s with servo := { s.servo with overrunNow := false } }

/-- The governor's code becomes that of VCORE (R335). -/
def takeVcore (s : State) : State := { s with pwr := { s.pwr with gov := { s.pwr.gov with vcore := s.pwr.gov.code } } }

/-- Everything that takes effect at the strobe itself. -/
def atStrobe (s : State) : State :=
  takeVcore (countLimit (takeProfiles (loadAtStrobe (swapAtStrobe (endBankWrites (takeFaults (limitApc s)))))))

/-- LOOP_STROBE: the period that ends has its outputs applied or was an overrun, faults and swaps take effect, and the next period
begins; a synchronising reset restarts the count and makes two samples invalid (R13, R156, R165, R177, R178). -/
def execLoopStrobe (s : State) : Answer :=
  .next (if !linksUp s then s
    else
      let t := atStrobe (endPeriod s)
      let v := t.servo
      let v := { v with strobes := v.strobes + 1, ldStrobes := if v.ldEn then v.ldStrobes + 1 else 0, expect := true
                        seq := { v.seq with strobes := v.seq.strobes + 1 } }
      { t with servo := if v.resync then { v with n := 0, resync := false, invalid := 2 } else { v with n := v.n + 1 } })

/-- Ask for a synchronising reset at the next strobe (R177). -/
def askResync (s : State) : State := { s with servo := { s.servo with resync := true } }

/-! ### Tests on a valid sample (R167, R168, R171, R173, R176) -/

/-- A defect may be tested: not during focus search, track-on, jumps or layer jumps (R171). -/
def defectTested (s : State) : Bool := s.servo.fok && s.servo.seq.phase == .idle

/-- The tracked level of SUM after one sample: a first-order low-pass filter of 2 ms (R171). -/
def trackedNext (s : State) (sum : Int) : Int := s.servo.tracked + roundDiv (sum - s.servo.tracked) (strobesIn s 2000)

/-- The defect test of a valid sample and the tracked level of SUM (R171). -/
def defectTest (s : State) : State :=
  let sum := 65536 * sumCode s
  let tr := s.servo.tracked
  let flag := s.chan.defect || s.chan.flagged
  let s := { s with chan := { s.chan with flagged := false } }
  if !defectTested s then { s with servo := { s.servo with defect := false, defectHalfUs := 0, tracked := trackedNext s sum } }
  else if s.servo.defect then
    if 45 * tr ≤ 100 * sum ∧ 100 * sum ≤ 155 * tr ∧ flag = false then
      { s with servo := { s.servo with defect := false, defectHalfUs := 0 } }
    else s
  else if 100 * sum < 40 * tr ∨ 160 * tr < 100 * sum ∨ flag = true then
    { s with servo := { s.servo with defect := true, defectHalfUs := 0 } }
  else { s with servo := { s.servo with tracked := trackedNext s sum } }

/-- The open-wire counts: consecutive valid samples in the tell band while LD_EN has been 1 for 2 ms (R173). -/
def bandTest (s : State) (c : Vector Int 16) : State :=
  let on := s.servo.ldEn && decide (strobesIn s 2000 ≤ s.servo.ldStrobes)
  let count (i : Fin 9) : Nat :=
    let x := c.get (i.castLE (by decide))
    if on && decide (-424 ≤ x) && decide (x ≤ -344) then s.servo.band.get i + 1 else 0
  { s with servo := { s.servo with band := Vector.ofFn count } }

/-- The PU_TEMP counts (R176). -/
def puTempTest (s : State) (c : Vector Int 16) : State :=
  let hi := decide (500 < c.get 9)
  { s with servo := { s.servo with puHigh := if hi then s.servo.puHigh + 1 else 0, puLow := if hi then 0 else s.servo.puLow + 1 } }

/-- The settling and limit counts of APC (R167, R168). -/
def apcTest (s : State) (c : Vector Int 16) : State :=
  if !s.servo.ldEn || s.servo.wgate then s
  else
    let t : Int := apcTargetNow s
    let f := c.get 8
    let settle := if decide (98 * t ≤ 100 * f) && decide (100 * f ≤ 102 * t) then s.servo.apcSettle + 1 else 0
    let atMax := decide ((apcMaxNow s : Int) ≤ outCode 3 (s.servo.loops.get 3).out) && decide (100 * f < 95 * t)
    { s with servo := { s.servo with apcSettle := settle
                                     apcSettled := s.servo.apcSettled || decide (strobesIn s 500 ≤ settle)
                                     apcMaxed := if atMax then s.servo.apcMaxed + 1 else 0 } }

/-- SUM and SSUM of the last 2 ms, for k (R153). -/
def noteSums (s : State) : State :=
  { s with servo := { s.servo with sums := ((sumCode s, ssumCode s) :: s.servo.sums).take (strobesIn s 2000) } }

/-- FE, TE and SUM of this strobe join the measurement of the unit under the spot (R259, Table 9.5). -/
def meterStrobe (s : State) : State :=
  match s.disc with
  | none => s
  | some d =>
    let mi := (mediumIndex d).val
    let fe := feQ s
    let te := teQ s
    { s with chan := modMeter mi (fun m =>
        { m with strobes := m.strobes + 1, fe2 := m.fe2 + fe.natAbs ^ 2, te2 := m.te2 + te.natAbs ^ 2
                 sum := m.sum + sumCode s }) s.chan }

/-! ### The sequencer (R169, R170, Tables 6.4 to 6.7; log entry 111) -/

/-- Pewter may set LD_EN: the modes of R168, with no HALT in force or about to be, and Bronze running (log entry 110). -/
def laserAllowed (s : State) : Bool :=
  (idleLike s.sys.mode || s.sys.mode == .service) && !s.halt.inHalt && s.halt.pend.isEmpty && s.sys.ready

/-- LD_EN rises where it may, and APC closes (R168, Table 6.4). -/
def raiseLaser (s : State) : State :=
  if !laserAllowed s then s
  else
    let t := if s.servo.ldEn then s else s.emit (.ldEn true)
    { t with servo := { t.servo with
        ldEn := true, ldStrobes := if s.servo.ldEn then s.servo.ldStrobes else 0
        loops := t.servo.loops.set 3 { t.servo.loops.get 3 with closed := true } } }

/-- Close or open a loop. -/
def setLoop (s : State) (i : Fin 6) (closed held : Bool) : State :=
  { s with servo := { s.servo with loops := s.servo.loops.set i { s.servo.loops.get i with closed := closed, held := held, next := none } } }

/-- A phase of the sequencer begins. -/
def setPhase (s : State) (p : SeqPhase) : State := { s with servo := { s.servo with seq := { s.servo.seq with phase := p, strobes := 0 } } }

/-- A sweep pair begins: FOCUS, TRACK and SLED are open, and S-curves are counted anew (Table 6.4). -/
def beginSweep (s : State) : State :=
  let t := setLoop (setLoop (setLoop s 0 false false) 1 false false) 5 false false
  setPhase { t with servo := { t.servo with ramp := none, seq := { t.servo.seq with curves := 0, sumPeak := 0, fePeak := 0 } } } .up

/-- A focus-on begins: the laser is on and APC settles; the loops that use photodetector samples are open (Table 6.4). -/
def beginFocus (s : State) (layer : Nat) (afterJump : Bool) : State :=
  let t := setLoop (setLoop (setLoop (setLoop (raiseLaser s) 0 false false) 1 false false) 2 false false) 5 false false
  { t with servo := { t.servo with
      seq := { phase := .settle, layer := layer, afterJump := afterJump }
      fok := false, locked := false, trackOnAt := none, trackTries := 0, jump := none, layerJump := none } }

/-- A track-on begins at t0: TRACK is open, and the interval between TE zero crossings is measured (Table 6.5). -/
def beginTrackOn (s : State) (tries : Nat) : State :=
  let t := setLoop (setLoop s 1 false false) 5 false false
  setPhase { t with servo := { t.servo with
      trackOnAt := some s.us, trackTries := tries, locked := false, jump := none, layerJump := none
      seq := { t.servo.seq with cross := none, run := 0 } } } .measure

/-- A LOAD is on the mechanism. -/
def loadingJob (s : State) : Option Job :=
  match jobDesc s with
  | some (j, d) => if d.op == .loadEject && !bit d.fld.opfield 0 then some j else none
  | none => none

/-- No S-curve has qualified: no disc is present; a load completes with NO_DISC, and no HALT follows (R169). -/
def noDiscFound (s : State) : State :=
  let u := openLoops (dropLaser s)
  let u := { u with loader := { u.loader with unident := false } }
  match loadingJob u with
  | some _ => endJob u .noDisc 0
  | none => if u.sys.mode == .load then { u with sys := { u.sys with mode := .idle } } else u

/-- A focus-on ends in a fault: FOCUS_FAIL, or LAYER_FAIL after a layer jump (R169, Table 6.7). -/
def focusFails (s : State) : State :=
  setPhase (servoFault s (if s.servo.seq.afterJump then 7 else 4) 0) .idle

/-- An attempt has failed: another sweep pair, or after FS_TRIES of them the end of the focus-on (R169). -/
def attemptOver (s : State) : State :=
  let q := s.servo.seq
  let t := { s with servo := { s.servo with seq := { q with pairs := q.pairs + 1, most := max q.most (min 1 q.curves) } } }
  if q.pairs + 1 < (sequenceNow s).fsTries then beginSweep t
  else if t.servo.seq.most = 0 ∧ q.afterJump = false then noDiscFound t
  else focusFails t

/-- A signal has crossed zero between two valid samples. -/
def crossed (a b : Int) : Bool := (decide (0 < a) && decide (b ≤ 0)) || (decide (a < 0) && decide (0 ≤ b))

/-- The sign that a loop's IN_GAIN gives its signal (R153). -/
def gainUp (s : State) (i : Fin 6) : Bool := decide (0 ≤ (bankOf (s.servo.loops.get i).active).inGain)

/-- A crossing of TE has the on-track slope while the spot moves outward or inward: there TRACK's drive turns against the motion
(Tables 6.5, 6.6; log entry 111). -/
def onTrack (s : State) (te : Int) (outward : Bool) : Bool :=
  let falls := decide (te < 0) || (te == 0 && decide (0 < s.servo.seq.te))
  (falls == gainUp s 1) == outward

/-- The S-curve being passed grows: its peaks of SUM and of the size of FE, in codes (Table 6.4). It lasts while SUM is above
FS_SUM_TH (log entry 111). -/
def curveGrows (q : Seq) (sum fe : Int) : Seq :=
  { q with sumPeak := max q.sumPeak sum, fePeak := max q.fePeak (fe.natAbs / 4096 : Nat) }

/-- An S-curve qualifies: its SUM peak exceeds FS_SUM_TH and its FE peak FE_PEAK_TH (Table 6.4). -/
def curveGood (p : SequenceProf) (q : Seq) : Bool := decide ((p.fsSumTh : Int) < q.sumPeak) && decide ((p.fePeakTh : Int) < q.fePeak)

/-- An S-curve ends, and counts if it qualifies. -/
def curveEnds (p : SequenceProf) (q : Seq) : Seq :=
  { q with curves := q.curves + b2n (curveGood p q), sumPeak := 0, fePeak := 0 }

/-- One sample of a sweep for the count of S-curves. -/
def curveStep (p : SequenceProf) (q : Seq) (sum fe : Int) : Seq :=
  if (p.fsSumTh : Int) < sum then curveGrows q sum fe else if 0 < q.sumPeak then curveEnds p q else q

/-- FOCUS closes on a layer with its stored bank (Tables 6.4, 6.7, R166). -/
def closeFocus (s : State) (layer : Nat) (p : SeqPhase) : State := setPhase (setLoop (loadBanks s (classNow s).val layer) 0 true false) p

/-- FOK is declared: TILT closes with FOCUS, and the focus-on has succeeded (Table 6.4; log entry 111). -/
def declareFok (s : State) : State :=
  let t := setLoop s 2 true false
  setPhase { t with servo := { t.servo with fok := true, layerJump := none } } .idle

/-- k from the means of SUM and SSUM over the 2 ms before closure, clamped to 0.5 to 4.0 (R153). -/
def kFromSums (l : List (Int × Int)) : Int :=
  let sum : Int := l.foldl (fun a x => a + x.1) 0
  let ssum : Int := l.foldl (fun a x => a + x.2) 0
  satQ (clampI 1048576 8388608 (signedDiv (sum * 2097152) ssum))

/-- TRACK closes with its stored bank at the end of a track-on's brake, and k is set (Table 6.5, R153). -/
def endBrake (s : State) : State :=
  let b := storedBank s 1 (classNow s).val s.servo.layer
  let l := s.servo.loops.get 1
  let l := if l.active = b then l else { l with active := b, inactive := l.active, inactiveValid := true }
  let t := setLoop { s with servo := { s.servo with loops := s.servo.loops.set 1 l } } 1 true false
  setPhase { t with servo := { t.servo with
      kdpp := if (signalNow s).kAuto then kFromSums s.servo.sums else s.servo.kdpp
      seq := { t.servo.seq with run := 0 } } } .closing

/-- TRACK closes at the end of a jump with its held state, and is to lock as after a track-on (Table 6.6; log entry 111). -/
def closeJump (s : State) : State :=
  let t := setLoop s 1 true false
  setPhase { t with servo := { t.servo with jump := none, trackOnAt := some s.us, trackTries := 0
                                            seq := { t.servo.seq with run := 0 } } } .closing

/-- Tracking is locked (Table 6.5): the track-on or jump has succeeded. -/
def lockTrack (s : State) : State :=
  setPhase { s with
    servo := { s.servo with locked := true, trackOnAt := none, trackTries := 0, jumpFails := 0 }
    sled := { s.sled with lockTries := s.servo.trackTries + 1 } } .lockHold

/-- SLED closes 1 ms after the lock, and the sled follows (Table 6.5, R199). -/
def closeSled (s : State) : State :=
  let t := setPhase (setLoop s 5 true false) .idle
  if t.sled.move = .rest then { t with sled := { t.sled with move := .follow, inUse := t.sled.prof } } else t

/-- One valid sample of a sweep (Table 6.4). -/
def sweepStep (s : State) (up : Bool) (sum fe : Int) : State :=
  let p := sequenceNow s
  let q := curveStep p s.servo.seq sum fe
  let t := { s with servo := { s.servo with seq := q } }
  if !up && decide ((p.fsSumTh : Int) < sum) && q.curves == q.layer && decide ((p.fePeakTh : Int) < s.servo.seq.fePeak) &&
      crossed s.servo.seq.fe fe then
    closeFocus t q.layer .focusHold
  else if s.servo.seq.strobes < strobesIn s (1000 * p.fsTime) then t
  else
    let q := if 0 < q.sumPeak then curveEnds p q else q
    let t := { s with servo := { s.servo with seq := q } }
    if !up then attemptOver t
    else if 3 < q.curves then focusFails { t with servo := { t.servo with seq := { q with most := max q.most q.curves } } }
    else setPhase { t with servo := { t.servo with seq := { q with most := max q.most q.curves, curves := 0 } } } .down

/-- The crossing interval that ends at this sample, in strobes, and the strobes since the last crossing from here on. -/
def crossStep (q : Seq) (te : Int) : Option Nat × Option Nat :=
  if crossed q.te te then (q.cross.map (· + 1), some 0) else (none, q.cross.map (· + 1))

/-- One valid sample of the first part of a track-on: the first crossing interval longer than TON_SLOW (Table 6.5). The direction of
the crossings, which the manual does not say how to tell, is a free value (log entry 111). -/
def measureStep (s : State) (te : Int) : State :=
  let (gap, since) := crossStep s.servo.seq te
  let t := { s with servo := { s.servo with seq := { s.servo.seq with cross := since } } }
  match gap with
  | some n =>
    if strobesIn s (sequenceNow s).tonSlow < n then
      setPhase { t with draws := t.draws + 1, servo := { t.servo with seq := { t.servo.seq with brakeUp := bit (Config.openWord 60 t.draws) 0 } } } .ready
    else t
  | none => t

/-- Counts of a layer jump on one valid sample: excursions of FE beyond LJ_BRAKE_TH, two to a layer passed and one to the layer left
behind. `crossings` counts those that have begun, `brakeUp` says that one is under way (log entry 111). -/
def excursion (p : SequenceProf) (q : Seq) (fe : Int) : Seq :=
  let beyond := decide ((p.ljBrakeTh : Int) * 4096 < fe.natAbs) && (!q.brakeUp || !crossed q.fe fe)
  { q with brakeUp := beyond, crossings := q.crossings + b2n (beyond && !q.brakeUp) }

/-- FE of the target layer exceeds LJ_BRAKE_TH: the excursion after those of the layers between. -/
def layerReached (s : State) (q : Seq) : Bool :=
  q.brakeUp && decide (2 * ((s.servo.layer : Int) - q.layer).natAbs ≤ q.crossings)

/-- One valid sample of a layer jump before the brake (Table 6.7): kick, coast, and at the target layer the brake, with its gain range
and a synchronising reset. -/
def layerStep (s : State) (fe : Int) : State :=
  let q := excursion (sequenceNow s) s.servo.seq fe
  let t := { s with servo := { s.servo with seq := q } }
  if layerReached s q then askResync (setPhase { t with servo := { t.servo with gainLayer := q.layer } } .layerBrake)
  else if q.phase = .layerKick ∧ strobesIn s (sequenceNow s).ljKickT ≤ q.strobes then setPhase t .layerCoast
  else t

/-- One valid sample of the sequence in progress (Tables 6.4 to 6.7). -/
def seqPhaseStep (s : State) (sum fe te : Int) : State :=
  let p := sequenceNow s
  let q := s.servo.seq
  let ms (n : Nat) : Bool := decide (strobesIn s (1000 * n) ≤ q.strobes)
  match q.phase with
  | .idle => s
  | .settle => if s.servo.apcSettled && decide (strobesIn s 2000 + 5 ≤ s.servo.ldStrobes) then beginSweep s else s
  | .up => sweepStep s true sum fe
  | .down => sweepStep s false sum fe
  | .focusHold => if sum ≤ p.fokTh then attemptOver s else if !ms 1 then s else if q.afterJump then beginTrackOn (declareFok s) 0 else declareFok s
  | .measure => measureStep s te
  | .ready =>
    if crossed q.te te && onTrack s te q.brakeUp then
      setPhase { s with servo := { s.servo with seq := { q with brakeUp := !q.brakeUp } } } .brake
    else s
  | .brake => if strobesIn s p.brkT ≤ q.strobes then endBrake s else s
  | .closing =>
    let n := if decide (te.natAbs < 4096 * p.tonLock) then q.run + 1 else 0
    let t := { s with servo := { s.servo with seq := { q with run := n } } }
    if strobesIn s 2000 ≤ n then lockTrack t else t
  | .lockHold => if ms 1 then closeSled s else s
  | .jumpKick | .jumpBrake =>
    let n := q.crossings + b2n (crossed q.te te)
    let t := { s with servo := { s.servo with seq := { q with crossings := n } } }
    match s.servo.jump with
    | none => t
    | some j =>
      if 2 * j.tracks ≤ n ∧ crossed q.te te = true ∧ onTrack s te j.outward = true then closeJump t
      else if j.tracks ≤ n ∧ q.phase = .jumpKick then setPhase t .jumpBrake
      else t
  | .layerKick | .layerCoast => layerStep s fe
  | .layerBrake => if crossed q.fe fe then closeFocus s q.layer .layerHold else s
  | .layerHold =>
    if sum ≤ p.fokTh then beginFocus s q.layer true
    else if ms 1 then beginTrackOn (declareFok s) 0
    else s

/-- One valid sample for the sequencer, which then keeps FE and TE of it. -/
def seqStep (s : State) : State :=
  let fe := feQ s
  let te := teQ s
  let t := seqPhaseStep s (sumCode s) fe te
  { t with servo := { t.servo with seq := { t.servo.seq with fe := fe, te := te } } }

/-! ### SERVO_SAMPLE_ARRIVAL and LOOP_COMPUTE_DONE -/

/-- SERVO_SAMPLE_ARRIVAL: a strobe's samples arrive; invalid ones compute nothing; valid ones are tested, serve the sequence in
progress and start the computation (R149, R154, R171, R173, R176, R177). -/
def execServoSampleArrival (c : Vector Int 16) (s : State) : Answer :=
  .next (if !linksUp s || !s.servo.expect then s
    else if 0 < s.servo.invalid then missedSample s
    else
      let c := c.map (clampI (-512) 511)
      let s := { s with servo := { s.servo with samples := c } }
      let t := noteSums (apcTest (puTempTest (bandTest (defectTest s) c) c) c)
      let t := defectLasts { t with servo := { t.servo with computing := true, expect := false } }
      seqStep (meterStrobe t))

/-- LOOP_COMPUTE_DONE: the period's laws are done; its slack goes to Iron, and a period that is not an overrun ends the run
(R155, R157). -/
def execLoopComputeDone (left period : Nat) (s : State) : Answer :=
  .next (if s.servo.computing then
    let t := computeLoops s
    { t with servo := { t.servo with computing := false, slack := some (min 63 (64 * left / max 1 period)), overrunRun := 0 } }
  else s)

/-- SERVO_PACKET_BAD: the packet of this strobe has failed its check: its sample is invalid, and the period counts as an overrun
(R18, R157, R172). -/
def execServoPacketBad (s : State) : Answer :=
  .next (if !linksUp s then s
    else
      let t := countBadPacket s .yelxoM false
      if s.servo.expect then missedSample t else t)

/-! ### Servo faults (R157, R167, R168, R172, R175, Table 6.9) -/

/-- OVERRUN_LIMIT: three overruns in a row (R157). -/
def execOverrunLimit (s : State) : Answer :=
  .next (if 3 ≤ s.servo.overrunRun then servoFault { s with servo := { s.servo with overrunRun := 0 } } 1 0 else s)

/-- DEFECT_LONG: a defect longer than DH_MAX (R172). -/
def execDefectLong (s : State) : Answer :=
  .next (if s.servo.defect && decide (2 * (sequenceNow s).dhMax < s.servo.defectHalfUs) then
    servoFault { s with servo := { s.servo with defect := false, defectHalfUs := 0 } } 2 0 else s)

/-- The inputs whose count has reached 4, as the mask of 0x0750. -/
def openMask (s : State) : Nat :=
  s.servo.band.toList.zipIdx.foldl (fun a p => if 4 ≤ p.1 then a + 2 ^ p.2 else a) 0

/-- PICKUP_OPEN: the fourth valid in-band sample declares an input open (R173, R175). -/
def execPickupOpen (s : State) : Answer :=
  .next (if openMask s = 0 ∨ s.servo.ldEn = false then s
    else servoFault { s with servo := { s.servo with band := Vector.replicate 9 0 } } 3 (openMask s))

/-- APC_LIMIT: at APC_MAX for 1 ms with FMON low, or not settled within 2 ms of LD_EN (R167, R168). -/
def execApcLimit (s : State) : Answer :=
  .next (if s.servo.ldEn && (decide (strobesIn s 1000 ≤ s.servo.apcMaxed) ||
      (!s.servo.apcSettled && decide (strobesIn s 2000 ≤ s.servo.ldStrobes))) then servoFault s 8 0 else s)

/-- PU_TEMP_OPEN: writing is disabled; a write in progress ends at its next unit boundary (R176). -/
def execPuTempOpen (s : State) : Answer :=
  .next (if s.servo.puOpen || decide (s.servo.puHigh < 32) then s
    else
      let t := { s with servo := { s.servo with puOpen := true } }
      let t := match jobDesc t with
        | some (j, d) => if opWrites d.op && !j.ended then stopAtBoundary t .writeFailed else t
        | none => t
      postEvent t 0 evPuTempOpen (w32 (1 + 65536 * toBits 16 (s.servo.samples.get 9))))

/-- PU_TEMP_CLEAR: 32 samples at code 500 or below; writing is enabled again (R176). -/
def execPuTempClear (s : State) : Answer :=
  .next (if s.servo.puOpen && decide (32 ≤ s.servo.puLow) then
    postEvent { s with servo := { s.servo with puOpen := false } } 0 evPuTempOpen
      (w32 (65536 * toBits 16 (s.servo.samples.get 9)))
  else s)

/-- BANK_SWAP_APPLY: the swap has taken effect at the strobe, and its profile completes (R165). -/
def execBankSwapApply (s : State) : Answer :=
  .next (match s.servo.swapped with
  | none => s
  | some k => profileDone { s with servo := { s.servo with swapped := none } } k)

/-! ### The commands that begin a sequence (R168 to R170) -/

/-- FOCUS_ON: LD_EN rises, and the sequence of Table 6.4 begins toward a layer (R169). -/
def execFocusOn (layer : Nat) (s : State) : Answer :=
  .next (if laserAllowed s && decide (layer ≤ 2) && s.servo.seq.phase == .idle then beginFocus s layer false else s)

/-- The spindle is at speed: commutation is closed, and the measured speed is within 1 % of the set-point, or at the ceiling (Table
6.5, R191; log entry 111). -/
def atSpeed (s : State) : Bool := s.spindle.st == .closed && (decide (99 * setPointNow s ≤ 100 * s.spindle.rpm) || s.spindle.ceiling)

/-- TRACK_ON: FOK is declared and the spindle at speed; the sequence of Table 6.5 begins (R170). -/
def execTrackOn (s : State) : Answer :=
  .next (if s.servo.fok && s.servo.ldEn && !s.halt.inHalt && s.servo.seq.phase == .idle && atSpeed s then beginTrackOn s 0 else s)

/-- A track-on is in progress. -/
def trackingOn (s : State) : Bool :=
  match s.servo.seq.phase with
  | .measure | .ready | .brake | .closing => true
  | _ => false

/-- TRACK_ON_TIMEOUT: no lock within 100 ms: tried again, and the third failure is TRACK_FAIL (R170). -/
def execTrackOnTimeout (s : State) : Answer :=
  .next (match s.servo.trackOnAt with
  | some t0 =>
    if !trackingOn s || decide (s.us < t0 + 100000) then s
    else if 2 ≤ s.servo.trackTries then setPhase (servoFault { s with servo := { s.servo with trackOnAt := none } } 5 0) .idle
    else beginTrackOn s (s.servo.trackTries + 1)
  | none => s)

/-- A jump opens TRACK with its integrators held, holds SLED and drives KICK_AMP (Table 6.6). -/
def startJump (s : State) (tracks : Nat) (outward : Bool) : State :=
  let t := setLoop (setLoop s 1 false true) 5 true true
  setPhase { t with
    servo := { t.servo with jump := some { tracks := tracks, outward := outward, at_ := s.us }, locked := false, trackOnAt := none
                            ramp := none, seq := { t.servo.seq with crossings := 0 } }
    chan := { t.chan with accepted := false } } .jumpKick

/-- TRACK_JUMP: 1 to 255 tracks from closed tracking (Table 6.6). -/
def execTrackJump (tracks : Nat) (outward : Bool) (s : State) : Answer :=
  .next (if s.servo.locked && decide (1 ≤ tracks) && decide (tracks ≤ 255) then startJump s tracks outward else s)

/-- JUMP_TIMEOUT: the bound 2 ms + N × 50 µs has passed before crossing 2N: track-on follows; a second failure is JUMP_FAIL (Table
6.6). -/
def execJumpTimeout (s : State) : Answer :=
  .next (match s.servo.jump with
  | some j =>
    if s.us < j.at_ + 2000 + 50 * j.tracks then s
    else if 1 ≤ s.servo.jumpFails then
      setPhase (servoFault { s with servo := { s.servo with jump := none, jumpFails := 0 } } 6 0) .idle
    else beginTrackOn { s with servo := { s.servo with jumpFails := 1 } } 0
  | none => s)

/-- LAYER_JUMP: TRACK and FOCUS open, SLED is held, and the kick of Table 6.7 begins (R177). -/
def execLayerJump (layer : Nat) (s : State) : Answer :=
  let most := match s.disc with
    | some d => d.layers
    | none => 0
  .next (if s.servo.fok && s.servo.ldEn && decide (layer < most) && layer != s.servo.layer then
    let t := setLoop (setLoop (setLoop s 0 false true) 1 false true) 5 true true
    { t with
      servo := { t.servo with layerJump := some (layer, s.us), fok := false, locked := false, jump := none, trackOnAt := none, ramp := none
                              seq := { phase := .layerKick, layer := layer, fe := s.servo.seq.fe, te := s.servo.seq.te } }
      chan := { t.chan with accepted := false } }
  else s)

/-- FOCUS of a layer jump has not closed. -/
def layerOpen (s : State) : Bool :=
  match s.servo.seq.phase with
  | .layerKick | .layerCoast | .layerBrake => true
  | _ => false

/-- LAYER_JUMP_TIMEOUT: focus has not closed in 5 ms: focus-on for the layer follows, and its failure is LAYER_FAIL (Table
6.7). -/
def execLayerJumpTimeout (s : State) : Answer :=
  .next (match s.servo.layerJump with
  | some (l, t0) => if !layerOpen s || decide (s.us < t0 + 5000) then s else beginFocus s l true
  | none => s)

end Sys2Proof.Machine
end

