-- ==== Sys2Proof/Machine/Pulses.lean ====
section
/-! DEFINITION. Machine/Pulses.lean: write-strategy tables and the pulse train that records a unit (R239, R243 to R245). Times are in T/32,
the grid of R239. -/
namespace Sys2Proof.Machine

/-! ### Entries (R244) -/

/-- The KIND, CODE and EDGE of a segment (Table 9.3). -/
def segKind (x : Half) : Nat := bits x 15 14
def segCode (x : Half) : Nat := bits x 2 0
def segEdge (x : Half) : Nat := bits x 13 4

/-- The edges that a REPEAT emits: the two segments before it shifted by 32, 64, … while below its own EDGE (R244). -/
def repeatEdges (a b lim : Nat × Nat) : Nat → List (Nat × Nat)
  | 0 => []
  | n + 1 =>
    let m := 32 * (32 - n)
    ([(a.1, a.2 + m), (b.1, b.2 + m)].filter fun e => decide (e.2 < lim.2)) ++ repeatEdges a b lim n

/-- Unroll an entry (R244): the (code, edge) steps, or none where it is rejected. `prev` holds the LEVEL segments just
before, latest first. -/
def unrollSegs (space : Nat) : List Half → List (Nat × Nat) → List (Nat × Nat) → Option (List (Nat × Nat))
  | [], _, _ => none
  | x :: r, prev, acc =>
    if bit x 3 then none
    else match segKind x with
      | 0 => unrollSegs space r ((segCode x, segEdge x) :: prev) (acc ++ [(segCode x, segEdge x)])
      | 1 => match prev with
        | b :: a :: _ => unrollSegs space r [] (acc ++ repeatEdges a b (0, segEdge x) 32)
        | _ => none
      | 2 => if r.all fun y => y == 0 then some (acc ++ [(space, segEdge x)]) else none
      | _ => none

/-- Edges rise strictly, each at least 4 units after the one before (R244). -/
def edgesRise : List Nat → Bool
  | a :: b :: r => decide (a + 4 ≤ b) && edgesRise (b :: r)
  | _ => true

/-- An entry is accepted (R244). -/
def entryOk (space : Nat) (e : List Half) : Bool :=
  match unrollSegs space e [] [] with
  | some l => edgesRise (l.map (·.2))
  | none => false

/-! ### The pulse train (R243, R244) -/

/-- The minimum run d of a medium (Table 8.1). -/
def minRun (m : Medium) : Nat := if isBd m then 1 else 2

/-- The entry of a mark of n T after a space of s T (R243). -/
def entryIndex (d n s : Nat) : Nat := 4 * min (n - d - 1) 15 + min (s - d - 1) 3

/-- A mark's steps, as (time, code): its entry placed with its origin 2T before the leading edge. Times count from 2T before the unit's
first channel bit, and the mark begins at channel bit `at_` (R243, R244). -/
def markSteps (t : Strategy) (d n s at_ : Nat) : List (Nat × Nat) :=
  ((unrollSegs t.spaceCode (t.entries.getD (entryIndex d n s) []) [] []).getD []).map fun e => (32 * at_ + e.2, e.1)

/-- The steps of each mark of a unit in turn; `at_` is where the space before the next mark begins. -/
def marksSteps (t : Strategy) (d : Nat) : List (Nat × Nat) → Nat → List (List (Nat × Nat))
  | [], _ => []
  | (s, n) :: r, at_ => markSteps t d n s (at_ + s) :: marksSteps t d r (at_ + s + n)

/-- An entry is cut where the next mark's first edge falls at or before one of its own (R244). -/
def cutSteps : List (List (Nat × Nat)) → List (Nat × Nat)
  | [] => []
  | l :: r =>
    let lim := (r.findSome? fun x => x.head?).map (·.1)
    l.filter (fun e => lim.all fun n => decide (e.1 < n)) ++ cutSteps r

/-- The pulse train of a unit (R239, R243, R244). -/
def unitPulses (di : DiscInfo) (t : Strategy) (first : Nat) (data : List Byte) : List (Nat × Nat) :=
  cutSteps (marksSteps t (minRun di.medium) (Config.marks (mediumCode di.medium) first data) 0)

end Sys2Proof.Machine
end

