-- ==== Sys2Proof/Machine/Front.lean ====
section
/-! DEFINITION. Machine/Front.lean: the channel at work: its profiles, the references of the channel strobe, what streams into the sample
ring, and the samples a command brings (R211, R212, R226, R235). -/
namespace Sys2Proof.Machine

/-! ### The channel at work (R211, R212, R226, R235) -/

/-- The CHANNEL and SECOND_LOOK profiles of the loaded medium. -/
def channelProf (s : State) : Option ChannelProf := s.disc.map fun d => s.chan.prof.get (mediumIndex d)

/-- The reference that steers the strobe while the RF data does not: the wobble of recordable media, else the spindle (R212). -/
def freeReference (s : State) : StrobeRef :=
  match s.disc with
  | some d => if recordable d.medium then .wobble else .spindle
  | none => .spindle

/-- The channel bit rate at 1× in bit/s, and the speed of 1× in mm/s (Tables 7.2 and 8.1). -/
def rateOne (cls : Nat) : Nat × Nat :=
  match cls with
  | 0 => (4321800, 1300)
  | 1 => (26156000, 3490)
  | _ => (66000000, 4917)

/-- The spindle estimate: SPIN_RPM times the channel bits per revolution at the current radius, in Hz (R212; log entry 115). -/
def spindleHz (s : State) (d : DiscInfo) : Nat :=
  let (bits, v) := rateOne (mediumClass d)
  (roundDiv ((3141592654 * radiusNow s * s.spindle.rpm * bits : Nat) : Int) (30000 * 1000000000 * v)).toNat

/-- The frequency of the reference other than the data: the wobble's once its PLL has one (R212). -/
def freeHz (s : State) (d : DiscInfo) : Nat :=
  match freeReference s, s.chan.wobbleHz with
  | .wobble, some h => h
  | _, _ => spindleHz s d

/-- RF can be read: the laser is on and tracking is locked. -/
def reading (s : State) : Bool := s.servo.ldEn && s.servo.locked

/-- A unit is still to be read, or to be read again. -/
def unitWanted (u : JobUnit) : Bool :=
  match u.st with
  | .waiting | .rereading _ => true
  | _ => false

/-- Samples stream into the ring for READ, VERIFY, SEALED READ, SCAN, read-ahead and merge reads (R226, R251). -/
def streams (s : State) : Bool :=
  match s.job with
  | none => false
  | some j => match j.kind with
    | .speculation _ => true
    | .moving => false
    | .reading => (s.desc? j.f j.k).any fun d => d.op != .readRaw
    | .writing => !s.servo.wgate

/-- What the channel works with now. -/
def channelUse (s : State) (d : DiscInfo) : ChannelUse :=
  { mi := mediumIndex d, prof := s.chan.prof.get (mediumIndex d), look := s.chan.look.get (mediumIndex d)
    free := freeReference s, freeHz := freeHz s d, stream := streams s
    wanted := match s.job with
      | some j => (j.units.filter unitWanted).map (·.first)
      | none => [] }

/-- Groups of 16 samples that a word of the sample ring's 20-byte groups meets; the ring's groups are used over and over (R226; log
entry 121). -/
def ringGroups (w : Nat) : List Nat := [(8 * w - 0x5800000) / 20, (8 * w + 7 - 0x5800000) / 20]

/-- A word lies in the sample ring (Table 10.8). -/
def inRing (w : Nat) : Bool := decide (0x5800000 ≤ 8 * w) && decide (8 * w < 0x6400000)

/-- A word of the ring meets the samples of groups a to b. -/
def wordMeets (a b w : Nat) : Bool :=
  let n := ringSamples / 16
  (ringGroups w).any fun g => decide ((g + n - a % n) % n ≤ b - a)

/-- New samples take the place of wrong bits in the ring's words that they fill (R286). -/
def rewritten (a b : Nat) (l : List (Nat × Flip)) : List (Nat × Flip) :=
  l.filter fun x => !(inRing x.1 && decide (16 ≤ b - a) && wordMeets ((a + 15) / 16) (b / 16 - 1) x.1)

/-- DECIMATE keeps one value in N (R260). -/
def decimated (n passed : Nat) (l : List Int) : List Int := (l.zipIdx.filter fun x => (passed + x.2) % max 1 n == 0).map (·.1)

/-- A capture of the channel takes its source's values (R260, Table 10.6). -/
def keepSamples (c : Capture) (rf : List RfSample) (made : List Bool) : Capture :=
  if !c.running then c
  else
    let l : List Int := match c.source with
      | 0 => rf.map (·.code)
      | 2 => made.map fun b => if b then 1 else 0
      | 4 => rf.filterMap (·.wob)
      | _ => []
    { c with taken := c.taken ++ decimated c.decimate c.passed l, passed := c.passed + l.length }

/-- A sample as the calibration of its converter, RF or wobble, corrects it (R415 to R417, Table 16.8). -/
def fixSample (s : State) (x : RfSample) : RfSample :=
  { x with code := corrected s 16 1 x.code, wob := x.wob.map (corrected s 17 1) }

/-- The channel takes the samples since its last command, one for each channel strobe (R211). -/
def channelRun (s : State) (rf : List RfSample) : State :=
  match s.disc with
  | none => s
  | some d =>
    let rf := rf.map (fixSample s)
    let c := rf.foldl (strobe (channelUse s d)) { s.chan with fresh := [] }
    { s with
      chan := c, cap := keepSamples s.cap rf c.fresh.reverse
      ecc := if streams s then { s.ecc with sdram := rewritten s.chan.pos c.pos s.ecc.sdram } else s.ecc }

/-- Change the job's unit that begins at an LBA. -/
def State.modUnit (s : State) (first : Nat) (g : JobUnit → JobUnit) : State :=
  s.modJob fun j => { j with units := updFirst (fun u => u.first == first) g j.units }

end Sys2Proof.Machine
end

