-- ==== Sys2Proof/Machine/Decoders.lean ====
section
/-! DEFINITION. Machine/Decoders.lean: erasure flags, the format decoders of Table 8.3 with the check of a block, and the passes of second
look (R222, R223, R229, R230; log entries 115 and 117). What detection got wrong is the medium's: a command brings it. -/
namespace Sys2Proof.Machine

/-! ### Where bytes lie (log entry 115) -/

/-- Bytes of a sync frame. -/
def frameBytes (mi : Nat) : Nat := match mi with
  | 0 => 33
  | 1 => 91
  | _ => 155

/-- The place in a BD frame's bit stream of its data bit i: one DC control bit follows the first 25 data bits, and every 45 after them. -/
def bdBit (i : Nat) : Nat := if i < 25 then i else i + 1 + (i - 25) / 45

/-- The channel bits of byte j of a sync frame, from the frame's start. -/
def byteInFrame (mi j : Nat) : Nat × Nat := match mi with
  | 0 => (27 + 17 * j, 41 + 17 * j)
  | 1 => (32 + 16 * j, 48 + 16 * j)
  | _ => (30 + 3 * bdBit (8 * j) / 2, 30 + (3 * (bdBit (8 * j + 7) + 1) + 1) / 2)

/-- The channel bits of the byte at a place of a unit whose samples begin at `a`. -/
def byteSpan (mi a i : Nat) : Nat × Nat :=
  let o := a + runInBits mi + i / frameBytes mi * frameBits mi
  let x := byteInFrame mi (i % frameBytes mi)
  (o + x.1, o + x.2)

/-- Two spans meet. -/
def meets (x y : Nat × Nat) : Bool := decide (x.1 < y.2) && decide (y.1 < x.2)

/-- The spans whose bytes are erasures now: those recorded, a defect's that is still set, and those of a loss of lock (R222). -/
def erasedNow (s : State) : List (Nat × Nat) :=
  let c := s.chan
  let c1 := if c.defect then [(c.front.flagAt - ((c.inUse.map (·.defGuard)).getD 0), c.pos + ((c.inUse.map (·.defGuard)).getD 0))] else []
  c.erased ++ c1 ++ (if c.relock.isSome then [(c.foundAt, c.pos)] else [])

/-- The byte at a place of a unit is flagged as an erasure (R222); on CD places count from two sectors before the unit. -/
def erasedByte (mi : Nat) (spans : List (Nat × Nat)) (a i : Nat) : Bool :=
  spans.any (meets (byteSpan mi (if mi = 0 then a - 2 * unitBits 0 else a) i))

/-! ### Table 8.3 -/

/-- Where decoding stands: places of wrong bytes, the codewords that failed their layer's last decoding, and the counts E1 to E3 of
Table 9.5. -/
structure Decoding where
  wrong : List Nat
  failed : List Codeword := []
  e : Nat × Nat × Nat := (0, 0, 0)
  deriving DecidableEq, Repr

/-- A codeword decodes: 2 × errors + erasures within the layer's capacity. -/
def decodes (cap : Nat) (wrong : List Nat) (flag : Nat → Bool) (w : Codeword) : Bool :=
  decide (2 * (w.bytes.filter fun i => wrong.contains i && !flag i).length + (w.bytes.filter flag).length ≤ cap)

/-- One pass over a layer: decoded codewords are right from then on, and those that fail are kept as the layer's failures. -/
def layerPass (l : CodeLayer) (cap : Nat) (flag : Nat → Bool) (cs : List Codeword) (x : Decoding) : Decoding :=
  let mine := cs.filter fun w => w.layer == l
  let ok := mine.filter (decodes cap x.wrong flag)
  { x with
    wrong := x.wrong.filter fun i => !(ok.any fun w => w.bytes.contains i)
    failed := (x.failed.filter fun w => w.layer != l) ++ mine.filter fun w => !decodes cap x.wrong flag w }

/-- A byte of a codeword of a layer that failed. -/
def failedByte (x : Decoding) (l : CodeLayer) (i : Nat) : Bool := x.failed.any fun w => w.layer == l && w.bytes.contains i

/-- Codewords of a layer with a wrong byte, and those that failed. -/
def withErrors (l : CodeLayer) (cs : List Codeword) (x : Decoding) : Nat :=
  (cs.filter fun w => w.layer == l && w.bytes.any fun i => x.wrong.contains i).length
def failures (l : CodeLayer) (x : Decoding) : Nat := (x.failed.filter fun w => w.layer == l).length

/-- No byte is flagged. -/
def noFlag (_ : Nat) : Bool := false

/-- CIRC: C1 corrects 2 errors and flags the rest; C2 takes those flags and the erasures (Table 8.3). -/
def circ (er : Nat → Bool) (cs : List Codeword) (x : Decoding) : Decoding :=
  let a := layerPass .c1 4 noFlag cs x
  let b := layerPass .c2 4 (fun i => er i || failedByte a .c1 i) cs a
  let left := ((b.failed.filter fun w => w.layer == .c2).flatMap (·.bytes)).eraseDups.length
  { b with e := (withErrors .c1 cs x, withErrors .c2 cs a, left) }

/-- Up to 3 alternating P and Q passes, with the symbols that CIRC could not correct as erasures (Table 8.3). -/
def layered (cs : List Codeword) (x : Decoding) : Decoding :=
  let round (y : Decoding) : Decoding :=
    let p := layerPass .p 2 (failedByte y .c2) cs y
    layerPass .q 2 (failedByte p .c2) cs p
  round (round (round x))

/-- RS-PC: PI, PO with PI's flags and the erasures, and a second pass of each (Table 8.3). -/
def rspc (er : Nat → Bool) (cs : List Codeword) (x : Decoding) : Decoding :=
  let round (y : Decoding) : Decoding :=
    let p := layerPass .pi 10 noFlag cs y
    layerPass .po 16 (fun i => er i || failedByte p .pi i) cs p
  let first := layerPass .pi 10 noFlag cs x
  let z := round (round x)
  { z with e := (withErrors .pi cs x, failures .pi first, failures .po z) }

/-- The BIS columns of a BD frame's row of 155 bytes, and the LDC bytes between two of them. -/
def bisBetween (wrong : List Nat) (i : Nat) : Bool :=
  let r := i - i % 155
  let inErr (c : Nat) : Bool := wrong.contains (r + c)
  let c := i % 155
  (decide (38 < c) && decide (c < 77) && inErr 38 && inErr 77) || (decide (77 < c) && decide (c < 116) && inErr 77 && inErr 116)

/-- BIS first; where two neighbouring BIS symbols of a row were corrected, the LDC bytes between them are erasures; then LDC
(Table 8.3). -/
def bdCode (er : Nat → Bool) (cs : List Codeword) (x : Decoding) : Decoding :=
  let a := layerPass .bis 32 er cs x
  let corrected := x.wrong.filter fun i => !a.wrong.contains i
  let z := layerPass .ldc 32 (fun i => er i || bisBetween corrected i) cs a
  { z with e := (a.wrong.length - z.wrong.length, corrected.length, failures .ldc z) }

/-- The decoders of a medium. -/
def decodeUnit (mi : Nat) (er : Nat → Bool) (cs : List Codeword) (wrong : List Nat) : Decoding :=
  match mi with
  | 0 => layered cs (circ er cs { wrong := wrong })
  | 1 => rspc er cs { wrong := wrong }
  | _ => bdCode er cs { wrong := wrong }

/-- A codeword decoded without failure: C1 and C2 are judged by what is wrong after every pass of the format (log entry 117). -/
def codewordGood (x : Decoding) (w : Codeword) : Bool :=
  match w.layer with
  | .c1 | .c2 => !(w.bytes.any fun i => x.wrong.contains i)
  | _ => !x.failed.contains w

/-- The blocks that fail their check: one of their codewords did not decode, or their EDC does not pass (R223). -/
def failedBlocks (x : Decoding) (u : UnitSignal) : List Nat :=
  ((List.range u.blocks.length).map (u.first + ·)).filter fun b =>
    u.edcBad.contains b || u.codewords.any fun w => w.blocks.contains b && !codewordGood x w

/-- The erasure flag of each place of a unit (R222). -/
def unitFlag (s : State) (mi first : Nat) : Nat → Bool := match getKey first s.chan.ring.units with
  | some a => erasedByte mi (erasedNow s) a
  | none => noFlag

/-- What the decoders make of a unit whose pinned bytes, if any, are reliable (R222, R223, R230). -/
def judgeUnit (s : State) (fixed : List Nat) (u : UnitSignal) : Decoding :=
  let mi := (s.disc.map fun d => (mediumIndex d).val).getD 0
  decodeUnit mi (unitFlag s mi u.first) u.codewords (u.wrong.filter fun i => !fixed.contains i)

/-! ### Measurements (R257 to R259, Table 9.5; log entry 118) -/

/-- Bytes of a unit flagged as erasures; on CD the unit's places follow those of two sectors. -/
def erasedCount (s : State) (mi first : Nat) : Nat :=
  let n := (unitBits mi - runInBits mi) / frameBits mi * frameBytes mi
  ((List.range n).filter fun i => unitFlag s mi first (if mi = 0 then 2 * n + i else i)).length

/-- Defect flag intervals that meet a unit's channel bits; one still open counts. -/
def defectCount (c : Channel) (mi first : Nat) : Nat :=
  match getKey first c.ring.units with
  | some a => ((c.flags ++ if c.defect then [(c.front.flagAt, c.pos)] else []).filter (meets (a, a + unitBits mi))).length
  | none => 0

/-- ASYM in 0.1 %: the centres are the means between the peaks above and those below; none where a kind of run is missing or the
longest runs have no amplitude. -/
def asymmetry (m : UnitMeter) : Option Int :=
  if m.longHiN = 0 ∨ m.longLoN = 0 ∨ m.shortHiN = 0 ∨ m.shortLoN = 0 then none
  else
    let hi := roundDiv m.longHi m.longHiN
    let lo := roundDiv m.longLo m.longLoN
    if hi = lo then none
    else some (roundDiv (500 * (hi + lo - roundDiv m.shortHi m.shortHiN - roundDiv m.shortLo m.shortLoN)) (hi - lo).natAbs)

/-- The root of the mean square of n values; none of none. -/
def rmsOf (squares n : Nat) : Option Nat := if n = 0 then none else some (isqrt (squares / n))

/-- The counts and measurements of a unit's first decoding. -/
def measure (s : State) (x : Decoding) (first : Nat) : ScanCounts :=
  let mi := (s.disc.map fun d => (mediumIndex d).val).getD 0
  let m := (getKey first s.chan.meters).getD {}
  let free := fun at_ => Config.unmeasured at_ first
  { e1 := x.e.1, e2 := x.e.2.1, e3 := x.e.2.2, erased := erasedCount s mi first
    jitter := (rmsOf m.jit2 m.edges).getD (free 0x10), asym := (asymmetry m).getD (free 0x12)
    feRms := ((rmsOf m.fe2 m.strobes).map (· / 256)).getD (free 0x14), teRms := ((rmsOf m.te2 m.strobes).map (· / 256)).getD (free 0x16)
    refl := if m.strobes = 0 then free 0x18 else (roundDiv (16 * m.sum) m.strobes).toNat, defects := defectCount s.chan mi first }

/-- The unit as the commands' meanings take it. -/
def unitRead (s : State) (x : Decoding) (lost : Bool) (u : UnitSignal) : UnitRead :=
  { first := u.first, blocks := u.blocks, failed := failedBlocks x u, lostSync := lost, recorded := u.recorded
    samplesWhole := samplesWhole ((s.disc.map fun d => (mediumIndex d).val).getD 0) s.chan u.first, layer := (s.disc.map fun d => layerOf d u.first).getD 0
    scan := measure s x u.first }

/-- The places of bytes in codewords that decoded. -/
def goodBytes (x : Decoding) (u : UnitSignal) : List Nat := ((u.codewords.filter (codewordGood x)).flatMap (·.bytes)).eraseDups

/-! ### Second look (R229, R230) -/

/-- The places of the bytes that PIN fixes: those of good codewords, the BIS symbols of BD, the checked ID and IED bytes of DVD. -/
def pinnedBytes (mi : Nat) (pin : BitVec 3) (good : List Nat) (u : UnitSignal) : List Nat :=
  ((if bit pin 0 then good else []) ++
    (if bit pin 2 then (if 2 ≤ mi then (u.codewords.filter fun w => w.layer == .bis).flatMap (·.bytes) else if mi = 1 then u.ids else [])
     else [])).eraseDups

/-- A frame's pinned bytes become channel levels: a byte is fixed only where the modulation state that enters it is known, from the sync
or from the byte before it (R229). Answers the place of each fixed level. -/
def fixBytes (mi : Nat) (u : UnitSignal) (fixed : List Nat) : Nat → Nat → Option Nat → List (Nat × Bool)
  | 0, _, _ => []
  | n + 1, i, st =>
    match st, fixed.contains i with
    | some q, true =>
      let (l, q') := Config.modulate mi q (byteAt u.bytes i)
      (l.zipIdx.map fun p => ((byteSpan mi 0 i).1 + p.2, p.1)) ++ fixBytes mi u fixed n (i + 1) (some q')
    | _, _ => fixBytes mi u fixed n (i + 1) none

/-- The fixed levels of a whole unit, by channel bit from its start (R229). -/
def fixedLevels (mi : Nat) (pin : BitVec 3) (u : UnitSignal) (fixed : List Nat) : List (Nat × Bool) :=
  (List.range (u.bytes.length / frameBytes mi)).flatMap fun r =>
    let o := runInBits mi + r * frameBits mi
    (if bit pin 1 then (Config.syncBits mi).zipIdx.map fun p => (o + p.2, p.1) else []) ++
      fixBytes mi u fixed (frameBytes mi) (r * frameBytes mi) (if bit pin 1 then some 0 else none)

/-- The sample at a place, between stored ones by the nearest. -/
def sampleAt (c : Channel) (a : Nat) : Int := (getKey a c.ring.samples).getD 0

/-- Timing estimated anew: within each sync frame, samples are taken at equal steps between the stored syncs (R230). -/
def retimed (mi : Nat) (c : Channel) (a : Nat) (n : Nat) : List Int :=
  (List.range n).map fun i =>
    let r := a + runInBits mi + i / frameBits mi * frameBits mi
    let near (x : Nat) : Nat := (c.ring.syncs.find? fun y => decide (x ≤ y + 64) && decide (y ≤ x + 64)).getD x
    let from_ := near r
    let upTo := near (r + frameBits mi)
    sampleAt c (from_ + (2 * (i % frameBits mi) * (upTo - from_) + frameBits mi) / (2 * frameBits mi))

/-- LMS over the fixed levels only: the error is taken against the target's level of five fixed levels in a row (R230). -/
def trainTaps (mi muEq : Nat) (target : List Int) (fix : Nat → Option Bool) : List Int → Nat → List Int → List Int → List Int
  | [], _, _, taps => taps
  | x :: r, i, xs, taps =>
    let xs := (x :: xs).take 15
    let w := (List.range 5).foldl (fun a j => match a, (if j ≤ i then fix (i - j) else none) with
      | some n, some b => some (n + if b then 2 ^ j else 0)
      | _, _ => none) (some 0)
    let taps := match w with
      | some n => adaptTaps muEq taps (levelOf mi target n - equalise taps xs) xs
      | none => taps
    trainTaps mi muEq target fix r (i + 1) xs taps

/-- The constrained detector over a whole unit: survivors keep all their levels (R229, R230). -/
def lookDetect (mi : Nat) (target taps : List Int) (fix : Nat → Option Bool) :
    List Int → Nat → List Int → List (Option (Nat × Nat)) → List Bool → List Bool
  | [], _, _, paths, out => out.reverse ++ (List.range 64).map fun j => (bestPath paths).testBit (63 - j)
  | x :: r, i, xs, paths, out =>
    let xs := (x :: xs).take 15
    let paths := viterbi mi target (fix i) paths (equalise taps xs)
    lookDetect mi target taps fix r (i + 1) xs paths (if 64 ≤ i then (bestPath paths).testBit 64 :: out else out)

/-- The target of a pass: pass 1 the CHANNEL target, on CD PR(1,2,1); pass 2 TARGET2 (R230). -/
def passTarget (mi pass : Nat) (p : ChannelProf) (l : SecondLookProf) : List Int :=
  if 2 ≤ pass then l.target2 else if mi = 0 then [1, 2, 1, 0, 0] else p.target

/-- A pass over the stored unit, on CD with the two sectors before it: the taps it trains and the levels it detects (R230). -/
def lookPass (s : State) (j : JobUnit) (pass : Nat) (u : UnitSignal) : JobUnit :=
  match s.disc with
  | none => j
  | some d =>
    let mi := (mediumIndex d).val
    let p := s.chan.inUse.getD (s.chan.prof.get (mediumIndex d))
    let l := s.chan.lookInUse.getD (s.chan.look.get (mediumIndex d))
    let fixed := pinnedBytes mi l.pin j.good u
    let levels := fixedLevels mi l.pin u fixed
    let fix (i : Nat) : Option Bool := (levels.find? fun x => x.1 == i).map (·.2)
    let span := (unitSpan mi s.chan u.first).getD (0, 0)
    let xs := retimed mi s.chan span.1 (span.2 - span.1)
    let t := passTarget mi pass p l
    let taps := trainTaps mi p.muEq t fix xs 0 [] j.taps
    { j with fixed := fixed, lookTaps := taps, lookBits := lookDetect mi t taps fix xs 0 [] [] [] }

end Sys2Proof.Machine
end

