-- ==== Sys2Proof/Machine/Reading.lean ====
section
/-! DEFINITION. Machine/Reading.lean: what reading commands do with the units of the medium: READ, READ RAW, VERIFY, SCAN,
SEALED READ, first decodings, second look, physical re-reads and slips (R108, R109, R114 to R116, R125, R126, R134, R219,
R223, R227 to R232, R251, R257, R325). -/
namespace Sys2Proof.Machine

/-- The recording units that hold a block of a range for which `want` holds (R129, R257). -/
def unitsFor (ub lba count : Nat) (want : Nat → Bool) : List JobUnit :=
  ((List.range (unitsTouched ub lba count)).map fun i => (lba / ub + i) * ub).filterMap fun first =>
    if (List.range ub).any fun j => decide (lba ≤ first + j) && decide (first + j < lba + count) && want (first + j)
    then some { first := first } else none

/-- The command on the mechanism begins to read its units (R129, R212, R219). -/
def startReading (s : State) (d : Desc) (units : List JobUnit) : State :=
  { (s.modJob fun j => { j with kind := .reading, units := units, next := lbaOf d.fld }) with
    chan := { s.chan with target := none, pinned := [], meters := [] } }

/-- The units a descriptor reads from the medium: those with a block that it names and the pen did not hold (R129). -/
def wantedUnits (s : State) (d : Desc) : List JobUnit :=
  match s.disc with
  | none => []
  | some di => unitsFor (discUnit di) (lbaOf d.fld) d.fld.count fun b => !(d.pins.any fun p => p.lba == b)

/-- A block is in a descriptor's range. -/
def named (d : Desc) (b : Nat) : Bool := decide (lbaOf d.fld ≤ b) && decide (b < lbaOf d.fld + d.fld.count)

/-- A unit decoded with no uncorrectable codeword (R125). -/
def clean (u : UnitRead) : Bool := u.failed.isEmpty && !u.lostSync && u.recorded

/-- A unit is uncorrectable for a descriptor (R223); for READ RAW only lost sync makes it so (R115). -/
def uncorrectable (d : Desc) (u : UnitRead) : Bool :=
  if d.op == .readRaw then u.lostSync else u.failed.any (named d)

/-- A READ RAW unit that carries residual errors (R115). -/
def residual (d : Desc) (u : UnitRead) : Bool := d.op == .readRaw && !u.failed.isEmpty

/-- Companion blocks of a unit that a READ, SEALED READ or VERIFY read go to the fold's partition (R125, R126). -/
def companions (s : State) (f : FoldId) (d : Desc) (u : UnitRead) (recovered : Bool) : State :=
  match d.op with
  | .read | .sealedRead | .verify => if clean u then penPlace s f u.first u.blocks (named d) recovered else s
  | _ => s

/-- How a reading command stands: all units good, one failed after good ones, or more to come (R108, R257). -/
def verdict (cont : Bool) : List JobUnit → Option Bool
  | [] => some true
  | u :: r => match u.st with
    | .good _ _ => verdict cont r
    | .failed _ _ _ => if cont then verdict cont r else some false
    | _ => none

/-- A unit needed second look or a re-read. -/
def unitRecovered (u : JobUnit) : Bool :=
  match u.st with
  | .good _ r => r
  | _ => false

/-- The status of a reading command with no failure (R109, R129). -/
def readStatus (j : Job) (d : Desc) : Status :=
  if j.units.any unitRecovered || d.pins.any (·.recovered) then .okRecovered else .ok

/-- A SEALED READ has all its ciphertext: it decrypts into the hold (R141, R325), and the mechanism is free. -/
def sealedReadWhole (s : State) (j : Job) (d : Desc) : State :=
  let t := openInto s (s.slot (slotIndex j.f d.fld.keySlot)) s.cph.aad s.cph.auxIn (delivered d j).flatten
  endJob t (readStatus j d) 0

/-! ### Buffers and the host (R108, R113, R130, Table 10.5, Table 11.2) -/

/-- Opcodes whose blocks go from their units through the working set. -/
def buffered (o : Op) : Bool :=
  match o with
  | .read | .readRaw | .verify | .sealedRead => true
  | _ => false

/-- Opcodes whose blocks leave the working set again, to the host or into the sealing engine. -/
def transferred (o : Op) : Bool :=
  match o with
  | .read | .readRaw | .sealedRead => true
  | _ => false

/-- The format decoders write a unit's named blocks into the working set. -/
def unitWrites (d : Desc) (u : UnitRead) : List MemOp :=
  if buffered d.op then
    (u.blocks.zipIdx.filter fun p => named d (u.first + p.2)).flatMap fun p =>
      setOps true engineMask d.bufs (p.1.length * (u.first + p.2 - lbaOf d.fld)) p.1.length
  else []

/-- Where block i of a descriptor's range lies while its blocks are `size` bytes: in its pin's pen buffer, or in the working set. -/
def blockSpans (d : Desc) (size i : Nat) : List (Nat × Nat) :=
  match d.pins.find? fun p => p.lba == lbaOf d.fld + i with
  | some p => [(penAddress p.buf p.lba, 2048)]
  | none => setSpans d.bufs (size / 4096 + 2) (size * i) size

/-- The reads that carry block i out: the fold's transfer, or the sealing engine's (Table 10.5). -/
def blockReads (s : State) (f : FoldId) (d : Desc) (size i : Nat) : List MemOp :=
  let mask := if d.op == .sealedRead then engineMask else foldMask s f
  (blockSpans d size i).map fun p => { write := false, mask := mask, at_ := p.1, n := p.2 }

/-- Bytes as stretches of memory deliver them. -/
def asSpans (e : Ecc) : List (Nat × Nat) → List Byte → List Byte
  | [], l => l
  | (a, n) :: r, l => asStored e a (l.take n) ++ asSpans e r (l.drop n)

/-- Blocks leave in address order, up to the first that memory has spoilt (R108, R114, R130, Table 11.2). -/
def sendBlocks (f : FoldId) (d : Desc) (size : Nat) : List Block → Nat → State → State
  | [], _, s => s
  | b :: r, i, s =>
    let (t, bad) := memRun s (blockReads s f d size i)
    if bad then t.modJob fun x => { x with memFail := some (lbaOf d.fld + i) }
    else
      let c := asSpans t.ecc (blockSpans d size i) b
      sendBlocks f d size r (i + 1) (t.modJob fun x =>
        { x with sent := i + 1, altered := if c = b then x.altered else putKey (lbaOf d.fld + i) c x.altered })

/-- The blocks confirmed since the last time are transferred. -/
def sendOut (s : State) : State :=
  match jobDesc s with
  | none => s
  | some (j, d) =>
    let l := delivered d j
    if j.kind == .reading && transferred d.op then sendBlocks j.f d ((l.map List.length).headD 0) (l.drop j.sent) j.sent s else s

/-- A reading command ends when its verdict is known. -/
def judgeReading (s : State) : State :=
  let s := sendOut s
  match jobDesc s with
  | none => s
  | some (j, d) =>
    if j.kind != .reading then s
    else if j.memFail.isSome then stopJob s .memoryFault
    else match verdict (d.op == .scan && bit d.fld.opfield 5) j.units with
      | none => s
      | some true => if d.op == .sealedRead then sealedReadWhole s j d else stopJob s (readStatus j d)
      | some false => stopJob s .unreadable

/-- A merge read of a rewritable WRITE ends: the unit is there to be merged, or the command fails (R251). -/
def judgeMerge (s : State) : State :=
  match jobDesc s with
  | none => s
  | some (j, _) =>
    if j.kind != .writing then s
    else if j.units.any fun u => match u.st with
        | .failed _ _ _ => true
        | _ => false
      then stopJob s .writeFailed else s

/-- What follows when a unit settles. -/
def judge (s : State) : State := judgeMerge (judgeReading s)

/-- A unit leaves the ring's pinned units (R228). -/
def unpin (s : State) (first : Nat) : State := { s with chan := { s.chan with pinned := without first s.chan.pinned } }

/-- Units a reading command may re-read, and whether it may use second look; a merge read has second look and 2 re-reads
(R109, R227, R251). -/
def rereadBudget (j : Job) (d : Desc) : Nat := if j.kind == .writing then 2 else rereadsOf d
def mayLook (j : Job) (d : Desc) : Bool := j.kind == .writing || !noSecondOf d

/-- PASSES for the loaded medium, of the profile in force since the last acquisition (Table 8.6, R235). -/
def passesOf (s : State) : Nat :=
  match s.disc with
  | none => 0
  | some di => (s.chan.lookInUse.getD (s.chan.look.get (mediumIndex di))).passes

/-- What a merge read or a command finds wrong with a unit: a merge read needs every block (R251; log entry 36). -/
def unitBad (j : Job) (d : Desc) (u : UnitRead) : Bool :=
  if j.kind == .writing then !u.failed.isEmpty || u.lostSync else uncorrectable d u

/-- A unit is to be read again, with n re-reads left (R109); the new read has its own sync (R220). -/
def reread (n : Nat) (x : JobUnit) : JobUnit := { x with st := .rereading n, lostSync := false }

/-- An uncorrectable unit goes to physical re-reads, or is given up (R109). -/
def toRereads (s : State) (j : Job) (d : Desc) (u : UnitRead) : State :=
  s.modUnit u.first fun x => if 0 < rereadBudget j d then reread (rereadBudget j d) x
                             else { x with st := .failed u.blocks u.failed u.lostSync }

/-- A unit's decoding ends what acquisition aimed at it; what the unit was pinned by, and its slips, stay with it. -/
def endUnit (s : State) (first : Nat) : State :=
  { s with chan := { s.chan with target := if s.chan.target == some first then none else s.chan.target } }

/-- The unit has lost sync (R220). -/
def unitLost (j : Job) (first : Nat) : Bool := j.units.any fun x => x.first == first && x.lostSync

/-- A unit's blocks have passed: they go into the working set and its companions into the pen, and the command goes on; where memory
fails, the command completes with MEMORY_FAULT (R108, R125, R126, Table 11.2). -/
def unitConfirmed (s : State) (j : Job) (d : Desc) (u : UnitRead) (recovered : Bool) : State :=
  let s := s.modUnit u.first fun x => { x with st := .good u.blocks recovered }
  let (t, bad) := memRun s (unitWrites d u)
  if bad then stopJob (t.modJob fun x => { x with memFail := some (max u.first (lbaOf d.fld)) }) .memoryFault
  else judge (companions t j.f d u recovered)

/-- UNIT_DECODE for a command (R109, R223, R227, R228). -/
def decodeForCommand (s : State) (j : Job) (d : Desc) (u : UnitRead) : State :=
  let s := (endUnit s u.first).modUnit u.first fun x => { x with meas := some u, tick := s.kpr.tick, layer := u.layer }
  if unitBad j d u then
    if mayLook j d && u.samplesWhole && passesOf s != 0 && decide (s.chan.pinned.length < 2) then
      { (s.modUnit u.first fun x => { x with st := .looking 1 }) with
        chan := { s.chan with pinned := s.chan.pinned ++ [u.first] } }
    else judge (toRereads s j d u)
  else if residual d u && decide (0 < rereadBudget j d) then
    s.modUnit u.first (reread (rereadBudget j d))
  else
    unitConfirmed s j d u false

/-- A read-ahead unit: clean ones are placed, every other is discarded whole; the action ends with its last unit (R126,
R134). -/
def decodeForSpeculation (s : State) (j : Job) (f : FoldId) (u : UnitRead) : State :=
  let s := endUnit s u.first
  let t := if clean u then penPlace s f u.first u.blocks (fun _ => false) false else s
  let rest := j.units.filter fun x => x.first != u.first
  if rest.isEmpty then { t with job := none } else { t with job := some { j with units := rest } }

/-- The unit of a job that begins at an LBA and stands in a state. -/
def unitIn (j : Job) (first : Nat) (p : UnitState → Bool) : Bool := j.units.any fun x => x.first == first && p x.st

/-- Bronze decodes a unit: the samples that came with it are taken first; on a unit of the job, what decoded and the taps it was read with
are kept (R222, R223, R230). -/
def takeUnit (g : UnitSignal) (s : State) : UnitRead × State :=
  let s := channelRun s g.rf
  let x := judgeUnit s [] g
  (unitRead s x ((s.job.map fun j => unitLost j g.first).getD false) g,
    s.modUnit g.first fun y => if unitWanted y then { y with good := goodBytes x g, taps := s.chan.taps } else y)

/-- UNIT_DECODE: the first decoding of a unit that is being read (R223). -/
def execUnitDecode (g : UnitSignal) (s : State) : Answer :=
  let (u, s) := takeUnit g s
  .next (match s.job with
  | none => s
  | some j => match j.kind with
    | .speculation f => if j.units.any fun x => x.first == u.first then decodeForSpeculation s j f u else s
    | .moving => s
    | .reading | .writing =>
      match jobDesc s with
      | none => s
      | some (j, d) => if unitIn j u.first (· == .waiting) then decodeForCommand s j d u else s)

/-- The lines of a stored unit's samples with an uncorrectable word. -/
def spoiltLines (s : State) (first : Nat) : List Nat :=
  match unitSpan ((s.disc.map fun d => (mediumIndex d).val).getD 0) s.chan first with
  | some (a, b) => ((s.ecc.sdram.filter fun x => inRing x.1 && (decodeWord x.2).bad && wordMeets (a / 16) ((b - 1) / 16) x.1).map (·.1 / 8)).eraseDups
  | none => []

/-- A unit's stored samples hold an uncorrectable word. -/
def lookSpoilt (s : State) (first : Nat) : Bool := !(spoiltLines s first).isEmpty

/-- A unit's first decoding. -/
def measOf (x : JobUnit) : UnitRead :=
  x.meas.getD { first := x.first, blocks := [], failed := [], lostSync := false, recorded := true, samplesWhole := false, layer := 0, scan := {} }

/-- An uncorrectable error in a unit's samples: it is reported, the unit's second look ends, and it goes to re-reads (Table 11.2). -/
def spoilLook (s : State) (j : Job) (d : Desc) (x : JobUnit) : State :=
  let t := (spoiltLines s x.first).foldl (fun t l => eccUncorr t 2 0 false false l) s
  judge (toRereads (unpin t x.first) j d (measOf x))

/-- A second-look pass over a unit: what it fixes, trains and detects, and the decoding with the fixed bytes as reliable (R229, R230). -/
def takePass (g : UnitSignal) (y : JobUnit) (pass : Nat) (s : State) : UnitRead × State :=
  let y := lookPass s y pass g
  let x := judgeUnit s y.fixed g
  (unitRead s x y.lostSync g, s.modUnit g.first fun _ => { y with good := (y.good ++ goodBytes x g).eraseDups })

/-- SECOND_LOOK_PASS_END: the unit is recovered, or goes to the next pass or to re-reads (R230, R232). -/
def execSecondLookPassEnd (g : UnitSignal) (s : State) : Answer :=
  .next (match jobDesc s with
  | none => s
  | some (j, d) =>
    match j.units.find? fun x => x.first == g.first with
    | none => s
    | some x => match x.st with
      | .looking p =>
        if lookSpoilt s x.first then spoilLook s j d x
        else
        let (u, s) := takePass g x p s
        if !unitBad j d u then
          unitConfirmed (unpin s u.first) j d u true
        else if p < passesOf s then s.modUnit u.first fun x => { x with st := .looking (p + 1) }
        else judge (toRereads (unpin s u.first) j d u)
      | _ => s)

/-- PHYSICAL_REREAD: a first decoding only; the last one decides (R109, R115, R232). -/
def execPhysicalReread (g : UnitSignal) (s : State) : Answer :=
  let (u, s) := takeUnit g s
  .next (match jobDesc s with
  | none => s
  | some (j, d) =>
    match j.units.find? fun x => x.first == u.first with
    | none => s
    | some x => match x.st with
      | .rereading n =>
        let s := endUnit s u.first
        if !unitBad j d u && !residual d u then
          unitConfirmed s j d u true
        else if 1 < n then s.modUnit u.first (reread (n - 1))
        else if !unitBad j d u then unitConfirmed s j d u false
        else judge (s.modUnit u.first fun x => { x with st := .failed u.blocks u.failed u.lostSync })
      | _ => s)

/-- A unit has lost sync: it is given up at once (R219). -/
def loseSync (s : State) (u : JobUnit) : State :=
  match s.job with
  | some j => match j.kind with
    | .speculation _ =>
      let rest := j.units.filter fun x => x.first != u.first
      if rest.isEmpty then { s with job := none } else { s with job := some { j with units := rest } }
    | _ => judge ((unpin s u.first).modUnit u.first fun x => { x with
        st := .failed [] [] true, tick := s.kpr.tick, layer := (s.disc.map fun d => layerOf d u.first).getD 0 })
  | none => s

/-- SLIP: the target's first sync passed the spot before lock: one more revolution; after 3 slips on a unit it has lost sync (R219). -/
def slipUnit (s : State) : State :=
  match s.job, s.chan.target with
  | some j, some first =>
    match j.units.find? fun u => u.first == first with
    | none => s
    | some u =>
      if !(s.chan.passed && s.chan.acq == .acquiring && unitWanted u) then s
      else
        let t := s.modUnit first fun x => { x with slipped := true, slips := x.slips + 1 }
        let t := { t with chan := { t.chan with acq := .off, target := none, passed := false } }
        if u.slips + 1 < 3 then t else loseSync t u
  | _, _ => s

def execSlip (rf : List RfSample) (s : State) : Answer := .next (slipUnit (channelRun s rf))

/-! ### The reading opcodes -/

/-- A READ that the pen serves wholly: its copies are read for the host in address order, and an uncorrectable error in one of them stops it
(R129, R130). -/
def pinsGo (f : FoldId) (d : Desc) : Nat → Nat → State → State × List Byte × Option Nat
  | 0, _, s => (s, [], none)
  | n + 1, i, s =>
    let (t, bad) := memRun s (blockReads s f d 2048 i)
    if bad then (t, [], some (lbaOf d.fld + i))
    else
      let b := (d.pins.find? fun p => p.lba == lbaOf d.fld + i).map (·.data)
      let (u, l, e) := pinsGo f d n (i + 1) t
      (u, asSpans t.ecc (blockSpans d 2048 i) (b.getD []) ++ l, e)

def pinsRead (s : State) (f : FoldId) (k : Nat) (d : Desc) : State :=
  let (t, l, e) := pinsGo f d d.fld.count 0 s
  match e with
  | none => finish (deliver t f k l) f k (if d.pins.any (·.recovered) then .okRecovered else .ok) l.length
  | some b => finish ((deliver t f k l).modDesc f k fun d => { d with failLba := some b }) f k .memoryFault l.length

/-- READ: from the pen wholly, or from the medium and the pen (R114, R129). -/
def execRead (f : FoldId) (k : Nat) (s : State) : Answer :=
  .next (match runningAs s f k .read with
  | some d => pinsRead s f k d
  | none => match dispatchedAs s f k .read with
    | some d => judgeReading (startReading s d (wantedUnits s d))
    | none => s)

/-- READ RAW: always from the medium (R115, R128). -/
def execReadRaw (f : FoldId) (k : Nat) (s : State) : Answer :=
  .next (match dispatchedAs s f k .readRaw with
  | some d => judgeReading (startReading s d (wantedUnits s d))
  | none => s)

/-- VERIFY: as READ, and nothing goes to the list (R114, R128). -/
def execVerify (f : FoldId) (k : Nat) (s : State) : Answer :=
  .next (match dispatchedAs s f k .verify with
  | some d => judgeReading (startReading s d (wantedUnits s d))
  | none => s)

/-- SCAN: one record for each unit that holds a block of the range (R257 to R259). -/
def execScan (f : FoldId) (k : Nat) (s : State) : Answer :=
  .next (match dispatchedAs s f k .scan with
  | some d => judgeReading (startReading s d (wantedUnits s d))
  | none => s)

/-- A sealed disc command fails at its start: its slot is EMPTY or spent, or the engine is disabled (R314, R324). -/
def sealedStop (s : State) (f : FoldId) (k : Nat) (st : Status) : State :=
  if (jobOf s f k).isSome then endJob s st 0 else finish s f k st 0

/-- SEALED READ once it holds the lock (R314, R325): from the pen wholly it decrypts at once, else it reads its units. -/
def sealedReadRun (f : FoldId) (k : Nat) (d : Desc) (aad aux : List Byte) (s : State) : State :=
  let key := s.slot (slotIndex f d.fld.keySlot)
  if key.st = .empty then sealedStop s f k .noKey
  else
    let t := { s with cph := { s.cph with aad := fit d.fld.aadLen aad, auxIn := fit 32 aux } }
    if (jobOf s f k).isSome then judgeReading (startReading t d (wantedUnits t d))
    else
      let (u, l, e) := pinsGo f d d.fld.count 0 t
      match e with
      | none => openInto u key u.cph.aad u.cph.auxIn l
      | some b => sealedStop (u.modDesc f k fun d => { d with failLba := some b }) f k .memoryFault

/-- SEALED READ: the drover asks for the lock of a dispatched one, its fold for one that the pen serves (R316, R317). -/
def execSealedRead (f : FoldId) (k : Nat) (aad aux : List Byte) (s : State) : Answer :=
  .next (match dispatchedAs s f k .sealedRead with
  | some d =>
    if s.cph.disabled then sealedStop s f k .cipherFault else withLock s 9 f k (sealedReadRun f k d aad aux)
  | none => match sealRunning s f k .sealedRead with
    | some d =>
      if s.cph.disabled then sealedStop s f k .cipherFault else withLock s f.val f k (sealedReadRun f k d aad aux)
    | none => s)

end Sys2Proof.Machine
end

