-- ==== Sys2Proof/Machine/Writing.lean ====
section
/-! DEFINITION. Machine/Writing.lean: recording: WRITE and SEALED WRITE, host data, strategy tables, OPC and running OPC, the
laser driver's serial port, underruns, units recorded, read-back and replacement (R236 to R254, R326). -/
namespace Sys2Proof.Machine

def evLdsFault : Nat := 0x0770
def evPcaFull : Nat := 0x0771

/-- f = 1.0 in the model's units of 2⁻²⁸. -/
def one28 : Int := 2 ^ 28

/-! ### Speed class and strategy (R54, R189, R236, R245) -/

/-- A built-in strategy table (R245), its fields moved into the ranges of Table 9.2. -/
def builtinTable (d : DiscInfo) (layer cls : Nat) : Strategy :=
  let g := Config.builtinStrategy (mediumCode d.medium) layer cls
  let entry (i : Nat) : List Half :=
    let e : List Half := (List.range 8).map fun j => BitVec.ofNat 16 (g (100 + 8 * i + j))
    if entryOk (g 0 % 8) e then e else [0x8000]
  { medium := mediumCode d.medium, layer := layer, class_ := cls, spaceCode := g 0 % 8, mid := 0
    levels := (List.range 7).map fun i => (g (1 + i) % 128, g (11 + i) % 65536)
    valueMax := g 20 % 65536, opcMethod := g 21 % 2, opcSteps := clampN 5 15 (g 22), opcSpan := clampN 5 40 (g 23)
    target := int16 (g 24), kappa := clampN 0x1000 0x2000 (g 25), runGain := min 0x8000 (g 26), runLimit := clampN 1 20 (g 27)
    entries := (List.range 64).map entry }

/-- The table for a write: a loaded one with matching MID, one with MID 0, the built-in one (R245). -/
def strategyFor (s : State) (d : DiscInfo) (layer cls : Nat) : Strategy :=
  let fits (t : Strategy) := t.medium == mediumCode d.medium && (t.layer == layer || t.layer == 255) && t.class_ == cls
  ((s.recd.strategies.find? fun t => fits t && t.mid == d.mid && t.mid != 0).orElse fun _ =>
    s.recd.strategies.find? fun t => fits t && t.mid == 0).getD (builtinTable d layer cls)

/-- The layer, class and table of the unit a recording records next. -/
def writeSetup (s : State) (j : Job) (d : DiscInfo) : Nat × Nat × Strategy :=
  let layer := layerOf d j.next
  let cls := classFor s j.f d true
  (layer, cls, strategyFor s d layer cls)

/-- The calibration record of a disc, layer and class. -/
def opcOf (s : State) (d : DiscInfo) (layer cls : Nat) : Option OpcRec :=
  s.recd.opc.find? fun o => o.disc == d.discId && o.layer == layer && o.class_ == cls

/-- Put a calibration record in place of the one for its disc, layer and class. -/
def setOpc (s : State) (o : OpcRec) : State :=
  { s with recd := { s.recd with opc :=
      (s.recd.opc.filter fun x => !(x.disc == o.disc && x.layer == o.layer && x.class_ == o.class_)) ++ [o] } }

/-- OPC is called for before the next unit (R246). -/
def opcDue (s : State) (j : Job) : Bool :=
  match s.disc with
  | none => false
  | some d =>
    let (layer, cls, _) := writeSetup s j d
    match opcOf s d layer cls with
    | none => true
    | some o => o.due || (rewritable d.medium && decide (64 < (s.servo.samples.get 9 - o.puTemp).natAbs))

/-- VALUE_k × f, rounded and clamped to VALUE_MAX (R246). -/
def scaledValue (t : Strategy) (f : Int) (v : Nat) : Nat := min t.valueMax (roundDiv (v * f) (2 ^ 28)).toNat

/-- The serial writes that put a table's levels into force at a factor f (R242). -/
def levelWrites (t : Strategy) (f : Int) : List (Nat × Nat) :=
  (t.levels.filter fun l => l.1 != 0).map fun l => (l.1, scaledValue t f l.2)

/-- Ask for the serial writes of the next unit's levels (R242). -/
def askLevels (s : State) (t : Strategy) (f : Int) : State :=
  let l := levelWrites t f
  { (s.modJob fun j => { j with lds := l, ldsTry := false }) with recd := { s.recd with values := l } }

/-! ### Whether the next unit may be recorded -/

/-- The unit that holds a recording's next block: its first block, and the first block past it or past the range. -/
def nextUnit (s : State) (j : Job) : Nat × Nat :=
  let ub := match s.disc with
    | some d => discUnit d
    | none => 1
  let u := j.next / ub * ub
  (u, u + ub)

/-- VERIFY_AFTER and NO_REPLACE of a WRITE (Table 4.6). -/
def verifyAfter (d : Desc) : Bool := d.op == .write && !d.mmc && bit d.fld.opfield 0
def noReplace (d : Desc) : Bool := d.op == .write && !d.mmc && bit d.fld.opfield 1

/-- A run of recorded units is to be read back before more is recorded (R253). -/
def readbackDue (s : State) (j : Job) (d : Desc) : Bool :=
  let ub := match s.disc with
    | some x => discUnit x
    | none => 1
  verifyAfter d && !j.unverified.isEmpty &&
    (decide (j.last < j.next) || decide (min d.fld.count 128 ≤ j.unverified.length * ub))

/-- The next unit's data is in pool buffers (R250). -/
def dataReady (s : State) (j : Job) (d : Desc) : Bool :=
  decide (min (nextUnit s j).2 (j.last + 1) ≤ lbaOf d.fld + j.data.length)

/-- A unit's merge read, where it has one, has settled (R251). -/
def mergeReady (s : State) (j : Job) : Bool :=
  j.units.all fun u => u.first != (nextUnit s j).1 || unitGood u

/-- The next unit may be recorded: nothing of OPC, the serial port, merging, data or read-back stands before it. -/
def unitReady (s : State) (j : Job) (d : Desc) : Bool :=
  j.kind == .writing && !j.ended && j.stopWith.isNone && decide (j.next ≤ j.last) && j.lds.isEmpty && !opcDue s j &&
    dataReady s j d && mergeReady s j && !readbackDue s j d

/-- Recording may begin: LD_EN is 1, no HALT is in force, and an address has been accepted (R237, R238). -/
def beamReady (s : State) : Bool := s.servo.ldEn && !s.halt.inHalt && s.chan.accepted

/-- While recording, the channel bit period comes from the wobble PLL (R237). -/
def wobbleClock (c : Channel) : Channel := { idleChannel c with ref := .wobble, hz := c.wobbleHz.getD c.hz, pinned := c.pinned }

/-- WGATE falls between units. -/
def lowerGate (s : State) : State :=
  if s.servo.wgate then { s with servo := { s.servo with wgate := false } }.emit (.wgate false) else s

/-- WGATE is high only while LD_EN is 1, no HALT is in force and a unit is being recorded; recording starts at an accepted
address (R237, R238; log entry 35). -/
def settleGate (s : State) : State :=
  match jobDesc s with
  | none => s
  | some (j, d) =>
    if unitReady s j d then
      if !s.servo.wgate && beamReady s then
        { s with servo := { s.servo with wgate := true }, chan := wobbleClock s.chan }.emit (.wgate true)
      else s
    else lowerGate s

/-! ### WRITE and SEALED WRITE -/

/-- Units of a rewritable WRITE that its range covers in part (R251). -/
def mergeUnits (d : DiscInfo) (lba count : Nat) : List JobUnit :=
  if !rewritable d.medium || count = 0 then []
  else
    let ub := discUnit d
    let a := lba / ub * ub
    let z := (lba + count - 1) / ub * ub
    let first := if lba % ub ≠ 0 ∨ lba + count < a + ub then [a] else []
    let last := if (lba + count) % ub ≠ 0 then [z] else []
    ((first ++ last).foldl (fun l x => if l.contains x then l else l ++ [x]) []).map fun x => { first := x }

/-- A recording begins: its merge reads, and its levels unless OPC is still to set them (R242, R246, R251). -/
def startWriting (s : State) (di : DiscInfo) (d : Desc) (data : List Block) : State :=
  let lba := lbaOf d.fld
  let t := s.modJob fun j => { j with kind := .writing, next := lba, last := lba + d.fld.count - 1, data := data
                                      units := mergeUnits di lba d.fld.count }
  match t.job with
  | none => t
  | some j =>
    let (layer, cls, tab) := writeSetup t j di
    let t := { t with spindle := { t.spindle with class_ := some cls } }
    if opcDue t j then t else settleGate (askLevels t tab (((opcOf t di layer cls).map (·.f)).getD one28))

/-- WRITE (R114, R236, R456); a range that earlier recording has made unwritable is OUT_OF_RANGE (log entry 37). -/
def execWrite (f : FoldId) (k : Nat) (s : State) : Answer :=
  .next (match dispatchedAs s f k .write, s.disc with
  | some d, some di =>
    if writeRangeOk di (lbaOf d.fld) d.fld.count then startWriting s di d [] else endJob s .outOfRange 0
  | _, _ => s)

/-- Bytes cut into blocks of 2048. -/
def blocksOf : Nat → List Byte → List Block
  | 0, _ => []
  | n + 1, l => l.take 2048 :: blocksOf n (l.drop 2048)

/-- The lock of a SEALED WRITE is released when its last unit has been encrypted, before that unit is recorded (Table 12.2). -/
def sealedWriteLock (s : State) : State :=
  match jobDesc s with
  | some (j, d) =>
    if d.op == .sealedWrite && lockHeldBy s j.f j.k && decide (j.last < (nextUnit s j).2) then releaseLock s else s
  | none => s

/-- SEALED WRITE once it holds the lock: a counter value is taken, the payload is sealed, recording begins (R313, R314, R325). -/
def sealedWriteRun (f : FoldId) (k : Nat) (d : Desc) (di : DiscInfo) (aad plain : List Byte) (s : State) : State :=
  let i := slotIndex f d.fld.keySlot
  let s := markSpent s i
  match counterCheck (s.slot i) with
  | .stop st => endJob s st 0
  | .waits => waitReserve s f k
  | .value c =>
    let key := s.slot i
    let nonce := nonceOf key.salt c
    let (cipher, tag) := gcmSeal key.key nonce (fit d.fld.aadLen aad) (fit (2048 * d.fld.count) plain)
    let t := (takeCounter s i).modDesc f k fun d => { d with counter := some c, nonceOut := nonce ++ tag }
    let (t, bad) := memRun t (setOps true engineMask d.bufs 0 (2048 * d.fld.count))
    if bad then releaseLock (endJob t .memoryFault 0) else
    sealedWriteLock (startWriting t di d (blocksOf d.fld.count cipher))

/-- SEALED WRITE (R114, R314, R316, R325). -/
def execSealedWrite (f : FoldId) (k : Nat) (aad plain : List Byte) (s : State) : Answer :=
  .next (match dispatchedAs s f k .sealedWrite, s.disc with
  | some d, some di =>
    if s.cph.disabled then endJob s .cipherFault 0
    else if !writeRangeOk di (lbaOf d.fld) d.fld.count then endJob s .outOfRange 0
    else withLock s 9 f k (sealedWriteRun f k d di aad plain)
  | _, _ => s)

/-- The reads of some of a list's bytes, from an offset in it (R82, R103). -/
def listReadsAt (s : State) (f : FoldId) : List (Nat × Nat) → Nat → Nat → List Out
  | [], _, _ => []
  | (a, n) :: r, off, l =>
    if l = 0 then []
    else if n ≤ off then listReadsAt s f r (off - n) l
    else readsFor s f (a + off) (min l (n - off)) ++ listReadsAt s f r 0 (l - min l (n - off))

/-- HOST_DATA_READ: the key of a VAULT GET in step 1; or write data, which arrives in order: a read that fails ends the write at the
last whole unit, and AER reports it (R103, R250). -/
def execHostDataRead (f : FoldId) (k : Nat) (r : ReadResult (List Byte)) (s : State) : Answer :=
  .next (match s.desc? f k with
  | none => s
  | some d =>
    if d.stage == .vaultKey then vaultKeyRead s f k d r
    else match jobOf s f k with
      | none => s
      | some j =>
        let left := d.fld.count - j.data.length
        if j.kind != .writing || d.op != .write || left = 0 then s
        else match r with
          | .failed => stopAtBoundary (aerReport (s.emits (listReadsAt s f d.list (2048 * j.data.length) 2048)) f) .writeFailed
          | .ok l =>
            let n := min (l.length / 2048) left
            let t := s.emits (listReadsAt s f d.list (2048 * j.data.length) (2048 * n))
            let (t, bad) := memRun t (setOps true (foldMask t f) d.bufs (2048 * j.data.length) (2048 * n))
            if bad then stopAtBoundary t .memoryFault
            else settleGate (t.modJob fun j => { j with data := j.data ++ blocksOf n l, waitingData := false }))

/-- UNDERRUN: the next unit's data is not ready: Lorvaus links at the current unit's end and waits on track (R249, R250). -/
def execUnderrun (s : State) : Answer :=
  .next (match jobDesc s with
  | none => s
  | some (j, d) =>
    if j.kind == .writing && decide (j.next ≤ j.last) && !dataReady s j d && !j.waitingData then
      lowerGate (s.modJob fun j => { j with underruns := j.underruns + 1, links := j.links + 1, waitingData := true })
    else s)

/-! ### Optimum power calibration (R246, R247) -/

/-- f_i of a calibration run around a centre (R246, R247), in 2⁻²⁸. -/
def opcFactor (t : Strategy) (centre : Int) (i : Nat) : Int :=
  let n := max 2 t.opcSteps
  centre + roundDiv (((2 * i : Nat) - (n - 1 : Nat) : Int) * t.opcSpan * one28) (100 * (n - 1))

/-- The first adjacent pair that brackets TARGET: its index and results. -/
def bracket (target : Int) : Nat → List Int → Option (Nat × Int × Int)
  | i, a :: b :: r =>
    if (a ≤ target ∧ target ≤ b) ∨ (b ≤ target ∧ target ≤ a) then some (i, a, b) else bracket target (i + 1) (b :: r)
  | _, _ => none

/-- What a run's steps give, in 0.001: β = (A1 + A2) / (A1 − A2), or γ = (dm/dP) × (P/m), with the slope taken between a step's neighbours
(R246; log entry 119). -/
def opcResults (t : Strategy) (centre : Int) (l : List OpcStep) : List Int :=
  let l := l.take t.opcSteps
  let m (i : Nat) : Int := (l[i]?.map (·.m)).getD 0
  l.zipIdx.map fun p =>
    if t.opcMethod = 0 then signedDiv (1000 * (p.1.a1 + p.1.a2)) (p.1.a1 - p.1.a2)
    else
      let a := p.2 - 1
      let b := min (p.2 + 1) (l.length - 1)
      signedDiv (1000 * (m b - m a) * opcFactor t centre p.2) ((opcFactor t centre b - opcFactor t centre a) * p.1.m)

/-- The serial frames that put levels into force (R241). -/
def ldsFrames (s : State) (l : List (Nat × Nat)) : List Out :=
  l.map fun x => .lds s.recd.lds.div (BitVec.ofNat 24 (x.1 % 128 * 2 ^ 16 + x.2 % 65536))

/-- A run records its test partitions: step i with every VALUE_k scaled by f_i, WGATE high while it is recorded (R238, R246). The seek to
the power calibration area and back leaves no accepted address. -/
def recordOpc (s : State) (t : Strategy) (centre : Int) : State :=
  let step (i : Nat) : List Out := ldsFrames s (levelWrites t (opcFactor t centre i)) ++ [.wgate true, .wgate false]
  { (s.emits ((List.range t.opcSteps).flatMap step)) with
    chan := { wobbleClock s.chan with accepted := false, flywheel := none, far := none } }

/-- f from a run's results: linear between the bracketing steps, times KAPPA under the gamma method (R246). -/
def opcResult (t : Strategy) (centre : Int) (results : List Int) : Option Int :=
  match bracket t.target 0 (results.take t.opcSteps) with
  | none => none
  | some (i, a, b) =>
    let fa := opcFactor t centre i
    let fb := opcFactor t centre (i + 1)
    let f := if a = b then fa
      else if a < b then fa + roundDiv ((t.target - a) * (fb - fa)) (b - a).toNat
      else fa + roundDiv ((a - t.target) * (fb - fa)) (a - b).toNat
    some (if t.opcMethod = 1 then roundDiv (f * t.kappa) 4096 else f)

/-- The centre of the repeat: the step whose result is nearest TARGET (R247). -/
def opcNearest (t : Strategy) (results : List Int) : Int :=
  match (results.take t.opcSteps).zipIdx.foldl (fun (b : Option (Nat × Nat)) p =>
      let e := (p.1 - t.target).natAbs
      match b with
      | none => some (p.2, e)
      | some (i, x) => if e < x then some (p.2, e) else some (i, x)) none with
  | none => one28
  | some (i, _) => opcFactor t one28 i

/-- A run takes its test partitions: on write-once media OPC_STEPS unused ones of the layer, or none is recorded (R247). -/
def takePartitions (d : DiscInfo) (layer n : Nat) : Option DiscInfo :=
  if !writeOnce d.medium then some d
  else
    let left := d.pca.getD layer 0
    if left < n then none else some { d with pca := d.pca.set layer (left - n) }

/-- PCA_FULL, once a load (R247, Table 9.7). -/
def notePcaFull (s : State) (layer cls : Nat) : State :=
  if s.recd.pcaFull then s
  else postEvent { s with recd := { s.recd with pcaFull := true } } 0 evPcaFull (w32 (layer % 4 + 256 * (cls % 4)))

/-- A calibration has ended with a factor: it is kept, and its levels are to be sent (R242, R246). -/
def opcEnds (s : State) (d : DiscInfo) (layer cls : Nat) (t : Strategy) (f : Int) : State :=
  settleGate (askLevels (setOpc s { disc := d.discId, layer := layer, class_ := cls, f := f, f0 := f,
                                    puTemp := s.servo.samples.get 9 }) t f)

/-- The factor used where no test partition is left: the last found in this load, or 1.0 (R247). -/
def lastFactor (s : State) (d : DiscInfo) (layer cls : Nat) : Int := ((opcOf s d layer cls).map (·.f)).getD one28

/-- OPC: a run, its repeat when nothing brackets TARGET, and WRITE_FAILED when that fails too; `first` and `again` are what
the runs measured (R246, R247). It runs between units, which takes a lossless link once recording has begun (R249). -/
def execOpc (first again : List OpcStep) (s : State) : Answer :=
  .next (match jobDesc s, s.disc with
  | some (j, _), some d =>
    if j.kind != .writing || !opcDue s j || j.stopWith.isSome || decide (j.last < j.next) || !beamReady s then s
    else
      let (layer, cls, t) := writeSetup s j d
      let s := lowerGate (s.modJob fun j => { j with links := if 0 < j.recorded then j.links + 1 else j.links })
      let ran (s : State) (d : DiscInfo) (centre : Int) : State :=
        recordOpc { (s.modJob fun j => { j with opcRuns := j.opcRuns + 1 }) with disc := some d } t centre
      let first := opcResults t one28 first
      match takePartitions d layer t.opcSteps with
      | none => opcEnds (notePcaFull s layer cls) d layer cls t (lastFactor s d layer cls)
      | some d1 =>
        let s1 := ran s d1 one28
        match opcResult t one28 first with
        | some f => opcEnds s1 d layer cls t f
        | none => match takePartitions d1 layer t.opcSteps with
          | none => opcEnds (notePcaFull s1 layer cls) d layer cls t (lastFactor s1 d layer cls)
          | some d2 =>
            let c := opcNearest t first
            let s2 := ran s1 d2 c
            match opcResult t c (opcResults t c again) with
            | some f => opcEnds s2 d layer cls t f
            | none => stopJob s2 .writeFailed
  | _, _ => s)

/-- LDS_TRANSACTION: the next level's serial write completes, and its read-back where READBACK is 1; a mismatch is retried
once, a second ends recording with LDS_FAULT (R241, R242). -/
def execLdsTransaction (addr : BitVec 7) (value back : Half) (s : State) : Answer :=
  .next (match jobDesc s with
  | none => s
  | some (j, _) =>
    match j.lds with
    | [] => s
    | (a, v) :: rest =>
      if j.kind != .writing || s.servo.wgate || a % 128 != addr.toNat || v % 65536 != value.toNat then s
      else
        let frame (rd : Bool) (x : Half) : Out :=
          .lds s.recd.lds.div (BitVec.ofNat 24 (b2n rd * 2 ^ 23 + addr.toNat * 2 ^ 16 + x.toNat))
        let s := s.emits (if s.recd.lds.readback then [frame false value, frame true back] else [frame false value])
        if !s.recd.lds.readback || back == value then settleGate (s.modJob fun j => { j with lds := rest, ldsTry := false })
        else if !j.ldsTry then s.modJob fun j => { j with ldsTry := true }
        else stopJob (postEvent s 0 evLdsFault (w32 addr.toNat)) .writeFailed)

/-! ### Units recorded, running OPC and the end of a write (R248 to R252) -/

/-- The blocks a unit is recorded with: the command's own, the merged unit's, or zeros (R251). -/
def unitBlocksOf (s : State) (j : Job) (d : Desc) : List Block :=
  let (u, z) := nextUnit s j
  let merged := j.units.findSome? fun x => if x.first == u then (match x.st with
    | .good bl _ => some bl
    | _ => none) else none
  (List.range (z - u)).map fun i =>
    let b := u + i
    if lbaOf d.fld ≤ b ∧ b ≤ j.last then j.data.getD (b - lbaOf d.fld) (zeros 2048)
    else (merged.bind fun bl => bl[i]?).getD (zeros 2048)

/-- Media to which running OPC applies (R248). -/
def runningOpcMedia (m : Medium) : Bool := writeOnce m

/-- One step of running OPC: f × (1 + RUN_GAIN × (ρ0 − ρ)/ρ0), the step clamped to ±2 %; free within that where ρ0 is 0 (R248; log entry
119). -/
def runningStep (t : Strategy) (o : OpcRec) (rho0 rho : Int) : Int :=
  let most := roundDiv o.f 50
  o.f + clampI (-most) most (signedDiv (o.f * (t.runGain * (rho0 - rho))) (16384 * rho0))

/-- Running OPC at a unit boundary; past RUN_LIMIT the change is not applied and OPC is called for (R248). -/
def runningOpc (s : State) (rho : Int) : State :=
  match jobDesc s, s.disc with
  | some (j, _), some d =>
    let (layer, cls, t) := writeSetup s j d
    match opcOf s d layer cls with
    | none => s
    | some o =>
      if !runningOpcMedia d.medium || t.runGain = 0 then s
      else match o.rho0 with
        | none => setOpc s { o with rho0 := some rho }
        | some r0 =>
          let f := runningStep t o r0 rho
          if (t.runLimit : Int) * o.f0 < 100 * ((f - o.f0).natAbs : Int) then setOpc s { o with due := true }
          else if f = o.f then s
          else askLevels (setOpc s { o with f := f }) t f
  | _, _ => s

/-- The status of a recording with no failure (R107, R254). -/
def writeStatus (j : Job) : Status := if 0 < j.replaced || j.units.any unitRecovered then .okRecovered else .ok

/-- A pacing step takes effect: the class in use moves, through a lossless link where a recording goes on, and PACE_CHANGE tells every
fold (R54). -/
def takePace (s : State) : State :=
  match s.spindle.paceNext with
  | none => s
  | some n =>
    let t : State := { s with spindle := { s.spindle with paceNext := none, paceDrop := n } }
    let t := match jobDesc t with
      | some (j, _) => if j.kind == JobKind.writing && decide (j.next ≤ j.last) && !j.ended then t.modJob fun j => { j with links := j.links + 1 } else t
      | none => t
    match t.disc with
    | some d => broadcast t evPaceChange (w32 (classInUse t d))
    | none => t

/-- The levels of the table now in force, where it is another one than before and no OPC sets them: a pacing step or a layer's end has
changed it (R54, R242, R245). -/
def changeTable (s : State) (was : Nat × Nat) : State :=
  match jobDesc s, s.disc with
  | some (j, _), some d =>
    let (layer, cls, t) := writeSetup s j d
    if (layer, cls) = was ∨ j.last < j.next ∨ opcDue s j = true then s
    else askLevels s t (((opcOf s d layer cls).map (·.f)).getD one28)
  | _, _ => s

/-- ρ of a unit: the mean RF level at the last T/32 of the marks of its longest class, in 2⁻¹⁶ codes (R248). -/
def rhoOf (levels : List Int) : Int := signedDiv (65536 * levels.foldl (· + ·) 0) levels.length

/-- A recording goes on, waits for its read-back, or ends (R253). -/
def writeOn (s : State) : State :=
  match jobDesc s with
  | none => s
  | some (j, d) =>
    match j.stopWith with
    | some st =>
      if j.last < j.next ∧ readbackDue s j d = false then stopJob (lowerGate s) (writeStatus j)
      else stopJob (lowerGate (s.modJob fun j => { j with links := j.links + 1 })) st
    | none =>
      if j.last < j.next ∧ j.unverified.isEmpty = true then stopJob (lowerGate s) (writeStatus j)
      else sealedWriteLock (settleGate s)

/-- The write encoder reads a command's blocks from a to z from the working set (Table 10.5). -/
def unitReads (d : Desc) (a z : Nat) : List MemOp := setOps false engineMask d.bufs (2048 * (a - lbaOf d.fld)) (2048 * (z - a))

/-- The blocks of a unit as memory delivered them to the encoder (R286). -/
def storedBlocks (s : State) (d : Desc) (u : Nat) (l : List Block) : List Block :=
  if s.ecc.wrong.isEmpty then l
  else l.zipIdx.map fun p => if named d (u + p.2) then asSpans s.ecc (setSpans d.bufs 2 (2048 * (u + p.2 - lbaOf d.fld)) 2048) p.1 else p.1

/-- UNIT_RECORDED: the unit is on the medium; where memory spoilt its data the command completes with MEMORY_FAULT before it; its track moves, running OPC acts, and the write goes on or ends (R248, R251,
R453, R454). -/
def execUnitRecorded (levels : List Int) (s : State) : Answer :=
  .next (match jobDesc s, s.disc with
  | some (j, d), some di =>
    if j.kind != .writing || !s.servo.wgate || decide (j.last < j.next) then s
    else
      let (u, z) := nextUnit s j
      let stop := min z (j.last + 1)
      let (layer, cls, tab) := writeSetup s j di
      let (s, bad) := memRun s (unitReads d j.next stop)
      if bad then stopJob s .memoryFault
      else
      let blocks := storedBlocks s d u (unitBlocksOf s j d)
      let t := s.emits [.recorded u blocks, .pulses (unitPulses di tab u blocks.flatten)]
      let t := { t with disc := some (noteRecorded di j.next z) }
      let t := t.modJob fun j => { j with next := z, recorded := j.recorded + (stop - j.next)
                                          unverified := if verifyAfter d then j.unverified ++ [u] else [] }
      let t := changeTable (takePace (runningOpc t (rhoOf levels))) (layer, cls)
      writeOn (if z ≤ j.last then t else t.modJob fun j => { j with lds := [] })
  | _, _ => s)

/-! ### Verification and replacement (R253, R254) -/

/-- A unit passes read-back: it decodes, and no codeword used more than VFY_LIMIT % of its capacity (R253). -/
def readbackPasses (s : State) (r : Readback) : Bool :=
  r.edcOk && r.words.all fun w => decide (2 * w.1 + w.2.1 ≤ w.2.2) && decide (100 * (2 * w.1 + w.2.1) ≤ s.recd.lds.vfyLimit * w.2.2)

/-- Recordings of one unit that its medium allows, the first included (R254; log entry 39). -/
def attemptsFor (d : DiscInfo) (noRep : Bool) : Nat :=
  if d.medium == .bdRe then (if noRep then 1 else 3) else if rewritable d.medium then 2 else 1

/-- How a unit's attempts end: whether one passed, and the spare clusters of its layer left (R254). -/
def tryUnit (s : State) (bdRe : Bool) : Nat → List Readback → Nat → Bool × Nat
  | 0, _, spare => (false, spare)
  | _ + 1, [], spare => (false, spare)
  | n + 1, r :: rest, spare =>
    if readbackPasses s r then (true, spare)
    else if n = 0 then (false, spare)
    else if bdRe then (if spare = 0 then (false, 0) else tryUnit s bdRe n rest (spare - 1))
    else tryUnit s bdRe n rest spare

/-- Read-back of units in order: the spare clusters taken, units replaced, and the first unit that still fails (R254). -/
def tryUnits (s : State) (noRep : Bool) : DiscInfo → Nat → List (Nat × List Readback) → DiscInfo × Nat × Option Nat
  | d, rep, [] => (d, rep, none)
  | d, rep, (u, rs) :: rest =>
    let layer := layerOf d u
    let bdRe := d.medium == .bdRe
    let (ok, spare) := tryUnit s bdRe (attemptsFor d noRep) rs (d.spares.getD layer 0)
    let used := decide (spare < d.spares.getD layer 0)
    let d1 := { d with
      spares := d.spares.set layer spare
      defects := if used then d.defects.filter (fun x => x.1 != u) ++ [(u, spare)] else d.defects }
    if ok then tryUnits s noRep d1 (if used then rep + 1 else rep) rest else (d1, rep, some u)

/-- READBACK_DONE: a run of recorded units has been read back, each with the results of its attempts (R253, R254). -/
def execReadbackDone (r : List (List Readback)) (s : State) : Answer :=
  .next (match jobDesc s, s.disc with
  | some (j, d), some di =>
    if j.kind != .writing || !readbackDue s j d then s
    else
      let (d1, rep, bad) := tryUnits s (noReplace d) di 0 (j.unverified.zipIdx.map fun p => (p.1, r.getD p.2 []))
      let t := { s with disc := some d1 }
      let t := t.modJob fun j => { j with replaced := j.replaced + rep }
      match bad with
      | none => writeOn (t.modJob fun j => { j with unverified := [] })
      | some u =>
        stopJob (t.modJob fun j => { j with firstFail := some (max u (lbaOf d.fld))
                                            recorded := max u (lbaOf d.fld) - lbaOf d.fld }) .writeFailed
  | _, _ => s)

end Sys2Proof.Machine
end

