-- ==== Sys2Proof/Machine/Motion.lean ====
section
/-! DEFINITION. Machine/Motion.lean: the motor timebase, the spindle and the sled (R181 to R203). Intervals between crossings
are counted in timebase units of 125 ns; sled positions in 2⁻²⁴ full steps, one update each 25 µs (R196). -/
namespace Sys2Proof.Machine

/-! ### The timebase (R181) -/

/-- Motors may be started: the timebase is locked, no HALT is in force or about to be, Bronze runs, and no entry to DOZE or VIGIL stops
the mechanism (R28, R181, R391, R407). -/
def motorsAllowed (s : State) : Bool :=
  s.pwr.tbLock && linksUp s && s.sys.ready && !s.halt.inHalt && s.halt.pend.isEmpty && s.sys.entry.isNone

/-- TB_LOCK: Iron's timebase locks to the loop tick (R181). -/
def execTbLock (s : State) : Answer :=
  .next (if linksUp s && s.sys.ready then { s with pwr := { s.pwr with tbLock := true } } else s)

/-! ### Commutation and speed (R182 to R185) -/

/-- The step after s (R182). -/
def stepAfter (n : Nat) : Nat := n % 6 + 1

/-- The step three places on, which brakes (R182, R188). -/
def brakeStep (n : Nat) : Nat := (n + 2) % 6 + 1

/-- A step's back-EMF rises on its floating phase (Table 7.1). -/
def stepRises (n : Nat) : Bool := n % 2 == 0

/-- The step of a Hall code; none for 0b000 and 0b111 (Table 7.1). -/
def hallStep (c : BitVec 3) : Option Nat :=
  match c.toNat with
  | 5 => some 1 | 4 => some 2 | 6 => some 3 | 2 => some 4 | 3 => some 5 | 1 => some 6
  | _ => none

/-- The windings of a step: driven high, driven low, floating (Table 7.1). -/
def stepPhases : Nat → Winding × Winding × Winding
  | 1 => (.u, .v, .w)
  | 2 => (.u, .w, .v)
  | 3 => (.v, .w, .u)
  | 4 => (.v, .u, .w)
  | 5 => (.w, .u, .v)
  | _ => (.w, .v, .u)

/-- The current asked of the windings in µA: ALIGN_I in alignment, ILIM in forced steps and a braked stop, and |d| × ILIM in closed
commutation, at most ILIM (R186, R188, R192). -/
def spinCurrent (s : State) : Nat :=
  let p := s.spindle.inUse
  match s.spindle.st with
  | .align => 1000 * p.alignI
  | .closed => min (1000 * p.ilim) (1000 * p.ilim * s.pwr.links.cmd.spindle.natAbs / 2097152)
  | _ => 1000 * p.ilim

/-- The running step is n, and the windings are driven for it: those of the step itself, or those of the one three places on while the
demand is negative or a braked stop runs (R182, R188, R192). -/
def driveStep (s : State) (n : Nat) : State :=
  let brakes := s.spindle.st == .braking || (s.spindle.st == .closed && decide (s.pwr.links.cmd.spindle < 0))
  let (h, l, x) := stepPhases (if brakes then brakeStep n else n)
  { s with spindle := { s.spindle with step := n } }.emit (.spinDrive h l x (spinCurrent s))

/-- YELXO_B_COMMAND_FRAME: Iron takes the commands of a good frame; a bad one is discarded and the previous period's commands stay in
force, and three in a row are a link fault (R22). A new demand is driven at once on the step that runs (R188). -/
def execYelxoBCommandFrame (good : Bool) (s : State) : Answer :=
  .next (if !linksUp s then s
    else
      let put (t : State) (v : Nat) : State := { t with pwr := { t.pwr with links := { t.pwr.links with badFrames := v } } }
      if good then
        let t := { s with pwr := { s.pwr with links := { s.pwr.links with badFrames := 0, cmd := frameNow s } } }
        if s.spindle.st == .closed && s.pwr.links.cmd.spindle != (frameNow s).spindle then driveStep t s.spindle.step else t
      else if 2 ≤ s.pwr.links.badFrames then linkFault (put (countBadPacket s .yelxoB false) 0) 5
      else put (countBadPacket s .yelxoB false) (s.pwr.links.badFrames + 1))

/-- rpm from intervals of 60 electrical degrees: 10 / (POLE_PAIRS × their mean), rounded down (R184). -/
def rpmOf (polePairs : Nat) (l : List Nat) : Nat := 80000000 * l.length / max 1 (polePairs * sumOf id l)

/-- A crossing or edge came an interval after the one before: the mean runs over the last six (R184). -/
def noteInterval (s : State) (t60 : Nat) : State :=
  let l := (s.spindle.t60 ++ [t60]).drop (s.spindle.t60.length - 5)
  { s with spindle := { s.spindle with t60 := l, rpm := min 8191 (rpmOf s.spindle.inUse.polePairs l), crossedAt := s.us } }

/-- Commutation is closed: the running step follows the rotor. -/
def commutates (s : State) : Bool := s.spindle.st == .closed || s.spindle.st == .braking

/-- A braked stop below STOP_RPM shorts the windings, and its demand ends (R192). -/
def brakeOn (s : State) : State :=
  if s.spindle.st == .braking && decide (s.spindle.rpm < s.spindle.inUse.stopRpm) then
    (setOut { s with spindle := { s.spindle with st := .shorted, since := s.us, commutating := none } } 4 0).emit .spinShort
  else s

/-- A rotor that is no longer driven: its last crossing counts for R193. -/
def freeTurn (s : State) : Bool :=
  match s.spindle.st with
  | .shorted | .coasting | .startCoast => true
  | _ => false

/-- The commutation delay after a crossing: (30° − COMM_ADV) / 60° of its interval (R183). -/
def commDelay (p : SpindleProf) (t60 : Nat) : Nat := (30 - p.commAdv) * t60 / 60

/-- The comparison is ignored for BLANK % of the previous interval after a commutation, which itself came COMM_ADV-adjusted
half an interval after the crossing before (R183). -/
def blanked (s : State) (t60 : Nat) : Bool :=
  match s.spindle.t60.getLast? with
  | some p => decide (t60 * 6000 < (100 * (30 - s.spindle.inUse.commAdv) + 60 * s.spindle.inUse.blank) * p)
  | none => false

/-- ZERO_CROSSING: a crossing in the direction of Table 7.1, past the blanking, schedules a commutation (R183, R184). -/
def execZeroCrossing (rising : Bool) (t60 : Nat) (s : State) : Answer :=
  .next (if s.spindle.inUse.hallEn then s
    else if commutates s then
      if rising != stepRises s.spindle.step || s.spindle.commutating.isSome || blanked s t60 then s
      else
        let t := noteInterval s t60
        brakeOn { t with spindle := { t.spindle with commutating := some (commDelay s.spindle.inUse t60) } }
    else if freeTurn s then
      let t := noteInterval s t60
      { t with spindle := { t.spindle with since := if s.spindle.st == .shorted then s.us else s.spindle.since } }
    else s)

/-- COMMUTATE: the delay after the crossing has passed, and the next step is driven (R183). -/
def execCommutate (s : State) : Answer :=
  .next (match s.spindle.commutating with
  | none => s
  | some d =>
    if 8 * (s.us - s.spindle.crossedAt) < d then s
    else driveStep { s with spindle := { s.spindle with commutating := none } } (stepAfter s.spindle.step))

/-- HALL_EDGE: a Hall code change commutates the spindle and gives an interval (R184, R185). -/
def execHallEdge (code : BitVec 3) (t60 : Nat) (s : State) : Answer :=
  let s := { s with spindle := { s.spindle with hall := code } }
  .next (if !s.spindle.inUse.hallEn then s
    else match hallStep code with
      | none => s
      | some n =>
        if commutates s then brakeOn (driveStep (noteInterval s t60) n)
        else if freeTurn s then
          let t := noteInterval s t60
          { t with spindle := { t.spindle with since := if s.spindle.st == .shorted then s.us else s.spindle.since } }
        else s)

/-- HALL_INVALID: a code of 0b000 or 0b111 for two PWM periods, while the timebase runs (R185). -/
def execHallInvalid (code : BitVec 3) (s : State) : Answer :=
  let s := { s with spindle := { s.spindle with hall := code } }
  .next (if s.spindle.inUse.hallEn && linksUp s && s.pwr.tbLock && (hallStep code).isNone then motionFault s 3 0 else s)

/-- SPIN_STALL: a zero crossing is late by 2 × t60 in closed commutation (R194). -/
def execSpinStall (s : State) : Answer :=
  .next (match s.spindle.t60.getLast? with
  | some p =>
    if commutates s && !s.spindle.inUse.hallEn && decide (3 * p ≤ 8 * (s.us - s.spindle.crossedAt)) then motionFault s 2 0
    else s
  | none => s)

/-- The number of a bridge in event 0x0760 (R207). -/
def bridgeCode : Bridge → Nat
  | .spindle => 0 | .sledA => 1 | .sledB => 2 | .loader => 3 | .focus => 4 | .tracking => 5 | .tilt => 6

/-- A bridge turns off at once (R194). -/
def bridgeOff (s : State) : Bridge → State
  | .spindle => coastSpindle s
  | .sledA => { s with sled := { s.sled with ia := 0 } }.emit (.phases 0 s.sled.ib)
  | .sledB => { s with sled := { s.sled with ib := 0 } }.emit (.phases s.sled.ia 0)
  | .loader => stopLoader s
  | .focus => (setOut (setLoop s 0 false false) 0 0).emit (.loopOut 0 0)
  | .tracking => (setOut (setLoop s 1 false false) 1 0).emit (.loopOut 1 0)
  | .tilt => (setOut (setLoop s 2 false false) 2 0).emit (.loopOut 2 0)

/-- BRIDGE_OC: the bridge turns off at once, and it is a motion fault (R194, R207). -/
def execBridgeOc (b : Bridge) (s : State) : Answer :=
  .next (if linksUp s then motionFault (bridgeOff s b) 4 (bridgeCode b) else s)

/-! ### Starting (R186, R187) -/

/-- The rate of forced step k is at least a speed in rpm: its length START_T0 × (1 − RAMP / 256)^k is at most 10 / (POLE_PAIRS
× rpm) (R186). -/
def rateAtLeast (p : SpindleProf) (k rpm : Nat) : Bool :=
  decide (rpm * p.polePairs * p.startT0 * (256 - p.ramp) ^ k ≤ 10000 * 256 ^ k)

/-- The rate of step k is at least HANDOVER / 2, from which crossings are detected (R186). -/
def detects (p : SpindleProf) (k : Nat) : Bool :=
  decide (p.handover * p.polePairs * p.startT0 * (256 - p.ramp) ^ k ≤ 20000 * 256 ^ k)

/-- Forced step k has lasted its time (R186). -/
def stepOver (p : SpindleProf) (k us : Nat) : Bool := decide (1000 * p.startT0 * (256 - p.ramp) ^ k ≤ us * 256 ^ k)

/-- A start attempt begins: step 1 is driven at ALIGN_I (R186). -/
def beginAlign (s : State) : State :=
  driveStep { s with spindle := { s.spindle with st := .align, since := s.us, run := 0, atHandover := 0, t60 := [], rpm := 0
                                                 commutating := none, restart := false } } 1

/-- Closed commutation begins with a step (R186, R187; log entry 42). -/
def closeCommutation (s : State) (step : Nat) : State :=
  let t := setLoop s 4 true false
  driveStep { t with spindle := { t.spindle with st := .closed, tries := 0, restart := false, commutating := none } } step

/-- A rotor that turns forward is caught: commutation is synchronised to its back-EMF, without alignment (R187). -/
def catchRotor (s : State) (rpm step : Nat) : State :=
  let p := s.spindle.prof
  closeCommutation { s with spindle := { s.spindle with
      inUse := p, t60 := [80000000 / max 1 (p.polePairs * rpm)], rpm := min 8191 rpm, crossedAt := s.us } } (step % 6 + 1)

/-- A stopped rotor starts: from the Hall code, or by alignment (R185, R186). -/
def startStopped (s : State) : State :=
  let s := { s with spindle := { s.spindle with inUse := s.spindle.prof, tries := 0 } }
  if s.spindle.inUse.hallEn then
    closeCommutation { s with spindle := { s.spindle with t60 := [], crossedAt := s.us, rpm := 0 } } ((hallStep s.spindle.hall).getD 1)
  else beginAlign s

/-- A braked stop begins: SPINDLE opens with its output held at −1.0 (R192). -/
def brakeSpindle (s : State) : State :=
  match s.spindle.st with
  | .stopped | .shorted | .braking => s
  | _ =>
    let t := setOut (setLoop s 4 false false) 4 (-2097152)
    let t := { t with spindle := { t.spindle with st := .braking, since := s.us, commutating := none } }
    brakeOn (driveStep t t.spindle.step)

/-- SPINDLE_START: a rotor turning forward at HANDOVER / 2 or more is caught, any other that turns is braked to a stop
first, and a stopped one starts (R186, R187). -/
def execSpindleStart (r : Rotor) (s : State) : Answer :=
  let idle := match s.spindle.st with
    | .stopped | .shorted | .coasting | .braking => true
    | _ => false
  let stopFirst (s : State) (rpm : Nat) : State :=
    let t := if commutates s || s.spindle.st == .shorted then s
      else brakeSpindle { s with spindle := { s.spindle with st := .coasting, rpm := min 8191 rpm } }
    { t with spindle := { t.spindle with restart := true } }
  .next (if !motorsAllowed s || !idle || s.loader.ejecting then s
    else match r with
      | .stopped => if s.spindle.st == .braking then stopFirst s 0 else startStopped s
      | .forward rpm step => if s.spindle.prof.handover ≤ 2 * rpm then catchRotor s rpm step else stopFirst s rpm
      | .backward rpm => stopFirst s rpm)

/-- A start attempt has failed: SPIN_START after START_TRIES, else the rotor coasts for 500 ms (R186). -/
def attemptFails (s : State) : State :=
  let n := s.spindle.tries + 1
  if s.spindle.inUse.startTries ≤ n then motionFault { s with spindle := { s.spindle with tries := 0 } } 1 0
  else { s with spindle := { s.spindle with st := .startCoast, since := s.us, tries := n } }.emit .spinOff

/-- A crossing seen in a forced step: the interval from the one before it counts for the speed (R184). -/
def noteForced (s : State) (crossing : Option Nat) : State :=
  match crossing with
  | some t60 => if s.spindle.run = 0 then { s with spindle := { s.spindle with crossedAt := s.us } } else noteInterval s t60
  | none => s

/-- FORCED_STEP: alignment or a forced step has lasted its time; `crossing` is the interval from the crossing before, if the step had a
valid one. The interval shortens until HANDOVER is reached; a run of 12 hands over; 48 further steps without one fail. Each forced
step is driven at ILIM (R184, R186). -/
def execForcedStep (crossing : Option Nat) (s : State) : Answer :=
  let p := s.spindle.inUse
  let next (t : State) (k : Nat) : State :=
    driveStep { t with spindle := { t.spindle with st := .forced k, since := s.us } } (stepAfter t.spindle.step)
  .next (match s.spindle.st with
  | .align => if p.alignT * 1000 ≤ s.us - s.spindle.since then next s 0 else s
  | .forced k =>
    if !stepOver p k (s.us - s.spindle.since) then s
    else
      let seen := if detects p k then crossing else none
      let run := if seen.isSome then s.spindle.run + 1 else 0
      let t := noteForced s seen
      let t := { t with spindle := { t.spindle with run := run } }
      if !rateAtLeast p k p.handover then next t (k + 1)
      else if 12 ≤ run then closeCommutation t (stepAfter s.spindle.step)
      else if 48 ≤ s.spindle.atHandover then attemptFails t
      else next { t with spindle := { t.spindle with atHandover := s.spindle.atHandover + 1 } } k
  | _ => s)

/-- START_COAST_END: 500 ms after a failed attempt the start begins again at alignment (R186). -/
def execStartCoastEnd (s : State) : Answer :=
  .next (if s.spindle.st == .startCoast && decide (s.spindle.since + 500000 ≤ s.us) then beginAlign s else s)

/-! ### Ceiling and stopping (R191 to R193) -/

/-- SPIN_CEILING's event (Table 7.7). -/
def ceilingEvent (s : State) (on : Bool) : State :=
  postEvent { s with spindle := { s.spindle with ceiling := on } } 0 evSpinCeiling (w32 (b2n on + 65536 * s.spindle.rpm))

/-- SPIN_CEILING_SET: the limit for 8 consecutive spindle periods, more than 1 % below the set-point (R191). -/
def execSpinCeilingSet (s : State) : Answer :=
  .next (if !s.spindle.ceiling && decide (8 ≤ s.spindle.limitRun) then ceilingEvent s true else s)

/-- SPIN_CEILING_CLEAR: 8 consecutive spindle periods without the limit report, or within 1 % of the set-point (R191). -/
def execSpinCeilingClear (s : State) : Answer :=
  .next (if s.spindle.ceiling && decide (8 ≤ s.spindle.clearRun) then ceilingEvent s false else s)

/-- The tray motor drives open at LDR_DUTY, its current limited to LDR_ILIM, or the solenoid fires (R204, R205, Table 7.5). -/
def openTray (s : State) : State :=
  if s.loader.prof.solenoid then
    { s with loader := { s.loader with drive := .pulse s.us, ejecting := false } }.emit (.solenoid true)
  else
    { s with loader := { s.loader with drive := .opening s.us, ejecting := false
                                       tray := if s.loader.trayIn && s.loader.trayOut then .unknown else .moving } }.emit
      (.tray true s.loader.prof.duty s.loader.prof.ilim)

/-- SPINDLE_STOPPED: 200 ms without a crossing while shorted, or after the last one while coasting; SPIN_RPM reads 0, and
what waited for the stop goes on (R187, R193, Table 7.5). -/
def execSpindleStopped (s : State) : Answer :=
  let from_ := if s.spindle.st == .coasting then s.spindle.crossedAt else s.spindle.since
  .next (match s.spindle.st with
  | .shorted | .coasting =>
    if s.us < from_ + 200000 then s
    else
      let t := if s.spindle.st == .shorted then s.emit .spinOff else s
      let t := { t with spindle := { t.spindle with st := .stopped, rpm := 0, t60 := [], commutating := none } }
      if t.loader.ejecting then openTray { t with spindle := { t.spindle with restart := false } }
      else if s.spindle.restart && motorsAllowed t then startStopped t
      else { t with spindle := { t.spindle with restart := false } }
  | _ => s)

/-! ### Sled profiles (R198) -/

/-- Times are counted in 2⁻²⁰ of an update; this many make a second. -/
def profUnit : Nat := 40000 * 2 ^ 20

/-- A trapezoid of n full steps: the acceleration time and the whole time (R198). -/
def trapTimes (v a n : Nat) : Nat × Nat :=
  if v * v ≤ n * a then (profUnit * v / a, profUnit * (v * v + n * a) / (a * v))
  else let t := isqrt (4 * n * profUnit * profUnit / a); (t / 2, t)

/-- The position on a trapezoid at a time, in 2⁻²⁴ full steps (R198). -/
def trapAt (v a n t : Nat) : Nat :=
  let (ta, te) := trapTimes v a n
  let ramp (x : Nat) : Nat := a * x * x * 2 ^ 24 / (2 * profUnit * profUnit)
  if te ≤ t then n * 2 ^ 24
  else if t ≤ ta then ramp t
  else if t < te - ta then (2 * a * v * t - profUnit * v * v) * 2 ^ 24 / (2 * a * profUnit)
  else n * 2 ^ 24 - ramp (te - t)

/-- The distance of acceleration and deceleration at a peak speed is at most n full steps; speeds are in 2⁻¹⁶ full steps a
second (R198). -/
def sPeakFits (a j n v : Nat) : Bool :=
  if a * a * 65536 ≤ v * j then decide (v * v * j + v * a * a * 65536 ≤ n * a * j * 2 ^ 32)
  else decide (4 * v * v * v ≤ n * n * j * 2 ^ 48)

/-- The greatest speed that fits, by bisection from above. -/
def sPeakGo (a j n : Nat) : Nat → Nat → Nat
  | 0, v => v
  | k + 1, v => sPeakGo a j n k (if sPeakFits a j n (v + 2 ^ k) then v + 2 ^ k else v)

/-- The peak speed of an S-curve of n full steps (R198). -/
def sPeak (vMax a j n : Nat) : Nat := min (vMax * 65536) (sPeakGo a j n 28 0)

/-- The jerk time, and the time of the whole acceleration to a peak speed (R198). -/
def sTimes (a j v : Nat) : Nat × Nat :=
  if a * a * 65536 ≤ v * j then (profUnit * a / j, profUnit * v / (a * 65536) + profUnit * a / j)
  else let t := isqrt (v * profUnit * profUnit / (j * 65536)); (t, 2 * t)

/-- The distance covered in the first half of an S-curve's acceleration (R198). -/
def sHalf (j tj t : Nat) : Nat :=
  let w := profUnit
  if t ≤ tj then j * t * t * t * 2 ^ 24 / (6 * w * w * w)
  else
    let x := t - tj
    (j * tj * tj * tj + 3 * j * tj * tj * x + 3 * j * tj * x * x) * 2 ^ 24 / (6 * w * w * w)

/-- The distance covered in an S-curve's acceleration at a time (R198): its second half mirrors the first. -/
def sAccel (j v tj tac t : Nat) : Nat :=
  let d := v * tac * 2 ^ 24 / (2 * 65536 * profUnit)
  if 2 * t ≤ tac ∨ t + tj ≤ tac then sHalf j tj t
  else v * t * 2 ^ 24 / (65536 * profUnit) + sHalf j tj (tac - t) - d

/-- The position on an S-curve of n full steps at a time (R198). -/
def sCurveAt (vMax a j n t : Nat) : Nat :=
  let v := sPeak vMax a j n
  let (tj, tac) := sTimes a j v
  let d := v * tac * 2 ^ 24 / (2 * 65536 * profUnit)
  let cruise := (n * 2 ^ 24 - 2 * d) * 65536 * profUnit / (max 1 v * 2 ^ 24)
  if 2 * tac + cruise ≤ t then n * 2 ^ 24
  else if t ≤ tac then sAccel j v tj tac t
  else if t < tac + cruise then d + v * (t - tac) * 2 ^ 24 / (65536 * profUnit)
  else n * 2 ^ 24 - sAccel j v tj tac (2 * tac + cruise - t)

/-- The distance a move of n full steps has covered after so many updates (R196, R198). -/
def profileAt (p : SledProf) (n updates : Nat) : Nat :=
  let t := updates * 2 ^ 20
  if p.sCurve then sCurveAt p.vMax p.accel p.jerk n t else trapAt p.vMax p.accel n t

/-! ### Microsteps (R195 to R197) -/

/-- The first half of the built-in table: round(1023 × cos(π / 2 × (i + 0.5) / 256)) (R195). -/
def cosLow : List Nat :=
  [1023, 1023, 1023, 1023, 1023, 1022, 1022, 1022, 1022, 1021, 1021, 1020, 1020, 1019, 1019, 1018, 1018, 1017, 1016, 1016, 1015, 1014, 1013, 1012,
   1011, 1011, 1010, 1008, 1007, 1006, 1005, 1004, 1003, 1001, 1000, 999, 997, 996, 995, 993, 992, 990, 988, 987, 985, 983, 982, 980,
   978, 976, 974, 972, 970, 968, 966, 964, 962, 960, 958, 956, 953, 951, 949, 946, 944, 941, 939, 937, 934, 931, 929, 926,
   923, 921, 918, 915, 912, 909, 907, 904, 901, 898, 895, 892, 889, 885, 882, 879, 876, 873, 869, 866, 863, 859, 856, 852,
   849, 845, 842, 838, 835, 831, 827, 824, 820, 816, 812, 808, 805, 801, 797, 793, 789, 785, 781, 777, 773, 768, 764, 760,
   756, 752, 747, 743, 739, 734, 730, 726]

/-- The second half of the built-in table. -/
def cosHigh : List Nat :=
  [721, 717, 712, 708, 703, 699, 694, 689, 685, 680, 675, 671, 666, 661, 656, 651, 647, 642, 637, 632, 627, 622, 617, 612,
   607, 602, 597, 592, 586, 581, 576, 571, 566, 560, 555, 550, 545, 539, 534, 529, 523, 518, 512, 507, 502, 496, 491, 485,
   479, 474, 468, 463, 457, 452, 446, 440, 435, 429, 423, 417, 412, 406, 400, 394, 389, 383, 377, 371, 365, 359, 353, 348,
   342, 336, 330, 324, 318, 312, 306, 300, 294, 288, 282, 276, 270, 264, 258, 252, 246, 239, 233, 227, 221, 215, 209, 203,
   196, 190, 184, 178, 172, 166, 159, 153, 147, 141, 135, 128, 122, 116, 110, 103, 97, 91, 85, 78, 72, 66, 60, 53,
   47, 41, 35, 28, 22, 16, 9, 3]

/-- The built-in microstep table (R195). -/
def cosTable : List Nat := cosLow ++ cosHigh

/-- The table a reference names. -/
def tableOf : TableRef → List Nat
  | .builtin => cosTable
  | .loaded t => t

/-- The full-step count of a position. -/
def fullStep (pos : Int) : Int := pos / 16777216

/-- Phase currents in µA at a position, for a full-scale current in mA (R195, Table 7.3). -/
def phaseCurrents (table : List Nat) (mA : Nat) (pos : Int) : Int × Int :=
  let i := (pos % 16777216).toNat / 65536
  let cur (j : Nat) : Int := ((1000 * mA * table.getD j 0 / 1023 : Nat) : Int)
  match (fullStep pos % 4).toNat with
  | 0 => (cur i, cur (255 - i))
  | 1 => (-cur (255 - i), cur i)
  | 2 => (-cur i, -cur (255 - i))
  | _ => (cur (255 - i), -cur i)

/-- The pending table becomes the one in use, and its profile completes (R197). -/
def takeTable (s : State) : State :=
  match s.sled.shadow with
  | none => s
  | some (t, k) =>
    let u := { s with sled := { s.sled with table := t, shadow := none } }
    match k.bind (u.desc? 0) with
    | some d => finish u 0 d.k .ok d.fld.length
    | none => u

/-- Drive the phases for a position at a current. -/
def drivePhases (s : State) (mA : Nat) : State :=
  let (a, b) := phaseCurrents (tableOf s.sled.table) mA s.sled.pos
  { s with sled := { s.sled with ia := a, ib := b } }.emit (.phases a b)

/-- An update of a moving sled: the new position, the pending table once the full-step count differs, the currents (R196,
R197). -/
def moveTo (s : State) (pos : Int) : State :=
  let t := if fullStep pos != fullStep s.sled.pos then takeTable s else s
  drivePhases { t with sled := { t.sled with pos := pos } } s.sled.inUse.sledI

/-- The sled comes to rest: the radius follows the move, and a seek begins to settle (R200). -/
def sledRests (s : State) (steps : Int) : State :=
  { s with sled := { s.sled with move := .rest, restAt := s.us, settling := s.sled.seek.isSome
                                 radius := s.sled.radius.map fun r => ((r : Int) + steps * s.sled.inUse.pitch).toNat } }

/-- The distance of one update at a speed in full steps a second. -/
def updateStep (v : Nat) : Nat := v * 16777216 / 40000

/-- The position is known again: where it was lost, SLED_LOST clears with its event (R202, Table 7.7). -/
def sledFound (s : State) (radius how : Nat) : State :=
  let t := { s with sled := { s.sled with lost := false, radius := some radius } }
  if s.sled.lost then postEvent t 0 evSledPosition (w32 (2 * how)) else t

/-- Homing ends on the microstep at which HOME_N asserted: the sled is held there at HOLD_I, at HOME_POS (R203). -/
def sledHomed (s : State) : State :=
  let t := { s with sled := { s.sled with move := .rest, restAt := s.us } }
  drivePhases (sledFound t s.sled.inUse.homePos 2) s.sled.inUse.holdI

/-- SLED_UPDATE: once a PWM period; the sled follows the SLED output while tracking is closed (R196, R199, R203). -/
def execSledUpdate (s : State) : Answer :=
  .next (if !linksUp s || !s.pwr.tbLock then s
    else match s.sled.move with
      | .rest =>
        let t := takeTable s
        if t.sled.lost then t else drivePhases t t.sled.inUse.holdI
      | .move a z u =>
        let n := (z - a).natAbs
        let x := profileAt s.sled.inUse (n / 16777216) (u + 1)
        let t := moveTo { s with sled := { s.sled with move := .move a z (u + 1) } } (if a ≤ z then a + x else a - x)
        if n ≤ x then sledRests t ((z - a) / 16777216) else t
      | .homeOut made =>
        let d := updateStep s.sled.inUse.homeV
        let t := moveTo { s with sled := { s.sled with move := .homeOut (made + d) } } (s.sled.pos + d)
        if 50 * 16777216 ≤ made + d then { t with sled := { t.sled with move := .homeIn 0 } } else t
      | .homeIn made =>
        let d := updateStep s.sled.inUse.homeV
        if s.sled.home then sledHomed s
        else if s.sled.inUse.homeMax * 16777216 ≤ made then motionFault s 5 0
        else moveTo { s with sled := { s.sled with move := .homeIn (made + d) } } (s.sled.pos - d)
      | .follow =>
        let d := if (s.servo.loops.get 1).closed then roundDiv (s.pwr.links.cmd.sled * s.sled.inUse.followV * 8) 40000 else 0
        moveTo s (s.sled.pos + d))

/-! ### Homing and recovery (R201 to R203) -/

/-- Homing begins: TRACK and SLED open, and the sled moves outward first where HOME_N is asserted (R203). -/
def beginHoming (s : State) : State :=
  let t := setLoop (setLoop s 1 false false) 5 false false
  { t with
    servo := { t.servo with locked := false, trackOnAt := none, jump := none }
    sled := { t.sled with inUse := s.sled.prof, seek := none, settling := false, move := if s.sled.home then .homeOut 0 else .homeIn 0 } }

/-- The sled stands, or follows tracking: it may be sent somewhere. -/
def sledFree (s : State) : Bool :=
  match s.sled.move with
  | .rest | .follow => true
  | _ => false

/-- SLED_HOME (R203). -/
def execSledHome (s : State) : Answer := .next (if motorsAllowed s && sledFree s then beginHoming s else s)

/-- HOME_N_CHANGE: homing turns inward, or ends on the microstep at which HOME_N asserted (R203). -/
def execHomeNChange (asserted : Bool) (s : State) : Answer :=
  let s := { s with sled := { s.sled with home := asserted } }
  .next (match s.sled.move with
  | .homeOut _ => if asserted then s else { s with sled := { s.sled with move := .homeIn 0 } }
  | .homeIn _ => if asserted then sledHomed s else s
  | _ => s)

/-- Spindle start, focus-on and track-on have succeeded where the sled stands, within 2 track-on attempts (R202). -/
def readsHere (s : State) : Bool := s.spindle.st == .closed && s.servo.fok && s.servo.locked && decide (s.sled.lockTries ≤ 2)

/-- SLED_RECOVER: a lost position is set from an address of an identified disc, or the sled homes (R202). -/
def execSledRecover (addr : Option Nat) (s : State) : Answer :=
  .next (if !s.sled.lost || !motorsAllowed s then s
    else match addr, s.disc, readsHere s with
      | some a, some d, true => sledFound s (radiusOf d a) 1
      | _, _, _ => if sledFree s then beginHoming s else s)

/-! ### Seeks (R200, Table 7.4) -/

/-- A move of a seek toward a block: TRACK opens with its output held, SLED opens, and Iron moves the sled by round((r_target −
r_now) / SLED_PITCH) full steps. Addresses are unknown until one is accepted (R200, R234). -/
def seekMove (s : State) (lba moves : Nat) : State :=
  match s.disc, s.sled.radius with
  | some d, some r =>
    let n := roundDiv ((radiusOf d lba : Int) - r) (max 1 s.sled.prof.pitch)
    let t := setLoop (setLoop s 1 false true) 5 false false
    let u := { t with
      servo := { t.servo with locked := false, trackOnAt := none, jump := none, seq := { t.servo.seq with phase := .idle } }
      chan := { idleChannel t.chan with accepted := false, flywheel := none, far := none, pinned := t.chan.pinned }
      sled := { t.sled with inUse := s.sled.prof, seek := some (lba, moves), settling := false
                            move := .move s.sled.pos (s.sled.pos + n * 16777216) 0 } }
    if n = 0 then sledRests u 0 else u
  | _, _ => s

/-- The sled may seek: FOCUS closed on a known position, nothing of the kind in progress (R200, R202). -/
def maySeek (s : State) : Bool :=
  motorsAllowed s && s.servo.fok && !s.sled.lost && s.sled.seek.isNone && s.sled.radius.isSome && sledFree s

/-- SLED_SEEK: the first move of a seek (R200). -/
def execSledSeek (lba : Nat) (s : State) : Answer :=
  .next (if maySeek s && s.disc.isSome && s.job.isSome then seekMove s lba 1 else s)

/-- SEEK_SETTLE_END: SEEK_SETTLE after the move, track-on begins (Table 7.4, R170). -/
def execSeekSettleEnd (s : State) : Answer :=
  .next (if s.sled.settling && decide (s.sled.restAt + s.sled.inUse.seekSettle ≤ s.us) then
    beginTrackOn { s with sled := { s.sled with settling := false } } 0
  else s)

end Sys2Proof.Machine
end

