-- ==== Sys2Proof/Machine/Time.lean ====
section
/-! DEFINITION. Machine/Time.lean: the keeper tick, the calendar, setting time, metering, tariffs, demand intervals and the
energy ledger (chapter 14). Calendar times are seconds since 2000-01-01 00:00:00. -/
namespace Sys2Proof.Machine

def evTimeStep : Nat := 0x07B0
def evSlewEnd : Nat := 0x07B1
def evCalendarEnd : Nat := 0x07B2
def evOutageCrossed : Nat := 0x07B3
def evScheduleActive : Nat := 0x07B4

/-! ### The calendar (R354) -/

/-- A leap year (R354). -/
def isLeap (y : Nat) : Bool := y % 4 == 0 && (y % 100 != 0 || y % 400 == 0)

/-- Days from 2000-01-01 to the first day of the n-th year after 2000. -/
def daysToYear (n : Nat) : Nat := 365 * n + (n + 3) / 4 - (n + 99) / 100 + (n + 399) / 400

/-- The lengths of a year's months. -/
def monthLengths (y : Nat) : List Nat := [31, if isLeap y then 29 else 28, 31, 30, 31, 30, 31, 31, 30, 31, 30, 31]

/-- Years after 2000 of a day number. -/
def yearOfDay (d : Nat) : Nat :=
  let n := d * 400 / 146097
  if daysToYear (n + 1) ≤ d then n + 1 else if d < daysToYear n then n - 1 else n

/-- The month, counted from m, and the day of a day within a year. -/
def monthOfDay : List Nat → Nat → Nat → Nat × Nat
  | [], m, d => (m, d + 1)
  | l :: r, m, d => if d < l then (m, d + 1) else monthOfDay r (m + 1) (d - l)

/-- Year, month and day of a day number. -/
def dateOfDay (d : Nat) : Nat × Nat × Nat :=
  let n := yearOfDay d
  let (m, k) := monthOfDay (monthLengths (2000 + n)) 1 (d - daysToYear n)
  (2000 + n, m, k)

/-- The day number of a date. -/
def dayOfDate (y m d : Nat) : Nat := daysToYear (y - 2000) + ((monthLengths y).take (m - 1)).foldl (· + ·) 0 + (d - 1)

/-- The ISO day of week: 2000-01-01 is day 6 (R354). -/
def dowOfDay (d : Nat) : Nat := (d + 5) % 7 + 1

/-- A date and time that exists (R359). -/
def dateOk (y mo d h mi sec : Nat) : Bool :=
  decide (2000 ≤ y) && decide (y ≤ 2399) && decide (1 ≤ mo) && decide (mo ≤ 12) && decide (1 ≤ d) &&
    decide (d ≤ (monthLengths y).getD (mo - 1) 0) && decide (h ≤ 23) && decide (mi ≤ 59) && decide (sec ≤ 59)

/-- The calendar's last second, 2399-12-31 23:59:59 (R355). -/
def lastSecond : Nat := 146097 * 86400 - 1

/-- The 16-byte time record at the present tick (Table 14.1). -/
def timeRecord (s : State) : List Byte :=
  let k := s.kpr
  let day := k.cal / 86400
  let (y, m, d) := dateOfDay day
  let t := k.cal % 86400
  leBytes 6 k.tick ++ leBytes 2 (k.subsec + 32768 * b2n k.calValid) ++
    leBytes 1 (t % 60) ++ leBytes 1 (t / 60 % 60) ++ leBytes 1 (t / 3600) ++ leBytes 1 d ++ leBytes 1 m ++
    leBytes 1 (dowOfDay day + 8 * b2n (k.slew != 0) + 16 * b2n k.rcTime + 32 * b2n k.atEnd + 64 * b2n s.pwr.keepLost) ++
    leBytes 2 y

/-- KPR_CAL_0 and KPR_CAL_1 of the present calendar (Table 14.7). -/
def calWords (s : State) : Word × Word :=
  let day := s.kpr.cal / 86400
  let (y, m, d) := dateOfDay day
  let t := s.kpr.cal % 86400
  (w32 (t % 60 + 2 ^ 8 * (t / 60 % 60) + 2 ^ 16 * (t / 3600) + 2 ^ 24 * dowOfDay day + 2 ^ 31 * b2n s.kpr.calValid),
   w32 (d + 2 ^ 8 * m + 2 ^ 16 * y))

/-- The latch of R357: the other three registers take the values of this tick. -/
def latchTime (s : State) : State :=
  let (c0, c1) := calWords s
  { s with kpr := { s.kpr with latTickHi := w32 (s.kpr.tick / 2 ^ 32), latCal0 := c0, latCal1 := c1 } }

/-- KPR_TICK_LO_READ: a full read latches and returns TICK [31:0] (R357). -/
def execKprTickLoRead (s : State) : Answer := .next (onBar s 0 fun s => (latchTime s).emit (.regRead (w32 s.kpr.tick)))

/-- TIME READ: the record, latched at one tick (R357). -/
def execTimeRead (f : FoldId) (k : Nat) (s : State) : Answer :=
  .next (match runningAs s f k .timeRead with
  | some _ => finish (deliver s f k (timeRecord s)) f k .ok 16
  | none => s)

/-! ### The keeper tick (R352, R354, R355, R361) -/

/-- The calendar moves on by n ticks, and stops at its end (R354, R355). -/
def calAdvance : Nat → Keeper → Keeper
  | 0, k => k
  | n + 1, k =>
    if k.subsec < 32767 then calAdvance n { k with subsec := k.subsec + 1 }
    else if lastSecond ≤ k.cal then k
    else calAdvance n { k with subsec := 0, cal := k.cal + 1 }

/-- One counter tick of a slew: the thousandth adds or leaves out one calendar tick. When the last thousand is over the
slew is no longer running, and its event is due (R361). -/
def slewTick (k : Keeper) : Nat × Keeper :=
  if k.slew = 0 then (1, k)
  else if k.slewPhase < 999 then (1, { k with slewPhase := k.slewPhase + 1 })
  else if 0 < k.slew then (2, { k with slew := k.slew - 1, slewPhase := if k.slew = 1 then 1000 else 0 })
  else (0, { k with slew := k.slew + 1, slewPhase := if k.slew = -1 then 1000 else 0 })

/-- One keeper tick: the counter, held at its end, and the calendar; a slewed interval is marked (R352, R354, R361, R363). -/
def keeperTick (s : State) : State :=
  let (n, k) := slewTick s.kpr
  let k := calAdvance n { k with tick := min (k.tick + 1) (2 ^ 48 - 1) }
  let k := if s.kpr.slew = 0 then k else { k with ledger := { k.ledger with openI := { k.ledger.openI with slewed := true } } }
  { s with kpr := k }

/-- The time of the next keeper tick has come: 32,768 of them to a second of the interval timer (log entry 2). Nothing ticks
while the keeper is lost or neither oscillator runs (R349, R387). -/
def passTime (s : State) : State :=
  let p := s.phase + 32768
  let t := { s with us := s.us + 1 }
  if !s.kpr.running || !(s.kpr.crystalOk || s.kpr.rcOk) then t
  else if 1000000 ≤ p then keeperTick { t with phase := p - 1000000 } else { t with phase := p }

/-- Any slew in progress ends early, with its event; one that has just run out has its own (R360, R361). -/
def endSlew (s : State) : State :=
  if s.kpr.slew = 0 then
    (if s.kpr.slewPhase = 1000 then postEvent { s with kpr := { s.kpr with slewPhase := 0 } } 0 evSlewEnd 1 else s)
  else postEvent { s with kpr := { s.kpr with slew := 0, slewPhase := 0 } } 0 evSlewEnd 0

/-- SLEW_END: |n| × 1,000 counter ticks have passed (R361). -/
def execSlewEnd (s : State) : Answer :=
  .next (if s.kpr.slew = 0 ∧ s.kpr.slewPhase = 1000 then
    postEvent { s with kpr := { s.kpr with slewPhase := 0 } } 0 evSlewEnd 1 else s)

/-- CALENDAR_END: the calendar stands at its last tick (R355). -/
def execCalendarEnd (s : State) : Answer :=
  .next (if s.kpr.cal = lastSecond ∧ s.kpr.subsec = 32767 ∧ s.kpr.atEnd = false then
    postEvent { s with kpr := { s.kpr with atEnd := true } } 0 evCalendarEnd 0 else s)

/-! ### Tariffs (R366, R367) -/

/-- Day type B applies to a day (Table 14.4). -/
def dayTypeB (t : Tariff) (day : Nat) : Bool := bit t.weekdayMask (dowOfDay day - 1)

/-- The used entries of a day. -/
def dayEntries (t : Tariff) (day : Nat) : List (Nat × Nat) := if dayTypeB t day then t.b else t.a

/-- The band in force at a calendar time (R367). -/
def bandAt (t : Tariff) (cal : Nat) : Nat :=
  let day := cal / 86400
  let minute := cal % 86400 / 60
  match ((dayEntries t day).filter fun e => decide (e.1 ≤ minute)).getLast? with
  | some e => e.2
  | none => ((dayEntries t (day + 6)).getLast?.map (·.2)).getD 0

/-- The used entries at an offset of a schedule record, in the order given. -/
def tariffEntries (rec : List Byte) (off count : Nat) : List (Nat × Nat) :=
  (List.range count).map fun i => (le16 rec (off + 2 * i) % 2048, le16 rec (off + 2 * i) / 4096 % 4)

/-- A day type's eight entries are laid out as Table 14.4 has them. -/
def entriesOk (rec : List Byte) (off count interval : Nat) : Bool :=
  let es := tariffEntries rec off count
  (List.range 8).all (fun i =>
    let w := le16 rec (off + 2 * i)
    if i < count then w / 2048 % 2 == 0 && w / 16384 == 0 && decide (w % 2048 ≤ 1439) && w % 2048 % interval == 0
    else w == 0) &&
  (es.zip (es.drop 1)).all fun p => decide (p.1.1 < p.2.1)

/-- The schedule of a record, unless it is rejected whole (R366). -/
def tariffOf (rec : List Byte) : Option Tariff :=
  let i := byteAt rec 0
  let ca := byteAt rec 2
  let cb := byteAt rec 3
  if (i = 5 ∨ i = 10 ∨ i = 15 ∨ i = 30 ∨ i = 60) ∧ byteAt rec 1 < 128 ∧ 1 ≤ ca ∧ ca ≤ 8 ∧ 1 ≤ cb ∧ cb ≤ 8 ∧
      entriesOk rec 4 ca i = true ∧ entriesOk rec 20 cb i = true ∧ ((rec.drop 36).take 28).all (· == 0) = true then
    some { interval := i, weekdayMask := BitVec.ofNat 7 (byteAt rec 1), a := tariffEntries rec 4 ca, b := tariffEntries rec 20 cb }
  else none

/-! ### The ledger (R363 to R371) -/

/-- Bronze runs its firmware: mirrors and records can be written. -/
def bronzeRuns (s : State) : Bool := s.sys.ready && s.sys.mode != .vigil && s.sys.mode != .doze

/-- The boundary after a calendar time (R369). -/
def nextBoundary (t : Tariff) (cal : Nat) : Nat := (cal / (60 * t.interval) + 1) * (60 * t.interval)

/-- Energy in µWh, truncated (R364). -/
def microWh (nWh : Nat) : Nat := nWh / 1000

/-- An interval's demand in mW (R369). -/
def demandOf (t : Tariff) (uWh : Nat) : Nat := uWh * 60 / (t.interval * 1000)

/-- Change the ledger. -/
def State.modLedger (s : State) (g : Ledger → Ledger) : State := { s with kpr := { s.kpr with ledger := g s.kpr.ledger } }

/-- The open interval is charged to its band and closed into the ring of 96; one of zero length is not recorded (R363, R369,
R370). -/
def closeInterval (s : State) (finish : Nat) (g : Interval → Interval) : State :=
  let l := s.kpr.ledger
  let i := l.openI
  if finish = i.start then s
  else
    let e := g { i with lengthS := sat 16 (finish - i.start), energy := sat 32 (microWh l.openEnergy) }
    let dem := demandOf s.kpr.tariff (microWh l.openEnergy)
    let b : Fin 4 := Fin.ofNat 4 i.band
    let best := l.maxDemand.get b
    s.modLedger fun l =>
      { l with ring := (l.ring ++ [e]).drop (l.ring.length - 95)
               energy := l.energy.set b (l.energy.get b + l.openEnergy)
               maxDemand := if best.1 < dem then l.maxDemand.set b (dem, i.start / 60) else l.maxDemand
               openEnergy := 0 }

/-- The next interval opens under the band in force (R367, R369). -/
def openInterval (s : State) (start : Nat) (g : Interval → Interval) : State :=
  s.modLedger fun l => { l with openI := g { start := start, lengthS := 0, band := bandAt s.kpr.tariff start,
                                             noTime := !s.kpr.calValid, slewed := s.kpr.slew != 0 } }

/-- The ledger's record is asked for, or the one that still waits takes the new contents (R375). -/
def requestLedger (s : State) (prio : Prio) : State :=
  let pl := Payload.ledger s.kpr.ledger s.kpr.tariff
  if s.mram.queue.any fun q => q.region == 4 && q.id == 0 && !q.begun && q.prio == prio then
    let put (q : Prog) : Prog := { q with payload := some pl }
    { s with mram := { s.mram with queue := updFirst (fun q => q.region == 4 && q.id == 0 && !q.begun && q.prio == prio) put s.mram.queue } }
  else
    requestRecord s 4 0 (some pl) 1664 prio (if prio == .inputLoss then none else some (.region 4)) .nothing

/-- The 128-byte snapshot of the ledger (Table 14.6). -/
def ledgerSnapshot (s : State) : List Byte :=
  let k := s.kpr
  let l := k.ledger
  timeRecord s ++ leBytes 1 (bandAt k.tariff k.cal) ++ leBytes 1 k.tariff.interval ++
    leBytes 1 (b2n (dayTypeB k.tariff (k.cal / 86400))) ++ leBytes 1 (b2n s.pwr.mains + 2 * b2n k.pending.isSome) ++
    leBytes 4 l.period ++ leBytes 8 l.periodStart ++ (l.energy.toList.flatMap fun e => leBytes 8 (microWh e)) ++
    (l.maxDemand.toList.flatMap fun d => leBytes 4 d.1 ++ leBytes 4 d.2) ++ leBytes 4 (microWh l.openEnergy) ++
    leBytes 4 (l.openI.start / 60) ++ leBytes 4 l.pNow ++ leBytes 2 l.losses ++ leBytes 2 l.steps ++ zeros 16

/-- An interval ring entry (Table 14.5). -/
def intervalBytes (i : Interval) : List Byte :=
  leBytes 5 i.start ++ leBytes 2 i.lengthS ++
    leBytes 1 (i.band % 4 + 4 * b2n i.shortTimeSet + 8 * b2n i.crossedInOutage + 16 * b2n i.powerFail + 32 * b2n i.noTime +
      64 * b2n i.slewed + 128 * b2n i.powerReturn) ++ leBytes 4 i.energy ++ zeros 4

/-- The 1,536-byte interval ring, oldest first, never-filled entries zero (R373). -/
def ringBytes (l : Ledger) : List Byte := fit 1536 (l.ring.flatMap intervalBytes)

/-- A billing period closes: the snapshot goes to the descriptor, and the totals start anew (R374). -/
def billingClose (s : State) (boundary : Nat) : State :=
  match s.kpr.closing with
  | [] => s
  | k :: rest =>
    let snap := ledgerSnapshot s
    let t := { s with kpr := { s.kpr with closing := rest } }
    let t := t.modLedger fun l =>
      { l with energy := Vector.replicate 4 0, maxDemand := Vector.replicate 4 (0, 0), period := (l.period + 1) % 2 ^ 32
               periodStart := boundary, losses := 0, steps := 0 }
    finish (deliver t 0 k snap) 0 k .ok 128

/-- A pending schedule takes effect at a boundary of both lengths (R368). -/
def scheduleActive (s : State) (boundary : Nat) : State :=
  match s.kpr.pending with
  | none => s
  | some t =>
    if boundary % (60 * t.interval) = 0 then
      postEvent { s with kpr := { s.kpr with tariff := t, pending := none } } 0 evScheduleActive (w32 t.interval)
    else s

/-- A boundary, in the order of R371: the close, a billing close, a schedule change, the band of the next interval. -/
def boundaryAt (s : State) (boundary : Nat) (close next : Interval → Interval) (billing : Bool) : State :=
  let t := closeInterval s boundary close
  let t := if billing then billingClose t boundary else t
  openInterval (scheduleActive t boundary) boundary next

/-- The boundary that ends the open interval has come (R369). -/
def boundaryDue (s : State) : Bool :=
  !s.kpr.atEnd && decide (nextBoundary s.kpr.tariff s.kpr.ledger.openI.start ≤ s.kpr.cal) && s.pwr.input

/-- One due boundary is processed, and the ledger mirrored while Bronze runs (R369, R371, R375). -/
def intervalBoundary (s : State) : State :=
  if boundaryDue s then
    let t := boundaryAt s (nextBoundary s.kpr.tariff s.kpr.ledger.openI.start) id id true
    if bronzeRuns t then requestLedger t .other else t
  else s

/-- INTERVAL_BOUNDARY (R369). -/
def execIntervalBoundary (s : State) : Answer := .next (intervalBoundary s)

/-- METER_UPDATE: the energy measured since the last update joins the open interval; an outage adds none (R364, R365). -/
def execMeterUpdate (nWh milliwatts milliHz : Nat) (s : State) : Answer :=
  .next (if !s.pwr.input then s
    else
      let t := s.modLedger fun l => { l with openEnergy := l.openEnergy + nWh, pNow := sat 32 milliwatts }
      { t with pwr := { t.pwr with acFreqBad := s.pwr.mains && (decide (milliHz < 45000) || decide (65000 < milliHz)) } })

/-- ENERGY READ: the snapshot (R373). -/
def execEnergyReadSnapshot (f : FoldId) (k : Nat) (s : State) : Answer :=
  .next (match runningAs s f k .energyRead with
  | some d => if bit d.fld.opfield 0 then s else finish (deliver s f k (ledgerSnapshot s)) f k .ok 128
  | none => s)

/-- ENERGY READ: the interval ring (R373). -/
def execEnergyReadRing (f : FoldId) (k : Nat) (s : State) : Answer :=
  .next (match runningAs s f k .energyRead with
  | some d => if bit d.fld.opfield 0 then finish (deliver s f k (ringBytes s.kpr.ledger)) f k .ok 1536 else s
  | none => s)

/-- ENERGY CLOSE: the period closes at the next boundary (R374). -/
def execEnergyClose (k : Nat) (s : State) : Answer :=
  .next (match runningAs s 0 k .energyClose with
  | some _ =>
    { (s.modDesc 0 k fun d => { d with stage := .waiting }) with kpr := { s.kpr with closing := s.kpr.closing ++ [k] } }
  | none => s)

/-- TARIFF SET: a valid schedule's record is committed (R366, R368). -/
def execTariffSet (k : Nat) (rec : List Byte) (s : State) : Answer :=
  .next (match runningAs s 0 k .tariffSet with
  | none => s
  | some _ => match tariffOf rec with
    | none => finish s 0 k .badField 0
    | some t =>
      requestRecord (s.modDesc 0 k fun d => { d with stage := .commit }) 4 1 (some (.schedule t)) 64 .other
        (some (.region 4)) (.tariff k))

/-! ### Setting time (R358 to R363) -/

/-- TIME SET: a step (R358 to R360). -/
def execTimeSetStep (k : Nat) (rec : List Byte) (s : State) : Answer :=
  .next (match runningAs s 0 k .timeSet with
  | none => s
  | some _ =>
    let mode := byteAt rec 0
    let sub := le16 rec 2
    let y := le16 rec 10
    if mode = 1 then s
    else if 1 < mode ∨ byteAt rec 1 ≠ 0 ∨ 32768 ≤ sub ∨ byteAt rec 9 ≠ 0 then finish s 0 k .badField 0
    else if !dateOk y (byteAt rec 8) (byteAt rec 7) (byteAt rec 6) (byteAt rec 5) (byteAt rec 4) then finish s 0 k .badDate 0
    else
      let cal := dayOfDate y (byteAt rec 8) (byteAt rec 7) * 86400 + byteAt rec 6 * 3600 + byteAt rec 5 * 60 + byteAt rec 4
      let first := s.kpr.tick + 1
      let ahead := (le32 rec 12 + 2 ^ 32 - first % 2 ^ 32) % 2 ^ 32
      if le32 rec 12 ≠ 0 ∧ 2 ^ 20 < ahead then finish s 0 k .badField 0
      else
        { (s.modDesc 0 k fun d => { d with stage := .waiting }) with
          kpr := { s.kpr with step := some (if le32 rec 12 = 0 then first else first + ahead, cal, sub, k) } })

/-- round(OFFSET × 32.768) (R361). -/
def slewTicks (ms : Int) : Int := roundDiv (ms * 32768) 1000

/-- TIME SET: a slew (R358, R361). -/
def execTimeSetSlew (k : Nat) (rec : List Byte) (s : State) : Answer :=
  .next (match runningAs s 0 k .timeSet with
  | none => s
  | some _ =>
    let mode := byteAt rec 0
    let off := int32 (le32 rec 12)
    if mode = 0 then s
    else if 1 < mode ∨ byteAt rec 1 ≠ 0 ∨ 60000 < off.natAbs ∨ s.kpr.calValid = false then finish s 0 k .badField 0
    else
      let t := endSlew s
      let t := { t with kpr := { t.kpr with slew := slewTicks off, slewPhase := 0 } }
      let t := if off = 0 then t else t.modLedger fun l => { l with openI := { l.openI with slewed := true } }
      finish t 0 k .ok 0)

/-- TIME_STEP: the scheduled step is applied at its tick: the open interval closes short, the calendar takes the new value,
and a new interval opens (R360, R363, R371). -/
def execTimeStep (s : State) : Answer :=
  .next (match s.kpr.step with
  | none => s
  | some (at_, cal, sub, k) =>
    if s.kpr.tick < at_ then s
    else
      let s := intervalBoundary s
      let old := s.kpr.cal
      let diff := clampI (-2147483647) 2147483647 ((cal : Int) - old)
      let t := closeInterval s old fun i => { i with shortTimeSet := true }
      let t := endSlew { t with kpr := { t.kpr with step := none } }
      let t := { t with kpr := { t.kpr with cal := cal, subsec := sub, calValid := true, atEnd := false } }
      let t := openInterval t cal fun i => { i with shortTimeSet := true }
      let t := t.modLedger fun l => { l with steps := sat 16 (l.steps + 1) }
      let t := postEvent t 0 evTimeStep (w32 (toBits 32 diff))
      let t := logNote t logTimeStep (w32 (toBits 32 diff)) 0 old
      let t := if bronzeRuns t then requestLedger t .other else t
      finish t 0 k .ok 0)

/-! ### Outages (R341, R365, R371, R372) -/

/-- An input loss: the interval that contains t0 carries POWER_FAIL, and LOSSES counts the outage (R371, Table 14.6). -/
def outageBegins (s : State) : State :=
  (s.modLedger fun l => { l with openI := { l.openI with powerFail := true }, losses := sat 16 (l.losses + 1) })

/-- Boundaries of an outage in calendar order, with the boundaries and tariff switches counted (R372). -/
def crossGo : Nat → State → Nat → Nat → State × Nat × Nat
  | 0, s, n, w => (s, n, w)
  | fuel + 1, s, n, w =>
    let b := nextBoundary s.kpr.tariff s.kpr.ledger.openI.start
    if s.kpr.cal < b ∨ s.kpr.atEnd = true then (s, n, w)
    else
      let t := boundaryAt s b (fun i => { i with crossedInOutage := true }) id false
      crossGo fuel t (n + 1) (w + b2n (t.kpr.ledger.openI.band != s.kpr.ledger.openI.band))

/-- An outage ends: every boundary within it is processed, the interval in force carries POWER_RETURN (R372). Boundaries
beyond the number `crossGo` is given are as many as the interval from the open interval's start to now holds. -/
def outageEnds (s : State) : State × Nat × Nat :=
  let fuel := (s.kpr.cal - s.kpr.ledger.openI.start) / 300 + 1
  let (t, n, w) := crossGo fuel s 0 0
  let mark (l : Ledger) : Ledger := { l with openI := { l.openI with powerReturn := true } }
  (t.modLedger mark, n, w)

end Sys2Proof.Machine
end

