-- ==== Sys2Proof/Machine/Watchdogs.lean ====
section
/-! DEFINITION. Machine/Watchdogs.lean: retained evidence, the collie with its safe stop, WDOG_N, the watchdog clocks, the
keeper mirror and the event log; and the mechanism falling free (chapter 15, R51). -/
namespace Sys2Proof.Machine

/-! ### Evidence and the keeper mirror (R298, R353, R388) -/

/-- The keeper mirror's record is asked for, or the one that still waits takes the new contents (R298). -/
def requestMirror (s : State) : State :=
  let pl := Payload.mirror s.kpr.tick s.kpr.evidence
  let t := { s with kpr := { s.kpr with mirrorDirty := false, mirrorTick := s.kpr.tick } }
  let waits (q : Prog) : Bool := q.region == 7 && q.id == 0 && !q.begun
  let put (q : Prog) : Prog := { q with payload := some pl }
  if s.mram.queue.any waits then { t with mram := { t.mram with queue := updFirst waits put t.mram.queue } }
  else requestRecord t 7 0 (some pl) 32 .mirror (some (.region 7)) .nothing

/-- Changed evidence is mirrored while Bronze runs, and otherwise at the next start or exit from DOZE (R388). -/
def flushMirror (s : State) : State := if s.kpr.mirrorDirty && bronzeRuns s then requestMirror s else s

/-- A change of retained evidence with its cause and tick (R388). -/
def evidenceChange (s : State) (cause tick : Nat) (g : Evidence → Evidence) : State :=
  flushMirror { s with kpr := { s.kpr with mirrorDirty := true
                                           evidence := { g s.kpr.evidence with lastCause := cause, lastTick := tick } } }

/-- KEEPER_MIRROR_COMMIT: 2²⁷ ticks have passed since the last mirror (R353). -/
def execKeeperMirrorCommit (s : State) : Answer :=
  .next (if bronzeRuns s && (s.kpr.mirrorDirty || decide (s.kpr.mirrorTick + 2 ^ 27 ≤ s.kpr.tick)) then requestMirror s else s)

/-! ### WDOG_N (R383, R387) -/

/-- WDOG_N is low. -/
def wdogIsLow (s : State) : Bool := s.kpr.wdogLow || s.kpr.wdogBoth

/-- Set what drives WDOG_N; the pin follows. -/
def setWdog (s : State) (low : Bool) (until_ : Option Nat) (both : Bool) : State :=
  let t := { s with kpr := { s.kpr with wdogLow := low, wdogUntil := until_, wdogBoth := both } }
  if wdogIsLow t == wdogIsLow s then t else t.emit (.wdogN (wdogIsLow t))

/-- ACT_WDOG: low for WDOG_PULSE ms, or held with 0; a new expiry restarts the pulse (R383). -/
def assertWdog (s : State) : State :=
  let ms := bits s.kpr.wdgCtl 15 8
  setWdog s true (if ms = 0 then none else some (s.us + ms * 1000)) s.kpr.wdogBoth

/-- A held WDOG_N is released; a pulse runs to its end (R377, R383; log entry 47). -/
def releaseHeld (s : State) : State :=
  if s.kpr.wdogLow && s.kpr.wdogUntil.isNone then setWdog s false none s.kpr.wdogBoth else s

/-- WDOG_PULSE_END (R383). -/
def execWdogPulseEnd (s : State) : Answer :=
  .next (match s.kpr.wdogUntil with
  | some u => if s.kpr.wdogLow && decide (u ≤ s.us) then setWdog s false none s.kpr.wdogBoth else s
  | none => s)

/-! ### The safe stop (R382) and the mechanism's fall free -/

/-- Change the collie. -/
def State.modCollie (s : State) (g : Watchdog → Watchdog) : State := { s with kpr := { s.kpr with collie := g s.kpr.collie } }

/-- LD_EN drops, the loops open and the spindle makes a braked stop: the disc is parked (R382, R407, R409). -/
def parkMechanism (s : State) : State :=
  let t := brakeSpindle (openLoops (dropLaser s))
  { t with sys := { t.sys with parked := true }, chan := { idleChannel t.chan with accepted := false } }

/-- The sled decelerates to rest and keeps its position (R382; log entry 53). -/
def restSled (s : State) : State :=
  let t := { s with sled := { s.sled with seek := none, settling := false } }
  match s.sled.move with
  | .move a _ _ => sledRests t ((s.sled.pos - a) / 16777216)
  | .rest => t
  | _ => { t with sled := { t.sled with move := .rest, restAt := t.us } }

/-- A safe stop's effect on a mechanism that no recording keeps. -/
def stopSafely (s : State) : State := restSled (parkMechanism s)

/-- ACT_STOP: the command in progress stops at its next unit boundary with ABORTED, speculation ends, and the mechanism
stops once no unit is being recorded; in VIGIL and DOZE only the bit is set (R382). -/
def safeStop (s : State) : State :=
  let t := s.modCollie fun w => { w with safeStop := true }
  if !linksUp t then t
  else
    let t := match jobDesc t with
      | some _ => stopAtBoundary t .aborted
      | none => match t.job with
        | some j => if j.ended then t else { t with job := none }
        | none => t
    if t.servo.wgate then t else stopSafely t

/-- A valid service, an arming or a disarming ends a safe stop and releases a held WDOG_N (R377, R382, R383). -/
def endStop (s : State) : State := releaseHeld (s.modCollie fun w => { w with safeStop := false })

/-- MECHANISM_FREE: the command has ended and the mechanism is free; its time is charged to its fold, and the mode follows
(R50, R51, R106). A SEALED READ whose tag is being verified completes with it (R318). A safe stop that waited for a recording
now stops the mechanism (R382). -/
def execMechanismFree (s : State) : Answer :=
  .next (match s.job with
  | none => s
  | some j =>
    if !j.ended then s
    else
      let used := s.us - j.at_
      let t := takePace { s with job := none, sys := { s.sys with idleSince := s.us } }
      let t := match s.desc? j.f j.k with
        | none => t
        | some d =>
          let u := t.modDesc j.f j.k fun d => { d with mechUs := used }
          if lockHeldBy s j.f j.k && lockVerifying s then u else finish u j.f j.k d.status d.bytes
      let t := if j.uncharged then t else t.modFold j.f fun x => { x with deficit := x.deficit - (used : Nat) }
      let t := { t with sys := { t.sys with mode := modeWhenFree t } }
      endTurn (if t.kpr.collie.safeStop && linksUp t then stopSafely t else t) j.f)

/-! ### The collie (R377 to R381) -/

/-- The token for a challenge (R378). -/
def collieToken (seed c : Word) : Word := (c * 0x9E3779B9) ^^^ rotl32 seed (c.toNat % 32)

/-- The next challenge (R378). -/
def challengeStep (c : Word) : Word := (c >>> 1) ^^^ (if bit c 0 then 0x80200003 else 0)

/-- E: whole units of 32 ticks since a watchdog's reference (R379; log entry 46). -/
def unitsSince (s : State) (w : Watchdog) : Nat := (s.kpr.tick - w.ref) / 32

/-- An expiry, in the order of R381; reason 1 is LATE, 2 EARLY, 3 STRIKES (Tables 15.3, 15.8; log entry 49). -/
def collieExpire (s : State) (reason tick : Nat) : State :=
  let c := s.kpr.collie
  let t := evidenceChange s 0x0A tick fun e => { e with expiries := sat 16 (e.expiries + 1) }
  let t := t.modCollie fun w => { w with ref := tick, chal := challengeStep w.chal, strikes := 0, lastResult := 3
                                         expiredAt := some tick }
  let acts := b2n c.actEvent + 2 * b2n c.actStop + 4 * b2n c.actWdog
  let dw2 := w32 (reason + 256 * acts + 65536 * t.kpr.evidence.expiries)
  let t := if c.actEvent then postEvent t 0 evCollieExpiry dw2 else logNote t evCollieExpiry dw2 0 0
  let t := if c.actStop then safeStop t else t
  if c.actWdog then assertWdog t else t

/-- The window has closed with no valid service (Table 15.2, Late). -/
def collieLate (s : State) : Bool := s.kpr.collie.armed && decide (s.kpr.collie.wClose ≤ unitsSince s s.kpr.collie)

/-- The late expiry falls on the tick at which the window closed (Table 15.2). -/
def expireLate (s : State) : State := collieExpire s 1 (s.kpr.collie.ref + 32 * s.kpr.collie.wClose)

/-- A valid service (Table 15.2). -/
def collieValid (s : State) : State :=
  endStop (s.modCollie fun w => { w with ref := s.kpr.tick, chal := challengeStep w.chal, strikes := 0, lastResult := 1 })

/-- A wrong token below the limit is a strike; COLLIE_STRIKE is posted with ACT_EVENT (Tables 15.2, 15.8). -/
def collieStrike (s : State) : State :=
  let n := s.kpr.collie.strikes + 1
  let t := s.modCollie fun w => { w with strikes := n, lastResult := 2 }
  if s.kpr.collie.actEvent then postEvent t 0 evCollieStrike (w32 n) else t

/-- Judge a token latched at the present tick (Table 15.2). -/
def judgeToken (s : State) (tok : Word) : State :=
  if !s.kpr.collie.armed then s
  else
    let s := if collieLate s then expireLate s else s
    let c := s.kpr.collie
    if c.expiredAt = some s.kpr.tick then s.modCollie fun w => { w with lateTokens := sat 8 (w.lateTokens + 1) }
    else if unitsSince s c < c.wOpen then collieExpire s 2 s.kpr.tick
    else if tok = collieToken c.seed c.chal then collieValid s
    else if c.strikes + 1 < c.limit then collieStrike s
    else collieExpire s 3 s.kpr.tick

/-- The collie's parameters in a descriptor (Table 15.1). -/
def armedCollie (w : Watchdog) (x : Fields) (chal : Word) (tick : Nat) : Watchdog :=
  { w with armed := true, seed := BitVec.ofNat 32 (bits x.opdata 31 0), chal := chal, wOpen := bits x.opdata 47 32
           wClose := bits x.opdata 63 48, limit := bits x.opfield 1 0, strikes := 0, ref := tick
           actEvent := bit x.opfield 2, actStop := bit x.opfield 3, actWdog := bit x.opfield 4, expiredAt := none }

/-- COLLIE ARM: the parameters apply at the next keeper tick, which becomes the reference (R377; log entry 45). -/
def execCollieArm (k : Nat) (s : State) : Answer :=
  .next (match runningAs s 0 k .collieArm with
  | none => s
  | some d =>
    if bit d.fld.opfield 5 then s
    else
      let (c, t) := drawChallenge s
      let t := endStop t
      finish (t.modCollie fun w => armedCollie w d.fld c (s.kpr.tick + 1)) 0 k .ok 0)

/-- COLLIE ARM with DISARM = 1 (R377). -/
def execCollieDisarm (k : Nat) (s : State) : Answer :=
  .next (match runningAs s 0 k .collieArm with
  | none => s
  | some d =>
    if bit d.fld.opfield 5 then
      finish (endStop (s.modCollie fun w => { w with armed := false, strikes := 0 })) 0 k .ok 0
    else s)

/-- COLLIE SERVE: the token is latched at the next keeper tick; BAD_FIELD while the collie is disarmed (R380). -/
def execCollieServe (k : Nat) (s : State) : Answer :=
  .next (match runningAs s 0 k .collieServe with
  | none => s
  | some d =>
    if !s.kpr.collie.armed then finish s 0 k .badField 0
    else
      let tok : Word := BitVec.ofNat 32 (bits d.fld.opdata 31 0)
      let t := s.modDesc 0 k fun d => { d with stage := .waiting }
      { t with kpr := { t.kpr with latch := t.kpr.latch ++ [(k, tok, t.kpr.tick + 1)] } })

/-- COLLIE_TOKEN_LATCH: the next token whose tick has come is latched and judged, a descriptor's before the sideband's; the
descriptor completes OK whatever the judgement (R379, R380). -/
def execCollieTokenLatch (s : State) : Answer :=
  let fromSideband : State := match s.kpr.sbToken with
    | some (tok, at_) => if at_ ≤ s.kpr.tick then judgeToken { s with kpr := { s.kpr with sbToken := none } } tok else s
    | none => s
  .next (match s.kpr.latch with
  | (k, tok, at_) :: rest =>
    if at_ ≤ s.kpr.tick then finish (judgeToken { s with kpr := { s.kpr with latch := rest } } tok) 0 k .ok 0 else fromSideband
  | [] => fromSideband)

/-- COLLIE_EXPIRY: no valid service by the close tick (R379, R381). -/
def execCollieExpiry (s : State) : Answer := .next (if collieLate s then expireLate s else s)

/-- Count an ignored sideband write or serve (R380, R412). -/
def sbIgnore (s : State) : State := { s with kpr := { s.kpr with sbIgnored := sat 8 (s.kpr.sbIgnored + 1) } }

/-- The sideband target answers: the keeper runs, and the transaction names the address that ADDR_SEL straps (R26, R412). -/
def sbAnswers (s : State) (target : Nat) : Bool := s.kpr.running && target == if s.kpr.addrHigh then 0x5B else 0x5A

/-- SB_SERVE: four bytes from 0x0C, in VIGIL or DOZE; any other write there is discarded and counted (R380, R413; log
entry 48). -/
def execSbServe (target : Nat) (bytes : List Byte) (s : State) : Answer :=
  .next (if !sbAnswers s target then s
    else if bytes.length = 4 ∧ (s.sys.mode = .vigil ∨ s.sys.mode = .doze) ∧ s.kpr.collie.armed = true then
      { s with kpr := { s.kpr with sbToken := some (w32 (le32 bytes 0), s.kpr.tick + 1) } }
    else sbIgnore s)

/-! ### Watchdog clocks (R386, R387) -/

/-- The watchdog's clock is the RC oscillator (Table 15.7). -/
def onRc (s : State) (d : Dog) : Bool :=
  match d with
  | .collie => bit s.kpr.wdgCtl 0
  | .internal => bit s.kpr.wdgCtl 1

/-- Select a watchdog's clock. -/
def setSource (s : State) (d : Dog) (rc : Bool) : State :=
  let i := match d with
    | .collie => 0
    | .internal => 1
  { s with kpr := { s.kpr with wdgCtl := setBit s.kpr.wdgCtl i rc } }

/-- An oscillator stops; the keeper tick moves to the RC oscillator when the crystal does (R356). -/
def oscStops (s : State) (o : Osc) : State :=
  match o with
  | .crystal => { s with kpr := { s.kpr with crystalOk := false, rcTime := true } }
  | .rc => { s with kpr := { s.kpr with rcOk := false } }

/-- A watchdog's monitor works: the keeper runs, and for the internal one Bronze does (R384). -/
def dogRuns (s : State) (d : Dog) : Bool :=
  s.kpr.running && (match d with
    | .collie => true
    | .internal => s.kpr.internal.armed)

/-- CLOCK_TRIP: a stopped oscillator is found by the other. The watchdog moves to the monitor, or, where the monitor stopped,
stays; the trip counts, and CLOCK_STOP is posted (R386, R387). With both stopped no monitor counts, and its circuit holds
WDOG_N low (R387; log entry 46). -/
def execClockTrip (d : Dog) (stopped : Osc) (s : State) : Answer :=
  .next (if !dogRuns s d then s
    else
      let t := oscStops s stopped
      if !t.kpr.crystalOk && !t.kpr.rcOk then setWdog t t.kpr.wdogLow t.kpr.wdogUntil true
      else
        let selected := onRc s d == (stopped == .rc)
        let t := if selected then setSource t d (stopped == .crystal) else t
        let t := evidenceChange t 0x0B t.kpr.tick fun e => { e with clkTrips := sat 8 (e.clkTrips + 1) }
        postEvent t 0 evClockStop (w32 (b2n (stopped == .rc) + 2 * b2n (!selected) + 256 * t.kpr.evidence.clkTrips)))

/-- An oscillator runs: the tick leaves the RC oscillator with the crystal, and the monitor's hold ends (R356, R387). -/
def oscRuns (s : State) (o : Osc) : State :=
  let t : State := match o with
    | .crystal => { s with kpr := { s.kpr with crystalOk := true, rcTime := false } }
    | .rc => { s with kpr := { s.kpr with rcOk := true } }
  setWdog t t.kpr.wdogLow t.kpr.wdogUntil false

/-- OSCILLATOR_RESUME: an oscillator runs again after both had stopped (R387). -/
def execOscillatorResume (o : Osc) (s : State) : Answer := .next (if s.kpr.wdogBoth then oscRuns s o else s)

/-- X32_CRYSTAL_START: the crystal starts, or runs again (R356, R445). -/
def execX32CrystalStart (s : State) : Answer := .next (if s.kpr.running then oscRuns s .crystal else s)

/-- WDG_CTL_WRITE: a write that selects an oscillator that does not run is ignored (R386, Table 15.7). -/
def execWdgCtlWrite (v : Word) (s : State) : Answer :=
  let runs (rc : Bool) : Bool := if rc then s.kpr.rcOk else s.kpr.crystalOk
  .next (onBar s 0 fun s => if runs (bit v 0) && runs (bit v 1) then { s with kpr := { s.kpr with wdgCtl := v &&& 0xFF03 } } else s)

/-! ### The event log (R392 to R394) -/

/-- LOG_BLOCK_COMMIT: 30 staged entries, or 10 s since the first of fewer, become a block (R393). -/
def execLogBlockCommit (s : State) : Answer :=
  .next (match s.log.staged with
  | [] => s
  | e :: _ =>
    if !bronzeRuns s || s.log.committing != 0 || decide (s.log.staged.length < 30 ∧ s.kpr.tick < e.tick + 327680) then s
    else
      let block := s.log.staged.take 30
      requestRecord { s with log := { s.log with committing := block.length } } 5 s.log.nextBlock (some (.log block)) 960 .other
        (some (.region 5)) .logBlock)

/-- A block has been committed (R393). -/
def logCommitted (s : State) : State :=
  { s with log := { s.log with staged := s.log.staged.drop s.log.committing, committing := 0
                               nextBlock := (s.log.nextBlock + 1) % 120 } }

/-- An entry's 32 bytes (Table 15.6). -/
def logEntryBytes (e : LogEntry) : List Byte :=
  leBytes 6 e.tick ++ leBytes 2 e.code ++ leBytes 4 e.detail.toNat ++ leBytes 5 e.cal ++ leBytes 1 e.flags ++
    leBytes 1 e.fold ++ [0] ++ leBytes 8 e.extra ++ leBytes 4 e.seq

/-- The entries of a record. -/
def recEntries (r : Rec) : List LogEntry :=
  match r.payload with
  | .log l => if r.region = 5 ∧ r.unreadable = false then l else []
  | _ => []

/-- Every entry held, in SEQ order: the committed blocks, then what is staged (R394). -/
def logEntries (s : State) : List LogEntry :=
  sortBy (fun a b => decide (a.seq < b.seq)) (s.mram.recs.flatMap recEntries) ++ s.log.staged

/-- The committed blocks that hold entries from a SEQ on are read from the MRAM (R293, R297). -/
def readLog (s : State) (from_ : Nat) : State :=
  readPages s (s.mram.recs.flatMap fun r => if (recEntries r).any fun e => decide (from_ ≤ e.seq) then r.pages else []) 0

/-- LOG READ (R394). With no entry held, the oldest and the newest SEQ are free values (log entry 54). -/
def execLogRead (k : Nat) (s : State) : Answer :=
  .next (match runningAs s 0 k .logRead with
  | none => s
  | some d =>
    let s := readLog s (lbaOf d.fld)
    let l := (logEntries s).eraseDups
    let wanted := (l.filter fun e => decide (lbaOf d.fld ≤ e.seq)).take (d.fld.length / 32)
    let free (i : Nat) : Nat := (Config.openWord i s.draws).toNat
    let oldest := ((l.head?).map (·.seq)).getD (free 10)
    let newest := ((l.getLast?).map (·.seq)).getD (free 11)
    let t := { s with draws := s.draws + 1 }
    let t := setAux t 0 k (leBytes 4 oldest ++ leBytes 4 newest)
    finish (deliver t 0 k (wanted.flatMap logEntryBytes)) 0 k .ok (32 * wanted.length))

/-! ### BOOT_FAILS -/

/-- BOOT_FAILS_CLEAR: READY has held for 10 s (R400). -/
def execBootFailsClear (s : State) : Answer :=
  .next (if s.sys.ready && s.sys.mode != .vigil && decide (s.sys.readyAt + 10000000 ≤ s.us) then
    { s with kpr := { s.kpr with bootFails := 0, bootFailedOnce := false } }
  else s)

/-- SB_IGNORED_CLEAR (Table 16.7). -/
def execSbIgnoredClear (target : Nat) (s : State) : Answer :=
  .next (if sbAnswers s target then { s with kpr := { s.kpr with sbIgnored := 0 } } else s)

end Sys2Proof.Machine
end

