-- ==== Sys2Proof/Machine/Commit.lean ====
section
/-! DEFINITION. Machine/Commit.lean: MRAM page programs: read-back, retirement, commits and what each brings, refresh, wear
levelling, and the records that start-up, a VIGIL entry and an input loss commit at once (R293 to R303). -/
namespace Sys2Proof.Machine

/-- A descriptor that waits for its commit ends with it. -/
def finishCommit (s : State) (f : FoldId) (k : Nat) (st : Status) (bytes : Nat) : State :=
  match s.desc? f k with
  | some d => if d.stage == .commit then finish s f k st bytes else s
  | none => s

/-- LENGTH of a descriptor. -/
def lengthOf (s : State) (f : FoldId) (k : Nat) : Nat := ((s.desc? f k).map (·.fld.length)).getD 0

/-! ### Firmware image pages (R402) -/

/-- The image slot of a number: 0 is A, 1 is B. -/
def imageSlot (s : State) (n : Nat) : ImageSlot := if n = 0 then s.mram.imageA else s.mram.imageB

/-- Put back an image slot. -/
def setImage (s : State) (n : Nat) (x : ImageSlot) : State :=
  if n = 0 then { s with mram := { s.mram with imageA := x } } else { s with mram := { s.mram with imageB := x } }

/-- Bytes cut into pages of 256. -/
def pagesOf : Nat → List Byte → List (List Byte)
  | 0, _ => []
  | n + 1, l => l.take 256 :: pagesOf n (l.drop 256)

/-- Program the pages of an image as written, from a byte offset (R402). -/
def programImage (s : State) (n off : Nat) (image : List Byte) : State :=
  let put (a : State × Nat) (page : List Byte) : State × Nat :=
    let p := regionBase n + a.2
    let x := imageSlot a.1 n
    let t := setImage a.1 n { factory := false, pages := putKey a.2 page x.pages }
    ({ t with mram := wearUp { t.mram with strengthAt := putKey p (strengthCode t n) t.mram.strengthAt } p }, a.2 + 1)
  ((pagesOf (image.length / 256) image).foldl put (s, off / 256)).1

/-- A byte of an image slot: downloaded, or of the factory image, whose content is a free value. -/
def imageByte (s : State) (n i : Nat) : Byte :=
  match getKey (i / 256) (imageSlot s n).pages with
  | some page => page.getD (i % 256) 0
  | none => Config.mramPageByte (regionBase n + i / 256) 0 (i % 256)

/-- Bytes of an image slot. -/
def imageBytes (s : State) (n off len : Nat) : List Byte := (List.range len).map fun i => imageByte s n (off + i)

/-- The slot that is not ACTIVE. -/
def otherSlot (b : BootRecord) : Nat := 1 - b.active

/-- An image's SVN (Table 16.3). -/
def imageSvn (s : State) (n : Nat) : Nat :=
  if (imageSlot s n).factory then (Config.factoryImage n).2.1 else (imageByte s n 5).toNat

/-- LEVEL_MAX and VERSION of an image (Table 16.3); the factory image's LEVEL_MAX is the one of PWR_BOOT (Table 17.3). -/
def imageLevel (s : State) (n : Nat) : Nat :=
  if (imageSlot s n).factory then 1 else (imageByte s n 6).toNat
def imageVersion (s : State) (n : Nat) : Word :=
  if (imageSlot s n).factory then (Config.factoryImage n).2.2 else w32 (le32 (imageBytes s n 8 4) 0)

/-- A header is as Table 16.3 gives it. -/
def headerOk (h : List Byte) : Bool :=
  le32 h 0 == 0x4C525655 && byteAt h 4 == 1 && byteAt h 7 == 0 && le32 h 12 % 256 == 0 && decide (le32 h 12 ≤ 1048320) &&
    ((h.drop 20).take 172).all (· == 0)

/-- A page of an image does not decode (R294). -/
def imageSpoilt (s : State) (n : Nat) : Bool :=
  s.mram.found.any fun x => x.2.isNone && regionOf x.1 == n &&
    ((imageSlot s n).factory || decide (x.1 - regionBase n ≤ le32 (imageBytes s n 12 4) 0 / 256))

/-- An image is valid (R398): its layout, its SVN against the rollback count, its level and its signature. -/
def imageValid (s : State) (n : Nat) : Bool :=
  decide (s.sys.rollback ≤ imageSvn s n) && decide (1 ≤ imageLevel s n) && !imageSpoilt s n &&
    if (imageSlot s n).factory then (Config.factoryImage n).1
    else
      let h := imageBytes s n 0 256
      headerOk h && decide (imageSvn s n ≤ 64) &&
        Config.signatureOk (h.take 192) (h.drop 192) (imageBytes s n 256 (le32 h 12))

/-- Fuses are blown up to an image's SVN (R399, R403). -/
def blowFuses (s : State) (n : Nat) : State := { s with sys := { s.sys with rollback := max s.sys.rollback (min 64 (imageSvn s n)) } }

/-! ### What a commit brings -/

/-- The items with no calibrated value (R417). -/
def uncalOf (c : CalRecord) : BitVec 6 :=
  BitVec.ofNat 6 ((c.items.zipIdx.map fun p => if p.1.isNone then 2 ^ p.2 else 0).foldl (· + ·) 0)

/-- A KEY LOAD's record is committed: the slot takes the key, and a reservation still waiting for the old one lapses (R310).
If a reset has ended the descriptor meanwhile, the slot stays empty and its record is deleted (R312). -/
def keyLoaded (s : State) (f : FoldId) (k slot : Nat) (r : SlotRecord) : State :=
  let i : Fin 17 := Fin.ofNat 17 slot
  let stale (q : Prog) : Bool := q.act == .reserve slot && !q.begun
  let s := { s with mram := { s.mram with queue := s.mram.queue.filter fun q => !stale q } }
  match s.desc? f k with
  | some d =>
    if d.stage != .commit then s
    else
      let t := s.setSlot i { st := .loaded, key := r.key, aes256 := r.aes256, guarded := r.guarded, salt := r.salt, counter := 1
                             useLimit := r.useLimit, reservedTo := r.reservedTo }
      finish t f k .ok 0
  | none =>
    let t := { s with kpr := { s.kpr with slotClear := s.kpr.slotClear ||| ((1 : BitVec 16) <<< slot) } }
    requestRecord t 6 slot none 0 .other (some (.region 6)) (.slotDeleted slot)

/-- A reservation is committed (R315). -/
def slotReserved (s : State) (slot : Nat) (r : SlotRecord) : State :=
  let i : Fin 17 := Fin.ofNat 17 slot
  let x := s.slot i
  wakeReserve (s.setSlot i { x with reserving := false, reservedTo := if x.st = .empty then x.reservedTo else r.reservedTo })

/-- A record's header has been programmed: its owner goes on. -/
def onCommit (s : State) (q : Prog) : State :=
  match q.act, q.payload with
  | .nothing, _ => s
  | .vaultPut f k, _ => finishCommit s f k .ok (lengthOf s f k)
  | .vaultDelete f k, _ => finishCommit s f k .ok 0
  | .keyLoad f k slot, some (.slot r) => keyLoaded s f k slot r
  | .keyClear f k _, _ => finishCommit s f k .ok 0
  | .slotDeleted slot, _ => { s with kpr := { s.kpr with slotClear := s.kpr.slotClear &&& ~~~((1 : BitVec 16) <<< slot) } }
  | .reserve slot, some (.slot r) => slotReserved s slot r
  | .tariff k, some (.schedule t) =>
    finishCommit { s with kpr := { s.kpr with pending := some t } } 0 k .ok (lengthOf s 0 k)
  | .logBlock, _ => logCommitted s
  | .calibrate k, some (.calibration c) =>
    finishCommit { s with sys := { s.sys with cal := c, uncal := uncalOf c } } 0 k .ok 8
  | .bootDownload k off image, some (.boot b) =>
    finishCommit (programImage { s with sys := { s.sys with boot := b } } (otherSlot b) off image) 0 k .ok image.length
  | .bootTry k, some (.boot b) =>
    finishCommit { s with sys := { s.sys with boot := b, restartReq := true } } 0 k .ok 0
  | .bootConfirm k, some (.boot b) =>
    finishCommit (blowFuses { s with sys := { s.sys with boot := b } } b.active) 0 k .ok 0
  | _, _ => s

/-- The record cannot be written: its region has too few free pages; the owner's command is a MEMORY_FAULT (R301, R310). -/
def onNoPages (s : State) (q : Prog) : State :=
  match q.act with
  | .nothing | .slotDeleted _ => s
  | .vaultPut f k | .vaultDelete f k | .keyLoad f k _ | .keyClear f k _ => finishCommit s f k .memoryFault 0
  | .reserve slot =>
    let i : Fin 17 := Fin.ofNat 17 slot
    s.setSlot i { s.slot i with reserving := false }
  | .tariff k | .calibrate k | .bootDownload k _ _ | .bootConfirm k => finishCommit s 0 k .memoryFault 0
  | .bootTry k =>
    finishCommit { s with sys := { s.sys with drainAll := false } } 0 k .memoryFault 0
  | .logBlock => { s with log := { s.log with committing := 0 } }

/-! ### One page program (R298, R301) -/

/-- A read-back fails the test: uncorrectable, or t / 2 bits or more corrected (R301). -/
def backBad (code : Nat) (back : DecodeBits) : Bool :=
  match back with
  | none => true
  | some c => decide (strengthT code / 2 ≤ c)

/-- The read-back's decode counts a correction, and the page goes on holding what it found (R289). -/
def backCounts (s : State) (p : Nat) (back : DecodeBits) : State :=
  match back with
  | some 0 => s
  | some c => eccCorrect { s with mram := setFound s.mram p (some c) } 3
  | none => { s with mram := setFound s.mram p none }

/-- A page is retired: WEAR 0xFFFF_FFFF, never allocated again, counted (R301). -/
def retirePage (s : State) (p : Nat) : State :=
  { s with mram := { s.mram with wear := putKey p 0xFFFFFFFF s.mram.wear, retiredPages := s.mram.retiredPages ++ [p] }
           ecc := { s.ecc with retired := s.ecc.retired + 1 } }

/-- The program of a page meets the armed flip, adds to its WEAR and stores it at a strength (R294, R300, R304). -/
def programPage (s : State) (p code : Nat) (own : Bool) : State :=
  let t := flipMeets s 4 fun a => a / 256 == p
  let l := if own then putKey p code t.mram.strengthAt else delKey p t.mram.strengthAt
  { t with mram := wearUp { t.mram with strengthAt := l } p }

/-- The record is written on other free pages after one of its pages has been retired, or cannot be written (R301). -/
def restartProg (s : State) (q : Prog) : State :=
  let m := putProg s.mram q none
  match pickPages q.pages m q.region [] with
  | some l => { s with mram := putProg s.mram q (some { q with used := l, left := q.pages, again := false }) }
  | none => onNoPages { s with mram := m } q

/-- A record in progress has one page programmed and read back. -/
def stepProg (s : State) (q : Prog) (back : DecodeBits) : State :=
  let p := q.used.getD (q.pages - q.left) 0
  let t := backCounts (programPage s p q.strength false) p back
  if backBad q.strength back then
    if q.again then restartProg (retirePage t p) q
    else { t with mram := putProg t.mram q (some { q with again := true }) }
  else if q.left ≤ 1 then
    levelWear (onCommit { t with mram := commitRecord (putProg t.mram q none) q } q) q.region
  else { t with mram := putProg t.mram q (some { q with left := q.left - 1, again := false }) }

/-- Refreshing rewrites a page in place at its region's strength in force (R293). A page that fails twice is retired, and its
record goes to other pages (R301). -/
def stepRefresh (s : State) (back : DecodeBits) : State :=
  match s.mram.refresh with
  | [] => s
  | p :: rest =>
    let code := strengthCode s (regionOf p)
    let t := backCounts (programPage s p code true) p back
    let done : State := { t with mram := { t.mram with refresh := rest, refreshAgain := false } }
    if !backBad code back then { done with ecc := { done.ecc with refreshed := sat 16 (done.ecc.refreshed + 1) } }
    else if !s.mram.refreshAgain then { t with mram := { t.mram with refreshAgain := true } }
    else
      let u := retirePage done p
      match u.mram.recs.find? fun r => r.pages.contains p with
      | none => u
      | some r =>
        let q : Prog := { region := r.region, id := r.id, payload := some r.payload, left := r.pages.length
                          pages := r.pages.length, prio := .refresh, sealing := r.sealing }
        beginIfIdle { u with mram := { u.mram with queue := u.mram.queue ++ [q] } }

/-- One page program completes, and the next page is chosen (R298). -/
def mramStep (s : State) (back : DecodeBits) : State :=
  match chooseProg s.mram.queue with
  | none => stepRefresh s back
  | some q => match beginProg s q with
    | none => onNoPages { s with mram := putProg s.mram q none } q
    | some b => beginIfIdle (stepProg { s with mram := putProg s.mram q (some b) } b back)

/-- Page programs start only while Bronze runs its firmware or RESCUE (R303). -/
def mramRuns (s : State) : Bool :=
  (s.sys.ready || s.sys.rescue) && s.sys.mode != .vigil && s.sys.mode != .doze

/-- MRAM_PAGE_PROGRAM (R298, R301). -/
def execMramPageProgram (back : DecodeBits) (s : State) : Answer := .next (if mramRuns s then mramStep s back else s)

/-! ### Commits made within another command (log entry 51) -/

/-- Write a record at once, its programs passing their read-back: the state, and the pages programmed. -/
def commitNow (s : State) (region id : Nat) (payload : Option Payload) (bytes : Nat) : State × Nat :=
  let n := if payload.isSome then recordPages bytes else 1
  match pickPages n s.mram region [] with
  | none => (s, 0)
  | some l =>
    let t := l.foldl (fun t p => programPage t p (strengthCode s region) false) (settleTokens s)
    let q : Prog := { region := region, id := id, payload := payload, left := 0, pages := n, begun := true, used := l
                      strength := strengthCode s region }
    ({ t with mram := commitRecord (spendTokens t.mram (.region region) (n + 1)) q }, n)

/-- The record in progress is programmed to its end (R298, R341). -/
def finishRecord : Nat → State → State
  | 0, s => s
  | n + 1, s => match s.mram.queue.find? (·.begun) with
    | none => s
    | some q => finishRecord n (stepProg s q (some 0))

/-- The record in progress, if there is one, completes; every other program is dropped. -/
def finishInProgress (s : State) : State :=
  match s.mram.queue.find? (·.begun) with
  | none => { s with mram := { s.mram with queue := [] } }
  | some q => finishRecord q.left { s with mram := { s.mram with queue := [q] } }

/-- Delete the slot records of a mask, at once (R312). -/
def deleteSlots (s : State) (mask : BitVec 16) : State × Nat :=
  ((List.range 16).filter fun i => bit mask i).foldl (fun (a : State × Nat) i =>
    let (t, n) := commitNow a.1 6 i none 0
    ({ t with kpr := { t.kpr with slotClear := t.kpr.slotClear &&& ~~~((1 : BitVec 16) <<< i) } }, a.2 + n)) (s, 0)

/-- The ledger's record, at once (R375). -/
def commitLedger (s : State) : State × Nat := commitNow s 4 0 (some (.ledger s.kpr.ledger s.kpr.tariff)) 1664

/-- The keeper mirror's record, at once (R353, R388). -/
def commitMirror (s : State) : State × Nat :=
  let t := { s with kpr := { s.kpr with mirrorDirty := false, mirrorTick := s.kpr.tick } }
  commitNow t 7 0 (some (.mirror s.kpr.tick s.kpr.evidence)) 32

end Sys2Proof.Machine
end

