-- ==== Sys2Proof/Machine/Boot.lean ====
section
/-! DEFINITION. Machine/Boot.lean: what a reset of Bronze loses and a start brings back: Table 16.2, the start-up sequence,
images and RESCUE, the internal watchdog (R384, R385, R396 to R401, R417). -/
namespace Sys2Proof.Machine

def evBatLow : Nat := 0x07A5
def evTrialFailed : Nat := 0x07D0
def evBootFallback : Nat := 0x07D1
def evUncal : Nat := 0x07D2

/-! ### What goes with Bronze's state (R385, R396, Table 16.2) -/

/-- A fold as a start leaves it; descriptors keep being numbered on (log entry 52). -/
def freshFold (s : State) (f : FoldId) : Fold := { record := FoldRec.default f, nextK := (s.fold f).nextK }

/-- Every fold, its configuration space included, as a start leaves it. -/
def resetFolds (s : State) : State :=
  { s with folds := Vector.ofFn (freshFold s), plat := {} }

/-- The key slots and the engine with nothing in them (R308, R324). -/
def emptyCph : Cph := { slots := Vector.replicate 17 {} }

/-- The mechanism's profiles and recoverable state go back to their built-in values; switches, turning parts and a ramp that Iron
carries out stay as they are (R23, Table 16.2). -/
def resetMechanism (s : State) : State :=
  { s with
    servo := { ramp := s.servo.ramp }
    spindle := { s.spindle with prof := {}, inUse := {}, class_ := none, ceiling := false, paceDrop := 0, paceNext := none, pacing := false
                                limitRun := 0, clearRun := 0, restart := false, setPoint := 0, tries := 0 }
    sled := { home := s.sled.home }
    loader := { trayIn := s.loader.trayIn, trayOut := s.loader.trayOut, tray := s.loader.tray, unident := s.loader.trayIn }
    chan := {}
    recd := {}
    disc := none
    job := none
    drover := {}
    halt := {} }

/-- The memories and their registers; the MRAM keeps its records, and no program outlives Bronze (R296). -/
def resetMemories (s : State) : State :=
  { s with
    pool := {}
    pen := []
    cache := {}
    cap := {}
    ecc := { mramPos := s.ecc.mramPos, passAt := s.us, mramAt := s.us }
    mram := { s.mram with queue := [], refresh := [], refreshAgain := false }
    cph := emptyCph
    log := {} }

/-- The keeper's part in it: what waited for a tick or a boundary on a descriptor's behalf goes; the collie keeps counting, and
the internal watchdog is disarmed until Bronze is released (R384, R374, R380). -/
def resetKeeperWaits (s : State) : State :=
  { s with
    pwr := { s.pwr with lossCfg := 0, gov := {}, links := {}, tbLock := false }
    kpr := { s.kpr with latch := [], step := none, closing := [], intHeld := none
                        internal := { s.kpr.internal with armed := false } } }

/-- Bronze's state and every accepted descriptor are lost. Iron makes the mechanism safe at once (R23, R385). -/
def loseBronze (s : State) : State :=
  let boot := s.sys.boot
  let down : State := { s with sys := { mode := s.sys.mode, ready := false, readyAt := s.us, boot := boot, rollback := s.sys.rollback
                                        cal := s.sys.cal, uncal := s.sys.uncal, running := s.sys.running } }
  let t := ironSafe (dropLaser (resetFolds down))
  (resetKeeperWaits (resetMemories (resetMechanism (releaseLock t)))).emits [.moduleReset true, .linkDown]

/-- Every rail goes down, in the reverse of the order in which they are raised (R332). -/
def railsDown (s : State) : State :=
  { (s.emits (railOuts s false [7, 6, 5, 4, 3, 2, 1, 0])) with pwr := { s.pwr with rails := Vector.replicate 8 false } }

/-- Lorvaus is in VIGIL with nothing of Bronze left. -/
def enterVigil (s : State) : State :=
  let t := railsDown (loseBronze s)
  { t with sys := { t.sys with mode := .vigil } }

/-! ### The start-up scan (R296) -/

/-- The pages with wrong bits that the scan reads: those of regions 2 to 7, save the test pages (R296, R305). -/
def scanPages (m : Mram) : List (Nat × DecodeBits) := m.found.filter fun x => decide (0x2000 ≤ x.1) && decide (x.1 < 0x3FF0)

/-- What the scan chooses for each record, with the pages that do not decode and FALLBACK for each (R296, R297). -/
def scanChooses (m : Mram) : Mram × List (Nat × Bool) :=
  (scanPages m).foldl (fun (a : Mram × List (Nat × Bool)) x => match x.2 with
    | some _ => a
    | none => ((pageLost a.1 x.1).1, a.2 ++ [(x.1, (pageLost a.1 x.1).2)])) (m, [])

/-- What the scan met is counted and reported, and pages are put down for refresh (R289, R290, R293). -/
def scanReports (s : State) (lost : List (Nat × Bool)) : State :=
  let t := (scanPages s.mram).foldl (fun t x => if x.2.isSome then afterRead t x.1 x.2 2 else t) s
  lost.foldl (fun t x => eccUncorr t 3 2 x.2 false x.1) t

/-! ### Restoring (R297, R308, R353, R375, R389, R393, R417) -/

/-- The committed record of a region and RECORD_ID. -/
def recOf (s : State) (region id : Nat) : Option Rec := s.mram.recs.find? fun r => r.region == region && r.id == id

/-- A slot as its record restores it: COUNTER is one above the reservation, or two blocks beyond an older one (R297, R308). -/
def slotFrom (r : Rec) : KeySlot :=
  match r.payload with
  | .slot x =>
    let base := if r.unreadable then x.reservedTo + 131072 else x.reservedTo
    { st := if x.useLimit < base + 1 then .spent else .loaded, key := x.key, aes256 := x.aes256, guarded := x.guarded, salt := x.salt
      counter := base + 1, useLimit := x.useLimit, reservedTo := base }
  | _ => {}

/-- Every key slot and the vault's counter restored; deletions still pending are made first (R308, R312). -/
def restoreSlots (s : State) : State :=
  let t := (deleteSlots s s.kpr.slotClear).1
  let get (i : Fin 17) : KeySlot := ((recOf t 6 (slotRecordId i)).map slotFrom).getD {}
  { t with cph := { t.cph with slots := Vector.ofFn get } }

/-- The ledger as the newest records have it: totals, demands, ring, PERIOD and schedule; the interval then opened has no time
(R375). -/
def restoreLedger (s : State) : State :=
  let (l, t) : Ledger × Tariff := match recOf s 4 0 with
    | some r => (match r.payload with
      | .ledger l t => (l, t)
      | _ => ({}, {}))
    | none => ({}, {})
  let waiting : Option Tariff := match recOf s 4 1 with
    | some r => (match r.payload with
      | .schedule u => if u = t then none else some u
      | _ => none)
    | none => none
  let k := { s.kpr with tariff := t, pending := waiting, ledger := { l with openEnergy := 0, pNow := 0 } }
  openInterval { s with kpr := k } s.kpr.cal id

/-- After a keeper loss the counter resumes beyond every committed mark, and the evidence comes from the newest mirror (R353,
R389). Without any mirror this is a cold start (Table 15.5). -/
def restoreKeeper (s : State) : State :=
  if !s.kpr.stateLost then s
  else
    let (m, e) : Option Nat × Evidence := match recOf s 7 0 with
      | some r => (match r.payload with
        | .mirror mark ev => (some mark, ev)
        | _ => (none, {}))
      | none => (none, {})
    let tick := match m with
      | some n => (n / 2 ^ 40 + 2) * 2 ^ 40
      | none => s.kpr.tick
    let ev : Evidence := { e with lastCause := if m.isSome then 2 else 1, lastTick := tick }
    restoreLedger { s with
      kpr := { s.kpr with tick := tick, evidence := ev, stateLost := false, mirrorDirty := true }
      pwr := { s.pwr with keepLost := true } }

/-- SEQ and the block number after the newest committed block (R393). -/
def restoreLog (s : State) : State :=
  let newest := s.mram.recs.foldl (fun (b : Option (Nat × Nat)) r => match (recEntries r).getLast?, b with
    | some e, some (q, i) => if q < e.seq then some (e.seq, r.id) else some (q, i)
    | some e, none => some (e.seq, r.id)
    | none, x => x) none
  match newest with
  | some (q, i) => { s with log := { s.log with nextSeq := (q + 1) % 2 ^ 32, nextBlock := (i + 1) % 120 } }
  | none => s

/-- Calibration as its record has it, and the boot record (R399, R417). -/
def restoreRecords (s : State) : State :=
  let c : CalRecord := match recOf s 2 0 with
    | some r => (match r.payload with
      | .calibration c => c
      | _ => {})
    | none => {}
  let b : BootRecord := match recOf s 7 1 with
    | some r => (match r.payload with
      | .boot b => b
      | _ => {})
    | none => {}
  { s with sys := { s.sys with cal := c, uncal := uncalOf c, boot := b } }

/-! ### Choosing the image (R399, R400) -/

/-- The boot record is committed and in force. -/
def commitBoot (s : State) (b : BootRecord) : State :=
  { (commitNow s 7 1 (some (.boot b)) 16).1 with sys := { s.sys with boot := b } }

/-- The VALID bit of a slot. -/
def slotValid (b : BootRecord) (n : Nat) : Bool := if n = 0 then b.validA else b.validB

/-- What the choice of an image leaves: the state, the slot that runs or none for RESCUE, and the events to post. -/
abbrev BootChoice := State × Option Nat × List (Nat × Word)

/-- Steps 3 and 4 of R399: the other slot, made ACTIVE, or RESCUE. `bad` says whether the ACTIVE image was not valid. -/
def fallBack (s : State) (bad : Bool) : BootChoice :=
  let b := s.sys.boot
  let n := otherSlot b
  if slotValid b n && imageValid s n then
    (commitBoot s { b with active := n }, some n, [(evBootFallback, w32 (n + 2 * b2n bad))])
  else (s, none, [])

/-- Steps 2 to 4 of R399. -/
def bootActive (s : State) : BootChoice :=
  if imageValid s s.sys.boot.active then (s, some s.sys.boot.active, []) else fallBack s true

/-- Steps 1 to 4 of R399. -/
def chooseImage (s : State) : BootChoice :=
  match s.sys.boot.trial with
  | some n => if imageValid s n then (s, some n, []) else bootActive s
  | none => bootActive s

/-- The choice after a restart with cause 0x07 or 0x08 (R400). -/
def chooseAfterFault (s : State) : BootChoice :=
  let s := { s with kpr := { s.kpr with bootFails := sat 8 (s.kpr.bootFails + 1) } }
  match s.sys.boot.trial with
  | some n =>
    let (t, slot, ev) := bootActive (commitBoot s { s.sys.boot with trial := none })
    (t, slot, (evTrialFailed, w32 n) :: ev)
  | none =>
    if s.kpr.bootFails < 3 then chooseImage s
    else if s.kpr.bootFailedOnce then (s, none, [])
    else fallBack { s with kpr := { s.kpr with bootFails := 0, bootFailedOnce := true } } false

/-! ### The internal watchdog (R384) -/

/-- The internal watchdog armed at the release of Bronze: a SEED and a challenge drawn, its window in units. -/
def armInternal (s : State) (wOpen wClose : Nat) : State :=
  let (seed, t) := drawWord s
  let (c, u) := drawChallenge t
  { u with kpr := { u.kpr with intHeld := none, internal := { armed := true, seed := seed, chal := c, wOpen := wOpen
                                                              wClose := wClose, limit := 1, ref := u.kpr.tick } } }

/-! ### The sequence (R396, Table 16.1) -/

/-- What firmware does once it runs: the ledger and the mirror are committed, READY is set, and what a start reports is posted
(R349, R353, R372, R375, R396, R399, R417). -/
def firmwareRuns (s : State) (slot : Nat) (events : List (Nat × Word)) : State :=
  let t := (commitMirror (commitLedger (armInternal s 8 256)).1).1
  let unident := t.loader.trayIn
  let t := { t with sys := { t.sys with ready := true, rescue := false, readyAt := t.us, running := slot, mode := if unident then .load else .idle
                                        parked := true, idleSince := t.us, quietSince := t.us }
                    kpr := { t.kpr with held := false, wakePending := false }
                    loader := { t.loader with unident := unident } }
  let t := events.foldl (fun t e => postEvent t 0 e.1 e.2) t
  let t := match t.kpr.crossed with
    | some (n, w) => postEvent { t with kpr := { t.kpr with crossed := none } } 0 evOutageCrossed (w32 (sat 16 n + 65536 * sat 16 w))
    | none => t
  let u : State := if t.pwr.batLow then postEvent t 0 evBatLow (w32 (sat 16 t.pwr.vbat)) else t
  if u.sys.uncal = 0 then u else postEvent u 0 evUncal (w32 u.sys.uncal.toNat)

/-- The boot ROM runs in place of firmware (R401). -/
def rescueRuns (s : State) (events : List (Nat × Word)) : State :=
  let t := armInternal s 0 2048
  let t := { t with sys := { t.sys with ready := false, rescue := true, mode := .idle, parked := true }
                    kpr := { t.kpr with held := false, wakePending := false } }
  events.foldl (fun t e => postEvent t 0 e.1 e.2) t

/-- The rails are up, the scan has chosen every record, and what the records hold is restored (R296, R308, R353, R375, R393, R417). -/
def restoreAll (s : State) : State :=
  let t := { s with pwr := { s.pwr with rails := Vector.replicate 8 true, gov := {} }
                    kpr := { s.kpr with starting := false, restartCause := none }
                    ecc := { s.ecc with passAt := s.us, wearAtStart := s.mram.wear.foldl (fun (n : Nat) (p : Nat × Nat) => max n p.2) 0 }
                    mram := (scanChooses s.mram).1 }
  let t := restoreLog (restoreRecords (restoreKeeper (restoreSlots (t.emits (railOuts s true (List.finRange 8) ++ [.moduleReset false])))))
  scanReports t (scanChooses s.mram).2

/-- From the release of Bronze on: records restored, an image chosen, firmware or RESCUE. `fault` says that the restart counts
under R400, `extra` what else the start posts. -/
def releaseBronze (s : State) (fault : Bool) (extra : State → List (Nat × Word)) : State :=
  let t := restoreAll s
  let (u, slot, ev) := if fault then chooseAfterFault t else chooseImage t
  let u := if imageValid u u.sys.boot.active then blowFuses u u.sys.boot.active else u
  match slot with
  | some n => firmwareRuns u n (ev ++ extra u)
  | none => rescueRuns u (ev ++ extra u)

/-- START_UP: from VIGIL, with the input present and a start called for (R396). -/
def execStartUp (s : State) : Answer :=
  .next (if s.sys.mode == .vigil && s.kpr.running && s.pwr.input && s.kpr.starting then releaseBronze s false fun _ => [] else s)

/-! ### Restarts of Bronze (R385, R400, R403) -/

/-- A reset of Bronze with a cause: R23 at once, and Bronze is held in reset (R385). -/
def resetBronze (s : State) (cause : Nat) : State :=
  let t := loseBronze s
  { t with kpr := { t.kpr with restartCause := some cause } }

/-- Bronze runs firmware or RESCUE with its clocks on. -/
def bronzeUp (s : State) : Bool := (s.sys.ready || s.sys.rescue) && s.sys.mode != .vigil && s.sys.mode != .doze

/-- BRONZE_RESTART: 1 ms after the reset the cause is recorded and Bronze released; FW ACTIVATE's restart follows its completion
(R385, R388, R403). -/
def execBronzeRestart (s : State) : Answer :=
  let run (t : State) (cause : Nat) : State :=
    let t := evidenceChange t cause t.kpr.tick fun e => { e with intResets := sat 16 (e.intResets + 1) }
    releaseBronze t (cause == 7 || cause == 8) fun u =>
      [(evRestart, w32 (u.kpr.evidence.lastCause + 65536 * u.kpr.evidence.intResets))]
  .next (match s.kpr.restartCause with
  | some c => if s.sys.readyAt + 1000 ≤ s.us then run s c else s
  | none =>
    if s.sys.restartReq && bronzeUp s && !((s.fold 0).descs.any fun d => d.stage == .done) then run (loseBronze s) 9 else s)

/-- An uncorrectable tag in a fold's way: its started, uncompleted descriptors complete with MEMORY_FAULT (Table 11.2). -/
def wayTagLost (s : State) (way : Nat) : State :=
  (allFolds.filter fun f => bit (s.fold f).record.wayMask way).foldl (fun t f =>
    ((s.fold f).descs.filter fun d => descStarted d && descActive d).foldl (fun t d => spoilDesc false t f d.k) t) s

/-- MEMORY_RESET_REQUEST: an uncorrectable error in firmware data or in a tag of ways 12 to 15; one in a tag of ways 0 to 11, for which the
table has no row of its own, is taken here too and resets nothing (Table 11.2, R290, R385; log entry 121). -/
def execMemoryResetRequest (site : ResetSite) (s : State) : Answer :=
  .next (if !bronzeUp s then s
    else match site with
      | .sramFirmware w => resetBronze (eccUncorr s 0 0 false false w) 8
      | .cacheTag set way =>
        if 15 < way then s
        else
          let t := eccUncorr { s with cache := { s.cache with lines := s.cache.lines.filter fun l => !(l.way == way && l.line % 1024 == set % 1024) } }
            1 0 false true (set % 1024 + 1024 * way)
          if 12 ≤ way then resetBronze t 8 else wayTagLost t way)

/-- The internal watchdog's window has closed with no valid service (R379, R384). -/
def internalLate (s : State) : Bool := s.kpr.internal.armed && decide (s.kpr.internal.wClose ≤ unitsSince s s.kpr.internal)

/-- INTERNAL_WATCHDOG_EXPIRY (R384, R385). In DOZE the count is held. -/
def execInternalWatchdogExpiry (s : State) : Answer := .next (if bronzeUp s && internalLate s then resetBronze s 7 else s)

/-- INTERNAL_WATCHDOG_SERVE: a valid token starts a new window; an early, late or wrong one expires the watchdog (R378, R379,
R384). -/
def execInternalWatchdogServe (token : Word) (s : State) : Answer :=
  let w := s.kpr.internal
  let served : Watchdog := { w with ref := s.kpr.tick, chal := challengeStep w.chal }
  .next (if !bronzeUp s || !w.armed then s
    else if internalLate s || decide (unitsSince s w < w.wOpen) || token != collieToken w.seed w.chal then resetBronze s 7
    else { s with kpr := { s.kpr with internal := served } })

end Sys2Proof.Machine
end

