-- ==== Sys2Proof/Machine/Cache.lean ====
section
/-! DEFINITION. Machine/Cache.lean: the cache's ways (R278, R279) and the capture FIFO (R260, R280 to R283). -/
namespace Sys2Proof.Machine

/-! ### Ways (R278, R279) -/

/-- Ways named by a write to WAY_OFF or WAY_ON, ascending: bits 0 to 11 act. -/
def waysNamed (v : Word) : List Nat := (List.range 12).filter fun w => bit v w

/-- WAY_OFF: powered ways that are not being walked are put through CLEAN-AND-OFF one after the other (R278, R279). -/
def execWayOff (v : Word) (s : State) : Answer :=
  let more := (waysNamed v).filter fun w => bit s.cache.powered w && !s.cache.walks.contains w
  .next (onBar s 0 fun s => { s with cache := { s.cache with walks := s.cache.walks ++ more } })

/-- A way's walk ends: its dirty lines have been written back, its lines are invalid, and it is gated (R278; log entry 44). -/
def walkEnds (s : State) (w : Nat) : State :=
  let t := cleanWay s w
  { t with cache := { t.cache with powered := t.cache.powered &&& ~~~((1 : BitVec 16) <<< w) } }

/-- WAY_WALK_DONE: the way is off, and a WAY_ON that came during its walk applies (R278, R279). -/
def execWayWalkDone (s : State) : Answer :=
  .next (match s.cache.walks with
  | [] => s
  | w :: r =>
    let t := walkEnds { s with cache := { s.cache with walks := r } } w
    let m : BitVec 16 := (1 : BitVec 16) <<< w
    if bit t.cache.onAfter w then
      { t with cache := { t.cache with powered := t.cache.powered ||| m, onAfter := t.cache.onAfter &&& ~~~m } }
    else t)

/-- WAY_ON: ways power up with every line invalid; one that is being walked does so when its walk ends (R279). -/
def execWayOn (v : Word) (s : State) : Answer :=
  let put (c : Cache) (w : Nat) : Cache :=
    let m : BitVec 16 := (1 : BitVec 16) <<< w
    if c.walks.contains w then { c with onAfter := c.onAfter ||| m } else { c with powered := c.powered ||| m }
  .next (onBar s 0 fun s => { s with cache := (waysNamed v).foldl put s.cache })

/-- Entry to DOZE puts every powered way through CLEAN-AND-OFF (R279). -/
def cacheDoze (s : State) : State :=
  let t := ((List.range 16).filter fun w => bit s.cache.powered w).foldl walkEnds s
  { t with cache := { t.cache with saved := s.cache.powered, walks := [], onAfter := 0, powered := 0 } }

/-- Exit from DOZE powers up the ways that were on (R279). -/
def cacheWake (s : State) : State := { s with cache := { s.cache with powered := s.cache.saved } }

/-! ### The capture FIFO (R280 to R283) -/

/-- CAP_COUNT (R281). -/
def capCount (c : Capture) : Nat := sumOf List.length c.packets

/-- CAP_DATA_READ: the oldest readable word, removed; 0 from an empty FIFO (R281). -/
def execCapDataRead (s : State) : Answer :=
  .next (onBar s 0 fun s => match s.cap.packets with
  | (w :: r) :: rest => { s with cap := { s.cap with packets := if r.isEmpty then rest else r :: rest } }.emit (.regRead w)
  | _ => s.emit (.regRead 0))

/-- CAP_DROP: the rest of the packet being read, or the whole next one; ignored outside SERVICE (R282, R283). -/
def execCapDrop (s : State) : Answer :=
  .next (if inService s then { s with cap := { s.cap with packets := s.cap.packets.drop 1 } } else s)

/-- The FIFO is emptied and capture stops; the profile is kept (R260, R283). -/
def capEmpty (s : State) : State :=
  { s with cap := { s.cap with running := false, first := false, packets := [], formed := 0, lost := 0, taken := [] } }

/-- The trigger's condition stands: at once, a defect flag, a servo fault, or a sync found at the channel's last bit (R260; log entry 124). -/
def triggerMet (s : State) : Bool :=
  match s.cap.trigger with
  | 0 => true
  | 1 => s.chan.defect
  | 2 => (s.halt.inHalt && (s.halt.cause == 1 || s.halt.cause == 3)) || s.halt.pend.any fun p => match p with
    | .servo _ _ => true
    | _ => false
  | _ => s.chan.lastSync == some (s.chan.pos - 1)

/-- CAPTURE_TRIGGER: packets start to be formed (R260, R280). -/
def execCaptureTrigger (s : State) : Answer :=
  .next (if inService s && !s.cap.running && triggerMet s then
    { s with cap := { s.cap with running := true, first := true, formed := 0, lost := 0, strobes := s.servo.strobes
                                 taken := [], passed := 0, lastStrobe := s.servo.strobes } }
  else s)

/-- Three 10-bit values to a word (Table 10.7). -/
def pack10 : List Int → List Word
  | [] => []
  | [a] => [w32 (toBits 10 a)]
  | [a, b] => [w32 (toBits 10 a + 1024 * toBits 10 b)]
  | a :: b :: c :: r => w32 (toBits 10 a + 1024 * toBits 10 b + 1048576 * toBits 10 c) :: pack10 r

/-- 32 decisions to a word, the earliest in bit 0 (Table 10.7). -/
def packBits : Nat → List Int → List Word
  | 0, _ => []
  | n + 1, l => w32 (((l.take 32).zipIdx.map fun p => if p.1 = 1 then 2 ^ p.2 else 0).foldl (· + ·) 0) :: packBits n (l.drop 32)

/-- Values of the channel that a packet holds; the loop sources give one packet for each strobe that is kept (Table 10.7). -/
def capNeeds (c : Capture) : Nat := match c.source with
  | 2 => 2048
  | 0 | 4 => 192
  | _ => 0

/-- A packet can be formed (R260, R280). -/
def capReady (s : State) : Bool :=
  s.cap.running && inService s &&
    (if capNeeds s.cap = 0 then decide (s.cap.lastStrobe + s.cap.decimate ≤ s.servo.strobes) else decide (capNeeds s.cap ≤ s.cap.taken.length))

/-- The payload of a packet (Table 10.7): servo samples and loop outputs from the loop engine, the others as sampled. -/
def capPayload (s : State) : List Word :=
  match s.cap.source with
  | 1 => pack10 s.servo.samples.toList
  | 3 => s.servo.loops.toList.map fun l => w32 (toBits 32 l.out)
  | 2 => packBits 64 s.cap.taken
  | _ => pack10 (s.cap.taken.take 192)

/-- A packet's header (Table 10.6). -/
def capHeader (c : Capture) (len : Nat) : Word :=
  w32 (0xA * 2 ^ 28 + c.source % 8 * 2 ^ 25 + b2n c.first * 2 ^ 24 + c.lost * 2 ^ 16 + c.formed % 256 * 2 ^ 8 + len)

/-- CAPTURE_PACKET: a packet is formed, and written whole or discarded (R280). -/
def execCapturePacket (s : State) : Answer :=
  .next (if !capReady s then s
    else
      let p := capPayload s
      let c := { s.cap with taken := s.cap.taken.drop (capNeeds s.cap), lastStrobe := s.servo.strobes }
      if 4096 < capCount c + p.length + 2 then
        { s with cap := { c with lost := sat 8 (c.lost + 1), formed := c.formed + 1, first := false } }
      else
        let words := capHeader c p.length :: w32 (s.servo.strobes - c.strobes) :: p
        { s with cap := { c with packets := c.packets ++ [words], lost := 0, formed := c.formed + 1, first := false } })

end Sys2Proof.Machine
end

