-- ==== Sys2Proof/Machine/Channel.lean ====
section
/-! DEFINITION. Machine/Channel.lean: the read channel's timing recovery, defects and addresses (R211, R212, R218 to R222,
R226, R233 to R235), and speculation: read-ahead and speculative seeks (R133 to R136). -/
namespace Sys2Proof.Machine

/-! ### Acquisition and tracking (R212, R218 to R220) -/

/-- ACQUISITION_LOCK: two syncs at their spacing declare lock, and decision-directed tracking begins; bytes since a loss of lock are
erasures (R218, R220). -/
def lockChannel (s : State) : State :=
  let c := s.chan
  if reading s && c.acq == .acquiring && c.spaced && !c.passed then
    { s with chan := { c with acq := .tracking, ref := .data, missed := 0, relock := none
                              front := { c.front with paths := [], sums := {}, run := 3, owed := 0, level := c.front.raw }
                              erased := if c.relock.isSome then c.erased ++ [(c.foundAt, c.pos)] else c.erased } }
  else s

def execAcquisitionLock (rf : List RfSample) (s : State) : Answer := .next (lockChannel (channelRun s rf))

/-- LOSS_OF_LOCK: three syncs missed in a row return timing recovery to acquisition on the data in hand (R220). -/
def unlockChannel (s : State) : State :=
  match s.disc with
  | none => s
  | some d =>
    if s.chan.acq == .tracking && decide (3 ≤ s.chan.missed) then
      let c := beginAcquisition (channelUse s d) s.chan
      { s with chan := { c with relock := some c.pos, ref := freeReference s } }
    else s

def execLossOfLock (rf : List RfSample) (s : State) : Answer := .next (unlockChannel (channelRun s rf))

/-- RELOCK_TIMEOUT: no lock within 2,048 channel bits: the unit has lost sync, and the rest of it is erased (R220). -/
def giveUpLock (s : State) : State :=
  match s.chan.relock, s.disc, s.chan.under with
  | some a, some d, some u =>
    if s.chan.acq == .acquiring && decide (a + 2048 ≤ s.chan.pos) then
      let end_ := (getKey u s.chan.ring.units).getD s.chan.pos + unitBits (mediumIndex d)
      { (s.modUnit u fun x => { x with lostSync := true }) with
        chan := { s.chan with relock := none, erased := s.chan.erased ++ [(s.chan.foundAt, end_)] } }
    else s
  | _, _, _ => s

def execRelockTimeout (rf : List RfSample) (s : State) : Answer := .next (giveUpLock (channelRun s rf))

/-! ### Defects and erasures (R19, R171, R221, R222) -/

/-- The envelope has been below 40 % of the tracked level, or above 160 %, for 16 channel bits (R221). -/
def defectDue (c : Channel) : Bool := decide (16 ≤ c.front.dark) || decide (16 ≤ c.front.bright)

/-- DEFECT_FLAG_SET: the channel's flag sets, and reaches the loop engine in the same period (R171, R221). -/
def setDefectFlag (s : State) : State :=
  if s.chan.defect || !defectDue s.chan then s
  else { s with chan := { s.chan with defect := true, flagged := true, defects := s.chan.defects + 1
                                      front := { s.chan.front with flagAt := s.chan.pos, inRange := 0 } } }

def execDefectFlagSet (rf : List RfSample) (s : State) : Answer := .next (setDefectFlag (channelRun s rf))

/-- A defect flag interval up to now, widened by DEF_GUARD channel bits on each side (R222). -/
def defectSpan (s : State) (c : Channel) : Nat × Nat :=
  let g := ((c.inUse.orElse fun _ => channelProf s).map (·.defGuard)).getD 0
  (c.front.flagAt - g, c.pos + g)

/-- DEFECT_FLAG_CLEAR: the envelope has been within 45 % to 155 % for 32 channel bits; the held loops resume DEF_GUARD channel bits
later (R214, R221). -/
def clearDefectFlag (s : State) : State :=
  if s.chan.defect && decide (32 ≤ s.chan.front.inRange) then
    let span := defectSpan s s.chan
    { s with chan := { s.chan with defect := false, erased := s.chan.erased ++ [span]
                                   flags := s.chan.flags ++ [(s.chan.front.flagAt, s.chan.pos)]
                                   front := { s.chan.front with guard := span.2 - s.chan.pos } } }
  else s

def execDefectFlagClear (rf : List RfSample) (s : State) : Answer := .next (clearDefectFlag (channelRun s rf))

/-- Channel bits of one byte (Table 8.1; log entry 115). -/
def byteBits (mi : Nat) : Nat := match mi with
  | 0 => 17
  | 1 => 16
  | _ => 12

/-- The channel bits whose bytes a failed packet carried: the last ones. -/
def packetSpan (s : State) (bytes : Nat) : Nat × Nat :=
  (s.chan.pos - bytes * byteBits ((s.disc.map fun d => (mediumIndex d).val).getD 0), s.chan.pos)

/-- CHANNEL_PACKET_BAD: not resent; every byte it carried is flagged as an erasure (R19, R222). -/
def execChannelPacketBad (bytes : Nat) (s : State) : Answer :=
  .next (if linksUp s then
    let t := countBadPacket s .yelxoM false
    { t with chan := { t.chan with erased := t.chan.erased ++ [packetSpan s bytes] } }
  else s)

/-! ### Addresses (R200, R233, R234) -/

/-- The blocks from one address to the next: a CD or DVD sector, a BD address unit of two (Table 8.5; log entry 43). -/
def addressUnit (d : DiscInfo) : Nat := if isBd d.medium then 2 else 1

/-- Channel bits from one address to the next. -/
def addressBits (d : DiscInfo) : Nat := unitBits (mediumIndex d) * addressUnit d / max 1 (discUnit d)

/-- The formats Lorvaus reads on a medium, and no others (R233, Tables 8.3 and 8.5; log entry 116). -/
def readsFormat (d : DiscInfo) (a : AddrFormat) : Bool :=
  match d.medium, a with
  | .cdR, .atip | .cdRw, .atip => true
  | .dvdPlusR, .adip | .dvdPlusRw, .adip => true
  | .dvdR, .lpp | .dvdRw, .lpp => true
  | .bdR, .adip | .bdRe, .adip => true
  | .cdRom, .qSub | .cdR, .qSub | .cdRw, .qSub => true
  | .dvdRom, .dvdId => true
  | .bdRom, .bdUnit | .bdR, .bdUnit | .bdRe, .bdUnit => true
  | _, _ => false

/-- Channel bits per wobble; none on pressed media (Table 8.5). -/
def wobbleBits (m : Medium) : Option Nat :=
  match m with
  | .cdR | .cdRw => some 196
  | .dvdPlusR | .dvdPlusRw => some 32
  | .dvdR | .dvdRw => some 186
  | .bdR | .bdRe => some 69
  | .cdRom | .dvdRom | .bdRom => none

/-- An address is accepted when its format is one of the medium's and its check passes (R233, R234). -/
def addressOk (d : DiscInfo) (a : AddressRead) : Bool := readsFormat d a.format && a.checkOk

/-- An address is within one address unit of a prediction. -/
def addressNear (d : DiscInfo) (lba predicted : Nat) : Bool :=
  decide (lba ≤ predicted + addressUnit d) && decide (predicted ≤ lba + addressUnit d)

/-- How long an address unit lasts at the strobe's frequency, in µs; 0 where no frequency is known. -/
def addressUs (d : DiscInfo) (hz : Nat) : Nat := if hz = 0 then 0 else addressBits d * 1000000 / hz

/-- An address predicted for an instant, run on to now (R234). -/
def runOn (d : DiscInfo) (hz us : Nat) (p at_ : Nat) : Nat :=
  let t := addressUs d hz
  if t = 0 then p else p + addressUnit d * ((us - at_) / t)

/-- The flywheel after an accepted address: near its prediction it resynchronises at once; far from it, only when the next one agrees.
Answers whether the flywheel now stands at the address (R234). -/
def flywheelAfter (c : Channel) (d : DiscInfo) (us lba : Nat) : Channel × Bool :=
  let at_ := us + addressUs d c.hz
  let synced := { c with flywheel := some (lba + addressUnit d), flyAt := at_, far := none, accepted := true }
  match c.flywheel with
  | none => (synced, true)
  | some p =>
    if addressNear d lba (runOn d c.hz us p c.flyAt) then (synced, true)
    else match c.far with
      | some (q, qAt) =>
        if addressNear d lba (runOn d c.hz us q qAt) then (synced, true)
        else ({ c with far := some (lba + addressUnit d, at_), accepted := true }, false)
      | none => ({ c with far := some (lba + addressUnit d, at_), accepted := true }, false)

/-- A seek's address: within 255 tracks a jump ends it, farther off another move follows, and SEEK_TRIES moves are all there
are (R200, Table 7.4). -/
def seekAddress (s : State) (target moves : Nat) (tracks : Int) : State :=
  let at_ := { s with sled := { s.sled with seek := none } }
  if tracks = 0 then settleGate { at_ with chan := { at_.chan with accepted := true } }
  else if tracks.natAbs ≤ 255 then startJump at_ tracks.natAbs (decide (0 < tracks))
  else if moves < s.sled.inUse.seekTries then seekMove at_ target (moves + 1)
  else motionFault at_ 6 0

/-- An accepted wobble address brings the wobble PLL's frequency, which is the write clock's source (R212, R233, R237). -/
def noteCarrier (c : Channel) (d : DiscInfo) (a : AddressRead) : Channel :=
  match a.carrier, wobbleBits d.medium with
  | some h, some n => { c with wobbleHz := some (h * n) }
  | _, _ => c

/-- ADDRESS_ACCEPT: an address passes its check: the flywheel takes it; once the flywheel stands at it, so do the sled's position and a
seek in progress (R190, R200, R234). -/
def execAddressAccept (a : AddressRead) (s : State) : Answer :=
  .next (match s.disc with
  | none => s
  | some d =>
    if !reading s || !addressOk d a then s
    else
      let (c, here) := flywheelAfter (noteCarrier s.chan d a) d s.us a.lba
      let t := { s with chan := c }
      if !here then t
      else
        let t := { t with sled := { t.sled with radius := some (radiusOf d a.lba) } }
        match t.sled.seek with
        | some (target, moves) => seekAddress t target moves a.tracks
        | none => settleGate t)

/-! ### Speculation (R133 to R136) -/

/-- Some die reads 110 °C or more (R133). -/
def hot110 (t : DieTemps) : Bool :=
  decide (1100 ≤ t.bronze) || decide (1100 ≤ t.pewter) || decide (1100 ≤ t.iron) ||
    (match t.nickel with
      | some n => decide (1100 ≤ n)
      | none => false)

/-- A write of some fold is accepted and uncompleted: its completion is not posted, or waits in a full done ring (R75, R133). -/
def writeUncompleted (s : State) : Bool :=
  allFolds.any fun f => (s.fold f).descs.any fun d => opWrites d.op && (d.deadline != 0 || (descActive d && descAccepted d))

/-- The conditions of R133, RA_EN aside. -/
def speculationOpen (s : State) : Bool :=
  !mechanismBarred s && !anyAccepted s && (s.sys.mode == .idle || s.sys.mode == .read) && !writeUncompleted s &&
    !hot110 s.pwr.temps && s.job.isNone && s.disc.isSome && !s.sys.drainAll

/-- The lowest block from NEXT to LIMIT with no copy in the fold's partition, for an eligible stream (R133). -/
def lowestMissing (s : State) (f : FoldId) (x : Stream) : Option Nat :=
  if !x.seq then none
  else ((List.range (x.limit + 1 - x.next)).find? fun i => (findCopy s f [] (x.next + i)).isNone).map (x.next + ·)

/-- What read-ahead would fetch for a fold: its first eligible stream's lowest missing block. -/
def readAheadFor (s : State) (f : FoldId) : Option Nat := (s.fold f).streams.findSome? (lowestMissing s f)

/-- The fold that read-ahead serves next, and the block (R133). -/
def nextReadAhead (s : State) : Option (FoldId × Nat) :=
  (foldsAfter s.drover.raLast).findSome? fun f => (readAheadFor s f).map fun b => (f, b)

/-- The units of one turn: the unit that holds a block, or on CD a run of 16 sectors (R133). -/
def readAheadUnits (d : DiscInfo) (b : Nat) : List JobUnit :=
  if isCd d.medium then ((List.range 16).map fun i => { first := b + i }).filter fun u => decide (u.first < d.capacity)
  else [{ first := b / discUnit d * discUnit d }]

/-- READ_AHEAD: with no work waiting, the drover reads for the next eligible fold (R133). -/
def execReadAhead (s : State) : Answer :=
  .next (if !speculationOpen s || !bit s.plat.penCtl 0 then s
    else match nextReadAhead s, s.disc with
      | some (f, b), some d =>
        { s with
          job := some { kind := .speculation f, f := f, k := 0, at_ := s.us, units := readAheadUnits d b, next := b }
          drover := { s.drover with raLast := f }
          sys := { s.sys with idleSince := s.us, parked := false } }
      | _, _ => s)

/-- SPECULATIVE_SEEK: the sled moves toward the unit that read-ahead would read next (R135). -/
def execSpeculativeSeek (s : State) : Answer :=
  .next (if !speculationOpen s || !bit s.plat.penCtl 0 || !bit s.plat.penCtl 1 || !maySeek s then s
    else match nextReadAhead s with
      | some (_, b) => seekMove { s with sys := { s.sys with idleSince := s.us } } b 1
      | none => s)

end Sys2Proof.Machine
end

