-- ==== Sys2Proof/Machine/Power.lean ====
section
/-! DEFINITION. Machine/Power.lean: rails, the slack governor, input loss and return, the mains form, thermal supervision and
pacing, the keeper's supply and TELEMETRY (chapter 13, R54). -/
namespace Sys2Proof.Machine

def evThermalWarn : Nat := 0x07A0
def evThermalShutdown : Nat := 0x07A1
def evInputLoss : Nat := 0x07A2
def evGovLimit : Nat := 0x07A3

/-! ### The slack governor (R334 to R338, R351) -/

/-- Codes above 50 act as 50; FLOOR acts within 4 to 48 (R351). -/
def govVmin (g : Gov) : Nat := min 50 (bits g.limit 5 0)
def govVmax (g : Gov) : Nat := min 50 (bits g.limit 13 8)
def govVfix (g : Gov) : Nat := min 50 (bits g.ctl 29 24)
def govFloor (g : Gov) : Nat := clampN 4 48 (bits g.ctl 13 8)
def govHyst (g : Gov) : Nat := bits g.ctl 19 16
def govEn (g : Gov) : Bool := bit g.ctl 0

/-- Restarting the window (R335). -/
def govRestart (g : Gov) : Gov := { g with n := 0, winMin := 63 }

/-- The register as a write leaves it: reserved bits read 0 (R351). -/
def govWritten (g : Gov) (r : GovReg) (v : Word) : Gov :=
  match r with
  | .ctl => { g with ctl := v &&& 0x3F0F3F01 }
  | .limit => { g with limit := v &&& 0x3F3F }

/-- GOV_WRITE: the window restarts; a write that would make VMIN greater than VMAX is ignored whole (R337). -/
def execGovWrite (r : GovReg) (v : Word) (s : State) : Answer :=
  let g := govWritten s.pwr.gov r v
  .next (onBar s 0 fun s => if govVmax g < govVmin g then s else { s with pwr := { s.pwr with gov := govRestart g } })

/-- Any write to GOV_STAT clears OVERRUNS (R351). -/
def execGovStatClear (s : State) : Answer := .next (onBar s 0 fun s => { s with pwr := { s.pwr with gov := { s.pwr.gov with overruns := 0 } } })

/-- A write takes effect at the next frame: the code moves into its limits, or to VFIX with EN = 0 (R337). -/
def govSettle (g : Gov) : Gov :=
  { g with code := if govEn g then clampN (govVmin g) (govVmax g) g.code else max (govVfix g) (govVmin g) }

/-- Any frame shortens the hold (R335). -/
def govHoldDown (g : Gov) : Gov := { g with hold := g.hold - 1 }

/-- An overrun is counted, with the code at VMAX too, where nothing else changes (R336; log entry 69). -/
def govCount (g : Gov) : Gov := { g with overruns := sat 16 (g.overruns + 1) }

/-- An overrun: four steps up, counted (R335). -/
def govOverrun (g : Gov) : Gov :=
  govHoldDown (govRestart { govCount g with code := if govEn g then min (g.code + 4) (govVmax g) else g.code })

/-- A slack value ends a window at 256 periods (R335). -/
def govWindow (g : Gov) (x : Nat) : Gov :=
  let m := min g.winMin x
  if g.n + 1 = 256 then
    let low := match g.lowMin with
      | some l => min l m
      | none => m
    govRestart { g with code := if govEn g && decide (govFloor g + govHyst g ≤ m) then max (g.code - 1) (govVmin g) else g.code
                        lastWin := some m, lowMin := some low }
  else { g with winMin := m, n := g.n + 1 }

/-- A slack value (R335). -/
def govSlack (g : Gov) (x : Nat) : Gov :=
  if govEn g && decide (x < govFloor g) && g.hold == 0 then
    govHoldDown (govRestart { g with code := min (g.code + 1) (govVmax g), hold := 16 })
  else govHoldDown (govWindow g x)

/-- GOV_LIMIT, at most once in 32,768 ticks (R336). -/
def noteGovLimit (s : State) : State :=
  let g := s.pwr.gov
  let recent := match g.limitTick with
    | some t => decide (s.kpr.tick < t + 32768)
    | none => false
  if recent then s
  else
    postEvent { s with pwr := { s.pwr with gov := { g with limitTick := some s.kpr.tick } } } 0 evGovLimit
      (w32 (govVmax g + 65536 * g.overruns))

/-- GOVERNOR_FRAME: the slack governor takes what the Yelxo-B frame of the period brought Iron (R155, R156, R334 to R336). -/
def execGovernorFrame (s : State) : Answer :=
  .next (if !linksUp s then s
    else
      let g := govSettle s.pwr.gov
      let put (g : Gov) : State := { s with pwr := { s.pwr with gov := g } }
      match s.pwr.links.cmd.value with
      | .none => put g
      | .slack x => put (govSlack g (min 63 x))
      | .overrun =>
        if govEn g && g.code == govVmax g then noteGovLimit (put (govCount g)) else put (govOverrun g))

/-- Any write to PWR_STAT clears KEEP_LOST, LAST_SHUTDOWN and SHUTDOWN_DIE (R351, Table 13.8). -/
def execPwrStatClear (s : State) : Answer :=
  .next (onBar s 0 fun s => { s with pwr := { s.pwr with keepLost := false, lastShutdown := 0, shutdownDie := 0 } })

/-! ### Ending every descriptor (R341, R347) -/

/-- The command on the mechanism completes with a status and its bytes; one that has already ended keeps its own, but for a
SEALED READ whose tag is not known (R108, R318). -/
def completeJob (s : State) (st : Status) : State :=
  let t := stopJob s st
  let u := match t.job with
    | none => t
    | some j => match j.kind, t.desc? j.f j.k with
      | .speculation _, _ => t
      | _, none => t
      | _, some d =>
        if lockHeldBy t j.f j.k && lockVerifying t then finishUnstarted t j.f j.k st else finish t j.f j.k d.status d.bytes
  { u with job := none }

/-- Every accepted, uncompleted descriptor of a fold completes with a status. -/
def completeFold (st : Status) (s : State) (f : FoldId) : State :=
  ((s.fold f).descs.filter fun d => descActive d && d.stage != .list).foldl (fun t d => finishUnstarted t f d.k st) s

/-- Every accepted, uncompleted descriptor completes with a status (R341, R347). -/
def completeAll (s : State) (st : Status) : State := allFolds.foldl (completeFold st) (completeJob s st)

/-! ### Input loss (R340 to R344) -/

/-- The cause in event 0x07A2 (Table 13.9). -/
def lossCode : LossCause → Nat
  | .undervoltage => 1 | .overvoltage => 2 | .mainsPeak => 3 | .mainsRms => 4

/-- A cause that this form of the input has (R340). -/
def lossPossible (s : State) : LossCause → Bool
  | .undervoltage | .overvoltage => true
  | .mainsPeak | .mainsRms => s.pwr.mains

/-- Bronze runs: its rails are up and no shutdown is in progress. -/
def shutdownFree (s : State) : Bool :=
  match s.pwr.shutdown with
  | .none => true
  | _ => false

/-- The input is gone from now on: LAST_SHUTDOWN keeps the cause, and the outage is noted in the ledger (R340, R371). -/
def inputGone (s : State) (c : LossCause) : State :=
  let t := outageBegins (intervalBoundary s)
  let code := if c = .overvoltage then 4 else 1
  { t with pwr := { t.pwr with input := false, outageTick := t.kpr.tick
                               lastShutdown := if shutdownFree s then code else t.pwr.lastShutdown } }

/-- The cause in the retained evidence (R388, Table 15.5). -/
def noteLoss (s : State) (c : LossCause) : State :=
  { s with kpr := { s.kpr with mirrorDirty := true
                               evidence := { s.kpr.evidence with lastCause := if c = .overvoltage then 4 else 3
                                                                 lastTick := s.kpr.tick } } }

/-- The input-loss commit, then the keeper mirror: the record in progress, the ledger, the power-fail record, pending slot
deletions (Table 13.5, R298, R371; log entry 51). The number is that of the commit's pages. -/
def inputLossCommit (s : State) : State × Nat :=
  let (t, a) := commitLedger (finishInProgress s)
  let (t, b) := commitNow t 4 2 (some (.powerFail t.kpr.tick t.kpr.cal t.kpr.ledger)) 52
  let (t, c) := deleteSlots t t.kpr.slotClear
  ((if t.kpr.mirrorDirty then (commitMirror t).1 else t), a + b + c)

/-- The sequence of Table 13.5 while the machine runs; the mechanism is made safe at the next strobe. What waited for a tick or a
boundary ends with its descriptor. -/
def inputLossRuns (s : State) (c : LossCause) : State :=
  let t := inputGone (noteFault (losePartial (stopJob s .powerLost)) .down) c
  let t := noteLoss { t with kpr := { t.kpr with closing := [], step := none, latch := [] } } c
  let t := { t with sys := { t.sys with drainAll := true }
                    pwr := { t.pwr with shutdown := .inputLoss t.us } }
  let (t, pages) := inputLossCommit t
  postEvent (completeAll t .powerLost) 0 evInputLoss (w32 (lossCode c + 256 * pages))

/-- INPUT_LOSS (R340, R341, R343). A loss during a thermal shutdown makes no commit (R347); one in DOZE loses Bronze's state, and
one in VIGIL changes no mode. -/
def execInputLoss (c : LossCause) (s : State) : Answer :=
  .next (if !s.pwr.input || !lossPossible s c then s
    else if s.sys.mode == .vigil || !shutdownFree s then inputGone s c
    else if s.sys.mode == .doze then
      noteLoss (enterVigil (inputGone s c)) c
    else if bronzeUp s then inputLossRuns s c
    else noteLoss { (inputGone s c) with pwr := { (inputGone s c).pwr with shutdown := .inputLoss s.us } } c)

/-- INPUT_LOSS_RAIL_DOWN: at t0 + 2 ms, or sooner with VIN below 4.0 V, the rails go down (Table 13.5, R344). -/
def execInputLossRailDown (s : State) : Answer :=
  .next (match s.pwr.shutdown with
  | .inputLoss _ =>
    let t := enterVigil s
    { t with pwr := { t.pwr with shutdown := .none }, kpr := { t.kpr with restartCause := none } }
  | _ => s)

/-- INPUT_RETURN: the input has been stable for 100 ms and, in the mains form, Nickel switches: the outage's boundaries are
processed, and the start-up sequence is due unless VIGIL is held (R344, R372, R408). -/
def execInputReturn (s : State) : Answer :=
  .next (if s.sys.mode != .vigil || s.pwr.input || !s.kpr.running || (s.pwr.mains && !s.pwr.switching) then s
    else
      let t := if s.kpr.stateLost then s
        else
          let (t, n, w) := outageEnds s
          { t with kpr := { t.kpr with crossed := some ((t.kpr.crossed.getD (0, 0)).1 + n, (t.kpr.crossed.getD (0, 0)).2 + w) } }
      let held := t.kpr.vigilHold || t.pwr.coolUntil.isSome
      { t with pwr := { t.pwr with input := true }, kpr := { t.kpr with held := held, starting := !held } })

/-! ### The mains form (R330) -/

/-- Nickel switches, or not; the auxiliary output follows (log entry 75). -/
def setSwitching (s : State) (on : Bool) (stop : Option Nat) : State :=
  { s with pwr := { s.pwr with switching := on, regStop := stop, auxOk := on } }

/-- MAINS_START: Nickel starts at 76 V rms (R330). -/
def execMainsStart (rms : Nat) (s : State) : Answer :=
  .next (if s.pwr.mains && !s.pwr.switching && s.pwr.regStop.isNone && decide (76 ≤ rms) then setSwitching s true none else s)

/-- MAINS_STOP (R330). -/
def execMainsStop (s : State) : Answer := .next (if s.pwr.mains && s.pwr.switching then setSwitching s false none else s)

/-- REGULATION_LOSS: Nickel stops for 1 s (R330). -/
def execRegulationLoss (s : State) : Answer :=
  .next (if s.pwr.mains && s.pwr.switching then setSwitching s false (some s.us) else s)

/-- REGULATION_RESTART (R330). -/
def execRegulationRestart (s : State) : Answer :=
  .next (match s.pwr.regStop with
  | some t => if t + 1000000 ≤ s.us then setSwitching s true none else s
  | none => s)

/-! ### Rail faults (R333) -/

/-- A rail's number in the order of R332. -/
def railNum : Rail → Fin 8
  | .vio => 0 | .vdd1 => 1 | .vdd2 => 2 | .vddq => 3 | .vcore => 4 | .van => 5 | .vmot => 6 | .vpu => 7

/-- RAIL_FAULT (R333): VMOT and VPU go off, and HALT follows at the next strobe as for a servo fault; any other rail takes the module
down. -/
def execRailFault (r : Rail) (s : State) : Answer :=
  let n := railNum r
  .next (if !(s.pwr.rails.get n) then s
    else if 6 ≤ n.val then
      let t := s.emits (railOuts s false [7, 6])
      noteFault { t with pwr := { t.pwr with rails := (t.pwr.rails.set 6 false).set 7 false } } (.rail n.val)
    else
      let t := enterVigil s
      { t with
        pwr := { t.pwr with railDownAt := some t.us, lastShutdown := 3, shutdown := .none }
        kpr := { t.kpr with mirrorDirty := true, restartCause := none
                            evidence := { t.kpr.evidence with lastCause := 6, lastTick := t.kpr.tick } } })

/-- RAIL_FAULT_RESTART: after 100 ms the power-up sequence is due (R333). -/
def execRailFaultRestart (s : State) : Answer :=
  .next (match s.pwr.railDownAt with
  | some t =>
    if t + 100000 ≤ s.us ∧ s.pwr.input = true then
      { s with pwr := { s.pwr with railDownAt := none }, kpr := { s.kpr with starting := true } }
    else s
  | none => s)

/-! ### Temperatures (R345 to R348) -/

/-- The dies with their numbers, as far as the form has them. -/
def dieList (t : DieTemps) : List (Nat × Int) :=
  [(0, t.bronze), (1, t.pewter), (2, t.iron)] ++ (match t.nickel with
    | some n => [(3, n)]
    | none => [])

/-- The lowest-numbered die at or above a temperature. -/
def dieAt (t : DieTemps) (limit : Int) : Option (Nat × Int) := (dieList t).find? fun d => decide (limit ≤ d.2)

/-- DW2 of the thermal events (Table 13.9). -/
def thermalDetail (die : Nat) (set_ : Bool) (tj : Int) : Word := w32 (die + 256 * b2n set_ + 65536 * toBits 16 tj)

/-- THERM_WARN sets at 110 °C and clears below 105 °C; the event of clearing names a die and a temperature that the manual does
not choose (R346, Table 13.9). -/
def thermalWarn (s : State) : State :=
  match dieAt s.pwr.temps 1100, dieAt s.pwr.temps 1050 with
  | some (die, tj), _ =>
    if s.pwr.thermWarn then s
    else postEvent { s with pwr := { s.pwr with thermWarn := true } } 0 evThermalWarn (thermalDetail die true tj)
  | none, none =>
    if s.pwr.thermWarn then
      let w := Config.openWord 20 s.draws
      postEvent { s with draws := s.draws + 1, pwr := { s.pwr with thermWarn := false } } 0 evThermalWarn (w &&& 0xFFFF0003)
    else s
  | _, _ => s

/-- The page program in progress completes, and no other starts (R302). -/
def pageCompletes (s : State) : State :=
  let t := if s.mram.queue.any (·.begun) then mramStep s (some 0) else s
  { t with mram := { t.mram with queue := [] } }

/-- Iron's bridges turn off at once, and the currents decay with no ramp (R347). -/
def bridgesOff (s : State) : State :=
  let t := openLoops s
  stopLoader (stopSled (coastSpindle { t with servo := { t.servo with
    ramp := none, loops := Vector.ofFn fun i => { t.servo.loops.get i with out := 0 } } }))

/-- THERMAL_SHUTDOWN: the mechanism is made safe at the next strobe; where Iron is the die, its bridges turn off at once (R347,
Table 13.6). -/
def thermalShutdown (s : State) (die : Nat) (tj : Int) : State :=
  let s1 := noteFault (losePartial (stopJob s .thermalStop)) .down
  let t := pageCompletes (if die = 2 then bridgesOff s1 else s1)
  let t := broadcast (postEvent t 0 evThermalShutdown (thermalDetail die false tj)) evHaltEnter 2
  let t := completeAll t .thermalStop
  let t := { t with pwr := { t.pwr with shutdown := .thermal t.us, lastShutdown := 2, shutdownDie := die }
                    sys := { t.sys with drainAll := true }
                    kpr := { t.kpr with closing := [], step := none, latch := [] } }
  if die = 3 then inputGone (setSwitching t false none) .undervoltage else t

/-- Nickel's reading is there in the mains form only. -/
def readTemps (s : State) (t : DieTemps) : DieTemps := { t with nickel := if s.pwr.mains then t.nickel else none }

/-- THERMAL_READING: each die's reading is acted on (R345 to R347). Outside the modes in which Bronze is powered there is nothing
left to shut down. -/
def execThermalReading (t : DieTemps) (s : State) : Answer :=
  let s := { s with pwr := { s.pwr with temps := readTemps s t } }
  .next (if s.sys.mode == .vigil || !shutdownFree s then s
    else match dieAt s.pwr.temps 1250 with
      | some (die, tj) => thermalShutdown s die tj
      | none => if bronzeUp s then thermalWarn s else s)

/-- THERMAL_RAIL_DOWN: at t0 + 2 ms every rail goes down, and the cause is recorded; VIGIL is held (Table 13.6, R348, R408). -/
def execThermalRailDown (s : State) : Answer :=
  .next (match s.pwr.shutdown with
  | .thermal t0 =>
    if s.us < t0 + 2000 then s
    else
      let t := enterVigil s
      { t with
        pwr := { t.pwr with shutdown := .none, coolUntil := some (t0 + 10000000) }
        kpr := { t.kpr with mirrorDirty := true, held := true, restartCause := none
                            evidence := { t.kpr.evidence with lastCause := 5, lastTick := t.kpr.tick } } }
  | _ => s)

/-- THERMAL_RESTART: a pending wake starts Lorvaus once 10 s are over and Iron and Nickel read below 105 °C; Bronze or Pewter at
105 °C or more lowers the rails for a further 10 s (R348). -/
def execThermalRestart (t : DieTemps) (s : State) : Answer :=
  let temps := readTemps s t
  let cool (x : Int) : Bool := decide (x < 1050)
  let outer := cool temps.iron && (match temps.nickel with
    | some n => cool n
    | none => true)
  .next (match s.pwr.coolUntil with
  | none => s
  | some u =>
    if !s.kpr.wakePending || !s.pwr.input || decide (s.us < u) || !outer then s
    else if cool temps.bronze && cool temps.pewter then
      { s with pwr := { s.pwr with coolUntil := none, temps := temps }, kpr := { s.kpr with starting := true } }
    else { s with pwr := { s.pwr with coolUntil := some (s.us + 10000000), temps := temps } })

/-! ### Thermal pacing (R54) -/

/-- A step of pacing: the class in use moves by one, and while a unit is being recorded it moves at that unit's end (R54). -/
def paceStep (s : State) (drop : Nat) : State :=
  let t := { s with spindle := { s.spindle with paceNext := some drop, paceAt := s.us, pacing := decide (0 < drop) } }
  if s.servo.wgate then t else takePace t

/-- PACE_CHANGE: at 110 °C the first step, and every 10 s a step down at 105 °C or above, a step up below (R54). -/
def execPaceChange (s : State) : Answer :=
  .next (match s.disc with
  | none => s
  | some d =>
    if !bronzeUp s || !s.sys.ready || s.spindle.paceNext.isSome then s
    else
      let p := s.spindle
      let hot := (dieAt s.pwr.temps 1050).isSome
      let lowest := classesOf d.medium - 1
      if p.paceDrop = 0 then
        if hot110 s.pwr.temps && decide (classInUse s d < lowest) then paceStep s 1 else s
      else if s.us < p.paceAt + 10000000 then s
      else if hot then (if classInUse s d < lowest then paceStep s (p.paceDrop + 1) else s)
      else paceStep s (p.paceDrop - 1))

/-! ### The keeper's supply (R25, R349, R353) -/

/-- KEEPER_TO_BATTERY (R349). -/
def execKeeperToBattery (s : State) : Answer :=
  .next (if s.kpr.running && !s.pwr.input then { s with pwr := { s.pwr with keepOnBat := true } } else s)

/-- KEEPER_TO_VIN (R349). -/
def execKeeperToVin (s : State) : Answer := .next { s with pwr := { s.pwr with keepOnBat := false } }

/-- VBAT_MEASURE: every 60 s; BAT_LOW below 2.0 V, its event when the bit sets (R349). -/
def execVbatMeasure (mv : Nat) (s : State) : Answer :=
  .next (if !s.kpr.running || decide (s.kpr.tick < s.kpr.vbatTick + 1966080) then s
    else
      let low := decide (mv < 2000)
      let t := { s with pwr := { s.pwr with vbat := if mv < 1000 then 0 else mv, batLow := low }
                        kpr := { s.kpr with vbatTick := s.kpr.tick } }
      if low && !s.pwr.batLow && bronzeUp s then postEvent t 0 evBatLow (w32 (sat 16 mv)) else t)

/-- The keeper as a loss of its state leaves it: nothing runs, nothing is kept (R349, R353, R389, R412). -/
def lostKeeper : Keeper := { running := false, rcTime := true, crystalOk := false, stateLost := true, internal := {} }

/-- KEEPER_LOST: VIN is absent and VBAT_KEEP is below 1.6 V (R349, R353). -/
def execKeeperLost (s : State) : Answer :=
  .next (if s.kpr.running && s.pwr.keepOnBat && !s.pwr.input then
    { s with kpr := lostKeeper
             pwr := { s.pwr with batLow := false, keepLost := false, thermWarn := false, acFreqBad := false, lastShutdown := 0
                                 shutdownDie := 0, coolUntil := none } }
  else s)

/-- KEEPER_POWER_UP: the keeper starts on the LF RC oscillator, in VIGIL, and samples ADDR_SEL, which straps the sideband's address (R26,
R356, R411, R412). -/
def execKeeperPowerUp (fromVin addrSel : Bool) (s : State) : Answer :=
  .next (if s.kpr.running then s
    else { s with kpr := { s.kpr with running := true, rcOk := true, addrHigh := addrSel }, pwr := { s.pwr with keepOnBat := !fromVin } })

/-! ### TELEMETRY (R350, Table 13.7) -/

/-- A free half word that the record takes from the supply's own measurement. -/
def openHalf (s : State) (key : Nat) : Nat := (Config.openWord key s.draws).toNat % 65536

/-- The 64-byte record. VIN, P_CORE and AUX are measurements that no command reports: free values. -/
def telemetryRecord (s : State) : List Byte :=
  let g := s.pwr.gov
  let temp (x : Int) : List Byte := leBytes 2 (toBits 16 x)
  leBytes 1 g.vcore ++ leBytes 1 (g.lastWin.getD 0xFF) ++ leBytes 1 (g.lowMin.getD 0xFF) ++ leBytes 1 s.servo.rate ++
    leBytes 4 s.servo.overruns ++ leBytes 1 s.servo.runMax ++
    leBytes 1 (match s.disc with
      | some d => classInUse s d
      | none => 0xFF) ++
    leBytes 2 (b2n s.pwr.mains + 2 * b2n s.pwr.keepOnBat + 4 * b2n s.pwr.batLow + 8 * b2n s.pwr.thermWarn +
      16 * b2n s.spindle.ceiling + 32 * b2n s.sled.lost + 64 * b2n s.halt.inHalt) ++
    leBytes 2 (openHalf s 21) ++ leBytes 2 (sat 16 s.pwr.vbat) ++ leBytes 4 s.kpr.ledger.pNow ++ leBytes 2 (openHalf s 22) ++
    leBytes 2 (if s.pwr.mains then openHalf s 23 else 0) ++
    temp s.pwr.temps.bronze ++ temp s.pwr.temps.pewter ++ temp s.pwr.temps.iron ++
    leBytes 2 (match s.pwr.temps.nickel with
      | some n => toBits 16 n
      | none => 0x8000) ++
    leBytes 2 (toBits 16 (s.servo.samples.get 9)) ++ leBytes 2 s.spindle.rpm ++ leBytes 6 s.kpr.tick ++ zeros 22

/-- TELEMETRY (R119, R350). -/
def execTelemetry (f : FoldId) (k : Nat) (s : State) : Answer :=
  .next (match runningAs s f k .telemetry with
  | some _ => finish (deliver { s with draws := s.draws + 1 } f k (telemetryRecord s)) f k .ok 64
  | none => s)

end Sys2Proof.Machine
end

