-- ==== Sys2Proof/Machine/Modes.lean ====
section
/-! DEFINITION. Machine/Modes.lean: draining, SERVICE, DOZE and VIGIL, parking, wakes, firmware images and calibration
(R402 to R416). An entry to DOZE or VIGIL waits for its braked stop to end (log entry 76). -/
namespace Sys2Proof.Machine

/-! ### Draining (R405, R406) -/

/-- A MODE SET or FW ACTIVATE starts to drain: it counts as not started, nothing more is consumed, and no speculation runs. -/
def beginDrain (s : State) (k : Nat) (others : Bool) : State :=
  let t := s.modDesc 0 k fun d => { d with stage := .draining, startedAt := none }
  let t := if others then t else stopSpeculation t
  { t with sys := { t.sys with drainAll := t.sys.drainAll || !others, drainOthers := t.sys.drainOthers || others } }

/-- The descriptor that drains. -/
def draining (s : State) : Option Desc := (s.fold 0).descs.find? fun d => d.stage == .draining

/-- Folds 1 to 7 have no uncompleted descriptor (R406). -/
def othersDrained (s : State) : Bool := allFolds.all fun f => f.val == 0 || (s.fold f).descs.isEmpty

/-- Every other descriptor of every fold has completed (R405). -/
def allDrained (s : State) (k : Nat) : Bool := othersDrained s && (s.fold 0).descs.all fun d => d.k == k

/-- MODE SET VIGIL and MODE SET DOZE drain first (R405). -/
def execModeSetVigil (k : Nat) (s : State) : Answer :=
  .next (match runningAs s 0 k .modeSet with
  | some d => if d.fld.opfield = 0 then beginDrain s k false else s
  | none => s)

def execModeSetDoze (k : Nat) (s : State) : Answer :=
  .next (match runningAs s 0 k .modeSet with
  | some d => if d.fld.opfield = 1 then beginDrain s k false else s
  | none => s)

/-- MODE SET SERVICE drains folds 1 to 7; in SERVICE it is repeated (R111, R406). -/
def execModeSetService (k : Nat) (s : State) : Answer :=
  .next (match runningAs s 0 k .modeSet with
  | some d =>
    if d.fld.opfield ≠ 3 then s
    else if inService s then finish s 0 k .okRepeated 0
    else beginDrain s k true
  | none => s)

/-! ### SERVICE (R406) -/

/-- SERVICE is in force (R406). -/
def enterService (s : State) (k : Nat) : State :=
  let t := noteStart s 0 k
  let t := { t with sys := { t.sys with mode := .service, drainOthers := false } }
  finish (broadcast t evServiceEnter 0) 0 k .ok 0

/-- The exit steps of SERVICE: the capture FIFO empties, the flip registers are disarmed, a direct hold is released (R283,
R321, R406). -/
def exitService (s : State) : State :=
  let t := capEmpty s
  let t := if t.cph.direct then releaseLock t else t
  let t := { t with ecc := { t.ecc with flipTarget := 0 }
                    sys := { t.sys with mode := .idle, idleSince := t.us, quietSince := t.us } }
  let t := match jobDesc t with
    | some (_, d) => { t with sys := { t.sys with mode := modeForOp t d.op (bit d.fld.opfield 0) } }
    | none => t
  broadcast t evServiceExit 0

/-- SERVICE's exit steps, if SERVICE is in force. -/
def leaveService (s : State) : State := if inService s then exitService s else s

/-- MODE SET IDLE ends SERVICE; in the other running modes it is repeated (R404, R406). -/
def execModeSetIdle (k : Nat) (s : State) : Answer :=
  .next (match runningAs s 0 k .modeSet with
  | some d =>
    if d.fld.opfield ≠ 2 then s
    else if inService s then finish (exitService s) 0 k .ok 0
    else finish s 0 k .okRepeated 0
  | none => s)

/-! ### Entering DOZE and VIGIL (R407, R408) -/

/-- Step 1 of R407 begins: LD_EN falls, the spindle makes a braked stop, the sled stops, and nothing more is consumed. -/
def beginSleep (s : State) (e : SleepEntry) : State :=
  let t := stopLoader (stopSled (parkMechanism (leaveService s)))
  let t := match e.k with
    | some k => noteStart t 0 k
    | none => t
  { t with sys := { t.sys with drainAll := true, entry := some e } }

/-- Step 1 of R407 ends: the spindle has stopped, and VMOT and VPU go off. -/
def motorsOff (s : State) : State :=
  { (s.emits (railOuts s false [7, 6])) with pwr := { s.pwr with rails := (s.pwr.rails.set 6 false).set 7 false, tbLock := false } }

/-- Step 2 of R407: SLEEPING is set in an enabled doorbell page, and polling stops (R73). -/
def sleepFold (s : State) (f : FoldId) : State :=
  let d := (s.fold f).dbp
  if !d.en then s
  else
    statusBlock (s.modDbp f fun d => { d with sleeping := true, stopped := true, stale := d.polling, finalRead := false
                                              pollNow := false, sleepSeq := if d.sleeping then d.sleepSeq else d.sleepSeq + 1 }) f

def sleepAll (s : State) : State := allFolds.foldl sleepFold s

/-- The stack is spilled to the ring (R273). -/
def spillAll (p : Pool) : Pool := { p with stack := [], ring := p.stack.reverse.foldl (fun r i => ringPut i r) p.ring }

/-- Steps 4 and 5 of R407: memory keeps its contents, Bronze and Pewter go to rest, VCORE to 0.55 V; the internal watchdog's
count is held, and the scrubber's pass counts no time (R279, R291, R337, R384). -/
def retain (s : State) : State :=
  let t := (cacheDoze { s with pool := spillAll s.pool }).emits (railOuts s false [5])
  { t with
    pwr := { t.pwr with rails := t.pwr.rails.set 5 false, gov := { t.pwr.gov with code := 0, vcore := 0 } }
    kpr := { t.kpr with intHeld := some (t.kpr.tick - t.kpr.internal.ref) }
    ecc := { t.ecc with passAt := t.us - t.ecc.passAt }
    sys := { t.sys with mode := .doze, drainAll := false, drainOthers := false, parked := true, entry := none } }

/-- The rest of R407 once the spindle has stopped, with the MODE SET that asked for DOZE. -/
def enterDoze (s : State) (k : Option Nat) : State :=
  let t := sleepAll (motorsOff s)
  retain (match k with
    | some k => completionPost 0 k (finish t 0 k .ok 0)
    | none => t)

/-- The slot records of every key slot and the vault's counter (R308, R408). -/
def commitSlots (s : State) : State :=
  ((List.range 17).map (Fin.ofNat 17)).foldl (fun t i =>
    if (t.slot i).st = .empty then t
    else (commitNow t 6 (slotRecordId i) (some (.slot (recordOfSlot i (t.slot i)))) (slotRecordBytes i (t.slot i))).1) s

/-- The rest of R408 once the spindle has stopped: VIGIL is held. -/
def modeVigil (s : State) (k : Nat) : State :=
  let t := sleepAll (motorsOff s)
  let t := (commitLedger (finishInProgress t)).1
  let t := commitSlots (deleteSlots (commitMirror t).1 t.kpr.slotClear).1
  let t := enterVigil (completionPost 0 k (finish t 0 k .ok 0))
  { t with kpr := { t.kpr with held := true } }

/-- An entry to DOZE or VIGIL goes on once the spindle has stopped (R407, R408). -/
def sleepOn (s : State) : State :=
  match s.sys.entry with
  | none => s
  | some e =>
    if s.spindle.st ≠ .stopped then s
    else match e.vigil, e.k with
      | true, some k => modeVigil s k
      | _, k => enterDoze s k

/-- An entry to DOZE or VIGIL begins, and where the spindle stands still it ends at once. -/
def startSleep (s : State) (e : SleepEntry) : State := sleepOn (beginSleep s e)

/-! ### DRAIN_COMPLETE -/

/-- FW ACTIVATE TRY once the drain is over: the boot record with TRIAL set, or cleared while a trial is in force (R403). -/
def tryActs (s : State) (k : Nat) : State :=
  let b := s.sys.boot
  let n := otherSlot b
  let b' : BootRecord := match b.trial with
    | some _ => { b with trial := none }
    | none => { b with trial := some n, validA := b.validA || n == 0, validB := b.validB || n == 1 }
  requestRecord ((noteStart s 0 k).modDesc 0 k fun d => { d with stage := .commit }) 7 1 (some (.boot b')) 16 .other
    (some (.region 7)) (.bootTry k)

/-- DRAIN_COMPLETE: the draining command acts (R405, R406). -/
def execDrainComplete (s : State) : Answer :=
  .next (match draining s, s.sys.entry with
  | none, _ | _, some _ => s
  | some d, none =>
    if d.op == .modeSet && d.fld.opfield == 3 then (if othersDrained s then enterService s d.k else s)
    else if !allDrained s d.k || s.job.isSome then s
    else if d.op == .fwActivate then tryActs s d.k
    else startSleep s { k := some d.k, vigil := d.fld.opfield == 0 })

/-! ### Timers (R409) -/

/-- PARK: PARK_AFTER seconds in IDLE with the disc spinning and nothing on the mechanism (R409; log entry 77). -/
def execPark (s : State) : Answer :=
  let n := bits s.sys.modeCfg 15 0
  .next (if s.sys.mode == .idle && s.sys.ready && n != 0 && s.job.isNone && !s.sys.parked && s.spindle.st == .closed &&
      decide (s.sys.idleSince + n * 1000000 ≤ s.us) then parkMechanism s else s)

/-- Every enabled doorbell page shows SLEEPING, and no descriptor is uncompleted (R409). -/
def allQuiet (s : State) : Bool :=
  allFolds.all fun f => (s.fold f).descs.isEmpty && (!(s.fold f).dbp.en || (s.fold f).dbp.sleeping)

/-- AUTO_DOZE: DOZE_AFTER seconds of quiet in IDLE (R409). -/
def execAutoDoze (s : State) : Answer :=
  let n := bits s.sys.modeCfg 31 16
  .next (if s.sys.mode == .idle && s.sys.ready && n != 0 && allQuiet s && shutdownFree s && s.sys.entry.isNone &&
      decide (s.sys.quietSince + n * 1000000 ≤ s.us) then startSleep { s with job := none } { k := none, vigil := false } else s)

/-! ### Wakes (R410) -/

/-- IDLE readiness after DOZE: rails, ways, governor and internal watchdog are back; polling stays stopped (R279, R337, R384,
R388, R410). -/
def wakeDoze (s : State) : State :=
  let t := (cacheWake s).emits (railOuts s true (List.finRange 8))
  let t := { t with
    pwr := { t.pwr with rails := Vector.replicate 8 true, gov := govRestart { t.pwr.gov with code := govVmax t.pwr.gov, vcore := govVmax t.pwr.gov, hold := 0 } }
    kpr := { t.kpr with internal := { t.kpr.internal with ref := t.kpr.tick - t.kpr.intHeld.getD 0 }, intHeld := none }
    ecc := { t.ecc with passAt := t.us - t.ecc.passAt }
    sys := { t.sys with mode := .idle, parked := true, idleSince := t.us, quietSince := t.us } }
  flushMirror t

/-- A wake: DOZE ends, a held VIGIL starts, or after a thermal shutdown the wake stays pending; one that comes during an entry to DOZE
waits for the entry's last step; in any other mode it has no effect, during an entry to VIGIL neither (R348, R410). -/
def wake (s : State) : State :=
  match s.sys.mode with
  | .doze => wakeDoze s
  | .vigil =>
    if !s.kpr.running || !s.kpr.held || !s.pwr.input then s
    else if s.pwr.coolUntil.isSome then { s with kpr := { s.kpr with wakePending := true } }
    else { s with kpr := { s.kpr with starting := true } }
  | _ => { s with sys := { s.sys with entry := s.sys.entry.map fun e => { e with wake := e.wake || !e.vigil } } }

/-- The entry in progress goes on as time passes, and a wake that came during it acts once it has ended; a DBP_WAKE that woke acts then
too (R71, R410). -/
def sleepTick (s : State) : State :=
  match s.sys.entry with
  | none => s
  | some e =>
    let t := sleepOn s
    if e.wake && t.sys.entry.isNone then e.dbp.foldl (fun t f => wakeFold f t) (wake t) else t

/-- A change of a tray switch or the eject button wakes DOZE, and VIGIL only with TRAY_WAKE = 1 (Table 16.5). -/
def trayWake (s : State) : State := if s.sys.mode == .doze || s.sys.entry.isSome || s.kpr.trayWake then wake s else s

/-- SB_WAKE: 0xA5 is a wake; any other value is ignored and counted (R410, R413). -/
def execSbWake (target : Nat) (v : Byte) (s : State) : Answer :=
  .next (if !sbAnswers s target then s else if v = 0xA5 then wake s else sbIgnore s)

/-- Lorvaus dozes, or enters DOZE: a request wakes it. -/
def dozing (s : State) : Bool := s.sys.mode == .doze || s.sys.entry.isSome

/-- PCIE_REQUEST_WAKE: a memory request to a function in DOZE; the request itself is carried out at readiness (R410, R426). -/
def execPcieRequestWake (f : FoldId) (s : State) : Answer := .next (if dozing s && foldExists s f then wake s else s)

/-- DBP_WAKE: the write wakes the fold; one that wakes Lorvaus from DOZE acts at readiness (R71, R410). -/
def execDbpWake (f : FoldId) (s : State) : Answer :=
  .next (match s.sys.entry with
  | some e =>
    if e.vigil then onBar s f (wakeFold f)
    else if foldExists s f then { s with sys := { s.sys with entry := some { e with wake := true, dbp := e.dbp ++ [f] } } } else s
  | none => onBar (if s.sys.mode == .doze && foldExists s f then wakeDoze s else s) f (wakeFold f))

/-! ### Firmware images (R401 to R403) -/

/-- FW DOWNLOAD: pages of the slot that is not ACTIVE; the first download to a slot clears its VALID bit first (R402). -/
def execFwDownload (k : Nat) (image : List Byte) (s : State) : Answer :=
  .next (match runningAs s 0 k .fwDownload with
  | none => s
  | some d =>
    let b := s.sys.boot
    let n := otherSlot b
    let data := fit d.fld.length image
    if b.trial.isSome then finish s 0 k .badField 0
    else if slotValid b n then
      let b' : BootRecord := if n = 0 then { b with validA := false } else { b with validB := false }
      requestRecord (s.modDesc 0 k fun d => { d with stage := .commit }) 7 1 (some (.boot b')) 16 .other (some (.region 7))
        (.bootDownload k (lbaOf d.fld) data)
    else finish (programImage s n (lbaOf d.fld) data) 0 k .ok d.fld.length)

/-- FW ACTIVATE TRY: the other image is verified, or the trial in force ends; the drain comes first (R403, R405). -/
def execFwActivateTry (k : Nat) (s : State) : Answer :=
  .next (match runningAs s 0 k .fwActivate with
  | none => s
  | some d =>
    if d.fld.opfield ≠ 1 then s
    else if s.sys.boot.trial.isNone && !imageValid s (otherSlot s.sys.boot) then finish s 0 k .badField 0
    else beginDrain s k false)

/-- FW ACTIVATE CONFIRM: the trial slot becomes ACTIVE; fuses follow the commit (R403). -/
def execFwActivateConfirm (k : Nat) (s : State) : Answer :=
  .next (match runningAs s 0 k .fwActivate with
  | none => s
  | some d =>
    if d.fld.opfield ≠ 2 then s
    else match s.sys.boot.trial with
      | none => finish s 0 k .badField 0
      | some n =>
        requestRecord (s.modDesc 0 k fun d => { d with stage := .commit }) 7 1
          (some (.boot { s.sys.boot with active := n, trial := none })) 16 .other (some (.region 7)) (.bootConfirm k))

/-! ### Calibration (R414 to R416, Table 16.8) -/

/-- A converter's two measurements: g = 512 / (m+ − m−) and o = (m+ + m−) / 2 + 0.5 codes of the means of 4,096 samples (R415). A
difference that is not positive gives a gain of 0, which no limit admits. -/
def convPair (p : ConvSums) : CalPair :=
  let g (a b : Int) : Int := if a ≤ b then 0 else roundDiv (512 * 4096 * 1000000) (a - b).toNat
  let o (a b : Int) : Int := roundDiv (1000 * (a + b)) 8192 + 500
  { g1 := g p.plus1 p.minus1, g2 := g p.plus2 p.minus2, o1 := o p.plus1 p.minus1, o2 := o p.plus2 p.minus2 }

/-- METER_I: the gain that makes the difference of the two readings 1.000 A (R415). -/
def loadPair (p : LoadReads) : CalPair :=
  let g (a b : Int) : Int := if a ≤ b then 0 else roundDiv (1000000 * 1000000) (a - b).toNat
  { g1 := g p.with1 p.without1, g2 := g p.with2 p.without2, o1 := p.o1, o2 := p.o2 }

/-- Two measurements agree within 0.05 % in gain and 0.25 codes in offset (R415). -/
def calAgrees (p : CalPair) : Bool := decide ((p.g1 - p.g2).natAbs ≤ 500) && decide ((p.o1 - p.o2).natAbs ≤ 250)

/-- The mean gain lies within 5 % of 1 (Table 16.8); gains are in parts per million. -/
def calGainOk (p : CalPair) : Bool := decide ((p.g1 + p.g2 - 2000000).natAbs ≤ 100000)

/-- The mean offset lies within 20 codes (Table 16.8); offsets are in thousandths of a code. -/
def calOffsetOk (p : CalPair) : Bool := decide ((p.o1 + p.o2).natAbs ≤ 40000)

/-- The mean is the value kept (R415). -/
def calMean (p : CalPair) : Int × Int := (roundDiv (p.g1 + p.g2) 2, roundDiv (p.o1 + p.o2) 2)

/-- A converter passes. -/
def adcOk (p : CalPair) : Bool := calAgrees p && calGainOk p && calOffsetOk p

/-- What one item measures: its values to keep, or a failure. `servoOk` says that SERVO_ADC is calibrated. -/
def calItem (m : CalMeas) (servoOk : Bool) : Nat → Option (List (Int × Int))
  | 0 => let l := m.servo.map convPair
    if l.length = 16 ∧ l.all adcOk = true then some (l.map calMean) else none
  | 1 => let l := m.rf.map convPair
    if l.length = 2 ∧ l.all adcOk = true then some (l.map calMean) else none
  | 2 =>
    let (a, b) := m.vref
    if (a - b).natAbs ≤ 825 ∧ (a + b - 3300000).natAbs ≤ 4000 then some [(roundDiv (a + b) 2, 0)] else none
  | 3 => if servoOk && calAgrees m.meterV && calGainOk m.meterV then some [calMean m.meterV] else none
  | 4 => let p := loadPair m.meterI
    if calAgrees p && calGainOk p then some [calMean p] else none
  | _ => if m.apcSettled then some [((m.apcTarget : Int), (m.apcMax : Int))] else none

/-- The items of a mask in ascending order: the record so far and one result byte per item (R414, R415). -/
def calRun (m : CalMeas) (mask : BitVec 16) : Nat → Nat → CalRecord → List Byte → CalRecord × List Byte
  | 0, _, c, out => (c, out)
  | n + 1, i, c, out =>
    if !bit mask i then calRun m mask n (i + 1) c (out ++ [0])
    else match calItem m (c.items.getD 0 none).isSome i with
      | some v => calRun m mask n (i + 1) { items := c.items.set i (some v) } (out ++ [1])
      | none => calRun m mask n (i + 1) c (out ++ [2])

/-- CALIBRATE: in SERVICE with the spindle stopped; the values of passing items are committed together (R414, R416). -/
def execCalibrate (k : Nat) (meas : CalMeas) (s : State) : Answer :=
  .next (match runningAs s 0 k .calibrate with
  | none => s
  | some d =>
    if !inService s || s.spindle.st != .stopped then finish s 0 k .badField 0
    else
      let (c, out) := calRun meas d.fld.opfield 6 0 s.sys.cal []
      let t := deliver s 0 k (out ++ [0, 0])
      if out.all (· != 1) then finish t 0 k .ok 8
      else
        requestRecord (t.modDesc 0 k fun d => { d with stage := .commit }) 2 0 (some (.calibration c)) 176 .other none
          (.calibrate k))

end Sys2Proof.Machine
end

