-- ==== Sys2Proof/Machine/Loader.lean ====
section
/-! DEFINITION. Machine/Loader.lean: identifying a disc, LOAD and EJECT, the tray motor, the eject solenoid, the tray switches
and the eject button (R58, R110, R114, R139, R166, R204 to R208). -/
namespace Sys2Proof.Machine

/-! ### The tray -/

/-- A motor drive is under way. -/
def trayDriving (l : Loader) : Bool :=
  match l.drive with
  | .opening _ | .closing _ => true
  | _ => false

/-- PWR_MOTION.TRAY (Table 7.9, R206): both switches together read unknown. -/
def trayNow (l : Loader) : Tray :=
  if l.trayIn && l.trayOut then .unknown
  else if trayDriving l then .moving
  else if l.trayIn then .closed
  else if l.trayOut then .open_
  else .unknown

/-- TRAY follows the switches and the drive. -/
def settleTray (s : State) : State := { s with loader := { s.loader with tray := trayNow s.loader } }

/-- The tray motor is driven to close at LDR_DUTY, its current limited to LDR_ILIM (R204). -/
def closeTray (s : State) : State :=
  settleTray ({ s with loader := { s.loader with drive := .closing s.us, pushed := false } }.emit
    (.tray false s.loader.prof.duty s.loader.prof.ilim))

/-- The tray motor stops (R204). -/
def stopTray (s : State) : State := settleTray ({ s with loader := { s.loader with drive := .none } }.emit .trayOff)

/-- The loader stands still. -/
def loaderIdle (s : State) : Bool := !s.loader.ejecting && s.loader.drive == .none

/-- An eject begins: LD_EN drops, the loops open, the spindle makes a braked stop, and the tray opens once it has stopped (Table
7.5). -/
def beginEject (s : State) : State :=
  let t := brakeSpindle (openLoops (dropLaser s))
  let t := { t with loader := { t.loader with ejecting := true }, sys := { t.sys with parked := true } }
  if t.spindle.st = .stopped then settleTray (openTray t) else t

/-- The tray rests open. -/
def trayRestsOpen (s : State) : Bool := s.loader.trayOut && !s.loader.trayIn && loaderIdle s

/-! ### Identification (R114, R139, R166, R202, R246) -/

/-- A disc has been identified: banks and profiles of the medium are taken at the next strobe, what belonged to another load is gone, and
every fold is told (R166, R179). -/
def identified (s : State) (d : DiscInfo) : State :=
  let t := { s with
    disc := some d
    loader := { s.loader with unident := false }
    recd := { s.recd with opc := [], pcaFull := false, values := [] }
    chan := { idleChannel s.chan with inUse := none, lookInUse := none, wobbleHz := none, ring := {}, erased := [], flywheel := none
                                      far := none, accepted := false }
    servo := { s.servo with layer := 0, bankLoad := some ((mediumClass d).val, 0), profLoad := true }
    sys := { s.sys with parked := false, mode := if s.sys.mode = Mode.load then Mode.idle else s.sys.mode, idleSince := s.us } }
  broadcast t evMediumChange 1

/-- No disc was found. -/
def nothingFound (s : State) : State :=
  { s with loader := { s.loader with unident := false }
           sys := { s.sys with mode := if s.sys.mode = Mode.load then Mode.idle else s.sys.mode } }

/-- The mechanism can identify a disc now (R168, R181). -/
def canIdentify (s : State) : Bool := motorsAllowed s && laserAllowed s

/-- An identification with the sled's position lost homes the sled first, and its command is sent again (R202; log entry 17). -/
def homeFirst (s : State) : State := if sledFree s then beginHoming s else s

/-- A LOAD, or an identification on the mechanism, ends with what was found. -/
def identifyJob (s : State) (found : Option DiscInfo) : State :=
  match found with
  | some d => endJob (identified s d) .ok 0
  | none => endJob (nothingFound s) .noDisc 0

/-- IDENTIFY DISC: the record of Table 4.7; the mechanism is used while the disc is not identified (R114). -/
def execIdentifyDisc (f : FoldId) (k : Nat) (found : Option DiscInfo) (s : State) : Answer :=
  .next (match runningAs s f k .identifyDisc, dispatchedAs s f k .identifyDisc with
  | some _, _ => match s.disc with
    | some d => finish (deliver s f k (discRecord d)) f k .ok 64
    | none => finish s f k .noDisc 0
  | none, some _ => match s.disc with
    | some d => endJob (deliver s f k (discRecord d)) .ok 64
    | none =>
      if !canIdentify s then s
      else if s.sled.lost then homeFirst s
      else match found with
        | some d => endJob (deliver (identified s d) f k (discRecord d)) .ok 64
        | none => endJob (nothingFound s) .noDisc 0
  | none, none => s)

/-- LOAD: the tray closes if it is open and has a motor; a disc in it is identified (R58, R114, R204, R205; log entry 17). -/
def execLoad (f : FoldId) (k : Nat) (found : Option DiscInfo) (s : State) : Answer :=
  .next (match dispatchedAs s f k .loadEject with
  | none => s
  | some d =>
    if bit d.fld.opfield 0 || !loaderIdle s then s
    else if (lockAgainst s f (bit d.fld.opfield 1)).isSome then endJob s .mediumLocked 0
    else if s.loader.trayIn && s.loader.trayOut then motionFault s 7 0
    else if s.loader.trayIn then
      (if s.disc.isSome then endJob s .ok 0
       else if !canIdentify s then s
       else if s.sled.lost then homeFirst s
       else identifyJob s found)
    else if s.loader.prof.solenoid then endJob s .noDisc 0
    else if motorsAllowed s then closeTray s else s)

/-- EJECT: a lock of another fold stops it; a tray that rests open stays so (R58, R204, R205, Table 7.5). -/
def execEject (f : FoldId) (k : Nat) (s : State) : Answer :=
  .next (match dispatchedAs s f k .loadEject with
  | none => s
  | some d =>
    if !bit d.fld.opfield 0 || !loaderIdle s then s
    else if (lockAgainst s f (bit d.fld.opfield 1)).isSome then endJob s .mediumLocked 0
    else if s.loader.trayIn && s.loader.trayOut then motionFault s 7 0
    else if trayRestsOpen s then endJob s .ok 0
    else if motorsAllowed s then beginEject s else s)

/-! ### The switches (R204 to R206) -/

/-- An EJECT is the command on the mechanism. -/
def ejectJob (s : State) : Bool :=
  match jobDesc s with
  | some (_, d) => d.op == .loadEject && bit d.fld.opfield 0
  | none => false

/-- An EJECT on the mechanism completes OK. -/
def ejectDone (s : State) : State := if ejectJob s then endJob s .ok 0 else s

/-- A descriptor that has pinned copies of the disc's blocks, and is not on the mechanism, ends with DISC_CHANGED (R110, R139). -/
def endPinned (s : State) : State :=
  let hit (f : FoldId) : List Desc :=
    (s.fold f).descs.filter fun d => !d.pins.isEmpty && descActive d && !onMechanism s f d.k
  allFolds.foldl (fun t f => (hit f).foldl (fun t d =>
    finish (t.modDesc f d.k fun d => { d with writes := [], aux := [] }) f d.k .discChanged 0) t) s

/-- The tray has opened and the disc, if there was one, is out of reach: pens empty, streams lose their sequence, every lock goes,
every fold is told, and a command that used the disc ends (R58, R110, R139, Table 7.5). -/
def discGone (s : State) : State :=
  let t := match jobDesc s with
    | some (_, d) => if d.op == .loadEject then s else stopJob s .discChanged
    | none => match s.job with
      | some j => if j.ended then s else { s with job := none }
      | none => s
  let t := penEmptyAll (endPinned t)
  let clear (x : Fold) : Fold := { x with locked := false, streams := x.streams.map fun y => { y with seq := false } }
  let t := { t with
    disc := none, loader := { t.loader with unident := false, removals := t.loader.removals + 1 }
    folds := t.folds.map clear
    chan := { idleChannel t.chan with accepted := false, flywheel := none, far := none } }
  broadcast t evMediumChange 0

/-- TRAY_IN_N asserts: a closing drive or a hand has closed the tray, and what is in it is identified if the motors may run
(R114, R206; log entry 15). -/
def trayClosed (s : State) (found : Option DiscInfo) : State :=
  let closing := match s.loader.drive with
    | .closing _ => true
    | _ => false
  let opening := match s.loader.drive with
    | .opening _ => true
    | _ => false
  let t := if closing then stopTray s else settleTray s
  let t := { t with loader := { t.loader with pushed := false } }
  if opening then t
  else if !canIdentify t then { t with loader := { t.loader with unident := true } }
  else if t.sled.lost then homeFirst { t with loader := { t.loader with unident := true } }
  else match loadingJob t with
    | some _ => identifyJob t found
    | none => match found with
      | some d => identified t d
      | none => nothingFound t

/-- TRAY_IN_N deasserts: the tray opens, with whatever is in it; with a solenoid that completes the eject (R58, R204, R205, Table
7.5). -/
def trayLeft (s : State) : State :=
  let t := settleTray (discGone s)
  match t.loader.drive with
  | .pulse _ => ejectDone t
  | .afterPulse _ => ejectDone { t with loader := { t.loader with drive := .none } }
  | _ => t

/-- Bronze acts on the loader: firmware runs, outside VIGIL and DOZE. -/
def trayActs (s : State) : Bool := linksUp s

/-- TRAY_IN_N_CHANGE (R206, R410): a switch change is a wake; `found` is what is in a tray that has closed. -/
def execTrayInNChange (asserted : Bool) (found : Option DiscInfo) (s : State) : Answer :=
  let changed := s.loader.trayIn != asserted
  let put (s : State) : State := settleTray { s with loader := { s.loader with trayIn := asserted } }
  .next (if changed then
    let t := put (trayWake s)
    if !trayActs t then { t with loader := { t.loader with unident := asserted } }
    else if asserted then trayClosed t found else trayLeft t
  else if asserted && s.loader.unident && trayActs s && s.job.isNone && loaderIdle s then trayClosed s found
  else s)

/-- A pushed tray closes as soon as the motors may run (R206). -/
def closePushed (s : State) : State :=
  if s.loader.pushed && motorsAllowed s && loaderIdle s && !s.loader.trayIn then closeTray s else s

/-- TRAY_OUT_N_CHANGE: assertion ends an opening drive; a rise while the tray rests open asks for a close (R204, R206). -/
def execTrayOutNChange (asserted : Bool) (s : State) : Answer :=
  .next (if s.loader.trayOut == asserted then s
    else
      let pushed := trayRestsOpen s && !asserted && !s.loader.prof.solenoid && (s.sys.mode != .vigil || s.kpr.trayWake)
      let t := trayWake s
      let t := settleTray { t with loader := { t.loader with trayOut := asserted, pushed := t.loader.pushed || pushed } }
      if !trayActs t then t
      else match t.loader.drive, asserted with
        | .opening _, true => ejectDone (stopTray t)
        | _, _ => closePushed t)

/-- LOADER_JAM: a drive has not reached its switch within LDR_TMAX (R204). -/
def execLoaderJam (s : State) : Answer :=
  let late (t : Nat) : Bool := decide (t + s.loader.prof.tmax * 1000 ≤ s.us)
  .next (match s.loader.drive with
  | .opening t => if late t && !s.loader.trayOut then settleTray (motionFault s 7 0) else s
  | .closing t => if late t && !s.loader.trayIn then settleTray (motionFault s 7 0) else s
  | _ => s)

/-- SOLENOID_PULSE_END: SOL_T has passed; a tray whose TRAY_IN_N is already deasserted has been ejected (R205; log entry 17). -/
def execSolenoidPulseEnd (s : State) : Answer :=
  .next (match s.loader.drive with
  | .pulse t =>
    if s.us < t + s.loader.prof.solT * 1000 then s
    else
      let u := { s with loader := { s.loader with drive := if s.loader.trayIn then .afterPulse t else .none } }.emit (.solenoid false)
      if !s.loader.trayIn && s.job.any (fun j => decide (j.at_ ≤ t)) then ejectDone u else u
  | _ => s)

/-- SOLENOID_TIMEOUT: TRAY_IN_N is still asserted 500 ms after the pulse began (R205). -/
def execSolenoidTimeout (s : State) : Answer :=
  .next (match s.loader.drive with
  | .afterPulse t => if t + 500000 ≤ s.us ∧ s.loader.trayIn = true then motionFault s 7 0 else s
  | _ => s)

/-! ### The eject button (R206) -/

/-- EJECT_BUTTON: EJECT_N held for 50 ms: fold 0's eject without FORCE, or EJECT_REQUEST with the lock holder. It wakes as Table
16.5 says, and the eject then follows READY. -/
def execEjectButton (s : State) : Answer :=
  .next (if !s.loader.prof.btnEn then s
    else
      let t := trayWake s
      match lockAgainst t 0 false with
      | some g => postEvent t 0 evEjectRequest (w32 g.val)
      | none =>
        if t.sys.mode == .vigil && !t.kpr.starting && !t.kpr.wakePending then t
        else { t with loader := { t.loader with button := true } })

/-- The button's eject takes its turn once the mechanism is free (R206, R58). -/
def buttonEject (s : State) : State :=
  if !s.loader.button || !mechanismOpen s || !motorsAllowed s then s
  else
    let s := stopSpeculation s
    let t := { s with loader := { s.loader with button := false } }
    if (lockAgainst t 0 false).isSome || trayRestsOpen t then t
    else if t.loader.trayIn && t.loader.trayOut then motionFault t 7 0
    else beginEject t

end Sys2Proof.Machine
end

