-- ==== Sys2Proof/Machine/DataOps.lean ====
section
/-! DEFINITION. Machine/DataOps.lean: the opcodes of Table 4.6 that neither read nor record user data for the host: NOP, LOCK
MEDIUM, SPIN, SEEK HINT, CLOSE, FORMAT and RESERVE TRACK (R58, R114, R189, R255, R457, R458). In an output `structure_`, 0 to 2
stand for CLOSE's forms, 3 for RESERVE TRACK and 4 to 6 for FORMAT's. -/
namespace Sys2Proof.Machine

/-- NOP: completes at once (R114). -/
def execNop (f : FoldId) (k : Nat) (s : State) : Answer :=
  .next (match runningAs s f k .nop with
  | some _ => finish s f k .ok 0
  | none => s)

/-- LOCK MEDIUM with OPFIELD [0] = 1: the fold's own lock (R58, R111). -/
def execLockMedium (f : FoldId) (k : Nat) (s : State) : Answer :=
  .next (match runningAs s f k .lockMedium with
  | some d =>
    if !bit d.fld.opfield 0 then s
    else if (s.fold f).locked then finish s f k .okRepeated 0
    else finish (s.modFold f fun x => { x with locked := true }) f k .ok 0
  | none => s)

/-- LOCK MEDIUM with OPFIELD [0] = 0: the fold's own lock is released (R58, R111). -/
def execUnlockMedium (f : FoldId) (k : Nat) (s : State) : Answer :=
  .next (match runningAs s f k .lockMedium with
  | some d =>
    if bit d.fld.opfield 0 then s
    else if (s.fold f).locked then finish (s.modFold f fun x => { x with locked := false }) f k .ok 0
    else finish s f k .okRepeated 0
  | none => s)

/-- The class that SPIN asks for: 0xFF is the highest, one beyond the disc's lowest acts as the lowest (R114). -/
def spinClass (d : DiscInfo) (x : Fields) : Nat :=
  let c := bits x.opfield 7 0
  if c = 0xFF then 0 else min (classesOf d.medium - 1) c

/-- SPIN: the class of the fold's later data commands, and the disc spun to it (R114, R189). -/
def execSpin (f : FoldId) (k : Nat) (s : State) : Answer :=
  .next (match dispatchedAs s f k .spin, s.disc with
  | some d, some di =>
    let c := spinClass di d.fld
    let t := s.modFold f fun x => { x with class_ := some c }
    let t := { t with spindle := { t.spindle with class_ := some c }, sys := { t.sys with parked := false } }
    endJob { t with spindle := { t.spindle with setPoint := setPointNow t } } .ok 0
  | _, _ => s)

/-- SEEK HINT: completes at once; with SPECOK it updates its stream (R114, R132). -/
def execSeekHint (f : FoldId) (k : Nat) (s : State) : Answer :=
  .next (match runningAs s f k .seekHint with
  | some d => finish (if d.fld.specok then streamUpdate s f d else s) f k .ok 0
  | none => s)

/-! ### CLOSE, FORMAT, RESERVE TRACK -/

/-- Recording of structures and of zeros: WGATE is high meanwhile, under the wobble's clock (R237, R238). -/
def recordStructure (s : State) (outs : List Out) : State :=
  { (s.emits ([.wgate true] ++ outs ++ [.wgate false])) with chan := wobbleClock s.chan }

/-- The unrecorded blocks of reserved tracks that a CLOSE pads with zeros: of the track it names, or of every open one (R458). -/
def paddedBy (di : DiscInfo) (what num : Nat) : List Out :=
  (di.tracks.filter fun t => trackOpen t && t.reserved && (what != 0 || t.number == num)).filterMap fun t =>
    t.next.map fun n => .zeroed n (t.last + 1 - n)

/-- CLOSE by its form: the disc changes, or earlier recording has made the form OUT_OF_RANGE (R255, R458; log entry 37). -/
def closeRun (s : State) (f : FoldId) (k what : Nat) : State :=
  match dispatchedAs s f k .close, s.disc with
  | some d, some di =>
    if bits d.fld.opfield 1 0 ≠ what then s
    else
      let num := if what = 0 then lbaOf d.fld % 65536 else di.session
      match closeDisc di what (lbaOf d.fld % 65536) with
      | none => endJob s .outOfRange 0
      | some e =>
        if !beamReady s then s
        else endJob (recordStructure { s with disc := some e } (paddedBy di what (lbaOf d.fld % 65536) ++ [.structure_ what num])) .ok 0
  | _, _ => s

def execCloseTrack (f : FoldId) (k : Nat) (s : State) : Answer := .next (closeRun s f k 0)
def execCloseSession (f : FoldId) (k : Nat) (s : State) : Answer := .next (closeRun s f k 1)
def execFinalise (f : FoldId) (k : Nat) (s : State) : Answer := .next (closeRun s f k 2)

/-- FORMAT by its form. `failing` lists the units whose certification failed at first, with the results of their attempts; a
unit that stays failed ends the command and leaves the disc's flags (R254, R255). -/
def formatRun (s : State) (f : FoldId) (k form : Nat) (failing : List (Nat × List Readback)) : State :=
  match dispatchedAs s f k .format, s.disc with
  | some d, some di =>
    if bits d.fld.opfield 1 0 ≠ form then s
    else if !formatOk di then endJob s .outOfRange 0
    else if !beamReady s then s
    else
      let t := recordStructure s (.structure_ (4 + form) 0 :: if form = 0 then [] else [.zeroed 0 di.capacity])
      if form ≠ 2 then stopJob { t with disc := some (formatDisc di (form != 0)) } .ok
      else
        let (e, rep, bad) := tryUnits t false di 0 failing
        let t := t.modJob fun j => { j with replaced := rep, firstFail := bad }
        match bad with
        | none =>
          stopJob { t with disc := some (formatDisc e true) } (if 0 < rep then .okRecovered else .ok)
        | some _ => stopJob { t with disc := some { formatDisc e true with finalised := di.finalised } } .writeFailed
  | _, _ => s

def execFormatQuick (f : FoldId) (k : Nat) (s : State) : Answer := .next (formatRun s f k 0 [])
def execFormatFull (f : FoldId) (k : Nat) (s : State) : Answer := .next (formatRun s f k 1 [])
def execFormatFullCertify (f : FoldId) (k : Nat) (failing : List (Nat × List Readback)) (s : State) : Answer :=
  .next (formatRun s f k 2 failing)

/-- RESERVE TRACK: the open-ended track becomes a reserved one; its first block and number go to AUX (R114, R457). -/
def reserveRun (s : State) (f : FoldId) (k : Nat) : State :=
  match dispatchedAs s f k .reserveTrack, s.disc with
  | some d, some di => match reserveTrack di (bits d.fld.opdata 31 0) with
    | none => endJob s .outOfRange 0
    | some (e, t) =>
      if !beamReady s then s
      else
      let u := recordStructure { s with disc := some e } [.structure_ 3 t.number]
      endJob (setAux u f k (leBytes 4 t.first ++ leBytes 4 t.number)) .ok 0
  | _, _ => s

def execReserveTrack (f : FoldId) (k : Nat) (s : State) : Answer := .next (reserveRun s f k)

end Sys2Proof.Machine
end

