-- ==== Sys2Proof/Machine/Profiles.lean ====
section
/-! DEFINITION. Machine/Profiles.lean: the profiles of PROFILE LOAD (R120, R179, R209, R235, R261; Tables 6.10, 7.8, 8.6, 9.2,
9.6), FOLD SET (R36, R37, R277) and GRANT INVALIDATE (R46). A profile's payload is what its list held; each applies whole or
is BAD_FIELD. A byte that holds a field narrower than itself is out of range when its other bits are not 0 (R9, R179). -/
namespace Sys2Proof.Machine

/-! ### Fields of a payload -/

/-- Bytes a to b of a payload are 0: its reserved bytes (R179). -/
def zeroBytes (p : List Byte) (a b : Nat) : Bool := ((p.drop a).take (b + 1 - a)).all fun x => x == 0

/-- A number lies in a range. -/
def inRange (lo hi n : Nat) : Bool := decide (lo ≤ n) && decide (n ≤ hi)

/-- A 32-bit field holds a Q2.21 value: bits [31:24] equal bit 23 (R162). -/
def q24Ok (p : List Byte) (i : Nat) : Bool :=
  let v := int32 (le32 p i)
  decide (-8388608 ≤ v) && decide (v ≤ 8388607)

/-- The Q2.21 value at an offset (R162). -/
def q24 (p : List Byte) (i : Nat) : Int := int32 (le32 p i)

/-- A signed 8-bit field. -/
def int8 (p : List Byte) (i : Nat) : Int := if byteAt p i < 128 then (byteAt p i : Int) else (byteAt p i : Int) - 256

/-- A value lies within ±1.0 in Q2.21. -/
def unitQ (v : Int) : Bool := decide (-2097152 ≤ v) && decide (v ≤ 2097152)

/-- Run a profile row: the descriptor is fold 0's PROFILE LOAD of that type, started and not finished. It applies whole and
completes with LENGTH, or completes with BAD_FIELD and changes nothing (R179, Table 4.11). -/
def profileRun (s : State) (k ty len : Nat) (payload : List Byte) (ok : List Byte → Bool) (eff : List Byte → State) : State :=
  match runningAs s 0 k .profileLoad with
  | some d =>
    if bits d.fld.opfield 7 0 ≠ ty then s
    else if ok (fit len payload) then finish (eff (fit len payload)) 0 k .ok d.fld.length
    else finish s 0 k .badField 0
  | none => s

/-! ### Servo profiles (Table 6.10) -/

/-- A medium class is loaded, and which (R164, R179). -/
def loadedClass (s : State) : Option Nat := s.disc.map fun _ => (classNow s).val

/-- The built-in microstep table comes back through the shadow (R197, R209): at once while the sled is at rest. A table that
waits in the shadow is replaced by it, and its profile completes with the swap. -/
def tableDefault (s : State) : State :=
  let t := { s with sled := { s.sled with shadow := some (.builtin, s.sled.shadow.bind (·.2)) } }
  if s.sled.move = .rest then takeTable t else t

/-- Every profile but LOOP_RATE returns to its built-in values (R164, R179, R209, R235, R261). -/
def profilesDefault (s : State) : State :=
  let base : Channel := {}
  let t := { s with
    servo := { s.servo with stored := [], signal := Vector.replicate 3 {}, sequence := Vector.replicate 3 {}, signalIn := {}, sequenceIn := {}
                            profLoad := false, apcTarget := none, apcMax := none }
    spindle := { s.spindle with prof := {}, inUse := if s.spindle.st = .stopped then {} else s.spindle.inUse }
    sled := { s.sled with prof := {}, inUse := if s.sled.move = .rest then {} else s.sled.inUse }
    loader := { s.loader with prof := {} }
    chan := { s.chan with prof := base.prof, look := base.look }
    recd := { s.recd with strategies := [], lds := {} }
    cap := { s.cap with source := 0, trigger := 0, decimate := 1 } }
  tableDefault t

/-- LOOP_RATE is accepted while no disc is loaded, or in SERVICE with the spindle stopped (R179). -/
def rateAllowed (s : State) : Bool := s.disc.isNone || (inService s && s.spindle.st == .stopped)

/-- LOOP_RATE: the rate at once, a synchronising reset, and the built-in values of R164 (R177, R179). -/
def execLoopRate (k : Nat) (payload : List Byte) (s : State) : Answer :=
  .next (profileRun s k 0x10 16 payload (fun p => decide (byteAt p 0 ≤ 2) && zeroBytes p 1 15 && rateAllowed s) fun p =>
    let t := profilesDefault s
    askResync { t with servo := { t.servo with rate := byteAt p 0 } })

/-- A LOOP_BANK payload's section i. -/
def sectionAt (p : List Byte) (i : Nat) : Section :=
  let o := 0x14 + 20 * i
  { b0 := q24 p o, b1 := q24 p (o + 4), b2 := q24 p (o + 8), a1 := q24 p (o + 12), a2 := q24 p (o + 16) }

/-- The bank of a LOOP_BANK payload (Table 6.10). -/
def bankAt (p : List Byte) : Bank :=
  { inOffset := q24 p 4, inGain := q24 p 8, integMask := BitVec.ofNat 6 (byteAt p 3), outLo := q24 p 12, outHi := q24 p 16
    secs := (List.range 6).map (sectionAt p) }

/-- A LOOP_BANK payload is in range (Table 6.10, R162). -/
def bankOk (p : List Byte) : Bool :=
  decide (byteAt p 0 ≤ 5) && decide (byteAt p 1 ≤ 2) && (decide (byteAt p 2 ≤ 2) || byteAt p 2 == 255) &&
    decide (byteAt p 3 ≤ 63) && ((List.range 34).all fun i => q24Ok p (4 + 4 * i)) && unitQ (q24 p 12) && unitQ (q24 p 16) &&
    decide (q24 p 12 ≤ q24 p 16) && zeroBytes p 0x8C 0x9F

/-- The layers that a LAYER byte names. -/
def layersNamed (b : Nat) : List Nat := if b = 255 then [0, 1, 2] else [b]

/-- Replace one stored bank (R164). -/
def storeBank (loop cls layer : Nat) (b : Bank) (l : List (Nat × Nat × Nat × Bank)) : List (Nat × Nat × Nat × Bank) :=
  (l.filter fun x => !(x.1 == loop && x.2.1 == cls && x.2.2.1 == layer)) ++ [(loop, cls, layer, b)]

/-- LOOP_BANK's stored banks: those it names (R164). -/
def storeBanks (s : State) (p : List Byte) : State :=
  { s with servo := { s.servo with
      stored := (layersNamed (byteAt p 2)).foldl (fun l y => storeBank (byteAt p 0) (byteAt p 1) y (bankAt p) l) s.servo.stored } }

/-- The medium class and layer that a LOOP_BANK names are in use (R164). -/
def bankInUse (s : State) (p : List Byte) : Bool :=
  loadedClass s == some (byteAt p 1) && (layersNamed (byteAt p 2)).contains s.servo.layer

/-- A write of a whole bank into a loop's inactive bank begins: VALID is cleared until it ends at the next strobe, and the profile
completes with it; the active bank is never written (R163; log entry 112). -/
def beginBankWrite (s : State) (k : Nat) (p : List Byte) : State :=
  let t := s.modDesc 0 k fun d => { d with stage := .waiting }
  { t with servo := { t.servo with
      bankWrites := t.servo.bankWrites ++ [(byteAt p 0, bankAt p, k)]
      loops := Vector.ofFn fun i =>
        if i.val = byteAt p 0 then { t.servo.loops.get i with inactiveValid := false } else t.servo.loops.get i } }

/-- A swap is pending for a loop (R165). -/
def swapPending (s : State) (loop : Nat) : Bool :=
  match s.servo.swap with
  | some (m, _, _) => bit m loop
  | none => false

/-- LOOP_BANK: the stored banks it names, and the loop's inactive bank where the class and layer are in use; it waits while a swap of
its loop is pending (R163, R164, R165). -/
def execLoopBank (k : Nat) (payload : List Byte) (s : State) : Answer :=
  let p := fit 160 payload
  .next (match runningAs s 0 k .profileLoad with
  | some d =>
    if bits d.fld.opfield 7 0 ≠ 0x11 ∨ swapPending s (byteAt p 0) = true then s
    else if !bankOk p then finish s 0 k .badField 0
    else if bankInUse s p then beginBankWrite (storeBanks s p) k p
    else finish (storeBanks s p) 0 k .ok d.fld.length
  | none => s)

/-- A BANK_SWAP payload is in range, and every named loop's inactive bank is VALID (Table 6.10, R165). -/
def swapOk (s : State) (p : List Byte) : Bool :=
  inRange 1 63 (byteAt p 0) && decide (byteAt p 1 ≤ 1) && zeroBytes p 2 15 &&
    (List.finRange 6).all fun i => !bit (BitVec.ofNat 6 (byteAt p 0)) i.val || (s.servo.loops.get i).inactiveValid

/-- BANK_SWAP: asks for the swap at the next strobe, after which it completes (R165). -/
def execBankSwap (k : Nat) (payload : List Byte) (s : State) : Answer :=
  let p := fit 16 payload
  .next (match runningAs s 0 k .profileLoad with
  | some d =>
    if bits d.fld.opfield 7 0 ≠ 0x12 ∨ s.servo.swap.isSome ∨ s.servo.swapped.isSome then s
    else if !swapOk s p then finish s 0 k .badField 0
    else
      let t := s.modDesc 0 k fun d => { d with stage := .waiting }
      { t with servo := { t.servo with swap := some (BitVec.ofNat 6 (byteAt p 0), byteAt p 1 == 1, k) } }
  | none => s)

/-- A SIGNAL payload is in range (Table 6.10): 4.0, one step above the format's largest code, is reached by no code. -/
def signalOk (p : List Byte) : Bool :=
  decide (byteAt p 0 ≤ 2) && decide (byteAt p 1 ≤ 2) && decide (byteAt p 2 ≤ 3) && zeroBytes p 3 3 &&
    ((List.range 10).all fun i => q24Ok p (4 + 4 * i)) && decide (1048576 ≤ q24 p 4) && unitQ (q24 p 8) && zeroBytes p 0x2C 0x3F

/-- A SIGNAL or SEQUENCE profile of the loaded class is in use from the next strobe (R179). -/
def useProfile (s : State) (cls : Nat) : State :=
  if loadedClass s = some cls then { s with servo := { s.servo with profLoad := true } } else s

/-- SIGNAL: the profile of its medium class, in use from the next strobe if that class is loaded and from its next identification
otherwise (R153, R179). -/
def execSignal (k : Nat) (payload : List Byte) (s : State) : Answer :=
  .next (profileRun s k 0x13 64 payload signalOk fun p =>
    let x : SignalProf := { teMode := byteAt p 1, kAuto := bit (BitVec.ofNat 8 (byteAt p 2)) 0, tiltEn := bit (BitVec.ofNat 8 (byteAt p 2)) 1
                            kDpp := q24 p 4, tiltFixed := q24 p 8, w := (List.range 8).map fun i => q24 p (12 + 4 * i) }
    useProfile { s with servo := { s.servo with signal := s.servo.signal.set (byteAt p 0 % 3) x (Nat.mod_lt _ (by decide)) } } (byteAt p 0))

/-- A SEQUENCE payload is in range (Table 6.10); the fields given in codes, and LJ_KICK, have no stated range. -/
def sequenceOk (p : List Byte) : Bool :=
  let g (i : Nat) := le16 p (2 * i)
  decide (byteAt p 0 ≤ 2) && zeroBytes p 1 1 && inRange 100 1000 (g 1) && inRange 20 500 (g 2) && inRange 1 8 (g 3) &&
    inRange 50 2000 (g 7) && inRange 10 500 (g 8) && inRange 1 1000 (g 10) && inRange 50 2000 (g 12) && inRange 100 1000 (g 14) &&
    zeroBytes p 0x1E 0x3F

/-- The fields of a SEQUENCE payload, at 0x02, 0x04, … 0x1C (Table 6.10). -/
def sequenceAt (p : List Byte) : SequenceProf :=
  let g (i : Nat) := le16 p (2 * i)
  { fsRange := g 1, fsTime := g 2, fsTries := g 3, fsSumTh := g 4, fePeakTh := g 5, fokTh := g 6, tonSlow := g 7, brkT := g 8,
    tonLock := g 9, kickAmp := g 10, ljKick := g 11, ljKickT := g 12, ljBrakeTh := g 13, dhMax := g 14 }

/-- SEQUENCE: the profile of its medium class, in use as SIGNAL's (R179). -/
def execSequence (k : Nat) (payload : List Byte) (s : State) : Answer :=
  .next (profileRun s k 0x14 64 payload sequenceOk fun p =>
    useProfile { s with servo := { s.servo with sequence := s.servo.sequence.set (byteAt p 0 % 3) (sequenceAt p) (Nat.mod_lt _ (by decide)) } }
      (byteAt p 0))

/-- SERVO_RESYNC: a synchronising reset (R177). -/
def execServoResync (k : Nat) (payload : List Byte) (s : State) : Answer :=
  .next (profileRun s k 0x15 16 payload (fun p => zeroBytes p 0 15) fun _ => askResync s)

/-- APC: APC_TARGET and APC_MAX, above which no output stays (R167, Table 6.10). -/
def execApc (k : Nat) (payload : List Byte) (s : State) : Answer :=
  .next (profileRun s k 0x16 16 payload (fun p => decide (le16 p 0 ≤ 511) && decide (le16 p 2 ≤ 1023) && zeroBytes p 4 15) fun p =>
    limitApc { s with servo := { s.servo with apcTarget := some (le16 p 0), apcMax := some (le16 p 2) } })

/-! ### Motion profiles (Table 7.8) -/

/-- A SPINDLE payload is in range. -/
def spindleOk (p : List Byte) : Bool :=
  inRange 1 8 (byteAt p 0) && decide (byteAt p 1 ≤ 1) && decide (byteAt p 2 ≤ 30) && inRange 5 40 (byteAt p 3) &&
    inRange 200 1000 (le16 p 4) && inRange 1000 6400 (le16 p 6) && inRange 500 3000 (le16 p 8) && inRange 10 500 (le16 p 10) &&
    inRange 100 1000 (le16 p 12) && inRange 2 50 (le16 p 14) && inRange 1 64 (le16 p 16) && inRange 100 1500 (le16 p 18) &&
    inRange 1 5 (le16 p 20) && inRange 100 1000 (le16 p 22) && zeroBytes p 0x18 0x1F

/-- The fields of a SPINDLE payload. -/
def spindleAt (p : List Byte) : SpindleProf :=
  { polePairs := byteAt p 0, hallEn := byteAt p 1 == 1, commAdv := byteAt p 2, blank := byteAt p 3, ilim := le16 p 4,
    spinMax := le16 p 6, idleRpm := le16 p 8, alignT := le16 p 10, alignI := le16 p 12, startT0 := le16 p 14, ramp := le16 p 16,
    handover := le16 p 18, startTries := le16 p 20, stopRpm := le16 p 22 }

/-- SPINDLE: in force at once while the spindle is stopped, at its next start otherwise (R209). -/
def execSpindle (k : Nat) (payload : List Byte) (s : State) : Answer :=
  .next (profileRun s k 0x20 32 payload spindleOk fun p =>
    let x := spindleAt p
    { s with spindle := { s.spindle with prof := x, inUse := if s.spindle.st = .stopped then x else s.spindle.inUse } })

/-- A SLED payload is in range. -/
def sledOk (p : List Byte) : Bool :=
  decide (le16 p 0 ≤ 1) && inRange 100 2500 (le16 p 2) && inRange 1000 100000 (le32 p 4) && inRange 100000 10000000 (le32 p 8) &&
    inRange 50 350 (le16 p 12) && decide (le16 p 14 ≤ 350) && inRange 10 500 (le16 p 16) && inRange 10 500 (le16 p 18) &&
    inRange 50 1000 (le16 p 20) && inRange 100 2000 (le16 p 22) && decide (le32 p 24 ≤ 30000) && decide (le16 p 28 ≤ 10000) &&
    inRange 1 8 (le16 p 30) && zeroBytes p 0x20 0x2F

/-- The fields of a SLED payload. -/
def sledAt (p : List Byte) : SledProf :=
  { sCurve := le16 p 0 == 1, vMax := le16 p 2, accel := le32 p 4, jerk := le32 p 8, sledI := le16 p 12, holdI := le16 p 14,
    pitch := le16 p 16, followV := le16 p 18, homeV := le16 p 20, homeMax := le16 p 22, homePos := le32 p 24,
    seekSettle := le16 p 28, seekTries := le16 p 30 }

/-- SLED: in force at once while the sled is at rest, at its next move otherwise (R209). -/
def execSled (k : Nat) (payload : List Byte) (s : State) : Answer :=
  .next (profileRun s k 0x21 48 payload sledOk fun p =>
    let x := sledAt p
    { s with sled := { s.sled with prof := x, inUse := if s.sled.move = .rest then x else s.sled.inUse } })

/-- The entries of a SLED_TABLE payload. -/
def tableAt (p : List Byte) : List Nat := (List.range 256).map fun i => le16 p (2 * i)

/-- A table goes into the shadow: it is used, and its profile completes, at once while the sled is at rest and at the next
full step otherwise; behind a pending swap it waits (R197). -/
def shadowRun (s : State) (k ty : Nat) (ok : Bool) (t : TableRef) : State :=
  match runningAs s 0 k .profileLoad with
  | some d =>
    if bits d.fld.opfield 7 0 ≠ ty then s
    else if !ok then finish s 0 k .badField 0
    else if s.sled.shadow.isSome then s
    else
      let u := { s with sled := { s.sled with shadow := some (t, some k) } }
      if s.sled.move = .rest then takeTable u else u.modDesc 0 k fun d => { d with stage := .waiting }
  | none => s

/-- SLED_TABLE: entries of ten bits (R195, R197). -/
def execSledTable (k : Nat) (payload : List Byte) (s : State) : Answer :=
  let t := tableAt (fit 512 payload)
  .next (shadowRun s k 0x22 (t.all fun x => decide (x < 1024)) (.loaded t))

/-- SLED_TABLE_DEFAULT: the built-in table, through the shadow (R197, R209). -/
def execSledTableDefault (k : Nat) (payload : List Byte) (s : State) : Answer :=
  .next (shadowRun s k 0x24 (zeroBytes (fit 16 payload) 0 15) .builtin)

/-- LOADER (R205, R209). -/
def execLoader (k : Nat) (payload : List Byte) (s : State) : Answer :=
  let ok (p : List Byte) := decide (byteAt p 0 ≤ 1) && decide (byteAt p 1 ≤ 1) && inRange 20 100 (le16 p 2) &&
    inRange 100 800 (le16 p 4) && inRange 500 5000 (le16 p 6) && inRange 10 200 (le16 p 8) && zeroBytes p 10 15
  .next (profileRun s k 0x23 16 payload ok fun p =>
    let x : LoaderProf := { solenoid := byteAt p 0 == 1, btnEn := byteAt p 1 == 1, duty := le16 p 2, ilim := le16 p 4, tmax := le16 p 6
                            solT := le16 p 8 }
    { s with loader := { s.loader with prof := x } })

/-! ### Channel profiles (Table 8.6) -/

/-- The five taps from an offset. -/
def tapsAt (p : List Byte) (i : Nat) : List Int := (List.range 5).map fun j => int8 p (i + j)

/-- Every tap lies from −15 to 15. -/
def tapsOk (l : List Int) : Bool := l.all fun t => decide (-15 ≤ t) && decide (t ≤ 15)

/-- A CHANNEL payload is in range (R235). -/
def channelOk (p : List Byte) : Bool :=
  let m := byteAt p 0
  let t := tapsAt p 1
  let e7 := int16 (le16 p 30)
  let lead := le16 p 0x2E
  decide (m ≤ 3) && tapsOk t && (if m = 0 then t.all (· == 0) else t.any (· != 0)) && inRange 8 16 (byteAt p 6) &&
    inRange 4 12 (byteAt p 7) && inRange 4 12 (byteAt p 8) && inRange 6 14 (byteAt p 9) && zeroBytes p 11 11 &&
    inRange 10 500 (le16 p 12) && inRange 1 50 (le16 p 14) && decide (4096 ≤ e7) && decide (e7 ≤ 16384) &&
    ((lead == 0 && decide (2 ≤ m)) || inRange 1024 16384 lead) && zeroBytes p 0x30 0x3F

/-- The fields of a CHANNEL payload. -/
def channelAt (p : List Byte) : ChannelProf :=
  { target := tapsAt p 1, muEq := byteAt p 6, muAgc := byteAt p 7, muOfs := byteAt p 8, muAsym := byteAt p 9, defGuard := byteAt p 10,
    acqBw := le16 p 12, trkBw := le16 p 14, preset := (List.range 15).map fun i => int16 (le16 p (16 + 2 * i)), acqLead := le16 p 0x2E }

/-- CHANNEL: in force from the next acquisition of its medium (R235). -/
def execChannel (k : Nat) (payload : List Byte) (s : State) : Answer :=
  .next (profileRun s k 0x30 64 payload channelOk fun p =>
    { s with chan := { s.chan with prof := s.chan.prof.set (byteAt p 0 % 4) (channelAt p) (Nat.mod_lt _ (by decide)) } })

/-- SECOND_LOOK: passes, pins and the second target of its medium (R235). -/
def execSecondLook (k : Nat) (payload : List Byte) (s : State) : Answer :=
  let ok (p : List Byte) := decide (byteAt p 0 ≤ 3) && decide (byteAt p 1 ≤ 2) && decide (byteAt p 2 ≤ 7) && tapsOk (tapsAt p 3) &&
    zeroBytes p 8 15
  .next (profileRun s k 0x31 16 payload ok fun p =>
    let x : SecondLookProf := { passes := byteAt p 1, pin := BitVec.ofNat 3 (byteAt p 2), target2 := tapsAt p 3 }
    { s with chan := { s.chan with look := s.chan.look.set (byteAt p 0 % 4) x (Nat.mod_lt _ (by decide)) } })

/-- CHANNEL_DEFAULT: both channel profiles of a medium (R235). -/
def execChannelDefault (k : Nat) (payload : List Byte) (s : State) : Answer :=
  .next (profileRun s k 0x32 16 payload (fun p => decide (byteAt p 0 ≤ 3) && zeroBytes p 1 15) fun p =>
    let base : Channel := {}
    let i : Fin 4 := ⟨byteAt p 0 % 4, Nat.mod_lt _ (by decide)⟩
    { s with chan := { s.chan with prof := s.chan.prof.set i (base.prof.get i), look := s.chan.look.set i (base.look.get i) } })

/-! ### Recording profiles (Tables 9.2, 9.3, 9.6) -/

/-- A recordable MEDIUM code of Table 4.7. -/
def recordableCode (m : Nat) : Bool := [0x02, 0x03, 0x11, 0x12, 0x13, 0x14, 0x21, 0x22].contains m

/-- The 64 entries of a WSTRAT payload, eight segments each. -/
def entriesAt (p : List Byte) : List (List Half) :=
  (List.range 64).map fun e => (List.range 8).map fun j => BitVec.ofNat 16 (le16 p (0x40 + 16 * e + 2 * j))

/-- A WSTRAT payload is in range (Table 9.2, R244). -/
def wstratOk (p : List Byte) : Bool :=
  recordableCode (byteAt p 0) && (decide (byteAt p 1 ≤ 2) || byteAt p 1 == 255) && decide (byteAt p 2 ≤ 3) && decide (byteAt p 3 ≤ 7) &&
    ((List.range 7).all fun i => zeroBytes p (0x0D + 4 * i) (0x0D + 4 * i)) && decide (byteAt p 0x2A ≤ 1) && inRange 5 15 (byteAt p 0x2B) &&
    inRange 5 40 (le16 p 0x2C) && (byteAt p 0x2A == 0 || inRange 0x1000 0x2000 (le16 p 0x30)) && decide (le16 p 0x32 ≤ 0x8000) &&
    inRange 1 20 (byteAt p 0x34) && zeroBytes p 0x35 0x3F && (entriesAt p).all fun e => entryOk (byteAt p 3) e

/-- The table of a WSTRAT payload. -/
def wstratAt (p : List Byte) : Strategy :=
  { medium := byteAt p 0, layer := byteAt p 1, class_ := byteAt p 2, spaceCode := byteAt p 3, mid := BitVec.ofNat 64 (le64 p 4),
    levels := (List.range 7).map fun i => (byteAt p (0x0C + 4 * i), le16 p (0x0E + 4 * i)), valueMax := le16 p 0x28,
    opcMethod := byteAt p 0x2A, opcSteps := byteAt p 0x2B, opcSpan := le16 p 0x2C, target := int16 (le16 p 0x2E),
    kappa := le16 p 0x30, runGain := le16 p 0x32, runLimit := byteAt p 0x34, entries := entriesAt p }

/-- Two tables have one name: MEDIUM, LAYER, CLASS and MID (R245). -/
def sameTable (a b : Strategy) : Bool := a.medium == b.medium && a.layer == b.layer && a.class_ == b.class_ && a.mid == b.mid

/-- WSTRAT: replaces the loaded table of its name or adds one; a 49th distinct table is BAD_FIELD (R245). -/
def execWstrat (k : Nat) (payload : List Byte) (s : State) : Answer :=
  let others (p : List Byte) := s.recd.strategies.filter fun t => !sameTable t (wstratAt p)
  .next (profileRun s k 0x40 1088 payload (fun p => wstratOk p && decide ((others p).length < 48)) fun p =>
    { s with recd := { s.recd with strategies := others p ++ [wstratAt p] } })

/-- WSTRAT_DEFAULT: every loaded table of a medium goes (R261). -/
def execWstratDefault (k : Nat) (payload : List Byte) (s : State) : Answer :=
  .next (profileRun s k 0x41 16 payload (fun p => recordableCode (byteAt p 0) && zeroBytes p 1 15) fun p =>
    { s with recd := { s.recd with strategies := s.recd.strategies.filter fun t => t.medium != byteAt p 0 } })

/-- A recording command is on the mechanism. -/
def isRecording (s : State) : Bool :=
  match s.job with
  | some j => j.kind == .writing && !j.ended
  | none => false

/-- LDS: waits until recording ends (R241, R261). -/
def execLds (k : Nat) (payload : List Byte) (s : State) : Answer :=
  let ok (p : List Byte) := inRange 2 24 (byteAt p 0) && decide (byteAt p 1 ≤ 1) && inRange 25 100 (byteAt p 2) && zeroBytes p 3 15
  .next (if isRecording s then s
    else profileRun s k 0x42 16 payload ok fun p =>
      { s with recd := { s.recd with lds := { div := byteAt p 0, readback := byteAt p 1 == 1, vfyLimit := byteAt p 2 } } })

/-- CAPTURE: source, trigger and decimation; it waits for its trigger anew (R260). -/
def execCapture (k : Nat) (payload : List Byte) (s : State) : Answer :=
  let ok (p : List Byte) := decide (byteAt p 0 ≤ 4) && decide (byteAt p 1 ≤ 3) && inRange 1 256 (le16 p 2) && zeroBytes p 4 15
  .next (profileRun s k 0x43 16 payload ok fun p =>
    { s with cap := { s.cap with source := byteAt p 0, trigger := byteAt p 1, decimate := le16 p 2, running := false, first := false } })

/-! ### FOLD SET (R36, R37, R277) -/

/-- The record of a FOLD SET payload (Table 2.2). -/
def recordAt (p : List Byte) : FoldRec :=
  { flock := byteAt p 1, weight := byteAt p 2, level := byteAt p 3, bufMin := le16 p 4, bufMax := le16 p 6, penQuota := le16 p 8,
    wayMask := BitVec.ofNat 16 (le16 p 10), vaultQuota := le16 p 12, maxBlocks := le16 p 14, defTimeout := le16 p 16 }

/-- LEVEL_MAX of the firmware that runs (R398, R419). -/
def levelMax (s : State) : Nat := imageLevel s s.sys.running

/-- A record is in the ranges of Table 2.2. -/
def recordOk (p : List Byte) : Bool :=
  let r := recordAt p
  decide (byteAt p 0 ≤ 7) && decide (r.flock ≤ 4) && decide (1 ≤ r.weight) && r.level == 1 && decide (r.bufMin ≤ r.bufMax) &&
    inRange 1 20480 r.bufMax && decide (r.penQuota ≤ 8192) && decide (le16 p 10 < 4096) && decide (r.vaultQuota ≤ 960) &&
    decide (1 ≤ r.maxBlocks) && decide (1 ≤ r.defTimeout) && zeroBytes p 0x12 0x3F

/-- A record agrees with the other folds' records and with what its fold already stores (R36). -/
def recordFits (s : State) (f : FoldId) (r : FoldRec) : Bool :=
  let rec_ (g : FoldId) : FoldRec := if g = f then r else (s.fold g).record
  decide (sumOf (fun g => (rec_ g).bufMin + (rec_ g).penQuota) allFolds ≤ 20480) &&
    (allFolds.all fun g => g == f || (s.fold g).record.wayMask &&& r.wayMask == 0) &&
    decide (sumOf (fun g => (rec_ g).vaultQuota) allFolds ≤ 960) && decide (vaultUsed s f ≤ r.vaultQuota * 1024)

/-- The ways that a record takes from its fold: each is cleaned before the completion (R277). -/
def cleanRemoved (s : State) (old new : BitVec 16) : State :=
  ((List.range 12).filter fun w => bit old w && !bit new w && bit s.cache.powered w).foldl cleanWay s

/-- FOLD SET: the record is rejected whole, or takes effect when its completion is posted (R36, R37, R277, R419). -/
def execFoldSet (k : Nat) (rec_ : List Byte) (s : State) : Answer :=
  let p := fit 64 rec_
  .next (match runningAs s 0 k .foldSet with
  | some _ =>
    let f : FoldId := ⟨byteAt p 0 % 8, Nat.mod_lt _ (by decide)⟩
    let r := recordAt p
    if recordOk p && decide (r.level ≤ levelMax s) && recordFits s f r then
      let t := cleanRemoved s (s.fold f).record.wayMask r.wayMask
      finish (t.modDesc 0 k fun d => { d with applies := some (f, r) }) 0 k .ok 64
    else finish s 0 k .badField 0
  | none => s)

/-! ### GRANT INVALIDATE (R46) -/

/-- GRANT INVALIDATE of one entry (R46, Table 4.11). -/
def execGrantInvalidate (k : Nat) (s : State) : Answer :=
  .next (match runningAs s 0 k .grantInvalidate with
  | some d =>
    if bit d.fld.opfield 8 then s
    else finish { s with plat := { s.plat with cache := s.plat.cache.filter fun c => c.grant.index != bits d.fld.opfield 7 0 } } 0 k .ok 0
  | none => s)

/-- GRANT INVALIDATE of every entry (R46, Table 4.11). -/
def execGrantInvalidateAll (k : Nat) (s : State) : Answer :=
  .next (match runningAs s 0 k .grantInvalidate with
  | some d =>
    if bit d.fld.opfield 8 then finish { s with plat := { s.plat with cache := [] } } 0 k .ok 0 else s
  | none => s)

end Sys2Proof.Machine
end

