-- ==== Sys2Proof/Machine/Mmc.lean ====
section
/-! DEFINITION. Machine/Mmc.lean: MMC PASS (R121, R122, Table 4.12). A row carries the command block read at AAD_PTR. A command
block with a native opcode becomes a descriptor of that opcode and goes through its checks from Table 4.3's check 4 on; the
native rows then run it. One executed under READ with disc scope passes steps 2 to 5 of R44 and is answered by its own row,
sent again where a read of the grant table lay between. Field places within a command block are those of MMC-6 (log entry 55);
content that the manual does not give is free. -/
namespace Sys2Proof.Machine

/-- The operation codes of Table 4.12. -/
def mmcCodes : List Nat :=
  [0x00, 0x03, 0x04, 0x12, 0x1B, 0x1E, 0x23, 0x25, 0x28, 0xA8, 0x2A, 0xAA, 0x2F, 0x35, 0x43, 0x46, 0x4A, 0x51, 0x52, 0x53, 0x5A,
   0x5B, 0xAD, 0xBB, 0xBE]

/-- A descriptor's command block: its AAD_LEN bytes, zeros beyond them. -/
def mmcBlock (d : Desc) (cdb : List Byte) : List Byte := fit 12 (cdb.take d.fld.aadLen)

/-- The three-byte big-endian field at an offset. -/
def be24 (l : List Byte) (i : Nat) : Nat := 65536 * byteAt l i + be16 l (i + 1)

/-- Bit i of byte j of a command block. -/
def cdbBit (c : List Byte) (j i : Nat) : Bool := bit (BitVec.ofNat 8 (byteAt c j)) i

/-- The next free number for a point the manual leaves open, and the state that has used it. -/
def openDraw (key : Nat) (s : State) : Nat × State := ((Config.openWord key s.draws).toNat, { s with draws := s.draws + 1 })

/-- Run a row on an accepted MMC PASS whose command block firmware reads now. An operation code outside Table 4.12 completes
with BAD_OPCODE, whichever row reads it. -/
def mmcRow (s : State) (f : FoldId) (k : Nat) (cdb : List Byte) (codes : List Nat) (run : Desc → List Byte → State) : State :=
  match s.desc? f k with
  | none => s
  | some d =>
    let c := mmcBlock d cdb
    if d.op ≠ .mmcPass ∨ d.stage ≠ .ready ∨ d.startedAt.isSome then s
    else if !mmcCodes.contains (byteAt c 0) then finishUnstarted s f k .badOpcode
    else if !codes.contains (byteAt c 0) then s
    else run d c

/-! ### Command blocks with a native opcode -/

/-- The descriptor takes a native opcode with its fields and goes through that opcode's own checks (R121). -/
def mmcAs (s : State) (f : FoldId) (k : Nat) (o : Op) (g : Fields → Fields) : State :=
  let t := s.modDesc f k fun d => { d with op := o, mmc := true, fld := g d.fld }
  match t.desc? f k with
  | none => t
  | some d =>
    if countBad o d.fld (s.fold f).record.maxBlocks then finishUnstarted t f k .badCount
    else if fieldBad o d.fld then finishUnstarted t f k .badField
    else match implied o d.fld s.disc with
      | some n => if d.fld.length < n then finishUnstarted t f k .lenShort else steps25 t f k
      | none => steps25 t f k

/-- The descriptor may start now (R79, R80). -/
def mmcMayStart (s : State) (f : FoldId) (d : Desc) : Bool := fenceOpen (s.fold f) d && !startBlocked s f d

/-- Complete at once with a status and no data. -/
def mmcNow (s : State) (f : FoldId) (k : Nat) (d : Desc) (st : Status) : State :=
  if mmcMayStart s f d then finish (noteStart s f k) f k st 0 else s

/-- A block command: a transfer length of 0 completes OK, any other is executed as the native opcode (R121). -/
def mmcBlocks (s : State) (f : FoldId) (k : Nat) (d : Desc) (o : Op) (lba count : Nat) (opfield : BitVec 16) (opdata : BitVec 64) : State :=
  if count = 0 then mmcNow s f k d .ok
  else mmcAs s f k o fun x => { x with address := lba, count := count, opfield := opfield, opdata := opdata }

/-- OPFIELD [4:0] of a reading command block (R121). -/
def mmcRereads (d : Desc) : BitVec 16 := d.fld.opfield &&& 0x1F

def execRead10 (f : FoldId) (k : Nat) (cdb : List Byte) (s : State) : Answer :=
  .next (mmcRow s f k cdb [0x28] fun d c => mmcBlocks s f k d .read (be32 c 2) (be16 c 7) (mmcRereads d) 0)

def execRead12 (f : FoldId) (k : Nat) (cdb : List Byte) (s : State) : Answer :=
  .next (mmcRow s f k cdb [0xA8] fun d c => mmcBlocks s f k d .read (be32 c 2) (be32 c 6) (mmcRereads d) 0)

def execWrite10 (f : FoldId) (k : Nat) (cdb : List Byte) (s : State) : Answer :=
  .next (mmcRow s f k cdb [0x2A] fun d c => mmcBlocks s f k d .write (be32 c 2) (be16 c 7) 0 0)

def execWrite12 (f : FoldId) (k : Nat) (cdb : List Byte) (s : State) : Answer :=
  .next (mmcRow s f k cdb [0xAA] fun d c => mmcBlocks s f k d .write (be32 c 2) (be32 c 6) 0 0)

def execVerify10 (f : FoldId) (k : Nat) (cdb : List Byte) (s : State) : Answer :=
  .next (mmcRow s f k cdb [0x2F] fun d c => mmcBlocks s f k d .verify (be32 c 2) (be16 c 7) (mmcRereads d) 0)

/-- READ CD's selections that Table 4.8 has: all of the main channel, C2 flags or none, raw subcode or none. -/
def readCdOk (c : List Byte) : Bool :=
  byteAt c 9 / 8 == 31 && decide (byteAt c 9 / 2 % 4 ≤ 1) && decide (byteAt c 10 % 8 ≤ 1)

/-- READ CD: READ RAW with FORM from the selections, and REREADS from OPFIELD [3:0] (R121). -/
def execReadCd (f : FoldId) (k : Nat) (cdb : List Byte) (s : State) : Answer :=
  .next (mmcRow s f k cdb [0xBE] fun d c =>
    if be24 c 6 = 0 then mmcNow s f k d .ok
    else if !readCdOk c then finishUnstarted s f k .badField
    else mmcBlocks s f k d .readRaw (be32 c 2) (be24 c 6) (BitVec.ofNat 16 (byteAt c 9 / 2 % 4 + 2 * (byteAt c 10 % 8)))
      (BitVec.ofNat 64 (bits d.fld.opfield 3 0)))

/-- FORMAT UNIT: format descriptor types 0x00 and 0x30; which of FORMAT's forms it is executed as is free (Table 4.12). -/
def execFormatUnit (f : FoldId) (k : Nat) (cdb params : List Byte) (s : State) : Answer :=
  .next (mmcRow s f k cdb [0x04] fun _ _ =>
    let ty := byteAt params 8 / 4
    if ty ≠ 0x00 ∧ ty ≠ 0x30 then finishUnstarted s f k .badField
    else
      let (n, t) := openDraw 30 s
      mmcAs t f k .format fun x => { x with opfield := BitVec.ofNat 16 (n % 3) })

/-- START STOP UNIT: LOAD/EJECT with LoEj = 1, a load with Start = 1; otherwise SPIN, whose class is free (Table 4.12). -/
def execStartStopUnit (f : FoldId) (k : Nat) (cdb : List Byte) (s : State) : Answer :=
  .next (mmcRow s f k cdb [0x1B] fun _ c =>
    if cdbBit c 4 1 then mmcAs s f k .loadEject fun x => { x with opfield := if cdbBit c 4 0 then 0 else 1 }
    else
      let (n, t) := openDraw 31 s
      mmcAs t f k .spin fun x => { x with opfield := BitVec.ofNat 16 (n % 256) })

/-- SET CD SPEED: SPIN; the highest class for the highest speed, otherwise a free class (Table 4.12). -/
def execSetCdSpeed (f : FoldId) (k : Nat) (cdb : List Byte) (s : State) : Answer :=
  .next (mmcRow s f k cdb [0xBB] fun _ c =>
    let (n, t) := openDraw 32 s
    mmcAs t f k .spin fun x => { x with opfield := BitVec.ofNat 16 (if be16 c 2 = 0xFFFF then 0xFF else n % 256) })

/-- PREVENT ALLOW MEDIUM REMOVAL: LOCK MEDIUM (Table 4.12). -/
def execPreventAllowMediumRemoval (f : FoldId) (k : Nat) (cdb : List Byte) (s : State) : Answer :=
  .next (mmcRow s f k cdb [0x1E] fun _ c =>
    mmcAs s f k .lockMedium fun x => { x with opfield := if cdbBit c 4 0 then 1 else 0 })

/-- RESERVE TRACK through MMC PASS (Table 4.12). -/
def execMmcReserveTrack (f : FoldId) (k : Nat) (cdb : List Byte) (s : State) : Answer :=
  .next (mmcRow s f k cdb [0x53] fun _ c =>
    mmcAs s f k .reserveTrack fun x => { x with opfield := 0, opdata := BitVec.ofNat 64 (be32 c 5) })

/-- The form of CLOSE that a close function stands for. -/
def closeForm : Nat → Option Nat
  | 1 => some 0
  | 2 => some 1
  | 5 | 6 => some 2
  | _ => none

/-- CLOSE TRACK/SESSION: CLOSE (Table 4.12). -/
def execCloseTrackSession (f : FoldId) (k : Nat) (cdb : List Byte) (s : State) : Answer :=
  .next (mmcRow s f k cdb [0x5B] fun _ c =>
    match closeForm (byteAt c 2 % 8) with
    | none => finishUnstarted s f k .badField
    | some n => mmcAs s f k .close fun x => { x with opfield := BitVec.ofNat 16 n, address := be16 c 4 })

/-! ### Command blocks answered by firmware -/

/-- Bytes of a reply: what the manual gives at an offset, a free value elsewhere. -/
def mmcBytes (s : State) (code n : Nat) (known : Nat → Option Byte) : List Byte :=
  (List.range n).map fun i => (known i).getD (Config.mmcByte code s.draws i)

/-- Send a reply, cut to the allocation length; LENGTH below it is LEN_SHORT (R103). -/
def mmcSend (s : State) (f : FoldId) (k : Nat) (d : Desc) (data : List Byte) (alloc : Nat) : State :=
  let l := data.take alloc
  if d.fld.length < l.length then finishUnstarted s f k .lenShort
  else if !mmcMayStart s f d then s
  else finish (deliver (noteStart s f k) f k l) f k .ok l.length

/-- A reply whose content no rule lays out: its length and bytes are free (R121). -/
def mmcFree (s : State) (f : FoldId) (k : Nat) (d : Desc) (code alloc : Nat) : State :=
  mmcSend { s with draws := s.draws + 1 } f k d (mmcBytes s code (min (Config.mmcLength code s.draws) alloc) fun _ => none) alloc

/-- TEST UNIT READY: OK, or NO_DISC (Table 4.12). -/
def execTestUnitReady (f : FoldId) (k : Nat) (cdb : List Byte) (s : State) : Answer :=
  .next (mmcRow s f k cdb [0x00] fun d _ => mmcNow s f k d (if s.disc.isSome then .ok else .noDisc))

/-- REQUEST SENSE: the sense of the fold's previous MMC PASS (Table 4.12). -/
def execRequestSense (f : FoldId) (k : Nat) (cdb : List Byte) (s : State) : Answer :=
  .next (mmcRow s f k cdb [0x03] fun d c => mmcSend s f k d (senseBytes (s.fold f).sense) (byteAt c 4))

/-- The text of INQUIRY: vendor at byte 8, product at byte 16, padded with spaces (Table 4.12). -/
def inquiryKnown (i : Nat) : Option Byte :=
  let vendor : List Byte := [0x50, 0x4C, 0x49, 0x55, 0x52, 0x4E, 0x20, 0x20]
  let product : List Byte := [0x47, 0x57, 0x34, 0x34, 0x31, 0x30] ++ List.replicate 10 0x20
  if i < 8 then none else (vendor ++ product)[i - 8]?

/-- INQUIRY: 36 bytes of standard data; a request for other pages is BAD_FIELD (Table 4.12). -/
def execInquiry (f : FoldId) (k : Nat) (cdb : List Byte) (s : State) : Answer :=
  .next (mmcRow s f k cdb [0x12] fun d c =>
    if cdbBit c 1 0 then finishUnstarted s f k .badField
    else mmcSend { s with draws := s.draws + 1 } f k d (mmcBytes s 0x12 36 inquiryKnown) (be16 c 3))

/-- A descriptor is a WRITE, or an MMC PASS whose command block is still to be read and may be one (R121). -/
def mayWrite (e : Desc) : Bool := e.op == .write || e.op == .sealedWrite || (e.op == .mmcPass && descActive e)

/-- SYNCHRONIZE CACHE: completes once the fold's earlier WRITEs have completed (Table 4.12). -/
def execSynchronizeCache (f : FoldId) (k : Nat) (cdb : List Byte) (s : State) : Answer :=
  .next (mmcRow s f k cdb [0x35] fun d _ =>
    if (s.fold f).descs.any fun e => decide (e.k < k) && mayWrite e then s else mmcNow s f k d .ok)

/-- GET CONFIGURATION (Table 4.12). -/
def execGetConfiguration (f : FoldId) (k : Nat) (cdb : List Byte) (s : State) : Answer :=
  .next (mmcRow s f k cdb [0x46] fun d c => mmcFree s f k d 0x46 (be16 c 7))

/-- GET EVENT STATUS NOTIFICATION: polled only; Immed = 0 is BAD_FIELD (Table 4.12). -/
def execGetEventStatusNotification (f : FoldId) (k : Nat) (cdb : List Byte) (s : State) : Answer :=
  .next (mmcRow s f k cdb [0x4A] fun d c =>
    if cdbBit c 1 0 then mmcFree s f k d 0x4A (be16 c 7) else finishUnstarted s f k .badField)

/-- MODE SENSE (10): pages 0x01, 0x05 and 0x2A; any other is BAD_FIELD (Table 4.12). -/
def execModeSense10 (f : FoldId) (k : Nat) (cdb : List Byte) (s : State) : Answer :=
  .next (mmcRow s f k cdb [0x5A] fun d c =>
    if [0x01, 0x05, 0x2A].contains (byteAt c 2 % 64) then mmcFree s f k d 0x5A (be16 c 7)
    else finishUnstarted s f k .badField)

/-! ### Command blocks under READ with disc scope -/

/-- Answer a command block that has passed steps 2 to 5. -/
def mmcReply (s : State) (f : FoldId) (k : Nat) (reply : DiscInfo → Desc → State) : State :=
  match s.desc? f k with
  | none => s
  | some d =>
    if d.op ≠ .mmcReply ∨ (d.stage ≠ .ready ∧ d.stage ≠ .running) then s
    else match s.disc with
      | none => finishUnstarted s f k .noDisc
      | some di => reply di d

/-- A row under READ with disc scope: a field it does not support is BAD_FIELD, an allocation length of 0 completes OK; then
the grant and disc checks, and the reply (R121). `alloc` is none for a reply of fixed length. -/
def mmcDisc (s : State) (f : FoldId) (k : Nat) (cdb : List Byte) (code : Nat) (bad : List Byte → Bool)
    (alloc : List Byte → Option Nat) (reply : State → DiscInfo → Desc → List Byte → State) : State :=
  let t := mmcRow s f k cdb [code] fun d c =>
    if bad c then finishUnstarted s f k .badField
    else if alloc c = some 0 then mmcNow s f k d .ok
    else mmcAs s f k .mmcReply id
  match t.desc? f k with
  | none => t
  | some d => if byteAt (mmcBlock d cdb) 0 = code then mmcReply t f k fun di d => reply t di d (mmcBlock d cdb) else t

/-- READ FORMAT CAPACITIES (Table 4.12). -/
def execReadFormatCapacities (f : FoldId) (k : Nat) (cdb : List Byte) (s : State) : Answer :=
  .next (mmcDisc s f k cdb 0x23 (fun _ => false) (fun c => some (be16 c 7)) fun t _ d c => mmcFree t f k d 0x23 (be16 c 7))

/-- READ CAPACITY: the last block's LBA and the block size (Table 4.12, R121). -/
def execReadCapacity (f : FoldId) (k : Nat) (cdb : List Byte) (s : State) : Answer :=
  .next (mmcDisc s f k cdb 0x25 (fun _ => false) (fun _ => none) fun t di d _ =>
    mmcSend t f k d (beBytes 4 (di.capacity - 1) ++ beBytes 4 2048) 8)

/-- A disc's structure as it stands, behind the four-byte header of MMC-6: nothing in it is decoded or interpreted (R225; log entry
55). -/
def rawStructure (l : List Byte) : List Byte := beBytes 2 (l.length + 2) ++ zeros 2 ++ l

/-- READ TOC/PMA/ATIP: formats 0x0 to 0x5 (Table 4.12). CD-TEXT, format 0x5, is passed raw (R225). -/
def execReadTocPmaAtip (f : FoldId) (k : Nat) (cdb : List Byte) (s : State) : Answer :=
  .next (mmcDisc s f k cdb 0x43 (fun c => decide (5 < byteAt c 2 % 16)) (fun c => some (be16 c 7)) fun t di d c =>
    if byteAt c 2 % 16 = 5 then mmcSend t f k d (rawStructure di.cdText) (be16 c 7) else mmcFree t f k d 0x43 (be16 c 7))

/-- READ DISC INFORMATION: data type 000b (Table 4.12). -/
def execReadDiscInformation (f : FoldId) (k : Nat) (cdb : List Byte) (s : State) : Answer :=
  .next (mmcDisc s f k cdb 0x51 (fun c => byteAt c 1 % 8 != 0) (fun c => some (be16 c 7)) fun t _ d c =>
    mmcFree t f k d 0x51 (be16 c 7))

/-- The track that READ TRACK INFORMATION names: by block, track or session. -/
def trackNamed (di : DiscInfo) (ty n : Nat) : Option Track :=
  match ty with
  | 0 => di.tracks.find? fun t => decide (t.first ≤ n) && decide (n ≤ t.last)
  | 1 => di.tracks.find? fun t => t.number == n
  | _ => di.tracks.find? fun t => t.session == n

/-- What a track's reply holds at an offset: number, session, first block, next writable block, size. -/
def trackKnown (t : Track) (i : Nat) : Option Byte :=
  if i = 2 then some (BitVec.ofNat 8 t.number)
  else if i = 3 then some (BitVec.ofNat 8 t.session)
  else if 8 ≤ i ∧ i < 12 then (beBytes 4 t.first)[i - 8]?
  else if 12 ≤ i ∧ i < 16 ∧ t.next.isSome then (beBytes 4 (t.next.getD 0))[i - 12]?
  else if 24 ≤ i ∧ i < 28 then (beBytes 4 (t.last + 1 - t.first))[i - 24]?
  else none

/-- READ TRACK INFORMATION: each track with its next writable block (R453, Table 4.12). -/
def execReadTrackInformation (f : FoldId) (k : Nat) (cdb : List Byte) (s : State) : Answer :=
  .next (mmcDisc s f k cdb 0x52 (fun _ => false) (fun c => some (be16 c 7)) fun t di d c =>
    match trackNamed di (byteAt c 1 % 4) (be32 c 2) with
    | some tr => mmcSend { t with draws := t.draws + 1 } f k d (mmcBytes t 0x52 36 (trackKnown tr)) (be16 c 7)
    | none => mmcFree t f k d 0x52 (be16 c 7))

/-- Formats that carry copy protection (log entry 55). -/
def protectedFormat (n : Nat) : Bool := [0x05, 0x06, 0x07].contains n || (decide (0x80 ≤ n) && decide (n ≤ 0x86))

/-- READ DISC STRUCTURE: formats without copy protection only (Table 4.12); a structure the disc carries is passed raw (R225). -/
def execReadDiscStructure (f : FoldId) (k : Nat) (cdb : List Byte) (s : State) : Answer :=
  .next (mmcDisc s f k cdb 0xAD (fun c => protectedFormat (byteAt c 7)) (fun c => some (be16 c 8)) fun t di d c =>
    match di.structures.find? fun x => x.1 == byteAt c 7 with
    | some x => mmcSend t f k d (rawStructure x.2) (be16 c 8)
    | none => mmcFree t f k d 0xAD (be16 c 8))

end Sys2Proof.Machine
end

