-- ==== Sys2Proof/Machine/Flr.lean ====
section
/-! DEFINITION. Machine/Flr.lean: function level resets, PERST_N, VF Enable and the other configuration writes (R7, R32, R55 to
R57, R91, R140, R312, R397, Table 16.2). -/
namespace Sys2Proof.Machine

/-- The fold whose descriptor or slot an MRAM program serves, where a reset of that fold ends it; a deletion of a key stays. -/
def progFold : OnCommit → Option FoldId
  | .vaultPut f _ | .vaultDelete f _ | .keyLoad f _ _ => some f
  | .reserve slot => if slot < 16 then some ⟨slot / 2 % 8, Nat.mod_lt _ (by decide)⟩ else none
  | .tariff _ | .calibrate _ | .bootDownload _ _ _ | .bootTry _ | .bootConfirm _ => some 0
  | .nothing | .keyClear _ _ _ | .slotDeleted _ | .logBlock => none

/-- A program of a fold whose header page has not begun leaves its record wholly old (R55). -/
def cancelProgs (s : State) (f : FoldId) : State :=
  let keep (q : Prog) : Bool := progFold q.act != some f || (q.begun && decide (q.left ≤ 1))
  beginIfIdle { s with mram := { s.mram with queue := s.mram.queue.filter keep } }

/-- Descriptors that a reset ends with ABORTED: accepted, and not ended yet (R55). -/
def abortCount (x : Fold) : Nat := (x.descs.filter fun d => descActive d && descAccepted d).length

/-- A descriptor of a reset fold goes: what it holds returns (R55, R265, R269). -/
def dropDesc (f : FoldId) (s : State) (d : Desc) : State :=
  (releaseHoldings s f d).modFold f fun x => { x with descs := x.descs.filter fun e => e.k != d.k }

/-- The fold's command on the mechanism stops: recording at the next unit boundary, anything else at once; speculation for the
fold ends (R55, R56). -/
def stopFoldJob (s : State) (f : FoldId) : State :=
  match s.job with
  | none => s
  | some j => match j.kind with
    | .speculation g => if g = f then stopSpeculation s else s
    | .writing => if j.f = f ∧ j.ended = false then stopAtBoundary s .aborted else s
    | _ => if j.f = f ∧ j.ended = false then stopJob s .aborted else s

/-- CPH_LOCK leaves the fold: its hold ends, its waiters go (R55, R317). -/
def releaseFoldLock (s : State) (f : FoldId) : State :=
  let t := if s.cph.owner = f.val then releaseLock s else s
  { t with cph := { t.cph with waiters := t.cph.waiters.filter fun w => w.2.1 != f } }

/-- What of fold 0 waits in the keeper or the loop engine for a tick, a boundary or a strobe ends with its descriptors (R55). -/
def dropWaiting (s : State) : State :=
  { s with kpr := { s.kpr with step := none, closing := [], latch := [] }
           servo := { s.servo with swap := none }
           sled := { s.sled with shadow := s.sled.shadow.map fun x => (x.1, none) } }

/-- The reset of one fold, up to the stop of a recording: R55 and R56 with R91, R140, R148 and R312. Its record, its deficit and
its descriptor numbers stay. A reset that finds one in progress adds nothing but its silence. -/
def resetFold (post : Bool) (s : State) (f : FoldId) : State :=
  match (s.fold f).resetting with
  | some (n, p) => s.modFold f fun x => { x with resetting := some (n, p && post) }
  | none =>
    let n := abortCount (s.fold f)
    let t := if (s.fold f).descs.any fun d => d.stage == .draining then endDrain s else s
    let t := stopFoldJob t f
    let t := ((t.fold f).descs.filter fun d => !onMechanism t f d.k).foldl (dropDesc f) t
    let t := releaseFoldLock (if f = 0 then dropWaiting t else t) f
    let t := penEmpty (cancelProgs t f) f
    let t := t.modFold f fun x =>
      { record := x.record, descs := x.descs, nextK := x.nextK, rrRing := x.rrRing, deficit := x.deficit
        maxPayload := x.maxPayload, aer := x.aer, resetting := some (n, post) }
    let t := if s.drover.turn = some f then settleFold t f else t
    resetSlot (resetSlot t ⟨2 * f.val, by omega⟩) ⟨2 * f.val + 1, by omega⟩

/-- Configuration requests reach a function (R426, Table 16.1); in DOZE one wakes Lorvaus first. -/
def configUp (s : State) (f : FoldId) : Bool := barUp s f

/-- FLR_FOLD: a function level reset of fold n, n from 1 to 7 (R55, R56). -/
def execFlrFold (f : FoldId) (s : State) : Answer :=
  .next (if f.val ≠ 0 ∧ configUp s f = true then resetFold true s f else s)

/-- Blocks that the recording command a reset stopped had written (R56). -/
def writtenBlocks (x : Fold) : Nat := sumOf (fun d => if d.op == .write || d.op == .sealedWrite then d.bytes / 2048 else 0) x.descs

/-- FOLD_RESET_COMPLETE: any recording has stopped; the fold's last descriptor goes, and fold 0 receives FOLD_RESET, whose log
entry keeps the full count (R55, R56, Table 15.6). -/
def execFoldResetComplete (f : FoldId) (s : State) : Answer :=
  .next (match (s.fold f).resetting with
  | none => s
  | some (n, post) =>
    let running := match s.job with
      | some j => j.f == f && !j.ended && (match j.kind with
        | .speculation _ => false
        | _ => true)
      | none => false
    if running then s
    else
      let w := writtenBlocks (s.fold f)
      let t := (s.fold f).descs.foldl (dropDesc f) s
      let t := t.modFold f fun x => { x with resetting := none }
      let dw2 := w32 (f.val + 256 * sat 16 n + 2 ^ 24 * (w % 256))
      if post then postEventTo (logNote t evFoldReset dw2 0 w) 0 evFoldReset dw2 else t)

/-- A function level reset of fold 0: every fold is reset, VF Enable is clear, and fold records, grant state, drover deficits and
profiles are at their reset values; the sealing engine is enabled again (R7, R57, R58, R164, R179, R324). A command that is still on the
mechanism is charged to no fold: the deficits are back at 0. -/
def resetAll (s : State) : State :=
  let t := allFolds.foldl (resetFold false) s
  let back (f : FoldId) : Fold := { t.fold f with record := FoldRec.default f, deficit := 0 }
  let t := { t with
    folds := Vector.ofFn back
    plat := { penCtl := t.plat.penCtl, penDepth := t.plat.penDepth, routingId := t.plat.routingId }
    job := t.job.map fun j => { j with uncharged := true }
    cph := { t.cph with disabled := false, faultTicks := [] } }
  let t := profilesDefault t
  if t.servo.rate = 1 then t else askResync { t with servo := { t.servo with rate := 1 } }

/-- FLR_FOLD_0 (R57). -/
def execFlrFold0 (s : State) : Answer := .next (if configUp s 0 then resetAll s else s)

/-- The PCIe endpoint and every function are back in their reset state, which a function level reset leaves in part (R397). -/
def resetEndpoint (s : State) : State :=
  { s with folds := s.folds.map fun x => { x with maxPayload := 128, aer := false }, plat := { s.plat with routingId := 0 } }

/-- PERST_N asserted: a wake in DOZE or during an entry to it, then a reset of every fold as of fold 0, and of the endpoint; ignored
while VIO is off (R397, Table 16.5). -/
def execPerstN (s : State) : Answer :=
  let t := if s.sys.mode = .doze ∨ s.sys.entry.isSome = true then wake s else s
  .next (if configUp t 0 then resetEndpoint (resetAll t) else t)

/-! ### Configuration writes (R31, R32) -/

/-- VF_ENABLE_CLEAR: each existing fold from 1 to 7 is reset first, with its event (R32). -/
def execVfEnableClear (s : State) : Answer :=
  .next (if configUp s 0 && s.plat.vfEnable then
    let t := (allFolds.filter fun f => f != 0 && foldExists s f).foldl (resetFold true) s
    { t with plat := { t.plat with vfEnable := false } }
  else s)

/-- VF_ENABLE_SET: folds 1 to NumVFs exist, with the records kept for them (R32). -/
def execVfEnableSet (s : State) : Answer :=
  .next (if configUp s 0 then { s with plat := { s.plat with vfEnable := true } } else s)

/-- Send what is pending and no longer masked (R33, R77). -/
def flushMsix (s : State) (f : FoldId) : State :=
  (List.finRange 8).foldl (fun t v =>
    let x := t.fold f
    let e := x.msix.get v
    if x.msixEnable && !x.msixMask && e.pending && !bit e.control 0 then
      (t.modFold f fun x => { x with msix := x.msix.set v { e with pending := false } }).emit (.msix f v.val)
    else t) s

/-- What a configuration write puts in a function (R31, R32). -/
def configure (s : State) (f : FoldId) (c : CfgField) : State :=
  match c with
  | .numVfs n => if f = 0 ∧ s.plat.vfEnable = false then { s with plat := { s.plat with numVfs := n % 65536 } } else s
  | .busMaster en => s.modFold f fun x => { x with busMaster := en }
  | .maxReadRequest n => if [128, 256, 512, 1024, 2048, 4096].contains n then s.modFold f fun x => { x with maxReadRequest := n } else s
  | .maxPayload n => if [128, 256, 512, 1024, 2048, 4096].contains n then s.modFold f fun x => { x with maxPayload := n } else s
  | .routingId id => if f = 0 then { s with plat := { s.plat with routingId := id } } else s
  | .msixEnable en => flushMsix (s.modFold f fun x => { x with msixEnable := en }) f
  | .msixFunctionMask m => flushMsix (s.modFold f fun x => { x with msixMask := m }) f

/-- CONFIGURATION_WRITE (R31, R32). -/
def execConfigurationWrite (f : FoldId) (c : CfgField) (s : State) : Answer := .next (if configUp s f then configure s f c else s)

end Sys2Proof.Machine
end

