-- ==== Sys2Proof/Machine/Pages.lean ====
section
/-! DEFINITION. Machine/Pages.lean: MRAM pages as they are stored: record headers, the payloads that the manual lays out, spare bytes, and
the raw read that shows them (R295, R305, Tables 11.3, 11.5 and 12.1). -/
namespace Sys2Proof.Machine

/-! ### Payloads -/

/-- A slot record's payload (Table 12.1). -/
def slotPayload (r : SlotRecord) : List Byte :=
  leBytes 1 r.slot ++ leBytes 1 (b2n r.aes256 + 2 * b2n r.guarded) ++ [0, 0] ++ leBytes 4 r.salt.toNat ++ leBytes 8 r.reservedTo ++
    leBytes 8 r.useLimit ++ if r.slot = 255 then [] else kwWrap Config.rootKey r.key

/-- A record's payload where the manual lays it out; for a vault record the key and the value sealed together (R327, Tables 12.1 and
15.6). -/
def payloadBytes (r : Rec) : Option (List Byte) :=
  match r.payload, r.sealing with
  | .vault _ k v, x => some ((x.map (·.cipher)).getD (k ++ v))
  | .slot x, _ => some (slotPayload x)
  | .log l, _ => some (l.flatMap logEntryBytes)
  | _, _ => none

/-- TYPE (Table 11.5): 0x60 a slot, 0x50 a log block, 0x20 the calibration; the other owners name none (R393, R416, Table 12.1). -/
def recordType (r : Rec) : Nat :=
  match r.payload with
  | .slot _ => 0x60
  | .log _ => 0x50
  | .calibration _ => 0x20
  | _ => Config.recordType r.region r.id

/-- LENGTH (Table 11.5): of a payload that the manual lays out; any other fills the record's pages (log entry 29). -/
def recordLength (r : Rec) : Nat :=
  match payloadBytes r with
  | some l => l.length
  | none => 256 * r.pages.length - 48

/-! ### A record's pages (Table 11.5) -/

/-- The body page list: 16 entries of 12 bits, packed low first. -/
def bodyList (r : Rec) : List Byte :=
  leBytes 24 ((r.pages.drop 1).zipIdx.foldl (fun n p => n + (p.1 - regionBase r.region) % 4096 * 4096 ^ p.2) 0)

/-- A record's bytes from offset 0x14 of its header to the end of its pages. -/
def recordTail (r : Rec) : List Byte :=
  let l := bodyList r ++ zeros 4 ++ (payloadBytes r).getD []
  l ++ (List.range (256 * r.pages.length - 20 - l.length)).map fun i => Config.recordByte r.region r.id r.seq (20 + l.length + i)

/-- The header up to CHECK. -/
def recordHead (r : Rec) : List Byte :=
  leBytes 2 0x5E11 ++ leBytes 1 (recordType r) ++ leBytes 1 (r.pages.length - 1) ++ leBytes 4 r.id ++ leBytes 4 r.seq ++
    leBytes 2 (recordLength r) ++ leBytes 2 0

/-- A record's pages, header first: CHECK is the CRC-32C of all the rest. -/
def recordBytes (r : Rec) : List Byte :=
  recordHead r ++ leBytes 4 (crc32c (recordHead r ++ recordTail r)).toNat ++ recordTail r

/-! ### A page as stored (Table 11.3) -/

/-- The data bytes of a page: of an image, of a record, or what no rule lays out. -/
def pageData (s : State) (p : Nat) : List Byte :=
  let free := (List.range 256).map fun i => Config.mramPageByte p (wearOf s.mram p) i
  if p < 0x2000 then imageBytes s (regionOf p) (256 * (p - regionBase (regionOf p))) 256
  else match (s.mram.recs ++ s.mram.prev).find? fun r => r.pages.contains p with
    | some r => ((recordBytes r).drop (256 * r.pages.idxOf p)).take 256
    | none => if s.mram.cleared.contains p then zeros 256 else free

/-- Spare bytes 0x13 to 0x1F. -/
def spareTail (s : State) (p : Nat) : List Byte :=
  [0] ++ leBytes 4 (wearOf s.mram p) ++ leBytes 2 (p - regionBase (regionOf p)) ++ leBytes 1 (regionOf p) ++ zeros 5

/-- The spare bytes of a page that has been programmed with data. -/
def pageSpare (s : State) (p : Nat) (data : List Byte) : List Byte :=
  let code := pageStrength s p
  let n := 3 * strengthT code / 2
  ((List.range n).map fun i => Config.pageCheck (data ++ spareTail s p) (strengthT code) i) ++ List.replicate (18 - n) 0xFF ++
    leBytes 1 (code * 21) ++ spareTail s p

/-- Bytes as words, little-endian. -/
def bytesAsWords (n : Nat) (l : List Byte) : List Word := (List.range n).map fun i => w32 (le32 l (4 * i))

/-- A page as stored: what raw mode programmed, or its data and spare bytes. -/
def rawPageOf (s : State) (p : Nat) : List Word × List Word :=
  match getKey p s.mram.raw with
  | some x => x
  | none => (bytesAsWords 64 (pageData s p), bytesAsWords 8 (pageSpare s p (pageData s p)))

/-- MRAM_RAW_READ: the page as stored fills the registers, and MRAM_RAW_STAT tells what a decode found (R305). -/
def execMramRawRead (found : DecodeBits) (s : State) : Answer :=
  .next (if !inService s then s
    else
      let p := bits s.ecc.rawPage 13 0
      let (d, x) := rawPageOf s p
      { s with
        ecc := { s.ecc with
          rawData := Vector.ofFn fun i => d.getD i.val 0
          rawSpare := Vector.ofFn fun i => x.getD i.val 0
          rawRefused := false
          rawCorrected := match found with
            | some c => min c 12
            | none => 0
          rawUncorrectable := found.isNone } })

end Sys2Proof.Machine
end

