-- ==== Sys2Proof/Machine/Registers.lean ====
section
/-! DEFINITION. Machine/Registers.lean: what every register of the per-fold window, the platform block, the MSI-X tables and the
sideband reads (Tables 16.7, 17.2, 17.3), REGISTER_WRITE over the operations that the registers' own rows use, and SB_READ
(R33, R412, R413, R422 to R430). -/
namespace Sys2Proof.Machine

/-! ### Values of registers -/

/-- MODE as SB_STATUS codes it (Table 16.7). -/
def modeCode : Mode → Nat
  | .vigil => 0 | .doze => 1 | .load => 2 | .idle => 3 | .read => 4 | .write => 5 | .scan => 6 | .service => 7

/-- FLD_INFO (Table 2.5). -/
def fldInfo (s : State) (f : FoldId) : Word :=
  let r := (s.fold f).record
  w32 (f.val + 2 ^ 4 * r.flock + 2 ^ 8 * r.weight + 2 ^ 16 * r.level)

/-- BUF_IN_USE and PEN_IN_USE with their limits (Table 2.5). -/
def fqBuf (s : State) (f : FoldId) : Word := w32 (acctUse s.pool (.work f) + 65536 * (s.fold f).record.bufMax)
def fqPen (s : State) (f : FoldId) : Word := w32 (penInUse s f + 65536 * (s.fold f).record.penQuota)

/-- FQ_WAIT: LONGEST in 100 µs (Table 10.10). -/
def fqWait (s : State) (f : FoldId) : Word := w32 (sat 16 (s.fold f).waits + 65536 * sat 16 (s.fold f).longest)

/-- PEN_STAT (Table 5.3). -/
def penStat (s : State) (f : FoldId) : Word := w32 (sat 16 (s.fold f).ownHits + 65536 * sat 16 (s.fold f).flockHits)

/-- One slot's nibble of CPH_SLOT (Table 12.4). -/
def slotNibble (x : KeySlot) : Nat :=
  b2n (x.st == .loaded) + (if x.st == .empty then 0 else 2 * b2n x.aes256 + 4 * b2n x.guarded) + 8 * b2n (x.st == .spent)

/-- CPH_SLOT (Table 12.4). -/
def cphSlot (s : State) (f : FoldId) : Word :=
  w32 (slotNibble (s.slot ⟨2 * f.val, by omega⟩) + 256 * slotNibble (s.slot ⟨2 * f.val + 1, by omega⟩))

/-- Registers of work ring n, by DW (Table 3.6). -/
def wringReg (s : State) (f : FoldId) (n : RingId) (i : Nat) : Word :=
  let w := s.wring f n
  match i with
  | 0 => w.baseLo
  | 1 => w.baseHi
  | 2 => w32 (b2n w.en + 4 * w.dring.val + 16 * w.log2)
  | _ => w32 (b2n (ringBusy s f n) + 16 * w.err + 256 * inFlight s f n)

/-- Registers of done ring m, by DW (Table 3.6). HELD counts the events that wait together with the held completions, whose order
they share (DESIGN CHOICE, log entry 102; Table 3.6 speaks of completions only). -/
def dringReg (s : State) (f : FoldId) (m : DringId) (i : Nat) : Word :=
  let r := s.dring f m
  match i with
  | 0 => r.baseLo
  | 1 => r.baseHi
  | 2 => w32 (b2n r.en + 2 * r.vec.val + 16 * r.log2 + 256 * r.coalCount + 65536 * r.coalTime)
  | _ => w32 (16 * r.err + 256 * (r.held.length % 512))

/-- Doorbell page registers, by DW from 0x0C0 (Table 3.6). DBP_STAT.SLEEPING reads 1 from the end of the final tail read on (R70). -/
def dbpReg (s : State) (f : FoldId) (i : Nat) : Word :=
  let d := (s.fold f).dbp
  match i with
  | 0 => d.baseLo
  | 1 => d.baseHi
  | 2 => w32 (b2n d.en + 65536 * d.sleepAfter)
  | _ => w32 (b2n (d.sleeping && !d.finalRead) + 2 * b2n d.pollFault + 65536 * d.wakes)

/-- The per-fold window (Table 17.2). -/
def readWindow (s : State) (f : FoldId) (off : Nat) : Word :=
  match off with
  | 0x000 => fldInfo s f
  | 0x004 => (s.fold f).record.wayMask.setWidth 32
  | 0x008 => fqBuf s f
  | 0x00C => fqPen s f
  | 0x010 => fqWait s f
  | 0x014 => penStat s f
  | 0x018 => cphSlot s f
  | _ =>
    if 0x040 ≤ off ∧ off < 0x080 then wringReg s f (Fin.ofNat 4 ((off - 0x040) / 16)) (off % 16 / 4)
    else if 0x080 ≤ off ∧ off < 0x0A0 then dringReg s f (Fin.ofNat 2 ((off - 0x080) / 16)) (off % 16 / 4)
    else if 0x0C0 ≤ off ∧ off < 0x0D0 then dbpReg s f (off % 16 / 4)
    else 0

/-- PWR_MOTION (Table 7.9). -/
def pwrMotion (s : State) : Word :=
  let tray := match s.loader.tray with
    | .closed => 0
    | .open_ => 1
    | .moving => 2
    | .unknown => 3
  w32 (s.spindle.rpm % 8192 + 2 ^ 13 * b2n s.spindle.ceiling + 2 ^ 14 * b2n s.sled.lost + 2 ^ 15 * b2n s.sled.home + 2 ^ 16 * tray +
    2 ^ 18 * b2n s.pwr.tbLock)

/-- PWR_STAT (Table 13.8). -/
def pwrStat (s : State) : Word :=
  let p := s.pwr
  w32 (b2n p.mains + 2 * b2n p.keepOnBat + 4 * b2n p.batLow + 8 * b2n p.keepLost + 16 * b2n p.thermWarn + 32 * b2n p.acFreqBad +
    64 * b2n p.auxOk + 256 * (p.lastShutdown % 16) + 4096 * (p.shutdownDie % 4))

/-- Items with calibrated values (Table 16.9). -/
def calItems (s : State) : Nat := (~~~s.sys.uncal).toNat

/-- PWR_MODE (Table 16.9). -/
def pwrMode (s : State) : Word :=
  let y := s.sys
  let trial := match y.boot.trial with
    | none => 0
    | some n => n + 1
  w32 (modeCode y.mode + 8 * b2n s.halt.inHalt + 16 * b2n y.ready + 32 * b2n (y.uncal != 0) + 64 * b2n y.rescue + 128 * b2n y.parked +
    2 ^ 8 * calItems s + 2 ^ 16 * y.boot.active + 2 ^ 17 * trial)

/-- PWR_KEEP_CFG, which SB_CTL shares (Tables 16.7, 16.9). -/
def keepCfg (s : State) : Nat := b2n s.kpr.vigilHold + 2 * b2n s.kpr.trayWake

/-- PWR_BOOT (Table 16.9). -/
def pwrBoot (s : State) : Word :=
  w32 (s.sys.rollback % 128 + 2 ^ 8 * (imageLevel s s.sys.running % 256) + 2 ^ 16 * (s.kpr.bootFails % 256) +
    2 ^ 24 * (imageSvn s s.sys.running % 256))

/-- PWR_LINK_STAT (Table 1.7). -/
def linkStat (s : State) : Word :=
  let l := s.pwr.links
  w32 (sat 8 l.ylm + 2 ^ 8 * sat 8 l.ylb + 2 ^ 16 * sat 8 l.resends + 2 ^ 24 * (l.lastFault % 16))

/-- KPR_STAT (Table 14.7). -/
def kprStat (s : State) : Word :=
  let k := s.kpr
  w32 (b2n (k.slew != 0) + 2 * b2n k.rcTime + 4 * b2n k.atEnd + 8 * b2n k.pending.isSome + 2 ^ 8 * (bandAt k.tariff k.cal % 4) +
    2 ^ 16 * (k.tariff.interval % 256))

/-- WDG_COLLIE_STAT (Table 15.7); E reads 0 while disarmed. -/
def collieStat (s : State) : Word :=
  let w := s.kpr.collie
  w32 (b2n w.armed + 2 * b2n w.safeStop + 4 * b2n (wdogIsLow s) + 8 * (w.strikes % 4) + 32 * (w.lastResult % 4) +
    2 ^ 8 * sat 8 w.lateTokens + 2 ^ 16 * (if w.armed then sat 16 (unitsSince s w) else 0))

/-- WDG_HALT as read (Table 15.7). -/
def haltReg (s : State) : Word :=
  w32 (b2n s.halt.inHalt + 2 * (s.halt.cause % 8) + 2 ^ 8 * s.halt.seq.toNat + 2 ^ 16 * sat 8 s.halt.ackStale)

/-- The evidence registers (Table 15.7). -/
def evidenceReg (s : State) (i : Nat) : Word :=
  let e := s.kpr.evidence
  match i with
  | 0 => w32 (sat 16 e.expiries + 65536 * sat 16 e.intResets)
  | 1 => w32 (sat 8 e.clkTrips + 256 * (e.lastCause % 256) + 65536 * (e.lastTick / 2 ^ 32 % 65536))
  | _ => w32 e.lastTick

/-- The sum of BUF_MIN and PEN_QUOTA over all folds (Table 2.6). -/
def reservedSum (s : State) : Nat := sumOf (fun f => (s.fold f).record.bufMin + (s.fold f).record.penQuota) allFolds

/-- The platform block up to WAY_STAT and the capture FIFO (Table 17.3). GNT_STAT.CACHED counts the entries that may still be used; one
that is 100 ms old and still sits in the cache until it is replaced is not counted (DESIGN CHOICE, log entry 106; R45 and R63 do not
say). -/
def readPool (s : State) (off : Nat) : Word :=
  match off with
  | 0x1000 => s.plat.gntBaseLo
  | 0x1004 => s.plat.gntBaseHi
  | 0x1008 => w32 (b2n s.plat.gntEn)
  | 0x100C => w32 ((s.plat.cache.filter (grantFresh s)).length + 256 * sat 8 s.plat.torn + 65536 * sat 16 s.plat.misses)
  | 0x1010 => w32 (freeCount s.pool + 65536 * reservedSum s)
  | 0x1014 => w32 (sat 16 s.pool.rejects + 65536 * sat 8 s.pool.lost + 2 ^ 24 * (s.pool.lastCause % 16))
  | 0x1018 => w32 (2 * b2n s.pool.auditing)
  | 0x1020 => s.plat.penCtl
  | 0x1024 => s.plat.penDepth
  | 0x1040 => s.cache.powered.setWidth 32
  | 0x104C => w32 (b2n (!s.cache.walks.isEmpty) + 65536 * sat 16 s.cache.writebacks)
  | 0x1060 => w32 (capCount s.cap)
  | 0x1064 => (s.cap.packets.head?.bind (·.head?)).getD 0
  | _ => 0

/-- The sealing, power, mode and governor registers (Table 17.3). -/
def readPower (s : State) (off : Nat) : Word :=
  match off with
  | 0x1080 => w32 (s.cph.owner + 256 * b2n s.cph.direct)
  | 0x1084 => w32 (b2n s.cph.disabled + 256 * sat 8 s.cph.faults + 65536 * sat 16 s.cph.holdMax)
  | 0x1088 => w32 (2 * b2n s.cph.katBusy + 4 * b2n s.cph.katPass + 8 * b2n s.cph.katFail)
  | 0x10A0 => linkStat s
  | 0x10A4 => pwrMotion s
  | 0x10A8 => pwrStat s
  | 0x10AC => s.pwr.lossCfg
  | 0x10B0 => pwrMode s
  | 0x10B4 => s.sys.modeCfg
  | 0x10B8 => w32 (keepCfg s)
  | 0x10BC => pwrBoot s
  | 0x10C0 => imageVersion s s.sys.running
  | 0x10E0 => s.pwr.gov.ctl
  | 0x10E4 => s.pwr.gov.limit
  | 0x10E8 => w32 (s.pwr.gov.code + 256 * s.pwr.gov.lastWin.getD 0x3F + 65536 * sat 16 s.pwr.gov.overruns)
  | _ => 0

/-- The keeper's registers (Table 17.3). -/
def readKeeper (s : State) (off : Nat) : Word :=
  match off with
  | 0x1100 => w32 s.kpr.tick
  | 0x1104 => s.kpr.latTickHi
  | 0x1108 => s.kpr.latCal0
  | 0x110C => s.kpr.latCal1
  | 0x1110 => kprStat s
  | 0x1114 => w32 (toBits 32 s.kpr.slew)
  | 0x1140 => s.kpr.wdgCtl
  | 0x1144 => collieStat s
  | 0x1148 => s.kpr.collie.chal
  | 0x114C => w32 (s.kpr.collie.wOpen + 65536 * s.kpr.collie.wClose)
  | 0x1150 => evidenceReg s 0
  | 0x1154 => evidenceReg s 1
  | 0x1158 => evidenceReg s 2
  | 0x115C => haltReg s
  | 0x1160 => w32 (sat 16 s.log.lost + 65536 * s.log.staged.length)
  | _ => 0

/-- The error-correction and MRAM registers (Table 17.3). -/
def readEcc (s : State) (off : Nat) : Word :=
  let e := s.ecc
  let b := e.buckets.get (Fin.ofNat 4 (off % 16 / 4))
  match off with
  | 0x1230 => e.flipTarget
  | 0x1234 => e.flipAddr
  | 0x1238 => e.flipDataLo
  | 0x123C => e.flipDataHi
  | 0x1240 => e.flipCheck
  | 0x1244 => w32 (b2n e.flipDone)
  | 0x1260 => e.scrubCtl
  | 0x1264 => w32 (sat 16 e.passes + 65536 * sat 16 e.poisoned)
  | 0x1268 => w32 e.scrubPos
  | 0x1280 => e.strength
  | 0x1284 => e.vrate
  | 0x1288 => w32 (sat 16 e.refreshed + 65536 * (e.retired % 65536))
  | 0x128C => w32 e.wearAtStart
  | 0x1290 => e.rawPage
  | 0x1298 => w32 (b2n e.rawBusy + 2 * b2n e.rawRefused + 256 * (e.rawCorrected % 16) + 4096 * b2n e.rawUncorrectable)
  | _ =>
    if 0x1200 ≤ off ∧ off < 0x1210 then b.cfg
    else if 0x1210 ≤ off ∧ off < 0x1220 then w32 (sat 8 b.level + 65536 * sat 16 b.overflows)
    else if 0x1220 ≤ off ∧ off < 0x1230 then w32 (sat 24 b.corrected + 2 ^ 24 * sat 8 b.uncorrected)
    else if 0x1300 ≤ off ∧ off < 0x1400 then e.rawData.get (Fin.ofNat 64 ((off - 0x1300) / 4))
    else if 0x1400 ≤ off ∧ off < 0x1420 then e.rawSpare.get (Fin.ofNat 8 ((off - 0x1400) / 4))
    else 0

/-- The platform block of fold 0 (R430); unlisted offsets read 0 (R423). -/
def readPlatform (s : State) (off : Nat) : Word :=
  if off < 0x1080 then readPool s off
  else if off < 0x1100 then readPower s off
  else if off < 0x1200 then readKeeper s off
  else readEcc s off

/-- A DW of the MSI-X table: entry by 16 bytes (R33). -/
def readMsix (s : State) (f : FoldId) (off : Nat) : Word :=
  let e := (s.fold f).msix.get (Fin.ofNat 8 ((off - 0x2000) / 16))
  match off % 16 / 4 with
  | 0 => e.addrLo
  | 1 => e.addrHi
  | 2 => e.data
  | _ => e.control

/-- The pending bit array (R33). -/
def pendingBits (x : Fold) : Nat := (x.msix.toList.zipIdx.map fun p => if p.1.pending then 2 ^ p.2 else 0).foldl (· + ·) 0

/-- What a DW of fold f's BAR0 reads (R33, R422, R423, R427): a DW-aligned offset. -/
def readReg (s : State) (f : FoldId) (off : Nat) : Word :=
  if off < 0x1000 then readWindow s f off
  else if off < 0x2000 then (if f = 0 then readPlatform s off else 0)
  else if off < 0x2080 then readMsix s f off
  else if off = 0x3000 then w32 (pendingBits (s.fold f))
  else 0

/-! ### Writes (R422, R423, R427) -/

/-- The state a row leaves. -/
def afterRow (s : State) (a : Answer) : State :=
  match a with
  | .next t => t
  | _ => s

/-- A write to a register of work ring n, by DW (R89, R95). -/
def writeWring (s : State) (f : FoldId) (n : RingId) (i : Nat) (v : Word) : State :=
  let w := s.wring f n
  let frozen := w.en || ringBusy s f n
  match i with
  | 0 => if frozen then s else s.modWring f n fun w => { w with baseLo := v &&& 0xFFFFFF00 }
  | 1 => if frozen then s else s.modWring f n fun w => { w with baseHi := v }
  | 2 =>
    if bit v 0 then enableWring f n v s
    else
      let t := disableWring f n (wringFields f n v s)
      if bit v 1 then abortWring f n t else t
  | _ => s

/-- A write to a register of done ring m, by DW (R90, R95). -/
def writeDring (s : State) (f : FoldId) (m : DringId) (i : Nat) (v : Word) : State :=
  let r := s.dring f m
  match i with
  | 0 => if r.en then s else s.modDring f m fun r => { r with baseLo := v &&& 0xFFFFFF00 }
  | 1 => if r.en then s else s.modDring f m fun r => { r with baseHi := v }
  | 2 =>
    if bit v 0 then enableDring f m v s
    else if r.en && dringNamed s f m then s
    else
      let t := if r.en then disableDring f m s else s
      t.modDring f m fun r => { dringFields v r with log2 := bits v 7 4 }
  | _ => s

/-- A write to a doorbell page register, by DW (R90, R95). -/
def writeDbp (s : State) (f : FoldId) (i : Nat) (v : Word) : State :=
  let d := (s.fold f).dbp
  match i with
  | 0 => if d.en then s else s.modDbp f fun d => { d with baseLo := v &&& 0xFFFFF000 }
  | 1 => if d.en then s else s.modDbp f fun d => { d with baseHi := v }
  | 2 =>
    if bit v 0 then enableDbp f v s
    else if d.en then disableDbp f s
    else s.modDbp f fun d => { d with sleepAfter := bits v 31 16 }
  | _ => s

/-- A write to a fold's own window: only the rings, the doorbell page and FQ_WAIT take it (R427). -/
def writeWindow (s : State) (f : FoldId) (off : Nat) (v : Word) : State :=
  if off = 0x010 then afterRow s (execFqWaitClear f s)
  else if off = 0x100 then afterRow s (execDbpWake f s)
  else if 0x040 ≤ off ∧ off < 0x080 then writeWring s f (Fin.ofNat 4 ((off - 0x040) / 16)) (off % 16 / 4) v
  else if 0x080 ≤ off ∧ off < 0x0A0 then writeDring s f (Fin.ofNat 2 ((off - 0x080) / 16)) (off % 16 / 4) v
  else if 0x0C0 ≤ off ∧ off < 0x0D0 then writeDbp s f (off % 16 / 4) v
  else s

/-- The registers whose writes have rows of their own, by the same meanings. -/
def writeByRow (s : State) (off : Nat) (v : Word) : Option Answer :=
  match off with
  | 0x1000 => some (execGntBaseWrite false v s)
  | 0x1004 => some (execGntBaseWrite true v s)
  | 0x1008 => some (execGntCtlWrite v s)
  | 0x100C => some (execGntStatClear s)
  | 0x1014 => some (execFqRejectClear s)
  | 0x1018 => if bit v 0 then some (execFqAuditStart s) else none
  | 0x1028 => some (execPenFlush v s)
  | 0x1044 => some (execWayOff v s)
  | 0x1048 => some (execWayOn v s)
  | 0x1068 => some (execCapDrop s)
  | 0x1080 => if bits v 3 0 = 0 then some (execCphLockTake s) else if bits v 3 0 = 15 then some (execCphLockRelease s) else none
  | 0x1084 => some (execCphStatClear s)
  | 0x1088 => if bit v 0 then some (execCphKatStart s) else none
  | 0x10A0 => some (execPwrLinkStatClear 0 s)
  | 0x10A8 => some (execPwrStatClear s)
  | 0x10E0 => some (execGovWrite .ctl v s)
  | 0x10E4 => some (execGovWrite .limit v s)
  | 0x10E8 => some (execGovStatClear s)
  | 0x1140 => some (execWdgCtlWrite v s)
  | 0x115C => some (execHaltAck v s)
  | 0x1230 => some (execEccFlipArm v s)
  | 0x1264 => some (execScrubStatClear s)
  | _ =>
    if 0x1210 ≤ off ∧ off < 0x1220 then some (execEccBktStatClear (Fin.ofNat 4 (off % 16 / 4)) s)
    else if 0x1220 ≤ off ∧ off < 0x1230 then some (execEccCountClear (Fin.ofNat 4 (off % 16 / 4)) s)
    else none

/-- VIGIL_HOLD and TRAY_WAKE: one store behind PWR_KEEP_CFG and SB_CTL (R412). -/
def setKeepCfg (s : State) (v : Nat) : State :=
  { s with kpr := { s.kpr with vigilHold := v % 2 == 1, trayWake := v / 2 % 2 == 1 } }

/-- Change the error-correction registers. -/
def State.modEcc (s : State) (g : Ecc → Ecc) : State := { s with ecc := g s.ecc }

/-- The platform registers that have no row of their own (R147, R304 to R306, R421). -/
def writePlain (s : State) (off : Nat) (v : Word) : State :=
  match off with
  | 0x1020 => { s with plat := { s.plat with penCtl := v &&& 0xFFFF0003 } }
  | 0x1024 => { s with plat := { s.plat with penDepth := v &&& 0xFFFF } }
  | 0x10AC => { s with pwr := { s.pwr with lossCfg := v &&& 0xFF } }
  | 0x10B4 => { s with sys := { s.sys with modeCfg := v } }
  | 0x10B8 => setKeepCfg s v.toNat
  | 0x1234 => if inService s then s.modEcc fun e => { e with flipAddr := v &&& 0x0FFFFFF8 } else s
  | 0x1238 => if inService s then s.modEcc fun e => { e with flipDataLo := v } else s
  | 0x123C => if inService s then s.modEcc fun e => { e with flipDataHi := v } else s
  | 0x1240 => if inService s then s.modEcc fun e => { e with flipCheck := v &&& 0xFF } else s
  | 0x1260 => s.modEcc fun e => { e with scrubCtl := v &&& 0xFFFF }
  | 0x1280 => s.modEcc fun e => { e with strength := v &&& 0xFFFF }
  | 0x1284 => (settleTokens s).modEcc fun e => { e with vrate := v &&& 0x7F }
  | 0x1290 => s.modEcc fun e => { e with rawPage := v &&& 0x3FFF }
  | _ =>
    if 0x1200 ≤ off ∧ off < 0x1210 then s.modBucket (Fin.ofNat 4 (off % 16 / 4)) fun b => { b with cfg := v &&& 0xFFFF00FF }
    else if 0x1300 ≤ off ∧ off < 0x1400 then s.modEcc fun e => { e with rawData := e.rawData.set ((off - 0x1300) / 4 % 64) v (Nat.mod_lt _ (by decide)) }
    else if 0x1400 ≤ off ∧ off < 0x1420 then s.modEcc fun e => { e with rawSpare := e.rawSpare.set ((off - 0x1400) / 4 % 8) v (Nat.mod_lt _ (by decide)) }
    else s

/-- A write to the platform block, live on fold 0 only (R33). MRAM_RAW_CTL's read is the row MRAM_RAW_READ, which carries what a
decode found; its program is MRAM_RAW_PROGRAM. -/
def writePlatform (s : State) (off : Nat) (v : Word) : State :=
  if off = 0x1294 then (if bits v 1 0 = 1 then afterRow s (execMramRawProgram s) else s)
  else match writeByRow s off v with
    | some a => afterRow s a
    | none => writePlain s off v

/-- A write to the MSI-X table; an unmasked pending vector is sent (R33, R77). -/
def writeMsix (s : State) (f : FoldId) (off : Nat) (v : Word) : State :=
  let i : Fin 8 := Fin.ofNat 8 ((off - 0x2000) / 16)
  let put (e : MsixEntry) : MsixEntry :=
    match off % 16 / 4 with
    | 0 => { e with addrLo := v &&& 0xFFFFFFFC }
    | 1 => { e with addrHi := v }
    | 2 => { e with data := v }
    | _ => { e with control := v &&& 1 }
  flushMsix (s.modFold f fun x => { x with msix := x.msix.set i (put (x.msix.get i)) }) f

/-- A full-DW write to fold f's BAR0 (R33, R423, R427). -/
def writeReg (s : State) (f : FoldId) (off : Nat) (v : Word) : State :=
  if off % 4 ≠ 0 then s
  else if off < 0x1000 then writeWindow s f off v
  else if off < 0x2000 then (if f = 0 then writePlatform s off v else s)
  else if off < 0x2080 then writeMsix s f off v
  else s

/-! ### The sideband (R412, R413, Table 16.7) -/

/-- A write of one byte to the sideband; one that no register takes is counted. -/
def writeSb (s : State) (target addr : Nat) (v : Byte) : State :=
  match addr with
  | 0x04 => afterRow s (execSbWake target v s)
  | 0x05 => setKeepCfg s v.toNat
  | 0x06 => afterRow s (execSbIgnoredClear target s)
  | _ => sbIgnore s

/-- REGISTER_WRITE: on BAR0, ignored unless every byte enable is set (R422); on the sideband, where the target answers (R412). -/
def execRegisterWrite (p : RegPort) (s : State) : Answer :=
  .next (match p with
  | .bar f off v full => if full then onBar s f fun s => writeReg s f off v else s
  | .sideband target addr v => if sbAnswers s target then writeSb s target (addr % 256) v else s)

/-- SB_STATUS (Table 16.7). -/
def sbStatus (s : State) : Nat :=
  let awake := s.sys.mode != .vigil && s.sys.mode != .doze
  modeCode s.sys.mode + 8 * b2n s.halt.inHalt + 16 * b2n (s.sys.ready && awake) + 32 * b2n (s.sys.uncal != 0) +
    64 * b2n s.pwr.thermWarn + 128 * b2n s.pwr.batLow

/-- SB_STATUS_1 (Table 16.7). -/
def sbStatus1 (s : State) : Nat :=
  b2n s.kpr.wakePending + 2 * b2n s.kpr.collie.armed + 4 * b2n s.kpr.collie.safeStop + 8 * b2n (wdogIsLow s) +
    16 * b2n s.pwr.keepLost + 32 * b2n s.sys.rescue

/-- A byte of the sideband; unassigned and write-only addresses read 0 (Table 16.7). -/
def readSb (s : State) (addr : Nat) : Byte :=
  match addr with
  | 0x00 => 0x44
  | 0x01 => 0xB0
  | 0x02 => BitVec.ofNat 8 (sbStatus s)
  | 0x03 => BitVec.ofNat 8 (sbStatus1 s)
  | 0x05 => BitVec.ofNat 8 (keepCfg s)
  | 0x06 => BitVec.ofNat 8 (sat 8 s.kpr.sbIgnored)
  | 0x07 => BitVec.ofNat 8 s.kpr.evidence.lastCause
  | 0x10 => BitVec.ofNat 8 ((collieStat s).toNat % 128)
  | _ =>
    if 0x08 ≤ addr ∧ addr < 0x0C then (leBytes 4 s.kpr.collie.chal.toNat).getD (addr - 0x08) 0
    else if 0x20 ≤ addr ∧ addr < 0x30 then (timeRecord s).getD (addr - 0x20) 0
    else if 0x40 ≤ addr ∧ addr < 0x80 then (ledgerSnapshot s).getD (addr - 0x40 + 0x20) 0
    else if 0x80 ≤ addr ∧ addr < 0x84 then (leBytes 4 s.kpr.ledger.pNow).getD (addr - 0x80) 0
    else if 0x84 ≤ addr ∧ addr < 0x88 then (leBytes 4 s.kpr.ledger.period).getD (addr - 0x84) 0
    else 0

/-- SB_READ: bytes from the pointer onward, all latched at this tick (R412, R413). -/
def execSbRead (target pointer len : Nat) (s : State) : Answer :=
  .next (if sbAnswers s target then s.emit (.i2c ((List.range len).map fun i => readSb s ((pointer + i) % 256))) else s)

end Sys2Proof.Machine
end

