-- ==== Sys2Proof/Machine/Scrub.lean ====
section
/-! DEFINITION. Machine/Scrub.lean: what an uncorrectable error does by the place it is found in, the SDRAM scrubber, and the words that
memories write all the time, which an armed flip meets (R130, R290 to R292, R304, Table 11.2; log entries 27 and 121). -/
namespace Sys2Proof.Machine

/-! ### Places (Tables 10.8, 10.9, 11.2) -/

/-- A profile's data is lost: it returns to its built-in values, and 0x0712 names its type (Table 11.2). LOOP_BANK and BANK_SWAP, CHANNEL
and the like share the store of what they load. -/
def profileLost (s : State) (ty : Nat) : State :=
  let base : Channel := {}
  let t : State :=
    if ty = 0x11 || ty = 0x12 then { s with servo := { s.servo with stored := [] } }
    else if ty = 0x13 then { s with servo := { s.servo with signal := Vector.replicate 3 {}, profLoad := true } }
    else if ty = 0x14 then { s with servo := { s.servo with sequence := Vector.replicate 3 {}, profLoad := true } }
    else if ty = 0x16 then { s with servo := { s.servo with apcTarget := none, apcMax := none } }
    else if ty = 0x20 then { s with spindle := { s.spindle with prof := {}, inUse := if s.spindle.st = .stopped then {} else s.spindle.inUse } }
    else if ty = 0x21 then { s with sled := { s.sled with prof := {}, inUse := if s.sled.move = .rest then {} else s.sled.inUse } }
    else if ty = 0x22 || ty = 0x24 then tableDefault s
    else if ty = 0x23 then { s with loader := { s.loader with prof := {} } }
    else if ty = 0x30 || ty = 0x32 then { s with chan := { s.chan with prof := base.prof } }
    else if ty = 0x31 then { s with chan := { s.chan with look := base.look } }
    else if ty = 0x40 || ty = 0x41 then { s with recd := { s.recd with strategies := [] } }
    else if ty = 0x42 then { s with recd := { s.recd with lds := {} } }
    else { s with cap := { s.cap with source := 0, trigger := 0, decimate := 1 } }
  postEvent t 0 evProfileLost (w32 ty)

/-- The profile types that are assigned and hold data (R120). -/
def profileTypes : List Nat := [0x11, 0x13, 0x14, 0x16, 0x20, 0x21, 0x22, 0x23, 0x30, 0x31, 0x40, 0x42, 0x43]

/-- The stream or pen indexes are lost: every partition is emptied, every stream takes SEQ = 0, and pinned copies stay usable
(Table 11.2). -/
def indexesLost (s : State) : State :=
  allFolds.foldl (fun t f => t.modFold f fun x => { x with streams := x.streams.map fun r => { r with seq := false } }) (penEmptyAll s)

/-- Every descriptor for which `hit` holds completes with MEMORY_FAULT. -/
def spoilAll (whole : Bool) (hit : FoldId → Desc → Bool) (s : State) : State :=
  allFolds.foldl (fun t f => ((s.fold f).descs.filter (hit f)).foldl (fun t d => spoilDesc whole t f d.k) t) s

/-- The slot that a descriptor uses of 2,048 (Tables 10.8 and 10.9; log entry 121). -/
def inSlot (slot : Nat) (f : FoldId) (d : Desc) : Bool := Config.slotOf f.val d.k % 2048 == slot

/-- What follows in the place of an uncorrectable SDRAM line, once it is reported (R130, R274, Table 11.2). -/
def lineSpoilt (s : State) (line : Nat) : State :=
  let a := 64 * line
  if a < 0x5800000 then (s.pen.filter fun c => c.buf == a / 4096 && !c.removed && decide (holdsOf s c.buf ≤ 1)).foldl discardCopy s
  else if a < 0x6400000 then
    match jobDesc s with
    | some (j, d) => match j.units.find? fun x => (match x.st with
        | .looking _ => true
        | _ => false) && (spoiltLines s x.first).contains line with
      | some x => judge (toRereads (unpin s x.first) j d (measOf x))
      | none => s
    | none => s
  else if a < 0x6410000 then s
  else if a < 0x6C10000 then spoilAll true (fun f d => inSlot ((a - 0x6410000) / 4096) f d && decide (4 < d.list.length)) s
  else match Config.tableUse line with
    | 1 => indexesLost s
    | n => profileLost s (profileTypes.getD (n % 13) 0x43)

/-- A line of the firmware working copy that holds code or constant tables, or a place that holds nothing the model keeps. -/
def lineRefetched (line : Nat) : Bool := decide (0x6C10000 ≤ 64 * line) && decide (Config.tableUse line = 0)

/-! ### The scrubber (R291, R292) -/

/-- A due line is read with its check bytes: corrected words are counted and written back; an uncorrectable line is poisoned and reported
with source 1, or refetched where it holds code or tables, which counts as a correction; a poisoned line is counted. -/
def scrubLine (s : State) (line : Nat) : State :=
  if linePoisoned s.ecc line then { s with ecc := { s.ecc with poisoned := sat 16 (s.ecc.poisoned + 1) } }
  else
    let (m, bad) := (lineWords line).foldl loadWord ({ cache := s.cache, ecc := s.ecc }, false)
    if !bad then memReport s m
    else if lineRefetched line then memReport s ((lineWords line).foldl (storeWord (0, 0)) { m with corr := m.corr ++ [2] })
    else lineSpoilt (memReport s { poisonLine m line with bad := [(2, 1, line)] }) line

/-- SCRUB_BURST: the wrong bits that have come to SDRAM words since the last one, and the due line's burst (R291, R292). The clock runs
outside VIGIL and DOZE. -/
def execScrubBurst (flips : List (Nat × BitVec 64 × BitVec 8)) (s : State) : Answer :=
  .next (if !scrubDue s || s.sys.mode == .vigil || s.sys.mode == .doze then s
    else
      let s := { s with ecc := { s.ecc with sdram := flips.foldl (fun l x => addFlip l x.1 x.2) s.ecc.sdram } }
      scrubNext (scrubLine s s.ecc.scrubPos))

/-! ### Bronze's SRAM (Tables 10.9 and 11.2) -/

/-- The free-store ring without an index. -/
def ringDrop (i : Nat) : List (Nat × Nat) → List (Nat × Nat)
  | [] => []
  | (a, n) :: r =>
    if a ≤ i ∧ i < a + n then
      (if i = a then [] else [(a, i - a)]) ++ (if i + 1 < a + n then [(i + 1, a + n - i - 1)] else []) ++ r
    else (a, n) :: ringDrop i r

/-- A buffer's record is lost: the descriptors that use the buffer complete with MEMORY_FAULT, a pen copy in it is discarded, and it is
out of use until the next start of Bronze (Table 11.2). -/
def recordLost (s : State) (i : Nat) : State :=
  if s.pool.outOfUse.contains i || decide (22527 < i) then s
  else
    let t := spoilAll false (fun _ d => d.bufs.contains i || d.pins.any fun p => p.buf == i) s
    let t := allFolds.foldl (fun t f => t.modFold f fun x => { x with descs := x.descs.map fun d => { d with aside := without i d.aside } }) t
    { t with
      pen := t.pen.filter fun c => c.buf != i
      pool := { t.pool with bufs := delKey i t.pool.bufs, stack := without i t.pool.stack, ring := ringDrop i t.pool.ring
                            aside := t.pool.aside.filter fun a => a.1 != i, lostEntries := without i t.pool.lostEntries
                            outOfUse := t.pool.outOfUse ++ [i], lost := sat 8 (t.pool.lost + 1) } }

/-- The plaintext hold is spoilt: the sealing descriptor completes with MEMORY_FAULT, the hold is zeroed, no plaintext is written
(Table 11.2). -/
def holdLost (s : State) : State :=
  match s.cph.holder with
  | some (f, k) => zeroHold (spoilDesc true s f k)
  | none => zeroHold s

/-- What follows in the place of an uncorrectable SRAM word, once it is reported (Tables 10.9 and 11.2). -/
def sramSpoilt (s : State) (w : Nat) : State :=
  let a := 8 * w
  if a < 0xAA000 then resetBronze s 8
  else if a < 0xC0000 then recordLost (recordLost s ((a - 0xAA000) / 4)) ((a - 0xAA000) / 4 + 1)
  else if a < 0xE0000 then spoilAll true (fun f d => inSlot ((a - 0xC0000) / 64) f d) s
  else if a < 0x100000 then spoilAll true (fun f d => inSlot ((a - 0xE0000) / 64) f d && decide (d.list.length ≤ 4)) s
  else holdLost s

/-- A word of SRAM with wrong bits is read (R286, R290). -/
def sramRead (s : State) (w : Nat) (x : Flip) : State :=
  let r := decodeWord x
  if r.bad then sramSpoilt (eccUncorr s 0 0 false false w) w else if r.corrected then eccCorrect s 0 else s

/-- SRAM, cache data and SDRAM are written all the time: an armed flip without ADDR_EN meets a word that firmware writes, at a place that is
free, and on SRAM one with ADDR_EN meets its word too. What SRAM then holds is read at once (R304; log entry 27). -/
def flipIdle (s : State) : State :=
  let t := bits s.ecc.flipTarget 2 0
  let free := (Config.openWord s.draws 61).toNat
  if !inService s then s
  else if t = 1 then
    let w := if bit s.ecc.flipTarget 3 then s.ecc.flipAddr.toNat / 8 else free % 262144
    if w < 262144 then sramRead { s with draws := s.draws + 1, ecc := flipSpent s.ecc } w (flipMask s.ecc) else s
  else if (t = 2 || t = 3) && !bit s.ecc.flipTarget 3 then
    let a := 0x6C10000 + free % 516096 * 8
    (memRun { s with draws := s.draws + 1 } [{ write := true, mask := if t = 2 then engineMask else 0, at_ := a, n := 8 }]).1
  else s

end Sys2Proof.Machine
end

