-- ==== Sys2Proof/Machine/Dispatch.lean ====
section
/-! DEFINITION. Machine/Dispatch.lean: every command to its meaning, one arm per constructor of Instr. -/
namespace Sys2Proof.Machine

/-- A command's effect on everything but the queue. -/
def exec (i : Instr) (s : State) : Host.Outcome State Fault Refusal :=
  match i with
  | .nop f k => Sys2Proof.Machine.execNop f k s
  | .identifyDisc f k found => Sys2Proof.Machine.execIdentifyDisc f k found s
  | .load f k found => Sys2Proof.Machine.execLoad f k found s
  | .eject f k => Sys2Proof.Machine.execEject f k s
  | .lockMedium f k => Sys2Proof.Machine.execLockMedium f k s
  | .unlockMedium f k => Sys2Proof.Machine.execUnlockMedium f k s
  | .spin f k => Sys2Proof.Machine.execSpin f k s
  | .seekHint f k => Sys2Proof.Machine.execSeekHint f k s
  | .read f k => Sys2Proof.Machine.execRead f k s
  | .readRaw f k => Sys2Proof.Machine.execReadRaw f k s
  | .write f k => Sys2Proof.Machine.execWrite f k s
  | .verify f k => Sys2Proof.Machine.execVerify f k s
  | .closeTrack f k => Sys2Proof.Machine.execCloseTrack f k s
  | .closeSession f k => Sys2Proof.Machine.execCloseSession f k s
  | .finalise f k => Sys2Proof.Machine.execFinalise f k s
  | .formatQuick f k => Sys2Proof.Machine.execFormatQuick f k s
  | .formatFull f k => Sys2Proof.Machine.execFormatFull f k s
  | .formatFullCertify f k failing => Sys2Proof.Machine.execFormatFullCertify f k failing s
  | .reserveTrack f k => Sys2Proof.Machine.execReserveTrack f k s
  | .sealedRead f k aad aux => Sys2Proof.Machine.execSealedRead f k aad aux s
  | .sealedWrite f k aad plain => Sys2Proof.Machine.execSealedWrite f k aad plain s
  | .keyLoad f k key => Sys2Proof.Machine.execKeyLoad f k key s
  | .keyLoadWrapped f k wrapped => Sys2Proof.Machine.execKeyLoadWrapped f k wrapped s
  | .keyClear f k => Sys2Proof.Machine.execKeyClear f k s
  | .sealBuffer f k aad plain => Sys2Proof.Machine.execSealBuffer f k aad plain s
  | .openBuffer f k aad aux cipher => Sys2Proof.Machine.execOpenBuffer f k aad aux cipher s
  | .vaultGet f k key => Sys2Proof.Machine.execVaultGet f k key s
  | .vaultPut f k key value => Sys2Proof.Machine.execVaultPut f k key value s
  | .vaultDelete f k key => Sys2Proof.Machine.execVaultDelete f k key s
  | .vaultList f k => Sys2Proof.Machine.execVaultList f k s
  | .scan f k => Sys2Proof.Machine.execScan f k s
  | .energyReadSnapshot f k => Sys2Proof.Machine.execEnergyReadSnapshot f k s
  | .energyReadRing f k => Sys2Proof.Machine.execEnergyReadRing f k s
  | .telemetry f k => Sys2Proof.Machine.execTelemetry f k s
  | .timeRead f k => Sys2Proof.Machine.execTimeRead f k s
  | .foldSet k rec => Sys2Proof.Machine.execFoldSet k rec s
  | .grantInvalidate k => Sys2Proof.Machine.execGrantInvalidate k s
  | .grantInvalidateAll k => Sys2Proof.Machine.execGrantInvalidateAll k s
  | .loopRate k payload => Sys2Proof.Machine.execLoopRate k payload s
  | .loopBank k payload => Sys2Proof.Machine.execLoopBank k payload s
  | .bankSwap k payload => Sys2Proof.Machine.execBankSwap k payload s
  | .signal k payload => Sys2Proof.Machine.execSignal k payload s
  | .sequence k payload => Sys2Proof.Machine.execSequence k payload s
  | .servoResync k payload => Sys2Proof.Machine.execServoResync k payload s
  | .apc k payload => Sys2Proof.Machine.execApc k payload s
  | .spindle k payload => Sys2Proof.Machine.execSpindle k payload s
  | .sled k payload => Sys2Proof.Machine.execSled k payload s
  | .sledTable k payload => Sys2Proof.Machine.execSledTable k payload s
  | .loader k payload => Sys2Proof.Machine.execLoader k payload s
  | .sledTableDefault k payload => Sys2Proof.Machine.execSledTableDefault k payload s
  | .channel k payload => Sys2Proof.Machine.execChannel k payload s
  | .secondLook k payload => Sys2Proof.Machine.execSecondLook k payload s
  | .channelDefault k payload => Sys2Proof.Machine.execChannelDefault k payload s
  | .wstrat k payload => Sys2Proof.Machine.execWstrat k payload s
  | .wstratDefault k payload => Sys2Proof.Machine.execWstratDefault k payload s
  | .lds k payload => Sys2Proof.Machine.execLds k payload s
  | .capture k payload => Sys2Proof.Machine.execCapture k payload s
  | .timeSetStep k rec => Sys2Proof.Machine.execTimeSetStep k rec s
  | .timeSetSlew k rec => Sys2Proof.Machine.execTimeSetSlew k rec s
  | .tariffSet k rec => Sys2Proof.Machine.execTariffSet k rec s
  | .energyClose k => Sys2Proof.Machine.execEnergyClose k s
  | .collieArm k => Sys2Proof.Machine.execCollieArm k s
  | .collieDisarm k => Sys2Proof.Machine.execCollieDisarm k s
  | .collieServe k => Sys2Proof.Machine.execCollieServe k s
  | .modeSetVigil k => Sys2Proof.Machine.execModeSetVigil k s
  | .modeSetDoze k => Sys2Proof.Machine.execModeSetDoze k s
  | .modeSetIdle k => Sys2Proof.Machine.execModeSetIdle k s
  | .modeSetService k => Sys2Proof.Machine.execModeSetService k s
  | .calibrate k meas => Sys2Proof.Machine.execCalibrate k meas s
  | .fwDownload k image => Sys2Proof.Machine.execFwDownload k image s
  | .fwActivateTry k => Sys2Proof.Machine.execFwActivateTry k s
  | .fwActivateConfirm k => Sys2Proof.Machine.execFwActivateConfirm k s
  | .logRead k => Sys2Proof.Machine.execLogRead k s
  | .testUnitReady f k cdb => Sys2Proof.Machine.execTestUnitReady f k cdb s
  | .requestSense f k cdb => Sys2Proof.Machine.execRequestSense f k cdb s
  | .formatUnit f k cdb params => Sys2Proof.Machine.execFormatUnit f k cdb params s
  | .inquiry f k cdb => Sys2Proof.Machine.execInquiry f k cdb s
  | .startStopUnit f k cdb => Sys2Proof.Machine.execStartStopUnit f k cdb s
  | .preventAllowMediumRemoval f k cdb => Sys2Proof.Machine.execPreventAllowMediumRemoval f k cdb s
  | .readFormatCapacities f k cdb => Sys2Proof.Machine.execReadFormatCapacities f k cdb s
  | .readCapacity f k cdb => Sys2Proof.Machine.execReadCapacity f k cdb s
  | .read10 f k cdb => Sys2Proof.Machine.execRead10 f k cdb s
  | .read12 f k cdb => Sys2Proof.Machine.execRead12 f k cdb s
  | .write10 f k cdb => Sys2Proof.Machine.execWrite10 f k cdb s
  | .write12 f k cdb => Sys2Proof.Machine.execWrite12 f k cdb s
  | .verify10 f k cdb => Sys2Proof.Machine.execVerify10 f k cdb s
  | .synchronizeCache f k cdb => Sys2Proof.Machine.execSynchronizeCache f k cdb s
  | .readTocPmaAtip f k cdb => Sys2Proof.Machine.execReadTocPmaAtip f k cdb s
  | .getConfiguration f k cdb => Sys2Proof.Machine.execGetConfiguration f k cdb s
  | .getEventStatusNotification f k cdb => Sys2Proof.Machine.execGetEventStatusNotification f k cdb s
  | .readDiscInformation f k cdb => Sys2Proof.Machine.execReadDiscInformation f k cdb s
  | .readTrackInformation f k cdb => Sys2Proof.Machine.execReadTrackInformation f k cdb s
  | .mmcReserveTrack f k cdb => Sys2Proof.Machine.execMmcReserveTrack f k cdb s
  | .modeSense10 f k cdb => Sys2Proof.Machine.execModeSense10 f k cdb s
  | .closeTrackSession f k cdb => Sys2Proof.Machine.execCloseTrackSession f k cdb s
  | .readDiscStructure f k cdb => Sys2Proof.Machine.execReadDiscStructure f k cdb s
  | .setCdSpeed f k cdb => Sys2Proof.Machine.execSetCdSpeed f k cdb s
  | .readCd f k cdb => Sys2Proof.Machine.execReadCd f k cdb s
  | .doorbellPoll f => Sys2Proof.Machine.execDoorbellPoll f s
  | .pollResult f r => Sys2Proof.Machine.execPollResult f r s
  | .sleepEnter f => Sys2Proof.Machine.execSleepEnter f s
  | .finalTailRead f r => Sys2Proof.Machine.execFinalTailRead f r s
  | .dbpWake f => Sys2Proof.Machine.execDbpWake f s
  | .statusBlockWrite f => Sys2Proof.Machine.execStatusBlockWrite f s
  | .headRead f m r => Sys2Proof.Machine.execHeadRead f m r s
  | .descriptorFetch => Sys2Proof.Machine.execDescriptorFetch s
  | .descriptorConsume f n r => Sys2Proof.Machine.execDescriptorConsume f n r s
  | .listRead f k r => Sys2Proof.Machine.execListRead f k r s
  | .grantTableRead f k r => Sys2Proof.Machine.execGrantTableRead f k r s
  | .grantReread f k r => Sys2Proof.Machine.execGrantReread f k r s
  | .requestGranted => Sys2Proof.Machine.execRequestGranted s
  | .descriptorStart f k => Sys2Proof.Machine.execDescriptorStart f k s
  | .droverDispatch => Sys2Proof.Machine.execDroverDispatch s
  | .mechanismFree => Sys2Proof.Machine.execMechanismFree s
  | .descriptorTimeout f k => Sys2Proof.Machine.execDescriptorTimeout f k s
  | .hostDataRead f k r => Sys2Proof.Machine.execHostDataRead f k r s
  | .completionPost f k => Sys2Proof.Machine.execCompletionPost f k s
  | .coalTimeExpiry f m => Sys2Proof.Machine.execCoalTimeExpiry f m s
  | .wringEnable f n v => Sys2Proof.Machine.execWringEnable f n v s
  | .wringDisable f n => Sys2Proof.Machine.execWringDisable f n s
  | .wringAbort f n => Sys2Proof.Machine.execWringAbort f n s
  | .dringEnable f m v => Sys2Proof.Machine.execDringEnable f m v s
  | .dringDisable f m => Sys2Proof.Machine.execDringDisable f m s
  | .dringReconfigure f m v => Sys2Proof.Machine.execDringReconfigure f m v s
  | .dbpEnable f v => Sys2Proof.Machine.execDbpEnable f v s
  | .dbpDisable f => Sys2Proof.Machine.execDbpDisable f s
  | .flrFold f => Sys2Proof.Machine.execFlrFold f s
  | .foldResetComplete f => Sys2Proof.Machine.execFoldResetComplete f s
  | .flrFold0 => Sys2Proof.Machine.execFlrFold0 s
  | .perstN => Sys2Proof.Machine.execPerstN s
  | .vfEnableClear => Sys2Proof.Machine.execVfEnableClear s
  | .vfEnableSet => Sys2Proof.Machine.execVfEnableSet s
  | .registerWrite p => Sys2Proof.Machine.execRegisterWrite p s
  | .pwrLinkStatClear f => Sys2Proof.Machine.execPwrLinkStatClear f s
  | .gntBaseWrite high v => Sys2Proof.Machine.execGntBaseWrite high v s
  | .gntCtlWrite v => Sys2Proof.Machine.execGntCtlWrite v s
  | .gntStatClear => Sys2Proof.Machine.execGntStatClear s
  | .penFlush v => Sys2Proof.Machine.execPenFlush v s
  | .fqRejectClear => Sys2Proof.Machine.execFqRejectClear s
  | .fqWaitClear f => Sys2Proof.Machine.execFqWaitClear f s
  | .fqAuditStart => Sys2Proof.Machine.execFqAuditStart s
  | .auditDone => Sys2Proof.Machine.execAuditDone s
  | .wayOff v => Sys2Proof.Machine.execWayOff v s
  | .wayWalkDone => Sys2Proof.Machine.execWayWalkDone s
  | .wayOn v => Sys2Proof.Machine.execWayOn v s
  | .capDataRead => Sys2Proof.Machine.execCapDataRead s
  | .capDrop => Sys2Proof.Machine.execCapDrop s
  | .eccBktStatClear n => Sys2Proof.Machine.execEccBktStatClear n s
  | .eccCountClear n => Sys2Proof.Machine.execEccCountClear n s
  | .scrubStatClear => Sys2Proof.Machine.execScrubStatClear s
  | .eccFlipArm v => Sys2Proof.Machine.execEccFlipArm v s
  | .mramRawProgram => Sys2Proof.Machine.execMramRawProgram s
  | .mramRawRead found => Sys2Proof.Machine.execMramRawRead found s
  | .cphLockTake => Sys2Proof.Machine.execCphLockTake s
  | .cphLockRelease => Sys2Proof.Machine.execCphLockRelease s
  | .cphKatStart => Sys2Proof.Machine.execCphKatStart s
  | .cphKatDone matched => Sys2Proof.Machine.execCphKatDone matched s
  | .cphStatClear => Sys2Proof.Machine.execCphStatClear s
  | .kprTickLoRead => Sys2Proof.Machine.execKprTickLoRead s
  | .wdgCtlWrite v => Sys2Proof.Machine.execWdgCtlWrite v s
  | .haltAck v => Sys2Proof.Machine.execHaltAck v s
  | .haltRelease => Sys2Proof.Machine.execHaltRelease s
  | .govWrite r v => Sys2Proof.Machine.execGovWrite r v s
  | .govStatClear => Sys2Proof.Machine.execGovStatClear s
  | .pwrStatClear => Sys2Proof.Machine.execPwrStatClear s
  | .sbWake target v => Sys2Proof.Machine.execSbWake target v s
  | .sbServe target bytes => Sys2Proof.Machine.execSbServe target bytes s
  | .sbIgnoredClear target => Sys2Proof.Machine.execSbIgnoredClear target s
  | .sbRead target pointer len => Sys2Proof.Machine.execSbRead target pointer len s
  | .collieTokenLatch => Sys2Proof.Machine.execCollieTokenLatch s
  | .collieExpiry => Sys2Proof.Machine.execCollieExpiry s
  | .wdogPulseEnd => Sys2Proof.Machine.execWdogPulseEnd s
  | .internalWatchdogServe token => Sys2Proof.Machine.execInternalWatchdogServe token s
  | .internalWatchdogExpiry => Sys2Proof.Machine.execInternalWatchdogExpiry s
  | .bronzeRestart => Sys2Proof.Machine.execBronzeRestart s
  | .clockTrip d stopped => Sys2Proof.Machine.execClockTrip d stopped s
  | .oscillatorResume o => Sys2Proof.Machine.execOscillatorResume o s
  | .logBlockCommit => Sys2Proof.Machine.execLogBlockCommit s
  | .bootFailsClear => Sys2Proof.Machine.execBootFailsClear s
  | .keeperPowerUp fromVin addrSel => Sys2Proof.Machine.execKeeperPowerUp fromVin addrSel s
  | .startUp => Sys2Proof.Machine.execStartUp s
  | .drainComplete => Sys2Proof.Machine.execDrainComplete s
  | .park => Sys2Proof.Machine.execPark s
  | .autoDoze => Sys2Proof.Machine.execAutoDoze s
  | .pcieRequestWake f => Sys2Proof.Machine.execPcieRequestWake f s
  | .inputLoss c => Sys2Proof.Machine.execInputLoss c s
  | .inputLossRailDown => Sys2Proof.Machine.execInputLossRailDown s
  | .inputReturn => Sys2Proof.Machine.execInputReturn s
  | .mainsStart rms => Sys2Proof.Machine.execMainsStart rms s
  | .mainsStop => Sys2Proof.Machine.execMainsStop s
  | .regulationLoss => Sys2Proof.Machine.execRegulationLoss s
  | .regulationRestart => Sys2Proof.Machine.execRegulationRestart s
  | .railFault r => Sys2Proof.Machine.execRailFault r s
  | .railFaultRestart => Sys2Proof.Machine.execRailFaultRestart s
  | .thermalReading t => Sys2Proof.Machine.execThermalReading t s
  | .thermalRailDown => Sys2Proof.Machine.execThermalRailDown s
  | .thermalRestart t => Sys2Proof.Machine.execThermalRestart t s
  | .paceChange => Sys2Proof.Machine.execPaceChange s
  | .governorFrame => Sys2Proof.Machine.execGovernorFrame s
  | .keeperToBattery => Sys2Proof.Machine.execKeeperToBattery s
  | .keeperToVin => Sys2Proof.Machine.execKeeperToVin s
  | .vbatMeasure mv => Sys2Proof.Machine.execVbatMeasure mv s
  | .keeperLost => Sys2Proof.Machine.execKeeperLost s
  | .keeperMirrorCommit => Sys2Proof.Machine.execKeeperMirrorCommit s
  | .meterUpdate nWh milliwatts milliHz => Sys2Proof.Machine.execMeterUpdate nWh milliwatts milliHz s
  | .intervalBoundary => Sys2Proof.Machine.execIntervalBoundary s
  | .timeStep => Sys2Proof.Machine.execTimeStep s
  | .slewEnd => Sys2Proof.Machine.execSlewEnd s
  | .calendarEnd => Sys2Proof.Machine.execCalendarEnd s
  | .loopStrobe => Sys2Proof.Machine.execLoopStrobe s
  | .servoSampleArrival c => Sys2Proof.Machine.execServoSampleArrival c s
  | .loopComputeDone left period => Sys2Proof.Machine.execLoopComputeDone left period s
  | .overrunLimit => Sys2Proof.Machine.execOverrunLimit s
  | .defectLong => Sys2Proof.Machine.execDefectLong s
  | .pickupOpen => Sys2Proof.Machine.execPickupOpen s
  | .apcLimit => Sys2Proof.Machine.execApcLimit s
  | .puTempOpen => Sys2Proof.Machine.execPuTempOpen s
  | .puTempClear => Sys2Proof.Machine.execPuTempClear s
  | .bankSwapApply => Sys2Proof.Machine.execBankSwapApply s
  | .focusOn layer => Sys2Proof.Machine.execFocusOn layer s
  | .trackOn => Sys2Proof.Machine.execTrackOn s
  | .trackOnTimeout => Sys2Proof.Machine.execTrackOnTimeout s
  | .trackJump tracks outward => Sys2Proof.Machine.execTrackJump tracks outward s
  | .jumpTimeout => Sys2Proof.Machine.execJumpTimeout s
  | .layerJump layer => Sys2Proof.Machine.execLayerJump layer s
  | .layerJumpTimeout => Sys2Proof.Machine.execLayerJumpTimeout s
  | .servoPacketBad => Sys2Proof.Machine.execServoPacketBad s
  | .channelPacketBad bytes => Sys2Proof.Machine.execChannelPacketBad bytes s
  | .controlPacketArrival l good => Sys2Proof.Machine.execControlPacketArrival l good s
  | .yelxoBCommandFrame good => Sys2Proof.Machine.execYelxoBCommandFrame good s
  | .linkStall l => Sys2Proof.Machine.execLinkStall l s
  | .loopTickLoss => Sys2Proof.Machine.execLoopTickLoss s
  | .tbLock => Sys2Proof.Machine.execTbLock s
  | .spindleStart r => Sys2Proof.Machine.execSpindleStart r s
  | .forcedStep crossing => Sys2Proof.Machine.execForcedStep crossing s
  | .startCoastEnd => Sys2Proof.Machine.execStartCoastEnd s
  | .zeroCrossing rising t60 => Sys2Proof.Machine.execZeroCrossing rising t60 s
  | .commutate => Sys2Proof.Machine.execCommutate s
  | .hallEdge code t60 => Sys2Proof.Machine.execHallEdge code t60 s
  | .hallInvalid code => Sys2Proof.Machine.execHallInvalid code s
  | .spinStall => Sys2Proof.Machine.execSpinStall s
  | .bridgeOc b => Sys2Proof.Machine.execBridgeOc b s
  | .spinCeilingSet => Sys2Proof.Machine.execSpinCeilingSet s
  | .spinCeilingClear => Sys2Proof.Machine.execSpinCeilingClear s
  | .spindleStopped => Sys2Proof.Machine.execSpindleStopped s
  | .sledUpdate => Sys2Proof.Machine.execSledUpdate s
  | .sledSeek lba => Sys2Proof.Machine.execSledSeek lba s
  | .seekSettleEnd => Sys2Proof.Machine.execSeekSettleEnd s
  | .sledRecover addr => Sys2Proof.Machine.execSledRecover addr s
  | .sledHome => Sys2Proof.Machine.execSledHome s
  | .homeNChange asserted => Sys2Proof.Machine.execHomeNChange asserted s
  | .trayInNChange asserted found => Sys2Proof.Machine.execTrayInNChange asserted found s
  | .trayOutNChange asserted => Sys2Proof.Machine.execTrayOutNChange asserted s
  | .ejectButton => Sys2Proof.Machine.execEjectButton s
  | .loaderJam => Sys2Proof.Machine.execLoaderJam s
  | .solenoidPulseEnd => Sys2Proof.Machine.execSolenoidPulseEnd s
  | .solenoidTimeout => Sys2Proof.Machine.execSolenoidTimeout s
  | .acquisitionLock rf => Sys2Proof.Machine.execAcquisitionLock rf s
  | .slip rf => Sys2Proof.Machine.execSlip rf s
  | .lossOfLock rf => Sys2Proof.Machine.execLossOfLock rf s
  | .relockTimeout rf => Sys2Proof.Machine.execRelockTimeout rf s
  | .defectFlagSet rf => Sys2Proof.Machine.execDefectFlagSet rf s
  | .defectFlagClear rf => Sys2Proof.Machine.execDefectFlagClear rf s
  | .addressAccept a => Sys2Proof.Machine.execAddressAccept a s
  | .unitDecode u => Sys2Proof.Machine.execUnitDecode u s
  | .secondLookPassEnd u => Sys2Proof.Machine.execSecondLookPassEnd u s
  | .physicalReread u => Sys2Proof.Machine.execPhysicalReread u s
  | .readAhead => Sys2Proof.Machine.execReadAhead s
  | .speculativeSeek => Sys2Proof.Machine.execSpeculativeSeek s
  | .penCopyExpire f => Sys2Proof.Machine.execPenCopyExpire f s
  | .opc first again => Sys2Proof.Machine.execOpc first again s
  | .unitRecorded levels => Sys2Proof.Machine.execUnitRecorded levels s
  | .underrun => Sys2Proof.Machine.execUnderrun s
  | .readbackDone r => Sys2Proof.Machine.execReadbackDone r s
  | .ldsTransaction addr value back => Sys2Proof.Machine.execLdsTransaction addr value back s
  | .captureTrigger => Sys2Proof.Machine.execCaptureTrigger s
  | .capturePacket => Sys2Proof.Machine.execCapturePacket s
  | .alloc requester acct => Sys2Proof.Machine.execAlloc requester acct s
  | .share requester index => Sys2Proof.Machine.execShare requester index s
  | .drop requester index => Sys2Proof.Machine.execDrop requester index s
  | .free requester index => Sys2Proof.Machine.execFree requester index s
  | .pass requester index new => Sys2Proof.Machine.execPass requester index new s
  | .stackRefill => Sys2Proof.Machine.execStackRefill s
  | .stackSpill => Sys2Proof.Machine.execStackSpill s
  | .scrubBurst flips => Sys2Proof.Machine.execScrubBurst flips s
  | .bucketLeak n => Sys2Proof.Machine.execBucketLeak n s
  | .mramScrubRead found => Sys2Proof.Machine.execMramScrubRead found s
  | .mramPageProgram back => Sys2Proof.Machine.execMramPageProgram back s
  | .lockGrant => Sys2Proof.Machine.execLockGrant s
  | .tagVerify => Sys2Proof.Machine.execTagVerify s
  | .lockRelease => Sys2Proof.Machine.execLockRelease s
  | .cipherParityFault => Sys2Proof.Machine.execCipherParityFault s
  | .nonceReservation slot => Sys2Proof.Machine.execNonceReservation slot s
  | .configurationWrite f c => Sys2Proof.Machine.execConfigurationWrite f c s
  | .x32CrystalStart => Sys2Proof.Machine.execX32CrystalStart s
  | .tokenBucketRefill b => Sys2Proof.Machine.execTokenBucketRefill b s
  | .memoryResetRequest site => Sys2Proof.Machine.execMemoryResetRequest site s

end Sys2Proof.Machine
end

