-- ==== Sys2Proof/Machine/Idle.lean ====
section
/-! DEFINITION. Machine/Idle.lean: what a microsecond with no command waiting brings (log entry 2): the interval timer and the
keeper tick move on, an armed flip meets the next write of a memory that is written all the time, a ramp of the actuators and an
entry to DOZE or VIGIL go on, and a pushed tray's close and the eject button's eject take their turn. -/
namespace Sys2Proof.Machine

/-- One microsecond passes. -/
def idleTick (s : State) : State := buttonEject (closePushed (sleepTick (rampStep (flipIdle (passTime s)))))

end Sys2Proof.Machine
end

