-- ==== Sys2Proof/Machine/Electrical.lean ====
section
/-! DEFINITION. Chapter 18: the balls, leads and lands, and the limits and characteristics of
the terminals. They are constants of the hardware: no command changes them and no command reads
them, so they stand beside the state and not in it. A value is given in thousandths of the unit
its name carries. -/
namespace Sys2Proof.Machine.Electrical

/-- A limit: none, a number of thousandths of the unit, or `num / den` of another quantity plus
a number of thousandths. -/
inductive Bound where
  | none
  | milli (v : Int)
  | scaled (quantity : String) (num : Int) (den : Nat) (plusMilli : Int)
  deriving DecidableEq, Repr

/-- One row of a table of minimum, typical and maximum values. -/
structure Limit where
  name : String
  min : Bound
  typ : Bound
  max : Bound
  deriving DecidableEq, Repr

/-! ## The ball map of GW4410-M (Tables 18.1 and 18.2) -/

/-- A ball by its row number (A 1, B 2, … W 18) and column, as one number 0–323. -/
def ball (row col : Nat) : Nat := (row - 1) * 18 + (col - 1)

/-- Balls of one row, columns `a` to `b`. -/
def inRow (row a b : Nat) : List Nat := (List.range' a (b + 1 - a)).map (ball row)

/-- Balls of one column, rows `a` to `b`. -/
def inCol (col a b : Nat) : List Nat :=
  (List.range' a (b + 1 - a)).map (fun (r : Nat) => ball r col)

/-- Balls of rows E–P and columns 5–14 whose row number plus column number has this parity. -/
def chequer (parity : Nat) : List Nat :=
  (List.range' 5 10).flatMap fun (r : Nat) =>
    ((List.range' 5 10).filter (fun (c : Nat) => (r + c) % 2 = parity)).map (ball r)

/-- Table 18.1 (R431): the signal balls. -/
def signalBalls : List (String × Nat) :=
  [ ("PET_P", ball 1 2), ("PET_N", ball 1 3), ("PER_P", ball 1 5), ("PER_N", ball 1 6),
    ("REFCLK_P", ball 1 8), ("REFCLK_N", ball 1 9), ("PERST_N", ball 1 11),
    ("CLKREQ_N", ball 1 12), ("TEST_EN", ball 1 14), ("MRST_N", ball 1 15) ]
  ++ [ ("PD_A", ball 3 1), ("PD_B", ball 4 1), ("PD_C", ball 5 1), ("PD_D", ball 6 1),
    ("PD_E", ball 7 1), ("PD_F", ball 8 1), ("PD_G", ball 9 1), ("PD_H", ball 10 1),
    ("FMON", ball 11 1), ("PU_TEMP", ball 12 1), ("RF_P", ball 13 1), ("RF_N", ball 14 1),
    ("CAL_REF", ball 15 1), ("VPU_SNS", ball 16 1), ("VREF_PU", ball 11 2),
    ("LD_VSET", ball 12 2) ]
  ++ [ ("LSEL_0_P", ball 3 18), ("LSEL_0_N", ball 4 18), ("LSEL_1_P", ball 5 18),
    ("LSEL_1_N", ball 6 18), ("LSEL_2_P", ball 7 18), ("LSEL_2_N", ball 8 18),
    ("WGATE_P", ball 9 18), ("WGATE_N", ball 10 18), ("LD_EN", ball 11 18),
    ("LDS_CLK", ball 12 18), ("LDS_DATA", ball 13 18), ("LDS_SEL_N", ball 14 18),
    ("XI", ball 15 18), ("XO", ball 16 18) ]
  ++ (List.range 16).map (fun (k : Nat) => ("YBM_D_" ++ toString k, ball 18 (k + 1)))
  ++ [ ("YBM_ACK", ball 18 17) ]
  ++ (List.range 16).map (fun (k : Nat) => ("YBI_D_" ++ toString k, ball 17 (k + 1)))
  ++ [ ("YBI_ACK", ball 17 17) ]

/-- The nets of Table 18.2. -/
inductive SupplyNet where
  | vcore | vss | avss | vio | van | vdd1 | vdd2 | vddq
  deriving DecidableEq, Repr

/-- Table 18.2 (R431): the balls of each supply net. -/
def supplyBalls : SupplyNet → List Nat
  | .vcore => inCol 15 5 14 ++ chequer 0
  | .vss => [ball 1 1, ball 1 4, ball 1 7, ball 1 10, ball 1 17, ball 1 18] ++ inRow 2 1 18 ++
      [ball 17 18, ball 18 18] ++ inCol 17 3 14 ++ [ball 3 15, ball 3 16] ++ inRow 4 11 16 ++
      inRow 16 3 16 ++ inCol 16 5 14 ++ chequer 1
  | .avss => inCol 2 3 10 ++ inCol 2 13 16 ++ [ball 15 17, ball 16 17] ++ inCol 4 5 14
  | .vio => [ball 1 13, ball 1 16] ++ inRow 15 3 16
  | .van => inCol 3 5 14
  | .vdd1 => inRow 3 3 6
  | .vdd2 => inRow 3 7 14
  | .vddq => inRow 4 3 10

/-- The count Table 18.2 gives each net. -/
def supplyCount : SupplyNet → Nat
  | .vcore => 60
  | .vss => 120
  | .avss => 24
  | .vio => 16
  | .van => 10
  | .vdd1 => 4
  | .vdd2 => 8
  | .vddq => 8

/-- All balls, the signals first. -/
def allBalls : List Nat :=
  signalBalls.map (fun (p : String × Nat) => p.2) ++
    [SupplyNet.vcore, .vss, .avss, .vio, .van, .vdd1, .vdd2, .vddq].flatMap supplyBalls

/-- The lane that wire `w` of a Yelxo-B port belongs to: lane k on wires 4k to 4k + 3. -/
def yelxoLane (w : Nat) : Nat := w / 4

/-- What the board ties or may leave open (R433): each strap or idle input with what it needs. -/
def strapRules : List (String × String) :=
  [ ("TEST_EN", "tied to VSS"), ("ADDR_SEL", "tied to AGND reads low, open reads high"),
    ("CAL_REF", "to AVSS through 47-220 kOhm"), ("HU, HV, HW", "open while HALL_EN is 0"),
    ("EJECT_N", "open when no button is fitted") ]

/-! ## Digital levels, crystals, isolation, thermal data -/

/-- A row of Table 18.10. -/
structure Levels where
  terminals : String
  vilMax : Bound
  vihMin : Bound
  volMax : Bound
  volLoadMa : Nat
  pull : String
  deriving DecidableEq, Repr

/-- Table 18.10 (R440): digital input and output levels; VOH of the VIO group is at least VIO −
0.2 V. On VBAT_KEEP alone the switch pull-ups are off and the switch inputs are not sampled. -/
def digitalLevels : List Levels :=
  [ ⟨"LD_EN, LDS_CLK, LDS_DATA, LDS_SEL_N, MRST_N, TEST_EN, Yelxo-B",
      .scaled "VIO" 7 20 0, .scaled "VIO" 13 20 0, .milli 200, 4, "none"⟩,
    ⟨"SDA, SCL", .milli 500, .milli 1200, .milli 400, 20, "none"⟩,
    ⟨"WDOG_N, CLKREQ_N", .milli 500, .milli 1200, .milli 400, 4, "none"⟩,
    ⟨"PERST_N", .milli 500, .milli 1200, .none, 0, "none; leakage at most 10 uA while VIO is off"⟩,
    ⟨"HOME_N, TRAY_IN_N, TRAY_OUT_N, EJECT_N", .milli 500, .milli 1400, .none, 0,
      "47 kOhm to the keeper supply while Bronze runs; 2 MOhm in VIGIL and DOZE"⟩,
    ⟨"HU, HV, HW", .milli 800, .milli 2000, .none, 0, "20 kOhm to VMOT while VMOT is on"⟩,
    ⟨"ADDR_SEL", .milli 300, .none, .none, 0,
      "1 MOhm pull-up, applied only while the keeper starts"⟩ ]

/-- A crystal of Table 18.14: load capacitance limits [pF], and its maxima in thousandths of
Ohm, pF, µW and (total frequency error) ppm. The 32.768 kHz crystal's error sets only the
calendar's accuracy: ±20 ppm gives 52 s per month. -/
structure Crystal where
  hz : Nat
  clMin : Nat
  clMax : Nat
  esrMax : Nat
  shuntMilliPf : Nat
  driveMilliUw : Nat
  errorPpm : Option Nat
  startWithinMs : Nat
  deriving DecidableEq, Repr

/-- The 24.000 MHz crystal at XI and XO (R445). -/
def crystal24 : Crystal := ⟨24000000, 8, 12, 60, 3000, 100000, some 50, 1⟩

/-- The 32.768 kHz crystal of the keeper (R445); until it starts, the keeper runs on its LF RC
oscillator, accurate to ±3 %. -/
def crystal32 : Crystal := ⟨32768, 6, 9, 70000, 1500, 250, none, 1000⟩

/-- Each load capacitor is 2 × (CL − 2 pF) (R445); pF. -/
def loadCapacitor (cl : Nat) : Nat := 2 * (cl - 2)

/-- Table 18.15 (R446), as name and value in thousandths; creepage, clearance, insulation distance
and tracking index are minima. The board keeps at least 8.0 mm between primary and secondary
copper. -/
def isolation : List (String × Nat) :=
  [ ("creepage [mm]", 8000), ("clearance [mm]", 8000), ("internal insulation [mm]", 400),
    ("working voltage [V rms]", 400000), ("working voltage [V peak]", 565000),
    ("withstand, 60 s [V rms]", 4000000), ("mould compound tracking index", 600000) ]

/-- A row of Table 18.16: resistances in thousandths of °C/W, typical dissipation in mW. -/
structure Thermal where
  die : String
  thetaJa : Nat
  thetaJc : Nat
  psiJt : Nat
  dissipation : Nat
  deriving DecidableEq, Repr

/-- Table 18.16 (R447): on a four-layer 76 × 114 mm board with every thermal land soldered to 25
vias or more; not promised otherwise (R452). -/
def thermalData : List Thermal :=
  [ ⟨"GW4410-M, hottest die", 16000, 2500, 300, 1500⟩,
    ⟨"GW4410-PD, Iron", 26000, 4000, 1000, 900⟩,
    ⟨"GW4410-P, Iron", 26000, 4000, 1000, 900⟩,
    ⟨"GW4410-P, Nickel", 34000, 6000, 1500, 600⟩ ]

/-- The junction temperature, in thousandths of °C, at an ambient [°C/1000] and a dissipation
[mW] through a row of Table 18.16. -/
def junction (t : Thermal) (ambientMilli : Int) (mw : Nat) : Int :=
  ambientMilli + t.thetaJa * mw / 1000

/-! ## Rules of the board and the interfaces -/

/-- A Yelxo-B trace as R444 rules it: impedance [Ohm/10], length [mm], vias, ground plane
unbroken, distance [mm] from switching copper, spacing and width of traces [µm]. -/
structure Trace where
  ohmTenths : Nat
  mm : Nat
  vias : Nat
  planeUnbroken : Bool
  fromSwitching : Nat
  spacing : Nat
  width : Nat
  deriving DecidableEq, Repr

/-- Whether a trace keeps R444, the trace rules of R16. -/
def Trace.ok (t : Trace) : Bool :=
  decide (425 ≤ t.ohmTenths) && decide (t.ohmTenths ≤ 575) && decide (t.mm ≤ 150) &&
    decide (t.vias ≤ 4) && t.planeUnbroken && decide (2 ≤ t.fromSwitching) &&
    decide (2 * t.width ≤ t.spacing)

/-- The shortest a level of n/32 T reaches the pickup, n/32 T − T/32 − 2 × t_b (R443), in units
of the arguments. -/
def wpiWidth (n : Nat) (t tb : Int) : Int := (n * t - t) / 32 - 2 * tb

/-- The WPI routing rule of R443: impedance [Ohm], length [mm], mismatch in a pair and among the
four pairs [µm]. -/
def wpiRouted (ohm mm pair pairs : Nat) : Bool :=
  decide (90 ≤ ohm) && decide (ohm ≤ 110) && decide (mm ≤ 100) && decide (pair ≤ 200) &&
    decide (pairs ≤ 1000)

/-- Each coil has 3–12 Ohm and at most 100 µH (R438). -/
def coilOk (milliOhm microHenry : Nat) : Bool :=
  decide (3000 ≤ milliOhm) && decide (milliOhm ≤ 12000) && decide (microHenry ≤ 100)

/-- The full scale of the three actuators [µA], typical (Table 18.9); the resolution is full scale
/ 2,047 (R158). -/
def actuatorFullScale : List (String × Nat) :=
  [("focus", 250000), ("tracking", 200000), ("tilt", 150000)]

/-- The components the board fits for the mains accuracy of Table 14.3 (R439): the shunt [µOhm]
and one of the four AC_VS resistors [Ohm], each ±0.1 % and 25 ppm/°C or better. -/
def mainsShunt : Nat := 50000

@[inherit_doc mainsShunt] def acDividerLeg : Nat := 1000000

/-- The reference clock (R441): 100 MHz, common or separate, the separate one only without spread
spectrum. -/
def refclkSupported (separate spread : Bool) : Bool := !(separate && spread)

/-- VIN's rise from 0 to 4.4 V (R449): monotonic and 0.1–20 ms [µs]. -/
def vinRiseOk (us : Nat) (monotonic : Bool) : Bool :=
  monotonic && decide (100 ≤ us) && decide (us ≤ 20000)

/-- What R435 and R450 promise at a VIN [mV]. -/
inductive VinPromise where
  /-- between 4.5 V and 21 V: every characteristic -/
  | all
  /-- above 21 V up to the overvoltage trip: all but metering accuracy -/
  | notMetering
  /-- from LOSS_TH up to 4.5 V: the chipset runs and VMOT stays regulated -/
  | runsOnly
  /-- outside both: nothing -/
  | nothing
  deriving DecidableEq, Repr

/-- R450: what is promised at `vin` with the loss threshold and the trip of R340 [mV]. -/
def vinPromise (vin lossTh trip : Nat) : VinPromise :=
  if vin < lossTh then .nothing
  else if vin < 4500 then .runsOnly
  else if vin ≤ 21000 then .all
  else if vin ≤ trip then .notMetering
  else .nothing

/-! ## Limits and characteristics -/

/-- Table 18.5 (ch. 18 R434): stress beyond these limits can damage the chipset. -/
def absoluteMaximum : List Limit :=
  [ ⟨"VIN, VINS to PGND [V]", .milli (-300), .none, .milli (24000)⟩,
    ⟨"SW_MA [V]", .milli (-1000), .none, .milli (25000)⟩,
    ⟨"VBAT_KEEP [V]", .milli (-300), .none, .milli (4000)⟩,
    ⟨"VMOT, VPU, SW_MB [V]", .milli (-300), .none, .milli (6500)⟩,
    ⟨"Bridge outputs [V]", .milli (-500), .none, .scaled "VMOT" 1 1 (500)⟩,
    ⟨"HU, HV, HW, HOME_N, TRAY_IN_N, TRAY_OUT_N, EJECT_N, VPU_SNS [V]", .milli (-300), .none, .milli (6000)⟩,
    ⟨"SDA, SCL, WDOG_N, ADDR_SEL, PERST_N, CLKREQ_N [V]", .milli (-300), .none, .milli (4000)⟩,
    ⟨"VCORE [V]", .milli (-300), .none, .milli (950)⟩,
    ⟨"VIO, VDD1 [V]", .milli (-300), .none, .milli (2100)⟩,
    ⟨"VDD2 [V]", .milli (-300), .none, .milli (1450)⟩,
    ⟨"VDDQ [V]", .milli (-300), .none, .milli (900)⟩,
    ⟨"VAN [V]", .milli (-300), .none, .milli (3800)⟩ ]
  ++ [ ⟨"Other module analogue inputs [V]", .milli (-300), .none, .scaled "VAN" 1 1 (300)⟩,
    ⟨"Other module digital signals [V]", .milli (-300), .none, .scaled "VIO" 1 1 (300)⟩,
    ⟨"HV_IN to PGND_P [V]", .milli (-300), .none, .milli (450000)⟩,
    ⟨"DRN to PGND_P [V]", .milli (-300), .none, .milli (700000)⟩,
    ⟨"VDD_P [V]", .milli (-300), .none, .milli (30000)⟩,
    ⟨"AC_VS, ISH_P, ISH_N to PGND_P [V]", .milli (-500), .none, .milli (3600)⟩,
    ⟨"Current into any signal terminal [mA]", .milli (-10000), .none, .milli (10000)⟩,
    ⟨"Junction temperature [deg C]", .none, .none, .milli (150000)⟩,
    ⟨"Storage temperature [deg C]", .milli (-55000), .none, .milli (150000)⟩,
    ⟨"ESD, human body model, every terminal [kV]", .none, .none, .milli (2000)⟩,
    ⟨"ESD, charged device model [V]", .none, .none, .milli (500000)⟩ ]

/-- Table 18.6 (ch. 18 R435): the conditions every characteristic and bound holds within; VBAT_KEEP may also be 0 when tied to AGND. -/
def operatingConditions : List Limit :=
  [ ⟨"Ambient temperature [deg C]", .milli (-40000), .none, .milli (85000)⟩,
    ⟨"Junction temperature, any die [deg C]", .milli (-40000), .none, .milli (125000)⟩,
    ⟨"VIN [V]", .milli (4500), .none, .milli (21000)⟩,
    ⟨"VBAT_KEEP [V]", .milli (1800), .none, .milli (3600)⟩,
    ⟨"AC input, GW4410-P [V rms]", .milli (80000), .none, .milli (276000)⟩,
    ⟨"AC frequency [Hz]", .milli (47000), .none, .milli (63000)⟩,
    ⟨"Pull-up supply of SDA, SCL, WDOG_N, PERST_N, CLKREQ_N [V]", .milli (1620), .none, .milli (3600)⟩,
    ⟨"Supply of Hall sensors and switches [V]", .none, .none, .milli (5500)⟩ ]

/-- Table 18.7 (ch. 18 R436): Iron's rails, with the components of `boardComponents`. -/
def supplies : List Limit :=
  [ ⟨"VMOT [V]", .milli (4850), .milli (5000), .milli (5150)⟩,
    ⟨"VMOT load [A]", .none, .none, .milli (2000)⟩,
    ⟨"VPU switch resistance [mOhm]", .none, .milli (150000), .milli (250000)⟩,
    ⟨"VPU current limit [mA]", .milli (500000), .milli (650000), .milli (800000)⟩,
    ⟨"VAN [V]; load up to 150 mA", .milli (3230), .milli (3300), .milli (3370)⟩,
    ⟨"VIO [V]; load up to 400 mA", .milli (1750), .milli (1800), .milli (1850)⟩,
    ⟨"VDD1 [V]; load up to 80 mA", .milli (1750), .milli (1800), .milli (1850)⟩,
    ⟨"VDD2 [V]; load up to 500 mA", .milli (1070), .milli (1100), .milli (1130)⟩,
    ⟨"VDDQ [V]; load up to 200 mA", .milli (570), .milli (600), .milli (630)⟩,
    ⟨"VCORE error from 0.55 V + code x 5 mV, at VCORE_SNS [mV]; load up to 2.5 A", .milli (-10000), .none, .milli (10000)⟩,
    ⟨"Switching frequency [MHz]", .milli (1800), .milli (2000), .milli (2200)⟩,
    ⟨"Keeper to VBAT_KEEP, VIN falling [V]", .milli (3950), .milli (4000), .milli (4050)⟩ ]
  ++ [ ⟨"Keeper back to VIN, VIN rising [V]", .milli (4350), .milli (4400), .milli (4450)⟩,
    ⟨"LOSS_TH error [% of setting]", .milli (-1500), .none, .milli (1500)⟩,
    ⟨"Overvoltage trip [V]", .milli (21700), .milli (22000), .milli (22300)⟩,
    ⟨"VBAT_KEEP current while the keeper runs from VIN [nA]", .none, .milli (10000), .milli (50000)⟩ ]

/-- Table 18.8 (ch. 18 R437): Pewter's analogue inputs and outputs. -/
def converters : List Limit :=
  [ ⟨"Servo input span around VREF_PU [V]", .milli (-1200), .none, .milli (1200)⟩,
    ⟨"Servo input leakage, excluding the tell pull [nA]", .milli (-50000), .none, .milli (50000)⟩,
    ⟨"Tell pull resistance [MOhm]", .milli (1600), .milli (2000), .milli (2400)⟩,
    ⟨"Tell level error from VREF_PU - 0.9 V [mV]", .milli (-30000), .none, .milli (30000)⟩,
    ⟨"Servo noise at 200 kHz, ZERO channels [LSB rms]", .none, .milli (500), .milli (1000)⟩,
    ⟨"Servo gain error, factory trim [%]", .milli (-2000), .none, .milli 2000⟩,
    ⟨"Servo gain error, calibrated [%]", .milli (-100), .none, .milli 100⟩,
    ⟨"Servo offset, factory trim [codes]", .milli (-4000), .none, .milli 4000⟩,
    ⟨"Servo offset, calibrated [codes]", .milli (-250), .none, .milli 250⟩,
    ⟨"VREF_PU, factory trim [V]", .milli (1635), .milli (1650), .milli (1665)⟩,
    ⟨"VREF_PU load current [mA]", .milli (-3000), .none, .milli (3000)⟩,
    ⟨"VREF_PU load capacitance [nF]", .milli (100000), .none, .milli (1000000)⟩ ]
  ++ [ ⟨"PU_TEMP internal pull-up to VAN [kOhm]", .milli (9900), .milli (10000), .milli (10100)⟩,
    ⟨"CAL_REF input resistance [MOhm]", .milli (10000), .none, .none⟩,
    ⟨"RF input common mode [V]", .scaled "VREF_PU" 1 1 (-250), .none, .scaled "VREF_PU" 1 1 (250)⟩,
    ⟨"RF input impedance, differential [kOhm]", .milli (1600), .milli (2000), .milli (2400)⟩,
    ⟨"RF full scale at 0 dB gain [V pp, differential]", .none, .milli (1000), .none⟩,
    ⟨"RF gain range [dB]", .milli (0), .none, .milli (24000)⟩,
    ⟨"RF bandwidth, -3 dB [MHz]", .milli (300000), .none, .none⟩,
    ⟨"RF ADC effective bits, 100 MHz input at 450 MS/s", .milli (8200), .milli (8800), .none⟩,
    ⟨"LD_VSET output for codes 0-1023 [V]", .milli (0), .none, .milli (1000)⟩,
    ⟨"LD_VSET load [kOhm]", .milli (10000), .none, .none⟩,
    ⟨"LD_VSET settling to half  LSB [us]", .none, .none, .milli (2000)⟩ ]

/-- Table 18.9 (ch. 18 R438): Iron's drivers; the trip levels are those of R194. -/
def drivers : List Limit :=
  [ ⟨"Spindle bridge resistance, high plus low side [Ohm]", .none, .milli (600), .milli (900)⟩,
    ⟨"Spindle ILIM error [% of setting]", .milli (-10000), .none, .milli (10000)⟩,
    ⟨"Spindle trip [A]", .milli (1300), .milli (1500), .milli (1700)⟩,
    ⟨"Back-EMF comparator offset [mV]", .milli (-10000), .none, .milli (10000)⟩,
    ⟨"Sled phase current error, at 100 mA and above [%]", .milli (-5000), .none, .milli (5000)⟩,
    ⟨"Sled bridge resistance [Ohm]", .none, .milli (1000), .milli (1500)⟩,
    ⟨"Sled trip [A]", .milli (500), .milli (600), .milli (700)⟩,
    ⟨"Focus full scale [mA]", .milli (242000), .milli (250000), .milli (258000)⟩,
    ⟨"Focus trip [A]", .milli (360), .milli (400), .milli (440)⟩,
    ⟨"Tracking full scale [mA]", .milli (194000), .milli (200000), .milli (206000)⟩,
    ⟨"Tracking trip [A]", .milli (290), .milli (320), .milli (350)⟩,
    ⟨"Tilt full scale [mA]", .milli (145000), .milli (150000), .milli (155000)⟩ ]
  ++ [ ⟨"Tilt trip [A]", .milli (220), .milli (250), .milli (280)⟩,
    ⟨"Actuator current bandwidth, -3 dB, into 8 Ohm and 50 uH [kHz]", .milli (40000), .none, .none⟩,
    ⟨"Loader LDR_ILIM error [%]", .milli (-10000), .none, .milli (10000)⟩,
    ⟨"Loader trip [A]", .milli (1000), .milli (1200), .milli (1400)⟩ ]

/-- Table 18.11 (ch. 18 R442): the sideband target, beside the Fm+ timing. -/
def sideband : List Limit :=
  [ ⟨"SCL frequency [kHz]", .milli (0), .none, .milli (1000000)⟩,
    ⟨"SDA output data valid after SCL falls [ns]", .milli (50000), .none, .milli (450000)⟩,
    ⟨"Input spike suppression [ns]", .milli (50000), .none, .none⟩,
    ⟨"Terminal capacitance [pF]", .none, .none, .milli (10000)⟩,
    ⟨"Bus capacitance [pF]", .none, .none, .milli (550000)⟩ ]

/-- Table 18.12 (ch. 18 R443): the write-pulse interface at the module balls. -/
def writePulse : List Limit :=
  [ ⟨"Differential swing, VOD [mV]", .milli (250000), .milli (350000), .milli (450000)⟩,
    ⟨"Common mode [V]", .milli (1000), .milli (1200), .milli (1400)⟩,
    ⟨"Rise and fall time, 20-80 % [ps]", .none, .milli (80000), .milli (120000)⟩,
    ⟨"Skew within a pair [ps]", .none, .none, .milli (10000)⟩,
    ⟨"Edge placement from grid, pair-to-pair skew included [ps]", .scaled "T" (-1) 64 0, .none, .scaled "T" 1 64 0⟩,
    ⟨"LD_EN fall after the strobe that drops it [ns]", .none, .none, .milli (50000)⟩,
    ⟨"LDS_CLK frequency [MHz]", .milli (1000), .none, .milli (12000)⟩,
    ⟨"LDS_SEL_N low before the first LDS_CLK rise [clock periods]", .milli (1000), .none, .none⟩,
    ⟨"LDS_DATA from Pewter valid before LDS_CLK rises [ns]", .scaled "T_clk" 1 2 (-10000), .none, .none⟩,
    ⟨"LDS_DATA from the pickup: set-up to LDS_CLK rise [ns]", .milli 20000, .none, .none⟩,
    ⟨"LDS_DATA from the pickup: hold to LDS_CLK rise [ns]", .milli 5000, .none, .none⟩ ]

/-- Table 18.13 (ch. 18 R444): Yelxo-B. -/
def yelxoB : List Limit :=
  [ ⟨"Driver output impedance [Ohm]", .milli (36000), .milli (45000), .milli (54000)⟩,
    ⟨"Rise and fall time into 10 pF [ns]", .milli (300), .none, .milli (1500)⟩,
    ⟨"Receiver hysteresis [mV]", .milli (100000), .none, .none⟩,
    ⟨"Load at the far end [pF]", .none, .none, .milli (10000)⟩,
    ⟨"Handshake cycle, 8 bits per direction, 150 mm trace [ns]", .none, .milli (16000), .milli (36000)⟩ ]

/-- Table 18.17 (ch. 18 R448): the components the board must fit, by net. -/
def boardComponents : List (String × String) :=
  [ ("VIN", "2 x 10 uF, 25 V, X7R, within 3 mm of the VIN terminals, and the hold-up C at least 2 x P x 2 ms / (LOSS_TH^2 - 16 V^2) under R342"),
    ("SW_MA-SW_MB, VMOT", "2.2 uH, saturation at least 3 A; 2 x 22 uF on VMOT"),
    ("SW_IO, VIO", "2.2 uH; 22 uF at Iron; 1 uF for every 4 module VIO balls"),
    ("SW_D2, VDD2", "1.0 uH; 22 uF at Iron; 4 x 1 uF at the module"),
    ("SW_CORE, VCORE", "0.47 uH, saturation at least 4 A; 2 x 22 uF at Iron, 4 x 10 uF and 8 x 1 uF at the module; 150 uF total at most; VCORE_SNS routed from ball E15"),
    ("VDD1, VDDQ, VAN", "4.7 uF at Iron; 1 uF at the module"),
    ("VPU", "10-47 uF at the pickup connector"),
    ("VREF_PU", "470 nF to AVSS at ball L2"),
    ("VBAT_KEEP", "1 uF") ]

/-- Table 18.3 (ch. 18 R432): the GW4410-PD terminals of Iron, each a signal and its lead or land. -/
def ironPdTerminals : List (String × String) :=
  [ ("VIN", "1"),
    ("VIN", "2"),
    ("VINS", "3"),
    ("PGND", "4"),
    ("PGND", "10"),
    ("PGND", "17"),
    ("PGND", "31"),
    ("PGND", "35"),
    ("PGND", "48"),
    ("PGND", "C3"),
    ("PGND", "C4"),
    ("PGND", "C5") ]
  ++ [ ("PGND", "D3"),
    ("PGND", "D4"),
    ("PGND", "D5"),
    ("PGND", "E3"),
    ("PGND", "E4"),
    ("PGND", "E5"),
    ("AGND", "21"),
    ("SW_MA", "5"),
    ("SW_MB", "6"),
    ("VMOT", "7"),
    ("VMOT", "8"),
    ("VPU", "9") ]
  ++ [ ("SW_IO", "11"),
    ("VIO", "12"),
    ("VDD1", "13"),
    ("SW_D2", "14"),
    ("VDD2", "15"),
    ("VDDQ", "16"),
    ("SW_CORE", "18"),
    ("VCORE_SNS", "19"),
    ("VAN", "20"),
    ("SPU", "32"),
    ("SPV", "33"),
    ("SPW", "34") ]
  ++ [ ("LDR_P", "36"),
    ("LDR_N", "37"),
    ("SLA_P", "38"),
    ("SLA_N", "39"),
    ("SLB_P", "40"),
    ("SLB_N", "41"),
    ("FOC_P", "42"),
    ("FOC_N", "43"),
    ("TRK_P", "44"),
    ("TRK_N", "45"),
    ("TLT_P", "46"),
    ("TLT_N", "47") ]
  ++ [ ("MRST_N", "22"),
    ("SDA", "23"),
    ("SCL", "24"),
    ("ADDR_SEL", "25"),
    ("WDOG_N", "26"),
    ("EJECT_N", "27"),
    ("VBAT_KEEP", "28"),
    ("X32_IN", "29"),
    ("X32_OUT", "30"),
    ("HU", "C6"),
    ("HV", "C7"),
    ("HW", "D6") ]
  ++ [ ("HOME_N", "D7"),
    ("TRAY_IN_N", "E6"),
    ("TRAY_OUT_N", "E7"),
    ("YBM_D_0", "A1"),
    ("YBM_D_1", "A2"),
    ("YBM_D_2", "A3"),
    ("YBM_D_3", "A4"),
    ("YBM_D_4", "A5"),
    ("YBM_D_5", "A6"),
    ("YBM_D_6", "A7"),
    ("YBM_D_7", "B1"),
    ("YBM_D_8", "B2") ]
  ++ [ ("YBM_D_9", "B3"),
    ("YBM_D_10", "B4"),
    ("YBM_D_11", "B5"),
    ("YBM_D_12", "B6"),
    ("YBM_D_13", "B7"),
    ("YBM_D_14", "C1"),
    ("YBM_D_15", "C2"),
    ("YBM_ACK", "D1"),
    ("YBI_D_0", "G1"),
    ("YBI_D_1", "G2"),
    ("YBI_D_2", "G3"),
    ("YBI_D_3", "G4") ]
  ++ [ ("YBI_D_4", "G5"),
    ("YBI_D_5", "G6"),
    ("YBI_D_6", "G7"),
    ("YBI_D_7", "F1"),
    ("YBI_D_8", "F2"),
    ("YBI_D_9", "F3"),
    ("YBI_D_10", "F4"),
    ("YBI_D_11", "F5"),
    ("YBI_D_12", "F6"),
    ("YBI_D_13", "F7"),
    ("YBI_D_14", "E1"),
    ("YBI_D_15", "E2") ]
  ++ [ ("YBI_ACK", "D2") ]

/-- Table 18.3 (ch. 18 R432): the GW4410-P terminals of Iron. -/
def ironPTerminals : List (String × String) :=
  [ ("VIN", "13"),
    ("VIN", "14"),
    ("VINS", "15"),
    ("PGND", "36"),
    ("PGND", "D7"),
    ("PGND", "D8"),
    ("PGND", "D9"),
    ("PGND", "E7"),
    ("PGND", "E8"),
    ("PGND", "E9"),
    ("PGND", "F7"),
    ("PGND", "F8") ]
  ++ [ ("PGND", "F9"),
    ("PGND", "D4"),
    ("PGND", "D5"),
    ("PGND", "D6"),
    ("PGND", "E4"),
    ("PGND", "E5"),
    ("PGND", "E6"),
    ("PGND", "F4"),
    ("PGND", "F5"),
    ("PGND", "F6"),
    ("AGND", "D3"),
    ("AGND", "F1") ]
  ++ [ ("AGND", "F2"),
    ("AGND", "F3"),
    ("SW_MA", "16"),
    ("SW_MB", "17"),
    ("VMOT", "18"),
    ("VMOT", "19"),
    ("VPU", "20"),
    ("SW_IO", "C1"),
    ("VIO", "C2"),
    ("VDD1", "C3"),
    ("SW_D2", "C4"),
    ("VDD2", "C5") ]
  ++ [ ("VDDQ", "C6"),
    ("SW_CORE", "C7"),
    ("VCORE_SNS", "C8"),
    ("VAN", "C9"),
    ("SPU", "21"),
    ("SPV", "22"),
    ("SPW", "23"),
    ("LDR_P", "24"),
    ("LDR_N", "25"),
    ("SLA_P", "26"),
    ("SLA_N", "27"),
    ("SLB_P", "28") ]
  ++ [ ("SLB_N", "29"),
    ("FOC_P", "30"),
    ("FOC_N", "31"),
    ("TRK_P", "32"),
    ("TRK_N", "33"),
    ("TLT_P", "34"),
    ("TLT_N", "35"),
    ("MRST_N", "B9"),
    ("SDA", "D1"),
    ("SCL", "D2"),
    ("ADDR_SEL", "G9"),
    ("WDOG_N", "G8") ]
  ++ [ ("EJECT_N", "G7"),
    ("VBAT_KEEP", "E1"),
    ("X32_IN", "E2"),
    ("X32_OUT", "E3"),
    ("HU", "G1"),
    ("HV", "G2"),
    ("HW", "G3"),
    ("HOME_N", "G4"),
    ("TRAY_IN_N", "G5"),
    ("TRAY_OUT_N", "G6"),
    ("YBM_D_0", "A1"),
    ("YBM_D_1", "A2") ]
  ++ [ ("YBM_D_2", "A3"),
    ("YBM_D_3", "A4"),
    ("YBM_D_4", "A5"),
    ("YBM_D_5", "A6"),
    ("YBM_D_6", "A7"),
    ("YBM_D_7", "A8"),
    ("YBM_D_8", "A9"),
    ("YBM_D_9", "B1"),
    ("YBM_D_10", "B2"),
    ("YBM_D_11", "B3"),
    ("YBM_D_12", "B4"),
    ("YBM_D_13", "B5") ]
  ++ [ ("YBM_D_14", "B6"),
    ("YBM_D_15", "B7"),
    ("YBM_ACK", "B8"),
    ("YBI_D_0", "J1"),
    ("YBI_D_1", "J2"),
    ("YBI_D_2", "J3"),
    ("YBI_D_3", "J4"),
    ("YBI_D_4", "J5"),
    ("YBI_D_5", "J6"),
    ("YBI_D_6", "J7"),
    ("YBI_D_7", "J8"),
    ("YBI_D_8", "J9") ]
  ++ [ ("YBI_D_9", "H1"),
    ("YBI_D_10", "H2"),
    ("YBI_D_11", "H3"),
    ("YBI_D_12", "H4"),
    ("YBI_D_13", "H5"),
    ("YBI_D_14", "H6"),
    ("YBI_D_15", "H7"),
    ("YBI_ACK", "H8"),
    ("AUX_SNS", "H9") ]

/-- Table 18.4 (ch. 18 R432): the GW4410-P primary leads of Nickel. -/
def nickelTerminals : List (String × String) :=
  [ ("HV_IN", "1"),
    ("DRN", "3"),
    ("DRN", "4"),
    ("PGND_P", "6"),
    ("PGND_P", "7"),
    ("VDD_P", "8"),
    ("AC_VS", "9"),
    ("ISH_P", "10"),
    ("ISH_N", "11"),
    ("NC", "2"),
    ("NC", "5"),
    ("NC", "12") ]

end Sys2Proof.Machine.Electrical
end

