-- ==== Sys2Proof/WellFormed.lean ====
section
/-! DEFINITION. WellFormed.lean: the commands a sender can send. Each check follows from the width of a field or the implied
length of a payload; a meaning is total all the same, and gives an ill-formed command some effect. -/
namespace Sys2Proof

/-- A command block has 12 bytes at most (R121). -/
def cdbWf (cdb : List Byte) : Bool := decide (cdb.length ≤ 12)

/-- A vault key has 1 to 32 bytes (Table 4.10). -/
def vaultKeyWf (key : List Byte) : Bool := decide (1 ≤ key.length) && decide (key.length ≤ 32)

/-- The data of a read that succeeded. -/
def resultWf {α : Type} (r : ReadResult α) (p : α → Bool) : Bool :=
  match r with
  | .ok d => p d
  | .failed => true

/-- A servo code is 10 bits, two's complement (R150). -/
def servoCodeWf (c : Int) : Bool := decide (-512 ≤ c) && decide (c ≤ 511)

/-- RF samples: codes of 10 bits (R211). -/
def rfWf (rf : List RfSample) : Bool := rf.all fun x => servoCodeWf x.code && x.wob.all servoCodeWf

/-- A register access: a DW of the 16 KiB BAR0 (R33, R422), or a sideband address of 8 bits (R412). -/
def portWf : RegPort → Bool
  | .bar _ offset _ _ => decide (offset < 16384) && decide (offset % 4 = 0)
  | .sideband target addr _ => decide (target < 128) && decide (addr < 256)

/-- A configuration field holds what PCI Express lets it hold (R31, R32). -/
def cfgWf : CfgField → Bool
  | .numVfs n => decide (n < 65536)
  | .maxReadRequest b => [128, 256, 512, 1024, 2048, 4096].contains b
  | .maxPayload b => [128, 256, 512, 1024, 2048, 4096].contains b
  | .busMaster _ | .routingId _ | .msixEnable _ | .msixFunctionMask _ => true

/-- A command that a sender can send. -/
def Instr.wf : Instr → Bool
  | .sealedRead _ _ aad _ => decide (aad.length ≤ 65535)
  | .sealedWrite _ _ aad _ => decide (aad.length ≤ 65535)
  | .keyLoad _ _ key => decide (key.length = 16 || key.length = 32)
  | .keyLoadWrapped _ _ wrapped => decide (wrapped.length = 24 || wrapped.length = 40)
  | .sealBuffer _ _ aad _ => decide (aad.length ≤ 65535)
  | .openBuffer _ _ aad _ _ => decide (aad.length ≤ 65535)
  | .vaultGet _ _ key => vaultKeyWf key
  | .vaultPut _ _ key value => vaultKeyWf key && decide (1 ≤ value.length) && decide (value.length ≤ 4096)
  | .vaultDelete _ _ key => vaultKeyWf key
  | .foldSet _ rec => decide (rec.length = 64)
  | .loopRate _ payload => decide (payload.length = 16)
  | .loopBank _ payload => decide (payload.length = 160)
  | .bankSwap _ payload => decide (payload.length = 16)
  | .signal _ payload => decide (payload.length = 64)
  | .sequence _ payload => decide (payload.length = 64)
  | .servoResync _ payload => decide (payload.length = 16)
  | .apc _ payload => decide (payload.length = 16)
  | .spindle _ payload => decide (payload.length = 32)
  | .sled _ payload => decide (payload.length = 48)
  | .sledTable _ payload => decide (payload.length = 512)
  | .loader _ payload => decide (payload.length = 16)
  | .sledTableDefault _ payload => decide (payload.length = 16)
  | .channel _ payload => decide (payload.length = 64)
  | .secondLook _ payload => decide (payload.length = 16)
  | .channelDefault _ payload => decide (payload.length = 16)
  | .wstrat _ payload => decide (payload.length = 1088)
  | .wstratDefault _ payload => decide (payload.length = 16)
  | .lds _ payload => decide (payload.length = 16)
  | .capture _ payload => decide (payload.length = 16)
  | .timeSetStep _ rec => decide (rec.length = 16)
  | .timeSetSlew _ rec => decide (rec.length = 16)
  | .tariffSet _ rec => decide (rec.length = 64)
  | .fwDownload _ image => decide (256 ≤ image.length) && decide (image.length ≤ 65536) && decide (image.length % 256 = 0)
  | .testUnitReady _ _ cdb => cdbWf cdb
  | .requestSense _ _ cdb => cdbWf cdb
  | .formatUnit _ _ cdb _ => cdbWf cdb
  | .inquiry _ _ cdb => cdbWf cdb
  | .startStopUnit _ _ cdb => cdbWf cdb
  | .preventAllowMediumRemoval _ _ cdb => cdbWf cdb
  | .readFormatCapacities _ _ cdb => cdbWf cdb
  | .readCapacity _ _ cdb => cdbWf cdb
  | .read10 _ _ cdb => cdbWf cdb
  | .read12 _ _ cdb => cdbWf cdb
  | .write10 _ _ cdb => cdbWf cdb
  | .write12 _ _ cdb => cdbWf cdb
  | .verify10 _ _ cdb => cdbWf cdb
  | .synchronizeCache _ _ cdb => cdbWf cdb
  | .readTocPmaAtip _ _ cdb => cdbWf cdb
  | .getConfiguration _ _ cdb => cdbWf cdb
  | .getEventStatusNotification _ _ cdb => cdbWf cdb
  | .readDiscInformation _ _ cdb => cdbWf cdb
  | .readTrackInformation _ _ cdb => cdbWf cdb
  | .mmcReserveTrack _ _ cdb => cdbWf cdb
  | .modeSense10 _ _ cdb => cdbWf cdb
  | .closeTrackSession _ _ cdb => cdbWf cdb
  | .readDiscStructure _ _ cdb => cdbWf cdb
  | .setCdSpeed _ _ cdb => cdbWf cdb
  | .readCd _ _ cdb => cdbWf cdb
  | .descriptorConsume _ _ r => resultWf r (fun (l : List RawDesc) => decide (l.length ≤ 8))
  | .grantTableRead _ _ r => resultWf r (fun (l : List RawGrant) => decide (l.length ≤ 16))
  | .registerWrite p => portWf p
  | .sbRead target pointer _ => decide (target < 128) && decide (pointer ≤ 255)
  | .sbWake target _ => decide (target < 128)
  | .sbServe target _ => decide (target < 128)
  | .sbIgnoredClear target => decide (target < 128)
  | .servoSampleArrival c => c.toList.all servoCodeWf
  | .loopComputeDone left period => decide (left ≤ period)
  | .focusOn layer => decide (layer ≤ 2)
  | .trackJump tracks _ => decide (1 ≤ tracks) && decide (tracks ≤ 255)
  | .layerJump layer => decide (layer ≤ 2)
  | .acquisitionLock rf => rfWf rf
  | .slip rf => rfWf rf
  | .lossOfLock rf => rfWf rf
  | .relockTimeout rf => rfWf rf
  | .defectFlagSet rf => rfWf rf
  | .defectFlagClear rf => rfWf rf
  | .unitDecode u => rfWf u.rf
  | .secondLookPassEnd u => rfWf u.rf
  | .physicalReread u => rfWf u.rf
  | .alloc requester _ => decide (requester ≤ 31)
  | .share requester index => decide (requester ≤ 31) && decide (index < 32768)
  | .drop requester index => decide (requester ≤ 31) && decide (index < 32768)
  | .free requester index => decide (requester ≤ 31) && decide (index < 32768)
  | .pass requester index new => decide (requester ≤ 31) && decide (new ≤ 31) && decide (index < 32768)
  | .scrubBurst flips => flips.all (fun (x : Nat × BitVec 64 × BitVec 8) => decide (x.1 < 112 * 1048576 / 8))
  | .configurationWrite _ c => cfgWf c
  | .nop .. | .identifyDisc .. | .load .. | .eject .. | .lockMedium .. | .unlockMedium ..
  | .spin .. | .seekHint .. | .read .. | .readRaw .. | .write .. | .verify .. | .closeTrack ..
  | .closeSession .. | .finalise .. | .formatQuick .. | .formatFull .. | .formatFullCertify ..
  | .reserveTrack .. | .keyClear .. | .vaultList .. | .scan .. | .energyReadSnapshot ..
  | .energyReadRing .. | .telemetry .. | .timeRead .. | .grantInvalidate ..
  | .grantInvalidateAll .. | .energyClose .. | .collieArm .. | .collieDisarm .. | .collieServe ..
  | .modeSetVigil .. | .modeSetDoze .. | .modeSetIdle .. | .modeSetService .. | .calibrate ..
  | .fwActivateTry .. | .fwActivateConfirm .. | .logRead .. | .doorbellPoll .. | .pollResult ..
  | .sleepEnter .. | .finalTailRead .. | .dbpWake .. | .statusBlockWrite .. | .headRead ..
  | .descriptorFetch | .listRead .. | .grantReread .. | .requestGranted | .descriptorStart ..
  | .droverDispatch | .mechanismFree | .descriptorTimeout .. | .hostDataRead ..
  | .completionPost .. | .coalTimeExpiry .. | .wringEnable .. | .wringDisable .. | .wringAbort ..
  | .dringEnable .. | .dringDisable .. | .dringReconfigure .. | .dbpEnable .. | .dbpDisable ..
  | .flrFold .. | .foldResetComplete .. | .flrFold0 | .perstN | .vfEnableClear | .vfEnableSet
  | .pwrLinkStatClear .. | .gntBaseWrite .. | .gntCtlWrite .. | .gntStatClear | .penFlush ..
  | .fqRejectClear | .fqWaitClear .. | .fqAuditStart | .auditDone | .wayOff .. | .wayWalkDone
  | .wayOn .. | .capDataRead | .capDrop | .eccBktStatClear .. | .eccCountClear .. | .scrubStatClear
  | .eccFlipArm .. | .mramRawProgram | .mramRawRead .. | .cphLockTake | .cphLockRelease
  | .cphKatStart | .cphKatDone .. | .cphStatClear | .kprTickLoRead | .wdgCtlWrite .. | .haltAck ..
  | .haltRelease | .govWrite .. | .govStatClear | .pwrStatClear
  | .collieTokenLatch | .collieExpiry | .wdogPulseEnd | .internalWatchdogServe ..
  | .internalWatchdogExpiry | .bronzeRestart | .clockTrip .. | .oscillatorResume ..
  | .logBlockCommit | .bootFailsClear | .keeperPowerUp .. | .startUp | .drainComplete | .park
  | .autoDoze | .pcieRequestWake .. | .inputLoss .. | .inputLossRailDown | .inputReturn
  | .mainsStart .. | .mainsStop | .regulationLoss | .regulationRestart | .railFault ..
  | .railFaultRestart | .thermalReading .. | .thermalRailDown | .thermalRestart .. | .paceChange
  | .governorFrame .. | .keeperToBattery | .keeperToVin | .vbatMeasure .. | .keeperLost
  | .keeperMirrorCommit | .meterUpdate .. | .intervalBoundary | .timeStep | .slewEnd | .calendarEnd
  | .loopStrobe | .overrunLimit | .defectLong | .pickupOpen | .apcLimit | .puTempOpen
  | .puTempClear | .bankSwapApply | .trackOn .. | .trackOnTimeout | .jumpTimeout
  | .layerJumpTimeout .. | .servoPacketBad | .channelPacketBad .. | .controlPacketArrival ..
  | .yelxoBCommandFrame .. | .linkStall .. | .loopTickLoss | .tbLock | .spindleStart ..
  | .forcedStep .. | .startCoastEnd | .zeroCrossing .. | .commutate | .hallEdge ..
  | .hallInvalid .. | .spinStall | .bridgeOc .. | .spinCeilingSet | .spinCeilingClear
  | .spindleStopped | .sledUpdate | .sledSeek .. | .seekSettleEnd | .sledRecover .. | .sledHome
  | .homeNChange .. | .trayInNChange .. | .trayOutNChange .. | .ejectButton | .loaderJam
  | .solenoidPulseEnd | .solenoidTimeout | .addressAccept .. | .readAhead | .speculativeSeek | .penCopyExpire .. | .opc ..
  | .unitRecorded .. | .underrun | .readbackDone .. | .ldsTransaction .. | .captureTrigger | .capturePacket
  | .stackRefill | .stackSpill | .bucketLeak .. | .mramScrubRead .. | .mramPageProgram ..
  | .lockGrant | .tagVerify | .lockRelease | .cipherParityFault | .nonceReservation ..
  | .x32CrystalStart | .tokenBucketRefill .. | .memoryResetRequest .. => true

end Sys2Proof
end

