-- ==== Sys2Proof/Safety.lean ====
section
/-! DEFINITION. Safety.lean: what counts as a safe run of the block, and the properties of a state that claims speak of. -/
namespace Sys2Proof.Machine

/-- A step goes on: it answers a next state. -/
def StepOk (s : State) : Prop := ∃ t : State, step s = .next t

/-- Every fold is as before but for its descriptors. -/
def FoldsKeep (s t : State) : Prop := ∀ g : FoldId, t.fold g = { s.fold g with descs := (t.fold g).descs }

/-- From s to t, descriptor k of fold f ended with a status and a byte count (R99, R106): it waits for its completion and holds
nothing of a buffer request. No field of a fold but its descriptors has changed, no other descriptor but one that waits for
buffers, and nothing else of the machine but the pool's free store and the queue of CPH_LOCK. -/
structure EndsAs (s t : State) (f : FoldId) (k : Nat) (st : Status) (bytes : Nat) : Prop where
  ended : ∀ d : Desc, s.desc? f k = some d →
    t.desc? f k = some { d with stage := .done, status := st, bytes := bytes, aside := [], want := 0 }
  others : ∀ (g : FoldId) (j : Nat), g ≠ f ∨ j ≠ k → (g, j) ∉ s.pool.queue → t.desc? g j = s.desc? g j
  folds : FoldsKeep s t
  rest : t = { s with folds := t.folds, pool := t.pool, cph := { s.cph with waiters := t.cph.waiters } }
  held : t.pool.bufs = s.pool.bufs

/-- From s to t, the command on the mechanism ended with a status and a byte count (R51, R106): its descriptor has them, and the
mechanism is about to be free. Nothing else has changed. -/
structure JobEndsAs (s t : State) (st : Status) (bytes : Nat) : Prop where
  job : ∀ j : Job, s.job = some j → t.job = some { j with ended := true } ∧
    ∀ d : Desc, s.desc? j.f j.k = some d → t.desc? j.f j.k = some { d with status := st, bytes := bytes }
  others : ∀ (j : Job) (g : FoldId) (i : Nat), s.job = some j → g ≠ j.f ∨ i ≠ j.k → t.desc? g i = s.desc? g i
  folds : FoldsKeep s t
  rest : t = { s with folds := t.folds, job := t.job }

/-- A profile row in a state: where fold 0's descriptor k is a started PROFILE LOAD of the row's type, a payload that is good
applies whole, from u on, and the descriptor ends OK with its LENGTH; any other payload ends it BAD_FIELD and changes nothing
(R179). -/
def ProfileTaken (c : Instr) (s : State) (k ty : Nat) (good : Prop) (u : State) : Prop :=
  ∀ d : Desc, runningAs s 0 k .profileLoad = some d → bits d.fld.opfield 7 0 = ty →
    (good → ∃ t : State, exec c s = .next t ∧ EndsAs u t 0 k .ok d.fld.length) ∧
    (¬ good → ∃ t : State, exec c s = .next t ∧ EndsAs s t 0 k .badField 0)

/-- Descriptor k of fold f is an accepted MMC PASS, not yet started, whose command block, cut to AAD_LEN and padded with zeros, is c
and holds that operation code (R121). -/
structure MmcReads (s : State) (f : FoldId) (k : Nat) (cdb : List Byte) (code : Nat) (d : Desc) (c : List Byte) : Prop where
  found : s.desc? f k = some d
  op : d.op = .mmcPass
  stage : d.stage = .ready
  fresh : d.startedAt = none
  block : c = mmcBlock d cdb
  code : byteAt c 0 = code

/-- A descriptor with nothing to write. -/
def emptied (s : State) (f : FoldId) (k : Nat) : State := s.modDesc f k fun d => { d with writes := [], aux := [] }

/-- The engine is the descriptor's: it holds CPH_LOCK and u is the state, or the lock is free, nobody waits for it, and u is the
state with the lock taken for requester r (R324). -/
def LockFor (s : State) (r : Nat) (f : FoldId) (k : Nat) (u : State) : Prop :=
  lockHeldBy s f k = true ∧ u = s ∨ lockHeldBy s f k = false ∧ s.cph.owner = 15 ∧ s.cph.waiters = [] ∧ u = takeLock s r f k

/-- The fields of a native opcode pass step 1 of R104: COUNT within the fold's MAX_BLOCKS, OPFIELD and OPDATA in their ranges, and
LENGTH not below what the opcode implies. -/
structure NativeOk (s : State) (f : FoldId) (o : Op) (x : Fields) : Prop where
  count : countBad o x (s.fold f).record.maxBlocks = false
  field : fieldBad o x = false
  length : ∀ n : Nat, implied o x s.disc = some n → n ≤ x.length

/-- Descriptor k of fold f has started and ends in t with status OK, with l for its host buffer; n words were drawn in all. -/
def Replies (s t : State) (f : FoldId) (k n : Nat) (l : List Byte) : Prop :=
  EndsAs ((noteStart { s with draws := n } f k).modDesc f k fun e => { e with writes := e.writes ++ scatterAt e.list 0 l }) t f k
    .ok l.length

/-- From s to t the faults of a period have stopped the mechanism (R178, R201, R207, R390, R391): none waits any more; HALT is
entered, or its 1 ms begins anew with the first cause kept; laser and recording are off, every loop is open, APC's, the spindle's and
the sled's output at zero and the others' at the start of their ramp to zero, the spindle coasts unless it stands still, the sled
has no current and is lost, and the loader's drive is off. Power, keeper, records and platform are as before. -/
structure Halts (s t : State) (cause : Nat) : Prop where
  halt : t.halt = { s.halt with
    pend := []
    inHalt := true
    seq := s.halt.seq + 1
    at_ := s.us
    acked := false
    cause := if s.halt.inHalt then s.halt.cause else cause }
  laser : t.servo.ldEn = false ∧ t.servo.wgate = false ∧ t.servo.fok = false ∧ t.servo.locked = false
  loops : ∀ i : Fin 6, (t.servo.loops.get i).closed = false ∧ (t.servo.loops.get i).held = false ∧
    (t.servo.loops.get i).next = none ∧ (t.servo.loops.get i).out = if 3 ≤ i.val then 0 else (s.servo.loops.get i).out
  ramp : t.servo.ramp = some (s.servo.ramp.getD
    (s.us, (s.servo.loops.get 0).out, (s.servo.loops.get 1).out, (s.servo.loops.get 2).out))
  spindle : t.spindle.st = if s.spindle.st = .stopped then .stopped else .coasting
  sled : t.sled.move = .rest ∧ t.sled.lost = true ∧ t.sled.ia = 0 ∧ t.sled.ib = 0
  loader : t.loader.drive = .none
  rest : t.pwr = s.pwr ∧ t.kpr = s.kpr ∧ t.mram = s.mram ∧ t.plat = s.plat

/-- Every waiting command is one that a sender can send. -/
def QueueOk (s : State) : Prop := ∀ c ∈ s.pending, c.wf = true

/-- A keyed list is canonical: keys strictly rising. -/
def keysRise {α : Type} : List (Nat × α) → Bool
  | [] => true
  | (k, _) :: r => r.all (fun (p : Nat × α) => decide (k < p.1)) && keysRise r

/-- A keyed list is in canonical form: keys strictly rising, and no entry equal to what an unlisted key reads as. -/
def listed {α : Type} [DecidableEq α] (unlisted : α) (l : List (Nat × α)) : Bool :=
  keysRise l && l.all fun (p : Nat × α) => decide (p.2 ≠ unlisted)

/-- Reserved bits of the writable platform registers are 0 (R423): each register lies within its fields' mask. -/
structure ReservedZero (s : State) : Prop where
  gntBase : s.plat.gntBaseLo &&& 0x00001FFF = 0
  penCtl : s.plat.penCtl &&& 0x0000FFFC = 0
  penDepth : s.plat.penDepth &&& 0xFFFF0000 = 0
  lossCfg : s.pwr.lossCfg &&& 0xFFFFFF00 = 0
  govCtl : s.pwr.gov.ctl &&& 0xC0F0C0FE = 0
  govLimit : s.pwr.gov.limit &&& 0xFFFFC0C0 = 0
  flipTarget : s.ecc.flipTarget &&& 0xFFFFFFF0 = 0
  flipAddr : s.ecc.flipAddr &&& 0xF0000007 = 0
  flipCheck : s.ecc.flipCheck &&& 0xFFFFFF00 = 0
  scrubCtl : s.ecc.scrubCtl &&& 0xFFFF0000 = 0
  strength : s.ecc.strength &&& 0xFFFF0000 = 0
  vrate : s.ecc.vrate &&& 0xFFFFFF80 = 0
  rawPage : s.ecc.rawPage &&& 0xFFFFC000 = 0
  wdgCtl : s.kpr.wdgCtl &&& 0xFFFF00FC = 0

/-- The keyed lists of the state are canonical: held buffers, WEAR, strengths of refreshed pages and raw pages, each by index
or page, rising, and the SDRAM's wrong bits and the wrong data it delivers, by word, with no right word listed, so that equal contents are
equal data. -/
structure Canonical (s : State) : Prop where
  bufs : keysRise s.pool.bufs = true
  wear : keysRise s.mram.wear = true
  strengthAt : keysRise s.mram.strengthAt = true
  raw : keysRise s.mram.raw = true
  sdram : listed (0, 0) s.ecc.sdram = true
  wrong : listed 0 s.ecc.wrong = true

/-- WGATE is high only while LD_EN is 1, and LD_EN is 0 in HALT, so that no recording goes on in HALT (R178, R238, R391). -/
structure BeamSafe (s : State) : Prop where
  gate : s.servo.wgate = true → s.servo.ldEn = true
  halted : s.halt.inHalt = true → s.servo.ldEn = false

/-- The invariant that every step keeps. -/
structure StateInv (s : State) : Prop where
  reserved : ReservedZero s
  canonical : Canonical s
  beam : BeamSafe s

end Sys2Proof.Machine
end

