-- ==== Sys2Proof/Certificates/Slice0/Obligations.lean ====
section
/-! DEFINITION. Certificates/Slice0/Obligations.lean: the statements for the provers. Each docstring says what its statement claims;
OBLIGATIONS.json lists them with the rules they rest on. -/

open Sys2Proof Sys2Proof.Machine

/-- A step takes the command at the front of the queue. With command c at the front of the queue, a step of the block is exec of
c on the state with the rest of the queue. -/
def Obligations.StepRunsTheFrontCommand : Prop :=
  ∀ (c : Instr) (rest : List Instr) (s : State), step { s with pending := c :: rest } = exec c { s with pending := rest }

/-- On an empty queue a step lets one microsecond pass (the model's choice, log entry 2). The spec gives no row for the passing
of time: with no command waiting, a step moves the interval timer on by one microsecond, and while the keeper runs it counts
32,768 ticks to a second; said for the steps in which nothing else is due (no bit to flip, no entry to a sleeping mode, no tray
pushed, no button). This is the model's choice, log entry 2. -/
def Obligations.IdleStepPassesAMicrosecond : Prop :=
  ∀ s : State, s.pending = [] → s.loader.button = false → s.loader.pushed = false → s.sys.entry = none →
    bits s.ecc.flipTarget 2 0 = 0 → ∃ t : State, step s = .next t ∧ t.us = s.us + 1 ∧
    (s.kpr.running = true → (s.kpr.crystalOk || s.kpr.rcOk) = true →
      t.phase = (if 1000000 ≤ s.phase + 32768 then s.phase + 32768 - 1000000 else s.phase + 32768) ∧
      t.kpr.tick = if 1000000 ≤ s.phase + 32768 then min (s.kpr.tick + 1) (2 ^ 48 - 1) else s.kpr.tick)

/-- Every command answers a next state and leaves the queue of waiting commands alone. For every command and every state that
meets the invariant, exec answers a next state, whose queue is the state's own: commands are taken first in, first out, and no
command ends a run. -/
def Obligations.EveryCommandGoesOnAndLeavesTheQueue : Prop :=
  ∀ (c : Instr) (s : State), StateInv s → ∃ t : State, exec c s = .next t ∧ t.pending = s.pending

/-- Every step keeps reserved bits at 0, the keyed lists canonical, and the beam safe. From every state with the invariant, a
step answers a next state with the invariant: the reserved bits of fourteen writable platform registers read 0, the pool's and
the MRAM's keyed lists stay canonical, WGATE is high only while LD_EN is 1, and LD_EN is 0 in HALT. -/
def Obligations.EveryStepKeepsTheInvariant : Prop :=
  ∀ s t : State, StateInv s → step s = .next t → StateInv t

/-- The state after reset meets the invariant, and its queue is empty. State.reset has the reserved bits at 0, canonical lists,
WGATE and LD_EN low, and no command waiting. -/
def Obligations.ResetMeetsTheInvariant : Prop :=
  StateInv State.reset ∧ State.reset.pending = [] ∧ State.reset.servo.wgate = false ∧ State.reset.servo.ldEn = false ∧
    State.reset.halt.inHalt = false

/-- A tail read from the doorbell page publishes 1 to N descriptors, none, or puts the ring in error. For an enabled work ring
without error that holds N entries, consumed to C, a tail T takes the descriptors up to T as published where (T - C) mod 2^32 is
at most N, is new work only where the difference is not 0, and puts the ring in error with code 0x1 where it is more than N; a
ring that is disabled or in error takes nothing. -/
def Obligations.TailsAreJudgedByTheDifference : Prop :=
  ∀ (s : State) (f : FoldId) (n : RingId) (T : Word),
    ((s.wring f n).en = true → (s.wring f n).err = 0 → (T - (s.wring f n).cons).toNat = 0 →
      (takeTail s f n T).2 = false ∧ ((takeTail s f n T).1.wring f n).tail = (s.wring f n).cons ∧
        ((takeTail s f n T).1.wring f n).err = 0) ∧
    ((s.wring f n).en = true → (s.wring f n).err = 0 → 1 ≤ (T - (s.wring f n).cons).toNat →
      (T - (s.wring f n).cons).toNat ≤ 2 ^ (s.wring f n).log2 →
      takeTail s f n T = (s.modWring f n fun w => { w with tail := T }, T != (s.wring f n).tail)) ∧
    ((s.wring f n).en = true → (s.wring f n).err = 0 → 2 ^ (s.wring f n).log2 < (T - (s.wring f n).cons).toNat →
      takeTail s f n T = (wringError s f n 1, false)) ∧
    ((s.wring f n).en = false ∨ (s.wring f n).err ≠ 0 → takeTail s f n T = (s, false))

/-- Polling, sleeping, the final tail read, head reads, status blocks and coalesced messages. A poll that is due issues one read
of 72 bytes; its data refreshes both heads and takes the four tails, and the interval goes to 1 us on a new tail and otherwise
doubles up to 64 us; a failed read faults the page. When SLEEP_AFTER (16 counted as the least) has passed, SLEEPING is set,
SLEEP_SEQ rises, the status block is written and the tails are read again; that read stops polling or wakes the fold. A changed
block is written, a head read takes the head, and a message whose COAL_TIME has passed is sent. -/
def Obligations.PollingFollowsTheDoorbellProtocol : Prop :=
  (∀ (s : State) (f : FoldId), pollDue s f = true → exec (.doorbellPoll f) s = .next
    ((s.modDbp f fun d => { d with polling := true, pollNow := false, issuedAt := s.us }).emit
      (.readReq f (dbpBase (s.fold f).dbp) 72))) ∧
  (∀ (s u : State) (f : FoldId) (p : PollData) (new : Bool), (s.fold f).dbp.polling = true → (s.fold f).dbp.finalRead = false →
    (s.fold f).dbp.en = true → (s.fold f).dbp.stale = false →
    takeTails (takeHead f 1 p.head1 (takeHead f 0 p.head0 (s.modDbp f fun d => { d with polling := false }))) f p = (u, new) →
    exec (.pollResult f (.ok p)) s = .next (u.modDbp f fun d =>
      if new then { d with interval := 1, newTailAt := d.issuedAt } else { d with interval := min 64 (2 * d.interval) })) ∧
  (∀ (s : State) (f : FoldId), (s.fold f).dbp.polling = true → (s.fold f).dbp.finalRead = false → (s.fold f).dbp.en = true →
    (s.fold f).dbp.stale = false →
    exec (.pollResult f .failed) s = .next (pageFault (s.modDbp f fun d => { d with polling := false }) f)) ∧
  (∀ (s : State) (f : FoldId) (r : ReadResult PollData), (s.fold f).dbp.polling = true → (s.fold f).dbp.finalRead = false →
    (s.fold f).dbp.stale = true ∨ (s.fold f).dbp.en = false →
    exec (.pollResult f r) s = .next (s.modDbp f fun d => { d with polling := false, stale := false })) ∧
  (∀ (s : State) (f : FoldId), pollingMode s = true → canMaster s f = true → (s.fold f).dbp.en = true →
    (s.fold f).dbp.sleeping = false → (s.fold f).dbp.stopped = false → (s.fold f).dbp.polling = false →
    (s.fold f).dbp.newTailAt + max 16 (s.fold f).dbp.sleepAfter ≤ s.us →
    ∃ t : State, exec (.sleepEnter f) s = .next t ∧ (t.fold f).dbp.sleeping = true ∧
      (t.fold f).dbp.sleepSeq = (s.fold f).dbp.sleepSeq + 1 ∧ (t.fold f).dbp.finalRead = true ∧ (t.fold f).dbp.dirty = false ∧
      (∃ b : List Byte, b.length = 64 ∧ t.out = s.out ++ [.write f (dbpBase (s.fold f).dbp + 0x80) b,
        .readReq f (dbpBase (s.fold f).dbp) 16]) ∧
      t = { s with folds := t.folds, out := t.out, sys := { s.sys with quietSince := s.us } }) ∧
  (∀ (s u : State) (f : FoldId) (p : PollData), (s.fold f).dbp.finalRead = true → (s.fold f).dbp.en = true →
    (s.fold f).dbp.stale = false →
    takeTails (s.modDbp f fun d => { d with finalRead := false, polling := false }) f p = (u, false) →
    (u.fold f).dbp.sleeping = true →
    exec (.finalTailRead f (.ok p)) s = .next (u.modDbp f fun d => { d with stopped := true })) ∧
  (∀ (s u : State) (f : FoldId) (p : PollData), (s.fold f).dbp.finalRead = true → (s.fold f).dbp.en = true →
    (s.fold f).dbp.stale = false →
    takeTails (s.modDbp f fun d => { d with finalRead := false, polling := false }) f p = (u, true) →
    exec (.finalTailRead f (.ok p)) s = .next (statusBlock (u.modDbp f fun d => { d with
      interval := 1, stopped := false, newTailAt := u.us, sleeping := false, pollNow := false, issuedAt := u.us }) f)) ∧
  (∀ (s : State) (f : FoldId), (s.fold f).dbp.dirty = true → (s.fold f).dbp.en = true → canMaster s f = true →
    exec (.statusBlockWrite f) s = .next ((s.emit (.write f (dbpBase (s.fold f).dbp + 0x80) (statusBytes (s.fold f)))).modDbp f
      fun d => { d with dirty := false, blockAt := s.us })) ∧
  (∀ (s : State) (f : FoldId) (m : DringId) (h : Word), (s.fold f).dbp.en = true → canMaster s f = true → pollingMode s = true →
    (s.dring f m).held ≠ [] ∨ dringSpace (s.dring f m) = false → (s.dring f m).en = true → (s.dring f m).err = 0 →
    ((s.dring f m).posted - h).toNat ≤ 2 ^ (s.dring f m).log2 → exec (.headRead f m (.ok h)) s = .next (drainHeld
      ((s.emit (.readReq f (dbpBase (s.fold f).dbp + 0x40 + 4 * m.val) 4)).modDring f m fun r => { r with head := h }) f m)) ∧
  (∀ (s : State) (f : FoldId) (m : DringId) (h : Word), (s.fold f).dbp.en = true → canMaster s f = true → pollingMode s = true →
    (s.dring f m).held ≠ [] ∨ dringSpace (s.dring f m) = false → (s.dring f m).en = true → (s.dring f m).err = 0 →
    2 ^ (s.dring f m).log2 < ((s.dring f m).posted - h).toNat → exec (.headRead f m (.ok h)) s =
      .next (dringError (s.emit (.readReq f (dbpBase (s.fold f).dbp + 0x40 + 4 * m.val) 4)) f m 5)) ∧
  (∀ (s : State) (f : FoldId) (m : DringId) (at_ : Nat), (s.dring f m).oldest = some at_ → 0 < (s.dring f m).pend →
    at_ + (s.dring f m).coalTime ≤ s.us → exec (.coalTimeExpiry f m) s =
      .next (sendMsix (s.modDring f m fun r => { r with pend := 0, oldest := none }) f (s.dring f m).vec))

/-- Work rings, done rings and the doorbell page are enabled, changed and disabled by their registers. A write that sets EN on
an idle work ring takes DRING and LOG2_SIZE and starts the index at 0, a changed index calling for a status block; a size outside 16 to 4096 entries or a disabled done ring
is error 0x4. Clearing EN drops the error and the history. A done ring's EN starts POSTED and HEAD at 0, EN kept at 1 changes
only VEC, COAL_COUNT and COAL_TIME, and clearing it while a work ring that names it is enabled or busy does nothing. DBP_CTL.EN
takes SLEEP_AFTER and starts polling at 1 us; clearing it stops polling, makes a read still out stale, and clears SLEEPING and
POLL_FAULT. -/
def Obligations.RingsAndTheDoorbellPageAreSetUp : Prop :=
  (∀ (s : State) (f : FoldId) (n : RingId) (v : Word), barUp s f = true → (s.wring f n).en = false → ringBusy s f n = false →
    4 ≤ bits v 7 4 → bits v 7 4 ≤ 12 → (s.dring f (if bit v 2 then 1 else 0)).en = true →
    exec (.wringEnable f n v) s = .next ((s.modWring f n fun w => { w with
      dring := if bit v 2 then 1 else 0, log2 := bits v 7 4, en := true, err := 0, cons := 0, tail := 0 }).modDbp f fun d =>
        { d with dirty := d.dirty || (s.wring f n).cons != 0 })) ∧
  (∀ (s : State) (f : FoldId) (n : RingId) (v : Word), barUp s f = true → (s.wring f n).en = false → ringBusy s f n = false →
    bits v 7 4 < 4 ∨ 12 < bits v 7 4 ∨ (s.dring f (if bit v 2 then 1 else 0)).en = false →
    exec (.wringEnable f n v) s = .next (wringError (s.modWring f n fun w => { w with
      dring := if bit v 2 then 1 else 0, log2 := bits v 7 4 }) f n 4)) ∧
  (∀ (s : State) (f : FoldId) (n : RingId), barUp s f = true → exec (.wringDisable f n) s =
    .next (s.modWring f n fun w => { w with en := false, err := 0, hist := [], stale := w.fetching })) ∧
  (∀ (s : State) (f : FoldId) (m : DringId) (v : Word), barUp s f = true → (s.dring f m).en = false →
    4 ≤ bits v 7 4 → bits v 7 4 ≤ 12 → exec (.dringEnable f m v) s = .next ((s.modDring f m fun r => { r with
      vec := Fin.ofNat 8 (bits v 3 1), coalCount := bits v 15 8, coalTime := bits v 31 16, log2 := bits v 7 4, en := true, err := 0,
      posted := 0, head := 0, pend := 0, oldest := none, held := [], lostEvents := 0 }).modDbp f fun d =>
        { d with dirty := d.dirty || (s.dring f m).posted != 0 })) ∧
  (∀ (s : State) (f : FoldId) (m : DringId) (v : Word), barUp s f = true → (s.dring f m).en = true →
    exec (.dringReconfigure f m v) s = .next (s.modDring f m fun r => { r with
      vec := Fin.ofNat 8 (bits v 3 1), coalCount := bits v 15 8, coalTime := bits v 31 16 })) ∧
  (∀ (s : State) (f : FoldId) (m : DringId), barUp s f = true → dringNamed s f m = false → exec (.dringDisable f m) s =
    .next ((s.modDring f m fun r => { r with
      en := false, err := 0, posted := 0, head := 0, held := [], lostEvents := 0, pend := 0, oldest := none }).modDbp f fun d =>
        { d with dirty := d.dirty || (s.dring f m).posted != 0 })) ∧
  (∀ (s : State) (f : FoldId) (m : DringId), barUp s f = true → dringNamed s f m = true → exec (.dringDisable f m) s = .next s) ∧
  (∀ (s : State) (f : FoldId) (v : Word), barUp s f = true → (s.fold f).dbp.en = false → exec (.dbpEnable f v) s =
    .next (s.modDbp f fun d => { d with
      en := true, sleepAfter := bits v 31 16, sleeping := false, finalRead := false, issuedAt := s.us, blockAt := s.us, interval := 1,
      stopped := false, pollNow := true, newTailAt := s.us })) ∧
  (∀ (s : State) (f : FoldId), barUp s f = true → exec (.dbpDisable f) s = .next (s.modDbp f fun d => { d with
    en := false, stopped := true, stale := d.polling, finalRead := false, pollNow := false, sleeping := false, pollFault := false }))

/-- Descriptors are fetched round robin, consumed, checked against the grant table, given buffers and started. With fewer than 8
fetches out, the next fold and ring in the round robin issue one read of the descriptors published there. A fetch's data is
consumed, and its failure puts the ring in error 0x2; data of a ring disabled meanwhile is not taken. A scatter list that breaks the rules rejects its descriptor with BAD_LIST,
another is kept for the checks. A table read goes on with its entries; a torn entry is read again 1 us later, and after the
eighth read is absent and counted. A granted request gets its buffers, and a READY descriptor without the mechanism starts. -/
def Obligations.DescriptorsAreFetchedCheckedAndStarted : Prop :=
  (∀ (s : State) (f : FoldId) (n : RingId), fetchesOut s < 8 → (foldsAfter s.drover.fetchLast).findSome? (fun g =>
      ((ringsAfter (s.fold g).rrRing).find? fun m => fetchable s g m).map fun m => (g, m)) = some (f, n) →
    ∃ t : State, exec .descriptorFetch s = .next t ∧ t = { s with
      folds := t.folds, drover := { s.drover with fetchLast := f }, out := s.out ++ [.readReq f (ringBase (s.wring f n).baseLo (s.wring f n).baseHi +
        64 * ((s.wring f n).cons.toNat % 2 ^ (s.wring f n).log2)) (64 * fetchCount s f n)] } ∧
      (t.fold f).rrRing = n ∧ (t.wring f n).fetching = true ∧ ∀ g : FoldId, g ≠ f → t.fold g = s.fold g) ∧
  (∀ (s : State) (f : FoldId) (n : RingId) (l : List RawDesc), (s.wring f n).fetching = true → (s.wring f n).en = true →
    (s.wring f n).err = 0 → (s.wring f n).stale = false → consuming s f = true → exec (.descriptorConsume f n (.ok l)) s =
      .next (consumeAll f n (s.modWring f n fun w => { w with fetching := false, stale := false }) (l.take (fetchCount s f n)))) ∧
  (∀ (s : State) (f : FoldId) (n : RingId), (s.wring f n).fetching = true → (s.wring f n).en = true →
    (s.wring f n).err = 0 → (s.wring f n).stale = false → exec (.descriptorConsume f n .failed) s =
      .next (wringError (s.modWring f n fun w => { w with fetching := false, stale := false }) f n 2)) ∧
  (∀ (s : State) (f : FoldId) (n : RingId) (r : ReadResult (List RawDesc)), (s.wring f n).fetching = true →
    (s.wring f n).stale = true ∨ (s.wring f n).en = false ∨ (s.wring f n).err ≠ 0 → exec (.descriptorConsume f n r) s =
      .next (s.modWring f n fun w => { w with fetching := false, stale := false })) ∧
  (∀ (s : State) (f : FoldId) (k : Nat) (d : Desc) (es : List RawEntry) (l : List (Nat × Nat)), s.desc? f k = some d →
    d.stage = .list → checkList es d.fld.length = some l →
    exec (.listRead f k (.ok es)) s = .next (checkLength ((s.emits
      (((listReads (min (s.fold f).maxReadRequest 512) es d.fld.listPtr none 0).drop 1).map fun r => Out.readReq f r.1 r.2)).modDesc f k
        fun d => { d with list := l }) f k d)) ∧
  (∀ (s : State) (f : FoldId) (k : Nat) (d : Desc) (es : List RawEntry), s.desc? f k = some d →
    d.stage = .list → checkList es d.fld.length = none →
    exec (.listRead f k (.ok es)) s = .next ((s.emits
      (((listReads (min (s.fold f).maxReadRequest 512) es d.fld.listPtr none 0).drop 1).map fun r => Out.readReq f r.1 r.2)).modDesc f k
        fun d => { d with stage := .done, status := .badList, bytes := 0, acceptedAt := s.us })) ∧
  (∀ (s : State) (f : FoldId) (k : Nat) (d : Desc), s.desc? f k = some d → d.stage = .list →
    exec (.listRead f k .failed) s = .next (s.modDesc f k fun d => { d with
      stage := .done, status := .badList, bytes := 0, acceptedAt := s.us })) ∧
  (∀ (s : State) (f : FoldId) (k i : Nat) (d : Desc) (l : List RawGrant), s.desc? f k = some d → d.stage = .grant i 0 →
    s.plat.gntEn = true → exec (.grantTableRead f k (.ok l)) s =
      .next (scanEntries s f k d (l.take (min (grantChunk s) (256 - i))) i)) ∧
  (∀ (s : State) (f : FoldId) (k i n : Nat) (d : Desc) (g : RawGrant), s.desc? f k = some d → d.stage = .grant i (n + 1) →
    s.plat.gntEn = true → d.tornAt + 1 ≤ s.us → g.seqA = g.seqB → exec (.grantReread f k (.ok g)) s =
      .next (scanEntries (s.emit (.readReq 0 (grantBase s + 32 * i) 32)) f k d [g] i)) ∧
  (∀ (s : State) (f : FoldId) (k i n : Nat) (d : Desc) (g : RawGrant), s.desc? f k = some d → d.stage = .grant i (n + 1) →
    s.plat.gntEn = true → d.tornAt + 1 ≤ s.us → g.seqA ≠ g.seqB → n + 1 < 7 → exec (.grantReread f k (.ok g)) s =
      .next ((s.emit (.readReq 0 (grantBase s + 32 * i) 32)).modDesc f k fun d => { d with stage := .grant i (n + 2), tornAt := s.us })) ∧
  (∀ (s : State) (f : FoldId) (k i n : Nat) (d : Desc) (r : ReadResult RawGrant), s.desc? f k = some d → d.stage = .grant i (n + 1) →
    s.plat.gntEn = true → s.us < d.tornAt + 1 → exec (.grantReread f k r) s = .next s) ∧
  (∀ (s : State) (f : FoldId) (k i : Nat) (d : Desc) (g : RawGrant), s.desc? f k = some d → d.stage = .grant i 7 →
    s.plat.gntEn = true → d.tornAt + 1 ≤ s.us → g.seqA ≠ g.seqB → exec (.grantReread f k (.ok g)) s =
      .next (scanEntries { s with
        out := s.out ++ [.readReq 0 (grantBase s + 32 * i) 32], plat := { s.plat with torn := sat 8 (s.plat.torn + 1) } }
        f k d [] (i + 1))) ∧
  (∀ (s : State) (f : FoldId) (k : Nat) (r : List (FoldId × Nat)) (d : Desc), s.pool.queue = (f, k) :: r →
    requestReady s true (f, k) = true → s.desc? f k = some d → ∃ t : State, ∃ e : Desc, exec .requestGranted s = .next t ∧
      t.desc? f k = some e ∧ e.stage = .ready ∧ d.aside <+: e.bufs ∧ e.aside = [] ∧ e.want = 0 ∧ (f, k) ∉ t.pool.queue ∧
      (d.want - d.aside.length ≤ s.pool.stack.length → t = { s with folds := t.folds, pool := t.pool })) ∧
  (∀ (s : State) (f : FoldId) (k : Nat) (d : Desc), s.desc? f k = some d → descReady d = true → needsMech s d = false →
    d.op ≠ .mmcPass → fenceOpen (s.fold f) d = true → startBlocked s f d = false → serialBlocked (s.fold f) d = false →
    exec (.descriptorStart f k) s = .next ((s.modDesc f k fun d => { d with
      startedAt := some s.us, queueWait := s.us - d.acceptedAt, stage := .running }).emits
        ((startReads d).flatMap fun r => readsFor s f r.1 r.2)))

/-- One grant entry must cover a range whole, and the grant registers empty the cache. An entry passes a check of a range
exactly where it names the fold, holds every right needed, covers the first to the last block and has DISC_ID 0 or the loaded
disc's. While GNT_EN is 0 a descriptor that needs a grant ends with NO_GRANT. GNT_BASE is taken only while GNT_EN is 0 and
empties the cache, as clearing GNT_EN does; GNT_STAT's write clears TORN and MISSES. -/
def Obligations.GrantsCoverAWholeRangeAndTheirRegistersEmptyTheCache : Prop :=
  (∀ (g : Grant) (f : FoldId) (need : BitVec 8) (lba n : Nat) (disc : Option DiscInfo),
    grantPasses g f need .range lba n disc = true ↔ g.fold = f.val ∧ g.rights &&& need = need ∧ g.startLba ≤ lba ∧
      lba + n - 1 ≤ g.endLba ∧ (g.discId = 0 ∨ ∃ di : DiscInfo, disc = some di ∧ di.discId = g.discId)) ∧
  (∀ (s : State) (f : FoldId) (k : Nat) (d : Desc), s.desc? f k = some d → (opGrant d.op).isSome = true →
    s.plat.gntEn = false → EndsAs (s.modDesc f k fun d => { d with writes := [], aux := [] }) (step3 s f k d) f k .noGrant 0) ∧
  (∀ (s : State) (v : Word), barUp s 0 = true → s.plat.gntEn = false → exec (.gntBaseWrite true v) s =
    .next { s with plat := { s.plat with gntBaseHi := v, cache := [] } }) ∧
  (∀ (s : State) (v : Word), barUp s 0 = true → s.plat.gntEn = false → exec (.gntBaseWrite false v) s =
    .next { s with plat := { s.plat with gntBaseLo := v &&& 0xFFFFE000, cache := [] } }) ∧
  (∀ (s : State) (high : Bool) (v : Word), barUp s 0 = true → s.plat.gntEn = true → exec (.gntBaseWrite high v) s = .next s) ∧
  (∀ (s : State) (v : Word), barUp s 0 = true → exec (.gntCtlWrite v) s = .next { s with plat := { s.plat with
    gntEn := bit v 0, cache := if bit v 0 then s.plat.cache else [] } }) ∧
  (∀ s : State, barUp s 0 = true → exec .gntStatClear s = .next { s with plat := { s.plat with torn := 0, misses := 0 } })

/-- The drover dispatches the fold whose turn it is; a command ends, times out or is aborted. With the mechanism open, the fold
whose turn it is, with a positive deficit, has its next command dispatched: it starts with its queue wait, and the mode follows,
unless the disc is gone or changed since acceptance. When the command has ended and the mechanism is free its descriptor is done
with the mechanism time used. A descriptor past its deadline that has not started ends with TIMED_OUT, 0 bytes and no data; a
reading command on the mechanism stops. ABORT ends what a ring has not started with ABORTED. Data read for a WRITE goes to the
recording, and a failed read stops it with WRITE_FAILED. -/
def Obligations.DroverDispatchesAndFreesTheMechanism : Prop :=
  (∀ (s : State) (f : FoldId) (d : Desc), mechanismOpen s = true → anyWaiting s = true → s.drover.turn = some f →
    0 < (s.fold f).deficit → waitingWork (stopSpeculation s) f = some d → opDisc d.op = false → opWrites d.op = false →
    exec .droverDispatch s = .next (dispatchDesc (stopSpeculation s) f d)) ∧
  (∀ s : State, mechanismFree s = true → s.sled.seek = none → stopSpeculation s = { s with job := none }) ∧
  (∀ (s : State) (f : FoldId) (d : Desc), opDisc d.op = false → opWrites d.op = false →
    dispatchDesc s f d = { (s.modDesc f d.k fun d => { d with
        startedAt := some s.us, queueWait := s.us - d.acceptedAt, stage := .running }).emits
          ((startReads d).flatMap fun r => readsFor s f r.1 r.2) with
      job := some { kind := .moving, f := f, k := d.k, at_ := s.us }
      sys := { s.sys with mode := modeForOp s d.op (bit d.fld.opfield 0), parked := false } }) ∧
  (∀ (s : State) (f : FoldId) (d : Desc), s.disc.isSome = true → opDisc d.op = true → d.discId = s.disc.map (·.discId) →
    d.removals = s.loader.removals → s.servo.puOpen = false → dispatchDesc s f d = { (s.modDesc f d.k fun d => { d with
        startedAt := some s.us, queueWait := s.us - d.acceptedAt, stage := .running }).emits
          ((startReads d).flatMap fun r => readsFor s f r.1 r.2) with
      job := some { kind := .moving, f := f, k := d.k, at_ := s.us }
      sys := { s.sys with mode := modeForOp s d.op (bit d.fld.opfield 0), parked := false } }) ∧
  (∀ (s : State) (f : FoldId) (d : Desc), s.desc? f d.k = some d → opDisc d.op = true → discThere s d.op = false →
    EndsAs (noteStart s f d.k) (dispatchDesc s f d) f d.k .noDisc 0) ∧
  (∀ (s : State) (f : FoldId) (d : Desc), s.desc? f d.k = some d → opDisc d.op = true → discThere s d.op = true →
    d.discId.isSome = true → d.discId ≠ s.disc.map (·.discId) ∨ d.removals ≠ s.loader.removals →
    EndsAs (noteStart s f d.k) (dispatchDesc s f d) f d.k .discChanged 0) ∧
  (∀ (s : State) (f : FoldId) (k : Nat) (d : Desc), s.desc? f k = some d → (noteStart s f k).desc? f k = some { d with
    startedAt := some s.us, queueWait := s.us - d.acceptedAt, stage := .running }) ∧
  (∀ (s : State) (j : Job) (d : Desc), s.job = some j → j.ended = true → s.desc? j.f j.k = some d →
    lockVerifying s = false → s.kpr.collie.safeStop = false → ∃ t : State, ∃ e : Desc, exec .mechanismFree s = .next t ∧ t.job = none ∧
      t.desc? j.f j.k = some e ∧ e.stage = .done ∧ e.status = d.status ∧ e.bytes = d.bytes ∧ e.mechUs = s.us - j.at_ ∧
      (t.fold j.f).deficit ≤ (s.fold j.f).deficit - (if j.uncharged then 0 else ((s.us - j.at_ : Nat) : Int)) ∧ t.sys.idleSince = s.us ∧
      ∀ g : FoldId, g ≠ j.f → (t.fold g).deficit = (s.fold g).deficit) ∧
  (∀ (s : State) (f : FoldId) (k : Nat) (d : Desc), s.desc? f k = some d → descActive d = true → descAccepted d = true →
    d.stage ≠ .draining → d.deadline ≤ s.us → jobOf s f k = none → d.startedAt = none →
    ∃ t : State, exec (.descriptorTimeout f k) s = .next (settleTurn t) ∧
      EndsAs (s.modDesc f k fun d => { d with writes := [], aux := [] }) t f k .timedOut 0) ∧
  (∀ (s : State) (f : FoldId), s.drover.turn = some f → mechanismFree s = true → waitingWork s f = none →
    settleTurn s = { (s.modFold f fun x => { x with deficit := min x.deficit 0 }) with
      drover := { s.drover with turn := none } }) ∧
  (∀ (s : State) (f : FoldId) (k : Nat) (d : Desc) (j : Job), s.desc? f k = some d → descActive d = true → descAccepted d = true →
    d.deadline ≤ s.us → jobOf s f k = some j → opReads d.op = true →
    exec (.descriptorTimeout f k) s = .next (stopJob s .timedOut)) ∧
  (∀ (s : State) (f : FoldId) (n : RingId) (d : Desc), barUp s f = true → s.job = none → (s.fold f).descs = [d] → d.ring = n →
    d.startedAt = none → descActive d = true → d.stage ≠ .draining → ∃ t : State, exec (.wringAbort f n) s = .next (settleTurn t) ∧
      EndsAs ((s.modWring f n fun w => { w with en := false, err := 0, hist := [], stale := w.fetching }).modDesc f d.k
        fun d => { d with writes := [], aux := [] }) t f d.k .aborted 0) ∧
  (∀ (s t : State) (f : FoldId) (k n : Nat) (d : Desc) (j : Job) (l : List Byte) (bad : Bool), jobOf s f k = some j →
    s.desc? f k = some d → d.stage ≠ .vaultKey → j.kind = .writing → d.op = .write → j.data.length < d.fld.count →
    n = min (l.length / 2048) (d.fld.count - j.data.length) →
    memRun (s.emits (listReadsAt s f d.list (2048 * j.data.length) (2048 * n)))
      (setOps true (foldMask (s.emits (listReadsAt s f d.list (2048 * j.data.length) (2048 * n))) f) d.bufs (2048 * j.data.length)
        (2048 * n)) = (t, bad) →
    exec (.hostDataRead f k (.ok l)) s = .next (if bad then stopAtBoundary t .memoryFault else
      settleGate (t.modJob fun j => { j with data := j.data ++ blocksOf n l, waitingData := false }))) ∧
  (∀ (s : State) (f : FoldId) (k : Nat) (d : Desc) (j : Job), jobOf s f k = some j → s.desc? f k = some d →
    d.stage ≠ .vaultKey → j.kind = .writing → d.op = .write → j.data.length < d.fld.count → exec (.hostDataRead f k .failed) s =
      .next (stopAtBoundary (aerReport (s.emits (listReadsAt s f d.list (2048 * j.data.length) 2048)) f) .writeFailed))

/-- A completion is written after its descriptor's data and auxiliary data, into the next slot of its done ring. For a
descriptor that has ended, in a done ring that is enabled, not in error, has space and holds nothing back, posting writes first
the data, in order, then the auxiliary data, then the 16-byte completion with absolute index p at slot p mod N, its phase bit
set exactly when floor(p / N) is even, and after it at most one MSI-X message of the ring's vector; POSTED rises by 1 and the
descriptor leaves its fold. A descriptor whose done ring is disabled or in error leaves it with nothing written to the ring. -/
def Obligations.CompletionsAreWrittenAfterTheirData : Prop :=
  (∀ (s : State) (f : FoldId) (k : Nat) (d : Desc) (r : Dring), s.desc? f k = some d → d.stage = .done → d.fld.opcode ≠ 0x70 →
    (s.fold f).resetting = none → s.dring f (s.wring f d.ring).dring = r → r.en = true → r.err = 0 → r.held = [] →
    (r.posted - r.head).toNat < 2 ^ r.log2 → canMaster s f = true → (s.dring f 0).lostEvents = 0 →
    ∃ t : State, ∃ msg : List Out, exec (.completionPost f k) s = .next t ∧
      t.out = s.out ++ (d.writes.map fun w => .write f w.1 w.2) ++
        (if d.aux = [] ∨ d.fld.auxPtr = 0 ∨ d.fld.auxPtr % 16 ≠ 0 then [] else [.write f d.fld.auxPtr d.aux]) ++
        [.write f (ringBase r.baseLo r.baseHi + 16 * (r.posted.toNat % 2 ^ r.log2))
          (completionBytes (completionOf d) (r.posted.toNat / 2 ^ r.log2 % 2 == 0))] ++ msg ∧
      (msg = [] ∨ msg = [.msix f r.vec.val]) ∧ (t.dring f (s.wring f d.ring).dring).posted = r.posted + 1 ∧
      t.desc? f k = none) ∧
  (∀ (s : State) (f : FoldId) (k : Nat) (d : Desc) (r : Dring), s.desc? f k = some d → d.stage = .done → d.fld.opcode ≠ 0x70 →
    (s.fold f).resetting = none → s.dring f (s.wring f d.ring).dring = r → (r.en = false ∨ r.err ≠ 0) →
    ∃ t : State, exec (.completionPost f k) s = .next t ∧ t.desc? f k = none ∧
      t.out = s.out ++ (d.writes.map fun w => .write f w.1 w.2) ++
        (if d.aux = [] ∨ d.fld.auxPtr = 0 ∨ d.fld.auxPtr % 16 ≠ 0 then [] else [.write f d.fld.auxPtr d.aux])) ∧
  (∀ (c : Completion) (ph : Bool), (completionBytes c ph).length = 16 ∧
    ∃ b : Byte, (completionBytes c ph)[7]? = some b ∧ bit b 7 = ph)

/-- NOP, LOCK MEDIUM, SPIN, SEEK HINT and IDENTIFY DISC have their effects and end. NOP ends OK with 0 bytes. LOCK MEDIUM takes
or releases the fold's own lock, and a lock already so ends OK_REPEATED. SPIN sets the fold's class, 0xFF as the highest and one
beyond the disc's lowest as the lowest. SEEK HINT ends at once. IDENTIFY DISC of an identified disc delivers its 64-byte record;
on the mechanism it identifies the disc found first, and without one ends NO_DISC. -/
def Obligations.DescriptorsThatMoveNoData : Prop :=
  (∀ (s : State) (f : FoldId) (k : Nat) (d : Desc), runningAs s f k .nop = some d →
    ∃ t : State, exec (.nop f k) s = .next t ∧ EndsAs s t f k .ok 0) ∧
  (∀ (s : State) (f : FoldId) (k : Nat) (d : Desc), runningAs s f k .lockMedium = some d → bit d.fld.opfield 0 = true →
    (s.fold f).locked = false → ∃ t : State, exec (.lockMedium f k) s = .next t ∧
      EndsAs (s.modFold f fun x => { x with locked := true }) t f k .ok 0) ∧
  (∀ (s : State) (f : FoldId) (k : Nat) (d : Desc), runningAs s f k .lockMedium = some d → bit d.fld.opfield 0 = true →
    (s.fold f).locked = true → ∃ t : State, exec (.lockMedium f k) s = .next t ∧ EndsAs s t f k .okRepeated 0) ∧
  (∀ (s : State) (f : FoldId) (k : Nat) (d : Desc), runningAs s f k .lockMedium = some d → bit d.fld.opfield 0 = false →
    (s.fold f).locked = true → ∃ t : State, exec (.unlockMedium f k) s = .next t ∧
      EndsAs (s.modFold f fun x => { x with locked := false }) t f k .ok 0) ∧
  (∀ (s : State) (f : FoldId) (k : Nat) (d : Desc), runningAs s f k .lockMedium = some d → bit d.fld.opfield 0 = false →
    (s.fold f).locked = false → ∃ t : State, exec (.unlockMedium f k) s = .next t ∧ EndsAs s t f k .okRepeated 0) ∧
  (∀ (s : State) (f : FoldId) (k c : Nat) (d : Desc) (di : DiscInfo), dispatchedAs s f k .spin = some d → s.disc = some di →
    c = (if bits d.fld.opfield 7 0 = 0xFF then 0 else min (classesOf di.medium - 1) (bits d.fld.opfield 7 0)) →
    ∃ t : State, ∃ n : Nat, exec (.spin f k) s = .next t ∧ JobEndsAs { s.modFold f fun x => { x with class_ := some c } with
      spindle := { s.spindle with class_ := some c, setPoint := n }
      sys := { s.sys with parked := false } } t .ok 0) ∧
  (∀ (s : State) (f : FoldId) (k : Nat) (d : Desc), runningAs s f k .seekHint = some d → d.fld.specok = false →
    ∃ t : State, exec (.seekHint f k) s = .next t ∧ EndsAs s t f k .ok 0) ∧
  (∀ (s : State) (f : FoldId) (k : Nat) (d : Desc) (di : DiscInfo) (x : Option DiscInfo), runningAs s f k .identifyDisc = some d →
    s.disc = some di → ∃ t : State, exec (.identifyDisc f k x) s = .next t ∧
      EndsAs (s.modDesc f k fun d => { d with writes := d.writes ++ scatterAt d.list 0 (discRecord di) }) t f k .ok 64) ∧
  (∀ (s : State) (f : FoldId) (k : Nat) (d : Desc) (di : DiscInfo), dispatchedAs s f k .identifyDisc = some d →
    runningAs s f k .identifyDisc = none → s.disc = none → canIdentify s = true → s.sled.lost = false →
    exec (.identifyDisc f k (some di)) s =
      .next (endJob ((identified s di).modDesc f k fun d => { d with
        writes := d.writes ++ scatterAt d.list 0 (discRecord di) }) .ok 64)) ∧
  (∀ (s : State) (f : FoldId) (k : Nat) (d : Desc), dispatchedAs s f k .identifyDisc = some d →
    runningAs s f k .identifyDisc = none → s.disc = none → canIdentify s = true → s.sled.lost = false → ∃ t : State,
      exec (.identifyDisc f k none) s = .next t ∧ JobEndsAs { s with
        loader := { s.loader with unident := false }
        sys := { s.sys with mode := if s.sys.mode = .load then .idle else s.sys.mode } } t .noDisc 0)

/-- CLOSE, FORMAT and RESERVE TRACK change the disc, record their structures and end. CLOSE by its form (track, session,
finalise) changes the disc as the track rules say and records its structure; a form the disc no longer allows ends OUT_OF_RANGE.
FORMAT quick and full change the disc; full with certification ends WRITE_FAILED where a unit stays failed and OK_RECOVERED
where a cluster was replaced. RESERVE TRACK reserves and gives the first block and the number. -/
def Obligations.DiscsAreClosedFormattedAndReserved : Prop :=
  (∀ (s : State) (f : FoldId) (k : Nat) (d : Desc) (di e : DiscInfo), dispatchedAs s f k .close = some d → s.disc = some di →
    bits d.fld.opfield 1 0 = 0 → closeDisc di 0 (lbaOf d.fld % 65536) = some e → beamReady s = true →
    ∃ t : State, exec (.closeTrack f k) s = .next t ∧ JobEndsAs (recordStructure { s with disc := some e }
      (paddedBy di 0 (lbaOf d.fld % 65536) ++ [.structure_ 0 (lbaOf d.fld % 65536)])) t .ok 0) ∧
  (∀ (s : State) (f : FoldId) (k : Nat) (d : Desc) (di e : DiscInfo), dispatchedAs s f k .close = some d → s.disc = some di →
    bits d.fld.opfield 1 0 = 1 → closeDisc di 1 (lbaOf d.fld % 65536) = some e → beamReady s = true →
    ∃ t : State, exec (.closeSession f k) s = .next t ∧ JobEndsAs (recordStructure { s with disc := some e }
      (paddedBy di 1 (lbaOf d.fld % 65536) ++ [.structure_ 1 di.session])) t .ok 0) ∧
  (∀ (s : State) (f : FoldId) (k : Nat) (d : Desc) (di e : DiscInfo), dispatchedAs s f k .close = some d → s.disc = some di →
    bits d.fld.opfield 1 0 = 2 → closeDisc di 2 (lbaOf d.fld % 65536) = some e → beamReady s = true →
    ∃ t : State, exec (.finalise f k) s = .next t ∧ JobEndsAs (recordStructure { s with disc := some e }
      (paddedBy di 2 (lbaOf d.fld % 65536) ++ [.structure_ 2 di.session])) t .ok 0) ∧
  (∀ (s : State) (l : List Out), ∃ t : State, recordStructure s l = t ∧ t.out = s.out ++ ([.wgate true] ++ l ++ [.wgate false]) ∧
    t.chan.ref = .wobble ∧ t = { s with out := t.out, chan := t.chan }) ∧
  (∀ (s : State) (f : FoldId) (k : Nat) (d : Desc) (di : DiscInfo), dispatchedAs s f k .close = some d → s.disc = some di →
    bits d.fld.opfield 1 0 = 0 → closeDisc di 0 (lbaOf d.fld % 65536) = none →
    ∃ t : State, exec (.closeTrack f k) s = .next t ∧ JobEndsAs s t .outOfRange 0) ∧
  (∀ (s : State) (f : FoldId) (k : Nat) (d : Desc) (di : DiscInfo), dispatchedAs s f k .format = some d → s.disc = some di →
    bits d.fld.opfield 1 0 = 0 → formatOk di = true → beamReady s = true → exec (.formatQuick f k) s =
      .next (stopJob { recordStructure s [.structure_ 4 0] with disc := some (formatDisc di false) } .ok)) ∧
  (∀ (s : State) (f : FoldId) (k : Nat) (d : Desc) (di : DiscInfo), dispatchedAs s f k .format = some d → s.disc = some di →
    bits d.fld.opfield 1 0 = 1 → formatOk di = true → beamReady s = true → exec (.formatFull f k) s =
      .next (stopJob { recordStructure s [.structure_ 5 0, .zeroed 0 di.capacity] with disc := some (formatDisc di true) } .ok)) ∧
  (∀ (s t : State) (f : FoldId) (k n : Nat) (d : Desc) (di e : DiscInfo) (l : List (Nat × List Readback)),
    dispatchedAs s f k .format = some d → s.disc = some di → bits d.fld.opfield 1 0 = 2 → formatOk di = true → beamReady s = true →
    recordStructure s [.structure_ 6 0, .zeroed 0 di.capacity] = t → tryUnits t false di 0 l = (e, n, none) →
    exec (.formatFullCertify f k l) s = .next (stopJob { t with
      disc := some (formatDisc e true)
      job := s.job.map fun j => { j with replaced := n, firstFail := none } } (if 0 < n then .okRecovered else .ok))) ∧
  (∀ (s t : State) (f : FoldId) (k n b : Nat) (d : Desc) (di e : DiscInfo) (l : List (Nat × List Readback)),
    dispatchedAs s f k .format = some d → s.disc = some di → bits d.fld.opfield 1 0 = 2 → formatOk di = true → beamReady s = true →
    recordStructure s [.structure_ 6 0, .zeroed 0 di.capacity] = t → tryUnits t false di 0 l = (e, n, some b) →
    exec (.formatFullCertify f k l) s = .next (stopJob { t with
      disc := some { formatDisc e true with finalised := di.finalised }
      job := s.job.map fun j => { j with replaced := n, firstFail := some b } } .writeFailed)) ∧
  (∀ (s : State) (f : FoldId) (k : Nat) (d : Desc) (di e : DiscInfo) (tr : Track), dispatchedAs s f k .reserveTrack = some d →
    s.disc = some di → reserveTrack di (bits d.fld.opdata 31 0) = some (e, tr) → beamReady s = true → ∃ t : State,
      exec (.reserveTrack f k) s = .next t ∧ JobEndsAs ((recordStructure { s with disc := some e }
        [.structure_ 3 tr.number]).modDesc f k fun d =>
          if d.fld.auxPtr = 0 then d else { d with aux := leBytes 4 tr.first ++ leBytes 4 tr.number }) t .ok 0)

/-- LOAD, EJECT, the tray switches, jams, the solenoid and the eject button. LOAD closes an open tray that has a motor,
identifies a disc that lies in a closed one, and ends OK where it is known; another fold's lock ends LOAD and EJECT with
MEDIUM_LOCKED. EJECT begins by dropping LD_EN. A tray that closes is identified; the disc's leaving is told to every fold. A
drive that reaches no switch in LDR_TMAX and a solenoid that fails are loader faults; the solenoid's pulse ends after SOL_T. The
button asks for fold 0's eject, or tells fold 0 which fold holds the lock. -/
def Obligations.LoaderMovesTheTrayAndIdentifiesTheDisc : Prop :=
  (∀ (s : State) (f : FoldId) (k : Nat) (d : Desc) (x : Option DiscInfo), dispatchedAs s f k .loadEject = some d →
    bit d.fld.opfield 0 = false → loaderIdle s = true → lockAgainst s f (bit d.fld.opfield 1) = none → s.loader.trayIn = false →
    s.loader.prof.solenoid = false → motorsAllowed s = true → exec (.load f k x) s =
      .next (settleTray { s with
        loader := { s.loader with drive := .closing s.us, pushed := false }
        out := s.out ++ [Out.tray false s.loader.prof.duty s.loader.prof.ilim] })) ∧
  (∀ (s : State) (f : FoldId) (k : Nat) (d : Desc) (x : Option DiscInfo) (di : DiscInfo), dispatchedAs s f k .loadEject = some d →
    bit d.fld.opfield 0 = false → loaderIdle s = true → lockAgainst s f (bit d.fld.opfield 1) = none → s.loader.trayIn = true →
    s.loader.trayOut = false → s.disc = some di → ∃ t : State, exec (.load f k x) s = .next t ∧ JobEndsAs s t .ok 0) ∧
  (∀ (s : State) (f : FoldId) (k : Nat) (d : Desc) (di : DiscInfo), dispatchedAs s f k .loadEject = some d →
    bit d.fld.opfield 0 = false → loaderIdle s = true → lockAgainst s f (bit d.fld.opfield 1) = none → s.loader.trayIn = true →
    s.loader.trayOut = false → s.disc = none → canIdentify s = true → s.sled.lost = false →
    exec (.load f k (some di)) s = .next (endJob (identified s di) .ok 0)) ∧
  (∀ (s : State) (f g : FoldId) (k : Nat) (d : Desc) (x : Option DiscInfo), dispatchedAs s f k .loadEject = some d →
    loaderIdle s = true → lockAgainst s f (bit d.fld.opfield 1) = some g → ∃ t : State, JobEndsAs s t .mediumLocked 0 ∧
      exec (if bit d.fld.opfield 0 then .eject f k else .load f k x) s = .next t) ∧
  (∀ (s : State) (f : FoldId) (k : Nat) (d : Desc), dispatchedAs s f k .loadEject = some d → bit d.fld.opfield 0 = true →
    loaderIdle s = true → lockAgainst s f (bit d.fld.opfield 1) = none → s.loader.trayIn = true → s.loader.trayOut = false →
    motorsAllowed s = true → exec (.eject f k) s = .next (beginEject s)) ∧
  (∀ (s : State) (x : Option DiscInfo), s.loader.trayIn = false → linksUp s = true → s.sys.mode ≠ .doze → s.sys.entry = none →
    s.kpr.trayWake = false → exec (.trayInNChange true x) s = .next (trayClosed { s with
      loader := { s.loader with trayIn := true, tray := trayNow { s.loader with trayIn := true } } } x)) ∧
  (∀ (s : State) (x : Option DiscInfo), s.loader.trayIn = true → linksUp s = true → s.sys.mode ≠ .doze → s.sys.entry = none →
    s.kpr.trayWake = false → exec (.trayInNChange false x) s = .next (trayLeft { s with
      loader := { s.loader with trayIn := false, tray := trayNow { s.loader with trayIn := false } } })) ∧
  (∀ (s : State) (at_ : Nat), s.loader.trayOut = false → linksUp s = true → s.sys.mode ≠ .doze → s.sys.entry = none →
    s.kpr.trayWake = false → s.loader.drive = .opening at_ → exec (.trayOutNChange true) s = .next (ejectDone { s with
      loader := { s.loader with
        trayOut := true, drive := .none, tray := trayNow { s.loader with trayOut := true, drive := .none } }
      out := s.out ++ [Out.trayOff] })) ∧
  (∀ (s : State) (at_ : Nat), s.loader.drive = .opening at_ → s.loader.trayOut = false → at_ + s.loader.prof.tmax * 1000 ≤ s.us →
    exec .loaderJam s = .next (settleTray (motionFault s 7 0))) ∧
  (∀ (s : State) (at_ : Nat), s.loader.drive = .pulse at_ → at_ + s.loader.prof.solT * 1000 ≤ s.us → s.loader.trayIn = true →
    exec .solenoidPulseEnd s = .next { s with
      loader := { s.loader with drive := .afterPulse at_ }, out := s.out ++ [Out.solenoid false] }) ∧
  (∀ (s : State) (at_ : Nat) (j : Job), s.loader.drive = .pulse at_ → at_ + s.loader.prof.solT * 1000 ≤ s.us →
    s.loader.trayIn = false → s.job = some j → j.at_ ≤ at_ → exec .solenoidPulseEnd s = .next (ejectDone { s with
      loader := { s.loader with drive := .none }, out := s.out ++ [Out.solenoid false] })) ∧
  (∀ (s : State) (at_ : Nat), s.loader.drive = .afterPulse at_ → at_ + 500000 ≤ s.us → s.loader.trayIn = true →
    exec .solenoidTimeout s = .next (motionFault s 7 0)) ∧
  (∀ (s : State) (g : FoldId), s.loader.prof.btnEn = true → s.sys.mode ≠ .doze → s.sys.entry = none → s.kpr.trayWake = false → lockAgainst s 0 false = some g →
    exec .ejectButton s = .next (postEvent s 0 0x0763 (w32 g.val))) ∧
  (∀ s : State, s.loader.prof.btnEn = true → s.sys.mode ≠ .doze → s.sys.entry = none → s.kpr.trayWake = false → lockAgainst s 0 false = none → s.sys.mode ≠ .vigil →
    exec .ejectButton s = .next { s with loader := { s.loader with button := true } })

/-- READ, READ RAW, VERIFY and SCAN read the units that the pen does not hold. A READ that the pen serves whole reads its blocks
from their buffers, delivers them and ends with their bytes, OK_RECOVERED where a copy was recovered, or with MEMORY_FAULT before
the first block that the memory gave wrong. A dispatched READ, READ RAW, VERIFY or SCAN begins to read exactly the units that
hold a block it names and the pen did not give it, each once, from its first block on, and is judged at once; while nothing can be
delivered and a unit waits, the judgement changes nothing. -/
def Obligations.ReadingCommandsBegin : Prop :=
  (∀ (s t : State) (f : FoldId) (k : Nat) (d : Desc) (l : List Byte), runningAs s f k .read = some d →
    pinsGo f d d.fld.count 0 s = (t, l, none) → ∃ u : State, exec (.read f k) s = .next u ∧
      EndsAs (t.modDesc f k fun e => { e with writes := e.writes ++ scatterAt e.list 0 l }) u f k
        (if d.pins.any (·.recovered) then .okRecovered else .ok) l.length) ∧
  (∀ (s t : State) (f : FoldId) (k b : Nat) (d : Desc) (l : List Byte), runningAs s f k .read = some d →
    pinsGo f d d.fld.count 0 s = (t, l, some b) → ∃ u : State, exec (.read f k) s = .next u ∧
      EndsAs (t.modDesc f k fun e => { e with writes := e.writes ++ scatterAt e.list 0 l, failLba := some b }) u f k
        .memoryFault l.length) ∧
  (∀ (s : State) (f : FoldId) (k : Nat) (d : Desc) (o : Op) (c : Instr),
    (o = .read ∧ c = .read f k) ∨ (o = .readRaw ∧ c = .readRaw f k) ∨ (o = .verify ∧ c = .verify f k) ∨ (o = .scan ∧ c = .scan f k) →
    runningAs s f k o = none → dispatchedAs s f k o = some d → exec c s = .next (judgeReading { s with
      job := s.job.map fun j => { j with kind := .reading, units := wantedUnits s d, next := lbaOf d.fld }
      chan := { s.chan with target := none, pinned := [], meters := [] } })) ∧
  (∀ (s : State) (j : Job) (d : Desc), jobDesc s = some (j, d) → j.kind = .reading → j.memFail = none → delivered d j = [] →
    verdict (d.op == .scan && bit d.fld.opfield 5) j.units = none → judgeReading s = s) ∧
  (∀ (s : State) (d : Desc) (di : DiscInfo) (u : JobUnit), s.disc = some di → u ∈ wantedUnits s d →
    u.st = .waiting ∧ discUnit di ∣ u.first ∧ ∃ b : Nat, u.first ≤ b ∧ b < u.first + discUnit di ∧ lbaOf d.fld ≤ b ∧
      b < lbaOf d.fld + d.fld.count ∧ d.pins.any (fun p => p.lba == b) = false)

/-- A unit's first decoding, second-look passes, physical re-reads and slips. A unit that decodes is confirmed, or, where it
does not and its samples are whole and fewer than two units are pinned, is pinned for pass 1 of second look, otherwise goes to
re-reads. A pass that leaves it uncorrectable is followed by the next up to PASSES; a re-read that fails spends one. A confirmed
unit's bytes go to its buffers, then the command is judged. The third slip on a unit gives it up as having lost sync. -/
def Obligations.UnitsDecodeLookAgainAndAreReread : Prop :=
  (∀ (s t : State) (g : UnitSignal) (j : Job) (d : Desc) (u : UnitRead), takeUnit g s = (u, t) → jobDesc t = some (j, d) →
    j.kind = .reading → unitIn j u.first (· == .waiting) = true → unitBad j d u = false → residual d u = false →
    exec (.unitDecode g) s = .next (unitConfirmed ((endUnit t u.first).modUnit u.first fun x => { x with
      meas := some u, tick := t.kpr.tick, layer := u.layer }) j d u false)) ∧
  (∀ (s t : State) (g : UnitSignal) (j : Job) (d : Desc) (u : UnitRead), takeUnit g s = (u, t) → jobDesc t = some (j, d) →
    j.kind = .reading → unitIn j u.first (· == .waiting) = true → unitBad j d u = true → noSecondOf d = false →
    u.samplesWhole = true → passesOf t ≠ 0 → t.chan.pinned.length < 2 → ∃ v : State, exec (.unitDecode g) s = .next v ∧
      v = { t with
        job := v.job, chan := { t.chan with
          target := if t.chan.target = some u.first then none else t.chan.target, pinned := t.chan.pinned ++ [u.first] } } ∧
      v.job = t.job.map fun j => { j with
        units := updFirst (fun x => x.first == u.first) (fun x => { x with st := .looking 1 })
          (updFirst (fun x => x.first == u.first) (fun x => { x with
            meas := some u, tick := t.kpr.tick, layer := u.layer }) j.units) }) ∧
  (∀ (s : State) (j : Job) (d : Desc) (u : UnitRead) (recovered : Bool), ∃ v : State, ∃ bad : Bool,
    memRun (s.modUnit u.first fun x => { x with st := .good u.blocks recovered }) (unitWrites d u) = (v, bad) ∧
    unitConfirmed s j d u recovered = if bad
      then stopJob (v.modJob fun x => { x with memFail := some (max u.first (lbaOf d.fld)) }) .memoryFault
      else judge (companions v j.f d u recovered)) ∧
  (∀ (s t : State) (g : UnitSignal) (j : Job) (d : Desc) (u : UnitRead) (x : JobUnit) (p : Nat), jobDesc s = some (j, d) →
    j.units.find? (fun x => x.first == g.first) = some x → x.st = .looking p → spoiltLines s x.first = [] →
    takePass g x p s = (u, t) → unitBad j d u = false →
    exec (.secondLookPassEnd g) s = .next (unitConfirmed (unpin t u.first) j d u true)) ∧
  (∀ (s t : State) (g : UnitSignal) (j : Job) (d : Desc) (u : UnitRead) (x : JobUnit) (p : Nat), jobDesc s = some (j, d) →
    j.units.find? (fun x => x.first == g.first) = some x → x.st = .looking p → spoiltLines s x.first = [] →
    takePass g x p s = (u, t) → unitBad j d u = true → p < passesOf t →
    exec (.secondLookPassEnd g) s = .next (t.modUnit u.first fun x => { x with st := .looking (p + 1) })) ∧
  (∀ (s t : State) (g : UnitSignal) (j : Job) (d : Desc) (u : UnitRead) (x : JobUnit) (n : Nat), takeUnit g s = (u, t) →
    jobDesc t = some (j, d) → j.units.find? (fun x => x.first == u.first) = some x → x.st = .rereading n →
    unitBad j d u = false → residual d u = false →
    exec (.physicalReread g) s = .next (unitConfirmed (endUnit t u.first) j d u true)) ∧
  (∀ (s t : State) (g : UnitSignal) (j : Job) (d : Desc) (u : UnitRead) (x : JobUnit) (n : Nat), takeUnit g s = (u, t) →
    jobDesc t = some (j, d) → j.units.find? (fun x => x.first == u.first) = some x → x.st = .rereading n → unitBad j d u = true →
    1 < n → exec (.physicalReread g) s = .next ((endUnit t u.first).modUnit u.first fun x => { x with
      st := .rereading (n - 1), lostSync := false })) ∧
  (∀ (s t : State) (g : UnitSignal) (j : Job) (d : Desc) (u : UnitRead) (x : JobUnit), takeUnit g s = (u, t) →
    jobDesc t = some (j, d) → j.units.find? (fun x => x.first == u.first) = some x → x.st = .rereading 1 → unitBad j d u = true →
    exec (.physicalReread g) s = .next (judge ((endUnit t u.first).modUnit u.first
      fun x => { x with st := .failed u.blocks u.failed u.lostSync }))) ∧
  (∀ (s : State) (rf : List RfSample), exec (.slip rf) s = .next (slipUnit (channelRun s rf))) ∧
  (∀ (s : State) (j : Job) (u : JobUnit) (n : Nat), s.job = some j → s.chan.target = some n →
    j.units.find? (fun x => x.first == n) = some u → s.chan.passed = true → s.chan.acq = .acquiring → unitWanted u = true →
    u.slips < 2 → slipUnit s = { s with
      job := some { j with units := updFirst (fun x => x.first == n) (fun x => { x with slipped := true, slips := x.slips + 1 }) j.units }
      chan := { s.chan with acq := .off, target := none, passed := false } }) ∧
  (∀ (s : State) (j : Job) (u : JobUnit) (n : Nat), s.job = some j → s.chan.target = some n →
    j.units.find? (fun x => x.first == n) = some u → s.chan.passed = true → s.chan.acq = .acquiring → unitWanted u = true →
    2 ≤ u.slips → slipUnit s = loseSync { s with
      job := some { j with units := updFirst (fun x => x.first == n) (fun x => { x with slipped := true, slips := x.slips + 1 }) j.units }
      chan := { s.chan with acq := .off, target := none, passed := false } } u)

/-- WRITE begins a recording; units recorded, underruns and read-back carry it on or end it. A WRITE whose range may be recorded
begins at its first block with the merge reads its range needs; one that may not ends OUT_OF_RANGE. A unit whose data is not
ready links and counts an underrun. A recorded unit's bytes are read from their buffers, and a memory error there ends the WRITE
with MEMORY_FAULT; else the unit goes onto the medium at its address with its blocks as marks and spaces, the disc moves on, and
the next unit follows. Read-back replaces clusters as the medium allows; a unit that still fails ends the WRITE with
WRITE_FAILED and counts the blocks before it. -/
def Obligations.RecordingBeginsUnderrunsAndIsVerified : Prop :=
  (∀ (s : State) (f : FoldId) (k : Nat) (d : Desc) (di : DiscInfo), dispatchedAs s f k .write = some d → s.disc = some di →
    writeRangeOk di (lbaOf d.fld) d.fld.count = true → ∃ t : State, ∃ j : Job, exec (.write f k) s = .next t ∧ t.job = some j ∧
      j.kind = .writing ∧ j.f = f ∧ j.k = k ∧ j.next = lbaOf d.fld ∧ j.last = lbaOf d.fld + d.fld.count - 1 ∧ j.data = [] ∧
      j.units = mergeUnits di (lbaOf d.fld) d.fld.count) ∧
  (∀ (s : State) (f : FoldId) (k : Nat) (d : Desc) (di : DiscInfo), dispatchedAs s f k .write = some d → s.disc = some di →
    writeRangeOk di (lbaOf d.fld) d.fld.count = false → ∃ t : State, exec (.write f k) s = .next t ∧ JobEndsAs s t .outOfRange 0) ∧
  (∀ (s : State) (j : Job) (d : Desc), jobDesc s = some (j, d) → j.kind = .writing → j.next ≤ j.last → dataReady s j d = false →
    j.waitingData = false → exec .underrun s = .next (lowerGate { s with
      job := some { j with underruns := j.underruns + 1, links := j.links + 1, waitingData := true } })) ∧
  (∀ (s t v : State) (j : Job) (d : Desc) (di : DiscInfo) (u z layer cls : Nat) (tab : Strategy) (l : List Int),
    jobDesc s = some (j, d) → s.disc = some di → j.kind = .writing → s.servo.wgate = true → j.next ≤ j.last →
    nextUnit s j = (u, z) → writeSetup s j di = (layer, cls, tab) →
    memRun s (unitReads d j.next (min z (j.last + 1))) = (t, false) →
    v = changeTable (takePace (runningOpc ({ (t.emits [.recorded u (storedBlocks t d u (unitBlocksOf t j d)),
        .pulses (unitPulses di tab u (storedBlocks t d u (unitBlocksOf t j d)).flatten)]) with
          disc := some (noteRecorded di j.next z) }.modJob fun j => { j with
        next := z, recorded := j.recorded + (min z (j.last + 1) - j.next)
        unverified := if verifyAfter d then j.unverified ++ [u] else [] }) (rhoOf l))) (layer, cls) →
    exec (.unitRecorded l) s = .next (writeOn (if z ≤ j.last then v else v.modJob fun j => { j with lds := [] }))) ∧
  (∀ (s t : State) (j : Job) (d : Desc) (di : DiscInfo) (u z : Nat) (l : List Int), jobDesc s = some (j, d) → s.disc = some di →
    j.kind = .writing → s.servo.wgate = true → j.next ≤ j.last → nextUnit s j = (u, z) →
    memRun s (unitReads d j.next (min z (j.last + 1))) = (t, true) →
    exec (.unitRecorded l) s = .next (stopJob t .memoryFault)) ∧
  (∀ (s : State) (j : Job) (d : Desc) (di e : DiscInfo) (n : Nat) (r : List (List Readback)), jobDesc s = some (j, d) →
    s.disc = some di → j.kind = .writing → readbackDue s j d = true →
    tryUnits s (noReplace d) di 0 (j.unverified.zipIdx.map fun p => (p.1, r.getD p.2 [])) = (e, n, none) →
    exec (.readbackDone r) s = .next (writeOn { s with
      disc := some e, job := some { j with replaced := j.replaced + n, unverified := [] } })) ∧
  (∀ (s : State) (j : Job) (d : Desc) (di e : DiscInfo) (n b : Nat) (r : List (List Readback)), jobDesc s = some (j, d) →
    s.disc = some di → j.kind = .writing → readbackDue s j d = true →
    tryUnits s (noReplace d) di 0 (j.unverified.zipIdx.map fun p => (p.1, r.getD p.2 [])) = (e, n, some b) →
    exec (.readbackDone r) s = .next (stopJob { s with
      disc := some e, job := some { j with
        replaced := j.replaced + n, firstFail := some (max b (lbaOf d.fld))
        recorded := max b (lbaOf d.fld) - lbaOf d.fld } } .writeFailed))

/-- OPC finds its factor or fails; the laser driver's serial writes are read back. OPC takes OPC_STEPS test partitions of the
layer on write-once media, and a run that brackets TARGET gives the factor; where neither it nor its repeat does, the WRITE ends
with WRITE_FAILED, and where no partition is left the last factor is used. A level's serial write is done when its read-back
agrees (or READBACK is 0); a first mismatch is retried, a second posts LDS_FAULT and ends it. -/
def Obligations.PowerIsCalibratedAndLevelsAreSent : Prop :=
  (∀ (s : State) (j : Job) (d : Desc) (di e : DiscInfo) (layer cls : Nat) (tab : Strategy) (x y : List OpcStep) (g : Int),
    jobDesc s = some (j, d) → s.disc = some di → j.kind = .writing → opcDue s j = true → j.stopWith = none → j.next ≤ j.last →
    beamReady s = true → s.servo.wgate = false → writeSetup s j di = (layer, cls, tab) →
    takePartitions di layer tab.opcSteps = some e → opcResult tab one28 (opcResults tab one28 x) = some g →
    exec (.opc x y) s = .next (opcEnds (recordOpc { s with
      disc := some e, job := some { j with
        links := if 0 < j.recorded then j.links + 1 else j.links, opcRuns := j.opcRuns + 1 } } tab one28) di layer cls tab g)) ∧
  (∀ (s t : State) (j : Job) (d : Desc) (di e e2 : DiscInfo) (layer cls : Nat) (tab : Strategy) (x y : List OpcStep) (c : Int),
    jobDesc s = some (j, d) → s.disc = some di → j.kind = .writing → opcDue s j = true → j.stopWith = none → j.next ≤ j.last →
    beamReady s = true → s.servo.wgate = false → writeSetup s j di = (layer, cls, tab) →
    takePartitions di layer tab.opcSteps = some e → takePartitions e layer tab.opcSteps = some e2 →
    opcResult tab one28 (opcResults tab one28 x) = none → opcNearest tab (opcResults tab one28 x) = c →
    opcResult tab c (opcResults tab c y) = none →
    t = recordOpc { s with
      disc := some e, job := some { j with
        links := if 0 < j.recorded then j.links + 1 else j.links, opcRuns := j.opcRuns + 1 } } tab one28 →
    exec (.opc x y) s = .next (stopJob (recordOpc { t with
      disc := some e2, job := some { j with
        links := if 0 < j.recorded then j.links + 1 else j.links, opcRuns := j.opcRuns + 1 + 1 } } tab c) .writeFailed)) ∧
  (∀ (s : State) (j : Job) (x y : List OpcStep), s.job = some j → beamReady s = false → exec (.opc x y) s = .next s) ∧
  (∀ (s : State) (j : Job) (d : Desc) (a : BitVec 7) (v b : Half) (r : List (Nat × Nat)), jobDesc s = some (j, d) →
    j.lds = (a.toNat, v.toNat) :: r → j.kind = .writing → s.servo.wgate = false → s.recd.lds.readback = true → b = v →
    exec (.ldsTransaction a v b) s = .next (settleGate { s with
      out := s.out ++ [Out.lds s.recd.lds.div (BitVec.ofNat 24 (a.toNat * 2 ^ 16 + v.toNat)),
        Out.lds s.recd.lds.div (BitVec.ofNat 24 (2 ^ 23 + a.toNat * 2 ^ 16 + b.toNat))]
      job := some { j with lds := r, ldsTry := false } })) ∧
  (∀ (s : State) (j : Job) (d : Desc) (a : BitVec 7) (v b : Half) (r : List (Nat × Nat)), jobDesc s = some (j, d) →
    j.lds = (a.toNat, v.toNat) :: r → j.kind = .writing → s.servo.wgate = false → s.recd.lds.readback = true → b ≠ v →
    ∃ u : State, u.out = s.out ++ [Out.lds s.recd.lds.div (BitVec.ofNat 24 (a.toNat * 2 ^ 16 + v.toNat)),
        Out.lds s.recd.lds.div (BitVec.ofNat 24 (2 ^ 23 + a.toNat * 2 ^ 16 + b.toNat))] ∧ u = { s with out := u.out } ∧
      exec (.ldsTransaction a v b) s = .next (if j.ldsTry then stopJob (postEvent u 0 0x0770 (w32 a.toNat)) .writeFailed
        else { u with job := some { j with ldsTry := true } }))

/-- Sealing takes a fresh counter value for its nonce; opening delivers plaintext only after its tag is verified. SEAL BUFFER
under the lock takes its slot's COUNTER value, which rises by 1, seals with the nonce SALT then value, delivers the ciphertext
and gives nonce and tag, or ends MEMORY_FAULT with the nonce and no tag where its buffers' memory fails. OPEN BUFFER decrypts into the hold and delivers nothing; TAG_VERIFY delivers the plaintext where the
tag agrees, and otherwise zeroes the hold and ends AUTH_FAILED. A SEALED READ reads its units; a SEALED WRITE takes a value and
records ciphertext. An EMPTY slot is NO_KEY, a disabled engine CIPHER_FAULT. The freed lock is granted round robin, and released
after its hold. -/
def Obligations.SealingTakesACounterValueAndTheTagDecides : Prop :=
  (∀ (s : State) (f : FoldId) (k : Nat) (d : Desc) (i : Fin 17) (key : KeySlot) (aad plain cipher tag : List Byte),
    sealRunning s f k .sealBuffer = some d → s.cph.disabled = false → lockHeldBy s f k = true → i = slotIndex f d.fld.keySlot →
    s.slot i = key → key.st = .loaded → key.counter ≤ key.useLimit → key.counter ≤ key.reservedTo →
    gcmSeal key.key (nonceOf key.salt key.counter) (fit d.fld.aadLen aad) (fit d.fld.length plain) = (cipher, tag) →
    ∃ t u v : State, ∃ bad : Bool, exec (.sealBuffer f k aad plain) s = .next v ∧
      t = ((s.setSlot i { key with counter := key.counter + 1 }).modDesc f k fun e => { e with
        counter := some key.counter, nonceOut := nonceOf key.salt key.counter
        aux := sealAux (nonceOf key.salt key.counter) tag }) ∧
      memRun t (throughSet d (foldMask t f) engineMask ++ throughSet d engineMask (foldMask t f)) = (u, bad) ∧
      (bad = false → EndsAs (u.modDesc f k fun e => { e with
        writes := e.writes ++ scatterAt e.list 0 cipher }) v f k .ok d.fld.length) ∧
      (bad = true → EndsAs (u.modDesc f k fun e => { e with aux := sealAux (nonceOf key.salt key.counter) [] }) v f k
        .memoryFault 0)) ∧
  (∀ (s : State) (f : FoldId) (k : Nat) (d : Desc) (aad plain : List Byte), sealRunning s f k .sealBuffer = some d →
    s.cph.disabled = false → lockHeldBy s f k = true → (s.slot (slotIndex f d.fld.keySlot)).st = .empty →
    ∃ t : State, exec (.sealBuffer f k aad plain) s = .next t ∧ EndsAs s t f k .noKey 0) ∧
  (∀ (s t : State) (f : FoldId) (k : Nat) (d : Desc) (aad aux cipher : List Byte), sealRunning s f k .openBuffer = some d →
    s.cph.disabled = false → lockHeldBy s f k = true → (s.slot (slotIndex f d.fld.keySlot)).st ≠ .empty →
    memRun s (throughSet d (foldMask s f) engineMask) = (t, false) →
    exec (.openBuffer f k aad aux cipher) s = .next { t with cph := { t.cph with
      phase := .verifying, aad := fit d.fld.aadLen aad, auxIn := fit 32 aux
      hold := gcmCrypt (s.slot (slotIndex f d.fld.keySlot)).key ((fit 32 aux).take 12) (fit d.fld.length cipher) } }) ∧
  (∀ (s : State) (f : FoldId) (k : Nat) (d : Desc), s.cph.holder = some (f, k) → s.desc? f k = some d → s.cph.phase = .verifying →
    s.job = none → gcmTag (s.slot (slotIndex f d.fld.keySlot)).key (s.cph.auxIn.take 12) s.cph.aad
      (gcmCrypt (s.slot (slotIndex f d.fld.keySlot)).key (s.cph.auxIn.take 12) s.cph.hold) = (s.cph.auxIn.drop 16).take 16 →
    ∃ t : State, exec .tagVerify s = .next t ∧ EndsAs ({ s with
        cph := { s.cph with phase := .releasing (s.us + releaseTime s.cph.hold.length) } }.modDesc f k fun e => { e with
      writes := e.writes ++ scatterAt e.list 0 s.cph.hold }) t f k (sealedStatus d) s.cph.hold.length) ∧
  (∀ (s : State) (f : FoldId) (k : Nat) (d : Desc), s.cph.holder = some (f, k) → s.desc? f k = some d → s.cph.phase = .verifying →
    s.job = none → gcmTag (s.slot (slotIndex f d.fld.keySlot)).key (s.cph.auxIn.take 12) s.cph.aad
      (gcmCrypt (s.slot (slotIndex f d.fld.keySlot)).key (s.cph.auxIn.take 12) s.cph.hold) ≠ (s.cph.auxIn.drop 16).take 16 →
    ∃ t : State, exec .tagVerify s = .next t ∧ EndsAs { s with cph := { s.cph with
      phase := .releasing (s.us + releaseTime s.cph.hold.length), hold := zeros s.cph.hold.length } } t f k .authFailed 0) ∧
  (∀ (s : State) (f : FoldId) (k : Nat) (d : Desc) (aad aux : List Byte), dispatchedAs s f k .sealedRead = some d →
    s.cph.disabled = false → lockHeldBy s f k = true → (s.slot (slotIndex f d.fld.keySlot)).st ≠ .empty →
    exec (.sealedRead f k aad aux) s = .next (judgeReading { s with
      cph := { s.cph with aad := fit d.fld.aadLen aad, auxIn := fit 32 aux }
      job := s.job.map fun j => { j with kind := .reading, units := wantedUnits s d, next := lbaOf d.fld }
      chan := { s.chan with target := none, pinned := [], meters := [] } })) ∧
  (∀ (s : State) (f : FoldId) (k : Nat) (d : Desc) (di : DiscInfo) (i : Fin 17) (key : KeySlot) (aad plain cipher tag : List Byte),
    dispatchedAs s f k .sealedWrite = some d → s.disc = some di → writeRangeOk di (lbaOf d.fld) d.fld.count = true →
    s.cph.disabled = false → lockHeldBy s f k = true → i = slotIndex f d.fld.keySlot → s.slot i = key → key.st = .loaded →
    key.counter ≤ key.useLimit → key.counter ≤ key.reservedTo →
    gcmSeal key.key (nonceOf key.salt key.counter) (fit d.fld.aadLen aad) (fit (2048 * d.fld.count) plain) = (cipher, tag) →
    ∃ t : State, ∃ bad : Bool, memRun ((s.setSlot i { key with counter := key.counter + 1 }).modDesc f k fun e => { e with
        counter := some key.counter, nonceOut := nonceOf key.salt key.counter ++ tag })
      (setOps true engineMask d.bufs 0 (2048 * d.fld.count)) = (t, bad) ∧
      exec (.sealedWrite f k aad plain) s = .next (if bad then releaseLock (endJob t .memoryFault 0)
        else sealedWriteLock (startWriting t di d (blocksOf d.fld.count cipher)))) ∧
  (∀ (s : State) (f : FoldId) (r k : Nat), s.cph.owner = 15 →
    (requestersAfter s.cph.lastReq).findSome? (fun q => s.cph.waiters.find? fun w => w.1 == q) = some (r, f, k) →
    exec .lockGrant s = .next ({ s with cph := { s.cph with
      owner := if r = 8 then 8 else f.val, direct := false, holder := some (f, k), lastReq := r, heldSince := s.us, phase := .idle
      waiters := s.cph.waiters.filter fun w => !(w == (r, f, k)) } }.modDesc f k fun e => { e with stage := .running })) ∧
  (∀ (s : State) (at_ : Nat), s.cph.phase = .releasing at_ → at_ ≤ s.us → s.cph.holder = none → s.cph.owner ≠ 15 →
    exec .lockRelease s = .next { s with cph := { s.cph with
      owner := 15, direct := false, holder := none, phase := .idle, hold := [], aad := [], auxIn := []
      holdMax := max s.cph.holdMax (min ((s.us - s.cph.heldSince) / 10) 65535) } })

/-- Keys are loaded and cleared through their records; the engine's faults, reservations and direct use. KEY LOAD draws a SALT
and asks for the slot's record, at whose commit the key acts; a wrapped key is unwrapped by the fold's other slot, or ends
NO_KEY or AUTH_FAILED. KEY CLEAR empties the slot at once and asks for the record's deletion; an EMPTY slot is OK_REPEATED. A
reservation asks for RESERVED_TO + 65,536. A parity fault counts and posts 0x0790, and the third within a second disables the
engine. In SERVICE fold 0 takes and releases the lock; the known-answer test runs while DIRECT is 1. -/
def Obligations.KeysAndTheEngine : Prop :=
  (∀ (s : State) (f : FoldId) (k : Nat) (d : Desc) (key : List Byte), sealRunning s f k .keyLoad = some d →
    bit d.fld.opfield 2 = false → s.cph.disabled = false → lockHeldBy s f k = true → exec (.keyLoad f k key) s =
      .next (requestSlotRecord ({ s with draws := s.draws + 1 }.modDesc f k fun e => { e with stage := .commit })
        (slotIndex f d.fld.keySlot) (loadedSlot d.fld.opfield d.fld.opdata (Config.randomWord s.draws)
          (fit (keyBytes d.fld.opfield) key)) (.keyLoad f k (slotIndex f d.fld.keySlot).val))) ∧
  (∀ (s : State) (f : FoldId) (k : Nat) (d : Desc) (w key : List Byte), sealRunning s f k .keyLoad = some d →
    bit d.fld.opfield 2 = true → s.cph.disabled = false → lockHeldBy s f k = true →
    (s.slot (slotIndex f (d.fld.keySlot + 1))).st ≠ .empty →
    kwUnwrap (s.slot (slotIndex f (d.fld.keySlot + 1))).key (fit (keyBytes d.fld.opfield) w) = some key →
    exec (.keyLoadWrapped f k w) s =
      .next (requestSlotRecord ({ s with draws := s.draws + 1 }.modDesc f k fun e => { e with stage := .commit })
        (slotIndex f d.fld.keySlot) (loadedSlot d.fld.opfield d.fld.opdata (Config.randomWord s.draws) key)
          (.keyLoad f k (slotIndex f d.fld.keySlot).val))) ∧
  (∀ (s : State) (f : FoldId) (k : Nat) (d : Desc) (w : List Byte), sealRunning s f k .keyLoad = some d →
    bit d.fld.opfield 2 = true → s.cph.disabled = false → lockHeldBy s f k = true →
    (s.slot (slotIndex f (d.fld.keySlot + 1))).st ≠ .empty →
    kwUnwrap (s.slot (slotIndex f (d.fld.keySlot + 1))).key (fit (keyBytes d.fld.opfield) w) = none →
    ∃ t : State, exec (.keyLoadWrapped f k w) s = .next t ∧ EndsAs s t f k .authFailed 0) ∧
  (∀ (s : State) (f : FoldId) (k : Nat) (d : Desc), sealRunning s f k .keyClear = some d → lockHeldBy s f k = true →
    (s.slot (slotIndex f d.fld.keySlot)).st ≠ .empty → exec (.keyClear f k) s = .next (requestRecord
      ((s.setSlot (slotIndex f d.fld.keySlot) {}).modDesc f k fun e => { e with stage := .commit }) 6
      (slotRecordId (slotIndex f d.fld.keySlot)) none 0 .other (some (.region 6))
      (.keyClear f k (slotIndex f d.fld.keySlot).val))) ∧
  (∀ (s : State) (f : FoldId) (k : Nat) (d : Desc), sealRunning s f k .keyClear = some d → lockHeldBy s f k = true →
    (s.slot (slotIndex f d.fld.keySlot)).st = .empty → ∃ t : State, exec (.keyClear f k) s = .next t ∧
      EndsAs s t f k .okRepeated 0) ∧
  (∀ (s : State) (i : Fin 17), (s.slot i).st ≠ .empty → (s.slot i).reserving = false →
    (s.slot i).reservedTo < (s.slot i).counter - 1 + 32768 → exec (.nonceReservation i) s =
      .next (requestSlotRecord (s.setSlot i { s.slot i with reserving := true }) i { s.slot i with
        reservedTo := (s.slot i).reservedTo + 65536 } (.reserve i.val))) ∧
  (∀ (s : State) (l : List Nat), s.cph.owner ≠ 15 → s.cph.phase = .idle → s.cph.holder = none →
    l = s.cph.faultTicks.filter (fun x => decide (s.kpr.tick ≤ x + 32768)) → l.length < 2 →
    exec .cipherParityFault s = .next (postEvent { s with cph := { s.cph with
      faults := min (s.cph.faults + 1) 255, faultTicks := (s.kpr.tick :: l).take 2 } } 0 0x0790
        (w32 (s.cph.owner + 256 * (l.length + 1))))) ∧
  (∀ (s : State) (l : List Nat), s.cph.owner ≠ 15 → s.cph.phase = .idle → s.cph.holder = none → s.cph.disabled = false →
    l = s.cph.faultTicks.filter (fun x => decide (s.kpr.tick ≤ x + 32768)) → 2 ≤ l.length →
    exec .cipherParityFault s = .next (postEvent (postEvent { s with cph := { s.cph with
      faults := min (s.cph.faults + 1) 255, faultTicks := (s.kpr.tick :: l).take 2, disabled := true } } 0 0x0790
        (w32 (s.cph.owner + 256 * 3))) 0 0x0791 0)) ∧
  (∀ s : State, s.sys.mode = .service → s.cph.owner = 15 → exec .cphLockTake s = .next { s with cph := { s.cph with
    owner := 0, direct := true, holder := none, heldSince := s.us, phase := .idle } }) ∧
  (∀ s : State, s.sys.mode ≠ .service → exec .cphLockTake s = .next s) ∧
  (∀ s : State, s.sys.mode = .service → s.cph.direct = true → s.cph.owner ≠ 15 → exec .cphLockRelease s =
    .next { s with cph := { s.cph with
      owner := 15, direct := false, holder := none, phase := .idle, hold := [], aad := [], auxIn := []
      holdMax := max s.cph.holdMax (min ((s.us - s.cph.heldSince) / 10) 65535) } }) ∧
  (∀ s : State, barUp s 0 = true → s.cph.direct = true → exec .cphKatStart s = .next { s with cph := { s.cph with
    katBusy := true, katPass := false, katFail := false } }) ∧
  (∀ (s : State) (b : Bool), s.cph.katBusy = true → exec (.cphKatDone b) s = .next { s with cph := { s.cph with
    katBusy := false, katPass := b, katFail := !b } }) ∧
  (∀ s : State, barUp s 0 = true → exec .cphStatClear s = .next { s with cph := { s.cph with faults := 0, holdMax := 0 } })

/-- A fold's vault objects are read, written within its quota, deleted and listed in key order. Under the lock, VAULT GET of an
absent key ends OK with no byte, of a present one it delivers the value, a value longer than LENGTH is LEN_SHORT, and one whose
tag disagrees, or that has a page that does not decode, MEMORY_FAULT; the pages it reads are decoded, counted and reported. VAULT PUT
of the value held is OK_REPEATED, above VAULT_QUOTA it is OVER_QUOTA, and otherwise it takes a vault counter value and asks for
the object's record. VAULT DELETE of an absent key is OK_REPEATED and of a present one asks for the record's deletion. VAULT
LIST delivers as many whole entries as LENGTH holds, in key order, and their number at AUX_PTR. -/
def Obligations.VaultObjectsAreReadWrittenDeletedAndListed : Prop :=
  (∀ (s : State) (f : FoldId) (k : Nat) (d : Desc) (key : List Byte), sealRunning s f k .vaultGet = some d →
    s.cph.disabled = false → lockHeldBy s f k = true → vaultFind s f (fit d.fld.count key) = none →
    ∃ t : State, exec (.vaultGet f k key) s = .next t ∧ EndsAs (releaseLock s) t f k .ok 0) ∧
  (∀ (s x : State) (f : FoldId) (k : Nat) (d : Desc) (key v : List Byte) (r : Rec), sealRunning s f k .vaultGet = some d →
    s.cph.disabled = false → lockHeldBy s f k = true → x = readVault s f (fit d.fld.count key) →
    vaultFind x f (fit d.fld.count key) = some r →
    vaultObject r = some (f, fit d.fld.count key, v) → r.unreadable = false → vaultOpens f r = true →
    ∃ t : State, exec (.vaultGet f k key) s = .next t ∧
      (v.length ≤ d.fld.length → EndsAs ((releaseLock x).modDesc f k fun e => { e with
        writes := e.writes ++ scatterAt e.list 0 v }) t f k .ok v.length) ∧
      (d.fld.length < v.length → EndsAs (releaseLock x) t f k .lenShort 0)) ∧
  (∀ (s x : State) (f : FoldId) (k : Nat) (d : Desc) (key v : List Byte) (r : Rec), sealRunning s f k .vaultGet = some d →
    s.cph.disabled = false → lockHeldBy s f k = true → x = readVault s f (fit d.fld.count key) →
    vaultFind x f (fit d.fld.count key) = some r →
    vaultObject r = some (f, fit d.fld.count key, v) → r.unreadable = true →
    ∃ t : State, exec (.vaultGet f k key) s = .next t ∧ EndsAs (releaseLock x) t f k .memoryFault 0) ∧
  (∀ (s x : State) (f : FoldId) (k : Nat) (d : Desc) (key v : List Byte) (r : Rec), sealRunning s f k .vaultGet = some d →
    s.cph.disabled = false → lockHeldBy s f k = true → x = readVault s f (fit d.fld.count key) →
    vaultFind x f (fit d.fld.count key) = some r →
    vaultObject r = some (f, fit d.fld.count key, v) → r.unreadable = false → vaultOpens f r = false →
    ∃ t : State, exec (.vaultGet f k key) s = .next t ∧ EndsAs (vaultAuthFails (releaseLock x) f r) t f k .memoryFault 0) ∧
  (∀ (s x : State) (f : FoldId) (k : Nat) (d : Desc) (key value : List Byte) (r : Rec), sealRunning s f k .vaultPut = some d →
    s.cph.disabled = false → lockHeldBy s f k = true → x = readVault s f (fit d.fld.count key) →
    vaultFind x f (fit d.fld.count key) = some r → r.unreadable = false →
    vaultObject r = some (f, fit d.fld.count key, fit d.fld.length value) →
    ∃ t : State, exec (.vaultPut f k key value) s = .next t ∧ EndsAs (releaseLock x) t f k .okRepeated d.fld.length) ∧
  (∀ (s : State) (f : FoldId) (k : Nat) (d : Desc) (key value : List Byte), sealRunning s f k .vaultPut = some d →
    s.cph.disabled = false → lockHeldBy s f k = true → vaultFind s f (fit d.fld.count key) = none →
    overVaultQuota s f (fit d.fld.count key) (fit d.fld.length value) = true →
    ∃ t : State, exec (.vaultPut f k key value) s = .next t ∧ EndsAs (releaseLock s) t f k .overQuota 0) ∧
  (∀ (s : State) (f : FoldId) (k c : Nat) (d : Desc) (key value : List Byte), sealRunning s f k .vaultPut = some d →
    s.cph.disabled = false → lockHeldBy s f k = true → vaultId s f (fit d.fld.count key) = none →
    overVaultQuota s f (fit d.fld.count key) (fit d.fld.length value) = false → counterCheck (s.slot 16) = .value c →
    exec (.vaultPut f k key value) s = .next (requestRecord ({ releaseLock (takeCounter s 16) with
        mram := { s.mram with nextVaultId := s.mram.nextVaultId + 1 } }.modDesc f k fun e => { e with
        stage := .commit, counter := some c }) 3 s.mram.nextVaultId
      (some (.vault f (fit d.fld.count key) (fit d.fld.length value)))
      ((fit d.fld.count key).length + (fit d.fld.length value).length) .other (some (.vault f)) (.vaultPut f k)
      (some (vaultSeal s f s.mram.nextVaultId c (fit d.fld.count key) (fit d.fld.length value))))) ∧
  (∀ (s : State) (f : FoldId) (k : Nat) (d : Desc) (key : List Byte), sealRunning s f k .vaultDelete = some d →
    s.cph.disabled = false → vaultId s f (fit d.fld.count key) = none →
    ∃ t : State, exec (.vaultDelete f k key) s = .next t ∧ EndsAs s t f k .okRepeated 0) ∧
  (∀ (s : State) (f : FoldId) (k i : Nat) (d : Desc) (key : List Byte), sealRunning s f k .vaultDelete = some d →
    s.cph.disabled = false → vaultId s f (fit d.fld.count key) = some i → exec (.vaultDelete f k key) s = .next (requestRecord
      (s.modDesc f k fun e => { e with stage := .commit }) 3 i none 0 .other (some (.vault f)) (.vaultDelete f k))) ∧
  (∀ (s x : State) (f : FoldId) (k : Nat) (d : Desc) (out : List Byte), sealRunning s f k .vaultList = some d →
    s.cph.disabled = false → lockHeldBy s f k = true → d.fld.auxPtr ≠ 0 → x = readVaultAll s f →
    out = ((vaultSorted x f).take (d.fld.length / 36)).flatMap (fun o =>
      leBytes 1 o.1.length ++ leBytes 2 o.2.length ++ [0] ++ fit 32 o.1) →
    ∃ t : State, exec (.vaultList f k) s = .next t ∧ EndsAs (((releaseLock x).modDesc f k fun e => { e with
      aux := leBytes 4 (vaultSorted x f).length }).modDesc f k fun e => { e with
        writes := e.writes ++ scatterAt e.list 0 out }) t f k .ok out.length)

/-- MRAM pages are programmed one at a time, read back, retired, scrubbed and rationed; raw mode uses test pages only. A page of
the record in progress that reads back clean leaves one page fewer to program and its WEAR one higher; the last one commits the
record, here a tariff schedule, whose descriptor ends OK. A failing read-back calls for one more program of the page; a second
one retires it, WEAR 0xFFFF_FFFF, and the record takes another page. The scrubber moves page by page, counts a correction in
bucket 3, schedules a refresh at half the strength, and reports an uncorrectable page. A waiting record begins when its bucket
holds its cost. Raw programs go to pages 0x3FF0 to 0x3FFF in SERVICE only; a raw read shows the page as it was programmed, one of a
record's with its header, whose CHECK is the CRC-32C of the rest. -/
def Obligations.MramPagesAreProgrammedReadBackScrubbedAndRefreshed : Prop :=
  (∀ (s : State) (q : Prog) (p : Nat), mramRuns s = true → chooseProg s.mram.queue = some q → q.begun = true → 1 < q.left →
    p = q.used.getD (q.pages - q.left) 0 → bits s.ecc.flipTarget 2 0 ≠ 4 → exec (.mramPageProgram (some 0)) s =
      .next (beginIfIdle { s with mram := { s.mram with
        wear := putKey p (min (wearOf s.mram p + 1) (2 ^ 32 - 1)) s.mram.wear
        strengthAt := delKey p s.mram.strengthAt
        found := delKey p s.mram.found
        cleared := s.mram.cleared.filter (· != p)
        queue := updFirst (fun x => x == q) (fun _ => { q with left := q.left - 1, again := false }) s.mram.queue } })) ∧
  (∀ (s : State) (q : Prog) (p : Nat), mramRuns s = true → chooseProg s.mram.queue = some q → q.begun = true → q.again = false →
    p = q.used.getD (q.pages - q.left) 0 → bits s.ecc.flipTarget 2 0 ≠ 4 → exec (.mramPageProgram none) s =
      .next (beginIfIdle { s with mram := { s.mram with
        wear := putKey p (min (wearOf s.mram p + 1) (2 ^ 32 - 1)) s.mram.wear
        strengthAt := delKey p s.mram.strengthAt
        found := putKey p none (delKey p s.mram.found)
        cleared := s.mram.cleared.filter (· != p)
        queue := updFirst (fun x => x == q) (fun _ => { q with again := true }) s.mram.queue } })) ∧
  (∀ (s u : State) (q : Prog) (p : Nat) (l : List Nat), mramRuns s = true → s.mram.queue = [q] → q.begun = true → q.again = true →
    p = q.used.getD (q.pages - q.left) 0 → bits s.ecc.flipTarget 2 0 ≠ 4 →
    u = { s with
      mram := { s.mram with
        wear := putKey p 0xFFFFFFFF (putKey p (min (wearOf s.mram p + 1) (2 ^ 32 - 1)) s.mram.wear)
        strengthAt := delKey p s.mram.strengthAt
        found := putKey p none (delKey p s.mram.found)
        cleared := s.mram.cleared.filter (· != p)
        retiredPages := s.mram.retiredPages ++ [p]
        queue := [] }
      ecc := { s.ecc with retired := s.ecc.retired + 1 } } →
    pickPages q.pages u.mram q.region [] = some l → exec (.mramPageProgram none) s =
      .next { u with mram := { u.mram with queue := [{ q with used := l, left := q.pages, again := false }] } }) ∧
  (∀ (s : State) (q : Prog) (p k : Nat) (d : Desc) (sch : Tariff) (m : Mram), mramRuns s = true → s.mram.queue = [q] →
    q.begun = true → q.left = 1 → q.act = .tariff k → q.payload = some (.schedule sch) → s.desc? 0 k = some d → d.stage = .commit →
    p = q.used.getD (q.pages - 1) 0 → bits s.ecc.flipTarget 2 0 ≠ 4 →
    m = commitRecord { s.mram with
      wear := putKey p (min (wearOf s.mram p + 1) (2 ^ 32 - 1)) s.mram.wear
      strengthAt := delKey p s.mram.strengthAt
      found := delKey p s.mram.found
      cleared := s.mram.cleared.filter (· != p)
      queue := [] } q →
    (m.wear.all fun w => decide (w.2 ≤ 4096)) = true → ∃ t : State, exec (.mramPageProgram (some 0)) s = .next t ∧
      EndsAs { s with mram := m, kpr := { s.kpr with pending := some sch } } t 0 k .ok d.fld.length ∧
      { region := q.region, id := q.id, seq := nextSeqOf s.mram q.region q.id, payload := .schedule sch,
        pages := q.used.reverse, strength := q.strength, sealing := q.sealing } ∈ t.mram.recs) ∧
  (∀ (s u : State) (l : List (Nat × DecodeBits)), s.sys.mode ≠ .vigil → s.sys.mode ≠ .doze → s.ecc.mramAt + mramInterval s ≤ s.us →
    u = { s with
      mram := l.foldl (fun m x => setFound m x.1 x.2) s.mram
      ecc := { s.ecc with mramPos := (s.ecc.mramPos + 1) % 16384, mramAt := s.ecc.mramAt + mramInterval s } } →
    (foundIn u.mram s.ecc.mramPos = some 0 → pageStrength u s.ecc.mramPos = strengthCode u (regionOf s.ecc.mramPos) →
      exec (.mramScrubRead l) s = .next u) ∧
    (∀ c : Nat, foundIn u.mram s.ecc.mramPos = some c → 0 < c → strengthT (pageStrength u s.ecc.mramPos) ≤ 2 * c →
      s.ecc.mramPos ∉ (eccCorrect u 3).mram.refresh → exec (.mramScrubRead l) s = .next { eccCorrect u 3 with
        mram := { (eccCorrect u 3).mram with refresh := (eccCorrect u 3).mram.refresh ++ [s.ecc.mramPos] } }) ∧
    (∀ (m : Mram) (fb : Bool), foundIn u.mram s.ecc.mramPos = none → pageLost u.mram s.ecc.mramPos = (m, fb) →
      exec (.mramScrubRead l) s = .next (eccUncorr { u with mram := m } 3 2 fb false s.ecc.mramPos))) ∧
  (∀ (s : State) (l : List (Nat × DecodeBits)), s.us < s.ecc.mramAt + mramInterval s → exec (.mramScrubRead l) s = .next s) ∧
  (∀ (s : State) (p c : Nat), foundIn s.mram p = some c → 0 < c → 2 * c < strengthT (pageStrength s p) →
    readPage 0 s p = eccCorrect s 3) ∧
  (∀ (m : Mram) (p c : Nat), 0 < c → foundIn (setFound m p (some c)) p = some c ∧ foundIn (setFound m p none) p = none ∧
    foundIn (setFound m p (some 0)) p = some 0) ∧
  (∀ (s : State) (b : Bucket) (q : Prog), (settleTokens s).mram.queue.find? (fun q => q.needs && q.bucket == some b) = some q →
    (q.pages + 1) * 1000000 ≤ tokensIn (settleTokens s).mram b → exec (.tokenBucketRefill b) s = .next (beginIfIdle
      { settleTokens s with
        mram := putProg (spendTokens (settleTokens s).mram b (q.pages + 1)) q (some { q with needs := false }) })) ∧
  (∀ (s : State) (b : Bucket), (settleTokens s).mram.queue.find? (fun q => q.needs && q.bucket == some b) = none →
    exec (.tokenBucketRefill b) s = .next (settleTokens s)) ∧
  (∀ s : State, s.sys.mode = .service → 0x3FF0 ≤ bits s.ecc.rawPage 13 0 → bits s.ecc.flipTarget 2 0 ≠ 4 →
    exec .mramRawProgram s = .next { s with
      mram := { s.mram with raw := putKey (bits s.ecc.rawPage 13 0) (s.ecc.rawData.toList, s.ecc.rawSpare.toList) s.mram.raw }
      ecc := { s.ecc with rawRefused := false } }) ∧
  (∀ s : State, s.sys.mode = .service → bits s.ecc.rawPage 13 0 < 0x3FF0 →
    exec .mramRawProgram s = .next { s with ecc := { s.ecc with rawRefused := true } }) ∧
  (∀ (s : State) (c : Nat) (x : List Word × List Word), s.sys.mode = .service →
    getKey (bits s.ecc.rawPage 13 0) s.mram.raw = some x → ∃ t : State, exec (.mramRawRead (some c)) s = .next t ∧
      t.ecc.rawData = Vector.ofFn (fun i => x.1.getD i.val 0) ∧ t.ecc.rawSpare = Vector.ofFn (fun i => x.2.getD i.val 0) ∧
      t.ecc.rawRefused = false ∧ t.ecc.rawCorrected = min c 12 ∧ t.ecc.rawUncorrectable = false ∧
      t = { s with
        ecc := { s.ecc with
          rawData := t.ecc.rawData, rawSpare := t.ecc.rawSpare, rawRefused := false
          rawCorrected := t.ecc.rawCorrected, rawUncorrectable := false } }) ∧
  (∀ (s : State) (c p : Nat) (r : Rec), s.sys.mode = .service → p = bits s.ecc.rawPage 13 0 → getKey p s.mram.raw = none →
    0x2000 ≤ p → (s.mram.recs ++ s.mram.prev).find? (fun r => r.pages.contains p) = some r →
    ∃ t : State, exec (.mramRawRead (some c)) s = .next t ∧
      t.ecc.rawData = Vector.ofFn (fun i => w32 (le32 (((recordBytes r).drop (256 * r.pages.idxOf p)).take 256) (4 * i.val))) ∧
      t.ecc.rawRefused = false ∧ t.ecc.rawCorrected = min c 12 ∧ t.ecc.rawUncorrectable = false) ∧
  (∀ r : Rec, ∃ tail : List Byte, recordBytes r = leBytes 2 0x5E11 ++ leBytes 1 (recordType r) ++ leBytes 1 (r.pages.length - 1) ++
    leBytes 4 r.id ++ leBytes 4 r.seq ++ leBytes 2 (recordLength r) ++ leBytes 2 0 ++
    leBytes 4 (crc32c (leBytes 2 0x5E11 ++ leBytes 1 (recordType r) ++ leBytes 1 (r.pages.length - 1) ++
      leBytes 4 r.id ++ leBytes 4 r.seq ++ leBytes 2 (recordLength r) ++ leBytes 2 0 ++ bodyList r ++ tail)).toNat ++
    bodyList r ++ tail) ∧
  (∀ (s : State) (b : DecodeBits), s.sys.mode ≠ .service →
    exec .mramRawProgram s = .next s ∧ exec (.mramRawRead b) s = .next s)

/-- A correction fills a leaky bucket whose overflow is an event; the SDRAM scrubber walks due lines; writes clear the counts. A
correction below CAPACITY adds 1 to its bucket; at CAPACITY it empties the bucket, counts an overflow and posts 0x0710. An
uncorrectable error counts and posts 0x0711. The bucket loses 1 at each leak interval of the keeper tick. A due scrub burst
reads a line word by word, writes corrected words back and counts them, poisons a line it cannot correct, only counts one that is
poisoned, and moves on; after the last line a pass counts and the next one starts. Any write to the status and count registers clears them; the flip test is armed by a write in SERVICE with a target up to 4, and by no other. -/
def Obligations.CorrectionsFillLeakyBucketsAndTheScrubberWalks : Prop :=
  (∀ (s : State) (n : Fin 4), (s.ecc.buckets.get n).level < max 1 (bits (s.ecc.buckets.get n).cfg 7 0) →
    eccCorrect s n = { s with ecc := { s.ecc with buckets := s.ecc.buckets.set n { s.ecc.buckets.get n with
      corrected := min ((s.ecc.buckets.get n).corrected + 1) (2 ^ 24 - 1)
      level := (s.ecc.buckets.get n).level + 1 } } }) ∧
  (∀ (s : State) (n : Fin 4) (c o : Nat), c = max 1 (bits (s.ecc.buckets.get n).cfg 7 0) → c ≤ (s.ecc.buckets.get n).level →
    o = min ((s.ecc.buckets.get n).overflows + 1) 65535 → eccCorrect s n = postEvent { s with ecc := { s.ecc with
      buckets := s.ecc.buckets.set n { s.ecc.buckets.get n with
        corrected := min ((s.ecc.buckets.get n).corrected + 1) (2 ^ 24 - 1)
        level := 0, overflows := o } } } 0 0x0710 (w32 (n.val + 256 * c + 65536 * o))) ∧
  (∀ (s : State) (n : Fin 4), (s.ecc.buckets.get n).leakTick + leakTicks (s.ecc.buckets.get n) ≤ s.kpr.tick →
    exec (.bucketLeak n) s = .next { s with ecc := { s.ecc with buckets := s.ecc.buckets.set n { s.ecc.buckets.get n with
      level := (s.ecc.buckets.get n).level - 1
      leakTick := (s.ecc.buckets.get n).leakTick + leakTicks (s.ecc.buckets.get n) } } }) ∧
  (∀ (s : State) (n : Fin 4), s.kpr.tick < (s.ecc.buckets.get n).leakTick + leakTicks (s.ecc.buckets.get n) →
    exec (.bucketLeak n) s = .next s) ∧
  (∀ (s : State) (l : List (Nat × BitVec 64 × BitVec 8)), scrubDue s = true → s.sys.mode ≠ .vigil → s.sys.mode ≠ .doze →
    ∃ u : State, u = { s with ecc := { s.ecc with sdram := l.foldl (fun m x => addFlip m x.1 x.2) s.ecc.sdram } } ∧
      exec (.scrubBurst l) s = .next (scrubNext (scrubLine u s.ecc.scrubPos))) ∧
  (∀ s : State, (s.ecc.scrubPos + 1 < 1835008 → scrubNext s = { s with ecc := { s.ecc with scrubPos := s.ecc.scrubPos + 1 } }) ∧
    (1835008 ≤ s.ecc.scrubPos + 1 → scrubNext s = { s with ecc := { s.ecc with
      scrubPos := 0, passes := min (s.ecc.passes + 1) 65535, passAt := s.us } })) ∧
  (∀ (s : State) (n : Nat), linePoisoned s.ecc n = true → scrubLine s n = { s with ecc := { s.ecc with
    poisoned := min (s.ecc.poisoned + 1) 65535 } }) ∧
  (∀ (s : State) (n : Nat) (m : Mem) (bad : Bool), linePoisoned s.ecc n = false →
    (lineWords n).foldl loadWord ({ cache := s.cache, ecc := s.ecc }, false) = (m, bad) →
    (bad = false → scrubLine s n = memReport s m) ∧
    (bad = true → scrubLine s n =
      if lineRefetched n = true then memReport s ((lineWords n).foldl (storeWord (0, 0)) { m with corr := m.corr ++ [2] })
      else lineSpoilt (memReport s { poisonLine m n with bad := [(2, 1, n)] }) n)) ∧
  (∀ (s : State) (l : List (Nat × BitVec 64 × BitVec 8)), scrubDue s = false → exec (.scrubBurst l) s = .next s) ∧
  (∀ (s : State) (n : Fin 4), barUp s 0 = true →
    exec (.eccBktStatClear n) s = .next { s with ecc := { s.ecc with buckets := s.ecc.buckets.set n { s.ecc.buckets.get n with
      level := 0, overflows := 0 } } } ∧
    exec (.eccCountClear n) s = .next { s with ecc := { s.ecc with buckets := s.ecc.buckets.set n { s.ecc.buckets.get n with
      corrected := 0, uncorrected := 0 } } } ∧
    exec .scrubStatClear s = .next { s with ecc := { s.ecc with passes := 0, poisoned := 0 } }) ∧
  (∀ (s : State) (v : Word), s.sys.mode = .service → 1 ≤ bits v 2 0 → bits v 2 0 ≤ 4 →
    exec (.eccFlipArm v) s = .next { s with ecc := { s.ecc with flipTarget := v &&& 0xF, flipDone := false } }) ∧
  (∀ (s : State) (v : Word), s.sys.mode = .service → bits v 2 0 = 0 →
    exec (.eccFlipArm v) s = .next { s with ecc := { s.ecc with flipTarget := v &&& 0xF } }) ∧
  (∀ (s : State) (v : Word), s.sys.mode ≠ .service ∨ 4 < bits v 2 0 → exec (.eccFlipArm v) s = .next s)

/-- The pool's operations change one buffer's record or are rejected with a cause, counted and reported once a millisecond.
ALLOC takes the stack's top for its account when the request is granted at once, and has no effect yet when not; SHARE and DROP
add and take off a hold, PASS names a new last requester, FREE by the last requester with one hold releases the buffer. A
requester or index that does not exist is rejected with cause 5, a buffer not held with 4, and 1, 2, 3 and 6 are the other
causes. A rejection counts, and the first, and one after a millisecond, posts 0x0780. The stack is refilled below 16 and spilled
above 48 entries. Any write clears FQ_REJECT and FQ_WAIT; an audit in SERVICE rebuilds the free store. -/
def Obligations.PoolOperationsGrantShareFreeAndReject : Prop :=
  (∀ (s : State) (a : Account) (req i : Nat) (p : Pool), req ≤ 14 → grantsNow s a 1 = true → s.pool.stack ≠ [] →
    stackPop s.pool = some (i, p) →
    exec (.alloc req a) s = .next { s with pool := { p with bufs := putKey i { acct := a, holds := 1, last := req } p.bufs } }) ∧
  (∀ (s : State) (a : Account) (req : Nat), req ≤ 14 → grantsNow s a 1 = false → exec (.alloc req a) s = .next s) ∧
  (∀ (s : State) (a : Account) (req : Nat), 14 < req → exec (.alloc req a) s = .next (poolReject s 0 req 0 5)) ∧
  (∀ (s : State) (req idx new : Nat), 14 < req ∨ 22527 < idx →
    exec (.share req idx) s = .next (poolReject s 1 req idx 5) ∧ exec (.drop req idx) s = .next (poolReject s 2 req idx 5) ∧
    exec (.free req idx) s = .next (poolReject s 3 req idx 5) ∧ exec (.pass req idx new) s = .next (poolReject s 4 req idx 5)) ∧
  (∀ (s : State) (req idx new : Nat), req ≤ 14 → idx ≤ 22527 → s.pool.outOfUse.contains idx = false →
    getKey idx s.pool.bufs = none →
    exec (.share req idx) s = .next (poolReject s 1 req idx 4) ∧ exec (.drop req idx) s = .next (poolReject s 2 req idx 4) ∧
    exec (.free req idx) s = .next (poolReject s 3 req idx 4) ∧ exec (.pass req idx new) s = .next (poolReject s 4 req idx 4)) ∧
  (∀ (s : State) (req idx : Nat) (b : Buf), req ≤ 14 → idx ≤ 22527 → s.pool.outOfUse.contains idx = false →
    getKey idx s.pool.bufs = some b →
    (b.holds < 16 → exec (.share req idx) s = .next { s with pool := { s.pool with
      bufs := putKey idx { b with holds := b.holds + 1 } s.pool.bufs } }) ∧
    (16 ≤ b.holds → exec (.share req idx) s = .next (poolReject s 1 req idx 6)) ∧
    (2 ≤ b.holds → exec (.drop req idx) s = .next { s with pool := { s.pool with
      bufs := putKey idx { b with holds := b.holds - 1 } s.pool.bufs } }) ∧
    (b.holds ≤ 1 → exec (.drop req idx) s = .next (poolReject s 2 req idx 3)) ∧
    (b.last ≠ req → exec (.free req idx) s = .next (poolReject s 3 req idx 1)) ∧
    (b.last = req → 2 ≤ b.holds → exec (.free req idx) s = .next (poolReject s 3 req idx 2)) ∧
    (b.last = req → b.holds ≤ 1 → s.pool.queue = [] → exec (.free req idx) s = .next { s with
      pool := stackPush { s.pool with bufs := delKey idx s.pool.bufs } idx })) ∧
  (∀ (s : State) (req idx new : Nat) (b : Buf), req ≤ 14 → idx ≤ 22527 → s.pool.outOfUse.contains idx = false →
    getKey idx s.pool.bufs = some b →
    (new ≤ 14 → b.last = req → exec (.pass req idx new) s = .next { s with pool := { s.pool with
      bufs := putKey idx { b with last := new } s.pool.bufs } }) ∧
    (14 < new → exec (.pass req idx new) s = .next (poolReject s 4 req idx 5)) ∧
    (new ≤ 14 → b.last ≠ req → exec (.pass req idx new) s = .next (poolReject s 4 req idx 1))) ∧
  (∀ (s : State) (op req idx cause : Nat), cause ≠ 0 → (∀ a : Nat, s.pool.rejectAt = some a → a + 1000 ≤ s.us) →
    poolReject s op req idx cause = postEvent { s with pool := { s.pool with
      rejects := min (s.pool.rejects + 1) 65535, lastCause := cause, rejectAt := some s.us } } 0 0x0780
        (w32 (idx % 32768 + req % 32 * 2 ^ 16 + op * 2 ^ 21 + cause * 2 ^ 24))) ∧
  (∀ (s : State) (op req idx cause a : Nat), cause ≠ 0 → s.pool.rejectAt = some a → s.us < a + 1000 →
    poolReject s op req idx cause = { s with pool := { s.pool with
      rejects := min (s.pool.rejects + 1) 65535, lastCause := cause } }) ∧
  (∀ (s : State) (l : List Nat), s.pool.stack.length < 16 → l = ((((ringTake 16 s.pool.ring []).1.reverse.zipIdx.filter
      fun x => wordBad s (ringPlace s.pool x.2 / 8))).map (·.1)) → ∃ t : State, ∃ bad : Bool,
    memRun s (ringOps false s.pool 0) = (t, bad) ∧
    exec .stackRefill s = .next { t with pool := loseEntries (stackRefill t.pool) l }) ∧
  (∀ s : State, 16 ≤ s.pool.stack.length → exec .stackRefill s = .next s) ∧
  (∀ s : State, 48 < s.pool.stack.length → ∃ t : State, ∃ bad : Bool, memRun s (ringOps true s.pool (ringCount s.pool)) = (t, bad) ∧
    exec .stackSpill s = .next { t with pool := { t.pool with
      stack := t.pool.stack.take (t.pool.stack.length - 16)
      ring := (t.pool.stack.drop (t.pool.stack.length - 16)).reverse.foldl (fun r i => ringPut i r) t.pool.ring } }) ∧
  (∀ s : State, s.pool.stack.length ≤ 48 → exec .stackSpill s = .next s) ∧
  (∀ s : State, barUp s 0 = true → exec .fqRejectClear s = .next { s with pool := { s.pool with
    rejects := 0, lost := 0, lastCause := 0 } }) ∧
  (∀ (s : State) (f : FoldId), barUp s f = true → exec (.fqWaitClear f) s = .next (s.modFold f fun x => { x with
    waits := 0, longest := 0 })) ∧
  (∀ s : State, s.sys.mode = .service → exec .fqAuditStart s = .next { s with pool := { s.pool with auditing := true } }) ∧
  (∀ s : State, s.sys.mode ≠ .service → exec .fqAuditStart s = .next s) ∧
  (∀ s : State, s.pool.auditing = true → exec .auditDone s = .next { s with pool := { s.pool with
    auditing := false, lost := 0, lostEntries := [], stack := []
    ring := (s.pool.lostEntries ++ s.pool.stack.reverse).foldl (fun r i => ringPut i r) s.pool.ring } })

/-- Pen copies are flushed and expire unless pinned; ways go off and on; the capture FIFO forms and drops whole packets.
PEN_FLUSH frees an unpinned copy of a named partition and leaves another partition's; a pinned one passes to the transfer
engine. An expired copy is discarded. WAY_OFF puts powered ways on the walk, whose end writes each one's dirty lines back and
gates it; WAY_ON powers ways up, after its walk where one is under way. CAP_DATA reads the oldest word,
CAP_DROP drops the rest of the packet in SERVICE, its trigger starts capture, and a packet whose samples are there is written
whole or counted lost. -/
def Obligations.PenCopiesExpireAndWaysAndTheCaptureFifoAreServed : Prop :=
  (∀ (s : State) (v : Word) (c : PenCopy), barUp s 0 = true → s.pen = [c] → c.removed = false → bit v c.owner.val = true →
    (holdsOf s c.buf ≤ 1 → exec (.penFlush v) s = .next { freeBuf s c.buf with pen := [] }) ∧
    (∀ b : Buf, getKey c.buf s.pool.bufs = some b → 1 < b.holds → exec (.penFlush v) s = .next { s with
      pool := { s.pool with bufs := putKey c.buf { b with last := 8 } s.pool.bufs }
      pen := [{ c with removed := true, blocks := [] }] })) ∧
  (∀ (s : State) (v : Word) (c : PenCopy), barUp s 0 = true → s.pen = [c] → bit v c.owner.val = false →
    exec (.penFlush v) s = .next s) ∧
  (∀ (s : State) (c : PenCopy), s.pen = [c] → c.removed = false → holdsOf s c.buf ≤ 1 → c.placedAt + c.hold * 1000 ≤ s.us →
    exec (.penCopyExpire c.owner) s = .next { freeBuf s c.buf with pen := [] }) ∧
  (∀ (s : State) (f : FoldId), (∀ c ∈ s.pen, s.us < c.placedAt + c.hold * 1000) → exec (.penCopyExpire f) s = .next s) ∧
  (∀ (s : State) (v : Word), barUp s 0 = true → exec (.wayOff v) s = .next { s with cache := { s.cache with
    walks := s.cache.walks ++ (List.range 12).filter fun w =>
      bit v w && (bit s.cache.powered w && !s.cache.walks.contains w) } }) ∧
  (∀ (s t : State) (w : Nat) (r : List Nat), s.cache.walks = w :: r → t = cleanWay { s with cache := { s.cache with walks := r } } w →
    bit t.cache.onAfter w = false → exec .wayWalkDone s = .next { t with cache := { t.cache with
      powered := t.cache.powered &&& ~~~((1 : BitVec 16) <<< w) } }) ∧
  (∀ (s t : State) (w : Nat) (r : List Nat), s.cache.walks = w :: r → t = cleanWay { s with cache := { s.cache with walks := r } } w →
    bit t.cache.onAfter w = true → exec .wayWalkDone s = .next { t with cache := { t.cache with
      powered := t.cache.powered &&& ~~~((1 : BitVec 16) <<< w) ||| ((1 : BitVec 16) <<< w)
      onAfter := t.cache.onAfter &&& ~~~((1 : BitVec 16) <<< w) } }) ∧
  (∀ (s : State) (w : Nat), (s.cache.lines.filter fun l => l.way == w) = [] → cleanWay s w = { s with cache := { s.cache with
    bus := [], writebacks := min s.cache.writebacks 65535 } }) ∧
  (∀ s : State, s.cache.walks = [] → exec .wayWalkDone s = .next s) ∧
  (∀ (s : State) (v : Word), barUp s 0 = true → s.cache.walks = [] → ∃ t : State, exec (.wayOn v) s = .next t ∧
    t = { s with cache := { s.cache with powered := t.cache.powered } } ∧
    ∀ w : Fin 16, t.cache.powered.getLsbD w.val = (s.cache.powered.getLsbD w.val || (bit v w.val && decide (w.val < 12)))) ∧
  (∀ (s : State) (w x : Word) (r : List Word) (rest : List (List Word)), barUp s 0 = true → s.cap.packets = (w :: x :: r) :: rest →
    exec .capDataRead s = .next ({ s with cap := { s.cap with packets := (x :: r) :: rest } }.emit (.regRead w))) ∧
  (∀ s : State, barUp s 0 = true → s.cap.packets = [] → exec .capDataRead s = .next (s.emit (.regRead 0))) ∧
  (∀ (s : State) (p : List Word) (r : List (List Word)), s.sys.mode = .service → s.cap.packets = p :: r →
    exec .capDrop s = .next { s with cap := { s.cap with packets := r } }) ∧
  (∀ s : State, s.sys.mode ≠ .service → exec .capDrop s = .next s ∧ exec .captureTrigger s = .next s) ∧
  (∀ s : State, s.sys.mode = .service → s.cap.running = false →
    (triggerMet s = true → exec .captureTrigger s = .next { s with cap := { s.cap with
      running := true, first := true, formed := 0, lost := 0, strobes := s.servo.strobes, taken := [], passed := 0
      lastStrobe := s.servo.strobes } }) ∧
    (triggerMet s = false → exec .captureTrigger s = .next s)) ∧
  (∀ (s : State) (p : List Word), capReady s = true → p = capPayload s →
    (capCount s.cap + p.length + 2 ≤ 4096 → exec .capturePacket s = .next { s with cap := { s.cap with
      taken := s.cap.taken.drop (capNeeds s.cap), lastStrobe := s.servo.strobes
      packets := s.cap.packets ++ [capHeader s.cap p.length :: w32 (s.servo.strobes - s.cap.strobes) :: p]
      lost := 0, formed := s.cap.formed + 1, first := false } }) ∧
    (4096 < capCount s.cap + p.length + 2 → exec .capturePacket s = .next { s with cap := { s.cap with
      taken := s.cap.taken.drop (capNeeds s.cap), lastStrobe := s.servo.strobes
      lost := min (s.cap.lost + 1) 255, formed := s.cap.formed + 1, first := false } })) ∧
  (∀ s : State, capReady s = false → exec .capturePacket s = .next s)

/-- A whole register write acts by its register's own row or stores the bits the register has; every other write has no effect.
A write without every byte enable, to an unaligned or unlisted offset, to a read-only register, or by folds 1 to 7 to the
platform block changes nothing, and the platform block reads 0 there. A platform register with a row of its own acts as that
row; the others store the value's bits within their fields and read them back. KPR_TICK_LO latches the time. Writes clear the
link, PWR_STAT and governor counts and the platform's governor limits take effect whole; WDG_CTL takes a value whose oscillators
run. DBP_WAKE wakes a sleeping page and counts; MSI-X entries keep what they are given. -/
def Obligations.RegistersOfTheWindowAndThePlatformBlockAreWritten : Prop :=
  (∀ (s : State) (f : FoldId) (off : Nat) (v : Word), exec (.registerWrite (.bar f off v false)) s = .next s) ∧
  (∀ (s : State) (f : FoldId) (off : Nat) (v : Word), f ≠ 0 → 0x1000 ≤ off → off < 0x2000 →
    exec (.registerWrite (.bar f off v true)) s = .next s ∧ readReg s f off = 0) ∧
  (∀ (s : State) (f : FoldId) (off : Nat) (v : Word), off % 4 ≠ 0 ∨ 0x2080 ≤ off →
    exec (.registerWrite (.bar f off v true)) s = .next s) ∧
  (∀ (s : State) (f : FoldId) (off : Nat) (v : Word), off ∈ [0x000, 0x004, 0x008, 0x00C, 0x014, 0x018, 0x0A0, 0x0D0, 0x104] →
    exec (.registerWrite (.bar f off v true)) s = .next s) ∧
  (∀ (s : State) (v : Word), barUp s 0 = true → (∀ p ∈ [(0x1014, Instr.fqRejectClear), (0x1044, .wayOff v), (0x1048, .wayOn v),
      (0x1000, .gntBaseWrite false v), (0x1008, .gntCtlWrite v), (0x1028, .penFlush v), (0x10E0, .govWrite .ctl v),
      (0x10E4, .govWrite .limit v), (0x115C, .haltAck v), (0x1230, .eccFlipArm v), (0x1264, .scrubStatClear)],
    exec (.registerWrite (.bar 0 p.1 v true)) s = exec p.2 s)) ∧
  (∀ (s : State) (v : Word), barUp s 0 = true →
    exec (.registerWrite (.bar 0 0x1020 v true)) s = .next { s with plat := { s.plat with penCtl := v &&& 0xFFFF0003 } } ∧
    exec (.registerWrite (.bar 0 0x1024 v true)) s = .next { s with plat := { s.plat with penDepth := v &&& 0xFFFF } } ∧
    exec (.registerWrite (.bar 0 0x10AC v true)) s = .next { s with pwr := { s.pwr with lossCfg := v &&& 0xFF } } ∧
    exec (.registerWrite (.bar 0 0x10B4 v true)) s = .next { s with sys := { s.sys with modeCfg := v } } ∧
    exec (.registerWrite (.bar 0 0x1260 v true)) s = .next { s with ecc := { s.ecc with scrubCtl := v &&& 0xFFFF } } ∧
    exec (.registerWrite (.bar 0 0x1280 v true)) s = .next { s with ecc := { s.ecc with strength := v &&& 0xFFFF } } ∧
    exec (.registerWrite (.bar 0 0x1290 v true)) s = .next { s with ecc := { s.ecc with rawPage := v &&& 0x3FFF } }) ∧
  (∀ (s t : State) (v : Word), barUp s 0 = true → (∀ p ∈ [(0x1020, (0xFFFF0003 : Word)), (0x1024, 0xFFFF), (0x10AC, 0xFF),
      (0x10B4, 0xFFFFFFFF), (0x1260, 0xFFFF), (0x1280, 0xFFFF), (0x1284, 0x7F), (0x1290, 0x3FFF)],
    exec (.registerWrite (.bar 0 p.1 v true)) s = .next t → readReg t 0 p.1 = v &&& p.2)) ∧
  (∀ (s : State) (f : FoldId) (i : Fin 8) (v : Word), barUp s f = true → (s.fold f).msixEnable = false →
    exec (.registerWrite (.bar f (0x2000 + 16 * i.val + 8) v true)) s = .next (s.modFold f fun x => { x with
      msix := x.msix.set i { x.msix.get i with data := v } })) ∧
  (∀ s : State, barUp s 0 = true → exec .kprTickLoRead s = .next ({ s with kpr := { s.kpr with
    latTickHi := w32 (s.kpr.tick / 2 ^ 32), latCal0 := (calWords s).1, latCal1 := (calWords s).2 } }.emit
      (.regRead (w32 s.kpr.tick)))) ∧
  (∀ s : State, barUp s 0 = true →
    exec (.pwrLinkStatClear 0) s = .next { s with pwr := { s.pwr with links := { s.pwr.links with
      ylm := 0, ylb := 0, resends := 0, lastFault := 0 } } } ∧
    exec .pwrStatClear s = .next { s with pwr := { s.pwr with keepLost := false, lastShutdown := 0, shutdownDie := 0 } } ∧
    exec .govStatClear s = .next { s with pwr := { s.pwr with gov := { s.pwr.gov with overruns := 0 } } }) ∧
  (∀ (s : State) (f : FoldId), f ≠ 0 → exec (.pwrLinkStatClear f) s = .next s) ∧
  (∀ (s : State) (v : Word), barUp s 0 = true →
    (min 50 (bits v 5 0) ≤ min 50 (bits v 13 8) → exec (.govWrite .limit v) s = .next { s with pwr := { s.pwr with
      gov := { s.pwr.gov with limit := v &&& 0x3F3F, n := 0, winMin := 63 } } }) ∧
    (min 50 (bits v 13 8) < min 50 (bits v 5 0) → exec (.govWrite .limit v) s = .next s) ∧
    (govVmin s.pwr.gov ≤ govVmax s.pwr.gov → exec (.govWrite .ctl v) s = .next { s with pwr := { s.pwr with
      gov := { s.pwr.gov with ctl := v &&& 0x3F0F3F01, n := 0, winMin := 63 } } })) ∧
  (∀ (s : State) (v : Word), barUp s 0 = true → s.kpr.crystalOk = true →
    (s.kpr.rcOk = true ∨ (bit v 0 = false ∧ bit v 1 = false) →
      exec (.wdgCtlWrite v) s = .next { s with kpr := { s.kpr with wdgCtl := v &&& 0xFF03 } }) ∧
    (s.kpr.rcOk = false → bit v 0 = true ∨ bit v 1 = true → exec (.wdgCtlWrite v) s = .next s)) ∧
  (∀ (s : State) (f : FoldId), s.sys.entry = none → barUp s f = true → (s.fold f).dbp.en = true → (s.fold f).dbp.pollFault = false →
    (s.fold f).dbp.sleeping = false → exec (.dbpWake f) s = .next (s.modDbp f fun d => { d with
      wakes := min (d.wakes + 1) 65535, interval := 1, pollNow := true })) ∧
  (∀ (s : State) (f : FoldId), s.sys.entry = none → barUp s f = true → (s.fold f).dbp.en = true → (s.fold f).dbp.pollFault = false →
    (s.fold f).dbp.sleeping = true → (s.fold f).dbp.stopped = false → exec (.dbpWake f) s =
      .next (statusBlock (s.modDbp f fun d => { d with
        wakes := min (d.wakes + 1) 65535, interval := 1, pollNow := true, sleeping := false }) f))

/-- The collie is armed with its parameters, judges a token against its window and its challenge, and expires early or late.
COLLIE ARM applies its fields with the next tick as reference and a non-zero challenge drawn, and DISARM disarms. COLLIE SERVE
waits for its tick, and is BAD_FIELD while disarmed. A token inside the window is valid if it is (c x 0x9E3779B9) XOR
ROTL32(SEED, c mod 32): the latch tick becomes the reference, the challenge steps, strikes become 0 and a safe stop ends; a
wrong one below the limit is a strike; one before W_OPEN and the window's close are expiries, which count, set the reference and
step the challenge. On the sideband only four bytes in VIGIL or DOZE are a serve. WDOG_N ends its pulse. -/
def Obligations.TheCollieIsArmedServedAndExpires : Prop :=
  (∀ (s : State) (k : Nat) (d : Desc) (c : Word), runningAs s 0 k .collieArm = some d → bit d.fld.opfield 5 = false →
    s.kpr.wdogLow = false → c = (if Config.randomWord s.draws = 0 then 1 else Config.randomWord s.draws) →
    ∃ t : State, exec (.collieArm k) s = .next t ∧ EndsAs { s with
      draws := s.draws + 1
      kpr := { s.kpr with collie := { s.kpr.collie with
        armed := true, seed := BitVec.ofNat 32 (bits d.fld.opdata 31 0), chal := c, wOpen := bits d.fld.opdata 47 32
        wClose := bits d.fld.opdata 63 48, limit := bits d.fld.opfield 1 0, strikes := 0, ref := s.kpr.tick + 1
        actEvent := bit d.fld.opfield 2, actStop := bit d.fld.opfield 3, actWdog := bit d.fld.opfield 4
        safeStop := false, expiredAt := none } } } t 0 k .ok 0) ∧
  (∀ (s : State) (k : Nat) (d : Desc), runningAs s 0 k .collieArm = some d → bit d.fld.opfield 5 = true →
    s.kpr.wdogLow = false → ∃ t : State, exec (.collieDisarm k) s = .next t ∧ EndsAs { s with kpr := { s.kpr with
      collie := { s.kpr.collie with armed := false, strikes := 0, safeStop := false } } } t 0 k .ok 0) ∧
  (∀ (s : State) (k : Nat) (d : Desc), runningAs s 0 k .collieServe = some d → s.kpr.collie.armed = true →
    exec (.collieServe k) s = .next { s.modDesc 0 k (fun e => { e with stage := .waiting }) with kpr := { s.kpr with
      latch := s.kpr.latch ++ [(k, BitVec.ofNat 32 (bits d.fld.opdata 31 0), s.kpr.tick + 1)] } }) ∧
  (∀ (s : State) (k : Nat) (d : Desc), runningAs s 0 k .collieServe = some d → s.kpr.collie.armed = false →
    ∃ t : State, exec (.collieServe k) s = .next t ∧ EndsAs s t 0 k .badField 0) ∧
  (∀ (s : State) (k n : Nat) (tok c : Word) (r : List (Nat × Word × Nat)) (d : Desc) (e : Nat), s.kpr.latch = (k, tok, n) :: r →
    n ≤ s.kpr.tick → s.desc? 0 k = some d → s.kpr.collie.armed = true → s.kpr.collie.expiredAt ≠ some s.kpr.tick →
    e = (s.kpr.tick - s.kpr.collie.ref) / 32 → s.kpr.collie.wOpen ≤ e → e < s.kpr.collie.wClose → c = s.kpr.collie.chal →
    s.kpr.wdogLow = false →
    ∃ t : State, exec .collieTokenLatch s = .next t ∧
      (tok = (c * 0x9E3779B9) ^^^ s.kpr.collie.seed.rotateLeft (c.toNat % 32) →
        EndsAs { s with kpr := { s.kpr with
          latch := r
          collie := { s.kpr.collie with
            ref := s.kpr.tick, chal := (c >>> 1) ^^^ (if bit c 0 then 0x80200003 else 0), strikes := 0, lastResult := 1
            safeStop := false } } } t 0 k .ok 0) ∧
      (tok ≠ (c * 0x9E3779B9) ^^^ s.kpr.collie.seed.rotateLeft (c.toNat % 32) →
        s.kpr.collie.strikes + 1 < s.kpr.collie.limit → s.kpr.collie.actEvent = false →
        EndsAs { s with kpr := { s.kpr with
          latch := r
          collie := { s.kpr.collie with strikes := s.kpr.collie.strikes + 1, lastResult := 2 } } } t 0 k .ok 0)) ∧
  (∀ (s : State) (tok : Word) (n : Nat), s.kpr.latch = [] → s.kpr.sbToken = some (tok, n) → n ≤ s.kpr.tick →
    s.kpr.collie.armed = true → s.kpr.collie.expiredAt ≠ some s.kpr.tick →
    (s.kpr.tick - s.kpr.collie.ref) / 32 < s.kpr.collie.wOpen → s.kpr.collie.wOpen < s.kpr.collie.wClose →
    exec .collieTokenLatch s = .next (collieExpire { s with kpr := { s.kpr with sbToken := none } } 2 s.kpr.tick)) ∧
  (∀ s : State, s.kpr.collie.armed = true → s.kpr.collie.wClose ≤ (s.kpr.tick - s.kpr.collie.ref) / 32 →
    exec .collieExpiry s = .next (collieExpire s 1 (s.kpr.collie.ref + 32 * s.kpr.collie.wClose))) ∧
  (∀ s : State, s.kpr.collie.armed = false ∨ (s.kpr.tick - s.kpr.collie.ref) / 32 < s.kpr.collie.wClose →
    exec .collieExpiry s = .next s) ∧
  (∀ (s : State) (reason tick : Nat), s.kpr.collie.actStop = false →
    (collieExpire s reason tick).kpr.collie = { s.kpr.collie with
      ref := tick
      chal := (s.kpr.collie.chal >>> 1) ^^^ (if bit s.kpr.collie.chal 0 then 0x80200003 else 0)
      strikes := 0, lastResult := 3, expiredAt := some tick } ∧
    (collieExpire s reason tick).kpr.evidence = { s.kpr.evidence with
      expiries := min (s.kpr.evidence.expiries + 1) 65535, lastCause := 0x0A, lastTick := tick } ∧
    (s.kpr.collie.actWdog = true → (collieExpire s reason tick).kpr.wdogLow = true)) ∧
  (∀ (s : State) (a : Nat) (b : List Byte), sbAnswers s a = true → b.length = 4 → s.kpr.collie.armed = true →
    s.sys.mode = .vigil ∨ s.sys.mode = .doze → exec (.sbServe a b) s = .next { s with kpr := { s.kpr with
      sbToken := some (w32 (le32 b 0), s.kpr.tick + 1) } }) ∧
  (∀ (s : State) (a : Nat) (b : List Byte), sbAnswers s a = true → b.length ≠ 4 ∨ (s.sys.mode ≠ .vigil ∧ s.sys.mode ≠ .doze) →
    exec (.sbServe a b) s = .next { s with kpr := { s.kpr with sbIgnored := min (s.kpr.sbIgnored + 1) 255 } }) ∧
  (∀ (s : State) (u : Nat), s.kpr.wdogUntil = some u → s.kpr.wdogLow = true → s.kpr.wdogBoth = false →
    (u ≤ s.us → exec .wdogPulseEnd s = .next ({ s with kpr := { s.kpr with
      wdogLow := false, wdogUntil := none } }.emit (.wdogN false))) ∧
    (s.us < u → exec .wdogPulseEnd s = .next s))

/-- A missed or wrong service of the internal watchdog, or a memory error, resets Bronze; a start ends in firmware or RESCUE. A
valid token inside the window starts a new window of the internal watchdog; an early, late or wrong one, and the window's close,
reset Bronze with cause 0x07, and an uncorrectable firmware word or tag of ways 12 to 15 with cause 0x08 after its report. A
reset loses every descriptor and Bronze's registers and keeps the MRAM's records. 1 ms later the cause is recorded, INT_RESETS
counts, and Bronze starts. A start ends with every rail up, firmware READY or RESCUE, the disc parked and the mode IDLE or LOAD.
BOOT_FAILS is cleared when READY has held for 10 s. -/
def Obligations.BronzeIsResetAndStartedAgain : Prop :=
  (∀ (s : State) (tok : Word) (e : Nat), bronzeUp s = true → s.kpr.internal.armed = true →
    e = (s.kpr.tick - s.kpr.internal.ref) / 32 →
    (s.kpr.internal.wOpen ≤ e → e < s.kpr.internal.wClose → tok = collieToken s.kpr.internal.seed s.kpr.internal.chal →
      exec (.internalWatchdogServe tok) s = .next { s with kpr := { s.kpr with internal := { s.kpr.internal with
        ref := s.kpr.tick, chal := challengeStep s.kpr.internal.chal } } }) ∧
    (e < s.kpr.internal.wOpen ∨ s.kpr.internal.wClose ≤ e ∨ tok ≠ collieToken s.kpr.internal.seed s.kpr.internal.chal →
      exec (.internalWatchdogServe tok) s = .next (resetBronze s 7)) ∧
    (s.kpr.internal.wClose ≤ e → exec .internalWatchdogExpiry s = .next (resetBronze s 7)) ∧
    (e < s.kpr.internal.wClose → exec .internalWatchdogExpiry s = .next s)) ∧
  (∀ (s : State) (w : Nat), bronzeUp s = true →
    exec (.memoryResetRequest (.sramFirmware w)) s = .next (resetBronze (eccUncorr s 0 0 false false w) 8)) ∧
  (∀ (s : State) (set way : Nat), bronzeUp s = true → 12 ≤ way → way ≤ 15 →
    exec (.memoryResetRequest (.cacheTag set way)) s =
      .next (resetBronze (eccUncorr { s with cache := { s.cache with
        lines := s.cache.lines.filter fun l => !(l.way == way && l.line % 1024 == set % 1024) } } 1 0 false true
          (set % 1024 + 1024 * way)) 8)) ∧
  (∀ (s : State) (set way : Nat), bronzeUp s = true → way < 12 →
    exec (.memoryResetRequest (.cacheTag set way)) s =
      .next (wayTagLost (eccUncorr { s with cache := { s.cache with
        lines := s.cache.lines.filter fun l => !(l.way == way && l.line % 1024 == set % 1024) } } 1 0 false true
          (set % 1024 + 1024 * way)) way)) ∧
  (∀ (s : State) (c : Nat), (resetBronze s c).kpr.restartCause = some c ∧ (resetBronze s c).sys.ready = false ∧
    (resetBronze s c).sys.rescue = false ∧ (∀ f : FoldId, (resetBronze s c).fold f = freshFold s f) ∧
    (resetBronze s c).mram.recs = s.mram.recs ∧ (resetBronze s c).mram.queue = [] ∧ (resetBronze s c).servo.ldEn = false ∧
    (resetBronze s c).kpr.evidence = s.kpr.evidence ∧ (∀ i : Fin 17, (resetBronze s c).slot i = {})) ∧
  (∀ (s : State) (c : Nat), s.kpr.restartCause = some c → s.sys.readyAt + 1000 ≤ s.us → s.sys.ready = false →
    s.kpr.stateLost = false → ∃ t : State, exec .bronzeRestart s = .next t ∧ t.kpr.restartCause = none ∧
      t.kpr.evidence = { s.kpr.evidence with
        intResets := min (s.kpr.evidence.intResets + 1) 65535, lastCause := c, lastTick := s.kpr.tick } ∧
      t.pwr.rails = Vector.replicate 8 true ∧ t.sys.ready = !t.sys.rescue ∧ t.sys.parked = true ∧
      (t.sys.mode = .idle ∨ t.sys.mode = .load)) ∧
  (∀ (s : State) (c : Nat), s.kpr.restartCause = some c → s.us < s.sys.readyAt + 1000 → exec .bronzeRestart s = .next s) ∧
  (∀ (m : Mram) (p : Nat), m.found = [(p, none)] →
    (0x2000 ≤ p → p < 0x3FF0 → scanChooses m = ((pageLost m p).1, [(p, (pageLost m p).2)])) ∧
    (p < 0x2000 ∨ 0x3FF0 ≤ p → scanChooses m = (m, []))) ∧
  (∀ s : State, s.sys.mode = .vigil → s.kpr.running = true → s.pwr.input = true → s.kpr.starting = true →
    ∃ t : State, exec .startUp s = .next t ∧ t.kpr.starting = false ∧ t.kpr.held = false ∧
      t.pwr.rails = Vector.replicate 8 true ∧ t.sys.ready = !t.sys.rescue ∧ t.sys.parked = true ∧
      (t.sys.mode = .idle ∨ t.sys.mode = .load)) ∧
  (∀ s : State, s.sys.mode ≠ .vigil ∨ s.pwr.input = false ∨ s.kpr.starting = false → exec .startUp s = .next s) ∧
  (∀ s : State, s.sys.ready = true → s.sys.mode ≠ .vigil →
    (s.sys.readyAt + 10000000 ≤ s.us → exec .bootFailsClear s = .next { s with kpr := { s.kpr with
      bootFails := 0, bootFailedOnce := false } }) ∧
    (s.us < s.sys.readyAt + 10000000 → exec .bootFailsClear s = .next s))

/-- A stopped oscillator is tripped and counted, the log is committed and read, the sideband serves bytes, and HALT is
acknowledged. A clock trip moves a watchdog that used the stopped oscillator to the other, counts in the evidence and posts
0x07C3; with both stopped WDOG_N is held low until one runs. 30 staged log entries are asked for as a block; LOG READ delivers
the entries from its SEQ on and the oldest and newest at AUX_PTR. The keeper mirror is asked for after 2^27 ticks. The sideband
at its strapped address reads bytes from its pointer on, takes 0xA5 as a wake and counts other writes. An acknowledgement needs the current SEQ, else it
counts as stale; it releases HALT 1 ms after the entry. -/
def Obligations.OscillatorsLogSidebandAndHaltAcknowledgement : Prop :=
  (∀ (s t : State) (d : Dog) (o : Osc), dogRuns s d = true → t = oscStops s o → t.kpr.crystalOk = true ∨ t.kpr.rcOk = true →
    (onRc s d = (o == .rc) → exec (.clockTrip d o) s = .next (postEvent (evidenceChange (setSource t d (o == .crystal)) 0x0B s.kpr.tick
      fun e => { e with clkTrips := min (e.clkTrips + 1) 255 }) 0 0x07C3
        (w32 (b2n (o == .rc) + 256 * min (s.kpr.evidence.clkTrips + 1) 255)))) ∧
    (onRc s d ≠ (o == .rc) → exec (.clockTrip d o) s = .next (postEvent (evidenceChange t 0x0B s.kpr.tick
      fun e => { e with clkTrips := min (e.clkTrips + 1) 255 }) 0 0x07C3
        (w32 (b2n (o == .rc) + 2 + 256 * min (s.kpr.evidence.clkTrips + 1) 255))))) ∧
  (∀ (s : State) (d : Dog), dogRuns s d = true → s.kpr.crystalOk = false → wdogIsLow s = false →
    exec (.clockTrip d .rc) s = .next ({ s with kpr := { s.kpr with rcOk := false, wdogBoth := true } }.emit (.wdogN true))) ∧
  (∀ s : State, s.kpr.wdogBoth = true → s.kpr.wdogLow = false →
    exec (.oscillatorResume .rc) s = .next ({ s with kpr := { s.kpr with rcOk := true, wdogBoth := false } }.emit (.wdogN false)) ∧
    exec (.oscillatorResume .crystal) s = .next ({ s with kpr := { s.kpr with
      crystalOk := true, rcTime := false, wdogBoth := false } }.emit (.wdogN false))) ∧
  (∀ (s : State) (o : Osc), s.kpr.wdogBoth = false → exec (.oscillatorResume o) s = .next s) ∧
  (∀ s : State, s.kpr.running = true → s.kpr.wdogBoth = false → exec .x32CrystalStart s = .next { s with kpr := { s.kpr with
    crystalOk := true, rcTime := false } }) ∧
  (∀ s : State, bronzeRuns s = true → s.kpr.mirrorDirty = false →
    (s.kpr.mirrorTick + 2 ^ 27 ≤ s.kpr.tick → exec .keeperMirrorCommit s = .next (requestMirror s)) ∧
    (s.kpr.tick < s.kpr.mirrorTick + 2 ^ 27 → exec .keeperMirrorCommit s = .next s)) ∧
  (∀ (s : State) (e : LogEntry) (r : List LogEntry), bronzeRuns s = true → s.log.committing = 0 → s.log.staged = e :: r →
    (30 ≤ s.log.staged.length ∨ e.tick + 327680 ≤ s.kpr.tick → exec .logBlockCommit s = .next (requestRecord { s with
      log := { s.log with committing := (s.log.staged.take 30).length } } 5 s.log.nextBlock
        (some (.log (s.log.staged.take 30))) 960 .other (some (.region 5)) .logBlock)) ∧
    (s.log.staged.length < 30 → s.kpr.tick < e.tick + 327680 → exec .logBlockCommit s = .next s)) ∧
  (∀ (s x : State) (k : Nat) (d : Desc) (a b : LogEntry) (l wanted : List LogEntry), runningAs s 0 k .logRead = some d →
    x = readLog s (lbaOf d.fld) → l = (logEntries x).eraseDups → l.head? = some a → l.getLast? = some b → d.fld.auxPtr ≠ 0 →
    wanted = (l.filter fun e => decide (lbaOf d.fld ≤ e.seq)).take (d.fld.length / 32) →
    ∃ t : State, exec (.logRead k) s = .next t ∧ EndsAs (({ x with draws := x.draws + 1 }.modDesc 0 k fun e => { e with
      aux := leBytes 4 a.seq ++ leBytes 4 b.seq }).modDesc 0 k fun e => { e with
        writes := e.writes ++ scatterAt e.list 0 (wanted.flatMap logEntryBytes) }) t 0 k .ok (32 * wanted.length)) ∧
  (∀ (s : State) (a : Nat), sbAnswers s a = true ↔ s.kpr.running = true ∧ a = if s.kpr.addrHigh then 0x5B else 0x5A) ∧
  (∀ (s : State) (a p n : Nat) (v : Byte) (b : List Byte), sbAnswers s a = false → exec (.sbRead a p n) s = .next s ∧
    exec (.sbWake a v) s = .next s ∧ exec (.sbServe a b) s = .next s ∧ exec (.sbIgnoredClear a) s = .next s ∧
    exec (.registerWrite (.sideband a p v)) s = .next s) ∧
  (∀ (s : State) (a p n : Nat), sbAnswers s a = true → exec (.sbRead a p n) s =
    .next (s.emit (.i2c ((List.range n).map fun i => readSb s ((p + i) % 256))))) ∧
  (∀ s : State, readSb s 0 = 0x44 ∧ readSb s 1 = 0xB0 ∧ readSb s 4 = 0 ∧ readSb s 7 = BitVec.ofNat 8 s.kpr.evidence.lastCause ∧
    (∀ i : Fin 16, readSb s (0x20 + i.val) = (timeRecord s).getD i.val 0)) ∧
  (∀ (s : State) (a : Nat), sbAnswers s a = true → exec (.sbWake a 0xA5) s = .next (wake s)) ∧
  (∀ (s : State) (a : Nat) (v : Byte), sbAnswers s a = true → v ≠ 0xA5 → exec (.sbWake a v) s = .next { s with kpr := { s.kpr with
    sbIgnored := min (s.kpr.sbIgnored + 1) 255 } }) ∧
  (∀ (s : State) (a : Nat) (v : Byte), sbAnswers s a = true →
    exec (.registerWrite (.sideband a 5 v)) s = .next { s with kpr := { s.kpr with
      vigilHold := v.toNat % 2 == 1, trayWake := v.toNat / 2 % 2 == 1 } } ∧
    exec (.registerWrite (.sideband a 4 v)) s = exec (.sbWake a v) s) ∧
  (∀ (s : State) (a : Nat), sbAnswers s a = true → exec (.sbIgnoredClear a) s = .next { s with kpr := { s.kpr with sbIgnored := 0 } }) ∧
  (∀ (s : State) (v : Word), barUp s 0 = true → bit v 24 = true →
    (s.halt.inHalt = true ∧ bits v 15 8 = s.halt.seq.toNat → exec (.haltAck v) s =
      .next { s with halt := { s.halt with acked := true } }) ∧
    (¬ (s.halt.inHalt = true ∧ bits v 15 8 = s.halt.seq.toNat) → exec (.haltAck v) s =
      .next { s with halt := { s.halt with ackStale := min (s.halt.ackStale + 1) 255 } })) ∧
  (∀ (s : State) (v : Word), bit v 24 = false → exec (.haltAck v) s = .next s) ∧
  (∀ s : State, s.halt.inHalt = true → s.halt.acked = true →
    (s.halt.at_ + 1000 ≤ s.us → exec .haltRelease s = .next (broadcast { s with
      out := s.out ++ railOuts s true [6, 7]
      halt := { s.halt with inHalt := false, acked := false }
      pwr := { s.pwr with rails := (s.pwr.rails.set 6 true).set 7 true } } 0x0703 0)) ∧
    (s.us < s.halt.at_ + 1000 → exec .haltRelease s = .next s)) ∧
  (∀ s : State, s.halt.acked = false → exec .haltRelease s = .next s)

/-- The governor steps VCORE on each frame by overruns and slack; the mains form, the battery and the keeper start and stop. A
frame with no value settles the code only. An overrun raises it four steps up to VMAX, counts and restarts the window; one at
VMAX only counts and posts 0x07A3 unless one was posted within 32,768 ticks. Slack below FLOOR with no hold raises it one step
and holds for 16 frames; other slack narrows the window's minimum, and the 256th lowers it one step, not below VMIN, where the
minimum is at least FLOOR + HYST. Nickel switches from 76 V, stops, and restarts 1 s after a loss of regulation. The keeper
moves between VIN and the battery, measures it every 60 s, loses its state, and starts on the RC oscillator. TELEMETRY delivers
64 bytes. -/
def Obligations.TheGovernorTheMainsFormAndTheKeepersSupply : Prop :=
  (∀ (s : State) (g : Gov), linksUp s = true → g = govSettle s.pwr.gov →
    (s.pwr.links.cmd.value = .none → exec .governorFrame s = .next { s with pwr := { s.pwr with gov := g } }) ∧
    (s.pwr.links.cmd.value = .overrun → bit g.ctl 0 = true → g.code < govVmax g → exec .governorFrame s = .next { s with pwr := { s.pwr with
      gov := { g with
        code := min (g.code + 4) (govVmax g), overruns := min (g.overruns + 1) 65535, n := 0, winMin := 63, hold := g.hold - 1 } } }) ∧
    (∀ x : Nat, s.pwr.links.cmd.value = .slack x → x ≤ 63 → bit g.ctl 0 = true → x < govFloor g → g.hold = 0 → exec .governorFrame s =
      .next { s with pwr := { s.pwr with gov := { g with
        code := min (g.code + 1) (govVmax g), n := 0, winMin := 63, hold := 15 } } }) ∧
    (∀ x : Nat, s.pwr.links.cmd.value = .slack x → x ≤ 63 → govFloor g ≤ x ∨ 0 < g.hold → g.n < 255 → exec .governorFrame s =
      .next { s with pwr := { s.pwr with gov := { g with winMin := min g.winMin x, n := g.n + 1, hold := g.hold - 1 } } }) ∧
    (∀ x : Nat, s.pwr.links.cmd.value = .slack x → x ≤ 63 → bit g.ctl 0 = true → govFloor g ≤ x ∨ 0 < g.hold → g.n = 255 → g.lowMin = none →
      exec .governorFrame s = .next { s with pwr := { s.pwr with gov := { g with
        code := if govFloor g + govHyst g ≤ min g.winMin x then max (g.code - 1) (govVmin g) else g.code
        lastWin := some (min g.winMin x), lowMin := some (min g.winMin x), n := 0, winMin := 63, hold := g.hold - 1 } } })) ∧
  (∀ (s t : State) (g : Gov), linksUp s = true → g = govSettle s.pwr.gov → bit g.ctl 0 = true → g.code = govVmax g →
    s.pwr.links.cmd.value = .overrun → t = { s with pwr := { s.pwr with gov := { g with overruns := min (g.overruns + 1) 65535 } } } →
    (g.limitTick = none → exec .governorFrame s = .next (postEvent { t with pwr := { t.pwr with
      gov := { t.pwr.gov with limitTick := some s.kpr.tick } } } 0 0x07A3
        (w32 (govVmax g + 65536 * min (g.overruns + 1) 65535)))) ∧
    (∀ n : Nat, g.limitTick = some n → s.kpr.tick < n + 32768 → exec .governorFrame s = .next t)) ∧
  (∀ (s : State) (rms : Nat), s.pwr.mains = true → s.pwr.switching = false → s.pwr.regStop = none →
    (76 ≤ rms → exec (.mainsStart rms) s = .next { s with pwr := { s.pwr with switching := true, regStop := none, auxOk := true } }) ∧
    (rms < 76 → exec (.mainsStart rms) s = .next s)) ∧
  (∀ s : State, s.pwr.mains = true → s.pwr.switching = true →
    exec .mainsStop s = .next { s with pwr := { s.pwr with switching := false, regStop := none, auxOk := false } } ∧
    exec .regulationLoss s = .next { s with pwr := { s.pwr with switching := false, regStop := some s.us, auxOk := false } }) ∧
  (∀ (s : State) (n : Nat), s.pwr.mains = false → exec (.mainsStart n) s = .next s ∧ exec .mainsStop s = .next s ∧
    exec .regulationLoss s = .next s) ∧
  (∀ (s : State) (a : Nat), s.pwr.regStop = some a →
    (a + 1000000 ≤ s.us → exec .regulationRestart s = .next { s with pwr := { s.pwr with
      switching := true, regStop := none, auxOk := true } }) ∧
    (s.us < a + 1000000 → exec .regulationRestart s = .next s)) ∧
  (∀ s : State, s.kpr.running = true → s.pwr.input = false →
    exec .keeperToBattery s = .next { s with pwr := { s.pwr with keepOnBat := true } }) ∧
  (∀ s : State, exec .keeperToVin s = .next { s with pwr := { s.pwr with keepOnBat := false } }) ∧
  (∀ (s : State) (mv : Nat), s.kpr.running = true → s.kpr.vbatTick + 1966080 ≤ s.kpr.tick →
    (2000 ≤ mv → exec (.vbatMeasure mv) s = .next { s with
      pwr := { s.pwr with vbat := mv, batLow := false }
      kpr := { s.kpr with vbatTick := s.kpr.tick } }) ∧
    (1000 ≤ mv → mv < 2000 → s.pwr.batLow = false → bronzeUp s = true → exec (.vbatMeasure mv) s = .next (postEvent { s with
      pwr := { s.pwr with vbat := mv, batLow := true }
      kpr := { s.kpr with vbatTick := s.kpr.tick } } 0 0x07A5 (w32 mv)))) ∧
  (∀ (s : State) (mv : Nat), s.kpr.tick < s.kpr.vbatTick + 1966080 → exec (.vbatMeasure mv) s = .next s) ∧
  (∀ s : State, s.kpr.running = true → s.pwr.keepOnBat = true → s.pwr.input = false → ∃ t : State, exec .keeperLost s = .next t ∧
    t.kpr.running = false ∧ t.kpr.stateLost = true ∧ t.kpr.tick = 0 ∧ t.kpr.collie.armed = false ∧ t.kpr.ledger = {} ∧
    t = { s with kpr := t.kpr, pwr := t.pwr }) ∧
  (∀ (s : State) (b a : Bool), s.kpr.running = false → exec (.keeperPowerUp b a) s = .next { s with
    kpr := { s.kpr with running := true, rcOk := true, addrHigh := a }
    pwr := { s.pwr with keepOnBat := !b } }) ∧
  (∀ (s : State) (f : FoldId) (k : Nat) (d : Desc), runningAs s f k .telemetry = some d → (telemetryRecord s).length = 64 ∧
    ∃ t : State, exec (.telemetry f k) s = .next t ∧ EndsAs ({ s with draws := s.draws + 1 }.modDesc f k fun e => { e with
      writes := e.writes ++ scatterAt e.list 0 (telemetryRecord s) }) t f k .ok 64)

/-- An input loss, an overtemperature and a rail fault make the mechanism safe, record their cause and lower the rails; pacing
steps. An input loss while Lorvaus runs has the mechanism made safe at the next strobe, records its cause in the evidence and
LAST_SHUTDOWN, and stops consumption; in VIGIL it changes no mode. At the rails' fall Lorvaus is in VIGIL with every rail down. The input's return calls
for a start unless VIGIL is held. A fault of VMOT or VPU turns both off, and at the next strobe posts 0x07A4 and enters HALT; any other rail's takes
the module down with a start due after 100 ms. A die at 110 degrees sets THERM_WARN and posts 0x07A0; the thermal rail-down
holds VIGIL for 10 s, and a pending wake starts it once the dies are cool. Pacing changes the class by one, at once or, while
recording, at the next boundary, and posts 0x0706. -/
def Obligations.InputAndThermalShutdownsAndRailFaultsActInOrder : Prop :=
  (∀ (s : State) (c : LossCause), s.pwr.input = true → s.sys.mode ≠ .vigil → s.sys.mode ≠ .doze → s.pwr.shutdown = .none →
    bronzeUp s = true → lossPossible s c = true → s.mram.queue = [] → boundaryDue s = false → ∃ t : State, exec (.inputLoss c) s = .next t ∧
      t.pwr.input = false ∧ (∃ a : Nat, t.pwr.shutdown = .inputLoss a) ∧ PendFault.down ∈ t.halt.pend ∧
      t.pwr.lastShutdown = (if c = .overvoltage then 4 else 1) ∧
      t.kpr.evidence.lastCause = (if c = .overvoltage then 4 else 3)) ∧
  (∀ (s : State) (c : LossCause), s.pwr.input = true → s.sys.mode = .vigil → lossPossible s c = true →
    exec (.inputLoss c) s = .next (inputGone s c)) ∧
  (∀ (s : State) (c : LossCause), s.pwr.input = false → exec (.inputLoss c) s = .next s) ∧
  (∀ s : State, s.pwr.mains = false → exec (.inputLoss .mainsPeak) s = .next s ∧ exec (.inputLoss .mainsRms) s = .next s) ∧
  (∀ (s : State) (a : Nat), s.pwr.shutdown = .inputLoss a → ∃ t : State, exec .inputLossRailDown s = .next t ∧
    t.sys.mode = .vigil ∧ t.sys.ready = false ∧ t.pwr.rails = Vector.replicate 8 false ∧ t.pwr.shutdown = .none ∧
    t.mram.recs = s.mram.recs ∧ t.kpr.evidence = s.kpr.evidence ∧ (∀ f : FoldId, t.fold f = freshFold s f)) ∧
  (∀ s : State, s.sys.mode = .vigil → s.pwr.input = false → s.kpr.running = true → s.pwr.mains = false → s.kpr.stateLost = true →
    exec .inputReturn s = .next { s with
      pwr := { s.pwr with input := true }
      kpr := { s.kpr with
        held := s.kpr.vigilHold || s.pwr.coolUntil.isSome, starting := !(s.kpr.vigilHold || s.pwr.coolUntil.isSome) } }) ∧
  (∀ s : State, s.pwr.input = true ∨ s.sys.mode ≠ .vigil → exec .inputReturn s = .next s) ∧
  (∀ s : State, s.pwr.rails.get 6 = true → exec (.railFault .vmot) s = .next { s.emits (railOuts s false [7, 6]) with
      pwr := { s.pwr with rails := (s.pwr.rails.set 6 false).set 7 false }
      halt := { s.halt with pend := addFault s.halt.pend (.rail 6) } }) ∧
  (∀ s : State, s.pwr.rails.get 7 = true → exec (.railFault .vpu) s = .next { s.emits (railOuts s false [7, 6]) with
      pwr := { s.pwr with rails := (s.pwr.rails.set 6 false).set 7 false }
      halt := { s.halt with pend := addFault s.halt.pend (.rail 7) } }) ∧
  (∀ (n : Nat), faultEvent (.rail n) = (0x07A4, w32 n) ∧ haltCauseOf [.rail 6] = 1 ∧ haltCauseOf [.rail 7] = 3) ∧
  (∀ (s : State) (r : Rail), (railNum r).val < 6 → s.pwr.rails.get (railNum r) = true → ∃ t : State,
    exec (.railFault r) s = .next t ∧ t.sys.mode = .vigil ∧ t.pwr.rails = Vector.replicate 8 false ∧ t.pwr.lastShutdown = 3 ∧
    t.kpr.evidence = { s.kpr.evidence with lastCause := 6, lastTick := s.kpr.tick } ∧ (∃ a : Nat, t.pwr.railDownAt = some a)) ∧
  (∀ (s : State) (a : Nat), s.pwr.railDownAt = some a → s.pwr.input = true →
    (a + 100000 ≤ s.us → exec .railFaultRestart s = .next { s with
      pwr := { s.pwr with railDownAt := none }
      kpr := { s.kpr with starting := true } }) ∧
    (s.us < a + 100000 → exec .railFaultRestart s = .next s)) ∧
  (∀ (s u : State) (t : DieTemps) (n : Nat) (x : Int), u = { s with pwr := { s.pwr with
      temps := { t with nickel := if s.pwr.mains then t.nickel else none } } } → s.sys.mode ≠ .vigil → s.pwr.shutdown = .none →
    bronzeUp s = true → dieAt u.pwr.temps 1250 = none → dieAt u.pwr.temps 1100 = some (n, x) →
    (s.pwr.thermWarn = true → exec (.thermalReading t) s = .next u) ∧
    (s.pwr.thermWarn = false → exec (.thermalReading t) s = .next (postEvent { u with pwr := { u.pwr with thermWarn := true } } 0
      0x07A0 (w32 (n + 256 + 65536 * toBits 16 x))))) ∧
  (∀ (s u : State) (t : DieTemps) (n : Nat) (x : Int), u = { s with pwr := { s.pwr with
      temps := { t with nickel := if s.pwr.mains then t.nickel else none } } } → s.sys.mode ≠ .vigil → s.pwr.shutdown = .none →
    dieAt u.pwr.temps 1250 = some (n, x) → exec (.thermalReading t) s = .next (thermalShutdown u n x)) ∧
  (∀ (s : State) (a : Nat), s.pwr.shutdown = .thermal a →
    (a + 2000 ≤ s.us → ∃ t : State, exec .thermalRailDown s = .next t ∧ t.sys.mode = .vigil ∧ t.kpr.held = true ∧
      t.pwr.rails = Vector.replicate 8 false ∧ t.pwr.coolUntil = some (a + 10000000) ∧ t.kpr.evidence.lastCause = 5) ∧
    (s.us < a + 2000 → exec .thermalRailDown s = .next s)) ∧
  (∀ (s : State) (t : DieTemps) (u : Nat), s.pwr.coolUntil = some u → s.kpr.wakePending = true → s.pwr.input = true → u ≤ s.us →
    s.pwr.mains = false → t.iron < 1050 →
    (t.bronze < 1050 → t.pewter < 1050 → exec (.thermalRestart t) s = .next { s with
      pwr := { s.pwr with coolUntil := none, temps := { t with nickel := none } }
      kpr := { s.kpr with starting := true } }) ∧
    (1050 ≤ t.bronze ∨ 1050 ≤ t.pewter → exec (.thermalRestart t) s = .next { s with
      pwr := { s.pwr with coolUntil := some (s.us + 10000000), temps := { t with nickel := none } } })) ∧
  (∀ (s : State) (d : DiscInfo), s.disc = some d → bronzeUp s = true → s.sys.ready = true → s.job = none → s.spindle.paceDrop = 0 →
    s.spindle.paceNext = none → s.servo.wgate = false → hot110 s.pwr.temps = true → classInUse s d < classesOf d.medium - 1 → ∃ t : State, exec .paceChange s = .next (broadcast t 0x0706
      (w32 (classInUse t d))) ∧ t = { s with spindle := { s.spindle with paceDrop := 1, paceAt := s.us, pacing := true } }) ∧
  (∀ (s : State) (d : DiscInfo), s.disc = some d → bronzeUp s = true → s.sys.ready = true → s.spindle.paceDrop = 0 →
    s.spindle.paceNext = none → s.servo.wgate = true → hot110 s.pwr.temps = true → classInUse s d < classesOf d.medium - 1 →
    exec .paceChange s = .next { s with spindle := { s.spindle with paceNext := some 1, paceAt := s.us, pacing := true } }) ∧
  (∀ (s : State) (d : DiscInfo), s.disc = some d → s.spindle.paceDrop ≠ 0 → s.us < s.spindle.paceAt + 10000000 →
    exec .paceChange s = .next s)

/-- TIME READ delivers the record of one tick; TIME SET steps the calendar at its tick or slews it, and both are reported. TIME
READ delivers 16 bytes. TIME SET with a date that does not exist is BAD_DATE and with a field out of range BAD_FIELD; a good
step waits for its tick. At that tick the calendar takes the new value, is valid, leaves its end, the ledger counts the step,
the new interval opens marked, 0x07B0 goes to fold 0 and the descriptor ends OK. A slew sets round(OFFSET x 32.768) ticks to go
and marks the interval; when they are over 0x07B1 is posted with 1. The calendar's last tick posts 0x07B2 once. -/
def Obligations.TimeIsReadSteppedAndSlewed : Prop :=
  (∀ (s : State) (f : FoldId) (k : Nat) (d : Desc), runningAs s f k .timeRead = some d → (timeRecord s).length = 16 ∧
    ∃ t : State, exec (.timeRead f k) s = .next t ∧ EndsAs (s.modDesc f k fun e => { e with
      writes := e.writes ++ scatterAt e.list 0 (timeRecord s) }) t f k .ok 16) ∧
  (∀ (s : State) (k : Nat) (d : Desc) (r : List Byte), runningAs s 0 k .timeSet = some d → byteAt r 0 = 0 → byteAt r 1 = 0 →
    le16 r 2 < 32768 → byteAt r 9 = 0 →
    dateOk (le16 r 10) (byteAt r 8) (byteAt r 7) (byteAt r 6) (byteAt r 5) (byteAt r 4) = false →
    ∃ t : State, exec (.timeSetStep k r) s = .next t ∧ EndsAs s t 0 k .badDate 0) ∧
  (∀ (s : State) (k : Nat) (d : Desc) (r : List Byte), runningAs s 0 k .timeSet = some d → byteAt r 0 = 0 →
    byteAt r 1 ≠ 0 ∨ 32768 ≤ le16 r 2 ∨ byteAt r 9 ≠ 0 →
    ∃ t : State, exec (.timeSetStep k r) s = .next t ∧ EndsAs s t 0 k .badField 0) ∧
  (∀ (s : State) (k : Nat) (d : Desc) (r : List Byte), runningAs s 0 k .timeSet = some d → byteAt r 0 = 0 → byteAt r 1 = 0 →
    le16 r 2 < 32768 → byteAt r 9 = 0 →
    dateOk (le16 r 10) (byteAt r 8) (byteAt r 7) (byteAt r 6) (byteAt r 5) (byteAt r 4) = true → le32 r 12 = 0 →
    exec (.timeSetStep k r) s = .next { s.modDesc 0 k (fun e => { e with stage := .waiting }) with kpr := { s.kpr with
      step := some (s.kpr.tick + 1, dayOfDate (le16 r 10) (byteAt r 8) (byteAt r 7) * 86400 + byteAt r 6 * 3600 + byteAt r 5 * 60 +
        byteAt r 4, le16 r 2, k) } }) ∧
  (∀ (s : State) (at_ cal sub k : Nat) (d : Desc), s.kpr.step = some (at_, cal, sub, k) → at_ ≤ s.kpr.tick → boundaryDue s = false →
    s.kpr.slew = 0 → s.desc? 0 k = some d → cal ≠ s.kpr.ledger.openI.start ∨ s.kpr.cal = s.kpr.ledger.openI.start →
    ∃ t : State, exec .timeStep s = .next t ∧ t.kpr.step = none ∧ t.kpr.cal = cal ∧ t.kpr.subsec = sub ∧ t.kpr.calValid = true ∧
      t.kpr.atEnd = false ∧ t.kpr.tick = s.kpr.tick ∧ t.kpr.ledger.steps = min (s.kpr.ledger.steps + 1) 65535 ∧
      t.kpr.ledger.openI.start = cal ∧ t.kpr.ledger.openI.shortTimeSet = true ∧ t.kpr.ledger.openI.noTime = false) ∧
  (∀ (s : State) (at_ cal sub k : Nat), s.kpr.step = some (at_, cal, sub, k) → s.kpr.tick < at_ → exec .timeStep s = .next s) ∧
  (∀ (s : State) (k : Nat) (d : Desc) (r : List Byte) (off : Int), runningAs s 0 k .timeSet = some d → byteAt r 0 = 1 →
    byteAt r 1 = 0 → off = int32 (le32 r 12) → off.natAbs ≤ 60000 → off ≠ 0 → s.kpr.calValid = true → s.kpr.slew = 0 →
    ∃ t : State, exec (.timeSetSlew k r) s = .next t ∧ EndsAs { s with kpr := { s.kpr with
      slew := roundDiv (off * 32768) 1000, slewPhase := 0
      ledger := { s.kpr.ledger with openI := { s.kpr.ledger.openI with slewed := true } } } } t 0 k .ok 0) ∧
  (∀ (s : State) (k : Nat) (d : Desc) (r : List Byte), runningAs s 0 k .timeSet = some d → byteAt r 0 = 1 →
    s.kpr.calValid = false ∨ 60000 < (int32 (le32 r 12)).natAbs →
    ∃ t : State, exec (.timeSetSlew k r) s = .next t ∧ EndsAs s t 0 k .badField 0) ∧
  (∀ s : State, s.kpr.slew = 0 → s.kpr.slewPhase = 1000 → exec .slewEnd s = .next (postEvent { s with kpr := { s.kpr with
    slewPhase := 0 } } 0 0x07B1 1)) ∧
  (∀ s : State, s.kpr.slew ≠ 0 ∨ s.kpr.slewPhase ≠ 1000 → exec .slewEnd s = .next s) ∧
  (∀ s : State, s.kpr.cal = 146097 * 86400 - 1 → s.kpr.subsec = 32767 →
    (s.kpr.atEnd = false → exec .calendarEnd s = .next (postEvent { s with kpr := { s.kpr with atEnd := true } } 0 0x07B2 0)) ∧
    (s.kpr.atEnd = true → exec .calendarEnd s = .next s))

/-- Measured energy joins the open interval, a boundary charges it to its band and opens the next, and the ledger is read whole.
ENERGY READ delivers the 128-byte snapshot or the 1,536-byte ring. ENERGY CLOSE waits for the next boundary; TARIFF SET of a
record that is rejected is BAD_FIELD and of a good one asks for its record. A meter update adds its energy to the open interval
and sets P_NOW, and none is added in an outage. A boundary that is due closes the open interval into the ring, charges its
energy to its band, keeps the greatest demand, and opens the next under the band in force; with a close waiting it delivers the
snapshot and starts the period anew. -/
def Obligations.EnergyIsMeteredChargedAndRead : Prop :=
  (∀ (s : State) (f : FoldId) (k : Nat) (d : Desc), runningAs s f k .energyRead = some d → bit d.fld.opfield 0 = false →
    ∃ t : State, exec (.energyReadSnapshot f k) s = .next t ∧ EndsAs (s.modDesc f k fun e => { e with
      writes := e.writes ++ scatterAt e.list 0 (ledgerSnapshot s) }) t f k .ok 128) ∧
  (∀ (s : State) (f : FoldId) (k : Nat) (d : Desc), runningAs s f k .energyRead = some d → bit d.fld.opfield 0 = true →
    (s.kpr.ledger.ring.length ≤ 96 → (ringBytes s.kpr.ledger).length = 1536) ∧
    ∃ t : State, exec (.energyReadRing f k) s = .next t ∧ EndsAs (s.modDesc f k fun e => { e with
      writes := e.writes ++ scatterAt e.list 0 (ringBytes s.kpr.ledger) }) t f k .ok 1536) ∧
  (∀ (s : State) (k : Nat) (d : Desc), runningAs s 0 k .energyClose = some d →
    exec (.energyClose k) s = .next { s.modDesc 0 k (fun e => { e with stage := .waiting }) with kpr := { s.kpr with
      closing := s.kpr.closing ++ [k] } }) ∧
  (∀ (s : State) (k : Nat) (d : Desc) (r : List Byte), runningAs s 0 k .tariffSet = some d → tariffOf r = none →
    ∃ t : State, exec (.tariffSet k r) s = .next t ∧ EndsAs s t 0 k .badField 0) ∧
  (∀ (s : State) (k : Nat) (d : Desc) (r : List Byte) (x : Tariff), runningAs s 0 k .tariffSet = some d → tariffOf r = some x →
    exec (.tariffSet k r) s = .next (requestRecord (s.modDesc 0 k fun e => { e with stage := .commit }) 4 1 (some (.schedule x)) 64
      .other (some (.region 4)) (.tariff k))) ∧
  (∀ (s : State) (n mw hz : Nat), s.pwr.input = true → exec (.meterUpdate n mw hz) s = .next { s with
    kpr := { s.kpr with ledger := { s.kpr.ledger with
      openEnergy := s.kpr.ledger.openEnergy + n, pNow := min mw (2 ^ 32 - 1) } }
    pwr := { s.pwr with acFreqBad := s.pwr.mains && (decide (hz < 45000) || decide (65000 < hz)) } }) ∧
  (∀ (s : State) (n mw hz : Nat), s.pwr.input = false → exec (.meterUpdate n mw hz) s = .next s) ∧
  (∀ (s : State) (l : Ledger) (e : Interval) (b : Nat) (i : Fin 4) (dem : Nat), boundaryDue s = true → bronzeRuns s = false →
    l = s.kpr.ledger → b = nextBoundary s.kpr.tariff l.openI.start → s.kpr.closing = [] → s.kpr.pending = none →
    e = { l.openI with
      lengthS := min (b - l.openI.start) 65535, energy := min (l.openEnergy / 1000) (2 ^ 32 - 1) } →
    i = Fin.ofNat 4 l.openI.band → dem = l.openEnergy / 1000 * 60 / (s.kpr.tariff.interval * 1000) → b ≠ l.openI.start →
    exec .intervalBoundary s = .next { s with kpr := { s.kpr with ledger := { l with
      ring := (l.ring ++ [e]).drop (l.ring.length - 95)
      energy := l.energy.set i (l.energy.get i + l.openEnergy)
      maxDemand := if (l.maxDemand.get i).1 < dem then l.maxDemand.set i (dem, l.openI.start / 60) else l.maxDemand
      openEnergy := 0
      openI := {
        start := b, lengthS := 0, band := bandAt s.kpr.tariff b, noTime := !s.kpr.calValid, slewed := s.kpr.slew != 0 } } } }) ∧
  (∀ s : State, boundaryDue s = false → exec .intervalBoundary s = .next s) ∧
  (∀ (s : State) (b k : Nat) (r : List Nat) (d : Desc), s.kpr.closing = k :: r → s.desc? 0 k = some d →
    EndsAs ({ s with kpr := { s.kpr with
      closing := r
      ledger := { s.kpr.ledger with
        energy := Vector.replicate 4 0, maxDemand := Vector.replicate 4 (0, 0), period := (s.kpr.ledger.period + 1) % 2 ^ 32
        periodStart := b, losses := 0, steps := 0 } } }.modDesc 0 k fun e => { e with
          writes := e.writes ++ scatterAt e.list 0 (ledgerSnapshot s) }) (billingClose s b) 0 k .ok 128)

/-- Each servo profile applies whole or is BAD_FIELD; LOOP_BANK writes no active bank and BANK_SWAP waits for a strobe.
LOOP_RATE, with no disc or in SERVICE with the spindle stopped, takes the rate, returns every other profile to its built-in
values and asks for a synchronising reset. LOOP_BANK replaces the stored banks it names and, where they are in use, writes the
loop's inactive bank, which is not VALID until the next strobe ends the write, never the active one; it waits while a swap of its
loop is pending. BANK_SWAP of loops whose inactive banks are all VALID waits for the next strobe. SIGNAL and SEQUENCE replace the
profile of their class, in force from the next strobe where it is the class in use, SERVO_RESYNC asks for a reset, APC sets its
target and ceiling, and an output above the ceiling falls to it. A payload out of range ends BAD_FIELD and changes nothing. -/
def Obligations.ServoProfilesApplyWholeOrAreRefused : Prop :=
  (∀ (s : State) (k : Nat) (r q : List Byte), q = fit 16 r → ProfileTaken (.loopRate k r) s k 0x10
    (byteAt q 0 ≤ 2 ∧ zeroBytes q 1 15 = true ∧ (s.disc = none ∨ s.sys.mode = .service ∧ s.spindle.st = .stopped))
    (askResync { profilesDefault s with servo := { (profilesDefault s).servo with rate := byteAt q 0 } })) ∧
  (∀ (s t : State), s.sled.shadow = none → t = profilesDefault s → t.servo.stored = [] ∧ t.servo.signal = Vector.replicate 3 {} ∧
    t.servo.sequence = Vector.replicate 3 {} ∧ t.servo.apcTarget = none ∧ t.servo.apcMax = none ∧ t.spindle.prof = {} ∧
    t.sled.prof = {} ∧ t.loader.prof = {} ∧ t.chan.prof = ({} : Channel).prof ∧ t.chan.look = ({} : Channel).look ∧
    t.recd.strategies = [] ∧ t.recd.lds = {} ∧ t.cap.source = 0 ∧ t.cap.trigger = 0 ∧ t.cap.decimate = 1 ∧
    (s.sled.move = .rest → t.sled.table = .builtin ∧ t.sled.shadow = none) ∧
    (s.sled.move ≠ .rest → t.sled.table = s.sled.table ∧ t.sled.shadow = some (.builtin, none)) ∧
    t.folds = s.folds ∧ t.mram = s.mram ∧ t.kpr = s.kpr ∧ t.plat = s.plat ∧ t.disc = s.disc ∧ t.job = s.job ∧ t.servo.loops = s.servo.loops) ∧
  (∀ (s : State) (k : Nat) (r q : List Byte), q = fit 160 r → swapPending s (byteAt q 0) = true →
    exec (.loopBank k r) s = .next s) ∧
  (∀ (s : State) (k : Nat) (r q : List Byte), q = fit 160 r → swapPending s (byteAt q 0) = false → bankInUse s q = false →
    ProfileTaken (.loopBank k r) s k 0x11 (bankOk q = true) (storeBanks s q)) ∧
  (∀ (s : State) (k : Nat) (d : Desc) (r q : List Byte), q = fit 160 r → runningAs s 0 k .profileLoad = some d →
    bits d.fld.opfield 7 0 = 0x11 → swapPending s (byteAt q 0) = false → bankInUse s q = true →
    (bankOk q = true → exec (.loopBank k r) s = .next (beginBankWrite (storeBanks s q) k q)) ∧
    (bankOk q = false → ∃ t : State, exec (.loopBank k r) s = .next t ∧ EndsAs s t 0 k .badField 0)) ∧
  (∀ (s : State) (q : List Byte), bankInUse s q = true ↔ s.disc.isSome = true ∧ (classNow s).val = byteAt q 1 ∧
    (byteAt q 2 ≠ 255 ∧ s.servo.layer = byteAt q 2 ∨ byteAt q 2 = 255 ∧ s.servo.layer ≤ 2)) ∧
  (∀ (s t : State) (k : Nat) (q : List Byte), t = beginBankWrite s k q →
    t.servo.bankWrites = s.servo.bankWrites ++ [(byteAt q 0, bankAt q, k)] ∧
    t = { s.modDesc 0 k (fun e => { e with stage := .waiting }) with servo := { s.servo with
      bankWrites := t.servo.bankWrites, loops := t.servo.loops } } ∧
    ∀ i : Fin 6, t.servo.loops.get i = if i.val = byteAt q 0 then { s.servo.loops.get i with inactiveValid := false }
      else s.servo.loops.get i) ∧
  (∀ (s : State) (l k : Nat) (b : Bank), s.servo.bankWrites = [(l, b, k)] → endBankWrites s =
    profileDone (writeBank { s with servo := { s.servo with bankWrites := [] } } l b) k) ∧
  (∀ (s t : State) (l : Nat) (b : Bank), t = writeBank s l b → t = { s with servo := { s.servo with loops := t.servo.loops } } ∧
    ∀ i : Fin 6, t.servo.loops.get i = if i.val = l then { s.servo.loops.get i with inactive := .loaded b, inactiveValid := true }
      else s.servo.loops.get i) ∧
  (∀ (s : State) (q : List Byte), storeBanks s q = { s with servo := { s.servo with stored := (storeBanks s q).servo.stored } }) ∧
  (∀ (s : State) (q : List Byte) (y : Nat), (y = byteAt q 2 ∧ y ≠ 255 ∨ byteAt q 2 = 255 ∧ y ≤ 2) →
    (byteAt q 0, byteAt q 1, y, bankAt q) ∈ (storeBanks s q).servo.stored) ∧
  (∀ (s : State) (k : Nat) (d : Desc) (r q : List Byte), q = fit 16 r → runningAs s 0 k .profileLoad = some d →
    bits d.fld.opfield 7 0 = 0x12 → s.servo.swap = none → s.servo.swapped = none →
    (swapOk s q = true → exec (.bankSwap k r) s = .next { s.modDesc 0 k (fun e => { e with stage := .waiting }) with
      servo := { s.servo with swap := some (BitVec.ofNat 6 (byteAt q 0), byteAt q 1 == 1, k) } }) ∧
    (swapOk s q = false → ∃ t : State, exec (.bankSwap k r) s = .next t ∧ EndsAs s t 0 k .badField 0)) ∧
  (∀ (s : State) (q : List Byte), (∃ i : Fin 6, (BitVec.ofNat 6 (byteAt q 0)).getLsbD i.val = true ∧
    (s.servo.loops.get i).inactiveValid = false) → swapOk s q = false) ∧
  (∀ (s : State) (k : Nat) (r q : List Byte) (i : Fin 3), q = fit 64 r → i.val = byteAt q 0 → ProfileTaken (.signal k r) s k 0x13
    (signalOk q = true) (useProfile { s with servo := { s.servo with signal := s.servo.signal.set i {
      teMode := byteAt q 1, kAuto := bit (BitVec.ofNat 8 (byteAt q 2)) 0, tiltEn := bit (BitVec.ofNat 8 (byteAt q 2)) 1
      kDpp := q24 q 4, tiltFixed := q24 q 8, w := (List.range 8).map fun j => q24 q (12 + 4 * j) } } } i.val)) ∧
  (∀ (s : State) (n : Nat), (s.disc.isSome = true → (classNow s).val = n →
      useProfile s n = { s with servo := { s.servo with profLoad := true } }) ∧
    (s.disc = none ∨ (classNow s).val ≠ n → useProfile s n = s)) ∧
  (∀ s : State, s.servo.profLoad = true → takeProfiles s = { s with servo := { s.servo with
    profLoad := false, signalIn := s.servo.signal.get (classNow s), sequenceIn := s.servo.sequence.get (classNow s) } }) ∧
  (∀ (s : State) (k : Nat) (d : Desc) (r : List Byte), runningAs s 0 k .profileLoad = some d → bits d.fld.opfield 7 0 = 0x13 →
    2 < byteAt (fit 64 r) 0 → ∃ t : State, exec (.signal k r) s = .next t ∧ EndsAs s t 0 k .badField 0) ∧
  (∀ (s : State) (k : Nat) (r q : List Byte) (i : Fin 3), q = fit 64 r → i.val = byteAt q 0 → ProfileTaken (.sequence k r) s k 0x14
    (zeroBytes q 1 1 = true ∧ (100 ≤ le16 q 2 ∧ le16 q 2 ≤ 1000) ∧ (20 ≤ le16 q 4 ∧ le16 q 4 ≤ 500) ∧ (1 ≤ le16 q 6 ∧ le16 q 6 ≤ 8) ∧
      (50 ≤ le16 q 14 ∧ le16 q 14 ≤ 2000) ∧ (10 ≤ le16 q 16 ∧ le16 q 16 ≤ 500) ∧ (1 ≤ le16 q 20 ∧ le16 q 20 ≤ 1000) ∧
      (50 ≤ le16 q 24 ∧ le16 q 24 ≤ 2000) ∧ (100 ≤ le16 q 28 ∧ le16 q 28 ≤ 1000) ∧ zeroBytes q 0x1E 0x3F = true)
    (useProfile { s with servo := { s.servo with sequence := s.servo.sequence.set i (sequenceAt q) } } i.val)) ∧
  (∀ (s : State) (k : Nat) (r q : List Byte), q = fit 16 r → ProfileTaken (.servoResync k r) s k 0x15 (zeroBytes q 0 15 = true)
    { s with servo := { s.servo with resync := true } }) ∧
  (∀ (s : State) (k : Nat) (r q : List Byte), q = fit 16 r → ProfileTaken (.apc k r) s k 0x16
    (le16 q 0 ≤ 511 ∧ le16 q 2 ≤ 1023 ∧ zeroBytes q 4 15 = true)
    (limitApc { s with servo := { s.servo with apcTarget := some (le16 q 0), apcMax := some (le16 q 2) } })) ∧
  (∀ s : State, ((s.servo.loops.get 3).out ≤ apcTop s → limitApc s = s) ∧ (apcTop s < (s.servo.loops.get 3).out →
    limitApc s = { s with
      servo := { s.servo with loops := s.servo.loops.set 3 { s.servo.loops.get 3 with out := apcTop s, next := none } }
      out := s.out ++ [.loopOut 3 (outCode 3 (apcTop s))] }))

/-- SPINDLE, SLED and LOADER profiles within their ranges are stored; a microstep table goes through the shadow. A SPINDLE, SLED
or LOADER payload whose fields lie in the ranges of Table 7.8 and whose reserved bytes are 0 is stored, and is in force at once
while its motor does not move, from the next start or move otherwise; any other payload is BAD_FIELD and changes nothing. A
SLED_TABLE of ten-bit entries, or the built-in table, is used at once while the sled is at rest, else waits for the next full
step; behind a waiting table the row waits. -/
def Obligations.MotionAndLoaderProfilesApplyWholeOrAreRefused : Prop :=
  (∀ (s : State) (k : Nat) (r q : List Byte), q = fit 32 r → ProfileTaken (.spindle k r) s k 0x20
    ((1 ≤ byteAt q 0 ∧ byteAt q 0 ≤ 8) ∧ byteAt q 1 ≤ 1 ∧ byteAt q 2 ≤ 30 ∧ (5 ≤ byteAt q 3 ∧ byteAt q 3 ≤ 40) ∧
      (200 ≤ le16 q 4 ∧ le16 q 4 ≤ 1000) ∧ (1000 ≤ le16 q 6 ∧ le16 q 6 ≤ 6400) ∧ (500 ≤ le16 q 8 ∧ le16 q 8 ≤ 3000) ∧
      (10 ≤ le16 q 10 ∧ le16 q 10 ≤ 500) ∧ (100 ≤ le16 q 12 ∧ le16 q 12 ≤ 1000) ∧ (2 ≤ le16 q 14 ∧ le16 q 14 ≤ 50) ∧
      (1 ≤ le16 q 16 ∧ le16 q 16 ≤ 64) ∧ (100 ≤ le16 q 18 ∧ le16 q 18 ≤ 1500) ∧ (1 ≤ le16 q 20 ∧ le16 q 20 ≤ 5) ∧
      (100 ≤ le16 q 22 ∧ le16 q 22 ≤ 1000) ∧ zeroBytes q 0x18 0x1F = true)
    { s with spindle := { s.spindle with
      prof := spindleAt q, inUse := if s.spindle.st = .stopped then spindleAt q else s.spindle.inUse } }) ∧
  (∀ q : List Byte, spindleAt q = {
    polePairs := byteAt q 0, hallEn := byteAt q 1 == 1, commAdv := byteAt q 2, blank := byteAt q 3, ilim := le16 q 4
    spinMax := le16 q 6, idleRpm := le16 q 8, alignT := le16 q 10, alignI := le16 q 12, startT0 := le16 q 14, ramp := le16 q 16
    handover := le16 q 18, startTries := le16 q 20, stopRpm := le16 q 22 }) ∧
  (∀ (s : State) (k : Nat) (r q : List Byte), q = fit 48 r → ProfileTaken (.sled k r) s k 0x21
    (le16 q 0 ≤ 1 ∧ (100 ≤ le16 q 2 ∧ le16 q 2 ≤ 2500) ∧ (1000 ≤ le32 q 4 ∧ le32 q 4 ≤ 100000) ∧
      (100000 ≤ le32 q 8 ∧ le32 q 8 ≤ 10000000) ∧ (50 ≤ le16 q 12 ∧ le16 q 12 ≤ 350) ∧ le16 q 14 ≤ 350 ∧
      (10 ≤ le16 q 16 ∧ le16 q 16 ≤ 500) ∧ (10 ≤ le16 q 18 ∧ le16 q 18 ≤ 500) ∧ (50 ≤ le16 q 20 ∧ le16 q 20 ≤ 1000) ∧
      (100 ≤ le16 q 22 ∧ le16 q 22 ≤ 2000) ∧ le32 q 24 ≤ 30000 ∧ le16 q 28 ≤ 10000 ∧ (1 ≤ le16 q 30 ∧ le16 q 30 ≤ 8) ∧
      zeroBytes q 0x20 0x2F = true)
    { s with sled := { s.sled with prof := sledAt q, inUse := if s.sled.move = .rest then sledAt q else s.sled.inUse } }) ∧
  (∀ q : List Byte, sledAt q = {
    sCurve := le16 q 0 == 1, vMax := le16 q 2, accel := le32 q 4, jerk := le32 q 8, sledI := le16 q 12, holdI := le16 q 14
    pitch := le16 q 16, followV := le16 q 18, homeV := le16 q 20, homeMax := le16 q 22, homePos := le32 q 24
    seekSettle := le16 q 28, seekTries := le16 q 30 }) ∧
  (∀ (s : State) (k : Nat) (r q : List Byte), q = fit 16 r → ProfileTaken (.loader k r) s k 0x23
    (byteAt q 0 ≤ 1 ∧ byteAt q 1 ≤ 1 ∧ (20 ≤ le16 q 2 ∧ le16 q 2 ≤ 100) ∧ (100 ≤ le16 q 4 ∧ le16 q 4 ≤ 800) ∧
      (500 ≤ le16 q 6 ∧ le16 q 6 ≤ 5000) ∧ (10 ≤ le16 q 8 ∧ le16 q 8 ≤ 200) ∧ zeroBytes q 10 15 = true)
    { s with loader := { s.loader with prof := {
      solenoid := byteAt q 0 == 1, btnEn := byteAt q 1 == 1, duty := le16 q 2, ilim := le16 q 4, tmax := le16 q 6
      solT := le16 q 8 } } }) ∧
  (∀ (s : State) (c : Instr) (k ty : Nat) (d : Desc) (r : List Byte) (e : List Nat) (x : TableRef),
    c = .sledTable k r ∧ ty = 0x22 ∧ e = tableAt (fit 512 r) ∧ x = .loaded e ∧ (∀ v ∈ e, v < 1024) ∨
      c = .sledTableDefault k r ∧ ty = 0x24 ∧ x = .builtin ∧ zeroBytes (fit 16 r) 0 15 = true →
    runningAs s 0 k .profileLoad = some d → bits d.fld.opfield 7 0 = ty →
    (s.sled.shadow ≠ none → exec c s = .next s) ∧
    (s.sled.shadow = none → s.sled.move = .rest → ∃ t : State, exec c s = .next t ∧
      EndsAs { s with sled := { s.sled with table := x } } t 0 k .ok d.fld.length) ∧
    (s.sled.shadow = none → s.sled.move ≠ .rest → exec c s = .next ({ s with sled := { s.sled with
      shadow := some (x, some k) } }.modDesc 0 k fun g => { g with stage := .waiting }))) ∧
  (∀ q : List Byte, (tableAt q).length = 256 ∧ ∀ i : Nat, i < 256 → (tableAt q)[i]? = some (le16 q (2 * i))) ∧
  (∀ (s : State) (c : Instr) (k ty : Nat) (d : Desc) (r : List Byte),
    c = .sledTable k r ∧ ty = 0x22 ∧ (∃ v ∈ tableAt (fit 512 r), 1024 ≤ v) ∨
      c = .sledTableDefault k r ∧ ty = 0x24 ∧ zeroBytes (fit 16 r) 0 15 = false →
    runningAs s 0 k .profileLoad = some d → bits d.fld.opfield 7 0 = ty →
    ∃ t : State, exec c s = .next t ∧ EndsAs s t 0 k .badField 0)

/-- CHANNEL, SECOND_LOOK, WSTRAT, LDS and CAPTURE profiles replace what they name; the DEFAULT profiles put the built-in ones
back. CHANNEL and SECOND_LOOK replace the profile of their MEDIUM and CHANNEL_DEFAULT puts both built-in ones back. WSTRAT
replaces the loaded table of its MEDIUM, LAYER, CLASS and MID or adds one, at most 48 in all; WSTRAT_DEFAULT drops every loaded
table of its medium. LDS waits while a recording is under way, and else sets DIV, READBACK and VFY_LIMIT. CAPTURE sets source,
trigger and decimation and waits for its trigger anew. A payload out of range ends BAD_FIELD and changes nothing. -/
def Obligations.ChannelRecordingAndCaptureProfilesApplyWholeOrAreRefused : Prop :=
  (∀ (s : State) (k : Nat) (r q : List Byte) (i : Fin 4), q = fit 64 r → i.val = byteAt q 0 →
    ProfileTaken (.channel k r) s k 0x30 (channelOk q = true)
      { s with chan := { s.chan with prof := s.chan.prof.set i (channelAt q) } }) ∧
  (∀ q : List Byte, channelOk q = true → byteAt q 0 ≤ 3 ∧ ((∀ x ∈ tapsAt q 1, x = 0) ↔ byteAt q 0 = 0) ∧
    (∀ x ∈ tapsAt q 1, -15 ≤ x ∧ x ≤ 15) ∧ (le16 q 0x2E = 0 ∧ 2 ≤ byteAt q 0 ∨ 1024 ≤ le16 q 0x2E ∧ le16 q 0x2E ≤ 16384)) ∧
  (∀ (s : State) (k : Nat) (r q : List Byte) (i : Fin 4), q = fit 16 r → i.val = byteAt q 0 →
    ProfileTaken (.secondLook k r) s k 0x31
      (byteAt q 1 ≤ 2 ∧ byteAt q 2 ≤ 7 ∧ tapsOk (tapsAt q 3) = true ∧ zeroBytes q 8 15 = true)
      { s with chan := { s.chan with look := s.chan.look.set i {
        passes := byteAt q 1, pin := BitVec.ofNat 3 (byteAt q 2), target2 := tapsAt q 3 } } }) ∧
  (∀ (s : State) (k : Nat) (r q : List Byte) (i : Fin 4), q = fit 16 r → i.val = byteAt q 0 →
    ProfileTaken (.channelDefault k r) s k 0x32 (zeroBytes q 1 15 = true)
      { s with chan := { s.chan with
        prof := s.chan.prof.set i (({} : Channel).prof.get i), look := s.chan.look.set i (({} : Channel).look.get i) } }) ∧
  (∀ (s : State) (c : Instr) (k ty : Nat) (d : Desc) (r : List Byte), (c = .channel k r ∧ ty = 0x30 ∧ 3 < byteAt (fit 64 r) 0) ∨
      (c = .secondLook k r ∧ ty = 0x31 ∧ 3 < byteAt (fit 16 r) 0) ∨ (c = .channelDefault k r ∧ ty = 0x32 ∧ 3 < byteAt (fit 16 r) 0) →
    runningAs s 0 k .profileLoad = some d → bits d.fld.opfield 7 0 = ty →
    ∃ t : State, exec c s = .next t ∧ EndsAs s t 0 k .badField 0) ∧
  (∀ (s : State) (k : Nat) (r q : List Byte) (o : List Strategy), q = fit 1088 r →
    o = s.recd.strategies.filter (fun x => !(x.medium == byteAt q 0 && x.layer == byteAt q 1 && x.class_ == byteAt q 2 &&
      x.mid == BitVec.ofNat 64 (le64 q 4))) →
    ProfileTaken (.wstrat k r) s k 0x40 (wstratOk q = true ∧ o.length < 48)
      { s with recd := { s.recd with strategies := o ++ [wstratAt q] } }) ∧
  (∀ (s : State) (k : Nat) (r q : List Byte), q = fit 16 r → ProfileTaken (.wstratDefault k r) s k 0x41
    (byteAt q 0 ∈ [0x02, 0x03, 0x11, 0x12, 0x13, 0x14, 0x21, 0x22] ∧ zeroBytes q 1 15 = true)
    { s with recd := { s.recd with strategies := s.recd.strategies.filter fun x => x.medium != byteAt q 0 } }) ∧
  (∀ (s : State) (k : Nat) (r : List Byte), isRecording s = true → exec (.lds k r) s = .next s) ∧
  (∀ (s : State) (k : Nat) (r q : List Byte), q = fit 16 r → isRecording s = false → ProfileTaken (.lds k r) s k 0x42
    ((2 ≤ byteAt q 0 ∧ byteAt q 0 ≤ 24) ∧ byteAt q 1 ≤ 1 ∧ (25 ≤ byteAt q 2 ∧ byteAt q 2 ≤ 100) ∧ zeroBytes q 3 15 = true)
    { s with recd := { s.recd with lds := { div := byteAt q 0, readback := byteAt q 1 == 1, vfyLimit := byteAt q 2 } } }) ∧
  (∀ (s : State) (k : Nat) (r q : List Byte), q = fit 16 r → ProfileTaken (.capture k r) s k 0x43
    (byteAt q 0 ≤ 4 ∧ byteAt q 1 ≤ 3 ∧ (1 ≤ le16 q 2 ∧ le16 q 2 ≤ 256) ∧ zeroBytes q 4 15 = true)
    { s with cap := { s.cap with
      source := byteAt q 0, trigger := byteAt q 1, decimate := le16 q 2, running := false, first := false } })

/-- FOLD SET takes a record that fits the others whole or rejects it whole; GRANT INVALIDATE drops the entries it names. A FOLD
SET whose record lies in the ranges of Table 2.2 and agrees with the other folds' records (buffers and pen within 20,480, no
shared cache way, vault quotas within 960 KiB and not below what the fold stores) ends OK with 64, to take effect when its
completion is posted; ways it takes away are cleaned first. Any other record is BAD_FIELD and changes nothing. GRANT INVALIDATE
drops the one entry or all of them from the grant cache. -/
def Obligations.FoldRecordsAreSetWholeAndGrantsInvalidated : Prop :=
  (∀ (s : State) (k : Nat) (d : Desc) (r q : List Byte) (f : FoldId) (x : FoldRec), q = fit 64 r → runningAs s 0 k .foldSet = some d →
    f.val = byteAt q 0 → x = recordAt q →
    x.flock ≤ 4 ∧ 1 ≤ x.weight ∧ x.level = 1 ∧ x.bufMin ≤ x.bufMax ∧ 1 ≤ x.bufMax ∧ x.bufMax ≤ 20480 ∧ x.penQuota ≤ 8192 ∧
      le16 q 10 < 4096 ∧ x.vaultQuota ≤ 960 ∧ 1 ≤ x.maxBlocks ∧ 1 ≤ x.defTimeout ∧ zeroBytes q 0x12 0x3F = true ∧ 1 ≤ levelMax s →
    recordFits s f x = true →
    ∃ t u : State, exec (.foldSet k r) s = .next t ∧ EndsAs (u.modDesc 0 k fun e => { e with applies := some (f, x) }) t 0 k .ok 64 ∧
      u = ((List.range 12).filter fun w => bit (s.fold f).record.wayMask w && !bit x.wayMask w && bit s.cache.powered w).foldl
        cleanWay s ∧
      ((∀ w : Nat, w < 12 → bit (s.fold f).record.wayMask w = true → bit x.wayMask w = true ∨ bit s.cache.powered w = false) → u = s)) ∧
  (∀ (s : State) (k : Nat) (d : Desc) (r q : List Byte) (f : FoldId) (x : FoldRec), q = fit 64 r → runningAs s 0 k .foldSet = some d →
    f.val = byteAt q 0 → x = recordAt q →
    4 < x.flock ∨ x.weight = 0 ∨ x.level ≠ 1 ∨ x.bufMax < x.bufMin ∨ x.bufMax = 0 ∨ 20480 < x.bufMax ∨ 8192 < x.penQuota ∨
      4096 ≤ le16 q 10 ∨ 960 < x.vaultQuota ∨ x.maxBlocks = 0 ∨ x.defTimeout = 0 ∨ zeroBytes q 0x12 0x3F = false ∨
      recordFits s f x = false →
    ∃ t : State, exec (.foldSet k r) s = .next t ∧ EndsAs s t 0 k .badField 0) ∧
  (∀ (s : State) (k : Nat) (d : Desc) (r : List Byte), runningAs s 0 k .foldSet = some d → 7 < byteAt (fit 64 r) 0 →
    ∃ t : State, exec (.foldSet k r) s = .next t ∧ EndsAs s t 0 k .badField 0) ∧
  (∀ (s : State) (f g : FoldId) (x : FoldRec), g ≠ f → (s.fold g).record.wayMask &&& x.wayMask ≠ 0 ∨ x.vaultQuota * 1024 < vaultUsed s f ∨
    20480 < x.bufMin + x.penQuota + (s.fold g).record.bufMin + (s.fold g).record.penQuota ∨
    960 < x.vaultQuota + (s.fold g).record.vaultQuota → recordFits s f x = false) ∧
  (∀ q : List Byte, recordAt q = {
    flock := byteAt q 1, weight := byteAt q 2, level := byteAt q 3, bufMin := le16 q 4, bufMax := le16 q 6, penQuota := le16 q 8
    wayMask := BitVec.ofNat 16 (le16 q 10), vaultQuota := le16 q 12, maxBlocks := le16 q 14, defTimeout := le16 q 16 }) ∧
  (∀ (s : State) (k : Nat) (d : Desc), runningAs s 0 k .grantInvalidate = some d → bit d.fld.opfield 8 = false →
    ∃ t : State, exec (.grantInvalidate k) s = .next t ∧ EndsAs { s with plat := { s.plat with
      cache := s.plat.cache.filter fun c => c.grant.index != bits d.fld.opfield 7 0 } } t 0 k .ok 0) ∧
  (∀ (s : State) (k : Nat) (d : Desc), runningAs s 0 k .grantInvalidate = some d → bit d.fld.opfield 8 = true →
    ∃ t : State, exec (.grantInvalidateAll k) s = .next t ∧ EndsAs { s with plat := { s.plat with cache := [] } } t 0 k .ok 0)

/-- MODE SET drains before it acts, SERVICE enters and leaves, DOZE and VIGIL stop the mechanism, and a request wakes DOZE. MODE
SET VIGIL or DOZE starts a drain of every fold and ends speculation; SERVICE drains folds 1 to 7, and is OK_REPEATED in SERVICE;
IDLE ends SERVICE with its exit steps and is OK_REPEATED elsewhere. Once the drain is over SERVICE is in force; for DOZE and VIGIL
the sled stops and the spindle brakes, and when it stands still the mode is entered: DOZE has the spindle stopped, the sled at
rest, PEWTER, VMOT and VPU off, VCORE at its lowest and no record touched; VIGIL has every rail off, no fold with a descriptor,
and is held. PARK parks after PARK_AFTER seconds, AUTO_DOZE dozes after DOZE_AFTER. A request in
DOZE brings IDLE back. -/
def Obligations.ModesAreEnteredAfterTheirDrain : Prop :=
  (∀ (s : State) (c : Instr) (k : Nat) (d : Desc), c = .modeSetVigil k ∧ d.fld.opfield = 0 ∨ c = .modeSetDoze k ∧ d.fld.opfield = 1 →
    runningAs s 0 k .modeSet = some d → exec c s = .next { stopSpeculation (s.modDesc 0 k fun e => { e with
        stage := .draining, startedAt := none }) with
      sys := { s.sys with drainAll := true } }) ∧
  (∀ (s : State) (k : Nat) (d : Desc), runningAs s 0 k .modeSet = some d → d.fld.opfield = 3 → s.sys.mode ≠ .service →
    exec (.modeSetService k) s = .next { s.modDesc 0 k (fun e => { e with stage := .draining, startedAt := none }) with
      sys := { s.sys with drainOthers := true } }) ∧
  (∀ (s : State) (c : Instr) (k : Nat) (d : Desc), runningAs s 0 k .modeSet = some d →
    c = .modeSetService k ∧ d.fld.opfield = 3 ∧ s.sys.mode = .service ∨ c = .modeSetIdle k ∧ d.fld.opfield = 2 ∧ s.sys.mode ≠ .service →
    ∃ t : State, exec c s = .next t ∧ EndsAs s t 0 k .okRepeated 0) ∧
  (∀ (s : State) (k : Nat) (d : Desc), runningAs s 0 k .modeSet = some d → d.fld.opfield = 2 → s.sys.mode = .service →
    ∃ t : State, exec (.modeSetIdle k) s = .next t ∧ EndsAs (exitService s) t 0 k .ok 0) ∧
  (∀ (s t : State), t = exitService s → t.cap.packets = [] ∧ t.cap.running = false ∧ t.ecc.flipTarget = 0 ∧
    (s.cph.direct = true → s.cph.owner ≠ 15 → t.cph.owner = 15 ∧ t.cph.direct = false) ∧ (s.cph.direct = false → t.cph = s.cph) ∧
    (s.job = none → t.sys.mode = .idle) ∧
    ∃ u : State, t = broadcast u 0x0705 0 ∧ u.folds = s.folds ∧ u.mram = s.mram ∧ u.pwr = s.pwr ∧ u.kpr = s.kpr ∧ u.plat = s.plat) ∧
  (∀ (s : State) (d : Desc), draining s = some d → s.sys.entry = none → d.op = .modeSet → d.fld.opfield = 3 → othersDrained s = true →
    ∃ t : State, exec .drainComplete s = .next t ∧ t.sys.mode = .service ∧ t.sys.drainOthers = false ∧
      EndsAs (broadcast { noteStart s 0 d.k with sys := { s.sys with mode := .service, drainOthers := false } } 0x0704 0) t 0 d.k .ok 0) ∧
  (∀ (s : State), draining s = none ∨ s.sys.entry ≠ none ∨ (∃ d : Desc, draining s = some d ∧
      (d.op = .modeSet ∧ d.fld.opfield = 3 ∧ othersDrained s = false ∨ (d.op ≠ .modeSet ∨ d.fld.opfield ≠ 3) ∧
        (allDrained s d.k = false ∨ s.job ≠ none))) → exec .drainComplete s = .next s) ∧
  (∀ (s : State) (d : Desc) (v : Bool), draining s = some d → s.sys.entry = none → d.op = .modeSet →
    d.fld.opfield = (if v then 0 else 1) → allDrained s d.k = true → s.job = none → s.spindle.st ≠ .stopped →
    ∃ t : State, exec .drainComplete s = .next t ∧ t = beginSleep s { k := some d.k, vigil := v } ∧
      t.sys.entry = some { k := some d.k, vigil := v } ∧ t.sled.move = .rest ∧
      (t.spindle.st = .braking ∨ t.spindle.st = .shorted) ∧ t.pwr = s.pwr ∧ t.mram = s.mram) ∧
  (∀ (s : State) (e : SleepEntry), s.sys.entry = some e → e.wake = false → (s.spindle.st ≠ .stopped → sleepTick s = s) ∧
    (∀ k : Nat, s.spindle.st = .stopped → e.k = some k →
      sleepTick s = if e.vigil then modeVigil s k else enterDoze s (some k))) ∧
  (∀ (s : State) (d : Desc), draining s = some d → s.sys.entry = none → d.op = .modeSet → d.fld.opfield = 1 →
    allDrained s d.k = true → s.job = none → s.spindle.st = .stopped → ∃ t : State, exec .drainComplete s = .next t ∧
      t = enterDoze (beginSleep s { k := some d.k, vigil := false }) (some d.k) ∧ t.sys.mode = .doze ∧ t.sys.drainAll = false ∧ t.spindle.st = .stopped ∧ t.sled.move = .rest ∧ t.mram = s.mram ∧
      t.pwr.rails = ((s.pwr.rails.set 6 false).set 7 false).set 5 false ∧ t.pwr.gov.code = 0 ∧ t.cache.powered = 0 ∧ t.pool.stack = []) ∧
  (∀ (s : State) (d : Desc), draining s = some d → s.sys.entry = none → d.op = .modeSet → d.fld.opfield = 0 →
    allDrained s d.k = true → s.job = none → s.spindle.st = .stopped → ∃ t : State, exec .drainComplete s = .next t ∧ t.sys.mode = .vigil ∧ t.sys.ready = false ∧ t.kpr.held = true ∧
      t.pwr.rails = Vector.replicate 8 false ∧ t.servo.ldEn = false ∧ ∀ f : FoldId, (t.fold f).descs = []) ∧
  (∀ (s : State) (n : Nat), n = bits s.sys.modeCfg 15 0 → s.sys.mode = .idle → s.sys.ready = true → n ≠ 0 → s.job = none →
    s.sys.parked = false → s.spindle.st = .closed → s.sys.idleSince + n * 1000000 ≤ s.us → exec .park s = .next (parkMechanism s)) ∧
  (∀ s : State, (parkMechanism s).sys.parked = true ∧ (s.spindle.st = .closed → (parkMechanism s).spindle.st = .braking ∨
    (parkMechanism s).spindle.st = .shorted) ∧ (parkMechanism s).servo.fok = false ∧ (parkMechanism s).servo.locked = false) ∧
  (∀ (s : State) (n : Nat), n = bits s.sys.modeCfg 15 0 → s.sys.mode ≠ .idle ∨ n = 0 ∨ s.job ≠ none ∨ s.us < s.sys.idleSince + n * 1000000 →
    exec .park s = .next s) ∧
  (∀ (s : State) (n : Nat), n = bits s.sys.modeCfg 31 16 → s.sys.mode = .idle → s.sys.ready = true → n ≠ 0 → allQuiet s = true →
    s.pwr.shutdown = .none → s.sys.entry = none → s.spindle.st = .stopped → s.sys.quietSince + n * 1000000 ≤ s.us →
    ∃ t : State, exec .autoDoze s = .next t ∧ t.sys.mode = .doze ∧ t.spindle.st = .stopped ∧ t.sled.move = .rest ∧ t.mram = s.mram ∧
      t.pwr.rails = ((s.pwr.rails.set 6 false).set 7 false).set 5 false ∧ t.pwr.gov.code = 0) ∧
  (∀ (s : State) (n : Nat), n = bits s.sys.modeCfg 31 16 → s.sys.mode = .idle → s.sys.ready = true → n ≠ 0 → allQuiet s = true →
    s.pwr.shutdown = .none → s.sys.entry = none → s.spindle.st ≠ .stopped → s.sys.quietSince + n * 1000000 ≤ s.us →
    exec .autoDoze s = .next (beginSleep { s with job := none } { k := none, vigil := false })) ∧
  (∀ (s : State) (n : Nat), n = bits s.sys.modeCfg 31 16 → s.sys.mode ≠ .idle ∨ n = 0 ∨ allQuiet s = false ∨
    s.us < s.sys.quietSince + n * 1000000 → exec .autoDoze s = .next s) ∧
  (∀ (s : State) (f : FoldId), s.sys.mode = .doze → foldExists s f = true →
    ∃ t : State, exec (.pcieRequestWake f) s = .next t ∧ t.sys.mode = .idle ∧ t.pwr.rails = Vector.replicate 8 true ∧
      t.pwr.gov.code = govVmax s.pwr.gov ∧ t.cache.powered = s.cache.saved ∧ t.folds = s.folds ∧ t.kpr.intHeld = none ∧
      t.kpr.internal.ref = s.kpr.tick - s.kpr.intHeld.getD 0) ∧
  (∀ (s : State) (f : FoldId) (e : SleepEntry), s.sys.mode = .idle → s.sys.entry = some e → foldExists s f = true →
    exec (.pcieRequestWake f) s = .next { s with sys := { s.sys with entry := some { e with wake := true } } }) ∧
  (∀ (s : State) (f : FoldId), (s.sys.mode ≠ .doze ∧ s.sys.entry = none) ∨ foldExists s f = false →
    exec (.pcieRequestWake f) s = .next s)

/-- FW DOWNLOAD programs the slot that is not ACTIVE, TRY and CONFIRM commit their boot record, and CALIBRATE its items. FW
DOWNLOAD while a trial is in force is BAD_FIELD; the first to a VALID slot first asks for a boot record without that VALID bit;
the next programs the pages and ends OK with LENGTH. FW ACTIVATE TRY of an image that is not valid is BAD_FIELD, else it drains,
and then asks for a boot record with TRIAL set, or cleared while a trial is in force. CONFIRM without a trial is BAD_FIELD, else
it asks for a record with the trial slot ACTIVE. CALIBRATE outside SERVICE or with the spindle turning is BAD_FIELD; it gives
one byte per item and asks for one record of the items that pass. -/
def Obligations.FirmwareIsDownloadedTriedAndConfirmed : Prop :=
  (∀ (s : State) (k : Nat) (d : Desc) (i : List Byte), runningAs s 0 k .fwDownload = some d → s.sys.boot.trial ≠ none →
    ∃ t : State, exec (.fwDownload k i) s = .next t ∧ EndsAs s t 0 k .badField 0) ∧
  (∀ (s : State) (k : Nat) (d : Desc) (i : List Byte) (b : BootRecord), runningAs s 0 k .fwDownload = some d → s.sys.boot.trial = none →
    slotValid s.sys.boot (otherSlot s.sys.boot) = true →
    b = (if s.sys.boot.active = 0 then { s.sys.boot with validB := false } else { s.sys.boot with validA := false }) → s.sys.boot.active ≤ 1 →
    exec (.fwDownload k i) s = .next (requestRecord (s.modDesc 0 k fun e => { e with stage := .commit }) 7 1 (some (.boot b)) 16 .other
      (some (.region 7)) (.bootDownload k (lbaOf d.fld) (fit d.fld.length i)))) ∧
  (∀ (s : State) (k : Nat) (d : Desc) (i : List Byte), runningAs s 0 k .fwDownload = some d → s.sys.boot.trial = none →
    slotValid s.sys.boot (otherSlot s.sys.boot) = false →
    ∃ t : State, exec (.fwDownload k i) s = .next t ∧
      EndsAs (programImage s (otherSlot s.sys.boot) (lbaOf d.fld) (fit d.fld.length i)) t 0 k .ok d.fld.length) ∧
  (∀ (s : State) (k : Nat) (d : Desc), runningAs s 0 k .fwActivate = some d → d.fld.opfield = 1 → s.sys.boot.trial = none →
    imageValid s (otherSlot s.sys.boot) = false → ∃ t : State, exec (.fwActivateTry k) s = .next t ∧ EndsAs s t 0 k .badField 0) ∧
  (∀ (s : State) (k : Nat) (d : Desc), runningAs s 0 k .fwActivate = some d → d.fld.opfield = 1 →
    s.sys.boot.trial ≠ none ∨ imageValid s (otherSlot s.sys.boot) = true → exec (.fwActivateTry k) s =
      .next { stopSpeculation (s.modDesc 0 k fun e => { e with stage := .draining, startedAt := none }) with
        sys := { s.sys with drainAll := true } }) ∧
  (∀ (s : State) (d : Desc) (b : BootRecord), draining s = some d → s.sys.entry = none → d.op = .fwActivate → allDrained s d.k = true → s.job = none →
    s.sys.boot.active ≤ 1 → b = (match s.sys.boot.trial with
      | some _ => { s.sys.boot with trial := none }
      | none => if s.sys.boot.active = 0 then { s.sys.boot with trial := some 1, validB := true }
        else { s.sys.boot with trial := some 0, validA := true }) →
    exec .drainComplete s = .next (requestRecord ((noteStart s 0 d.k).modDesc 0 d.k fun e => { e with stage := .commit }) 7 1
      (some (.boot b)) 16 .other (some (.region 7)) (.bootTry d.k))) ∧
  (∀ (s : State) (k : Nat) (d : Desc), runningAs s 0 k .fwActivate = some d → d.fld.opfield = 2 →
    (s.sys.boot.trial = none → ∃ t : State, exec (.fwActivateConfirm k) s = .next t ∧ EndsAs s t 0 k .badField 0) ∧
    (∀ n : Nat, s.sys.boot.trial = some n → exec (.fwActivateConfirm k) s = .next (requestRecord (s.modDesc 0 k fun e => { e with
      stage := .commit }) 7 1 (some (.boot { s.sys.boot with active := n, trial := none })) 16 .other (some (.region 7)) (.bootConfirm k)))) ∧
  (∀ (s : State) (k : Nat) (m : CalMeas) (d : Desc), runningAs s 0 k .calibrate = some d → s.sys.mode ≠ .service ∨ s.spindle.st ≠ .stopped →
    ∃ t : State, exec (.calibrate k m) s = .next t ∧ EndsAs s t 0 k .badField 0) ∧
  (∀ (s : State) (k : Nat) (m : CalMeas) (d : Desc) (c : CalRecord) (o : List Byte), runningAs s 0 k .calibrate = some d →
    s.sys.mode = .service → s.spindle.st = .stopped → calRun m d.fld.opfield 6 0 s.sys.cal [] = (c, o) →
    ((∀ b ∈ o, b ≠ 1) → ∃ t : State, exec (.calibrate k m) s = .next t ∧ EndsAs (s.modDesc 0 k fun e => { e with
      writes := e.writes ++ scatterAt e.list 0 (o ++ [0, 0]) }) t 0 k .ok 8) ∧
    (1 ∈ o → exec (.calibrate k m) s = .next (requestRecord ((s.modDesc 0 k fun e => { e with
      writes := e.writes ++ scatterAt e.list 0 (o ++ [0, 0]) }).modDesc 0 k fun e => { e with stage := .commit }) 2 0
      (some (.calibration c)) 176 .other none (.calibrate k)))) ∧
  (∀ (m : CalMeas) (b : BitVec 16) (r c : CalRecord) (o : List Byte), calRun m b 6 0 r [] = (c, o) → o.length = 6 ∧
    ∀ i : Nat, i < 6 → (bit b i = false → o[i]? = some 0 ∧ c.items[i]? = r.items[i]?) ∧
      (i ≠ 3 → bit b i = true → calItem m true i = none → o[i]? = some 2 ∧ c.items[i]? = r.items[i]?) ∧
      (∀ v : List (Int × Int), i ≠ 3 → bit b i = true → calItem m true i = some v → r.items.length = 6 →
        o[i]? = some 1 ∧ c.items[i]? = some (some v)))

/-- A command block with a native opcode takes its own LBA and length, and goes through that opcode's checks. READ, WRITE,
VERIFY and READ CD command blocks become READ, WRITE, VERIFY and READ RAW with the LBA and transfer length of the block, REREADS
and NO_SECOND from OPFIELD; a transfer length of 0 completes OK. FORMAT UNIT, START STOP UNIT, SET CD SPEED, PREVENT ALLOW
MEDIUM REMOVAL, RESERVE TRACK and CLOSE TRACK/SESSION become FORMAT, LOAD/EJECT or SPIN, LOCK MEDIUM, RESERVE TRACK and CLOSE;
which FORMAT form and which SPIN class stay free (the model's choice, notes/assumptions/55.md). The native opcode's COUNT,
fields and length are then checked, and its grant and disc. An operation code outside Table 4.12 is BAD_OPCODE. -/
def Obligations.CommandBlocksBecomeNativeCommands : Prop :=
  (∀ (s : State) (f : FoldId) (k : Nat) (cdb c : List Byte) (d : Desc) (i : Instr) (code lba n : Nat) (o : Op),
    (i = .read10 f k cdb ∧ code = 0x28 ∧ o = .read ∧ n = be16 c 7 ∨ i = .read12 f k cdb ∧ code = 0xA8 ∧ o = .read ∧ n = be32 c 6 ∨
      i = .write10 f k cdb ∧ code = 0x2A ∧ o = .write ∧ n = be16 c 7 ∨ i = .write12 f k cdb ∧ code = 0xAA ∧ o = .write ∧ n = be32 c 6 ∨
      i = .verify10 f k cdb ∧ code = 0x2F ∧ o = .verify ∧ n = be16 c 7) → MmcReads s f k cdb code d c → lba = be32 c 2 →
    (n ≠ 0 → exec i s = .next (mmcAs s f k o fun x => { x with
      address := lba, count := n, opfield := if o = .write then 0 else d.fld.opfield &&& 0x1F, opdata := 0 })) ∧
    (n = 0 → mmcMayStart s f d = true → ∃ t : State, exec i s = .next t ∧ EndsAs (noteStart s f k) t f k .ok 0)) ∧
  (∀ (s : State) (f : FoldId) (k : Nat) (cdb c : List Byte) (d : Desc) (n : Nat), MmcReads s f k cdb 0xBE d c → n = be24 c 6 →
    (n = 0 → mmcMayStart s f d = true → ∃ t : State, exec (.readCd f k cdb) s = .next t ∧ EndsAs (noteStart s f k) t f k .ok 0) ∧
    (n ≠ 0 → readCdOk c = false → ∃ t : State, exec (.readCd f k cdb) s = .next t ∧ EndsAs (emptied s f k) t f k .badField 0) ∧
    (n ≠ 0 → readCdOk c = true → exec (.readCd f k cdb) s = .next (mmcAs s f k .readRaw fun x => { x with
      address := be32 c 2, count := n, opfield := BitVec.ofNat 16 (byteAt c 9 / 2 % 4 + 2 * (byteAt c 10 % 8))
      opdata := BitVec.ofNat 64 (bits d.fld.opfield 3 0) }))) ∧
  (∀ (s : State) (f : FoldId) (k : Nat) (cdb c p : List Byte) (d : Desc), MmcReads s f k cdb 0x04 d c →
    (byteAt p 8 / 4 = 0x00 ∨ byteAt p 8 / 4 = 0x30 → exec (.formatUnit f k cdb p) s = .next (mmcAs { s with draws := s.draws + 1 } f k .format
      fun x => { x with opfield := BitVec.ofNat 16 ((Config.openWord 30 s.draws).toNat % 3) })) ∧
    (byteAt p 8 / 4 ≠ 0x00 → byteAt p 8 / 4 ≠ 0x30 →
      ∃ t : State, exec (.formatUnit f k cdb p) s = .next t ∧ EndsAs (emptied s f k) t f k .badField 0)) ∧
  (∀ (s : State) (f : FoldId) (k : Nat) (cdb c : List Byte) (d : Desc), MmcReads s f k cdb 0x1B d c →
    (cdbBit c 4 1 = true → exec (.startStopUnit f k cdb) s = .next (mmcAs s f k .loadEject
      fun x => { x with opfield := if cdbBit c 4 0 then 0 else 1 })) ∧
    (cdbBit c 4 1 = false → exec (.startStopUnit f k cdb) s = .next (mmcAs { s with draws := s.draws + 1 } f k .spin
      fun x => { x with opfield := BitVec.ofNat 16 ((Config.openWord 31 s.draws).toNat % 256) }))) ∧
  (∀ (s : State) (f : FoldId) (k : Nat) (cdb c : List Byte) (d : Desc), MmcReads s f k cdb 0xBB d c →
    exec (.setCdSpeed f k cdb) s = .next (mmcAs { s with draws := s.draws + 1 } f k .spin fun x => { x with
      opfield := BitVec.ofNat 16 (if be16 c 2 = 0xFFFF then 0xFF else (Config.openWord 32 s.draws).toNat % 256) })) ∧
  (∀ (s : State) (f : FoldId) (k : Nat) (cdb c : List Byte) (d : Desc), MmcReads s f k cdb 0x1E d c →
    exec (.preventAllowMediumRemoval f k cdb) s = .next (mmcAs s f k .lockMedium
      fun x => { x with opfield := if cdbBit c 4 0 then 1 else 0 })) ∧
  (∀ (s : State) (f : FoldId) (k : Nat) (cdb c : List Byte) (d : Desc), MmcReads s f k cdb 0x53 d c →
    exec (.mmcReserveTrack f k cdb) s = .next (mmcAs s f k .reserveTrack fun x => { x with
      opfield := 0, opdata := BitVec.ofNat 64 (be32 c 5) })) ∧
  (∀ (s : State) (f : FoldId) (k : Nat) (cdb c : List Byte) (d : Desc) (x : Nat), MmcReads s f k cdb 0x5B d c → x = byteAt c 2 % 8 →
    (x ∈ [1, 2, 5, 6] → exec (.closeTrackSession f k cdb) s = .next (mmcAs s f k .close fun y => { y with
      opfield := if x = 1 then 0 else if x = 2 then 1 else 2, address := be16 c 4 })) ∧
    (x ∉ [1, 2, 5, 6] → ∃ t : State, exec (.closeTrackSession f k cdb) s = .next t ∧ EndsAs (emptied s f k) t f k .badField 0)) ∧
  (∀ (s u : State) (f : FoldId) (k : Nat) (o : Op) (g : Fields → Fields) (d : Desc) (x : Fields), s.desc? f k = some d → x = g d.fld →
    u = s.modDesc f k (fun e => { e with op := o, mmc := true, fld := g e.fld }) →
    (countBad o x (s.fold f).record.maxBlocks = true → EndsAs (emptied u f k) (mmcAs s f k o g) f k .badCount 0) ∧
    (countBad o x (s.fold f).record.maxBlocks = false → fieldBad o x = true → EndsAs (emptied u f k) (mmcAs s f k o g) f k .badField 0) ∧
    (∀ n : Nat, countBad o x (s.fold f).record.maxBlocks = false → fieldBad o x = false → implied o x s.disc = some n → x.length < n →
      EndsAs (emptied u f k) (mmcAs s f k o g) f k .lenShort 0) ∧
    (countBad o x (s.fold f).record.maxBlocks = false → fieldBad o x = false → (∀ n : Nat, implied o x s.disc = some n → n ≤ x.length) →
      mmcAs s f k o g = steps25 u f k)) ∧
  (∀ (s : State) (f : FoldId) (k : Nat) (cdb c : List Byte) (d : Desc) (x : Nat) (i : Instr), MmcReads s f k cdb x d c → x ∉ mmcCodes →
    i ∈ [.read10 f k cdb, .write12 f k cdb, .testUnitReady f k cdb, .inquiry f k cdb, .modeSense10 f k cdb] →
    ∃ t : State, exec i s = .next t ∧ EndsAs (emptied s f k) t f k .badOpcode 0)

/-- The other command blocks are answered: readiness, sense, INQUIRY, configuration and mode pages, and what the disc says of
itself. TEST UNIT READY completes OK with a disc and NO_DISC without. REQUEST SENSE sends the fold's sense, INQUIRY 36 bytes
with vendor PLIURN and product GW4410, cut to the allocation length. SYNCHRONIZE CACHE waits for the fold's earlier WRITEs and
command blocks not yet read. GET
EVENT STATUS without Immed, a mode page not kept, a TOC format above 5, disc information of another type and a protected disc
structure are BAD_FIELD. READ CAPACITY gives the last LBA and 2048, READ TRACK INFORMATION the track's number, session, first
and next writable block and size. Content that no rule gives is free (the model's choice, notes/assumptions/55.md); a LENGTH
below the reply is LEN_SHORT. -/
def Obligations.CommandBlocksAreAnsweredByFirmware : Prop :=
  (∀ (s : State) (f : FoldId) (k : Nat) (cdb c : List Byte) (d : Desc), MmcReads s f k cdb 0x00 d c → mmcMayStart s f d = true →
    ∃ t : State, exec (.testUnitReady f k cdb) s = .next t ∧ EndsAs (noteStart s f k) t f k (if s.disc = none then .noDisc else .ok) 0) ∧
  (∀ (s : State) (f : FoldId) (k : Nat) (cdb c : List Byte) (d : Desc), MmcReads s f k cdb 0x35 d c →
    ((∃ e ∈ (s.fold f).descs, e.k < k ∧ (e.op = .write ∨ e.op = .sealedWrite ∨ e.op = .mmcPass ∧ descActive e = true)) →
      exec (.synchronizeCache f k cdb) s = .next s) ∧
    ((∀ e ∈ (s.fold f).descs, e.k < k → e.op ≠ .write ∧ e.op ≠ .sealedWrite ∧ (e.op = .mmcPass → descActive e = false)) →
      mmcMayStart s f d = true →
      ∃ t : State, exec (.synchronizeCache f k cdb) s = .next t ∧ EndsAs (noteStart s f k) t f k .ok 0)) ∧
  (∀ (s : State) (f : FoldId) (k : Nat) (cdb c : List Byte) (d : Desc) (i : Instr) (code n : Nat),
    (i = .requestSense f k cdb ∧ code = 0x03 ∧ n = byteAt c 4 ∨ i = .inquiry f k cdb ∧ code = 0x12 ∧ n = be16 c 3 ∧ cdbBit c 1 0 = false ∨
      i = .getConfiguration f k cdb ∧ code = 0x46 ∧ n = be16 c 7 ∨
      i = .getEventStatusNotification f k cdb ∧ code = 0x4A ∧ n = be16 c 7 ∧ cdbBit c 1 0 = true ∨
      i = .modeSense10 f k cdb ∧ code = 0x5A ∧ n = be16 c 7 ∧ byteAt c 2 % 64 ∈ [0x01, 0x05, 0x2A]) →
    MmcReads s f k cdb code d c → mmcMayStart s f d = true →
    ∃ (t u : State) (l : List Byte), exec i s = .next t ∧ u = { s with draws := u.draws } ∧ l.length ≤ n ∧
      (code = 0x03 → l = (senseBytes (s.fold f).sense).take n ∧ u = s) ∧
      (code = 0x12 → l.length = min 36 n ∧ ∀ j b, inquiryKnown j = some b → j < l.length → l[j]? = some b) ∧
      (d.fld.length < l.length → EndsAs (emptied u f k) t f k .lenShort 0) ∧
      (l.length ≤ d.fld.length → EndsAs ((noteStart u f k).modDesc f k fun e => { e with
        writes := e.writes ++ scatterAt e.list 0 l }) t f k .ok l.length)) ∧
  (inquiryKnown 8 = some 0x50 ∧ inquiryKnown 13 = some 0x4E ∧ inquiryKnown 14 = some 0x20 ∧ inquiryKnown 16 = some 0x47 ∧
    inquiryKnown 21 = some 0x30 ∧ inquiryKnown 31 = some 0x20 ∧ inquiryKnown 32 = none) ∧
  (∀ (s : State) (f : FoldId) (k : Nat) (cdb c : List Byte) (d : Desc) (i : Instr) (code : Nat),
    (i = .inquiry f k cdb ∧ code = 0x12 ∧ cdbBit c 1 0 = true ∨ i = .getEventStatusNotification f k cdb ∧ code = 0x4A ∧ cdbBit c 1 0 = false ∨
      i = .modeSense10 f k cdb ∧ code = 0x5A ∧ byteAt c 2 % 64 ∉ [0x01, 0x05, 0x2A]) →
    MmcReads s f k cdb code d c → ∃ t : State, exec i s = .next t ∧ EndsAs (emptied s f k) t f k .badField 0) ∧
  (∀ (s : State) (f : FoldId) (k : Nat) (cdb c : List Byte) (d : Desc) (i : Instr) (code : Nat),
    (i = .readTocPmaAtip f k cdb ∧ code = 0x43 ∧ 5 < byteAt c 2 % 16 ∨ i = .readDiscInformation f k cdb ∧ code = 0x51 ∧ byteAt c 1 % 8 ≠ 0 ∨
      i = .readDiscStructure f k cdb ∧ code = 0xAD ∧ byteAt c 7 ∈ [0x05, 0x06, 0x07, 0x80, 0x81, 0x82, 0x83, 0x84, 0x85, 0x86]) →
    MmcReads s f k cdb code d c → ∃ t : State, exec i s = .next t ∧ EndsAs (emptied s f k) t f k .badField 0) ∧
  (∀ (s : State) (f : FoldId) (k : Nat) (cdb c : List Byte) (d : Desc) (x : DiscInfo) (i : Instr) (code n : Nat),
    (i = .readFormatCapacities f k cdb ∧ code = 0x23 ∧ n = be16 c 7 ∨ i = .readCapacity f k cdb ∧ code = 0x25 ∧ n = 8 ∨
      i = .readTocPmaAtip f k cdb ∧ code = 0x43 ∧ n = be16 c 7 ∨ i = .readDiscInformation f k cdb ∧ code = 0x51 ∧ n = be16 c 7 ∨
      i = .readTrackInformation f k cdb ∧ code = 0x52 ∧ n = be16 c 7 ∨ i = .readDiscStructure f k cdb ∧ code = 0xAD ∧ n = be16 c 8) →
    s.desc? f k = some d → d.op = .mmcReply → d.stage = .ready ∨ d.stage = .running → c = mmcBlock d cdb → byteAt c 0 = code →
    s.disc = some x → mmcMayStart s f d = true →
    ∃ (t u : State) (l : List Byte), exec i s = .next t ∧ u = { s with draws := u.draws } ∧ l.length ≤ n ∧
      (code = 0x25 → l = beBytes 4 (x.capacity - 1) ++ beBytes 4 2048) ∧
      (∀ tr : Track, code = 0x52 → trackNamed x (byteAt c 1 % 4) (be32 c 2) = some tr → l.length = min 36 n ∧
        ∀ j b, trackKnown tr j = some b → j < l.length → l[j]? = some b) ∧
      (d.fld.length < l.length → EndsAs (emptied u f k) t f k .lenShort 0) ∧
      (l.length ≤ d.fld.length → EndsAs ((noteStart u f k).modDesc f k fun e => { e with
        writes := e.writes ++ scatterAt e.list 0 l }) t f k .ok l.length)) ∧
  (∀ (s : State) (f : FoldId) (k : Nat) (cdb : List Byte) (d : Desc) (i : Instr), (i = .readFormatCapacities f k cdb ∧ d.stage = .ready ∧
      byteAt (mmcBlock d cdb) 0 = 0x23 ∨ i = .readCapacity f k cdb ∧ d.stage = .ready ∧ byteAt (mmcBlock d cdb) 0 = 0x25) →
    s.desc? f k = some d → d.op = .mmcReply → s.disc = none →
    ∃ t : State, exec i s = .next t ∧ EndsAs (emptied s f k) t f k .noDisc 0)

/-- A function level reset empties one fold and keeps its record; a reset of fold 0 resets all; VF Enable and the other settings
are written. FLR of fold n clears its rings, doorbell page and interrupts, empties its pen, empties its two key slots and
releases CPH_LOCK, keeps its fold record, and touches no other fold but descriptors that wait for buffers. Once any recording
has stopped its last descriptor goes and fold 0 receives 0x0740 with the fold, the count aborted and the blocks written. A reset
of fold 0, and PERST_N, reset every fold with its record, the deficits, the grant state, VF Enable and every profile at their
reset values; PERST_N resets the endpoint's own settings too. Clearing VF Enable resets each existing fold. A configuration write sets its field alone; unmasked MSI-X sends
what is pending. -/
def Obligations.FoldsAreResetAndConfigured : Prop :=
  (∀ (s : State) (f : FoldId), f ≠ 0 → barUp s f = true → (s.fold f).resetting = none →
    ∃ t : State, exec (.flrFold f) s = .next t ∧
      t.fold f = { record := (s.fold f).record, descs := (t.fold f).descs, nextK := (s.fold f).nextK, rrRing := (s.fold f).rrRing
                   deficit := (t.fold f).deficit, maxPayload := (s.fold f).maxPayload, aer := (s.fold f).aer
                   resetting := some (abortCount (s.fold f), true) } ∧
      ((t.fold f).deficit = (s.fold f).deficit ∨ s.drover.turn = some f ∧ (t.fold f).deficit = min (s.fold f).deficit 0) ∧
      (∀ g : FoldId, g ≠ f → t.fold g = { s.fold g with descs := (t.fold g).descs }) ∧ (s.job = none → (t.fold f).descs = []) ∧
      (∀ c ∈ t.pen, c.owner = f → c.removed = true) ∧
      (∀ i : Fin 17, i.val = 2 * f.val ∨ i.val = 2 * f.val + 1 → (t.slot i).st = .empty) ∧
      t.cph.owner = (if s.cph.owner = f.val then 15 else s.cph.owner) ∧ t.plat = s.plat) ∧
  (∀ (s : State) (f : FoldId) (n : Nat) (p : Bool), f ≠ 0 → barUp s f = true → (s.fold f).resetting = some (n, p) →
    exec (.flrFold f) s = .next (s.modFold f fun x => { x with resetting := some (n, p) })) ∧
  (∀ (s : State) (f : FoldId), barUp s f = false → exec (.flrFold f) s = .next s) ∧
  (∀ (s : State) (f : FoldId), (s.fold f).resetting = none → exec (.foldResetComplete f) s = .next s) ∧
  (∀ (s : State) (f : FoldId) (j : Job), s.job = some j → j.f = f → j.ended = false → (∀ g, j.kind ≠ .speculation g) →
    exec (.foldResetComplete f) s = .next s) ∧
  (∀ (s : State) (f : FoldId) (n w : Nat) (post : Bool) (dw : Word), (s.fold f).resetting = some (n, post) →
    s.job = none ∨ (∃ j : Job, s.job = some j ∧ j.f ≠ f) → w = writtenBlocks (s.fold f) →
    dw = BitVec.ofNat 32 (f.val + 256 * min n 65535 + 2 ^ 24 * (w % 256)) →
    ∃ t u : State, exec (.foldResetComplete f) s = .next t ∧ u.fold f = { s.fold f with descs := [], resetting := none } ∧
      (∀ g : FoldId, g ≠ f → u.fold g = { s.fold g with descs := (u.fold g).descs }) ∧
      (post = true → t = postEventTo (logNote u 0x0740 dw 0 w) 0 0x0740 dw) ∧ (post = false → t = u)) ∧
  (∀ (s : State), barUp s 0 = true → (∀ f : FoldId, (s.fold f).resetting = none) →
    ∃ t : State, exec .flrFold0 s = .next t ∧
      (s.sys.mode ≠ .doze → s.sys.entry = none → exec .perstN s = .next (resetEndpoint t)) ∧
      (∀ f : FoldId, ∃ n : Nat, t.fold f = { record := FoldRec.default f, descs := (t.fold f).descs, nextK := (s.fold f).nextK
                                             rrRing := (s.fold f).rrRing, deficit := 0, maxPayload := (s.fold f).maxPayload
                                             aer := (s.fold f).aer, resetting := some (n, false) }) ∧
      t.plat = { penCtl := s.plat.penCtl, penDepth := s.plat.penDepth, routingId := s.plat.routingId } ∧ t.servo.rate = 1 ∧ t.cph.disabled = false) ∧
  (∀ s : State, s.sys.mode = .doze →
    exec .perstN s = .next (if barUp (wakeDoze s) 0 then resetEndpoint (resetAll (wakeDoze s)) else wakeDoze s)) ∧
  (∀ s : State, (∀ f : FoldId, (resetEndpoint s).fold f = { s.fold f with maxPayload := 128, aer := false }) ∧
    (resetEndpoint s).plat = { s.plat with routingId := 0 }) ∧
  (∀ s : State, barUp s 0 = false → exec .flrFold0 s = .next s ∧
    (s.sys.mode ≠ .doze → s.sys.entry = none → exec .perstN s = .next s)) ∧
  (∀ s : State, barUp s 0 = true → s.plat.vfEnable = true → (∀ f : FoldId, (s.fold f).resetting = none) →
    ∃ t : State, exec .vfEnableClear s = .next t ∧ t.plat = { s.plat with vfEnable := false } ∧ ∀ f : FoldId,
      (f ≠ 0 → foldExists s f = true → ∃ n : Nat, t.fold f = {
        record := (s.fold f).record, descs := (t.fold f).descs, nextK := (s.fold f).nextK, rrRing := (s.fold f).rrRing
        deficit := (t.fold f).deficit, maxPayload := (s.fold f).maxPayload, aer := (s.fold f).aer, resetting := some (n, true) } ∧
        ((t.fold f).deficit = (s.fold f).deficit ∨ (t.fold f).deficit = min (s.fold f).deficit 0)) ∧
      (f = 0 ∨ foldExists s f = false → t.fold f = { s.fold f with descs := (t.fold f).descs })) ∧
  (∀ s : State, s.plat.vfEnable = false → exec .vfEnableClear s = .next s) ∧
  (∀ s : State, barUp s 0 = true → exec .vfEnableSet s = .next { s with plat := { s.plat with vfEnable := true } }) ∧
  (∀ (s : State) (f : FoldId) (c : CfgField), barUp s f = false → exec (.configurationWrite f c) s = .next s) ∧
  (∀ (s : State) (n : Nat), barUp s 0 = true → n < 65536 → (s.plat.vfEnable = false →
      exec (.configurationWrite 0 (.numVfs n)) s = .next { s with plat := { s.plat with numVfs := n } }) ∧
    (s.plat.vfEnable = true → exec (.configurationWrite 0 (.numVfs n)) s = .next s)) ∧
  (∀ (s : State) (f : FoldId) (b : Bool), barUp s f = true → exec (.configurationWrite f (.busMaster b)) s =
    .next (s.modFold f fun x => { x with busMaster := b })) ∧
  (∀ (s : State) (f : FoldId) (n : Nat), barUp s f = true → n ∈ [128, 256, 512, 1024, 2048, 4096] →
    exec (.configurationWrite f (.maxReadRequest n)) s = .next (s.modFold f fun x => { x with maxReadRequest := n })) ∧
  (∀ (s : State) (f : FoldId) (n : Nat), barUp s f = true → n ∈ [128, 256, 512, 1024, 2048, 4096] →
    exec (.configurationWrite f (.maxPayload n)) s = .next (s.modFold f fun x => { x with maxPayload := n })) ∧
  (∀ (s : State) (x : Half), barUp s 0 = true →
    exec (.configurationWrite 0 (.routingId x)) s = .next { s with plat := { s.plat with routingId := x } }) ∧
  (∀ (s : State) (f : FoldId), barUp s f = true → exec (.configurationWrite f (.msixEnable false)) s =
      .next (s.modFold f fun x => { x with msixEnable := false }) ∧
    exec (.configurationWrite f (.msixFunctionMask true)) s = .next (s.modFold f fun x => { x with msixMask := true })) ∧
  (∀ (s : State) (f : FoldId) (c : CfgField) (v : Fin 8) (e : MsixEntry), barUp s f = true → e = (s.fold f).msix.get v →
    (c = .msixEnable true ∧ (s.fold f).msixMask = false ∨ c = .msixFunctionMask false ∧ (s.fold f).msixEnable = true) →
    ∃ t : State, exec (.configurationWrite f c) s = .next t ∧ (t.fold f).msixEnable = true ∧ (t.fold f).msixMask = false ∧
      (e.pending = true → bit e.control 0 = false → (t.fold f).msix.get v = { e with pending := false } ∧ Out.msix f v.val ∈ t.out) ∧
      (e.pending = false ∨ bit e.control 0 = true → (t.fold f).msix.get v = e))

/-- A strobe applies the computed outputs or counts an overrun; valid samples start a computation and the tests; banks swap
whole. With the links up and nothing waiting for it, a strobe whose period is computed applies every computed output with its section
states and sends its code; a period that is not finished, or whose sample has not come or was bad, is an overrun, which leaves outputs
and states. What waits takes effect at the strobe: faults, bank writes, a swap with the states cleared if asked, the banks of a medium
identified, and profiles; no APC output stays above APC_MAX. A synchronising reset restarts n and makes two samples invalid, of which
none is computed. Valid samples are kept, held within the converter's span, count open wires and PU_TEMP and begin or end a defect.
LOOP_COMPUTE_DONE gives the slack, ends the run of overruns and computes each closed loop that is due: through its active bank, or its
old output again while it holds; an open loop is driven by the sequence in progress, if at all. -/
def Obligations.StrobesApplyAndComputeTheLoops : Prop :=
  (∀ s : State, linksUp s = true → s.halt.pend = [] → s.servo.bankWrites = [] → s.servo.swap = none → s.servo.bankLoad = none →
    s.servo.profLoad = false → s.servo.n % 16 ≠ 8 →
    (s.servo.computing = false → s.servo.expect = false → (∀ (o : Int) (z : List SecState), (s.servo.loops.get 3).next = some (o, z) → o ≤ apcTop s) →
      ((s.servo.loops.get 3).next = none → (s.servo.loops.get 3).out ≤ apcTop s) → ∃ t : State, exec .loopStrobe s = .next t ∧
      t = { s with
        servo := { s.servo with
          overrunNow := false
          expect := true
          strobes := s.servo.strobes + 1
          ldStrobes := if s.servo.ldEn then s.servo.ldStrobes + 1 else 0
          n := if s.servo.resync then 0 else s.servo.n + 1
          resync := false
          invalid := if s.servo.resync then 2 else s.servo.invalid
          seq := { s.servo.seq with strobes := s.servo.seq.strobes + 1 }
          loops := t.servo.loops }
        out := t.out } ∧
      ∀ i : Fin 6, (∀ (o : Int) (z : List SecState), (s.servo.loops.get i).next = some (o, z) →
        t.servo.loops.get i = { s.servo.loops.get i with out := o, secs := z, next := none } ∧
        .loopOut i.val (if i.val = 3 then clampI 0 1023 (roundDiv (o * 1023) 2097152) else roundDiv (o * 2047) 2097152) ∈ t.out) ∧
        ((s.servo.loops.get i).next = none → t.servo.loops.get i = s.servo.loops.get i)) ∧
    (s.servo.computing = true ∨ (s.servo.expect = true ∧ s.servo.invalid = 0) → (s.servo.loops.get 3).out ≤ apcTop s →
      ∃ t : State, exec .loopStrobe s = .next t ∧
      t = { s with
        servo := { s.servo with
          computing := false
          expect := true
          defectHalfUs := if s.servo.computing = false ∧ s.servo.defect = true then s.servo.defectHalfUs + 20 / 2 ^ s.servo.rate
            else s.servo.defectHalfUs
          overrunNow := true
          overruns := min (s.servo.overruns + 1) (2 ^ 32 - 1)
          overrunRun := s.servo.overrunRun + 1
          runMax := max s.servo.runMax (s.servo.overrunRun + 1)
          slack := none
          strobes := s.servo.strobes + 1
          ldStrobes := if s.servo.ldEn then s.servo.ldStrobes + 1 else 0
          n := if s.servo.resync then 0 else s.servo.n + 1
          resync := false
          invalid := if s.servo.resync then 2 else s.servo.invalid
          seq := { s.servo.seq with strobes := s.servo.seq.strobes + 1 }
          loops := t.servo.loops } } ∧
      ∀ i : Fin 6, t.servo.loops.get i = { s.servo.loops.get i with next := none })) ∧
  (∀ s u : State, linksUp s = true → u = atStrobe (endPeriod s) → exec .loopStrobe s = .next { u with servo := { u.servo with
    expect := true
    strobes := u.servo.strobes + 1
    ldStrobes := if u.servo.ldEn then u.servo.ldStrobes + 1 else 0
    n := if u.servo.resync then 0 else u.servo.n + 1
    resync := false
    invalid := if u.servo.resync then 2 else u.servo.invalid
    seq := { u.servo.seq with strobes := u.servo.seq.strobes + 1 } } }) ∧
  (∀ s : State, ((limitApc s).servo.loops.get 3).out = min (s.servo.loops.get 3).out (apcTop s) ∧
    ∀ i : Fin 6, i ≠ 3 → (limitApc s).servo.loops.get i = s.servo.loops.get i) ∧
  (∀ (s : State) (m : BitVec 6) (clear : Bool) (k : Nat), s.servo.swap = some (m, clear, k) →
    swapAtStrobe s = { s with servo := { s.servo with swap := none, swapped := some k, loops := (swapAtStrobe s).servo.loops } } ∧
    ∀ i : Fin 6, (bit m i.val = false → (swapAtStrobe s).servo.loops.get i = s.servo.loops.get i) ∧
      (bit m i.val = true → (swapAtStrobe s).servo.loops.get i = { s.servo.loops.get i with
        active := (s.servo.loops.get i).inactive
        inactive := (s.servo.loops.get i).active
        inactiveValid := true
        secs := if clear then List.replicate 6 {} else (s.servo.loops.get i).secs })) ∧
  (∀ (s : State) (c l : Nat), s.servo.bankLoad = some (c, l) → (loadAtStrobe s).servo.bankLoad = none ∧ (loadAtStrobe s).servo.layer = l ∧
    ∀ i : Fin 6, ((loadAtStrobe s).servo.loops.get i).active = storedBank s i.val c l ∧
      ((loadAtStrobe s).servo.loops.get i).secs = (s.servo.loops.get i).secs) ∧
  (∀ (s : State) (b : Bank) (k : Nat) (i : Fin 6) (d : Desc), s.servo.bankWrites = [(i.val, b, k)] → s.desc? 0 k = some d →
    ∃ u : State, EndsAs u (endBankWrites s) 0 k .ok d.fld.length ∧
      u = { s with servo := { s.servo with bankWrites := [], loops := u.servo.loops } } ∧
      u.servo.loops.get i = { s.servo.loops.get i with inactive := .loaded b, inactiveValid := true } ∧
      ∀ j : Fin 6, j ≠ i → u.servo.loops.get j = s.servo.loops.get j) ∧
  (∀ s : State, s.servo.profLoad = true → takeProfiles s = { s with servo := { s.servo with
    profLoad := false
    signalIn := s.servo.signal.get (classNow s)
    sequenceIn := s.servo.sequence.get (classNow s) } }) ∧
  (∀ (s : State) (c : Vector Int 16), linksUp s = false →
    exec .loopStrobe s = .next s ∧ exec (.servoSampleArrival c) s = .next s ∧ exec .servoPacketBad s = .next s) ∧
  (∀ (s : State) (c : Vector Int 16), s.servo.expect = false → exec (.servoSampleArrival c) s = .next s) ∧
  (∀ (s : State) (c : Vector Int 16), linksUp s = true → s.servo.expect = true → 0 < s.servo.invalid →
    exec (.servoSampleArrival c) s = .next { s with servo := { s.servo with
      expect := false
      invalid := s.servo.invalid - 1
      slack := none
      overrunNow := false
      defectHalfUs := if s.servo.defect then s.servo.defectHalfUs + 20 / 2 ^ s.servo.rate else s.servo.defectHalfUs } }) ∧
  (∀ (s : State) (c : Vector Int 16), linksUp s = true → s.servo.expect = true → s.servo.invalid = 0 → s.servo.seq.phase = .idle →
    ∃ t : State, exec (.servoSampleArrival c) s = .next t ∧ t = { s with servo := t.servo, chan := t.chan } ∧
      t.servo.computing = true ∧ t.servo.expect = false ∧ t.servo.loops = s.servo.loops ∧ t.servo.n = s.servo.n ∧
      t.servo.ldEn = s.servo.ldEn ∧ t.chan.flagged = false ∧
      (∀ i : Fin 16, t.servo.samples.get i = clampI (-512) 511 (c.get i)) ∧
      (∀ (i : Fin 16) (j : Fin 9), i.val = j.val → t.servo.band.get j =
        if s.servo.ldEn = true ∧ 2000 * (100 * 2 ^ s.servo.rate) / 1000 ≤ s.servo.ldStrobes ∧ -424 ≤ clampI (-512) 511 (c.get i) ∧
          clampI (-512) 511 (c.get i) ≤ -344 then s.servo.band.get j + 1 else 0) ∧
      (500 < c.get 9 → t.servo.puHigh = s.servo.puHigh + 1 ∧ t.servo.puLow = 0) ∧
      (c.get 9 ≤ 500 → t.servo.puHigh = 0 ∧ t.servo.puLow = s.servo.puLow + 1)) ∧
  (∀ (s : State) (c : Vector Int 16) (u : State) (sum : Int) (flag : Bool), linksUp s = true → s.servo.expect = true → s.servo.invalid = 0 →
    s.servo.seq.phase = .idle → u = { s with servo := { s.servo with samples := c.map (clampI (-512) 511) } } → sum = 65536 * sumCode u →
    flag = (s.chan.defect || s.chan.flagged) → ∃ t : State, exec (.servoSampleArrival c) s = .next t ∧
      t.servo.seq = { s.servo.seq with fe := feQ u, te := teQ u } ∧
      t.servo.sums = ((sumCode u, ssumCode u) :: s.servo.sums).take (strobesIn s 2000) ∧
      (defectTested s = false → t.servo.defect = false) ∧
      (defectTested s = true → s.servo.defect = false → (t.servo.defect = true ↔
        100 * sum < 40 * s.servo.tracked ∨ 160 * s.servo.tracked < 100 * sum ∨ flag = true)) ∧
      (defectTested s = true → s.servo.defect = true → (t.servo.defect = false ↔
        45 * s.servo.tracked ≤ 100 * sum ∧ 100 * sum ≤ 155 * s.servo.tracked ∧ flag = false)) ∧
      (defectTested s = true → t.servo.defect = true → t.servo.tracked = s.servo.tracked ∧
        t.servo.defectHalfUs = (if s.servo.defect then s.servo.defectHalfUs else 0) + 20 / 2 ^ s.servo.rate)) ∧
  (∀ (s : State) (left period : Nat), s.servo.computing = true → ∃ t : State, exec (.loopComputeDone left period) s = .next t ∧
    t = { s with
      servo := { s.servo with
        computing := false
        slack := some (min 63 (64 * left / max 1 period))
        overrunRun := 0
        loops := t.servo.loops
        trackSum := t.servo.trackSum }
      spindle := { s.spindle with setPoint := t.spindle.setPoint } } ∧
    (∀ i : Fin 6, t.servo.loops.get i = { s.servo.loops.get i with next := (t.servo.loops.get i).next } ∧
      ((s.servo.loops.get i).closed = false → seqDrive s i.val = none → (t.servo.loops.get i).next = none) ∧
      ∀ o : Int, (s.servo.loops.get i).closed = false → seqDrive s i.val = some o →
        (t.servo.loops.get i).next = some (o, (s.servo.loops.get i).secs)) ∧
    (s.servo.n % 16 ≠ 8 → (t.servo.loops.get 4).next = none ∧ t.spindle.setPoint = s.spindle.setPoint) ∧
    (s.servo.n % 16 = 8 → t.spindle.setPoint = setPointNow s) ∧
    (s.servo.n % 32 ≠ 4 → (t.servo.loops.get 5).next = none ∧ t.servo.trackSum = s.servo.trackSum + (s.servo.loops.get 1).out) ∧
    (s.servo.ldEn = false ∨ s.servo.wgate = true → (t.servo.loops.get 3).next = none) ∧
    ((s.servo.loops.get 3).closed = true → (s.servo.loops.get 3).held = false → s.servo.ldEn = true → s.servo.wgate = false →
      (t.servo.loops.get 3).next = some (runLoop (bankOf (s.servo.loops.get 3).active) (s.servo.loops.get 3).secs
        (satQ ((apcTargetNow s : Int) * 4096 - chanQ s 8)) (apcTop s))) ∧
    ∀ (i : Fin 6) (x : Int), s.servo.seq.phase ≠ .settle → (s.servo.loops.get i).closed = true → i = 0 ∧ x = feQ s ∨ i = 1 ∧ x = teQ s ∨
      i = 2 ∧ x = (if (signalNow s).tiltEn then tiltQ s else (signalNow s).tiltFixed) →
      ((s.servo.loops.get i).held = false → s.servo.defect = false → (t.servo.loops.get i).next =
        some (runLoop (bankOf (s.servo.loops.get i).active) (s.servo.loops.get i).secs x 8388607)) ∧
      ((s.servo.loops.get i).held = true ∨ s.servo.defect = true → (t.servo.loops.get i).next =
        some (holdLoop (bankOf (s.servo.loops.get i).active) (s.servo.loops.get i).secs x (s.servo.loops.get i).out))) ∧
  (∀ (s : State) (left period : Nat), s.servo.computing = false → exec (.loopComputeDone left period) s = .next s) ∧
  (∀ (b : Bank) (z : List SecState) (x hi : Int), (runLoop b z x hi).1 ≤ hi ∧ (b.outLo ≤ b.outHi → (runLoop b z x hi).1 ≤ b.outHi ∧
    (b.outLo ≤ hi → b.outLo ≤ (runLoop b z x hi).1))) ∧
  (∀ (b : Bank) (z : List SecState) (x out : Int), (holdLoop b z x out).1 = out) ∧
  (∀ s : State, linksUp s = true → s.servo.expect = true → s.servo.invalid = 0 → ∃ t : State, exec .servoPacketBad s = .next t ∧
    t.pwr.links = { s.pwr.links with ylm := min (s.pwr.links.ylm + 1) 255 } ∧ t.servo.overrunRun = s.servo.overrunRun + 1 ∧
      t.servo.overruns = min (s.servo.overruns + 1) (2 ^ 32 - 1) ∧ t.servo.overrunNow = true ∧ t.servo.computing = false ∧
      t.servo.expect = false ∧ t.servo.samples = s.servo.samples ∧
      t.servo.defectHalfUs = (if s.servo.defect then s.servo.defectHalfUs + 20 / 2 ^ s.servo.rate else s.servo.defectHalfUs) ∧
      ∀ i : Fin 6, t.servo.loops.get i = { s.servo.loops.get i with next := none }) ∧
  (∀ s : State, linksUp s = true → s.servo.expect = false → exec .servoPacketBad s = .next { s with pwr := { s.pwr with
    links := { s.pwr.links with ylm := min (s.pwr.links.ylm + 1) 255 } } }) ∧
  (∀ (s : State) (k : Nat) (d : Desc), s.servo.swapped = some k → s.desc? 0 k = some d →
    ∃ t : State, exec .bankSwapApply s = .next t ∧ EndsAs { s with servo := { s.servo with swapped := none } } t 0 k .ok d.fld.length) ∧
  (∀ s : State, s.servo.swapped = none → exec .bankSwapApply s = .next s)

/-- Overruns, long defects, open wires and APC at its limit are servo faults that halt; an open PU_TEMP only bars writing. Three
overruns in a row, a defect beyond DH_MAX, an input in the tell band for four samples while LD_EN is 1, and an APC that is at
its limit for 1 ms or not settled 2 ms after LD_EN rose are servo faults, each with its cause and mask; the mask names every input whose
count has reached four. A fault waits for the next strobe. There 0x0750 is posted for each cause once, in ascending order, the command
on the mechanism ends with SERVO_FAULT, and HALT is entered once, with cause 4 for a link fault, 3 for an open wire and the APC, else 1.
Laser, loops, spindle, sled and loader are then off. PU_TEMP above code 500 for 32 samples is reported and 32 samples at or below it
clear it; neither halts. -/
def Obligations.ServoFaultsStopTheMechanism : Prop :=
  (∀ s : State, 3 ≤ s.servo.overrunRun → exec .overrunLimit s = .next (servoFault { s with servo := { s.servo with overrunRun := 0 } } 1 0)) ∧
  (∀ s : State, s.servo.overrunRun < 3 → exec .overrunLimit s = .next s) ∧
  (∀ s : State, s.servo.defect = true → 2 * (sequenceNow s).dhMax < s.servo.defectHalfUs → exec .defectLong s = .next
    (servoFault { s with servo := { s.servo with defect := false, defectHalfUs := 0 } } 2 0)) ∧
  (∀ s : State, s.servo.defect = false ∨ s.servo.defectHalfUs ≤ 2 * (sequenceNow s).dhMax → exec .defectLong s = .next s) ∧
  (∀ (s : State) (m : Nat), openMask s = m → m ≠ 0 → s.servo.ldEn = true → exec .pickupOpen s = .next
    (servoFault { s with servo := { s.servo with band := Vector.replicate 9 0 } } 3 m)) ∧
  (∀ s : State, openMask s = 0 ∨ s.servo.ldEn = false → exec .pickupOpen s = .next s) ∧
  (∀ s : State, openMask s =
    (if 4 ≤ s.servo.band.get 0 then 1 else 0) + (if 4 ≤ s.servo.band.get 1 then 2 else 0) + (if 4 ≤ s.servo.band.get 2 then 4 else 0) +
    (if 4 ≤ s.servo.band.get 3 then 8 else 0) + (if 4 ≤ s.servo.band.get 4 then 16 else 0) + (if 4 ≤ s.servo.band.get 5 then 32 else 0) +
    (if 4 ≤ s.servo.band.get 6 then 64 else 0) + (if 4 ≤ s.servo.band.get 7 then 128 else 0) + (if 4 ≤ s.servo.band.get 8 then 256 else 0)) ∧
  (∀ s : State, s.servo.ldEn = true → 100 * 2 ^ s.servo.rate ≤ s.servo.apcMaxed ∨
    (s.servo.apcSettled = false ∧ 2 * (100 * 2 ^ s.servo.rate) ≤ s.servo.ldStrobes) → exec .apcLimit s = .next (servoFault s 8 0)) ∧
  (∀ s : State, s.servo.ldEn = false ∨ (s.servo.apcMaxed < 100 * 2 ^ s.servo.rate ∧
    (s.servo.apcSettled = true ∨ s.servo.ldStrobes < 2 * (100 * 2 ^ s.servo.rate))) → exec .apcLimit s = .next s) ∧
  (∀ (s : State) (c m : Nat), servoFault s c m = { s with halt := { s.halt with pend := addFault s.halt.pend (.servo c (m % 512)) } }) ∧
  (∀ (l : List PendFault) (c m : Nat), (∀ n : Nat, .servo c n ∉ l) → addFault l (.servo c m) = l ++ [.servo c m]) ∧
  (∀ (c m n : Nat), addFault [.servo c n] (.servo c m) = [.servo c (m ||| n)]) ∧
  (∀ (a b m n : Nat), a < b → b ≤ 8 → faultOrder [.servo b n, .servo a m] = [.servo a m, .servo b n] ∧
    faultOrder [.motion a m, .servo b n] = [.servo b n, .motion a m] ∧ faultOrder [.servo b n, .link a] = [.link a, .servo b n]) ∧
  (∀ (l : List PendFault), ((∃ x, PendFault.link x ∈ l) → haltCauseOf l = 4) ∧ ((∀ x, PendFault.link x ∉ l) →
    ((∃ m, PendFault.servo 3 m ∈ l ∨ .servo 8 m ∈ l ∨ .rail 7 ∈ l) → haltCauseOf l = 3) ∧
    ((∀ m, PendFault.servo 3 m ∉ l ∧ .servo 8 m ∉ l ∧ .rail 7 ∉ l) → haltCauseOf l = 1))) ∧
  (∀ s : State, s.halt.pend.all (· == .down) = false → Halts s (takeFaults s) (haltCauseOf s.halt.pend) ∧
    takeFaults s = enterHalt (makeSafe (stopJob ((faultOrder s.halt.pend).foldl (fun t p => postEvent t 0 (faultEvent p).1 (faultEvent p).2)
      { s with halt := { s.halt with pend := [] } }) .servoFault)) (haltCauseOf s.halt.pend)) ∧
  (∀ (c m : Nat), faultEvent (.servo c m) = (0x0750, w32 (c + 256 * m)) ∧ faultEvent (.motion c m) = (0x0760, w32 (c + 256 * m)) ∧
    faultEvent (.link c) = (0x0720, w32 c)) ∧
  (∀ s : State, linksUp s = true → s.halt.pend.all (· == .down) = false → ∃ t : State, exec .loopStrobe s = .next t ∧
    t.halt.inHalt = true ∧ t.halt.pend = [] ∧ t.halt.seq = s.halt.seq + 1 ∧ t.servo.ldEn = false ∧ t.servo.wgate = false ∧
    t.sled.lost = true ∧ t.loader.drive = .none ∧ ∀ i : Fin 6, (t.servo.loops.get i).closed = false) ∧
  (∀ s : State, s.servo.puOpen = false → 32 ≤ s.servo.puHigh → ∃ (u t : State), exec .puTempOpen s = .next t ∧
    t = postEvent u 0 0x0751 (w32 (1 + 65536 * toBits 16 (s.servo.samples.get 9))) ∧ t.servo.puOpen = true ∧ t.halt = s.halt ∧
    (s.job = none → u = { s with servo := { s.servo with puOpen := true } }) ∧
    ∀ (j : Job) (d : Desc), jobDesc s = some (j, d) →
      (opWrites d.op = false ∨ j.ended = true → u = { s with servo := { s.servo with puOpen := true } }) ∧
      (opWrites d.op = true → j.ended = false → u = stopAtBoundary { s with servo := { s.servo with puOpen := true } } .writeFailed)) ∧
  (∀ s : State, s.servo.puOpen = true ∨ s.servo.puHigh < 32 → exec .puTempOpen s = .next s) ∧
  (∀ s : State, s.servo.puOpen = true → 32 ≤ s.servo.puLow → exec .puTempClear s = .next (postEvent
    { s with servo := { s.servo with puOpen := false } } 0 0x0751 (w32 (65536 * toBits 16 (s.servo.samples.get 9))))) ∧
  (∀ s : State, s.servo.puOpen = false ∨ s.servo.puLow < 32 → exec .puTempClear s = .next s)

/-- Bad packets are counted, control packets resent three times and frames tolerated twice; a stall or lost ticks fault at once.
With the links up, a bad channel packet is counted and its bytes are erasures; a bad control packet is counted and resent up to
three times and its fourth failure is a link fault, and a good one clears the count; a good command frame brings the commands of its
strobe, a bad one is discarded and leaves those in force, and the third bad one in a row is a link fault. A stalled handshake is one at
once, and so is the loss of three ticks, on which Iron stops by itself and its timebase unlocks. A link fault keeps its code in
PWR_LINK_STAT; where Yelxo-M itself has failed LD_EN drops at once; it takes effect at the next strobe. Without links, nothing
happens. -/
def Obligations.LinksCountAndFault : Prop :=
  (∀ (s : State) (n : Nat), linksUp s = true → exec (.channelPacketBad n) s = .next { s with
    pwr := { s.pwr with links := { s.pwr.links with ylm := min (s.pwr.links.ylm + 1) 255 } }
    chan := { s.chan with erased := s.chan.erased ++ [packetSpan s n] } }) ∧
  (∀ s : State, linksUp s = true →
    exec (.controlPacketArrival .yelxoM true) s = .next { s with pwr := { s.pwr with links := { s.pwr.links with failsM := 0 } } } ∧
    exec (.controlPacketArrival .yelxoB true) s = .next { s with pwr := { s.pwr with links := { s.pwr.links with failsB := 0 } } } ∧
    (s.spindle.st ≠ .closed ∨ s.pwr.links.cmd.spindle = (frameNow s).spindle → exec (.yelxoBCommandFrame true) s = .next { s with
      pwr := { s.pwr with links := { s.pwr.links with badFrames := 0, cmd := frameNow s } } }) ∧
    (s.pwr.links.failsM < 3 → exec (.controlPacketArrival .yelxoM false) s = .next { s with pwr := { s.pwr with links := { s.pwr.links with
      ylm := min (s.pwr.links.ylm + 1) 255
      resends := min (s.pwr.links.resends + 1) 255
      failsM := s.pwr.links.failsM + 1 } } }) ∧
    (s.pwr.links.failsB < 3 → exec (.controlPacketArrival .yelxoB false) s = .next { s with pwr := { s.pwr with links := { s.pwr.links with
      ylb := min (s.pwr.links.ylb + 1) 255
      resends := min (s.pwr.links.resends + 1) 255
      failsB := s.pwr.links.failsB + 1 } } }) ∧
    (s.pwr.links.badFrames < 2 → exec (.yelxoBCommandFrame false) s = .next { s with pwr := { s.pwr with links := { s.pwr.links with
      ylb := min (s.pwr.links.ylb + 1) 255
      badFrames := s.pwr.links.badFrames + 1 } } })) ∧
  (∀ s : State, (frameNow s).focus = outCode 0 (s.servo.loops.get 0).out ∧ (frameNow s).track = outCode 1 (s.servo.loops.get 1).out ∧
    (frameNow s).tilt = outCode 2 (s.servo.loops.get 2).out ∧ (frameNow s).spindle = (s.servo.loops.get 4).out ∧
    (frameNow s).sled = (s.servo.loops.get 5).out ∧ (s.servo.overrunNow = true → (frameNow s).value = .overrun) ∧
    ∀ x : Nat, s.servo.overrunNow = false → s.servo.slack = some x → (frameNow s).value = .slack x) ∧
  (∀ (s u : State) (c : Instr) (code : Nat), linksUp s = true →
    c = .controlPacketArrival .yelxoM false ∧ 3 ≤ s.pwr.links.failsM ∧ code = 2 ∧ u = { s with pwr := { s.pwr with links := { s.pwr.links with
        ylm := min (s.pwr.links.ylm + 1) 255, failsM := 0, lastFault := 2 } } } ∨
    c = .controlPacketArrival .yelxoB false ∧ 3 ≤ s.pwr.links.failsB ∧ code = 4 ∧ u = { s with pwr := { s.pwr with links := { s.pwr.links with
        ylb := min (s.pwr.links.ylb + 1) 255, failsB := 0, lastFault := 4 } } } ∨
    c = .yelxoBCommandFrame false ∧ 2 ≤ s.pwr.links.badFrames ∧ code = 5 ∧ u = { s with pwr := { s.pwr with links := { s.pwr.links with
        ylb := min (s.pwr.links.ylb + 1) 255, badFrames := 0, lastFault := 5 } } } ∨
    c = .linkStall .yelxoM ∧ code = 1 ∧ u = { s with pwr := { s.pwr with links := { s.pwr.links with lastFault := 1 } } } ∨
    c = .linkStall .yelxoB ∧ code = 3 ∧ u = { s with pwr := { s.pwr with links := { s.pwr.links with lastFault := 3 } } } →
    (3 ≤ code → exec c s = .next { u with halt := { u.halt with pend := addFault u.halt.pend (.link code) } }) ∧
    (code < 3 → ∃ t : State, exec c s = .next t ∧ t.servo.ldEn = false ∧ t.servo.wgate = false ∧
      t.halt = { u.halt with pend := addFault u.halt.pend (.link code) } ∧ t.pwr = u.pwr ∧ t.servo.loops = s.servo.loops ∧
      t.spindle = s.spindle ∧ t.sled = s.sled)) ∧
  (∀ s : State, linksUp s = true → ∃ t : State, exec .loopTickLoss s = .next t ∧ t.pwr.tbLock = false ∧ t.pwr.links.lastFault = 6 ∧
    t.halt = { s.halt with pend := addFault s.halt.pend (.link 6) } ∧ t.sled.move = .rest ∧ t.sled.lost = true ∧ t.sled.ia = 0 ∧ t.sled.ib = 0 ∧
    t.spindle.st = (if s.spindle.st = .stopped then .stopped else .coasting) ∧ t.servo.ldEn = s.servo.ldEn ∧
    (∀ i : Fin 6, (t.servo.loops.get i).closed = false) ∧ t.servo.ramp = some (s.servo.ramp.getD
      (s.us, (s.servo.loops.get 0).out, (s.servo.loops.get 1).out, (s.servo.loops.get 2).out))) ∧
  (∀ x : Int, rampAt x 0 = x ∧ ∀ us : Nat, 1000 ≤ us → rampAt x us = 0) ∧
  (∀ (s : State) (c : Instr), linksUp s = false → (∃ n, c = .channelPacketBad n) ∨ (∃ l b, c = .controlPacketArrival l b) ∨
    (∃ b, c = .yelxoBCommandFrame b) ∨ (∃ l, c = .linkStall l) ∨ c = .loopTickLoss → exec c s = .next s)

/-- Focus-on, track-on, jumps and layer jumps run their sequences on the samples, retry as told, and fault when they fail.
Focus-on raises LD_EN where it may, lets APC settle alone and sweeps over FS_RANGE; on the down-sweep it closes FOCUS on the target
layer's S-curve with the stored bank, and FOK after 1 ms is its success; without S-curves in FS_TRIES sweep pairs the laser drops
without HALT and a LOAD ends NO_DISC, and without FOK it is FOCUS_FAIL. Track-on measures TE's crossings, brakes for BRK_T at a slow
one, closes TRACK with its stored bank and k within 0.5 to 4.0, is locked after 2 ms within TON_LOCK, and closes SLED 1 ms later;
without lock in 100 ms it is tried three times and is then TRACK_FAIL. A jump of 1 to 255 tracks opens TRACK with its integrators held
and drives KICK_AMP, reversed at crossing N, until crossing 2N; past its bound track-on follows, and a second failure is JUMP_FAIL. A
layer jump opens FOCUS, kicks, coasts, brakes with a synchronising reset and closes FOCUS; past 5 ms focus-on follows, and its failure
is LAYER_FAIL. -/
def Obligations.SequencesCloseAndMoveTheLoops : Prop :=
  (∀ (s : State) (l : Nat), laserAllowed s = false ∨ 2 < l ∨ s.servo.seq.phase ≠ .idle → exec (.focusOn l) s = .next s) ∧
  (∀ (s : State) (l : Nat), laserAllowed s = true → l ≤ 2 → s.servo.seq.phase = .idle → ∃ t : State, exec (.focusOn l) s = .next t ∧
    t = { s with servo := t.servo, out := if s.servo.ldEn then s.out else s.out ++ [.ldEn true] } ∧ t.servo.ldEn = true ∧
    t.servo.ldStrobes = (if s.servo.ldEn then s.servo.ldStrobes else 0) ∧ t.servo.fok = false ∧ t.servo.locked = false ∧
    t.servo.trackOnAt = none ∧ t.servo.seq = { phase := .settle, layer := l, afterJump := false } ∧ t.servo.wgate = s.servo.wgate ∧
    ∀ i : Fin 6, (t.servo.loops.get i).active = (s.servo.loops.get i).active ∧ (t.servo.loops.get i).out = (s.servo.loops.get i).out ∧
      (t.servo.loops.get i).closed = (if i = 3 then true else if i = 4 then (s.servo.loops.get 4).closed else false)) ∧
  (∀ (s : State) (c : Vector Int 16), linksUp s = true → s.servo.expect = true → s.servo.invalid = 0 → ∃ u : State,
    exec (.servoSampleArrival c) s = .next (seqStep u) ∧ u = { s with servo := u.servo, chan := u.chan } ∧ u.servo.seq = s.servo.seq ∧
    u.servo.samples = c.map (clampI (-512) 511) ∧ u.servo.loops = s.servo.loops ∧ u.servo.jump = s.servo.jump ∧
    u.servo.fok = s.servo.fok ∧ u.servo.locked = s.servo.locked ∧ u.servo.ldEn = s.servo.ldEn ∧ u.servo.computing = true) ∧
  (∀ (s t : State), t = seqPhaseStep s (sumCode s) (feQ s) (teQ s) →
    seqStep s = { t with servo := { t.servo with seq := { t.servo.seq with fe := feQ s, te := teQ s } } }) ∧
  (∀ (s : State) (sum fe te : Int), s.servo.seq.phase = .settle →
    (s.servo.apcSettled = true → strobesIn s 2000 + 5 ≤ s.servo.ldStrobes → ∃ t : State, seqPhaseStep s sum fe te = t ∧
      t.servo.seq = { s.servo.seq with phase := .up, strobes := 0, curves := 0, sumPeak := 0, fePeak := 0 } ∧
      (t.servo.loops.get 0).closed = false ∧ (t.servo.loops.get 1).closed = false ∧ (t.servo.loops.get 5).closed = false) ∧
    (s.servo.apcSettled = false ∨ s.servo.ldStrobes < strobesIn s 2000 + 5 → seqPhaseStep s sum fe te = s)) ∧
  (∀ (s : State) (b : Bool), (s.servo.seq.strobes = 0 → sweepOut s b = signed b (-permille (sequenceNow s).fsRange)) ∧
    (strobesIn s (1000 * (sequenceNow s).fsTime) ≤ s.servo.seq.strobes → 0 < s.servo.seq.strobes →
      sweepOut s b = signed b (permille (sequenceNow s).fsRange))) ∧
  (∀ (s : State) (sum fe te : Int) (p : SequenceProf) (q : Seq), s.servo.seq.phase = .down → p = sequenceNow s → q = s.servo.seq →
    (p.fsSumTh : Int) < sum → q.curves = q.layer → (p.fePeakTh : Int) < q.fePeak → crossed q.fe fe = true → ∃ t : State,
    seqPhaseStep s sum fe te = t ∧ t.servo.seq.phase = .focusHold ∧ (t.servo.loops.get 0).closed = true ∧ t.servo.layer = q.layer ∧
      (t.servo.loops.get 0).active = storedBank s 0 (classNow s).val q.layer) ∧
  (∀ (p : SequenceProf) (q : Seq), (curveEnds p q).curves = (if (p.fsSumTh : Int) < q.sumPeak ∧ (p.fePeakTh : Int) < q.fePeak
    then q.curves + 1 else q.curves) ∧ (curveEnds p q).sumPeak = 0 ∧ (curveEnds p q).fePeak = 0) ∧
  (∀ (s : State) (sum fe te : Int), s.servo.seq.phase = .focusHold →
    (sum ≤ (sequenceNow s).fokTh → seqPhaseStep s sum fe te = attemptOver s) ∧
    ((sequenceNow s).fokTh < sum → s.servo.seq.strobes < strobesIn s 1000 → seqPhaseStep s sum fe te = s) ∧
    ((sequenceNow s).fokTh < sum → strobesIn s 1000 ≤ s.servo.seq.strobes → ∃ t : State, seqPhaseStep s sum fe te = t ∧
      t.servo.fok = true ∧ (t.servo.loops.get 2).closed = true ∧ t.servo.layerJump = none ∧
      t.servo.seq.phase = (if s.servo.seq.afterJump then .measure else .idle))) ∧
  (∀ s : State, s.servo.seq.pairs + 1 < (sequenceNow s).fsTries → (attemptOver s).servo.seq.phase = .up ∧
    (attemptOver s).servo.seq.pairs = s.servo.seq.pairs + 1 ∧ (attemptOver s).servo.seq.curves = 0) ∧
  (∀ s : State, (sequenceNow s).fsTries ≤ s.servo.seq.pairs + 1 →
    (s.servo.seq.most = 0 → s.servo.seq.curves = 0 → s.servo.seq.afterJump = false → ∃ u : State, u.job = s.job ∧ u.folds = s.folds ∧
      u.sys = s.sys ∧ u.halt = s.halt ∧ u.servo.ldEn = false ∧ u.servo.wgate = false ∧ u.servo.fok = false ∧ u.loader.unident = false ∧
      (∀ i : Fin 6, (u.servo.loops.get i).closed = false) ∧
      (∀ j : Job, loadingJob s = some j → JobEndsAs u (attemptOver s) .noDisc 0) ∧
      (loadingJob s = none → attemptOver s = if s.sys.mode = .load then { u with sys := { u.sys with mode := .idle } } else u)) ∧
    (0 < s.servo.seq.most ∨ 0 < s.servo.seq.curves ∨ s.servo.seq.afterJump = true →
      (attemptOver s).halt = { s.halt with pend := addFault s.halt.pend (.servo (if s.servo.seq.afterJump then 7 else 4) 0) } ∧
      (attemptOver s).servo.seq.phase = .idle ∧ (attemptOver s).job = s.job)) ∧
  (∀ s : State, s.servo.fok = false ∨ s.servo.ldEn = false ∨ s.halt.inHalt = true ∨ s.servo.seq.phase ≠ .idle ∨ atSpeed s = false →
    exec .trackOn s = .next s) ∧
  (∀ s : State, s.servo.fok = true → s.servo.ldEn = true → s.halt.inHalt = false → s.servo.seq.phase = .idle → atSpeed s = true →
    ∃ t : State, exec .trackOn s = .next t ∧ t = { s with servo := t.servo } ∧
      t.servo.seq = { s.servo.seq with phase := .measure, strobes := 0, cross := none, run := 0 } ∧ t.servo.trackOnAt = some s.us ∧
      t.servo.trackTries = 0 ∧ t.servo.locked = false ∧ t.servo.fok = true ∧ t.servo.ldEn = true ∧
      t.servo.loops.get 1 = { s.servo.loops.get 1 with closed := false, held := false, next := none } ∧
      t.servo.loops.get 5 = { s.servo.loops.get 5 with closed := false, held := false, next := none } ∧
      ∀ i : Fin 6, i ≠ 1 → i ≠ 5 → t.servo.loops.get i = s.servo.loops.get i) ∧
  (∀ (s : State) (sum fe te : Int), s.servo.seq.phase = .measure →
    (∀ n : Nat, crossed s.servo.seq.te te = true → s.servo.seq.cross = some n → strobesIn s (sequenceNow s).tonSlow < n + 1 →
      (seqPhaseStep s sum fe te).servo.seq.phase = .ready) ∧
    (crossed s.servo.seq.te te = false ∨ s.servo.seq.cross = none → (seqPhaseStep s sum fe te).servo.seq.phase = .measure)) ∧
  (∀ (s : State) (sum fe te : Int), s.servo.seq.phase = .ready → crossed s.servo.seq.te te = true → onTrack s te s.servo.seq.brakeUp = true →
    (seqPhaseStep s sum fe te).servo.seq = { s.servo.seq with phase := .brake, strobes := 0, brakeUp := !s.servo.seq.brakeUp }) ∧
  (∀ (s : State) (sum fe te : Int), s.servo.seq.phase = .brake → (s.servo.seq.strobes < strobesIn s (sequenceNow s).brkT →
      seqPhaseStep s sum fe te = s) ∧
    (strobesIn s (sequenceNow s).brkT ≤ s.servo.seq.strobes → ∃ t : State, seqPhaseStep s sum fe te = t ∧ t.servo.seq.phase = .closing ∧
      (t.servo.loops.get 1).closed = true ∧ (t.servo.loops.get 1).active = storedBank s 1 (classNow s).val s.servo.layer ∧
      t.servo.kdpp = (if (signalNow s).kAuto then kFromSums s.servo.sums else s.servo.kdpp))) ∧
  (∀ (s : State) (sum fe te : Int) (n : Nat), s.servo.seq.phase = .closing →
    n = (if te.natAbs < 4096 * (sequenceNow s).tonLock then s.servo.seq.run + 1 else 0) →
    (n < strobesIn s 2000 → seqPhaseStep s sum fe te = { s with servo := { s.servo with seq := { s.servo.seq with run := n } } }) ∧
    (strobesIn s 2000 ≤ n → ∃ t : State, seqPhaseStep s sum fe te = t ∧ t.servo.locked = true ∧ t.servo.trackOnAt = none ∧
      t.servo.jumpFails = 0 ∧ t.servo.seq.phase = .lockHold)) ∧
  (∀ (s : State) (sum fe te : Int), s.servo.seq.phase = .lockHold → strobesIn s 1000 ≤ s.servo.seq.strobes → ∃ t : State,
    seqPhaseStep s sum fe te = t ∧ t.servo.seq.phase = .idle ∧ (t.servo.loops.get 5).closed = true ∧
    (s.sled.move = .rest → t.sled.move = .follow)) ∧
  (∀ l : List (Int × Int), 1048576 ≤ kFromSums l ∧ kFromSums l ≤ 8388607) ∧
  (∀ (s : State) (n : Nat), s.servo.trackOnAt = some n →
    (s.us < n + 100000 ∨ trackingOn s = false → exec .trackOnTimeout s = .next s) ∧
    (n + 100000 ≤ s.us → trackingOn s = true → s.servo.trackTries < 2 → ∃ t : State, exec .trackOnTimeout s = .next t ∧
      t = { s with servo := t.servo } ∧ t.servo.trackTries = s.servo.trackTries + 1 ∧ t.servo.trackOnAt = some s.us ∧
      t.servo.seq.phase = .measure ∧ (t.servo.loops.get 1).closed = false) ∧
    (n + 100000 ≤ s.us → trackingOn s = true → 2 ≤ s.servo.trackTries → exec .trackOnTimeout s = .next { s with
      servo := { s.servo with trackOnAt := none, seq := { s.servo.seq with phase := .idle, strobes := 0 } }
      halt := { s.halt with pend := addFault s.halt.pend (.servo 5 0) } })) ∧
  (∀ s : State, s.servo.trackOnAt = none → exec .trackOnTimeout s = .next s) ∧
  (∀ (s : State) (n : Nat) (b : Bool), s.servo.locked = true → 1 ≤ n → n ≤ 255 → ∃ t : State, exec (.trackJump n b) s = .next t ∧
    t = { s with
      servo := { s.servo with
        jump := some { tracks := n, outward := b, at_ := s.us }
        locked := false
        trackOnAt := none
        ramp := none
        seq := { s.servo.seq with phase := .jumpKick, strobes := 0, crossings := 0 }
        loops := t.servo.loops }
      chan := { s.chan with accepted := false } } ∧
    t.servo.loops.get 1 = { s.servo.loops.get 1 with closed := false, held := true, next := none } ∧
    t.servo.loops.get 5 = { s.servo.loops.get 5 with closed := true, held := true, next := none } ∧
    ∀ i : Fin 6, i ≠ 1 → i ≠ 5 → t.servo.loops.get i = s.servo.loops.get i) ∧
  (∀ (s : State) (n : Nat) (b : Bool), s.servo.locked = false ∨ n = 0 ∨ 255 < n → exec (.trackJump n b) s = .next s) ∧
  (∀ (s : State) (j : Jump), s.servo.jump = some j →
    (s.servo.seq.phase = .jumpKick → seqDrive s 1 = some (signed j.outward (permille (sequenceNow s).kickAmp))) ∧
    (s.servo.seq.phase = .jumpBrake → seqDrive s 1 = some (signed (!j.outward) (permille (sequenceNow s).kickAmp))) ∧
    ∀ (sum fe te : Int) (n : Nat), s.servo.seq.phase = .jumpKick ∨ s.servo.seq.phase = .jumpBrake →
      n = s.servo.seq.crossings + (if crossed s.servo.seq.te te then 1 else 0) →
      (2 * j.tracks ≤ n → crossed s.servo.seq.te te = true → onTrack s te j.outward = true → ∃ t : State, seqPhaseStep s sum fe te = t ∧
        t.servo.jump = none ∧ (t.servo.loops.get 1).closed = true ∧ t.servo.seq.phase = .closing ∧ t.servo.trackOnAt = some s.us) ∧
      (n < j.tracks → (seqPhaseStep s sum fe te).servo.seq = { s.servo.seq with crossings := n }) ∧
      (j.tracks ≤ n → n < 2 * j.tracks → (seqPhaseStep s sum fe te).servo.seq.phase = .jumpBrake)) ∧
  (∀ (s : State) (j : Jump), s.servo.jump = some j →
    (s.us < j.at_ + 2000 + 50 * j.tracks → exec .jumpTimeout s = .next s) ∧
    (j.at_ + 2000 + 50 * j.tracks ≤ s.us → s.servo.jumpFails = 0 → ∃ t : State, exec .jumpTimeout s = .next t ∧ t.servo.jumpFails = 1 ∧
      t.servo.jump = none ∧ t.servo.seq.phase = .measure ∧ t.servo.trackOnAt = some s.us ∧ t.servo.trackTries = 0) ∧
    (j.at_ + 2000 + 50 * j.tracks ≤ s.us → 1 ≤ s.servo.jumpFails → exec .jumpTimeout s = .next { s with
      servo := { s.servo with jump := none, jumpFails := 0, seq := { s.servo.seq with phase := .idle, strobes := 0 } }
      halt := { s.halt with pend := addFault s.halt.pend (.servo 6 0) } })) ∧
  (∀ s : State, s.servo.jump = none → exec .jumpTimeout s = .next s) ∧
  (∀ (s : State) (d : DiscInfo) (l : Nat), s.disc = some d → s.servo.fok = true → s.servo.ldEn = true →
    (l < d.layers → l ≠ s.servo.layer → ∃ t : State, exec (.layerJump l) s = .next t ∧
      t = { s with
        servo := { s.servo with
          layerJump := some (l, s.us)
          fok := false
          locked := false
          jump := none
          trackOnAt := none
          ramp := none
          seq := { phase := .layerKick, layer := l, fe := s.servo.seq.fe, te := s.servo.seq.te }
          loops := t.servo.loops }
        chan := { s.chan with accepted := false } } ∧
      t.servo.loops.get 0 = { s.servo.loops.get 0 with closed := false, held := true, next := none } ∧
      t.servo.loops.get 1 = { s.servo.loops.get 1 with closed := false, held := true, next := none } ∧
      t.servo.loops.get 5 = { s.servo.loops.get 5 with closed := true, held := true, next := none }) ∧
    (d.layers ≤ l ∨ l = s.servo.layer → exec (.layerJump l) s = .next s)) ∧
  (∀ (s : State) (l : Nat), s.disc = none ∨ s.servo.fok = false ∨ s.servo.ldEn = false → exec (.layerJump l) s = .next s) ∧
  (∀ (s : State) (sum fe te : Int) (q : Seq), s.servo.seq.phase = .layerKick ∨ s.servo.seq.phase = .layerCoast →
    q = excursion (sequenceNow s) s.servo.seq fe →
    (layerReached s q = true → ∃ t : State, seqPhaseStep s sum fe te = t ∧ t.servo.seq.phase = .layerBrake ∧ t.servo.resync = true ∧
      t.servo.gainLayer = s.servo.seq.layer) ∧
    (layerReached s q = false → s.servo.seq.phase = .layerKick → strobesIn s (sequenceNow s).ljKickT ≤ s.servo.seq.strobes →
      (seqPhaseStep s sum fe te).servo.seq.phase = .layerCoast)) ∧
  (∀ s : State, (s.servo.seq.phase = .layerKick → seqDrive s 0 = some (signed (jumpsUp s) (permille (sequenceNow s).ljKick))) ∧
    (s.servo.seq.phase = .layerCoast → seqDrive s 0 = some 0) ∧
    (s.servo.seq.phase = .layerBrake → seqDrive s 0 = some (signed (!jumpsUp s) (permille (sequenceNow s).ljKick)))) ∧
  (∀ (s : State) (sum fe te : Int), s.servo.seq.phase = .layerBrake → (crossed s.servo.seq.fe fe = false → seqPhaseStep s sum fe te = s) ∧
    (crossed s.servo.seq.fe fe = true → ∃ t : State, seqPhaseStep s sum fe te = t ∧ (t.servo.loops.get 0).closed = true ∧
      t.servo.layer = s.servo.seq.layer ∧ (t.servo.loops.get 0).active = storedBank s 0 (classNow s).val s.servo.seq.layer ∧
      t.servo.seq.phase = .layerHold)) ∧
  (∀ (s : State) (l n : Nat), s.servo.layerJump = some (l, n) →
    (s.us < n + 5000 ∨ layerOpen s = false → exec .layerJumpTimeout s = .next s) ∧
    (n + 5000 ≤ s.us → layerOpen s = true → ∃ t : State, exec .layerJumpTimeout s = .next t ∧
      t.servo.seq = { phase := .settle, layer := l, afterJump := true } ∧ t.servo.layerJump = none ∧ t.servo.fok = false ∧
      (t.servo.loops.get 0).closed = false ∧ (laserAllowed s = true → t.servo.ldEn = true))) ∧
  (∀ s : State, s.servo.layerJump = none → exec .layerJumpTimeout s = .next s)

/-- The spindle starts from rest, by Halls or alignment, or is caught or braked first; crossings and Hall edges commutate it. A
start needs a locked timebase, no HALT and an idle spindle: a stopped rotor aligns at ALIGN_I, or with Halls closes at once from its
code; one that turns forward at HANDOVER / 2 or more is caught on its running step; any other is braked and starts again once stopped.
Forced steps at ILIM shorten by RAMP, twelve crossings in a row hand over, 48 more without them fail the attempt, and START_TRIES
failures are SPIN_START. In closed commutation a crossing in the right direction past the blanking gives the speed from the last six
intervals and schedules the next step; a Hall edge steps at once; each step drives the windings of Table 7.1 at |d| × ILIM, three steps
on where d is negative, and a new demand drives the running step anew; below STOP_RPM a braked rotor is shorted. A late crossing, a
bad Hall code and a bridge current are motion faults, which wait for the strobe; the bridge is off at once. -/
def Obligations.SpindleStartsAndCommutates : Prop :=
  (∀ s : State, exec .tbLock s = .next (if linksUp s = true ∧ s.sys.ready = true then { s with pwr := { s.pwr with tbLock := true } } else s)) ∧
  (stepPhases 1 = (.u, .v, .w) ∧ stepPhases 2 = (.u, .w, .v) ∧ stepPhases 3 = (.v, .w, .u) ∧ stepPhases 4 = (.v, .u, .w) ∧
    stepPhases 5 = (.w, .u, .v) ∧ stepPhases 6 = (.w, .v, .u)) ∧
  (∀ (s : State) (n m : Nat), (m = if s.spindle.st = .braking ∨ (s.spindle.st = .closed ∧ s.pwr.links.cmd.spindle < 0) then (n + 2) % 6 + 1 else n) →
    driveStep s n = { s with
      spindle := { s.spindle with step := n }
      out := s.out ++ [.spinDrive (stepPhases m).1 (stepPhases m).2.1 (stepPhases m).2.2 (spinCurrent s)] }) ∧
  (∀ s : State, (s.spindle.st = .align → spinCurrent s = 1000 * s.spindle.inUse.alignI) ∧
    (s.spindle.st = .closed → spinCurrent s = min (1000 * s.spindle.inUse.ilim)
      (1000 * s.spindle.inUse.ilim * s.pwr.links.cmd.spindle.natAbs / 2097152)) ∧
    (s.spindle.st ≠ .align → s.spindle.st ≠ .closed → spinCurrent s = 1000 * s.spindle.inUse.ilim)) ∧
  (∀ s : State, linksUp s = true → s.spindle.st = .closed → s.pwr.links.cmd.spindle ≠ (frameNow s).spindle →
    exec (.yelxoBCommandFrame true) s = .next (driveStep { s with pwr := { s.pwr with links := { s.pwr.links with
      badFrames := 0, cmd := frameNow s } } } s.spindle.step)) ∧
  (∀ (s : State) (r : Rotor), motorsAllowed s = false ∨ (s.spindle.st ≠ .stopped ∧ s.spindle.st ≠ .shorted ∧ s.spindle.st ≠ .coasting ∧
    s.spindle.st ≠ .braking) ∨ s.loader.ejecting = true → exec (.spindleStart r) s = .next s) ∧
  (∀ s : State, motorsAllowed s = true → s.spindle.st = .stopped ∨ s.spindle.st = .shorted ∨ s.spindle.st = .coasting → s.loader.ejecting = false →
    (s.spindle.prof.hallEn = false → exec (.spindleStart .stopped) s = .next { s with
      spindle := { s.spindle with
        inUse := s.spindle.prof
        tries := 0
        st := .align
        since := s.us
        step := 1
        run := 0
        atHandover := 0
        t60 := []
        rpm := 0
        commutating := none
        restart := false }
      out := s.out ++ [.spinDrive .u .v .w (1000 * s.spindle.prof.alignI)] }) ∧
    (s.spindle.prof.hallEn = true → ∃ t : State, exec (.spindleStart .stopped) s = .next t ∧ t.spindle.st = .closed ∧
      t.spindle.inUse = s.spindle.prof ∧ t.spindle.step = (hallStep s.spindle.hall).getD 1 ∧ t.spindle.rpm = 0 ∧
      (t.servo.loops.get 4).closed = true ∧ t = { s with spindle := t.spindle, servo := { s.servo with loops := t.servo.loops }, out := t.out })) ∧
  (∀ s : State, motorsAllowed s = true → s.spindle.st = .braking → s.loader.ejecting = false → exec (.spindleStart .stopped) s = .next { s with
    spindle := { s.spindle with restart := true } }) ∧
  (∀ s : State, motorsAllowed s = true → s.spindle.st = .stopped ∨ s.spindle.st = .shorted ∨ s.spindle.st = .coasting ∨ s.spindle.st = .braking →
    s.loader.ejecting = false →
    (∀ n m : Nat, s.spindle.prof.handover ≤ 2 * n → ∃ t : State, exec (.spindleStart (.forward n m)) s = .next t ∧ t.spindle.st = .closed ∧
      t.spindle.t60 = [80000000 / max 1 (s.spindle.prof.polePairs * n)] ∧ t.spindle.inUse = s.spindle.prof ∧ t.spindle.rpm = min 8191 n ∧
      t.spindle.step = m % 6 + 1 ∧ (t.servo.loops.get 4).closed = true ∧
      t = { s with spindle := t.spindle, servo := { s.servo with loops := t.servo.loops }, out := t.out }) ∧
    (∀ (r : Rotor) (n m : Nat), r = .backward n ∨ (r = .forward n m ∧ 2 * n < s.spindle.prof.handover) →
      (s.spindle.st = .shorted ∨ s.spindle.st = .braking → exec (.spindleStart r) s = .next { s with spindle := { s.spindle with restart := true } }) ∧
      (s.spindle.st = .stopped ∨ s.spindle.st = .coasting → ∃ t : State, exec (.spindleStart r) s = .next t ∧ t.spindle.restart = true ∧
        t.spindle.rpm = min 8191 n ∧ t.spindle.st = (if min 8191 n < s.spindle.inUse.stopRpm then .shorted else .braking) ∧
        (t.servo.loops.get 4).closed = false ∧ (t.servo.loops.get 4).out = (if min 8191 n < s.spindle.inUse.stopRpm then 0 else -2097152) ∧
        t = { s with spindle := t.spindle, servo := { s.servo with loops := t.servo.loops }, out := t.out }))) ∧
  (∀ (s : State) (b : Option Nat), s.spindle.st = .align → (s.us - s.spindle.since < s.spindle.inUse.alignT * 1000 →
      exec (.forcedStep b) s = .next s) ∧
    (s.spindle.inUse.alignT * 1000 ≤ s.us - s.spindle.since → exec (.forcedStep b) s = .next (driveStep { s with
      spindle := { s.spindle with st := .forced 0, since := s.us } } (s.spindle.step % 6 + 1)))) ∧
  (∀ (s u : State) (b : Option Nat) (k : Nat) (p : SpindleProf) (run : Nat), s.spindle.st = .forced k → p = s.spindle.inUse →
    run = (if detects p k = true ∧ b ≠ none then s.spindle.run + 1 else 0) →
    u = (let v := noteForced s (if detects p k then b else none); { v with spindle := { v.spindle with run := run } }) →
    (stepOver p k (s.us - s.spindle.since) = false → exec (.forcedStep b) s = .next s) ∧
    (stepOver p k (s.us - s.spindle.since) = true → rateAtLeast p k p.handover = false → exec (.forcedStep b) s = .next (driveStep { u with
      spindle := { u.spindle with st := .forced (k + 1), since := s.us } } (s.spindle.step % 6 + 1))) ∧
    (stepOver p k (s.us - s.spindle.since) = true → rateAtLeast p k p.handover = true → 12 ≤ run → ∃ t : State,
      exec (.forcedStep b) s = .next t ∧ t.spindle.st = .closed ∧ (t.servo.loops.get 4).closed = true ∧ t.spindle.tries = 0 ∧
      t.spindle.t60 = u.spindle.t60 ∧ t.spindle.rpm = u.spindle.rpm ∧ t.spindle.step = s.spindle.step % 6 + 1) ∧
    (stepOver p k (s.us - s.spindle.since) = true → rateAtLeast p k p.handover = true → run < 12 → s.spindle.atHandover < 48 →
      exec (.forcedStep b) s = .next (driveStep { u with
        spindle := { u.spindle with st := .forced k, since := s.us, atHandover := s.spindle.atHandover + 1 } } (s.spindle.step % 6 + 1))) ∧
    (stepOver p k (s.us - s.spindle.since) = true → rateAtLeast p k p.handover = true → run < 12 → 48 ≤ s.spindle.atHandover →
      (s.spindle.tries + 1 < p.startTries → exec (.forcedStep b) s = .next { u with
        spindle := { u.spindle with st := .startCoast, since := s.us, tries := s.spindle.tries + 1 }
        out := s.out ++ [.spinOff] }) ∧
      (p.startTries ≤ s.spindle.tries + 1 → exec (.forcedStep b) s = .next
        (motionFault { u with spindle := { u.spindle with tries := 0 } } 1 0)))) ∧
  (∀ s : State, noteForced s none = s ∧ ∀ x : Nat, (s.spindle.run = 0 → noteForced s (some x) = { s with spindle := { s.spindle with
      crossedAt := s.us } }) ∧
    (0 < s.spindle.run → noteForced s (some x) = noteInterval s x)) ∧
  (∀ s : State, s.spindle.st = .startCoast → s.spindle.since + 500000 ≤ s.us → exec .startCoastEnd s = .next { s with
    spindle := { s.spindle with
      st := .align
      since := s.us
      step := 1
      run := 0
      atHandover := 0
      t60 := []
      rpm := 0
      commutating := none
      restart := false }
    out := s.out ++ [.spinDrive .u .v .w (1000 * s.spindle.inUse.alignI)] }) ∧
  (∀ s : State, s.spindle.st ≠ .startCoast ∨ s.us < s.spindle.since + 500000 → exec .startCoastEnd s = .next s) ∧
  (∀ (s : State) (x : Nat) (l : List Nat), l = (s.spindle.t60 ++ [x]).drop (s.spindle.t60.length - 5) → noteInterval s x = { s with
    spindle := { s.spindle with
      t60 := l
      rpm := min 8191 (80000000 * l.length / max 1 (s.spindle.inUse.polePairs * sumOf id l))
      crossedAt := s.us } }) ∧
  (∀ (s u : State) (x : Nat), s.spindle.inUse.hallEn = false → s.spindle.st = .closed → s.spindle.commutating = none →
    blanked s x = false → u = noteInterval s x → exec (.zeroCrossing (s.spindle.step % 2 == 0) x) s = .next { u with
      spindle := { u.spindle with commutating := some ((30 - s.spindle.inUse.commAdv) * x / 60) } }) ∧
  (∀ (s u : State) (x : Nat), s.spindle.inUse.hallEn = false → s.spindle.st = .braking → s.spindle.commutating = none →
    blanked s x = false → u = noteInterval s x → ∃ t : State, exec (.zeroCrossing (s.spindle.step % 2 == 0) x) s = .next t ∧
    (u.spindle.rpm < s.spindle.inUse.stopRpm → t.spindle.st = .shorted ∧ t.out = s.out ++ [.spinShort] ∧ (t.servo.loops.get 4).out = 0) ∧
    (s.spindle.inUse.stopRpm ≤ u.spindle.rpm → t = { u with
      spindle := { u.spindle with commutating := some ((30 - s.spindle.inUse.commAdv) * x / 60) } })) ∧
  (∀ (s : State) (b : Bool) (x : Nat), s.spindle.inUse.hallEn = false → s.spindle.st = .coasting ∨ s.spindle.st = .startCoast →
    exec (.zeroCrossing b x) s = .next (noteInterval s x)) ∧
  (∀ (s : State) (b : Bool) (x : Nat), s.spindle.inUse.hallEn = true ∨ (s.spindle.st = .closed ∧ (b ≠ (s.spindle.step % 2 == 0) ∨
    s.spindle.commutating ≠ none ∨ blanked s x = true)) → exec (.zeroCrossing b x) s = .next s) ∧
  (∀ (s : State) (n : Nat), s.spindle.commutating = some n →
    (8 * (s.us - s.spindle.crossedAt) < n → exec .commutate s = .next s) ∧
    (n ≤ 8 * (s.us - s.spindle.crossedAt) → exec .commutate s = .next
      (driveStep { s with spindle := { s.spindle with commutating := none } } (s.spindle.step % 6 + 1)))) ∧
  (∀ s : State, s.spindle.commutating = none → exec .commutate s = .next s) ∧
  (∀ (s : State) (c : BitVec 3) (x : Nat), s.spindle.inUse.hallEn = false ∨ hallStep c = none →
    exec (.hallEdge c x) s = .next { s with spindle := { s.spindle with hall := c } }) ∧
  (∀ (s : State) (c : BitVec 3) (x n : Nat), s.spindle.inUse.hallEn = true → hallStep c = some n → s.spindle.st = .closed →
    exec (.hallEdge c x) s = .next (driveStep (noteInterval { s with spindle := { s.spindle with hall := c } } x) n)) ∧
  (hallStep 0b101 = some 1 ∧ hallStep 0b100 = some 2 ∧ hallStep 0b110 = some 3 ∧ hallStep 0b010 = some 4 ∧ hallStep 0b011 = some 5 ∧
    hallStep 0b001 = some 6 ∧ hallStep 0b000 = none ∧ hallStep 0b111 = none) ∧
  (∀ (s : State) (c : BitVec 3), s.spindle.inUse.hallEn = true → linksUp s = true → s.pwr.tbLock = true → hallStep c = none →
    exec (.hallInvalid c) s = .next (motionFault { s with spindle := { s.spindle with hall := c } } 3 0)) ∧
  (∀ (s : State) (c : BitVec 3), s.spindle.inUse.hallEn = false ∨ hallStep c ≠ none ∨ linksUp s = false ∨ s.pwr.tbLock = false →
    exec (.hallInvalid c) s = .next { s with spindle := { s.spindle with hall := c } }) ∧
  (∀ (s : State) (x : Nat), s.spindle.t60.getLast? = some x → s.spindle.st = .closed ∨ s.spindle.st = .braking → s.spindle.inUse.hallEn = false →
    (3 * x ≤ 8 * (s.us - s.spindle.crossedAt) → exec .spinStall s = .next (motionFault s 2 0)) ∧
    (8 * (s.us - s.spindle.crossedAt) < 3 * x → exec .spinStall s = .next s)) ∧
  (∀ s : State, s.spindle.st ≠ .closed ∧ s.spindle.st ≠ .braking → exec .spinStall s = .next s) ∧
  (∀ (s : State) (b : Bridge), linksUp s = true → exec (.bridgeOc b) s = .next (motionFault (bridgeOff s b) 4 (bridgeCode b))) ∧
  (∀ s : State, (bridgeOff s .sledA).sled.ia = 0 ∧ (bridgeOff s .sledB).sled.ib = 0 ∧ (bridgeOff s .loader).loader.drive = .none ∧
    (bridgeOff s .spindle).spindle.st = (if s.spindle.st = .stopped then .stopped else .coasting) ∧
    ((bridgeOff s .focus).servo.loops.get 0).out = 0 ∧ ((bridgeOff s .tracking).servo.loops.get 1).out = 0 ∧
    ((bridgeOff s .tilt).servo.loops.get 2).out = 0) ∧
  (∀ (s : State) (c x : Nat), motionFault s c x = { s with halt := { s.halt with pend := addFault s.halt.pend (.motion c x) } }) ∧
  (∀ (s : State) (b : Bridge), linksUp s = false → exec (.bridgeOc b) s = .next s)

/-- The ceiling is reported, a stopped spindle goes on to what waited for it, and the sled steps, seeks, homes and is found
again. Eight spindle periods with Iron's limit report more than 1 % below the set-point set SPIN_CEILING with 0x0761, eight without
clear it. 200 ms without a crossing the spindle is stopped, reads 0, and starts, opens the tray, or stands. With links and timebase,
each update puts the sled where its move is by then, with the phase currents of Table 7.3 at SLED_I, or at HOLD_I at rest; it follows
the SLED output only while tracking is closed; a waiting table is taken at once at rest and at a new full step in motion. A move that is
over rests; a seek opens TRACK, moves by whole full steps between radii of 24 to 58 mm and settles before track-on. Homing goes off the
switch, then onto it within HOME_MAX steps, else HOME_FAIL; it and an address of an identified disc read where the sled stands clear
SLED_LOST with 0x0762. -/
def Obligations.SpindleStopsAndTheSledMoves : Prop :=
  (∀ s : State, s.spindle.ceiling = false → 8 ≤ s.spindle.limitRun → exec .spinCeilingSet s = .next (postEvent { s with spindle := { s.spindle with
    ceiling := true } } 0 0x0761 (w32 (1 + 65536 * s.spindle.rpm)))) ∧
  (∀ s : State, s.spindle.ceiling = true ∨ s.spindle.limitRun < 8 → exec .spinCeilingSet s = .next s) ∧
  (∀ s : State, s.spindle.ceiling = true → 8 ≤ s.spindle.clearRun → exec .spinCeilingClear s = .next (postEvent { s with spindle := { s.spindle with
    ceiling := false } } 0 0x0761 (w32 (65536 * s.spindle.rpm)))) ∧
  (∀ s : State, s.spindle.ceiling = false ∨ s.spindle.clearRun < 8 → exec .spinCeilingClear s = .next s) ∧
  (∀ s : State, (s.servo.n % 16 ≠ 8 → countLimit s = s) ∧
    (s.servo.n % 16 = 8 → limitReported s = true → 100 * s.spindle.rpm < 99 * s.spindle.setPoint → countLimit s = { s with
      spindle := { s.spindle with limitRun := s.spindle.limitRun + 1, clearRun := 0 } }) ∧
    (s.servo.n % 16 = 8 → limitReported s = false ∨ 99 * s.spindle.setPoint ≤ 100 * s.spindle.rpm → countLimit s = { s with
      spindle := { s.spindle with limitRun := 0, clearRun := s.spindle.clearRun + 1 } })) ∧
  (∀ (s : State) (from_ : Nat), s.spindle.st = .shorted ∧ from_ = s.spindle.since ∨ s.spindle.st = .coasting ∧ from_ = s.spindle.crossedAt →
    (s.us < from_ + 200000 → exec .spindleStopped s = .next s) ∧
    (from_ + 200000 ≤ s.us → ∀ u : State, u = { s with
        spindle := { s.spindle with st := .stopped, rpm := 0, t60 := [], commutating := none }
        out := if s.spindle.st = .shorted then s.out ++ [.spinOff] else s.out } →
      (s.loader.ejecting = false → s.spindle.restart = false ∨ motorsAllowed s = false → exec .spindleStopped s = .next { u with
        spindle := { u.spindle with restart := false } }) ∧
      (s.loader.ejecting = false → s.spindle.restart = true → motorsAllowed s = true → s.spindle.prof.hallEn = false →
        ∃ t : State, exec .spindleStopped s = .next t ∧ t.spindle.st = .align ∧ t.spindle.restart = false ∧ t.spindle.rpm = 0 ∧
          t.spindle.inUse = s.spindle.prof ∧ t.spindle.tries = 0) ∧
      (s.loader.ejecting = true → ∃ t : State, exec .spindleStopped s = .next t ∧ t.spindle.st = .stopped ∧ t.spindle.restart = false ∧
        t.loader.ejecting = false ∧ t.loader.drive = (if s.loader.prof.solenoid then .pulse s.us else .opening s.us) ∧
        t.out = u.out ++ [if s.loader.prof.solenoid then .solenoid true else .tray true s.loader.prof.duty s.loader.prof.ilim]))) ∧
  (∀ s : State, s.spindle.st ≠ .shorted ∧ s.spindle.st ≠ .coasting → exec .spindleStopped s = .next s) ∧
  (∀ s : State, linksUp s = false ∨ s.pwr.tbLock = false → exec .sledUpdate s = .next s) ∧
  (∀ s : State, linksUp s = true → s.pwr.tbLock = true → s.sled.move = .rest → ∃ t : State, exec .sledUpdate s = .next t ∧
    t.sled.move = .rest ∧ t.sled.pos = s.sled.pos ∧ t.sled.shadow = none ∧
    t.sled.table = (match s.sled.shadow with
      | some (x, _) => x
      | none => s.sled.table) ∧
    (s.sled.lost = false → (t.sled.ia, t.sled.ib) = phaseCurrents (tableOf t.sled.table) s.sled.inUse.holdI s.sled.pos) ∧
    (s.sled.lost = true → t.sled.ia = s.sled.ia ∧ t.sled.ib = s.sled.ib) ∧
    ∀ (x : TableRef) (k : Nat) (d : Desc), s.sled.shadow = some (x, some k) → s.desc? 0 k = some d →
      t.desc? 0 k = some { d with stage := .done, status := .ok, bytes := d.fld.length, aside := [], want := 0 }) ∧
  (∀ (s : State) (p : Int) (m : SledMove), linksUp s = true → s.pwr.tbLock = true →
    (∃ (a z : Int) (u x : Nat), s.sled.move = .move a z u ∧ x = profileAt s.sled.inUse ((z - a).natAbs / 16777216) (u + 1) ∧
      p = (if a ≤ z then a + x else a - x) ∧ m = (if (z - a).natAbs ≤ x then .rest else .move a z (u + 1))) ∨
    (∃ n y : Nat, s.sled.move = .homeOut n ∧ y = s.sled.inUse.homeV * 16777216 / 40000 ∧ p = s.sled.pos + y ∧
      m = (if 50 * 16777216 ≤ n + y then .homeIn 0 else .homeOut (n + y))) ∨
    (∃ n y : Nat, s.sled.move = .homeIn n ∧ s.sled.home = false ∧ n < s.sled.inUse.homeMax * 16777216 ∧
      y = s.sled.inUse.homeV * 16777216 / 40000 ∧ p = s.sled.pos - y ∧ m = .homeIn (n + y)) ∨
    (s.sled.move = .follow ∧ m = .follow ∧ p = s.sled.pos + (if (s.servo.loops.get 1).closed then
      roundDiv (s.pwr.links.cmd.sled * s.sled.inUse.followV * 8) 40000 else 0)) →
    ∃ t : State, exec .sledUpdate s = .next t ∧ t.sled.pos = p ∧ t.sled.move = m ∧
      (t.sled.ia, t.sled.ib) = phaseCurrents (tableOf t.sled.table) s.sled.inUse.sledI p ∧
      (fullStep p = fullStep s.sled.pos ∨ s.sled.shadow = none → t.sled.table = s.sled.table ∧ t.sled.shadow = s.sled.shadow) ∧
      (∀ (x : TableRef) (k : Option Nat), fullStep p ≠ fullStep s.sled.pos → s.sled.shadow = some (x, k) → t.sled.table = x ∧
        t.sled.shadow = none) ∧
      (m = .rest → t.sled.restAt = s.us ∧ t.sled.settling = s.sled.seek.isSome)) ∧
  (∀ (s : State) (n : Nat), linksUp s = true → s.pwr.tbLock = true → s.sled.move = .homeIn n → s.sled.home = false →
    s.sled.inUse.homeMax * 16777216 ≤ n → exec .sledUpdate s = .next (motionFault s 5 0)) ∧
  (∀ (d : DiscInfo) (a : Nat), 24000 ≤ radiusOf d a ∧ radiusOf d a ≤ 58000) ∧
  (∀ (s : State) (lba r : Nat) (d : DiscInfo) (n : Int), maySeek s = true → s.disc = some d → s.job ≠ none → s.sled.radius = some r →
    n = roundDiv ((radiusOf d lba : Int) - r) (max 1 s.sled.prof.pitch) →
    ∃ t : State, exec (.sledSeek lba) s = .next t ∧ t.sled.seek = some (lba, 1) ∧ t.servo.locked = false ∧ t.chan.accepted = false ∧
      t.servo.loops.get 1 = { s.servo.loops.get 1 with closed := false, held := true, next := none } ∧
      (t.servo.loops.get 5).closed = false ∧ t.sled.inUse = s.sled.prof ∧ t.chan.acq = .off ∧ t.chan.flywheel = none ∧
      (n ≠ 0 → t.sled.move = .move s.sled.pos (s.sled.pos + n * 16777216) 0 ∧ t.sled.settling = false) ∧
      (n = 0 → t.sled.move = .rest ∧ t.sled.settling = true)) ∧
  (∀ (s : State) (lba : Nat), maySeek s = false ∨ s.disc = none ∨ s.job = none → exec (.sledSeek lba) s = .next s) ∧
  (∀ s : State, s.sled.settling = true → s.sled.restAt + s.sled.inUse.seekSettle ≤ s.us → ∃ t : State, exec .seekSettleEnd s = .next t ∧
    t = { s with sled := { s.sled with settling := false }, servo := t.servo } ∧ t.servo.trackOnAt = some s.us ∧ t.servo.trackTries = 0 ∧
    t.servo.seq.phase = .measure ∧ (t.servo.loops.get 1).closed = false) ∧
  (∀ s : State, s.sled.settling = false ∨ s.us < s.sled.restAt + s.sled.inUse.seekSettle → exec .seekSettleEnd s = .next s) ∧
  (∀ (s : State) (a : Nat) (d : DiscInfo), s.sled.lost = true → motorsAllowed s = true → s.disc = some d → readsHere s = true →
    exec (.sledRecover (some a)) s = .next (postEvent { s with sled := { s.sled with lost := false, radius := some (radiusOf d a) } }
      0 0x0762 2)) ∧
  (∀ (s : State) (a : Option Nat), s.sled.lost = true → motorsAllowed s = true → a = none ∨ s.disc = none ∨ readsHere s = false →
    (sledFree s = true → exec (.sledRecover a) s = .next (beginHoming s)) ∧ (sledFree s = false → exec (.sledRecover a) s = .next s)) ∧
  (∀ (s : State) (a : Option Nat), s.sled.lost = false ∨ motorsAllowed s = false → exec (.sledRecover a) s = .next s) ∧
  (∀ s : State, motorsAllowed s = true → sledFree s = true → exec .sledHome s = .next (beginHoming s)) ∧
  (∀ s : State, motorsAllowed s = false ∨ sledFree s = false → exec .sledHome s = .next s) ∧
  (∀ s : State, sledFree s = true ↔ s.sled.move = .rest ∨ s.sled.move = .follow) ∧
  (∀ s : State, beginHoming s = { s with
      servo := { s.servo with loops := (beginHoming s).servo.loops, locked := false, trackOnAt := none, jump := none }
      sled := { s.sled with
        inUse := s.sled.prof
        seek := none
        settling := false
        move := if s.sled.home then .homeOut 0 else .homeIn 0 } } ∧
    ((beginHoming s).servo.loops.get 1).closed = false ∧ ((beginHoming s).servo.loops.get 5).closed = false) ∧
  (∀ (s : State) (n : Nat), s.sled.move = .homeOut n → exec (.homeNChange false) s = .next { s with sled := { s.sled with
    home := false, move := .homeIn 0 } }) ∧
  (∀ (s : State) (n : Nat) (c : Instr) (v : State), s.sled.move = .homeIn n →
    c = .homeNChange true ∨ (c = .sledUpdate ∧ linksUp s = true ∧ s.pwr.tbLock = true ∧ s.sled.home = true) →
    v = { s with sled := { s.sled with home := true, move := .rest, restAt := s.us, lost := false, radius := some s.sled.inUse.homePos } } →
    ∃ t : State, exec c s = .next t ∧ t.sled = { v.sled with ia := t.sled.ia, ib := t.sled.ib } ∧
    (t.sled.ia, t.sled.ib) = phaseCurrents (tableOf s.sled.table) s.sled.inUse.holdI s.sled.pos ∧
    t.folds = (if s.sled.lost then (postEvent v 0 0x0762 4).folds else s.folds)) ∧
  (∀ (s : State) (b : Bool), s.sled.move = .rest ∨ s.sled.move = .follow ∨ (∃ a z u, s.sled.move = .move a z u) →
    exec (.homeNChange b) s = .next { s with sled := { s.sled with home := b } })

/-- The channel takes its samples, locks, loses lock and flags defects; an accepted address places the sled and ends or carries on
a seek. Each row takes the samples since the last, one to a channel bit. Two syncs at their spacing declare lock, which steers by data;
three missed syncs return to acquisition with the preset taps, and 2,048 channel bits without lock lose the unit's sync. A defect flag
sets after 16 channel bits out of range, counts once and reaches the loop engine, and clears after 32 within range; its interval,
widened by DEF_GUARD, is erased. With laser and lock, an address of one of the medium's formats that passes its check steps the
flywheel: near its prediction at once, far from it only when the next agrees; then it gives the radius. In a seek it ends it at distance
0, jumps up to 255 tracks, moves again while SEEK_TRIES allows, and is SEEK_FAIL after that. -/
def Obligations.ChannelLocksAndAcceptsAddresses : Prop :=
  (∀ (s : State) (rf : List RfSample), (s.disc = none → channelRun s rf = s) ∧ (s.disc ≠ none → (channelRun s rf).chan.pos = s.chan.pos + rf.length) ∧
    channelRun s rf = { s with chan := (channelRun s rf).chan, cap := (channelRun s rf).cap, ecc := (channelRun s rf).ecc } ∧
    channelRun s [] = { s with chan := if s.disc = none then s.chan else { s.chan with fresh := [] }, ecc := (channelRun s []).ecc
                               cap := (channelRun s []).cap }) ∧
  (∀ (s u : State) (rf : List RfSample), u = channelRun s rf →
    (reading u = true → u.chan.acq = .acquiring → u.chan.spaced = true → u.chan.passed = false → exec (.acquisitionLock rf) s = .next { u with
      chan := { u.chan with
        acq := .tracking
        ref := .data
        missed := 0
        relock := none
        front := { u.chan.front with paths := [], sums := {}, run := 3, owed := 0, level := u.chan.front.raw }
        erased := if u.chan.relock = none then u.chan.erased else u.chan.erased ++ [(u.chan.foundAt, u.chan.pos)] } }) ∧
    (reading u = false ∨ u.chan.acq ≠ .acquiring ∨ u.chan.spaced = false ∨ u.chan.passed = true →
      exec (.acquisitionLock rf) s = .next u)) ∧
  (∀ (s u : State) (rf : List RfSample) (d : DiscInfo), u = channelRun s rf → u.disc = some d →
    (u.chan.acq = .tracking → 3 ≤ u.chan.missed → ∃ t : State, exec (.lossOfLock rf) s = .next t ∧ t = { u with chan := t.chan } ∧
      t.chan.acq = .acquiring ∧ t.chan.relock = some u.chan.pos ∧ t.chan.inUse = some (u.chan.prof.get (mediumIndex d)) ∧
      t.chan.taps = (u.chan.prof.get (mediumIndex d)).preset ∧ t.chan.missed = 0 ∧
      t.chan.ref = (if recordable d.medium then .wobble else .spindle)) ∧
    (u.chan.acq ≠ .tracking ∨ u.chan.missed < 3 → exec (.lossOfLock rf) s = .next u)) ∧
  (∀ (s u : State) (rf : List RfSample), u = channelRun s rf →
    (u.disc = none → exec (.lossOfLock rf) s = .next u) ∧
    (u.disc = none ∨ u.chan.relock = none ∨ u.chan.under = none ∨ u.chan.acq ≠ .acquiring → exec (.relockTimeout rf) s = .next u) ∧
    ∀ (a x : Nat) (d : DiscInfo), u.disc = some d → u.chan.relock = some a → u.chan.under = some x → u.chan.acq = .acquiring →
      (u.chan.pos < a + 2048 → exec (.relockTimeout rf) s = .next u) ∧
      (a + 2048 ≤ u.chan.pos → ∃ t : State, exec (.relockTimeout rf) s = .next t ∧ t = { u with chan := t.chan, job := t.job } ∧
        t.chan.relock = none ∧ t.chan.acq = .acquiring ∧ (∃ e : Nat, t.chan.erased = u.chan.erased ++ [(u.chan.foundAt, e)] ∧
          ∀ b : Nat, getKey x u.chan.ring.units = some b → e = b + unitBits (mediumIndex d)) ∧
        ∀ (j : Job), u.job = some j → ∃ k : Job, t.job = some k ∧ ∀ y : JobUnit, j.units = [y] → y.first = x →
          k.units = [{ y with lostSync := true }])) ∧
  (∀ (s u : State) (rf : List RfSample), u = channelRun s rf →
    (u.chan.defect = true ∨ (u.chan.front.dark < 16 ∧ u.chan.front.bright < 16) → exec (.defectFlagSet rf) s = .next u) ∧
    (u.chan.defect = false → 16 ≤ u.chan.front.dark ∨ 16 ≤ u.chan.front.bright → exec (.defectFlagSet rf) s = .next { u with chan := { u.chan with
      defect := true
      flagged := true
      defects := u.chan.defects + 1
      front := { u.chan.front with flagAt := u.chan.pos, inRange := 0 } } }) ∧
    (u.chan.defect = false ∨ u.chan.front.inRange < 32 → exec (.defectFlagClear rf) s = .next u) ∧
    ∀ (p : ChannelProf), u.chan.inUse = some p → u.chan.defect = true → 32 ≤ u.chan.front.inRange → exec (.defectFlagClear rf) s = .next { u with
      chan := { u.chan with
        defect := false
        erased := u.chan.erased ++ [(u.chan.front.flagAt - p.defGuard, u.chan.pos + p.defGuard)]
        flags := u.chan.flags ++ [(u.chan.front.flagAt, u.chan.pos)]
        front := { u.chan.front with guard := p.defGuard } } }) ∧
  (∀ (s : State) (a : AddressRead) (d : DiscInfo), s.disc = none ∨ reading s = false ∨ (s.disc = some d ∧
    (readsFormat d a.format = false ∨ a.checkOk = false)) → exec (.addressAccept a) s = .next s) ∧
  (∀ (s : State) (a : AddressRead) (d : DiscInfo) (c : Channel) (here : Bool), s.disc = some d → reading s = true → readsFormat d a.format = true →
    a.checkOk = true → flywheelAfter (noteCarrier s.chan d a) d s.us a.lba = (c, here) →
    (here = false → exec (.addressAccept a) s = .next { s with chan := c }) ∧
    (here = true → s.sled.seek = none → ∃ t : State, exec (.addressAccept a) s = .next t ∧ t.sled = { s.sled with radius := some (radiusOf d a.lba) } ∧
      t.chan.accepted = true ∧ t.chan.flywheel = some (a.lba + addressUnit d) ∧ t.servo.locked = true ∧ t.servo.loops = s.servo.loops ∧
      t.disc = s.disc)) ∧
  (∀ (c : Channel) (d : DiscInfo) (us a u f : Nat), u = (if isBd d.medium then 2 else 1) → f = us + addressUs d c.hz →
    (c.flywheel = none → flywheelAfter c d us a = ({ c with flywheel := some (a + u), flyAt := f, far := none, accepted := true }, true)) ∧
    ∀ (p r : Nat), c.flywheel = some p → r = runOn d c.hz us p c.flyAt →
      (a ≤ r + u ∧ r ≤ a + u → flywheelAfter c d us a = ({ c with flywheel := some (a + u), flyAt := f, far := none, accepted := true }, true)) ∧
      (r + u < a ∨ a + u < r → c.far = none → flywheelAfter c d us a = ({ c with far := some (a + u, f), accepted := true }, false)) ∧
      ∀ (q g v : Nat), r + u < a ∨ a + u < r → c.far = some (q, g) → v = runOn d c.hz us q g →
        (a ≤ v + u ∧ v ≤ a + u → flywheelAfter c d us a = ({ c with flywheel := some (a + u), flyAt := f, far := none, accepted := true }, true)) ∧
        (v + u < a ∨ a + u < v → flywheelAfter c d us a = ({ c with far := some (a + u, f), accepted := true }, false))) ∧
  (∀ (d : DiscInfo) (hz us p t : Nat), (addressUs d hz = 0 → runOn d hz us p t = p) ∧
    (0 < addressUs d hz → runOn d hz us p t = p + (if isBd d.medium then 2 else 1) * ((us - t) / addressUs d hz))) ∧
  (∀ (s : State) (a : AddressRead) (z m : Nat) (d : DiscInfo), s.disc = some d → reading s = true → readsFormat d a.format = true →
    a.checkOk = true → (flywheelAfter (noteCarrier s.chan d a) d s.us a.lba).2 = true → s.sled.seek = some (z, m) →
    (a.tracks = 0 → ∃ t : State, exec (.addressAccept a) s = .next t ∧ t.sled.seek = none ∧ t.chan.accepted = true ∧
      t.sled.radius = some (radiusOf d a.lba) ∧ t.servo.locked = true) ∧
    (a.tracks ≠ 0 → a.tracks.natAbs ≤ 255 → ∃ t : State, exec (.addressAccept a) s = .next t ∧ t.sled.seek = none ∧ t.chan.accepted = false ∧
      t.servo.jump = some { tracks := a.tracks.natAbs, outward := decide (0 < a.tracks), at_ := s.us } ∧ t.servo.locked = false ∧
      t.servo.seq.phase = .jumpKick) ∧
    (255 < a.tracks.natAbs → m < s.sled.inUse.seekTries → ∃ t : State, exec (.addressAccept a) s = .next t ∧ t.sled.seek = some (z, m + 1) ∧
      t.chan.accepted = false ∧ t.servo.locked = false ∧ t.chan.flywheel = none) ∧
    (255 < a.tracks.natAbs → s.sled.inUse.seekTries ≤ m → ∃ t : State, exec (.addressAccept a) s = .next t ∧ t.sled.seek = none ∧
      t.halt = { s.halt with pend := addFault s.halt.pend (.motion 6 0) }))

/-- With no work waiting the drover reads ahead for the next eligible fold, or moves the sled toward the unit it would read.
Speculation is open when nothing bars the mechanism and no command waits, in IDLE or READ, with no write uncompleted, no die at
110 °C, the mechanism free and a disc identified. With RA_EN the drover takes the next fold in turn whose stream is eligible and
starts to read the unit that holds its lowest missing block, or on CD a run of 16 sectors, charged to no fold. A stream that is
not sequential gives none, and a block it gives lies within NEXT to LIMIT and has no copy in the fold's partition. With SEEK_EN
as well the sled may move toward that block. -/
def Obligations.ReadAheadServesEligibleStreams : Prop :=
  (∀ s : State, speculationOpen s = true ↔ mechanismBarred s = false ∧ anyAccepted s = false ∧ (s.sys.mode = .idle ∨ s.sys.mode = .read) ∧
    writeUncompleted s = false ∧ hot110 s.pwr.temps = false ∧ s.job = none ∧ s.disc ≠ none ∧ s.sys.drainAll = false) ∧
  (∀ s : State, writeUncompleted s = true ↔ ∃ (f : FoldId) (d : Desc), d ∈ (s.fold f).descs ∧ opWrites d.op = true ∧
    (d.deadline ≠ 0 ∨ (descActive d = true ∧ descAccepted d = true))) ∧
  (∀ (s : State) (f : FoldId) (b : Nat) (d : DiscInfo), speculationOpen s = true → bit s.plat.penCtl 0 = true → nextReadAhead s = some (f, b) →
    s.disc = some d → exec .readAhead s = .next { s with
      job := some { kind := .speculation f, f := f, k := 0, at_ := s.us, units := readAheadUnits d b, next := b }
      drover := { s.drover with raLast := f }
      sys := { s.sys with idleSince := s.us, parked := false } }) ∧
  (∀ s : State, speculationOpen s = false ∨ bit s.plat.penCtl 0 = false ∨ nextReadAhead s = none → exec .readAhead s = .next s) ∧
  (∀ (s : State) (f : FoldId) (b : Nat), nextReadAhead s = some (f, b) → f ∈ foldsAfter s.drover.raLast ∧ ∃ x ∈ (s.fold f).streams, x.seq = true ∧
    x.next ≤ b ∧ b ≤ x.limit ∧ findCopy s f [] b = none ∧ ∀ c : Nat, x.next ≤ c → c < b → findCopy s f [] c ≠ none) ∧
  (∀ (d : DiscInfo) (b : Nat), isCd d.medium = false → readAheadUnits d b = [{ first := b / discUnit d * discUnit d }]) ∧
  (∀ (d : DiscInfo) (b : Nat), isCd d.medium = true → ∀ u : JobUnit, u ∈ readAheadUnits d b ↔ ∃ i : Nat, i < 16 ∧ b + i < d.capacity ∧
    u = { first := b + i }) ∧
  (∀ (s : State) (f : FoldId) (b r : Nat) (d : DiscInfo), speculationOpen s = true → bit s.plat.penCtl 0 = true → bit s.plat.penCtl 1 = true →
    maySeek s = true → nextReadAhead s = some (f, b) → s.disc = some d → s.sled.radius = some r → ∃ t : State, exec .speculativeSeek s = .next t ∧
    t.sled.seek = some (b, 1) ∧ t.job = s.job ∧ t.folds = s.folds ∧ t.servo.locked = false ∧ t.chan.accepted = false ∧
    (∀ n : Int, n = roundDiv ((radiusOf d b : Int) - r) (max 1 s.sled.prof.pitch) → n ≠ 0 →
      t.sled.move = .move s.sled.pos (s.sled.pos + n * 16777216) 0)) ∧
  (∀ s : State, speculationOpen s = false ∨ bit s.plat.penCtl 0 = false ∨ bit s.plat.penCtl 1 = false ∨ maySeek s = false ∨
    nextReadAhead s = none → exec .speculativeSeek s = .next s)

/-- READ, READ RAW, VERIFY, SCAN and SEALED READ run from their first unit to their end. Dispatched, each takes the mechanism for
reading: the units that hold a named block and that the pen did not give are wanted, each once, from the first block on. When
every wanted unit is good the command stops, OK or OK_RECOVERED, with the bytes delivered, its data for the host, and its auxiliary
data; a SEALED READ then holds its plaintext until the tag is verified. A SEALED READ served whole by the pen decrypts at once. -/
def Obligations.ReadingCommandsRunToTheirEnd : Prop :=
  (∀ (s : State) (f : FoldId) (k : Nat) (d : Desc) (j : Job), dispatchedAs s f k .read = some d → s.job = some j → j.memFail = none →
    j.altered = [] → d.pins = [] → wantedUnits s d ≠ [] → exec (.read f k) s = .next { s with
      job := some { j with kind := .reading, units := wantedUnits s d, next := lbaOf d.fld }
      chan := { s.chan with target := none, pinned := [], meters := [] } }) ∧
  (∀ (s : State) (f : FoldId) (k : Nat) (d : Desc) (j : Job), dispatchedAs s f k .readRaw = some d → s.job = some j →
    j.memFail = none → j.altered = [] → d.pins = [] → wantedUnits s d ≠ [] → exec (.readRaw f k) s = .next { s with
      job := some { j with kind := .reading, units := wantedUnits s d, next := lbaOf d.fld }
      chan := { s.chan with target := none, pinned := [], meters := [] } }) ∧
  (∀ (s : State) (f : FoldId) (k : Nat) (d : Desc) (j : Job), dispatchedAs s f k .verify = some d → s.job = some j →
    j.memFail = none → wantedUnits s d ≠ [] → exec (.verify f k) s = .next { s with
      job := some { j with kind := .reading, units := wantedUnits s d, next := lbaOf d.fld }
      chan := { s.chan with target := none, pinned := [], meters := [] } }) ∧
  (∀ (s : State) (f : FoldId) (k : Nat) (d : Desc) (j : Job), dispatchedAs s f k .scan = some d → s.job = some j →
    j.memFail = none → wantedUnits s d ≠ [] → exec (.scan f k) s = .next { s with
      job := some { j with kind := .reading, units := wantedUnits s d, next := lbaOf d.fld }
      chan := { s.chan with target := none, pinned := [], meters := [] } }) ∧
  (∀ (s u : State) (f : FoldId) (k : Nat) (d : Desc) (j : Job) (aad aux : List Byte), dispatchedAs s f k .sealedRead = some d →
    s.cph.disabled = false → LockFor s 9 f k u → (s.slot (slotIndex f d.fld.keySlot)).st ≠ .empty → s.job = some j →
    j.memFail = none → j.altered = [] → d.pins = [] → wantedUnits s d ≠ [] → exec (.sealedRead f k aad aux) s = .next { u with
      cph := { u.cph with aad := fit d.fld.aadLen aad, auxIn := fit 32 aux }
      job := some { j with kind := .reading, units := wantedUnits s d, next := lbaOf d.fld }
      chan := { u.chan with target := none, pinned := [], meters := [] } }) ∧
  (∀ (s u v : State) (f : FoldId) (k : Nat) (d : Desc) (aad aux l : List Byte), sealRunning s f k .sealedRead = some d →
    s.cph.disabled = false → LockFor s f.val f k u → (s.slot (slotIndex f d.fld.keySlot)).st ≠ .empty →
    pinsGo f d d.fld.count 0 { u with cph := { u.cph with aad := fit d.fld.aadLen aad, auxIn := fit 32 aux } } = (v, l, none) →
    exec (.sealedRead f k aad aux) s = .next { v with cph := { v.cph with
      phase := .verifying, hold := gcmCrypt (s.slot (slotIndex f d.fld.keySlot)).key ((fit 32 aux).take 12) l } }) ∧
  (∀ (s t : State) (j : Job) (d : Desc), t = sendOut s → jobDesc t = some (j, d) → j.kind = .reading → j.memFail = none →
    verdict (d.op == .scan && bit d.fld.opfield 5) j.units = some true →
    (d.op ≠ .sealedRead → judgeReading s = stopJob t (readStatus j d)) ∧
    (d.op = .sealedRead → JobEndsAs { t with cph := { t.cph with
      phase := .verifying
      hold := gcmCrypt (t.slot (slotIndex j.f d.fld.keySlot)).key (t.cph.auxIn.take 12) (delivered d j).flatten } } (judgeReading s)
      (readStatus j d) 0)) ∧
  (∀ (s : State) (j : Job) (d : Desc) (st : Status), jobDesc s = some (j, d) → JobEndsAs (s.modDesc j.f j.k fun e => { e with
      writes := e.writes ++ jobWrites s j e
      aux := if e.fld.auxPtr = 0 then [] else jobAux s j e st
      failLba := (j.memFail.orElse fun _ => firstFailed e j).orElse fun _ => j.firstFail }) (stopJob s st) st (jobBytes s j d)) ∧
  (∀ (s : State) (j : Job) (d : Desc), (d.op = .read ∨ d.op = .verify → jobBytes s j d = 2048 * (delivered d j).length) ∧
    (d.op = .scan → jobBytes s j d = (scanRecords (bit d.fld.opfield 5) j.units).length ∧
      jobWrites s j d = scatter d.list (scanRecords (bit d.fld.opfield 5) j.units)) ∧
    (d.op = .read ∨ d.op = .readRaw → jobWrites s j d = scatter d.list (delivered d j).flatten))

/-- Sealing and key commands take the free engine, or go on with it where they hold it, and run to their end. SEAL BUFFER takes a
counter value and ends OK with its ciphertext; OPEN BUFFER decrypts into the hold for the tag. A SEALED WRITE takes a counter value
and begins to record ciphertext. KEY LOAD and its wrapped form ask for the slot's record, and when that commits the slot is LOADED with
the key and the command ends OK; KEY CLEAR empties the slot, asks for the record's deletion, and ends OK when that commits. -/
def Obligations.SealingAndKeyCommandsRunToTheirEnd : Prop :=
  (∀ (s u v : State) (f : FoldId) (k : Nat) (d : Desc) (i : Fin 17) (key : KeySlot) (aad plain cipher tag : List Byte),
    sealRunning s f k .sealBuffer = some d → s.cph.disabled = false → LockFor s f.val f k u → i = slotIndex f d.fld.keySlot →
    s.slot i = key → key.st = .loaded → key.counter ≤ key.useLimit → key.counter ≤ key.reservedTo →
    gcmSeal key.key (nonceOf key.salt key.counter) (fit d.fld.aadLen aad) (fit d.fld.length plain) = (cipher, tag) →
    memRun ((u.setSlot i { key with counter := key.counter + 1 }).modDesc f k fun e => { e with
        counter := some key.counter, nonceOut := nonceOf key.salt key.counter
        aux := sealAux (nonceOf key.salt key.counter) tag })
      (throughSet d (foldMask u f) engineMask ++ throughSet d engineMask (foldMask u f)) = (v, false) →
    ∃ w : State, exec (.sealBuffer f k aad plain) s = .next w ∧ EndsAs (v.modDesc f k fun e => { e with
      writes := e.writes ++ scatterAt e.list 0 cipher }) w f k .ok d.fld.length) ∧
  (∀ (s u v : State) (f : FoldId) (k : Nat) (d : Desc) (aad aux cipher : List Byte), sealRunning s f k .openBuffer = some d →
    s.cph.disabled = false → LockFor s f.val f k u → (s.slot (slotIndex f d.fld.keySlot)).st ≠ .empty →
    memRun u (throughSet d (foldMask u f) engineMask) = (v, false) →
    exec (.openBuffer f k aad aux cipher) s = .next { v with cph := { v.cph with
      phase := .verifying, aad := fit d.fld.aadLen aad, auxIn := fit 32 aux
      hold := gcmCrypt (s.slot (slotIndex f d.fld.keySlot)).key ((fit 32 aux).take 12) (fit d.fld.length cipher) } }) ∧
  (∀ (s u v : State) (f : FoldId) (k : Nat) (d : Desc) (di : DiscInfo) (i : Fin 17) (key : KeySlot)
    (aad plain cipher tag : List Byte), dispatchedAs s f k .sealedWrite = some d → s.disc = some di →
    writeRangeOk di (lbaOf d.fld) d.fld.count = true → s.cph.disabled = false → LockFor s 9 f k u →
    i = slotIndex f d.fld.keySlot → s.slot i = key → key.st = .loaded → key.counter ≤ key.useLimit →
    key.counter ≤ key.reservedTo →
    gcmSeal key.key (nonceOf key.salt key.counter) (fit d.fld.aadLen aad) (fit (2048 * d.fld.count) plain) = (cipher, tag) →
    memRun ((u.setSlot i { key with counter := key.counter + 1 }).modDesc f k fun e => { e with
        counter := some key.counter, nonceOut := nonceOf key.salt key.counter ++ tag })
      (setOps true engineMask d.bufs 0 (2048 * d.fld.count)) = (v, false) →
    ∃ (w : State) (j : Job), exec (.sealedWrite f k aad plain) s = .next w ∧ w.job = some j ∧ j.kind = .writing ∧ j.f = f ∧ j.k = k ∧
      j.next = lbaOf d.fld ∧ j.last = lbaOf d.fld + d.fld.count - 1 ∧ j.data = blocksOf d.fld.count cipher ∧
      j.units = mergeUnits di (lbaOf d.fld) d.fld.count ∧ w.slot i = { key with counter := key.counter + 1 }) ∧
  (∀ (s u : State) (f : FoldId) (k : Nat) (d : Desc) (i : Fin 17) (key : List Byte), sealRunning s f k .keyLoad = some d →
    bit d.fld.opfield 2 = false → s.cph.disabled = false → LockFor s f.val f k u → i = slotIndex f d.fld.keySlot →
    ∃ t : State, exec (.keyLoad f k key) s = .next t ∧
      t = requestSlotRecord ({ u with draws := s.draws + 1 }.modDesc f k fun e => { e with stage := .commit }) i
        (loadedSlot d.fld.opfield d.fld.opdata (Config.randomWord s.draws) (fit (keyBytes d.fld.opfield) key)) (.keyLoad f k i.val)) ∧
  (∀ (s u : State) (f : FoldId) (k : Nat) (d : Desc) (i : Fin 17) (w key : List Byte), sealRunning s f k .keyLoad = some d →
    bit d.fld.opfield 2 = true → s.cph.disabled = false → LockFor s f.val f k u → i = slotIndex f d.fld.keySlot →
    (s.slot (slotIndex f (d.fld.keySlot + 1))).st ≠ .empty →
    kwUnwrap (s.slot (slotIndex f (d.fld.keySlot + 1))).key (fit (keyBytes d.fld.opfield) w) = some key →
    ∃ t : State, exec (.keyLoadWrapped f k w) s = .next t ∧
      t = requestSlotRecord ({ u with draws := s.draws + 1 }.modDesc f k fun e => { e with stage := .commit }) i
        (loadedSlot d.fld.opfield d.fld.opdata (Config.randomWord s.draws) key) (.keyLoad f k i.val)) ∧
  (∀ (s : State) (f : FoldId) (k : Nat) (i : Fin 17) (d : Desc) (w : BitVec 16) (o : BitVec 64) (salt : Word) (key : List Byte) (q : Prog),
    q.act = .keyLoad f k i.val → q.payload = some (.slot (recordOfSlot i (loadedSlot w o salt key))) → s.desc? f k = some d →
    d.stage = .commit → EndsAs ({ s with mram := { s.mram with
        queue := s.mram.queue.filter fun p => !(p.act == OnCommit.reserve i.val && !p.begun) } }.setSlot i (loadedSlot w o salt key))
      (onCommit s q) f k .ok 0) ∧
  (∀ (s u : State) (f : FoldId) (k : Nat) (d : Desc) (i : Fin 17), sealRunning s f k .keyClear = some d → LockFor s f.val f k u →
    i = slotIndex f d.fld.keySlot → (s.slot i).st ≠ .empty → ∃ t : State, exec (.keyClear f k) s = .next t ∧
      t = requestRecord ((u.setSlot i {}).modDesc f k fun e => { e with stage := .commit }) 6 (slotRecordId i) none 0 .other
        (some (.region 6)) (.keyClear f k i.val)) ∧
  (∀ (s : State) (f : FoldId) (k n : Nat) (d : Desc) (q : Prog), q.act = .keyClear f k n → s.desc? f k = some d → d.stage = .commit →
    EndsAs s (onCommit s q) f k .ok 0)

/-- Vault commands take the engine where it is free and run to their end, and the records of other commands end them when they
commit. VAULT GET delivers its value, VAULT LIST its entries; VAULT PUT takes a vault counter value and asks for its object's
record, a new one or the key's own, VAULT DELETE for its deletion, and each ends OK when its record commits. A tariff schedule,
calibration record, boot record for a download, a trial or a confirmation likewise acts and ends its descriptor when it commits. -/
def Obligations.VaultCommandsAndCommittedRecordsRunToTheirEnd : Prop :=
  (∀ (s u x : State) (f : FoldId) (k : Nat) (d : Desc) (key v : List Byte) (r : Rec), sealRunning s f k .vaultGet = some d →
    s.cph.disabled = false → LockFor s 8 f k u → x = readVault u f (fit d.fld.count key) →
    vaultFind x f (fit d.fld.count key) = some r →
    vaultObject r = some (f, fit d.fld.count key, v) → r.unreadable = false → vaultOpens f r = true → v.length ≤ d.fld.length →
    ∃ t : State, exec (.vaultGet f k key) s = .next t ∧ EndsAs ((releaseLock x).modDesc f k fun e => { e with
      writes := e.writes ++ scatterAt e.list 0 v }) t f k .ok v.length) ∧
  (∀ (s u x : State) (f : FoldId) (k : Nat) (d : Desc) (out : List Byte), sealRunning s f k .vaultList = some d →
    s.cph.disabled = false → LockFor s 8 f k u → d.fld.auxPtr ≠ 0 → x = readVaultAll u f →
    out = ((vaultSorted x f).take (d.fld.length / 36)).flatMap (fun o =>
      leBytes 1 o.1.length ++ leBytes 2 o.2.length ++ [0] ++ fit 32 o.1) →
    ∃ t : State, exec (.vaultList f k) s = .next t ∧ EndsAs (((releaseLock x).modDesc f k fun e => { e with
      aux := leBytes 4 (vaultSorted x f).length }).modDesc f k fun e => { e with
        writes := e.writes ++ scatterAt e.list 0 out }) t f k .ok out.length) ∧
  (∀ (s u x v : State) (f : FoldId) (k c i : Nat) (d : Desc) (key value : List Byte), sealRunning s f k .vaultPut = some d →
    s.cph.disabled = false → LockFor s 8 f k u → x = readVault u f (fit d.fld.count key) →
    vaultSame x f (fit d.fld.count key) (fit d.fld.length value) = false →
    overVaultQuota x f (fit d.fld.count key) (fit d.fld.length value) = false → counterCheck (x.slot 16) = .value c →
    vaultIdFor (releaseLock (takeCounter x 16)) f (fit d.fld.count key) = (i, v) →
    ∃ t : State, exec (.vaultPut f k key value) s = .next t ∧ t = requestRecord (v.modDesc f k fun e => { e with
        stage := .commit, counter := some c }) 3 i (some (.vault f (fit d.fld.count key) (fit d.fld.length value)))
      ((fit d.fld.count key).length + (fit d.fld.length value).length) .other (some (.vault f)) (.vaultPut f k)
      (some (vaultSeal x f i c (fit d.fld.count key) (fit d.fld.length value)))) ∧
  (∀ (s : State) (f : FoldId) (k i : Nat) (d : Desc) (key : List Byte), sealRunning s f k .vaultDelete = some d →
    s.cph.disabled = false → vaultId s f (fit d.fld.count key) = some i → ∃ t : State, exec (.vaultDelete f k key) s = .next t ∧
      t = requestRecord (s.modDesc f k fun e => { e with stage := .commit }) 3 i none 0 .other (some (.vault f)) (.vaultDelete f k)) ∧
  (∀ (s : State) (f : FoldId) (k : Nat) (d : Desc) (q : Prog), s.desc? f k = some d → d.stage = .commit →
    (q.act = .vaultPut f k → EndsAs s (onCommit s q) f k .ok d.fld.length) ∧
    (q.act = .vaultDelete f k → EndsAs s (onCommit s q) f k .ok 0)) ∧
  (∀ (s : State) (k : Nat) (d : Desc) (q : Prog), s.desc? 0 k = some d → d.stage = .commit →
    (∀ x : Tariff, q.act = .tariff k → q.payload = some (.schedule x) →
      EndsAs { s with kpr := { s.kpr with pending := some x } } (onCommit s q) 0 k .ok d.fld.length) ∧
    (∀ c : CalRecord, q.act = .calibrate k → q.payload = some (.calibration c) →
      EndsAs { s with sys := { s.sys with cal := c, uncal := uncalOf c } } (onCommit s q) 0 k .ok 8) ∧
    (∀ (b : BootRecord) (off : Nat) (im : List Byte), q.act = .bootDownload k off im → q.payload = some (.boot b) →
      EndsAs (programImage { s with sys := { s.sys with boot := b } } (otherSlot b) off im) (onCommit s q) 0 k .ok im.length) ∧
    (∀ b : BootRecord, q.act = .bootTry k → q.payload = some (.boot b) →
      EndsAs { s with sys := { s.sys with boot := b, restartReq := true } } (onCommit s q) 0 k .ok 0) ∧
    (∀ b : BootRecord, q.act = .bootConfirm k → q.payload = some (.boot b) →
      EndsAs { s with sys := { s.sys with boot := b, rollback := max s.sys.rollback (min 64 (imageSvn s b.active)) } } (onCommit s q)
        0 k .ok 0))

/-- Every servo, spindle, sled and loader profile with a payload in its ranges is taken and ends OK with its length. Without the
type's own conditions each of these rows ends BAD_FIELD, as the statements of the profiles say; here each row's normal completion
is said on its own: LOOP_RATE with the spindle at rest in SERVICE or with no disc, LOOP_BANK for banks not in use, SIGNAL,
SEQUENCE, SERVO_RESYNC, APC, SPINDLE, SLED, SLED_TABLE and its built-in form with the sled at rest, and LOADER. BANK_SWAP of VALID
banks waits for its strobe, and ends OK once they are swapped. -/
def Obligations.ServoAndMotionProfilesComplete : Prop :=
  ∀ (s : State) (k : Nat) (d : Desc) (r : List Byte), runningAs s 0 k .profileLoad = some d →
    (∀ q : List Byte, q = fit 16 r → bits d.fld.opfield 7 0 = 0x10 → byteAt q 0 ≤ 2 → zeroBytes q 1 15 = true →
      s.disc = none ∨ s.sys.mode = .service ∧ s.spindle.st = .stopped → ∃ t : State, exec (.loopRate k r) s = .next t ∧
        EndsAs (askResync { profilesDefault s with servo := { (profilesDefault s).servo with rate := byteAt q 0 } }) t 0 k .ok
          d.fld.length) ∧
    (∀ q : List Byte, q = fit 160 r → bits d.fld.opfield 7 0 = 0x11 → bankOk q = true → swapPending s (byteAt q 0) = false →
      bankInUse s q = false → ∃ t : State, exec (.loopBank k r) s = .next t ∧ EndsAs (storeBanks s q) t 0 k .ok d.fld.length) ∧
    (∀ q : List Byte, q = fit 16 r → bits d.fld.opfield 7 0 = 0x12 → swapOk s q = true → s.servo.swap = none →
      s.servo.swapped = none → ∃ t : State, exec (.bankSwap k r) s = .next t ∧
        t.servo.swap = some (BitVec.ofNat 6 (byteAt q 0), byteAt q 1 == 1, k) ∧
        t.desc? 0 k = some { d with stage := .waiting } ∧ t.servo.loops = s.servo.loops) ∧
    (∀ (q : List Byte) (i : Fin 3), q = fit 64 r → bits d.fld.opfield 7 0 = 0x13 → i.val = byteAt q 0 → signalOk q = true →
      ∃ t : State, exec (.signal k r) s = .next t ∧ EndsAs (useProfile { s with servo := { s.servo with
        signal := s.servo.signal.set i {
          teMode := byteAt q 1, kAuto := bit (BitVec.ofNat 8 (byteAt q 2)) 0, tiltEn := bit (BitVec.ofNat 8 (byteAt q 2)) 1
          kDpp := q24 q 4, tiltFixed := q24 q 8, w := (List.range 8).map fun j => q24 q (12 + 4 * j) } } } i.val) t 0 k .ok
        d.fld.length) ∧
    (∀ (q : List Byte) (i : Fin 3), q = fit 64 r → bits d.fld.opfield 7 0 = 0x14 → i.val = byteAt q 0 → sequenceOk q = true →
      ∃ t : State, exec (.sequence k r) s = .next t ∧ EndsAs (useProfile { s with servo := { s.servo with
        sequence := s.servo.sequence.set i (sequenceAt q) } } i.val) t 0 k .ok d.fld.length) ∧
    (bits d.fld.opfield 7 0 = 0x15 → zeroBytes (fit 16 r) 0 15 = true → ∃ t : State, exec (.servoResync k r) s = .next t ∧
      EndsAs { s with servo := { s.servo with resync := true } } t 0 k .ok d.fld.length) ∧
    (∀ q : List Byte, q = fit 16 r → bits d.fld.opfield 7 0 = 0x16 → le16 q 0 ≤ 511 → le16 q 2 ≤ 1023 → zeroBytes q 4 15 = true →
      ∃ t : State, exec (.apc k r) s = .next t ∧ EndsAs (limitApc { s with servo := { s.servo with
        apcTarget := some (le16 q 0), apcMax := some (le16 q 2) } }) t 0 k .ok d.fld.length) ∧
    (∀ q : List Byte, q = fit 32 r → bits d.fld.opfield 7 0 = 0x20 → spindleOk q = true →
      ∃ t : State, exec (.spindle k r) s = .next t ∧ EndsAs { s with spindle := { s.spindle with
        prof := spindleAt q, inUse := if s.spindle.st = .stopped then spindleAt q else s.spindle.inUse } } t 0 k .ok d.fld.length) ∧
    (∀ q : List Byte, q = fit 48 r → bits d.fld.opfield 7 0 = 0x21 → sledOk q = true →
      ∃ t : State, exec (.sled k r) s = .next t ∧ EndsAs { s with sled := { s.sled with
        prof := sledAt q, inUse := if s.sled.move = .rest then sledAt q else s.sled.inUse } } t 0 k .ok d.fld.length) ∧
    (bits d.fld.opfield 7 0 = 0x22 → (∀ v ∈ tableAt (fit 512 r), v < 1024) → s.sled.shadow = none → s.sled.move = .rest →
      ∃ t : State, exec (.sledTable k r) s = .next t ∧
        EndsAs { s with sled := { s.sled with table := .loaded (tableAt (fit 512 r)) } } t 0 k .ok d.fld.length) ∧
    (∀ q : List Byte, q = fit 16 r → bits d.fld.opfield 7 0 = 0x23 → byteAt q 0 ≤ 1 → byteAt q 1 ≤ 1 → 20 ≤ le16 q 2 → le16 q 2 ≤ 100 →
      100 ≤ le16 q 4 → le16 q 4 ≤ 800 → 500 ≤ le16 q 6 → le16 q 6 ≤ 5000 → 10 ≤ le16 q 8 → le16 q 8 ≤ 200 → zeroBytes q 10 15 = true →
      ∃ t : State, exec (.loader k r) s = .next t ∧ EndsAs { s with loader := { s.loader with prof := {
        solenoid := byteAt q 0 == 1, btnEn := byteAt q 1 == 1, duty := le16 q 2, ilim := le16 q 4, tmax := le16 q 6
        solT := le16 q 8 } } } t 0 k .ok d.fld.length) ∧
    (bits d.fld.opfield 7 0 = 0x24 → zeroBytes (fit 16 r) 0 15 = true → s.sled.shadow = none → s.sled.move = .rest →
      ∃ t : State, exec (.sledTableDefault k r) s = .next t ∧
        EndsAs { s with sled := { s.sled with table := .builtin } } t 0 k .ok d.fld.length)

/-- Every channel, second-look, recording and capture profile with a payload in its ranges is taken and ends OK with its length:
CHANNEL and SECOND_LOOK replace their medium's profile, CHANNEL_DEFAULT puts both built-in ones back, WSTRAT replaces or adds its
table where at most 47 others are held, WSTRAT_DEFAULT drops its medium's, LDS outside a recording sets the laser driver's port, and
CAPTURE sets what is captured and starts anew. -/
def Obligations.ChannelRecordingAndCaptureProfilesComplete : Prop :=
  ∀ (s : State) (k : Nat) (d : Desc) (r : List Byte), runningAs s 0 k .profileLoad = some d →
    (∀ (q : List Byte) (i : Fin 4), q = fit 64 r → bits d.fld.opfield 7 0 = 0x30 → i.val = byteAt q 0 → channelOk q = true →
      ∃ t : State, exec (.channel k r) s = .next t ∧ EndsAs { s with chan := { s.chan with
        prof := s.chan.prof.set i (channelAt q) } } t 0 k .ok d.fld.length) ∧
    (∀ (q : List Byte) (i : Fin 4), q = fit 16 r → bits d.fld.opfield 7 0 = 0x31 → i.val = byteAt q 0 → byteAt q 1 ≤ 2 →
      byteAt q 2 ≤ 7 → tapsOk (tapsAt q 3) = true → zeroBytes q 8 15 = true →
      ∃ t : State, exec (.secondLook k r) s = .next t ∧ EndsAs { s with chan := { s.chan with look := s.chan.look.set i {
        passes := byteAt q 1, pin := BitVec.ofNat 3 (byteAt q 2), target2 := tapsAt q 3 } } } t 0 k .ok d.fld.length) ∧
    (∀ (q : List Byte) (i : Fin 4), q = fit 16 r → bits d.fld.opfield 7 0 = 0x32 → i.val = byteAt q 0 → zeroBytes q 1 15 = true →
      ∃ t : State, exec (.channelDefault k r) s = .next t ∧ EndsAs { s with chan := { s.chan with
        prof := s.chan.prof.set i (({} : Channel).prof.get i), look := s.chan.look.set i (({} : Channel).look.get i) } } t 0 k .ok
        d.fld.length) ∧
    (∀ (q : List Byte) (o : List Strategy), q = fit 1088 r → bits d.fld.opfield 7 0 = 0x40 → wstratOk q = true →
      o = s.recd.strategies.filter (fun x => !(x.medium == byteAt q 0 && x.layer == byteAt q 1 && x.class_ == byteAt q 2 &&
        x.mid == BitVec.ofNat 64 (le64 q 4))) → o.length < 48 →
      ∃ t : State, exec (.wstrat k r) s = .next t ∧ EndsAs { s with recd := { s.recd with
        strategies := o ++ [wstratAt q] } } t 0 k .ok d.fld.length) ∧
    (∀ q : List Byte, q = fit 16 r → bits d.fld.opfield 7 0 = 0x41 →
      byteAt q 0 ∈ [0x02, 0x03, 0x11, 0x12, 0x13, 0x14, 0x21, 0x22] → zeroBytes q 1 15 = true →
      ∃ t : State, exec (.wstratDefault k r) s = .next t ∧ EndsAs { s with recd := { s.recd with
        strategies := s.recd.strategies.filter fun x => x.medium != byteAt q 0 } } t 0 k .ok d.fld.length) ∧
    (∀ q : List Byte, q = fit 16 r → bits d.fld.opfield 7 0 = 0x42 → isRecording s = false → 2 ≤ byteAt q 0 → byteAt q 0 ≤ 24 →
      byteAt q 1 ≤ 1 → 25 ≤ byteAt q 2 → byteAt q 2 ≤ 100 → zeroBytes q 3 15 = true →
      ∃ t : State, exec (.lds k r) s = .next t ∧ EndsAs { s with recd := { s.recd with lds := {
        div := byteAt q 0, readback := byteAt q 1 == 1, vfyLimit := byteAt q 2 } } } t 0 k .ok d.fld.length) ∧
    (∀ q : List Byte, q = fit 16 r → bits d.fld.opfield 7 0 = 0x43 → byteAt q 0 ≤ 4 → byteAt q 1 ≤ 3 → 1 ≤ le16 q 2 → le16 q 2 ≤ 256 →
      zeroBytes q 4 15 = true → ∃ t : State, exec (.capture k r) s = .next t ∧ EndsAs { s with cap := { s.cap with
        source := byteAt q 0, trigger := byteAt q 1, decimate := le16 q 2, running := false, first := false } } t 0 k .ok
        d.fld.length)

/-- Every command block with a native opcode and good fields becomes that opcode's descriptor and passes to its steps 2 to 5. READ
and VERIFY forms keep REREADS and NO_SECOND; WRITE forms, FORMAT UNIT, START STOP UNIT, SET CD SPEED, PREVENT ALLOW MEDIUM REMOVAL,
RESERVE TRACK, CLOSE TRACK/SESSION and READ CD take the fields of Table 4.12. Which FORMAT form and which SPIN class are free (the
model's choice, notes/assumptions/55.md). -/
def Obligations.NativeCommandBlocksComplete : Prop :=
  ∀ (s : State) (f : FoldId) (k : Nat) (cdb c : List Byte) (d : Desc),
    (∀ x : Fields, x = { d.fld with address := be32 c 2, count := be16 c 7, opfield := d.fld.opfield &&& 0x1F, opdata := 0 } →
      MmcReads s f k cdb 0x28 d c → be16 c 7 ≠ 0 → NativeOk s f .read x →
      exec (.read10 f k cdb) s = .next (steps25 (s.modDesc f k fun e => { e with op := .read, mmc := true, fld := x }) f k)) ∧
    (∀ x : Fields, x = { d.fld with address := be32 c 2, count := be32 c 6, opfield := d.fld.opfield &&& 0x1F, opdata := 0 } →
      MmcReads s f k cdb 0xA8 d c → be32 c 6 ≠ 0 → NativeOk s f .read x →
      exec (.read12 f k cdb) s = .next (steps25 (s.modDesc f k fun e => { e with op := .read, mmc := true, fld := x }) f k)) ∧
    (∀ x : Fields, x = { d.fld with address := be32 c 2, count := be16 c 7, opfield := 0, opdata := 0 } →
      MmcReads s f k cdb 0x2A d c → be16 c 7 ≠ 0 → NativeOk s f .write x →
      exec (.write10 f k cdb) s = .next (steps25 (s.modDesc f k fun e => { e with op := .write, mmc := true, fld := x }) f k)) ∧
    (∀ x : Fields, x = { d.fld with address := be32 c 2, count := be32 c 6, opfield := 0, opdata := 0 } →
      MmcReads s f k cdb 0xAA d c → be32 c 6 ≠ 0 → NativeOk s f .write x →
      exec (.write12 f k cdb) s = .next (steps25 (s.modDesc f k fun e => { e with op := .write, mmc := true, fld := x }) f k)) ∧
    (∀ x : Fields, x = { d.fld with address := be32 c 2, count := be16 c 7, opfield := d.fld.opfield &&& 0x1F, opdata := 0 } →
      MmcReads s f k cdb 0x2F d c → be16 c 7 ≠ 0 → NativeOk s f .verify x →
      exec (.verify10 f k cdb) s = .next (steps25 (s.modDesc f k fun e => { e with op := .verify, mmc := true, fld := x }) f k)) ∧
    (∀ x : Fields, x = { d.fld with
        address := be32 c 2, count := be24 c 6, opfield := BitVec.ofNat 16 (byteAt c 9 / 2 % 4 + 2 * (byteAt c 10 % 8))
        opdata := BitVec.ofNat 64 (bits d.fld.opfield 3 0) } →
      MmcReads s f k cdb 0xBE d c → be24 c 6 ≠ 0 → readCdOk c = true → NativeOk s f .readRaw x →
      exec (.readCd f k cdb) s = .next (steps25 (s.modDesc f k fun e => { e with op := .readRaw, mmc := true, fld := x }) f k)) ∧
    (∀ (x : Fields) (p : List Byte), x = { d.fld with opfield := BitVec.ofNat 16 ((Config.openWord 30 s.draws).toNat % 3) } →
      MmcReads s f k cdb 0x04 d c → byteAt p 8 / 4 = 0x00 ∨ byteAt p 8 / 4 = 0x30 → NativeOk s f .format x →
      exec (.formatUnit f k cdb p) s = .next (steps25 ({ s with draws := s.draws + 1 }.modDesc f k fun e => { e with
        op := .format, mmc := true, fld := x }) f k)) ∧
    (∀ x : Fields, x = { d.fld with opfield := if cdbBit c 4 0 then 0 else 1 } → MmcReads s f k cdb 0x1B d c → cdbBit c 4 1 = true →
      NativeOk s f .loadEject x → exec (.startStopUnit f k cdb) s = .next (steps25 (s.modDesc f k fun e => { e with
        op := .loadEject, mmc := true, fld := x }) f k)) ∧
    (∀ x : Fields, x = { d.fld with opfield := BitVec.ofNat 16 ((Config.openWord 31 s.draws).toNat % 256) } →
      MmcReads s f k cdb 0x1B d c → cdbBit c 4 1 = false → NativeOk s f .spin x → exec (.startStopUnit f k cdb) s =
        .next (steps25 ({ s with draws := s.draws + 1 }.modDesc f k fun e => { e with op := .spin, mmc := true, fld := x }) f k)) ∧
    (∀ x : Fields, x = { d.fld with
        opfield := BitVec.ofNat 16 (if be16 c 2 = 0xFFFF then 0xFF else (Config.openWord 32 s.draws).toNat % 256) } →
      MmcReads s f k cdb 0xBB d c → NativeOk s f .spin x → exec (.setCdSpeed f k cdb) s =
        .next (steps25 ({ s with draws := s.draws + 1 }.modDesc f k fun e => { e with op := .spin, mmc := true, fld := x }) f k)) ∧
    (∀ x : Fields, x = { d.fld with opfield := if cdbBit c 4 0 then 1 else 0 } → MmcReads s f k cdb 0x1E d c →
      NativeOk s f .lockMedium x → exec (.preventAllowMediumRemoval f k cdb) s = .next (steps25 (s.modDesc f k fun e => { e with
        op := .lockMedium, mmc := true, fld := x }) f k)) ∧
    (∀ x : Fields, x = { d.fld with opfield := 0, opdata := BitVec.ofNat 64 (be32 c 5) } → MmcReads s f k cdb 0x53 d c →
      NativeOk s f .reserveTrack x → exec (.mmcReserveTrack f k cdb) s = .next (steps25 (s.modDesc f k fun e => { e with
        op := .reserveTrack, mmc := true, fld := x }) f k)) ∧
    (∀ (x : Fields) (n : Nat), n = byteAt c 2 % 8 → x = { d.fld with
        opfield := if n = 1 then 0 else if n = 2 then 1 else 2, address := be16 c 4 } →
      MmcReads s f k cdb 0x5B d c → n ∈ [1, 2, 5, 6] → NativeOk s f .close x → exec (.closeTrackSession f k cdb) s =
        .next (steps25 (s.modDesc f k fun e => { e with op := .close, mmc := true, fld := x }) f k))

/-- Every command block that firmware answers completes OK with its reply where LENGTH holds the allocation length. TEST UNIT READY and
SYNCHRONIZE CACHE send nothing; REQUEST SENSE sends the fold's sense bytes, INQUIRY its 36, READ CAPACITY the last LBA and 2,048,
READ TRACK INFORMATION the 36 bytes of its track; GET CONFIGURATION, GET EVENT STATUS NOTIFICATION, MODE SENSE, READ FORMAT
CAPACITIES, READ TOC/PMA/ATIP, READ DISC INFORMATION and READ DISC STRUCTURE a reply of at most the allocation length, raw from the
disc for CD-TEXT and a disc structure it holds, else free (the model's choice, notes/assumptions/55.md). -/
def Obligations.AnsweredCommandBlocksComplete : Prop :=
  ∀ (s : State) (f : FoldId) (k : Nat) (cdb c : List Byte) (d : Desc), mmcMayStart s f d = true →
    (MmcReads s f k cdb 0x00 d c → s.disc ≠ none → ∃ t : State, exec (.testUnitReady f k cdb) s = .next t ∧
      EndsAs (noteStart s f k) t f k .ok 0) ∧
    (MmcReads s f k cdb 0x35 d c → (∀ e ∈ (s.fold f).descs, e.k < k → e.op ≠ .write ∧ e.op ≠ .sealedWrite ∧ e.op ≠ .mmcPass) →
      ∃ t : State, exec (.synchronizeCache f k cdb) s = .next t ∧ EndsAs (noteStart s f k) t f k .ok 0) ∧
    (MmcReads s f k cdb 0x03 d c → byteAt c 4 ≤ d.fld.length → ∃ t : State, exec (.requestSense f k cdb) s = .next t ∧
      Replies s t f k s.draws ((senseBytes (s.fold f).sense).take (byteAt c 4))) ∧
    (MmcReads s f k cdb 0x12 d c → cdbBit c 1 0 = false → be16 c 3 ≤ d.fld.length → ∃ (t : State) (l : List Byte),
      exec (.inquiry f k cdb) s = .next t ∧ Replies s t f k (s.draws + 1) l ∧ l.length = min 36 (be16 c 3) ∧
      ∀ j b, inquiryKnown j = some b → j < l.length → l[j]? = some b) ∧
    (MmcReads s f k cdb 0x46 d c → be16 c 7 ≤ d.fld.length → ∃ (t : State) (l : List Byte),
      exec (.getConfiguration f k cdb) s = .next t ∧ Replies s t f k (s.draws + 1) l ∧ l.length ≤ be16 c 7) ∧
    (MmcReads s f k cdb 0x4A d c → cdbBit c 1 0 = true → be16 c 7 ≤ d.fld.length → ∃ (t : State) (l : List Byte),
      exec (.getEventStatusNotification f k cdb) s = .next t ∧ Replies s t f k (s.draws + 1) l ∧ l.length ≤ be16 c 7) ∧
    (MmcReads s f k cdb 0x5A d c → byteAt c 2 % 64 ∈ [0x01, 0x05, 0x2A] → be16 c 7 ≤ d.fld.length → ∃ (t : State) (l : List Byte),
      exec (.modeSense10 f k cdb) s = .next t ∧ Replies s t f k (s.draws + 1) l ∧ l.length ≤ be16 c 7) ∧
    (∀ x : DiscInfo, s.desc? f k = some d → d.op = .mmcReply → d.stage = .ready ∨ d.stage = .running → c = mmcBlock d cdb →
      s.disc = some x →
      (byteAt c 0 = 0x23 → be16 c 7 ≤ d.fld.length → ∃ (t : State) (l : List Byte), exec (.readFormatCapacities f k cdb) s = .next t ∧
        Replies s t f k (s.draws + 1) l ∧ l.length ≤ be16 c 7) ∧
      (byteAt c 0 = 0x25 → 8 ≤ d.fld.length → ∃ t : State, exec (.readCapacity f k cdb) s = .next t ∧
        Replies s t f k s.draws (beBytes 4 (x.capacity - 1) ++ beBytes 4 2048)) ∧
      (byteAt c 0 = 0x43 → be16 c 7 ≤ d.fld.length → ∃ (t : State) (n : Nat) (l : List Byte),
        exec (.readTocPmaAtip f k cdb) s = .next t ∧ Replies s t f k n l ∧ l.length ≤ be16 c 7 ∧
        (byteAt c 2 % 16 = 5 → n = s.draws ∧ l = (rawStructure x.cdText).take (be16 c 7))) ∧
      (byteAt c 0 = 0x51 → be16 c 7 ≤ d.fld.length → ∃ (t : State) (l : List Byte), exec (.readDiscInformation f k cdb) s = .next t ∧
        Replies s t f k (s.draws + 1) l ∧ l.length ≤ be16 c 7) ∧
      (byteAt c 0 = 0x52 → be16 c 7 ≤ d.fld.length → ∃ (t : State) (l : List Byte), exec (.readTrackInformation f k cdb) s = .next t ∧
        Replies s t f k (s.draws + 1) l ∧ l.length ≤ be16 c 7 ∧
        ∀ tr : Track, trackNamed x (byteAt c 1 % 4) (be32 c 2) = some tr → l.length = min 36 (be16 c 7) ∧
          ∀ j b, trackKnown tr j = some b → j < l.length → l[j]? = some b) ∧
      (byteAt c 0 = 0xAD → be16 c 8 ≤ d.fld.length → ∃ (t : State) (n : Nat) (l : List Byte),
        exec (.readDiscStructure f k cdb) s = .next t ∧ Replies s t f k n l ∧ l.length ≤ be16 c 8 ∧
        ∀ y, x.structures.find? (fun z => z.1 == byteAt c 7) = some y → n = s.draws ∧ l = (rawStructure y.2).take (be16 c 8)))

/-- MODE SET, FW ACTIVATE, FW DOWNLOAD, CALIBRATE, TARIFF SET and TIME SET in normal execution, and a stalled link. MODE SET VIGIL and
DOZE begin the drain of every fold, SERVICE that of folds 1 to 7, and IDLE leaves SERVICE at once; FW ACTIVATE TRY of a valid image, or
with a trial in force, begins a drain, CONFIRM of a trial, FW DOWNLOAD to a VALID slot, CALIBRATE with an item that passes and TARIFF SET of a good
schedule ask for their records; a step of the calendar ends its descriptor OK at its tick. A stall of Yelxo-M's link drops the laser
at once and is fault 1 at the next strobe; a stall of Yelxo-B's is fault 3. -/
def Obligations.ModeAndMaintenanceCommandsComplete : Prop :=
  (∀ (s : State) (k : Nat) (d : Desc), runningAs s 0 k .modeSet = some d →
    (d.fld.opfield = 0 → exec (.modeSetVigil k) s = .next { stopSpeculation (s.modDesc 0 k fun e => { e with
      stage := .draining, startedAt := none }) with sys := { s.sys with drainAll := true } }) ∧
    (d.fld.opfield = 1 → exec (.modeSetDoze k) s = .next { stopSpeculation (s.modDesc 0 k fun e => { e with
      stage := .draining, startedAt := none }) with sys := { s.sys with drainAll := true } }) ∧
    (d.fld.opfield = 2 → s.sys.mode = .service → ∃ t : State, exec (.modeSetIdle k) s = .next t ∧
      EndsAs (exitService s) t 0 k .ok 0) ∧
    (d.fld.opfield = 3 → s.sys.mode ≠ .service → exec (.modeSetService k) s =
      .next { s.modDesc 0 k (fun e => { e with stage := .draining, startedAt := none }) with
        sys := { s.sys with drainOthers := true } })) ∧
  (∀ (s : State) (k : Nat) (d : Desc), runningAs s 0 k .fwActivate = some d →
    (d.fld.opfield = 1 → s.sys.boot.trial ≠ none ∨ imageValid s (otherSlot s.sys.boot) = true → exec (.fwActivateTry k) s =
      .next { stopSpeculation (s.modDesc 0 k fun e => { e with stage := .draining, startedAt := none }) with
        sys := { s.sys with drainAll := true } }) ∧
    (∀ n : Nat, d.fld.opfield = 2 → s.sys.boot.trial = some n → ∃ t : State, exec (.fwActivateConfirm k) s = .next t ∧
      t = requestRecord (s.modDesc 0 k fun e => { e with stage := .commit }) 7 1
        (some (.boot { s.sys.boot with active := n, trial := none })) 16 .other (some (.region 7)) (.bootConfirm k))) ∧
  (∀ (s : State) (k : Nat) (d : Desc) (i : List Byte), runningAs s 0 k .fwDownload = some d → s.sys.boot.trial = none →
    slotValid s.sys.boot (otherSlot s.sys.boot) = false → ∃ t : State, exec (.fwDownload k i) s = .next t ∧
      EndsAs (programImage s (otherSlot s.sys.boot) (lbaOf d.fld) (fit d.fld.length i)) t 0 k .ok d.fld.length) ∧
  (∀ (s : State) (k : Nat) (m : CalMeas) (d : Desc) (c : CalRecord) (o : List Byte), runningAs s 0 k .calibrate = some d →
    s.sys.mode = .service → s.spindle.st = .stopped → calRun m d.fld.opfield 6 0 s.sys.cal [] = (c, o) → 1 ∈ o →
    ∃ t : State, exec (.calibrate k m) s = .next t ∧ t = requestRecord ((s.modDesc 0 k fun e => { e with
        writes := e.writes ++ scatterAt e.list 0 (o ++ [0, 0]) }).modDesc 0 k fun e => { e with stage := .commit }) 2 0
      (some (.calibration c)) 176 .other none (.calibrate k)) ∧
  (∀ (s : State) (k : Nat) (d : Desc) (r : List Byte) (x : Tariff), runningAs s 0 k .tariffSet = some d → tariffOf r = some x →
    ∃ t : State, exec (.tariffSet k r) s = .next t ∧ t = requestRecord (s.modDesc 0 k fun e => { e with stage := .commit }) 4 1
      (some (.schedule x)) 64 .other (some (.region 4)) (.tariff k)) ∧
  (∀ (s : State) (at_ cal sub k : Nat) (d : Desc), s.kpr.step = some (at_, cal, sub, k) → at_ ≤ s.kpr.tick → boundaryDue s = false →
    s.desc? 0 k = some d → ∃ t : State, exec .timeStep s = .next t ∧ t.kpr.step = none ∧ t.kpr.cal = cal ∧ t.kpr.subsec = sub ∧
      t.desc? 0 k = some { d with stage := .done, status := .ok, bytes := 0, aside := [], want := 0 }) ∧
  (∀ s : State, linksUp s = true → (∃ t : State, exec (.linkStall .yelxoM) s = .next t ∧ t.servo.ldEn = false ∧ t.servo.wgate = false ∧
      t.pwr = { s.pwr with links := { s.pwr.links with lastFault := 1 } } ∧
      t.halt = { s.halt with pend := addFault s.halt.pend (.link 1) }) ∧
    exec (.linkStall .yelxoB) s = .next { s with
      pwr := { s.pwr with links := { s.pwr.links with lastFault := 3 } }
      halt := { s.halt with pend := addFault s.halt.pend (.link 3) } })
end

