-- ==== Sys2Proof/Laws/Kept.lean ====
section
/-! SUPPORT. Laws/Kept.lean: what every operation keeps: the queue of commands, the canonical lists and the reserved bits. `Kept
q s` says the three together over the few fields they rest on, so that one lemma per operation carries them. -/
namespace Sys2Proof.Machine

/-- The facts of `Kept` over the bare fields. -/
structure KeptP (q : List Instr) (pending : List Instr) (gntLo penCtl penDepth flipT flipA flipC scrub str vr rawPage lossCfg govCtl
    govLimit wdg : Word) (bufs : List (Nat × Buf)) (wear strAt : List (Nat × Nat)) (raw : List (Nat × (List Word × List Word)))
    (sdram : List (Nat × Flip)) (wrong : List (Nat × BitVec 64)) (wgate ldEn inHalt : Bool) : Prop where
  queue : pending = q
  gntBase : gntLo &&& 0x00001FFF = 0
  pen : penCtl &&& 0x0000FFFC = 0
  depth : penDepth &&& 0xFFFF0000 = 0
  loss : lossCfg &&& 0xFFFFFF00 = 0
  govC : govCtl &&& 0xC0F0C0FE = 0
  govL : govLimit &&& 0xFFFFC0C0 = 0
  target : flipT &&& 0xFFFFFFF0 = 0
  addr : flipA &&& 0xF0000007 = 0
  check : flipC &&& 0xFFFFFF00 = 0
  scrubs : scrub &&& 0xFFFF0000 = 0
  strengths : str &&& 0xFFFF0000 = 0
  rates : vr &&& 0xFFFFFF80 = 0
  page : rawPage &&& 0xFFFFC000 = 0
  dogs : wdg &&& 0xFFFF00FC = 0
  held : keysRise bufs = true
  worn : keysRise wear = true
  strong : keysRise strAt = true
  raws : keysRise raw = true
  bad : listed (0, 0) sdram = true
  odd : listed 0 wrong = true
  gate : wgate = true → ldEn = true
  halted : inHalt = true → ldEn = false

/-- The queue is `q`, the reserved bits are 0 and the keyed lists canonical. -/
def Kept (q : List Instr) (s : State) : Prop :=
  KeptP q s.pending s.plat.gntBaseLo s.plat.penCtl s.plat.penDepth s.ecc.flipTarget s.ecc.flipAddr s.ecc.flipCheck s.ecc.scrubCtl
    s.ecc.strength s.ecc.vrate s.ecc.rawPage s.pwr.lossCfg s.pwr.gov.ctl s.pwr.gov.limit s.kpr.wdgCtl s.pool.bufs s.mram.wear
    s.mram.strengthAt s.mram.raw s.ecc.sdram s.ecc.wrong s.servo.wgate s.servo.ldEn
      s.halt.inHalt

theorem kept_iff {q : List Instr} {s : State} : Kept q s ↔ s.pending = q ∧ StateInv s := by
  constructor
  · intro h
    exact ⟨h.queue, ⟨h.gntBase, h.pen, h.depth, h.loss, h.govC, h.govL, h.target, h.addr, h.check, h.scrubs, h.strengths, h.rates,
      h.page, h.dogs⟩, ⟨h.held, h.worn, h.strong, h.raws, h.bad, h.odd⟩, ⟨h.gate, h.halted⟩⟩
  · rintro ⟨rfl, ⟨⟨a, b, c, d, e, f, g, h, i, j, k, l, m, n⟩, ⟨o, p, r, t, x, y⟩, ⟨u, v⟩⟩⟩
    exact ⟨rfl, a, b, c, d, e, f, g, h, i, j, k, l, m, n, o, p, r, t, x, y, u, v⟩

/-- An answer keeps: its next state does. -/
def KeptA (q : List Instr) : Answer → Prop
  | .next t => Kept q t
  | .fault _ => True
  | .refused _ => True

theorem kept_next {q : List Instr} {t : State} (h : Kept q t) : KeptA q (.next t) := h

theorem kept_fields {q : List Instr} {u : State} (h : Kept q u) :
    KeptP q u.pending u.plat.gntBaseLo u.plat.penCtl u.plat.penDepth u.ecc.flipTarget u.ecc.flipAddr u.ecc.flipCheck
      u.ecc.scrubCtl u.ecc.strength u.ecc.vrate u.ecc.rawPage u.pwr.lossCfg u.pwr.gov.ctl u.pwr.gov.limit u.kpr.wdgCtl
      u.pool.bufs u.mram.wear u.mram.strengthAt u.mram.raw u.ecc.sdram u.ecc.wrong u.servo.wgate u.servo.ldEn
      u.halt.inHalt := h

theorem kept_of {q : List Instr} {s : State}
    (h : KeptP q s.pending s.plat.gntBaseLo s.plat.penCtl s.plat.penDepth s.ecc.flipTarget s.ecc.flipAddr s.ecc.flipCheck
      s.ecc.scrubCtl s.ecc.strength s.ecc.vrate s.ecc.rawPage s.pwr.lossCfg s.pwr.gov.ctl s.pwr.gov.limit s.kpr.wdgCtl
      s.pool.bufs s.mram.wear s.mram.strengthAt s.mram.raw s.ecc.sdram s.ecc.wrong s.servo.wgate s.servo.ldEn
      s.halt.inHalt) : Kept q s := h

/-- A fold over a list keeps what each of its steps keeps. -/
theorem kept_foldl {α : Type} {q : List Instr} {g : State → α → State} (hg : ∀ (t : State) (a : α), Kept q t → Kept q (g t a)) :
    ∀ (l : List α) {s : State}, Kept q s → Kept q (l.foldl g s)
  | [], _, h => h
  | a :: r, _, h => kept_foldl hg r (hg _ a h)

/-- A fold over a list that carries a counter or a flag beside the state. -/
theorem kept_foldl_fst {α β : Type} {q : List Instr} {g : State × β → α → State × β}
    (hg : ∀ (t : State × β) (a : α), Kept q t.1 → Kept q (g t a).1) :
    ∀ (l : List α) {s : State × β}, Kept q s.1 → Kept q (l.foldl g s).1
  | [], _, h => h
  | a :: r, _, h => kept_foldl_fst hg r (hg _ a h)

theorem kept_foldl_snd {α β : Type} {q : List Instr} {g : β × State → α → β × State}
    (hg : ∀ (t : β × State) (a : α), Kept q t.2 → Kept q (g t a).2) :
    ∀ (l : List α) {s : β × State}, Kept q s.2 → Kept q (l.foldl g s).2
  | [], _, h => h
  | a :: r, _, h => kept_foldl_snd hg r (hg _ a h)

theorem kept_ite {q : List Instr} {c : Prop} [Decidable c] {a b : State} (ha : Kept q a) (hb : Kept q b) :
    Kept q (if c then a else b) := by
  split
  · exact ha
  · exact hb

theorem keptA_ite {q : List Instr} {c : Prop} [Decidable c] {a b : Answer} (ha : KeptA q a) (hb : KeptA q b) :
    KeptA q (if c then a else b) := by
  split
  · exact ha
  · exact hb

theorem kept_ite_fst {α : Type} {q : List Instr} {c : Prop} [Decidable c] {a b : State × α} (ha : Kept q a.1) (hb : Kept q b.1) :
    Kept q (if c then a else b).1 := by
  split
  · exact ha
  · exact hb

theorem kept_ite_snd {α : Type} {q : List Instr} {c : Prop} [Decidable c] {a b : α × State} (ha : Kept q a.2) (hb : Kept q b.2) :
    Kept q (if c then a else b).2 := by
  split
  · exact ha
  · exact hb

theorem kept_fst_mk {α : Type} {q : List Instr} {a : State} {b : α} (h : Kept q a) : Kept q (a, b).1 := h

theorem kept_snd_mk {α : Type} {q : List Instr} {a : α} {b : State} (h : Kept q b) : Kept q (a, b).2 := h

/-! ### The keyed lists -/
theorem keysRise_mem {α : Type} {k : Nat} {b : α} {r : List (Nat × α)} (h : keysRise ((k, b) :: r) = true) :
    (∀ p ∈ r, k < p.1) ∧ keysRise r = true := by
  simpa [keysRise] using h

theorem keysRise_cons {α : Type} {k : Nat} {b : α} {r : List (Nat × α)} (h : ∀ p ∈ r, k < p.1) (hr : keysRise r = true) :
    keysRise ((k, b) :: r) = true := by
  simpa [keysRise, hr] using h

theorem mem_putKey {α : Type} {k : Nat} {a : α} {p : Nat × α} : ∀ {l : List (Nat × α)}, p ∈ putKey k a l → p = (k, a) ∨ p ∈ l
  | [], h => by simp only [putKey, List.mem_singleton] at h; exact .inl h
  | (j, b) :: r, h => by
    unfold putKey at h
    split at h
    · rcases List.mem_cons.1 h with h | h
      · exact .inl h
      · exact .inr h
    · split at h
      · rcases List.mem_cons.1 h with h | h
        · exact .inl h
        · exact .inr (List.mem_cons_of_mem _ h)
      · rcases List.mem_cons.1 h with h | h
        · exact .inr (h ▸ List.mem_cons_self)
        · rcases mem_putKey h with h | h
          · exact .inl h
          · exact .inr (List.mem_cons_of_mem _ h)

/-- Putting a pair keeps a keyed list canonical. -/
theorem keysRise_putKey {α : Type} (k : Nat) (a : α) : ∀ {l : List (Nat × α)}, keysRise l = true → keysRise (putKey k a l) = true
  | [], _ => rfl
  | (j, b) :: r, h => by
    obtain ⟨h1, h2⟩ := keysRise_mem h
    unfold putKey
    split
    · rename_i hk
      refine keysRise_cons (fun p hp => ?_) h
      rcases List.mem_cons.1 hp with hp | hp
      · subst hp; exact hk
      · exact Nat.lt_trans hk (h1 p hp)
    · split
      · rename_i hk; subst hk; exact keysRise_cons h1 h2
      · rename_i h3 h4
        refine keysRise_cons (fun p hp => ?_) (keysRise_putKey k a h2)
        rcases mem_putKey hp with hp | hp
        · subst hp; omega
        · exact h1 p hp

/-- Taking pairs out of a keyed list keeps it canonical. -/
theorem keysRise_filter {α : Type} (g : Nat × α → Bool) : ∀ {l : List (Nat × α)}, keysRise l = true → keysRise (l.filter g) = true
  | [], _ => rfl
  | (j, b) :: r, h => by
    obtain ⟨h1, h2⟩ := keysRise_mem h
    rw [List.filter_cons]
    split
    · exact keysRise_cons (fun p hp => h1 p (List.mem_filter.1 hp).1) (keysRise_filter g h2)
    · exact keysRise_filter g h2

theorem keysRise_delKey {α : Type} (k : Nat) {l : List (Nat × α)} (h : keysRise l = true) : keysRise (delKey k l) = true :=
  keysRise_filter _ h

/-- Putting several pairs keeps a keyed list canonical. -/
theorem keysRise_puts {α β : Type} (g : β → Nat) (v : β → α) : ∀ (l : List β) {b : List (Nat × α)}, keysRise b = true →
    keysRise (l.foldl (fun c i => putKey (g i) (v i) c) b) = true
  | [], _, h => h
  | i :: r, _, h => keysRise_puts g v r (keysRise_putKey (g i) (v i) h)

/-- What was put under a key is found under it. -/
theorem getKey_putKey {α : Type} (k : Nat) (a : α) : ∀ (l : List (Nat × α)), getKey k (putKey k a l) = some a
  | [] => by simp [putKey, getKey]
  | (j, b) :: r => by
    unfold putKey
    split
    · simp [getKey]
    · split
      · simp [getKey]
      · rename_i h3 h4
        have h5 : ¬ j = k := fun h => h4 h.symm
        have := getKey_putKey k a r
        simpa [getKey, h5] using this

theorem keysRise_of_listed {α : Type} [DecidableEq α] {z : α} {l : List (Nat × α)} (h : listed z l = true) : keysRise l = true := by
  simp only [listed, Bool.and_eq_true] at h
  exact h.1

theorem listed_filter {α : Type} [DecidableEq α] {z : α} (g : Nat × α → Bool) {l : List (Nat × α)} (h : listed z l = true) :
    listed z (l.filter g) = true := by
  simp only [listed, Bool.and_eq_true, List.all_eq_true] at h ⊢
  exact ⟨keysRise_filter _ h.1, fun p hp => h.2 p (List.mem_filter.1 hp).1⟩

theorem listed_delKey {α : Type} [DecidableEq α] {z : α} {k : Nat} {l : List (Nat × α)} (h : listed z l = true) :
    listed z (delKey k l) = true := listed_filter _ h

/-- A keyed list stays canonical where a value other than that of an unlisted key is put. -/
theorem listed_putKey {α : Type} [DecidableEq α] {z : α} {k : Nat} {a : α} {l : List (Nat × α)} (ha : a ≠ z) (h : listed z l = true) :
    listed z (putKey k a l) = true := by
  simp only [listed, Bool.and_eq_true, List.all_eq_true] at h ⊢
  refine ⟨keysRise_putKey _ _ h.1, fun p hp => ?_⟩
  rcases mem_putKey hp with hp | hp
  · subst hp; exact decide_eq_true ha
  · exact h.2 p hp

/-! ### The free store leaves the held buffers alone -/
theorem bufs_stackRefill (p : Pool) : (stackRefill p).bufs = p.bufs := by
  unfold stackRefill
  generalize ringTake 16 p.ring p.stack = r
  cases r
  rfl

theorem bufs_stackSpill (p : Pool) : (stackSpill p).bufs = p.bufs := by
  unfold stackSpill
  dsimp only

theorem bufs_stackPush (p : Pool) (i : Nat) : (stackPush p i).bufs = p.bufs := by
  unfold stackPush
  dsimp only
  rw [apply_ite Pool.bufs, bufs_stackSpill]
  exact ite_self _

theorem bufs_stackPop {p p' : Pool} {i : Nat} (h : stackPop p = some (i, p')) : p'.bufs = p.bufs := by
  unfold stackPop at h
  have hr : (if p.stack.isEmpty = true then stackRefill p else p).bufs = p.bufs := by
    rw [apply_ite Pool.bufs, bufs_stackRefill]
    exact ite_self _
  generalize (if p.stack.isEmpty = true then stackRefill p else p) = r at h hr
  dsimp only at h
  split at h
  · exact absurd h (by simp)
  · injection h with h
    injection h with _ h
    rw [← h]
    dsimp only
    exact hr

theorem kept_fields_put {q : List Instr} {u : State} {i : Nat} {b : Buf} (h : Kept q u) :
    KeptP q u.pending u.plat.gntBaseLo u.plat.penCtl u.plat.penDepth u.ecc.flipTarget u.ecc.flipAddr u.ecc.flipCheck
      u.ecc.scrubCtl u.ecc.strength u.ecc.vrate u.ecc.rawPage u.pwr.lossCfg u.pwr.gov.ctl u.pwr.gov.limit u.kpr.wdgCtl
      (putKey i b u.pool.bufs) u.mram.wear u.mram.strengthAt u.mram.raw u.ecc.sdram u.ecc.wrong u.servo.wgate u.servo.ldEn
      u.halt.inHalt :=
  { kept_fields h with held := keysRise_putKey _ _ h.held }

theorem kept_fields_del {q : List Instr} {u : State} {i : Nat} (h : Kept q u) :
    KeptP q u.pending u.plat.gntBaseLo u.plat.penCtl u.plat.penDepth u.ecc.flipTarget u.ecc.flipAddr u.ecc.flipCheck
      u.ecc.scrubCtl u.ecc.strength u.ecc.vrate u.ecc.rawPage u.pwr.lossCfg u.pwr.gov.ctl u.pwr.gov.limit u.kpr.wdgCtl
      (delKey i u.pool.bufs) u.mram.wear u.mram.strengthAt u.mram.raw u.ecc.sdram u.ecc.wrong u.servo.wgate u.servo.ldEn
      u.halt.inHalt :=
  { kept_fields h with held := keysRise_delKey _ h.held }

/-- A masked word has the bits outside its mask 0. -/
theorem and_and_zero {v a b : Word} (h : a &&& b = 0) : v &&& a &&& b = 0 := by
  rw [BitVec.and_assoc, h]
  exact BitVec.and_zero

theorem zeroed {v b : Word} (h : v = 0) : v &&& b = 0 := by
  rw [h]
  exact BitVec.zero_and

/-- Changing a bit outside a mask keeps the mask's bits 0. -/
theorem setBit_and_zero {w m : Word} {i : Nat} {b : Bool} (hm : ((1 : Word) <<< i) &&& m = 0) (h : w &&& m = 0) :
    setBit w i b &&& m = 0 := by
  unfold setBit
  split
  · rw [BitVec.and_comm, BitVec.and_or_distrib_left, BitVec.and_comm m w, BitVec.and_comm m _, h, hm]
    exact BitVec.or_zero
  · rw [BitVec.and_assoc, BitVec.and_comm _ m, ← BitVec.and_assoc, h]
    exact BitVec.zero_and

/-! ### The MRAM's keyed lists -/

/-- The MRAM's keyed lists are canonical. -/
structure MramOk (m : Mram) : Prop where
  wear : keysRise m.wear = true
  strengthAt : keysRise m.strengthAt = true
  raw : keysRise m.raw = true

theorem Kept.mram {q : List Instr} {u : State} (h : Kept q u) : MramOk u.mram := ⟨h.worn, h.strong, h.raws⟩

theorem kept_mram {q : List Instr} {u : State} {m : Mram} (h : Kept q u) (hm : MramOk m) :
    KeptP q u.pending u.plat.gntBaseLo u.plat.penCtl u.plat.penDepth u.ecc.flipTarget u.ecc.flipAddr u.ecc.flipCheck
      u.ecc.scrubCtl u.ecc.strength u.ecc.vrate u.ecc.rawPage u.pwr.lossCfg u.pwr.gov.ctl u.pwr.gov.limit u.kpr.wdgCtl
      u.pool.bufs m.wear m.strengthAt m.raw u.ecc.sdram u.ecc.wrong u.servo.wgate u.servo.ldEn u.halt.inHalt :=
  { kept_fields h with worn := hm.wear, strong := hm.strengthAt, raws := hm.raw }

theorem mramOk_wearUp {m : Mram} {p : Nat} (h : MramOk m) : MramOk (wearUp m p) :=
  ⟨keysRise_putKey _ _ h.wear, h.strengthAt, h.raw⟩

theorem mramOk_spendTokens {m : Mram} {b : Bucket} {n : Nat} (h : MramOk m) : MramOk (spendTokens m b n) := by
  unfold spendTokens
  split
  · split
    · exact ⟨h.wear, h.strengthAt, h.raw⟩
    · exact h
  · exact ⟨h.wear, h.strengthAt, h.raw⟩

theorem mramOk_putProg {m : Mram} {old : Prog} {new : Option Prog} (h : MramOk m) : MramOk (putProg m old new) :=
  ⟨h.wear, h.strengthAt, h.raw⟩

theorem mramOk_wantRefresh {m : Mram} {p : Nat} (h : MramOk m) : MramOk (wantRefresh m p) := by
  unfold wantRefresh
  split
  · exact h
  · exact ⟨h.wear, h.strengthAt, h.raw⟩

theorem mramOk_foldl {α : Type} {g : Mram → α → Mram} (hg : ∀ (m : Mram) (a : α), MramOk m → MramOk (g m a)) :
    ∀ (l : List α) {m : Mram}, MramOk m → MramOk (l.foldl g m)
  | [], _, h => h
  | a :: r, _, h => mramOk_foldl hg r (hg _ a h)

theorem mramOk_clearHead {m : Mram} {l : List Nat} (h : MramOk m) : MramOk (clearHead m l) := by
  unfold clearHead
  split
  · exact ⟨(mramOk_wearUp h).wear, h.strengthAt, h.raw⟩
  · exact h

theorem mramOk_setFound {m : Mram} {p : Nat} {x : DecodeBits} (h : MramOk m) : MramOk (setFound m p x) :=
  ⟨h.wear, h.strengthAt, h.raw⟩

theorem mramOk_commitRecord {m : Mram} {q : Prog} (h : MramOk m) : MramOk (commitRecord m q) := by
  have hw : ∀ (m : Mram) (l : List (List Nat)), MramOk m → MramOk (l.foldl clearHead m) :=
    fun m l hm => mramOk_foldl (fun _ _ ht => mramOk_clearHead ht) l hm
  unfold commitRecord
  dsimp only
  split
  · have h3 := mramOk_clearHead (l := q.used) (hw m ((m.recs.filter (fun r => r.region == q.region && r.id == q.id) ++
      m.prev.filter fun r => r.region == q.region && r.id == q.id).map (·.pages)) h)
    exact ⟨h3.wear, h3.strengthAt, h3.raw⟩
  · have h3 := hw m ((if q.region = 3 then m.recs.filter fun r => r.region == q.region && r.id == q.id
      else m.prev.filter fun r => r.region == q.region && r.id == q.id).map (·.pages)) h
    exact ⟨h3.wear, h3.strengthAt, h3.raw⟩

theorem mramOk_pageLost {m : Mram} {p : Nat} (h : MramOk m) : MramOk (pageLost m p).1 := by
  unfold pageLost
  repeat' split
  all_goals exact ⟨h.wear, h.strengthAt, h.raw⟩

theorem kept_setMram {q : List Instr} {u : State} {m : Mram} (h : Kept q u) (hm : MramOk m) : Kept q { u with mram := m } :=
  kept_of { kept_fields h with worn := hm.wear, strong := hm.strengthAt, raws := hm.raw }

theorem kept_some {α : Type} {q : List Instr} {a : α} {t : State} (h : Kept q t) : ∀ r, some (a, t) = some r → Kept q r.2 := by
  intro r hr
  injection hr with hr
  rw [← hr]
  exact h

/-! ### The keeper's control word stands while time passes -/
theorem wdgCtl_calAdvance : ∀ (n : Nat) (k : Keeper), (calAdvance n k).wdgCtl = k.wdgCtl
  | 0, _ => rfl
  | n + 1, k => by
    unfold calAdvance
    split
    · exact wdgCtl_calAdvance n _
    · split
      · rfl
      · exact wdgCtl_calAdvance n _

theorem wdgCtl_slewTick (k : Keeper) : (slewTick k).2.wdgCtl = k.wdgCtl := by
  unfold slewTick
  repeat' split
  all_goals rfl

/-- The governor's registers at their reset values. -/
theorem kept_fields_gov {q : List Instr} {u : State} (h : Kept q u) :
    KeptP q u.pending u.plat.gntBaseLo u.plat.penCtl u.plat.penDepth u.ecc.flipTarget u.ecc.flipAddr u.ecc.flipCheck
      u.ecc.scrubCtl u.ecc.strength u.ecc.vrate u.ecc.rawPage u.pwr.lossCfg 0x32040C01 0x3200 u.kpr.wdgCtl
      u.pool.bufs u.mram.wear u.mram.strengthAt u.mram.raw u.ecc.sdram u.ecc.wrong u.servo.wgate u.servo.ldEn
      u.halt.inHalt :=
  { kept_fields h with govC := by decide, govL := by decide }

/-- The flip test disarmed. -/
theorem kept_fields_unarmed {q : List Instr} {u : State} (h : Kept q u) :
    KeptP q u.pending u.plat.gntBaseLo u.plat.penCtl u.plat.penDepth 0 u.ecc.flipAddr u.ecc.flipCheck
      u.ecc.scrubCtl u.ecc.strength u.ecc.vrate u.ecc.rawPage u.pwr.lossCfg u.pwr.gov.ctl u.pwr.gov.limit u.kpr.wdgCtl
      u.pool.bufs u.mram.wear u.mram.strengthAt u.mram.raw u.ecc.sdram u.ecc.wrong u.servo.wgate u.servo.ldEn
      u.halt.inHalt :=
  { kept_fields h with target := by decide }

/-- The grant table's base cleared. -/
theorem kept_fields_noTable {q : List Instr} {u : State} (h : Kept q u) :
    KeptP q u.pending 0 u.plat.penCtl u.plat.penDepth u.ecc.flipTarget u.ecc.flipAddr u.ecc.flipCheck
      u.ecc.scrubCtl u.ecc.strength u.ecc.vrate u.ecc.rawPage u.pwr.lossCfg u.pwr.gov.ctl u.pwr.gov.limit u.kpr.wdgCtl
      u.pool.bufs u.mram.wear u.mram.strengthAt u.mram.raw u.ecc.sdram u.ecc.wrong u.servo.wgate u.servo.ldEn
      u.halt.inHalt :=
  { kept_fields h with gntBase := by decide }

/-- HALT released. -/
theorem kept_fields_release {q : List Instr} {u : State} (h : Kept q u) :
    KeptP q u.pending u.plat.gntBaseLo u.plat.penCtl u.plat.penDepth u.ecc.flipTarget u.ecc.flipAddr u.ecc.flipCheck
      u.ecc.scrubCtl u.ecc.strength u.ecc.vrate u.ecc.rawPage u.pwr.lossCfg u.pwr.gov.ctl u.pwr.gov.limit u.kpr.wdgCtl
      u.pool.bufs u.mram.wear u.mram.strengthAt u.mram.raw u.ecc.sdram u.ecc.wrong u.servo.wgate u.servo.ldEn false :=
  { kept_fields h with halted := fun hf => absurd hf (by simp) }

/-- A servo whose gate and laser enable are as before. -/
theorem kept_setServo {q : List Instr} {u : State} {v : Servo} (h : Kept q u) (hw : v.wgate = u.servo.wgate)
    (hl : v.ldEn = u.servo.ldEn) : Kept q { u with servo := v } :=
  kept_of { kept_fields h with
    gate := fun hg => hl.trans (h.gate (hw.symm.trans hg))
    halted := fun hh => hl.trans (h.halted hh) }

end Sys2Proof.Machine
end

