-- ==== Sys2Proof/Laws/Beside.lean ====
section
/-! SUPPORT. Laws/Beside.lean: what posting an event,
    completing a descriptor and giving back buffers leave alone. `Beside v s` says
that s differs from v at most in the folds, the pool, the pen, the quiet instant, the log and the output. -/
namespace Sys2Proof.Machine

/-- The parts of a state that completions and events do not touch. -/
structure Beside (v s : State) : Prop where
  pending_eq : s.pending = v.pending
  us_eq : s.us = v.us
  phase_eq : s.phase = v.phase
  draws_eq : s.draws = v.draws
  plat_eq : s.plat = v.plat
  cache_eq : s.cache = v.cache
  cap_eq : s.cap = v.cap
  ecc_eq : s.ecc = v.ecc
  mram_eq : s.mram = v.mram
  cph_eq : s.cph = v.cph
  servo_eq : s.servo = v.servo
  spindle_eq : s.spindle = v.spindle
  sled_eq : s.sled = v.sled
  loader_eq : s.loader = v.loader
  chan_eq : s.chan = v.chan
  recd_eq : s.recd = v.recd
  disc_eq : s.disc = v.disc
  job_eq : s.job = v.job
  drover_eq : s.drover = v.drover
  halt_eq : s.halt = v.halt
  pwr_eq : s.pwr = v.pwr
  kpr_eq : s.kpr = v.kpr
  sys_eq : ({ s.sys with quietSince := 0 } : Sys) = { v.sys with quietSince := 0 }

theorem beside_rfl {v : State} : Beside v v := ⟨rfl, rfl, rfl, rfl, rfl, rfl, rfl, rfl, rfl, rfl, rfl, rfl, rfl, rfl, rfl,
    rfl, rfl, rfl, rfl, rfl, rfl, rfl, rfl⟩

theorem beside_trans {u v s : State} (h : Beside u v) (g : Beside v s) : Beside u s :=
  ⟨g.pending_eq.trans h.pending_eq, g.us_eq.trans h.us_eq, g.phase_eq.trans h.phase_eq, g.draws_eq.trans h.draws_eq,
    g.plat_eq.trans h.plat_eq, g.cache_eq.trans h.cache_eq, g.cap_eq.trans h.cap_eq, g.ecc_eq.trans h.ecc_eq,
    g.mram_eq.trans h.mram_eq, g.cph_eq.trans h.cph_eq, g.servo_eq.trans h.servo_eq, g.spindle_eq.trans h.spindle_eq,
    g.sled_eq.trans h.sled_eq, g.loader_eq.trans h.loader_eq, g.chan_eq.trans h.chan_eq, g.recd_eq.trans h.recd_eq,
    g.disc_eq.trans h.disc_eq, g.job_eq.trans h.job_eq, g.drover_eq.trans h.drover_eq, g.halt_eq.trans h.halt_eq,
    g.pwr_eq.trans h.pwr_eq, g.kpr_eq.trans h.kpr_eq, g.sys_eq.trans h.sys_eq⟩

/-- The facts of `Beside` over the bare fields. -/
structure BesideP (v : State) (pending : List Instr) (us : Nat) (phase : Nat) (draws : Nat) (plat : Plat) (cache : Cache)
    (cap : Capture) (ecc : Ecc) (mram : Mram) (cph : Cph) (servo : Servo) (spindle : Spindle) (sled : Sled)
    (loader : Loader) (chan : Channel) (recd : Recording) (disc : Option DiscInfo) (job : Option Job) (drover : Drover)
    (halt : Halt) (pwr : Power) (kpr : Keeper) (sys : Sys) : Prop where
  pending_eq : pending = v.pending
  us_eq : us = v.us
  phase_eq : phase = v.phase
  draws_eq : draws = v.draws
  plat_eq : plat = v.plat
  cache_eq : cache = v.cache
  cap_eq : cap = v.cap
  ecc_eq : ecc = v.ecc
  mram_eq : mram = v.mram
  cph_eq : cph = v.cph
  servo_eq : servo = v.servo
  spindle_eq : spindle = v.spindle
  sled_eq : sled = v.sled
  loader_eq : loader = v.loader
  chan_eq : chan = v.chan
  recd_eq : recd = v.recd
  disc_eq : disc = v.disc
  job_eq : job = v.job
  drover_eq : drover = v.drover
  halt_eq : halt = v.halt
  pwr_eq : pwr = v.pwr
  kpr_eq : kpr = v.kpr
  sys_eq : sys = { v.sys with quietSince := 0 }

theorem beside_of {v s : State} (h : BesideP v s.pending s.us s.phase s.draws s.plat s.cache s.cap s.ecc s.mram s.cph
    s.servo s.spindle s.sled s.loader s.chan s.recd s.disc s.job s.drover s.halt s.pwr s.kpr {
    s.sys with quietSince := 0 }) : Beside v s :=
  ⟨h.pending_eq, h.us_eq, h.phase_eq, h.draws_eq, h.plat_eq, h.cache_eq, h.cap_eq, h.ecc_eq, h.mram_eq, h.cph_eq,
    h.servo_eq, h.spindle_eq, h.sled_eq, h.loader_eq, h.chan_eq, h.recd_eq, h.disc_eq, h.job_eq, h.drover_eq, h.halt_eq,
    h.pwr_eq, h.kpr_eq, h.sys_eq⟩

theorem beside_fields {v u : State} (h : Beside v u) : BesideP v u.pending u.us u.phase u.draws u.plat u.cache u.cap u.ecc
    u.mram u.cph u.servo u.spindle u.sled u.loader u.chan u.recd u.disc u.job u.drover u.halt u.pwr u.kpr {
    u.sys with quietSince := 0 } :=
  ⟨h.pending_eq, h.us_eq, h.phase_eq, h.draws_eq, h.plat_eq, h.cache_eq, h.cap_eq, h.ecc_eq, h.mram_eq, h.cph_eq,
    h.servo_eq, h.spindle_eq, h.sled_eq, h.loader_eq, h.chan_eq, h.recd_eq, h.disc_eq, h.job_eq, h.drover_eq, h.halt_eq,
    h.pwr_eq, h.kpr_eq, h.sys_eq⟩

theorem beside_ite {v : State} {c : Prop} [Decidable c] {a b : State} (ha : Beside v a) (hb : Beside v b) :
    Beside v (if c then a else b) := by
  split
  · exact ha
  · exact hb

theorem beside_foldl {α : Type} {v : State} {g : State → α → State} (hg : ∀ (t : State) (a : α), Beside v t → Beside v
    (g t a)) :
    ∀ (l : List α) {s : State}, Beside v s → Beside v (l.foldl g s)
  | [], _, h => h
  | a :: r, _, h => beside_foldl hg r (hg _ a h)

theorem beside_emit {base : State} {s : State} {o : Out} (h : Beside base s) :
    Beside base (State.emit s o) := by
  unfold State.emit
  refine beside_of ?_
  dsimp -failIfUnchanged only
  refine beside_fields ?_
  exact h

theorem beside_setFold {base : State} {s : State} {f : FoldId} {x : Fold} (h : Beside base s) :
    Beside base (State.setFold s f x) := by
  unfold State.setFold
  refine beside_of ?_
  dsimp -failIfUnchanged only
  refine beside_fields ?_
  exact h

theorem beside_logStage {base : State} {s : State} {code : Nat} {detail : Word} {fold : Nat} {extra : Nat} (h : Beside base s) :
    Beside base (logStage s code detail fold extra) := by
  unfold logStage
  refine beside_ite ?_ ?_
  · exact h
  · refine beside_ite ?_ ?_
    · refine beside_of ?_
      dsimp -failIfUnchanged only
      refine beside_fields ?_
      exact h
    · refine beside_of ?_
      dsimp -failIfUnchanged only
      refine beside_fields ?_
      exact h

theorem beside_modFold {base : State} {s : State} {f : FoldId} {g : Fold → Fold} (h : Beside base s) :
    Beside base (State.modFold s f g) := by
  unfold State.modFold
  refine beside_setFold ?_
  exact h

theorem beside_modWring {base : State} {s : State} {f : FoldId} {n : RingId} {g : Wring → Wring} (h : Beside base s) :
    Beside base (State.modWring s f n g) := by
  unfold State.modWring
  refine beside_modFold ?_
  exact h

theorem beside_sendMsix {base : State} {s : State} {f : FoldId} {v : Fin 8} (h : Beside base s) :
    Beside base (sendMsix s f v) := by
  unfold sendMsix
  refine beside_ite ?_ ?_
  · exact h
  · refine beside_ite ?_ ?_
    · refine beside_modFold ?_
      exact h
    · refine beside_emit ?_
      exact h

theorem beside_modDbp {base : State} {s : State} {f : FoldId} {g : Doorbell → Doorbell} (h : Beside base s) :
    Beside base (State.modDbp s f g) := by
  unfold State.modDbp
  refine beside_modFold ?_
  exact h

theorem beside_modDesc {base : State} {s : State} {f : FoldId} {k : Nat} {g : Desc → Desc} (h : Beside base s) :
    Beside base (State.modDesc s f k g) := by
  unfold State.modDesc
  refine beside_modFold ?_
  exact h

theorem beside_modDring {base : State} {s : State} {f : FoldId} {m : DringId} {g : Dring → Dring} (h : Beside base s) :
    Beside base (State.modDring s f m g) := by
  unfold State.modDring
  refine beside_modFold ?_
  exact h

theorem beside_releaseIndexGo {base : State} {s : State} {i : Nat} (h : Beside base s) :
    ∀ {l : List (FoldId × Nat)}, Beside base (releaseIndexGo s i l)
  | [] => by
    unfold releaseIndexGo
    exact beside_of (beside_fields (u := s) h)
  | (f, k) :: r => by
    unfold releaseIndexGo
    split
    · split
      · exact beside_of (beside_fields (u := s) h)
      · exact beside_releaseIndexGo h
    · exact beside_releaseIndexGo h

theorem beside_signalRing {base : State} {s : State} {f : FoldId} {m : DringId} (h : Beside base s) :
    Beside base (signalRing s f m) := by
  unfold signalRing
  refine beside_sendMsix ?_
  refine beside_modDring ?_
  exact h

theorem beside_statusBlock {base : State} {s : State} {f : FoldId} (h : Beside base s) :
    Beside base (statusBlock s f) := by
  unfold statusBlock
  refine beside_ite ?_ ?_
  · refine beside_modDbp ?_
    refine beside_emit ?_
    exact h
  · exact h

theorem beside_notePending {base : State} {s : State} {f : FoldId} {m : DringId} {irq : Bool} (h : Beside base s) :
    Beside base (notePending s f m irq) := by
  unfold notePending
  refine beside_ite ?_ ?_
  · refine beside_signalRing ?_
    refine beside_modDring ?_
    exact h
  · refine beside_modDring ?_
    exact h

theorem beside_releaseIndex {base : State} {s : State} {i : Nat} (h : Beside base s) :
    Beside base (releaseIndex s i) := by
  unfold releaseIndex
  refine beside_releaseIndexGo ?_
  exact h

theorem beside_freeBuf {base : State} {s : State} {i : Nat} (h : Beside base s) :
    Beside base (freeBuf s i) := by
  unfold freeBuf
  split
  · exact h
  · refine beside_releaseIndex ?_
    refine beside_of ?_
    dsimp -failIfUnchanged only
    refine beside_fields ?_
    exact h

theorem beside_dropHold {base : State} {s : State} {i : Nat} (h : Beside base s) :
    Beside base (dropHold s i) := by
  unfold dropHold
  split
  · exact h
  · refine beside_ite ?_ ?_
    · refine beside_freeBuf ?_
      exact h
    · refine beside_of ?_
      dsimp -failIfUnchanged only
      refine beside_fields ?_
      exact h

theorem beside_releasePin {base : State} {s : State} {p : Pin} (h : Beside base s) :
    Beside base (releasePin s p) := by
  unfold releasePin
  split
  · refine beside_dropHold ?_
    exact h
  · split
    · exact h
    · refine beside_ite ?_ ?_
      · refine beside_of ?_
        dsimp -failIfUnchanged only
        refine beside_fields ?_
        refine beside_freeBuf ?_
        exact h
      · refine beside_dropHold ?_
        exact h

theorem beside_releaseHoldings {base : State} {s : State} {f : FoldId} {d : Desc} (h : Beside base s) :
    Beside base (releaseHoldings s f d) := by
  unfold releaseHoldings
  refine beside_foldl (fun t4 _ ht4 => ?_) _ ?_
  · refine beside_releasePin ?_
    exact ht4
  · refine beside_foldl (fun t6 _ ht6 => ?_) _ ?_
    · refine beside_freeBuf ?_
      exact ht6
    · refine beside_foldl (fun t8 _ ht8 => ?_) _ ?_
      · refine beside_releaseIndex ?_
        exact ht8
      · refine beside_modDesc ?_
        refine beside_of ?_
        dsimp -failIfUnchanged only
        refine beside_fields ?_
        exact h

theorem beside_retire {base : State} {s : State} {f : FoldId} {k : Nat} {c : Completion} (h : Beside base s) :
    Beside base (retire s f k c) := by
  unfold retire
  split
  · exact h
  · refine beside_modFold ?_
    refine beside_modWring ?_
    refine beside_of ?_
    dsimp -failIfUnchanged only
    refine beside_fields ?_
    dsimp -failIfUnchanged only
    split
    · refine beside_modFold ?_
      refine beside_releaseHoldings ?_
      exact h
    · refine beside_releaseHoldings ?_
      exact h

theorem beside_writeItem {base : State} {s : State} {f : FoldId} {m : DringId} {it : Item} (h : Beside base s) :
    Beside base (writeItem s f m it) := by
  unfold writeItem
  dsimp -failIfUnchanged only
  split
  · refine beside_retire ?_
    refine beside_notePending ?_
    refine beside_modDbp ?_
    refine beside_modDring ?_
    refine beside_emit ?_
    exact h
  · refine beside_notePending ?_
    refine beside_modDbp ?_
    refine beside_modDring ?_
    refine beside_emit ?_
    exact h

theorem beside_discardHeld {base : State} {s : State} {f : FoldId} {m : DringId} (h : Beside base s) :
    Beside base (discardHeld s f m) := by
  unfold discardHeld
  refine beside_foldl (fun t1 _ ht1 => ?_) _ ?_
  · dsimp -failIfUnchanged only
    split
    · refine beside_retire ?_
      exact ht1
    · exact ht1
  · refine beside_modDring ?_
    exact h

theorem beside_drainHeldGo {base : State} {f : FoldId} {m : DringId} : ∀ {n : Nat} {s : State}, Beside base s → Beside base
    (drainHeldGo n s f m)
  | 0, _, h => h
  | n + 1, s, h => by
    unfold drainHeldGo
    split
    · exact h
    · exact beside_ite (beside_drainHeldGo (n := n) (beside_writeItem (beside_modDring h))) h

theorem beside_postItem {base : State} {s : State} {f : FoldId} {m : DringId} {it : Item} (h : Beside base s) :
    Beside base (postItem s f m it) := by
  unfold postItem
  refine beside_ite ?_ ?_
  · refine beside_writeItem ?_
    exact h
  · dsimp -failIfUnchanged only
    split
    · refine beside_ite ?_ ?_
      · refine beside_modDring ?_
        exact h
      · refine beside_modDring ?_
        exact h
    · refine beside_modDesc ?_
      refine beside_modDring ?_
      exact h

theorem beside_postEventTo {base : State} {s : State} {f : FoldId} {code : Nat} {dw2 : Word} (h : Beside base s) :
    Beside base (postEventTo s f code dw2) := by
  unfold postEventTo
  refine beside_ite ?_ ?_
  · refine beside_postItem ?_
    exact h
  · exact h

theorem beside_logNote {base : State} {s : State} {code : Nat} {detail : Word} {fold : Nat} {extra : Nat} (h : Beside base s) :
    Beside base (logNote s code detail fold extra) := by
  unfold logNote
  refine beside_ite ?_ ?_
  · refine beside_logStage ?_
    exact h
  · refine beside_logStage ?_
    refine beside_postEventTo ?_
    refine beside_logStage ?_
    refine beside_of ?_
    dsimp -failIfUnchanged only
    refine beside_fields ?_
    exact h

theorem beside_pageFault {base : State} {s : State} {f : FoldId} (h : Beside base s) :
    Beside base (pageFault s f) := by
  unfold pageFault
  refine beside_statusBlock ?_
  refine beside_foldl (fun t6 _ ht6 => ?_) _ ?_
  · refine beside_ite ?_ ?_
    · refine beside_discardHeld ?_
      exact ht6
    · exact ht6
  · refine beside_modFold ?_
    refine beside_ite ?_ ?_
    · refine beside_writeItem ?_
      refine beside_ite ?_ ?_
      · refine beside_logNote ?_
        exact h
      · exact h
    · refine beside_ite ?_ ?_
      · refine beside_logNote ?_
        exact h
      · exact h

theorem beside_postEvent {base : State} {s : State} {f : FoldId} {code : Nat} {dw2 : Word} (h : Beside base s) :
    Beside base (postEvent s f code dw2) := by
  unfold postEvent
  refine beside_postEventTo ?_
  refine beside_ite ?_ ?_
  · refine beside_logNote ?_
    exact h
  · exact h

theorem beside_reportLost {base : State} {s : State} {f : FoldId} (h : Beside base s) :
    Beside base (reportLost s f) := by
  unfold reportLost
  refine beside_ite ?_ ?_
  · exact h
  · refine beside_postEvent ?_
    refine beside_modDring ?_
    exact h

theorem beside_wringError {base : State} {s : State} {f : FoldId} {n : RingId} {code : Nat} (h : Beside base s) :
    Beside base (wringError s f n code) := by
  unfold wringError
  refine beside_postEvent ?_
  refine beside_statusBlock ?_
  refine beside_modWring ?_
  exact h

theorem beside_broadcast {base : State} {s : State} {code : Nat} {dw2 : Word} (h : Beside base s) :
    Beside base (broadcast s code dw2) := by
  unfold broadcast
  refine beside_foldl (fun t0 _ ht0 => ?_) _ ?_
  · refine beside_postEventTo ?_
    exact ht0
  · refine beside_logNote ?_
    exact h

theorem beside_drainHeld {base : State} {s : State} {f : FoldId} {m : DringId} (h : Beside base s) :
    Beside base (drainHeld s f m) := by
  unfold drainHeld
  refine beside_ite ?_ ?_
  · refine beside_reportLost ?_
    refine beside_drainHeldGo ?_
    exact h
  · refine beside_drainHeldGo ?_
    exact h

theorem beside_dringError {base : State} {s : State} {f : FoldId} {m : DringId} {code : Nat} (h : Beside base s) :
    Beside base (dringError s f m code) := by
  unfold dringError
  refine beside_postEvent ?_
  refine beside_statusBlock ?_
  refine beside_discardHeld ?_
  refine beside_modDring ?_
  exact h

end Sys2Proof.Machine
end

