-- ==== Sys2Proof/Laws/State.lean ====
section
/-! SUPPORT. Laws/State.lean: what each update of State leaves: one lemma a field, true by rfl, so that no proof unfolds a record
update. -/
namespace Sys2Proof.Machine

@[simp] theorem setFold_pending (s : State) (f : FoldId) (x : Fold) : (s.setFold f x).pending = s.pending := rfl
@[simp] theorem setFold_us (s : State) (f : FoldId) (x : Fold) : (s.setFold f x).us = s.us := rfl
@[simp] theorem setFold_phase (s : State) (f : FoldId) (x : Fold) : (s.setFold f x).phase = s.phase := rfl
@[simp] theorem setFold_draws (s : State) (f : FoldId) (x : Fold) : (s.setFold f x).draws = s.draws := rfl
@[simp] theorem setFold_plat (s : State) (f : FoldId) (x : Fold) : (s.setFold f x).plat = s.plat := rfl
@[simp] theorem setFold_pool (s : State) (f : FoldId) (x : Fold) : (s.setFold f x).pool = s.pool := rfl
@[simp] theorem setFold_pen (s : State) (f : FoldId) (x : Fold) : (s.setFold f x).pen = s.pen := rfl
@[simp] theorem setFold_cache (s : State) (f : FoldId) (x : Fold) : (s.setFold f x).cache = s.cache := rfl
@[simp] theorem setFold_cap (s : State) (f : FoldId) (x : Fold) : (s.setFold f x).cap = s.cap := rfl
@[simp] theorem setFold_ecc (s : State) (f : FoldId) (x : Fold) : (s.setFold f x).ecc = s.ecc := rfl
@[simp] theorem setFold_mram (s : State) (f : FoldId) (x : Fold) : (s.setFold f x).mram = s.mram := rfl
@[simp] theorem setFold_cph (s : State) (f : FoldId) (x : Fold) : (s.setFold f x).cph = s.cph := rfl
@[simp] theorem setFold_servo (s : State) (f : FoldId) (x : Fold) : (s.setFold f x).servo = s.servo := rfl
@[simp] theorem setFold_spindle (s : State) (f : FoldId) (x : Fold) : (s.setFold f x).spindle = s.spindle := rfl
@[simp] theorem setFold_sled (s : State) (f : FoldId) (x : Fold) : (s.setFold f x).sled = s.sled := rfl
@[simp] theorem setFold_loader (s : State) (f : FoldId) (x : Fold) : (s.setFold f x).loader = s.loader := rfl
@[simp] theorem setFold_chan (s : State) (f : FoldId) (x : Fold) : (s.setFold f x).chan = s.chan := rfl
@[simp] theorem setFold_recd (s : State) (f : FoldId) (x : Fold) : (s.setFold f x).recd = s.recd := rfl
@[simp] theorem setFold_disc (s : State) (f : FoldId) (x : Fold) : (s.setFold f x).disc = s.disc := rfl
@[simp] theorem setFold_job (s : State) (f : FoldId) (x : Fold) : (s.setFold f x).job = s.job := rfl
@[simp] theorem setFold_drover (s : State) (f : FoldId) (x : Fold) : (s.setFold f x).drover = s.drover := rfl
@[simp] theorem setFold_halt (s : State) (f : FoldId) (x : Fold) : (s.setFold f x).halt = s.halt := rfl
@[simp] theorem setFold_pwr (s : State) (f : FoldId) (x : Fold) : (s.setFold f x).pwr = s.pwr := rfl
@[simp] theorem setFold_kpr (s : State) (f : FoldId) (x : Fold) : (s.setFold f x).kpr = s.kpr := rfl
@[simp] theorem setFold_log (s : State) (f : FoldId) (x : Fold) : (s.setFold f x).log = s.log := rfl
@[simp] theorem setFold_sys (s : State) (f : FoldId) (x : Fold) : (s.setFold f x).sys = s.sys := rfl
@[simp] theorem setFold_out (s : State) (f : FoldId) (x : Fold) : (s.setFold f x).out = s.out := rfl

@[simp] theorem modFold_pending (s : State) (f : FoldId) (g : Fold → Fold) : (s.modFold f g).pending = s.pending := rfl
@[simp] theorem modFold_us (s : State) (f : FoldId) (g : Fold → Fold) : (s.modFold f g).us = s.us := rfl
@[simp] theorem modFold_phase (s : State) (f : FoldId) (g : Fold → Fold) : (s.modFold f g).phase = s.phase := rfl
@[simp] theorem modFold_draws (s : State) (f : FoldId) (g : Fold → Fold) : (s.modFold f g).draws = s.draws := rfl
@[simp] theorem modFold_plat (s : State) (f : FoldId) (g : Fold → Fold) : (s.modFold f g).plat = s.plat := rfl
@[simp] theorem modFold_pool (s : State) (f : FoldId) (g : Fold → Fold) : (s.modFold f g).pool = s.pool := rfl
@[simp] theorem modFold_pen (s : State) (f : FoldId) (g : Fold → Fold) : (s.modFold f g).pen = s.pen := rfl
@[simp] theorem modFold_cache (s : State) (f : FoldId) (g : Fold → Fold) : (s.modFold f g).cache = s.cache := rfl
@[simp] theorem modFold_cap (s : State) (f : FoldId) (g : Fold → Fold) : (s.modFold f g).cap = s.cap := rfl
@[simp] theorem modFold_ecc (s : State) (f : FoldId) (g : Fold → Fold) : (s.modFold f g).ecc = s.ecc := rfl
@[simp] theorem modFold_mram (s : State) (f : FoldId) (g : Fold → Fold) : (s.modFold f g).mram = s.mram := rfl
@[simp] theorem modFold_cph (s : State) (f : FoldId) (g : Fold → Fold) : (s.modFold f g).cph = s.cph := rfl
@[simp] theorem modFold_servo (s : State) (f : FoldId) (g : Fold → Fold) : (s.modFold f g).servo = s.servo := rfl
@[simp] theorem modFold_spindle (s : State) (f : FoldId) (g : Fold → Fold) : (s.modFold f g).spindle = s.spindle := rfl
@[simp] theorem modFold_sled (s : State) (f : FoldId) (g : Fold → Fold) : (s.modFold f g).sled = s.sled := rfl
@[simp] theorem modFold_loader (s : State) (f : FoldId) (g : Fold → Fold) : (s.modFold f g).loader = s.loader := rfl
@[simp] theorem modFold_chan (s : State) (f : FoldId) (g : Fold → Fold) : (s.modFold f g).chan = s.chan := rfl
@[simp] theorem modFold_recd (s : State) (f : FoldId) (g : Fold → Fold) : (s.modFold f g).recd = s.recd := rfl
@[simp] theorem modFold_disc (s : State) (f : FoldId) (g : Fold → Fold) : (s.modFold f g).disc = s.disc := rfl
@[simp] theorem modFold_job (s : State) (f : FoldId) (g : Fold → Fold) : (s.modFold f g).job = s.job := rfl
@[simp] theorem modFold_drover (s : State) (f : FoldId) (g : Fold → Fold) : (s.modFold f g).drover = s.drover := rfl
@[simp] theorem modFold_halt (s : State) (f : FoldId) (g : Fold → Fold) : (s.modFold f g).halt = s.halt := rfl
@[simp] theorem modFold_pwr (s : State) (f : FoldId) (g : Fold → Fold) : (s.modFold f g).pwr = s.pwr := rfl
@[simp] theorem modFold_kpr (s : State) (f : FoldId) (g : Fold → Fold) : (s.modFold f g).kpr = s.kpr := rfl
@[simp] theorem modFold_log (s : State) (f : FoldId) (g : Fold → Fold) : (s.modFold f g).log = s.log := rfl
@[simp] theorem modFold_sys (s : State) (f : FoldId) (g : Fold → Fold) : (s.modFold f g).sys = s.sys := rfl
@[simp] theorem modFold_out (s : State) (f : FoldId) (g : Fold → Fold) : (s.modFold f g).out = s.out := rfl

@[simp] theorem modWring_pending (s : State) (f : FoldId) (n : RingId) (g : Wring → Wring) : (s.modWring f n g).pending = s.pending := rfl
@[simp] theorem modWring_us (s : State) (f : FoldId) (n : RingId) (g : Wring → Wring) : (s.modWring f n g).us = s.us := rfl
@[simp] theorem modWring_phase (s : State) (f : FoldId) (n : RingId) (g : Wring → Wring) : (s.modWring f n g).phase = s.phase := rfl
@[simp] theorem modWring_draws (s : State) (f : FoldId) (n : RingId) (g : Wring → Wring) : (s.modWring f n g).draws = s.draws := rfl
@[simp] theorem modWring_plat (s : State) (f : FoldId) (n : RingId) (g : Wring → Wring) : (s.modWring f n g).plat = s.plat := rfl
@[simp] theorem modWring_pool (s : State) (f : FoldId) (n : RingId) (g : Wring → Wring) : (s.modWring f n g).pool = s.pool := rfl
@[simp] theorem modWring_pen (s : State) (f : FoldId) (n : RingId) (g : Wring → Wring) : (s.modWring f n g).pen = s.pen := rfl
@[simp] theorem modWring_cache (s : State) (f : FoldId) (n : RingId) (g : Wring → Wring) : (s.modWring f n g).cache = s.cache := rfl
@[simp] theorem modWring_cap (s : State) (f : FoldId) (n : RingId) (g : Wring → Wring) : (s.modWring f n g).cap = s.cap := rfl
@[simp] theorem modWring_ecc (s : State) (f : FoldId) (n : RingId) (g : Wring → Wring) : (s.modWring f n g).ecc = s.ecc := rfl
@[simp] theorem modWring_mram (s : State) (f : FoldId) (n : RingId) (g : Wring → Wring) : (s.modWring f n g).mram = s.mram := rfl
@[simp] theorem modWring_cph (s : State) (f : FoldId) (n : RingId) (g : Wring → Wring) : (s.modWring f n g).cph = s.cph := rfl
@[simp] theorem modWring_servo (s : State) (f : FoldId) (n : RingId) (g : Wring → Wring) : (s.modWring f n g).servo = s.servo := rfl
@[simp] theorem modWring_spindle (s : State) (f : FoldId) (n : RingId) (g : Wring → Wring) : (s.modWring f n g).spindle = s.spindle := rfl
@[simp] theorem modWring_sled (s : State) (f : FoldId) (n : RingId) (g : Wring → Wring) : (s.modWring f n g).sled = s.sled := rfl
@[simp] theorem modWring_loader (s : State) (f : FoldId) (n : RingId) (g : Wring → Wring) : (s.modWring f n g).loader = s.loader := rfl
@[simp] theorem modWring_chan (s : State) (f : FoldId) (n : RingId) (g : Wring → Wring) : (s.modWring f n g).chan = s.chan := rfl
@[simp] theorem modWring_recd (s : State) (f : FoldId) (n : RingId) (g : Wring → Wring) : (s.modWring f n g).recd = s.recd := rfl
@[simp] theorem modWring_disc (s : State) (f : FoldId) (n : RingId) (g : Wring → Wring) : (s.modWring f n g).disc = s.disc := rfl
@[simp] theorem modWring_job (s : State) (f : FoldId) (n : RingId) (g : Wring → Wring) : (s.modWring f n g).job = s.job := rfl
@[simp] theorem modWring_drover (s : State) (f : FoldId) (n : RingId) (g : Wring → Wring) : (s.modWring f n g).drover = s.drover := rfl
@[simp] theorem modWring_halt (s : State) (f : FoldId) (n : RingId) (g : Wring → Wring) : (s.modWring f n g).halt = s.halt := rfl
@[simp] theorem modWring_pwr (s : State) (f : FoldId) (n : RingId) (g : Wring → Wring) : (s.modWring f n g).pwr = s.pwr := rfl
@[simp] theorem modWring_kpr (s : State) (f : FoldId) (n : RingId) (g : Wring → Wring) : (s.modWring f n g).kpr = s.kpr := rfl
@[simp] theorem modWring_log (s : State) (f : FoldId) (n : RingId) (g : Wring → Wring) : (s.modWring f n g).log = s.log := rfl
@[simp] theorem modWring_sys (s : State) (f : FoldId) (n : RingId) (g : Wring → Wring) : (s.modWring f n g).sys = s.sys := rfl
@[simp] theorem modWring_out (s : State) (f : FoldId) (n : RingId) (g : Wring → Wring) : (s.modWring f n g).out = s.out := rfl

@[simp] theorem modDring_pending (s : State) (f : FoldId) (m : DringId) (g : Dring → Dring) : (s.modDring f m g).pending = s.pending := rfl
@[simp] theorem modDring_us (s : State) (f : FoldId) (m : DringId) (g : Dring → Dring) : (s.modDring f m g).us = s.us := rfl
@[simp] theorem modDring_phase (s : State) (f : FoldId) (m : DringId) (g : Dring → Dring) : (s.modDring f m g).phase = s.phase := rfl
@[simp] theorem modDring_draws (s : State) (f : FoldId) (m : DringId) (g : Dring → Dring) : (s.modDring f m g).draws = s.draws := rfl
@[simp] theorem modDring_plat (s : State) (f : FoldId) (m : DringId) (g : Dring → Dring) : (s.modDring f m g).plat = s.plat := rfl
@[simp] theorem modDring_pool (s : State) (f : FoldId) (m : DringId) (g : Dring → Dring) : (s.modDring f m g).pool = s.pool := rfl
@[simp] theorem modDring_pen (s : State) (f : FoldId) (m : DringId) (g : Dring → Dring) : (s.modDring f m g).pen = s.pen := rfl
@[simp] theorem modDring_cache (s : State) (f : FoldId) (m : DringId) (g : Dring → Dring) : (s.modDring f m g).cache = s.cache := rfl
@[simp] theorem modDring_cap (s : State) (f : FoldId) (m : DringId) (g : Dring → Dring) : (s.modDring f m g).cap = s.cap := rfl
@[simp] theorem modDring_ecc (s : State) (f : FoldId) (m : DringId) (g : Dring → Dring) : (s.modDring f m g).ecc = s.ecc := rfl
@[simp] theorem modDring_mram (s : State) (f : FoldId) (m : DringId) (g : Dring → Dring) : (s.modDring f m g).mram = s.mram := rfl
@[simp] theorem modDring_cph (s : State) (f : FoldId) (m : DringId) (g : Dring → Dring) : (s.modDring f m g).cph = s.cph := rfl
@[simp] theorem modDring_servo (s : State) (f : FoldId) (m : DringId) (g : Dring → Dring) : (s.modDring f m g).servo = s.servo := rfl
@[simp] theorem modDring_spindle (s : State) (f : FoldId) (m : DringId) (g : Dring → Dring) : (s.modDring f m g).spindle = s.spindle := rfl
@[simp] theorem modDring_sled (s : State) (f : FoldId) (m : DringId) (g : Dring → Dring) : (s.modDring f m g).sled = s.sled := rfl
@[simp] theorem modDring_loader (s : State) (f : FoldId) (m : DringId) (g : Dring → Dring) : (s.modDring f m g).loader = s.loader := rfl
@[simp] theorem modDring_chan (s : State) (f : FoldId) (m : DringId) (g : Dring → Dring) : (s.modDring f m g).chan = s.chan := rfl
@[simp] theorem modDring_recd (s : State) (f : FoldId) (m : DringId) (g : Dring → Dring) : (s.modDring f m g).recd = s.recd := rfl
@[simp] theorem modDring_disc (s : State) (f : FoldId) (m : DringId) (g : Dring → Dring) : (s.modDring f m g).disc = s.disc := rfl
@[simp] theorem modDring_job (s : State) (f : FoldId) (m : DringId) (g : Dring → Dring) : (s.modDring f m g).job = s.job := rfl
@[simp] theorem modDring_drover (s : State) (f : FoldId) (m : DringId) (g : Dring → Dring) : (s.modDring f m g).drover = s.drover := rfl
@[simp] theorem modDring_halt (s : State) (f : FoldId) (m : DringId) (g : Dring → Dring) : (s.modDring f m g).halt = s.halt := rfl
@[simp] theorem modDring_pwr (s : State) (f : FoldId) (m : DringId) (g : Dring → Dring) : (s.modDring f m g).pwr = s.pwr := rfl
@[simp] theorem modDring_kpr (s : State) (f : FoldId) (m : DringId) (g : Dring → Dring) : (s.modDring f m g).kpr = s.kpr := rfl
@[simp] theorem modDring_log (s : State) (f : FoldId) (m : DringId) (g : Dring → Dring) : (s.modDring f m g).log = s.log := rfl
@[simp] theorem modDring_sys (s : State) (f : FoldId) (m : DringId) (g : Dring → Dring) : (s.modDring f m g).sys = s.sys := rfl
@[simp] theorem modDring_out (s : State) (f : FoldId) (m : DringId) (g : Dring → Dring) : (s.modDring f m g).out = s.out := rfl

@[simp] theorem modDbp_pending (s : State) (f : FoldId) (g : Doorbell → Doorbell) : (s.modDbp f g).pending = s.pending := rfl
@[simp] theorem modDbp_us (s : State) (f : FoldId) (g : Doorbell → Doorbell) : (s.modDbp f g).us = s.us := rfl
@[simp] theorem modDbp_phase (s : State) (f : FoldId) (g : Doorbell → Doorbell) : (s.modDbp f g).phase = s.phase := rfl
@[simp] theorem modDbp_draws (s : State) (f : FoldId) (g : Doorbell → Doorbell) : (s.modDbp f g).draws = s.draws := rfl
@[simp] theorem modDbp_plat (s : State) (f : FoldId) (g : Doorbell → Doorbell) : (s.modDbp f g).plat = s.plat := rfl
@[simp] theorem modDbp_pool (s : State) (f : FoldId) (g : Doorbell → Doorbell) : (s.modDbp f g).pool = s.pool := rfl
@[simp] theorem modDbp_pen (s : State) (f : FoldId) (g : Doorbell → Doorbell) : (s.modDbp f g).pen = s.pen := rfl
@[simp] theorem modDbp_cache (s : State) (f : FoldId) (g : Doorbell → Doorbell) : (s.modDbp f g).cache = s.cache := rfl
@[simp] theorem modDbp_cap (s : State) (f : FoldId) (g : Doorbell → Doorbell) : (s.modDbp f g).cap = s.cap := rfl
@[simp] theorem modDbp_ecc (s : State) (f : FoldId) (g : Doorbell → Doorbell) : (s.modDbp f g).ecc = s.ecc := rfl
@[simp] theorem modDbp_mram (s : State) (f : FoldId) (g : Doorbell → Doorbell) : (s.modDbp f g).mram = s.mram := rfl
@[simp] theorem modDbp_cph (s : State) (f : FoldId) (g : Doorbell → Doorbell) : (s.modDbp f g).cph = s.cph := rfl
@[simp] theorem modDbp_servo (s : State) (f : FoldId) (g : Doorbell → Doorbell) : (s.modDbp f g).servo = s.servo := rfl
@[simp] theorem modDbp_spindle (s : State) (f : FoldId) (g : Doorbell → Doorbell) : (s.modDbp f g).spindle = s.spindle := rfl
@[simp] theorem modDbp_sled (s : State) (f : FoldId) (g : Doorbell → Doorbell) : (s.modDbp f g).sled = s.sled := rfl
@[simp] theorem modDbp_loader (s : State) (f : FoldId) (g : Doorbell → Doorbell) : (s.modDbp f g).loader = s.loader := rfl
@[simp] theorem modDbp_chan (s : State) (f : FoldId) (g : Doorbell → Doorbell) : (s.modDbp f g).chan = s.chan := rfl
@[simp] theorem modDbp_recd (s : State) (f : FoldId) (g : Doorbell → Doorbell) : (s.modDbp f g).recd = s.recd := rfl
@[simp] theorem modDbp_disc (s : State) (f : FoldId) (g : Doorbell → Doorbell) : (s.modDbp f g).disc = s.disc := rfl
@[simp] theorem modDbp_job (s : State) (f : FoldId) (g : Doorbell → Doorbell) : (s.modDbp f g).job = s.job := rfl
@[simp] theorem modDbp_drover (s : State) (f : FoldId) (g : Doorbell → Doorbell) : (s.modDbp f g).drover = s.drover := rfl
@[simp] theorem modDbp_halt (s : State) (f : FoldId) (g : Doorbell → Doorbell) : (s.modDbp f g).halt = s.halt := rfl
@[simp] theorem modDbp_pwr (s : State) (f : FoldId) (g : Doorbell → Doorbell) : (s.modDbp f g).pwr = s.pwr := rfl
@[simp] theorem modDbp_kpr (s : State) (f : FoldId) (g : Doorbell → Doorbell) : (s.modDbp f g).kpr = s.kpr := rfl
@[simp] theorem modDbp_log (s : State) (f : FoldId) (g : Doorbell → Doorbell) : (s.modDbp f g).log = s.log := rfl
@[simp] theorem modDbp_sys (s : State) (f : FoldId) (g : Doorbell → Doorbell) : (s.modDbp f g).sys = s.sys := rfl
@[simp] theorem modDbp_out (s : State) (f : FoldId) (g : Doorbell → Doorbell) : (s.modDbp f g).out = s.out := rfl

@[simp] theorem modDesc_pending (s : State) (f : FoldId) (k : Nat) (g : Desc → Desc) : (s.modDesc f k g).pending = s.pending := rfl
@[simp] theorem modDesc_us (s : State) (f : FoldId) (k : Nat) (g : Desc → Desc) : (s.modDesc f k g).us = s.us := rfl
@[simp] theorem modDesc_phase (s : State) (f : FoldId) (k : Nat) (g : Desc → Desc) : (s.modDesc f k g).phase = s.phase := rfl
@[simp] theorem modDesc_draws (s : State) (f : FoldId) (k : Nat) (g : Desc → Desc) : (s.modDesc f k g).draws = s.draws := rfl
@[simp] theorem modDesc_plat (s : State) (f : FoldId) (k : Nat) (g : Desc → Desc) : (s.modDesc f k g).plat = s.plat := rfl
@[simp] theorem modDesc_pool (s : State) (f : FoldId) (k : Nat) (g : Desc → Desc) : (s.modDesc f k g).pool = s.pool := rfl
@[simp] theorem modDesc_pen (s : State) (f : FoldId) (k : Nat) (g : Desc → Desc) : (s.modDesc f k g).pen = s.pen := rfl
@[simp] theorem modDesc_cache (s : State) (f : FoldId) (k : Nat) (g : Desc → Desc) : (s.modDesc f k g).cache = s.cache := rfl
@[simp] theorem modDesc_cap (s : State) (f : FoldId) (k : Nat) (g : Desc → Desc) : (s.modDesc f k g).cap = s.cap := rfl
@[simp] theorem modDesc_ecc (s : State) (f : FoldId) (k : Nat) (g : Desc → Desc) : (s.modDesc f k g).ecc = s.ecc := rfl
@[simp] theorem modDesc_mram (s : State) (f : FoldId) (k : Nat) (g : Desc → Desc) : (s.modDesc f k g).mram = s.mram := rfl
@[simp] theorem modDesc_cph (s : State) (f : FoldId) (k : Nat) (g : Desc → Desc) : (s.modDesc f k g).cph = s.cph := rfl
@[simp] theorem modDesc_servo (s : State) (f : FoldId) (k : Nat) (g : Desc → Desc) : (s.modDesc f k g).servo = s.servo := rfl
@[simp] theorem modDesc_spindle (s : State) (f : FoldId) (k : Nat) (g : Desc → Desc) : (s.modDesc f k g).spindle = s.spindle := rfl
@[simp] theorem modDesc_sled (s : State) (f : FoldId) (k : Nat) (g : Desc → Desc) : (s.modDesc f k g).sled = s.sled := rfl
@[simp] theorem modDesc_loader (s : State) (f : FoldId) (k : Nat) (g : Desc → Desc) : (s.modDesc f k g).loader = s.loader := rfl
@[simp] theorem modDesc_chan (s : State) (f : FoldId) (k : Nat) (g : Desc → Desc) : (s.modDesc f k g).chan = s.chan := rfl
@[simp] theorem modDesc_recd (s : State) (f : FoldId) (k : Nat) (g : Desc → Desc) : (s.modDesc f k g).recd = s.recd := rfl
@[simp] theorem modDesc_disc (s : State) (f : FoldId) (k : Nat) (g : Desc → Desc) : (s.modDesc f k g).disc = s.disc := rfl
@[simp] theorem modDesc_job (s : State) (f : FoldId) (k : Nat) (g : Desc → Desc) : (s.modDesc f k g).job = s.job := rfl
@[simp] theorem modDesc_drover (s : State) (f : FoldId) (k : Nat) (g : Desc → Desc) : (s.modDesc f k g).drover = s.drover := rfl
@[simp] theorem modDesc_halt (s : State) (f : FoldId) (k : Nat) (g : Desc → Desc) : (s.modDesc f k g).halt = s.halt := rfl
@[simp] theorem modDesc_pwr (s : State) (f : FoldId) (k : Nat) (g : Desc → Desc) : (s.modDesc f k g).pwr = s.pwr := rfl
@[simp] theorem modDesc_kpr (s : State) (f : FoldId) (k : Nat) (g : Desc → Desc) : (s.modDesc f k g).kpr = s.kpr := rfl
@[simp] theorem modDesc_log (s : State) (f : FoldId) (k : Nat) (g : Desc → Desc) : (s.modDesc f k g).log = s.log := rfl
@[simp] theorem modDesc_sys (s : State) (f : FoldId) (k : Nat) (g : Desc → Desc) : (s.modDesc f k g).sys = s.sys := rfl
@[simp] theorem modDesc_out (s : State) (f : FoldId) (k : Nat) (g : Desc → Desc) : (s.modDesc f k g).out = s.out := rfl

@[simp] theorem emit_pending (s : State) (o : Out) : (s.emit o).pending = s.pending := rfl
@[simp] theorem emit_us (s : State) (o : Out) : (s.emit o).us = s.us := rfl
@[simp] theorem emit_phase (s : State) (o : Out) : (s.emit o).phase = s.phase := rfl
@[simp] theorem emit_draws (s : State) (o : Out) : (s.emit o).draws = s.draws := rfl
@[simp] theorem emit_folds (s : State) (o : Out) : (s.emit o).folds = s.folds := rfl
@[simp] theorem emit_plat (s : State) (o : Out) : (s.emit o).plat = s.plat := rfl
@[simp] theorem emit_pool (s : State) (o : Out) : (s.emit o).pool = s.pool := rfl
@[simp] theorem emit_pen (s : State) (o : Out) : (s.emit o).pen = s.pen := rfl
@[simp] theorem emit_cache (s : State) (o : Out) : (s.emit o).cache = s.cache := rfl
@[simp] theorem emit_cap (s : State) (o : Out) : (s.emit o).cap = s.cap := rfl
@[simp] theorem emit_ecc (s : State) (o : Out) : (s.emit o).ecc = s.ecc := rfl
@[simp] theorem emit_mram (s : State) (o : Out) : (s.emit o).mram = s.mram := rfl
@[simp] theorem emit_cph (s : State) (o : Out) : (s.emit o).cph = s.cph := rfl
@[simp] theorem emit_servo (s : State) (o : Out) : (s.emit o).servo = s.servo := rfl
@[simp] theorem emit_spindle (s : State) (o : Out) : (s.emit o).spindle = s.spindle := rfl
@[simp] theorem emit_sled (s : State) (o : Out) : (s.emit o).sled = s.sled := rfl
@[simp] theorem emit_loader (s : State) (o : Out) : (s.emit o).loader = s.loader := rfl
@[simp] theorem emit_chan (s : State) (o : Out) : (s.emit o).chan = s.chan := rfl
@[simp] theorem emit_recd (s : State) (o : Out) : (s.emit o).recd = s.recd := rfl
@[simp] theorem emit_disc (s : State) (o : Out) : (s.emit o).disc = s.disc := rfl
@[simp] theorem emit_job (s : State) (o : Out) : (s.emit o).job = s.job := rfl
@[simp] theorem emit_drover (s : State) (o : Out) : (s.emit o).drover = s.drover := rfl
@[simp] theorem emit_halt (s : State) (o : Out) : (s.emit o).halt = s.halt := rfl
@[simp] theorem emit_pwr (s : State) (o : Out) : (s.emit o).pwr = s.pwr := rfl
@[simp] theorem emit_kpr (s : State) (o : Out) : (s.emit o).kpr = s.kpr := rfl
@[simp] theorem emit_log (s : State) (o : Out) : (s.emit o).log = s.log := rfl
@[simp] theorem emit_sys (s : State) (o : Out) : (s.emit o).sys = s.sys := rfl

@[simp] theorem emits_pending (s : State) (l : List Out) : (s.emits l).pending = s.pending := rfl
@[simp] theorem emits_us (s : State) (l : List Out) : (s.emits l).us = s.us := rfl
@[simp] theorem emits_phase (s : State) (l : List Out) : (s.emits l).phase = s.phase := rfl
@[simp] theorem emits_draws (s : State) (l : List Out) : (s.emits l).draws = s.draws := rfl
@[simp] theorem emits_folds (s : State) (l : List Out) : (s.emits l).folds = s.folds := rfl
@[simp] theorem emits_plat (s : State) (l : List Out) : (s.emits l).plat = s.plat := rfl
@[simp] theorem emits_pool (s : State) (l : List Out) : (s.emits l).pool = s.pool := rfl
@[simp] theorem emits_pen (s : State) (l : List Out) : (s.emits l).pen = s.pen := rfl
@[simp] theorem emits_cache (s : State) (l : List Out) : (s.emits l).cache = s.cache := rfl
@[simp] theorem emits_cap (s : State) (l : List Out) : (s.emits l).cap = s.cap := rfl
@[simp] theorem emits_ecc (s : State) (l : List Out) : (s.emits l).ecc = s.ecc := rfl
@[simp] theorem emits_mram (s : State) (l : List Out) : (s.emits l).mram = s.mram := rfl
@[simp] theorem emits_cph (s : State) (l : List Out) : (s.emits l).cph = s.cph := rfl
@[simp] theorem emits_servo (s : State) (l : List Out) : (s.emits l).servo = s.servo := rfl
@[simp] theorem emits_spindle (s : State) (l : List Out) : (s.emits l).spindle = s.spindle := rfl
@[simp] theorem emits_sled (s : State) (l : List Out) : (s.emits l).sled = s.sled := rfl
@[simp] theorem emits_loader (s : State) (l : List Out) : (s.emits l).loader = s.loader := rfl
@[simp] theorem emits_chan (s : State) (l : List Out) : (s.emits l).chan = s.chan := rfl
@[simp] theorem emits_recd (s : State) (l : List Out) : (s.emits l).recd = s.recd := rfl
@[simp] theorem emits_disc (s : State) (l : List Out) : (s.emits l).disc = s.disc := rfl
@[simp] theorem emits_job (s : State) (l : List Out) : (s.emits l).job = s.job := rfl
@[simp] theorem emits_drover (s : State) (l : List Out) : (s.emits l).drover = s.drover := rfl
@[simp] theorem emits_halt (s : State) (l : List Out) : (s.emits l).halt = s.halt := rfl
@[simp] theorem emits_pwr (s : State) (l : List Out) : (s.emits l).pwr = s.pwr := rfl
@[simp] theorem emits_kpr (s : State) (l : List Out) : (s.emits l).kpr = s.kpr := rfl
@[simp] theorem emits_log (s : State) (l : List Out) : (s.emits l).log = s.log := rfl
@[simp] theorem emits_sys (s : State) (l : List Out) : (s.emits l).sys = s.sys := rfl

@[simp] theorem modJob_pending (s : State) (g : Job → Job) : (s.modJob g).pending = s.pending := rfl
@[simp] theorem modJob_us (s : State) (g : Job → Job) : (s.modJob g).us = s.us := rfl
@[simp] theorem modJob_phase (s : State) (g : Job → Job) : (s.modJob g).phase = s.phase := rfl
@[simp] theorem modJob_draws (s : State) (g : Job → Job) : (s.modJob g).draws = s.draws := rfl
@[simp] theorem modJob_folds (s : State) (g : Job → Job) : (s.modJob g).folds = s.folds := rfl
@[simp] theorem modJob_plat (s : State) (g : Job → Job) : (s.modJob g).plat = s.plat := rfl
@[simp] theorem modJob_pool (s : State) (g : Job → Job) : (s.modJob g).pool = s.pool := rfl
@[simp] theorem modJob_pen (s : State) (g : Job → Job) : (s.modJob g).pen = s.pen := rfl
@[simp] theorem modJob_cache (s : State) (g : Job → Job) : (s.modJob g).cache = s.cache := rfl
@[simp] theorem modJob_cap (s : State) (g : Job → Job) : (s.modJob g).cap = s.cap := rfl
@[simp] theorem modJob_ecc (s : State) (g : Job → Job) : (s.modJob g).ecc = s.ecc := rfl
@[simp] theorem modJob_mram (s : State) (g : Job → Job) : (s.modJob g).mram = s.mram := rfl
@[simp] theorem modJob_cph (s : State) (g : Job → Job) : (s.modJob g).cph = s.cph := rfl
@[simp] theorem modJob_servo (s : State) (g : Job → Job) : (s.modJob g).servo = s.servo := rfl
@[simp] theorem modJob_spindle (s : State) (g : Job → Job) : (s.modJob g).spindle = s.spindle := rfl
@[simp] theorem modJob_sled (s : State) (g : Job → Job) : (s.modJob g).sled = s.sled := rfl
@[simp] theorem modJob_loader (s : State) (g : Job → Job) : (s.modJob g).loader = s.loader := rfl
@[simp] theorem modJob_chan (s : State) (g : Job → Job) : (s.modJob g).chan = s.chan := rfl
@[simp] theorem modJob_recd (s : State) (g : Job → Job) : (s.modJob g).recd = s.recd := rfl
@[simp] theorem modJob_disc (s : State) (g : Job → Job) : (s.modJob g).disc = s.disc := rfl
@[simp] theorem modJob_drover (s : State) (g : Job → Job) : (s.modJob g).drover = s.drover := rfl
@[simp] theorem modJob_halt (s : State) (g : Job → Job) : (s.modJob g).halt = s.halt := rfl
@[simp] theorem modJob_pwr (s : State) (g : Job → Job) : (s.modJob g).pwr = s.pwr := rfl
@[simp] theorem modJob_kpr (s : State) (g : Job → Job) : (s.modJob g).kpr = s.kpr := rfl
@[simp] theorem modJob_log (s : State) (g : Job → Job) : (s.modJob g).log = s.log := rfl
@[simp] theorem modJob_sys (s : State) (g : Job → Job) : (s.modJob g).sys = s.sys := rfl
@[simp] theorem modJob_out (s : State) (g : Job → Job) : (s.modJob g).out = s.out := rfl

/-! ### What each update writes -/

@[simp] theorem emit_out (s : State) (o : Out) : (s.emit o).out = s.out ++ [o] := rfl
@[simp] theorem emits_out (s : State) (l : List Out) : (s.emits l).out = s.out ++ l := rfl
@[simp] theorem modJob_job (s : State) (g : Job → Job) : (s.modJob g).job = s.job.map g := rfl
@[simp] theorem emit_fold (s : State) (o : Out) (f : FoldId) : (s.emit o).fold f = s.fold f := rfl
@[simp] theorem emits_fold (s : State) (l : List Out) (f : FoldId) : (s.emits l).fold f = s.fold f := rfl
@[simp] theorem modJob_fold (s : State) (g : Job → Job) (f : FoldId) : (s.modJob g).fold f = s.fold f := rfl

theorem get_set_same {α : Type} {n : Nat} (v : Vector α n) (i : Fin n) (x : α) : (v.set i x).get i = x := by
  show (v.set i.val x i.isLt)[i.val] = x
  simp

theorem get_set_other {α : Type} {n : Nat} (v : Vector α n) {i j : Fin n} (x : α) (h : j ≠ i) : (v.set i x).get j = v.get j := by
  show (v.set i.val x i.isLt)[j.val] = v[j.val]
  exact Vector.getElem_set_ne _ _ (fun e => h (Fin.ext e.symm))

@[simp] theorem setFold_fold (s : State) (f : FoldId) (x : Fold) : (s.setFold f x).fold f = x := by
  simp [State.setFold, State.fold, get_set_same]

theorem setFold_fold_ne (s : State) {f g : FoldId} (x : Fold) (h : g ≠ f) : (s.setFold f x).fold g = s.fold g := by
  simp [State.setFold, State.fold, get_set_other _ _ h]

@[simp] theorem modFold_fold (s : State) (f : FoldId) (g : Fold → Fold) : (s.modFold f g).fold f = g (s.fold f) := by
  simp [State.modFold]

theorem modFold_fold_ne (s : State) {f h : FoldId} (g : Fold → Fold) (n : h ≠ f) : (s.modFold f g).fold h = s.fold h :=
  setFold_fold_ne s _ n

theorem modFold_fold_any (s : State) (f h : FoldId) (g : Fold → Fold) :
    (s.modFold f g).fold h = if h = f then g (s.fold h) else s.fold h := by
  by_cases e : h = f
  · subst e
    simp
  · simp [e, modFold_fold_ne s g e]

@[simp] theorem modWring_wring (s : State) (f : FoldId) (n : RingId) (g : Wring → Wring) :
    (s.modWring f n g).wring f n = g (s.wring f n) := by
  simp [State.modWring, State.wring, get_set_same]

@[simp] theorem modDring_dring (s : State) (f : FoldId) (m : DringId) (g : Dring → Dring) :
    (s.modDring f m g).dring f m = g (s.dring f m) := by
  simp [State.modDring, State.dring, get_set_same]

@[simp] theorem modDbp_dbp (s : State) (f : FoldId) (g : Doorbell → Doorbell) :
    ((s.modDbp f g).fold f).dbp = g (s.fold f).dbp := by
  simp [State.modDbp]

/-! ### States with the same folds -/

theorem fold_congr {s t : State} (h : t.folds = s.folds) (f : FoldId) : t.fold f = s.fold f := by
  simp [State.fold, h]

theorem desc_congr {s t : State} (h : t.folds = s.folds) (f : FoldId) (k : Nat) : t.desc? f k = s.desc? f k := by
  simp [State.desc?, fold_congr h f]

theorem wring_congr {s t : State} (h : t.folds = s.folds) (f : FoldId) (n : RingId) : t.wring f n = s.wring f n := by
  simp [State.wring, fold_congr h f]

theorem dring_congr {s t : State} (h : t.folds = s.folds) (f : FoldId) (m : DringId) : t.dring f m = s.dring f m := by
  simp [State.dring, fold_congr h f]

/-! ### Two changes of one thing -/

theorem modFold_modFold (s : State) (f : FoldId) (g h : Fold → Fold) :
    (s.modFold f h).modFold f g = s.modFold f fun x => g (h x) := by
  simp only [State.modFold, setFold_fold]
  simp [State.setFold]

theorem modWring_modWring (s : State) (f : FoldId) (n : RingId) (g h : Wring → Wring) :
    (s.modWring f n h).modWring f n g = s.modWring f n fun w => g (h w) := by
  simp only [State.modWring, modFold_modFold, get_set_same]
  simp

theorem modDring_modDring (s : State) (f : FoldId) (m : DringId) (g h : Dring → Dring) :
    (s.modDring f m h).modDring f m g = s.modDring f m fun r => g (h r) := by
  simp only [State.modDring, modFold_modFold, get_set_same]
  simp

theorem modDbp_modDbp (s : State) (f : FoldId) (g h : Doorbell → Doorbell) :
    (s.modDbp f h).modDbp f g = s.modDbp f fun d => g (h d) := by
  simp only [State.modDbp, modFold_modFold]

@[simp] theorem modWring_dring (s : State) (f : FoldId) (n : RingId) (g : Wring → Wring) (m : DringId) :
    (s.modWring f n g).dring f m = s.dring f m := by
  simp [State.modWring, State.dring]

@[simp] theorem modDring_wring (s : State) (f : FoldId) (m : DringId) (g : Dring → Dring) (n : RingId) :
    (s.modDring f m g).wring f n = s.wring f n := by
  simp [State.modDring, State.wring]

@[simp] theorem setSlot_pending (s : State) (i : Fin 17) (k : KeySlot) : (s.setSlot i k).pending = s.pending := rfl
@[simp] theorem setSlot_us (s : State) (i : Fin 17) (k : KeySlot) : (s.setSlot i k).us = s.us := rfl
@[simp] theorem setSlot_phase (s : State) (i : Fin 17) (k : KeySlot) : (s.setSlot i k).phase = s.phase := rfl
@[simp] theorem setSlot_draws (s : State) (i : Fin 17) (k : KeySlot) : (s.setSlot i k).draws = s.draws := rfl
@[simp] theorem setSlot_folds (s : State) (i : Fin 17) (k : KeySlot) : (s.setSlot i k).folds = s.folds := rfl
@[simp] theorem setSlot_plat (s : State) (i : Fin 17) (k : KeySlot) : (s.setSlot i k).plat = s.plat := rfl
@[simp] theorem setSlot_pool (s : State) (i : Fin 17) (k : KeySlot) : (s.setSlot i k).pool = s.pool := rfl
@[simp] theorem setSlot_pen (s : State) (i : Fin 17) (k : KeySlot) : (s.setSlot i k).pen = s.pen := rfl
@[simp] theorem setSlot_cache (s : State) (i : Fin 17) (k : KeySlot) : (s.setSlot i k).cache = s.cache := rfl
@[simp] theorem setSlot_cap (s : State) (i : Fin 17) (k : KeySlot) : (s.setSlot i k).cap = s.cap := rfl
@[simp] theorem setSlot_ecc (s : State) (i : Fin 17) (k : KeySlot) : (s.setSlot i k).ecc = s.ecc := rfl
@[simp] theorem setSlot_mram (s : State) (i : Fin 17) (k : KeySlot) : (s.setSlot i k).mram = s.mram := rfl
@[simp] theorem setSlot_servo (s : State) (i : Fin 17) (k : KeySlot) : (s.setSlot i k).servo = s.servo := rfl
@[simp] theorem setSlot_spindle (s : State) (i : Fin 17) (k : KeySlot) : (s.setSlot i k).spindle = s.spindle := rfl
@[simp] theorem setSlot_sled (s : State) (i : Fin 17) (k : KeySlot) : (s.setSlot i k).sled = s.sled := rfl
@[simp] theorem setSlot_loader (s : State) (i : Fin 17) (k : KeySlot) : (s.setSlot i k).loader = s.loader := rfl
@[simp] theorem setSlot_chan (s : State) (i : Fin 17) (k : KeySlot) : (s.setSlot i k).chan = s.chan := rfl
@[simp] theorem setSlot_recd (s : State) (i : Fin 17) (k : KeySlot) : (s.setSlot i k).recd = s.recd := rfl
@[simp] theorem setSlot_disc (s : State) (i : Fin 17) (k : KeySlot) : (s.setSlot i k).disc = s.disc := rfl
@[simp] theorem setSlot_job (s : State) (i : Fin 17) (k : KeySlot) : (s.setSlot i k).job = s.job := rfl
@[simp] theorem setSlot_drover (s : State) (i : Fin 17) (k : KeySlot) : (s.setSlot i k).drover = s.drover := rfl
@[simp] theorem setSlot_halt (s : State) (i : Fin 17) (k : KeySlot) : (s.setSlot i k).halt = s.halt := rfl
@[simp] theorem setSlot_pwr (s : State) (i : Fin 17) (k : KeySlot) : (s.setSlot i k).pwr = s.pwr := rfl
@[simp] theorem setSlot_kpr (s : State) (i : Fin 17) (k : KeySlot) : (s.setSlot i k).kpr = s.kpr := rfl
@[simp] theorem setSlot_log (s : State) (i : Fin 17) (k : KeySlot) : (s.setSlot i k).log = s.log := rfl
@[simp] theorem setSlot_sys (s : State) (i : Fin 17) (k : KeySlot) : (s.setSlot i k).sys = s.sys := rfl
@[simp] theorem setSlot_out (s : State) (i : Fin 17) (k : KeySlot) : (s.setSlot i k).out = s.out := rfl

@[simp] theorem modUnit_pending (s : State) (n : Nat) (g : JobUnit → JobUnit) : (s.modUnit n g).pending = s.pending := rfl
@[simp] theorem modUnit_us (s : State) (n : Nat) (g : JobUnit → JobUnit) : (s.modUnit n g).us = s.us := rfl
@[simp] theorem modUnit_phase (s : State) (n : Nat) (g : JobUnit → JobUnit) : (s.modUnit n g).phase = s.phase := rfl
@[simp] theorem modUnit_draws (s : State) (n : Nat) (g : JobUnit → JobUnit) : (s.modUnit n g).draws = s.draws := rfl
@[simp] theorem modUnit_folds (s : State) (n : Nat) (g : JobUnit → JobUnit) : (s.modUnit n g).folds = s.folds := rfl
@[simp] theorem modUnit_plat (s : State) (n : Nat) (g : JobUnit → JobUnit) : (s.modUnit n g).plat = s.plat := rfl
@[simp] theorem modUnit_pool (s : State) (n : Nat) (g : JobUnit → JobUnit) : (s.modUnit n g).pool = s.pool := rfl
@[simp] theorem modUnit_pen (s : State) (n : Nat) (g : JobUnit → JobUnit) : (s.modUnit n g).pen = s.pen := rfl
@[simp] theorem modUnit_cache (s : State) (n : Nat) (g : JobUnit → JobUnit) : (s.modUnit n g).cache = s.cache := rfl
@[simp] theorem modUnit_cap (s : State) (n : Nat) (g : JobUnit → JobUnit) : (s.modUnit n g).cap = s.cap := rfl
@[simp] theorem modUnit_ecc (s : State) (n : Nat) (g : JobUnit → JobUnit) : (s.modUnit n g).ecc = s.ecc := rfl
@[simp] theorem modUnit_mram (s : State) (n : Nat) (g : JobUnit → JobUnit) : (s.modUnit n g).mram = s.mram := rfl
@[simp] theorem modUnit_cph (s : State) (n : Nat) (g : JobUnit → JobUnit) : (s.modUnit n g).cph = s.cph := rfl
@[simp] theorem modUnit_servo (s : State) (n : Nat) (g : JobUnit → JobUnit) : (s.modUnit n g).servo = s.servo := rfl
@[simp] theorem modUnit_spindle (s : State) (n : Nat) (g : JobUnit → JobUnit) : (s.modUnit n g).spindle = s.spindle := rfl
@[simp] theorem modUnit_sled (s : State) (n : Nat) (g : JobUnit → JobUnit) : (s.modUnit n g).sled = s.sled := rfl
@[simp] theorem modUnit_loader (s : State) (n : Nat) (g : JobUnit → JobUnit) : (s.modUnit n g).loader = s.loader := rfl
@[simp] theorem modUnit_chan (s : State) (n : Nat) (g : JobUnit → JobUnit) : (s.modUnit n g).chan = s.chan := rfl
@[simp] theorem modUnit_recd (s : State) (n : Nat) (g : JobUnit → JobUnit) : (s.modUnit n g).recd = s.recd := rfl
@[simp] theorem modUnit_disc (s : State) (n : Nat) (g : JobUnit → JobUnit) : (s.modUnit n g).disc = s.disc := rfl
@[simp] theorem modUnit_drover (s : State) (n : Nat) (g : JobUnit → JobUnit) : (s.modUnit n g).drover = s.drover := rfl
@[simp] theorem modUnit_halt (s : State) (n : Nat) (g : JobUnit → JobUnit) : (s.modUnit n g).halt = s.halt := rfl
@[simp] theorem modUnit_pwr (s : State) (n : Nat) (g : JobUnit → JobUnit) : (s.modUnit n g).pwr = s.pwr := rfl
@[simp] theorem modUnit_kpr (s : State) (n : Nat) (g : JobUnit → JobUnit) : (s.modUnit n g).kpr = s.kpr := rfl
@[simp] theorem modUnit_log (s : State) (n : Nat) (g : JobUnit → JobUnit) : (s.modUnit n g).log = s.log := rfl
@[simp] theorem modUnit_sys (s : State) (n : Nat) (g : JobUnit → JobUnit) : (s.modUnit n g).sys = s.sys := rfl
@[simp] theorem modUnit_out (s : State) (n : Nat) (g : JobUnit → JobUnit) : (s.modUnit n g).out = s.out := rfl

@[simp] theorem modLedger_pending (s : State) (g : Ledger → Ledger) : (s.modLedger g).pending = s.pending := rfl
@[simp] theorem modLedger_us (s : State) (g : Ledger → Ledger) : (s.modLedger g).us = s.us := rfl
@[simp] theorem modLedger_phase (s : State) (g : Ledger → Ledger) : (s.modLedger g).phase = s.phase := rfl
@[simp] theorem modLedger_draws (s : State) (g : Ledger → Ledger) : (s.modLedger g).draws = s.draws := rfl
@[simp] theorem modLedger_folds (s : State) (g : Ledger → Ledger) : (s.modLedger g).folds = s.folds := rfl
@[simp] theorem modLedger_plat (s : State) (g : Ledger → Ledger) : (s.modLedger g).plat = s.plat := rfl
@[simp] theorem modLedger_pool (s : State) (g : Ledger → Ledger) : (s.modLedger g).pool = s.pool := rfl
@[simp] theorem modLedger_pen (s : State) (g : Ledger → Ledger) : (s.modLedger g).pen = s.pen := rfl
@[simp] theorem modLedger_cache (s : State) (g : Ledger → Ledger) : (s.modLedger g).cache = s.cache := rfl
@[simp] theorem modLedger_cap (s : State) (g : Ledger → Ledger) : (s.modLedger g).cap = s.cap := rfl
@[simp] theorem modLedger_ecc (s : State) (g : Ledger → Ledger) : (s.modLedger g).ecc = s.ecc := rfl
@[simp] theorem modLedger_mram (s : State) (g : Ledger → Ledger) : (s.modLedger g).mram = s.mram := rfl
@[simp] theorem modLedger_cph (s : State) (g : Ledger → Ledger) : (s.modLedger g).cph = s.cph := rfl
@[simp] theorem modLedger_servo (s : State) (g : Ledger → Ledger) : (s.modLedger g).servo = s.servo := rfl
@[simp] theorem modLedger_spindle (s : State) (g : Ledger → Ledger) : (s.modLedger g).spindle = s.spindle := rfl
@[simp] theorem modLedger_sled (s : State) (g : Ledger → Ledger) : (s.modLedger g).sled = s.sled := rfl
@[simp] theorem modLedger_loader (s : State) (g : Ledger → Ledger) : (s.modLedger g).loader = s.loader := rfl
@[simp] theorem modLedger_chan (s : State) (g : Ledger → Ledger) : (s.modLedger g).chan = s.chan := rfl
@[simp] theorem modLedger_recd (s : State) (g : Ledger → Ledger) : (s.modLedger g).recd = s.recd := rfl
@[simp] theorem modLedger_disc (s : State) (g : Ledger → Ledger) : (s.modLedger g).disc = s.disc := rfl
@[simp] theorem modLedger_job (s : State) (g : Ledger → Ledger) : (s.modLedger g).job = s.job := rfl
@[simp] theorem modLedger_drover (s : State) (g : Ledger → Ledger) : (s.modLedger g).drover = s.drover := rfl
@[simp] theorem modLedger_halt (s : State) (g : Ledger → Ledger) : (s.modLedger g).halt = s.halt := rfl
@[simp] theorem modLedger_pwr (s : State) (g : Ledger → Ledger) : (s.modLedger g).pwr = s.pwr := rfl
@[simp] theorem modLedger_log (s : State) (g : Ledger → Ledger) : (s.modLedger g).log = s.log := rfl
@[simp] theorem modLedger_sys (s : State) (g : Ledger → Ledger) : (s.modLedger g).sys = s.sys := rfl
@[simp] theorem modLedger_out (s : State) (g : Ledger → Ledger) : (s.modLedger g).out = s.out := rfl

@[simp] theorem modBucket_pending (s : State) (n : Fin 4) (g : EccBucket → EccBucket) : (s.modBucket n g).pending = s.pending := rfl
@[simp] theorem modBucket_us (s : State) (n : Fin 4) (g : EccBucket → EccBucket) : (s.modBucket n g).us = s.us := rfl
@[simp] theorem modBucket_phase (s : State) (n : Fin 4) (g : EccBucket → EccBucket) : (s.modBucket n g).phase = s.phase := rfl
@[simp] theorem modBucket_draws (s : State) (n : Fin 4) (g : EccBucket → EccBucket) : (s.modBucket n g).draws = s.draws := rfl
@[simp] theorem modBucket_folds (s : State) (n : Fin 4) (g : EccBucket → EccBucket) : (s.modBucket n g).folds = s.folds := rfl
@[simp] theorem modBucket_plat (s : State) (n : Fin 4) (g : EccBucket → EccBucket) : (s.modBucket n g).plat = s.plat := rfl
@[simp] theorem modBucket_pool (s : State) (n : Fin 4) (g : EccBucket → EccBucket) : (s.modBucket n g).pool = s.pool := rfl
@[simp] theorem modBucket_pen (s : State) (n : Fin 4) (g : EccBucket → EccBucket) : (s.modBucket n g).pen = s.pen := rfl
@[simp] theorem modBucket_cache (s : State) (n : Fin 4) (g : EccBucket → EccBucket) : (s.modBucket n g).cache = s.cache := rfl
@[simp] theorem modBucket_cap (s : State) (n : Fin 4) (g : EccBucket → EccBucket) : (s.modBucket n g).cap = s.cap := rfl
@[simp] theorem modBucket_mram (s : State) (n : Fin 4) (g : EccBucket → EccBucket) : (s.modBucket n g).mram = s.mram := rfl
@[simp] theorem modBucket_cph (s : State) (n : Fin 4) (g : EccBucket → EccBucket) : (s.modBucket n g).cph = s.cph := rfl
@[simp] theorem modBucket_servo (s : State) (n : Fin 4) (g : EccBucket → EccBucket) : (s.modBucket n g).servo = s.servo := rfl
@[simp] theorem modBucket_spindle (s : State) (n : Fin 4) (g : EccBucket → EccBucket) : (s.modBucket n g).spindle = s.spindle := rfl
@[simp] theorem modBucket_sled (s : State) (n : Fin 4) (g : EccBucket → EccBucket) : (s.modBucket n g).sled = s.sled := rfl
@[simp] theorem modBucket_loader (s : State) (n : Fin 4) (g : EccBucket → EccBucket) : (s.modBucket n g).loader = s.loader := rfl
@[simp] theorem modBucket_chan (s : State) (n : Fin 4) (g : EccBucket → EccBucket) : (s.modBucket n g).chan = s.chan := rfl
@[simp] theorem modBucket_recd (s : State) (n : Fin 4) (g : EccBucket → EccBucket) : (s.modBucket n g).recd = s.recd := rfl
@[simp] theorem modBucket_disc (s : State) (n : Fin 4) (g : EccBucket → EccBucket) : (s.modBucket n g).disc = s.disc := rfl
@[simp] theorem modBucket_job (s : State) (n : Fin 4) (g : EccBucket → EccBucket) : (s.modBucket n g).job = s.job := rfl
@[simp] theorem modBucket_drover (s : State) (n : Fin 4) (g : EccBucket → EccBucket) : (s.modBucket n g).drover = s.drover := rfl
@[simp] theorem modBucket_halt (s : State) (n : Fin 4) (g : EccBucket → EccBucket) : (s.modBucket n g).halt = s.halt := rfl
@[simp] theorem modBucket_pwr (s : State) (n : Fin 4) (g : EccBucket → EccBucket) : (s.modBucket n g).pwr = s.pwr := rfl
@[simp] theorem modBucket_kpr (s : State) (n : Fin 4) (g : EccBucket → EccBucket) : (s.modBucket n g).kpr = s.kpr := rfl
@[simp] theorem modBucket_log (s : State) (n : Fin 4) (g : EccBucket → EccBucket) : (s.modBucket n g).log = s.log := rfl
@[simp] theorem modBucket_sys (s : State) (n : Fin 4) (g : EccBucket → EccBucket) : (s.modBucket n g).sys = s.sys := rfl
@[simp] theorem modBucket_out (s : State) (n : Fin 4) (g : EccBucket → EccBucket) : (s.modBucket n g).out = s.out := rfl

end Sys2Proof.Machine
end

