-- ==== Sys2Proof/Laws/Ops.lean ====
section
/-! SUPPORT. Laws/Ops.lean: what the shared operations on descriptors do: looking one up, changing it, ending it, and ending the
command on the mechanism. -/
namespace Sys2Proof.Machine

theorem find_updFirst {d : Desc} {k : Nat} {g : Desc → Desc} (hg : ∀ d : Desc, (g d).k = d.k) :
    ∀ l : List Desc, l.find? (fun d => d.k == k) = some d →
      (updFirst (fun d => d.k == k) g l).find? (fun d => d.k == k) = some (g d)
  | [], h => by simp at h
  | e :: r, h => by
    by_cases c : e.k = k
    · simp [c] at h
      subst h
      simp [updFirst, c, hg]
    · simp [c] at h
      simp [updFirst, c]
      exact find_updFirst hg r h

theorem find_updFirst_none {k : Nat} {g : Desc → Desc} :
    ∀ l : List Desc, l.find? (fun d => d.k == k) = none → updFirst (fun d => d.k == k) g l = l
  | [], _ => rfl
  | e :: r, h => by
    by_cases c : e.k = k
    · simp [c] at h
    · simp [c] at h
      simp only [updFirst, beq_iff_eq, c, if_false, List.cons.injEq, true_and]
      exact find_updFirst_none r (by simpa using h)

theorem find_updFirst_ne {k j : Nat} {g : Desc → Desc} (hg : ∀ d : Desc, (g d).k = d.k) (n : j ≠ k) :
    ∀ l : List Desc, (updFirst (fun d => d.k == k) g l).find? (fun d => d.k == j) = l.find? (fun d => d.k == j)
  | [] => rfl
  | e :: r => by
    by_cases c : e.k = k
    · have : ¬ k = j := fun h => n h.symm
      simp [updFirst, c, hg, this]
    · by_cases c' : e.k = j
      · subst c'
        simp [updFirst, c]
      · simp [updFirst, c, c', find_updFirst_ne hg n r]

theorem desc_k {s : State} {f : FoldId} {k : Nat} {d : Desc} (h : s.desc? f k = some d) : d.k = k := by
  simpa using List.find?_some h

/-- A descriptor after its own change. -/
theorem desc_modDesc {s : State} {f : FoldId} {k : Nat} {d : Desc} {g : Desc → Desc} (hg : ∀ d : Desc, (g d).k = d.k)
    (h : s.desc? f k = some d) : (s.modDesc f k g).desc? f k = some (g d) := by
  simpa [State.desc?, State.modDesc] using find_updFirst hg _ h

theorem desc_modDesc_ne {s : State} {f h : FoldId} {k j : Nat} {g : Desc → Desc} (hg : ∀ d : Desc, (g d).k = d.k)
    (n : h ≠ f ∨ j ≠ k) : (s.modDesc f k g).desc? h j = s.desc? h j := by
  by_cases e : h = f
  · subst e
    have : j ≠ k := by simpa using n
    simp [State.desc?, State.modDesc, find_updFirst_ne hg this]
  · simp [State.desc?, State.modDesc, modFold_fold_ne _ _ e]

theorem foldsKeep_rfl (s : State) : FoldsKeep s s := fun _ => rfl

theorem foldsKeep_trans {s t u : State} (h : FoldsKeep s t) (i : FoldsKeep t u) : FoldsKeep s u := fun g => by
  rw [i g, h g]

theorem foldsKeep_modDesc (s : State) (f : FoldId) (k : Nat) (g : Desc → Desc) : FoldsKeep s (s.modDesc f k g) := fun h => by
  by_cases e : h = f
  · subst e
    simp [State.modDesc]
  · simp [State.modDesc, modFold_fold_ne _ _ e]

/-! ### Freed indices -/

theorem releaseIndexGo_eq (i : Nat) : ∀ (l : List (FoldId × Nat)) (s : State),
    releaseIndexGo s i l = { s with folds := (releaseIndexGo s i l).folds, pool := (releaseIndexGo s i l).pool }
  | [], s => rfl
  | (f, k) :: r, s => by
    unfold releaseIndexGo
    split
    · split
      · rfl
      · exact releaseIndexGo_eq i r s
    · exact releaseIndexGo_eq i r s

theorem stackPush_bufs (p : Pool) (i : Nat) : (stackPush p i).bufs = p.bufs ∧ (stackPush p i).queue = p.queue := by
  unfold stackPush stackSpill
  dsimp only
  split <;> exact ⟨rfl, rfl⟩

theorem releaseIndexGo_bufs (i : Nat) : ∀ (l : List (FoldId × Nat)) (s : State),
    (releaseIndexGo s i l).pool.bufs = s.pool.bufs
  | [], s => (stackPush_bufs s.pool i).1
  | (f, k) :: r, s => by
    unfold releaseIndexGo
    split
    · split
      · rfl
      · exact releaseIndexGo_bufs i r s
    · exact releaseIndexGo_bufs i r s

theorem releaseIndexGo_queue (i : Nat) : ∀ (l : List (FoldId × Nat)) (s : State),
    (releaseIndexGo s i l).pool.queue = s.pool.queue
  | [], s => (stackPush_bufs s.pool i).2
  | (f, k) :: r, s => by
    unfold releaseIndexGo
    split
    · split
      · rfl
      · exact releaseIndexGo_queue i r s
    · exact releaseIndexGo_queue i r s

theorem releaseIndexGo_keep (i : Nat) : ∀ (l : List (FoldId × Nat)) (s : State), FoldsKeep s (releaseIndexGo s i l)
  | [], s => foldsKeep_rfl s
  | (f, k) :: r, s => by
    unfold releaseIndexGo
    split
    · split
      · exact foldsKeep_modDesc s f k _
      · exact releaseIndexGo_keep i r s
    · exact releaseIndexGo_keep i r s

theorem releaseIndexGo_desc (i : Nat) {f : FoldId} {k : Nat} : ∀ (l : List (FoldId × Nat)) (s : State), (f, k) ∉ l →
    (releaseIndexGo s i l).desc? f k = s.desc? f k
  | [], _, _ => rfl
  | (g, j) :: r, s, h => by
    have h1 : ¬((f, k) = (g, j)) := fun e => h (e ▸ List.mem_cons_self)
    have h2 : (f, k) ∉ r := fun e => h (List.mem_cons_of_mem _ e)
    unfold releaseIndexGo
    split
    · split
      · refine desc_modDesc_ne (s := s) (fun _ => rfl) ?_
        by_cases e : f = g
        · right
          intro e'
          exact h1 (by rw [e, e'])
        · exact .inl e
      · exact releaseIndexGo_desc i r s h2
    · exact releaseIndexGo_desc i r s h2

/-- Freed indices, each given to the oldest waiting request or to the free store: nothing but pool and descriptors changes, and
no descriptor that does not wait. -/
theorem releaseIndices (l : List Nat) : ∀ s : State,
    l.foldl releaseIndex s = { s with folds := (l.foldl releaseIndex s).folds, pool := (l.foldl releaseIndex s).pool } ∧
    FoldsKeep s (l.foldl releaseIndex s) ∧ (l.foldl releaseIndex s).pool.queue = s.pool.queue ∧
    (l.foldl releaseIndex s).pool.bufs = s.pool.bufs ∧
    ∀ (f : FoldId) (k : Nat), (f, k) ∉ s.pool.queue → (l.foldl releaseIndex s).desc? f k = s.desc? f k := by
  induction l with
  | nil => exact fun s => ⟨rfl, foldsKeep_rfl s, rfl, rfl, fun _ _ _ => rfl⟩
  | cons i r ih =>
    intro s
    obtain ⟨a, b, c, c', d⟩ := ih (releaseIndex s i)
    have e := releaseIndexGo_eq i s.pool.queue s
    have q := releaseIndexGo_queue i s.pool.queue s
    refine ⟨?_, foldsKeep_trans (releaseIndexGo_keep i s.pool.queue s) b, c.trans q, c'.trans (releaseIndexGo_bufs i s.pool.queue s), fun f k h => ?_⟩
    · rw [List.foldl_cons]
      rw [a]
      unfold releaseIndex at *
      rw [e]
    · exact (d f k (by rw [show (releaseIndex s i).pool.queue = _ from q]; exact h)).trans
        (releaseIndexGo_desc i s.pool.queue s h)

/-! ### The end of a descriptor -/

/-- What `finish` does to a consumed descriptor. -/
theorem finish_ends {s : State} {f : FoldId} {k : Nat} {d : Desc} (st : Status) (n : Nat) (h : s.desc? f k = some d) :
    EndsAs s (finish s f k st n) f k st n := by
  have e : finish s f k st n = d.aside.foldl releaseIndex (({ s with
      pool := { s.pool with queue := s.pool.queue.filter fun q => !(q.1 == f && q.2 == k)
                            aside := s.pool.aside.filter fun a => !d.aside.contains a.1 }
      cph := { s.cph with waiters := s.cph.waiters.filter fun w => !(w.2.1 == f && w.2.2 == k) } } : State).modDesc f k fun d =>
        { d with stage := .done, status := st, bytes := n, aside := [], want := 0 }) := by
    unfold finish
    rw [h]
  obtain ⟨a, b, -, c', c⟩ := releaseIndices d.aside (({ s with
      pool := { s.pool with queue := s.pool.queue.filter fun q => !(q.1 == f && q.2 == k)
                            aside := s.pool.aside.filter fun a => !d.aside.contains a.1 }
      cph := { s.cph with waiters := s.cph.waiters.filter fun w => !(w.2.1 == f && w.2.2 == k) } } : State).modDesc f k fun d =>
        { d with stage := .done, status := st, bytes := n, aside := [], want := 0 })
  rw [← e] at a b c c'
  refine ⟨fun d' h' => ?_, fun g j hn hq => ?_, ?_, ?_, c'⟩
  · cases Option.some.inj (h.symm.trans h')
    exact (c f k (by simp)).trans (desc_modDesc (fun _ => rfl) (by exact h))
  · refine (c g j (by simp [hq])).trans ?_
    exact desc_modDesc_ne (fun _ => rfl) hn
  · exact foldsKeep_trans (foldsKeep_modDesc _ f k _) b
  · rw [a]
    rfl

/-- What `finish` does, whether or not the descriptor is there. -/
theorem finish_endsAs (s : State) (f : FoldId) (k : Nat) (st : Status) (n : Nat) : EndsAs s (finish s f k st n) f k st n := by
  cases h : s.desc? f k with
  | none =>
    have e : finish s f k st n = s := by unfold finish; rw [h]
    rw [e]
    exact ⟨fun d h' => by simp [h] at h', fun _ _ _ _ => rfl, foldsKeep_rfl s, rfl, rfl⟩
  | some d => exact finish_ends st n h

/-- What `endJob` does to a command that has not ended. -/
theorem endJob_ends {s : State} {j : Job} (st : Status) (n : Nat) (h : s.job = some j) (hk : ∀ f, j.kind ≠ .speculation f)
    (he : j.ended = false) : JobEndsAs s (endJob s st n) st n := by
  have e : endJob s st n = (s.modJob fun j => { j with ended := true }).modDesc j.f j.k fun d =>
      { d with status := st, bytes := n } := by
    unfold endJob
    rw [h]
    dsimp only
    split
    · next f hf => exact absurd hf (hk f)
    · simp [he]
  rw [e]
  refine ⟨fun j' h' => ?_, fun j' g i h' hn => ?_, ?_, rfl⟩
  · cases Option.some.inj (h.symm.trans h')
    refine ⟨by simp [h], fun d hd => ?_⟩
    exact desc_modDesc (fun _ => rfl) (by exact hd)
  · cases Option.some.inj (h.symm.trans h')
    exact desc_modDesc_ne (s := s.modJob _) (fun _ => rfl) hn
  · exact foldsKeep_trans (foldsKeep_rfl s) (foldsKeep_modDesc _ _ _ _)

/-- A started descriptor exists. -/
theorem runningAs_desc {s : State} {f : FoldId} {k : Nat} {o : Op} {d : Desc} (h : runningAs s f k o = some d) :
    s.desc? f k = some d := by
  unfold runningAs at h
  split at h
  · split at h
    · cases h
      assumption
    · cases h
  · cases h

/-- A dispatched descriptor exists, and its command is on the mechanism and has not ended. -/
theorem dispatchedAs_job {s : State} {f : FoldId} {k : Nat} {o : Op} {d : Desc} (h : dispatchedAs s f k o = some d) :
    s.desc? f k = some d ∧ ∃ j : Job, s.job = some j ∧ j.kind = .moving ∧ j.f = f ∧ j.k = k ∧ j.ended = false := by
  unfold dispatchedAs at h
  split at h
  · next d' j hd hj =>
    split at h
    · next c =>
      cases h
      refine ⟨hd, j, ?_⟩
      unfold jobOf at hj
      split at hj
      · next j' e =>
        split at hj
        · cases hj
        · split at hj
          · next c' =>
            cases hj
            simp at c c'
            exact ⟨e, c.2, c'.1.1, c'.1.2, c'.2⟩
          · cases hj
      · cases hj
    · cases h
  · cases h

/-- A dispatched command that ends in a state with the same job. -/
theorem dispatched_ends {s u : State} {f : FoldId} {k : Nat} {o : Op} {d : Desc} (st : Status) (n : Nat)
    (h : dispatchedAs s f k o = some d) (hu : u.job = s.job) : JobEndsAs u (endJob u st n) st n := by
  obtain ⟨-, j, hj, hk, -, -, he⟩ := dispatchedAs_job h
  exact endJob_ends st n (hu.trans hj) (fun f hf => by rw [hk] at hf; cases hf) he

end Sys2Proof.Machine
end

