-- ==== Sys2Proof/Laws/Boot.lean ====
section
/-! SUPPORT. Laws/Boot.lean: what a loss of Bronze's state leaves: the mechanism made safe, fresh folds, and the keeper's,
    the supply's
and the MRAM's contents. -/
namespace Sys2Proof.Machine

@[simp] theorem ofFn_get {α : Type} {n : Nat} (g : Fin n → α) (i : Fin n) : (Vector.ofFn g).get i = g i := by
  show (Vector.ofFn g)[i.val] = g i
  simp

@[simp] theorem replicate_get {α : Type} {n : Nat} (x : α) (i : Fin n) : (Vector.replicate n x).get i = x := by
  show (Vector.replicate n x)[i.val] = x
  simp

/-- From v to t only parts of the mechanism, the sealing engine, the log and the output have changed. -/
structure Down (v t : State) : Prop where
  folds : t.folds = v.folds
  mram : t.mram = v.mram
  kpr : t.kpr = v.kpr
  pwr : t.pwr = v.pwr
  ready : t.sys.ready = v.sys.ready
  rescue : t.sys.rescue = v.sys.rescue
theorem down_rfl (s : State) : Down s s := ⟨rfl, rfl, rfl, rfl, rfl, rfl⟩
theorem down_trans {u v t : State} (h : Down u v) (g : Down v t) : Down u t :=
  ⟨g.folds.trans h.folds, g.mram.trans h.mram, g.kpr.trans h.kpr, g.pwr.trans h.pwr, g.ready.trans h.ready,
      g.rescue.trans h.rescue⟩
theorem down_laser (s : State) : Down s (dropLaser s) := by
  unfold dropLaser dropGate losePartial
  dsimp only
  repeat' split
  all_goals exact ⟨rfl, rfl, rfl, rfl, rfl, rfl⟩
theorem down_coast (s : State) : Down s (coastSpindle s) := by
  unfold coastSpindle
  split
  · exact down_rfl s
  · split <;> exact ⟨rfl, rfl, rfl, rfl, rfl, rfl⟩
theorem down_open (s : State) : Down s (openLoops s) := by
  unfold openLoops beginRamp
  split <;> exact ⟨rfl, rfl, rfl, rfl, rfl, rfl⟩
theorem off_of {s t : State} (h : Down s t) (e : (s.dring 0 0).en = false) : (t.dring 0 0).en = false :=
  (congrArg Dring.en (dring_congr (s := s) h.folds 0 0)).trans e
theorem post_off {s : State} (e : (s.dring 0 0).en = false) (c : Nat) (w : Word) : postEventTo s 0 c w = s := by
  simp [postEventTo, e]
theorem down_stage (s : State) (c : Nat) (w : Word) (a b : Nat) : Down s (logStage s c w a b) := by
  unfold logStage
  dsimp only
  repeat' split
  all_goals exact ⟨rfl, rfl, rfl, rfl, rfl, rfl⟩
theorem down_note {s : State} (e : (s.dring 0 0).en = false) (c : Nat) (w : Word) (a b : Nat) : Down s (logNote s c w a b) := by
  unfold logNote
  split
  · exact down_stage s c w a b
  · have h1 : Down s (logStage { s with log := { s.log with lostPending := 0 } } evLogLost (w32
      (sat 16 s.log.lostPending)) 0 0) :=
      down_trans (v := { s with log := { s.log with lostPending := 0 } }) ⟨rfl, rfl, rfl, rfl, rfl, rfl⟩ (down_stage _ _ _ _ _)
    dsimp only
    rw [post_off (off_of h1 e)]
    exact down_trans h1 (down_stage _ _ _ _ _)
theorem down_post {s : State} (e : (s.dring 0 0).en = false) (c : Nat) (w : Word) : Down s (postEvent s 0 c w) := by
  have h1 := down_note e c w 0 0
  show Down s (postEventTo (logNote s c w 0 0) 0 c w)
  rw [post_off (off_of h1 e)]
  exact h1
theorem down_sled {s : State} (e : (s.dring 0 0).en = false) : Down s (stopSled s) := by
  unfold stopSled
  dsimp only
  have h1 : Down s (loseSled { s with sled := { s.sled with
      move := .rest, ia := 0, ib := 0, seek := none, settling := false } }) := by
    unfold loseSled
    dsimp only
    split
    · exact ⟨rfl, rfl, rfl, rfl, rfl, rfl⟩
    · exact down_trans (v := { s with sled := { s.sled with
        move := .rest, ia := 0, ib := 0, seek := none, settling := false, lost := true } }) ⟨rfl, rfl, rfl, rfl, rfl, rfl⟩ (down_post (by exact e) _ _)
  exact down_trans h1 ⟨rfl, rfl, rfl, rfl, rfl, rfl⟩
theorem down_iron {s : State} (e : (s.dring 0 0).en = false) : Down s (ironSafe s) := by
  have h1 : Down s (coastSpindle (openLoops s)) := down_trans (down_open s) (down_coast _)
  unfold ironSafe
  exact down_trans h1 (down_sled (off_of h1 e))
theorem down_lock (s : State) : Down s (releaseLock s) := by
  unfold releaseLock
  split <;> exact ⟨rfl, rfl, rfl, rfl, rfl, rfl⟩

/-- Bronze before Iron acts: folds fresh, nothing running. -/
abbrev bronzeGone (s : State) : State :=
  resetFolds { s with sys := {
    mode := s.sys.mode, ready := false, readyAt := s.us, boot := s.sys.boot, rollback := s.sys.rollback
    cal := s.sys.cal, uncal := s.sys.uncal, running := s.sys.running } }

/-- A loss of Bronze's state (R385, R396, Table 16.2). -/
structure BronzeLost (s t : State) : Prop where
  ready : t.sys.ready = false
  rescue : t.sys.rescue = false
  folds : ∀ f : FoldId, t.fold f = freshFold s f
  recs : t.mram = { s.mram with queue := [], refresh := [], refreshAgain := false }
  ldEn : t.servo.ldEn = false
  slots : ∀ i : Fin 17, t.slot i = {}
  job : t.job = none
  halt : t.halt = {}
  pwr : t.pwr = { s.pwr with lossCfg := 0, gov := {}, links := {}, tbLock := false }
  kpr : t.kpr = { s.kpr with latch := [], step := none, closing := [], intHeld := none
                             internal := { s.kpr.internal with armed := false } }

theorem loseBronze_lost (s : State) : BronzeLost s (loseBronze s) := by
  have h1 : Down (bronzeGone s) (releaseLock (ironSafe (dropLaser (bronzeGone s)))) := by
    have e0 : ((bronzeGone s).dring 0 0).en = false := by
      simp [State.dring, State.fold, resetFolds, freshFold]
    have h2 := down_laser (bronzeGone s)
    exact down_trans (down_trans h2 (down_iron (off_of h2 e0))) (down_lock _)
  show BronzeLost s ((resetKeeperWaits (resetMemories (resetMechanism
    (releaseLock (ironSafe (dropLaser (bronzeGone s))))))).emits [.moduleReset true, .linkDown])
  generalize releaseLock (ironSafe (dropLaser (bronzeGone s))) = w at h1 ⊢
  refine ⟨h1.ready, h1.rescue, fun f => ?_, ?_, rfl, fun i => ?_, rfl, rfl, ?_, ?_⟩
  · refine (fold_congr (s := w) rfl f).trans ((fold_congr h1.folds f).trans ?_)
    simp [State.fold, resetFolds]
    rfl
  · have e : w.mram = s.mram := h1.mram
    show { w.mram with queue := [], refresh := [], refreshAgain := false } = _
    rw [e]
  · simp [State.slot, State.emits, resetKeeperWaits, resetMemories, emptyCph]
  · have e : w.pwr = s.pwr := h1.pwr
    show { w.pwr with lossCfg := 0, gov := {}, links := {}, tbLock := false } = _
    rw [e]
  · have e : w.kpr = s.kpr := h1.kpr
    show { w.kpr with
      latch := [], step := none, closing := [], intHeld := none
      internal := { w.kpr.internal with armed := false } } = _
    rw [e]

/-- A fall into VIGIL loses Bronze, with every rail down (R332, R396). -/
theorem enterVigil_lost (s : State) : (enterVigil s).sys.mode = .vigil ∧ (enterVigil s).sys.ready = false ∧
    (∀ f : FoldId, (enterVigil s).fold f = freshFold s f) ∧
    (enterVigil s).pwr = { s.pwr with
      lossCfg := 0, gov := {}, links := {}, tbLock := false, rails := Vector.replicate 8 false } ∧
    (enterVigil s).kpr = { s.kpr with latch := [], step := none, closing := [], intHeld := none
                                      internal := { s.kpr.internal with armed := false } } ∧
    (enterVigil s).mram = { s.mram with queue := [], refresh := [], refreshAgain := false } ∧
    (enterVigil s).servo.ldEn = false := by
  have h := loseBronze_lost s
  unfold enterVigil railsDown
  generalize loseBronze s = w at h ⊢
  refine ⟨rfl, h.ready, fun f => (fold_congr (s := w) rfl f).trans (h.folds f), ?_, h.kpr, h.recs, h.ldEn⟩
  show { w.pwr with rails := Vector.replicate 8 false } = _
  rw [h.pwr]

end Sys2Proof.Machine
end

