-- ==== Sys2Proof/Laws/KeptOps.lean ====
section
/-! SUPPORT. Laws/KeptOps.lean: every operation of Machine/Ops.lean keeps the queue, the reserved bits and the canonical lists. -/
namespace Sys2Proof.Machine

theorem kept_setFold {q : List Instr} {s : State} {f : FoldId} {x : Fold} (h : Kept q s) :
    Kept q (State.setFold s f x) := by
  unfold State.setFold
  refine kept_of ?_
  dsimp -failIfUnchanged only
  refine kept_fields ?_
  exact h

theorem kept_modFold {q : List Instr} {s : State} {f : FoldId} {g : Fold → Fold} (h : Kept q s) :
    Kept q (State.modFold s f g) := by
  unfold State.modFold
  refine kept_setFold ?_
  exact h

theorem kept_modWring {q : List Instr} {s : State} {f : FoldId} {n : RingId} {g : Wring → Wring} (h : Kept q s) :
    Kept q (State.modWring s f n g) := by
  unfold State.modWring
  refine kept_modFold ?_
  exact h

theorem kept_modDring {q : List Instr} {s : State} {f : FoldId} {m : DringId} {g : Dring → Dring} (h : Kept q s) :
    Kept q (State.modDring s f m g) := by
  unfold State.modDring
  refine kept_modFold ?_
  exact h

theorem kept_modDbp {q : List Instr} {s : State} {f : FoldId} {g : Doorbell → Doorbell} (h : Kept q s) :
    Kept q (State.modDbp s f g) := by
  unfold State.modDbp
  refine kept_modFold ?_
  exact h

theorem kept_emit {q : List Instr} {s : State} {o : Out} (h : Kept q s) :
    Kept q (State.emit s o) := by
  unfold State.emit
  refine kept_of ?_
  dsimp -failIfUnchanged only
  refine kept_fields ?_
  exact h

theorem kept_emits {q : List Instr} {s : State} {l : List Out} (h : Kept q s) :
    Kept q (State.emits s l) := by
  unfold State.emits
  refine kept_of ?_
  dsimp -failIfUnchanged only
  refine kept_fields ?_
  exact h

theorem kept_onBar {q : List Instr} {s : State} {f : FoldId} {g : State → State} (hg : ∀ (y0 : State), Kept q y0 → Kept q
    (g y0)) (h : Kept q s) :
    Kept q (onBar s f g) := by
  unfold onBar
  refine kept_ite ?_ ?_
  · refine hg _ ?_
    exact h
  · exact h

theorem kept_drawWord {q : List Instr} {s : State} (h : Kept q s) :
    Kept q (drawWord s).2 := by
  unfold drawWord
  refine kept_snd_mk ?_
  refine kept_of ?_
  dsimp -failIfUnchanged only
  refine kept_fields ?_
  exact h

theorem kept_drawChallenge {q : List Instr} {s : State} (h : Kept q s) :
    Kept q (drawChallenge s).2 := by
  unfold drawChallenge
  refine kept_snd_mk ?_
  refine kept_drawWord ?_
  exact h

theorem kept_modDesc {q : List Instr} {s : State} {f : FoldId} {k : Nat} {g : Desc → Desc} (h : Kept q s) :
    Kept q (State.modDesc s f k g) := by
  unfold State.modDesc
  refine kept_modFold ?_
  exact h

theorem kept_logStage {q : List Instr} {s : State} {code : Nat} {detail : Word} {fold : Nat} {extra : Nat} (h : Kept q s) :
    Kept q (logStage s code detail fold extra) := by
  unfold logStage
  refine kept_ite ?_ ?_
  · exact h
  · refine kept_ite ?_ ?_
    · refine kept_of ?_
      dsimp -failIfUnchanged only
      refine kept_fields ?_
      exact h
    · refine kept_of ?_
      dsimp -failIfUnchanged only
      refine kept_fields ?_
      exact h

theorem kept_sendMsix {q : List Instr} {s : State} {f : FoldId} {v : Fin 8} (h : Kept q s) :
    Kept q (sendMsix s f v) := by
  unfold sendMsix
  refine kept_ite ?_ ?_
  · exact h
  · refine kept_ite ?_ ?_
    · refine kept_modFold ?_
      exact h
    · refine kept_emit ?_
      exact h

theorem kept_signalRing {q : List Instr} {s : State} {f : FoldId} {m : DringId} (h : Kept q s) :
    Kept q (signalRing s f m) := by
  unfold signalRing
  refine kept_sendMsix ?_
  refine kept_modDring ?_
  exact h

theorem kept_notePending {q : List Instr} {s : State} {f : FoldId} {m : DringId} {irq : Bool} (h : Kept q s) :
    Kept q (notePending s f m irq) := by
  unfold notePending
  refine kept_ite ?_ ?_
  · refine kept_signalRing ?_
    refine kept_modDring ?_
    exact h
  · refine kept_modDring ?_
    exact h

theorem kept_releaseIndexGo {q : List Instr} {s : State} {i : Nat} (h : Kept q s) :
    ∀ {l : List (FoldId × Nat)}, Kept q (releaseIndexGo s i l)
  | [] => by
    unfold releaseIndexGo
    exact kept_of { kept_fields h with held := (congrArg keysRise (bufs_stackPush s.pool i)).trans h.held }
  | (f, k) :: r => by
    unfold releaseIndexGo
    split
    · split
      · exact kept_of (kept_fields (u := s) h)
      · exact kept_releaseIndexGo h
    · exact kept_releaseIndexGo h

theorem kept_releaseIndex {q : List Instr} {s : State} {i : Nat} (h : Kept q s) :
    Kept q (releaseIndex s i) := by
  unfold releaseIndex
  refine kept_releaseIndexGo ?_
  exact h

theorem kept_freeBuf {q : List Instr} {s : State} {i : Nat} (h : Kept q s) :
    Kept q (freeBuf s i) := by
  unfold freeBuf
  split
  · exact h
  · refine kept_releaseIndex ?_
    refine kept_of ?_
    dsimp -failIfUnchanged only
    first
                    | refine kept_fields ?_
                    | refine kept_fields_put ?_
                    | refine kept_fields_del ?_
                    | refine kept_fields_gov ?_
                    | refine kept_fields_unarmed ?_
                    | refine kept_fields_noTable ?_
                    | refine kept_fields_release ?_
    exact h

theorem kept_dropHold {q : List Instr} {s : State} {i : Nat} (h : Kept q s) :
    Kept q (dropHold s i) := by
  unfold dropHold
  split
  · exact h
  · refine kept_ite ?_ ?_
    · refine kept_freeBuf ?_
      exact h
    · refine kept_of ?_
      dsimp -failIfUnchanged only
      first
                    | refine kept_fields ?_
                    | refine kept_fields_put ?_
                    | refine kept_fields_del ?_
                    | refine kept_fields_gov ?_
                    | refine kept_fields_unarmed ?_
                    | refine kept_fields_noTable ?_
                    | refine kept_fields_release ?_
      exact h

theorem kept_releasePin {q : List Instr} {s : State} {p : Pin} (h : Kept q s) :
    Kept q (releasePin s p) := by
  unfold releasePin
  split
  · refine kept_dropHold ?_
    exact h
  · split
    · exact h
    · refine kept_ite ?_ ?_
      · refine kept_of ?_
        dsimp -failIfUnchanged only
        refine kept_fields ?_
        refine kept_freeBuf ?_
        exact h
      · refine kept_dropHold ?_
        exact h

theorem kept_releaseHoldings {q : List Instr} {s : State} {f : FoldId} {d : Desc} (h : Kept q s) :
    Kept q (releaseHoldings s f d) := by
  unfold releaseHoldings
  refine kept_foldl (fun t4 _ ht4 => ?_) _ ?_
  · refine kept_releasePin ?_
    exact ht4
  · refine kept_foldl (fun t6 _ ht6 => ?_) _ ?_
    · refine kept_freeBuf ?_
      exact ht6
    · refine kept_foldl (fun t8 _ ht8 => ?_) _ ?_
      · refine kept_releaseIndex ?_
        exact ht8
      · refine kept_modDesc ?_
        refine kept_of ?_
        dsimp -failIfUnchanged only
        refine kept_fields ?_
        exact h

theorem kept_retire {q : List Instr} {s : State} {f : FoldId} {k : Nat} {c : Completion} (h : Kept q s) :
    Kept q (retire s f k c) := by
  unfold retire
  split
  · exact h
  · refine kept_modFold ?_
    refine kept_modWring ?_
    refine kept_of ?_
    dsimp -failIfUnchanged only
    refine kept_fields ?_
    dsimp -failIfUnchanged only
    split
    · refine kept_modFold ?_
      refine kept_releaseHoldings ?_
      exact h
    · refine kept_releaseHoldings ?_
      exact h

theorem kept_writeItem {q : List Instr} {s : State} {f : FoldId} {m : DringId} {it : Item} (h : Kept q s) :
    Kept q (writeItem s f m it) := by
  unfold writeItem
  dsimp -failIfUnchanged only
  split
  · refine kept_retire ?_
    refine kept_notePending ?_
    refine kept_modDbp ?_
    refine kept_modDring ?_
    refine kept_emit ?_
    exact h
  · refine kept_notePending ?_
    refine kept_modDbp ?_
    refine kept_modDring ?_
    refine kept_emit ?_
    exact h

theorem kept_drainHeldGo {q : List Instr} {f : FoldId} {m : DringId} : ∀ {n : Nat} {s : State}, Kept q s → Kept q
    (drainHeldGo n s f m)
  | 0, _, h => h
  | n + 1, s, h => by
    unfold drainHeldGo
    split
    · exact h
    · exact kept_ite (kept_drainHeldGo (n := n) (kept_writeItem (kept_modDring h))) h

theorem kept_postItem {q : List Instr} {s : State} {f : FoldId} {m : DringId} {it : Item} (h : Kept q s) :
    Kept q (postItem s f m it) := by
  unfold postItem
  refine kept_ite ?_ ?_
  · refine kept_writeItem ?_
    exact h
  · dsimp -failIfUnchanged only
    split
    · refine kept_ite ?_ ?_
      · refine kept_modDring ?_
        exact h
      · refine kept_modDring ?_
        exact h
    · refine kept_modDesc ?_
      refine kept_modDring ?_
      exact h

theorem kept_postEventTo {q : List Instr} {s : State} {f : FoldId} {code : Nat} {dw2 : Word} (h : Kept q s) :
    Kept q (postEventTo s f code dw2) := by
  unfold postEventTo
  refine kept_ite ?_ ?_
  · refine kept_postItem ?_
    exact h
  · exact h

theorem kept_logNote {q : List Instr} {s : State} {code : Nat} {detail : Word} {fold : Nat} {extra : Nat} (h : Kept q s) :
    Kept q (logNote s code detail fold extra) := by
  unfold logNote
  refine kept_ite ?_ ?_
  · refine kept_logStage ?_
    exact h
  · refine kept_logStage ?_
    refine kept_postEventTo ?_
    refine kept_logStage ?_
    refine kept_of ?_
    dsimp -failIfUnchanged only
    refine kept_fields ?_
    exact h

theorem kept_postEvent {q : List Instr} {s : State} {f : FoldId} {code : Nat} {dw2 : Word} (h : Kept q s) :
    Kept q (postEvent s f code dw2) := by
  unfold postEvent
  refine kept_postEventTo ?_
  refine kept_ite ?_ ?_
  · refine kept_logNote ?_
    exact h
  · exact h

theorem kept_broadcast {q : List Instr} {s : State} {code : Nat} {dw2 : Word} (h : Kept q s) :
    Kept q (broadcast s code dw2) := by
  unfold broadcast
  refine kept_foldl (fun t0 _ ht0 => ?_) _ ?_
  · refine kept_postEventTo ?_
    exact ht0
  · refine kept_logNote ?_
    exact h

theorem kept_reportLost {q : List Instr} {s : State} {f : FoldId} (h : Kept q s) :
    Kept q (reportLost s f) := by
  unfold reportLost
  refine kept_ite ?_ ?_
  · exact h
  · refine kept_postEvent ?_
    refine kept_modDring ?_
    exact h

theorem kept_drainHeld {q : List Instr} {s : State} {f : FoldId} {m : DringId} (h : Kept q s) :
    Kept q (drainHeld s f m) := by
  unfold drainHeld
  refine kept_ite ?_ ?_
  · refine kept_reportLost ?_
    refine kept_drainHeldGo ?_
    exact h
  · refine kept_drainHeldGo ?_
    exact h

theorem kept_statusBlock {q : List Instr} {s : State} {f : FoldId} (h : Kept q s) :
    Kept q (statusBlock s f) := by
  unfold statusBlock
  refine kept_ite ?_ ?_
  · refine kept_modDbp ?_
    refine kept_emit ?_
    exact h
  · exact h

theorem kept_discardHeld {q : List Instr} {s : State} {f : FoldId} {m : DringId} (h : Kept q s) :
    Kept q (discardHeld s f m) := by
  unfold discardHeld
  refine kept_foldl (fun t1 _ ht1 => ?_) _ ?_
  · dsimp -failIfUnchanged only
    split
    · refine kept_retire ?_
      exact ht1
    · exact ht1
  · refine kept_modDring ?_
    exact h

theorem kept_wringError {q : List Instr} {s : State} {f : FoldId} {n : RingId} {code : Nat} (h : Kept q s) :
    Kept q (wringError s f n code) := by
  unfold wringError
  refine kept_postEvent ?_
  refine kept_statusBlock ?_
  refine kept_modWring ?_
  exact h

theorem kept_dringError {q : List Instr} {s : State} {f : FoldId} {m : DringId} {code : Nat} (h : Kept q s) :
    Kept q (dringError s f m code) := by
  unfold dringError
  refine kept_postEvent ?_
  refine kept_statusBlock ?_
  refine kept_discardHeld ?_
  refine kept_modDring ?_
  exact h

theorem kept_pageFault {q : List Instr} {s : State} {f : FoldId} (h : Kept q s) :
    Kept q (pageFault s f) := by
  unfold pageFault
  refine kept_statusBlock ?_
  refine kept_foldl (fun t6 _ ht6 => ?_) _ ?_
  · refine kept_ite ?_ ?_
    · refine kept_discardHeld ?_
      exact ht6
    · exact ht6
  · refine kept_modFold ?_
    refine kept_ite ?_ ?_
    · refine kept_writeItem ?_
      refine kept_ite ?_ ?_
      · refine kept_logNote ?_
        exact h
      · exact h
    · refine kept_ite ?_ ?_
      · refine kept_logNote ?_
        exact h
      · exact h

theorem kept_finish {q : List Instr} {s : State} {f : FoldId} {k : Nat} {st : Status} {bytes : Nat} (h : Kept q s) :
    Kept q (finish s f k st bytes) := by
  unfold finish
  split
  · exact h
  · refine kept_foldl (fun t2 _ ht2 => ?_) _ ?_
    · refine kept_releaseIndex ?_
      exact ht2
    · refine kept_modDesc ?_
      refine kept_of ?_
      dsimp -failIfUnchanged only
      refine kept_fields ?_
      exact h

theorem kept_finishUnstarted {q : List Instr} {s : State} {f : FoldId} {k : Nat} {st : Status} (h : Kept q s) :
    Kept q (finishUnstarted s f k st) := by
  unfold finishUnstarted
  refine kept_finish ?_
  refine kept_modDesc ?_
  exact h

theorem kept_noteStart {q : List Instr} {s : State} {f : FoldId} {k : Nat} (h : Kept q s) :
    Kept q (noteStart s f k) := by
  unfold noteStart
  refine kept_modDesc ?_
  exact h

theorem kept_deliverAt {q : List Instr} {s : State} {f : FoldId} {k : Nat} {off : Nat} {data : List Byte} (h : Kept q s) :
    Kept q (deliverAt s f k off data) := by
  unfold deliverAt
  refine kept_modDesc ?_
  exact h

theorem kept_deliver {q : List Instr} {s : State} {f : FoldId} {k : Nat} {data : List Byte} (h : Kept q s) :
    Kept q (deliver s f k data) := by
  unfold deliver
  refine kept_deliverAt ?_
  exact h

theorem kept_setAux {q : List Instr} {s : State} {f : FoldId} {k : Nat} {l : List Byte} (h : Kept q s) :
    Kept q (setAux s f k l) := by
  unfold setAux
  refine kept_modDesc ?_
  exact h

theorem kept_releaseLock {q : List Instr} {s : State} (h : Kept q s) :
    Kept q (releaseLock s) := by
  unfold releaseLock
  refine kept_ite ?_ ?_
  · exact h
  · refine kept_of ?_
    dsimp -failIfUnchanged only
    refine kept_fields ?_
    exact h

theorem kept_lockAtCompletion {q : List Instr} {s : State} {f : FoldId} {k : Nat} (h : Kept q s) :
    Kept q (lockAtCompletion s f k) := by
  unfold lockAtCompletion
  refine kept_ite ?_ ?_
  · refine kept_releaseLock ?_
    exact h
  · exact h

end Sys2Proof.Machine
end

