-- ==== Sys2Proof/Laws/KeptEcc.lean ====
section
/-! SUPPORT. Laws/KeptEcc.lean: every operation of Machine/Ecc.lean keeps the queue, the reserved bits and the canonical lists. -/
namespace Sys2Proof.Machine

theorem kept_modBucket {q : List Instr} {s : State} {n : Fin 4} {g : EccBucket → EccBucket} (h : Kept q s) :
    Kept q (State.modBucket s n g) := by
  unfold State.modBucket
  refine kept_of ?_
  dsimp -failIfUnchanged only
  refine kept_fields ?_
  exact h

theorem kept_eccCorrect {q : List Instr} {s : State} {n : Fin 4} (h : Kept q s) :
    Kept q (eccCorrect s n) := by
  unfold eccCorrect
  refine kept_ite ?_ ?_
  · refine kept_postEvent ?_
    refine kept_modBucket ?_
    exact h
  · refine kept_modBucket ?_
    exact h

theorem kept_eccCorrects {q : List Instr} {n : Fin 4} : ∀ {k : Nat} {s : State}, Kept q s → Kept q (eccCorrects k s n)
  | 0, _, h => h
  | k + 1, s, h => kept_eccCorrects (k := k) (kept_eccCorrect h)

theorem kept_eccUncorr {q : List Instr} {s : State} {n : Fin 4} {source : Nat} {fallback : Bool} {tag : Bool} {loc : Nat}
    (h : Kept q s) :
    Kept q (eccUncorr s n source fallback tag loc) := by
  unfold eccUncorr
  refine kept_postEvent ?_
  refine kept_modBucket ?_
  exact h

theorem kept_execBucketLeak {q : List Instr} {n : Fin 4} {s : State} (h : Kept q s) :
    KeptA q (execBucketLeak n s) := by
  unfold execBucketLeak
  refine kept_next ?_
  refine kept_ite ?_ ?_
  · refine kept_modBucket ?_
    exact h
  · exact h

theorem kept_execEccBktStatClear {q : List Instr} {n : Fin 4} {s : State} (h : Kept q s) :
    KeptA q (execEccBktStatClear n s) := by
  unfold execEccBktStatClear
  refine kept_next ?_
  refine kept_onBar (fun s0 hs0 => ?_) ?_
  · refine kept_modBucket ?_
    exact hs0
  · exact h

theorem kept_execEccCountClear {q : List Instr} {n : Fin 4} {s : State} (h : Kept q s) :
    KeptA q (execEccCountClear n s) := by
  unfold execEccCountClear
  refine kept_next ?_
  refine kept_onBar (fun s0 hs0 => ?_) ?_
  · refine kept_modBucket ?_
    exact hs0
  · exact h

theorem kept_execScrubStatClear {q : List Instr} {s : State} (h : Kept q s) :
    KeptA q (execScrubStatClear s) := by
  unfold execScrubStatClear
  refine kept_next ?_
  refine kept_onBar (fun s0 hs0 => ?_) ?_
  · refine kept_of ?_
    dsimp -failIfUnchanged only
    refine kept_fields ?_
    exact hs0
  · exact h

theorem kept_execEccFlipArm {q : List Instr} {v : Word} {s : State} (h : Kept q s) :
    KeptA q (execEccFlipArm v s) := by
  unfold execEccFlipArm
  refine kept_next (kept_ite h ?_)
  exact kept_of { kept_fields h with target := and_and_zero (by decide) }

theorem kept_flipApplied {q : List Instr} {s : State} (h : Kept q s) : Kept q (flipApplied s) := by
  unfold flipApplied
  exact kept_of { kept_fields h with target := BitVec.zero_and }

theorem kept_flipMeets {q : List Instr} {s : State} {target : Nat} {hit : Nat → Bool} (h : Kept q s) :
    Kept q (flipMeets s target hit) := by
  unfold flipMeets
  refine kept_ite ?_ ?_
  · refine kept_flipApplied ?_
    exact h
  · exact h

theorem kept_scrubNext {q : List Instr} {s : State} (h : Kept q s) :
    Kept q (scrubNext s) := by
  unfold scrubNext
  refine kept_ite ?_ ?_
  · refine kept_of ?_
    dsimp -failIfUnchanged only
    refine kept_fields ?_
    exact h
  · refine kept_of ?_
    dsimp -failIfUnchanged only
    refine kept_fields ?_
    exact h

end Sys2Proof.Machine
end

