-- ==== Sys2Proof/Laws/KeptMemory.lean ====
section
/-! SUPPORT. Laws/KeptMemory.lean: every operation of Machine/Memory.lean keeps the queue, the reserved bits and the canonical lists, those
of the SDRAM among them. `EccOk` says what an access keeps of the error-correction state. -/
namespace Sys2Proof.Machine

/-- The flip registers, the other error-correction registers and the lists of wrong words are in order. -/
structure EccOk (e : Ecc) : Prop where
  target : e.flipTarget &&& 0xFFFFFFF0 = 0
  addr : e.flipAddr &&& 0xF0000007 = 0
  check : e.flipCheck &&& 0xFFFFFF00 = 0
  scrubs : e.scrubCtl &&& 0xFFFF0000 = 0
  strengths : e.strength &&& 0xFFFF0000 = 0
  rates : e.vrate &&& 0xFFFFFF80 = 0
  page : e.rawPage &&& 0xFFFFC000 = 0
  sdram : listed (0, 0) e.sdram = true
  wrong : listed 0 e.wrong = true

theorem Kept.ecc {q : List Instr} {u : State} (h : Kept q u) : EccOk u.ecc :=
  ⟨h.target, h.addr, h.check, h.scrubs, h.strengths, h.rates, h.page, h.bad, h.odd⟩

theorem kept_setEcc {q : List Instr} {u : State} {e : Ecc} (h : Kept q u) (he : EccOk e) : Kept q { u with ecc := e } :=
  kept_of { kept_fields h with
    target := he.target, addr := he.addr, check := he.check, scrubs := he.scrubs, strengths := he.strengths
    rates := he.rates, page := he.page, bad := he.sdram, odd := he.wrong }

/-- A fold over accesses keeps what each of them keeps. -/
theorem eccOk_foldl {α : Type} {g : Mem → α → Mem} (hg : ∀ (m : Mem) (a : α), EccOk m.ecc → EccOk (g m a).ecc) :
    ∀ (l : List α) {m : Mem}, EccOk m.ecc → EccOk (l.foldl g m).ecc
  | [], _, h => h
  | a :: r, _, h => eccOk_foldl hg r (hg _ a h)

theorem eccOk_foldl_fst {α β : Type} {g : Mem × β → α → Mem × β} (hg : ∀ (m : Mem × β) (a : α), EccOk m.1.ecc → EccOk (g m a).1.ecc) :
    ∀ (l : List α) {m : Mem × β}, EccOk m.1.ecc → EccOk (l.foldl g m).1.ecc
  | [], _, h => h
  | a :: r, _, h => eccOk_foldl_fst hg r (hg _ a h)

theorem eccOk_ite {c : Prop} [Decidable c] {a b : Mem} (ha : EccOk a.ecc) (hb : EccOk b.ecc) : EccOk (if c then a else b).ecc := by
  split
  · exact ha
  · exact hb

/-! ### The lists of wrong words -/
theorem listed_setFlip {w : Nat} {x : Flip} {l : List (Nat × Flip)} (h : listed (0, 0) l = true) : listed (0, 0) (setFlip w x l) = true := by
  unfold setFlip
  split
  · exact listed_delKey h
  · rename_i hx
    exact listed_putKey hx h

theorem listed_addFlip {w : Nat} {x : Flip} {l : List (Nat × Flip)} (h : listed (0, 0) l = true) : listed (0, 0) (addFlip l w x) = true :=
  listed_setFlip h

theorem listed_addFlips : ∀ (f : List (Nat × Flip)) {l : List (Nat × Flip)}, listed (0, 0) l = true →
    listed (0, 0) (f.foldl (fun l x => addFlip l x.1 x.2) l) = true
  | [], _, h => h
  | x :: r, _, h => listed_addFlips r (listed_addFlip (w := x.1) (x := x.2) h)

/-! ### Words and lines -/
theorem eccOk_addWrong {m : Mem} {w : Nat} {x : BitVec 64} (h : EccOk m.ecc) : EccOk (addWrong m w x).ecc := by
  unfold addWrong
  split
  · exact h
  · refine { h with wrong := ?_ }
    dsimp only
    split
    · exact listed_delKey h.wrong
    · rename_i hy
      exact listed_putKey hy h.wrong

theorem eccOk_newData {m : Mem} {w : Nat} (h : EccOk m.ecc) : EccOk (newData m w).ecc := { h with wrong := listed_delKey h.wrong }

theorem eccOk_flipSpent {e : Ecc} (h : EccOk e) : EccOk (flipSpent e) := { h with target := (by decide : (0 : Word) &&& 0xFFFFFFF0 = 0) }

theorem eccOk_storeWord {x : Flip} {m : Mem} {w : Nat} (h : EccOk m.ecc) : EccOk (storeWord x m w).ecc := by
  unfold storeWord
  split
  · exact eccOk_flipSpent { h with sdram := listed_setFlip h.sdram }
  · exact { h with sdram := listed_setFlip h.sdram }

theorem eccOk_poisonLine {m : Mem} {line : Nat} (h : EccOk m.ecc) : EccOk (poisonLine m line).ecc :=
  eccOk_foldl (fun _ _ hm => eccOk_storeWord hm) _ h

theorem eccOk_loadWord {a : Mem × Bool} {w : Nat} (h : EccOk a.1.ecc) : EccOk (loadWord a w).1.ecc := by
  unfold loadWord
  split
  · exact h
  · dsimp only
    split
    · exact h
    · exact eccOk_storeWord (eccOk_addWrong h)

theorem eccOk_loadLine {source : Nat} {m : Mem} {line : Nat} (h : EccOk m.ecc) : EccOk (loadLine source m line).1.ecc := by
  unfold loadLine
  split
  · have h1 := eccOk_foldl_fst (g := loadWord) (fun _ _ hm => eccOk_loadWord hm) (lineWords line) (m := (m, false)) h
    generalize (lineWords line).foldl loadWord (m, false) = r at h1
    obtain ⟨n, b⟩ := r
    dsimp only
    split
    · exact eccOk_ite (eccOk_poisonLine h1) h1
    · exact h1
  · exact h

/-! ### The cache -/
theorem eccOk_putLine {m : Mem} {l : CacheLine} (h : EccOk m.ecc) : EccOk (putLine m l).ecc := h

theorem eccOk_checkLine {m : Mem} {l : CacheLine} (h : EccOk m.ecc) : EccOk (checkLine m l).1.ecc := by
  unfold checkLine
  refine eccOk_foldl (fun n x hm => ?_) _ h
  dsimp only
  split
  · exact eccOk_addWrong hm
  · exact eccOk_addWrong hm

theorem eccOk_writeBack {m : Mem} {l : CacheLine} (h : EccOk m.ecc) : EccOk (writeBack m l).ecc := by
  unfold writeBack
  have h1 := eccOk_checkLine (l := l) h
  generalize checkLine m l = r at h1
  obtain ⟨n, k, b⟩ := r
  dsimp only
  split
  · exact eccOk_poisonLine h1
  · exact eccOk_foldl (fun _ _ hm => eccOk_storeWord hm) _ h1

theorem eccOk_evict {m : Mem} {l : CacheLine} (h : EccOk m.ecc) : EccOk (evict m l).ecc :=
  eccOk_ite (c := l.dirty = true) (eccOk_writeBack h) h

theorem eccOk_miss {m : Mem} {mask : BitVec 16} {line : Nat} {whole : Bool} (h : EccOk m.ecc) : EccOk (miss m mask line whole).1.ecc := by
  have fill : ∀ (n : Mem) (w : Nat), EccOk n.ecc → EccOk (if whole = true then (putLine n { line := line, way := w }, true)
      else
        let (m, bad) := loadLine 0 (onBus n false line) line
        if bad then ({ m with fault := true }, true) else (putLine m { line := line, way := w }, true)).1.ecc := by
    intro n w hn
    have h2 := eccOk_loadLine (source := 0) (line := line) (m := onBus n false line) hn
    split
    · exact hn
    · dsimp only
      split
      · exact h2
      · exact h2
  unfold miss
  split
  · exact h
  · rename_i w old _
    cases old with
    | none => exact fill _ _ h
    | some l => exact fill _ _ (eccOk_evict h)

theorem eccOk_readHit {m : Mem} {l : CacheLine} (h : EccOk m.ecc) : EccOk (readHit m l).ecc := by
  unfold readHit
  have h1 := eccOk_checkLine (l := l) h
  generalize checkLine m l = r at h1
  obtain ⟨n, k, b⟩ := r
  dsimp only
  split
  · exact h1
  · split
    · exact eccOk_evict h1
    · have h2 := eccOk_loadLine (source := 0) (line := l.line) (m := onBus (dropLine { n with corr := n.corr ++ [1] } l.line) false l.line) h1
      generalize loadLine 0 (onBus (dropLine { n with corr := n.corr ++ [1] } l.line) false l.line) l.line = r at h2
      obtain ⟨k, b⟩ := r
      dsimp only
      split
      · exact h2
      · exact h2

theorem eccOk_readLine {mask : BitVec 16} {m : Mem} {line : Nat} (h : EccOk m.ecc) : EccOk (readLine mask m line).ecc := by
  unfold readLine
  split
  · exact eccOk_readHit h
  · have h1 := eccOk_miss (mask := mask) (line := line) (whole := false) h
    generalize miss m mask line false = r at h1
    obtain ⟨n, b⟩ := r
    dsimp only
    split
    · exact h1
    · exact eccOk_loadLine (m := onBus n false line) h1

theorem eccOk_cacheWord {m : Mem} {l : CacheLine} {w : Nat} (h : EccOk m.ecc) : EccOk (cacheWord m l w).1.ecc := by
  unfold cacheWord
  split
  · exact eccOk_flipSpent h
  · exact h

theorem eccOk_writeHit {m : Mem} {line a b : Nat} (h : EccOk m.ecc) : EccOk (writeHit m line a b).ecc := by
  unfold writeHit
  split
  · exact h
  · exact eccOk_foldl (fun _ _ hm => eccOk_newData hm) _ (eccOk_foldl_fst (fun _ _ hm => eccOk_cacheWord hm) _ h)

theorem eccOk_mergeWord {m : Mem} {w : Nat} (h : EccOk m.ecc) : EccOk (mergeWord m w).ecc := by
  unfold mergeWord
  have h1 := eccOk_loadWord (a := (m, false)) (w := w) h
  generalize loadWord (m, false) w = r at h1
  obtain ⟨n, b⟩ := r
  dsimp only
  split
  · exact eccOk_storeWord h1
  · exact eccOk_storeWord h1

theorem eccOk_writeLine {mask : BitVec 16} {m : Mem} {x : Nat × Nat × Nat} (h : EccOk m.ecc) : EccOk (writeLine mask m x).ecc := by
  obtain ⟨line, a, b⟩ := x
  unfold writeLine
  dsimp only
  split
  · exact eccOk_writeHit (eccOk_ite h (eccOk_readHit h))
  · have h1 := eccOk_miss (mask := mask) (line := line) (whole := decide (a = 0) && decide (64 ≤ b)) h
    generalize miss m mask line (decide (a = 0) && decide (64 ≤ b)) = r at h1
    obtain ⟨n, c⟩ := r
    dsimp only
    split
    · exact eccOk_writeHit h1
    · exact eccOk_foldl (fun _ _ hm => eccOk_mergeWord hm) _
        (eccOk_foldl (g := fun m w => storeWord (0, 0) (newData m w) w) (fun _ _ hm => eccOk_storeWord (eccOk_newData hm)) _ h1)

theorem eccOk_memAccess {m : Mem} {o : MemOp} (h : EccOk m.ecc) : EccOk (memAccess m o).ecc := by
  unfold memAccess
  exact eccOk_ite (eccOk_foldl (fun _ _ hm => eccOk_writeLine hm) _ h) (eccOk_foldl (fun _ _ hm => eccOk_readLine hm) _ h)

/-! ### Accesses and walks -/
theorem kept_memReport {q : List Instr} {s : State} {m : Mem} (h : Kept q s) (hm : EccOk m.ecc) : Kept q (memReport s m) := by
  unfold memReport
  refine kept_foldl (fun t x ht => kept_eccUncorr ht) _ (kept_foldl (fun t x ht => kept_eccCorrect ht) _ ?_)
  exact kept_of (kept_fields (u := { s with ecc := m.ecc }) (kept_setEcc h hm))

theorem kept_memRun {q : List Instr} {s : State} {l : List MemOp} (h : Kept q s) : Kept q (memRun s l).1 := by
  unfold memRun
  refine kept_ite_fst h ?_
  exact kept_memReport h (eccOk_foldl (fun _ _ hm => eccOk_memAccess hm) _ (m := { cache := { s.cache with bus := [] }, ecc := s.ecc }) h.ecc)

theorem kept_cleanWay {q : List Instr} {s : State} {w : Nat} (h : Kept q s) : Kept q (cleanWay s w) := by
  unfold cleanWay
  refine kept_of ?_
  dsimp -failIfUnchanged only
  refine kept_fields ?_
  exact kept_memReport h (eccOk_foldl (fun _ _ hm => eccOk_evict hm) _ (m := { cache := { s.cache with bus := [] }, ecc := s.ecc }) h.ecc)

end Sys2Proof.Machine
end

