-- ==== Sys2Proof/Laws/KeptPoolOps.lean ====
section
/-! SUPPORT. Laws/KeptPoolOps.lean: every operation of Machine/PoolOps.lean keeps the queue, the reserved bits and the canonical lists. -/
namespace Sys2Proof.Machine

theorem kept_refillStack {q : List Instr} {s : State} (h : Kept q s) :
    Kept q (refillStack s) := by
  unfold refillStack
  refine kept_of ?_
  dsimp -failIfUnchanged only
  refine kept_fields ?_
  refine kept_memRun ?_
  exact h

theorem kept_takeBuf {q : List Instr} {s : State} {a : Account} {req : Nat} (h : Kept q s) :
    ∀ r, takeBuf s a req = some r → Kept q r.2 := by
  intro r hr
  unfold takeBuf at hr
  have hs : Kept q (if s.pool.stack.isEmpty = true then refillStack s else s) := kept_ite (kept_refillStack h) h
  generalize (if s.pool.stack.isEmpty = true then refillStack s else s) = u at hr hs
  dsimp only at hr
  split at hr
  · exact absurd hr (by simp)
  · injection hr with hr
    rw [← hr]
    rename_i i p hp
    refine kept_of ?_
    dsimp only
    rw [bufs_stackPop hp]
    exact kept_fields_put hs

theorem kept_takeBufs {q : List Instr} : ∀ {n : Nat} {s : State} {a : Account} {req : Nat}, Kept q s → Kept q
    (takeBufs n s a req).2
  | 0, _, _, _, h => h
  | n + 1, s, a, req, h => by
    unfold takeBufs
    split
    · exact h
    · rename_i i t ht
      exact kept_takeBufs (n := n) (kept_takeBuf h _ ht)

theorem kept_requestBuffers {q : List Instr} {s : State} {f : FoldId} {k : Nat} {n : Nat} (h : Kept q s) :
    Kept q (requestBuffers s f k n) := by
  unfold requestBuffers
  refine kept_ite ?_ ?_
  · refine kept_modDesc ?_
    exact h
  · refine kept_ite ?_ ?_
    · refine kept_modDesc ?_
      refine kept_takeBufs ?_
      exact h
    · refine kept_modDesc ?_
      refine kept_of ?_
      dsimp -failIfUnchanged only
      refine kept_fields ?_
      refine kept_modFold ?_
      exact h

theorem kept_grantWaiting {q : List Instr} {s : State} {f : FoldId} {k : Nat} (h : Kept q s) :
    Kept q (grantWaiting s f k) := by
  unfold grantWaiting
  split
  · exact h
  · dsimp only
    refine kept_modDesc (kept_modFold (kept_takeBufs ?_))
    exact kept_of { kept_fields h with held := keysRise_puts (fun i => i) (fun _ => _) _ h.held }

theorem kept_execRequestGranted {q : List Instr} {s : State} (h : Kept q s) :
    KeptA q (execRequestGranted s) := by
  unfold execRequestGranted
  refine kept_next ?_
  split
  · exact h
  · refine kept_ite ?_ ?_
    · refine kept_grantWaiting ?_
      exact h
    · split
      · refine kept_grantWaiting ?_
        exact h
      · exact h

theorem kept_poolReject {q : List Instr} {s : State} {op : Nat} {req : Nat} {idx : Nat} {cause : Nat} (h : Kept q s) :
    Kept q (poolReject s op req idx cause) := by
  unfold poolReject
  refine kept_ite ?_ ?_
  · exact h
  · refine kept_ite ?_ ?_
    · refine kept_postEvent ?_
      refine kept_of ?_
      dsimp -failIfUnchanged only
      refine kept_fields ?_
      exact h
    · refine kept_of ?_
      dsimp -failIfUnchanged only
      refine kept_fields ?_
      exact h

theorem kept_setBuf {q : List Instr} {s : State} {i : Nat} {b : Buf} (h : Kept q s) :
    Kept q (setBuf s i b) := by
  unfold setBuf
  refine kept_of ?_
  dsimp -failIfUnchanged only
  first
                    | refine kept_fields ?_
                    | refine kept_fields_put ?_
                    | refine kept_fields_del ?_
                    | refine kept_fields_gov ?_
                    | refine kept_fields_unarmed ?_
                    | refine kept_fields_noTable ?_
                    | refine kept_fields_release ?_
  exact h

theorem kept_execAlloc {q : List Instr} {req : Nat} {a : Account} {s : State} (h : Kept q s) :
    KeptA q (execAlloc req a s) := by
  unfold execAlloc
  refine kept_next ?_
  refine kept_ite ?_ ?_
  · refine kept_poolReject ?_
    exact h
  · refine kept_ite ?_ ?_
    · split
      · rename_i _ t0 heqt0
        have ht0 : Kept q t0 := by
          refine (?_ : ∀ r, _ = some r → Kept q r.2) _ heqt0
          refine kept_takeBuf ?_
          exact h
        exact ht0
      · exact h
    · exact h

theorem kept_execShare {q : List Instr} {req : Nat} {idx : Nat} {s : State} (h : Kept q s) :
    KeptA q (execShare req idx s) := by
  unfold execShare
  refine kept_next ?_
  split
  · refine kept_poolReject ?_
    exact h
  · refine kept_ite ?_ ?_
    · refine kept_poolReject ?_
      exact h
    · refine kept_setBuf ?_
      exact h

theorem kept_execDrop {q : List Instr} {req : Nat} {idx : Nat} {s : State} (h : Kept q s) :
    KeptA q (execDrop req idx s) := by
  unfold execDrop
  refine kept_next ?_
  split
  · refine kept_poolReject ?_
    exact h
  · refine kept_ite ?_ ?_
    · refine kept_poolReject ?_
      exact h
    · refine kept_setBuf ?_
      exact h

theorem kept_execFree {q : List Instr} {req : Nat} {idx : Nat} {s : State} (h : Kept q s) :
    KeptA q (execFree req idx s) := by
  unfold execFree
  refine kept_next ?_
  split
  · refine kept_poolReject ?_
    exact h
  · refine kept_ite ?_ ?_
    · refine kept_poolReject ?_
      exact h
    · refine kept_ite ?_ ?_
      · refine kept_poolReject ?_
        exact h
      · refine kept_freeBuf ?_
        exact h

theorem kept_execPass {q : List Instr} {req : Nat} {idx : Nat} {new : Nat} {s : State} (h : Kept q s) :
    KeptA q (execPass req idx new s) := by
  unfold execPass
  refine kept_next ?_
  split
  · refine kept_poolReject ?_
    exact h
  · refine kept_ite ?_ ?_
    · refine kept_poolReject ?_
      exact h
    · refine kept_ite ?_ ?_
      · refine kept_poolReject ?_
        exact h
      · refine kept_setBuf ?_
        exact h

theorem kept_execStackRefill {q : List Instr} {s : State} (h : Kept q s) :
    KeptA q (execStackRefill s) := by
  unfold execStackRefill
  refine kept_next ?_
  refine kept_ite ?_ ?_
  · refine kept_refillStack ?_
    exact h
  · exact h

theorem kept_execStackSpill {q : List Instr} {s : State} (h : Kept q s) :
    KeptA q (execStackSpill s) := by
  unfold execStackSpill
  refine kept_next ?_
  refine kept_ite ?_ ?_
  · refine kept_of ?_
    dsimp -failIfUnchanged only
    refine kept_fields ?_
    refine kept_memRun ?_
    exact h
  · exact h

theorem kept_execFqRejectClear {q : List Instr} {s : State} (h : Kept q s) :
    KeptA q (execFqRejectClear s) := by
  unfold execFqRejectClear
  refine kept_next ?_
  refine kept_onBar (fun s0 hs0 => ?_) ?_
  · refine kept_of ?_
    dsimp -failIfUnchanged only
    refine kept_fields ?_
    exact hs0
  · exact h

theorem kept_execFqWaitClear {q : List Instr} {f : FoldId} {s : State} (h : Kept q s) :
    KeptA q (execFqWaitClear f s) := by
  unfold execFqWaitClear
  refine kept_next ?_
  refine kept_onBar (fun s0 hs0 => ?_) ?_
  · refine kept_modFold ?_
    exact hs0
  · exact h

theorem kept_execFqAuditStart {q : List Instr} {s : State} (h : Kept q s) :
    KeptA q (execFqAuditStart s) := by
  unfold execFqAuditStart
  refine kept_next ?_
  refine kept_ite ?_ ?_
  · refine kept_of ?_
    dsimp -failIfUnchanged only
    refine kept_fields ?_
    exact h
  · exact h

theorem kept_execAuditDone {q : List Instr} {s : State} (h : Kept q s) :
    KeptA q (execAuditDone s) := by
  unfold execAuditDone
  refine kept_next ?_
  refine kept_ite ?_ ?_
  · refine kept_of ?_
    dsimp -failIfUnchanged only
    refine kept_fields ?_
    exact h
  · exact h

end Sys2Proof.Machine
end

