-- ==== Sys2Proof/Laws/KeptPenOps.lean ====
section
/-! SUPPORT. Laws/KeptPenOps.lean: every operation of Machine/PenOps.lean keeps the queue, the reserved bits and the canonical lists. -/
namespace Sys2Proof.Machine

theorem kept_discardCopy {q : List Instr} {s : State} {c : PenCopy} (h : Kept q s) :
    Kept q (discardCopy s c) := by
  unfold discardCopy
  refine kept_ite ?_ ?_
  · refine kept_of ?_
    dsimp -failIfUnchanged only
    refine kept_fields ?_
    refine kept_freeBuf ?_
    exact h
  · refine kept_of ?_
    dsimp -failIfUnchanged only
    refine kept_fields ?_
    dsimp -failIfUnchanged only
    split
    · exact h
    · refine kept_setBuf ?_
      exact h

theorem kept_penRemoveRange {q : List Instr} {s : State} {lba : Nat} {count : Nat} (h : Kept q s) :
    Kept q (penRemoveRange s lba count) := by
  unfold penRemoveRange
  refine kept_foldl (fun t3 _ ht3 => ?_) _ ?_
  · refine kept_discardCopy ?_
    exact ht3
  · refine kept_of ?_
    dsimp -failIfUnchanged only
    refine kept_fields ?_
    exact h

theorem kept_penEmpty {q : List Instr} {s : State} {f : FoldId} (h : Kept q s) :
    Kept q (penEmpty s f) := by
  unfold penEmpty
  refine kept_foldl (fun t0 _ ht0 => ?_) _ ?_
  · refine kept_discardCopy ?_
    exact ht0
  · exact h

theorem kept_penEmptyAll {q : List Instr} {s : State} (h : Kept q s) :
    Kept q (penEmptyAll s) := by
  unfold penEmptyAll
  refine kept_foldl (fun t0 _ ht0 => ?_) _ ?_
  · refine kept_discardCopy ?_
    exact ht0
  · exact h

theorem kept_lookupBlock {q : List Instr} {s : State} {f : FoldId} {mine : List Pin} {b : Nat} (h : Kept q s) :
    Kept q (lookupBlock s f mine b).1 := by
  unfold lookupBlock
  split
  · refine kept_fst_mk ?_
    exact h
  · refine kept_fst_mk ?_
    refine kept_ite ?_ ?_
    · refine kept_modFold ?_
      exact h
    · dsimp -failIfUnchanged only
      split
      · refine kept_modFold ?_
        exact h
      · refine kept_setBuf ?_
        refine kept_modFold ?_
        exact h

theorem kept_penLookup {q : List Instr} {s : State} {f : FoldId} {k : Nat} {lba : Nat} {count : Nat} (h : Kept q s) :
    Kept q (penLookup s f k lba count) := by
  unfold penLookup
  refine kept_modDesc ?_
  refine kept_foldl_fst (fun t0 _ ht0 => ?_) _ ?_
  · refine kept_lookupBlock ?_
    exact ht0
  · refine kept_fst_mk ?_
    exact h

theorem kept_placeBlock {q : List Instr} {f : FoldId} {recovered : Bool} {s : State} {x : Nat × Block} (h : Kept q s) :
    Kept q (placeBlock f recovered s x) := by
  unfold placeBlock
  refine kept_ite h ?_
  split
  · exact kept_ite h (kept_of (kept_fields h))
  · dsimp only
    split
    · rename_i i u hu
      have h1 : Kept q u := by
        split at hu
        · exact kept_takeBuf h _ hu
        · exact absurd hu (by simp)
      exact kept_of (kept_fields h1)
    · split
      · exact kept_of (kept_fields h)
      · exact h

theorem kept_penStore {q : List Instr} {s : State} {f : FoldId} {lba : Nat} (h : Kept q s) :
    Kept q (penStore s f lba) := by
  unfold penStore
  split
  · refine kept_memRun ?_
    exact h
  · exact h

theorem kept_placeStored {q : List Instr} {f : FoldId} {recovered : Bool} {s : State} {x : Nat × Block} (h : Kept q s) :
    Kept q (placeStored f recovered s x) := by
  unfold placeStored
  refine kept_ite ?_ ?_
  · refine kept_placeBlock ?_
    exact h
  · refine kept_penStore ?_
    refine kept_placeBlock ?_
    exact h

theorem kept_penPlace {q : List Instr} {s : State} {f : FoldId} {first : Nat} {blocks : List Block} {named : Nat → Bool} {recovered : Bool} (h : Kept q s) :
    Kept q (penPlace s f first blocks named recovered) := by
  unfold penPlace
  refine kept_foldl (fun t1 _ ht1 => ?_) _ ?_
  · refine kept_placeStored ?_
    exact ht1
  · exact h

theorem kept_execPenCopyExpire {q : List Instr} {f : FoldId} {s : State} (h : Kept q s) :
    KeptA q (execPenCopyExpire f s) := by
  unfold execPenCopyExpire
  refine kept_next ?_
  refine kept_foldl (fun t0 _ ht0 => ?_) _ ?_
  · refine kept_discardCopy ?_
    exact ht0
  · exact h

theorem kept_execPenFlush {q : List Instr} {v : Word} {s : State} (h : Kept q s) :
    KeptA q (execPenFlush v s) := by
  unfold execPenFlush
  refine kept_next ?_
  refine kept_onBar (fun s0 hs0 => ?_) ?_
  · refine kept_foldl (fun t1 _ ht1 => ?_) _ ?_
    · refine kept_ite ?_ ?_
      · refine kept_penEmpty ?_
        exact ht1
      · exact ht1
    · exact hs0
  · exact h

theorem kept_streamUpdate {q : List Instr} {s : State} {f : FoldId} {d : Desc} (h : Kept q s) :
    Kept q (streamUpdate s f d) := by
  unfold streamUpdate
  refine kept_modFold ?_
  exact h

end Sys2Proof.Machine
end

