-- ==== Sys2Proof/Laws/KeptAccept.lean ====
section
/-! SUPPORT. Laws/KeptAccept.lean: every operation of Machine/Accept.lean keeps the queue, the reserved bits and the canonical lists. -/
namespace Sys2Proof.Machine

theorem kept_cachePlace {q : List Instr} {s : State} {g : Grant} (h : Kept q s) :
    Kept q (cachePlace s g) := by
  unfold cachePlace
  refine kept_of ?_
  dsimp -failIfUnchanged only
  refine kept_fields ?_
  exact h

theorem kept_readGrantsFrom {q : List Instr} {s : State} {f : FoldId} {k : Nat} {i : Nat} (h : Kept q s) :
    Kept q (readGrantsFrom s f k i) := by
  unfold readGrantsFrom
  refine kept_emit ?_
  refine kept_modDesc ?_
  exact h

theorem kept_awaitReread {q : List Instr} {s : State} {f : FoldId} {k : Nat} {i : Nat} {reads : Nat} (h : Kept q s) :
    Kept q (awaitReread s f k i reads) := by
  unfold awaitReread
  refine kept_modDesc ?_
  exact h

theorem kept_aerReport {q : List Instr} {s : State} {f : FoldId} (h : Kept q s) :
    Kept q (aerReport s f) := by
  unfold aerReport
  refine kept_emit ?_
  refine kept_modFold ?_
  exact h

theorem kept_afterStep5 {q : List Instr} {s : State} {f : FoldId} {k : Nat} (h : Kept q s) :
    Kept q (afterStep5 s f k) := by
  unfold afterStep5
  split
  · exact h
  · refine kept_requestBuffers ?_
    dsimp -failIfUnchanged only
    split
    · refine kept_penLookup ?_
      refine kept_ite ?_ ?_
      · refine kept_streamUpdate ?_
        split
        · refine kept_penRemoveRange ?_
          refine kept_modDesc ?_
          exact h
        · refine kept_penRemoveRange ?_
          refine kept_modDesc ?_
          exact h
        · refine kept_penEmptyAll ?_
          refine kept_modDesc ?_
          exact h
        · refine kept_penEmptyAll ?_
          refine kept_modDesc ?_
          exact h
        · refine kept_modDesc ?_
          exact h
      · split
        · refine kept_penRemoveRange ?_
          refine kept_modDesc ?_
          exact h
        · refine kept_penRemoveRange ?_
          refine kept_modDesc ?_
          exact h
        · refine kept_penEmptyAll ?_
          refine kept_modDesc ?_
          exact h
        · refine kept_penEmptyAll ?_
          refine kept_modDesc ?_
          exact h
        · refine kept_modDesc ?_
          exact h
    · refine kept_penLookup ?_
      refine kept_ite ?_ ?_
      · refine kept_streamUpdate ?_
        split
        · refine kept_penRemoveRange ?_
          refine kept_modDesc ?_
          exact h
        · refine kept_penRemoveRange ?_
          refine kept_modDesc ?_
          exact h
        · refine kept_penEmptyAll ?_
          refine kept_modDesc ?_
          exact h
        · refine kept_penEmptyAll ?_
          refine kept_modDesc ?_
          exact h
        · refine kept_modDesc ?_
          exact h
      · split
        · refine kept_penRemoveRange ?_
          refine kept_modDesc ?_
          exact h
        · refine kept_penRemoveRange ?_
          refine kept_modDesc ?_
          exact h
        · refine kept_penEmptyAll ?_
          refine kept_modDesc ?_
          exact h
        · refine kept_penEmptyAll ?_
          refine kept_modDesc ?_
          exact h
        · refine kept_modDesc ?_
          exact h
    · refine kept_ite ?_ ?_
      · refine kept_streamUpdate ?_
        split
        · refine kept_penRemoveRange ?_
          refine kept_modDesc ?_
          exact h
        · refine kept_penRemoveRange ?_
          refine kept_modDesc ?_
          exact h
        · refine kept_penEmptyAll ?_
          refine kept_modDesc ?_
          exact h
        · refine kept_penEmptyAll ?_
          refine kept_modDesc ?_
          exact h
        · refine kept_modDesc ?_
          exact h
      · split
        · refine kept_penRemoveRange ?_
          refine kept_modDesc ?_
          exact h
        · refine kept_penRemoveRange ?_
          refine kept_modDesc ?_
          exact h
        · refine kept_penEmptyAll ?_
          refine kept_modDesc ?_
          exact h
        · refine kept_penEmptyAll ?_
          refine kept_modDesc ?_
          exact h
        · refine kept_modDesc ?_
          exact h

theorem kept_steps45 {q : List Instr} {s : State} {f : FoldId} {k : Nat} (h : Kept q s) :
    Kept q (steps45 s f k) := by
  unfold steps45
  split
  · exact h
  · refine kept_ite ?_ ?_
    · refine kept_finishUnstarted ?_
      exact h
    · split
      · refine kept_finishUnstarted ?_
        exact h
      · refine kept_afterStep5 ?_
        exact h

theorem kept_grantHeld {q : List Instr} {s : State} {f : FoldId} {k : Nat} {g : Grant} (h : Kept q s) :
    Kept q (grantHeld s f k g) := by
  unfold grantHeld
  refine kept_steps45 ?_
  refine kept_modDesc ?_
  exact h

theorem kept_step3 {q : List Instr} {s : State} {f : FoldId} {k : Nat} {d : Desc} (h : Kept q s) :
    Kept q (step3 s f k d) := by
  unfold step3
  refine kept_ite ?_ ?_
  · refine kept_steps45 ?_
    exact h
  · refine kept_ite ?_ ?_
    · refine kept_finishUnstarted ?_
      exact h
    · split
      · refine kept_grantHeld ?_
        refine kept_of ?_
        dsimp -failIfUnchanged only
        refine kept_fields ?_
        exact h
      · refine kept_readGrantsFrom ?_
        refine kept_of ?_
        dsimp -failIfUnchanged only
        refine kept_fields ?_
        exact h

theorem kept_steps25 {q : List Instr} {s : State} {f : FoldId} {k : Nat} (h : Kept q s) :
    Kept q (steps25 s f k) := by
  unfold steps25
  split
  · exact h
  · refine kept_ite ?_ ?_
    · refine kept_finishUnstarted ?_
      exact h
    · refine kept_step3 ?_
      exact h

theorem kept_accept {q : List Instr} {s : State} {f : FoldId} {k : Nat} (h : Kept q s) :
    Kept q (accept s f k) := by
  unfold accept
  split
  · exact h
  · refine kept_ite ?_ ?_
    · refine kept_emit ?_
      refine kept_modDesc ?_
      exact h
    · refine kept_steps25 ?_
      refine kept_modDesc ?_
      exact h

theorem kept_reject {q : List Instr} {s : State} {f : FoldId} {k : Nat} {st : Status} (h : Kept q s) :
    Kept q (reject s f k st) := by
  unfold reject
  refine kept_modDesc ?_
  exact h

theorem kept_checkLength {q : List Instr} {s : State} {f : FoldId} {k : Nat} {d : Desc} (h : Kept q s) :
    Kept q (checkLength s f k d) := by
  unfold checkLength
  refine kept_ite ?_ ?_
  · refine kept_emit ?_
    refine kept_modDesc ?_
    exact h
  · split
    · refine kept_ite ?_ ?_
      · refine kept_reject ?_
        exact h
      · refine kept_accept ?_
        exact h
    · refine kept_accept ?_
      exact h

theorem kept_vaultKeyRead {q : List Instr} {s : State} {f : FoldId} {k : Nat} {d : Desc} {r : ReadResult (List Byte)} (h : Kept q s) :
    Kept q (vaultKeyRead s f k d r) := by
  unfold vaultKeyRead
  split
  · refine kept_accept ?_
    refine kept_aerReport ?_
    exact h
  · refine kept_ite ?_ ?_
    · refine kept_reject ?_
      exact h
    · refine kept_accept ?_
      exact h

theorem kept_postDuplicate {q : List Instr} {s : State} {f : FoldId} {n : RingId} {k : Nat} {idx : Word} {x : Fields}
    {c : Completion} (h : Kept q s) :
    Kept q (postDuplicate s f n k idx x c) := by
  unfold postDuplicate
  refine kept_ite ?_ ?_
  · refine kept_modWring ?_
    exact h
  · refine kept_postItem ?_
    refine kept_modFold ?_
    refine kept_modWring ?_
    exact h

theorem kept_enterStep1 {q : List Instr} {s : State} {f : FoldId} {k : Nat} {x : Fields} (h : Kept q s) :
    Kept q (enterStep1 s f k x) := by
  unfold enterStep1
  refine kept_ite ?_ ?_
  · refine kept_reject ?_
    exact h
  · split
    · refine kept_reject ?_
      exact h
    · dsimp -failIfUnchanged only
      split
      · refine kept_modDesc ?_
        exact h
      · refine kept_ite ?_ ?_
        · refine kept_checkLength ?_
          refine kept_modDesc ?_
          exact h
        · refine kept_ite ?_ ?_
          · refine kept_checkLength ?_
            refine kept_modDesc ?_
            exact h
          · refine kept_ite ?_ ?_
            · refine kept_reject ?_
              refine kept_modDesc ?_
              exact h
            · refine kept_emit ?_
              refine kept_modDesc ?_
              exact h

theorem kept_consumeOne {q : List Instr} {f : FoldId} {n : RingId} {s : State} {raw : RawDesc} (h : Kept q s) :
    Kept q (consumeOne f n s raw) := by
  unfold consumeOne
  refine kept_ite ?_ ?_
  · refine kept_postDuplicate ?_
    refine kept_modFold ?_
    refine kept_modWring ?_
    exact h
  · dsimp -failIfUnchanged only
    split
    · refine kept_postDuplicate ?_
      refine kept_modFold ?_
      refine kept_modWring ?_
      exact h
    · refine kept_enterStep1 ?_
      refine kept_modFold ?_
      refine kept_modWring ?_
      refine kept_modFold ?_
      refine kept_modWring ?_
      exact h

theorem kept_execDescriptorFetch {q : List Instr} {s : State} (h : Kept q s) :
    KeptA q (execDescriptorFetch s) := by
  unfold execDescriptorFetch
  refine kept_next ?_
  refine kept_ite ?_ ?_
  · exact h
  · split
    · exact h
    · refine kept_emit ?_
      refine kept_of ?_
      dsimp -failIfUnchanged only
      refine kept_fields ?_
      refine kept_modFold ?_
      refine kept_modWring ?_
      exact h

theorem kept_consumeAll {q : List Instr} {f : FoldId} {n : RingId} : ∀ {l : List RawDesc} {s : State}, Kept q s →
    Kept q (consumeAll f n s l)
  | [], _, h => h
  | r :: rest, s, h => by
    unfold consumeAll
    exact kept_ite h (kept_consumeAll (kept_consumeOne h))

theorem kept_execDescriptorConsume {q : List Instr} {f : FoldId} {n : RingId} {r : ReadResult (List RawDesc)} {s : State} (h : Kept q s) :
    KeptA q (execDescriptorConsume f n r s) := by
  unfold execDescriptorConsume
  refine kept_next ?_
  refine kept_ite ?_ ?_
  · exact h
  · refine kept_ite ?_ ?_
    · refine kept_modWring ?_
      exact h
    · split
      · refine kept_wringError ?_
        refine kept_modWring ?_
        exact h
      · refine kept_ite ?_ ?_
        · refine kept_consumeAll ?_
          refine kept_modWring ?_
          exact h
        · refine kept_modWring ?_
          exact h

theorem kept_execListRead {q : List Instr} {f : FoldId} {k : Nat} {r : ReadResult (List RawEntry)} {s : State} (h : Kept q s) :
    KeptA q (execListRead f k r s) := by
  unfold execListRead
  refine kept_next ?_
  split
  · exact h
  · refine kept_ite ?_ ?_
    · exact h
    · split
      · refine kept_reject ?_
        exact h
      · split
        · refine kept_reject ?_
          exact h
        · refine kept_checkLength ?_
          refine kept_modDesc ?_
          exact h

theorem kept_scanEntries {q : List Instr} {s : State} {f : FoldId} {k : Nat} {d : Desc} (h : Kept q s) :
    ∀ {l : List RawGrant} {i : Nat}, Kept q (scanEntries s f k d l i)
  | [], i => by
    unfold scanEntries
    exact kept_ite (kept_finishUnstarted h) (kept_readGrantsFrom h)
  | g :: rest, i => by
    unfold scanEntries
    exact kept_ite (kept_finishUnstarted h) (kept_ite (kept_awaitReread h)
      (kept_ite (kept_grantHeld (kept_cachePlace h)) (kept_scanEntries h)))

theorem kept_execGrantTableRead {q : List Instr} {f : FoldId} {k : Nat} {r : ReadResult (List RawGrant)} {s : State}
    (h : Kept q s) :
    KeptA q (execGrantTableRead f k r s) := by
  unfold execGrantTableRead
  refine kept_next ?_
  split
  · exact h
  · split
    · refine kept_ite ?_ ?_
      · refine kept_finishUnstarted ?_
        exact h
      · dsimp -failIfUnchanged only
        split
        · refine kept_scanEntries ?_
          exact h
        · refine kept_scanEntries ?_
          exact h
    · exact h

theorem kept_execGrantReread {q : List Instr} {f : FoldId} {k : Nat} {r : ReadResult RawGrant} {s : State} (h : Kept q s) :
    KeptA q (execGrantReread f k r s) := by
  unfold execGrantReread
  refine kept_next ?_
  split
  · exact h
  · split
    · refine kept_ite ?_ ?_
      · refine kept_finishUnstarted ?_
        exact h
      · refine kept_ite ?_ ?_
        · exact h
        · split
          · refine kept_scanEntries ?_
            refine kept_aerReport ?_
            refine kept_emit ?_
            exact h
          · refine kept_ite ?_ ?_
            · refine kept_ite ?_ ?_
              · refine kept_scanEntries ?_
                refine kept_of ?_
                dsimp -failIfUnchanged only
                refine kept_fields ?_
                refine kept_emit ?_
                exact h
              · refine kept_awaitReread ?_
                refine kept_emit ?_
                exact h
            · refine kept_scanEntries ?_
              refine kept_emit ?_
              exact h
    · exact h

theorem kept_execGntBaseWrite {q : List Instr} {high : Bool} {v : Word} {s : State} (h : Kept q s) :
    KeptA q (execGntBaseWrite high v s) := by
  unfold execGntBaseWrite
  refine kept_next (kept_onBar (fun t ht => ?_) h)
  refine kept_ite ht (kept_ite ?_ ?_)
  · exact kept_of (kept_fields (u := t) ht)
  · exact kept_of { kept_fields ht with gntBase := and_and_zero (by decide) }

theorem kept_execGntCtlWrite {q : List Instr} {v : Word} {s : State} (h : Kept q s) :
    KeptA q (execGntCtlWrite v s) := by
  unfold execGntCtlWrite
  refine kept_next ?_
  refine kept_onBar (fun s0 hs0 => ?_) ?_
  · refine kept_ite ?_ ?_
    · refine kept_of ?_
      dsimp -failIfUnchanged only
      refine kept_fields ?_
      exact hs0
    · refine kept_of ?_
      dsimp -failIfUnchanged only
      refine kept_fields ?_
      exact hs0
  · exact h

theorem kept_execGntStatClear {q : List Instr} {s : State} (h : Kept q s) :
    KeptA q (execGntStatClear s) := by
  unfold execGntStatClear
  refine kept_next ?_
  refine kept_onBar (fun s0 hs0 => ?_) ?_
  · refine kept_of ?_
    dsimp -failIfUnchanged only
    refine kept_fields ?_
    exact hs0
  · exact h

end Sys2Proof.Machine
end

