-- ==== Sys2Proof/Laws/KeptDrover.lean ====
section
/-! SUPPORT. Laws/KeptDrover.lean: every operation of Machine/Drover.lean keeps the queue, the reserved bits and the canonical lists. -/
namespace Sys2Proof.Machine

theorem kept_modJob {q : List Instr} {s : State} {g : Job → Job} (h : Kept q s) :
    Kept q (State.modJob s g) := by
  unfold State.modJob
  refine kept_of ?_
  dsimp -failIfUnchanged only
  refine kept_fields ?_
  exact h

theorem kept_endJob {q : List Instr} {s : State} {st : Status} {bytes : Nat} (h : Kept q s) :
    Kept q (endJob s st bytes) := by
  unfold endJob
  split
  · exact h
  · split
    · refine kept_of ?_
      dsimp -failIfUnchanged only
      refine kept_fields ?_
      exact h
    · refine kept_ite ?_ ?_
      · exact h
      · refine kept_modDesc ?_
        refine kept_modJob ?_
        exact h

theorem kept_stopJob {q : List Instr} {s : State} {st : Status} (h : Kept q s) :
    Kept q (stopJob s st) := by
  unfold stopJob
  split
  · refine kept_endJob ?_
    exact h
  · refine kept_endJob ?_
    refine kept_modDesc ?_
    exact h

theorem kept_losePartial {q : List Instr} {s : State} (h : Kept q s) :
    Kept q (losePartial s) := by
  unfold losePartial
  split
  · refine kept_of ?_
    dsimp -failIfUnchanged only
    refine kept_fields ?_
    exact h
  · exact h

/-- WGATE falls. -/
theorem kept_gateLow {q : List Instr} {s : State} (h : Kept q s) : Kept q { s with servo := { s.servo with wgate := false } } :=
  kept_of { kept_fields h with gate := fun hw => absurd hw (by simp) }

theorem kept_dropGate {q : List Instr} {s : State} (h : Kept q s) : Kept q (dropGate s) := by
  have ht := kept_losePartial h
  unfold dropGate
  dsimp only
  generalize losePartial s = t at ht
  exact kept_ite (kept_emit (kept_gateLow ht)) ht

theorem kept_nextTurn {q : List Instr} {s : State} (h : Kept q s) :
    ∀ r, nextTurn s = some r → Kept q r.2 := by
  intro r hr
  unfold nextTurn at hr
  dsimp only at hr
  split at hr
  · exact absurd hr (by simp)
  · split at hr
    · exact absurd hr (by simp)
    · injection hr with hr
      rw [← hr]
      refine kept_of ?_
      dsimp only
      refine kept_fields ?_
      exact kept_foldl (fun _ _ ht => kept_modFold ht) _ h

theorem kept_startDesc {q : List Instr} {s : State} {f : FoldId} {d : Desc} (h : Kept q s) :
    Kept q (startDesc s f d) := by
  unfold startDesc
  refine kept_emits ?_
  refine kept_noteStart ?_
  exact h

theorem kept_dispatchDesc {q : List Instr} {s : State} {f : FoldId} {d : Desc} (h : Kept q s) :
    Kept q (dispatchDesc s f d) := by
  unfold dispatchDesc
  refine kept_ite ?_ ?_
  · refine kept_finish ?_
    refine kept_noteStart ?_
    exact h
  · refine kept_ite ?_ ?_
    · refine kept_finish ?_
      refine kept_noteStart ?_
      exact h
    · refine kept_ite ?_ ?_
      · refine kept_finish ?_
        refine kept_noteStart ?_
        exact h
      · refine kept_of ?_
        dsimp -failIfUnchanged only
        refine kept_fields ?_
        refine kept_startDesc ?_
        exact h

/-- After it WGATE is low. -/
theorem wgate_dropGate (s : State) : (dropGate s).servo.wgate = false := by
  unfold dropGate
  dsimp only
  generalize losePartial s = t
  by_cases hw : t.servo.wgate = true
  · rw [if_pos hw]
    rfl
  · rw [if_neg hw]
    simpa using hw

theorem kept_endTurn {q : List Instr} {s : State} {f : FoldId} (h : Kept q s) :
    Kept q (endTurn s f) := by
  unfold endTurn
  refine kept_ite ?_ ?_
  · refine kept_of ?_
    dsimp -failIfUnchanged only
    refine kept_fields ?_
    refine kept_modFold ?_
    exact h
  · refine kept_ite ?_ ?_
    · refine kept_of ?_
      dsimp -failIfUnchanged only
      refine kept_fields ?_
      exact h
    · exact h

theorem kept_settleFold {q : List Instr} {s : State} {f : FoldId} (h : Kept q s) : Kept q (settleFold s f) :=
  kept_ite (kept_endTurn h) h

theorem kept_settleTurn {q : List Instr} {s : State} (h : Kept q s) :
    Kept q (settleTurn s) := by
  unfold settleTurn
  split
  · exact kept_settleFold h
  · exact h

theorem kept_stopSpeculation {q : List Instr} {s : State} (h : Kept q s) :
    Kept q (stopSpeculation s) := by
  unfold stopSpeculation
  refine kept_ite ?_ ?_
  · exact h
  · refine kept_of ?_
    dsimp -failIfUnchanged only
    refine kept_fields ?_
    exact h

theorem kept_execDroverDispatch {q : List Instr} {s : State} (h : Kept q s) :
    KeptA q (execDroverDispatch s) := by
  unfold execDroverDispatch
  refine kept_next (kept_ite h ?_)
  have h1 := kept_settleTurn (kept_stopSpeculation h)
  generalize settleTurn (stopSpeculation s) = u at h1
  have h2 : ∀ r, (match u.drover.turn with
      | some f => some (f, u)
      | none => nextTurn u) = some r → Kept q r.2 := by
    split
    · exact kept_some h1
    · exact kept_nextTurn h1
  dsimp only
  split
  · exact h1
  · rename_i f t hx
    have ht : Kept q t := h2 (f, t) hx
    split
    · exact ht
    · exact kept_settleTurn (kept_dispatchDesc ht)

theorem kept_execDescriptorStart {q : List Instr} {f : FoldId} {k : Nat} {s : State} (h : Kept q s) :
    KeptA q (execDescriptorStart f k s) := by
  unfold execDescriptorStart
  refine kept_next ?_
  split
  · exact h
  · refine kept_ite ?_ ?_
    · refine kept_startDesc ?_
      exact h
    · exact h

theorem kept_completeOk {q : List Instr} {s : State} {f : FoldId} {k : Nat} {bytes : Nat} (h : Kept q s) :
    Kept q (completeOk s f k bytes) := by
  unfold completeOk
  refine kept_finish ?_
  exact h

theorem kept_stopAtBoundary {q : List Instr} {s : State} {st : Status} (h : Kept q s) :
    Kept q (stopAtBoundary s st) := by
  unfold stopAtBoundary
  refine kept_ite ?_ ?_
  · refine kept_modJob ?_
    exact h
  · refine kept_stopJob ?_
    exact h

theorem kept_execDescriptorTimeout {q : List Instr} {f : FoldId} {k : Nat} {s : State} (h : Kept q s) :
    KeptA q (execDescriptorTimeout f k s) := by
  unfold execDescriptorTimeout
  refine kept_next ?_
  split
  · exact h
  · refine kept_ite ?_ ?_
    · exact h
    · split
      · refine kept_ite ?_ ?_
        · refine kept_stopJob ?_
          exact h
        · exact h
      · refine kept_ite ?_ ?_
        · refine kept_settleTurn ?_
          refine kept_finishUnstarted ?_
          refine kept_ite ?_ ?_
          · refine kept_of ?_
            dsimp -failIfUnchanged only
            refine kept_fields ?_
            exact h
          · exact h
        · exact h

theorem kept_endDrain {q : List Instr} {s : State} (h : Kept q s) :
    Kept q (endDrain s) := by
  unfold endDrain
  refine kept_of ?_
  dsimp -failIfUnchanged only
  refine kept_fields ?_
  exact h

theorem kept_abortUnstarted {q : List Instr} {s : State} {f : FoldId} {d : Desc} (h : Kept q s) :
    Kept q (abortUnstarted s f d) := by
  unfold abortUnstarted
  refine kept_ite ?_ ?_
  · refine kept_settleTurn ?_
    refine kept_finishUnstarted ?_
    refine kept_ite ?_ ?_
    · refine kept_endDrain ?_
      exact h
    · exact h
  · exact h

theorem kept_noteSense {q : List Instr} {s : State} {f : FoldId} {d : Desc} (h : Kept q s) :
    Kept q (noteSense s f d) := by
  unfold noteSense
  refine kept_ite ?_ ?_
  · refine kept_modFold ?_
    exact h
  · exact h

theorem kept_completionPost {q : List Instr} {f : FoldId} {k : Nat} {s : State} (h : Kept q s) :
    Kept q (completionPost f k s) := by
  unfold completionPost
  split
  · exact h
  · refine kept_ite ?_ ?_
    · exact h
    · refine kept_ite ?_ ?_
      · refine kept_retire ?_
        refine kept_lockAtCompletion ?_
        refine kept_modDesc ?_
        refine kept_noteSense ?_
        refine kept_emits ?_
        exact h
      · refine kept_reportLost ?_
        refine kept_postItem ?_
        refine kept_lockAtCompletion ?_
        refine kept_modDesc ?_
        refine kept_noteSense ?_
        refine kept_emits ?_
        exact h

theorem kept_execCompletionPost {q : List Instr} {f : FoldId} {k : Nat} {s : State} (h : Kept q s) :
    KeptA q (execCompletionPost f k s) := by
  unfold execCompletionPost
  refine kept_next ?_
  refine kept_completionPost ?_
  exact h

end Sys2Proof.Machine
end

