-- ==== Sys2Proof/Laws/KeptRings.lean ====
section
/-! SUPPORT. Laws/KeptRings.lean: every operation of Machine/Rings.lean keeps the queue, the reserved bits and the canonical lists. -/
namespace Sys2Proof.Machine

theorem kept_execDoorbellPoll {q : List Instr} {f : FoldId} {s : State} (h : Kept q s) :
    KeptA q (execDoorbellPoll f s) := by
  unfold execDoorbellPoll
  refine kept_next ?_
  refine kept_ite ?_ ?_
  · refine kept_emit ?_
    refine kept_modDbp ?_
    exact h
  · exact h

theorem kept_takeTail {q : List Instr} {s : State} {f : FoldId} {n : RingId} {t : Word} (h : Kept q s) :
    Kept q (takeTail s f n t).1 := by
  unfold takeTail
  refine kept_ite_fst ?_ ?_
  · refine kept_fst_mk ?_
    exact h
  · refine kept_ite_fst ?_ ?_
    · refine kept_fst_mk ?_
      refine kept_wringError ?_
      exact h
    · refine kept_fst_mk ?_
      refine kept_modWring ?_
      exact h

theorem kept_takeTails {q : List Instr} {s : State} {f : FoldId} {p : PollData} (h : Kept q s) :
    Kept q (takeTails s f p).1 := by
  unfold takeTails
  refine kept_foldl_fst (fun t0 _ ht0 => ?_) _ ?_
  · refine kept_fst_mk ?_
    refine kept_takeTail ?_
    exact ht0
  · refine kept_fst_mk ?_
    exact h

theorem kept_takeHead {q : List Instr} {f : FoldId} {m : DringId} {h1 : Word} {s : State} (h : Kept q s) :
    Kept q (takeHead f m h1 s) := by
  unfold takeHead
  refine kept_ite ?_ ?_
  · exact h
  · refine kept_ite ?_ ?_
    · refine kept_drainHeld ?_
      refine kept_modDring ?_
      exact h
    · refine kept_dringError ?_
      exact h

theorem kept_execPollResult {q : List Instr} {f : FoldId} {r : ReadResult PollData} {s : State} (h : Kept q s) :
    KeptA q (execPollResult f r s) := by
  unfold execPollResult
  refine kept_next ?_
  dsimp -failIfUnchanged only
  split
  · exact h
  · split
    · exact kept_modDbp h
    · cases r
      · exact kept_modDbp (kept_takeTails (kept_takeHead (kept_takeHead (kept_modDbp h))))
      · exact kept_pageFault (kept_modDbp h)

theorem kept_execSleepEnter {q : List Instr} {f : FoldId} {s : State} (h : Kept q s) :
    KeptA q (execSleepEnter f s) := by
  unfold execSleepEnter
  refine kept_next ?_
  refine kept_ite ?_ ?_
  · refine kept_emit ?_
    refine kept_statusBlock ?_
    refine kept_of ?_
    dsimp -failIfUnchanged only
    refine kept_fields ?_
    refine kept_modDbp ?_
    exact h
  · exact h

theorem kept_startPolling {q : List Instr} {s : State} {f : FoldId} (h : Kept q s) :
    Kept q (startPolling s f) := by
  unfold startPolling
  refine kept_modDbp ?_
  exact h

theorem kept_execFinalTailRead {q : List Instr} {f : FoldId} {r : ReadResult PollData} {s : State} (h : Kept q s) :
    KeptA q (execFinalTailRead f r s) := by
  unfold execFinalTailRead
  refine kept_next ?_
  dsimp -failIfUnchanged only
  split
  · exact kept_modDbp h
  · split
    · exact h
    · cases r
      · rename_i p
        have h1 : Kept q (takeTails (s.modDbp f fun d => { d with finalRead := false, polling := false }) f p).1 :=
          kept_takeTails (kept_modDbp h)
        exact kept_ite (kept_statusBlock (kept_modDbp (kept_startPolling h1))) (kept_ite (kept_modDbp h1) h1)
      · exact kept_pageFault (kept_modDbp h)

theorem kept_wakeFold {q : List Instr} {f : FoldId} {s : State} (h : Kept q s) :
    Kept q (wakeFold f s) := by
  unfold wakeFold
  refine kept_ite ?_ ?_
  · refine kept_modDbp ?_
    exact h
  · refine kept_ite ?_ ?_
    · refine kept_statusBlock ?_
      refine kept_modDbp ?_
      refine kept_ite ?_ ?_
      · refine kept_startPolling ?_
        refine kept_modDbp ?_
        exact h
      · refine kept_modDbp ?_
        refine kept_modDbp ?_
        exact h
    · refine kept_modDbp ?_
      refine kept_modDbp ?_
      exact h

theorem kept_execStatusBlockWrite {q : List Instr} {f : FoldId} {s : State} (h : Kept q s) :
    KeptA q (execStatusBlockWrite f s) := by
  unfold execStatusBlockWrite
  refine kept_next ?_
  refine kept_ite ?_ ?_
  · refine kept_statusBlock ?_
    exact h
  · exact h

theorem kept_execHeadRead {q : List Instr} {f : FoldId} {m : DringId} {r : ReadResult Word} {s : State} (h : Kept q s) :
    KeptA q (execHeadRead f m r s) := by
  unfold execHeadRead
  refine kept_next ?_
  refine kept_ite ?_ ?_
  · exact h
  · dsimp -failIfUnchanged only
    split
    · refine kept_pageFault ?_
      exact h
    · refine kept_takeHead ?_
      exact h

theorem kept_execCoalTimeExpiry {q : List Instr} {f : FoldId} {m : DringId} {s : State} (h : Kept q s) :
    KeptA q (execCoalTimeExpiry f m s) := by
  unfold execCoalTimeExpiry
  refine kept_next ?_
  dsimp -failIfUnchanged only
  split
  · refine kept_ite ?_ ?_
    · refine kept_signalRing ?_
      exact h
    · exact h
  · exact h

theorem kept_markIndex {q : List Instr} {s : State} {f : FoldId} {changed : Bool} (h : Kept q s) :
    Kept q (markIndex s f changed) := by
  unfold markIndex
  refine kept_modDbp ?_
  exact h

theorem kept_enableWring {q : List Instr} {f : FoldId} {n : RingId} {v : Word} {s : State} (h : Kept q s) :
    Kept q (enableWring f n v s) := by
  unfold enableWring
  refine kept_ite ?_ ?_
  · exact h
  · refine kept_ite ?_ ?_
    · refine kept_wringError ?_
      refine kept_ite ?_ ?_
      · exact h
      · refine kept_modWring ?_
        exact h
    · refine kept_markIndex ?_
      refine kept_modWring ?_
      refine kept_ite ?_ ?_
      · exact h
      · refine kept_modWring ?_
        exact h

theorem kept_execWringEnable {q : List Instr} {f : FoldId} {n : RingId} {v : Word} {s : State} (h : Kept q s) :
    KeptA q (execWringEnable f n v s) := by
  unfold execWringEnable
  refine kept_next ?_
  refine kept_onBar (fun s0 hs0 => ?_) ?_
  · refine kept_enableWring ?_
    exact hs0
  · exact h

theorem kept_disableWring {q : List Instr} {f : FoldId} {n : RingId} {s : State} (h : Kept q s) :
    Kept q (disableWring f n s) := by
  unfold disableWring
  refine kept_modWring ?_
  exact h

theorem kept_wringFields {q : List Instr} {f : FoldId} {n : RingId} {v : Word} {s : State} (h : Kept q s) :
    Kept q (wringFields f n v s) := by
  unfold wringFields
  refine kept_ite ?_ ?_
  · exact h
  · refine kept_modWring ?_
    exact h

theorem kept_execWringDisable {q : List Instr} {f : FoldId} {n : RingId} {s : State} (h : Kept q s) :
    KeptA q (execWringDisable f n s) := by
  unfold execWringDisable
  refine kept_next ?_
  refine kept_onBar (fun s0 hs0 => ?_) ?_
  · refine kept_disableWring ?_
    exact hs0
  · exact h

theorem kept_abortWring {q : List Instr} {f : FoldId} {n : RingId} {s : State} (h : Kept q s) :
    Kept q (abortWring f n s) := by
  unfold abortWring
  dsimp -failIfUnchanged only
  split
  · refine kept_ite ?_ ?_
    · refine kept_stopAtBoundary ?_
      refine kept_foldl (fun t1 _ ht1 => ?_) _ ?_
      · refine kept_abortUnstarted ?_
        exact ht1
      · exact h
    · refine kept_foldl (fun t3 _ ht3 => ?_) _ ?_
      · refine kept_abortUnstarted ?_
        exact ht3
      · exact h
  · refine kept_foldl (fun t5 _ ht5 => ?_) _ ?_
    · refine kept_abortUnstarted ?_
      exact ht5
    · exact h

theorem kept_execWringAbort {q : List Instr} {f : FoldId} {n : RingId} {s : State} (h : Kept q s) :
    KeptA q (execWringAbort f n s) := by
  unfold execWringAbort
  refine kept_next ?_
  refine kept_onBar (fun s0 hs0 => ?_) ?_
  · refine kept_abortWring ?_
    refine kept_disableWring ?_
    exact hs0
  · exact h

theorem kept_enableDring {q : List Instr} {f : FoldId} {m : DringId} {v : Word} {s : State} (h : Kept q s) :
    Kept q (enableDring f m v s) := by
  unfold enableDring
  refine kept_ite ?_ ?_
  · refine kept_modDring ?_
    exact h
  · refine kept_ite ?_ ?_
    · refine kept_dringError ?_
      refine kept_modDring ?_
      exact h
    · refine kept_markIndex ?_
      refine kept_modDring ?_
      refine kept_modDring ?_
      exact h

theorem kept_execDringEnable {q : List Instr} {f : FoldId} {m : DringId} {v : Word} {s : State} (h : Kept q s) :
    KeptA q (execDringEnable f m v s) := by
  unfold execDringEnable
  refine kept_next ?_
  refine kept_onBar (fun s0 hs0 => ?_) ?_
  · refine kept_enableDring ?_
    exact hs0
  · exact h

theorem kept_disableDring {q : List Instr} {f : FoldId} {m : DringId} {s : State} (h : Kept q s) :
    Kept q (disableDring f m s) := by
  unfold disableDring
  refine kept_ite ?_ ?_
  · exact h
  · refine kept_markIndex ?_
    refine kept_modDring ?_
    exact h

theorem kept_execDringDisable {q : List Instr} {f : FoldId} {m : DringId} {s : State} (h : Kept q s) :
    KeptA q (execDringDisable f m s) := by
  unfold execDringDisable
  refine kept_next ?_
  refine kept_onBar (fun s0 hs0 => ?_) ?_
  · refine kept_disableDring ?_
    exact hs0
  · exact h

theorem kept_execDringReconfigure {q : List Instr} {f : FoldId} {m : DringId} {v : Word} {s : State} (h : Kept q s) :
    KeptA q (execDringReconfigure f m v s) := by
  unfold execDringReconfigure
  refine kept_next ?_
  refine kept_onBar (fun s0 hs0 => ?_) ?_
  · refine kept_ite ?_ ?_
    · refine kept_modDring ?_
      exact hs0
    · exact hs0
  · exact h

theorem kept_enableDbp {q : List Instr} {f : FoldId} {v : Word} {s : State} (h : Kept q s) :
    Kept q (enableDbp f v s) := by
  unfold enableDbp
  refine kept_ite ?_ ?_
  · exact h
  · refine kept_startPolling ?_
    refine kept_modDbp ?_
    exact h

theorem kept_execDbpEnable {q : List Instr} {f : FoldId} {v : Word} {s : State} (h : Kept q s) :
    KeptA q (execDbpEnable f v s) := by
  unfold execDbpEnable
  refine kept_next ?_
  refine kept_onBar (fun s0 hs0 => ?_) ?_
  · refine kept_enableDbp ?_
    exact hs0
  · exact h

theorem kept_disableDbp {q : List Instr} {f : FoldId} {s : State} (h : Kept q s) :
    Kept q (disableDbp f s) := by
  unfold disableDbp
  refine kept_modDbp ?_
  exact h

theorem kept_execDbpDisable {q : List Instr} {f : FoldId} {s : State} (h : Kept q s) :
    KeptA q (execDbpDisable f s) := by
  unfold execDbpDisable
  refine kept_next ?_
  refine kept_onBar (fun s0 hs0 => ?_) ?_
  · refine kept_disableDbp ?_
    exact hs0
  · exact h

end Sys2Proof.Machine
end

