-- ==== Sys2Proof/Laws/KeptFaults.lean ====
section
/-! SUPPORT. Laws/KeptFaults.lean: every operation of Machine/Faults.lean keeps the queue, the reserved bits and the canonical lists. -/
namespace Sys2Proof.Machine

theorem kept_dropLaser {q : List Instr} {s : State} (h : Kept q s) : Kept q (dropLaser s) := by
  have ht := kept_dropGate h
  have hw := wgate_dropGate s
  unfold dropLaser
  generalize dropGate s = t at ht hw
  have hu : Kept q (if t.servo.ldEn then t.emit (.ldEn false) else t) := kept_ite (kept_emit ht) ht
  have hwu : (if t.servo.ldEn then t.emit (.ldEn false) else t).servo.wgate = false := by
    split <;> exact hw
  dsimp only
  generalize (if t.servo.ldEn then t.emit (.ldEn false) else t) = u at hu hwu
  exact kept_of { kept_fields hu with gate := fun hg => absurd (hwu.symm.trans hg) (by simp), halted := fun _ => rfl }

theorem kept_setOut {q : List Instr} {s : State} {i : Fin 6} {o : Int} (h : Kept q s) :
    Kept q (setOut s i o) := by
  unfold setOut
  refine kept_of ?_
  dsimp -failIfUnchanged only
  refine kept_fields ?_
  exact h

theorem kept_beginRamp {q : List Instr} {s : State} (h : Kept q s) :
    Kept q (beginRamp s) := by
  unfold beginRamp
  split
  · exact h
  · refine kept_of ?_
    dsimp -failIfUnchanged only
    refine kept_fields ?_
    exact h

theorem kept_openLoops {q : List Instr} {s : State} (h : Kept q s) :
    Kept q (openLoops s) := by
  unfold openLoops
  extract_lets +onlyGivenNames t1
  have ht1 : Kept q t1 := by
    refine kept_beginRamp ?_
    exact h
  clear_value t1
  extract_lets +onlyGivenNames x2
  refine kept_of ?_
  dsimp -failIfUnchanged only
  refine kept_fields ?_
  exact ht1

theorem kept_rampStep {q : List Instr} {s : State} (h : Kept q s) :
    Kept q (rampStep s) := by
  unfold rampStep
  split
  · exact h
  · extract_lets +onlyGivenNames x1
    extract_lets +onlyGivenNames t2
    have ht2 : Kept q t2 := by
      refine kept_setOut ?_
      refine kept_setOut ?_
      refine kept_setOut ?_
      exact h
    clear_value t2
    refine kept_of ?_
    dsimp -failIfUnchanged only
    refine kept_fields ?_
    exact ht2

theorem kept_loseSled {q : List Instr} {s : State} (h : Kept q s) :
    Kept q (loseSled s) := by
  unfold loseSled
  refine kept_ite ?_ ?_
  · refine kept_of ?_
    dsimp -failIfUnchanged only
    refine kept_fields ?_
    exact h
  · refine kept_postEvent ?_
    refine kept_of ?_
    dsimp -failIfUnchanged only
    refine kept_fields ?_
    exact h

theorem kept_stopSled {q : List Instr} {s : State} (h : Kept q s) :
    Kept q (stopSled s) := by
  unfold stopSled
  refine kept_emit ?_
  refine kept_loseSled ?_
  refine kept_of ?_
  dsimp -failIfUnchanged only
  refine kept_fields ?_
  exact h

theorem kept_coastSpindle {q : List Instr} {s : State} (h : Kept q s) :
    Kept q (coastSpindle s) := by
  unfold coastSpindle
  refine kept_ite ?_ ?_
  · exact h
  · refine kept_ite ?_ ?_
    · refine kept_of ?_
      dsimp -failIfUnchanged only
      refine kept_fields ?_
      exact h
    · refine kept_emit ?_
      refine kept_of ?_
      dsimp -failIfUnchanged only
      refine kept_fields ?_
      exact h

theorem kept_stopLoader {q : List Instr} {s : State} (h : Kept q s) :
    Kept q (stopLoader s) := by
  unfold stopLoader
  split
  · refine kept_emit ?_
    refine kept_of ?_
    dsimp -failIfUnchanged only
    refine kept_fields ?_
    exact h
  · refine kept_emit ?_
    refine kept_of ?_
    dsimp -failIfUnchanged only
    refine kept_fields ?_
    exact h
  · refine kept_emit ?_
    refine kept_of ?_
    dsimp -failIfUnchanged only
    refine kept_fields ?_
    exact h
  · refine kept_of ?_
    dsimp -failIfUnchanged only
    refine kept_fields ?_
    exact h

theorem kept_makeSafe {q : List Instr} {s : State} (h : Kept q s) :
    Kept q (makeSafe s) := by
  unfold makeSafe
  extract_lets +onlyGivenNames t4
  have ht4 : Kept q t4 := by
    refine kept_stopLoader ?_
    refine kept_stopSled ?_
    refine kept_coastSpindle ?_
    refine kept_openLoops ?_
    refine kept_dropLaser ?_
    exact h
  clear_value t4
  refine kept_of ?_
  dsimp -failIfUnchanged only
  refine kept_fields ?_
  exact ht4

theorem kept_enterHalt {q : List Instr} {s : State} {cause : Nat} (hl : s.servo.ldEn = false) (h : Kept q s) :
    Kept q (enterHalt s cause) := by
  unfold enterHalt
  have ht : Kept q { s with halt := { s.halt with inHalt := true, seq := s.halt.seq + 1, at_ := s.us, acked := false
                                                  cause := if s.halt.inHalt then s.halt.cause else cause } } :=
    kept_of { kept_fields h with halted := fun _ => hl }
  exact kept_ite ht (kept_broadcast ht)

theorem kept_faultJob {q : List Instr} {s : State} (h : Kept q s) :
    Kept q (faultJob s) := by
  unfold faultJob
  refine kept_stopJob ?_
  exact h

theorem kept_noteFault {q : List Instr} {s : State} {p : PendFault} (h : Kept q s) :
    Kept q (noteFault s p) := by
  unfold noteFault
  refine kept_of ?_
  dsimp -failIfUnchanged only
  refine kept_fields ?_
  exact h

theorem kept_servoFault {q : List Instr} {s : State} {cause : Nat} {mask : Nat} (h : Kept q s) :
    Kept q (servoFault s cause mask) := by
  unfold servoFault
  refine kept_noteFault ?_
  exact h

/-- After it LD_EN is 0. -/
theorem ldEn_dropLaser (s : State) : (dropLaser s).servo.ldEn = false := by
  unfold dropLaser
  rfl

theorem servo_stopSled (s : State) : (stopSled s).servo = s.servo := by
  unfold stopSled loseSled
  dsimp only
  split
  · rfl
  · exact (beside_postEvent beside_rfl).servo_eq

theorem servo_coastSpindle (s : State) : (coastSpindle s).servo = s.servo := by
  unfold coastSpindle
  split
  · rfl
  · split <;> rfl

theorem servo_stopLoader (s : State) : (stopLoader s).servo = s.servo := by
  unfold stopLoader
  split <;> rfl

/-- The loops open with the laser enable as it is. -/
theorem ldEn_openLoops (s : State) : (openLoops s).servo.ldEn = s.servo.ldEn := by
  unfold openLoops beginRamp
  dsimp only
  split <;> rfl

/-- After it LD_EN is 0. -/
theorem ldEn_makeSafe (s : State) : (makeSafe s).servo.ldEn = false := by
  unfold makeSafe
  show (stopLoader _).servo.ldEn = false
  rw [servo_stopLoader, servo_stopSled, servo_coastSpindle, ldEn_openLoops]
  exact ldEn_dropLaser s

theorem kept_motionFault {q : List Instr} {s : State} {cause : Nat} {bridge : Nat} (h : Kept q s) :
    Kept q (motionFault s cause bridge) := by
  unfold motionFault
  refine kept_noteFault ?_
  exact h

theorem kept_linkFault {q : List Instr} {s : State} {code : Nat} (h : Kept q s) :
    Kept q (linkFault s code) := by
  unfold linkFault
  refine kept_noteFault ?_
  refine kept_ite ?_ ?_
  · refine kept_dropLaser ?_
    refine kept_of ?_
    dsimp -failIfUnchanged only
    refine kept_fields ?_
    exact h
  · refine kept_of ?_
    dsimp -failIfUnchanged only
    refine kept_fields ?_
    exact h

/-- HALT is entered with the laser off. -/
theorem kept_takeFaults {q : List Instr} {s : State} (h : Kept q s) : Kept q (takeFaults s) := by
  unfold takeFaults
  split
  · exact h
  · have ht : Kept q { s with halt := { s.halt with pend := [] } } := kept_of { kept_fields h with halted := h.halted }
    dsimp only
    have hu : ∀ l : List PendFault, Kept q (l.foldl (fun t p => postEvent t 0 (faultEvent p).1 (faultEvent p).2)
        { s with halt := { s.halt with pend := [] } }) := fun l => kept_foldl (fun _ _ ht => kept_postEvent ht) l ht
    exact kept_ite (kept_makeSafe (hu _)) (kept_enterHalt (ldEn_makeSafe _) (kept_makeSafe (kept_faultJob (hu _))))

theorem kept_execHaltAck {q : List Instr} {v : Word} {s : State} (h : Kept q s) :
    KeptA q (execHaltAck v s) := by
  unfold execHaltAck
  refine kept_next ?_
  refine kept_onBar (fun s0 hs0 => ?_) ?_
  · refine kept_ite ?_ ?_
    · exact hs0
    · refine kept_ite ?_ ?_
      · refine kept_of ?_
        dsimp -failIfUnchanged only
        refine kept_fields ?_
        exact hs0
      · refine kept_of ?_
        dsimp -failIfUnchanged only
        refine kept_fields ?_
        exact hs0
  · exact h

theorem kept_execHaltRelease {q : List Instr} {s : State} (h : Kept q s) :
    KeptA q (execHaltRelease s) := by
  unfold execHaltRelease
  refine kept_next ?_
  refine kept_ite ?_ ?_
  · refine kept_broadcast ?_
    refine kept_of ?_
    dsimp -failIfUnchanged only
    first
                    | refine kept_fields ?_
                    | refine kept_fields_put ?_
                    | refine kept_fields_del ?_
                    | refine kept_fields_gov ?_
                    | refine kept_fields_unarmed ?_
                    | refine kept_fields_noTable ?_
                    | refine kept_fields_release ?_
    exact h
  · exact h

theorem kept_countBadPacket {q : List Instr} {s : State} {l : Link} {resend : Bool} (h : Kept q s) :
    Kept q (countBadPacket s l resend) := by
  unfold countBadPacket
  refine kept_of ?_
  dsimp -failIfUnchanged only
  refine kept_fields ?_
  exact h

theorem kept_execControlPacketArrival {q : List Instr} {l : Link} {good : Bool} {s : State} (h : Kept q s) :
    KeptA q (execControlPacketArrival l good s) := by
  unfold execControlPacketArrival
  refine kept_next ?_
  refine kept_ite ?_ ?_
  · exact h
  · refine kept_ite ?_ ?_
    · refine kept_of ?_
      dsimp -failIfUnchanged only
      refine kept_fields ?_
      exact h
    · refine kept_ite ?_ ?_
      · refine kept_linkFault ?_
        refine kept_of ?_
        dsimp -failIfUnchanged only
        refine kept_fields ?_
        refine kept_countBadPacket ?_
        exact h
      · refine kept_of ?_
        dsimp -failIfUnchanged only
        refine kept_fields ?_
        refine kept_countBadPacket ?_
        exact h

theorem kept_execLinkStall {q : List Instr} {l : Link} {s : State} (h : Kept q s) :
    KeptA q (execLinkStall l s) := by
  unfold execLinkStall
  refine kept_next ?_
  refine kept_ite ?_ ?_
  · refine kept_linkFault ?_
    exact h
  · exact h

theorem kept_ironSafe {q : List Instr} {s : State} (h : Kept q s) :
    Kept q (ironSafe s) := by
  unfold ironSafe
  refine kept_stopSled ?_
  refine kept_coastSpindle ?_
  refine kept_openLoops ?_
  exact h

theorem kept_execLoopTickLoss {q : List Instr} {s : State} (h : Kept q s) :
    KeptA q (execLoopTickLoss s) := by
  unfold execLoopTickLoss
  refine kept_next ?_
  refine kept_ite ?_ ?_
  · refine kept_of ?_
    dsimp -failIfUnchanged only
    refine kept_fields ?_
    refine kept_linkFault ?_
    refine kept_ironSafe ?_
    exact h
  · exact h

theorem kept_execPwrLinkStatClear {q : List Instr} {f : FoldId} {s : State} (h : Kept q s) :
    KeptA q (execPwrLinkStatClear f s) := by
  unfold execPwrLinkStatClear
  refine kept_next ?_
  refine kept_onBar (fun s0 hs0 => ?_) ?_
  · refine kept_ite ?_ ?_
    · refine kept_of ?_
      dsimp -failIfUnchanged only
      refine kept_fields ?_
      exact hs0
    · exact hs0
  · exact h

end Sys2Proof.Machine
end

