-- ==== Sys2Proof/Laws/Power.lean ====
section
/-! SUPPORT. Laws/Power.lean: what ending descriptors, commits and interval boundaries leave of the supply, the retained evidence and
the servo; and what making the mechanism safe does. -/
namespace Sys2Proof.Machine

/-- From v to t the supply, the retained evidence and the servo are as before. -/
structure Spares (v t : State) : Prop where
  pwr : t.pwr = v.pwr
  ev : t.kpr.evidence = v.kpr.evidence
  servo : t.servo = v.servo

theorem spares_rfl (s : State) : Spares s s := ⟨rfl, rfl, rfl⟩

theorem spares_trans {u v t : State} (h : Spares u v) (g : Spares v t) : Spares u t :=
  ⟨g.pwr.trans h.pwr, g.ev.trans h.ev, g.servo.trans h.servo⟩

theorem spares_beside {v t : State} (h : Beside v t) : Spares v t := ⟨h.pwr_eq, by rw [h.kpr_eq], h.servo_eq⟩

theorem spares_post (s : State) (f : FoldId) (c : Nat) (w : Word) : Spares s (postEvent s f c w) :=
  spares_beside (beside_postEvent beside_rfl)

theorem spares_modDesc (s : State) (f : FoldId) (k : Nat) (g : Desc → Desc) : Spares s (s.modDesc f k g) := ⟨rfl, rfl, rfl⟩

theorem spares_foldl {α : Type} {g : State → α → State} (h : ∀ (s : State) (a : α), Spares s (g s a)) :
    ∀ (l : List α) (s : State), Spares s (l.foldl g s)
  | [], s => spares_rfl s
  | a :: r, s => spares_trans (h s a) (spares_foldl h r _)

/-! ### Ending descriptors -/

theorem spares_finish (s : State) (f : FoldId) (k : Nat) (st : Status) (n : Nat) : Spares s (finish s f k st n) := by
  cases h : s.desc? f k with
  | none =>
    have e : finish s f k st n = s := by unfold finish; rw [h]
    rw [e]
    exact spares_rfl s
  | some d =>
    rw [(finish_ends st n h).rest]
    exact ⟨rfl, rfl, rfl⟩

theorem spares_unstarted (s : State) (f : FoldId) (k : Nat) (st : Status) : Spares s (finishUnstarted s f k st) :=
  spares_trans (spares_modDesc s f k _) (spares_finish _ f k st 0)

theorem spares_endJob (s : State) (st : Status) (n : Nat) : Spares s (endJob s st n) := by
  unfold endJob
  repeat' split
  all_goals exact ⟨rfl, rfl, rfl⟩

theorem spares_stopJob (s : State) (st : Status) : Spares s (stopJob s st) := by
  unfold stopJob
  split
  · exact spares_endJob s st 0
  · exact spares_trans (spares_modDesc s _ _ _) (spares_endJob _ st _)

theorem stopJob_keeper (s : State) (st : Status) : (stopJob s st).mram = s.mram ∧ (stopJob s st).kpr = s.kpr := by
  have h : ∀ (t : State) (n : Nat), (endJob t st n).mram = t.mram ∧ (endJob t st n).kpr = t.kpr := by
    intro t n
    unfold endJob
    repeat' split
    all_goals exact ⟨rfl, rfl⟩
  unfold stopJob
  split
  · exact h s 0
  · exact h _ _

theorem spares_completeJob (s : State) (st : Status) : Spares s (completeJob s st) := by
  have h1 := spares_stopJob s st
  unfold completeJob
  dsimp only
  refine spares_trans h1 ?_
  split
  · exact ⟨rfl, rfl, rfl⟩
  · split
    · exact ⟨rfl, rfl, rfl⟩
    · exact ⟨rfl, rfl, rfl⟩
    · split
      · exact spares_trans (spares_unstarted _ _ _ _) ⟨rfl, rfl, rfl⟩
      · exact spares_trans (spares_finish _ _ _ _ _) ⟨rfl, rfl, rfl⟩

theorem spares_completeFold (st : Status) (s : State) (f : FoldId) : Spares s (completeFold st s f) := by
  unfold completeFold
  exact spares_foldl (g := fun (t : State) (d : Desc) => finishUnstarted t f d.k st) (fun u d => spares_unstarted u f d.k st) _ s

theorem spares_completeAll (s : State) (st : Status) : Spares s (completeAll s st) := by
  unfold completeAll
  exact spares_trans (spares_completeJob s st) (spares_foldl (fun t f => spares_completeFold st t f) _ _)

/-! ### Commits -/

theorem spares_programPage (s : State) (p c : Nat) (b : Bool) : Spares s (programPage s p c b) := by
  unfold programPage flipMeets
  dsimp only
  split <;> exact ⟨rfl, rfl, rfl⟩

theorem spares_commitNow (s : State) (r i : Nat) (p : Option Payload) (n : Nat) : Spares s (commitNow s r i p n).1 := by
  unfold commitNow
  dsimp only
  split
  · exact spares_rfl s
  · have h1 : Spares s (settleTokens s) := ⟨rfl, rfl, rfl⟩
    exact spares_trans (spares_trans h1 (spares_foldl (fun t p => spares_programPage t p _ _) _ _)) ⟨rfl, rfl, rfl⟩

theorem spares_deleteSlots (s : State) (m : BitVec 16) : Spares s (deleteSlots s m).1 := by
  unfold deleteSlots
  generalize (List.range 16).filter (fun i => bit m i) = l
  suffices h : ∀ (l : List Nat) (a : State × Nat), Spares a.1 (l.foldl (fun (a : State × Nat) i =>
      let (t, n) := commitNow a.1 6 i none 0
      ({ t with kpr := { t.kpr with slotClear := t.kpr.slotClear &&& ~~~((1 : BitVec 16) <<< i) } }, a.2 + n)) a).1 from h l (s, 0)
  intro l
  induction l with
  | nil => exact fun _ => spares_rfl _
  | cons x r ih =>
    intro a
    rw [List.foldl_cons]
    refine spares_trans ?_ (ih _)
    exact spares_trans (spares_commitNow a.1 6 x none 0) ⟨rfl, rfl, rfl⟩

theorem spares_commitMirror (s : State) : Spares s (commitMirror s).1 := by
  unfold commitMirror
  exact spares_trans (v := { s with kpr := { s.kpr with mirrorDirty := false, mirrorTick := s.kpr.tick } }) ⟨rfl, rfl, rfl⟩
    (spares_commitNow _ _ _ _ _)

/-- The input-loss commit with no record in progress (R341, Table 13.5). -/
theorem spares_inputLossCommit {s : State} (h : s.mram.queue = []) : Spares s (inputLossCommit s).1 := by
  have h0 : Spares s (finishInProgress s) := by
    unfold finishInProgress
    simp only [h, List.find?_nil]
    exact ⟨rfl, rfl, rfl⟩
  unfold inputLossCommit
  dsimp only
  have h1 : Spares s (commitLedger (finishInProgress s)).1 := spares_trans h0 (spares_commitNow _ _ _ _ _)
  generalize (commitLedger (finishInProgress s)).1 = a at h1 ⊢
  have h2 : Spares s (commitNow a 4 2 (some (.powerFail a.kpr.tick a.kpr.cal a.kpr.ledger)) 52).1 :=
    spares_trans h1 (spares_commitNow _ _ _ _ _)
  generalize (commitNow a 4 2 (some (.powerFail a.kpr.tick a.kpr.cal a.kpr.ledger)) 52).1 = b at h2 ⊢
  have h3 : Spares s (deleteSlots b b.kpr.slotClear).1 := spares_trans h2 (spares_deleteSlots _ _)
  generalize (deleteSlots b b.kpr.slotClear).1 = c at h3 ⊢
  split
  · exact spares_trans h3 (spares_commitMirror c)
  · exact h3

theorem spares_request (s : State) (r i : Nat) (p : Option Payload) (n : Nat) (pr : Prio) (b : Option Bucket) (a : OnCommit) :
    Spares s (requestRecord s r i p n pr b a) := by
  unfold requestRecord beginIfIdle settleTokens
  dsimp only
  repeat' split
  all_goals exact ⟨rfl, rfl, rfl⟩

/-! ### Interval boundaries -/

theorem spares_closeInterval (t : State) (n : Nat) (g : Interval → Interval) : Spares t (closeInterval t n g) := by
  unfold closeInterval
  dsimp only
  split <;> exact ⟨rfl, rfl, rfl⟩

theorem spares_billingClose (t : State) (n : Nat) : Spares t (billingClose t n) := by
  unfold billingClose
  split
  · exact spares_rfl t
  · dsimp only
    refine spares_trans ?_ (spares_finish _ _ _ _ _)
    exact ⟨rfl, rfl, rfl⟩

theorem spares_scheduleActive (t : State) (n : Nat) : Spares t (scheduleActive t n) := by
  unfold scheduleActive
  split
  · exact spares_rfl t
  · next u hu =>
    split
    · exact spares_trans (v := { t with kpr := { t.kpr with tariff := u, pending := none } }) ⟨rfl, rfl, rfl⟩ (spares_post _ _ _ _)
    · exact spares_rfl t

theorem spares_boundaryAt (s : State) (n : Nat) (a b : Interval → Interval) (c : Bool) : Spares s (boundaryAt s n a b c) := by
  unfold boundaryAt
  dsimp only
  have h1 := spares_closeInterval s n a
  generalize closeInterval s n a = t at h1 ⊢
  have h2 : Spares s (if c then billingClose t n else t) := by
    split
    · exact spares_trans h1 (spares_billingClose t n)
    · exact h1
  generalize (if c then billingClose t n else t) = u at h2 ⊢
  have h3 := spares_trans h2 (spares_scheduleActive u n)
  exact spares_trans h3 ⟨rfl, rfl, rfl⟩

theorem spares_requestLedger (t : State) (p : Prio) : Spares t (requestLedger t p) := by
  unfold requestLedger
  dsimp only
  split
  · exact ⟨rfl, rfl, rfl⟩
  · exact spares_request _ _ _ _ _ _ _ _

theorem spares_intervalBoundary (s : State) : Spares s (intervalBoundary s) := by
  unfold intervalBoundary
  split
  · have h := spares_boundaryAt s (nextBoundary s.kpr.tariff s.kpr.ledger.openI.start) id id true
    dsimp only
    split
    · exact spares_trans h (spares_requestLedger _ _)
    · exact h
  · exact spares_rfl s

/-- The laser is off in a mechanism made safe; the supply and the keeper are as before (R178). -/
theorem makeSafe_off (s : State) : (makeSafe s).servo.ldEn = false ∧ (makeSafe s).pwr = s.pwr ∧ (makeSafe s).kpr = s.kpr ∧
    (makeSafe s).mram = s.mram := by
  have h2 : (coastSpindle (openLoops (dropLaser s))).servo.ldEn = false ∧
      Down s (coastSpindle (openLoops (dropLaser s))) := by
    exact ⟨by rw [servo_coastSpindle, ldEn_openLoops]; exact ldEn_dropLaser s,
      down_trans (down_trans (down_laser s) (down_open _)) (down_coast _)⟩
  unfold makeSafe
  dsimp only
  generalize coastSpindle (openLoops (dropLaser s)) = w at h2 ⊢
  have h3 : (stopSled w).servo = w.servo ∧ (stopSled w).pwr = w.pwr ∧ (stopSled w).kpr = w.kpr ∧ (stopSled w).mram = w.mram := by
    unfold stopSled loseSled
    dsimp only
    split
    · exact ⟨rfl, rfl, rfl, rfl⟩
    · have b := beside_postEvent (base := { w with sled := { w.sled with
        move := .rest, ia := 0, ib := 0, seek := none, settling := false, lost := true } }) (f := 0) (code := evSledPosition)
        (dw2 := 1) beside_rfl
      exact ⟨b.servo_eq, b.pwr_eq, b.kpr_eq, b.mram_eq⟩
  have h4 : (stopLoader (stopSled w)).servo = (stopSled w).servo ∧ (stopLoader (stopSled w)).pwr = (stopSled w).pwr ∧
      (stopLoader (stopSled w)).kpr = (stopSled w).kpr ∧ (stopLoader (stopSled w)).mram = (stopSled w).mram := by
    unfold stopLoader
    dsimp only
    split <;> exact ⟨rfl, rfl, rfl, rfl⟩
  exact ⟨by rw [h4.1, h3.1]; exact h2.1, h4.2.1.trans (h3.2.1.trans h2.2.pwr), h4.2.2.1.trans (h3.2.2.1.trans h2.2.kpr),
    h4.2.2.2.trans (h3.2.2.2.trans h2.2.mram)⟩

end Sys2Proof.Machine
end

