-- ==== Sys2Proof/Laws/Faults.lean ====
section
/-! SUPPORT. Laws/Faults.lean: how a fault waits for its strobe, and how the mechanism stands after the faults of a period have taken
effect, whichever they are. -/
namespace Sys2Proof.Machine

theorem gate_dropGate (s : State) : (dropGate s).servo.wgate = false := by
  unfold dropGate
  dsimp only
  split
  · rfl
  · next h => simpa using h

/-- What dropping the laser changes: the servo's own fields, the disc's lost unit and the output. -/
theorem dropLaser_eq (s : State) : dropLaser s = { s with
    servo := (dropLaser s).servo
    disc := (dropLaser s).disc
    out := (dropLaser s).out } := by
  unfold dropLaser dropGate losePartial
  dsimp only
  repeat' split
  all_goals rfl

theorem dropLaser_off (s : State) : (dropLaser s).servo.ldEn = false ∧ (dropLaser s).servo.wgate = false := by
  refine ⟨rfl, ?_⟩
  unfold dropLaser
  dsimp only
  split
  · exact gate_dropGate s
  · exact gate_dropGate s

/-- Dropping the laser leaves every loop and the ramp as they are. -/
theorem dropLaser_loops (s : State) : (dropLaser s).servo.loops = s.servo.loops ∧ (dropLaser s).servo.ramp = s.servo.ramp := by
  unfold dropLaser dropGate losePartial
  dsimp only
  repeat' split
  all_goals exact ⟨rfl, rfl⟩

theorem vector_ofFn_get {α : Type} {n : Nat} (g : Fin n → α) (i : Fin n) : (Vector.ofFn g).get i = g i := by
  show (Vector.ofFn g)[i.val] = g i
  simp

theorem beginRamp_eq (s : State) : beginRamp s = { s with servo := { s.servo with ramp := some (s.servo.ramp.getD
    (s.us, (s.servo.loops.get 0).out, (s.servo.loops.get 1).out, (s.servo.loops.get 2).out)) } } := by
  unfold beginRamp
  split
  · next h => rw [h, Option.getD_some, ← h]
  · next h => rw [h]; rfl

/-- Every loop is open: APC's, the spindle's and the sled's output are zero, the others ramp down from where they stand. -/
theorem openLoops_open (s : State) : (∀ i : Fin 6, ((openLoops s).servo.loops.get i).closed = false ∧
      ((openLoops s).servo.loops.get i).held = false ∧ ((openLoops s).servo.loops.get i).next = none ∧
      ((openLoops s).servo.loops.get i).out = if 3 ≤ i.val then 0 else (s.servo.loops.get i).out) ∧
    (openLoops s).servo.ramp = some (s.servo.ramp.getD
      (s.us, (s.servo.loops.get 0).out, (s.servo.loops.get 1).out, (s.servo.loops.get 2).out)) := by
  unfold openLoops
  rw [beginRamp_eq]
  refine ⟨fun i => ?_, rfl⟩
  simp only [vector_ofFn_get]
  split <;> exact ⟨rfl, rfl, rfl, rfl⟩

/-- The spindle coasts unless it stands still; nothing else changes. -/
theorem coastSpindle_eq (s : State) : coastSpindle s = { s with
    spindle := (coastSpindle s).spindle
    out := (coastSpindle s).out } := by
  unfold coastSpindle
  repeat' split
  all_goals rfl

theorem coastSpindle_st (s : State) : (coastSpindle s).spindle.st = if s.spindle.st = .stopped then .stopped else .coasting := by
  unfold coastSpindle
  repeat' split
  all_goals first | assumption | rfl

/-- The sled stands without current and lost; apart from it and the event, nothing changes. -/
theorem stopSled_still (s : State) : Beside { s with sled := (stopSled s).sled } (stopSled s) ∧
    (stopSled s).sled = { s.sled with
      move := .rest
      ia := 0
      ib := 0
      seek := none
      settling := false
      lost := true } := by
  unfold stopSled loseSled
  dsimp only
  split
  · exact ⟨⟨rfl, rfl, rfl, rfl, rfl, rfl, rfl, rfl, rfl, rfl, rfl, rfl, rfl, rfl, rfl, rfl, rfl, rfl, rfl, rfl, rfl, rfl, rfl⟩, rfl⟩
  · have h := @beside_postEvent _ { s with sled := { s.sled with
          move := .rest, ia := 0, ib := 0, seek := none, settling := false, lost := true } } 0 evSledPosition 1 beside_rfl
    have e := h.sled_eq
    refine ⟨?_, e⟩
    refine beside_emit ?_
    rw [State.emit]
    dsimp only
    rw [e]
    exact h

/-- The loader's drive is off; apart from the loader and the output, nothing changes. -/
theorem stopLoader_eq (s : State) : stopLoader s = { s with
    loader := { s.loader with drive := .none, ejecting := false }
    out := (stopLoader s).out } := by
  unfold stopLoader
  dsimp only
  split <;> rfl

/-- Making the mechanism safe, and entering HALT: the mechanism stops whatever it did (R178, R207, R390). -/
theorem halts_safe (s u : State) (cause : Nat) (h : Beside { s with halt := { s.halt with pend := [] } } u ∨
    ∃ v st, Beside { s with halt := { s.halt with pend := [] } } v ∧ u = stopJob v st) : Halts s (enterHalt (makeSafe u) cause) cause := by
  have k : u.halt = { s.halt with pend := [] } ∧ u.us = s.us ∧ u.spindle = s.spindle ∧ u.pwr = s.pwr ∧ u.kpr = s.kpr ∧
      u.mram = s.mram ∧ u.plat = s.plat ∧ u.servo = s.servo := by
    rcases h with h | ⟨v, st, h, rfl⟩
    · exact ⟨h.halt_eq, h.us_eq, h.spindle_eq, h.pwr_eq, h.kpr_eq, h.mram_eq, h.plat_eq, h.servo_eq⟩
    · have e : ∀ (t : State) (n : Nat), (endJob t st n).halt = t.halt ∧ (endJob t st n).us = t.us ∧ (endJob t st n).spindle = t.spindle ∧
          (endJob t st n).pwr = t.pwr ∧ (endJob t st n).kpr = t.kpr ∧ (endJob t st n).mram = t.mram ∧ (endJob t st n).plat = t.plat ∧
          (endJob t st n).servo = t.servo := by
        intro t n
        unfold endJob
        repeat' split
        all_goals exact ⟨rfl, rfl, rfl, rfl, rfl, rfl, rfl, rfl⟩
      have e2 : ∀ t : State, (stopJob t st).halt = t.halt ∧ (stopJob t st).us = t.us ∧ (stopJob t st).spindle = t.spindle ∧
          (stopJob t st).pwr = t.pwr ∧ (stopJob t st).kpr = t.kpr ∧ (stopJob t st).mram = t.mram ∧ (stopJob t st).plat = t.plat ∧
          (stopJob t st).servo = t.servo := by
        intro t
        unfold stopJob
        split
        · exact e t 0
        · exact e _ _
      obtain ⟨f1, f2, f3, f4, f5, f6, f7, f8⟩ := e2 v
      exact ⟨f1.trans h.halt_eq, f2.trans h.us_eq, f3.trans h.spindle_eq, f4.trans h.pwr_eq, f5.trans h.kpr_eq, f6.trans h.mram_eq,
        f7.trans h.plat_eq, f8.trans h.servo_eq⟩
  obtain ⟨k1, k2, k3, k4, k5, k6, k7, k8⟩ := k
  clear h
  have m : Halts s { (makeSafe u) with halt := { s.halt with
      pend := []
      inHalt := true
      seq := s.halt.seq + 1
      at_ := s.us
      acked := false
      cause := if s.halt.inHalt then s.halt.cause else cause } } cause ∧ (makeSafe u).halt = u.halt ∧ (makeSafe u).us = s.us := by
    have a1 := dropLaser_eq u
    have a2 := dropLaser_off u
    obtain ⟨a3, a4⟩ := dropLaser_loops u
    generalize hv : dropLaser u = v at a1 a2 a3 a4
    obtain ⟨b2, b5⟩ := openLoops_open v
    have v1 : v.us = u.us := by rw [a1]
    rw [a3, a4, v1, k8, k2] at b5
    simp only [a3, k8] at b2
    have b6 : (openLoops v).servo.ldEn = v.servo.ldEn ∧ (openLoops v).servo.wgate = v.servo.wgate := by
      unfold openLoops
      rw [beginRamp_eq]
      exact ⟨rfl, rfl⟩
    have b3 : (openLoops v).servo.ldEn = false ∧ (openLoops v).servo.wgate = false ∧ (openLoops v).servo.fok = false ∧
        (openLoops v).servo.locked = false := ⟨b6.1.trans a2.1, b6.2.trans a2.2, rfl, rfl⟩
    have b4 : (openLoops v).halt = u.halt ∧ (openLoops v).us = u.us ∧ (openLoops v).spindle = u.spindle ∧ (openLoops v).pwr = u.pwr ∧
        (openLoops v).kpr = u.kpr ∧ (openLoops v).mram = u.mram ∧ (openLoops v).plat = u.plat := by
      unfold openLoops
      rw [beginRamp_eq, a1]
      exact ⟨rfl, rfl, rfl, rfl, rfl, rfl, rfl⟩
    generalize hw : openLoops v = w at b2 b3 b4 b5
    have c1 := coastSpindle_eq w
    have c2 := coastSpindle_st w
    generalize hx : coastSpindle w = x at c1 c2
    obtain ⟨d1, d2⟩ := stopSled_still x
    generalize hy : stopSled x = y at d1 d2
    have e1 := stopLoader_eq y
    generalize hz : stopLoader y = z at e1
    have e : makeSafe u = { z with chan := idleChannel z.chan } := by
      unfold makeSafe
      rw [hv, hw, hx, hy, hz]
    obtain ⟨b41, b42, b43, b44, b45, b46, b47⟩ := b4
    have q1 : z.servo = w.servo := by rw [e1]; exact d1.servo_eq.trans (by rw [c1])
    have q2 : z.halt = w.halt := by rw [e1]; exact d1.halt_eq.trans (by rw [c1])
    have q3 : z.us = w.us := by rw [e1]; exact d1.us_eq.trans (by rw [c1])
    have q4 : z.spindle = x.spindle := by rw [e1]; exact d1.spindle_eq
    have q5 : z.pwr = w.pwr := by rw [e1]; exact d1.pwr_eq.trans (by rw [c1])
    have q6 : z.kpr = w.kpr := by rw [e1]; exact d1.kpr_eq.trans (by rw [c1])
    have q7 : z.mram = w.mram := by rw [e1]; exact d1.mram_eq.trans (by rw [c1])
    have q8 : z.plat = w.plat := by rw [e1]; exact d1.plat_eq.trans (by rw [c1])
    have q9 : z.sled = y.sled := by rw [e1]
    have q10 : z.loader.drive = .none := by rw [e1]
    rw [e]
    refine ⟨⟨rfl, ?_, ?_, ?_, ?_, ?_, q10, ?_⟩, ?_, ?_⟩
    · show z.servo.ldEn = false ∧ _
      rw [q1]; exact b3
    · show ∀ i, (z.servo.loops.get i).closed = false ∧ _
      rw [q1]; exact b2
    · show z.servo.ramp = _
      rw [q1]; exact b5
    · show z.spindle.st = _
      rw [q4, c2, b43, k3]
    · show z.sled.move = _ ∧ z.sled.lost = _ ∧ z.sled.ia = _ ∧ z.sled.ib = _
      rw [q9, d2]; exact ⟨rfl, rfl, rfl, rfl⟩
    · exact ⟨q5.trans (b44.trans k4), q6.trans (b45.trans k5), q7.trans (b46.trans k6), q8.trans (b47.trans k7)⟩
    · show z.halt = _
      rw [q2, b41]
    · show z.us = _
      rw [q3, b42, k2]
  obtain ⟨m, m1, m2⟩ := m
  rw [k1] at m1
  generalize makeSafe u = x at m m1 m2
  have e : Beside { x with halt := { s.halt with
      pend := []
      inHalt := true
      seq := s.halt.seq + 1
      at_ := s.us
      acked := false
      cause := if s.halt.inHalt then s.halt.cause else cause } } (enterHalt x cause) := by
    unfold enterHalt
    dsimp only
    rw [m1, m2]
    split
    · next g => exact beside_rfl
    · next g => exact beside_broadcast beside_rfl
  refine ⟨e.halt_eq, ?_, ?_, ?_, ?_, ?_, ?_, ?_⟩
  · rw [e.servo_eq]; exact m.laser
  · rw [e.servo_eq]; exact m.loops
  · rw [e.servo_eq]; exact m.ramp
  · rw [e.spindle_eq]; exact m.spindle
  · rw [e.sled_eq]; exact m.sled
  · rw [e.loader_eq]; exact m.loader
  · rw [e.pwr_eq, e.kpr_eq, e.mram_eq, e.plat_eq]; exact m.rest

/-- The faults that wait, if any is more than a supply going down, halt the mechanism at the strobe (R24, R178, R207). -/
theorem takeFaults_halts (s : State) (h : s.halt.pend.all (· == .down) = false) :
    Halts s (takeFaults s) (haltCauseOf s.halt.pend) := by
  unfold takeFaults
  split
  · next e => rw [e] at h; cases h
  · next l _ =>
    rw [if_neg (by rw [h]; decide)]
    exact halts_safe s _ _ (.inr ⟨_, _, beside_foldl (fun _ _ h => beside_postEvent h) _ beside_rfl, rfl⟩)

/-- A fault that waits does nothing more until the strobe. -/
theorem noteFault_waits (s : State) (p : PendFault) : noteFault s p = { s with halt := { s.halt with pend := addFault s.halt.pend p } } := rfl

end Sys2Proof.Machine
end

