-- ==== Sys2Proof/Laws/Sealing.lean ====
section
/-! SUPPORT. Laws/Sealing.lean: a sealing or vault descriptor that runs, and the operations under CPH_LOCK. -/
namespace Sys2Proof.Machine

theorem sealRunning_desc {s : State} {f : FoldId} {k : Nat} {o : Op} {d : Desc} (h : sealRunning s f k o = some d) :
    s.desc? f k = some d := by
  unfold sealRunning at h
  split at h
  · next e hr =>
    split at h
    · cases h
    · cases h
      exact runningAs_desc hr
  · cases h

/-- What the holder of the lock asks for runs at once (R316). -/
theorem withLock_held {s : State} {r : Nat} {f : FoldId} {k : Nat} {g : State → State} (h : lockHeldBy s f k = true) :
    withLock s r f k g = g s := by
  simp [withLock, h]

/-- The release of the lock changes the engine alone. -/
theorem releaseLock_eq (s : State) : releaseLock s = { s with cph := (releaseLock s).cph } := by
  unfold releaseLock
  split <;> rfl

@[simp] theorem releaseLock_folds (s : State) : (releaseLock s).folds = s.folds := by rw [releaseLock_eq]
@[simp] theorem releaseLock_mram (s : State) : (releaseLock s).mram = s.mram := by rw [releaseLock_eq]

@[simp] theorem setSlot_slot (s : State) (i : Fin 17) (k : KeySlot) : (s.setSlot i k).slot i = k := by
  simp [State.setSlot, State.slot, get_set_same]

/-- A started vault opcode that holds the lock runs (R316, R324). -/
theorem vaultRun_held {s : State} {f : FoldId} {k : Nat} {o : Op} {d : Desc} {g : Desc → State → State}
    (h : sealRunning s f k o = some d) (h1 : s.cph.disabled = false) (h2 : lockHeldBy s f k = true) :
    vaultRun s f k o g = g d s := by
  simp [vaultRun, h, h1, withLock_held h2]

end Sys2Proof.Machine
end

