-- ==== Sys2Proof/Laws/Flr.lean ====
section
/-! SUPPORT. Laws/Flr.lean: what giving back a descriptor's holdings leaves alone, and what the reset of one fold leaves behind. -/
namespace Sys2Proof.Machine

/-- From s to t buffers and holdings of descriptors may have changed, and copies of the pen; no descriptor came or went. -/
structure Loosens (s t : State) : Prop where
  folds : FoldsKeep s t
  keys : ∀ g : FoldId, (t.fold g).descs.map (·.k) = (s.fold g).descs.map (·.k)
  cph : t.cph = s.cph
  kpr : t.kpr = s.kpr
  plat : t.plat = s.plat
  mram : t.mram = s.mram
  job : t.job = s.job

theorem loosens_rfl (s : State) : Loosens s s := ⟨foldsKeep_rfl s, fun _ => rfl, rfl, rfl, rfl, rfl, rfl⟩

theorem loosens_trans {s t u : State} (h : Loosens s t) (i : Loosens t u) : Loosens s u :=
  ⟨foldsKeep_trans h.folds i.folds, fun g => (i.keys g).trans (h.keys g), i.cph.trans h.cph, i.kpr.trans h.kpr, i.plat.trans h.plat,
    i.mram.trans h.mram, i.job.trans h.job⟩

theorem loosens_foldl {α : Type} {g : State → α → State} (h : ∀ (s : State) (a : α), Loosens s (g s a)) :
    ∀ (l : List α) (s : State), Loosens s (l.foldl g s)
  | [], s => loosens_rfl s
  | a :: r, s => loosens_trans (h s a) (loosens_foldl h r _)

theorem updFirst_keys {p : Desc → Bool} {g : Desc → Desc} (hg : ∀ d : Desc, (g d).k = d.k) :
    ∀ l : List Desc, (updFirst p g l).map (·.k) = l.map (·.k)
  | [] => rfl
  | d :: r => by
    unfold updFirst
    split
    · simp [hg]
    · simp [updFirst_keys hg r]

theorem modDesc_keys (s : State) (f : FoldId) (k : Nat) {u : Desc → Desc} (hu : ∀ d : Desc, (u d).k = d.k) (g : FoldId) :
    ((s.modDesc f k u).fold g).descs.map (·.k) = (s.fold g).descs.map (·.k) := by
  by_cases e : g = f
  · subst e
    simp [State.modDesc, updFirst_keys hu]
  · simp [State.modDesc, modFold_fold_ne _ _ e]

theorem loosens_modDesc (s : State) (f : FoldId) (k : Nat) {u : Desc → Desc} (hu : ∀ d : Desc, (u d).k = d.k) :
    Loosens s (s.modDesc f k u) := ⟨foldsKeep_modDesc s f k u, modDesc_keys s f k hu, rfl, rfl, rfl, rfl, rfl⟩

theorem loosens_pool {s t : State} (p : Pool) (h : Loosens s t) : Loosens s { t with pool := p } :=
  ⟨h.folds, h.keys, h.cph, h.kpr, h.plat, h.mram, h.job⟩

theorem loosens_pen {s t : State} (p : List PenCopy) (h : Loosens s t) : Loosens s { t with pen := p } :=
  ⟨h.folds, h.keys, h.cph, h.kpr, h.plat, h.mram, h.job⟩

theorem loosens_go (i : Nat) : ∀ (l : List (FoldId × Nat)) (s : State), Loosens s (releaseIndexGo s i l)
  | [], s => loosens_pool _ (loosens_rfl s)
  | (f, k) :: r, s => by
    unfold releaseIndexGo
    split
    · split
      · exact loosens_pool _ (loosens_modDesc s f k fun _ => rfl)
      · exact loosens_go i r s
    · exact loosens_go i r s

theorem loosens_freeBuf (s : State) (i : Nat) : Loosens s (freeBuf s i) := by
  unfold freeBuf
  split
  · exact loosens_rfl s
  · exact loosens_trans (loosens_pool _ (loosens_rfl s)) (loosens_go i _ _)

theorem loosens_dropHold (s : State) (i : Nat) : Loosens s (dropHold s i) := by
  unfold dropHold
  split
  · exact loosens_rfl s
  · split
    · exact loosens_freeBuf s i
    · exact loosens_pool _ (loosens_rfl s)

theorem loosens_releasePin (s : State) (p : Pin) : Loosens s (releasePin s p) := by
  unfold releasePin
  split
  · exact loosens_dropHold s _
  · split
    · exact loosens_rfl s
    · split
      · exact loosens_pen _ (loosens_freeBuf s _)
      · exact loosens_dropHold s _

theorem loosens_holdings (s : State) (f : FoldId) (d : Desc) : Loosens s (releaseHoldings s f d) := by
  unfold releaseHoldings
  extract_lets p s1 s2 s3 s4
  have h1 : Loosens s s1 := loosens_pool _ (loosens_rfl s)
  have h2 : Loosens s1 s2 := loosens_modDesc s1 f d.k fun _ => rfl
  have h3 : Loosens s2 s3 := loosens_foldl (fun t i => loosens_go i t.pool.queue t) d.aside s2
  have h4 : Loosens s3 s4 := loosens_foldl loosens_freeBuf d.bufs s3
  exact loosens_trans (loosens_trans (loosens_trans (loosens_trans h1 h2) h3) h4) (loosens_foldl loosens_releasePin _ s4)

theorem loosens_discardCopy (s : State) (c : PenCopy) : Loosens s (discardCopy s c) := by
  unfold discardCopy
  split
  · exact loosens_pen _ (loosens_freeBuf s _)
  · dsimp only
    split
    · exact loosens_pen _ (loosens_rfl s)
    · exact loosens_pen _ (loosens_pool _ (loosens_rfl s))

theorem loosens_penEmpty (s : State) (f : FoldId) : Loosens s (penEmpty s f) := loosens_foldl loosens_discardCopy _ s

theorem loosens_foldJob (s : State) (f : FoldId) : (stopFoldJob s f).cph = s.cph ∧ (stopFoldJob s f).kpr = s.kpr ∧
    (stopFoldJob s f).plat = s.plat ∧ (stopFoldJob s f).mram = s.mram ∧ FoldsKeep s (stopFoldJob s f) ∧
    ∀ g : FoldId, ((stopFoldJob s f).fold g).descs.map (·.k) = (s.fold g).descs.map (·.k) := by
  have he : ∀ (t : State) (st : Status) (n : Nat), (endJob t st n).cph = t.cph ∧ (endJob t st n).kpr = t.kpr ∧ (endJob t st n).plat = t.plat ∧
      (endJob t st n).mram = t.mram ∧ FoldsKeep t (endJob t st n) ∧
      ∀ g : FoldId, ((endJob t st n).fold g).descs.map (·.k) = (t.fold g).descs.map (·.k) := by
    intro t st n
    unfold endJob
    split
    · exact ⟨rfl, rfl, rfl, rfl, foldsKeep_rfl t, fun _ => rfl⟩
    · split
      · exact ⟨rfl, rfl, rfl, rfl, foldsKeep_rfl t, fun _ => rfl⟩
      · split
        · exact ⟨rfl, rfl, rfl, rfl, foldsKeep_rfl t, fun _ => rfl⟩
        · exact ⟨rfl, rfl, rfl, rfl, foldsKeep_modDesc (t.modJob _) _ _ _, modDesc_keys (t.modJob _) _ _ fun _ => rfl⟩
  have hs : ∀ (t : State) (st : Status), (stopJob t st).cph = t.cph ∧ (stopJob t st).kpr = t.kpr ∧ (stopJob t st).plat = t.plat ∧
      (stopJob t st).mram = t.mram ∧ FoldsKeep t (stopJob t st) ∧
      ∀ g : FoldId, ((stopJob t st).fold g).descs.map (·.k) = (t.fold g).descs.map (·.k) := by
    intro t st
    unfold stopJob
    split
    · exact he t st 0
    · next j d _ =>
      dsimp only
      obtain ⟨a1, a2, a3, a4, a5, a6⟩ := he (t.modDesc j.f j.k fun e => { e with
        writes := e.writes ++ jobWrites t j e, aux := if e.fld.auxPtr = 0 then [] else jobAux t j e st
        failLba := (j.memFail.orElse fun _ => firstFailed e j).orElse fun _ => j.firstFail }) st (jobBytes t j d)
      have b := loosens_modDesc t j.f j.k (u := fun e => { e with
        writes := e.writes ++ jobWrites t j e, aux := if e.fld.auxPtr = 0 then [] else jobAux t j e st
        failLba := (j.memFail.orElse fun _ => firstFailed e j).orElse fun _ => j.firstFail }) fun _ => rfl
      exact ⟨a1, a2, a3, a4, foldsKeep_trans b.folds a5, fun g => (a6 g).trans (b.keys g)⟩
  have hr : s.cph = s.cph ∧ s.kpr = s.kpr ∧ s.plat = s.plat ∧ s.mram = s.mram ∧ FoldsKeep s s ∧
      ∀ g : FoldId, (s.fold g).descs.map (·.k) = (s.fold g).descs.map (·.k) := ⟨rfl, rfl, rfl, rfl, foldsKeep_rfl s, fun _ => rfl⟩
  unfold stopFoldJob
  split
  · exact hr
  · split
    · split
      · unfold stopSpeculation
        split <;> exact hr
      · exact hr
    · split
      · unfold stopAtBoundary
        split
        · exact hr
        · exact hs s _
      · exact hr
    · split
      · exact hs s _
      · exact hr

/-! ### The reset of one fold -/

theorem requestRecord_eq (s : State) (r i : Nat) (p : Option Payload) (n : Nat) (pr : Prio) (b : Option Bucket) (a : OnCommit) :
    requestRecord s r i p n pr b a = { s with mram := (requestRecord s r i p n pr b a).mram } := by
  unfold requestRecord beginIfIdle settleTokens
  dsimp only
  repeat' split
  all_goals rfl

/-- Clearing a key slot leaves it empty, touches no other, and else changes only what is to be deleted (R312). -/
theorem resetSlot_clears (s : State) (i : Fin 17) : ((resetSlot s i).slot i).st = .empty ∧
    (∀ j : Fin 17, j ≠ i → (resetSlot s i).slot j = s.slot j) ∧ (resetSlot s i).folds = s.folds ∧ (resetSlot s i).plat = s.plat ∧
    (resetSlot s i).pen = s.pen ∧ (resetSlot s i).job = s.job ∧ (resetSlot s i).cph.owner = s.cph.owner ∧
    (resetSlot s i).disc = s.disc ∧ (resetSlot s i).sys = s.sys := by
  unfold resetSlot
  split
  · next h => exact ⟨h, fun _ _ => rfl, rfl, rfl, rfl, rfl, rfl, rfl, rfl⟩
  · dsimp only
    rw [requestRecord_eq]
    refine ⟨?_, fun j hj => ?_, rfl, rfl, rfl, rfl, rfl, rfl, rfl⟩
    · show ((s.setSlot i {}).slot i).st = .empty
      simp
    · show (s.setSlot i {}).slot j = s.slot j
      show (s.cph.slots.set i.val {} i.isLt).get j = s.cph.slots.get j
      show (s.cph.slots.set i.val {} i.isLt)[j.val] = s.cph.slots[j.val]
      rw [Vector.getElem_set_ne]
      exact fun e => hj (Fin.ext e.symm)

theorem dropDesc_drops (f : FoldId) (s : State) (d : Desc) : FoldsKeep s (dropDesc f s d) ∧ (dropDesc f s d).cph = s.cph ∧
    (dropDesc f s d).plat = s.plat ∧ ((dropDesc f s d).fold f).descs.map (·.k) = ((s.fold f).descs.map (·.k)).filter (· != d.k) := by
  have h := loosens_holdings s f d
  refine ⟨fun g => ?_, h.cph, h.plat, ?_⟩
  · by_cases e : g = f
    · subst e
      unfold dropDesc
      rw [modFold_fold]
      rw [h.folds g]
    · unfold dropDesc
      rw [modFold_fold_ne _ _ e]
      exact h.folds g
  · unfold dropDesc
    rw [modFold_fold, ← h.keys f, List.filter_map]
    rfl

theorem dropDescs (f : FoldId) : ∀ (l : List Desc) (s : State), FoldsKeep s (l.foldl (dropDesc f) s) ∧
    (l.foldl (dropDesc f) s).cph = s.cph ∧ (l.foldl (dropDesc f) s).plat = s.plat ∧
    ((l.foldl (dropDesc f) s).fold f).descs.map (·.k) = ((s.fold f).descs.map (·.k)).filter fun k => l.all fun d => k != d.k
  | [], s => ⟨foldsKeep_rfl s, rfl, rfl, (List.filter_eq_self.mpr fun _ _ => rfl).symm⟩
  | d :: r, s => by
    obtain ⟨a1, a2, a3, a4⟩ := dropDesc_drops f s d
    obtain ⟨b1, b2, b3, b4⟩ := dropDescs f r (dropDesc f s d)
    refine ⟨foldsKeep_trans a1 b1, b2.trans a2, b3.trans a3, ?_⟩
    show ((r.foldl (dropDesc f) (dropDesc f s d)).fold f).descs.map (·.k) = _
    rw [b4, a4, List.filter_filter]
    congr 1
    funext k
    simp [Bool.and_comm]

/-- A partition that has been emptied has no copy left that can be found (R140). -/
theorem penEmpty_empties (s : State) (f : FoldId) : ∀ c ∈ (penEmpty s f).pen, c.owner = f → c.removed = true := by
  have step : ∀ (t : State) (c x : PenCopy), x ∈ (discardCopy t c).pen → x.removed = true ∨ x ∈ t.pen ∧ x.buf ≠ c.buf := by
    intro t c x h
    unfold discardCopy at h
    split at h
    · have h' : x ∈ t.pen.filter fun x => x.buf != c.buf := h
      rw [List.mem_filter] at h'
      exact .inr ⟨h'.1, by simpa using h'.2⟩
    · have h' : ∃ y ∈ t.pen, (if y.buf == c.buf then { y with removed := true, blocks := [] } else y) = x := by
        dsimp only at h
        split at h
        · simpa using h
        · have h2 : x ∈ t.pen.map fun y => if y.buf == c.buf then { y with removed := true, blocks := [] } else y := h
          simpa using h2
      obtain ⟨y, hy, e⟩ := h'
      split at e
      · subst e; exact .inl rfl
      · next n => subst e; exact .inr ⟨hy, by simpa using n⟩
  have all : ∀ (l : List PenCopy) (t : State) (x : PenCopy), x ∈ (l.foldl discardCopy t).pen → x.removed = true ∨
      x ∈ t.pen ∧ ∀ c ∈ l, x.buf ≠ c.buf := by
    intro l
    induction l with
    | nil => exact fun t x h => .inr ⟨h, by simp⟩
    | cons c l ih =>
      intro t x h
      rcases ih (discardCopy t c) x h with h | ⟨h, h1⟩
      · exact .inl h
      · rcases step t c x h with h | ⟨h, h2⟩
        · exact .inl h
        · refine .inr ⟨h, fun d hd => ?_⟩
          rcases List.mem_cons.mp hd with rfl | hd
          · exact h2
          · exact h1 d hd
  intro c hc ho
  rcases all _ s c hc with h | ⟨h, h1⟩
  · exact h
  · cases hr : c.removed with
    | true => rfl
    | false => exact absurd rfl (h1 c (by simp [h, ho, hr]))

/-- A fold's turn that ends leaves every fold but its deficit, which is at most 0 then where it changes (R50). -/
theorem settleFold_ends (s : State) (f : FoldId) : (settleFold s f).plat = s.plat ∧ (settleFold s f).pen = s.pen ∧
    (settleFold s f).cph = s.cph ∧ (∀ g : FoldId, g ≠ f → (settleFold s f).fold g = s.fold g) ∧
    ∃ x : Int, (x = (s.fold f).deficit ∨ x = min (s.fold f).deficit 0) ∧ (settleFold s f).fold f = { s.fold f with deficit := x } := by
  have hs : s.plat = s.plat ∧ s.pen = s.pen ∧ s.cph = s.cph ∧ (∀ g : FoldId, g ≠ f → s.fold g = s.fold g) ∧
      ∃ x : Int, (x = (s.fold f).deficit ∨ x = min (s.fold f).deficit 0) ∧ s.fold f = { s.fold f with deficit := x } :=
    ⟨rfl, rfl, rfl, fun _ _ => rfl, _, .inl rfl, rfl⟩
  unfold settleFold
  split
  · unfold endTurn
    dsimp only
    split
    · have e := fun g => fold_congr (s := s.modFold f fun x => { x with deficit := min x.deficit 0 })
        (t := { (s.modFold f fun x => { x with deficit := min x.deficit 0 }) with drover := { s.drover with turn := none } }) rfl g
      refine ⟨rfl, rfl, rfl, fun g c => (e g).trans (modFold_fold_ne _ _ c), _, .inr rfl, (e f).trans ?_⟩
      rw [modFold_fold]
    · split <;> exact hs
  · exact hs

/-- What a reset of a fold leaves behind (R55): its rings, its doorbell page and its interrupts as after a start, its record kept, no
copy in its pen, its key slots empty, CPH_LOCK released; no other fold touched but in descriptors that waited for buffers. -/
theorem resetFold_resets (post : Bool) (s : State) (f : FoldId) (h : (s.fold f).resetting = none) (t : State) (ht : resetFold post s f = t) :
    t.fold f = { record := (s.fold f).record, descs := (t.fold f).descs, nextK := (s.fold f).nextK, rrRing := (s.fold f).rrRing
                 deficit := (t.fold f).deficit, maxPayload := (s.fold f).maxPayload, aer := (s.fold f).aer, resetting := some (abortCount (s.fold f), post) } ∧
    ((t.fold f).deficit = (s.fold f).deficit ∨ s.drover.turn = some f ∧ (t.fold f).deficit = min (s.fold f).deficit 0) ∧
    (∀ g : FoldId, g ≠ f → t.fold g = { s.fold g with descs := (t.fold g).descs }) ∧
    (s.job = none → (t.fold f).descs = []) ∧
    (∀ c ∈ t.pen, c.owner = f → c.removed = true) ∧
    (∀ i : Fin 17, i.val = 2 * f.val ∨ i.val = 2 * f.val + 1 → (t.slot i).st = .empty) ∧
    t.cph.owner = (if s.cph.owner = f.val then 15 else s.cph.owner) ∧ t.plat = s.plat := by
  subst ht
  unfold resetFold
  rw [h]
  extract_lets n t0 t1 t2 t3 t4 t5 t6
  have k0 : FoldsKeep s t0 ∧ t0.cph = s.cph ∧ t0.plat = s.plat ∧ t0.job = s.job ∧ t0.folds = s.folds := by
    have : t0 = endDrain s ∨ t0 = s := by
      show (if _ then endDrain s else s) = endDrain s ∨ (if _ then endDrain s else s) = s
      split
      · exact .inl rfl
      · exact .inr rfl
    rcases this with e | e <;> rw [e] <;> exact ⟨fun _ => rfl, rfl, rfl, rfl, rfl⟩
  have k1 : FoldsKeep s t1 ∧ t1.cph = s.cph ∧ t1.plat = s.plat ∧ (s.job = none → t1 = t0) := by
    obtain ⟨a1, -, a3, -, a5, -⟩ := loosens_foldJob t0 f
    refine ⟨foldsKeep_trans k0.1 a5, a1.trans k0.2.1, a3.trans k0.2.2.1, fun e => ?_⟩
    have e0 := k0.2.2.2.1.trans e
    show stopFoldJob t0 f = t0
    unfold stopFoldJob
    rw [e0]
  have k2 := dropDescs f ((t1.fold f).descs.filter fun d => !onMechanism t1 f d.k) t1
  have k2' : FoldsKeep s t2 ∧ t2.cph = s.cph ∧ t2.plat = s.plat ∧ (s.job = none → (t2.fold f).descs = []) := by
    refine ⟨foldsKeep_trans k1.1 k2.1, k2.2.1.trans k1.2.1, k2.2.2.1.trans k1.2.2.1, fun e => ?_⟩
    have hm : ∀ k, onMechanism t1 f k = false := by
      intro k
      have e0 : t1.job = none := by rw [k1.2.2.2 e]; exact k0.2.2.2.1.trans e
      unfold onMechanism
      rw [e0]
    have := k2.2.2.2
    have e1 : ((t2.fold f).descs.map (·.k)) = [] := by
      rw [show ((t2.fold f).descs.map (·.k)) = _ from this, List.filter_eq_nil_iff]
      intro k hk
      obtain ⟨d, hd, rfl⟩ := List.mem_map.mp hk
      intro ha
      rw [List.all_eq_true] at ha
      have := ha d (List.mem_filter.mpr ⟨hd, by rw [hm]; rfl⟩)
      simp at this
    exact List.map_eq_nil_iff.mp e1
  have k3 : t3.folds = t2.folds ∧ t3.plat = s.plat ∧ t3.cph.owner = (if s.cph.owner = f.val then 15 else s.cph.owner) := by
    have hw : ∀ u : State, u.folds = t2.folds → u.plat = s.plat → u.cph = s.cph → (releaseFoldLock u f).folds = t2.folds ∧
        (releaseFoldLock u f).plat = s.plat ∧ (releaseFoldLock u f).cph.owner = (if s.cph.owner = f.val then 15 else s.cph.owner) := by
      intro u e1 e2 e3
      unfold releaseFoldLock
      rw [← e3]
      dsimp only
      split
      · next ho =>
        refine ⟨(releaseLock_folds u).trans e1, ?_, ?_⟩
        · rw [releaseLock_eq]; exact e2
        · unfold releaseLock
          split
          · assumption
          · rfl
      · exact ⟨e1, e2, rfl⟩
    by_cases e : f = 0
    · have : t3 = releaseFoldLock (dropWaiting t2) f := by
        show releaseFoldLock (if f = 0 then dropWaiting t2 else t2) f = _
        rw [if_pos e]
      rw [this]
      exact hw (dropWaiting t2) rfl k2'.2.2.1 k2'.2.1
    · have : t3 = releaseFoldLock t2 f := by
        show releaseFoldLock (if f = 0 then dropWaiting t2 else t2) f = _
        rw [if_neg e]
      rw [this]
      exact hw t2 rfl k2'.2.2.1 k2'.2.1
  have kc : (cancelProgs t3 f).folds = t3.folds ∧ (cancelProgs t3 f).plat = t3.plat ∧ (cancelProgs t3 f).cph = t3.cph := by
    unfold cancelProgs beginIfIdle
    dsimp only
    repeat' split
    all_goals exact ⟨rfl, rfl, rfl⟩
  have kp := loosens_penEmpty (cancelProgs t3 f) f
  have k4 : FoldsKeep t2 t4 ∧ t4.plat = s.plat ∧ t4.cph.owner = (if s.cph.owner = f.val then 15 else s.cph.owner) ∧
      (s.job = none → (t4.fold f).descs = []) := by
    have e : ∀ g, (cancelProgs t3 f).fold g = t2.fold g := fun g => fold_congr (kc.1.trans k3.1) g
    refine ⟨fun g => ?_, kp.plat.trans (kc.2.1.trans k3.2.1), ?_, fun ej => ?_⟩
    · have := kp.folds g
      rw [e g] at this
      exact this
    · show (penEmpty (cancelProgs t3 f) f).cph.owner = _
      rw [kp.cph, kc.2.2]; exact k3.2.2
    · have := kp.keys f
      rw [e f, k2'.2.2.2 ej] at this
      exact List.map_eq_nil_iff.mp this
  have kk : FoldsKeep s t4 := foldsKeep_trans k2'.1 k4.1
  have k5 : t5.fold f = { record := (s.fold f).record, descs := (t4.fold f).descs, nextK := (s.fold f).nextK, rrRing := (s.fold f).rrRing, deficit := (s.fold f).deficit, maxPayload := (s.fold f).maxPayload, aer := (s.fold f).aer, resetting := some (n, post) } ∧ (∀ g, g ≠ f → t5.fold g = t4.fold g) ∧ t5.plat = s.plat ∧ t5.pen = t4.pen ∧
      t5.cph.owner = (if s.cph.owner = f.val then 15 else s.cph.owner) := by
    refine ⟨?_, fun g e => modFold_fold_ne _ _ e, k4.2.1, rfl, k4.2.2.1⟩
    show (t4.modFold f _).fold f = _
    rw [modFold_fold, kk f]
  have k6 : ∃ x : Int, (x = (s.fold f).deficit ∨ s.drover.turn = some f ∧ x = min (s.fold f).deficit 0) ∧
      t6.fold f = { t5.fold f with deficit := x } ∧ (∀ g, g ≠ f → t6.fold g = t5.fold g) ∧ t6.plat = t5.plat ∧ t6.pen = t5.pen ∧ t6.cph = t5.cph := by
    by_cases e : s.drover.turn = some f
    · obtain ⟨a1, a2, a3, a4, x, a5, a6⟩ := settleFold_ends t5 f
      have e6 : t6 = settleFold t5 f := if_pos e
      have ed : (t5.fold f).deficit = (s.fold f).deficit := by rw [k5.1]
      rw [ed] at a5
      rw [e6]
      exact ⟨x, a5.imp id fun c => ⟨e, c⟩, a6, a4, a1, a2, a3⟩
    · have e6 : t6 = t5 := if_neg e
      rw [e6]
      exact ⟨(s.fold f).deficit, .inl rfl, by rw [k5.1], fun _ _ => rfl, rfl, rfl, rfl⟩
  obtain ⟨x, x1, x2, x3, x4, x5, x6⟩ := k6
  obtain ⟨r1, r2, r3, r4, r5, -, r7, -, -⟩ := resetSlot_clears t6 ⟨2 * f.val, by omega⟩
  obtain ⟨q1, q2, q3, q4, q5, -, q7, -, -⟩ := resetSlot_clears (resetSlot t6 ⟨2 * f.val, by omega⟩) ⟨2 * f.val + 1, by omega⟩
  have ef : ∀ g, (resetSlot (resetSlot t6 ⟨2 * f.val, by omega⟩) ⟨2 * f.val + 1, by omega⟩).fold g = t6.fold g := fun g => fold_congr (q3.trans r3) g
  have hpen : ∀ c ∈ t4.pen, c.owner = f → c.removed = true := penEmpty_empties (cancelProgs t3 f) f
  refine ⟨?_, ?_, fun g e => ?_, fun ej => ?_, fun c hc => ?_, fun i hi => ?_, ?_, ?_⟩
  · rw [ef f, x2, k5.1]
  · rw [ef f, x2]
    exact x1
  · rw [ef g, x3 g e, k5.2.1 g e]
    exact kk g
  · rw [ef f, x2, k5.1]
    exact k4.2.2.2 ej
  · rw [q5, r5, x5, k5.2.2.2.1] at hc
    exact hpen c hc
  · rcases hi with e | e
    · have : i = ⟨2 * f.val, by omega⟩ := Fin.ext e
      rw [q2 i (by intro c; rw [c] at e; simp at e), this]
      exact r1
    · have : i = ⟨2 * f.val + 1, by omega⟩ := Fin.ext e
      rw [this]; exact q1
  · rw [q7, r7, x6]; exact k5.2.2.2.2
  · rw [q4, r4, x4]; exact k5.2.2.1

/-- Resets one after another, of folds that are not being reset: each leaves its own fold as it does alone, and the others keep all but
descriptors. -/
theorem resetFolds_reset (post : Bool) : ∀ (l : List FoldId), l.Nodup → ∀ s : State, (∀ f ∈ l, (s.fold f).resetting = none) →
    (∀ f ∈ l, ∃ (n : Nat) (x : Int), (x = (s.fold f).deficit ∨ x = min (s.fold f).deficit 0) ∧ (l.foldl (resetFold post) s).fold f = { record := (s.fold f).record, descs := ((l.foldl (resetFold post) s).fold f).descs, nextK := (s.fold f).nextK, rrRing := (s.fold f).rrRing, deficit := x, maxPayload := (s.fold f).maxPayload, aer := (s.fold f).aer, resetting := some (n, post) }) ∧
    (∀ f, f ∉ l → (l.foldl (resetFold post) s).fold f = { s.fold f with descs := ((l.foldl (resetFold post) s).fold f).descs }) ∧
    (l.foldl (resetFold post) s).plat = s.plat
  | [], _, s, _ => ⟨fun f h => by simp at h, fun _ _ => rfl, rfl⟩
  | g :: r, hn, s, h => by
    obtain ⟨a1, ad, a2, -, -, -, -, a7⟩ := resetFold_resets post s g (h g (by simp)) _ rfl
    rw [List.nodup_cons] at hn
    have hr : ∀ f ∈ r, ((resetFold post s g).fold f).resetting = none := by
      intro f hf
      have e : f ≠ g := fun c => hn.1 (c ▸ hf)
      rw [a2 f e]
      exact h f (by simp [hf])
    obtain ⟨b1, b2, b3⟩ := resetFolds_reset post r hn.2 (resetFold post s g) hr
    refine ⟨fun f hf => ?_, fun f hf => ?_, b3.trans a7⟩
    · rcases List.mem_cons.mp hf with e | hf
      · subst e
        refine ⟨abortCount (s.fold f), ((resetFold post s f).fold f).deficit, ad.imp id And.right, ?_⟩
        have c := b2 f hn.1
        rw [a1] at c
        exact c
      · have e : f ≠ g := fun c => hn.1 (c ▸ hf)
        obtain ⟨n, x, cx, c⟩ := b1 f hf
        rw [a2 f e] at c cx
        exact ⟨n, x, cx, c⟩
    · have e : f ≠ g := fun c => hf (by simp [c])
      have c := b2 f (fun c => hf (by simp [c]))
      rw [a2 f e] at c
      exact c

/-- The built-in profiles put back change no fold but its descriptors, and not the platform (R164). -/
theorem profilesDefault_folds (s : State) : FoldsKeep s (profilesDefault s) ∧ (profilesDefault s).plat = s.plat ∧
    (profilesDefault s).cph.disabled = s.cph.disabled ∧ (profilesDefault s).cph.slots = s.cph.slots := by
  have ht : ∀ u : State, FoldsKeep u (takeTable u) ∧ (takeTable u).plat = u.plat ∧ (takeTable u).cph.disabled = u.cph.disabled ∧ (takeTable u).cph.slots = u.cph.slots := by
    intro u
    unfold takeTable
    split
    · exact ⟨foldsKeep_rfl u, rfl, rfl, rfl⟩
    · next a k _ =>
      dsimp only
      split
      · next d _ =>
        have e := finish_endsAs { u with sled := { u.sled with table := a, shadow := none } } 0 d.k .ok d.fld.length
        refine ⟨e.folds, ?_, ?_, ?_⟩ <;> rw [e.rest]
      · exact ⟨fun _ => rfl, rfl, rfl, rfl⟩
  have hd : ∀ u : State, FoldsKeep u (tableDefault u) ∧ (tableDefault u).plat = u.plat ∧ (tableDefault u).cph.disabled = u.cph.disabled ∧
      (tableDefault u).cph.slots = u.cph.slots := by
    intro u
    unfold tableDefault
    dsimp only
    split
    · exact ht { u with sled := { u.sled with shadow := some (.builtin, u.sled.shadow.bind (·.2)) } }
    · exact ⟨fun _ => rfl, rfl, rfl, rfl⟩
  exact hd _

end Sys2Proof.Machine
end

