-- ==== Sys2Proof/Laws/KeptMram.lean ====
section
/-! SUPPORT. Laws/KeptMram.lean: every operation of Machine/Mram.lean keeps the queue, the reserved bits and the canonical lists. -/
namespace Sys2Proof.Machine

theorem kept_settleTokens {q : List Instr} {s : State} (h : Kept q s) :
    Kept q (settleTokens s) := by
  unfold settleTokens
  refine kept_of ?_
  dsimp -failIfUnchanged only
  refine kept_fields ?_
  exact h

theorem kept_beginIfIdle {q : List Instr} {s : State} (h : Kept q s) :
    Kept q (beginIfIdle s) := by
  unfold beginIfIdle
  refine kept_ite ?_ ?_
  · exact h
  · split
    · exact h
    · split
      · exact h
      · refine kept_of ?_
        dsimp -failIfUnchanged only
        refine kept_fields ?_
        exact h

theorem kept_requestRecord {q : List Instr} {s : State} {region id : Nat} {payload : Option Payload} {bytes : Nat}
    {prio : Prio} {bucket : Option Bucket} {act : OnCommit} {sealing : Option Sealed} (h : Kept q s) :
    Kept q (requestRecord s region id payload bytes prio bucket act sealing) := by
  have ht := kept_settleTokens h
  unfold requestRecord
  refine kept_beginIfIdle (kept_of ?_)
  dsimp only
  refine kept_mram ht ?_
  cases bucket with
  | none => exact ht.mram
  | some b =>
    have hif : ∀ (c : Prop) [Decidable c] (n : Nat), MramOk (if c then (settleTokens s).mram else spendTokens
    (settleTokens s).mram b n) := by
      intro c _ n
      split
      · exact ht.mram
      · exact mramOk_spendTokens ht.mram
    exact hif _ _

theorem kept_levelWear {q : List Instr} {s : State} {r : Nat} (h : Kept q s) :
    Kept q (levelWear s r) := by
  unfold levelWear
  refine kept_ite ?_ ?_
  · exact h
  · refine kept_ite ?_ ?_
    · exact h
    · dsimp -failIfUnchanged only
      split
      · exact h
      · refine kept_ite ?_ ?_
        · exact h
        · dsimp -failIfUnchanged only
          split
          · exact h
          · refine kept_of ?_
            dsimp -failIfUnchanged only
            refine kept_fields ?_
            exact h

theorem kept_execTokenBucketRefill {q : List Instr} {b : Bucket} {s : State} (h : Kept q s) :
    KeptA q (execTokenBucketRefill b s) := by
  have ht := kept_settleTokens h
  unfold execTokenBucketRefill
  refine kept_next ?_
  split
  · exact ht
  · refine kept_ite ht (kept_beginIfIdle ?_)
    exact (kept_setMram ht (mramOk_putProg (mramOk_spendTokens ht.mram)))

theorem kept_afterRead {q : List Instr} {s : State} {p : Nat} {found : DecodeBits} {source : Nat} (h : Kept q s) :
    Kept q (afterRead s p found source) := by
  unfold afterRead
  dsimp only
  split
  · rename_i c
    have ht : Kept q (if c = 0 then s else eccCorrect s 3) := kept_ite h (kept_eccCorrect h)
    exact kept_ite ((kept_setMram ht (mramOk_wantRefresh ht.mram))) ht
  · exact kept_eccUncorr ((kept_setMram h (mramOk_pageLost h.mram)))

theorem kept_readPage {q : List Instr} {s : State} {p source : Nat} (h : Kept q s) : Kept q (readPage source s p) := kept_afterRead h

theorem kept_readPages {q : List Instr} {l : List Nat} {source : Nat} : ∀ {s : State}, Kept q s → Kept q (readPages s l source) := by
  unfold readPages
  induction l with
  | nil => exact fun h => h
  | cons p l ih => exact fun h => ih (kept_readPage h)

theorem kept_execMramScrubRead {q : List Instr} {found : List (Nat × DecodeBits)} {s : State} (h : Kept q s) :
    KeptA q (execMramScrubRead found s) := by
  unfold execMramScrubRead
  refine kept_next (kept_ite h (kept_readPage ?_))
  have hm : MramOk (found.foldl (fun m x => setFound m x.1 x.2) s.mram) :=
    mramOk_foldl (fun _ _ ht => mramOk_setFound ht) found h.mram
  exact kept_of (kept_fields (kept_setMram h hm))

theorem kept_execMramRawProgram {q : List Instr} {s : State} (h : Kept q s) : KeptA q (execMramRawProgram s) := by
  unfold execMramRawProgram
  refine kept_next (kept_ite h (kept_ite ?_ (kept_flipMeets ?_)))
  · exact kept_of (kept_fields (u := s) h)
  · exact kept_of { kept_fields h with raws := keysRise_putKey _ _ h.raws }

end Sys2Proof.Machine
end

