-- ==== Sys2Proof/Laws/KeptSealing.lean ====
section
/-! SUPPORT. Laws/KeptSealing.lean: every operation of Machine/Sealing.lean keeps the queue, the reserved bits and the canonical lists. -/
namespace Sys2Proof.Machine

theorem kept_setSlot {q : List Instr} {s : State} {i : Fin 17} {k : KeySlot} (h : Kept q s) :
    Kept q (State.setSlot s i k) := by
  unfold State.setSlot
  refine kept_of ?_
  dsimp -failIfUnchanged only
  refine kept_fields ?_
  exact h

theorem kept_requestSlotRecord {q : List Instr} {s : State} {i : Fin 17} {k : KeySlot} {act : OnCommit} (h : Kept q s) :
    Kept q (requestSlotRecord s i k act) := by
  unfold requestSlotRecord
  refine kept_requestRecord ?_
  exact h

theorem kept_takeLock {q : List Instr} {s : State} {req : Nat} {f : FoldId} {k : Nat} (h : Kept q s) :
    Kept q (takeLock s req f k) := by
  unfold takeLock
  refine kept_of ?_
  dsimp -failIfUnchanged only
  refine kept_fields ?_
  exact h

theorem kept_waitLock {q : List Instr} {s : State} {req : Nat} {f : FoldId} {k : Nat} (h : Kept q s) :
    Kept q (waitLock s req f k) := by
  unfold waitLock
  refine kept_of ?_
  dsimp -failIfUnchanged only
  refine kept_fields ?_
  refine kept_modDesc ?_
  exact h

theorem kept_withLock {q : List Instr} {s : State} {req : Nat} {f : FoldId} {k : Nat} {g : State → State} (hg : ∀
    (y0 : State), Kept q y0 → Kept q (g y0)) (h : Kept q s) :
    Kept q (withLock s req f k g) := by
  unfold withLock
  refine kept_ite ?_ ?_
  · refine hg _ ?_
    exact h
  · refine kept_ite ?_ ?_
    · refine hg _ ?_
      refine kept_takeLock ?_
      exact h
    · refine kept_waitLock ?_
      exact h

theorem kept_execLockGrant {q : List Instr} {s : State} (h : Kept q s) :
    KeptA q (execLockGrant s) := by
  unfold execLockGrant
  refine kept_next ?_
  refine kept_ite ?_ ?_
  · exact h
  · split
    · exact h
    · refine kept_modDesc ?_
      refine kept_takeLock ?_
      refine kept_of ?_
      dsimp -failIfUnchanged only
      refine kept_fields ?_
      exact h

theorem kept_loadKey {q : List Instr} {s : State} {f : FoldId} {k : Nat} {d : Desc} {key : List Byte} (h : Kept q s) :
    Kept q (loadKey s f k d key) := by
  unfold loadKey
  refine kept_requestSlotRecord ?_
  refine kept_modDesc ?_
  refine kept_drawWord ?_
  exact h

theorem kept_execKeyLoad {q : List Instr} {f : FoldId} {k : Nat} {key : List Byte} {s : State} (h : Kept q s) :
    KeptA q (execKeyLoad f k key s) := by
  unfold execKeyLoad
  refine kept_next ?_
  split
  · exact h
  · refine kept_ite ?_ ?_
    · exact h
    · refine kept_ite ?_ ?_
      · refine kept_finish ?_
        exact h
      · refine kept_withLock (fun t0 ht0 => ?_) ?_
        · refine kept_loadKey ?_
          exact ht0
        · exact h

theorem kept_execKeyLoadWrapped {q : List Instr} {f : FoldId} {k : Nat} {wrapped : List Byte} {s : State} (h : Kept q s) :
    KeptA q (execKeyLoadWrapped f k wrapped s) := by
  unfold execKeyLoadWrapped
  refine kept_next ?_
  split
  · exact h
  · refine kept_ite ?_ ?_
    · exact h
    · refine kept_ite ?_ ?_
      · refine kept_finish ?_
        exact h
      · refine kept_withLock (fun t0 ht0 => ?_) ?_
        · refine kept_ite ?_ ?_
          · refine kept_finish ?_
            exact ht0
          · dsimp -failIfUnchanged only
            split
            · refine kept_finish ?_
              exact ht0
            · refine kept_loadKey ?_
              exact ht0
        · exact h

theorem kept_execKeyClear {q : List Instr} {f : FoldId} {k : Nat} {s : State} (h : Kept q s) :
    KeptA q (execKeyClear f k s) := by
  unfold execKeyClear
  refine kept_next ?_
  split
  · exact h
  · refine kept_withLock (fun t0 ht0 => ?_) ?_
    · refine kept_ite ?_ ?_
      · refine kept_finish ?_
        exact ht0
      · refine kept_requestRecord ?_
        refine kept_modDesc ?_
        refine kept_setSlot ?_
        exact ht0
    · exact h

theorem kept_markSpent {q : List Instr} {s : State} {i : Fin 17} (h : Kept q s) :
    Kept q (markSpent s i) := by
  unfold markSpent
  refine kept_ite ?_ ?_
  · refine kept_setSlot ?_
    exact h
  · exact h

theorem kept_takeCounter {q : List Instr} {s : State} {i : Fin 17} (h : Kept q s) :
    Kept q (takeCounter s i) := by
  unfold takeCounter
  refine kept_setSlot ?_
  exact h

theorem kept_waitReserve {q : List Instr} {s : State} {f : FoldId} {k : Nat} (h : Kept q s) :
    Kept q (waitReserve s f k) := by
  unfold waitReserve
  refine kept_modDesc ?_
  refine kept_lockAtCompletion ?_
  exact h

theorem kept_wakeReserve {q : List Instr} {s : State} (h : Kept q s) :
    Kept q (wakeReserve s) := by
  unfold wakeReserve
  refine kept_foldl (fun t0 _ ht0 => ?_) _ ?_
  · refine kept_modFold ?_
    exact ht0
  · exact h

theorem kept_execNonceReservation {q : List Instr} {i : Fin 17} {s : State} (h : Kept q s) :
    KeptA q (execNonceReservation i s) := by
  unfold execNonceReservation
  refine kept_next ?_
  refine kept_ite ?_ ?_
  · refine kept_requestSlotRecord ?_
    refine kept_setSlot ?_
    exact h
  · exact h

theorem kept_sealBufferRun {q : List Instr} {f : FoldId} {k : Nat} {d : Desc} {aad : List Byte} {plain : List Byte} {s : State} (h : Kept q s) :
    Kept q (sealBufferRun f k d aad plain s) := by
  unfold sealBufferRun
  extract_lets +onlyGivenNames x1
  extract_lets +onlyGivenNames t2
  have ht2 : Kept q t2 := by
    refine kept_markSpent ?_
    exact h
  clear_value t2
  (dsimp only; split)
  · refine kept_finish ?_
    exact ht2
  · refine kept_waitReserve ?_
    exact ht2
  · refine kept_ite ?_ ?_
    · refine kept_finish ?_
      refine kept_memRun ?_
      refine kept_modDesc ?_
      refine kept_takeCounter ?_
      exact ht2
    · refine kept_finish ?_
      refine kept_deliver ?_
      refine kept_memRun ?_
      refine kept_modDesc ?_
      refine kept_takeCounter ?_
      exact ht2

theorem kept_execSealBuffer {q : List Instr} {f : FoldId} {k : Nat} {aad : List Byte} {plain : List Byte} {s : State}
    (h : Kept q s) :
    KeptA q (execSealBuffer f k aad plain s) := by
  unfold execSealBuffer
  refine kept_next ?_
  split
  · exact h
  · refine kept_ite ?_ ?_
    · refine kept_finish ?_
      exact h
    · refine kept_withLock (fun s0 hs0 => ?_) ?_
      · refine kept_sealBufferRun ?_
        exact hs0
      · exact h

theorem kept_openInto {q : List Instr} {s : State} {key : KeySlot} {aad : List Byte} {aux : List Byte} {cipher : List Byte}
    (h : Kept q s) :
    Kept q (openInto s key aad aux cipher) := by
  unfold openInto
  refine kept_of ?_
  dsimp -failIfUnchanged only
  refine kept_fields ?_
  exact h

theorem kept_execOpenBuffer {q : List Instr} {f : FoldId} {k : Nat} {aad : List Byte} {aux : List Byte} {cipher : List Byte} {s : State} (h : Kept q s) :
    KeptA q (execOpenBuffer f k aad aux cipher s) := by
  unfold execOpenBuffer
  refine kept_next ?_
  (dsimp only; split)
  · exact h
  · refine kept_ite ?_ ?_
    · refine kept_finish ?_
      exact h
    · refine kept_withLock ?_ ?_
      · intro t23 ht23
        refine kept_ite ?_ ?_
        · refine kept_finish ?_
          exact ht23
        · refine kept_ite ?_ ?_
          · refine kept_finish ?_
            refine kept_memRun ?_
            exact ht23
          · refine kept_openInto ?_
            refine kept_memRun ?_
            exact ht23
      · exact h

theorem kept_zeroHold {q : List Instr} {s : State} (h : Kept q s) :
    Kept q (zeroHold s) := by
  unfold zeroHold
  refine kept_of ?_
  dsimp -failIfUnchanged only
  refine kept_fields ?_
  exact h

theorem kept_endSealed {q : List Instr} {s : State} {f : FoldId} {k : Nat} {st : Status} {bytes : Nat} (h : Kept q s) :
    Kept q (endSealed s f k st bytes) := by
  unfold endSealed
  refine kept_ite ?_ ?_
  · refine kept_modDesc ?_
    exact h
  · refine kept_finish ?_
    exact h

theorem kept_execTagVerify {q : List Instr} {s : State} (h : Kept q s) :
    KeptA q (execTagVerify s) := by
  unfold execTagVerify
  refine kept_next ?_
  split
  · exact h
  · split
    · exact h
    · refine kept_ite ?_ ?_
      · exact h
      · refine kept_ite ?_ ?_
        · refine kept_endSealed ?_
          refine kept_deliver ?_
          refine kept_of ?_
          dsimp -failIfUnchanged only
          refine kept_fields ?_
          exact h
        · refine kept_endSealed ?_
          refine kept_zeroHold ?_
          refine kept_of ?_
          dsimp -failIfUnchanged only
          refine kept_fields ?_
          exact h

theorem kept_execLockRelease {q : List Instr} {s : State} (h : Kept q s) :
    KeptA q (execLockRelease s) := by
  unfold execLockRelease
  refine kept_next ?_
  split
  · refine kept_ite ?_ ?_
    · refine kept_releaseLock ?_
      exact h
    · exact h
  · exact h

theorem kept_cipherFaulted {q : List Instr} {s : State} {f : FoldId} {k : Nat} (h : Kept q s) :
    Kept q (cipherFaulted s f k) := by
  unfold cipherFaulted
  split
  · exact h
  · dsimp -failIfUnchanged only
    split
    · refine kept_ite ?_ ?_
      · refine kept_releaseLock ?_
        refine kept_stopAtBoundary ?_
        refine kept_modDesc ?_
        exact h
      · refine kept_releaseLock ?_
        refine kept_stopJob ?_
        refine kept_modDesc ?_
        exact h
    · refine kept_ite ?_ ?_
      · refine kept_releaseLock ?_
        refine kept_modDesc ?_
        refine kept_modDesc ?_
        exact h
      · refine kept_releaseLock ?_
        refine kept_endSealed ?_
        refine kept_modDesc ?_
        exact h

theorem kept_spoilDesc {q : List Instr} {whole : Bool} {s : State} {f : FoldId} {k : Nat} (h : Kept q s) :
    Kept q (spoilDesc whole s f k) := by
  unfold spoilDesc
  split
  · exact h
  · refine kept_ite ?_ ?_
    · exact h
    · refine kept_ite ?_ ?_
      · refine kept_releaseLock ?_
        split
        · refine kept_ite ?_ ?_
          · refine kept_stopAtBoundary ?_
            exact h
          · refine kept_ite ?_ ?_
            · refine kept_endJob ?_
              refine kept_modDesc ?_
              exact h
            · refine kept_stopJob ?_
              exact h
        · refine kept_finishUnstarted ?_
          exact h
      · split
        · refine kept_ite ?_ ?_
          · refine kept_stopAtBoundary ?_
            exact h
          · refine kept_ite ?_ ?_
            · refine kept_endJob ?_
              refine kept_modDesc ?_
              exact h
            · refine kept_stopJob ?_
              exact h
        · refine kept_finishUnstarted ?_
          exact h

theorem kept_execCipherParityFault {q : List Instr} {s : State} (h : Kept q s) :
    KeptA q (execCipherParityFault s) := by
  unfold execCipherParityFault
  refine kept_next ?_
  refine kept_ite ?_ ?_
  · exact h
  · refine kept_ite ?_ ?_
    · refine kept_postEvent ?_
      refine kept_postEvent ?_
      refine kept_of ?_
      dsimp -failIfUnchanged only
      refine kept_fields ?_
      dsimp -failIfUnchanged only
      split
      · refine kept_cipherFaulted ?_
        exact h
      · exact h
    · refine kept_postEvent ?_
      refine kept_of ?_
      dsimp -failIfUnchanged only
      refine kept_fields ?_
      dsimp -failIfUnchanged only
      split
      · refine kept_cipherFaulted ?_
        exact h
      · exact h

theorem kept_execCphLockTake {q : List Instr} {s : State} (h : Kept q s) :
    KeptA q (execCphLockTake s) := by
  unfold execCphLockTake
  refine kept_next ?_
  refine kept_ite ?_ ?_
  · refine kept_of ?_
    dsimp -failIfUnchanged only
    refine kept_fields ?_
    exact h
  · exact h

theorem kept_execCphLockRelease {q : List Instr} {s : State} (h : Kept q s) :
    KeptA q (execCphLockRelease s) := by
  unfold execCphLockRelease
  refine kept_next ?_
  refine kept_ite ?_ ?_
  · refine kept_releaseLock ?_
    exact h
  · exact h

theorem kept_execCphKatStart {q : List Instr} {s : State} (h : Kept q s) :
    KeptA q (execCphKatStart s) := by
  unfold execCphKatStart
  refine kept_next ?_
  refine kept_onBar (fun s0 hs0 => ?_) ?_
  · refine kept_ite ?_ ?_
    · refine kept_of ?_
      dsimp -failIfUnchanged only
      refine kept_fields ?_
      exact hs0
    · exact hs0
  · exact h

theorem kept_execCphKatDone {q : List Instr} {matched : Bool} {s : State} (h : Kept q s) :
    KeptA q (execCphKatDone matched s) := by
  unfold execCphKatDone
  refine kept_next ?_
  refine kept_ite ?_ ?_
  · refine kept_of ?_
    dsimp -failIfUnchanged only
    refine kept_fields ?_
    exact h
  · exact h

theorem kept_execCphStatClear {q : List Instr} {s : State} (h : Kept q s) :
    KeptA q (execCphStatClear s) := by
  unfold execCphStatClear
  refine kept_next ?_
  refine kept_onBar (fun s0 hs0 => ?_) ?_
  · refine kept_of ?_
    dsimp -failIfUnchanged only
    refine kept_fields ?_
    exact hs0
  · exact h

theorem kept_resetSlot {q : List Instr} {s : State} {i : Fin 17} (h : Kept q s) :
    Kept q (resetSlot s i) := by
  unfold resetSlot
  refine kept_ite ?_ ?_
  · exact h
  · refine kept_requestRecord ?_
    refine kept_of ?_
    dsimp -failIfUnchanged only
    refine kept_fields ?_
    refine kept_setSlot ?_
    exact h

end Sys2Proof.Machine
end

