-- ==== Sys2Proof/Laws/KeptVault.lean ====
section
/-! SUPPORT. Laws/KeptVault.lean: every operation of Machine/Vault.lean keeps the queue, the reserved bits and the canonical lists. -/
namespace Sys2Proof.Machine

theorem kept_vaultRun {q : List Instr} {s : State} {f : FoldId} {k : Nat} {o : Op} {g : Desc → State → State} (hg : ∀
    (y0 : Desc), ∀ (y1 : State), Kept q y1 → Kept q (g y0 y1)) (h : Kept q s) :
    Kept q (vaultRun s f k o g) := by
  unfold vaultRun
  split
  · exact h
  · refine kept_ite ?_ ?_
    · refine kept_finish ?_
      exact h
    · refine kept_withLock (fun a0 ha0 => ?_) ?_
      · refine hg _ _ ?_
        exact ha0
      · exact h

theorem kept_endRecord {q : List Instr} {s : State} (h : Kept q s) :
    Kept q (endRecord s) := by
  unfold endRecord
  refine kept_releaseLock ?_
  exact h

theorem kept_vaultAuthFails {q : List Instr} {s : State} {f : FoldId} {r : Rec} (h : Kept q s) :
    Kept q (vaultAuthFails s f r) := by
  unfold vaultAuthFails
  refine kept_postEvent ?_
  refine kept_of ?_
  dsimp -failIfUnchanged only
  refine kept_fields ?_
  exact h

theorem kept_readVault {q : List Instr} {s : State} {f : FoldId} {key : List Byte} (h : Kept q s) : Kept q (readVault s f key) := by
  unfold readVault
  split
  · exact kept_readPages h
  · exact h

theorem kept_vaultGetRun {q : List Instr} {f : FoldId} {k : Nat} {key : List Byte} {d : Desc} {s : State} (h : Kept q s) :
    Kept q (vaultGetRun f k key d s) := by
  unfold vaultGetRun
  extract_lets +onlyGivenNames t2
  have ht2 : Kept q t2 := by
    refine kept_endRecord ?_
    exact kept_readVault h
  clear_value t2
  split
  · refine kept_finish ?_
    exact ht2
  · split
    · refine kept_finish ?_
      exact ht2
    · refine kept_ite ?_ ?_
      · refine kept_finish ?_
        exact ht2
      · refine kept_ite ?_ ?_
        · refine kept_finish ?_
          refine kept_vaultAuthFails ?_
          exact ht2
        · refine kept_ite ?_ ?_
          · refine kept_finish ?_
            exact ht2
          · refine kept_finish ?_
            refine kept_deliver ?_
            exact ht2

theorem kept_execVaultGet {q : List Instr} {f : FoldId} {k : Nat} {key : List Byte} {s : State} (h : Kept q s) :
    KeptA q (execVaultGet f k key s) := by
  unfold execVaultGet
  refine kept_next ?_
  refine kept_vaultRun (fun d0 s1 hs1 => ?_) ?_
  · refine kept_vaultGetRun ?_
    exact hs1
  · exact h

theorem kept_vaultIdFor {q : List Instr} {s : State} {f : FoldId} {key : List Byte} (h : Kept q s) :
    Kept q (vaultIdFor s f key).2 := by
  unfold vaultIdFor
  split
  · refine kept_snd_mk ?_
    exact h
  · refine kept_snd_mk ?_
    refine kept_of ?_
    dsimp -failIfUnchanged only
    refine kept_fields ?_
    exact h

theorem kept_vaultPutRun {q : List Instr} {f : FoldId} {k : Nat} {key : List Byte} {value : List Byte} {d : Desc}
    {s : State} (h : Kept q s) :
    Kept q (vaultPutRun f k key value d s) := by
  unfold vaultPutRun
  generalize fit d.fld.count key = key
  generalize fit d.fld.length value = value
  dsimp -failIfUnchanged only
  replace h := kept_readVault (f := f) (key := key) h
  refine kept_ite (kept_finish (kept_endRecord h)) (kept_ite (kept_finish (kept_endRecord h)) ?_)
  split
  · refine kept_finish ?_
    exact kept_endRecord h
  · exact kept_waitReserve h
  · refine kept_requestRecord ?_
    refine kept_modDesc ?_
    refine kept_vaultIdFor ?_
    exact kept_endRecord (kept_takeCounter h)

theorem kept_execVaultPut {q : List Instr} {f : FoldId} {k : Nat} {key : List Byte} {value : List Byte} {s : State}
    (h : Kept q s) :
    KeptA q (execVaultPut f k key value s) := by
  unfold execVaultPut
  refine kept_next ?_
  refine kept_vaultRun (fun d0 s1 hs1 => ?_) ?_
  · refine kept_vaultPutRun ?_
    exact hs1
  · exact h

theorem kept_execVaultDelete {q : List Instr} {f : FoldId} {k : Nat} {key : List Byte} {s : State} (h : Kept q s) :
    KeptA q (execVaultDelete f k key s) := by
  unfold execVaultDelete
  refine kept_next ?_
  split
  · exact h
  · refine kept_ite ?_ ?_
    · refine kept_finish ?_
      exact h
    · split
      · refine kept_finish ?_
        exact h
      · refine kept_requestRecord ?_
        refine kept_modDesc ?_
        exact h

theorem kept_vaultListRun {q : List Instr} {f : FoldId} {k : Nat} {d : Desc} {s : State} (h : Kept q s) :
    Kept q (vaultListRun f k d s) := by
  unfold vaultListRun
  refine kept_finish ?_
  refine kept_deliver ?_
  refine kept_setAux ?_
  refine kept_endRecord ?_
  exact kept_readPages h

theorem kept_execVaultList {q : List Instr} {f : FoldId} {k : Nat} {s : State} (h : Kept q s) :
    KeptA q (execVaultList f k s) := by
  unfold execVaultList
  refine kept_next ?_
  refine kept_vaultRun (fun d0 s1 hs1 => ?_) ?_
  · refine kept_vaultListRun ?_
    exact hs1
  · exact h

end Sys2Proof.Machine
end

