-- ==== Sys2Proof/Laws/KeptServo.lean ====
section
/-! SUPPORT. Laws/KeptServo.lean: every operation of Machine/Servo.lean keeps the queue, the reserved bits and the canonical lists. -/
namespace Sys2Proof.Machine

theorem kept_loadBanks {q : List Instr} {s : State} {cls : Nat} {layer : Nat} (h : Kept q s) :
    Kept q (loadBanks s cls layer) := by
  unfold loadBanks
  refine kept_of ?_
  dsimp -failIfUnchanged only
  refine kept_fields ?_
  exact h

theorem kept_computeLoops {q : List Instr} {s : State} (h : Kept q s) :
    Kept q (computeLoops s) := by
  unfold computeLoops
  refine kept_of ?_
  dsimp -failIfUnchanged only
  refine kept_fields ?_
  exact h

theorem kept_defectLasts {q : List Instr} {s : State} (h : Kept q s) :
    Kept q (defectLasts s) := by
  unfold defectLasts
  refine kept_ite ?_ ?_
  · refine kept_of ?_
    dsimp -failIfUnchanged only
    refine kept_fields ?_
    exact h
  · exact h

theorem kept_overrun {q : List Instr} {s : State} (h : Kept q s) :
    Kept q (overrun s) := by
  unfold overrun
  refine kept_of ?_
  dsimp -failIfUnchanged only
  refine kept_fields ?_
  exact h

theorem kept_missedSample {q : List Instr} {s : State} (h : Kept q s) :
    Kept q (missedSample s) := by
  unfold missedSample
  refine kept_ite ?_ ?_
  · refine kept_of ?_
    dsimp -failIfUnchanged only
    refine kept_fields ?_
    refine kept_defectLasts ?_
    refine kept_of ?_
    dsimp -failIfUnchanged only
    refine kept_fields ?_
    exact h
  · refine kept_overrun ?_
    refine kept_defectLasts ?_
    refine kept_of ?_
    dsimp -failIfUnchanged only
    refine kept_fields ?_
    exact h

theorem kept_applyOutputs {q : List Instr} {s : State} (h : Kept q s) :
    Kept q (applyOutputs s) := by
  unfold applyOutputs
  refine kept_emits ?_
  refine kept_of ?_
  dsimp -failIfUnchanged only
  refine kept_fields ?_
  exact h

theorem kept_limitApc {q : List Instr} {s : State} (h : Kept q s) :
    Kept q (limitApc s) := by
  unfold limitApc
  refine kept_ite ?_ ?_
  · exact h
  · refine kept_emit ?_
    refine kept_setOut ?_
    exact h

theorem kept_writeBank {q : List Instr} {s : State} {loop : Nat} {b : Bank} (h : Kept q s) :
    Kept q (writeBank s loop b) := by
  unfold writeBank
  refine kept_of ?_
  dsimp -failIfUnchanged only
  refine kept_fields ?_
  exact h

theorem kept_profileDone {q : List Instr} {s : State} {k : Nat} (h : Kept q s) :
    Kept q (profileDone s k) := by
  unfold profileDone
  split
  · refine kept_finish ?_
    exact h
  · exact h

theorem kept_endBankWrites {q : List Instr} {s : State} (h : Kept q s) :
    Kept q (endBankWrites s) := by
  unfold endBankWrites
  refine kept_foldl (fun t1 _ ht1 => ?_) _ ?_
  · refine kept_profileDone ?_
    refine kept_writeBank ?_
    exact ht1
  · refine kept_of ?_
    dsimp -failIfUnchanged only
    refine kept_fields ?_
    exact h

theorem kept_swapBanks {q : List Instr} {s : State} {mask : BitVec 6} {clear : Bool} (h : Kept q s) :
    Kept q (swapBanks s mask clear) := by
  unfold swapBanks
  refine kept_of ?_
  dsimp -failIfUnchanged only
  refine kept_fields ?_
  exact h

theorem kept_swapAtStrobe {q : List Instr} {s : State} (h : Kept q s) :
    Kept q (swapAtStrobe s) := by
  unfold swapAtStrobe
  split
  · exact h
  · refine kept_swapBanks ?_
    refine kept_of ?_
    dsimp -failIfUnchanged only
    refine kept_fields ?_
    exact h

theorem kept_loadAtStrobe {q : List Instr} {s : State} (h : Kept q s) :
    Kept q (loadAtStrobe s) := by
  unfold loadAtStrobe
  split
  · exact h
  · refine kept_loadBanks ?_
    refine kept_of ?_
    dsimp -failIfUnchanged only
    refine kept_fields ?_
    exact h

theorem kept_takeProfiles {q : List Instr} {s : State} (h : Kept q s) :
    Kept q (takeProfiles s) := by
  unfold takeProfiles
  refine kept_ite ?_ ?_
  · refine kept_of ?_
    dsimp -failIfUnchanged only
    refine kept_fields ?_
    exact h
  · exact h

theorem kept_countLimit {q : List Instr} {s : State} (h : Kept q s) :
    Kept q (countLimit s) := by
  unfold countLimit
  refine kept_ite ?_ ?_
  · exact h
  · refine kept_of ?_
    dsimp -failIfUnchanged only
    refine kept_fields ?_
    exact h

theorem kept_endPeriod {q : List Instr} {s : State} (h : Kept q s) :
    Kept q (endPeriod s) := by
  unfold endPeriod
  refine kept_ite ?_ ?_
  · refine kept_overrun ?_
    exact h
  · refine kept_ite ?_ ?_
    · refine kept_missedSample ?_
      exact h
    · refine kept_applyOutputs ?_
      refine kept_of ?_
      dsimp -failIfUnchanged only
      refine kept_fields ?_
      exact h

theorem kept_takeVcore {q : List Instr} {s : State} (h : Kept q s) : Kept q (takeVcore s) :=
  kept_of (kept_fields (u := s) h)

theorem kept_atStrobe {q : List Instr} {s : State} (h : Kept q s) :
    Kept q (atStrobe s) := by
  unfold atStrobe
  refine kept_takeVcore (kept_countLimit ?_)
  refine kept_takeProfiles ?_
  refine kept_loadAtStrobe ?_
  refine kept_swapAtStrobe ?_
  refine kept_endBankWrites ?_
  refine kept_takeFaults ?_
  refine kept_limitApc ?_
  exact h

theorem kept_execLoopStrobe {q : List Instr} {s : State} (h : Kept q s) : KeptA q (execLoopStrobe s) := by
  unfold execLoopStrobe
  refine kept_next (kept_ite h ?_)
  have ht := kept_atStrobe (kept_endPeriod h)
  generalize atStrobe (endPeriod s) = t at ht
  dsimp only
  refine kept_setServo ht ?_ ?_
  · split <;> rfl
  · split <;> rfl

theorem kept_askResync {q : List Instr} {s : State} (h : Kept q s) :
    Kept q (askResync s) := by
  unfold askResync
  refine kept_of ?_
  dsimp -failIfUnchanged only
  refine kept_fields ?_
  exact h

theorem kept_defectTest {q : List Instr} {s : State} (h : Kept q s) :
    Kept q (defectTest s) := by
  unfold defectTest
  extract_lets +onlyGivenNames x1
  extract_lets +onlyGivenNames x2
  extract_lets +onlyGivenNames x3
  refine kept_ite ?_ ?_
  · refine kept_of ?_
    dsimp -failIfUnchanged only
    refine kept_fields ?_
    exact h
  · refine kept_ite ?_ ?_
    · refine kept_ite ?_ ?_
      · refine kept_of ?_
        dsimp -failIfUnchanged only
        refine kept_fields ?_
        exact h
      · refine kept_of ?_
        dsimp -failIfUnchanged only
        refine kept_fields ?_
        exact h
    · refine kept_ite ?_ ?_
      · refine kept_of ?_
        dsimp -failIfUnchanged only
        refine kept_fields ?_
        exact h
      · refine kept_of ?_
        dsimp -failIfUnchanged only
        refine kept_fields ?_
        exact h

theorem kept_bandTest {q : List Instr} {s : State} {c : Vector Int 16} (h : Kept q s) :
    Kept q (bandTest s c) := by
  unfold bandTest
  refine kept_of ?_
  dsimp -failIfUnchanged only
  refine kept_fields ?_
  exact h

theorem kept_puTempTest {q : List Instr} {s : State} {c : Vector Int 16} (h : Kept q s) :
    Kept q (puTempTest s c) := by
  unfold puTempTest
  refine kept_of ?_
  dsimp -failIfUnchanged only
  refine kept_fields ?_
  exact h

theorem kept_apcTest {q : List Instr} {s : State} {c : Vector Int 16} (h : Kept q s) :
    Kept q (apcTest s c) := by
  unfold apcTest
  refine kept_ite ?_ ?_
  · exact h
  · refine kept_of ?_
    dsimp -failIfUnchanged only
    refine kept_fields ?_
    exact h

theorem kept_noteSums {q : List Instr} {s : State} (h : Kept q s) :
    Kept q (noteSums s) := by
  unfold noteSums
  refine kept_of ?_
  dsimp -failIfUnchanged only
  refine kept_fields ?_
  exact h

theorem kept_meterStrobe {q : List Instr} {s : State} (h : Kept q s) :
    Kept q (meterStrobe s) := by
  unfold meterStrobe
  split
  · exact h
  · extract_lets +onlyGivenNames x1
    extract_lets +onlyGivenNames x2
    extract_lets +onlyGivenNames x3
    refine kept_of ?_
    dsimp -failIfUnchanged only
    refine kept_fields ?_
    exact h

theorem kept_raiseLaser {q : List Instr} {s : State} (h : Kept q s) : Kept q (raiseLaser s) := by
  unfold raiseLaser
  by_cases hl : laserAllowed s = true
  · have hh : s.halt.inHalt = false := by
      simp only [laserAllowed, Bool.and_eq_true, Bool.not_eq_true'] at hl
      exact hl.1.1.2
    have ht : Kept q (if s.servo.ldEn then s else s.emit (.ldEn true)) := kept_ite h (kept_emit h)
    have hx : (if s.servo.ldEn then s else s.emit (.ldEn true)).halt.inHalt = false := by
      split <;> exact hh
    rw [if_neg (by simp [hl])]
    dsimp only
    generalize (if s.servo.ldEn then s else s.emit (.ldEn true)) = t at ht hx
    exact kept_of { kept_fields ht with gate := fun _ => rfl, halted := fun hy => absurd (hx.symm.trans hy) (by simp) }
  · rw [if_pos (by simp [hl])]
    exact h

theorem kept_setLoop {q : List Instr} {s : State} {i : Fin 6} {closed : Bool} {held : Bool} (h : Kept q s) :
    Kept q (setLoop s i closed held) := by
  unfold setLoop
  refine kept_of ?_
  dsimp -failIfUnchanged only
  refine kept_fields ?_
  exact h

theorem kept_setPhase {q : List Instr} {s : State} {p : SeqPhase} (h : Kept q s) :
    Kept q (setPhase s p) := by
  unfold setPhase
  refine kept_of ?_
  dsimp -failIfUnchanged only
  refine kept_fields ?_
  exact h

theorem kept_beginSweep {q : List Instr} {s : State} (h : Kept q s) :
    Kept q (beginSweep s) := by
  unfold beginSweep
  extract_lets +onlyGivenNames t5
  have ht5 : Kept q t5 := by
    refine kept_setLoop ?_
    refine kept_setLoop ?_
    refine kept_setLoop ?_
    exact h
  clear_value t5
  refine kept_setPhase ?_
  refine kept_of ?_
  dsimp -failIfUnchanged only
  refine kept_fields ?_
  exact ht5

theorem kept_beginFocus {q : List Instr} {s : State} {layer : Nat} {afterJump : Bool} (h : Kept q s) :
    Kept q (beginFocus s layer afterJump) := by
  unfold beginFocus
  extract_lets +onlyGivenNames t6
  have ht6 : Kept q t6 := by
    refine kept_setLoop ?_
    refine kept_setLoop ?_
    refine kept_setLoop ?_
    refine kept_setLoop ?_
    refine kept_raiseLaser ?_
    exact h
  clear_value t6
  refine kept_of ?_
  dsimp -failIfUnchanged only
  refine kept_fields ?_
  exact ht6

theorem kept_beginTrackOn {q : List Instr} {s : State} {tries : Nat} (h : Kept q s) :
    Kept q (beginTrackOn s tries) := by
  unfold beginTrackOn
  extract_lets +onlyGivenNames t7
  have ht7 : Kept q t7 := by
    refine kept_setLoop ?_
    refine kept_setLoop ?_
    exact h
  clear_value t7
  refine kept_setPhase ?_
  refine kept_of ?_
  dsimp -failIfUnchanged only
  refine kept_fields ?_
  exact ht7

theorem kept_noDiscFound {q : List Instr} {s : State} (h : Kept q s) :
    Kept q (noDiscFound s) := by
  unfold noDiscFound
  extract_lets +onlyGivenNames t8
  have ht8 : Kept q t8 := by
    refine kept_openLoops ?_
    refine kept_dropLaser ?_
    exact h
  clear_value t8
  (dsimp only; split)
  · refine kept_endJob ?_
    refine kept_of ?_
    dsimp -failIfUnchanged only
    refine kept_fields ?_
    exact ht8
  · refine kept_ite ?_ ?_
    · refine kept_of ?_
      dsimp -failIfUnchanged only
      refine kept_fields ?_
      exact ht8
    · refine kept_of ?_
      dsimp -failIfUnchanged only
      refine kept_fields ?_
      exact ht8

theorem kept_focusFails {q : List Instr} {s : State} (h : Kept q s) :
    Kept q (focusFails s) := by
  unfold focusFails
  refine kept_setPhase ?_
  refine kept_servoFault ?_
  exact h

theorem kept_attemptOver {q : List Instr} {s : State} (h : Kept q s) :
    Kept q (attemptOver s) := by
  unfold attemptOver
  extract_lets +onlyGivenNames x10
  refine kept_ite ?_ ?_
  · refine kept_beginSweep ?_
    refine kept_of ?_
    dsimp -failIfUnchanged only
    refine kept_fields ?_
    exact h
  · refine kept_ite ?_ ?_
    · refine kept_noDiscFound ?_
      refine kept_of ?_
      dsimp -failIfUnchanged only
      refine kept_fields ?_
      exact h
    · refine kept_focusFails ?_
      refine kept_of ?_
      dsimp -failIfUnchanged only
      refine kept_fields ?_
      exact h

theorem kept_closeFocus {q : List Instr} {s : State} {layer : Nat} {p : SeqPhase} (h : Kept q s) :
    Kept q (closeFocus s layer p) := by
  unfold closeFocus
  refine kept_setPhase ?_
  refine kept_setLoop ?_
  refine kept_loadBanks ?_
  exact h

theorem kept_declareFok {q : List Instr} {s : State} (h : Kept q s) :
    Kept q (declareFok s) := by
  unfold declareFok
  extract_lets +onlyGivenNames t12
  have ht12 : Kept q t12 := by
    refine kept_setLoop ?_
    exact h
  clear_value t12
  refine kept_setPhase ?_
  refine kept_of ?_
  dsimp -failIfUnchanged only
  refine kept_fields ?_
  exact ht12

theorem kept_endBrake {q : List Instr} {s : State} (h : Kept q s) :
    Kept q (endBrake s) := by
  unfold endBrake
  extract_lets +onlyGivenNames x13
  extract_lets +onlyGivenNames x14
  extract_lets +onlyGivenNames x15
  refine kept_setPhase ?_
  refine kept_of ?_
  dsimp -failIfUnchanged only
  refine kept_fields ?_
  refine kept_setLoop ?_
  refine kept_of ?_
  dsimp -failIfUnchanged only
  refine kept_fields ?_
  exact h

theorem kept_closeJump {q : List Instr} {s : State} (h : Kept q s) :
    Kept q (closeJump s) := by
  unfold closeJump
  extract_lets +onlyGivenNames t17
  have ht17 : Kept q t17 := by
    refine kept_setLoop ?_
    exact h
  clear_value t17
  refine kept_setPhase ?_
  refine kept_of ?_
  dsimp -failIfUnchanged only
  refine kept_fields ?_
  exact ht17

theorem kept_lockTrack {q : List Instr} {s : State} (h : Kept q s) :
    Kept q (lockTrack s) := by
  unfold lockTrack
  refine kept_setPhase ?_
  refine kept_of ?_
  dsimp -failIfUnchanged only
  refine kept_fields ?_
  exact h

theorem kept_closeSled {q : List Instr} {s : State} (h : Kept q s) :
    Kept q (closeSled s) := by
  unfold closeSled
  extract_lets +onlyGivenNames t18
  have ht18 : Kept q t18 := by
    refine kept_setPhase ?_
    refine kept_setLoop ?_
    exact h
  clear_value t18
  refine kept_ite ?_ ?_
  · refine kept_of ?_
    dsimp -failIfUnchanged only
    refine kept_fields ?_
    exact ht18
  · exact ht18

theorem kept_sweepStep {q : List Instr} {s : State} {up : Bool} {sum : Int} {fe : Int} (h : Kept q s) :
    Kept q (sweepStep s up sum fe) := by
  unfold sweepStep
  extract_lets +onlyGivenNames x19
  extract_lets +onlyGivenNames x20
  refine kept_ite ?_ ?_
  · refine kept_closeFocus ?_
    refine kept_of ?_
    dsimp -failIfUnchanged only
    refine kept_fields ?_
    exact h
  · refine kept_ite ?_ ?_
    · refine kept_of ?_
      dsimp -failIfUnchanged only
      refine kept_fields ?_
      exact h
    · extract_lets +onlyGivenNames x24
      refine kept_ite ?_ ?_
      · refine kept_attemptOver ?_
        refine kept_of ?_
        dsimp -failIfUnchanged only
        refine kept_fields ?_
        exact h
      · refine kept_ite ?_ ?_
        · refine kept_focusFails ?_
          refine kept_of ?_
          dsimp -failIfUnchanged only
          refine kept_fields ?_
          exact h
        · refine kept_setPhase ?_
          refine kept_of ?_
          dsimp -failIfUnchanged only
          refine kept_fields ?_
          exact h

theorem kept_measureStep {q : List Instr} {s : State} {te : Int} (h : Kept q s) :
    Kept q (measureStep s te) := by
  unfold measureStep
  split
  split
  · refine kept_ite ?_ ?_
    · refine kept_setPhase ?_
      refine kept_of ?_
      dsimp -failIfUnchanged only
      refine kept_fields ?_
      exact h
    · refine kept_of ?_
      dsimp -failIfUnchanged only
      refine kept_fields ?_
      exact h
  · refine kept_of ?_
    dsimp -failIfUnchanged only
    refine kept_fields ?_
    exact h

theorem kept_layerStep {q : List Instr} {s : State} {fe : Int} (h : Kept q s) :
    Kept q (layerStep s fe) := by
  unfold layerStep
  extract_lets +onlyGivenNames x28
  refine kept_ite ?_ ?_
  · refine kept_askResync ?_
    refine kept_setPhase ?_
    refine kept_of ?_
    dsimp -failIfUnchanged only
    refine kept_fields ?_
    exact h
  · refine kept_ite ?_ ?_
    · refine kept_setPhase ?_
      refine kept_of ?_
      dsimp -failIfUnchanged only
      refine kept_fields ?_
      exact h
    · refine kept_of ?_
      dsimp -failIfUnchanged only
      refine kept_fields ?_
      exact h

theorem kept_seqPhaseStep {q : List Instr} {s : State} {sum : Int} {fe : Int} {te : Int} (h : Kept q s) :
    Kept q (seqPhaseStep s sum fe te) := by
  unfold seqPhaseStep
  extract_lets +onlyGivenNames x30
  extract_lets +onlyGivenNames x31
  extract_lets +onlyGivenNames x32
  split
  · exact h
  · refine kept_ite ?_ ?_
    · refine kept_beginSweep ?_
      exact h
    · exact h
  · refine kept_sweepStep ?_
    exact h
  · refine kept_sweepStep ?_
    exact h
  · refine kept_ite ?_ ?_
    · refine kept_attemptOver ?_
      exact h
    · refine kept_ite ?_ ?_
      · exact h
      · refine kept_ite ?_ ?_
        · refine kept_beginTrackOn ?_
          refine kept_declareFok ?_
          exact h
        · refine kept_declareFok ?_
          exact h
  · refine kept_measureStep ?_
    exact h
  · refine kept_ite ?_ ?_
    · refine kept_setPhase ?_
      refine kept_of ?_
      dsimp -failIfUnchanged only
      refine kept_fields ?_
      exact h
    · exact h
  · refine kept_ite ?_ ?_
    · refine kept_endBrake ?_
      exact h
    · exact h
  · extract_lets +onlyGivenNames x38
    refine kept_ite ?_ ?_
    · refine kept_lockTrack ?_
      refine kept_of ?_
      dsimp -failIfUnchanged only
      refine kept_fields ?_
      exact h
    · refine kept_of ?_
      dsimp -failIfUnchanged only
      refine kept_fields ?_
      exact h
  · refine kept_ite ?_ ?_
    · refine kept_closeSled ?_
      exact h
    · exact h
  · extract_lets +onlyGivenNames x41
    split
    · refine kept_of ?_
      dsimp -failIfUnchanged only
      refine kept_fields ?_
      exact h
    · refine kept_ite ?_ ?_
      · refine kept_closeJump ?_
        refine kept_of ?_
        dsimp -failIfUnchanged only
        refine kept_fields ?_
        exact h
      · refine kept_ite ?_ ?_
        · refine kept_setPhase ?_
          refine kept_of ?_
          dsimp -failIfUnchanged only
          refine kept_fields ?_
          exact h
        · refine kept_of ?_
          dsimp -failIfUnchanged only
          refine kept_fields ?_
          exact h
  · extract_lets +onlyGivenNames x45
    split
    · refine kept_of ?_
      dsimp -failIfUnchanged only
      refine kept_fields ?_
      exact h
    · refine kept_ite ?_ ?_
      · refine kept_closeJump ?_
        refine kept_of ?_
        dsimp -failIfUnchanged only
        refine kept_fields ?_
        exact h
      · refine kept_ite ?_ ?_
        · refine kept_setPhase ?_
          refine kept_of ?_
          dsimp -failIfUnchanged only
          refine kept_fields ?_
          exact h
        · refine kept_of ?_
          dsimp -failIfUnchanged only
          refine kept_fields ?_
          exact h
  · refine kept_layerStep ?_
    exact h
  · refine kept_layerStep ?_
    exact h
  · refine kept_ite ?_ ?_
    · refine kept_closeFocus ?_
      exact h
    · exact h
  · refine kept_ite ?_ ?_
    · refine kept_beginFocus ?_
      exact h
    · refine kept_ite ?_ ?_
      · refine kept_beginTrackOn ?_
        refine kept_declareFok ?_
        exact h
      · exact h

theorem kept_seqStep {q : List Instr} {s : State} (h : Kept q s) :
    Kept q (seqStep s) := by
  unfold seqStep
  extract_lets +onlyGivenNames x33
  extract_lets +onlyGivenNames x34
  extract_lets +onlyGivenNames t35
  have ht35 : Kept q t35 := by
    refine kept_seqPhaseStep ?_
    exact h
  clear_value t35
  refine kept_of ?_
  dsimp -failIfUnchanged only
  refine kept_fields ?_
  exact ht35

theorem kept_execServoSampleArrival {q : List Instr} {c : Vector Int 16} {s : State} (h : Kept q s) :
    KeptA q (execServoSampleArrival c s) := by
  unfold execServoSampleArrival
  refine kept_next ?_
  refine kept_ite ?_ ?_
  · exact h
  · refine kept_ite ?_ ?_
    · refine kept_missedSample ?_
      exact h
    · extract_lets +onlyGivenNames x36
      refine kept_seqStep ?_
      refine kept_meterStrobe ?_
      refine kept_defectLasts ?_
      refine kept_of ?_
      dsimp -failIfUnchanged only
      refine kept_fields ?_
      refine kept_noteSums ?_
      refine kept_apcTest ?_
      refine kept_puTempTest ?_
      refine kept_bandTest ?_
      refine kept_defectTest ?_
      refine kept_of ?_
      dsimp -failIfUnchanged only
      refine kept_fields ?_
      exact h

theorem kept_execLoopComputeDone {q : List Instr} {left : Nat} {period : Nat} {s : State} (h : Kept q s) :
    KeptA q (execLoopComputeDone left period s) := by
  unfold execLoopComputeDone
  refine kept_next ?_
  refine kept_ite ?_ ?_
  · refine kept_of ?_
    dsimp -failIfUnchanged only
    refine kept_fields ?_
    refine kept_computeLoops ?_
    exact h
  · exact h

theorem kept_execServoPacketBad {q : List Instr} {s : State} (h : Kept q s) :
    KeptA q (execServoPacketBad s) := by
  unfold execServoPacketBad
  refine kept_next ?_
  refine kept_ite ?_ ?_
  · exact h
  · extract_lets +onlyGivenNames t40
    have ht40 : Kept q t40 := by
      refine kept_countBadPacket ?_
      exact h
    clear_value t40
    refine kept_ite ?_ ?_
    · refine kept_missedSample ?_
      exact ht40
    · exact ht40

theorem kept_execOverrunLimit {q : List Instr} {s : State} (h : Kept q s) :
    KeptA q (execOverrunLimit s) := by
  unfold execOverrunLimit
  refine kept_next ?_
  refine kept_ite ?_ ?_
  · refine kept_servoFault ?_
    refine kept_of ?_
    dsimp -failIfUnchanged only
    refine kept_fields ?_
    exact h
  · exact h

theorem kept_execDefectLong {q : List Instr} {s : State} (h : Kept q s) :
    KeptA q (execDefectLong s) := by
  unfold execDefectLong
  refine kept_next ?_
  refine kept_ite ?_ ?_
  · refine kept_servoFault ?_
    refine kept_of ?_
    dsimp -failIfUnchanged only
    refine kept_fields ?_
    exact h
  · exact h

theorem kept_execPickupOpen {q : List Instr} {s : State} (h : Kept q s) :
    KeptA q (execPickupOpen s) := by
  unfold execPickupOpen
  refine kept_next ?_
  refine kept_ite ?_ ?_
  · exact h
  · refine kept_servoFault ?_
    refine kept_of ?_
    dsimp -failIfUnchanged only
    refine kept_fields ?_
    exact h

theorem kept_execApcLimit {q : List Instr} {s : State} (h : Kept q s) :
    KeptA q (execApcLimit s) := by
  unfold execApcLimit
  refine kept_next ?_
  refine kept_ite ?_ ?_
  · refine kept_servoFault ?_
    exact h
  · exact h

theorem kept_execPuTempOpen {q : List Instr} {s : State} (h : Kept q s) :
    KeptA q (execPuTempOpen s) := by
  unfold execPuTempOpen
  refine kept_next ?_
  refine kept_ite ?_ ?_
  · exact h
  · refine kept_postEvent ?_
    dsimp -failIfUnchanged only
    split
    · refine kept_ite ?_ ?_
      · refine kept_stopAtBoundary ?_
        refine kept_of ?_
        dsimp -failIfUnchanged only
        refine kept_fields ?_
        exact h
      · refine kept_of ?_
        dsimp -failIfUnchanged only
        refine kept_fields ?_
        exact h
    · refine kept_of ?_
      dsimp -failIfUnchanged only
      refine kept_fields ?_
      exact h

theorem kept_execPuTempClear {q : List Instr} {s : State} (h : Kept q s) :
    KeptA q (execPuTempClear s) := by
  unfold execPuTempClear
  refine kept_next ?_
  refine kept_ite ?_ ?_
  · refine kept_postEvent ?_
    refine kept_of ?_
    dsimp -failIfUnchanged only
    refine kept_fields ?_
    exact h
  · exact h

theorem kept_execBankSwapApply {q : List Instr} {s : State} (h : Kept q s) :
    KeptA q (execBankSwapApply s) := by
  unfold execBankSwapApply
  refine kept_next ?_
  split
  · exact h
  · refine kept_profileDone ?_
    refine kept_of ?_
    dsimp -failIfUnchanged only
    refine kept_fields ?_
    exact h

theorem kept_execFocusOn {q : List Instr} {layer : Nat} {s : State} (h : Kept q s) :
    KeptA q (execFocusOn layer s) := by
  unfold execFocusOn
  refine kept_next ?_
  refine kept_ite ?_ ?_
  · refine kept_beginFocus ?_
    exact h
  · exact h

theorem kept_execTrackOn {q : List Instr} {s : State} (h : Kept q s) :
    KeptA q (execTrackOn s) := by
  unfold execTrackOn
  refine kept_next ?_
  refine kept_ite ?_ ?_
  · refine kept_beginTrackOn ?_
    exact h
  · exact h

theorem kept_execTrackOnTimeout {q : List Instr} {s : State} (h : Kept q s) :
    KeptA q (execTrackOnTimeout s) := by
  unfold execTrackOnTimeout
  refine kept_next ?_
  split
  · refine kept_ite ?_ ?_
    · exact h
    · refine kept_ite ?_ ?_
      · refine kept_setPhase ?_
        refine kept_servoFault ?_
        refine kept_of ?_
        dsimp -failIfUnchanged only
        refine kept_fields ?_
        exact h
      · refine kept_beginTrackOn ?_
        exact h
  · exact h

theorem kept_startJump {q : List Instr} {s : State} {tracks : Nat} {outward : Bool} (h : Kept q s) :
    Kept q (startJump s tracks outward) := by
  unfold startJump
  extract_lets +onlyGivenNames t48
  have ht48 : Kept q t48 := by
    refine kept_setLoop ?_
    refine kept_setLoop ?_
    exact h
  clear_value t48
  refine kept_setPhase ?_
  refine kept_of ?_
  dsimp -failIfUnchanged only
  refine kept_fields ?_
  exact ht48

theorem kept_execTrackJump {q : List Instr} {tracks : Nat} {outward : Bool} {s : State} (h : Kept q s) :
    KeptA q (execTrackJump tracks outward s) := by
  unfold execTrackJump
  refine kept_next ?_
  refine kept_ite ?_ ?_
  · refine kept_startJump ?_
    exact h
  · exact h

theorem kept_execJumpTimeout {q : List Instr} {s : State} (h : Kept q s) :
    KeptA q (execJumpTimeout s) := by
  unfold execJumpTimeout
  refine kept_next ?_
  split
  · refine kept_ite ?_ ?_
    · exact h
    · refine kept_ite ?_ ?_
      · refine kept_setPhase ?_
        refine kept_servoFault ?_
        refine kept_of ?_
        dsimp -failIfUnchanged only
        refine kept_fields ?_
        exact h
      · refine kept_beginTrackOn ?_
        refine kept_of ?_
        dsimp -failIfUnchanged only
        refine kept_fields ?_
        exact h
  · exact h

theorem kept_execLayerJump {q : List Instr} {layer : Nat} {s : State} (h : Kept q s) :
    KeptA q (execLayerJump layer s) := by
  unfold execLayerJump
  refine kept_next ?_
  refine kept_ite ?_ ?_
  · refine kept_askResync ?_
    refine kept_of ?_
    dsimp -failIfUnchanged only
    refine kept_fields ?_
    refine kept_setLoop ?_
    refine kept_setLoop ?_
    refine kept_setLoop ?_
    exact h
  · exact h

theorem kept_execLayerJumpTimeout {q : List Instr} {s : State} (h : Kept q s) :
    KeptA q (execLayerJumpTimeout s) := by
  unfold execLayerJumpTimeout
  refine kept_next ?_
  split
  · refine kept_ite ?_ ?_
    · exact h
    · refine kept_beginFocus ?_
      exact h
  · exact h

end Sys2Proof.Machine
end

