-- ==== Sys2Proof/Laws/KeptFront.lean ====
section
/-! SUPPORT. Laws/KeptFront.lean: every operation of Machine/Front.lean keeps the queue, the reserved bits and the canonical lists. -/
namespace Sys2Proof.Machine

theorem kept_channelRun {q : List Instr} {s : State} {rf : List RfSample} (h : Kept q s) : Kept q (channelRun s rf) := by
  unfold channelRun
  split
  · exact h
  · dsimp only
    split
    · exact kept_of { kept_fields h with bad := listed_filter _ h.bad }
    · exact kept_of (kept_fields h)

theorem kept_modUnit {q : List Instr} {s : State} {first : Nat} {g : JobUnit → JobUnit} (h : Kept q s) :
    Kept q (State.modUnit s first g) := by
  unfold State.modUnit
  refine kept_modJob ?_
  exact h

end Sys2Proof.Machine
end

