-- ==== Sys2Proof/Laws/KeptReading.lean ====
section
/-! SUPPORT. Laws/KeptReading.lean: every operation of Machine/Reading.lean keeps the queue, the reserved bits and the canonical lists. -/
namespace Sys2Proof.Machine

theorem kept_startReading {q : List Instr} {s : State} {d : Desc} {units : List JobUnit} (h : Kept q s) :
    Kept q (startReading s d units) := by
  unfold startReading
  refine kept_of ?_
  dsimp -failIfUnchanged only
  refine kept_fields ?_
  refine kept_modJob ?_
  exact h

theorem kept_companions {q : List Instr} {s : State} {f : FoldId} {d : Desc} {u : UnitRead} {recovered : Bool} (h : Kept q s) :
    Kept q (companions s f d u recovered) := by
  unfold companions
  split
  · refine kept_ite ?_ ?_
    · refine kept_penPlace ?_
      exact h
    · exact h
  · refine kept_ite ?_ ?_
    · refine kept_penPlace ?_
      exact h
    · exact h
  · refine kept_ite ?_ ?_
    · refine kept_penPlace ?_
      exact h
    · exact h
  · exact h

theorem kept_sealedReadWhole {q : List Instr} {s : State} {j : Job} {d : Desc} (h : Kept q s) :
    Kept q (sealedReadWhole s j d) := by
  unfold sealedReadWhole
  refine kept_endJob ?_
  refine kept_openInto ?_
  exact h

theorem kept_sendBlocks {q : List Instr} {f : FoldId} {d : Desc} {size : Nat} :
    ∀ {l : List Block} {i : Nat} {s : State}, Kept q s → Kept q (sendBlocks f d size l i s)
  | [], _, _, h => h
  | b :: r, i, s, h => by
    unfold sendBlocks
    have ht := kept_memRun (l := blockReads s f d size i) h
    generalize memRun s (blockReads s f d size i) = p at ht ⊢
    obtain ⟨t, bad⟩ := p
    dsimp -failIfUnchanged only
    split
    · exact kept_modJob ht
    · exact kept_sendBlocks (kept_modJob ht)

theorem kept_sendOut {q : List Instr} {s : State} (h : Kept q s) : Kept q (sendOut s) := by
  unfold sendOut
  split
  · exact h
  · dsimp -failIfUnchanged only
    split
    · exact kept_sendBlocks h
    · exact h

theorem kept_judgeReading {q : List Instr} {s : State} (h : Kept q s) :
    Kept q (judgeReading s) := by
  unfold judgeReading
  extract_lets +onlyGivenNames t1
  have ht1 : Kept q t1 := by
    refine kept_sendOut ?_
    exact h
  clear_value t1
  split
  · exact ht1
  · refine kept_ite ?_ ?_
    · exact ht1
    · refine kept_ite ?_ ?_
      · refine kept_stopJob ?_
        exact ht1
      · split
        · exact ht1
        · refine kept_ite ?_ ?_
          · refine kept_sealedReadWhole ?_
            exact ht1
          · refine kept_stopJob ?_
            exact ht1
        · refine kept_stopJob ?_
          exact ht1

theorem kept_judgeMerge {q : List Instr} {s : State} (h : Kept q s) :
    Kept q (judgeMerge s) := by
  unfold judgeMerge
  split
  · exact h
  · refine kept_ite ?_ ?_
    · exact h
    · refine kept_ite ?_ ?_
      · refine kept_stopJob ?_
        exact h
      · exact h

theorem kept_judge {q : List Instr} {s : State} (h : Kept q s) :
    Kept q (judge s) := by
  unfold judge
  refine kept_judgeMerge ?_
  refine kept_judgeReading ?_
  exact h

theorem kept_unpin {q : List Instr} {s : State} {first : Nat} (h : Kept q s) :
    Kept q (unpin s first) := by
  unfold unpin
  refine kept_of ?_
  dsimp -failIfUnchanged only
  refine kept_fields ?_
  exact h

theorem kept_toRereads {q : List Instr} {s : State} {j : Job} {d : Desc} {u : UnitRead} (h : Kept q s) :
    Kept q (toRereads s j d u) := by
  unfold toRereads
  refine kept_modUnit ?_
  exact h

theorem kept_endUnit {q : List Instr} {s : State} {first : Nat} (h : Kept q s) :
    Kept q (endUnit s first) := by
  unfold endUnit
  refine kept_of ?_
  dsimp -failIfUnchanged only
  refine kept_fields ?_
  exact h

theorem kept_unitConfirmed {q : List Instr} {s : State} {j : Job} {d : Desc} {u : UnitRead} {recovered : Bool}
    (h : Kept q s) : Kept q (unitConfirmed s j d u recovered) := by
  unfold unitConfirmed
  have hs : Kept q (s.modUnit u.first fun x => { x with st := .good u.blocks recovered }) := kept_modUnit h
  have ht := kept_memRun (l := unitWrites d u) hs
  extract_lets +onlyGivenNames t0
  generalize memRun _ (unitWrites d u) = p at ht ⊢
  obtain ⟨t, bad⟩ := p
  dsimp -failIfUnchanged only
  split
  · exact kept_stopJob (kept_modJob ht)
  · exact kept_judge (kept_companions ht)

theorem kept_decodeForCommand {q : List Instr} {s : State} {j : Job} {d : Desc} {u : UnitRead} (h : Kept q s) :
    Kept q (decodeForCommand s j d u) := by
  unfold decodeForCommand
  extract_lets +onlyGivenNames t2
  have ht2 : Kept q t2 := by
    refine kept_modUnit ?_
    refine kept_endUnit ?_
    exact h
  clear_value t2
  refine kept_ite ?_ ?_
  · refine kept_ite ?_ ?_
    · extract_lets +onlyGivenNames t3
      have ht3 : Kept q t3 := by
        refine kept_modUnit ?_
        exact ht2
      clear_value t3
      refine kept_of ?_
      dsimp -failIfUnchanged only
      refine kept_fields ?_
      exact ht3
    · refine kept_judge ?_
      refine kept_toRereads ?_
      exact ht2
  · refine kept_ite ?_ ?_
    · refine kept_modUnit ?_
      exact ht2
    · refine kept_unitConfirmed ?_
      exact ht2

theorem kept_decodeForSpeculation {q : List Instr} {s : State} {j : Job} {f : FoldId} {u : UnitRead} (h : Kept q s) :
    Kept q (decodeForSpeculation s j f u) := by
  unfold decodeForSpeculation
  refine kept_ite ?_ ?_
  · refine kept_of ?_
    dsimp -failIfUnchanged only
    refine kept_fields ?_
    refine kept_ite ?_ ?_
    · refine kept_penPlace ?_
      refine kept_endUnit ?_
      exact h
    · refine kept_endUnit ?_
      exact h
  · refine kept_of ?_
    dsimp -failIfUnchanged only
    refine kept_fields ?_
    refine kept_ite ?_ ?_
    · refine kept_penPlace ?_
      refine kept_endUnit ?_
      exact h
    · refine kept_endUnit ?_
      exact h

theorem kept_takeUnit {q : List Instr} {g : UnitSignal} {s : State} (h : Kept q s) :
    Kept q (takeUnit g s).2 := by
  unfold takeUnit
  refine kept_snd_mk ?_
  refine kept_modUnit ?_
  refine kept_channelRun ?_
  exact h

theorem kept_execUnitDecode {q : List Instr} {g : UnitSignal} {s : State} (h : Kept q s) :
    KeptA q (execUnitDecode g s) := by
  unfold execUnitDecode
  refine kept_next ?_
  split
  · refine kept_modUnit ?_
    refine kept_channelRun ?_
    exact h
  · split
    · refine kept_ite ?_ ?_
      · refine kept_decodeForSpeculation ?_
        refine kept_modUnit ?_
        refine kept_channelRun ?_
        exact h
      · refine kept_modUnit ?_
        refine kept_channelRun ?_
        exact h
    · refine kept_modUnit ?_
      refine kept_channelRun ?_
      exact h
    · split
      · refine kept_modUnit ?_
        refine kept_channelRun ?_
        exact h
      · refine kept_ite ?_ ?_
        · refine kept_decodeForCommand ?_
          refine kept_modUnit ?_
          refine kept_channelRun ?_
          exact h
        · refine kept_modUnit ?_
          refine kept_channelRun ?_
          exact h
    · split
      · refine kept_modUnit ?_
        refine kept_channelRun ?_
        exact h
      · refine kept_ite ?_ ?_
        · refine kept_decodeForCommand ?_
          refine kept_modUnit ?_
          refine kept_channelRun ?_
          exact h
        · refine kept_modUnit ?_
          refine kept_channelRun ?_
          exact h

theorem kept_spoilLook {q : List Instr} {s : State} {j : Job} {d : Desc} {x : JobUnit} (h : Kept q s) :
    Kept q (spoilLook s j d x) := by
  unfold spoilLook
  extract_lets +onlyGivenNames t1
  have ht1 : Kept q t1 := by
    refine kept_foldl (fun t2 _ ht2 => ?_) _ ?_
    · refine kept_eccUncorr ?_
      exact ht2
    · exact h
  clear_value t1
  refine kept_judge ?_
  refine kept_toRereads ?_
  refine kept_unpin ?_
  exact ht1

theorem kept_takePass {q : List Instr} {g : UnitSignal} {y : JobUnit} {pass : Nat} {s : State} (h : Kept q s) :
    Kept q (takePass g y pass s).2 := by
  unfold takePass
  refine kept_snd_mk ?_
  refine kept_modUnit ?_
  exact h

theorem kept_execSecondLookPassEnd {q : List Instr} {g : UnitSignal} {s : State} (h : Kept q s) :
    KeptA q (execSecondLookPassEnd g s) := by
  unfold execSecondLookPassEnd
  refine kept_next ?_
  split
  · exact h
  · split
    · exact h
    · split
      · refine kept_ite ?_ ?_
        · refine kept_spoilLook ?_
          exact h
        · refine kept_ite ?_ ?_
          · refine kept_unitConfirmed ?_
            refine kept_unpin ?_
            refine kept_modUnit ?_
            exact h
          · refine kept_ite ?_ ?_
            · refine kept_modUnit ?_
              refine kept_modUnit ?_
              exact h
            · refine kept_judge ?_
              refine kept_toRereads ?_
              refine kept_unpin ?_
              refine kept_modUnit ?_
              exact h
      · exact h

theorem kept_execPhysicalReread {q : List Instr} {g : UnitSignal} {s : State} (h : Kept q s) :
    KeptA q (execPhysicalReread g s) := by
  unfold execPhysicalReread
  refine kept_next ?_
  split
  · refine kept_modUnit ?_
    refine kept_channelRun ?_
    exact h
  · split
    · refine kept_modUnit ?_
      refine kept_channelRun ?_
      exact h
    · split
      · extract_lets +onlyGivenNames t4
        have ht4 : Kept q t4 := by
          refine kept_endUnit ?_
          refine kept_modUnit ?_
          refine kept_channelRun ?_
          exact h
        clear_value t4
        refine kept_ite ?_ ?_
        · refine kept_unitConfirmed ?_
          exact ht4
        · refine kept_ite ?_ ?_
          · refine kept_modUnit ?_
            exact ht4
          · refine kept_ite ?_ ?_
            · refine kept_unitConfirmed ?_
              exact ht4
            · refine kept_judge ?_
              refine kept_modUnit ?_
              exact ht4
      · refine kept_modUnit ?_
        refine kept_channelRun ?_
        exact h

theorem kept_loseSync {q : List Instr} {s : State} {u : JobUnit} (h : Kept q s) :
    Kept q (loseSync s u) := by
  unfold loseSync
  split
  · split
    · refine kept_ite ?_ ?_
      · refine kept_of ?_
        dsimp -failIfUnchanged only
        refine kept_fields ?_
        exact h
      · refine kept_of ?_
        dsimp -failIfUnchanged only
        refine kept_fields ?_
        exact h
    · refine kept_judge ?_
      refine kept_modUnit ?_
      refine kept_unpin ?_
      exact h
  · exact h

theorem kept_slipUnit {q : List Instr} {s : State} (h : Kept q s) :
    Kept q (slipUnit s) := by
  unfold slipUnit
  split
  · split
    · exact h
    · refine kept_ite ?_ ?_
      · exact h
      · extract_lets +onlyGivenNames t3
        have ht3 : Kept q t3 := by
          refine kept_modUnit ?_
          exact h
        clear_value t3
        refine kept_ite ?_ ?_
        · refine kept_of ?_
          dsimp -failIfUnchanged only
          refine kept_fields ?_
          exact ht3
        · refine kept_loseSync ?_
          refine kept_of ?_
          dsimp -failIfUnchanged only
          refine kept_fields ?_
          exact ht3
  · exact h

theorem kept_execSlip {q : List Instr} {rf : List RfSample} {s : State} (h : Kept q s) :
    KeptA q (execSlip rf s) := by
  unfold execSlip
  refine kept_next ?_
  refine kept_slipUnit ?_
  refine kept_channelRun ?_
  exact h

theorem kept_pinsGo {q : List Instr} {f : FoldId} {d : Desc} :
    ∀ {n : Nat} {i : Nat} {s : State}, Kept q s → Kept q (pinsGo f d n i s).1
  | 0, _, _, h => h
  | n + 1, i, s, h => by
    unfold pinsGo
    have ht := kept_memRun (l := blockReads s f d 2048 i) h
    generalize memRun s (blockReads s f d 2048 i) = p at ht ⊢
    obtain ⟨t, bad⟩ := p
    dsimp -failIfUnchanged only
    split
    · exact ht
    · exact kept_pinsGo (n := n) (i := i + 1) ht

theorem kept_pinsRead {q : List Instr} {s : State} {f : FoldId} {k : Nat} {d : Desc} (h : Kept q s) :
    Kept q (pinsRead s f k d) := by
  unfold pinsRead
  have ht := kept_pinsGo (f := f) (d := d) (n := d.fld.count) (i := 0) h
  generalize pinsGo f d d.fld.count 0 s = p at ht ⊢
  obtain ⟨t, l, e⟩ := p
  dsimp -failIfUnchanged only
  split
  · exact kept_finish (kept_deliver ht)
  · exact kept_finish (kept_modDesc (kept_deliver ht))

theorem kept_execRead {q : List Instr} {f : FoldId} {k : Nat} {s : State} (h : Kept q s) :
    KeptA q (execRead f k s) := by
  unfold execRead
  refine kept_next ?_
  split
  · refine kept_pinsRead ?_
    exact h
  · split
    · refine kept_judgeReading ?_
      refine kept_startReading ?_
      exact h
    · exact h

theorem kept_execReadRaw {q : List Instr} {f : FoldId} {k : Nat} {s : State} (h : Kept q s) :
    KeptA q (execReadRaw f k s) := by
  unfold execReadRaw
  refine kept_next ?_
  split
  · refine kept_judgeReading ?_
    refine kept_startReading ?_
    exact h
  · exact h

theorem kept_execVerify {q : List Instr} {f : FoldId} {k : Nat} {s : State} (h : Kept q s) :
    KeptA q (execVerify f k s) := by
  unfold execVerify
  refine kept_next ?_
  split
  · refine kept_judgeReading ?_
    refine kept_startReading ?_
    exact h
  · exact h

theorem kept_execScan {q : List Instr} {f : FoldId} {k : Nat} {s : State} (h : Kept q s) :
    KeptA q (execScan f k s) := by
  unfold execScan
  refine kept_next ?_
  split
  · refine kept_judgeReading ?_
    refine kept_startReading ?_
    exact h
  · exact h

theorem kept_sealedStop {q : List Instr} {s : State} {f : FoldId} {k : Nat} {st : Status} (h : Kept q s) :
    Kept q (sealedStop s f k st) := by
  unfold sealedStop
  refine kept_ite ?_ ?_
  · refine kept_endJob ?_
    exact h
  · refine kept_finish ?_
    exact h

theorem kept_sealedReadRun {q : List Instr} {f : FoldId} {k : Nat} {d : Desc} {aad : List Byte} {aux : List Byte} {s : State} (h : Kept q s) :
    Kept q (sealedReadRun f k d aad aux s) := by
  unfold sealedReadRun
  extract_lets +onlyGivenNames x5
  refine kept_ite ?_ ?_
  · refine kept_sealedStop ?_
    exact h
  · refine kept_ite ?_ ?_
    · refine kept_judgeReading ?_
      refine kept_startReading ?_
      refine kept_of ?_
      dsimp -failIfUnchanged only
      refine kept_fields ?_
      exact h
    · (dsimp only; split)
      · refine kept_openInto ?_
        refine kept_pinsGo ?_
        refine kept_of ?_
        dsimp -failIfUnchanged only
        refine kept_fields ?_
        exact h
      · refine kept_sealedStop ?_
        refine kept_modDesc ?_
        refine kept_pinsGo ?_
        refine kept_of ?_
        dsimp -failIfUnchanged only
        refine kept_fields ?_
        exact h

theorem kept_execSealedRead {q : List Instr} {f : FoldId} {k : Nat} {aad : List Byte} {aux : List Byte} {s : State}
    (h : Kept q s) :
    KeptA q (execSealedRead f k aad aux s) := by
  unfold execSealedRead
  refine kept_next ?_
  split
  · refine kept_ite ?_ ?_
    · refine kept_sealedStop ?_
      exact h
    · refine kept_withLock (fun s0 hs0 => ?_) ?_
      · refine kept_sealedReadRun ?_
        exact hs0
      · exact h
  · split
    · refine kept_ite ?_ ?_
      · refine kept_sealedStop ?_
        exact h
      · refine kept_withLock (fun s1 hs1 => ?_) ?_
        · refine kept_sealedReadRun ?_
          exact hs1
        · exact h
    · exact h

end Sys2Proof.Machine
end

