-- ==== Sys2Proof/Laws/KeptWriting.lean ====
section
/-! SUPPORT. Laws/KeptWriting.lean: every operation of Machine/Writing.lean keeps the queue, the reserved bits and the canonical lists. -/
namespace Sys2Proof.Machine

theorem kept_setOpc {q : List Instr} {s : State} {o : OpcRec} (h : Kept q s) :
    Kept q (setOpc s o) := by
  unfold setOpc
  refine kept_of ?_
  dsimp -failIfUnchanged only
  refine kept_fields ?_
  exact h

theorem kept_askLevels {q : List Instr} {s : State} {t : Strategy} {f : Int} (h : Kept q s) :
    Kept q (askLevels s t f) := by
  unfold askLevels
  refine kept_of ?_
  dsimp -failIfUnchanged only
  refine kept_fields ?_
  refine kept_modJob ?_
  exact h

theorem kept_lowerGate {q : List Instr} {s : State} (h : Kept q s) : Kept q (lowerGate s) := by
  unfold lowerGate
  exact kept_ite (kept_emit (kept_gateLow h)) h

theorem kept_settleGate {q : List Instr} {s : State} (h : Kept q s) : Kept q (settleGate s) := by
  unfold settleGate
  split
  · exact h
  · refine kept_ite ?_ (kept_lowerGate h)
    by_cases hc : (!s.servo.wgate && beamReady s) = true
    · rw [if_pos hc]
      simp only [beamReady, Bool.and_eq_true] at hc
      exact kept_emit (kept_of { kept_fields h with gate := fun _ => hc.2.1.1 })
    · rw [if_neg hc]
      exact h

theorem kept_startWriting {q : List Instr} {s : State} {di : DiscInfo} {d : Desc} {data : List Block} (h : Kept q s) :
    Kept q (startWriting s di d data) := by
  unfold startWriting
  dsimp -failIfUnchanged only
  split
  · refine kept_modJob ?_
    exact h
  · refine kept_ite ?_ ?_
    · refine kept_of ?_
      dsimp -failIfUnchanged only
      refine kept_fields ?_
      refine kept_modJob ?_
      exact h
    · refine kept_settleGate ?_
      refine kept_askLevels ?_
      refine kept_of ?_
      dsimp -failIfUnchanged only
      refine kept_fields ?_
      refine kept_modJob ?_
      exact h

theorem kept_execWrite {q : List Instr} {f : FoldId} {k : Nat} {s : State} (h : Kept q s) :
    KeptA q (execWrite f k s) := by
  unfold execWrite
  refine kept_next ?_
  split
  · refine kept_ite ?_ ?_
    · refine kept_startWriting ?_
      exact h
    · refine kept_endJob ?_
      exact h
  · exact h

theorem kept_sealedWriteLock {q : List Instr} {s : State} (h : Kept q s) :
    Kept q (sealedWriteLock s) := by
  unfold sealedWriteLock
  split
  · refine kept_ite ?_ ?_
    · refine kept_releaseLock ?_
      exact h
    · exact h
  · exact h

theorem kept_sealedWriteRun {q : List Instr} {f : FoldId} {k : Nat} {d : Desc} {di : DiscInfo} {aad : List Byte} {plain : List Byte} {s : State} (h : Kept q s) :
    Kept q (sealedWriteRun f k d di aad plain s) := by
  unfold sealedWriteRun
  extract_lets +onlyGivenNames x1
  extract_lets +onlyGivenNames t2
  have ht2 : Kept q t2 := by
    refine kept_markSpent ?_
    exact h
  clear_value t2
  (dsimp only; split)
  · refine kept_endJob ?_
    exact ht2
  · refine kept_waitReserve ?_
    exact ht2
  · refine kept_ite ?_ ?_
    · refine kept_releaseLock ?_
      refine kept_endJob ?_
      refine kept_memRun ?_
      refine kept_modDesc ?_
      refine kept_takeCounter ?_
      exact ht2
    · refine kept_sealedWriteLock ?_
      refine kept_startWriting ?_
      refine kept_memRun ?_
      refine kept_modDesc ?_
      refine kept_takeCounter ?_
      exact ht2

theorem kept_execSealedWrite {q : List Instr} {f : FoldId} {k : Nat} {aad : List Byte} {plain : List Byte} {s : State}
    (h : Kept q s) :
    KeptA q (execSealedWrite f k aad plain s) := by
  unfold execSealedWrite
  refine kept_next ?_
  split
  · refine kept_ite ?_ ?_
    · refine kept_endJob ?_
      exact h
    · refine kept_ite ?_ ?_
      · refine kept_endJob ?_
        exact h
      · refine kept_withLock (fun s0 hs0 => ?_) ?_
        · refine kept_sealedWriteRun ?_
          exact hs0
        · exact h
  · exact h

theorem kept_execHostDataRead {q : List Instr} {f : FoldId} {k : Nat} {r : ReadResult (List Byte)} {s : State} (h : Kept q s) :
    KeptA q (execHostDataRead f k r s) := by
  unfold execHostDataRead
  refine kept_next ?_
  split
  · exact h
  · refine kept_ite ?_ ?_
    · refine kept_vaultKeyRead ?_
      exact h
    · split
      · exact h
      · extract_lets +onlyGivenNames x3
        refine kept_ite ?_ ?_
        · exact h
        · (dsimp only; split)
          · refine kept_stopAtBoundary ?_
            refine kept_aerReport ?_
            refine kept_emits ?_
            exact h
          · refine kept_ite ?_ ?_
            · refine kept_stopAtBoundary ?_
              refine kept_memRun ?_
              refine kept_emits ?_
              exact h
            · refine kept_settleGate ?_
              refine kept_modJob ?_
              refine kept_memRun ?_
              refine kept_emits ?_
              exact h

theorem kept_execUnderrun {q : List Instr} {s : State} (h : Kept q s) :
    KeptA q (execUnderrun s) := by
  unfold execUnderrun
  refine kept_next ?_
  split
  · exact h
  · refine kept_ite ?_ ?_
    · refine kept_lowerGate ?_
      refine kept_modJob ?_
      exact h
    · exact h

theorem kept_recordOpc {q : List Instr} {s : State} {t : Strategy} {centre : Int} (h : Kept q s) :
    Kept q (recordOpc s t centre) := by
  unfold recordOpc
  extract_lets +onlyGivenNames x4
  extract_lets +onlyGivenNames t5
  have ht5 : Kept q t5 := by
    refine kept_emits ?_
    exact h
  clear_value t5
  refine kept_of ?_
  dsimp -failIfUnchanged only
  refine kept_fields ?_
  exact ht5

theorem kept_notePcaFull {q : List Instr} {s : State} {layer : Nat} {cls : Nat} (h : Kept q s) :
    Kept q (notePcaFull s layer cls) := by
  unfold notePcaFull
  refine kept_ite ?_ ?_
  · exact h
  · refine kept_postEvent ?_
    refine kept_of ?_
    dsimp -failIfUnchanged only
    refine kept_fields ?_
    exact h

theorem kept_opcEnds {q : List Instr} {s : State} {d : DiscInfo} {layer : Nat} {cls : Nat} {t : Strategy} {f : Int}
    (h : Kept q s) :
    Kept q (opcEnds s d layer cls t f) := by
  unfold opcEnds
  refine kept_settleGate ?_
  refine kept_askLevels ?_
  refine kept_setOpc ?_
  exact h

theorem kept_execOpc {q : List Instr} {first : List OpcStep} {again : List OpcStep} {s : State} (h : Kept q s) :
    KeptA q (execOpc first again s) := by
  unfold execOpc
  refine kept_next ?_
  split
  · refine kept_ite ?_ ?_
    · exact h
    · split
      extract_lets +onlyGivenNames t8
      have ht8 : Kept q t8 := by
        refine kept_lowerGate ?_
        refine kept_modJob ?_
        exact h
      clear_value t8
      extract_lets +onlyGivenNames x9
      extract_lets +onlyGivenNames x10
      split
      · refine kept_opcEnds ?_
        refine kept_notePcaFull ?_
        exact ht8
      · extract_lets +onlyGivenNames t11
        have ht11 : Kept q t11 := by
          refine kept_recordOpc ?_
          extract_lets +onlyGivenNames t12
          have ht12 : Kept q t12 := by
            refine kept_modJob ?_
            exact ht8
          clear_value t12
          refine kept_of ?_
          dsimp -failIfUnchanged only
          refine kept_fields ?_
          exact ht12
        clear_value t11
        split
        · refine kept_opcEnds ?_
          exact ht11
        · split
          · refine kept_opcEnds ?_
            refine kept_notePcaFull ?_
            exact ht11
          · extract_lets +onlyGivenNames x13
            extract_lets +onlyGivenNames t14
            have ht14 : Kept q t14 := by
              refine kept_recordOpc ?_
              extract_lets +onlyGivenNames t15
              have ht15 : Kept q t15 := by
                refine kept_modJob ?_
                exact ht11
              clear_value t15
              refine kept_of ?_
              dsimp -failIfUnchanged only
              refine kept_fields ?_
              exact ht15
            clear_value t14
            split
            · refine kept_opcEnds ?_
              exact ht14
            · refine kept_stopJob ?_
              exact ht14
  · exact h

theorem kept_execLdsTransaction {q : List Instr} {addr : BitVec 7} {value : Half} {back : Half} {s : State} (h : Kept q s) :
    KeptA q (execLdsTransaction addr value back s) := by
  unfold execLdsTransaction
  refine kept_next ?_
  split
  · exact h
  · split
    · exact h
    · refine kept_ite ?_ ?_
      · exact h
      · refine kept_ite ?_ ?_
        · refine kept_settleGate ?_
          refine kept_modJob ?_
          refine kept_emits ?_
          exact h
        · refine kept_ite ?_ ?_
          · refine kept_modJob ?_
            refine kept_emits ?_
            exact h
          · refine kept_stopJob ?_
            refine kept_postEvent ?_
            refine kept_emits ?_
            exact h

theorem kept_runningOpc {q : List Instr} {s : State} {rho : Int} (h : Kept q s) :
    Kept q (runningOpc s rho) := by
  unfold runningOpc
  split
  · dsimp -failIfUnchanged only
    split
    · exact h
    · refine kept_ite ?_ ?_
      · exact h
      · split
        · refine kept_setOpc ?_
          exact h
        · refine kept_ite ?_ ?_
          · refine kept_setOpc ?_
            exact h
          · refine kept_ite ?_ ?_
            · exact h
            · refine kept_askLevels ?_
              refine kept_setOpc ?_
              exact h
  · exact h

theorem kept_takePace {q : List Instr} {s : State} (h : Kept q s) :
    Kept q (takePace s) := by
  unfold takePace
  split
  · exact h
  · (dsimp only; split)
    · refine kept_broadcast ?_
      split
      · refine kept_ite ?_ ?_
        · refine kept_modJob ?_
          refine kept_of ?_
          dsimp -failIfUnchanged only
          refine kept_fields ?_
          exact h
        · refine kept_of ?_
          dsimp -failIfUnchanged only
          refine kept_fields ?_
          exact h
      · refine kept_of ?_
        dsimp -failIfUnchanged only
        refine kept_fields ?_
        exact h
    · split
      · refine kept_ite ?_ ?_
        · refine kept_modJob ?_
          refine kept_of ?_
          dsimp -failIfUnchanged only
          refine kept_fields ?_
          exact h
        · refine kept_of ?_
          dsimp -failIfUnchanged only
          refine kept_fields ?_
          exact h
      · refine kept_of ?_
        dsimp -failIfUnchanged only
        refine kept_fields ?_
        exact h

theorem kept_changeTable {q : List Instr} {s : State} {was : Nat × Nat} (h : Kept q s) :
    Kept q (changeTable s was) := by
  unfold changeTable
  split
  · refine kept_ite ?_ ?_
    · exact h
    · refine kept_askLevels ?_
      exact h
  · exact h

theorem kept_writeOn {q : List Instr} {s : State} (h : Kept q s) :
    Kept q (writeOn s) := by
  unfold writeOn
  split
  · exact h
  · split
    · refine kept_ite ?_ ?_
      · refine kept_stopJob ?_
        refine kept_lowerGate ?_
        exact h
      · refine kept_stopJob ?_
        refine kept_lowerGate ?_
        refine kept_modJob ?_
        exact h
    · refine kept_ite ?_ ?_
      · refine kept_stopJob ?_
        refine kept_lowerGate ?_
        exact h
      · refine kept_sealedWriteLock ?_
        refine kept_settleGate ?_
        exact h

theorem kept_execUnitRecorded {q : List Instr} {levels : List Int} {s : State} (h : Kept q s) :
    KeptA q (execUnitRecorded levels s) := by
  unfold execUnitRecorded
  refine kept_next ?_
  (dsimp only; split)
  · refine kept_ite ?_ ?_
    · exact h
    · refine kept_ite ?_ ?_
      · refine kept_stopJob ?_
        refine kept_memRun ?_
        exact h
      · refine kept_writeOn ?_
        refine kept_ite ?_ ?_
        · refine kept_changeTable ?_
          refine kept_takePace ?_
          refine kept_runningOpc ?_
          refine kept_modJob ?_
          refine kept_of ?_
          dsimp -failIfUnchanged only
          refine kept_fields ?_
          refine kept_emits ?_
          refine kept_memRun ?_
          exact h
        · refine kept_modJob ?_
          refine kept_changeTable ?_
          refine kept_takePace ?_
          refine kept_runningOpc ?_
          refine kept_modJob ?_
          refine kept_of ?_
          dsimp -failIfUnchanged only
          refine kept_fields ?_
          refine kept_emits ?_
          refine kept_memRun ?_
          exact h
  · exact h

theorem kept_execReadbackDone {q : List Instr} {r : List (List Readback)} {s : State} (h : Kept q s) :
    KeptA q (execReadbackDone r s) := by
  unfold execReadbackDone
  refine kept_next ?_
  split
  · refine kept_ite ?_ ?_
    · exact h
    · dsimp -failIfUnchanged only
      split
      · refine kept_writeOn ?_
        refine kept_modJob ?_
        refine kept_modJob ?_
        refine kept_of ?_
        dsimp -failIfUnchanged only
        refine kept_fields ?_
        exact h
      · refine kept_stopJob ?_
        refine kept_modJob ?_
        refine kept_modJob ?_
        refine kept_of ?_
        dsimp -failIfUnchanged only
        refine kept_fields ?_
        exact h
  · exact h

end Sys2Proof.Machine
end

