-- ==== Sys2Proof/Laws/KeptMotion.lean ====
section
/-! SUPPORT. Laws/KeptMotion.lean: every operation of Machine/Motion.lean keeps the queue, the reserved bits and the canonical lists. -/
namespace Sys2Proof.Machine

theorem kept_execTbLock {q : List Instr} {s : State} (h : Kept q s) :
    KeptA q (execTbLock s) := by
  unfold execTbLock
  refine kept_next ?_
  refine kept_ite ?_ ?_
  · refine kept_of ?_
    dsimp -failIfUnchanged only
    refine kept_fields ?_
    exact h
  · exact h

theorem kept_driveStep {q : List Instr} {s : State} {n : Nat} (h : Kept q s) :
    Kept q (driveStep s n) := by
  unfold driveStep
  refine kept_emit ?_
  refine kept_of ?_
  dsimp -failIfUnchanged only
  refine kept_fields ?_
  exact h

theorem kept_execYelxoBCommandFrame {q : List Instr} {good : Bool} {s : State} (h : Kept q s) :
    KeptA q (execYelxoBCommandFrame good s) := by
  unfold execYelxoBCommandFrame
  refine kept_next ?_
  refine kept_ite ?_ ?_
  · exact h
  · refine kept_ite ?_ ?_
    · refine kept_ite ?_ ?_
      · refine kept_driveStep ?_
        refine kept_of ?_
        dsimp -failIfUnchanged only
        refine kept_fields ?_
        exact h
      · refine kept_of ?_
        dsimp -failIfUnchanged only
        refine kept_fields ?_
        exact h
    · refine kept_ite ?_ ?_
      · refine kept_linkFault ?_
        refine kept_of ?_
        dsimp -failIfUnchanged only
        refine kept_fields ?_
        refine kept_countBadPacket ?_
        exact h
      · refine kept_of ?_
        dsimp -failIfUnchanged only
        refine kept_fields ?_
        refine kept_countBadPacket ?_
        exact h

theorem kept_noteInterval {q : List Instr} {s : State} {t60 : Nat} (h : Kept q s) :
    Kept q (noteInterval s t60) := by
  unfold noteInterval
  refine kept_of ?_
  dsimp -failIfUnchanged only
  refine kept_fields ?_
  exact h

theorem kept_brakeOn {q : List Instr} {s : State} (h : Kept q s) :
    Kept q (brakeOn s) := by
  unfold brakeOn
  refine kept_ite ?_ ?_
  · refine kept_emit ?_
    refine kept_of ?_
    dsimp -failIfUnchanged only
    refine kept_fields ?_
    exact h
  · exact h

theorem kept_execZeroCrossing {q : List Instr} {rising : Bool} {t60 : Nat} {s : State} (h : Kept q s) :
    KeptA q (execZeroCrossing rising t60 s) := by
  unfold execZeroCrossing
  refine kept_next ?_
  refine kept_ite ?_ ?_
  · exact h
  · refine kept_ite ?_ ?_
    · refine kept_ite ?_ ?_
      · exact h
      · refine kept_brakeOn ?_
        refine kept_of ?_
        dsimp -failIfUnchanged only
        refine kept_fields ?_
        refine kept_noteInterval ?_
        exact h
    · refine kept_ite ?_ ?_
      · refine kept_of ?_
        dsimp -failIfUnchanged only
        refine kept_fields ?_
        refine kept_noteInterval ?_
        exact h
      · exact h

theorem kept_execCommutate {q : List Instr} {s : State} (h : Kept q s) :
    KeptA q (execCommutate s) := by
  unfold execCommutate
  refine kept_next ?_
  split
  · exact h
  · refine kept_ite ?_ ?_
    · exact h
    · refine kept_driveStep ?_
      refine kept_of ?_
      dsimp -failIfUnchanged only
      refine kept_fields ?_
      exact h

theorem kept_execHallEdge {q : List Instr} {code : BitVec 3} {t60 : Nat} {s : State} (h : Kept q s) :
    KeptA q (execHallEdge code t60 s) := by
  unfold execHallEdge
  refine kept_next ?_
  refine kept_ite ?_ ?_
  · refine kept_of ?_
    dsimp -failIfUnchanged only
    refine kept_fields ?_
    exact h
  · dsimp -failIfUnchanged only
    split
    · refine kept_of ?_
      dsimp -failIfUnchanged only
      refine kept_fields ?_
      exact h
    · refine kept_ite ?_ ?_
      · refine kept_brakeOn ?_
        refine kept_driveStep ?_
        refine kept_noteInterval ?_
        refine kept_of ?_
        dsimp -failIfUnchanged only
        refine kept_fields ?_
        exact h
      · refine kept_ite ?_ ?_
        · refine kept_of ?_
          dsimp -failIfUnchanged only
          refine kept_fields ?_
          refine kept_noteInterval ?_
          refine kept_of ?_
          dsimp -failIfUnchanged only
          refine kept_fields ?_
          exact h
        · refine kept_of ?_
          dsimp -failIfUnchanged only
          refine kept_fields ?_
          exact h

theorem kept_execHallInvalid {q : List Instr} {code : BitVec 3} {s : State} (h : Kept q s) :
    KeptA q (execHallInvalid code s) := by
  unfold execHallInvalid
  refine kept_next ?_
  refine kept_ite ?_ ?_
  · refine kept_motionFault ?_
    refine kept_of ?_
    dsimp -failIfUnchanged only
    refine kept_fields ?_
    exact h
  · refine kept_of ?_
    dsimp -failIfUnchanged only
    refine kept_fields ?_
    exact h

theorem kept_execSpinStall {q : List Instr} {s : State} (h : Kept q s) :
    KeptA q (execSpinStall s) := by
  unfold execSpinStall
  refine kept_next ?_
  split
  · refine kept_ite ?_ ?_
    · refine kept_motionFault ?_
      exact h
    · exact h
  · exact h

theorem kept_bridgeOff {q : List Instr} {s : State} {a : Bridge} (h : Kept q s) :
    Kept q (bridgeOff s a) := by
  unfold bridgeOff
  split
  · refine kept_coastSpindle ?_
    exact h
  · refine kept_emit ?_
    refine kept_of ?_
    dsimp -failIfUnchanged only
    refine kept_fields ?_
    exact h
  · refine kept_emit ?_
    refine kept_of ?_
    dsimp -failIfUnchanged only
    refine kept_fields ?_
    exact h
  · refine kept_stopLoader ?_
    exact h
  · refine kept_emit ?_
    refine kept_setOut ?_
    refine kept_setLoop ?_
    exact h
  · refine kept_emit ?_
    refine kept_setOut ?_
    refine kept_setLoop ?_
    exact h
  · refine kept_emit ?_
    refine kept_setOut ?_
    refine kept_setLoop ?_
    exact h

theorem kept_execBridgeOc {q : List Instr} {b : Bridge} {s : State} (h : Kept q s) :
    KeptA q (execBridgeOc b s) := by
  unfold execBridgeOc
  refine kept_next ?_
  refine kept_ite ?_ ?_
  · refine kept_motionFault ?_
    refine kept_bridgeOff ?_
    exact h
  · exact h

theorem kept_beginAlign {q : List Instr} {s : State} (h : Kept q s) :
    Kept q (beginAlign s) := by
  unfold beginAlign
  refine kept_emit ?_
  refine kept_of ?_
  dsimp -failIfUnchanged only
  refine kept_fields ?_
  exact h

theorem kept_closeCommutation {q : List Instr} {s : State} {step : Nat} (h : Kept q s) :
    Kept q (closeCommutation s step) := by
  unfold closeCommutation
  extract_lets +onlyGivenNames t1
  have ht1 : Kept q t1 := by
    refine kept_setLoop ?_
    exact h
  clear_value t1
  refine kept_driveStep ?_
  refine kept_of ?_
  dsimp -failIfUnchanged only
  refine kept_fields ?_
  exact ht1

theorem kept_catchRotor {q : List Instr} {s : State} {rpm : Nat} {step : Nat} (h : Kept q s) :
    Kept q (catchRotor s rpm step) := by
  unfold catchRotor
  extract_lets +onlyGivenNames x2
  refine kept_closeCommutation ?_
  refine kept_of ?_
  dsimp -failIfUnchanged only
  refine kept_fields ?_
  exact h

theorem kept_startStopped {q : List Instr} {s : State} (h : Kept q s) :
    Kept q (startStopped s) := by
  unfold startStopped
  refine kept_ite ?_ ?_
  · refine kept_driveStep ?_
    refine kept_of ?_
    dsimp -failIfUnchanged only
    refine kept_fields ?_
    refine kept_setLoop ?_
    refine kept_of ?_
    dsimp -failIfUnchanged only
    refine kept_fields ?_
    exact h
  · refine kept_beginAlign ?_
    refine kept_of ?_
    dsimp -failIfUnchanged only
    refine kept_fields ?_
    exact h

theorem kept_brakeSpindle {q : List Instr} {s : State} (h : Kept q s) :
    Kept q (brakeSpindle s) := by
  unfold brakeSpindle
  split
  · exact h
  · exact h
  · exact h
  · extract_lets +onlyGivenNames t5
    have ht5 : Kept q t5 := by
      refine kept_setOut ?_
      refine kept_setLoop ?_
      exact h
    clear_value t5
    refine kept_brakeOn ?_
    refine kept_driveStep ?_
    refine kept_of ?_
    dsimp -failIfUnchanged only
    refine kept_fields ?_
    exact ht5

theorem kept_execSpindleStart {q : List Instr} {r : Rotor} {s : State} (h : Kept q s) :
    KeptA q (execSpindleStart r s) := by
  unfold execSpindleStart
  extract_lets +onlyGivenNames x3
  refine kept_next ?_
  refine kept_ite ?_ ?_
  · exact h
  · split
    · refine kept_ite ?_ ?_
      · refine kept_of ?_
        dsimp -failIfUnchanged only
        refine kept_fields ?_
        refine kept_ite ?_ ?_
        · exact h
        · refine kept_brakeSpindle ?_
          refine kept_of ?_
          dsimp -failIfUnchanged only
          refine kept_fields ?_
          exact h
      · refine kept_startStopped ?_
        exact h
    · refine kept_ite ?_ ?_
      · refine kept_catchRotor ?_
        exact h
      · refine kept_of ?_
        dsimp -failIfUnchanged only
        refine kept_fields ?_
        refine kept_ite ?_ ?_
        · exact h
        · refine kept_brakeSpindle ?_
          refine kept_of ?_
          dsimp -failIfUnchanged only
          refine kept_fields ?_
          exact h
    · refine kept_of ?_
      dsimp -failIfUnchanged only
      refine kept_fields ?_
      refine kept_ite ?_ ?_
      · exact h
      · refine kept_brakeSpindle ?_
        refine kept_of ?_
        dsimp -failIfUnchanged only
        refine kept_fields ?_
        exact h

theorem kept_attemptFails {q : List Instr} {s : State} (h : Kept q s) :
    Kept q (attemptFails s) := by
  unfold attemptFails
  refine kept_ite ?_ ?_
  · refine kept_motionFault ?_
    refine kept_of ?_
    dsimp -failIfUnchanged only
    refine kept_fields ?_
    exact h
  · refine kept_emit ?_
    refine kept_of ?_
    dsimp -failIfUnchanged only
    refine kept_fields ?_
    exact h

theorem kept_noteForced {q : List Instr} {s : State} {crossing : Option Nat} (h : Kept q s) :
    Kept q (noteForced s crossing) := by
  unfold noteForced
  split
  · refine kept_ite ?_ ?_
    · refine kept_of ?_
      dsimp -failIfUnchanged only
      refine kept_fields ?_
      exact h
    · refine kept_noteInterval ?_
      exact h
  · exact h

theorem kept_execForcedStep {q : List Instr} {crossing : Option Nat} {s : State} (h : Kept q s) :
    KeptA q (execForcedStep crossing s) := by
  unfold execForcedStep
  extract_lets +onlyGivenNames x7
  extract_lets +onlyGivenNames x8
  refine kept_next ?_
  split
  · refine kept_ite ?_ ?_
    · refine kept_driveStep ?_
      refine kept_of ?_
      dsimp -failIfUnchanged only
      refine kept_fields ?_
      exact h
    · exact h
  · refine kept_ite ?_ ?_
    · exact h
    · extract_lets +onlyGivenNames x9
      extract_lets +onlyGivenNames x10
      extract_lets +onlyGivenNames t11
      have ht11 : Kept q t11 := by
        refine kept_noteForced ?_
        exact h
      clear_value t11
      refine kept_ite ?_ ?_
      · refine kept_driveStep ?_
        refine kept_of ?_
        dsimp -failIfUnchanged only
        refine kept_fields ?_
        exact ht11
      · refine kept_ite ?_ ?_
        · refine kept_closeCommutation ?_
          refine kept_of ?_
          dsimp -failIfUnchanged only
          refine kept_fields ?_
          exact ht11
        · refine kept_ite ?_ ?_
          · refine kept_attemptFails ?_
            refine kept_of ?_
            dsimp -failIfUnchanged only
            refine kept_fields ?_
            exact ht11
          · refine kept_driveStep ?_
            refine kept_of ?_
            dsimp -failIfUnchanged only
            refine kept_fields ?_
            exact ht11
  · exact h

theorem kept_execStartCoastEnd {q : List Instr} {s : State} (h : Kept q s) :
    KeptA q (execStartCoastEnd s) := by
  unfold execStartCoastEnd
  refine kept_next ?_
  refine kept_ite ?_ ?_
  · refine kept_beginAlign ?_
    exact h
  · exact h

theorem kept_ceilingEvent {q : List Instr} {s : State} {on : Bool} (h : Kept q s) :
    Kept q (ceilingEvent s on) := by
  unfold ceilingEvent
  refine kept_postEvent ?_
  refine kept_of ?_
  dsimp -failIfUnchanged only
  refine kept_fields ?_
  exact h

theorem kept_execSpinCeilingSet {q : List Instr} {s : State} (h : Kept q s) :
    KeptA q (execSpinCeilingSet s) := by
  unfold execSpinCeilingSet
  refine kept_next ?_
  refine kept_ite ?_ ?_
  · refine kept_ceilingEvent ?_
    exact h
  · exact h

theorem kept_execSpinCeilingClear {q : List Instr} {s : State} (h : Kept q s) :
    KeptA q (execSpinCeilingClear s) := by
  unfold execSpinCeilingClear
  refine kept_next ?_
  refine kept_ite ?_ ?_
  · refine kept_ceilingEvent ?_
    exact h
  · exact h

theorem kept_openTray {q : List Instr} {s : State} (h : Kept q s) :
    Kept q (openTray s) := by
  unfold openTray
  refine kept_ite ?_ ?_
  · refine kept_emit ?_
    refine kept_of ?_
    dsimp -failIfUnchanged only
    refine kept_fields ?_
    exact h
  · refine kept_emit ?_
    refine kept_of ?_
    dsimp -failIfUnchanged only
    refine kept_fields ?_
    exact h

theorem kept_execSpindleStopped {q : List Instr} {s : State} (h : Kept q s) :
    KeptA q (execSpindleStopped s) := by
  unfold execSpindleStopped
  refine kept_next ?_
  split
  · refine kept_ite ?_ ?_
    · exact h
    · refine kept_ite ?_ ?_
      · refine kept_openTray ?_
        refine kept_of ?_
        dsimp -failIfUnchanged only
        refine kept_fields ?_
        refine kept_of ?_
        dsimp -failIfUnchanged only
        refine kept_fields ?_
        refine kept_ite ?_ ?_
        · refine kept_emit ?_
          exact h
        · exact h
      · refine kept_ite ?_ ?_
        · refine kept_startStopped ?_
          refine kept_of ?_
          dsimp -failIfUnchanged only
          refine kept_fields ?_
          refine kept_ite ?_ ?_
          · refine kept_emit ?_
            exact h
          · exact h
        · refine kept_of ?_
          dsimp -failIfUnchanged only
          refine kept_fields ?_
          refine kept_of ?_
          dsimp -failIfUnchanged only
          refine kept_fields ?_
          refine kept_ite ?_ ?_
          · refine kept_emit ?_
            exact h
          · exact h
  · refine kept_ite ?_ ?_
    · exact h
    · refine kept_ite ?_ ?_
      · refine kept_openTray ?_
        refine kept_of ?_
        dsimp -failIfUnchanged only
        refine kept_fields ?_
        refine kept_of ?_
        dsimp -failIfUnchanged only
        refine kept_fields ?_
        refine kept_ite ?_ ?_
        · refine kept_emit ?_
          exact h
        · exact h
      · refine kept_ite ?_ ?_
        · refine kept_startStopped ?_
          refine kept_of ?_
          dsimp -failIfUnchanged only
          refine kept_fields ?_
          refine kept_ite ?_ ?_
          · refine kept_emit ?_
            exact h
          · exact h
        · refine kept_of ?_
          dsimp -failIfUnchanged only
          refine kept_fields ?_
          refine kept_of ?_
          dsimp -failIfUnchanged only
          refine kept_fields ?_
          refine kept_ite ?_ ?_
          · refine kept_emit ?_
            exact h
          · exact h
  · exact h

theorem kept_takeTable {q : List Instr} {s : State} (h : Kept q s) :
    Kept q (takeTable s) := by
  unfold takeTable
  split
  · exact h
  · dsimp -failIfUnchanged only
    split
    · refine kept_finish ?_
      refine kept_of ?_
      dsimp -failIfUnchanged only
      refine kept_fields ?_
      exact h
    · refine kept_of ?_
      dsimp -failIfUnchanged only
      refine kept_fields ?_
      exact h

theorem kept_drivePhases {q : List Instr} {s : State} {mA : Nat} (h : Kept q s) :
    Kept q (drivePhases s mA) := by
  unfold drivePhases
  refine kept_emit ?_
  refine kept_of ?_
  dsimp -failIfUnchanged only
  refine kept_fields ?_
  exact h

theorem kept_moveTo {q : List Instr} {s : State} {pos : Int} (h : Kept q s) :
    Kept q (moveTo s pos) := by
  unfold moveTo
  refine kept_drivePhases ?_
  refine kept_of ?_
  dsimp -failIfUnchanged only
  refine kept_fields ?_
  refine kept_ite ?_ ?_
  · refine kept_takeTable ?_
    exact h
  · exact h

theorem kept_sledRests {q : List Instr} {s : State} {steps : Int} (h : Kept q s) :
    Kept q (sledRests s steps) := by
  unfold sledRests
  refine kept_of ?_
  dsimp -failIfUnchanged only
  refine kept_fields ?_
  exact h

theorem kept_sledFound {q : List Instr} {s : State} {radius : Nat} {how : Nat} (h : Kept q s) :
    Kept q (sledFound s radius how) := by
  unfold sledFound
  refine kept_ite ?_ ?_
  · refine kept_postEvent ?_
    refine kept_of ?_
    dsimp -failIfUnchanged only
    refine kept_fields ?_
    exact h
  · refine kept_of ?_
    dsimp -failIfUnchanged only
    refine kept_fields ?_
    exact h

theorem kept_sledHomed {q : List Instr} {s : State} (h : Kept q s) :
    Kept q (sledHomed s) := by
  unfold sledHomed
  refine kept_drivePhases ?_
  refine kept_sledFound ?_
  refine kept_of ?_
  dsimp -failIfUnchanged only
  refine kept_fields ?_
  exact h

theorem kept_execSledUpdate {q : List Instr} {s : State} (h : Kept q s) :
    KeptA q (execSledUpdate s) := by
  unfold execSledUpdate
  refine kept_next ?_
  refine kept_ite ?_ ?_
  · exact h
  · split
    · extract_lets +onlyGivenNames t15
      have ht15 : Kept q t15 := by
        refine kept_takeTable ?_
        exact h
      clear_value t15
      refine kept_ite ?_ ?_
      · exact ht15
      · refine kept_drivePhases ?_
        exact ht15
    · extract_lets +onlyGivenNames x16
      extract_lets +onlyGivenNames x17
      refine kept_ite ?_ ?_
      · refine kept_sledRests ?_
        refine kept_moveTo ?_
        refine kept_of ?_
        dsimp -failIfUnchanged only
        refine kept_fields ?_
        exact h
      · refine kept_moveTo ?_
        refine kept_of ?_
        dsimp -failIfUnchanged only
        refine kept_fields ?_
        exact h
    · extract_lets +onlyGivenNames x19
      refine kept_ite ?_ ?_
      · refine kept_of ?_
        dsimp -failIfUnchanged only
        refine kept_fields ?_
        refine kept_moveTo ?_
        refine kept_of ?_
        dsimp -failIfUnchanged only
        refine kept_fields ?_
        exact h
      · refine kept_moveTo ?_
        refine kept_of ?_
        dsimp -failIfUnchanged only
        refine kept_fields ?_
        exact h
    · extract_lets +onlyGivenNames x21
      refine kept_ite ?_ ?_
      · refine kept_sledHomed ?_
        exact h
      · refine kept_ite ?_ ?_
        · refine kept_motionFault ?_
          exact h
        · refine kept_moveTo ?_
          refine kept_of ?_
          dsimp -failIfUnchanged only
          refine kept_fields ?_
          exact h
    · extract_lets +onlyGivenNames x22
      refine kept_moveTo ?_
      exact h

theorem kept_beginHoming {q : List Instr} {s : State} (h : Kept q s) :
    Kept q (beginHoming s) := by
  unfold beginHoming
  refine kept_of ?_
  dsimp -failIfUnchanged only
  refine kept_fields ?_
  exact h

theorem kept_execSledHome {q : List Instr} {s : State} (h : Kept q s) :
    KeptA q (execSledHome s) := by
  unfold execSledHome
  refine kept_next ?_
  refine kept_ite ?_ ?_
  · refine kept_beginHoming ?_
    exact h
  · exact h

theorem kept_execHomeNChange {q : List Instr} {asserted : Bool} {s : State} (h : Kept q s) :
    KeptA q (execHomeNChange asserted s) := by
  have h1 : Kept q { s with sled := { s.sled with home := asserted } } := by
    refine kept_of ?_
    dsimp -failIfUnchanged only
    refine kept_fields ?_
    exact h
  have h2 : ∀ x : Sled, Kept q { s with sled := x } := by
    intro x
    refine kept_of ?_
    dsimp -failIfUnchanged only
    refine kept_fields ?_
    exact h
  unfold execHomeNChange
  refine kept_next ?_
  dsimp -failIfUnchanged only
  split
  · exact kept_ite h1 (h2 _)
  · exact kept_ite (kept_drivePhases (kept_sledFound (h2 _))) h1
  · exact h1

theorem kept_execSledRecover {q : List Instr} {addr : Option Nat} {s : State} (h : Kept q s) :
    KeptA q (execSledRecover addr s) := by
  unfold execSledRecover
  refine kept_next ?_
  refine kept_ite ?_ ?_
  · exact h
  · split
    · refine kept_sledFound ?_
      exact h
    · refine kept_ite ?_ ?_
      · refine kept_beginHoming ?_
        exact h
      · exact h

theorem kept_seekMove {q : List Instr} {s : State} {lba : Nat} {moves : Nat} (h : Kept q s) :
    Kept q (seekMove s lba moves) := by
  unfold seekMove
  split
  · refine kept_ite ?_ ?_
    · refine kept_sledRests ?_
      refine kept_of ?_
      dsimp -failIfUnchanged only
      refine kept_fields ?_
      refine kept_setLoop ?_
      refine kept_setLoop ?_
      exact h
    · refine kept_of ?_
      dsimp -failIfUnchanged only
      refine kept_fields ?_
      refine kept_setLoop ?_
      refine kept_setLoop ?_
      exact h
  · exact h

theorem kept_execSledSeek {q : List Instr} {lba : Nat} {s : State} (h : Kept q s) :
    KeptA q (execSledSeek lba s) := by
  unfold execSledSeek
  refine kept_next ?_
  refine kept_ite ?_ ?_
  · refine kept_seekMove ?_
    exact h
  · exact h

theorem kept_execSeekSettleEnd {q : List Instr} {s : State} (h : Kept q s) :
    KeptA q (execSeekSettleEnd s) := by
  unfold execSeekSettleEnd
  refine kept_next ?_
  refine kept_ite ?_ ?_
  · refine kept_of ?_
    dsimp -failIfUnchanged only
    refine kept_fields ?_
    exact h
  · exact h

end Sys2Proof.Machine
end

