-- ==== Sys2Proof/Laws/KeptTime.lean ====
section
/-! SUPPORT. Laws/KeptTime.lean: every operation of Machine/Time.lean keeps the queue, the reserved bits and the canonical lists. -/
namespace Sys2Proof.Machine

theorem kept_latchTime {q : List Instr} {s : State} (h : Kept q s) :
    Kept q (latchTime s) := by
  unfold latchTime
  refine kept_of ?_
  dsimp -failIfUnchanged only
  refine kept_fields ?_
  exact h

theorem kept_execKprTickLoRead {q : List Instr} {s : State} (h : Kept q s) :
    KeptA q (execKprTickLoRead s) := by
  unfold execKprTickLoRead
  refine kept_next ?_
  refine kept_onBar (fun s0 hs0 => ?_) ?_
  · refine kept_emit ?_
    refine kept_latchTime ?_
    exact hs0
  · exact h

theorem kept_execTimeRead {q : List Instr} {f : FoldId} {k : Nat} {s : State} (h : Kept q s) :
    KeptA q (execTimeRead f k s) := by
  unfold execTimeRead
  refine kept_next ?_
  split
  · refine kept_finish ?_
    refine kept_deliver ?_
    exact h
  · exact h

theorem kept_keeperTick {q : List Instr} {s : State} (h : Kept q s) : Kept q (keeperTick s) := by
  unfold keeperTick
  refine kept_of { kept_fields h with dogs := ?_ }
  dsimp only
  rw [apply_ite Keeper.wdgCtl, ite_self, wdgCtl_calAdvance]
  show (slewTick s.kpr).2.wdgCtl &&& _ = 0
  rw [wdgCtl_slewTick]
  exact h.dogs

theorem kept_passTime {q : List Instr} {s : State} (h : Kept q s) :
    Kept q (passTime s) := by
  unfold passTime
  refine kept_ite ?_ ?_
  · refine kept_of ?_
    dsimp -failIfUnchanged only
    refine kept_fields ?_
    exact h
  · refine kept_ite ?_ ?_
    · refine kept_keeperTick ?_
      refine kept_of ?_
      dsimp -failIfUnchanged only
      refine kept_fields ?_
      refine kept_of ?_
      dsimp -failIfUnchanged only
      refine kept_fields ?_
      exact h
    · refine kept_of ?_
      dsimp -failIfUnchanged only
      refine kept_fields ?_
      refine kept_of ?_
      dsimp -failIfUnchanged only
      refine kept_fields ?_
      exact h

theorem kept_endSlew {q : List Instr} {s : State} (h : Kept q s) :
    Kept q (endSlew s) := by
  unfold endSlew
  refine kept_ite ?_ ?_
  · refine kept_ite ?_ ?_
    · refine kept_postEvent ?_
      refine kept_of ?_
      dsimp -failIfUnchanged only
      refine kept_fields ?_
      exact h
    · exact h
  · refine kept_postEvent ?_
    refine kept_of ?_
    dsimp -failIfUnchanged only
    refine kept_fields ?_
    exact h

theorem kept_execSlewEnd {q : List Instr} {s : State} (h : Kept q s) :
    KeptA q (execSlewEnd s) := by
  unfold execSlewEnd
  refine kept_next ?_
  refine kept_ite ?_ ?_
  · refine kept_postEvent ?_
    refine kept_of ?_
    dsimp -failIfUnchanged only
    refine kept_fields ?_
    exact h
  · exact h

theorem kept_execCalendarEnd {q : List Instr} {s : State} (h : Kept q s) :
    KeptA q (execCalendarEnd s) := by
  unfold execCalendarEnd
  refine kept_next ?_
  refine kept_ite ?_ ?_
  · refine kept_postEvent ?_
    refine kept_of ?_
    dsimp -failIfUnchanged only
    refine kept_fields ?_
    exact h
  · exact h

theorem kept_modLedger {q : List Instr} {s : State} {g : Ledger → Ledger} (h : Kept q s) :
    Kept q (State.modLedger s g) := by
  unfold State.modLedger
  refine kept_of ?_
  dsimp -failIfUnchanged only
  refine kept_fields ?_
  exact h

theorem kept_closeInterval {q : List Instr} {s : State} {finish : Nat} {g : Interval → Interval} (h : Kept q s) :
    Kept q (closeInterval s finish g) := by
  unfold closeInterval
  refine kept_ite ?_ ?_
  · exact h
  · refine kept_modLedger ?_
    exact h

theorem kept_openInterval {q : List Instr} {s : State} {start : Nat} {g : Interval → Interval} (h : Kept q s) :
    Kept q (openInterval s start g) := by
  unfold openInterval
  refine kept_modLedger ?_
  exact h

theorem kept_requestLedger {q : List Instr} {s : State} {prio : Prio} (h : Kept q s) :
    Kept q (requestLedger s prio) := by
  unfold requestLedger
  refine kept_ite ?_ ?_
  · refine kept_of ?_
    dsimp -failIfUnchanged only
    refine kept_fields ?_
    exact h
  · refine kept_requestRecord ?_
    exact h

theorem kept_billingClose {q : List Instr} {s : State} {boundary : Nat} (h : Kept q s) :
    Kept q (billingClose s boundary) := by
  unfold billingClose
  split
  · exact h
  · refine kept_finish ?_
    refine kept_deliver ?_
    refine kept_modLedger ?_
    refine kept_of ?_
    dsimp -failIfUnchanged only
    refine kept_fields ?_
    exact h

theorem kept_scheduleActive {q : List Instr} {s : State} {boundary : Nat} (h : Kept q s) :
    Kept q (scheduleActive s boundary) := by
  unfold scheduleActive
  split
  · exact h
  · refine kept_ite ?_ ?_
    · refine kept_postEvent ?_
      refine kept_of ?_
      dsimp -failIfUnchanged only
      refine kept_fields ?_
      exact h
    · exact h

theorem kept_boundaryAt {q : List Instr} {s : State} {boundary : Nat} {close : Interval → Interval}
    {next : Interval → Interval} {billing : Bool} (h : Kept q s) :
    Kept q (boundaryAt s boundary close next billing) := by
  unfold boundaryAt
  refine kept_openInterval ?_
  refine kept_scheduleActive ?_
  refine kept_ite ?_ ?_
  · refine kept_billingClose ?_
    refine kept_closeInterval ?_
    exact h
  · refine kept_closeInterval ?_
    exact h

theorem kept_intervalBoundary {q : List Instr} {s : State} (h : Kept q s) :
    Kept q (intervalBoundary s) := by
  unfold intervalBoundary
  refine kept_ite ?_ ?_
  · refine kept_ite ?_ ?_
    · refine kept_requestLedger ?_
      refine kept_boundaryAt ?_
      exact h
    · refine kept_boundaryAt ?_
      exact h
  · exact h

theorem kept_execIntervalBoundary {q : List Instr} {s : State} (h : Kept q s) :
    KeptA q (execIntervalBoundary s) := by
  unfold execIntervalBoundary
  refine kept_next ?_
  refine kept_intervalBoundary ?_
  exact h

theorem kept_execMeterUpdate {q : List Instr} {nWh : Nat} {milliwatts : Nat} {milliHz : Nat} {s : State} (h : Kept q s) :
    KeptA q (execMeterUpdate nWh milliwatts milliHz s) := by
  unfold execMeterUpdate
  refine kept_next ?_
  refine kept_ite ?_ ?_
  · exact h
  · refine kept_of ?_
    dsimp -failIfUnchanged only
    refine kept_fields ?_
    refine kept_modLedger ?_
    exact h

theorem kept_execEnergyReadSnapshot {q : List Instr} {f : FoldId} {k : Nat} {s : State} (h : Kept q s) :
    KeptA q (execEnergyReadSnapshot f k s) := by
  unfold execEnergyReadSnapshot
  refine kept_next ?_
  split
  · refine kept_ite ?_ ?_
    · exact h
    · refine kept_finish ?_
      refine kept_deliver ?_
      exact h
  · exact h

theorem kept_execEnergyReadRing {q : List Instr} {f : FoldId} {k : Nat} {s : State} (h : Kept q s) :
    KeptA q (execEnergyReadRing f k s) := by
  unfold execEnergyReadRing
  refine kept_next ?_
  split
  · refine kept_ite ?_ ?_
    · refine kept_finish ?_
      refine kept_deliver ?_
      exact h
    · exact h
  · exact h

theorem kept_execEnergyClose {q : List Instr} {k : Nat} {s : State} (h : Kept q s) :
    KeptA q (execEnergyClose k s) := by
  unfold execEnergyClose
  refine kept_next ?_
  split
  · refine kept_of ?_
    dsimp -failIfUnchanged only
    refine kept_fields ?_
    refine kept_modDesc ?_
    exact h
  · exact h

theorem kept_execTariffSet {q : List Instr} {k : Nat} {rec : List Byte} {s : State} (h : Kept q s) :
    KeptA q (execTariffSet k rec s) := by
  unfold execTariffSet
  refine kept_next ?_
  split
  · exact h
  · split
    · refine kept_finish ?_
      exact h
    · refine kept_requestRecord ?_
      refine kept_modDesc ?_
      exact h

theorem kept_execTimeSetStep {q : List Instr} {k : Nat} {rec : List Byte} {s : State} (h : Kept q s) :
    KeptA q (execTimeSetStep k rec s) := by
  unfold execTimeSetStep
  refine kept_next ?_
  split
  · exact h
  · refine kept_ite ?_ ?_
    · exact h
    · refine kept_ite ?_ ?_
      · refine kept_finish ?_
        exact h
      · refine kept_ite ?_ ?_
        · refine kept_finish ?_
          exact h
        · refine kept_ite ?_ ?_
          · refine kept_finish ?_
            exact h
          · refine kept_of ?_
            dsimp -failIfUnchanged only
            refine kept_fields ?_
            refine kept_modDesc ?_
            exact h

theorem kept_execTimeSetSlew {q : List Instr} {k : Nat} {rec : List Byte} {s : State} (h : Kept q s) :
    KeptA q (execTimeSetSlew k rec s) := by
  unfold execTimeSetSlew
  refine kept_next ?_
  split
  · exact h
  · refine kept_ite ?_ ?_
    · exact h
    · refine kept_ite ?_ ?_
      · refine kept_finish ?_
        exact h
      · refine kept_finish ?_
        refine kept_ite ?_ ?_
        · refine kept_of ?_
          dsimp -failIfUnchanged only
          refine kept_fields ?_
          refine kept_endSlew ?_
          exact h
        · refine kept_modLedger ?_
          refine kept_of ?_
          dsimp -failIfUnchanged only
          refine kept_fields ?_
          refine kept_endSlew ?_
          exact h

theorem kept_execTimeStep {q : List Instr} {s : State} (h : Kept q s) :
    KeptA q (execTimeStep s) := by
  unfold execTimeStep
  refine kept_next ?_
  split
  · exact h
  · refine kept_ite ?_ ?_
    · exact h
    · refine kept_finish ?_
      refine kept_ite ?_ ?_
      · refine kept_requestLedger ?_
        refine kept_logNote ?_
        refine kept_postEvent ?_
        refine kept_modLedger ?_
        refine kept_openInterval ?_
        refine kept_of ?_
        dsimp -failIfUnchanged only
        refine kept_fields ?_
        refine kept_endSlew ?_
        refine kept_of ?_
        dsimp -failIfUnchanged only
        refine kept_fields ?_
        refine kept_closeInterval ?_
        refine kept_intervalBoundary ?_
        exact h
      · refine kept_logNote ?_
        refine kept_postEvent ?_
        refine kept_modLedger ?_
        refine kept_openInterval ?_
        refine kept_of ?_
        dsimp -failIfUnchanged only
        refine kept_fields ?_
        refine kept_endSlew ?_
        refine kept_of ?_
        dsimp -failIfUnchanged only
        refine kept_fields ?_
        refine kept_closeInterval ?_
        refine kept_intervalBoundary ?_
        exact h

theorem kept_outageBegins {q : List Instr} {s : State} (h : Kept q s) :
    Kept q (outageBegins s) := by
  unfold outageBegins
  refine kept_modLedger ?_
  exact h

theorem kept_crossGo {q : List Instr} : ∀ {fuel : Nat} {s : State} {n w : Nat}, Kept q s → Kept q (crossGo fuel s n w).1
  | 0, _, _, _, h => h
  | fuel + 1, s, n, w, h => by
    unfold crossGo
    extract_lets b
    refine kept_ite_fst h ?_
    extract_lets t
    exact kept_crossGo (fuel := fuel) (kept_boundaryAt h)

theorem kept_outageEnds {q : List Instr} {s : State} (h : Kept q s) : Kept q (outageEnds s).1 := by
  have ht := kept_crossGo (fuel := (s.kpr.cal - s.kpr.ledger.openI.start) / 300 + 1) (n := 0) (w := 0) h
  unfold outageEnds
  dsimp only
  exact kept_modLedger ht

end Sys2Proof.Machine
end

