-- ==== Sys2Proof/Laws/KeptWatchdogs.lean ====
section
/-! SUPPORT. Laws/KeptWatchdogs.lean: every operation of Machine/Watchdogs.lean keeps the queue, the reserved bits and the canonical lists. -/
namespace Sys2Proof.Machine

theorem kept_requestMirror {q : List Instr} {s : State} (h : Kept q s) :
    Kept q (requestMirror s) := by
  unfold requestMirror
  refine kept_ite ?_ ?_
  · refine kept_of ?_
    dsimp -failIfUnchanged only
    refine kept_fields ?_
    refine kept_of ?_
    dsimp -failIfUnchanged only
    refine kept_fields ?_
    exact h
  · refine kept_requestRecord ?_
    refine kept_of ?_
    dsimp -failIfUnchanged only
    refine kept_fields ?_
    exact h

theorem kept_flushMirror {q : List Instr} {s : State} (h : Kept q s) :
    Kept q (flushMirror s) := by
  unfold flushMirror
  refine kept_ite ?_ ?_
  · refine kept_requestMirror ?_
    exact h
  · exact h

theorem kept_evidenceChange {q : List Instr} {s : State} {cause : Nat} {tick : Nat} {g : Evidence → Evidence} (h : Kept q s) :
    Kept q (evidenceChange s cause tick g) := by
  unfold evidenceChange
  refine kept_flushMirror ?_
  refine kept_of ?_
  dsimp -failIfUnchanged only
  refine kept_fields ?_
  exact h

theorem kept_execKeeperMirrorCommit {q : List Instr} {s : State} (h : Kept q s) :
    KeptA q (execKeeperMirrorCommit s) := by
  unfold execKeeperMirrorCommit
  refine kept_next ?_
  refine kept_ite ?_ ?_
  · refine kept_requestMirror ?_
    exact h
  · exact h

theorem kept_setWdog {q : List Instr} {s : State} {low : Bool} {until_ : Option Nat} {both : Bool} (h : Kept q s) :
    Kept q (setWdog s low until_ both) := by
  unfold setWdog
  refine kept_ite ?_ ?_
  · refine kept_of ?_
    dsimp -failIfUnchanged only
    refine kept_fields ?_
    exact h
  · refine kept_emit ?_
    refine kept_of ?_
    dsimp -failIfUnchanged only
    refine kept_fields ?_
    exact h

theorem kept_assertWdog {q : List Instr} {s : State} (h : Kept q s) :
    Kept q (assertWdog s) := by
  unfold assertWdog
  refine kept_setWdog ?_
  exact h

theorem kept_releaseHeld {q : List Instr} {s : State} (h : Kept q s) :
    Kept q (releaseHeld s) := by
  unfold releaseHeld
  refine kept_ite ?_ ?_
  · refine kept_setWdog ?_
    exact h
  · exact h

theorem kept_execWdogPulseEnd {q : List Instr} {s : State} (h : Kept q s) :
    KeptA q (execWdogPulseEnd s) := by
  unfold execWdogPulseEnd
  refine kept_next ?_
  split
  · refine kept_ite ?_ ?_
    · refine kept_setWdog ?_
      exact h
    · exact h
  · exact h

theorem kept_modCollie {q : List Instr} {s : State} {g : Watchdog → Watchdog} (h : Kept q s) :
    Kept q (State.modCollie s g) := by
  unfold State.modCollie
  refine kept_of ?_
  dsimp -failIfUnchanged only
  refine kept_fields ?_
  exact h

theorem kept_parkMechanism {q : List Instr} {s : State} (h : Kept q s) :
    Kept q (parkMechanism s) := by
  unfold parkMechanism
  refine kept_of ?_
  dsimp -failIfUnchanged only
  refine kept_fields ?_
  refine kept_brakeSpindle ?_
  refine kept_openLoops ?_
  refine kept_dropLaser ?_
  exact h

theorem kept_restSled {q : List Instr} {s : State} (h : Kept q s) :
    Kept q (restSled s) := by
  unfold restSled
  dsimp -failIfUnchanged only
  split
  · refine kept_sledRests ?_
    refine kept_of ?_
    dsimp -failIfUnchanged only
    refine kept_fields ?_
    exact h
  · refine kept_of ?_
    dsimp -failIfUnchanged only
    refine kept_fields ?_
    exact h
  · refine kept_of ?_
    dsimp -failIfUnchanged only
    refine kept_fields ?_
    refine kept_of ?_
    dsimp -failIfUnchanged only
    refine kept_fields ?_
    exact h

theorem kept_stopSafely {q : List Instr} {s : State} (h : Kept q s) :
    Kept q (stopSafely s) := by
  unfold stopSafely
  refine kept_restSled ?_
  refine kept_parkMechanism ?_
  exact h

theorem kept_safeStop {q : List Instr} {s : State} (h : Kept q s) :
    Kept q (safeStop s) := by
  unfold safeStop
  refine kept_ite ?_ ?_
  · refine kept_modCollie ?_
    exact h
  · refine kept_ite ?_ ?_
    · dsimp -failIfUnchanged only
      split
      · refine kept_stopAtBoundary ?_
        refine kept_modCollie ?_
        exact h
      · split
        · refine kept_ite ?_ ?_
          · refine kept_modCollie ?_
            exact h
          · refine kept_of ?_
            dsimp -failIfUnchanged only
            refine kept_fields ?_
            refine kept_modCollie ?_
            exact h
        · refine kept_modCollie ?_
          exact h
    · refine kept_stopSafely ?_
      dsimp -failIfUnchanged only
      split
      · refine kept_stopAtBoundary ?_
        refine kept_modCollie ?_
        exact h
      · split
        · refine kept_ite ?_ ?_
          · refine kept_modCollie ?_
            exact h
          · refine kept_of ?_
            dsimp -failIfUnchanged only
            refine kept_fields ?_
            refine kept_modCollie ?_
            exact h
        · refine kept_modCollie ?_
          exact h

theorem kept_endStop {q : List Instr} {s : State} (h : Kept q s) :
    Kept q (endStop s) := by
  unfold endStop
  refine kept_releaseHeld ?_
  refine kept_modCollie ?_
  exact h

theorem kept_execMechanismFree {q : List Instr} {s : State} (h : Kept q s) :
    KeptA q (execMechanismFree s) := by
  unfold execMechanismFree
  refine kept_next ?_
  split
  · exact h
  · refine kept_ite ?_ ?_
    · exact h
    · extract_lets +onlyGivenNames x1
      refine kept_endTurn ?_
      refine kept_ite ?_ ?_
      · refine kept_stopSafely ?_
        refine kept_of ?_
        dsimp -failIfUnchanged only
        refine kept_fields ?_
        refine kept_ite ?_ ?_
        · split
          · refine kept_takePace ?_
            refine kept_of ?_
            dsimp -failIfUnchanged only
            refine kept_fields ?_
            exact h
          · refine kept_ite ?_ ?_
            · refine kept_modDesc ?_
              refine kept_takePace ?_
              refine kept_of ?_
              dsimp -failIfUnchanged only
              refine kept_fields ?_
              exact h
            · refine kept_finish ?_
              refine kept_modDesc ?_
              refine kept_takePace ?_
              refine kept_of ?_
              dsimp -failIfUnchanged only
              refine kept_fields ?_
              exact h
        · refine kept_modFold ?_
          split
          · refine kept_takePace ?_
            refine kept_of ?_
            dsimp -failIfUnchanged only
            refine kept_fields ?_
            exact h
          · refine kept_ite ?_ ?_
            · refine kept_modDesc ?_
              refine kept_takePace ?_
              refine kept_of ?_
              dsimp -failIfUnchanged only
              refine kept_fields ?_
              exact h
            · refine kept_finish ?_
              refine kept_modDesc ?_
              refine kept_takePace ?_
              refine kept_of ?_
              dsimp -failIfUnchanged only
              refine kept_fields ?_
              exact h
      · refine kept_of ?_
        dsimp -failIfUnchanged only
        refine kept_fields ?_
        refine kept_ite ?_ ?_
        · split
          · refine kept_takePace ?_
            refine kept_of ?_
            dsimp -failIfUnchanged only
            refine kept_fields ?_
            exact h
          · refine kept_ite ?_ ?_
            · refine kept_modDesc ?_
              refine kept_takePace ?_
              refine kept_of ?_
              dsimp -failIfUnchanged only
              refine kept_fields ?_
              exact h
            · refine kept_finish ?_
              refine kept_modDesc ?_
              refine kept_takePace ?_
              refine kept_of ?_
              dsimp -failIfUnchanged only
              refine kept_fields ?_
              exact h
        · refine kept_modFold ?_
          split
          · refine kept_takePace ?_
            refine kept_of ?_
            dsimp -failIfUnchanged only
            refine kept_fields ?_
            exact h
          · refine kept_ite ?_ ?_
            · refine kept_modDesc ?_
              refine kept_takePace ?_
              refine kept_of ?_
              dsimp -failIfUnchanged only
              refine kept_fields ?_
              exact h
            · refine kept_finish ?_
              refine kept_modDesc ?_
              refine kept_takePace ?_
              refine kept_of ?_
              dsimp -failIfUnchanged only
              refine kept_fields ?_
              exact h

theorem kept_collieExpire {q : List Instr} {s : State} {reason : Nat} {tick : Nat} (h : Kept q s) :
    Kept q (collieExpire s reason tick) := by
  unfold collieExpire
  refine kept_ite ?_ ?_
  · refine kept_assertWdog ?_
    refine kept_ite ?_ ?_
    · refine kept_safeStop ?_
      refine kept_ite ?_ ?_
      · refine kept_postEvent ?_
        refine kept_modCollie ?_
        refine kept_evidenceChange ?_
        exact h
      · refine kept_logNote ?_
        refine kept_modCollie ?_
        refine kept_evidenceChange ?_
        exact h
    · refine kept_ite ?_ ?_
      · refine kept_postEvent ?_
        refine kept_modCollie ?_
        refine kept_evidenceChange ?_
        exact h
      · refine kept_logNote ?_
        refine kept_modCollie ?_
        refine kept_evidenceChange ?_
        exact h
  · refine kept_ite ?_ ?_
    · refine kept_safeStop ?_
      refine kept_ite ?_ ?_
      · refine kept_postEvent ?_
        refine kept_modCollie ?_
        refine kept_evidenceChange ?_
        exact h
      · refine kept_logNote ?_
        refine kept_modCollie ?_
        refine kept_evidenceChange ?_
        exact h
    · refine kept_ite ?_ ?_
      · refine kept_postEvent ?_
        refine kept_modCollie ?_
        refine kept_evidenceChange ?_
        exact h
      · refine kept_logNote ?_
        refine kept_modCollie ?_
        refine kept_evidenceChange ?_
        exact h

theorem kept_expireLate {q : List Instr} {s : State} (h : Kept q s) :
    Kept q (expireLate s) := by
  unfold expireLate
  refine kept_collieExpire ?_
  exact h

theorem kept_collieValid {q : List Instr} {s : State} (h : Kept q s) :
    Kept q (collieValid s) := by
  unfold collieValid
  refine kept_endStop ?_
  refine kept_modCollie ?_
  exact h

theorem kept_collieStrike {q : List Instr} {s : State} (h : Kept q s) :
    Kept q (collieStrike s) := by
  unfold collieStrike
  refine kept_ite ?_ ?_
  · refine kept_postEvent ?_
    refine kept_modCollie ?_
    exact h
  · refine kept_modCollie ?_
    exact h

theorem kept_judgeToken {q : List Instr} {s : State} {tok : Word} (h : Kept q s) :
    Kept q (judgeToken s tok) := by
  unfold judgeToken
  refine kept_ite ?_ ?_
  · exact h
  · refine kept_ite ?_ ?_
    · refine kept_modCollie ?_
      refine kept_ite ?_ ?_
      · refine kept_expireLate ?_
        exact h
      · exact h
    · refine kept_ite ?_ ?_
      · refine kept_collieExpire ?_
        refine kept_ite ?_ ?_
        · refine kept_expireLate ?_
          exact h
        · exact h
      · refine kept_ite ?_ ?_
        · refine kept_collieValid ?_
          refine kept_ite ?_ ?_
          · refine kept_expireLate ?_
            exact h
          · exact h
        · refine kept_ite ?_ ?_
          · refine kept_collieStrike ?_
            refine kept_ite ?_ ?_
            · refine kept_expireLate ?_
              exact h
            · exact h
          · refine kept_collieExpire ?_
            refine kept_ite ?_ ?_
            · refine kept_expireLate ?_
              exact h
            · exact h

theorem kept_execCollieArm {q : List Instr} {k : Nat} {s : State} (h : Kept q s) :
    KeptA q (execCollieArm k s) := by
  unfold execCollieArm
  refine kept_next ?_
  split
  · exact h
  · refine kept_ite ?_ ?_
    · exact h
    · refine kept_finish ?_
      refine kept_modCollie ?_
      refine kept_endStop ?_
      refine kept_drawChallenge ?_
      exact h

theorem kept_execCollieDisarm {q : List Instr} {k : Nat} {s : State} (h : Kept q s) :
    KeptA q (execCollieDisarm k s) := by
  unfold execCollieDisarm
  refine kept_next ?_
  split
  · exact h
  · refine kept_ite ?_ ?_
    · refine kept_finish ?_
      refine kept_endStop ?_
      refine kept_modCollie ?_
      exact h
    · exact h

theorem kept_execCollieServe {q : List Instr} {k : Nat} {s : State} (h : Kept q s) :
    KeptA q (execCollieServe k s) := by
  unfold execCollieServe
  refine kept_next ?_
  split
  · exact h
  · refine kept_ite ?_ ?_
    · refine kept_finish ?_
      exact h
    · refine kept_of ?_
      dsimp -failIfUnchanged only
      refine kept_fields ?_
      refine kept_modDesc ?_
      exact h

theorem kept_execCollieTokenLatch {q : List Instr} {s : State} (h : Kept q s) :
    KeptA q (execCollieTokenLatch s) := by
  unfold execCollieTokenLatch
  refine kept_next ?_
  dsimp -failIfUnchanged only
  split
  · refine kept_ite ?_ ?_
    · refine kept_finish ?_
      refine kept_judgeToken ?_
      refine kept_of ?_
      dsimp -failIfUnchanged only
      refine kept_fields ?_
      exact h
    · split
      · refine kept_ite ?_ ?_
        · refine kept_judgeToken ?_
          refine kept_of ?_
          dsimp -failIfUnchanged only
          refine kept_fields ?_
          exact h
        · exact h
      · exact h
  · split
    · refine kept_ite ?_ ?_
      · refine kept_judgeToken ?_
        refine kept_of ?_
        dsimp -failIfUnchanged only
        refine kept_fields ?_
        exact h
      · exact h
    · exact h

theorem kept_execCollieExpiry {q : List Instr} {s : State} (h : Kept q s) :
    KeptA q (execCollieExpiry s) := by
  unfold execCollieExpiry
  refine kept_next ?_
  refine kept_ite ?_ ?_
  · refine kept_expireLate ?_
    exact h
  · exact h

theorem kept_sbIgnore {q : List Instr} {s : State} (h : Kept q s) :
    Kept q (sbIgnore s) := by
  unfold sbIgnore
  refine kept_of ?_
  dsimp -failIfUnchanged only
  refine kept_fields ?_
  exact h

theorem kept_execSbServe {q : List Instr} {target : Nat} {bytes : List Byte} {s : State} (h : Kept q s) :
    KeptA q (execSbServe target bytes s) := by
  unfold execSbServe
  refine kept_next ?_
  refine kept_ite ?_ ?_
  · exact h
  · refine kept_ite ?_ ?_
    · refine kept_of ?_
      dsimp -failIfUnchanged only
      refine kept_fields ?_
      exact h
    · refine kept_sbIgnore ?_
      exact h

theorem kept_setSource {q : List Instr} {s : State} {d : Dog} {rc : Bool} (h : Kept q s) : Kept q (setSource s d rc) := by
  unfold setSource
  refine kept_of { kept_fields h with dogs := ?_ }
  cases d <;> exact setBit_and_zero (by decide) h.dogs

theorem kept_oscStops {q : List Instr} {s : State} {o : Osc} (h : Kept q s) :
    Kept q (oscStops s o) := by
  unfold oscStops
  split
  · refine kept_of ?_
    dsimp -failIfUnchanged only
    refine kept_fields ?_
    exact h
  · refine kept_of ?_
    dsimp -failIfUnchanged only
    refine kept_fields ?_
    exact h

theorem kept_execClockTrip {q : List Instr} {d : Dog} {stopped : Osc} {s : State} (h : Kept q s) :
    KeptA q (execClockTrip d stopped s) := by
  unfold execClockTrip
  refine kept_next ?_
  refine kept_ite ?_ ?_
  · exact h
  · refine kept_ite ?_ ?_
    · refine kept_setWdog ?_
      refine kept_oscStops ?_
      exact h
    · refine kept_postEvent ?_
      refine kept_evidenceChange ?_
      refine kept_ite ?_ ?_
      · refine kept_setSource ?_
        refine kept_oscStops ?_
        exact h
      · refine kept_oscStops ?_
        exact h

theorem kept_oscRuns {q : List Instr} {s : State} {o : Osc} (h : Kept q s) :
    Kept q (oscRuns s o) := by
  unfold oscRuns
  refine kept_setWdog ?_
  dsimp -failIfUnchanged only
  split
  · refine kept_of ?_
    dsimp -failIfUnchanged only
    refine kept_fields ?_
    exact h
  · refine kept_of ?_
    dsimp -failIfUnchanged only
    refine kept_fields ?_
    exact h

theorem kept_execOscillatorResume {q : List Instr} {o : Osc} {s : State} (h : Kept q s) :
    KeptA q (execOscillatorResume o s) := by
  unfold execOscillatorResume
  refine kept_next ?_
  refine kept_ite ?_ ?_
  · refine kept_oscRuns ?_
    exact h
  · exact h

theorem kept_execX32CrystalStart {q : List Instr} {s : State} (h : Kept q s) :
    KeptA q (execX32CrystalStart s) := by
  unfold execX32CrystalStart
  refine kept_next ?_
  refine kept_ite ?_ ?_
  · refine kept_oscRuns ?_
    exact h
  · exact h

theorem kept_execWdgCtlWrite {q : List Instr} {v : Word} {s : State} (h : Kept q s) : KeptA q (execWdgCtlWrite v s) := by
  unfold execWdgCtlWrite
  refine kept_next (kept_onBar (fun t ht => kept_ite ?_ ht) h)
  exact kept_of { kept_fields ht with dogs := and_and_zero (by decide) }

theorem kept_execLogBlockCommit {q : List Instr} {s : State} (h : Kept q s) :
    KeptA q (execLogBlockCommit s) := by
  unfold execLogBlockCommit
  refine kept_next ?_
  split
  · exact h
  · refine kept_ite ?_ ?_
    · exact h
    · refine kept_requestRecord ?_
      refine kept_of ?_
      dsimp -failIfUnchanged only
      refine kept_fields ?_
      exact h

theorem kept_logCommitted {q : List Instr} {s : State} (h : Kept q s) :
    Kept q (logCommitted s) := by
  unfold logCommitted
  refine kept_of ?_
  dsimp -failIfUnchanged only
  refine kept_fields ?_
  exact h

theorem kept_execLogRead {q : List Instr} {k : Nat} {s : State} (h : Kept q s) :
    KeptA q (execLogRead k s) := by
  unfold execLogRead
  refine kept_next ?_
  split
  · exact h
  · refine kept_finish ?_
    refine kept_deliver ?_
    refine kept_setAux ?_
    refine kept_of ?_
    dsimp -failIfUnchanged only
    refine kept_fields ?_
    exact kept_readPages h

theorem kept_execBootFailsClear {q : List Instr} {s : State} (h : Kept q s) :
    KeptA q (execBootFailsClear s) := by
  unfold execBootFailsClear
  refine kept_next ?_
  refine kept_ite ?_ ?_
  · refine kept_of ?_
    dsimp -failIfUnchanged only
    refine kept_fields ?_
    exact h
  · exact h

theorem kept_execSbIgnoredClear {q : List Instr} {target : Nat} {s : State} (h : Kept q s) :
    KeptA q (execSbIgnoredClear target s) := by
  unfold execSbIgnoredClear
  refine kept_next ?_
  refine kept_ite ?_ ?_
  · refine kept_of ?_
    dsimp -failIfUnchanged only
    refine kept_fields ?_
    exact h
  · exact h

end Sys2Proof.Machine
end

