-- ==== Sys2Proof/Laws/KeptCommit.lean ====
section
/-! SUPPORT. Laws/KeptCommit.lean: every operation of Machine/Commit.lean keeps the queue, the reserved bits and the canonical lists. -/
namespace Sys2Proof.Machine

theorem kept_finishCommit {q : List Instr} {s : State} {f : FoldId} {k : Nat} {st : Status} {bytes : Nat} (h : Kept q s) :
    Kept q (finishCommit s f k st bytes) := by
  unfold finishCommit
  split
  · refine kept_ite ?_ ?_
    · refine kept_finish ?_
      exact h
    · exact h
  · exact h

theorem kept_setImage {q : List Instr} {s : State} {n : Nat} {x : ImageSlot} (h : Kept q s) :
    Kept q (setImage s n x) := by
  unfold setImage
  refine kept_ite ?_ ?_
  · refine kept_of ?_
    dsimp -failIfUnchanged only
    refine kept_fields ?_
    exact h
  · refine kept_of ?_
    dsimp -failIfUnchanged only
    refine kept_fields ?_
    exact h

theorem kept_programImage {q : List Instr} {s : State} {n off : Nat} {image : List Byte} (h : Kept q s) :
    Kept q (programImage s n off image) := by
  unfold programImage
  dsimp only
  refine kept_foldl_fst (fun t a ht => ?_) _ h
  have hu := kept_setImage (n := n) (x := { factory := false, pages := putKey t.2 a (imageSlot t.1 n).pages }) ht
  exact (kept_setMram hu (mramOk_wearUp ⟨hu.worn, keysRise_putKey _ _ hu.strong, hu.raws⟩))

theorem kept_blowFuses {q : List Instr} {s : State} {n : Nat} (h : Kept q s) :
    Kept q (blowFuses s n) := by
  unfold blowFuses
  refine kept_of ?_
  dsimp -failIfUnchanged only
  refine kept_fields ?_
  exact h

theorem kept_keyLoaded {q : List Instr} {s : State} {f : FoldId} {k : Nat} {slot : Nat} {r : SlotRecord} (h : Kept q s) :
    Kept q (keyLoaded s f k slot r) := by
  unfold keyLoaded
  dsimp -failIfUnchanged only
  split
  · refine kept_ite ?_ ?_
    · refine kept_of ?_
      dsimp -failIfUnchanged only
      refine kept_fields ?_
      exact h
    · refine kept_finish ?_
      refine kept_setSlot ?_
      refine kept_of ?_
      dsimp -failIfUnchanged only
      refine kept_fields ?_
      exact h
  · refine kept_requestRecord ?_
    refine kept_of ?_
    dsimp -failIfUnchanged only
    refine kept_fields ?_
    refine kept_of ?_
    dsimp -failIfUnchanged only
    refine kept_fields ?_
    exact h

theorem kept_slotReserved {q : List Instr} {s : State} {slot : Nat} {r : SlotRecord} (h : Kept q s) :
    Kept q (slotReserved s slot r) := by
  unfold slotReserved
  refine kept_wakeReserve ?_
  refine kept_setSlot ?_
  exact h

theorem kept_onCommit {q : List Instr} {s : State} {q1 : Prog} (h : Kept q s) :
    Kept q (onCommit s q1) := by
  unfold onCommit
  split
  · exact h
  · refine kept_finishCommit ?_
    exact h
  · refine kept_finishCommit ?_
    exact h
  · refine kept_keyLoaded ?_
    exact h
  · refine kept_finishCommit ?_
    exact h
  · refine kept_of ?_
    dsimp -failIfUnchanged only
    refine kept_fields ?_
    exact h
  · refine kept_slotReserved ?_
    exact h
  · refine kept_finishCommit ?_
    refine kept_of ?_
    dsimp -failIfUnchanged only
    refine kept_fields ?_
    exact h
  · refine kept_logCommitted ?_
    exact h
  · refine kept_finishCommit ?_
    refine kept_of ?_
    dsimp -failIfUnchanged only
    refine kept_fields ?_
    exact h
  · refine kept_finishCommit ?_
    refine kept_programImage ?_
    refine kept_of ?_
    dsimp -failIfUnchanged only
    refine kept_fields ?_
    exact h
  · refine kept_finishCommit ?_
    refine kept_of ?_
    dsimp -failIfUnchanged only
    refine kept_fields ?_
    exact h
  · refine kept_finishCommit ?_
    refine kept_blowFuses ?_
    refine kept_of ?_
    dsimp -failIfUnchanged only
    refine kept_fields ?_
    exact h
  · exact h

theorem kept_onNoPages {q : List Instr} {s : State} {q1 : Prog} (h : Kept q s) :
    Kept q (onNoPages s q1) := by
  unfold onNoPages
  split
  · exact h
  · exact h
  · refine kept_finishCommit ?_
    exact h
  · refine kept_finishCommit ?_
    exact h
  · refine kept_finishCommit ?_
    exact h
  · refine kept_finishCommit ?_
    exact h
  · refine kept_setSlot ?_
    exact h
  · refine kept_finishCommit ?_
    exact h
  · refine kept_finishCommit ?_
    exact h
  · refine kept_finishCommit ?_
    exact h
  · refine kept_finishCommit ?_
    exact h
  · refine kept_finishCommit ?_
    refine kept_of ?_
    dsimp -failIfUnchanged only
    refine kept_fields ?_
    exact h
  · refine kept_of ?_
    dsimp -failIfUnchanged only
    refine kept_fields ?_
    exact h

theorem kept_backCounts {q : List Instr} {s : State} {p : Nat} {back : DecodeBits} (h : Kept q s) :
    Kept q (backCounts s p back) := by
  unfold backCounts
  split
  · exact h
  · exact kept_eccCorrect (kept_setMram h (mramOk_setFound h.mram))
  · exact kept_setMram h (mramOk_setFound h.mram)

theorem kept_retirePage {q : List Instr} {s : State} {p : Nat} (h : Kept q s) : Kept q (retirePage s p) := by
  unfold retirePage
  exact kept_of { kept_fields h with worn := keysRise_putKey _ _ h.worn }

theorem kept_programPage {q : List Instr} {s : State} {p code : Nat} {own : Bool} (h : Kept q s) :
    Kept q (programPage s p code own) := by
  unfold programPage
  dsimp only
  have ht := kept_flipMeets (target := 4) (hit := fun a => a / 256 == p) h
  refine kept_of { kept_fields ht with worn := keysRise_putKey _ _ ht.worn, strong := ?_ }
  show keysRise (if own then putKey p code _ else delKey p _) = true
  split
  · exact keysRise_putKey _ _ ht.strong
  · exact keysRise_delKey _ ht.strong

theorem kept_restartProg {q : List Instr} {s : State} {q1 : Prog} (h : Kept q s) :
    Kept q (restartProg s q1) := by
  unfold restartProg
  dsimp -failIfUnchanged only
  split
  · refine kept_of ?_
    dsimp -failIfUnchanged only
    refine kept_fields ?_
    exact h
  · refine kept_onNoPages ?_
    refine kept_of ?_
    dsimp -failIfUnchanged only
    refine kept_fields ?_
    exact h

theorem kept_stepProg {q : List Instr} {s : State} {p : Prog} {back : DecodeBits} (h : Kept q s) :
    Kept q (stepProg s p back) := by
  have ht := kept_backCounts (p := p.used.getD (p.pages - p.left) 0) (back := back) (kept_programPage (p := p.used.getD (p.pages - p.left) 0) (code := p.strength)
    (own := false) h)
  unfold stepProg
  refine kept_ite (kept_ite ?_ ?_) (kept_ite ?_ ?_)
  · exact kept_restartProg (kept_retirePage ht)
  · exact (kept_setMram ht (mramOk_putProg ht.mram))
  · exact kept_levelWear (kept_onCommit ((kept_setMram ht (mramOk_commitRecord (mramOk_putProg ht.mram)))))
  · exact (kept_setMram ht (mramOk_putProg ht.mram))

theorem kept_stepRefresh {q : List Instr} {s : State} {back : DecodeBits} (h : Kept q s) :
    Kept q (stepRefresh s back) := by
  unfold stepRefresh
  split
  · exact h
  · refine kept_ite ?_ ?_
    · refine kept_of ?_
      dsimp -failIfUnchanged only
      refine kept_fields ?_
      refine kept_of ?_
      dsimp -failIfUnchanged only
      refine kept_fields ?_
      refine kept_backCounts ?_
      refine kept_programPage ?_
      exact h
    · refine kept_ite ?_ ?_
      · refine kept_of ?_
        dsimp -failIfUnchanged only
        refine kept_fields ?_
        refine kept_backCounts ?_
        refine kept_programPage ?_
        exact h
      · dsimp -failIfUnchanged only
        split
        · refine kept_retirePage ?_
          refine kept_of ?_
          dsimp -failIfUnchanged only
          refine kept_fields ?_
          refine kept_backCounts ?_
          refine kept_programPage ?_
          exact h
        · refine kept_beginIfIdle ?_
          refine kept_of ?_
          dsimp -failIfUnchanged only
          refine kept_fields ?_
          refine kept_retirePage ?_
          refine kept_of ?_
          dsimp -failIfUnchanged only
          refine kept_fields ?_
          refine kept_backCounts ?_
          refine kept_programPage ?_
          exact h

theorem kept_mramStep {q : List Instr} {s : State} {back : DecodeBits} (h : Kept q s) :
    Kept q (mramStep s back) := by
  unfold mramStep
  split
  · refine kept_stepRefresh ?_
    exact h
  · split
    · refine kept_onNoPages ?_
      refine kept_of ?_
      dsimp -failIfUnchanged only
      refine kept_fields ?_
      exact h
    · refine kept_beginIfIdle ?_
      refine kept_stepProg ?_
      refine kept_of ?_
      dsimp -failIfUnchanged only
      refine kept_fields ?_
      exact h

theorem kept_execMramPageProgram {q : List Instr} {back : DecodeBits} {s : State} (h : Kept q s) :
    KeptA q (execMramPageProgram back s) := by
  unfold execMramPageProgram
  refine kept_next ?_
  refine kept_ite ?_ ?_
  · refine kept_mramStep ?_
    exact h
  · exact h

theorem kept_commitNow {q : List Instr} {s : State} {region id : Nat} {payload : Option Payload} {bytes : Nat} (h : Kept q s) :
    Kept q (commitNow s region id payload bytes).1 := by
  unfold commitNow
  dsimp only
  split
  · exact h
  · rename_i l hl
    have ht : Kept q (l.foldl (fun t p => programPage t p (strengthCode s region) false) (settleTokens s)) :=
      kept_foldl (fun _ _ ht => kept_programPage ht) l (kept_settleTokens h)
    exact (kept_setMram ht (mramOk_commitRecord (mramOk_spendTokens ht.mram)))

theorem kept_finishRecord {q : List Instr} : ∀ {n : Nat} {s : State}, Kept q s → Kept q (finishRecord n s)
  | 0, _, h => h
  | n + 1, s, h => by
    unfold finishRecord
    split
    · exact h
    · exact kept_finishRecord (n := n) (kept_stepProg h)

theorem kept_finishInProgress {q : List Instr} {s : State} (h : Kept q s) :
    Kept q (finishInProgress s) := by
  unfold finishInProgress
  split
  · refine kept_of ?_
    dsimp -failIfUnchanged only
    refine kept_fields ?_
    exact h
  · refine kept_finishRecord ?_
    refine kept_of ?_
    dsimp -failIfUnchanged only
    refine kept_fields ?_
    exact h

theorem kept_deleteSlots {q : List Instr} {s : State} {mask : BitVec 16} (h : Kept q s) :
    Kept q (deleteSlots s mask).1 := by
  unfold deleteSlots
  refine kept_foldl_fst (fun t0 _ ht0 => ?_) _ ?_
  · refine kept_fst_mk ?_
    refine kept_of ?_
    dsimp -failIfUnchanged only
    refine kept_fields ?_
    refine kept_commitNow ?_
    exact ht0
  · refine kept_fst_mk ?_
    exact h

theorem kept_commitLedger {q : List Instr} {s : State} (h : Kept q s) :
    Kept q (commitLedger s).1 := by
  unfold commitLedger
  refine kept_commitNow ?_
  exact h

theorem kept_commitMirror {q : List Instr} {s : State} (h : Kept q s) :
    Kept q (commitMirror s).1 := by
  unfold commitMirror
  refine kept_commitNow ?_
  refine kept_of ?_
  dsimp -failIfUnchanged only
  refine kept_fields ?_
  exact h

theorem kept_execMramRawRead {q : List Instr} {found : DecodeBits} {s : State} (h : Kept q s) :
    KeptA q (execMramRawRead found s) := by
  unfold execMramRawRead
  exact kept_next (kept_ite h (kept_of (kept_fields (u := s) h)))

end Sys2Proof.Machine
end

