-- ==== Sys2Proof/Laws/KeptBoot.lean ====
section
/-! SUPPORT. Laws/KeptBoot.lean: every operation of Machine/Boot.lean keeps the queue, the reserved bits and the canonical lists. -/
namespace Sys2Proof.Machine

theorem kept_resetFolds {q : List Instr} {s : State} (h : Kept q s) : Kept q (resetFolds s) := by
  unfold resetFolds
  exact kept_of { kept_fields h with
    gntBase := (by decide : (0 : Word) &&& 0x1FFF = 0), pen := (by decide : (0x07D00003 : Word) &&& 0xFFFC = 0)
    depth := (by decide : (0x100 : Word) &&& 0xFFFF0000 = 0) }

theorem kept_resetMechanism {q : List Instr} {s : State} (h : Kept q s) : Kept q (resetMechanism s) := by
  unfold resetMechanism
  exact kept_of { kept_fields h with gate := fun hg => absurd hg Bool.false_ne_true, halted := fun hh => absurd hh Bool.false_ne_true }

theorem kept_resetMemories {q : List Instr} {s : State} (h : Kept q s) : Kept q (resetMemories s) := by
  unfold resetMemories
  exact kept_of { kept_fields h with
    target := zeroed rfl, addr := zeroed rfl, check := zeroed rfl, scrubs := (by decide : (0x1818 : Word) &&& 0xFFFF0000 = 0)
    strengths := (by decide : (0xAAAA : Word) &&& 0xFFFF0000 = 0)
    rates := (by decide : (0x40 : Word) &&& 0xFFFFFF80 = 0)
    page := zeroed rfl, held := rfl, bad := rfl, odd := rfl }

theorem kept_resetKeeperWaits {q : List Instr} {s : State} (h : Kept q s) : Kept q (resetKeeperWaits s) := by
  unfold resetKeeperWaits
  exact kept_of { kept_fields h with
    loss := (by decide : (0 : Word) &&& 0xFFFFFF00 = 0), govC := (by decide : (0x32040C01 : Word) &&& 0xC0F0C0FE = 0)
    govL := (by decide : (0x3200 : Word) &&& 0xFFFFC0C0 = 0) }

theorem kept_loseBronze {q : List Instr} {s : State} (h : Kept q s) :
    Kept q (loseBronze s) := by
  unfold loseBronze
  refine kept_emits ?_
  refine kept_resetKeeperWaits ?_
  refine kept_resetMemories ?_
  refine kept_resetMechanism ?_
  refine kept_releaseLock ?_
  refine kept_ironSafe ?_
  refine kept_dropLaser ?_
  refine kept_resetFolds ?_
  refine kept_of ?_
  dsimp -failIfUnchanged only
  refine kept_fields ?_
  exact h

theorem kept_railsDown {q : List Instr} {s : State} (h : Kept q s) :
    Kept q (railsDown s) := by
  unfold railsDown
  refine kept_of ?_
  dsimp -failIfUnchanged only
  refine kept_fields ?_
  refine kept_emits ?_
  exact h

theorem kept_enterVigil {q : List Instr} {s : State} (h : Kept q s) :
    Kept q (enterVigil s) := by
  unfold enterVigil
  refine kept_of ?_
  dsimp -failIfUnchanged only
  refine kept_fields ?_
  refine kept_railsDown ?_
  refine kept_loseBronze ?_
  exact h

theorem kept_restoreSlots {q : List Instr} {s : State} (h : Kept q s) :
    Kept q (restoreSlots s) := by
  unfold restoreSlots
  refine kept_of ?_
  dsimp -failIfUnchanged only
  refine kept_fields ?_
  refine kept_deleteSlots ?_
  exact h

theorem kept_restoreLedger {q : List Instr} {s : State} (h : Kept q s) :
    Kept q (restoreLedger s) := by
  unfold restoreLedger
  refine kept_openInterval ?_
  refine kept_of ?_
  dsimp -failIfUnchanged only
  refine kept_fields ?_
  exact h

theorem kept_restoreKeeper {q : List Instr} {s : State} (h : Kept q s) :
    Kept q (restoreKeeper s) := by
  unfold restoreKeeper
  refine kept_ite ?_ ?_
  · exact h
  · refine kept_restoreLedger ?_
    refine kept_of ?_
    dsimp -failIfUnchanged only
    refine kept_fields ?_
    exact h

theorem kept_restoreLog {q : List Instr} {s : State} (h : Kept q s) :
    Kept q (restoreLog s) := by
  unfold restoreLog
  dsimp -failIfUnchanged only
  split
  · refine kept_of ?_
    dsimp -failIfUnchanged only
    refine kept_fields ?_
    exact h
  · exact h

theorem kept_restoreRecords {q : List Instr} {s : State} (h : Kept q s) :
    Kept q (restoreRecords s) := by
  unfold restoreRecords
  refine kept_of ?_
  dsimp -failIfUnchanged only
  refine kept_fields ?_
  exact h

theorem kept_commitBoot {q : List Instr} {s : State} {b : BootRecord} (h : Kept q s) :
    Kept q (commitBoot s b) := by
  unfold commitBoot
  refine kept_of ?_
  dsimp -failIfUnchanged only
  refine kept_fields ?_
  refine kept_commitNow ?_
  exact h

theorem kept_fallBack {q : List Instr} {s : State} {bad : Bool} (h : Kept q s) :
    Kept q (fallBack s bad).1 := by
  unfold fallBack
  refine kept_ite_fst ?_ ?_
  · refine kept_fst_mk ?_
    refine kept_commitBoot ?_
    exact h
  · refine kept_fst_mk ?_
    exact h

theorem kept_bootActive {q : List Instr} {s : State} (h : Kept q s) :
    Kept q (bootActive s).1 := by
  unfold bootActive
  refine kept_ite_fst ?_ ?_
  · refine kept_fst_mk ?_
    exact h
  · refine kept_fallBack ?_
    exact h

theorem kept_chooseImage {q : List Instr} {s : State} (h : Kept q s) :
    Kept q (chooseImage s).1 := by
  unfold chooseImage
  split
  · refine kept_ite_fst ?_ ?_
    · refine kept_fst_mk ?_
      exact h
    · refine kept_bootActive ?_
      exact h
  · refine kept_bootActive ?_
    exact h

theorem kept_chooseAfterFault {q : List Instr} {s : State} (h : Kept q s) :
    Kept q (chooseAfterFault s).1 := by
  unfold chooseAfterFault
  dsimp -failIfUnchanged only
  split
  · refine kept_fst_mk ?_
    refine kept_bootActive ?_
    refine kept_commitBoot ?_
    refine kept_of ?_
    dsimp -failIfUnchanged only
    refine kept_fields ?_
    exact h
  · refine kept_ite_fst ?_ ?_
    · refine kept_chooseImage ?_
      refine kept_of ?_
      dsimp -failIfUnchanged only
      refine kept_fields ?_
      exact h
    · refine kept_ite_fst ?_ ?_
      · refine kept_fst_mk ?_
        refine kept_of ?_
        dsimp -failIfUnchanged only
        refine kept_fields ?_
        exact h
      · refine kept_fallBack ?_
        refine kept_of ?_
        dsimp -failIfUnchanged only
        refine kept_fields ?_
        refine kept_of ?_
        dsimp -failIfUnchanged only
        refine kept_fields ?_
        exact h

theorem kept_armInternal {q : List Instr} {s : State} {wOpen : Nat} {wClose : Nat} (h : Kept q s) :
    Kept q (armInternal s wOpen wClose) := by
  unfold armInternal
  refine kept_of ?_
  dsimp -failIfUnchanged only
  refine kept_fields ?_
  refine kept_drawChallenge ?_
  refine kept_drawWord ?_
  exact h

theorem kept_firmwareRuns {q : List Instr} {s : State} {slot : Nat} {events : List (Nat × Word)} (h : Kept q s) :
    Kept q (firmwareRuns s slot events) := by
  unfold firmwareRuns
  refine kept_ite ?_ ?_
  · refine kept_ite ?_ ?_
    · refine kept_postEvent ?_
      dsimp -failIfUnchanged only
      split
      · refine kept_postEvent ?_
        refine kept_of ?_
        dsimp -failIfUnchanged only
        refine kept_fields ?_
        refine kept_foldl (fun t6 _ ht6 => ?_) _ ?_
        · refine kept_postEvent ?_
          exact ht6
        · refine kept_of ?_
          dsimp -failIfUnchanged only
          refine kept_fields ?_
          refine kept_commitMirror ?_
          refine kept_commitLedger ?_
          refine kept_armInternal ?_
          exact h
      · refine kept_foldl (fun t8 _ ht8 => ?_) _ ?_
        · refine kept_postEvent ?_
          exact ht8
        · refine kept_of ?_
          dsimp -failIfUnchanged only
          refine kept_fields ?_
          refine kept_commitMirror ?_
          refine kept_commitLedger ?_
          refine kept_armInternal ?_
          exact h
    · dsimp -failIfUnchanged only
      split
      · refine kept_postEvent ?_
        refine kept_of ?_
        dsimp -failIfUnchanged only
        refine kept_fields ?_
        refine kept_foldl (fun t10 _ ht10 => ?_) _ ?_
        · refine kept_postEvent ?_
          exact ht10
        · refine kept_of ?_
          dsimp -failIfUnchanged only
          refine kept_fields ?_
          refine kept_commitMirror ?_
          refine kept_commitLedger ?_
          refine kept_armInternal ?_
          exact h
      · refine kept_foldl (fun t12 _ ht12 => ?_) _ ?_
        · refine kept_postEvent ?_
          exact ht12
        · refine kept_of ?_
          dsimp -failIfUnchanged only
          refine kept_fields ?_
          refine kept_commitMirror ?_
          refine kept_commitLedger ?_
          refine kept_armInternal ?_
          exact h
  · refine kept_postEvent ?_
    refine kept_ite ?_ ?_
    · refine kept_postEvent ?_
      dsimp -failIfUnchanged only
      split
      · refine kept_postEvent ?_
        refine kept_of ?_
        dsimp -failIfUnchanged only
        refine kept_fields ?_
        refine kept_foldl (fun t14 _ ht14 => ?_) _ ?_
        · refine kept_postEvent ?_
          exact ht14
        · refine kept_of ?_
          dsimp -failIfUnchanged only
          refine kept_fields ?_
          refine kept_commitMirror ?_
          refine kept_commitLedger ?_
          refine kept_armInternal ?_
          exact h
      · refine kept_foldl (fun t16 _ ht16 => ?_) _ ?_
        · refine kept_postEvent ?_
          exact ht16
        · refine kept_of ?_
          dsimp -failIfUnchanged only
          refine kept_fields ?_
          refine kept_commitMirror ?_
          refine kept_commitLedger ?_
          refine kept_armInternal ?_
          exact h
    · dsimp -failIfUnchanged only
      split
      · refine kept_postEvent ?_
        refine kept_of ?_
        dsimp -failIfUnchanged only
        refine kept_fields ?_
        refine kept_foldl (fun t18 _ ht18 => ?_) _ ?_
        · refine kept_postEvent ?_
          exact ht18
        · refine kept_of ?_
          dsimp -failIfUnchanged only
          refine kept_fields ?_
          refine kept_commitMirror ?_
          refine kept_commitLedger ?_
          refine kept_armInternal ?_
          exact h
      · refine kept_foldl (fun t20 _ ht20 => ?_) _ ?_
        · refine kept_postEvent ?_
          exact ht20
        · refine kept_of ?_
          dsimp -failIfUnchanged only
          refine kept_fields ?_
          refine kept_commitMirror ?_
          refine kept_commitLedger ?_
          refine kept_armInternal ?_
          exact h

theorem kept_rescueRuns {q : List Instr} {s : State} {events : List (Nat × Word)} (h : Kept q s) :
    Kept q (rescueRuns s events) := by
  unfold rescueRuns
  refine kept_foldl (fun t2 _ ht2 => ?_) _ ?_
  · refine kept_postEvent ?_
    exact ht2
  · refine kept_of ?_
    dsimp -failIfUnchanged only
    refine kept_fields ?_
    refine kept_armInternal ?_
    exact h

theorem mramOk_scanChooses {m : Mram} (h : MramOk m) : MramOk (scanChooses m).1 := by
  unfold scanChooses
  generalize scanPages m = l
  suffices ∀ (l : List (Nat × DecodeBits)) (a : Mram × List (Nat × Bool)), MramOk a.1 →
      MramOk (l.foldl (fun (a : Mram × List (Nat × Bool)) x => match x.2 with
        | some _ => a
        | none => ((pageLost a.1 x.1).1, a.2 ++ [(x.1, (pageLost a.1 x.1).2)])) a).1 from this l (m, []) h
  intro l
  induction l with
  | nil => exact fun _ ha => ha
  | cons x l ih =>
    intro a ha
    rw [List.foldl_cons]
    refine ih _ ?_
    split
    · exact ha
    · exact mramOk_pageLost ha

theorem kept_scanReports {q : List Instr} {s : State} {lost : List (Nat × Bool)} (h : Kept q s) : Kept q (scanReports s lost) := by
  unfold scanReports
  refine kept_foldl (fun t x ht => kept_eccUncorr ht) _ (kept_foldl (fun t x ht => ?_) _ h)
  exact kept_ite (kept_afterRead ht) ht

theorem kept_restoreAll {q : List Instr} {s : State} (h : Kept q s) : Kept q (restoreAll s) := by
  unfold restoreAll
  refine kept_scanReports (kept_restoreLog (kept_restoreRecords (kept_restoreKeeper (kept_restoreSlots (kept_emits ?_)))))
  refine kept_of ?_
  dsimp -failIfUnchanged only
  exact kept_fields_gov (kept_setMram h (mramOk_scanChooses h.mram))

theorem kept_releaseBronze {q : List Instr} {s : State} {fault : Bool} {extra : State → List (Nat × Word)} (h : Kept q s) :
    Kept q (releaseBronze s fault extra) := by
  have ht := kept_restoreAll h
  unfold releaseBronze
  generalize restoreAll s = t at ht
  have hc : Kept q (if fault then chooseAfterFault t else chooseImage t).1 :=
    kept_ite_fst (kept_chooseAfterFault ht) (kept_chooseImage ht)
  dsimp only
  split
  · exact kept_firmwareRuns (kept_ite (kept_blowFuses hc) hc)
  · exact kept_rescueRuns (kept_ite (kept_blowFuses hc) hc)

theorem kept_execStartUp {q : List Instr} {s : State} (h : Kept q s) :
    KeptA q (execStartUp s) := by
  unfold execStartUp
  refine kept_next ?_
  refine kept_ite ?_ ?_
  · refine kept_releaseBronze ?_
    exact h
  · exact h

theorem kept_resetBronze {q : List Instr} {s : State} {cause : Nat} (h : Kept q s) :
    Kept q (resetBronze s cause) := by
  unfold resetBronze
  refine kept_of ?_
  dsimp -failIfUnchanged only
  refine kept_fields ?_
  refine kept_loseBronze ?_
  exact h

theorem kept_execBronzeRestart {q : List Instr} {s : State} (h : Kept q s) :
    KeptA q (execBronzeRestart s) := by
  unfold execBronzeRestart
  refine kept_next ?_
  dsimp -failIfUnchanged only
  split
  · refine kept_ite ?_ ?_
    · refine kept_releaseBronze ?_
      refine kept_evidenceChange ?_
      exact h
    · exact h
  · refine kept_ite ?_ ?_
    · refine kept_releaseBronze ?_
      refine kept_evidenceChange ?_
      refine kept_loseBronze ?_
      exact h
    · exact h

theorem kept_wayTagLost {q : List Instr} {s : State} {way : Nat} (h : Kept q s) :
    Kept q (wayTagLost s way) := by
  unfold wayTagLost
  refine kept_foldl (fun t1 _ ht1 => ?_) _ ?_
  · refine kept_foldl (fun t2 _ ht2 => ?_) _ ?_
    · refine kept_spoilDesc ?_
      exact ht2
    · exact ht1
  · exact h

theorem kept_execMemoryResetRequest {q : List Instr} {site : ResetSite} {s : State} (h : Kept q s) :
    KeptA q (execMemoryResetRequest site s) := by
  unfold execMemoryResetRequest
  refine kept_next ?_
  refine kept_ite ?_ ?_
  · exact h
  · split
    · refine kept_resetBronze ?_
      refine kept_eccUncorr ?_
      exact h
    · refine kept_ite ?_ ?_
      · exact h
      · refine kept_ite ?_ ?_
        · refine kept_resetBronze ?_
          refine kept_eccUncorr ?_
          refine kept_of ?_
          dsimp -failIfUnchanged only
          refine kept_fields ?_
          exact h
        · refine kept_wayTagLost ?_
          refine kept_eccUncorr ?_
          refine kept_of ?_
          dsimp -failIfUnchanged only
          refine kept_fields ?_
          exact h

theorem kept_execInternalWatchdogExpiry {q : List Instr} {s : State} (h : Kept q s) :
    KeptA q (execInternalWatchdogExpiry s) := by
  unfold execInternalWatchdogExpiry
  refine kept_next ?_
  refine kept_ite ?_ ?_
  · refine kept_resetBronze ?_
    exact h
  · exact h

theorem kept_execInternalWatchdogServe {q : List Instr} {token : Word} {s : State} (h : Kept q s) :
    KeptA q (execInternalWatchdogServe token s) := by
  unfold execInternalWatchdogServe
  refine kept_next ?_
  refine kept_ite ?_ ?_
  · exact h
  · refine kept_ite ?_ ?_
    · refine kept_resetBronze ?_
      exact h
    · refine kept_of ?_
      dsimp -failIfUnchanged only
      refine kept_fields ?_
      exact h

end Sys2Proof.Machine
end

