-- ==== Sys2Proof/Laws/KeptCache.lean ====
section
/-! SUPPORT. Laws/KeptCache.lean: every operation of Machine/Cache.lean keeps the queue, the reserved bits and the canonical lists. -/
namespace Sys2Proof.Machine

theorem kept_execWayOff {q : List Instr} {v : Word} {s : State} (h : Kept q s) :
    KeptA q (execWayOff v s) := by
  unfold execWayOff
  refine kept_next ?_
  refine kept_onBar (fun s1 hs1 => ?_) ?_
  · refine kept_of ?_
    dsimp -failIfUnchanged only
    refine kept_fields ?_
    exact hs1
  · exact h

theorem kept_walkEnds {q : List Instr} {s : State} {w : Nat} (h : Kept q s) :
    Kept q (walkEnds s w) := by
  unfold walkEnds
  extract_lets +onlyGivenNames t1
  have ht1 : Kept q t1 := by
    refine kept_cleanWay ?_
    exact h
  clear_value t1
  refine kept_of ?_
  dsimp -failIfUnchanged only
  refine kept_fields ?_
  exact ht1

theorem kept_execWayWalkDone {q : List Instr} {s : State} (h : Kept q s) :
    KeptA q (execWayWalkDone s) := by
  unfold execWayWalkDone
  refine kept_next ?_
  split
  · exact h
  · refine kept_ite ?_ ?_
    · refine kept_of ?_
      dsimp -failIfUnchanged only
      refine kept_fields ?_
      refine kept_walkEnds ?_
      refine kept_of ?_
      dsimp -failIfUnchanged only
      refine kept_fields ?_
      exact h
    · refine kept_walkEnds ?_
      refine kept_of ?_
      dsimp -failIfUnchanged only
      refine kept_fields ?_
      exact h

theorem kept_execWayOn {q : List Instr} {v : Word} {s : State} (h : Kept q s) :
    KeptA q (execWayOn v s) := by
  unfold execWayOn
  refine kept_next ?_
  refine kept_onBar (fun s1 hs1 => ?_) ?_
  · refine kept_of ?_
    dsimp -failIfUnchanged only
    refine kept_fields ?_
    exact hs1
  · exact h

theorem kept_cacheDoze {q : List Instr} {s : State} (h : Kept q s) :
    Kept q (cacheDoze s) := by
  unfold cacheDoze
  refine kept_of ?_
  dsimp -failIfUnchanged only
  refine kept_fields ?_
  refine kept_foldl (fun t1 _ ht1 => ?_) _ ?_
  · refine kept_walkEnds ?_
    exact ht1
  · exact h

theorem kept_cacheWake {q : List Instr} {s : State} (h : Kept q s) :
    Kept q (cacheWake s) := by
  unfold cacheWake
  refine kept_of ?_
  dsimp -failIfUnchanged only
  refine kept_fields ?_
  exact h

theorem kept_execCapDataRead {q : List Instr} {s : State} (h : Kept q s) :
    KeptA q (execCapDataRead s) := by
  unfold execCapDataRead
  refine kept_next ?_
  refine kept_onBar (fun s0 hs0 => ?_) ?_
  · split
    · refine kept_emit ?_
      refine kept_of ?_
      dsimp -failIfUnchanged only
      refine kept_fields ?_
      exact hs0
    · refine kept_emit ?_
      exact hs0
  · exact h

theorem kept_execCapDrop {q : List Instr} {s : State} (h : Kept q s) :
    KeptA q (execCapDrop s) := by
  unfold execCapDrop
  refine kept_next ?_
  refine kept_ite ?_ ?_
  · refine kept_of ?_
    dsimp -failIfUnchanged only
    refine kept_fields ?_
    exact h
  · exact h

theorem kept_capEmpty {q : List Instr} {s : State} (h : Kept q s) :
    Kept q (capEmpty s) := by
  unfold capEmpty
  refine kept_of ?_
  dsimp -failIfUnchanged only
  refine kept_fields ?_
  exact h

theorem kept_execCaptureTrigger {q : List Instr} {s : State} (h : Kept q s) :
    KeptA q (execCaptureTrigger s) := by
  unfold execCaptureTrigger
  refine kept_next ?_
  refine kept_ite ?_ ?_
  · refine kept_of ?_
    dsimp -failIfUnchanged only
    refine kept_fields ?_
    exact h
  · exact h

theorem kept_execCapturePacket {q : List Instr} {s : State} (h : Kept q s) :
    KeptA q (execCapturePacket s) := by
  unfold execCapturePacket
  refine kept_next ?_
  refine kept_ite ?_ ?_
  · exact h
  · extract_lets +onlyGivenNames x1
    extract_lets +onlyGivenNames x2
    extract_lets +onlyGivenNames x3
    refine kept_ite ?_ ?_
    · refine kept_of ?_
      dsimp -failIfUnchanged only
      refine kept_fields ?_
      exact h
    · extract_lets +onlyGivenNames x4
      refine kept_of ?_
      dsimp -failIfUnchanged only
      refine kept_fields ?_
      exact h

end Sys2Proof.Machine
end

