-- ==== Sys2Proof/Laws/KeptChannel.lean ====
section
/-! SUPPORT. Laws/KeptChannel.lean: every operation of Machine/Channel.lean keeps the queue, the reserved bits and the canonical lists. -/
namespace Sys2Proof.Machine

theorem kept_lockChannel {q : List Instr} {s : State} (h : Kept q s) :
    Kept q (lockChannel s) := by
  unfold lockChannel
  extract_lets +onlyGivenNames x1
  refine kept_ite ?_ ?_
  · refine kept_of ?_
    dsimp -failIfUnchanged only
    refine kept_fields ?_
    exact h
  · exact h

theorem kept_execAcquisitionLock {q : List Instr} {rf : List RfSample} {s : State} (h : Kept q s) :
    KeptA q (execAcquisitionLock rf s) := by
  unfold execAcquisitionLock
  refine kept_next ?_
  refine kept_lockChannel ?_
  refine kept_channelRun ?_
  exact h

theorem kept_unlockChannel {q : List Instr} {s : State} (h : Kept q s) :
    Kept q (unlockChannel s) := by
  unfold unlockChannel
  split
  · exact h
  · refine kept_ite ?_ ?_
    · extract_lets +onlyGivenNames x1
      refine kept_of ?_
      dsimp -failIfUnchanged only
      refine kept_fields ?_
      exact h
    · exact h

theorem kept_execLossOfLock {q : List Instr} {rf : List RfSample} {s : State} (h : Kept q s) :
    KeptA q (execLossOfLock rf s) := by
  unfold execLossOfLock
  refine kept_next ?_
  refine kept_unlockChannel ?_
  refine kept_channelRun ?_
  exact h

theorem kept_giveUpLock {q : List Instr} {s : State} (h : Kept q s) :
    Kept q (giveUpLock s) := by
  unfold giveUpLock
  split
  · refine kept_ite ?_ ?_
    · extract_lets +onlyGivenNames x3
      extract_lets +onlyGivenNames t4
      have ht4 : Kept q t4 := by
        refine kept_modUnit ?_
        exact h
      clear_value t4
      refine kept_of ?_
      dsimp -failIfUnchanged only
      refine kept_fields ?_
      exact ht4
    · exact h
  · exact h

theorem kept_execRelockTimeout {q : List Instr} {rf : List RfSample} {s : State} (h : Kept q s) :
    KeptA q (execRelockTimeout rf s) := by
  unfold execRelockTimeout
  refine kept_next ?_
  refine kept_giveUpLock ?_
  refine kept_channelRun ?_
  exact h

theorem kept_setDefectFlag {q : List Instr} {s : State} (h : Kept q s) :
    Kept q (setDefectFlag s) := by
  unfold setDefectFlag
  refine kept_ite ?_ ?_
  · exact h
  · refine kept_of ?_
    dsimp -failIfUnchanged only
    refine kept_fields ?_
    exact h

theorem kept_execDefectFlagSet {q : List Instr} {rf : List RfSample} {s : State} (h : Kept q s) :
    KeptA q (execDefectFlagSet rf s) := by
  unfold execDefectFlagSet
  refine kept_next ?_
  refine kept_setDefectFlag ?_
  refine kept_channelRun ?_
  exact h

theorem kept_clearDefectFlag {q : List Instr} {s : State} (h : Kept q s) :
    Kept q (clearDefectFlag s) := by
  unfold clearDefectFlag
  refine kept_ite ?_ ?_
  · extract_lets +onlyGivenNames x1
    refine kept_of ?_
    dsimp -failIfUnchanged only
    refine kept_fields ?_
    exact h
  · exact h

theorem kept_execDefectFlagClear {q : List Instr} {rf : List RfSample} {s : State} (h : Kept q s) :
    KeptA q (execDefectFlagClear rf s) := by
  unfold execDefectFlagClear
  refine kept_next ?_
  refine kept_clearDefectFlag ?_
  refine kept_channelRun ?_
  exact h

theorem kept_execChannelPacketBad {q : List Instr} {bytes : Nat} {s : State} (h : Kept q s) :
    KeptA q (execChannelPacketBad bytes s) := by
  unfold execChannelPacketBad
  refine kept_next ?_
  refine kept_ite ?_ ?_
  · extract_lets +onlyGivenNames t2
    have ht2 : Kept q t2 := by
      refine kept_countBadPacket ?_
      exact h
    clear_value t2
    refine kept_of ?_
    dsimp -failIfUnchanged only
    refine kept_fields ?_
    exact ht2
  · exact h

theorem kept_seekAddress {q : List Instr} {s : State} {target : Nat} {moves : Nat} {tracks : Int} (h : Kept q s) :
    Kept q (seekAddress s target moves tracks) := by
  unfold seekAddress
  refine kept_ite ?_ ?_
  · refine kept_settleGate ?_
    refine kept_of ?_
    dsimp -failIfUnchanged only
    refine kept_fields ?_
    refine kept_of ?_
    dsimp -failIfUnchanged only
    refine kept_fields ?_
    exact h
  · refine kept_ite ?_ ?_
    · refine kept_startJump ?_
      refine kept_of ?_
      dsimp -failIfUnchanged only
      refine kept_fields ?_
      exact h
    · refine kept_ite ?_ ?_
      · refine kept_seekMove ?_
        refine kept_of ?_
        dsimp -failIfUnchanged only
        refine kept_fields ?_
        exact h
      · refine kept_motionFault ?_
        refine kept_of ?_
        dsimp -failIfUnchanged only
        refine kept_fields ?_
        exact h

theorem kept_execAddressAccept {q : List Instr} {a : AddressRead} {s : State} (h : Kept q s) :
    KeptA q (execAddressAccept a s) := by
  unfold execAddressAccept
  refine kept_next ?_
  split
  · exact h
  · refine kept_ite ?_ ?_
    · exact h
    · refine kept_ite ?_ ?_
      · refine kept_of ?_
        dsimp -failIfUnchanged only
        refine kept_fields ?_
        exact h
      · split
        · (dsimp only; split)
          · refine kept_seekAddress ?_
            refine kept_of ?_
            dsimp -failIfUnchanged only
            refine kept_fields ?_
            exact h
          · refine kept_settleGate ?_
            refine kept_of ?_
            dsimp -failIfUnchanged only
            refine kept_fields ?_
            exact h
        · split
          · (dsimp only; split)
            · refine kept_seekAddress ?_
              refine kept_of ?_
              dsimp -failIfUnchanged only
              refine kept_fields ?_
              exact h
            · refine kept_settleGate ?_
              refine kept_of ?_
              dsimp -failIfUnchanged only
              refine kept_fields ?_
              exact h
          · split
            · split
              · (dsimp only; split)
                · refine kept_seekAddress ?_
                  refine kept_of ?_
                  dsimp -failIfUnchanged only
                  refine kept_fields ?_
                  exact h
                · refine kept_settleGate ?_
                  refine kept_of ?_
                  dsimp -failIfUnchanged only
                  refine kept_fields ?_
                  exact h
              · (dsimp only; split)
                · refine kept_seekAddress ?_
                  refine kept_of ?_
                  dsimp -failIfUnchanged only
                  refine kept_fields ?_
                  exact h
                · refine kept_settleGate ?_
                  refine kept_of ?_
                  dsimp -failIfUnchanged only
                  refine kept_fields ?_
                  exact h
            · (dsimp only; split)
              · refine kept_seekAddress ?_
                refine kept_of ?_
                dsimp -failIfUnchanged only
                refine kept_fields ?_
                exact h
              · refine kept_settleGate ?_
                refine kept_of ?_
                dsimp -failIfUnchanged only
                refine kept_fields ?_
                exact h

theorem kept_execReadAhead {q : List Instr} {s : State} (h : Kept q s) :
    KeptA q (execReadAhead s) := by
  unfold execReadAhead
  refine kept_next ?_
  refine kept_ite ?_ ?_
  · exact h
  · split
    · refine kept_of ?_
      dsimp -failIfUnchanged only
      refine kept_fields ?_
      exact h
    · exact h

theorem kept_execSpeculativeSeek {q : List Instr} {s : State} (h : Kept q s) :
    KeptA q (execSpeculativeSeek s) := by
  unfold execSpeculativeSeek
  refine kept_next ?_
  refine kept_ite ?_ ?_
  · exact h
  · split
    · refine kept_seekMove ?_
      refine kept_of ?_
      dsimp -failIfUnchanged only
      refine kept_fields ?_
      exact h
    · exact h

end Sys2Proof.Machine
end

