-- ==== Sys2Proof/Laws/KeptPower.lean ====
section
/-! SUPPORT. Laws/KeptPower.lean: every operation of Machine/Power.lean keeps the queue, the reserved bits and the canonical lists. -/
namespace Sys2Proof.Machine

theorem kept_execGovWrite {q : List Instr} {r : GovReg} {v : Word} {s : State} (h : Kept q s) : KeptA q
    (execGovWrite r v s) := by
  unfold execGovWrite
  refine kept_next (kept_onBar (fun t ht => kept_ite ht ?_) h)
  cases r
  · exact kept_of { kept_fields ht with govC := and_and_zero (by decide), govL := h.govL }
  · exact kept_of { kept_fields ht with govC := h.govC, govL := and_and_zero (by decide) }

theorem kept_execGovStatClear {q : List Instr} {s : State} (h : Kept q s) :
    KeptA q (execGovStatClear s) := by
  unfold execGovStatClear
  refine kept_next ?_
  refine kept_onBar (fun s0 hs0 => ?_) ?_
  · refine kept_of ?_
    dsimp -failIfUnchanged only
    refine kept_fields ?_
    exact hs0
  · exact h

theorem kept_noteGovLimit {q : List Instr} {s : State} (h : Kept q s) :
    Kept q (noteGovLimit s) := by
  unfold noteGovLimit
  refine kept_ite ?_ ?_
  · exact h
  · refine kept_postEvent ?_
    refine kept_of ?_
    dsimp -failIfUnchanged only
    refine kept_fields ?_
    exact h

theorem kept_setGov {q : List Instr} {s : State} {g : Gov} (h : Kept q s) (hc : g.ctl = s.pwr.gov.ctl)
    (hl : g.limit = s.pwr.gov.limit) : Kept q { s with pwr := { s.pwr with gov := g } } :=
  kept_of { kept_fields h with
    govC := (congrArg (fun w => w &&& (0xC0F0C0FE : Word)) hc).trans h.govC
    govL := (congrArg (fun w => w &&& (0xFFFFC0C0 : Word)) hl).trans h.govL }

theorem govSlack_regs (g : Gov) (x : Nat) : (govSlack g x).ctl = g.ctl ∧ (govSlack g x).limit = g.limit := by
  unfold govSlack
  split
  · exact ⟨rfl, rfl⟩
  · unfold govWindow
    dsimp only
    split
    · exact ⟨rfl, rfl⟩
    · exact ⟨rfl, rfl⟩

theorem kept_execGovernorFrame {q : List Instr} {s : State} (h : Kept q s) :
    KeptA q (execGovernorFrame s) := by
  unfold execGovernorFrame
  refine kept_next (kept_ite h ?_)
  dsimp only
  split
  · exact kept_setGov h rfl rfl
  · exact kept_setGov h (govSlack_regs _ _).1 (govSlack_regs _ _).2
  · exact kept_ite (kept_noteGovLimit (kept_setGov h rfl rfl)) (kept_setGov h rfl rfl)

theorem kept_execPwrStatClear {q : List Instr} {s : State} (h : Kept q s) :
    KeptA q (execPwrStatClear s) := by
  unfold execPwrStatClear
  refine kept_next ?_
  refine kept_onBar (fun s0 hs0 => ?_) ?_
  · refine kept_of ?_
    dsimp -failIfUnchanged only
    refine kept_fields ?_
    exact hs0
  · exact h

theorem kept_completeJob {q : List Instr} {s : State} {st : Status} (h : Kept q s) :
    Kept q (completeJob s st) := by
  unfold completeJob
  refine kept_of ?_
  dsimp -failIfUnchanged only
  refine kept_fields ?_
  dsimp -failIfUnchanged only
  split
  · refine kept_stopJob ?_
    exact h
  · split
    · refine kept_stopJob ?_
      exact h
    · refine kept_stopJob ?_
      exact h
    · refine kept_ite ?_ ?_
      · refine kept_finishUnstarted ?_
        refine kept_stopJob ?_
        exact h
      · refine kept_finish ?_
        refine kept_stopJob ?_
        exact h

theorem kept_completeFold {q : List Instr} {st : Status} {s : State} {f : FoldId} (h : Kept q s) :
    Kept q (completeFold st s f) := by
  unfold completeFold
  refine kept_foldl (fun t0 _ ht0 => ?_) _ ?_
  · refine kept_finishUnstarted ?_
    exact ht0
  · exact h

theorem kept_completeAll {q : List Instr} {s : State} {st : Status} (h : Kept q s) :
    Kept q (completeAll s st) := by
  unfold completeAll
  refine kept_foldl (fun t0 _ ht0 => ?_) _ ?_
  · refine kept_completeFold ?_
    exact ht0
  · refine kept_completeJob ?_
    exact h

theorem kept_inputGone {q : List Instr} {s : State} {c : LossCause} (h : Kept q s) :
    Kept q (inputGone s c) := by
  unfold inputGone
  refine kept_of ?_
  dsimp -failIfUnchanged only
  refine kept_fields ?_
  refine kept_outageBegins ?_
  refine kept_intervalBoundary ?_
  exact h

theorem kept_noteLoss {q : List Instr} {s : State} {c : LossCause} (h : Kept q s) :
    Kept q (noteLoss s c) := by
  unfold noteLoss
  refine kept_of ?_
  dsimp -failIfUnchanged only
  refine kept_fields ?_
  exact h

theorem kept_inputLossCommit {q : List Instr} {s : State} (h : Kept q s) : Kept q (inputLossCommit s).1 := by
  have h1 := kept_commitLedger (kept_finishInProgress h)
  unfold inputLossCommit
  generalize commitLedger (finishInProgress s) = a at h1
  have h2 := kept_commitNow (region := 4) (id := 2) (payload := some (.powerFail a.1.kpr.tick a.1.kpr.cal a.1.kpr.ledger))
    (bytes := 52) h1
  dsimp only
  generalize commitNow a.1 4 2 (some (.powerFail a.1.kpr.tick a.1.kpr.cal a.1.kpr.ledger)) 52 = b at h2
  have h3 := kept_deleteSlots (mask := b.1.kpr.slotClear) h2
  generalize deleteSlots b.1 b.1.kpr.slotClear = c at h3
  exact kept_ite (kept_commitMirror h3) h3

theorem kept_inputLossRuns {q : List Instr} {s : State} {c : LossCause} (h : Kept q s) : Kept q (inputLossRuns s c) := by
  have h1 := kept_inputGone (c := c) (kept_noteFault (p := .down) (kept_losePartial (kept_stopJob (st := .powerLost) h)))
  unfold inputLossRuns
  generalize inputGone (noteFault (losePartial (stopJob s .powerLost)) .down) c = a at h1
  have h2 : Kept q { a with kpr := { a.kpr with closing := [], step := none, latch := [] } } := kept_of (kept_fields
    (u := a) h1)
  have h3 := kept_noteLoss (c := c) h2
  dsimp only
  generalize noteLoss { a with kpr := { a.kpr with closing := [], step := none, latch := [] } } c = b at h3
  have h4 : Kept q { b with sys := { b.sys with drainAll := true }, pwr := { b.pwr with shutdown := .inputLoss b.us } } :=
    kept_of (kept_fields (u := b) h3)
  have h5 := kept_inputLossCommit h4
  generalize inputLossCommit { b with sys := { b.sys with drainAll := true }, pwr :=
    { b.pwr with shutdown := .inputLoss b.us } } = d
    at h5
  exact kept_postEvent (kept_completeAll h5)

theorem kept_execInputLoss {q : List Instr} {c : LossCause} {s : State} (h : Kept q s) :
    KeptA q (execInputLoss c s) := by
  unfold execInputLoss
  refine kept_next ?_
  refine kept_ite ?_ ?_
  · exact h
  · refine kept_ite ?_ ?_
    · refine kept_inputGone ?_
      exact h
    · refine kept_ite ?_ ?_
      · refine kept_noteLoss ?_
        refine kept_enterVigil ?_
        refine kept_inputGone ?_
        exact h
      · refine kept_ite ?_ ?_
        · refine kept_inputLossRuns ?_
          exact h
        · refine kept_noteLoss ?_
          refine kept_of ?_
          dsimp -failIfUnchanged only
          refine kept_fields ?_
          refine kept_inputGone ?_
          exact h

theorem kept_execInputLossRailDown {q : List Instr} {s : State} (h : Kept q s) :
    KeptA q (execInputLossRailDown s) := by
  unfold execInputLossRailDown
  refine kept_next ?_
  split
  · refine kept_of ?_
    dsimp -failIfUnchanged only
    refine kept_fields ?_
    refine kept_enterVigil ?_
    exact h
  · exact h

theorem kept_execInputReturn {q : List Instr} {s : State} (h : Kept q s) :
    KeptA q (execInputReturn s) := by
  unfold execInputReturn
  refine kept_next ?_
  refine kept_ite ?_ ?_
  · exact h
  · refine kept_of ?_
    dsimp -failIfUnchanged only
    refine kept_fields ?_
    refine kept_ite ?_ ?_
    · exact h
    · refine kept_of ?_
      dsimp -failIfUnchanged only
      refine kept_fields ?_
      refine kept_outageEnds ?_
      exact h

theorem kept_setSwitching {q : List Instr} {s : State} {on : Bool} {stop : Option Nat} (h : Kept q s) :
    Kept q (setSwitching s on stop) := by
  unfold setSwitching
  refine kept_of ?_
  dsimp -failIfUnchanged only
  refine kept_fields ?_
  exact h

theorem kept_execMainsStart {q : List Instr} {rms : Nat} {s : State} (h : Kept q s) :
    KeptA q (execMainsStart rms s) := by
  unfold execMainsStart
  refine kept_next ?_
  refine kept_ite ?_ ?_
  · refine kept_setSwitching ?_
    exact h
  · exact h

theorem kept_execMainsStop {q : List Instr} {s : State} (h : Kept q s) :
    KeptA q (execMainsStop s) := by
  unfold execMainsStop
  refine kept_next ?_
  refine kept_ite ?_ ?_
  · refine kept_setSwitching ?_
    exact h
  · exact h

theorem kept_execRegulationLoss {q : List Instr} {s : State} (h : Kept q s) :
    KeptA q (execRegulationLoss s) := by
  unfold execRegulationLoss
  refine kept_next ?_
  refine kept_ite ?_ ?_
  · refine kept_setSwitching ?_
    exact h
  · exact h

theorem kept_execRegulationRestart {q : List Instr} {s : State} (h : Kept q s) :
    KeptA q (execRegulationRestart s) := by
  unfold execRegulationRestart
  refine kept_next ?_
  split
  · refine kept_ite ?_ ?_
    · refine kept_setSwitching ?_
      exact h
    · exact h
  · exact h

theorem kept_execRailFault {q : List Instr} {r : Rail} {s : State} (h : Kept q s) :
    KeptA q (execRailFault r s) := by
  unfold execRailFault
  refine kept_next ?_
  refine kept_ite h ?_
  refine kept_ite ?_ ?_
  · exact kept_noteFault (kept_of (kept_fields (kept_emits (l := railOuts s false [7, 6]) h)))
  · have ht := kept_enterVigil h
    generalize enterVigil s = t at ht
    exact kept_of (kept_fields ht)

theorem kept_execRailFaultRestart {q : List Instr} {s : State} (h : Kept q s) :
    KeptA q (execRailFaultRestart s) := by
  unfold execRailFaultRestart
  refine kept_next ?_
  split
  · refine kept_ite ?_ ?_
    · refine kept_of ?_
      dsimp -failIfUnchanged only
      refine kept_fields ?_
      exact h
    · exact h
  · exact h

theorem kept_thermalWarn {q : List Instr} {s : State} (h : Kept q s) :
    Kept q (thermalWarn s) := by
  unfold thermalWarn
  split
  · refine kept_ite ?_ ?_
    · exact h
    · refine kept_postEvent ?_
      refine kept_of ?_
      dsimp -failIfUnchanged only
      refine kept_fields ?_
      exact h
  · refine kept_ite ?_ ?_
    · refine kept_postEvent ?_
      refine kept_of ?_
      dsimp -failIfUnchanged only
      refine kept_fields ?_
      exact h
    · exact h
  · exact h

theorem kept_pageCompletes {q : List Instr} {s : State} (h : Kept q s) :
    Kept q (pageCompletes s) := by
  unfold pageCompletes
  refine kept_of ?_
  dsimp -failIfUnchanged only
  refine kept_fields ?_
  refine kept_ite ?_ ?_
  · refine kept_mramStep ?_
    exact h
  · exact h

theorem kept_bridgesOff {q : List Instr} {s : State} (h : Kept q s) :
    Kept q (bridgesOff s) := by
  unfold bridgesOff
  extract_lets +onlyGivenNames t8
  have ht8 : Kept q t8 := by
    refine kept_openLoops ?_
    exact h
  clear_value t8
  refine kept_stopLoader ?_
  refine kept_stopSled ?_
  refine kept_coastSpindle ?_
  refine kept_of ?_
  dsimp -failIfUnchanged only
  refine kept_fields ?_
  exact ht8

theorem kept_thermalShutdown {q : List Instr} {s : State} {die : Nat} {tj : Int} (h : Kept q s) :
    Kept q (thermalShutdown s die tj) := by
  unfold thermalShutdown
  extract_lets +onlyGivenNames t9
  have ht9 : Kept q t9 := by
    refine kept_noteFault ?_
    refine kept_losePartial ?_
    refine kept_stopJob ?_
    exact h
  clear_value t9
  extract_lets +onlyGivenNames t10
  have ht10 : Kept q t10 := by
    refine kept_pageCompletes ?_
    refine kept_ite ?_ ?_
    · refine kept_bridgesOff ?_
      exact ht9
    · exact ht9
  clear_value t10
  extract_lets +onlyGivenNames t11
  have ht11 : Kept q t11 := by
    refine kept_broadcast ?_
    refine kept_postEvent ?_
    exact ht10
  clear_value t11
  extract_lets +onlyGivenNames t12
  have ht12 : Kept q t12 := by
    refine kept_completeAll ?_
    exact ht11
  clear_value t12
  refine kept_ite ?_ ?_
  · refine kept_inputGone ?_
    refine kept_setSwitching ?_
    refine kept_of ?_
    dsimp -failIfUnchanged only
    refine kept_fields ?_
    exact ht12
  · refine kept_of ?_
    dsimp -failIfUnchanged only
    refine kept_fields ?_
    exact ht12

theorem kept_execThermalReading {q : List Instr} {t : DieTemps} {s : State} (h : Kept q s) :
    KeptA q (execThermalReading t s) := by
  unfold execThermalReading
  refine kept_next ?_
  refine kept_ite ?_ ?_
  · refine kept_of ?_
    dsimp -failIfUnchanged only
    refine kept_fields ?_
    exact h
  · dsimp -failIfUnchanged only
    split
    · refine kept_thermalShutdown ?_
      refine kept_of ?_
      dsimp -failIfUnchanged only
      refine kept_fields ?_
      exact h
    · refine kept_ite ?_ ?_
      · refine kept_thermalWarn ?_
        refine kept_of ?_
        dsimp -failIfUnchanged only
        refine kept_fields ?_
        exact h
      · refine kept_of ?_
        dsimp -failIfUnchanged only
        refine kept_fields ?_
        exact h

theorem kept_execThermalRailDown {q : List Instr} {s : State} (h : Kept q s) :
    KeptA q (execThermalRailDown s) := by
  unfold execThermalRailDown
  refine kept_next ?_
  split
  · refine kept_ite ?_ ?_
    · exact h
    · refine kept_of ?_
      dsimp -failIfUnchanged only
      refine kept_fields ?_
      refine kept_enterVigil ?_
      exact h
  · exact h

theorem kept_execThermalRestart {q : List Instr} {t : DieTemps} {s : State} (h : Kept q s) :
    KeptA q (execThermalRestart t s) := by
  unfold execThermalRestart
  refine kept_next ?_
  dsimp -failIfUnchanged only
  split
  · exact h
  · refine kept_ite ?_ ?_
    · exact h
    · refine kept_ite ?_ ?_
      · refine kept_of ?_
        dsimp -failIfUnchanged only
        refine kept_fields ?_
        exact h
      · refine kept_of ?_
        dsimp -failIfUnchanged only
        refine kept_fields ?_
        exact h

theorem kept_paceStep {q : List Instr} {s : State} {drop : Nat} (h : Kept q s) :
    Kept q (paceStep s drop) := by
  unfold paceStep
  refine kept_ite ?_ ?_
  · refine kept_of ?_
    dsimp -failIfUnchanged only
    refine kept_fields ?_
    exact h
  · refine kept_takePace ?_
    refine kept_of ?_
    dsimp -failIfUnchanged only
    refine kept_fields ?_
    exact h

theorem kept_execPaceChange {q : List Instr} {s : State} (h : Kept q s) :
    KeptA q (execPaceChange s) := by
  unfold execPaceChange
  refine kept_next ?_
  split
  · exact h
  · refine kept_ite ?_ ?_
    · exact h
    · refine kept_ite ?_ ?_
      · refine kept_ite ?_ ?_
        · refine kept_paceStep ?_
          exact h
        · exact h
      · refine kept_ite ?_ ?_
        · exact h
        · refine kept_ite ?_ ?_
          · refine kept_ite ?_ ?_
            · refine kept_paceStep ?_
              exact h
            · exact h
          · refine kept_paceStep ?_
            exact h

theorem kept_execKeeperToBattery {q : List Instr} {s : State} (h : Kept q s) :
    KeptA q (execKeeperToBattery s) := by
  unfold execKeeperToBattery
  refine kept_next ?_
  refine kept_ite ?_ ?_
  · refine kept_of ?_
    dsimp -failIfUnchanged only
    refine kept_fields ?_
    exact h
  · exact h

theorem kept_execKeeperToVin {q : List Instr} {s : State} (h : Kept q s) :
    KeptA q (execKeeperToVin s) := by
  unfold execKeeperToVin
  refine kept_next ?_
  refine kept_of ?_
  dsimp -failIfUnchanged only
  refine kept_fields ?_
  exact h

theorem kept_execVbatMeasure {q : List Instr} {mv : Nat} {s : State} (h : Kept q s) :
    KeptA q (execVbatMeasure mv s) := by
  unfold execVbatMeasure
  refine kept_next ?_
  refine kept_ite ?_ ?_
  · exact h
  · refine kept_ite ?_ ?_
    · refine kept_postEvent ?_
      refine kept_of ?_
      dsimp -failIfUnchanged only
      refine kept_fields ?_
      exact h
    · refine kept_of ?_
      dsimp -failIfUnchanged only
      refine kept_fields ?_
      exact h

theorem kept_execKeeperLost {q : List Instr} {s : State} (h : Kept q s) : KeptA q (execKeeperLost s) := by
  unfold execKeeperLost
  refine kept_next (kept_ite ?_ h)
  exact kept_of { kept_fields h with dogs := (by decide : (0x6401 : Word) &&& 0xFFFF00FC = 0) }

theorem kept_execKeeperPowerUp {q : List Instr} {fromVin : Bool} {addrSel : Bool} {s : State} (h : Kept q s) :
    KeptA q (execKeeperPowerUp fromVin addrSel s) := by
  unfold execKeeperPowerUp
  refine kept_next ?_
  refine kept_ite ?_ ?_
  · exact h
  · refine kept_of ?_
    dsimp -failIfUnchanged only
    refine kept_fields ?_
    exact h

theorem kept_execTelemetry {q : List Instr} {f : FoldId} {k : Nat} {s : State} (h : Kept q s) :
    KeptA q (execTelemetry f k s) := by
  unfold execTelemetry
  refine kept_next ?_
  split
  · refine kept_finish ?_
    refine kept_deliver ?_
    refine kept_of ?_
    dsimp -failIfUnchanged only
    refine kept_fields ?_
    exact h
  · exact h

end Sys2Proof.Machine
end

