-- ==== Sys2Proof/Laws/KeptModes.lean ====
section
/-! SUPPORT. Laws/KeptModes.lean: every operation of Machine/Modes.lean keeps the queue, the reserved bits and the canonical lists. -/
namespace Sys2Proof.Machine

theorem kept_beginDrain {q : List Instr} {s : State} {k : Nat} {others : Bool} (h : Kept q s) :
    Kept q (beginDrain s k others) := by
  unfold beginDrain
  dsimp -failIfUnchanged only
  have h0 : Kept q (s.modDesc 0 k fun d => { d with stage := .draining, startedAt := none }) :=
    kept_modDesc h
  have h1 : Kept q (if others = true then s.modDesc 0 k fun d => { d with stage := .draining, startedAt := none }
      else stopSpeculation (s.modDesc 0 k fun d => { d with stage := .draining, startedAt := none })) :=
    kept_ite h0 (kept_stopSpeculation h0)
  exact kept_of (kept_fields h1)

theorem kept_execModeSetVigil {q : List Instr} {k : Nat} {s : State} (h : Kept q s) :
    KeptA q (execModeSetVigil k s) := by
  unfold execModeSetVigil
  refine kept_next ?_
  split
  · refine kept_ite ?_ ?_
    · refine kept_beginDrain ?_
      exact h
    · exact h
  · exact h

theorem kept_execModeSetDoze {q : List Instr} {k : Nat} {s : State} (h : Kept q s) :
    KeptA q (execModeSetDoze k s) := by
  unfold execModeSetDoze
  refine kept_next ?_
  split
  · refine kept_ite ?_ ?_
    · refine kept_beginDrain ?_
      exact h
    · exact h
  · exact h

theorem kept_execModeSetService {q : List Instr} {k : Nat} {s : State} (h : Kept q s) :
    KeptA q (execModeSetService k s) := by
  unfold execModeSetService
  refine kept_next ?_
  split
  · refine kept_ite ?_ ?_
    · exact h
    · refine kept_ite ?_ ?_
      · refine kept_finish ?_
        exact h
      · refine kept_beginDrain ?_
        exact h
  · exact h

theorem kept_enterService {q : List Instr} {s : State} {k : Nat} (h : Kept q s) :
    Kept q (enterService s k) := by
  unfold enterService
  refine kept_finish ?_
  refine kept_broadcast ?_
  refine kept_of ?_
  dsimp -failIfUnchanged only
  refine kept_fields ?_
  refine kept_noteStart ?_
  exact h

theorem kept_exitService {q : List Instr} {s : State} (h : Kept q s) :
    Kept q (exitService s) := by
  unfold exitService
  refine kept_broadcast ?_
  dsimp -failIfUnchanged only
  split
  · refine kept_of ?_
    dsimp -failIfUnchanged only
    first
                    | refine kept_fields ?_
                    | refine kept_fields_put ?_
                    | refine kept_fields_del ?_
                    | refine kept_fields_gov ?_
                    | refine kept_fields_unarmed ?_
                    | refine kept_fields_noTable ?_
                    | refine kept_fields_release ?_
    refine kept_of ?_
    dsimp -failIfUnchanged only
    first
                    | refine kept_fields ?_
                    | refine kept_fields_put ?_
                    | refine kept_fields_del ?_
                    | refine kept_fields_gov ?_
                    | refine kept_fields_unarmed ?_
                    | refine kept_fields_noTable ?_
                    | refine kept_fields_release ?_
    refine kept_ite ?_ ?_
    · refine kept_releaseLock ?_
      refine kept_capEmpty ?_
      exact h
    · refine kept_capEmpty ?_
      exact h
  · refine kept_of ?_
    dsimp -failIfUnchanged only
    first
                    | refine kept_fields ?_
                    | refine kept_fields_put ?_
                    | refine kept_fields_del ?_
                    | refine kept_fields_gov ?_
                    | refine kept_fields_unarmed ?_
                    | refine kept_fields_noTable ?_
                    | refine kept_fields_release ?_
    refine kept_ite ?_ ?_
    · refine kept_releaseLock ?_
      refine kept_capEmpty ?_
      exact h
    · refine kept_capEmpty ?_
      exact h

theorem kept_leaveService {q : List Instr} {s : State} (h : Kept q s) :
    Kept q (leaveService s) := by
  unfold leaveService
  refine kept_ite ?_ ?_
  · refine kept_exitService ?_
    exact h
  · exact h

theorem kept_execModeSetIdle {q : List Instr} {k : Nat} {s : State} (h : Kept q s) :
    KeptA q (execModeSetIdle k s) := by
  unfold execModeSetIdle
  refine kept_next ?_
  split
  · refine kept_ite ?_ ?_
    · exact h
    · refine kept_ite ?_ ?_
      · refine kept_finish ?_
        refine kept_exitService ?_
        exact h
      · refine kept_finish ?_
        exact h
  · exact h

theorem kept_beginSleep {q : List Instr} {s : State} {e : SleepEntry} (h : Kept q s) :
    Kept q (beginSleep s e) := by
  unfold beginSleep
  extract_lets +onlyGivenNames t1
  have ht1 : Kept q t1 := by
    refine kept_stopLoader ?_
    refine kept_stopSled ?_
    refine kept_parkMechanism ?_
    refine kept_leaveService ?_
    exact h
  clear_value t1
  refine kept_of ?_
  dsimp -failIfUnchanged only
  refine kept_fields ?_
  split
  · refine kept_noteStart ?_
    exact ht1
  · exact ht1

theorem kept_motorsOff {q : List Instr} {s : State} (h : Kept q s) :
    Kept q (motorsOff s) := by
  unfold motorsOff
  refine kept_of ?_
  dsimp -failIfUnchanged only
  refine kept_fields ?_
  refine kept_emits ?_
  exact h

theorem kept_sleepFold {q : List Instr} {s : State} {f : FoldId} (h : Kept q s) :
    Kept q (sleepFold s f) := by
  unfold sleepFold
  refine kept_ite ?_ ?_
  · exact h
  · refine kept_statusBlock ?_
    refine kept_modDbp ?_
    exact h

theorem kept_sleepAll {q : List Instr} {s : State} (h : Kept q s) :
    Kept q (sleepAll s) := by
  unfold sleepAll
  refine kept_foldl (fun t0 _ ht0 => ?_) _ ?_
  · refine kept_sleepFold ?_
    exact ht0
  · exact h

theorem kept_retain {q : List Instr} {s : State} (h : Kept q s) :
    Kept q (retain s) := by
  unfold retain
  refine kept_of ?_
  dsimp -failIfUnchanged only
  refine kept_fields ?_
  refine kept_cacheDoze ?_
  refine kept_of ?_
  dsimp -failIfUnchanged only
  refine kept_fields ?_
  exact h

theorem kept_enterDoze {q : List Instr} {s : State} {k : Option Nat} (h : Kept q s) :
    Kept q (enterDoze s k) := by
  unfold enterDoze
  extract_lets +onlyGivenNames t2
  have ht2 : Kept q t2 := by
    refine kept_sleepAll ?_
    refine kept_motorsOff ?_
    exact h
  clear_value t2
  refine kept_retain ?_
  split
  · refine kept_completionPost ?_
    refine kept_finish ?_
    exact ht2
  · exact ht2

theorem kept_commitSlots {q : List Instr} {s : State} (h : Kept q s) :
    Kept q (commitSlots s) := by
  unfold commitSlots
  refine kept_foldl (fun t0 _ ht0 => ?_) _ ?_
  · refine kept_ite ?_ ?_
    · exact ht0
    · refine kept_commitNow ?_
      exact ht0
  · exact h

theorem kept_modeVigil {q : List Instr} {s : State} {k : Nat} (h : Kept q s) :
    Kept q (modeVigil s k) := by
  unfold modeVigil
  extract_lets +onlyGivenNames t3
  have ht3 : Kept q t3 := by
    refine kept_sleepAll ?_
    refine kept_motorsOff ?_
    exact h
  clear_value t3
  extract_lets +onlyGivenNames t4
  have ht4 : Kept q t4 := by
    refine kept_commitLedger ?_
    refine kept_finishInProgress ?_
    exact ht3
  clear_value t4
  extract_lets +onlyGivenNames t5
  have ht5 : Kept q t5 := by
    refine kept_commitSlots ?_
    refine kept_deleteSlots ?_
    refine kept_commitMirror ?_
    exact ht4
  clear_value t5
  extract_lets +onlyGivenNames t7
  have ht7 : Kept q t7 := by
    refine kept_enterVigil ?_
    refine kept_completionPost ?_
    refine kept_finish ?_
    exact ht5
  clear_value t7
  refine kept_of ?_
  dsimp -failIfUnchanged only
  refine kept_fields ?_
  exact ht7

theorem kept_sleepOn {q : List Instr} {s : State} (h : Kept q s) :
    Kept q (sleepOn s) := by
  unfold sleepOn
  split
  · exact h
  · refine kept_ite ?_ ?_
    · exact h
    · split
      · refine kept_modeVigil ?_
        exact h
      · refine kept_enterDoze ?_
        exact h

theorem kept_startSleep {q : List Instr} {s : State} {e : SleepEntry} (h : Kept q s) :
    Kept q (startSleep s e) := by
  unfold startSleep
  refine kept_sleepOn ?_
  refine kept_beginSleep ?_
  exact h

theorem kept_tryActs {q : List Instr} {s : State} {k : Nat} (h : Kept q s) :
    Kept q (tryActs s k) := by
  unfold tryActs
  refine kept_requestRecord ?_
  refine kept_modDesc ?_
  refine kept_noteStart ?_
  exact h

theorem kept_execDrainComplete {q : List Instr} {s : State} (h : Kept q s) :
    KeptA q (execDrainComplete s) := by
  unfold execDrainComplete
  refine kept_next ?_
  split
  · exact h
  · exact h
  · refine kept_ite ?_ ?_
    · refine kept_ite ?_ ?_
      · refine kept_enterService ?_
        exact h
      · exact h
    · refine kept_ite ?_ ?_
      · exact h
      · refine kept_ite ?_ ?_
        · refine kept_tryActs ?_
          exact h
        · refine kept_startSleep ?_
          exact h

theorem kept_execPark {q : List Instr} {s : State} (h : Kept q s) :
    KeptA q (execPark s) := by
  unfold execPark
  refine kept_next ?_
  refine kept_ite ?_ ?_
  · refine kept_parkMechanism ?_
    exact h
  · exact h

theorem kept_execAutoDoze {q : List Instr} {s : State} (h : Kept q s) :
    KeptA q (execAutoDoze s) := by
  unfold execAutoDoze
  extract_lets +onlyGivenNames x6
  refine kept_next ?_
  refine kept_ite ?_ ?_
  · refine kept_startSleep ?_
    refine kept_of ?_
    dsimp -failIfUnchanged only
    refine kept_fields ?_
    exact h
  · exact h

theorem kept_wakeDoze {q : List Instr} {s : State} (h : Kept q s) :
    Kept q (wakeDoze s) := by
  unfold wakeDoze
  refine kept_flushMirror ?_
  refine kept_of ?_
  dsimp -failIfUnchanged only
  refine kept_fields ?_
  refine kept_cacheWake ?_
  exact h

theorem kept_wake {q : List Instr} {s : State} (h : Kept q s) :
    Kept q (wake s) := by
  unfold wake
  split
  · refine kept_wakeDoze ?_
    exact h
  · refine kept_ite ?_ ?_
    · exact h
    · refine kept_ite ?_ ?_
      · refine kept_of ?_
        dsimp -failIfUnchanged only
        refine kept_fields ?_
        exact h
      · refine kept_of ?_
        dsimp -failIfUnchanged only
        refine kept_fields ?_
        exact h
  · exact h

theorem kept_sleepTick {q : List Instr} {s : State} (h : Kept q s) :
    Kept q (sleepTick s) := by
  unfold sleepTick
  split
  · exact h
  · extract_lets +onlyGivenNames t8
    have ht8 : Kept q t8 := by
      refine kept_sleepOn ?_
      exact h
    clear_value t8
    refine kept_ite ?_ ?_
    · refine kept_foldl (fun t10 _ ht10 => ?_) _ ?_
      · refine kept_wakeFold ?_
        exact ht10
      · refine kept_wake ?_
        exact ht8
    · exact ht8

theorem kept_trayWake {q : List Instr} {s : State} (h : Kept q s) :
    Kept q (trayWake s) := by
  unfold trayWake
  refine kept_ite ?_ ?_
  · refine kept_wake ?_
    exact h
  · exact h

theorem kept_execSbWake {q : List Instr} {target : Nat} {v : Byte} {s : State} (h : Kept q s) :
    KeptA q (execSbWake target v s) := by
  unfold execSbWake
  refine kept_next ?_
  refine kept_ite ?_ ?_
  · exact h
  · refine kept_ite ?_ ?_
    · refine kept_wake ?_
      exact h
    · refine kept_sbIgnore ?_
      exact h

theorem kept_execPcieRequestWake {q : List Instr} {f : FoldId} {s : State} (h : Kept q s) :
    KeptA q (execPcieRequestWake f s) := by
  unfold execPcieRequestWake
  refine kept_next ?_
  refine kept_ite ?_ ?_
  · refine kept_wake ?_
    exact h
  · exact h

theorem kept_execDbpWake {q : List Instr} {f : FoldId} {s : State} (h : Kept q s) :
    KeptA q (execDbpWake f s) := by
  unfold execDbpWake
  refine kept_next ?_
  split
  · refine kept_ite ?_ ?_
    · refine kept_onBar ?_ h
      intro t8 ht8
      refine kept_wakeFold ?_
      exact ht8
    · refine kept_ite ?_ ?_
      · refine kept_of ?_
        dsimp -failIfUnchanged only
        refine kept_fields ?_
        exact h
      · exact h
  · refine kept_onBar ?_ ?_
    · intro t9 ht9
      refine kept_wakeFold ?_
      exact ht9
    · refine kept_ite ?_ ?_
      · refine kept_wakeDoze ?_
        exact h
      · exact h

theorem kept_execFwDownload {q : List Instr} {k : Nat} {image : List Byte} {s : State} (h : Kept q s) :
    KeptA q (execFwDownload k image s) := by
  unfold execFwDownload
  refine kept_next ?_
  split
  · exact h
  · refine kept_ite ?_ ?_
    · refine kept_finish ?_
      exact h
    · refine kept_ite ?_ ?_
      · refine kept_requestRecord ?_
        refine kept_modDesc ?_
        exact h
      · refine kept_finish ?_
        refine kept_programImage ?_
        exact h

theorem kept_execFwActivateTry {q : List Instr} {k : Nat} {s : State} (h : Kept q s) :
    KeptA q (execFwActivateTry k s) := by
  unfold execFwActivateTry
  refine kept_next ?_
  split
  · exact h
  · refine kept_ite ?_ ?_
    · exact h
    · refine kept_ite ?_ ?_
      · refine kept_finish ?_
        exact h
      · refine kept_beginDrain ?_
        exact h

theorem kept_execFwActivateConfirm {q : List Instr} {k : Nat} {s : State} (h : Kept q s) :
    KeptA q (execFwActivateConfirm k s) := by
  unfold execFwActivateConfirm
  refine kept_next ?_
  split
  · exact h
  · refine kept_ite ?_ ?_
    · exact h
    · split
      · refine kept_finish ?_
        exact h
      · refine kept_requestRecord ?_
        refine kept_modDesc ?_
        exact h

theorem kept_execCalibrate {q : List Instr} {k : Nat} {meas : CalMeas} {s : State} (h : Kept q s) :
    KeptA q (execCalibrate k meas s) := by
  unfold execCalibrate
  refine kept_next ?_
  split
  · exact h
  · refine kept_ite ?_ ?_
    · refine kept_finish ?_
      exact h
    · refine kept_ite ?_ ?_
      · refine kept_finish ?_
        refine kept_deliver ?_
        exact h
      · refine kept_requestRecord ?_
        refine kept_modDesc ?_
        refine kept_deliver ?_
        exact h

end Sys2Proof.Machine
end

