-- ==== Sys2Proof/Laws/KeptLoader.lean ====
section
/-! SUPPORT. Laws/KeptLoader.lean: every operation of Machine/Loader.lean keeps the queue, the reserved bits and the canonical lists. -/
namespace Sys2Proof.Machine

theorem kept_settleTray {q : List Instr} {s : State} (h : Kept q s) :
    Kept q (settleTray s) := by
  unfold settleTray
  refine kept_of ?_
  dsimp -failIfUnchanged only
  refine kept_fields ?_
  exact h

theorem kept_closeTray {q : List Instr} {s : State} (h : Kept q s) :
    Kept q (closeTray s) := by
  unfold closeTray
  refine kept_settleTray ?_
  refine kept_emit ?_
  refine kept_of ?_
  dsimp -failIfUnchanged only
  refine kept_fields ?_
  exact h

theorem kept_stopTray {q : List Instr} {s : State} (h : Kept q s) :
    Kept q (stopTray s) := by
  unfold stopTray
  refine kept_settleTray ?_
  refine kept_emit ?_
  refine kept_of ?_
  dsimp -failIfUnchanged only
  refine kept_fields ?_
  exact h

theorem kept_beginEject {q : List Instr} {s : State} (h : Kept q s) :
    Kept q (beginEject s) := by
  unfold beginEject
  refine kept_ite ?_ ?_
  · refine kept_settleTray ?_
    refine kept_openTray ?_
    refine kept_of ?_
    dsimp -failIfUnchanged only
    refine kept_fields ?_
    refine kept_brakeSpindle ?_
    refine kept_openLoops ?_
    refine kept_dropLaser ?_
    exact h
  · refine kept_of ?_
    dsimp -failIfUnchanged only
    refine kept_fields ?_
    refine kept_brakeSpindle ?_
    refine kept_openLoops ?_
    refine kept_dropLaser ?_
    exact h

theorem kept_identified {q : List Instr} {s : State} {d : DiscInfo} (h : Kept q s) :
    Kept q (identified s d) := by
  unfold identified
  refine kept_broadcast ?_
  refine kept_of ?_
  dsimp -failIfUnchanged only
  refine kept_fields ?_
  exact h

theorem kept_nothingFound {q : List Instr} {s : State} (h : Kept q s) :
    Kept q (nothingFound s) := by
  unfold nothingFound
  refine kept_of ?_
  dsimp -failIfUnchanged only
  refine kept_fields ?_
  exact h

theorem kept_homeFirst {q : List Instr} {s : State} (h : Kept q s) :
    Kept q (homeFirst s) := by
  unfold homeFirst
  refine kept_ite ?_ ?_
  · refine kept_beginHoming ?_
    exact h
  · exact h

theorem kept_identifyJob {q : List Instr} {s : State} {found : Option DiscInfo} (h : Kept q s) :
    Kept q (identifyJob s found) := by
  unfold identifyJob
  split
  · refine kept_endJob ?_
    refine kept_identified ?_
    exact h
  · refine kept_endJob ?_
    refine kept_nothingFound ?_
    exact h

theorem kept_execIdentifyDisc {q : List Instr} {f : FoldId} {k : Nat} {found : Option DiscInfo} {s : State} (h : Kept q s) :
    KeptA q (execIdentifyDisc f k found s) := by
  unfold execIdentifyDisc
  refine kept_next ?_
  split
  · split
    · refine kept_finish ?_
      refine kept_deliver ?_
      exact h
    · refine kept_finish ?_
      exact h
  · split
    · refine kept_endJob ?_
      refine kept_deliver ?_
      exact h
    · refine kept_ite ?_ ?_
      · exact h
      · refine kept_ite ?_ ?_
        · refine kept_homeFirst ?_
          exact h
        · split
          · refine kept_endJob ?_
            refine kept_deliver ?_
            refine kept_identified ?_
            exact h
          · refine kept_endJob ?_
            refine kept_nothingFound ?_
            exact h
  · exact h

theorem kept_execLoad {q : List Instr} {f : FoldId} {k : Nat} {found : Option DiscInfo} {s : State} (h : Kept q s) :
    KeptA q (execLoad f k found s) := by
  unfold execLoad
  refine kept_next ?_
  split
  · exact h
  · refine kept_ite ?_ ?_
    · exact h
    · refine kept_ite ?_ ?_
      · refine kept_endJob ?_
        exact h
      · refine kept_ite ?_ ?_
        · refine kept_motionFault ?_
          exact h
        · refine kept_ite ?_ ?_
          · refine kept_ite ?_ ?_
            · refine kept_endJob ?_
              exact h
            · refine kept_ite ?_ ?_
              · exact h
              · refine kept_ite ?_ ?_
                · refine kept_homeFirst ?_
                  exact h
                · refine kept_identifyJob ?_
                  exact h
          · refine kept_ite ?_ ?_
            · refine kept_endJob ?_
              exact h
            · refine kept_ite ?_ ?_
              · refine kept_closeTray ?_
                exact h
              · exact h

theorem kept_execEject {q : List Instr} {f : FoldId} {k : Nat} {s : State} (h : Kept q s) :
    KeptA q (execEject f k s) := by
  unfold execEject
  refine kept_next ?_
  split
  · exact h
  · refine kept_ite ?_ ?_
    · exact h
    · refine kept_ite ?_ ?_
      · refine kept_endJob ?_
        exact h
      · refine kept_ite ?_ ?_
        · refine kept_motionFault ?_
          exact h
        · refine kept_ite ?_ ?_
          · refine kept_endJob ?_
            exact h
          · refine kept_ite ?_ ?_
            · refine kept_beginEject ?_
              exact h
            · exact h

theorem kept_ejectDone {q : List Instr} {s : State} (h : Kept q s) :
    Kept q (ejectDone s) := by
  unfold ejectDone
  refine kept_ite ?_ ?_
  · refine kept_endJob ?_
    exact h
  · exact h

theorem kept_endPinned {q : List Instr} {s : State} (h : Kept q s) :
    Kept q (endPinned s) := by
  unfold endPinned
  extract_lets +onlyGivenNames x1
  refine kept_foldl (fun t3 _ ht3 => ?_) _ ?_
  · refine kept_foldl (fun t4 _ ht4 => ?_) _ ?_
    · refine kept_finish ?_
      refine kept_modDesc ?_
      exact ht4
    · exact ht3
  · exact h

theorem kept_discGone {q : List Instr} {s : State} (h : Kept q s) :
    Kept q (discGone s) := by
  unfold discGone
  refine kept_broadcast ?_
  refine kept_of ?_
  dsimp -failIfUnchanged only
  refine kept_fields ?_
  refine kept_penEmptyAll ?_
  refine kept_endPinned ?_
  split
  · refine kept_ite ?_ ?_
    · exact h
    · refine kept_stopJob ?_
      exact h
  · split
    · refine kept_ite ?_ ?_
      · exact h
      · refine kept_of ?_
        dsimp -failIfUnchanged only
        refine kept_fields ?_
        exact h
    · exact h

theorem kept_trayClosed {q : List Instr} {s : State} {found : Option DiscInfo} (h : Kept q s) :
    Kept q (trayClosed s found) := by
  unfold trayClosed
  extract_lets +onlyGivenNames x5
  extract_lets +onlyGivenNames x6
  extract_lets +onlyGivenNames t7
  have ht7 : Kept q t7 := by
    refine kept_ite ?_ ?_
    · refine kept_stopTray ?_
      exact h
    · refine kept_settleTray ?_
      exact h
  clear_value t7
  refine kept_ite ?_ ?_
  · refine kept_of ?_
    dsimp -failIfUnchanged only
    refine kept_fields ?_
    exact ht7
  · refine kept_ite ?_ ?_
    · refine kept_of ?_
      dsimp -failIfUnchanged only
      refine kept_fields ?_
      exact ht7
    · refine kept_ite ?_ ?_
      · refine kept_homeFirst ?_
        refine kept_of ?_
        dsimp -failIfUnchanged only
        refine kept_fields ?_
        exact ht7
      · split
        · refine kept_identifyJob ?_
          refine kept_of ?_
          dsimp -failIfUnchanged only
          refine kept_fields ?_
          exact ht7
        · split
          · refine kept_identified ?_
            refine kept_of ?_
            dsimp -failIfUnchanged only
            refine kept_fields ?_
            exact ht7
          · refine kept_nothingFound ?_
            refine kept_of ?_
            dsimp -failIfUnchanged only
            refine kept_fields ?_
            exact ht7

theorem kept_trayLeft {q : List Instr} {s : State} (h : Kept q s) :
    Kept q (trayLeft s) := by
  unfold trayLeft
  extract_lets +onlyGivenNames t8
  have ht8 : Kept q t8 := by
    refine kept_settleTray ?_
    refine kept_discGone ?_
    exact h
  clear_value t8
  split
  · refine kept_ejectDone ?_
    exact ht8
  · refine kept_ejectDone ?_
    refine kept_of ?_
    dsimp -failIfUnchanged only
    refine kept_fields ?_
    exact ht8
  · exact ht8

theorem kept_execTrayInNChange {q : List Instr} {asserted : Bool} {found : Option DiscInfo} {s : State} (h : Kept q s) :
    KeptA q (execTrayInNChange asserted found s) := by
  unfold execTrayInNChange
  refine kept_next ?_
  refine kept_ite ?_ ?_
  · refine kept_ite ?_ ?_
    · refine kept_of ?_
      dsimp -failIfUnchanged only
      refine kept_fields ?_
      refine kept_settleTray ?_
      refine kept_of ?_
      dsimp -failIfUnchanged only
      refine kept_fields ?_
      refine kept_trayWake ?_
      exact h
    · refine kept_ite ?_ ?_
      · refine kept_trayClosed ?_
        refine kept_settleTray ?_
        refine kept_of ?_
        dsimp -failIfUnchanged only
        refine kept_fields ?_
        refine kept_trayWake ?_
        exact h
      · refine kept_trayLeft ?_
        refine kept_settleTray ?_
        refine kept_of ?_
        dsimp -failIfUnchanged only
        refine kept_fields ?_
        refine kept_trayWake ?_
        exact h
  · refine kept_ite ?_ ?_
    · refine kept_trayClosed ?_
      exact h
    · exact h

theorem kept_closePushed {q : List Instr} {s : State} (h : Kept q s) :
    Kept q (closePushed s) := by
  unfold closePushed
  refine kept_ite ?_ ?_
  · refine kept_closeTray ?_
    exact h
  · exact h

theorem kept_execTrayOutNChange {q : List Instr} {asserted : Bool} {s : State} (h : Kept q s) :
    KeptA q (execTrayOutNChange asserted s) := by
  unfold execTrayOutNChange
  refine kept_next ?_
  refine kept_ite ?_ ?_
  · exact h
  · refine kept_ite ?_ ?_
    · refine kept_settleTray ?_
      refine kept_of ?_
      dsimp -failIfUnchanged only
      refine kept_fields ?_
      refine kept_trayWake ?_
      exact h
    · dsimp -failIfUnchanged only
      split
      · refine kept_ejectDone ?_
        refine kept_settleTray ?_
        refine kept_of ?_
        dsimp -failIfUnchanged only
        refine kept_fields ?_
        refine kept_settleTray ?_
        refine kept_of ?_
        dsimp -failIfUnchanged only
        refine kept_fields ?_
        refine kept_trayWake ?_
        exact h
      · refine kept_ite ?_ ?_
        · refine kept_closeTray ?_
          refine kept_settleTray ?_
          refine kept_of ?_
          dsimp -failIfUnchanged only
          refine kept_fields ?_
          refine kept_trayWake ?_
          exact h
        · refine kept_settleTray ?_
          refine kept_of ?_
          dsimp -failIfUnchanged only
          refine kept_fields ?_
          refine kept_trayWake ?_
          exact h

theorem kept_execLoaderJam {q : List Instr} {s : State} (h : Kept q s) :
    KeptA q (execLoaderJam s) := by
  unfold execLoaderJam
  refine kept_next ?_
  dsimp -failIfUnchanged only
  split
  · refine kept_ite ?_ ?_
    · refine kept_settleTray ?_
      refine kept_motionFault ?_
      exact h
    · exact h
  · refine kept_ite ?_ ?_
    · refine kept_settleTray ?_
      refine kept_motionFault ?_
      exact h
    · exact h
  · exact h

theorem kept_execSolenoidPulseEnd {q : List Instr} {s : State} (h : Kept q s) :
    KeptA q (execSolenoidPulseEnd s) := by
  unfold execSolenoidPulseEnd
  refine kept_next ?_
  split
  · refine kept_ite ?_ ?_
    · exact h
    · refine kept_ite ?_ ?_
      · refine kept_ejectDone ?_
        refine kept_emit ?_
        refine kept_of ?_
        dsimp -failIfUnchanged only
        refine kept_fields ?_
        exact h
      · refine kept_emit ?_
        refine kept_of ?_
        dsimp -failIfUnchanged only
        refine kept_fields ?_
        exact h
  · exact h

theorem kept_execSolenoidTimeout {q : List Instr} {s : State} (h : Kept q s) :
    KeptA q (execSolenoidTimeout s) := by
  unfold execSolenoidTimeout
  refine kept_next ?_
  split
  · refine kept_ite ?_ ?_
    · refine kept_motionFault ?_
      exact h
    · exact h
  · exact h

theorem kept_execEjectButton {q : List Instr} {s : State} (h : Kept q s) :
    KeptA q (execEjectButton s) := by
  unfold execEjectButton
  refine kept_next ?_
  refine kept_ite ?_ ?_
  · exact h
  · dsimp -failIfUnchanged only
    split
    · refine kept_postEvent ?_
      refine kept_trayWake ?_
      exact h
    · refine kept_ite ?_ ?_
      · refine kept_trayWake ?_
        exact h
      · refine kept_of ?_
        dsimp -failIfUnchanged only
        refine kept_fields ?_
        refine kept_trayWake ?_
        exact h

theorem kept_buttonEject {q : List Instr} {s : State} (h : Kept q s) :
    Kept q (buttonEject s) := by
  unfold buttonEject
  refine kept_ite ?_ ?_
  · exact h
  · extract_lets +onlyGivenNames t11
    have ht11 : Kept q t11 := by
      refine kept_stopSpeculation ?_
      exact h
    clear_value t11
    refine kept_ite ?_ ?_
    · refine kept_of ?_
      dsimp -failIfUnchanged only
      refine kept_fields ?_
      exact ht11
    · refine kept_ite ?_ ?_
      · refine kept_motionFault ?_
        refine kept_of ?_
        dsimp -failIfUnchanged only
        refine kept_fields ?_
        exact ht11
      · refine kept_beginEject ?_
        refine kept_of ?_
        dsimp -failIfUnchanged only
        refine kept_fields ?_
        exact ht11

end Sys2Proof.Machine
end

