-- ==== Sys2Proof/Laws/KeptDataOps.lean ====
section
/-! SUPPORT. Laws/KeptDataOps.lean: every operation of Machine/DataOps.lean keeps the queue, the reserved bits and the canonical lists. -/
namespace Sys2Proof.Machine

theorem kept_execNop {q : List Instr} {f : FoldId} {k : Nat} {s : State} (h : Kept q s) :
    KeptA q (execNop f k s) := by
  unfold execNop
  refine kept_next ?_
  split
  · refine kept_finish ?_
    exact h
  · exact h

theorem kept_execLockMedium {q : List Instr} {f : FoldId} {k : Nat} {s : State} (h : Kept q s) :
    KeptA q (execLockMedium f k s) := by
  unfold execLockMedium
  refine kept_next ?_
  split
  · refine kept_ite ?_ ?_
    · exact h
    · refine kept_ite ?_ ?_
      · refine kept_finish ?_
        exact h
      · refine kept_finish ?_
        refine kept_modFold ?_
        exact h
  · exact h

theorem kept_execUnlockMedium {q : List Instr} {f : FoldId} {k : Nat} {s : State} (h : Kept q s) :
    KeptA q (execUnlockMedium f k s) := by
  unfold execUnlockMedium
  refine kept_next ?_
  split
  · refine kept_ite ?_ ?_
    · exact h
    · refine kept_ite ?_ ?_
      · refine kept_finish ?_
        refine kept_modFold ?_
        exact h
      · refine kept_finish ?_
        exact h
  · exact h

theorem kept_execSpin {q : List Instr} {f : FoldId} {k : Nat} {s : State} (h : Kept q s) :
    KeptA q (execSpin f k s) := by
  unfold execSpin
  refine kept_next ?_
  split
  · refine kept_endJob ?_
    refine kept_of ?_
    dsimp -failIfUnchanged only
    refine kept_fields ?_
    refine kept_of ?_
    dsimp -failIfUnchanged only
    refine kept_fields ?_
    refine kept_modFold ?_
    exact h
  · exact h

theorem kept_execSeekHint {q : List Instr} {f : FoldId} {k : Nat} {s : State} (h : Kept q s) :
    KeptA q (execSeekHint f k s) := by
  unfold execSeekHint
  refine kept_next ?_
  split
  · refine kept_finish ?_
    refine kept_ite ?_ ?_
    · refine kept_streamUpdate ?_
      exact h
    · exact h
  · exact h

theorem kept_recordStructure {q : List Instr} {s : State} {outs : List Out} (h : Kept q s) :
    Kept q (recordStructure s outs) := by
  unfold recordStructure
  extract_lets +onlyGivenNames t1
  have ht1 : Kept q t1 := by
    refine kept_emits ?_
    exact h
  clear_value t1
  refine kept_of ?_
  dsimp -failIfUnchanged only
  refine kept_fields ?_
  exact ht1

theorem kept_closeRun {q : List Instr} {s : State} {f : FoldId} {k : Nat} {what : Nat} (h : Kept q s) :
    Kept q (closeRun s f k what) := by
  unfold closeRun
  split
  · refine kept_ite ?_ ?_
    · exact h
    · extract_lets +onlyGivenNames x1
      split
      · refine kept_endJob ?_
        exact h
      · refine kept_ite ?_ ?_
        · exact h
        · refine kept_endJob ?_
          refine kept_recordStructure ?_
          refine kept_of ?_
          dsimp -failIfUnchanged only
          refine kept_fields ?_
          exact h
  · exact h

theorem kept_execCloseTrack {q : List Instr} {f : FoldId} {k : Nat} {s : State} (h : Kept q s) :
    KeptA q (execCloseTrack f k s) := by
  unfold execCloseTrack
  refine kept_next ?_
  refine kept_closeRun ?_
  exact h

theorem kept_execCloseSession {q : List Instr} {f : FoldId} {k : Nat} {s : State} (h : Kept q s) :
    KeptA q (execCloseSession f k s) := by
  unfold execCloseSession
  refine kept_next ?_
  refine kept_closeRun ?_
  exact h

theorem kept_execFinalise {q : List Instr} {f : FoldId} {k : Nat} {s : State} (h : Kept q s) :
    KeptA q (execFinalise f k s) := by
  unfold execFinalise
  refine kept_next ?_
  refine kept_closeRun ?_
  exact h

theorem kept_formatRun {q : List Instr} {s : State} {f : FoldId} {k : Nat} {form : Nat} {failing : List (Nat × List Readback)} (h : Kept q s) :
    Kept q (formatRun s f k form failing) := by
  unfold formatRun
  split
  · refine kept_ite ?_ ?_
    · exact h
    · refine kept_ite ?_ ?_
      · refine kept_endJob ?_
        exact h
      · refine kept_ite ?_ ?_
        · exact h
        · extract_lets +onlyGivenNames t2
          have ht2 : Kept q t2 := by
            refine kept_recordStructure ?_
            exact h
          clear_value t2
          refine kept_ite ?_ ?_
          · refine kept_stopJob ?_
            refine kept_of ?_
            dsimp -failIfUnchanged only
            refine kept_fields ?_
            exact ht2
          · split
            extract_lets +onlyGivenNames t4
            have ht4 : Kept q t4 := by
              refine kept_modJob ?_
              exact ht2
            clear_value t4
            split
            · refine kept_stopJob ?_
              refine kept_of ?_
              dsimp -failIfUnchanged only
              refine kept_fields ?_
              exact ht4
            · refine kept_stopJob ?_
              refine kept_of ?_
              dsimp -failIfUnchanged only
              refine kept_fields ?_
              exact ht4
  · exact h

theorem kept_execFormatQuick {q : List Instr} {f : FoldId} {k : Nat} {s : State} (h : Kept q s) :
    KeptA q (execFormatQuick f k s) := by
  unfold execFormatQuick
  refine kept_next ?_
  refine kept_formatRun ?_
  exact h

theorem kept_execFormatFull {q : List Instr} {f : FoldId} {k : Nat} {s : State} (h : Kept q s) :
    KeptA q (execFormatFull f k s) := by
  unfold execFormatFull
  refine kept_next ?_
  refine kept_formatRun ?_
  exact h

theorem kept_execFormatFullCertify {q : List Instr} {f : FoldId} {k : Nat} {failing : List (Nat × List Readback)}
    {s : State} (h : Kept q s) :
    KeptA q (execFormatFullCertify f k failing s) := by
  unfold execFormatFullCertify
  refine kept_next ?_
  refine kept_formatRun ?_
  exact h

theorem kept_reserveRun {q : List Instr} {s : State} {f : FoldId} {k : Nat} (h : Kept q s) :
    Kept q (reserveRun s f k) := by
  unfold reserveRun
  split
  · split
    · refine kept_endJob ?_
      exact h
    · refine kept_ite ?_ ?_
      · exact h
      · extract_lets +onlyGivenNames t3
        have ht3 : Kept q t3 := by
          refine kept_recordStructure ?_
          refine kept_of ?_
          dsimp -failIfUnchanged only
          refine kept_fields ?_
          exact h
        clear_value t3
        refine kept_endJob ?_
        refine kept_setAux ?_
        exact ht3
  · exact h

theorem kept_execReserveTrack {q : List Instr} {f : FoldId} {k : Nat} {s : State} (h : Kept q s) :
    KeptA q (execReserveTrack f k s) := by
  unfold execReserveTrack
  refine kept_next ?_
  refine kept_reserveRun ?_
  exact h

end Sys2Proof.Machine
end

