-- ==== Sys2Proof/Laws/KeptProfiles.lean ====
section
/-! SUPPORT. Laws/KeptProfiles.lean: every operation of Machine/Profiles.lean keeps the queue, the reserved bits and the canonical lists. -/
namespace Sys2Proof.Machine

theorem kept_profileRun {q : List Instr} {s : State} {k : Nat} {ty : Nat} {len : Nat} {payload : List Byte}
    {ok : List Byte → Bool} {eff : List Byte → State} (heff : ∀ (y0 : List Byte), Kept q (eff y0)) (h : Kept q s) :
    Kept q (profileRun s k ty len payload ok eff) := by
  unfold profileRun
  split
  · refine kept_ite ?_ ?_
    · exact h
    · refine kept_ite ?_ ?_
      · refine kept_finish ?_
        exact heff _
      · refine kept_finish ?_
        exact h
  · exact h

theorem kept_tableDefault {q : List Instr} {s : State} (h : Kept q s) :
    Kept q (tableDefault s) := by
  unfold tableDefault
  refine kept_ite ?_ ?_
  · refine kept_takeTable ?_
    refine kept_of ?_
    dsimp -failIfUnchanged only
    refine kept_fields ?_
    exact h
  · refine kept_of ?_
    dsimp -failIfUnchanged only
    refine kept_fields ?_
    exact h

theorem kept_profilesDefault {q : List Instr} {s : State} (h : Kept q s) :
    Kept q (profilesDefault s) := by
  unfold profilesDefault
  refine kept_tableDefault ?_
  refine kept_of ?_
  dsimp -failIfUnchanged only
  refine kept_fields ?_
  exact h

theorem kept_execLoopRate {q : List Instr} {k : Nat} {payload : List Byte} {s : State} (h : Kept q s) :
    KeptA q (execLoopRate k payload s) := by
  unfold execLoopRate
  refine kept_next ?_
  refine kept_profileRun (fun p0 => ?_) ?_
  · refine kept_askResync ?_
    refine kept_of ?_
    dsimp -failIfUnchanged only
    refine kept_fields ?_
    refine kept_profilesDefault ?_
    exact h
  · exact h

theorem kept_storeBanks {q : List Instr} {s : State} {p : List Byte} (h : Kept q s) :
    Kept q (storeBanks s p) := by
  unfold storeBanks
  refine kept_of ?_
  dsimp -failIfUnchanged only
  refine kept_fields ?_
  exact h

theorem kept_beginBankWrite {q : List Instr} {s : State} {k : Nat} {p : List Byte} (h : Kept q s) :
    Kept q (beginBankWrite s k p) := by
  unfold beginBankWrite
  extract_lets +onlyGivenNames t1
  have ht1 : Kept q t1 := by
    refine kept_modDesc ?_
    exact h
  clear_value t1
  refine kept_of ?_
  dsimp -failIfUnchanged only
  refine kept_fields ?_
  exact ht1

theorem kept_execLoopBank {q : List Instr} {k : Nat} {payload : List Byte} {s : State} (h : Kept q s) :
    KeptA q (execLoopBank k payload s) := by
  unfold execLoopBank
  extract_lets +onlyGivenNames x1
  refine kept_next ?_
  split
  · refine kept_ite ?_ ?_
    · exact h
    · refine kept_ite ?_ ?_
      · refine kept_finish ?_
        exact h
      · refine kept_ite ?_ ?_
        · refine kept_beginBankWrite ?_
          refine kept_storeBanks ?_
          exact h
        · refine kept_finish ?_
          refine kept_storeBanks ?_
          exact h
  · exact h

theorem kept_execBankSwap {q : List Instr} {k : Nat} {payload : List Byte} {s : State} (h : Kept q s) :
    KeptA q (execBankSwap k payload s) := by
  unfold execBankSwap
  refine kept_next ?_
  dsimp -failIfUnchanged only
  split
  · refine kept_ite ?_ ?_
    · exact h
    · refine kept_ite ?_ ?_
      · refine kept_finish ?_
        exact h
      · refine kept_of ?_
        dsimp -failIfUnchanged only
        refine kept_fields ?_
        refine kept_modDesc ?_
        exact h
  · exact h

theorem kept_useProfile {q : List Instr} {s : State} {cls : Nat} (h : Kept q s) :
    Kept q (useProfile s cls) := by
  unfold useProfile
  refine kept_ite ?_ ?_
  · refine kept_of ?_
    dsimp -failIfUnchanged only
    refine kept_fields ?_
    exact h
  · exact h

theorem kept_execSignal {q : List Instr} {k : Nat} {payload : List Byte} {s : State} (h : Kept q s) :
    KeptA q (execSignal k payload s) := by
  unfold execSignal
  refine kept_next ?_
  refine kept_profileRun ?_ ?_
  · intro x1
    extract_lets +onlyGivenNames x4
    refine kept_useProfile ?_
    refine kept_of ?_
    dsimp -failIfUnchanged only
    refine kept_fields ?_
    exact h
  · exact h

theorem kept_execSequence {q : List Instr} {k : Nat} {payload : List Byte} {s : State} (h : Kept q s) :
    KeptA q (execSequence k payload s) := by
  unfold execSequence
  refine kept_next ?_
  refine kept_profileRun ?_ ?_
  · intro x2
    refine kept_useProfile ?_
    refine kept_of ?_
    dsimp -failIfUnchanged only
    refine kept_fields ?_
    exact h
  · exact h

theorem kept_execServoResync {q : List Instr} {k : Nat} {payload : List Byte} {s : State} (h : Kept q s) :
    KeptA q (execServoResync k payload s) := by
  unfold execServoResync
  refine kept_next ?_
  refine kept_profileRun (fun x0 => ?_) ?_
  · refine kept_askResync ?_
    exact h
  · exact h

theorem kept_execApc {q : List Instr} {k : Nat} {payload : List Byte} {s : State} (h : Kept q s) :
    KeptA q (execApc k payload s) := by
  unfold execApc
  refine kept_next ?_
  refine kept_profileRun ?_ ?_
  · intro x3
    refine kept_limitApc ?_
    refine kept_of ?_
    dsimp -failIfUnchanged only
    refine kept_fields ?_
    exact h
  · exact h

theorem kept_execSpindle {q : List Instr} {k : Nat} {payload : List Byte} {s : State} (h : Kept q s) :
    KeptA q (execSpindle k payload s) := by
  unfold execSpindle
  refine kept_next ?_
  refine kept_profileRun (fun p0 => ?_) ?_
  · refine kept_of ?_
    dsimp -failIfUnchanged only
    refine kept_fields ?_
    exact h
  · exact h

theorem kept_execSled {q : List Instr} {k : Nat} {payload : List Byte} {s : State} (h : Kept q s) :
    KeptA q (execSled k payload s) := by
  unfold execSled
  refine kept_next ?_
  refine kept_profileRun (fun p0 => ?_) ?_
  · refine kept_of ?_
    dsimp -failIfUnchanged only
    refine kept_fields ?_
    exact h
  · exact h

theorem kept_shadowRun {q : List Instr} {s : State} {k : Nat} {ty : Nat} {ok : Bool} {t : TableRef} (h : Kept q s) :
    Kept q (shadowRun s k ty ok t) := by
  unfold shadowRun
  split
  · refine kept_ite ?_ ?_
    · exact h
    · refine kept_ite ?_ ?_
      · refine kept_finish ?_
        exact h
      · refine kept_ite ?_ ?_
        · exact h
        · refine kept_ite ?_ ?_
          · refine kept_takeTable ?_
            refine kept_of ?_
            dsimp -failIfUnchanged only
            refine kept_fields ?_
            exact h
          · refine kept_modDesc ?_
            refine kept_of ?_
            dsimp -failIfUnchanged only
            refine kept_fields ?_
            exact h
  · exact h

theorem kept_execSledTable {q : List Instr} {k : Nat} {payload : List Byte} {s : State} (h : Kept q s) :
    KeptA q (execSledTable k payload s) := by
  unfold execSledTable
  refine kept_next ?_
  refine kept_shadowRun ?_
  exact h

theorem kept_execSledTableDefault {q : List Instr} {k : Nat} {payload : List Byte} {s : State} (h : Kept q s) :
    KeptA q (execSledTableDefault k payload s) := by
  unfold execSledTableDefault
  refine kept_next ?_
  refine kept_shadowRun ?_
  exact h

theorem kept_execLoader {q : List Instr} {k : Nat} {payload : List Byte} {s : State} (h : Kept q s) :
    KeptA q (execLoader k payload s) := by
  unfold execLoader
  refine kept_next ?_
  refine kept_profileRun (fun p1 => ?_) ?_
  · refine kept_of ?_
    dsimp -failIfUnchanged only
    refine kept_fields ?_
    exact h
  · exact h

theorem kept_execChannel {q : List Instr} {k : Nat} {payload : List Byte} {s : State} (h : Kept q s) :
    KeptA q (execChannel k payload s) := by
  unfold execChannel
  refine kept_next ?_
  refine kept_profileRun (fun p0 => ?_) ?_
  · refine kept_of ?_
    dsimp -failIfUnchanged only
    refine kept_fields ?_
    exact h
  · exact h

theorem kept_execSecondLook {q : List Instr} {k : Nat} {payload : List Byte} {s : State} (h : Kept q s) :
    KeptA q (execSecondLook k payload s) := by
  unfold execSecondLook
  refine kept_next ?_
  refine kept_profileRun (fun p1 => ?_) ?_
  · refine kept_of ?_
    dsimp -failIfUnchanged only
    refine kept_fields ?_
    exact h
  · exact h

theorem kept_execChannelDefault {q : List Instr} {k : Nat} {payload : List Byte} {s : State} (h : Kept q s) :
    KeptA q (execChannelDefault k payload s) := by
  unfold execChannelDefault
  refine kept_next ?_
  refine kept_profileRun (fun p0 => ?_) ?_
  · refine kept_of ?_
    dsimp -failIfUnchanged only
    refine kept_fields ?_
    exact h
  · exact h

theorem kept_execWstrat {q : List Instr} {k : Nat} {payload : List Byte} {s : State} (h : Kept q s) :
    KeptA q (execWstrat k payload s) := by
  unfold execWstrat
  refine kept_next ?_
  refine kept_profileRun (fun p1 => ?_) ?_
  · refine kept_of ?_
    dsimp -failIfUnchanged only
    refine kept_fields ?_
    exact h
  · exact h

theorem kept_execWstratDefault {q : List Instr} {k : Nat} {payload : List Byte} {s : State} (h : Kept q s) :
    KeptA q (execWstratDefault k payload s) := by
  unfold execWstratDefault
  refine kept_next ?_
  refine kept_profileRun (fun p0 => ?_) ?_
  · refine kept_of ?_
    dsimp -failIfUnchanged only
    refine kept_fields ?_
    exact h
  · exact h

theorem kept_execLds {q : List Instr} {k : Nat} {payload : List Byte} {s : State} (h : Kept q s) :
    KeptA q (execLds k payload s) := by
  unfold execLds
  refine kept_next ?_
  refine kept_ite ?_ ?_
  · exact h
  · refine kept_profileRun (fun p1 => ?_) ?_
    · refine kept_of ?_
      dsimp -failIfUnchanged only
      refine kept_fields ?_
      exact h
    · exact h

theorem kept_execCapture {q : List Instr} {k : Nat} {payload : List Byte} {s : State} (h : Kept q s) :
    KeptA q (execCapture k payload s) := by
  unfold execCapture
  refine kept_next ?_
  refine kept_profileRun (fun p1 => ?_) ?_
  · refine kept_of ?_
    dsimp -failIfUnchanged only
    refine kept_fields ?_
    exact h
  · exact h

theorem kept_cleanRemoved {q : List Instr} {s : State} {old : BitVec 16} {new : BitVec 16} (h : Kept q s) :
    Kept q (cleanRemoved s old new) := by
  unfold cleanRemoved
  refine kept_foldl (fun t5 _ ht5 => ?_) _ ?_
  · refine kept_cleanWay ?_
    exact ht5
  · exact h

theorem kept_execFoldSet {q : List Instr} {k : Nat} {rec_ : List Byte} {s : State} (h : Kept q s) :
    KeptA q (execFoldSet k rec_ s) := by
  unfold execFoldSet
  refine kept_next ?_
  dsimp -failIfUnchanged only
  split
  · refine kept_ite ?_ ?_
    · refine kept_finish ?_
      refine kept_modDesc ?_
      refine kept_cleanRemoved ?_
      exact h
    · refine kept_finish ?_
      exact h
  · exact h

theorem kept_execGrantInvalidate {q : List Instr} {k : Nat} {s : State} (h : Kept q s) :
    KeptA q (execGrantInvalidate k s) := by
  unfold execGrantInvalidate
  refine kept_next ?_
  split
  · refine kept_ite ?_ ?_
    · exact h
    · refine kept_finish ?_
      refine kept_of ?_
      dsimp -failIfUnchanged only
      refine kept_fields ?_
      exact h
  · exact h

theorem kept_execGrantInvalidateAll {q : List Instr} {k : Nat} {s : State} (h : Kept q s) :
    KeptA q (execGrantInvalidateAll k s) := by
  unfold execGrantInvalidateAll
  refine kept_next ?_
  split
  · refine kept_ite ?_ ?_
    · refine kept_finish ?_
      refine kept_of ?_
      dsimp -failIfUnchanged only
      refine kept_fields ?_
      exact h
    · exact h
  · exact h

end Sys2Proof.Machine
end

