-- ==== Sys2Proof/Laws/KeptMmc.lean ====
section
/-! SUPPORT. Laws/KeptMmc.lean: every operation of Machine/Mmc.lean keeps the queue, the reserved bits and the canonical lists. -/
namespace Sys2Proof.Machine

theorem kept_openDraw {q : List Instr} {key : Nat} {s : State} (h : Kept q s) :
    Kept q (openDraw key s).2 := by
  unfold openDraw
  refine kept_snd_mk ?_
  refine kept_of ?_
  dsimp -failIfUnchanged only
  refine kept_fields ?_
  exact h

theorem kept_mmcRow {q : List Instr} {s : State} {f : FoldId} {k : Nat} {cdb : List Byte} {codes : List Nat}
    {run : Desc → List Byte → State} (hrun : ∀ (y0 : Desc), ∀ (y1 : List Byte), Kept q (run y0 y1)) (h : Kept q s) :
    Kept q (mmcRow s f k cdb codes run) := by
  unfold mmcRow
  split
  · exact h
  · refine kept_ite ?_ ?_
    · exact h
    · refine kept_ite ?_ ?_
      · refine kept_finishUnstarted ?_
        exact h
      · refine kept_ite ?_ ?_
        · exact h
        · exact hrun _ _

theorem kept_mmcAs {q : List Instr} {s : State} {f : FoldId} {k : Nat} {o : Op} {g : Fields → Fields} (h : Kept q s) :
    Kept q (mmcAs s f k o g) := by
  unfold mmcAs
  dsimp -failIfUnchanged only
  split
  · refine kept_modDesc ?_
    exact h
  · refine kept_ite ?_ ?_
    · refine kept_finishUnstarted ?_
      refine kept_modDesc ?_
      exact h
    · refine kept_ite ?_ ?_
      · refine kept_finishUnstarted ?_
        refine kept_modDesc ?_
        exact h
      · split
        · refine kept_ite ?_ ?_
          · refine kept_finishUnstarted ?_
            refine kept_modDesc ?_
            exact h
          · refine kept_steps25 ?_
            refine kept_modDesc ?_
            exact h
        · refine kept_steps25 ?_
          refine kept_modDesc ?_
          exact h

theorem kept_mmcNow {q : List Instr} {s : State} {f : FoldId} {k : Nat} {d : Desc} {st : Status} (h : Kept q s) :
    Kept q (mmcNow s f k d st) := by
  unfold mmcNow
  refine kept_ite ?_ ?_
  · refine kept_finish ?_
    refine kept_noteStart ?_
    exact h
  · exact h

theorem kept_mmcBlocks {q : List Instr} {s : State} {f : FoldId} {k : Nat} {d : Desc} {o : Op} {lba : Nat} {count : Nat}
    {opfield : BitVec 16} {opdata : BitVec 64} (h : Kept q s) :
    Kept q (mmcBlocks s f k d o lba count opfield opdata) := by
  unfold mmcBlocks
  refine kept_ite ?_ ?_
  · refine kept_mmcNow ?_
    exact h
  · refine kept_mmcAs ?_
    exact h

theorem kept_execRead10 {q : List Instr} {f : FoldId} {k : Nat} {cdb : List Byte} {s : State} (h : Kept q s) :
    KeptA q (execRead10 f k cdb s) := by
  unfold execRead10
  refine kept_next ?_
  refine kept_mmcRow (fun d0 c1 => ?_) ?_
  · refine kept_mmcBlocks ?_
    exact h
  · exact h

theorem kept_execRead12 {q : List Instr} {f : FoldId} {k : Nat} {cdb : List Byte} {s : State} (h : Kept q s) :
    KeptA q (execRead12 f k cdb s) := by
  unfold execRead12
  refine kept_next ?_
  refine kept_mmcRow (fun d0 c1 => ?_) ?_
  · refine kept_mmcBlocks ?_
    exact h
  · exact h

theorem kept_execWrite10 {q : List Instr} {f : FoldId} {k : Nat} {cdb : List Byte} {s : State} (h : Kept q s) :
    KeptA q (execWrite10 f k cdb s) := by
  unfold execWrite10
  refine kept_next ?_
  refine kept_mmcRow (fun d0 c1 => ?_) ?_
  · refine kept_mmcBlocks ?_
    exact h
  · exact h

theorem kept_execWrite12 {q : List Instr} {f : FoldId} {k : Nat} {cdb : List Byte} {s : State} (h : Kept q s) :
    KeptA q (execWrite12 f k cdb s) := by
  unfold execWrite12
  refine kept_next ?_
  refine kept_mmcRow (fun d0 c1 => ?_) ?_
  · refine kept_mmcBlocks ?_
    exact h
  · exact h

theorem kept_execVerify10 {q : List Instr} {f : FoldId} {k : Nat} {cdb : List Byte} {s : State} (h : Kept q s) :
    KeptA q (execVerify10 f k cdb s) := by
  unfold execVerify10
  refine kept_next ?_
  refine kept_mmcRow (fun d0 c1 => ?_) ?_
  · refine kept_mmcBlocks ?_
    exact h
  · exact h

theorem kept_execReadCd {q : List Instr} {f : FoldId} {k : Nat} {cdb : List Byte} {s : State} (h : Kept q s) :
    KeptA q (execReadCd f k cdb s) := by
  unfold execReadCd
  refine kept_next ?_
  refine kept_mmcRow (fun d0 c1 => ?_) ?_
  · refine kept_ite ?_ ?_
    · refine kept_mmcNow ?_
      exact h
    · refine kept_ite ?_ ?_
      · refine kept_finishUnstarted ?_
        exact h
      · refine kept_mmcBlocks ?_
        exact h
  · exact h

theorem kept_execFormatUnit {q : List Instr} {f : FoldId} {k : Nat} {cdb : List Byte} {params : List Byte} {s : State}
    (h : Kept q s) :
    KeptA q (execFormatUnit f k cdb params s) := by
  unfold execFormatUnit
  refine kept_next ?_
  refine kept_mmcRow (fun x0 x1 => ?_) ?_
  · refine kept_ite ?_ ?_
    · refine kept_finishUnstarted ?_
      exact h
    · refine kept_mmcAs ?_
      refine kept_openDraw (key := 0) ?_
      exact h
  · exact h

theorem kept_execStartStopUnit {q : List Instr} {f : FoldId} {k : Nat} {cdb : List Byte} {s : State} (h : Kept q s) :
    KeptA q (execStartStopUnit f k cdb s) := by
  unfold execStartStopUnit
  refine kept_next ?_
  refine kept_mmcRow (fun x0 c1 => ?_) ?_
  · refine kept_ite ?_ ?_
    · refine kept_mmcAs ?_
      exact h
    · refine kept_mmcAs ?_
      refine kept_openDraw (key := 0) ?_
      exact h
  · exact h

theorem kept_execSetCdSpeed {q : List Instr} {f : FoldId} {k : Nat} {cdb : List Byte} {s : State} (h : Kept q s) :
    KeptA q (execSetCdSpeed f k cdb s) := by
  unfold execSetCdSpeed
  refine kept_next ?_
  refine kept_mmcRow (fun x0 c1 => ?_) ?_
  · refine kept_mmcAs ?_
    refine kept_openDraw (key := 0) ?_
    exact h
  · exact h

theorem kept_execPreventAllowMediumRemoval {q : List Instr} {f : FoldId} {k : Nat} {cdb : List Byte} {s : State}
    (h : Kept q s) :
    KeptA q (execPreventAllowMediumRemoval f k cdb s) := by
  unfold execPreventAllowMediumRemoval
  refine kept_next ?_
  refine kept_mmcRow (fun x0 c1 => ?_) ?_
  · refine kept_mmcAs ?_
    exact h
  · exact h

theorem kept_execMmcReserveTrack {q : List Instr} {f : FoldId} {k : Nat} {cdb : List Byte} {s : State} (h : Kept q s) :
    KeptA q (execMmcReserveTrack f k cdb s) := by
  unfold execMmcReserveTrack
  refine kept_next ?_
  refine kept_mmcRow (fun x0 c1 => ?_) ?_
  · refine kept_mmcAs ?_
    exact h
  · exact h

theorem kept_execCloseTrackSession {q : List Instr} {f : FoldId} {k : Nat} {cdb : List Byte} {s : State} (h : Kept q s) :
    KeptA q (execCloseTrackSession f k cdb s) := by
  unfold execCloseTrackSession
  refine kept_next ?_
  refine kept_mmcRow (fun x0 c1 => ?_) ?_
  · split
    · refine kept_finishUnstarted ?_
      exact h
    · refine kept_mmcAs ?_
      exact h
  · exact h

theorem kept_mmcSend {q : List Instr} {s : State} {f : FoldId} {k : Nat} {d : Desc} {data : List Byte} {alloc : Nat}
    (h : Kept q s) :
    Kept q (mmcSend s f k d data alloc) := by
  unfold mmcSend
  refine kept_ite ?_ ?_
  · refine kept_finishUnstarted ?_
    exact h
  · refine kept_ite ?_ ?_
    · exact h
    · refine kept_finish ?_
      refine kept_deliver ?_
      refine kept_noteStart ?_
      exact h

theorem kept_mmcFree {q : List Instr} {s : State} {f : FoldId} {k : Nat} {d : Desc} {code : Nat} {alloc : Nat} (h : Kept q s) :
    Kept q (mmcFree s f k d code alloc) := by
  unfold mmcFree
  refine kept_mmcSend ?_
  refine kept_of ?_
  dsimp -failIfUnchanged only
  refine kept_fields ?_
  exact h

theorem kept_execTestUnitReady {q : List Instr} {f : FoldId} {k : Nat} {cdb : List Byte} {s : State} (h : Kept q s) :
    KeptA q (execTestUnitReady f k cdb s) := by
  unfold execTestUnitReady
  refine kept_next ?_
  refine kept_mmcRow (fun d0 x1 => ?_) ?_
  · refine kept_mmcNow ?_
    exact h
  · exact h

theorem kept_execRequestSense {q : List Instr} {f : FoldId} {k : Nat} {cdb : List Byte} {s : State} (h : Kept q s) :
    KeptA q (execRequestSense f k cdb s) := by
  unfold execRequestSense
  refine kept_next ?_
  refine kept_mmcRow (fun d0 c1 => ?_) ?_
  · refine kept_mmcSend ?_
    exact h
  · exact h

theorem kept_execInquiry {q : List Instr} {f : FoldId} {k : Nat} {cdb : List Byte} {s : State} (h : Kept q s) :
    KeptA q (execInquiry f k cdb s) := by
  unfold execInquiry
  refine kept_next ?_
  refine kept_mmcRow (fun d0 c1 => ?_) ?_
  · refine kept_ite ?_ ?_
    · refine kept_finishUnstarted ?_
      exact h
    · refine kept_mmcSend ?_
      refine kept_of ?_
      dsimp -failIfUnchanged only
      refine kept_fields ?_
      exact h
  · exact h

theorem kept_execSynchronizeCache {q : List Instr} {f : FoldId} {k : Nat} {cdb : List Byte} {s : State} (h : Kept q s) :
    KeptA q (execSynchronizeCache f k cdb s) := by
  unfold execSynchronizeCache
  refine kept_next ?_
  refine kept_mmcRow (fun d0 x1 => ?_) ?_
  · refine kept_ite ?_ ?_
    · exact h
    · refine kept_mmcNow ?_
      exact h
  · exact h

theorem kept_execGetConfiguration {q : List Instr} {f : FoldId} {k : Nat} {cdb : List Byte} {s : State} (h : Kept q s) :
    KeptA q (execGetConfiguration f k cdb s) := by
  unfold execGetConfiguration
  refine kept_next ?_
  refine kept_mmcRow (fun d0 c1 => ?_) ?_
  · refine kept_mmcFree ?_
    exact h
  · exact h

theorem kept_execGetEventStatusNotification {q : List Instr} {f : FoldId} {k : Nat} {cdb : List Byte} {s : State}
    (h : Kept q s) :
    KeptA q (execGetEventStatusNotification f k cdb s) := by
  unfold execGetEventStatusNotification
  refine kept_next ?_
  refine kept_mmcRow (fun d0 c1 => ?_) ?_
  · refine kept_ite ?_ ?_
    · refine kept_mmcFree ?_
      exact h
    · refine kept_finishUnstarted ?_
      exact h
  · exact h

theorem kept_execModeSense10 {q : List Instr} {f : FoldId} {k : Nat} {cdb : List Byte} {s : State} (h : Kept q s) :
    KeptA q (execModeSense10 f k cdb s) := by
  unfold execModeSense10
  refine kept_next ?_
  refine kept_mmcRow (fun d0 c1 => ?_) ?_
  · refine kept_ite ?_ ?_
    · refine kept_mmcFree ?_
      exact h
    · refine kept_finishUnstarted ?_
      exact h
  · exact h

theorem kept_mmcReply {q : List Instr} {s : State} {f : FoldId} {k : Nat} {reply : DiscInfo → Desc → State} (hreply : ∀
    (y0 : DiscInfo), ∀ (y1 : Desc), Kept q (reply y0 y1)) (h : Kept q s) :
    Kept q (mmcReply s f k reply) := by
  unfold mmcReply
  split
  · exact h
  · refine kept_ite ?_ ?_
    · exact h
    · split
      · refine kept_finishUnstarted ?_
        exact h
      · exact hreply _ _

theorem kept_mmcDisc {q : List Instr} {s : State} {f : FoldId} {k : Nat} {cdb : List Byte} {code : Nat}
    {bad : List Byte → Bool} {alloc : List Byte → Option Nat} {reply : State → DiscInfo → Desc → List Byte → State}
    (hreply : ∀ (y0 : State), Kept q y0 → ∀ (y1 : DiscInfo), ∀ (y2 : Desc), ∀ (y3 : List Byte), Kept q (reply y0 y1 y2 y3))
    (h : Kept q s) :
    Kept q (mmcDisc s f k cdb code bad alloc reply) := by
  unfold mmcDisc
  dsimp -failIfUnchanged only
  split
  · refine kept_mmcRow (fun d1 c2 => ?_) ?_
    · refine kept_ite ?_ ?_
      · refine kept_finishUnstarted ?_
        exact h
      · refine kept_ite ?_ ?_
        · refine kept_mmcNow ?_
          exact h
        · refine kept_mmcAs ?_
          exact h
    · exact h
  · refine kept_ite ?_ ?_
    · refine kept_mmcReply (fun di3 d4 => ?_) ?_
      · refine hreply _ ?_ _ _ _
        refine kept_mmcRow (fun d5 c6 => ?_) ?_
        · refine kept_ite ?_ ?_
          · refine kept_finishUnstarted ?_
            exact h
          · refine kept_ite ?_ ?_
            · refine kept_mmcNow ?_
              exact h
            · refine kept_mmcAs ?_
              exact h
        · exact h
      · refine kept_mmcRow (fun d7 c8 => ?_) ?_
        · refine kept_ite ?_ ?_
          · refine kept_finishUnstarted ?_
            exact h
          · refine kept_ite ?_ ?_
            · refine kept_mmcNow ?_
              exact h
            · refine kept_mmcAs ?_
              exact h
        · exact h
    · refine kept_mmcRow (fun d9 c10 => ?_) ?_
      · refine kept_ite ?_ ?_
        · refine kept_finishUnstarted ?_
          exact h
        · refine kept_ite ?_ ?_
          · refine kept_mmcNow ?_
            exact h
          · refine kept_mmcAs ?_
            exact h
      · exact h

theorem kept_execReadFormatCapacities {q : List Instr} {f : FoldId} {k : Nat} {cdb : List Byte} {s : State} (h : Kept q s) :
    KeptA q (execReadFormatCapacities f k cdb s) := by
  unfold execReadFormatCapacities
  refine kept_next ?_
  refine kept_mmcDisc (fun t0 ht0 x1 d2 c3 => ?_) ?_
  · refine kept_mmcFree ?_
    exact ht0
  · exact h

theorem kept_execReadCapacity {q : List Instr} {f : FoldId} {k : Nat} {cdb : List Byte} {s : State} (h : Kept q s) :
    KeptA q (execReadCapacity f k cdb s) := by
  unfold execReadCapacity
  refine kept_next ?_
  refine kept_mmcDisc (fun t0 ht0 di1 d2 x3 => ?_) ?_
  · refine kept_mmcSend ?_
    exact ht0
  · exact h

theorem kept_execReadTocPmaAtip {q : List Instr} {f : FoldId} {k : Nat} {cdb : List Byte} {s : State} (h : Kept q s) :
    KeptA q (execReadTocPmaAtip f k cdb s) := by
  unfold execReadTocPmaAtip
  refine kept_next ?_
  refine kept_mmcDisc ?_ ?_
  · intro t1 ht1
    intro t3 ht3
    intro x5
    refine kept_ite ?_ ?_
    · refine kept_mmcSend ?_
      exact ht1
    · refine kept_mmcFree ?_
      exact ht1
  · exact h

theorem kept_execReadDiscInformation {q : List Instr} {f : FoldId} {k : Nat} {cdb : List Byte} {s : State} (h : Kept q s) :
    KeptA q (execReadDiscInformation f k cdb s) := by
  unfold execReadDiscInformation
  refine kept_next ?_
  refine kept_mmcDisc (fun t0 ht0 x1 d2 c3 => ?_) ?_
  · refine kept_mmcFree ?_
    exact ht0
  · exact h

theorem kept_execReadTrackInformation {q : List Instr} {f : FoldId} {k : Nat} {cdb : List Byte} {s : State} (h : Kept q s) :
    KeptA q (execReadTrackInformation f k cdb s) := by
  unfold execReadTrackInformation
  refine kept_next ?_
  refine kept_mmcDisc (fun t0 ht0 di1 d2 c3 => ?_) ?_
  · split
    · refine kept_mmcSend ?_
      refine kept_of ?_
      dsimp -failIfUnchanged only
      refine kept_fields ?_
      exact ht0
    · refine kept_mmcFree ?_
      exact ht0
  · exact h

theorem kept_execReadDiscStructure {q : List Instr} {f : FoldId} {k : Nat} {cdb : List Byte} {s : State} (h : Kept q s) :
    KeptA q (execReadDiscStructure f k cdb s) := by
  unfold execReadDiscStructure
  refine kept_next ?_
  refine kept_mmcDisc ?_ ?_
  · intro t2 ht2
    intro t4 ht4
    intro x6
    split
    · refine kept_mmcSend ?_
      exact ht2
    · refine kept_mmcFree ?_
      exact ht2
  · exact h

end Sys2Proof.Machine
end

