-- ==== Sys2Proof/Laws/KeptFlr.lean ====
section
/-! SUPPORT. Laws/KeptFlr.lean: every operation of Machine/Flr.lean keeps the queue, the reserved bits and the canonical lists. -/
namespace Sys2Proof.Machine

theorem kept_cancelProgs {q : List Instr} {s : State} {f : FoldId} (h : Kept q s) :
    Kept q (cancelProgs s f) := by
  unfold cancelProgs
  refine kept_beginIfIdle ?_
  refine kept_of ?_
  dsimp -failIfUnchanged only
  refine kept_fields ?_
  exact h

theorem kept_dropDesc {q : List Instr} {f : FoldId} {s : State} {d : Desc} (h : Kept q s) :
    Kept q (dropDesc f s d) := by
  unfold dropDesc
  refine kept_modFold ?_
  refine kept_releaseHoldings ?_
  exact h

theorem kept_stopFoldJob {q : List Instr} {s : State} {f : FoldId} (h : Kept q s) :
    Kept q (stopFoldJob s f) := by
  unfold stopFoldJob
  split
  · exact h
  · split
    · refine kept_ite ?_ ?_
      · refine kept_stopSpeculation ?_
        exact h
      · exact h
    · refine kept_ite ?_ ?_
      · refine kept_stopAtBoundary ?_
        exact h
      · exact h
    · refine kept_ite ?_ ?_
      · refine kept_stopJob ?_
        exact h
      · exact h

theorem kept_releaseFoldLock {q : List Instr} {s : State} {f : FoldId} (h : Kept q s) :
    Kept q (releaseFoldLock s f) := by
  unfold releaseFoldLock
  refine kept_of ?_
  dsimp -failIfUnchanged only
  refine kept_fields ?_
  refine kept_ite ?_ ?_
  · refine kept_releaseLock ?_
    exact h
  · exact h

theorem kept_dropWaiting {q : List Instr} {s : State} (h : Kept q s) :
    Kept q (dropWaiting s) := by
  unfold dropWaiting
  refine kept_of ?_
  dsimp -failIfUnchanged only
  refine kept_fields ?_
  exact h

theorem kept_resetFold {q : List Instr} {post : Bool} {s : State} {f : FoldId} (h : Kept q s) :
    Kept q (resetFold post s f) := by
  unfold resetFold
  split
  · refine kept_modFold ?_
    exact h
  · extract_lets +onlyGivenNames x1
    extract_lets +onlyGivenNames t2
    have ht2 : Kept q t2 := by
      refine kept_ite ?_ ?_
      · refine kept_endDrain ?_
        exact h
      · exact h
    clear_value t2
    extract_lets +onlyGivenNames t3
    have ht3 : Kept q t3 := by
      refine kept_stopFoldJob ?_
      exact ht2
    clear_value t3
    extract_lets +onlyGivenNames t6
    have ht6 : Kept q t6 := by
      refine kept_foldl (fun t7 _ ht7 => ?_) _ ?_
      · refine kept_dropDesc ?_
        exact ht7
      · exact ht3
    clear_value t6
    extract_lets +onlyGivenNames t8
    have ht8 : Kept q t8 := by
      refine kept_releaseFoldLock ?_
      refine kept_ite ?_ ?_
      · refine kept_dropWaiting ?_
        exact ht6
      · exact ht6
    clear_value t8
    extract_lets +onlyGivenNames t9
    have ht9 : Kept q t9 := by
      refine kept_penEmpty ?_
      refine kept_cancelProgs ?_
      exact ht8
    clear_value t9
    extract_lets +onlyGivenNames t10
    have ht10 : Kept q t10 := by
      refine kept_modFold ?_
      exact ht9
    clear_value t10
    extract_lets +onlyGivenNames t11
    have ht11 : Kept q t11 := by
      exact kept_ite (kept_settleFold ht10) ht10
    clear_value t11
    refine kept_resetSlot ?_
    refine kept_resetSlot ?_
    exact ht11

theorem kept_execFlrFold {q : List Instr} {f : FoldId} {s : State} (h : Kept q s) :
    KeptA q (execFlrFold f s) := by
  unfold execFlrFold
  refine kept_next ?_
  refine kept_ite ?_ ?_
  · refine kept_resetFold ?_
    exact h
  · exact h

theorem kept_execFoldResetComplete {q : List Instr} {f : FoldId} {s : State} (h : Kept q s) :
    KeptA q (execFoldResetComplete f s) := by
  unfold execFoldResetComplete
  refine kept_next ?_
  split
  · exact h
  · refine kept_ite ?_ ?_
    · exact h
    · refine kept_ite ?_ ?_
      · refine kept_postEventTo ?_
        refine kept_logNote ?_
        refine kept_modFold ?_
        refine kept_foldl (fun t5 _ ht5 => ?_) _ ?_
        · refine kept_dropDesc ?_
          exact ht5
        · exact h
      · refine kept_modFold ?_
        refine kept_foldl (fun t7 _ ht7 => ?_) _ ?_
        · refine kept_dropDesc ?_
          exact ht7
        · exact h

theorem kept_resetAll {q : List Instr} {s : State} (h : Kept q s) :
    Kept q (resetAll s) := by
  unfold resetAll
  extract_lets +onlyGivenNames t4
  have ht4 : Kept q t4 := by
    refine kept_foldl (fun t5 _ ht5 => ?_) _ ?_
    · refine kept_resetFold ?_
      exact ht5
    · exact h
  clear_value t4
  extract_lets +onlyGivenNames x12
  refine kept_ite ?_ ?_
  · refine kept_profilesDefault ?_
    refine kept_of ?_
    dsimp -failIfUnchanged only
    refine kept_fields_noTable ?_
    exact ht4
  · refine kept_askResync ?_
    refine kept_of ?_
    dsimp -failIfUnchanged only
    refine kept_fields ?_
    refine kept_profilesDefault ?_
    refine kept_of ?_
    dsimp -failIfUnchanged only
    refine kept_fields_noTable ?_
    exact ht4

theorem kept_execFlrFold0 {q : List Instr} {s : State} (h : Kept q s) :
    KeptA q (execFlrFold0 s) := by
  unfold execFlrFold0
  refine kept_next ?_
  refine kept_ite ?_ ?_
  · refine kept_resetAll ?_
    exact h
  · exact h

theorem kept_resetEndpoint {q : List Instr} {s : State} (h : Kept q s) :
    Kept q (resetEndpoint s) := by
  unfold resetEndpoint
  refine kept_of ?_
  dsimp -failIfUnchanged only
  refine kept_fields ?_
  exact h

theorem kept_execPerstN {q : List Instr} {s : State} (h : Kept q s) :
    KeptA q (execPerstN s) := by
  unfold execPerstN
  refine kept_next ?_
  refine kept_ite ?_ ?_
  · refine kept_resetEndpoint ?_
    refine kept_resetAll ?_
    refine kept_ite ?_ ?_
    · refine kept_wake ?_
      exact h
    · exact h
  · refine kept_ite ?_ ?_
    · refine kept_wake ?_
      exact h
    · exact h

theorem kept_execVfEnableClear {q : List Instr} {s : State} (h : Kept q s) :
    KeptA q (execVfEnableClear s) := by
  unfold execVfEnableClear
  refine kept_next ?_
  refine kept_ite ?_ ?_
  · refine kept_of ?_
    dsimp -failIfUnchanged only
    refine kept_fields ?_
    refine kept_foldl (fun t1 _ ht1 => ?_) _ ?_
    · refine kept_resetFold ?_
      exact ht1
    · exact h
  · exact h

theorem kept_execVfEnableSet {q : List Instr} {s : State} (h : Kept q s) :
    KeptA q (execVfEnableSet s) := by
  unfold execVfEnableSet
  refine kept_next ?_
  refine kept_ite ?_ ?_
  · refine kept_of ?_
    dsimp -failIfUnchanged only
    refine kept_fields ?_
    exact h
  · exact h

theorem kept_flushMsix {q : List Instr} {s : State} {f : FoldId} (h : Kept q s) :
    Kept q (flushMsix s f) := by
  unfold flushMsix
  refine kept_foldl (fun t0 _ ht0 => ?_) _ ?_
  · refine kept_ite ?_ ?_
    · refine kept_emit ?_
      refine kept_modFold ?_
      exact ht0
    · exact ht0
  · exact h

theorem kept_configure {q : List Instr} {s : State} {f : FoldId} {c : CfgField} (h : Kept q s) :
    Kept q (configure s f c) := by
  unfold configure
  split
  · refine kept_ite ?_ ?_
    · refine kept_of ?_
      dsimp -failIfUnchanged only
      refine kept_fields ?_
      exact h
    · exact h
  · refine kept_modFold ?_
    exact h
  · refine kept_ite ?_ ?_
    · refine kept_modFold ?_
      exact h
    · exact h
  · refine kept_ite ?_ ?_
    · refine kept_modFold ?_
      exact h
    · exact h
  · refine kept_ite ?_ ?_
    · refine kept_of ?_
      dsimp -failIfUnchanged only
      refine kept_fields ?_
      exact h
    · exact h
  · refine kept_flushMsix ?_
    refine kept_modFold ?_
    exact h
  · refine kept_flushMsix ?_
    refine kept_modFold ?_
    exact h

theorem kept_execConfigurationWrite {q : List Instr} {f : FoldId} {c : CfgField} {s : State} (h : Kept q s) :
    KeptA q (execConfigurationWrite f c s) := by
  unfold execConfigurationWrite
  refine kept_next ?_
  refine kept_ite ?_ ?_
  · refine kept_configure ?_
    exact h
  · exact h

end Sys2Proof.Machine
end

