-- ==== Sys2Proof/Laws/KeptRegisters.lean ====
section
/-! SUPPORT. Laws/KeptRegisters.lean: every operation of Machine/Registers.lean keeps the queue, the reserved bits and the canonical lists. -/
namespace Sys2Proof.Machine

theorem kept_afterRow {q : List Instr} {s : State} {a : Answer} (h : Kept q s) (ha : KeptA q a) : Kept q (afterRow s a) := by
  cases a with
  | next t => exact ha
  | fault _ => exact h
  | refused _ => exact h

theorem kept_modEcc {q : List Instr} {s : State} {g : Ecc → Ecc} (h : Kept q s) (h1 : (g s.ecc).flipTarget = s.ecc.flipTarget)
    (h2 : (g s.ecc).flipAddr = s.ecc.flipAddr) (h3 : (g s.ecc).flipCheck = s.ecc.flipCheck)
    (h4 : (g s.ecc).scrubCtl = s.ecc.scrubCtl) (h5 : (g s.ecc).strength = s.ecc.strength)
    (h6 : (g s.ecc).vrate = s.ecc.vrate) (h7 : (g s.ecc).rawPage = s.ecc.rawPage) (h8 : (g s.ecc).sdram = s.ecc.sdram)
    (h9 : (g s.ecc).wrong = s.ecc.wrong) : Kept q (s.modEcc g) := by
  unfold State.modEcc
  refine kept_of ?_
  dsimp only
  rw [h1, h2, h3, h4, h5, h6, h7, h8, h9]
  exact kept_fields h

theorem kept_writeWring {q : List Instr} {s : State} {f : FoldId} {n : RingId} {i : Nat} {v : Word} (h : Kept q s) :
    Kept q (writeWring s f n i v) := by
  unfold writeWring
  dsimp -failIfUnchanged only
  split
  · refine kept_ite ?_ ?_
    · exact h
    · refine kept_modWring ?_
      exact h
  · refine kept_ite ?_ ?_
    · exact h
    · refine kept_modWring ?_
      exact h
  · refine kept_ite ?_ ?_
    · refine kept_enableWring ?_
      exact h
    · refine kept_ite ?_ ?_
      · refine kept_abortWring ?_
        refine kept_disableWring ?_
        refine kept_wringFields ?_
        exact h
      · refine kept_disableWring ?_
        refine kept_wringFields ?_
        exact h
  · exact h

theorem kept_writeDring {q : List Instr} {s : State} {f : FoldId} {m : DringId} {i : Nat} {v : Word} (h : Kept q s) :
    Kept q (writeDring s f m i v) := by
  unfold writeDring
  dsimp -failIfUnchanged only
  split
  · refine kept_ite ?_ ?_
    · exact h
    · refine kept_modDring ?_
      exact h
  · refine kept_ite ?_ ?_
    · exact h
    · refine kept_modDring ?_
      exact h
  · refine kept_ite ?_ ?_
    · refine kept_enableDring ?_
      exact h
    · refine kept_ite ?_ ?_
      · exact h
      · refine kept_modDring ?_
        refine kept_ite ?_ ?_
        · refine kept_disableDring ?_
          exact h
        · exact h
  · exact h

theorem kept_writeDbp {q : List Instr} {s : State} {f : FoldId} {i : Nat} {v : Word} (h : Kept q s) :
    Kept q (writeDbp s f i v) := by
  unfold writeDbp
  dsimp -failIfUnchanged only
  split
  · refine kept_ite ?_ ?_
    · exact h
    · refine kept_modDbp ?_
      exact h
  · refine kept_ite ?_ ?_
    · exact h
    · refine kept_modDbp ?_
      exact h
  · refine kept_ite ?_ ?_
    · refine kept_enableDbp ?_
      exact h
    · refine kept_ite ?_ ?_
      · refine kept_disableDbp ?_
        exact h
      · refine kept_modDbp ?_
        exact h
  · exact h

theorem kept_writeWindow {q : List Instr} {s : State} {f : FoldId} {off : Nat} {v : Word} (h : Kept q s) :
    Kept q (writeWindow s f off v) := by
  unfold writeWindow
  refine kept_ite ?_ ?_
  · refine kept_afterRow ?_ ?_
    · exact h
    · refine kept_execFqWaitClear ?_
      exact h
  · refine kept_ite ?_ ?_
    · refine kept_afterRow ?_ ?_
      · exact h
      · refine kept_execDbpWake ?_
        exact h
    · refine kept_ite ?_ ?_
      · refine kept_writeWring ?_
        exact h
      · refine kept_ite ?_ ?_
        · refine kept_writeDring ?_
          exact h
        · refine kept_ite ?_ ?_
          · refine kept_writeDbp ?_
            exact h
          · exact h

theorem kept_writeByRow {q : List Instr} {s : State} {off : Nat} {v : Word} (h : Kept q s) :
    ∀ r, writeByRow s off v = some r → KeptA q r := by
  intro r hr
  unfold writeByRow at hr
  repeat' split at hr
  all_goals first
    | (cases hr; done)
    | (cases hr
       with_reducible first
         | exact kept_execGntBaseWrite h | exact kept_execGntCtlWrite h | exact kept_execGntStatClear h
         | exact kept_execFqRejectClear h | exact kept_execFqAuditStart h | exact kept_execPenFlush h
         | exact kept_execWayOff h | exact kept_execWayOn h | exact kept_execCapDrop h | exact kept_execCphLockTake h
         | exact kept_execCphLockRelease h | exact kept_execCphStatClear h | exact kept_execCphKatStart h
         | exact kept_execPwrLinkStatClear h | exact kept_execPwrStatClear h | exact kept_execGovWrite h
         | exact kept_execGovStatClear h | exact kept_execWdgCtlWrite h | exact kept_execHaltAck h
         | exact kept_execEccFlipArm h | exact kept_execScrubStatClear h | exact kept_execEccBktStatClear h
         | exact kept_execEccCountClear h)

theorem kept_setKeepCfg {q : List Instr} {s : State} {v : Nat} (h : Kept q s) :
    Kept q (setKeepCfg s v) := by
  unfold setKeepCfg
  refine kept_of ?_
  dsimp -failIfUnchanged only
  refine kept_fields ?_
  exact h

theorem kept_writePlain {q : List Instr} {s : State} {off : Nat} {v : Word} (h : Kept q s) : Kept q (writePlain s off v) := by
  unfold writePlain
  split
  · exact kept_of { kept_fields h with pen := and_and_zero (by decide) }
  · exact kept_of { kept_fields h with depth := and_and_zero (by decide) }
  · exact kept_of { kept_fields h with loss := and_and_zero (by decide) }
  · exact kept_of (kept_fields (u := s) h)
  · exact kept_setKeepCfg h
  · exact kept_ite (kept_of { kept_fields h with addr := and_and_zero (by decide) }) h
  · exact kept_ite (kept_modEcc h rfl rfl rfl rfl rfl rfl rfl rfl rfl) h
  · exact kept_ite (kept_modEcc h rfl rfl rfl rfl rfl rfl rfl rfl rfl) h
  · exact kept_ite (kept_of { kept_fields h with check := and_and_zero (by decide) }) h
  · exact kept_of { kept_fields h with scrubs := and_and_zero (by decide) }
  · exact kept_of { kept_fields h with strengths := and_and_zero (by decide) }
  · exact kept_of { kept_fields (kept_settleTokens h) with rates := and_and_zero (by decide) }
  · exact kept_of { kept_fields h with page := and_and_zero (by decide) }
  · refine kept_ite (kept_modBucket h) (kept_ite ?_ (kept_ite ?_ h))
    · exact kept_modEcc h rfl rfl rfl rfl rfl rfl rfl rfl rfl
    · exact kept_modEcc h rfl rfl rfl rfl rfl rfl rfl rfl rfl

theorem kept_writePlatform {q : List Instr} {s : State} {off : Nat} {v : Word} (h : Kept q s) :
    Kept q (writePlatform s off v) := by
  unfold writePlatform
  refine kept_ite (kept_ite (kept_afterRow h (kept_execMramRawProgram h)) h) ?_
  split
  · rename_i a ha
    exact kept_afterRow h (kept_writeByRow h a ha)
  · exact kept_writePlain h

theorem kept_writeMsix {q : List Instr} {s : State} {f : FoldId} {off : Nat} {v : Word} (h : Kept q s) :
    Kept q (writeMsix s f off v) := by
  unfold writeMsix
  refine kept_flushMsix ?_
  refine kept_modFold ?_
  exact h

theorem kept_writeReg {q : List Instr} {s : State} {f : FoldId} {off : Nat} {v : Word} (h : Kept q s) :
    Kept q (writeReg s f off v) := by
  unfold writeReg
  refine kept_ite ?_ ?_
  · exact h
  · refine kept_ite ?_ ?_
    · refine kept_writeWindow ?_
      exact h
    · refine kept_ite ?_ ?_
      · refine kept_ite ?_ ?_
        · refine kept_writePlatform ?_
          exact h
        · exact h
      · refine kept_ite ?_ ?_
        · refine kept_writeMsix ?_
          exact h
        · exact h

theorem kept_writeSb {q : List Instr} {s : State} {target : Nat} {addr : Nat} {v : Byte} (h : Kept q s) :
    Kept q (writeSb s target addr v) := by
  unfold writeSb
  split
  · refine kept_afterRow ?_ ?_
    · exact h
    · refine kept_execSbWake ?_
      exact h
  · refine kept_setKeepCfg ?_
    exact h
  · refine kept_afterRow ?_ ?_
    · exact h
    · refine kept_execSbIgnoredClear ?_
      exact h
  · refine kept_sbIgnore ?_
    exact h

theorem kept_execRegisterWrite {q : List Instr} {p : RegPort} {s : State} (h : Kept q s) :
    KeptA q (execRegisterWrite p s) := by
  unfold execRegisterWrite
  refine kept_next ?_
  split
  · refine kept_ite ?_ ?_
    · refine kept_onBar (fun s0 hs0 => ?_) ?_
      · refine kept_writeReg ?_
        exact hs0
      · exact h
    · exact h
  · refine kept_ite ?_ ?_
    · refine kept_writeSb ?_
      exact h
    · exact h

theorem kept_execSbRead {q : List Instr} {target : Nat} {pointer : Nat} {len : Nat} {s : State} (h : Kept q s) :
    KeptA q (execSbRead target pointer len s) := by
  unfold execSbRead
  refine kept_next ?_
  refine kept_ite ?_ ?_
  · refine kept_emit ?_
    exact h
  · exact h

end Sys2Proof.Machine
end

