-- ==== Sys2Proof/Laws/KeptScrub.lean ====
section
/-! SUPPORT. Laws/KeptScrub.lean: every operation of Machine/Scrub.lean keeps the queue, the reserved bits and the canonical lists. -/
namespace Sys2Proof.Machine

theorem kept_profileLost {q : List Instr} {s : State} {ty : Nat} (h : Kept q s) :
    Kept q (profileLost s ty) := by
  unfold profileLost
  extract_lets +onlyGivenNames x2
  refine kept_postEvent ?_
  refine kept_ite ?_ ?_
  · refine kept_of ?_
    dsimp -failIfUnchanged only
    refine kept_fields ?_
    exact h
  · refine kept_ite ?_ ?_
    · refine kept_of ?_
      dsimp -failIfUnchanged only
      refine kept_fields ?_
      exact h
    · refine kept_ite ?_ ?_
      · refine kept_of ?_
        dsimp -failIfUnchanged only
        refine kept_fields ?_
        exact h
      · refine kept_ite ?_ ?_
        · refine kept_of ?_
          dsimp -failIfUnchanged only
          refine kept_fields ?_
          exact h
        · refine kept_ite ?_ ?_
          · refine kept_of ?_
            dsimp -failIfUnchanged only
            refine kept_fields ?_
            exact h
          · refine kept_ite ?_ ?_
            · refine kept_of ?_
              dsimp -failIfUnchanged only
              refine kept_fields ?_
              exact h
            · refine kept_ite ?_ ?_
              · refine kept_tableDefault ?_
                exact h
              · refine kept_ite ?_ ?_
                · refine kept_of ?_
                  dsimp -failIfUnchanged only
                  refine kept_fields ?_
                  exact h
                · refine kept_ite ?_ ?_
                  · refine kept_of ?_
                    dsimp -failIfUnchanged only
                    refine kept_fields ?_
                    exact h
                  · refine kept_ite ?_ ?_
                    · refine kept_of ?_
                      dsimp -failIfUnchanged only
                      refine kept_fields ?_
                      exact h
                    · refine kept_ite ?_ ?_
                      · refine kept_of ?_
                        dsimp -failIfUnchanged only
                        refine kept_fields ?_
                        exact h
                      · refine kept_ite ?_ ?_
                        · refine kept_of ?_
                          dsimp -failIfUnchanged only
                          refine kept_fields ?_
                          exact h
                        · refine kept_of ?_
                          dsimp -failIfUnchanged only
                          refine kept_fields ?_
                          exact h

theorem kept_indexesLost {q : List Instr} {s : State} (h : Kept q s) :
    Kept q (indexesLost s) := by
  unfold indexesLost
  refine kept_foldl (fun t1 _ ht1 => ?_) _ ?_
  · refine kept_modFold ?_
    exact ht1
  · refine kept_penEmptyAll ?_
    exact h

theorem kept_spoilAll {q : List Instr} {whole : Bool} {hit : FoldId → Desc → Bool} {s : State} (h : Kept q s) :
    Kept q (spoilAll whole hit s) := by
  unfold spoilAll
  refine kept_foldl (fun t2 _ ht2 => ?_) _ ?_
  · refine kept_foldl (fun t1 _ ht1 => ?_) _ ?_
    · refine kept_spoilDesc ?_
      exact ht1
    · exact ht2
  · exact h

theorem kept_lineSpoilt {q : List Instr} {s : State} {line : Nat} (h : Kept q s) :
    Kept q (lineSpoilt s line) := by
  unfold lineSpoilt
  extract_lets +onlyGivenNames x1
  refine kept_ite ?_ ?_
  · refine kept_foldl (fun t1 _ ht1 => ?_) _ ?_
    · refine kept_discardCopy ?_
      exact ht1
    · exact h
  · refine kept_ite ?_ ?_
    · split
      · split
        · refine kept_judge ?_
          refine kept_toRereads ?_
          refine kept_unpin ?_
          exact h
        · exact h
      · exact h
    · refine kept_ite ?_ ?_
      · exact h
      · refine kept_ite ?_ ?_
        · refine kept_spoilAll ?_
          exact h
        · split
          · refine kept_indexesLost ?_
            exact h
          · refine kept_profileLost ?_
            exact h

theorem kept_scrubLine {q : List Instr} {s : State} {line : Nat} (h : Kept q s) : Kept q (scrubLine s line) := by
  unfold scrubLine
  refine kept_ite (kept_setEcc h { h.ecc with }) ?_
  have hm : EccOk ((lineWords line).foldl loadWord ({ cache := s.cache, ecc := s.ecc }, false)).1.ecc :=
    eccOk_foldl_fst (m := ({ cache := s.cache, ecc := s.ecc }, false)) (fun m a hx => eccOk_loadWord (a := m) (w := a) hx) _ h.ecc
  generalize (lineWords line).foldl loadWord ({ cache := s.cache, ecc := s.ecc }, false) = p at hm ⊢
  obtain ⟨m, bad⟩ := p
  refine kept_ite (kept_memReport h hm) (kept_ite (kept_memReport h ?_) (kept_lineSpoilt (kept_memReport h ?_)))
  · exact eccOk_foldl (fun _ _ hx => eccOk_storeWord hx) _ hm
  · exact eccOk_poisonLine hm

theorem kept_execScrubBurst {q : List Instr} {flips : List (Nat × BitVec 64 × BitVec 8)} {s : State} (h : Kept q s) :
    KeptA q (execScrubBurst flips s) := by
  unfold execScrubBurst
  refine kept_next (kept_ite h (kept_scrubNext (kept_scrubLine (kept_setEcc h ?_))))
  exact { h.ecc with sdram := listed_addFlips flips h.ecc.sdram }

theorem kept_recordLost {q : List Instr} {s : State} {i : Nat} (h : Kept q s) :
    Kept q (recordLost s i) := by
  unfold recordLost
  refine kept_ite ?_ ?_
  · exact h
  · extract_lets +onlyGivenNames t2
    have ht2 : Kept q t2 := by
      refine kept_spoilAll ?_
      exact h
    clear_value t2
    extract_lets +onlyGivenNames t3
    have ht3 : Kept q t3 := by
      refine kept_foldl (fun t4 _ ht4 => ?_) _ ?_
      · refine kept_modFold ?_
        exact ht4
      · exact ht2
    clear_value t3
    refine kept_of ?_
    dsimp -failIfUnchanged only
    refine kept_fields_del ?_
    exact ht3

theorem kept_holdLost {q : List Instr} {s : State} (h : Kept q s) :
    Kept q (holdLost s) := by
  unfold holdLost
  split
  · refine kept_zeroHold ?_
    refine kept_spoilDesc ?_
    exact h
  · refine kept_zeroHold ?_
    exact h

theorem kept_sramSpoilt {q : List Instr} {s : State} {w : Nat} (h : Kept q s) :
    Kept q (sramSpoilt s w) := by
  unfold sramSpoilt
  extract_lets +onlyGivenNames x5
  refine kept_ite ?_ ?_
  · refine kept_resetBronze ?_
    exact h
  · refine kept_ite ?_ ?_
    · refine kept_recordLost ?_
      refine kept_recordLost ?_
      exact h
    · refine kept_ite ?_ ?_
      · refine kept_spoilAll ?_
        exact h
      · refine kept_ite ?_ ?_
        · refine kept_spoilAll ?_
          exact h
        · refine kept_holdLost ?_
          exact h

theorem kept_sramRead {q : List Instr} {s : State} {w : Nat} {x : Flip} (h : Kept q s) :
    Kept q (sramRead s w x) := by
  unfold sramRead
  extract_lets +onlyGivenNames x6
  refine kept_ite ?_ ?_
  · refine kept_sramSpoilt ?_
    refine kept_eccUncorr ?_
    exact h
  · refine kept_ite ?_ ?_
    · refine kept_eccCorrect ?_
      exact h
    · exact h

theorem kept_flipIdle {q : List Instr} {s : State} (h : Kept q s) :
    Kept q (flipIdle s) := by
  unfold flipIdle
  extract_lets +onlyGivenNames x7
  extract_lets +onlyGivenNames x8
  refine kept_ite ?_ ?_
  · exact h
  · refine kept_ite ?_ ?_
    · extract_lets +onlyGivenNames x9
      refine kept_ite ?_ ?_
      · refine kept_sramRead ?_
        refine kept_of ?_
        dsimp -failIfUnchanged only
        refine kept_fields_unarmed ?_
        exact h
      · exact h
    · refine kept_ite ?_ ?_
      · extract_lets +onlyGivenNames x10
        refine kept_memRun ?_
        refine kept_of ?_
        dsimp -failIfUnchanged only
        refine kept_fields ?_
        exact h
      · exact h

end Sys2Proof.Machine
end

