-- ==== Sys2Proof/Laws/KeptDispatch.lean ====
section
/-! SUPPORT. Laws/KeptDispatch.lean: every operation of Machine/Dispatch.lean keeps the queue, the reserved bits and the canonical lists. -/
namespace Sys2Proof.Machine

theorem kept_exec {q : List Instr} {i : Instr} {s : State} (h : Kept q s) :
    KeptA q (exec i s) := by
  unfold exec
  split
  · refine kept_execNop ?_
    exact h
  · refine kept_execIdentifyDisc ?_
    exact h
  · refine kept_execLoad ?_
    exact h
  · refine kept_execEject ?_
    exact h
  · refine kept_execLockMedium ?_
    exact h
  · refine kept_execUnlockMedium ?_
    exact h
  · refine kept_execSpin ?_
    exact h
  · refine kept_execSeekHint ?_
    exact h
  · refine kept_execRead ?_
    exact h
  · refine kept_execReadRaw ?_
    exact h
  · refine kept_execWrite ?_
    exact h
  · refine kept_execVerify ?_
    exact h
  · refine kept_execCloseTrack ?_
    exact h
  · refine kept_execCloseSession ?_
    exact h
  · refine kept_execFinalise ?_
    exact h
  · refine kept_execFormatQuick ?_
    exact h
  · refine kept_execFormatFull ?_
    exact h
  · refine kept_execFormatFullCertify ?_
    exact h
  · refine kept_execReserveTrack ?_
    exact h
  · refine kept_execSealedRead ?_
    exact h
  · refine kept_execSealedWrite ?_
    exact h
  · refine kept_execKeyLoad ?_
    exact h
  · refine kept_execKeyLoadWrapped ?_
    exact h
  · refine kept_execKeyClear ?_
    exact h
  · refine kept_execSealBuffer ?_
    exact h
  · refine kept_execOpenBuffer ?_
    exact h
  · refine kept_execVaultGet ?_
    exact h
  · refine kept_execVaultPut ?_
    exact h
  · refine kept_execVaultDelete ?_
    exact h
  · refine kept_execVaultList ?_
    exact h
  · refine kept_execScan ?_
    exact h
  · refine kept_execEnergyReadSnapshot ?_
    exact h
  · refine kept_execEnergyReadRing ?_
    exact h
  · refine kept_execTelemetry ?_
    exact h
  · refine kept_execTimeRead ?_
    exact h
  · refine kept_execFoldSet ?_
    exact h
  · refine kept_execGrantInvalidate ?_
    exact h
  · refine kept_execGrantInvalidateAll ?_
    exact h
  · refine kept_execLoopRate ?_
    exact h
  · refine kept_execLoopBank ?_
    exact h
  · refine kept_execBankSwap ?_
    exact h
  · refine kept_execSignal ?_
    exact h
  · refine kept_execSequence ?_
    exact h
  · refine kept_execServoResync ?_
    exact h
  · refine kept_execApc ?_
    exact h
  · refine kept_execSpindle ?_
    exact h
  · refine kept_execSled ?_
    exact h
  · refine kept_execSledTable ?_
    exact h
  · refine kept_execLoader ?_
    exact h
  · refine kept_execSledTableDefault ?_
    exact h
  · refine kept_execChannel ?_
    exact h
  · refine kept_execSecondLook ?_
    exact h
  · refine kept_execChannelDefault ?_
    exact h
  · refine kept_execWstrat ?_
    exact h
  · refine kept_execWstratDefault ?_
    exact h
  · refine kept_execLds ?_
    exact h
  · refine kept_execCapture ?_
    exact h
  · refine kept_execTimeSetStep ?_
    exact h
  · refine kept_execTimeSetSlew ?_
    exact h
  · refine kept_execTariffSet ?_
    exact h
  · refine kept_execEnergyClose ?_
    exact h
  · refine kept_execCollieArm ?_
    exact h
  · refine kept_execCollieDisarm ?_
    exact h
  · refine kept_execCollieServe ?_
    exact h
  · refine kept_execModeSetVigil ?_
    exact h
  · refine kept_execModeSetDoze ?_
    exact h
  · refine kept_execModeSetIdle ?_
    exact h
  · refine kept_execModeSetService ?_
    exact h
  · refine kept_execCalibrate ?_
    exact h
  · refine kept_execFwDownload ?_
    exact h
  · refine kept_execFwActivateTry ?_
    exact h
  · refine kept_execFwActivateConfirm ?_
    exact h
  · refine kept_execLogRead ?_
    exact h
  · refine kept_execTestUnitReady ?_
    exact h
  · refine kept_execRequestSense ?_
    exact h
  · refine kept_execFormatUnit ?_
    exact h
  · refine kept_execInquiry ?_
    exact h
  · refine kept_execStartStopUnit ?_
    exact h
  · refine kept_execPreventAllowMediumRemoval ?_
    exact h
  · refine kept_execReadFormatCapacities ?_
    exact h
  · refine kept_execReadCapacity ?_
    exact h
  · refine kept_execRead10 ?_
    exact h
  · refine kept_execRead12 ?_
    exact h
  · refine kept_execWrite10 ?_
    exact h
  · refine kept_execWrite12 ?_
    exact h
  · refine kept_execVerify10 ?_
    exact h
  · refine kept_execSynchronizeCache ?_
    exact h
  · refine kept_execReadTocPmaAtip ?_
    exact h
  · refine kept_execGetConfiguration ?_
    exact h
  · refine kept_execGetEventStatusNotification ?_
    exact h
  · refine kept_execReadDiscInformation ?_
    exact h
  · refine kept_execReadTrackInformation ?_
    exact h
  · refine kept_execMmcReserveTrack ?_
    exact h
  · refine kept_execModeSense10 ?_
    exact h
  · refine kept_execCloseTrackSession ?_
    exact h
  · refine kept_execReadDiscStructure ?_
    exact h
  · refine kept_execSetCdSpeed ?_
    exact h
  · refine kept_execReadCd ?_
    exact h
  · refine kept_execDoorbellPoll ?_
    exact h
  · refine kept_execPollResult ?_
    exact h
  · refine kept_execSleepEnter ?_
    exact h
  · refine kept_execFinalTailRead ?_
    exact h
  · refine kept_execDbpWake ?_
    exact h
  · refine kept_execStatusBlockWrite ?_
    exact h
  · refine kept_execHeadRead ?_
    exact h
  · refine kept_execDescriptorFetch ?_
    exact h
  · refine kept_execDescriptorConsume ?_
    exact h
  · refine kept_execListRead ?_
    exact h
  · refine kept_execGrantTableRead ?_
    exact h
  · refine kept_execGrantReread ?_
    exact h
  · refine kept_execRequestGranted ?_
    exact h
  · refine kept_execDescriptorStart ?_
    exact h
  · refine kept_execDroverDispatch ?_
    exact h
  · refine kept_execMechanismFree ?_
    exact h
  · refine kept_execDescriptorTimeout ?_
    exact h
  · refine kept_execHostDataRead ?_
    exact h
  · refine kept_execCompletionPost ?_
    exact h
  · refine kept_execCoalTimeExpiry ?_
    exact h
  · refine kept_execWringEnable ?_
    exact h
  · refine kept_execWringDisable ?_
    exact h
  · refine kept_execWringAbort ?_
    exact h
  · refine kept_execDringEnable ?_
    exact h
  · refine kept_execDringDisable ?_
    exact h
  · refine kept_execDringReconfigure ?_
    exact h
  · refine kept_execDbpEnable ?_
    exact h
  · refine kept_execDbpDisable ?_
    exact h
  · refine kept_execFlrFold ?_
    exact h
  · refine kept_execFoldResetComplete ?_
    exact h
  · refine kept_execFlrFold0 ?_
    exact h
  · refine kept_execPerstN ?_
    exact h
  · refine kept_execVfEnableClear ?_
    exact h
  · refine kept_execVfEnableSet ?_
    exact h
  · refine kept_execRegisterWrite ?_
    exact h
  · refine kept_execPwrLinkStatClear ?_
    exact h
  · refine kept_execGntBaseWrite ?_
    exact h
  · refine kept_execGntCtlWrite ?_
    exact h
  · refine kept_execGntStatClear ?_
    exact h
  · refine kept_execPenFlush ?_
    exact h
  · refine kept_execFqRejectClear ?_
    exact h
  · refine kept_execFqWaitClear ?_
    exact h
  · refine kept_execFqAuditStart ?_
    exact h
  · refine kept_execAuditDone ?_
    exact h
  · refine kept_execWayOff ?_
    exact h
  · refine kept_execWayWalkDone ?_
    exact h
  · refine kept_execWayOn ?_
    exact h
  · refine kept_execCapDataRead ?_
    exact h
  · refine kept_execCapDrop ?_
    exact h
  · refine kept_execEccBktStatClear ?_
    exact h
  · refine kept_execEccCountClear ?_
    exact h
  · refine kept_execScrubStatClear ?_
    exact h
  · refine kept_execEccFlipArm ?_
    exact h
  · refine kept_execMramRawProgram ?_
    exact h
  · refine kept_execMramRawRead ?_
    exact h
  · refine kept_execCphLockTake ?_
    exact h
  · refine kept_execCphLockRelease ?_
    exact h
  · refine kept_execCphKatStart ?_
    exact h
  · refine kept_execCphKatDone ?_
    exact h
  · refine kept_execCphStatClear ?_
    exact h
  · refine kept_execKprTickLoRead ?_
    exact h
  · refine kept_execWdgCtlWrite ?_
    exact h
  · refine kept_execHaltAck ?_
    exact h
  · refine kept_execHaltRelease ?_
    exact h
  · refine kept_execGovWrite ?_
    exact h
  · refine kept_execGovStatClear ?_
    exact h
  · refine kept_execPwrStatClear ?_
    exact h
  · refine kept_execSbWake ?_
    exact h
  · refine kept_execSbServe ?_
    exact h
  · refine kept_execSbIgnoredClear ?_
    exact h
  · refine kept_execSbRead ?_
    exact h
  · refine kept_execCollieTokenLatch ?_
    exact h
  · refine kept_execCollieExpiry ?_
    exact h
  · refine kept_execWdogPulseEnd ?_
    exact h
  · refine kept_execInternalWatchdogServe ?_
    exact h
  · refine kept_execInternalWatchdogExpiry ?_
    exact h
  · refine kept_execBronzeRestart ?_
    exact h
  · refine kept_execClockTrip ?_
    exact h
  · refine kept_execOscillatorResume ?_
    exact h
  · refine kept_execLogBlockCommit ?_
    exact h
  · refine kept_execBootFailsClear ?_
    exact h
  · refine kept_execKeeperPowerUp ?_
    exact h
  · refine kept_execStartUp ?_
    exact h
  · refine kept_execDrainComplete ?_
    exact h
  · refine kept_execPark ?_
    exact h
  · refine kept_execAutoDoze ?_
    exact h
  · refine kept_execPcieRequestWake ?_
    exact h
  · refine kept_execInputLoss ?_
    exact h
  · refine kept_execInputLossRailDown ?_
    exact h
  · refine kept_execInputReturn ?_
    exact h
  · refine kept_execMainsStart ?_
    exact h
  · refine kept_execMainsStop ?_
    exact h
  · refine kept_execRegulationLoss ?_
    exact h
  · refine kept_execRegulationRestart ?_
    exact h
  · refine kept_execRailFault ?_
    exact h
  · refine kept_execRailFaultRestart ?_
    exact h
  · refine kept_execThermalReading ?_
    exact h
  · refine kept_execThermalRailDown ?_
    exact h
  · refine kept_execThermalRestart ?_
    exact h
  · refine kept_execPaceChange ?_
    exact h
  · refine kept_execGovernorFrame ?_
    exact h
  · refine kept_execKeeperToBattery ?_
    exact h
  · refine kept_execKeeperToVin ?_
    exact h
  · refine kept_execVbatMeasure ?_
    exact h
  · refine kept_execKeeperLost ?_
    exact h
  · refine kept_execKeeperMirrorCommit ?_
    exact h
  · refine kept_execMeterUpdate ?_
    exact h
  · refine kept_execIntervalBoundary ?_
    exact h
  · refine kept_execTimeStep ?_
    exact h
  · refine kept_execSlewEnd ?_
    exact h
  · refine kept_execCalendarEnd ?_
    exact h
  · refine kept_execLoopStrobe ?_
    exact h
  · refine kept_execServoSampleArrival ?_
    exact h
  · refine kept_execLoopComputeDone ?_
    exact h
  · refine kept_execOverrunLimit ?_
    exact h
  · refine kept_execDefectLong ?_
    exact h
  · refine kept_execPickupOpen ?_
    exact h
  · refine kept_execApcLimit ?_
    exact h
  · refine kept_execPuTempOpen ?_
    exact h
  · refine kept_execPuTempClear ?_
    exact h
  · refine kept_execBankSwapApply ?_
    exact h
  · refine kept_execFocusOn ?_
    exact h
  · refine kept_execTrackOn ?_
    exact h
  · refine kept_execTrackOnTimeout ?_
    exact h
  · refine kept_execTrackJump ?_
    exact h
  · refine kept_execJumpTimeout ?_
    exact h
  · refine kept_execLayerJump ?_
    exact h
  · refine kept_execLayerJumpTimeout ?_
    exact h
  · refine kept_execServoPacketBad ?_
    exact h
  · refine kept_execChannelPacketBad ?_
    exact h
  · refine kept_execControlPacketArrival ?_
    exact h
  · refine kept_execYelxoBCommandFrame ?_
    exact h
  · refine kept_execLinkStall ?_
    exact h
  · refine kept_execLoopTickLoss ?_
    exact h
  · refine kept_execTbLock ?_
    exact h
  · refine kept_execSpindleStart ?_
    exact h
  · refine kept_execForcedStep ?_
    exact h
  · refine kept_execStartCoastEnd ?_
    exact h
  · refine kept_execZeroCrossing ?_
    exact h
  · refine kept_execCommutate ?_
    exact h
  · refine kept_execHallEdge ?_
    exact h
  · refine kept_execHallInvalid ?_
    exact h
  · refine kept_execSpinStall ?_
    exact h
  · refine kept_execBridgeOc ?_
    exact h
  · refine kept_execSpinCeilingSet ?_
    exact h
  · refine kept_execSpinCeilingClear ?_
    exact h
  · refine kept_execSpindleStopped ?_
    exact h
  · refine kept_execSledUpdate ?_
    exact h
  · refine kept_execSledSeek ?_
    exact h
  · refine kept_execSeekSettleEnd ?_
    exact h
  · refine kept_execSledRecover ?_
    exact h
  · refine kept_execSledHome ?_
    exact h
  · refine kept_execHomeNChange ?_
    exact h
  · refine kept_execTrayInNChange ?_
    exact h
  · refine kept_execTrayOutNChange ?_
    exact h
  · refine kept_execEjectButton ?_
    exact h
  · refine kept_execLoaderJam ?_
    exact h
  · refine kept_execSolenoidPulseEnd ?_
    exact h
  · refine kept_execSolenoidTimeout ?_
    exact h
  · refine kept_execAcquisitionLock ?_
    exact h
  · refine kept_execSlip ?_
    exact h
  · refine kept_execLossOfLock ?_
    exact h
  · refine kept_execRelockTimeout ?_
    exact h
  · refine kept_execDefectFlagSet ?_
    exact h
  · refine kept_execDefectFlagClear ?_
    exact h
  · refine kept_execAddressAccept ?_
    exact h
  · refine kept_execUnitDecode ?_
    exact h
  · refine kept_execSecondLookPassEnd ?_
    exact h
  · refine kept_execPhysicalReread ?_
    exact h
  · refine kept_execReadAhead ?_
    exact h
  · refine kept_execSpeculativeSeek ?_
    exact h
  · refine kept_execPenCopyExpire ?_
    exact h
  · refine kept_execOpc ?_
    exact h
  · refine kept_execUnitRecorded ?_
    exact h
  · refine kept_execUnderrun ?_
    exact h
  · refine kept_execReadbackDone ?_
    exact h
  · refine kept_execLdsTransaction ?_
    exact h
  · refine kept_execCaptureTrigger ?_
    exact h
  · refine kept_execCapturePacket ?_
    exact h
  · refine kept_execAlloc ?_
    exact h
  · refine kept_execShare ?_
    exact h
  · refine kept_execDrop ?_
    exact h
  · refine kept_execFree ?_
    exact h
  · refine kept_execPass ?_
    exact h
  · refine kept_execStackRefill ?_
    exact h
  · refine kept_execStackSpill ?_
    exact h
  · refine kept_execScrubBurst ?_
    exact h
  · refine kept_execBucketLeak ?_
    exact h
  · refine kept_execMramScrubRead ?_
    exact h
  · refine kept_execMramPageProgram ?_
    exact h
  · refine kept_execLockGrant ?_
    exact h
  · refine kept_execTagVerify ?_
    exact h
  · refine kept_execLockRelease ?_
    exact h
  · refine kept_execCipherParityFault ?_
    exact h
  · refine kept_execNonceReservation ?_
    exact h
  · refine kept_execConfigurationWrite ?_
    exact h
  · refine kept_execX32CrystalStart ?_
    exact h
  · refine kept_execTokenBucketRefill ?_
    exact h
  · refine kept_execMemoryResetRequest ?_
    exact h

end Sys2Proof.Machine
end

