-- ==== Sys2Proof/Laws/KeptIdle.lean ====
section
/-! SUPPORT. Laws/KeptIdle.lean: a microsecond with no command waiting keeps the queue, the reserved bits and the canonical lists. -/
namespace Sys2Proof.Machine

theorem kept_idleTick {q : List Instr} {s : State} (h : Kept q s) : Kept q (idleTick s) :=
  kept_buttonEject (kept_closePushed (kept_sleepTick (kept_rampStep (kept_flipIdle (kept_passTime h)))))

end Sys2Proof.Machine
end

