-- ==== Sys2Proof/Laws/Memory.lean ====
section
/-! SUPPORT. Laws/Memory.lean: what a run of accesses to the external memory leaves alone. -/
namespace Sys2Proof.Machine

theorem eccUncorr_beside (s : State) (n : Fin 4) (source : Nat) (fallback tag : Bool) (loc : Nat) :
    Beside { s with ecc := (eccUncorr s n source fallback tag loc).ecc } (eccUncorr s n source fallback tag loc) := by
  have h := beside_postEvent (f := 0) (code := evMemoryUncorr)
    (dw2 := w32 (n.val + 16 * source + 64 * b2n fallback + 128 * b2n tag + 256 * (loc % 2 ^ 24)))
    (beside_rfl (v := s.modBucket n fun b => { b with uncorrected := sat 8 (b.uncorrected + 1) }))
  exact ⟨h.1, h.2, h.3, h.4, h.5, h.6, h.7, rfl, h.9, h.10, h.11, h.12, h.13, h.14, h.15, h.16, h.17, h.18, h.19, h.20, h.21,
    h.22, h.23⟩

/-- A correction changes its bucket, and what its event changes (R289). -/
theorem eccCorrect_beside (s : State) (n : Fin 4) : Beside { s with ecc := (eccCorrect s n).ecc } (eccCorrect s n) := by
  unfold eccCorrect
  dsimp only
  split
  · have h := beside_postEvent (f := 0) (code := evEccBucket)
      (dw2 := w32 (n.val + 256 * bucketCapacity { s.ecc.buckets.get n with corrected := sat 24 ((s.ecc.buckets.get n).corrected + 1) }
        + 65536 * sat 16 ((s.ecc.buckets.get n).overflows + 1)))
      (beside_rfl (v := s.modBucket n fun _ => { s.ecc.buckets.get n with
        corrected := sat 24 ((s.ecc.buckets.get n).corrected + 1), level := 0
        overflows := sat 16 ((s.ecc.buckets.get n).overflows + 1) }))
    exact ⟨h.1, h.2, h.3, h.4, h.5, h.6, h.7, rfl, h.9, h.10, h.11, h.12, h.13, h.14, h.15, h.16, h.17, h.18, h.19, h.20, h.21,
      h.22, h.23⟩
  · exact ⟨rfl, rfl, rfl, rfl, rfl, rfl, rfl, rfl, rfl, rfl, rfl, rfl, rfl, rfl, rfl, rfl, rfl, rfl, rfl, rfl, rfl, rfl, rfl⟩

/-- The state is v but for the memory's checking, and what Beside allows. -/
def BesideMem (v s : State) : Prop := Beside { v with cache := s.cache, ecc := s.ecc } s

theorem besideMem_foldl {α : Type} {g : State → α → State} (hg : ∀ s x, Beside { s with ecc := (g s x).ecc } (g s x)) {v : State} :
    ∀ (l : List α) {s : State}, BesideMem v s → BesideMem v (l.foldl g s)
  | [], _, h => h
  | x :: r, s, h => by
    have e := hg s x
    refine besideMem_foldl hg r ?_
    exact ⟨e.1.trans h.1, e.2.trans h.2, e.3.trans h.3, e.4.trans h.4, e.5.trans h.5, rfl, e.7.trans h.7, rfl, e.9.trans h.9,
      e.10.trans h.10, e.11.trans h.11, e.12.trans h.12, e.13.trans h.13, e.14.trans h.14, e.15.trans h.15, e.16.trans h.16,
      e.17.trans h.17, e.18.trans h.18, e.19.trans h.19, e.20.trans h.20, e.21.trans h.21, e.22.trans h.22, e.23.trans h.23⟩

/-- A run of accesses changes the cache and its lines, the wrong bits and the ECC counters, and, through the events of R289 and R290,
what posting an event changes: nothing else (R275, R286). -/
theorem memRun_beside (s : State) (l : List MemOp) : BesideMem s (memRun s l).1 := by
  unfold memRun
  split
  · exact beside_rfl
  · dsimp only
    generalize l.foldl memAccess { cache := { s.cache with bus := [] }, ecc := s.ecc } = m
    have h : BesideMem s { s with cache := m.cache, ecc := m.ecc } := beside_rfl
    have c := besideMem_foldl eccCorrect_beside m.corr h
    exact besideMem_foldl (fun t (x : Fin 4 × Nat × Nat) => eccUncorr_beside t x.1 x.2.1 false false x.2.2) m.bad c

@[simp] theorem memRun_cph (s : State) (l : List MemOp) : (memRun s l).1.cph = s.cph := (memRun_beside s l).cph_eq
@[simp] theorem memRun_job (s : State) (l : List MemOp) : (memRun s l).1.job = s.job := (memRun_beside s l).job_eq
@[simp] theorem memRun_disc (s : State) (l : List MemOp) : (memRun s l).1.disc = s.disc := (memRun_beside s l).disc_eq

end Sys2Proof.Machine
end

