-- ==== Sys2Proof/Laws/Modes.lean ====
section
/-! SUPPORT. Laws/Modes.lean: what completions, sleeping folds and the exit of SERVICE leave alone, and how the mechanism
stands on its way into DOZE or VIGIL. -/
namespace Sys2Proof.Machine

/-- Records, power, keeper, platform, spindle and sled are the same. -/
structure Aside (v t : State) : Prop where
  mram : t.mram = v.mram
  pwr : t.pwr = v.pwr
  kpr : t.kpr = v.kpr
  plat : t.plat = v.plat
  spindle : t.spindle = v.spindle
  sled : t.sled = v.sled

theorem aside_rfl (s : State) : Aside s s := ⟨rfl, rfl, rfl, rfl, rfl, rfl⟩

theorem aside_trans {u v t : State} (h : Aside u v) (g : Aside v t) : Aside u t :=
  ⟨g.mram.trans h.mram, g.pwr.trans h.pwr, g.kpr.trans h.kpr, g.plat.trans h.plat, g.spindle.trans h.spindle, g.sled.trans h.sled⟩

theorem aside_beside {v t : State} (h : Beside v t) : Aside v t :=
  ⟨h.mram_eq, h.pwr_eq, h.kpr_eq, h.plat_eq, h.spindle_eq, h.sled_eq⟩

/-- The mode, and what a drain holds back, do not turn on the quiet instant. -/
theorem sys_of {a b : Sys} (h : ({ a with quietSince := 0 } : Sys) = { b with quietSince := 0 }) : a.mode = b.mode ∧
    a.drainAll = b.drainAll ∧ a.drainOthers = b.drainOthers ∧ a.ready = b.ready :=
  ⟨by have e := congrArg Sys.mode h; exact e, by have e := congrArg Sys.drainAll h; exact e,
    by have e := congrArg Sys.drainOthers h; exact e, by have e := congrArg Sys.ready h; exact e⟩

theorem finish_sys (s : State) (f : FoldId) (k : Nat) (st : Status) (n : Nat) : (finish s f k st n).sys = s.sys := by
  rw [(finish_endsAs s f k st n).rest]

theorem aside_foldl {α : Type} {g : State → α → State} (h : ∀ (s : State) (a : α), Aside s (g s a)) :
    ∀ (l : List α) (s : State), Aside s (l.foldl g s)
  | [], s => aside_rfl s
  | a :: r, s => aside_trans (h s a) (aside_foldl h r _)

theorem aside_modDesc (s : State) (f : FoldId) (k : Nat) (g : Desc → Desc) : Aside s (s.modDesc f k g) := ⟨rfl, rfl, rfl, rfl, rfl, rfl⟩

theorem aside_finish (s : State) (f : FoldId) (k : Nat) (st : Status) (n : Nat) : Aside s (finish s f k st n) := by
  have h := (finish_endsAs s f k st n).rest
  refine ⟨?_, ?_, ?_, ?_, ?_, ?_⟩ <;> rw [h]

theorem aside_releaseLock (s : State) : Aside s (releaseLock s) := by
  rw [releaseLock_eq]
  exact ⟨rfl, rfl, rfl, rfl, rfl, rfl⟩

theorem aside_broadcast (s : State) (c : Nat) (w : Word) : Aside s (broadcast s c w) := aside_beside (beside_broadcast beside_rfl)

theorem aside_completionPost (s : State) (f : FoldId) (k : Nat) : Aside s (completionPost f k s) := by
  unfold completionPost
  split
  · exact aside_rfl s
  · next d h =>
    split
    · exact aside_rfl s
    · extract_lets aux auxOut t0 t m r c
      have h1 : ∀ u : State, Aside s u → Aside s (lockAtCompletion u f k) := by
        intro u h
        unfold lockAtCompletion
        split
        · exact aside_trans h (aside_releaseLock u)
        · exact h
      have h2 : ∀ (o : List Out) (g : Desc → Desc), Aside s ((noteSense (s.emits o) f d).modDesc f k g) := by
        intro o g
        have h4 : Aside s (noteSense (s.emits o) f d) := by
          unfold noteSense
          split <;> exact ⟨rfl, rfl, rfl, rfl, rfl, rfl⟩
        exact aside_trans h4 (aside_modDesc _ f k g)
      have h3 : Aside s t := h1 _ (h2 _ _)
      clear_value t
      split
      · refine aside_trans h3 (aside_beside ?_)
        exact beside_retire beside_rfl
      · refine aside_trans h3 (aside_beside ?_)
        exact beside_reportLost (beside_postItem beside_rfl)

theorem aside_sleepAll (s : State) : Aside s (sleepAll s) := by
  refine aside_foldl (fun t f => ?_) allFolds s
  unfold sleepFold
  dsimp only
  split
  · exact aside_rfl t
  · exact aside_beside (beside_statusBlock (beside_modDbp beside_rfl))

theorem aside_exitService (s : State) : Aside s (exitService s) := by
  unfold exitService
  dsimp only
  refine aside_trans ?_ (aside_broadcast _ _ _)
  have h : ∀ (u : State) (b : Bool), Aside s u → Aside s (if b = true then releaseLock u else u) := by
    intro u b h
    cases b
    · exact h
    · exact aside_trans h (aside_releaseLock u)
  have h1 := h (capEmpty s) (capEmpty s).cph.direct ⟨rfl, rfl, rfl, rfl, rfl, rfl⟩
  have h2 := fun (x : Sys) (e : Ecc) => aside_trans h1 (t := { (if (capEmpty s).cph.direct = true then releaseLock (capEmpty s)
    else capEmpty s) with ecc := e, sys := x }) ⟨rfl, rfl, rfl, rfl, rfl, rfl⟩
  split
  · exact aside_trans (h2 _ _) ⟨rfl, rfl, rfl, rfl, rfl, rfl⟩
  · exact h2 _ _

theorem aside_leaveService (s : State) : Aside s (leaveService s) := by
  unfold leaveService
  split
  · exact aside_exitService s
  · exact aside_rfl s

/-- What parking leaves alone, and how the spindle then stands: stopped if it stood still, else braked or shorted (R192, R405). -/
theorem parkMechanism_parks (s : State) : ((parkMechanism s).spindle.st = .stopped ↔ s.spindle.st = .stopped) ∧
    ((parkMechanism s).spindle.st = .stopped ∨ (parkMechanism s).spindle.st = .braking ∨ (parkMechanism s).spindle.st = .shorted) ∧
    (parkMechanism s).mram = s.mram ∧ (parkMechanism s).kpr = s.kpr ∧ (parkMechanism s).pwr = s.pwr ∧ (parkMechanism s).plat = s.plat := by
  have hl : ∀ t : State, (dropLaser t).mram = t.mram ∧ (dropLaser t).kpr = t.kpr ∧ (dropLaser t).pwr = t.pwr ∧
      (dropLaser t).plat = t.plat ∧ (dropLaser t).spindle = t.spindle := by
    intro t
    unfold dropLaser dropGate losePartial
    dsimp only
    repeat' split
    all_goals exact ⟨rfl, rfl, rfl, rfl, rfl⟩
  have ho : ∀ t : State, (openLoops t).mram = t.mram ∧ (openLoops t).kpr = t.kpr ∧ (openLoops t).pwr = t.pwr ∧
      (openLoops t).plat = t.plat ∧ (openLoops t).spindle = t.spindle := by
    intro t
    unfold openLoops beginRamp
    dsimp only
    repeat' split
    all_goals exact ⟨rfl, rfl, rfl, rfl, rfl⟩
  have hn : ∀ t : State, t.spindle.st = .braking → (brakeOn t).mram = t.mram ∧ (brakeOn t).kpr = t.kpr ∧ (brakeOn t).pwr = t.pwr ∧
      (brakeOn t).plat = t.plat ∧ ((brakeOn t).spindle.st = .braking ∨ (brakeOn t).spindle.st = .shorted) := by
    intro t h
    unfold brakeOn
    split
    · exact ⟨rfl, rfl, rfl, rfl, .inr rfl⟩
    · exact ⟨rfl, rfl, rfl, rfl, .inl h⟩
  have hb : ∀ t : State, (brakeSpindle t).mram = t.mram ∧ (brakeSpindle t).kpr = t.kpr ∧ (brakeSpindle t).pwr = t.pwr ∧
      (brakeSpindle t).plat = t.plat ∧ ((brakeSpindle t).spindle.st = .stopped ↔ t.spindle.st = .stopped) ∧
      ((brakeSpindle t).spindle.st = .stopped ∨ (brakeSpindle t).spindle.st = .braking ∨ (brakeSpindle t).spindle.st = .shorted) := by
    intro t
    unfold brakeSpindle
    dsimp only
    split
    · next h => exact ⟨rfl, rfl, rfl, rfl, .rfl, .inl h⟩
    · next h => exact ⟨rfl, rfl, rfl, rfl, .rfl, .inr (.inr h)⟩
    · next h => exact ⟨rfl, rfl, rfl, rfl, .rfl, .inr (.inl h)⟩
    · next h _ _ =>
      obtain ⟨n1, n2, n3, n4, n5⟩ := hn (driveStep { setOut (setLoop t 4 false false) 4 (-2097152) with
        spindle := { (setOut (setLoop t 4 false false) 4 (-2097152)).spindle with
          st := .braking, since := t.us, commutating := none } } t.spindle.step) rfl
      refine ⟨n1, n2, n3, n4, ⟨fun g => ?_, fun g => absurd g h⟩, .inr n5⟩
      rcases n5 with n5 | n5 <;> exact absurd (n5.symm.trans g) (by decide)
  obtain ⟨a1, a2, a3, a4, a5⟩ := hl s
  obtain ⟨b1, b2, b3, b4, b5⟩ := ho (dropLaser s)
  obtain ⟨c1, c2, c3, c4, c5, c6⟩ := hb (openLoops (dropLaser s))
  rw [b5, a5] at c5
  exact ⟨c5, c6, c1.trans (b1.trans a1), c2.trans (b2.trans a2), c3.trans (b3.trans a3), c4.trans (b4.trans a4)⟩

/-- On the way into DOZE or VIGIL the sled is at rest, the spindle is stopped or on its way to a stop, and nothing of power, records,
keeper and platform has changed yet (R405, R407). -/
theorem beginSleep_stops (s : State) (e : SleepEntry) : (beginSleep s e).sled.move = .rest ∧
    ((beginSleep s e).spindle.st = .stopped ↔ s.spindle.st = .stopped) ∧
    ((beginSleep s e).spindle.st = .stopped ∨ (beginSleep s e).spindle.st = .braking ∨ (beginSleep s e).spindle.st = .shorted) ∧
    (beginSleep s e).sys.entry = some e ∧ (beginSleep s e).pwr = s.pwr ∧ (beginSleep s e).mram = s.mram ∧
    (beginSleep s e).kpr = s.kpr ∧ (beginSleep s e).plat = s.plat := by
  have h0 := aside_leaveService s
  obtain ⟨a1, a2, a3, a4, a5, a6⟩ := parkMechanism_parks (leaveService s)
  rw [h0.spindle] at a1
  have hs : ∀ t : State, (stopSled t).mram = t.mram ∧ (stopSled t).kpr = t.kpr ∧ (stopSled t).pwr = t.pwr ∧
      (stopSled t).plat = t.plat ∧ (stopSled t).spindle = t.spindle ∧ (stopSled t).sled.move = .rest := by
    intro t
    unfold stopSled loseSled
    dsimp only
    split
    · exact ⟨rfl, rfl, rfl, rfl, rfl, rfl⟩
    · have h := @beside_postEvent _ { t with sled := { t.sled with
          move := .rest, ia := 0, ib := 0, seek := none, settling := false, lost := true } } 0 evSledPosition 1 beside_rfl
      exact ⟨h.mram_eq, h.kpr_eq, h.pwr_eq, h.plat_eq, h.spindle_eq, congrArg Sled.move h.sled_eq⟩
  have hl : ∀ t : State, (stopLoader t).mram = t.mram ∧ (stopLoader t).kpr = t.kpr ∧ (stopLoader t).pwr = t.pwr ∧
      (stopLoader t).plat = t.plat ∧ (stopLoader t).spindle = t.spindle ∧ (stopLoader t).sled = t.sled := by
    intro t
    unfold stopLoader
    dsimp only
    split <;> exact ⟨rfl, rfl, rfl, rfl, rfl, rfl⟩
  obtain ⟨b1, b2, b3, b4, b5, b6⟩ := hs (parkMechanism (leaveService s))
  obtain ⟨c1, c2, c3, c4, c5, c6⟩ := hl (stopSled (parkMechanism (leaveService s)))
  have k : ∀ t : State, t.sled.move = .rest → (t.spindle.st = .stopped ↔ s.spindle.st = .stopped) →
      (t.spindle.st = .stopped ∨ t.spindle.st = .braking ∨ t.spindle.st = .shorted) → t.pwr = s.pwr → t.mram = s.mram →
      t.kpr = s.kpr → t.plat = s.plat → ∀ u : State, u = (match e.k with
        | some k => noteStart t 0 k
        | none => t) → u.sled.move = .rest ∧ (u.spindle.st = .stopped ↔ s.spindle.st = .stopped) ∧
      (u.spindle.st = .stopped ∨ u.spindle.st = .braking ∨ u.spindle.st = .shorted) ∧
      u.pwr = s.pwr ∧ u.mram = s.mram ∧ u.kpr = s.kpr ∧ u.plat = s.plat := by
    intro t h1 h2 h3 h4 h5 h6 h7 u hu
    cases hk : e.k with
    | none => rw [hk] at hu; subst hu; exact ⟨h1, h2, h3, h4, h5, h6, h7⟩
    | some k => rw [hk] at hu; subst hu; exact ⟨h1, h2, h3, h4, h5, h6, h7⟩
  obtain ⟨d1, d2, d3, d4, d5, d6, d7⟩ := k (stopLoader (stopSled (parkMechanism (leaveService s))))
    (by rw [c6, b6]) (by rw [c5, b5]; exact a1) (by rw [c5, b5]; exact a2)
    (c3.trans (b3.trans (a5.trans h0.pwr))) (c1.trans (b1.trans (a3.trans h0.mram)))
    (c2.trans (b2.trans (a4.trans h0.kpr))) (c4.trans (b4.trans (a6.trans h0.plat))) _ rfl
  exact ⟨d1, d2, d3, rfl, d4, d5, d6, d7⟩

end Sys2Proof.Machine
end

