-- ==== Sys2Proof/Tests/Slice0.lean ====
section
/-! SUPPORT. Tests/Slice0.lean: checks of the model on fixed values. First the helper states, then the well-formedness checks on
terms that break them, the worked examples of the manual (expected values from its text), and last, for each statement with
hypotheses, one theorem `wit_<statement>` that gives a state and operands meeting all the hypotheses of each of its clauses. -/
open Sys2Proof Sys2Proof.Machine

-- one thread checks these theorems one after the other
set_option Elab.async false

/-! ### Helper states and operands -/
namespace W
/-- The fields of a helper descriptor: 4,096 bytes at address 0. -/
def fld : Fields :=
  { opcode := 0, dupchk := false, irq := false, fence := false, specok := false, sealedFlag := false, reserved := 0, tag := 0
    stream := 0, keySlot := 0, timeout := 0, address := 0, count := 1, opfield := 0, length := 4096, listPtr := 0x1000
    aadPtr := 0, aadLen := 0, auxPtr := 0x2000, opdata := 0 }
/-- A running descriptor of work ring 0. -/
def desc : Desc := { k := 1, ring := 0, idx := 0, op := .nop, fld := fld, stage := .running, past5 := true, deadline := 1000 }
/-- A rewritable disc. -/
def disc : DiscInfo :=
  { discId := 1, medium := .dvdPlusRw, layers := 1, writeProtected := false, bca := false, finalised := false, capacity := 100000
    tracks := [], lastRecorded := some 50000, cdda := [], opposite := false, spares := [100], pca := [100], mid := 7, session := 1 }
/-- The job of descriptor 1 of fold 0. -/
def job : Job := { kind := .moving, f := 0, k := 1, at_ := 0 }
/-- The job of a descriptor of a fold. -/
def jobAt (f : FoldId) (k : Nat) : Job := { job with f := f, k := k }
/-- The machine ready to move: the timebase locked, fold 0 a bus master with its ring and doorbell page enabled. -/
def live : State :=
  ({ State.reset with
     us := 100000
     pwr.tbLock := true
     plat.gntEn := true
     sys.cal.items := [some (List.replicate 16 (1000000, 0)), some (List.replicate 2 (1000000, 0)), none, none, none, some [(400, 900)]]
     kpr.calValid := true }.modFold 0 fun r => { r with busMaster := true, dbp.en := true, dbp.stopped := false }).modWring 0 0 fun w =>
      { w with en := true, log2 := 4 }
/-- The same, later. -/
def late : State := { live with us := 100000000, kpr.tick := 2 ^ 28, sys.mode := .read, cph.slots := Vector.replicate 17 { st := .loaded, key := List.replicate 16 0, useLimit := 100, reservedTo := 100 } }
/-- 512 bytes, 0 but where the list names one. -/
def bytes (l : List (Nat × Byte)) : List Byte := (List.range 512).map fun i => ((l.find? fun x => x.1 == i).map fun x => x.2).getD 0
def unit : UnitRead := { first := 0, blocks := [], failed := [], lostSync := false, recorded := true, samplesWhole := true, layer := 0, scan := {} }
/-- A unit as the medium gives it, good in every block. -/
def signal : UnitSignal := { first := 0, blocks := List.replicate 16 [], recorded := true }
def pair : CalPair := { g1 := 0, g2 := 0, o1 := 0, o2 := 0 }
def sums : ConvSums := { plus1 := 0, minus1 := 0, plus2 := 0, minus2 := 0 }
def loads : LoadReads := { with1 := 0, without1 := 0, with2 := 0, without2 := 0, o1 := 0, o2 := 0 }
def meas : CalMeas := { servo := [], rf := [], vref := (0, 0), meterV := pair, meterI := loads, apcSettled := true, apcTarget := 1, apcMax := 2 }
def temps : DieTemps := { bronze := 250, pewter := 250, iron := 250, nickel := none }
def copy : PenCopy := { owner := 0, buf := 0, blocks := [], placedAt := 0, hold := 2000, recovered := false }
def prog : Prog := { region := 7, id := 0, payload := none, left := 2, pages := 2, begun := true, used := [0x3880, 0x3881] }
def entry : LogEntry := { tick := 0, code := 1, detail := 0, cal := 0, flags := 0, fold := 0, extra := 0, seq := 0 }
def strategy : Strategy :=
  { medium := 0, layer := 0, class_ := 0, spaceCode := 0, mid := 0, levels := [], valueMax := 0, opcMethod := 0, opcSteps := 0, opcSpan := 0
    target := 0, kappa := 0, runGain := 0, runLimit := 0, entries := [] }
def bank : Bank := { inOffset := 0, inGain := 0, integMask := 0, outLo := 0, outHi := 0, secs := [] }
def track : Track := { number := 1, first := 0, last := 99, next := some 0, isOpen := true, reserved := true }
/-- An MMC pass that is ready. -/
def mmc : Desc := { desc with k := 2, op := .mmcPass, stage := .ready, fld := { fld with aadLen := 12 } }
/-- A READ whose block is pinned in the pen's buffer 7. -/
def pinned : Desc := { desc with op := .read, pins := [{ buf := 7, lba := 0, data := [], recovered := false }] }
/-- A descriptor that waits for the mechanism. -/
def waits : Desc := { desc with op := .loadEject, stage := .ready }
/-- A WRITE with its working set in buffer 7. -/
def wbuf : Desc := { desc with op := .write, bufs := [7] }
/-- The job of a WRITE that records block 0. -/
def writing : Job := { job with kind := .writing }
/-- The job of a WRITE whose unit 0 awaits its verification. -/
def verifying : Job := { job with kind := .writing, next := 1, unverified := [0] }
/-- The machine with line 1 and the first line of buffer 7 poisoned. -/
def spoilt : State := { live with ecc.sdram := ((List.range 8).map fun i => (8 + i, poison)) ++ ((List.range 8).map fun i => (8 * 448 + i, poison)) }
/-- The machine with a completion held in done ring 0. -/
def held : State := live.modFold 0 fun r => { r with
  dbp.en := true
  drings := Vector.replicate 2 { en := true, held := [.event 0 0 0] } }
/-- A vault object, as written and with a tag of another length. -/
def vaulted : Rec := { region := 3, id := 0, seq := 1, payload := .vault 0 [7] [9], pages := [0x2040], strength := 2 }
def forged : Rec :=
  { vaulted with sealing := some { nonce := [], cipher := [], tag := gcmTag Config.vaultKey [] (vaultAad 0 0) [] ++ [0] } }
/-- A strategy for the helper disc. -/
def powers : Strategy := { strategy with medium := 20, layer := 255, class_ := 1, opcSteps := 2, opcSpan := 10 }
/-- A recordable disc with an open track. -/
def discR : DiscInfo :=
  { disc with medium := .dvdPlusR, tracks := [{ number := 1, first := 0, last := 9999, next := some 0, isOpen := true, reserved := false }] }
/-- A codeword of 32 wrong bytes. -/
def badSignal : UnitSignal :=
  { signal with wrong := List.range 32, codewords := [{ layer := .po, bytes := List.range 32, blocks := [0] }], edcBad := [0] }
/-- One descriptor in a fold. -/
def descs (f : FoldId) (l : List Desc) (s : State) : State := s.modFold f fun r => { r with descs := l }
/-- A PROFILE LOAD of a type, running, and the machine with it. -/
def profile (ty : BitVec 16) : Desc := { desc with op := .profileLoad, fld := { fld with opfield := ty } }
def profiled (ty : BitVec 16) : State := descs 0 [profile ty] live
/-- A byte of a list repeated n times. -/
theorem getD_repeated (e : List Byte) (n i j : Nat) (hi : i < n) (hj : j < e.length) :
    (List.replicate n e).flatten.getD (e.length * i + j) 0 = e.getD j 0 := by
  induction n generalizing i with
  | zero => omega
  | succ n ih =>
    rw [List.replicate_succ, List.flatten_cons]
    cases i with
    | zero => simp [List.getD, List.getElem?_append_left hj]
    | succ i =>
      have h := ih i (by omega)
      rw [List.getD, List.getElem?_append_right (by rw [Nat.mul_succ]; omega)]
      rw [← h, List.getD]
      congr 2
      rw [Nat.mul_succ]; omega

/-- A byte of an entry in a table that repeats it. -/
theorem byteAt_repeated (a e z : List Byte) (n i j : Nat) (hi : i < n) (hj : j < e.length) :
    byteAt (a ++ (List.replicate n e).flatten ++ z) (a.length + e.length * i + j) = byteAt e j := by
  have hl : e.length * i + j < (List.replicate n e).flatten.length := by
    have : e.length * i + e.length ≤ e.length * n := by
      rw [← Nat.mul_succ]; exact Nat.mul_le_mul_left _ hi
    simp [List.length_flatten, Nat.mul_comm n] ; omega
  unfold byteAt
  rw [← getD_repeated e n i j hi hj]
  simp only [List.getD]
  rw [List.append_assoc, List.getElem?_append_right (by omega), List.getElem?_append_left (by omega)]
  congr 3; omega

/-- The entries of a write-strategy table that repeats one. -/
theorem entriesAt_repeated (a e : List Byte) (ha : a.length = 64) (he : e.length = 16) :
    entriesAt (fit 1088 (a ++ (List.replicate 64 e).flatten)) =
      List.replicate 64 ((List.range 8).map fun j => BitVec.ofNat 16 (le16 e (2 * j))) := by
  have hf : fit 1088 (a ++ (List.replicate 64 e).flatten) = a ++ (List.replicate 64 e).flatten ++ [] := by
    have hl : (a ++ (List.replicate 64 e).flatten).length = 1088 := by simp [ha, he]
    rw [fit, List.take_of_length_le (by omega), hl]; rfl
  rw [hf]
  apply List.ext_getElem
  · simp [entriesAt]
  · intro i h1 h2
    simp only [entriesAt, List.getElem_map, List.getElem_range, List.getElem_replicate]
    have hi : i < 64 := by simpa [entriesAt] using h1
    apply List.map_congr_left
    intro j hj
    have hj : j < 8 := by simpa using hj
    have h := byteAt_repeated a e [] 64 i (2 * j) hi (by omega)
    have h' := byteAt_repeated a e [] 64 i (2 * j + 1) hi (by omega)
    rw [ha, he] at h h'
    unfold le16
    rw [← h, ← h']
    rfl
/-- An empty microstep table holds no code above 1,023. -/
theorem tableAt_zeros : ∀ v ∈ tableAt (fit 512 []), v < 1024 := by
  intro v hv
  simp only [tableAt, List.mem_map, List.mem_range] at hv
  obtain ⟨i, hi, rfl⟩ := hv
  have z (m n : Nat) : byteAt (fit m []) n = 0 := by
    simp only [byteAt, fit, zeros, List.getD, List.take_nil, List.nil_append, List.getElem?_replicate]
    split <;> rfl
  simp [le16, z]
/-- A write-strategy table: 64 entries alike, each ending at once. -/
def stratHead : List Byte := (bytes [(0, 2), (0x2B, 5), (0x2C, 5), (0x34, 1)]).take 64
def stratEntry : List Byte := 0 :: 0x80 :: List.replicate 14 0
def strat : List Byte := stratHead ++ (List.replicate 64 stratEntry).flatten
theorem strat_ok : wstratOk (fit 1088 strat) = true := by
  have h := entriesAt_repeated stratHead stratEntry (by decide +kernel) rfl
  unfold wstratOk
  rw [show entriesAt (fit 1088 strat) = _ from h]
  decide +kernel
/-- The machine with an MMC pass that is ready, and the block of a command. -/
def passed : State := descs 0 [mmc] { live with disc := some disc }
def block (l : List (Nat × Byte)) : List Byte := mmcBlock mmc (bytes l)
/-- The machine with a command block that waits for its answer. -/
def asked : Desc := { mmc with op := .mmcReply }
def asking : State := descs 0 [asked] { live with disc := some disc }
/-- FORMAT's form is one of three, whichever. -/
theorem format_ok (n : Nat) : fieldBad .format { mmc.fld with opfield := BitVec.ofNat 16 (n % 3) } = false := by
  have h : n % 3 < 3 := Nat.mod_lt _ (by decide)
  generalize n % 3 = m at h
  match m, h with
  | 0, _ => decide +kernel
  | 1, _ => decide +kernel
  | 2, _ => decide +kernel
/-- A descriptor that a committed record ends. -/
def commits : Desc := { desc with stage := .commit }
/-- The ring with every sample of unit 0 of a DVD, and the machine with it. -/
def ring : SampleRing := { samples := (List.range (unitBits 1)).map fun i => (i, 0), units := [(0, 0)] }
def sampled : State := descs 0 [{ desc with op := .read }] { live with
  disc := some disc, job := some { job with kind := .reading, units := [{ first := 0 }] }, chan.ring := ring }
theorem ring_whole (c : Channel) (a : c.ring = ring) : samplesWhole 1 c 0 = true := by
  have e : unitSpan 1 c 0 = some (0, unitBits 1) := by
    have b : c.ring.units = [(0, 0)] := by rw [a]; rfl
    rw [unitSpan, b]; decide +kernel
  rw [samplesWhole, e, a, ring]
  generalize unitBits 1 = n
  dsimp only
  rw [List.filter_eq_self.mpr]
  · simp
  · simp
theorem sampled_whole : samplesWhole 1 (channelRun sampled []).chan 0 = true := ring_whole _ rfl
theorem eta2 {α β : Type} (p : α × β) : p = (p.1, p.2) := rfl
theorem eta3 {α β γ : Type} (p : α × β × γ) : p = (p.1, p.2.1, p.2.2) := rfl
theorem radius_step (x : Nat) : roundDiv ((x : Int) - ((x + 150 : Nat) : Int)) 150 = -1 := by
  rw [show (x : Int) - ((x + 150 : Nat) : Int) = -150 by omega]; decide
theorem radius_same (x : Nat) : roundDiv ((x : Int) - (x : Int)) 150 = 0 := by rw [Int.sub_self]; decide
end W

/-! ### Well-formedness: each check refuses a term that breaks it -/

theorem test_wf_refuses_long_command_block : (Instr.read10 0 1 (List.replicate 13 0)).wf = false := by decide
theorem test_wf_refuses_vault_key_without_bytes : (Instr.vaultGet 0 1 []).wf = false := by decide
theorem test_wf_refuses_long_vault_key : (Instr.vaultDelete 0 1 (List.replicate 33 0)).wf = false := by decide
theorem test_wf_refuses_vault_value_without_bytes : (Instr.vaultPut 0 1 [1] []).wf = false := by decide
theorem test_wf_refuses_key_length : (Instr.keyLoad 0 1 (List.replicate 17 0)).wf = false := by decide
theorem test_wf_refuses_wrapped_key_length : (Instr.keyLoadWrapped 0 1 (List.replicate 16 0)).wf = false := by decide
theorem test_wf_refuses_fold_record_length : (Instr.foldSet 1 (List.replicate 63 0)).wf = false := by decide
theorem test_wf_refuses_profile_length : (Instr.lds 1 []).wf = false := by decide
theorem test_wf_refuses_image_length : (Instr.fwDownload 1 (List.replicate 255 0)).wf = false := by decide +kernel
theorem test_wf_refuses_nine_descriptors : (Instr.descriptorConsume 0 0 (.ok (List.replicate 9 {}))).wf = false := by decide
theorem test_wf_refuses_register_offset : (Instr.registerWrite (.bar 0 0x1002 0 true)).wf = false := by decide
theorem test_wf_refuses_sideband_address : (Instr.registerWrite (.sideband 0x44 256 0)).wf = false := by decide
theorem test_wf_refuses_servo_code : (Instr.servoSampleArrival (Vector.replicate 16 512)).wf = false := by decide
theorem test_wf_refuses_layer : (Instr.layerJump 3).wf = false := by decide
theorem test_wf_refuses_jump_of_no_track : (Instr.trackJump 0 true).wf = false := by decide
theorem test_wf_refuses_requester : (Instr.alloc 32 (.work 0)).wf = false := by decide
theorem test_wf_refuses_buffer_index : (Instr.free 0 32768).wf = false := by decide
theorem test_wf_refuses_read_request_size : (Instr.configurationWrite 0 (.maxReadRequest 100)).wf = false := by decide
theorem test_wf_refuses_spare_time : (Instr.loopComputeDone 2 1).wf = false := by decide
theorem test_wf_accepts_a_read : (Instr.read 0 1).wf = true := by decide

/-! ### The manual's worked examples -/

/-- Chapter 15: the token of challenge 5 under SEED 0x1234_5678, and the next challenge. -/
theorem test_collie_token : collieToken 0x12345678 5 = 0x519FAF9F ∧ challengeStep 5 = 0x80200001 := by decide

/-- Chapter 15: the token latched at tick 28,800 is valid, and moves the reference and the challenge. -/
theorem test_collie_service :
    let w : Watchdog := { armed := true, seed := 0x12345678, chal := 5, wOpen := 900, wClose := 1100 }
    let t := judgeToken { W.live with kpr.collie := w, kpr.tick := 28800 } 0x519FAF9F
    t.kpr.collie.ref = 28800 ∧ t.kpr.collie.chal = 0x80200001 ∧ t.kpr.evidence.expiries = 0 := by decide +kernel

/-- Chapter 4: the READ of 24 blocks, by its DWs. -/
theorem test_descriptor_fields :
    let x := fieldsOf { dw0 := 0x00420A20, dw1 := 3, dw2 := 0x00023A00, dw4 := 0x00030018, dw5 := 0xD000, dw6 := 0x20000100, dw7 := 1 }
    opOf x.opcode = some .read ∧ x.tag = 0x42 ∧ x.irq = true ∧ x.specok = true ∧ x.dupchk = false ∧ x.stream = 3 ∧
      lbaOf x = 0x23A00 ∧ x.count = 24 ∧ bits x.opfield 3 0 = 3 ∧ x.length = 53248 ∧ x.listPtr = 0x120000100 ∧
      implied .read x none = some 49152 ∧ workingSet .read x 0 = 12 := by decide +kernel

/-- Chapter 4: its scatter list; with B shortened the sum differs from LENGTH. -/
theorem test_scatter_list :
    checkList [⟨0x123400000, 0x8000, 0⟩, ⟨0x123480000, 0x5000, 2⟩] 53248 = some [(0x123400000, 32768), (0x123480000, 20480)] ∧
      checkList [⟨0x123400000, 0x8000, 0⟩, ⟨0x123480000, 0x3000, 2⟩] 53248 = none := by decide +kernel

/-- Chapter 4: the auxiliary area of the READ (10) that ends at block 100,009. -/
theorem test_sense_of_an_unreadable_block :
    senseBytes (senseRecord .unreadable (some 100009)) ++ [scsiStatus .unreadable] =
      [0xF0, 0, 3, 0, 1, 0x86, 0xA9, 0x0A, 0, 0, 0, 0, 0x11, 0, 0, 0, 0, 0, 2] := by decide +kernel

/-- Chapter 4: READ (10) `28 00 00 01 86 a0 00 00 10 00` becomes a READ of 16 blocks from 100,000. -/
theorem test_read10_becomes_a_read :
    let d : Desc := { W.desc with op := .mmcPass, stage := .ready, fld := { W.fld with opcode := 0x70, aadLen := 10, length := 32768 } }
    let s := W.descs 0 [d] { W.live with disc := some W.disc }
    (match exec (.read10 0 1 [0x28, 0, 0, 1, 0x86, 0xA0, 0, 0, 0x10, 0]) s with
      | .next t => (t.desc? 0 1).map fun e => (e.op, lbaOf e.fld, e.fld.count)
      | _ => none) = some (.read, 100000, 16) := by decide +kernel

/-- Chapter 3: the re-posted completion goes to slot 5 with phase 0, and its DW1 reads 0x0011_00E7. -/
theorem test_completion_of_a_resubmission :
    phaseBit 181 16 = false ∧ 181 % 16 = 5 ∧
      completionBytes { tag := 0x123, status := 0, head := 231, ring := 1, dup := true, bytes := 65536, mechTime := 0x1F4, queueWait := 0 } false =
        [0x23, 0x01, 0, 0, 0xE7, 0x00, 0x11, 0x00, 0, 0, 1, 0, 0xF4, 0x01, 0, 0] := by decide +kernel

/-- Chapters 1 and 8: mechanism times 6.52 ms and 9.10 ms, and 3 µs of queue wait. -/
theorem test_times_of_a_completion : mechTimeOf 6520 = 0x28C ∧ mechTimeOf 9100 = 0x38E ∧ queueWaitOf 3 = 0 := by decide

/-- The next state of a command. -/
def after (i : Instr) (s : State) : State :=
  match exec i s with
  | .next t => t
  | _ => s

/-- Chapter 17: the ring and doorbell registers that bring up fold 3. -/
theorem test_registers_of_fold_3 :
    let s : State := { W.live with plat.vfEnable := true, plat.numVfs := 7 }
    ((after (.registerWrite (.bar 3 0x088 0x00320865 true)) s).dring 3 0 =
        { en := true, vec := 2, log2 := 6, coalCount := 8, coalTime := 50 }) ∧
      ((after (.registerWrite (.bar 3 0x0C8 0x01000001 true)) s).fold 3).dbp.en = true ∧
      ((after (.registerWrite (.bar 3 0x0C8 0x01000001 true)) s).fold 3).dbp.sleepAfter = 256 := by decide +kernel

/-- Chapter 17: FLD_INFO of fold 3 with FLOCK 2 and WEIGHT 40. -/
theorem test_fold_information :
    fldInfo (W.live.modFold 3 fun r => { r with record := { r.record with flock := 2, weight := 40 } }) 3 = 0x00012823 := by decide +kernel

/-- Chapter 10: the FREE that core 0 makes of the transfer engine's buffer is rejected with event DW2 0x016D_1234. -/
theorem test_pool_reject_event :
    let s : State := { W.live with pool.bufs := [(0x1234, { acct := .pen 1, holds := 3, last := 8 })] }
    (match exec (.free 0x0D 0x1234) (s.modDring 0 0 fun r => { r with en := true, log2 := 4 }) with
      | .next t => (t.pool.rejects, t.pool.lastCause, t.log.staged.map fun e => (e.code, e.detail))
      | _ => (0, 0, [])) = (1, 1, [(0x0780, 0x016D1234)]) := by decide +kernel

/-- Chapter 10: the first packet's header of a servo capture of six words. -/
theorem test_capture_header : capHeader { source := 1, first := true } 6 = 0xA3000006 := by decide

/-- Chapter 11: a correction that finds the bucket at CAPACITY empties it and counts an overflow. -/
theorem test_bucket_overflow :
    let s : State := { W.live with ecc.buckets := Vector.replicate 4 { level := 16 } }
    ((eccCorrect s 1).ecc.buckets.get 1).level = 0 ∧ ((eccCorrect s 1).ecc.buckets.get 1).overflows = 1 ∧
      ((eccCorrect s 1).ecc.buckets.get 0).level = 16 := by decide +kernel

/-- Chapter 12: the nonce of SALT 0x5C1E_0A37 and c = 98,305, and the record that c calls for. -/
theorem test_nonce_and_reservation :
    nonceOf 0x5C1E0A37 98305 = [0x37, 0x0A, 0x1E, 0x5C, 1, 0x80, 1, 0, 0, 0, 0, 0] ∧
      reserveDue { st := .loaded, counter := 98306, reservedTo := 131072 } = true ∧
      reserveDue { st := .loaded, counter := 98305, reservedTo := 131072 } = false := by decide +kernel

/-- Chapter 12: an open of 1 MiB holds the lock 1.95 ms after the tag is known. -/
theorem test_lock_release_time : releaseTime 1048576 = 1954 := by decide

/-- The GCM specification's test case 2: one block of zeros under a key and an IV of zeros. -/
theorem test_gcm :
    gcmSeal (zeros 16) (zeros 12) [] (zeros 16) =
      ([0x03, 0x88, 0xDA, 0xCE, 0x60, 0xB6, 0xA3, 0x92, 0xF3, 0x28, 0xC2, 0xB9, 0x71, 0xB2, 0xFE, 0x78],
       [0xAB, 0x6E, 0x47, 0xD4, 0x2C, 0xEC, 0x13, 0xBD, 0xF5, 0x3A, 0x67, 0xB2, 0x12, 0x57, 0xBD, 0xDF]) := by decide +kernel

/-- RFC 3394 section 4.1: AES-128 wraps 128 bits, and unwraps them again. -/
theorem test_kwWrap :
    kwWrap ((List.range 16).map fun i => BitVec.ofNat 8 i) ((List.range 16).map fun i => BitVec.ofNat 8 (0x11 * i)) =
      [0x1F, 0xA6, 0x8B, 0x0A, 0x81, 0x12, 0xB4, 0x47, 0xAE, 0xF3, 0x4B, 0xD8, 0xFB, 0x5A, 0x7B, 0x82, 0x9D, 0x3E, 0x86, 0x23, 0x71, 0xD2,
       0xCF, 0xE5] := by decide +kernel

/-- Table 11.5: the body page list of a record whose body pages are 1 and 2 of the vault region. -/
theorem test_bodyList :
    (bodyList { region := 3, id := 0, seq := 1, payload := .mirror 0 {}, pages := [0x2040, 0x2041, 0x2042], strength := 2 }).take 4 =
      [0x01, 0x20, 0x00, 0x00] := by decide

/-- RFC 3720: the CRC-32C of 32 bytes of zeros. -/
theorem test_crc32c : crc32c (zeros 32) = 0x8A9136AA := by decide +kernel

/-- Chapter 14: 2031-03-04 is a Tuesday, 2031-10-26 a Sunday. -/
theorem test_calendar :
    dayOfDate 2031 3 4 = 11385 ∧ dowOfDay 11385 = 2 ∧ dayOfDate 2031 10 26 = 11621 ∧ dowOfDay 11621 = 7 ∧ dateOfDay 11385 = (2031, 3, 4) := by
  decide +kernel

/-- Chapter 14: the schedule's band on that Tuesday before and after 07:00, and the demand of 48,316 µWh. -/
theorem test_band_and_demand :
    let t : Tariff := { interval := 15, weekdayMask := 0x60, a := [(0, 1), (420, 0), (1320, 1)] }
    bandAt t (11385 * 86400 + 25199) = 1 ∧ bandAt t (11385 * 86400 + 25200) = 0 ∧ demandOf t 48316 = 193 := by decide +kernel

/-- Chapter 14: the interval ring's entry of 06:45. -/
theorem test_interval_entry :
    intervalBytes { start := 983688300, lengthS := 900, band := 1, energy := 600000 } =
      [0x6C, 0xE4, 0xA1, 0x3A, 0, 0x84, 0x03, 1, 0xC0, 0x27, 9, 0, 0, 0, 0, 0] := by decide +kernel

/-- Chapter 13: slack 11 raises code 14 by one and holds further raises; a window of 256 periods of slack 41 lowers code 50. -/
theorem test_governor :
    (govSlack { ctl := 0x32040C01, code := 14 } 11).code = 15 ∧ (govSlack { ctl := 0x32040C01, code := 50, winMin := 41, n := 255 } 41).code = 49 := by
  decide +kernel

/-- Chapter 7: steps 28 and 50 are the first whose rates reach 300 and 600 revolutions per minute. -/
theorem test_forced_ramp :
    let p : SpindleProf := {}
    detects p 27 = false ∧ detects p 28 = true ∧ rateAtLeast p 49 p.handover = false ∧ rateAtLeast p 50 p.handover = true := by decide +kernel

/-- Chapter 6: the notch's section from the words of the LOOP_BANK payload. -/
theorem test_section_words :
    (fun x : Section => (x.b0, x.b1, x.b2, x.a1, x.a2)) (sectionAt (W.bytes [(0x64, 0xF1), (0x65, 0x9F), (0x66, 0x1E), (0x68, 0x0E), (0x69, 0x79),
      (0x6A, 0xCE), (0x6B, 0xFF), (0x6C, 0x1A), (0x6D, 0x98), (0x6E, 0x1E), (0x70, 0xD1), (0x71, 0xCF), (0x72, 0xCE), (0x73, 0xFF), (0x74, 0x48),
      (0x75, 0xE1), (0x76, 0x1C)]) 4) = (2007025, -3245810, 2005018, -3223599, 1892680) := by decide +kernel

/-- Chapter 9: the BD-R entry of a 4T mark after a 3T space, unrolled. -/
theorem test_strategy_entry :
    unrollSegs 0 [0x0483, 0x0681, 0x0783, 0x0881, 0x4B00, 0x8C80, 0, 0] [] [] =
      some [(3, 72), (1, 104), (3, 120), (1, 136), (3, 152), (1, 168), (0, 200)] ∧
      entryOk 0 [0x0483, 0x0681, 0x0783, 0x0881, 0x4B00, 0x8C80, 0, 0] = true := by decide +kernel

/-- Chapter 9: OPC by the beta method gives 2,701 and 810. -/
theorem test_opc_beta :
    let t : Strategy := { W.strategy with opcSteps := 7, opcSpan := 20, target := 40, valueMax := 65535 }
    (opcResult t one28 [-62, -31, -4, 21, 44, 66, 85]).map (fun f => (scaledValue t f 2560, scaledValue t f 768, roundDiv f 16384)) =
      some (2701, 810, 17286) := by decide +kernel

/-- Chapter 18: the shortest write pulse at BD 6×, in tenths of a picosecond, and the module's junction at 1.5 W. -/
theorem test_electrical : Electrical.wpiWidth 4 25253 67 = 2233 ∧ (Electrical.thermalData.head?.map fun t => Electrical.junction t 85000 1500) = some 109000 := by decide +kernel

/-! ### The hypotheses of the statements can be met

One theorem for each statement that has hypotheses; one part of it for each clause. -/
set_option linter.unusedVariables false
set_option maxRecDepth 100000
/-- The hypotheses of IdleStepPassesAMicrosecond, clause by clause. -/
theorem wit_IdleStepPassesAMicrosecond :
    ∃ (s : State), s.pending = [] ∧ s.loader.button = false ∧ s.loader.pushed = false ∧ s.sys.entry = none ∧ bits s.ecc.flipTarget 2 0 = 0 :=
  by refine ⟨{ W.live with pending := [], loader.button := false, loader.pushed := false, sys.entry := none }, ?_, ?_, ?_, ?_, ?_⟩
        <;> decide +kernel

/-- The hypotheses of EveryCommandGoesOnAndLeavesTheQueue, clause by clause. -/
theorem wit_EveryCommandGoesOnAndLeavesTheQueue :
    ∃ s : State, StateInv s :=
  ⟨W.live, ⟨by constructor <;> decide +kernel, by constructor <;> decide +kernel, by constructor <;> decide +kernel⟩⟩

/-- The hypotheses of EveryStepKeepsTheInvariant, clause by clause. -/
theorem wit_EveryStepKeepsTheInvariant :
    ∃ (s : State) (t : State), StateInv s ∧ step s = .next t :=
  ⟨W.live, _, ⟨by constructor <;> decide +kernel, by constructor <;> decide +kernel, by constructor <;> decide +kernel⟩, rfl⟩

/-- The hypotheses of TailsAreJudgedByTheDifference, clause by clause. -/
theorem wit_TailsAreJudgedByTheDifference :
    (∃ (s : State) (f : FoldId) (n : RingId) (T : Word), (s.wring f n).en = true ∧ (s.wring f n).err = 0 ∧ (T - (s.wring f n).cons).toNat = 0) ∧
    (∃ (s : State) (f : FoldId) (n : RingId) (T : Word), (s.wring f n).en = true ∧ (s.wring f n).err = 0 ∧ 1 ≤ (T - (s.wring f n).cons).toNat ∧ (T -
      (s.wring f n).cons).toNat ≤ 2 ^ (s.wring f n).log2) ∧
    (∃ (s : State) (f : FoldId) (n : RingId) (T : Word), (s.wring f n).en = true ∧ (s.wring f n).err = 0 ∧ 2 ^ (s.wring f n).log2 < (T - (s.wring f
      n).cons).toNat) ∧
    (∃ (s : State) (f : FoldId) (n : RingId), ((s.wring f n).en = false ∨ (s.wring f n).err ≠ 0)) :=
  ⟨by refine ⟨(W.live.modWring (0 : FoldId) (0 : RingId) fun z_ => { z_ with en := true, err := 0 }), (0 : FoldId), (0 : RingId), (0 : Word), ?_,
        ?_, ?_⟩ <;> decide +kernel,
   by refine ⟨(W.live.modWring (0 : FoldId) (0 : RingId) fun z_ => { z_ with en := true, err := 0 }), (0 : FoldId), (0 : RingId), (1 : Word), ?_,
        ?_, ?_, ?_⟩ <;> decide +kernel,
   by refine ⟨(W.live.modWring (0 : FoldId) (0 : RingId) fun z_ => { z_ with en := true, err := 0 }), (0 : FoldId), (0 : RingId), (0x40 : Word), ?_,
        ?_, ?_⟩ <;> decide +kernel,
   by refine ⟨(W.live.modWring (0 : FoldId) (0 : RingId) fun z_ => { z_ with en := false }), (0 : FoldId), (0 : RingId), ?_⟩ <;> decide +kernel⟩

/-- The hypotheses of PollingFollowsTheDoorbellProtocol, clause by clause. -/
theorem wit_PollingFollowsTheDoorbellProtocol :
    (∃ (s : State) (f : FoldId), pollDue s f = true) ∧
    (∃ (s : State) (u : State) (f : FoldId) (p : PollData) (new : Bool), (s.fold f).dbp.polling = true ∧ (s.fold f).dbp.finalRead = false ∧ (s.fold
      f).dbp.en = true ∧ (s.fold f).dbp.stale = false ∧ takeTails (takeHead f 1 p.head1 (takeHead f 0 p.head0 (s.modDbp f fun d =>
      { d with polling := false }))) f p = (u, new)) ∧
    (∃ (s : State) (f : FoldId), (s.fold f).dbp.polling = true ∧ (s.fold f).dbp.finalRead = false ∧ (s.fold f).dbp.en = true ∧ (s.fold f).dbp.stale
      = false) ∧
    (∃ (s : State) (f : FoldId), (s.fold f).dbp.polling = true ∧ (s.fold f).dbp.finalRead = false ∧ ((s.fold f).dbp.stale = true ∨ (s.fold f).dbp.en
      = false)) ∧
    (∃ (s : State) (f : FoldId), pollingMode s = true ∧ canMaster s f = true ∧ (s.fold f).dbp.en = true ∧ (s.fold f).dbp.sleeping = false ∧ (s.fold
      f).dbp.stopped = false ∧ (s.fold f).dbp.polling = false ∧ (s.fold f).dbp.newTailAt + max 16 (s.fold f).dbp.sleepAfter ≤ s.us) ∧
    (∃ (s : State) (u : State) (f : FoldId) (p : PollData), (s.fold f).dbp.finalRead = true ∧ (s.fold f).dbp.en = true ∧ (s.fold f).dbp.stale =
      false ∧ takeTails (s.modDbp f fun d => { d with finalRead := false, polling := false }) f p = (u, false) ∧ (u.fold f).dbp.sleeping = true) ∧
    (∃ (s : State) (u : State) (f : FoldId) (p : PollData), (s.fold f).dbp.finalRead = true ∧ (s.fold f).dbp.en = true ∧ (s.fold f).dbp.stale =
      false ∧ takeTails (s.modDbp f fun d => { d with finalRead := false, polling := false }) f p = (u, true)) ∧
    (∃ (s : State) (f : FoldId), (s.fold f).dbp.dirty = true ∧ (s.fold f).dbp.en = true ∧ canMaster s f = true) ∧
    (∃ (s : State) (f : FoldId) (m : DringId) (h : Word), (s.fold f).dbp.en = true ∧ canMaster s f = true ∧ pollingMode s = true ∧ ((s.dring f
      m).held ≠ [] ∨ dringSpace (s.dring f m) = false) ∧ (s.dring f m).en = true ∧ (s.dring f m).err = 0 ∧ ((s.dring f m).posted - h).toNat ≤ 2 ^
      (s.dring f m).log2) ∧
    (∃ (s : State) (f : FoldId) (m : DringId) (h : Word), (s.fold f).dbp.en = true ∧ canMaster s f = true ∧ pollingMode s = true ∧ ((s.dring f
      m).held ≠ [] ∨ dringSpace (s.dring f m) = false) ∧ (s.dring f m).en = true ∧ (s.dring f m).err = 0 ∧ 2 ^ (s.dring f m).log2 < ((s.dring f
      m).posted - h).toNat) ∧
    (∃ (s : State) (f : FoldId) (m : DringId) (at_ : Nat), (s.dring f m).oldest = some at_ ∧ 0 < (s.dring f m).pend ∧ at_ + (s.dring f m).coalTime ≤
      s.us) :=
  ⟨by refine ⟨W.live, (0 : FoldId), ?_⟩ <;> decide +kernel,
   by refine ⟨(State.modFold (W.live) (0 : FoldId) fun z_ =>
        { z_ with dbp.polling := true, dbp.finalRead := false, dbp.en := true, dbp.stale := false }), _, (0 : FoldId), (⟨0, 0, 0, 0, 0, 0⟩ :
        PollData), _, ?_, ?_, ?_, ?_, W.eta2 _⟩ <;> decide +kernel,
   by refine ⟨(State.modFold (W.live) (0 : FoldId) fun z_ =>
        { z_ with dbp.polling := true, dbp.finalRead := false, dbp.en := true, dbp.stale := false }), (0 : FoldId), ?_, ?_, ?_, ?_⟩
        <;> decide +kernel,
   by refine ⟨(State.modFold (W.live) (0 : FoldId) fun z_ => { z_ with dbp.polling := true, dbp.finalRead := false, dbp.stale := true }), (0 :
        FoldId), ?_, ?_, ?_⟩ <;> decide +kernel,
   by refine ⟨(W.live.modFold (0 : FoldId) fun z_ =>
        { z_ with busMaster := true, dbp.en := true, dbp.sleeping := false, dbp.stopped := false, dbp.polling := false }), (0 : FoldId), ?_, ?_, ?_,
        ?_, ?_, ?_, ?_⟩ <;> decide +kernel,
   by refine ⟨(State.modFold (W.live) (0 : FoldId) fun z_ =>
        { z_ with dbp.finalRead := true, dbp.en := true, dbp.stale := false, dbp.sleeping := true }), _, (0 : FoldId), (⟨0, 0, 0, 0, 0, 0⟩ :
        PollData), ?_, ?_, ?_, rfl, ?_⟩ <;> decide +kernel,
   by refine ⟨(State.modDbp W.live 0 fun d => { d with finalRead := true, en := true, stale := false }), _, (0 : FoldId), ⟨1, 0, 0, 0, 0, 0⟩, ?_,
        ?_, ?_, rfl⟩ <;> decide +kernel,
   by refine ⟨(W.live.modFold (0 : FoldId) fun z_ => { z_ with dbp.dirty := true, dbp.en := true, busMaster := true }), (0 : FoldId), ?_, ?_, ?_⟩
        <;> decide +kernel,
   by refine ⟨W.held, (0 : FoldId), (0 : DringId), 0, ?_, ?_, ?_, ?_, ?_, ?_, ?_⟩ <;> decide +kernel,
   by refine ⟨W.held, (0 : FoldId), (0 : DringId), 1, ?_, ?_, ?_, ?_, ?_, ?_, ?_⟩ <;> decide +kernel,
   by refine ⟨((W.live.modDring (0 : FoldId) (0 : DringId) fun z_ => { z_ with oldest := some 1 }).modDring (0 : FoldId) (0 : DringId) fun z_ =>
        { z_ with pend := 1 }), (0 : FoldId), (0 : DringId), 1, ?_, ?_, ?_⟩ <;> decide +kernel⟩

/-- The hypotheses of RingsAndTheDoorbellPageAreSetUp, clause by clause. -/
theorem wit_RingsAndTheDoorbellPageAreSetUp :
    (∃ (s : State) (f : FoldId) (n : RingId) (v : Word), barUp s f = true ∧ (s.wring f n).en = false ∧ ringBusy s f n = false ∧ 4 ≤ bits v 7 4 ∧
      bits v 7 4 ≤ 12 ∧ (s.dring f (if bit v 2 then 1 else 0)).en = true) ∧
    (∃ (s : State) (f : FoldId) (n : RingId) (v : Word), barUp s f = true ∧ (s.wring f n).en = false ∧ ringBusy s f n = false ∧ (bits v 7 4 < 4 ∨ 12
      < bits v 7 4 ∨ (s.dring f (if bit v 2 then 1 else 0)).en = false)) ∧
    (∃ (s : State) (f : FoldId), barUp s f = true) ∧
    (∃ (s : State) (f : FoldId) (m : DringId) (v : Word), barUp s f = true ∧ (s.dring f m).en = false ∧ 4 ≤ bits v 7 4 ∧ bits v 7 4 ≤ 12) ∧
    (∃ (s : State) (f : FoldId) (m : DringId), barUp s f = true ∧ (s.dring f m).en = true) ∧
    (∃ (s : State) (f : FoldId) (m : DringId), barUp s f = true ∧ dringNamed s f m = false) ∧
    (∃ (s : State) (f : FoldId) (m : DringId), barUp s f = true ∧ dringNamed s f m = true) ∧
    (∃ (s : State) (f : FoldId), barUp s f = true ∧ (s.fold f).dbp.en = false) ∧
    (∃ (s : State) (f : FoldId), barUp s f = true) :=
  ⟨by refine ⟨((W.live.modWring (0 : FoldId) (0 : RingId) fun z_ => { z_ with en := false }).modDring (0 : FoldId) 0 fun z_ =>
        { z_ with en := true }), (0 : FoldId), (0 : RingId), (0x40 : Word), ?_, ?_, ?_, ?_, ?_, ?_⟩ <;> decide +kernel,
   by refine ⟨(W.live.modWring (0 : FoldId) (0 : RingId) fun z_ => { z_ with en := false }), (0 : FoldId), (0 : RingId), (0 : Word), ?_, ?_, ?_, ?_⟩
        <;> decide +kernel,
   by refine ⟨W.live, (0 : FoldId), ?_⟩ <;> decide +kernel,
   by refine ⟨(W.live.modDring (0 : FoldId) (0 : DringId) fun z_ => { z_ with en := false }), (0 : FoldId), (0 : DringId), (0x40 : Word), ?_, ?_,
        ?_, ?_⟩ <;> decide +kernel,
   by refine ⟨(W.live.modDring (0 : FoldId) (0 : DringId) fun z_ => { z_ with en := true }), (0 : FoldId), (0 : DringId), ?_, ?_⟩ <;> decide +kernel,
   by refine ⟨State.reset, (0 : FoldId), (0 : DringId), ?_, ?_⟩ <;> decide +kernel,
   by refine ⟨W.live, (0 : FoldId), (0 : DringId), ?_, ?_⟩ <;> decide +kernel,
   by refine ⟨(W.live.modFold (0 : FoldId) fun z_ => { z_ with dbp.en := false }), (0 : FoldId), ?_, ?_⟩ <;> decide +kernel,
   by refine ⟨W.live, (0 : FoldId), ?_⟩ <;> decide +kernel⟩

/-- The hypotheses of DescriptorsAreFetchedCheckedAndStarted, clause by clause. -/
theorem wit_DescriptorsAreFetchedCheckedAndStarted :
    (∃ (s : State) (f : FoldId) (n : RingId), fetchesOut s < 8 ∧ (foldsAfter s.drover.fetchLast).findSome? (fun g => ((ringsAfter (s.fold
      g).rrRing).find? fun m => fetchable s g m).map fun m => (g, m)) = some (f, n)) ∧
    (∃ (s : State) (f : FoldId) (n : RingId), (s.wring f n).fetching = true ∧ (s.wring f n).en = true ∧ (s.wring f n).err = 0 ∧ (s.wring f n).stale
      = false ∧ consuming s f = true) ∧
    (∃ (s : State) (f : FoldId) (n : RingId), (s.wring f n).fetching = true ∧ (s.wring f n).en = true ∧ (s.wring f n).err = 0 ∧ (s.wring f n).stale
      = false) ∧
    (∃ (s : State) (f : FoldId) (n : RingId), (s.wring f n).fetching = true ∧ ((s.wring f n).stale = true ∨ (s.wring f n).en = false ∨ (s.wring f
      n).err ≠ 0)) ∧
    (∃ (s : State) (f : FoldId) (k : Nat) (d : Desc) (es : List RawEntry) (l : List (Nat × Nat)), s.desc? f k = some d ∧ d.stage = .list ∧ checkList
      es d.fld.length = some l) ∧
    (∃ (s : State) (f : FoldId) (k : Nat) (d : Desc) (es : List RawEntry), s.desc? f k = some d ∧ d.stage = .list ∧ checkList es d.fld.length =
      none) ∧
    (∃ (s : State) (f : FoldId) (k : Nat) (d : Desc), s.desc? f k = some d ∧ d.stage = .list) ∧
    (∃ (s : State) (f : FoldId) (k : Nat) (i : Nat) (d : Desc), s.desc? f k = some d ∧ d.stage = .grant i 0 ∧ s.plat.gntEn = true) ∧
    (∃ (s : State) (f : FoldId) (k : Nat) (i : Nat) (n : Nat) (d : Desc) (g : RawGrant), s.desc? f k = some d ∧ d.stage = .grant i (n + 1) ∧
      s.plat.gntEn = true ∧ d.tornAt + 1 ≤ s.us ∧ g.seqA = g.seqB) ∧
    (∃ (s : State) (f : FoldId) (k : Nat) (i : Nat) (n : Nat) (d : Desc) (g : RawGrant), s.desc? f k = some d ∧ d.stage = .grant i (n + 1) ∧
      s.plat.gntEn = true ∧ d.tornAt + 1 ≤ s.us ∧ g.seqA ≠ g.seqB ∧ n + 1 < 7) ∧
    (∃ (s : State) (f : FoldId) (k : Nat) (i : Nat) (n : Nat) (d : Desc), s.desc? f k = some d ∧ d.stage = .grant i (n + 1) ∧ s.plat.gntEn = true ∧
      s.us < d.tornAt + 1) ∧
    (∃ (s : State) (f : FoldId) (k : Nat) (i : Nat) (d : Desc) (g : RawGrant), s.desc? f k = some d ∧ d.stage = .grant i 7 ∧ s.plat.gntEn = true ∧
      d.tornAt + 1 ≤ s.us ∧ g.seqA ≠ g.seqB) ∧
    (∃ (s : State) (f : FoldId) (k : Nat) (r : List (FoldId × Nat)) (d : Desc), s.pool.queue = (f, k) :: r ∧ requestReady s true (f, k) = true ∧
      s.desc? f k = some d) ∧
    (∃ (s : State) (f : FoldId) (k : Nat) (d : Desc), s.desc? f k = some d ∧ descReady d = true ∧ needsMech s d = false ∧ d.op ≠ .mmcPass ∧
      fenceOpen (s.fold f) d = true ∧ startBlocked s f d = false ∧ serialBlocked (s.fold f) d = false) :=
  ⟨by refine ⟨(W.live.modWring 0 0 fun z_ => { z_ with tail := 1 }), _, _, ?_, rfl⟩ <;> decide +kernel,
   by refine ⟨(State.modWring (W.live) (0 : FoldId) (0 : RingId) fun z_ => { z_ with fetching := true, en := true, err := 0, stale := false }), (0 :
        FoldId), (0 : RingId), ?_, ?_, ?_, ?_, ?_⟩ <;> decide +kernel,
   by refine ⟨(State.modWring (W.live) (0 : FoldId) (0 : RingId) fun z_ => { z_ with fetching := true, en := true, err := 0, stale := false }), (0 :
        FoldId), (0 : RingId), ?_, ?_, ?_, ?_⟩ <;> decide +kernel,
   by refine ⟨(State.modWring (W.live) (0 : FoldId) (0 : RingId) fun z_ => { z_ with fetching := true, stale := true }), (0 : FoldId), (0 : RingId),
        ?_, ?_⟩ <;> decide +kernel,
   by refine ⟨(W.descs (0 : FoldId) [{ W.desc with k := 1, stage := .list }] W.live), (0 : FoldId), 1, { W.desc with k := 1, stage := .list }, [⟨0,
        4096, 2⟩], _, ?_, ?_, rfl⟩ <;> decide +kernel,
   by refine ⟨(W.descs (0 : FoldId) [{ W.desc with k := 1, stage := .list }] W.live), (0 : FoldId), 1, { W.desc with k := 1, stage := .list }, [],
        ?_, ?_, ?_⟩ <;> decide +kernel,
   by refine ⟨(W.descs (0 : FoldId) [{ W.desc with k := 1, stage := .list }] W.live), (0 : FoldId), 1, { W.desc with k := 1, stage := .list }, ?_,
        ?_⟩ <;> decide +kernel,
   by refine ⟨(W.descs (0 : FoldId) [{ W.desc with k := 1, stage := .grant 1 0 }] { W.live with plat.gntEn := true }), (0 : FoldId), 1, 1,
        { W.desc with k := 1, stage := .grant 1 0 }, ?_, ?_, ?_⟩ <;> decide +kernel,
   by refine ⟨(W.descs 0 [{ W.desc with k := 1, op := .write, stage := .grant 1 2 }] { W.live with plat.gntEn := true }), (0 : FoldId), 1, 1, 1,
        { W.desc with k := 1, op := .write, stage := .grant 1 2 }, ⟨2, 0, 1, 0, 100, 0, 2⟩, ?_, ?_, ?_, ?_, ?_⟩ <;> decide +kernel,
   by refine ⟨(W.descs 0 [{ W.desc with k := 1, op := .write, stage := .grant 1 2 }] { W.live with plat.gntEn := true }), (0 : FoldId), 1, 1, 1,
        { W.desc with k := 1, op := .write, stage := .grant 1 2 }, ⟨2, 0, 1, 0, 100, 0, 3⟩, ?_, ?_, ?_, ?_, ?_, ?_⟩ <;> decide +kernel,
   by refine ⟨(W.descs (0 : FoldId) [{ W.desc with k := 1, stage := .grant 1 (1 + 1) }] { W.live with plat.gntEn := true, us := 0 }), (0 : FoldId),
        1, 1, 1, { W.desc with k := 1, stage := .grant 1 (1 + 1) }, ?_, ?_, ?_, ?_⟩ <;> decide +kernel,
   by refine ⟨(W.descs 0 [{ W.desc with k := 1, op := .write, stage := .grant 1 7 }] { W.live with plat.gntEn := true }), (0 : FoldId), 1, 1,
        { W.desc with k := 1, op := .write, stage := .grant 1 7 }, ⟨2, 0, 1, 0, 100, 0, 3⟩, ?_, ?_, ?_, ?_, ?_⟩ <;> decide +kernel,
   by refine ⟨(W.descs (0 : FoldId) [{ W.desc with k := 1 }] { W.live with pool.queue := ((0 : FoldId), 1) :: [] }), (0 : FoldId), 1, [],
        { W.desc with k := 1 }, ?_, ?_, ?_⟩ <;> decide +kernel,
   by refine ⟨(W.descs (0 : FoldId) [{ W.desc with k := 1, stage := .ready }] W.live), (0 : FoldId), 1, { W.desc with k := 1, stage := .ready }, ?_,
        ?_, ?_, ?_, ?_, ?_, ?_⟩ <;> decide +kernel⟩

/-- The hypotheses of GrantsCoverAWholeRangeAndTheirRegistersEmptyTheCache, clause by clause. -/
theorem wit_GrantsCoverAWholeRangeAndTheirRegistersEmptyTheCache :
    (∃ (s : State) (f : FoldId) (k : Nat) (d : Desc), s.desc? f k = some d ∧ (opGrant d.op).isSome = true ∧ s.plat.gntEn = false) ∧
    (∃ (s : State), barUp s 0 = true ∧ s.plat.gntEn = false) ∧
    (∃ (s : State), barUp s 0 = true ∧ s.plat.gntEn = true) ∧
    (∃ (s : State), barUp s 0 = true) ∧
    (∃ (s : State), barUp s 0 = true) :=
  ⟨by refine ⟨(W.descs (0 : FoldId) [{ W.desc with k := 1, op := .read }] { W.live with plat.gntEn := false }), (0 : FoldId), 1,
        { W.desc with k := 1, op := .read }, ?_, ?_, ?_⟩ <;> decide +kernel,
   by refine ⟨{ W.live with plat.gntEn := false }, ?_, ?_⟩ <;> decide +kernel,
   by refine ⟨{ W.live with plat.gntEn := true }, ?_, ?_⟩ <;> decide +kernel,
   by refine ⟨W.live, ?_⟩ <;> decide +kernel,
   by refine ⟨W.live, ?_⟩ <;> decide +kernel⟩

/-- The hypotheses of DroverDispatchesAndFreesTheMechanism, clause by clause. -/
theorem wit_DroverDispatchesAndFreesTheMechanism :
    (∃ (s : State) (f : FoldId) (d : Desc), mechanismOpen s = true ∧ anyWaiting s = true ∧ s.drover.turn = some f ∧ 0 < (s.fold f).deficit ∧
      waitingWork (stopSpeculation s) f = some d ∧ opDisc d.op = false ∧ opWrites d.op = false) ∧
    (∃ (s : State), mechanismFree s = true ∧ s.sled.seek = none) ∧
    (∃ (d : Desc), opDisc d.op = false ∧ opWrites d.op = false) ∧
    (∃ (s : State) (d : Desc), s.disc.isSome = true ∧ opDisc d.op = true ∧ d.discId = s.disc.map (·.discId) ∧ d.removals = s.loader.removals ∧
      s.servo.puOpen = false) ∧
    (∃ (s : State) (f : FoldId) (d : Desc), s.desc? f d.k = some d ∧ opDisc d.op = true ∧ discThere s d.op = false) ∧
    (∃ (s : State) (f : FoldId) (d : Desc), s.desc? f d.k = some d ∧ opDisc d.op = true ∧ discThere s d.op = true ∧ d.discId.isSome = true ∧
      (d.discId ≠ s.disc.map (·.discId) ∨ d.removals ≠ s.loader.removals)) ∧
    (∃ (s : State) (f : FoldId) (k : Nat) (d : Desc), s.desc? f k = some d) ∧
    (∃ (s : State) (j : Job) (d : Desc), s.job = some j ∧ j.ended = true ∧ s.desc? j.f j.k = some d ∧ lockVerifying s = false ∧
      s.kpr.collie.safeStop = false) ∧
    (∃ (s : State) (f : FoldId) (k : Nat) (d : Desc), s.desc? f k = some d ∧ descActive d = true ∧ descAccepted d = true ∧ d.stage ≠ .draining ∧
      d.deadline ≤ s.us ∧ jobOf s f k = none ∧ d.startedAt = none) ∧
    (∃ (s : State) (f : FoldId), s.drover.turn = some f ∧ mechanismFree s = true ∧ waitingWork s f = none) ∧
    (∃ (s : State) (f : FoldId) (k : Nat) (d : Desc) (j : Job), s.desc? f k = some d ∧ descActive d = true ∧ descAccepted d = true ∧ d.deadline ≤
      s.us ∧ jobOf s f k = some j ∧ opReads d.op = true) ∧
    (∃ (s : State) (f : FoldId) (n : RingId) (d : Desc), barUp s f = true ∧ s.job = none ∧ (s.fold f).descs = [d] ∧ d.ring = n ∧ d.startedAt = none
      ∧ descActive d = true ∧ d.stage ≠ .draining) ∧
    (∃ (s : State) (t : State) (f : FoldId) (k : Nat) (n : Nat) (d : Desc) (j : Job) (l : List Byte) (bad : Bool), jobOf s f k = some j ∧ s.desc? f
      k = some d ∧ d.stage ≠ .vaultKey ∧ j.kind = .writing ∧ d.op = .write ∧ j.data.length < d.fld.count ∧ n = min (l.length / 2048) (d.fld.count -
      j.data.length) ∧ memRun (s.emits (listReadsAt s f d.list (2048 * j.data.length) (2048 * n))) (setOps true (foldMask (s.emits (listReadsAt s f
      d.list (2048 * j.data.length) (2048 * n))) f) d.bufs (2048 * j.data.length) (2048 * n)) = (t, bad)) ∧
    (∃ (s : State) (f : FoldId) (k : Nat) (d : Desc) (j : Job), jobOf s f k = some j ∧ s.desc? f k = some d ∧ d.stage ≠ .vaultKey ∧ j.kind =
      .writing ∧ d.op = .write ∧ j.data.length < d.fld.count) :=
  ⟨by refine ⟨(State.modFold (W.descs 0 [W.waits] { W.live with drover.turn := some 0 }) 0 fun r => { r with deficit := 1 }), (0 : FoldId), W.waits,
        ?_, ?_, ?_, ?_, ?_, ?_, ?_⟩ <;> decide +kernel,
   by refine ⟨{ W.live with sled.seek := none }, ?_, ?_⟩ <;> decide +kernel,
   by refine ⟨W.desc, ?_, ?_⟩ <;> decide +kernel,
   by refine ⟨{ W.live with disc := some W.disc }, { W.desc with k := 1, op := .read, discId := some 1 }, ?_, ?_, ?_, ?_, ?_⟩ <;> decide +kernel,
   by refine ⟨(W.descs (0 : FoldId) [{ W.desc with k := 1, op := .read }] W.live), (0 : FoldId), { W.desc with k := 1, op := .read }, ?_, ?_, ?_⟩
        <;> decide +kernel,
   by refine ⟨(W.descs 0 [{ W.desc with k := 1, op := .read, discId := some 2 }] { W.live with disc := some W.disc }), (0 : FoldId),
        { W.desc with k := 1, op := .read, discId := some 2 }, ?_, ?_, ?_, ?_, ?_⟩ <;> decide +kernel,
   by refine ⟨(W.descs (0 : FoldId) [{ W.desc with k := 1 }] W.live), (0 : FoldId), 1, { W.desc with k := 1 }, ?_⟩ <;> decide +kernel,
   by refine ⟨(W.descs { W.job with ended := true }.f [{ W.desc with k := { W.job with ended := true }.k }]
        { W.live with kpr.collie.safeStop := false, job := some { W.job with ended := true } }), { W.job with ended := true },
        { W.desc with k := { W.job with ended := true }.k }, ?_, ?_, ?_, ?_, ?_⟩ <;> decide +kernel,
   by refine ⟨(W.descs (0 : FoldId) [{ W.desc with k := 1, startedAt := none }]
        { W.live with us := ({ W.desc with k := 1, startedAt := none }.deadline) }), (0 : FoldId), 1, { W.desc with k := 1, startedAt := none }, ?_,
        ?_, ?_, ?_, ?_, ?_, ?_⟩ <;> decide +kernel,
   by refine ⟨{ W.live with drover.turn := some (0 : FoldId) }, (0 : FoldId), ?_, ?_, ?_⟩ <;> decide +kernel,
   by refine ⟨(W.descs (0 : FoldId) [{ W.desc with k := 1, op := .read }]
        { W.live with us := ({ W.desc with k := 1, op := .read }.deadline), job := some W.job }), (0 : FoldId), 1,
        { W.desc with k := 1, op := .read }, W.job, ?_, ?_, ?_, ?_, ?_, ?_⟩ <;> decide +kernel,
   by refine ⟨({ W.live with job := none }.modFold (0 : FoldId) fun z_ =>
        { z_ with descs := [{ W.desc with ring := (0 : RingId), startedAt := none }] }), (0 : FoldId), (0 : RingId),
        { W.desc with ring := (0 : RingId), startedAt := none }, ?_, ?_, ?_, ?_, ?_, ?_, ?_⟩ <;> decide +kernel,
   by refine ⟨(W.descs 0 [{ W.desc with k := 1, op := .write }] { W.live with job := some W.writing }), _, (0 : FoldId), 1, 0,
        { W.desc with k := 1, op := .write }, W.writing, [], _, ?_, ?_, ?_, ?_, ?_, ?_, ?_, W.eta2 _⟩ <;> decide +kernel,
   by refine ⟨(W.descs (0 : FoldId)
        [{ W.desc with k := 1, op := .write, fld := { W.fld with count := ({ W.job with kind := .writing }.data.length + 1) } }]
        { W.live with job := some { W.job with kind := .writing } }), (0 : FoldId), 1,
        { W.desc with k := 1, op := .write, fld := { W.fld with count := ({ W.job with kind := .writing }.data.length + 1) } },
        { W.job with kind := .writing }, ?_, ?_, ?_, ?_, ?_, ?_⟩ <;> decide +kernel⟩

/-- The hypotheses of CompletionsAreWrittenAfterTheirData, clause by clause. -/
theorem wit_CompletionsAreWrittenAfterTheirData :
    (∃ (s : State) (f : FoldId) (k : Nat) (d : Desc) (r : Dring), s.desc? f k = some d ∧ d.stage = .done ∧ d.fld.opcode ≠ 0x70 ∧ (s.fold
      f).resetting = none ∧ s.dring f (s.wring f d.ring).dring = r ∧ r.en = true ∧ r.err = 0 ∧ r.held = [] ∧ (r.posted - r.head).toNat < 2 ^ r.log2
      ∧ canMaster s f = true ∧ (s.dring f 0).lostEvents = 0) ∧
    (∃ (s : State) (f : FoldId) (k : Nat) (d : Desc) (r : Dring), s.desc? f k = some d ∧ d.stage = .done ∧ d.fld.opcode ≠ 0x70 ∧ (s.fold
      f).resetting = none ∧ s.dring f (s.wring f d.ring).dring = r ∧ (r.en = false ∨ r.err ≠ 0)) :=
  ⟨by refine ⟨((((W.descs (0 : FoldId) [{ W.desc with k := 1, stage := .done }] W.live).modFold (0 : FoldId) fun z_ =>
        { z_ with resetting := none, busMaster := true }).modDring (0 : FoldId) 0 fun z_ => { z_ with lostEvents := 0 }).modDring (0 : FoldId) 0 fun
        z_ => { z_ with en := true, log2 := 4 }), (0 : FoldId), 1, { W.desc with k := 1, stage := .done }, _, ?_, ?_, ?_, ?_, rfl, ?_, ?_, ?_, ?_,
        ?_, ?_⟩ <;> decide +kernel,
   by refine ⟨((W.descs (0 : FoldId) [{ W.desc with k := 1, stage := .done }] W.live).modFold (0 : FoldId) fun z_ => { z_ with resetting := none }),
        (0 : FoldId), 1, { W.desc with k := 1, stage := .done }, _, ?_, ?_, ?_, ?_, rfl, ?_⟩ <;> decide +kernel⟩

/-- The hypotheses of DescriptorsThatMoveNoData, clause by clause. -/
theorem wit_DescriptorsThatMoveNoData :
    (∃ (s : State) (f : FoldId) (k : Nat) (d : Desc), runningAs s f k .nop = some d) ∧
    (∃ (s : State) (f : FoldId) (k : Nat) (d : Desc), runningAs s f k .lockMedium = some d ∧ bit d.fld.opfield 0 = true ∧ (s.fold f).locked = false) ∧
    (∃ (s : State) (f : FoldId) (k : Nat) (d : Desc), runningAs s f k .lockMedium = some d ∧ bit d.fld.opfield 0 = true ∧ (s.fold f).locked = true) ∧
    (∃ (s : State) (f : FoldId) (k : Nat) (d : Desc), runningAs s f k .lockMedium = some d ∧ bit d.fld.opfield 0 = false ∧ (s.fold f).locked = true) ∧
    (∃ (s : State) (f : FoldId) (k : Nat) (d : Desc), runningAs s f k .lockMedium = some d ∧ bit d.fld.opfield 0 = false ∧ (s.fold f).locked =
      false) ∧
    (∃ (s : State) (f : FoldId) (k : Nat) (c : Nat) (d : Desc) (di : DiscInfo), dispatchedAs s f k .spin = some d ∧ s.disc = some di ∧ c = (if bits
      d.fld.opfield 7 0 = 0xFF then 0 else min (classesOf di.medium - 1) (bits d.fld.opfield 7 0))) ∧
    (∃ (s : State) (f : FoldId) (k : Nat) (d : Desc), runningAs s f k .seekHint = some d ∧ d.fld.specok = false) ∧
    (∃ (s : State) (f : FoldId) (k : Nat) (d : Desc) (di : DiscInfo), runningAs s f k .identifyDisc = some d ∧ s.disc = some di) ∧
    (∃ (s : State) (f : FoldId) (k : Nat) (d : Desc), dispatchedAs s f k .identifyDisc = some d ∧ runningAs s f k .identifyDisc = none ∧ s.disc =
      none ∧ canIdentify s = true ∧ s.sled.lost = false) ∧
    (∃ (s : State) (f : FoldId) (k : Nat) (d : Desc), dispatchedAs s f k .identifyDisc = some d ∧ runningAs s f k .identifyDisc = none ∧ s.disc =
      none ∧ canIdentify s = true ∧ s.sled.lost = false) :=
  ⟨by refine ⟨(W.descs (0 : FoldId) [{ W.desc with k := 1, op := .nop }] W.live), (0 : FoldId), 1, { W.desc with k := 1, op := .nop }, ?_⟩
        <;> decide +kernel,
   by refine ⟨((W.descs (0 : FoldId) [{ W.desc with k := 1, op := .lockMedium, fld := { W.fld with opfield := 1 } }] W.live).modFold (0 : FoldId)
        fun z_ => { z_ with locked := false }), (0 : FoldId), 1, { W.desc with k := 1, op := .lockMedium, fld := { W.fld with opfield := 1 } }, ?_,
        ?_, ?_⟩ <;> decide +kernel,
   by refine ⟨((W.descs (0 : FoldId) [{ W.desc with k := 1, op := .lockMedium, fld := { W.fld with opfield := 1 } }] W.live).modFold (0 : FoldId)
        fun z_ => { z_ with locked := true }), (0 : FoldId), 1, { W.desc with k := 1, op := .lockMedium, fld := { W.fld with opfield := 1 } }, ?_,
        ?_, ?_⟩ <;> decide +kernel,
   by refine ⟨((W.descs (0 : FoldId) [{ W.desc with k := 1, op := .lockMedium, fld := { W.fld with opfield := 0 } }] W.live).modFold (0 : FoldId)
        fun z_ => { z_ with locked := true }), (0 : FoldId), 1, { W.desc with k := 1, op := .lockMedium, fld := { W.fld with opfield := 0 } }, ?_,
        ?_, ?_⟩ <;> decide +kernel,
   by refine ⟨((W.descs (0 : FoldId) [{ W.desc with k := 1, op := .lockMedium, fld := { W.fld with opfield := 0 } }] W.live).modFold (0 : FoldId)
        fun z_ => { z_ with locked := false }), (0 : FoldId), 1, { W.desc with k := 1, op := .lockMedium, fld := { W.fld with opfield := 0 } }, ?_,
        ?_, ?_⟩ <;> decide +kernel,
   by refine ⟨(W.descs (0 : FoldId) [{ W.desc with k := 1, op := .spin }]
        { W.live with job := some { W.job with f := (0 : FoldId), k := 1 }, disc := some W.disc }), (0 : FoldId), 1, _,
        { W.desc with k := 1, op := .spin }, W.disc, ?_, ?_, rfl⟩ <;> decide +kernel,
   by refine ⟨(W.descs (0 : FoldId) [{ W.desc with k := 1, op := .seekHint, fld := { W.fld with specok := false } }] W.live), (0 : FoldId), 1,
        { W.desc with k := 1, op := .seekHint, fld := { W.fld with specok := false } }, ?_, ?_⟩ <;> decide +kernel,
   by refine ⟨(W.descs (0 : FoldId) [{ W.desc with k := 1, op := .identifyDisc }] { W.live with disc := some W.disc }), (0 : FoldId), 1,
        { W.desc with k := 1, op := .identifyDisc }, W.disc, ?_, ?_⟩ <;> decide +kernel,
   by refine ⟨(W.descs (0 : FoldId) [{ W.desc with k := 1, op := .identifyDisc }]
        { W.live with job := (some (W.jobAt (0 : FoldId) 1)), disc := none, sled.lost := false }), (0 : FoldId), 1,
        { W.desc with k := 1, op := .identifyDisc }, ?_, ?_, ?_, ?_, ?_⟩ <;> decide +kernel,
   by refine ⟨(W.descs (0 : FoldId) [{ W.desc with k := 1, op := .identifyDisc }]
        { W.live with job := (some (W.jobAt (0 : FoldId) 1)), disc := none, sled.lost := false }), (0 : FoldId), 1,
        { W.desc with k := 1, op := .identifyDisc }, ?_, ?_, ?_, ?_, ?_⟩ <;> decide +kernel⟩

/-- The hypotheses of DiscsAreClosedFormattedAndReserved, clause by clause. -/
theorem wit_DiscsAreClosedFormattedAndReserved :
    (∃ (s : State) (f : FoldId) (k : Nat) (d : Desc) (di : DiscInfo) (e : DiscInfo), dispatchedAs s f k .close = some d ∧ s.disc = some di ∧ bits
      d.fld.opfield 1 0 = 0 ∧ closeDisc di 0 (lbaOf d.fld % 65536) = some e ∧ beamReady s = true) ∧
    (∃ (s : State) (f : FoldId) (k : Nat) (d : Desc) (di : DiscInfo) (e : DiscInfo), dispatchedAs s f k .close = some d ∧ s.disc = some di ∧ bits
      d.fld.opfield 1 0 = 1 ∧ closeDisc di 1 (lbaOf d.fld % 65536) = some e ∧ beamReady s = true) ∧
    (∃ (s : State) (f : FoldId) (k : Nat) (d : Desc) (di : DiscInfo) (e : DiscInfo), dispatchedAs s f k .close = some d ∧ s.disc = some di ∧ bits
      d.fld.opfield 1 0 = 2 ∧ closeDisc di 2 (lbaOf d.fld % 65536) = some e ∧ beamReady s = true) ∧
    (∃ (s : State) (f : FoldId) (k : Nat) (d : Desc) (di : DiscInfo), dispatchedAs s f k .close = some d ∧ s.disc = some di ∧ bits d.fld.opfield 1 0
      = 0 ∧ closeDisc di 0 (lbaOf d.fld % 65536) = none) ∧
    (∃ (s : State) (f : FoldId) (k : Nat) (d : Desc) (di : DiscInfo), dispatchedAs s f k .format = some d ∧ s.disc = some di ∧ bits d.fld.opfield 1
      0 = 0 ∧ formatOk di = true ∧ beamReady s = true) ∧
    (∃ (s : State) (f : FoldId) (k : Nat) (d : Desc) (di : DiscInfo), dispatchedAs s f k .format = some d ∧ s.disc = some di ∧ bits d.fld.opfield 1
      0 = 1 ∧ formatOk di = true ∧ beamReady s = true) ∧
    (∃ (s : State) (t : State) (f : FoldId) (k : Nat) (n : Nat) (d : Desc) (di : DiscInfo) (e : DiscInfo) (l : List (Nat × List Readback)),
      dispatchedAs s f k .format = some d ∧ s.disc = some di ∧ bits d.fld.opfield 1 0 = 2 ∧ formatOk di = true ∧ beamReady s = true ∧
      recordStructure s [.structure_ 6 0, .zeroed 0 di.capacity] = t ∧ tryUnits t false di 0 l = (e, n, none)) ∧
    (∃ (s : State) (t : State) (f : FoldId) (k : Nat) (n : Nat) (b : Nat) (d : Desc) (di : DiscInfo) (e : DiscInfo) (l : List (Nat × List
      Readback)), dispatchedAs s f k .format = some d ∧ s.disc = some di ∧ bits d.fld.opfield 1 0 = 2 ∧ formatOk di = true ∧ beamReady s = true ∧
      recordStructure s [.structure_ 6 0, .zeroed 0 di.capacity] = t ∧ tryUnits t false di 0 l = (e, n, some b)) ∧
    (∃ (s : State) (f : FoldId) (k : Nat) (d : Desc) (di : DiscInfo) (e : DiscInfo) (tr : Track), dispatchedAs s f k .reserveTrack = some d ∧ s.disc
      = some di ∧ reserveTrack di (bits d.fld.opdata 31 0) = some (e, tr) ∧ beamReady s = true) :=
  ⟨by refine ⟨(W.descs (0 : FoldId) [{ W.desc with k := 1, op := .close }]
        { W.live with job := (some (W.jobAt (0 : FoldId) 1)), disc := some W.disc, servo.ldEn := true, chan.accepted := true }), (0 : FoldId), 1,
        { W.desc with k := 1, op := .close }, W.disc, W.disc, ?_, ?_, ?_, ?_, ?_⟩ <;> decide +kernel,
   by refine ⟨(W.descs 0 [{ W.desc with k := 1, op := .close, fld := { W.fld with opfield := 1 } }]
        { W.live with job := some W.job, servo.ldEn := true, chan.accepted := true, disc := some W.disc }), (0 : FoldId), 1,
        { W.desc with k := 1, op := .close, fld := { W.fld with opfield := 1 } }, W.disc, _, ?_, ?_, ?_, rfl, ?_⟩ <;> decide +kernel,
   by refine ⟨(W.descs 0 [{ W.desc with k := 1, op := .close, fld := { W.fld with opfield := 2 } }]
        { W.live with job := some W.job, servo.ldEn := true, chan.accepted := true, disc := some W.disc }), (0 : FoldId), 1,
        { W.desc with k := 1, op := .close, fld := { W.fld with opfield := 2 } }, W.disc, _, ?_, ?_, ?_, rfl, ?_⟩ <;> decide +kernel,
   by refine ⟨(W.descs (0 : FoldId) [{ W.desc with k := 1, op := .close, fld := { W.fld with opfield := 0 } }]
        { W.live with job := some { W.job with f := (0 : FoldId), k := 1 }, disc := some { W.disc with finalised := true } }), (0 : FoldId), 1,
        { W.desc with k := 1, op := .close, fld := { W.fld with opfield := 0 } }, { W.disc with finalised := true }, ?_, ?_, ?_, ?_⟩
        <;> decide +kernel,
   by refine ⟨(W.descs (0 : FoldId) [{ W.desc with k := 1, op := .format }]
        { W.live with job := (some (W.jobAt (0 : FoldId) 1)), disc := some W.disc, servo.ldEn := true, chan.accepted := true }), (0 : FoldId), 1,
        { W.desc with k := 1, op := .format }, W.disc, ?_, ?_, ?_, ?_, ?_⟩ <;> decide +kernel,
   by refine ⟨(W.descs 0 [{ W.desc with k := 1, op := .format, fld := { W.fld with opfield := 1 } }]
        { W.live with job := some W.job, servo.ldEn := true, chan.accepted := true, disc := some W.disc }), (0 : FoldId), 1,
        { W.desc with k := 1, op := .format, fld := { W.fld with opfield := 1 } }, W.disc, ?_, ?_, ?_, ?_, ?_⟩ <;> decide +kernel,
   by refine ⟨(W.descs 0 [{ W.desc with k := 1, op := .format, fld := { W.fld with opfield := 2 } }]
        { W.live with job := some W.job, servo.ldEn := true, chan.accepted := true, disc := some W.disc }), _, (0 : FoldId), 1, _,
        { W.desc with k := 1, op := .format, fld := { W.fld with opfield := 2 } }, W.disc, _, [], ?_, ?_, ?_, ?_, ?_, rfl, rfl⟩ <;> decide +kernel,
   by refine ⟨(W.descs 0 [{ W.desc with k := 1, op := .format, fld := { W.fld with opfield := 2 } }]
        { W.live with job := some W.job, servo.ldEn := true, chan.accepted := true, disc := some W.disc }), _, (0 : FoldId), 1, _, _,
        { W.desc with k := 1, op := .format, fld := { W.fld with opfield := 2 } }, W.disc, _, [(0, [])], ?_, ?_, ?_, ?_, ?_, rfl, rfl⟩
        <;> decide +kernel,
   by refine ⟨(W.descs 0 [{ W.desc with k := 1, op := .reserveTrack, fld := { W.fld with opdata := 16 } }]
        { W.live with job := some W.job, servo.ldEn := true, chan.accepted := true, disc := some W.discR }), (0 : FoldId), 1,
        { W.desc with k := 1, op := .reserveTrack, fld := { W.fld with opdata := 16 } }, W.discR, _, _, ?_, ?_, rfl, ?_⟩ <;> decide +kernel⟩

/-- The hypotheses of LoaderMovesTheTrayAndIdentifiesTheDisc, clause by clause. -/
theorem wit_LoaderMovesTheTrayAndIdentifiesTheDisc :
    (∃ (s : State) (f : FoldId) (k : Nat) (d : Desc), dispatchedAs s f k .loadEject = some d ∧ bit d.fld.opfield 0 = false ∧ loaderIdle s = true ∧
      lockAgainst s f (bit d.fld.opfield 1) = none ∧ s.loader.trayIn = false ∧ s.loader.prof.solenoid = false ∧ motorsAllowed s = true) ∧
    (∃ (s : State) (f : FoldId) (k : Nat) (d : Desc) (di : DiscInfo), dispatchedAs s f k .loadEject = some d ∧ bit d.fld.opfield 0 = false ∧
      loaderIdle s = true ∧ lockAgainst s f (bit d.fld.opfield 1) = none ∧ s.loader.trayIn = true ∧ s.loader.trayOut = false ∧ s.disc = some di) ∧
    (∃ (s : State) (f : FoldId) (k : Nat) (d : Desc), dispatchedAs s f k .loadEject = some d ∧ bit d.fld.opfield 0 = false ∧ loaderIdle s = true ∧
      lockAgainst s f (bit d.fld.opfield 1) = none ∧ s.loader.trayIn = true ∧ s.loader.trayOut = false ∧ s.disc = none ∧ canIdentify s = true ∧
      s.sled.lost = false) ∧
    (∃ (s : State) (f : FoldId) (g : FoldId) (k : Nat) (d : Desc), dispatchedAs s f k .loadEject = some d ∧ loaderIdle s = true ∧ lockAgainst s f
      (bit d.fld.opfield 1) = some g) ∧
    (∃ (s : State) (f : FoldId) (k : Nat) (d : Desc), dispatchedAs s f k .loadEject = some d ∧ bit d.fld.opfield 0 = true ∧ loaderIdle s = true ∧
      lockAgainst s f (bit d.fld.opfield 1) = none ∧ s.loader.trayIn = true ∧ s.loader.trayOut = false ∧ motorsAllowed s = true) ∧
    (∃ (s : State), s.loader.trayIn = false ∧ linksUp s = true ∧ s.sys.mode ≠ .doze ∧ s.sys.entry = none ∧ s.kpr.trayWake = false) ∧
    (∃ (s : State), s.loader.trayIn = true ∧ linksUp s = true ∧ s.sys.mode ≠ .doze ∧ s.sys.entry = none ∧ s.kpr.trayWake = false) ∧
    (∃ (s : State) (at_ : Nat), s.loader.trayOut = false ∧ linksUp s = true ∧ s.sys.mode ≠ .doze ∧ s.sys.entry = none ∧ s.kpr.trayWake = false ∧
      s.loader.drive = .opening at_) ∧
    (∃ (s : State) (at_ : Nat), s.loader.drive = .opening at_ ∧ s.loader.trayOut = false ∧ at_ + s.loader.prof.tmax * 1000 ≤ s.us) ∧
    (∃ (s : State) (at_ : Nat), s.loader.drive = .pulse at_ ∧ at_ + s.loader.prof.solT * 1000 ≤ s.us ∧ s.loader.trayIn = true) ∧
    (∃ (s : State) (at_ : Nat) (j : Job), s.loader.drive = .pulse at_ ∧ at_ + s.loader.prof.solT * 1000 ≤ s.us ∧ s.loader.trayIn = false ∧ s.job =
      some j ∧ j.at_ ≤ at_) ∧
    (∃ (s : State) (at_ : Nat), s.loader.drive = .afterPulse at_ ∧ at_ + 500000 ≤ s.us ∧ s.loader.trayIn = true) ∧
    (∃ (s : State) (g : FoldId), s.loader.prof.btnEn = true ∧ s.sys.mode ≠ .doze ∧ s.sys.entry = none ∧ s.kpr.trayWake = false ∧ lockAgainst s 0
      false = some g) ∧
    (∃ (s : State), s.loader.prof.btnEn = true ∧ s.sys.mode ≠ .doze ∧ s.sys.entry = none ∧ s.kpr.trayWake = false ∧ lockAgainst s 0 false = none ∧
      s.sys.mode ≠ .vigil) :=
  ⟨by refine ⟨(W.descs (0 : FoldId) [{ W.desc with k := 1, op := .loadEject, fld := { W.fld with opfield := 0 } }]
        { W.live with loader.trayIn := false, loader.prof.solenoid := false, job := some { W.job with f := (0 : FoldId), k := 1 } }), (0 : FoldId),
        1, { W.desc with k := 1, op := .loadEject, fld := { W.fld with opfield := 0 } }, ?_, ?_, ?_, ?_, ?_, ?_, ?_⟩ <;> decide +kernel,
   by refine ⟨(W.descs (0 : FoldId) [{ W.desc with k := 1, op := .loadEject, fld := { W.fld with opfield := 0 } }]
        { W.live with loader.trayIn := true, loader.trayOut := false, job := some { W.job with f := (0 : FoldId), k := 1 }, disc := some W.disc }),
        (0 : FoldId), 1, { W.desc with k := 1, op := .loadEject, fld := { W.fld with opfield := 0 } }, W.disc, ?_, ?_, ?_, ?_, ?_, ?_, ?_⟩
        <;> decide +kernel,
   by refine ⟨(W.descs (0 : FoldId) [{ W.desc with k := 1, op := .loadEject }]
        { W.live with job := (some (W.jobAt (0 : FoldId) 1)), loader.trayIn := true, loader.trayOut := false, disc := none, sled.lost := false }),
        (0 : FoldId), 1, { W.desc with k := 1, op := .loadEject }, ?_, ?_, ?_, ?_, ?_, ?_, ?_, ?_, ?_⟩ <;> decide +kernel,
   by refine ⟨((W.descs (0 : FoldId) [{ W.desc with k := 1, op := .loadEject }]
        { W.live with job := some { W.job with f := (0 : FoldId), k := 1 } }).modFold 1 fun z_ => { z_ with locked := true }), (0 : FoldId), _, 1,
        { W.desc with k := 1, op := .loadEject }, ?_, ?_, rfl⟩ <;> decide +kernel,
   by refine ⟨(W.descs (0 : FoldId) [{ W.desc with k := 1, op := .loadEject, fld := { W.fld with opfield := 1 } }]
        { W.live with loader.trayIn := true, loader.trayOut := false, job := some { W.job with f := (0 : FoldId), k := 1 } }), (0 : FoldId), 1,
        { W.desc with k := 1, op := .loadEject, fld := { W.fld with opfield := 1 } }, ?_, ?_, ?_, ?_, ?_, ?_, ?_⟩ <;> decide +kernel,
   by refine ⟨{ W.live with loader.trayIn := false, sys.entry := none, kpr.trayWake := false }, ?_, ?_, ?_, ?_, ?_⟩ <;> decide +kernel,
   by refine ⟨{ W.live with loader.trayIn := true, sys.entry := none, kpr.trayWake := false }, ?_, ?_, ?_, ?_, ?_⟩ <;> decide +kernel,
   by refine ⟨{ W.live with loader.trayOut := false, sys.entry := none, kpr.trayWake := false, loader.drive := .opening 1 }, 1, ?_, ?_, ?_, ?_, ?_,
        ?_⟩ <;> decide +kernel,
   by refine ⟨{ W.late with loader.drive := .opening 1, loader.trayOut := false }, 1, ?_, ?_, ?_⟩ <;> decide +kernel,
   by refine ⟨{ W.live with loader.drive := .pulse 1, us := (1 + W.live.loader.prof.solT * 1000), loader.trayIn := true }, 1, ?_, ?_, ?_⟩
        <;> decide +kernel,
   by refine
        ⟨{ W.live with loader.drive := .pulse ((W.job.at_) : Nat), us := (((W.job.at_) : Nat) + W.live.loader.prof.solT * 1000), loader.trayIn := false, job := some W.job },
        ((W.job.at_) : Nat), W.job, ?_, ?_, ?_, ?_, ?_⟩ <;> decide +kernel,
   by refine ⟨{ W.late with loader.drive := .afterPulse 1, loader.trayIn := true }, 1, ?_, ?_, ?_⟩ <;> decide +kernel,
   by refine ⟨(State.modFold { W.live with loader.prof.btnEn := true } 1 fun r => { r with locked := true }), (1 : FoldId), ?_, ?_, ?_, ?_, ?_⟩
        <;> decide +kernel,
   by refine ⟨{ W.live with loader.prof.btnEn := true, sys.entry := none, kpr.trayWake := false }, ?_, ?_, ?_, ?_, ?_, ?_⟩ <;> decide +kernel⟩

/-- The hypotheses of ReadingCommandsBegin, clause by clause. -/
theorem wit_ReadingCommandsBegin :
    (∃ (s : State) (t : State) (f : FoldId) (k : Nat) (d : Desc) (l : List Byte), runningAs s f k .read = some d ∧ pinsGo f d d.fld.count 0 s = (t,
      l, none)) ∧
    (∃ (s : State) (t : State) (f : FoldId) (k : Nat) (b : Nat) (d : Desc) (l : List Byte), runningAs s f k .read = some d ∧ pinsGo f d d.fld.count
      0 s = (t, l, some b)) ∧
    (∃ (s : State) (f : FoldId) (k : Nat) (d : Desc) (o : Op) (c : Instr), ((o = .read ∧ c = .read f k) ∨ (o = .readRaw ∧ c = .readRaw f k) ∨ (o =
      .verify ∧ c = .verify f k) ∨ (o = .scan ∧ c = .scan f k)) ∧ runningAs s f k o = none ∧ dispatchedAs s f k o = some d) ∧
    (∃ (s : State) (j : Job) (d : Desc), jobDesc s = some (j, d) ∧ j.kind = .reading ∧ j.memFail = none ∧ delivered d j = [] ∧ verdict (d.op ==
      .scan && bit d.fld.opfield 5) j.units = none) ∧
    (∃ (s : State) (d : Desc) (di : DiscInfo) (u : JobUnit), s.disc = some di ∧ u ∈ wantedUnits s d) :=
  ⟨by refine ⟨(W.descs (0 : FoldId) [{ W.desc with k := 1, op := .read }] W.live), _, (0 : FoldId), 1, { W.desc with k := 1, op := .read }, _, ?_,
        rfl⟩ <;> decide +kernel,
   by refine ⟨(W.descs 0 [W.pinned] W.spoilt), _, (0 : FoldId), 1, _, W.pinned, _, ?_, rfl⟩ <;> decide +kernel,
   by refine ⟨(W.descs (0 : FoldId) [{ W.desc with k := 1, op := (.read : Op) }] { W.live with job := (some (W.jobAt (0 : FoldId) 1)) }), (0 :
        FoldId), 1, { W.desc with k := 1, op := (.read : Op) }, (.read : Op), (.read (0 : FoldId) 1 : Instr), ?_, ?_, ?_⟩ <;> decide +kernel,
   by refine ⟨(W.descs 0 [{ W.desc with k := 1 }] { W.live with job := some { W.job with kind := .reading, units := [{ first := 0 }] } }),
        { W.job with kind := .reading, units := [{ first := 0 }] }, { W.desc with k := 1 }, ?_, ?_, ?_, ?_, ?_⟩ <;> decide +kernel,
   by refine ⟨{ W.live with disc := some W.disc }, W.desc, W.disc, { first := 0 }, ?_, ?_⟩ <;> decide +kernel⟩

/-- The hypotheses of UnitsDecodeLookAgainAndAreReread, clause by clause. -/
theorem wit_UnitsDecodeLookAgainAndAreReread :
    (∃ (s : State) (t : State) (g : UnitSignal) (j : Job) (d : Desc) (u : UnitRead), takeUnit g s = (u, t) ∧ jobDesc t = some (j, d) ∧ j.kind =
      .reading ∧ unitIn j u.first (· == .waiting) = true ∧ unitBad j d u = false ∧ residual d u = false) ∧
    (∃ (s : State) (t : State) (g : UnitSignal) (j : Job) (d : Desc) (u : UnitRead), takeUnit g s = (u, t) ∧ jobDesc t = some (j, d) ∧ j.kind =
      .reading ∧ unitIn j u.first (· == .waiting) = true ∧ unitBad j d u = true ∧ noSecondOf d = false ∧ u.samplesWhole = true ∧ passesOf t ≠ 0 ∧
      t.chan.pinned.length < 2) ∧
    (∃ (s : State) (t : State) (g : UnitSignal) (j : Job) (d : Desc) (u : UnitRead) (x : JobUnit) (p : Nat), jobDesc s = some (j, d) ∧ j.units.find?
      (fun x => x.first == g.first) = some x ∧ x.st = .looking p ∧ spoiltLines s x.first = [] ∧ takePass g x p s = (u, t) ∧ unitBad j d u = false) ∧
    (∃ (s : State) (t : State) (g : UnitSignal) (j : Job) (d : Desc) (u : UnitRead) (x : JobUnit) (p : Nat), jobDesc s = some (j, d) ∧ j.units.find?
      (fun x => x.first == g.first) = some x ∧ x.st = .looking p ∧ spoiltLines s x.first = [] ∧ takePass g x p s = (u, t) ∧ unitBad j d u = true ∧ p
      < passesOf t) ∧
    (∃ (s : State) (t : State) (g : UnitSignal) (j : Job) (d : Desc) (u : UnitRead) (x : JobUnit) (n : Nat), takeUnit g s = (u, t) ∧ jobDesc t =
      some (j, d) ∧ j.units.find? (fun x => x.first == u.first) = some x ∧ x.st = .rereading n ∧ unitBad j d u = false ∧ residual d u = false) ∧
    (∃ (s : State) (t : State) (g : UnitSignal) (j : Job) (d : Desc) (u : UnitRead) (x : JobUnit) (n : Nat), takeUnit g s = (u, t) ∧ jobDesc t =
      some (j, d) ∧ j.units.find? (fun x => x.first == u.first) = some x ∧ x.st = .rereading n ∧ unitBad j d u = true ∧ 1 < n) ∧
    (∃ (s : State) (t : State) (g : UnitSignal) (j : Job) (d : Desc) (u : UnitRead) (x : JobUnit), takeUnit g s = (u, t) ∧ jobDesc t = some (j, d) ∧
      j.units.find? (fun x => x.first == u.first) = some x ∧ x.st = .rereading 1 ∧ unitBad j d u = true) ∧
    (∃ (s : State) (j : Job) (u : JobUnit) (n : Nat), s.job = some j ∧ s.chan.target = some n ∧ j.units.find? (fun x => x.first == n) = some u ∧
      s.chan.passed = true ∧ s.chan.acq = .acquiring ∧ unitWanted u = true ∧ u.slips < 2) ∧
    (∃ (s : State) (j : Job) (u : JobUnit) (n : Nat), s.job = some j ∧ s.chan.target = some n ∧ j.units.find? (fun x => x.first == n) = some u ∧
      s.chan.passed = true ∧ s.chan.acq = .acquiring ∧ unitWanted u = true ∧ 2 ≤ u.slips) :=
  ⟨by refine ⟨(W.descs 0 [{ W.desc with k := 1, op := .read }]
        { W.live with job := some { W.job with kind := .reading, units := [{ first := 0 }] }, disc := some W.disc }), _, W.signal, _, _, _, W.eta2
        _, rfl, ?_, ?_, ?_, ?_⟩ <;> decide +kernel,
   by refine ⟨W.sampled, _, W.badSignal, { W.job with kind := .reading, units := [{ first := 0 }] }, { W.desc with op := .read }, _, W.eta2 _, ?_,
        ?_, ?_, ?_, ?_, W.sampled_whole, ?_, ?_⟩ <;> decide +kernel,
   by refine ⟨(W.descs 0 [{ W.desc with k := 1, op := .read }]
        { W.live with job := some { W.job with kind := .reading, units := [{ first := 0, st := .looking 1 }] }, disc := some W.disc }), _, W.signal,
        { W.job with kind := .reading, units := [{ first := 0, st := .looking 1 }] }, { W.desc with k := 1, op := .read }, _,
        { first := 0, st := .looking 1 }, 1, ?_, ?_, ?_, ?_, W.eta2 _, ?_⟩ <;> decide +kernel,
   by refine ⟨(W.descs 0 [{ W.desc with k := 1, op := .read }]
        { W.live with job := some { W.job with kind := .reading, units := [{ first := 0, st := .looking 1 }] }, disc := some W.disc, chan.lookInUse := some { W.live.chan.look.get 1 with passes := 2 } }),
        _, W.badSignal, { W.job with kind := .reading, units := [{ first := 0, st := .looking 1 }] }, { W.desc with k := 1, op := .read }, _,
        { first := 0, st := .looking 1 }, 1, ?_, ?_, ?_, ?_, W.eta2 _, ?_, ?_⟩ <;> decide +kernel,
   by refine ⟨(W.descs 0 [{ W.desc with k := 1, op := .read }]
        { W.live with job := some { W.job with kind := .reading, units := [{ first := 0, st := .rereading 1 }] }, disc := some W.disc }), _,
        W.signal, _, _, _, { first := 0, st := .rereading 1 }, 1, W.eta2 _, rfl, ?_, ?_, ?_, ?_⟩ <;> decide +kernel,
   by refine ⟨(W.descs 0 [{ W.desc with k := 1, op := .read }]
        { W.live with job := some { W.job with kind := .reading, units := [{ first := 0, st := .rereading 2 }] }, disc := some W.disc }), _,
        W.badSignal, _, _, _, { first := 0, st := .rereading 2 }, 2, W.eta2 _, rfl, ?_, ?_, ?_, ?_⟩ <;> decide +kernel,
   by refine ⟨(W.descs 0 [{ W.desc with k := 1, op := .read }]
        { W.live with job := some { W.job with kind := .reading, units := [{ first := 0, st := .rereading 1 }] }, disc := some W.disc }), _,
        W.badSignal, _, _, _, { first := 0, st := .rereading 1 }, W.eta2 _, rfl, ?_, ?_, ?_⟩ <;> decide +kernel,
   by refine
        ⟨{ W.live with job := some { W.job with kind := .reading, units := [{ first := 0, slips := 1 }] }, chan.target := some 0, chan.passed := true, chan.acq := .acquiring },
        { W.job with kind := .reading, units := [{ first := 0, slips := 1 }] }, { first := 0, slips := 1 }, 0, ?_, ?_, ?_, ?_, ?_, ?_, ?_⟩
        <;> decide +kernel,
   by refine
        ⟨{ W.live with job := some { W.job with kind := .reading, units := [{ first := 0, slips := 2 }] }, chan.target := some 0, chan.passed := true, chan.acq := .acquiring },
        { W.job with kind := .reading, units := [{ first := 0, slips := 2 }] }, { first := 0, slips := 2 }, 0, ?_, ?_, ?_, ?_, ?_, ?_, ?_⟩
        <;> decide +kernel⟩

/-- The hypotheses of RecordingBeginsUnderrunsAndIsVerified, clause by clause. -/
theorem wit_RecordingBeginsUnderrunsAndIsVerified :
    (∃ (s : State) (f : FoldId) (k : Nat) (d : Desc) (di : DiscInfo), dispatchedAs s f k .write = some d ∧ s.disc = some di ∧ writeRangeOk di (lbaOf
      d.fld) d.fld.count = true) ∧
    (∃ (s : State) (f : FoldId) (k : Nat) (d : Desc) (di : DiscInfo), dispatchedAs s f k .write = some d ∧ s.disc = some di ∧ writeRangeOk di (lbaOf
      d.fld) d.fld.count = false) ∧
    (∃ (s : State) (j : Job) (d : Desc), jobDesc s = some (j, d) ∧ j.kind = .writing ∧ j.next ≤ j.last ∧ dataReady s j d = false ∧ j.waitingData =
      false) ∧
    (∃ (s : State) (t : State) (v : State) (j : Job) (d : Desc) (di : DiscInfo) (u : Nat) (z : Nat) (layer : Nat) (cls : Nat) (tab : Strategy) (l :
      List Int), jobDesc s = some (j, d) ∧ s.disc = some di ∧ j.kind = .writing ∧ s.servo.wgate = true ∧ j.next ≤ j.last ∧ nextUnit s j = (u, z) ∧
      writeSetup s j di = (layer, cls, tab) ∧ memRun s (unitReads d j.next (min z (j.last + 1))) = (t, false) ∧ v = changeTable (takePace
      (runningOpc
      ({ (t.emits [.recorded u (storedBlocks t d u (unitBlocksOf t j d)), .pulses (unitPulses di tab u (storedBlocks t d u (unitBlocksOf t j d)).flatten)]) with disc := some (noteRecorded di j.next z) }.modJob
      fun j =>
      { j with next := z, recorded := j.recorded + (min z (j.last + 1) - j.next), unverified := if verifyAfter d then j.unverified ++ [u] else [] })
      (rhoOf l))) (layer, cls)) ∧
    (∃ (s : State) (t : State) (j : Job) (d : Desc) (di : DiscInfo) (u : Nat) (z : Nat), jobDesc s = some (j, d) ∧ s.disc = some di ∧ j.kind =
      .writing ∧ s.servo.wgate = true ∧ j.next ≤ j.last ∧ nextUnit s j = (u, z) ∧ memRun s (unitReads d j.next (min z (j.last + 1))) = (t, true)) ∧
    (∃ (s : State) (j : Job) (d : Desc) (di : DiscInfo) (e : DiscInfo) (n : Nat) (r : List (List Readback)), jobDesc s = some (j, d) ∧ s.disc = some
      di ∧ j.kind = .writing ∧ readbackDue s j d = true ∧ tryUnits s (noReplace d) di 0 (j.unverified.zipIdx.map fun p => (p.1, r.getD p.2 [])) =
      (e, n, none)) ∧
    (∃ (s : State) (j : Job) (d : Desc) (di : DiscInfo) (e : DiscInfo) (n : Nat) (b : Nat) (r : List (List Readback)), jobDesc s = some (j, d) ∧
      s.disc = some di ∧ j.kind = .writing ∧ readbackDue s j d = true ∧ tryUnits s (noReplace d) di 0 (j.unverified.zipIdx.map fun p => (p.1, r.getD
      p.2 [])) = (e, n, some b)) :=
  ⟨by refine ⟨(W.descs (0 : FoldId) [{ W.desc with k := 1, op := .write }]
        { W.live with job := some { W.job with f := (0 : FoldId), k := 1 }, disc := some W.disc }), (0 : FoldId), 1,
        { W.desc with k := 1, op := .write }, W.disc, ?_, ?_, ?_⟩ <;> decide +kernel,
   by refine ⟨(W.descs (0 : FoldId) [{ W.desc with k := 1, op := .write }]
        { W.live with job := some { W.job with f := (0 : FoldId), k := 1 }, disc := some { W.disc with finalised := true } }), (0 : FoldId), 1,
        { W.desc with k := 1, op := .write }, { W.disc with finalised := true }, ?_, ?_, ?_⟩ <;> decide +kernel,
   by refine ⟨(W.descs { W.job with kind := .writing, waitingData := false }.f [W.desc]
        { W.live with job := some { W.job with kind := .writing, waitingData := false } }), { W.job with kind := .writing, waitingData := false },
        W.desc, ?_, ?_, ?_, ?_, ?_⟩ <;> decide +kernel,
   by refine ⟨(W.descs 0 [{ W.desc with k := 1, op := .write }]
        { W.live with disc := some W.disc, job := some W.writing, servo.wgate := true, recd.strategies := [W.powers] }), _, _, W.writing,
        { W.desc with k := 1, op := .write }, W.disc, _, _, _, _, _, [], ?_, ?_, ?_, ?_, ?_, W.eta2 _, W.eta3 _, rfl, rfl⟩ <;> decide +kernel,
   by refine ⟨(W.descs 0 [W.wbuf] { W.spoilt with disc := some W.disc, job := some W.writing, servo.wgate := true }), _, W.writing, W.wbuf, W.disc,
        _, _, ?_, ?_, ?_, ?_, ?_, W.eta2 _, rfl⟩ <;> decide +kernel,
   by refine ⟨(W.descs 0 [{ W.desc with k := 1, op := .write, fld := { W.fld with opfield := 1 } }]
        { W.live with disc := some W.disc, job := some W.verifying }), W.verifying,
        { W.desc with k := 1, op := .write, fld := { W.fld with opfield := 1 } }, W.disc, _, _, [[⟨true, []⟩]], ?_, ?_, ?_, ?_, rfl⟩
        <;> decide +kernel,
   by refine ⟨(W.descs 0 [{ W.desc with k := 1, op := .write, fld := { W.fld with opfield := 1 } }]
        { W.live with disc := some W.disc, job := some W.verifying }), W.verifying,
        { W.desc with k := 1, op := .write, fld := { W.fld with opfield := 1 } }, W.disc, _, _, _, [], ?_, ?_, ?_, ?_, rfl⟩ <;> decide +kernel⟩

/-- The hypotheses of PowerIsCalibratedAndLevelsAreSent, clause by clause. -/
theorem wit_PowerIsCalibratedAndLevelsAreSent :
    (∃ (s : State) (j : Job) (d : Desc) (di : DiscInfo) (e : DiscInfo) (layer : Nat) (cls : Nat) (tab : Strategy) (x : List OpcStep) (g : Int),
      jobDesc s = some (j, d) ∧ s.disc = some di ∧ j.kind = .writing ∧ opcDue s j = true ∧ j.stopWith = none ∧ j.next ≤ j.last ∧ beamReady s = true
      ∧ s.servo.wgate = false ∧ writeSetup s j di = (layer, cls, tab) ∧ takePartitions di layer tab.opcSteps = some e ∧ opcResult tab one28
      (opcResults tab one28 x) = some g) ∧
    (∃ (s : State) (t : State) (j : Job) (d : Desc) (di : DiscInfo) (e : DiscInfo) (e2 : DiscInfo) (layer : Nat) (cls : Nat) (tab : Strategy) (x :
      List OpcStep) (y : List OpcStep) (c : Int), jobDesc s = some (j, d) ∧ s.disc = some di ∧ j.kind = .writing ∧ opcDue s j = true ∧ j.stopWith =
      none ∧ j.next ≤ j.last ∧ beamReady s = true ∧ s.servo.wgate = false ∧ writeSetup s j di = (layer, cls, tab) ∧ takePartitions di layer
      tab.opcSteps = some e ∧ takePartitions e layer tab.opcSteps = some e2 ∧ opcResult tab one28 (opcResults tab one28 x) = none ∧ opcNearest tab
      (opcResults tab one28 x) = c ∧ opcResult tab c (opcResults tab c y) = none ∧ t = recordOpc
      { s with disc := some e, job := some { j with links := if 0 < j.recorded then j.links + 1 else j.links, opcRuns := j.opcRuns + 1 } } tab
      one28) ∧
    (∃ (s : State) (j : Job), s.job = some j ∧ beamReady s = false) ∧
    (∃ (s : State) (j : Job) (d : Desc) (a : BitVec 7) (v : Half) (b : Half) (r : List (Nat × Nat)), jobDesc s = some (j, d) ∧ j.lds = (a.toNat,
      v.toNat) :: r ∧ j.kind = .writing ∧ s.servo.wgate = false ∧ s.recd.lds.readback = true ∧ b = v) ∧
    (∃ (s : State) (j : Job) (d : Desc) (a : BitVec 7) (v : Half) (b : Half) (r : List (Nat × Nat)), jobDesc s = some (j, d) ∧ j.lds = (a.toNat,
      v.toNat) :: r ∧ j.kind = .writing ∧ s.servo.wgate = false ∧ s.recd.lds.readback = true ∧ b ≠ v) :=
  ⟨by refine ⟨(W.descs 0 [{ W.desc with k := 1, op := .write }]
        { W.live with disc := some W.disc, job := some W.writing, servo.ldEn := true, chan.accepted := true, recd.strategies := [W.powers] }),
        W.writing, { W.desc with k := 1, op := .write }, W.disc, _, _, _, _, [⟨0, 1, 0⟩, ⟨1, 0, 0⟩], _, ?_, ?_, ?_, ?_, ?_, ?_, ?_, ?_, W.eta3 _,
        rfl, rfl⟩ <;> decide +kernel,
   by refine ⟨(W.descs 0 [{ W.desc with k := 1, op := .write }]
        { W.live with disc := some W.disc, job := some W.writing, servo.ldEn := true, chan.accepted := true, recd.strategies := [W.powers] }), _,
        W.writing, { W.desc with k := 1, op := .write }, W.disc, _, _, _, _, _, [⟨0, 1, 0⟩, ⟨0, 1, 0⟩], [⟨0, 1, 0⟩, ⟨0, 1, 0⟩], _, ?_, ?_, ?_, ?_,
        ?_, ?_, ?_, ?_, W.eta3 _, rfl, rfl, ?_, rfl, ?_, rfl⟩ <;> decide +kernel,
   by refine ⟨{ W.live with job := some W.job }, W.job, ?_, ?_⟩ <;> decide +kernel,
   by refine ⟨(W.descs { W.job with lds := ((0 : BitVec 7).toNat, (0 : Half).toNat) :: [], kind := .writing }.f [W.desc]
        { W.live with servo.wgate := false, recd.lds.readback := true, job := some { W.job with lds := ((0 : BitVec 7).toNat, (0 : Half).toNat) :: [], kind := .writing } }),
        { W.job with lds := ((0 : BitVec 7).toNat, (0 : Half).toNat) :: [], kind := .writing }, W.desc, (0 : BitVec 7), (0 : Half), _, [], ?_, ?_,
        ?_, ?_, ?_, rfl⟩ <;> decide +kernel,
   by refine ⟨(W.descs { W.job with lds := ((0 : BitVec 7).toNat, (0 : Half).toNat) :: [], kind := .writing }.f [W.desc]
        { W.live with servo.wgate := false, recd.lds.readback := true, job := some { W.job with lds := ((0 : BitVec 7).toNat, (0 : Half).toNat) :: [], kind := .writing } }),
        { W.job with lds := ((0 : BitVec 7).toNat, (0 : Half).toNat) :: [], kind := .writing }, W.desc, (0 : BitVec 7), (0 : Half), (1 : Half), [],
        ?_, ?_, ?_, ?_, ?_, ?_⟩ <;> decide +kernel⟩

/-- The hypotheses of SealingTakesACounterValueAndTheTagDecides, clause by clause. -/
theorem wit_SealingTakesACounterValueAndTheTagDecides :
    (∃ (s : State) (f : FoldId) (k : Nat) (d : Desc) (i : Fin 17) (key : KeySlot) (aad : List Byte) (plain : List Byte) (cipher : List Byte) (tag :
      List Byte), sealRunning s f k .sealBuffer = some d ∧ s.cph.disabled = false ∧ lockHeldBy s f k = true ∧ i = slotIndex f d.fld.keySlot ∧ s.slot
      i = key ∧ key.st = .loaded ∧ key.counter ≤ key.useLimit ∧ key.counter ≤ key.reservedTo ∧ gcmSeal key.key (nonceOf key.salt key.counter) (fit
      d.fld.aadLen aad) (fit d.fld.length plain) = (cipher, tag)) ∧
    (∃ (s : State) (f : FoldId) (k : Nat) (d : Desc), sealRunning s f k .sealBuffer = some d ∧ s.cph.disabled = false ∧ lockHeldBy s f k = true ∧
      (s.slot (slotIndex f d.fld.keySlot)).st = .empty) ∧
    (∃ (s : State) (t : State) (f : FoldId) (k : Nat) (d : Desc), sealRunning s f k .openBuffer = some d ∧ s.cph.disabled = false ∧ lockHeldBy s f k
      = true ∧ (s.slot (slotIndex f d.fld.keySlot)).st ≠ .empty ∧ memRun s (throughSet d (foldMask s f) engineMask) = (t, false)) ∧
    (∃ (s : State) (f : FoldId) (k : Nat) (d : Desc), s.cph.holder = some (f, k) ∧ s.desc? f k = some d ∧ s.cph.phase = .verifying ∧ s.job = none ∧
      gcmTag (s.slot (slotIndex f d.fld.keySlot)).key (s.cph.auxIn.take 12) s.cph.aad (gcmCrypt (s.slot (slotIndex f d.fld.keySlot)).key
      (s.cph.auxIn.take 12) s.cph.hold) = (s.cph.auxIn.drop 16).take 16) ∧
    (∃ (s : State) (f : FoldId) (k : Nat) (d : Desc), s.cph.holder = some (f, k) ∧ s.desc? f k = some d ∧ s.cph.phase = .verifying ∧ s.job = none ∧
      gcmTag (s.slot (slotIndex f d.fld.keySlot)).key (s.cph.auxIn.take 12) s.cph.aad (gcmCrypt (s.slot (slotIndex f d.fld.keySlot)).key
      (s.cph.auxIn.take 12) s.cph.hold) ≠ (s.cph.auxIn.drop 16).take 16) ∧
    (∃ (s : State) (f : FoldId) (k : Nat) (d : Desc), dispatchedAs s f k .sealedRead = some d ∧ s.cph.disabled = false ∧ lockHeldBy s f k = true ∧
      (s.slot (slotIndex f d.fld.keySlot)).st ≠ .empty) ∧
    (∃ (s : State) (f : FoldId) (k : Nat) (d : Desc) (di : DiscInfo) (i : Fin 17) (key : KeySlot) (aad : List Byte) (plain : List Byte) (cipher :
      List Byte) (tag : List Byte), dispatchedAs s f k .sealedWrite = some d ∧ s.disc = some di ∧ writeRangeOk di (lbaOf d.fld) d.fld.count = true ∧
      s.cph.disabled = false ∧ lockHeldBy s f k = true ∧ i = slotIndex f d.fld.keySlot ∧ s.slot i = key ∧ key.st = .loaded ∧ key.counter ≤
      key.useLimit ∧ key.counter ≤ key.reservedTo ∧ gcmSeal key.key (nonceOf key.salt key.counter) (fit d.fld.aadLen aad) (fit (2048 * d.fld.count)
      plain) = (cipher, tag)) ∧
    (∃ (s : State) (f : FoldId) (r : Nat) (k : Nat), s.cph.owner = 15 ∧ (requestersAfter s.cph.lastReq).findSome? (fun q => s.cph.waiters.find? fun
      w => w.1 == q) = some (r, f, k)) ∧
    (∃ (s : State) (at_ : Nat), s.cph.phase = .releasing at_ ∧ at_ ≤ s.us ∧ s.cph.holder = none ∧ s.cph.owner ≠ 15) :=
  ⟨by refine ⟨(W.descs 0 [{ W.desc with k := 1, op := .sealBuffer }] { W.late with cph.holder := some (0, 1) }), (0 : FoldId), 1,
        { W.desc with k := 1, op := .sealBuffer }, _, { st := .loaded, key := List.replicate 16 0, useLimit := 100, reservedTo := 100 }, [], [], _,
        _, ?_, ?_, ?_, rfl, ?_, ?_, ?_, ?_, W.eta2 _⟩ <;> decide +kernel,
   by refine ⟨(W.descs (0 : FoldId) [{ W.desc with k := 1, op := .sealBuffer }]
        { W.live with cph.disabled := false, cph.holder := some ((0 : FoldId), 1) }), (0 : FoldId), 1, { W.desc with k := 1, op := .sealBuffer },
        ?_, ?_, ?_, ?_⟩ <;> decide +kernel,
   by refine ⟨(W.descs 0 [{ W.desc with k := 1, op := .openBuffer }] { W.late with cph.holder := some (0, 1) }), _, (0 : FoldId), 1,
        { W.desc with k := 1, op := .openBuffer }, ?_, ?_, ?_, ?_, rfl⟩ <;> decide +kernel,
   by refine ⟨(W.descs (0 : FoldId) [{ W.desc with k := 1 }]
        { W.live with cph.holder := some ((0 : FoldId), 1), cph.phase := .verifying, job := none }), (0 : FoldId), 1, { W.desc with k := 1 }, ?_,
        ?_, ?_, ?_, ?_⟩ <;> decide +kernel,
   by refine ⟨(W.descs (0 : FoldId) [{ W.desc with k := 1 }]
        { W.late with cph.holder := some ((0 : FoldId), 1), cph.phase := .verifying, job := none }), (0 : FoldId), 1, { W.desc with k := 1 }, ?_,
        ?_, ?_, ?_, ?_⟩ <;> decide +kernel,
   by refine ⟨(W.descs 0 [{ W.desc with k := 1, op := .sealedRead }] { W.late with cph.holder := some (0, 1), job := some W.job }), (0 : FoldId), 1,
        { W.desc with k := 1, op := .sealedRead }, ?_, ?_, ?_, ?_⟩ <;> decide +kernel,
   by refine ⟨(W.descs 0 [{ W.desc with k := 1, op := .sealedWrite }]
        { W.late with cph.holder := some (0, 1), job := some W.job, disc := some W.disc }), (0 : FoldId), 1,
        { W.desc with k := 1, op := .sealedWrite }, W.disc, _, { st := .loaded, key := List.replicate 16 0, useLimit := 100, reservedTo := 100 },
        [], [], _, _, ?_, ?_, ?_, ?_, ?_, rfl, ?_, ?_, ?_, ?_, W.eta2 _⟩ <;> decide +kernel,
   by refine ⟨{ W.live with cph.owner := 15, cph.waiters := [(0, 0, 1)] }, (0 : FoldId), 0, 1, ?_, ?_⟩ <;> decide +kernel,
   by refine ⟨{ W.live with cph.phase := .releasing 1, cph.holder := none, cph.owner := 0 }, 1, ?_, ?_, ?_, ?_⟩ <;> decide +kernel⟩

/-- The hypotheses of KeysAndTheEngine, clause by clause. -/
theorem wit_KeysAndTheEngine :
    (∃ (s : State) (f : FoldId) (k : Nat) (d : Desc), sealRunning s f k .keyLoad = some d ∧ bit d.fld.opfield 2 = false ∧ s.cph.disabled = false ∧
      lockHeldBy s f k = true) ∧
    (∃ (s : State) (f : FoldId) (k : Nat) (d : Desc) (w : List Byte) (key : List Byte), sealRunning s f k .keyLoad = some d ∧ bit d.fld.opfield 2 =
      true ∧ s.cph.disabled = false ∧ lockHeldBy s f k = true ∧ (s.slot (slotIndex f (d.fld.keySlot + 1))).st ≠ .empty ∧ kwUnwrap (s.slot (slotIndex
      f (d.fld.keySlot + 1))).key (fit (keyBytes d.fld.opfield) w) = some key) ∧
    (∃ (s : State) (f : FoldId) (k : Nat) (d : Desc) (w : List Byte), sealRunning s f k .keyLoad = some d ∧ bit d.fld.opfield 2 = true ∧
      s.cph.disabled = false ∧ lockHeldBy s f k = true ∧ (s.slot (slotIndex f (d.fld.keySlot + 1))).st ≠ .empty ∧ kwUnwrap (s.slot (slotIndex f
      (d.fld.keySlot + 1))).key (fit (keyBytes d.fld.opfield) w) = none) ∧
    (∃ (s : State) (f : FoldId) (k : Nat) (d : Desc), sealRunning s f k .keyClear = some d ∧ lockHeldBy s f k = true ∧ (s.slot (slotIndex f
      d.fld.keySlot)).st ≠ .empty) ∧
    (∃ (s : State) (f : FoldId) (k : Nat) (d : Desc), sealRunning s f k .keyClear = some d ∧ lockHeldBy s f k = true ∧ (s.slot (slotIndex f
      d.fld.keySlot)).st = .empty) ∧
    (∃ (s : State) (i : Fin 17), (s.slot i).st ≠ .empty ∧ (s.slot i).reserving = false ∧ (s.slot i).reservedTo < (s.slot i).counter - 1 + 32768) ∧
    (∃ (s : State) (l : List Nat), s.cph.owner ≠ 15 ∧ s.cph.phase = .idle ∧ s.cph.holder = none ∧ l = s.cph.faultTicks.filter (fun x => decide
      (s.kpr.tick ≤ x + 32768)) ∧ l.length < 2) ∧
    (∃ (s : State) (l : List Nat), s.cph.owner ≠ 15 ∧ s.cph.phase = .idle ∧ s.cph.holder = none ∧ s.cph.disabled = false ∧ l =
      s.cph.faultTicks.filter (fun x => decide (s.kpr.tick ≤ x + 32768)) ∧ 2 ≤ l.length) ∧
    (∃ (s : State), s.sys.mode = .service ∧ s.cph.owner = 15) ∧
    (∃ (s : State), s.sys.mode ≠ .service) ∧
    (∃ (s : State), s.sys.mode = .service ∧ s.cph.direct = true ∧ s.cph.owner ≠ 15) ∧
    (∃ (s : State), barUp s 0 = true ∧ s.cph.direct = true) ∧
    (∃ (s : State), s.cph.katBusy = true) ∧
    (∃ (s : State), barUp s 0 = true) :=
  ⟨by refine ⟨(W.descs (0 : FoldId) [{ W.desc with k := 1, op := .keyLoad, fld := { W.fld with opfield := 0 } }]
        { W.live with cph.disabled := false, cph.holder := some ((0 : FoldId), 1) }), (0 : FoldId), 1,
        { W.desc with k := 1, op := .keyLoad, fld := { W.fld with opfield := 0 } }, ?_, ?_, ?_, ?_⟩ <;> decide +kernel,
   by refine ⟨((W.descs (0 : FoldId) [{ W.desc with k := 1, op := .keyLoad, fld := { W.fld with opfield := 4 } }]
        { W.late with cph.disabled := false, cph.holder := some ((0 : FoldId), 1) }).setSlot (slotIndex (0 : FoldId)
        ({ W.desc with k := 1, op := .keyLoad, fld := { W.fld with opfield := 4 } }.fld.keySlot + 1)) { st := .loaded }), (0 : FoldId), 1,
        { W.desc with k := 1, op := .keyLoad, fld := { W.fld with opfield := 4 } }, (List.replicate 7 0xA6 ++ 0xAA :: List.replicate 16 0), _, ?_,
        ?_, ?_, ?_, ?_, rfl⟩ <;> decide +kernel,
   by refine ⟨((W.descs (0 : FoldId) [{ W.desc with k := 1, op := .keyLoad, fld := { W.fld with opfield := 4 } }]
        { W.live with cph.disabled := false, cph.holder := some ((0 : FoldId), 1) }).setSlot (slotIndex (0 : FoldId)
        ({ W.desc with k := 1, op := .keyLoad, fld := { W.fld with opfield := 4 } }.fld.keySlot + 1)) { st := .loaded }), (0 : FoldId), 1,
        { W.desc with k := 1, op := .keyLoad, fld := { W.fld with opfield := 4 } }, (W.bytes []), ?_, ?_, ?_, ?_, ?_, ?_⟩ <;> decide +kernel,
   by refine ⟨(W.descs (0 : FoldId) [{ W.desc with k := 1, op := .keyClear }] { W.late with cph.holder := some ((0 : FoldId), 1) }), (0 : FoldId),
        1, { W.desc with k := 1, op := .keyClear }, ?_, ?_, ?_⟩ <;> decide +kernel,
   by refine ⟨(W.descs (0 : FoldId) [{ W.desc with k := 1, op := .keyClear }] { W.live with cph.holder := some ((0 : FoldId), 1) }), (0 : FoldId),
        1, { W.desc with k := 1, op := .keyClear }, ?_, ?_, ?_⟩ <;> decide +kernel,
   by refine ⟨W.late, (0 : Fin 17), ?_, ?_, ?_⟩ <;> decide +kernel,
   by refine ⟨{ W.live with cph.owner := 0, cph.phase := .idle, cph.holder := none }, _, ?_, ?_, ?_, rfl, ?_⟩ <;> decide +kernel,
   by refine ⟨{ W.live with cph.phase := .idle, cph.holder := none, cph.disabled := false, cph.faultTicks := [0, 0], cph.owner := 0 }, _, ?_, ?_,
        ?_, ?_, rfl, ?_⟩ <;> decide +kernel,
   by refine ⟨{ W.live with sys.mode := .service, cph.owner := 15 }, ?_, ?_⟩ <;> decide +kernel,
   by refine ⟨W.live, ?_⟩ <;> decide +kernel,
   by refine ⟨{ W.live with sys.mode := .service, cph.direct := true, cph.owner := 0 }, ?_, ?_, ?_⟩ <;> decide +kernel,
   by refine ⟨{ W.live with cph.direct := true }, ?_, ?_⟩ <;> decide +kernel,
   by refine ⟨{ W.live with cph.katBusy := true }, ?_⟩ <;> decide +kernel,
   by refine ⟨W.live, ?_⟩ <;> decide +kernel⟩

/-- The hypotheses of VaultObjectsAreReadWrittenDeletedAndListed, clause by clause. -/
theorem wit_VaultObjectsAreReadWrittenDeletedAndListed :
    (∃ (s : State) (f : FoldId) (k : Nat) (d : Desc) (key : List Byte), sealRunning s f k .vaultGet = some d ∧ s.cph.disabled = false ∧ lockHeldBy s
      f k = true ∧ vaultFind s f (fit d.fld.count key) = none) ∧
    (∃ (s x : State) (f : FoldId) (k : Nat) (d : Desc) (key : List Byte) (v : List Byte) (r : Rec), sealRunning s f k .vaultGet = some d ∧
      s.cph.disabled = false ∧ lockHeldBy s f k = true ∧ x = readVault s f (fit d.fld.count key) ∧ vaultFind x f (fit d.fld.count key) = some r ∧
      vaultObject r = some (f, fit d.fld.count key, v) ∧ r.unreadable = false ∧ vaultOpens f r = true) ∧
    (∃ (s x : State) (f : FoldId) (k : Nat) (d : Desc) (key : List Byte) (v : List Byte) (r : Rec), sealRunning s f k .vaultGet = some d ∧
      s.cph.disabled = false ∧ lockHeldBy s f k = true ∧ x = readVault s f (fit d.fld.count key) ∧ vaultFind x f (fit d.fld.count key) = some r ∧
      vaultObject r = some (f, fit d.fld.count key, v) ∧ r.unreadable = true) ∧
    (∃ (s x : State) (f : FoldId) (k : Nat) (d : Desc) (key : List Byte) (v : List Byte) (r : Rec), sealRunning s f k .vaultGet = some d ∧
      s.cph.disabled = false ∧ lockHeldBy s f k = true ∧ x = readVault s f (fit d.fld.count key) ∧ vaultFind x f (fit d.fld.count key) = some r ∧
      vaultObject r = some (f, fit d.fld.count key, v) ∧ r.unreadable = false ∧ vaultOpens f r = false) ∧
    (∃ (s x : State) (f : FoldId) (k : Nat) (d : Desc) (key : List Byte) (value : List Byte) (r : Rec), sealRunning s f k .vaultPut = some d ∧
      s.cph.disabled = false ∧ lockHeldBy s f k = true ∧ x = readVault s f (fit d.fld.count key) ∧
      vaultFind x f (fit d.fld.count key) = some r ∧ r.unreadable = false ∧ vaultObject r = some (f, fit d.fld.count key, fit d.fld.length value)) ∧
    (∃ (s : State) (f : FoldId) (k : Nat) (d : Desc) (key : List Byte) (value : List Byte), sealRunning s f k .vaultPut = some d ∧ s.cph.disabled =
      false ∧ lockHeldBy s f k = true ∧ vaultFind s f (fit d.fld.count key) = none ∧ overVaultQuota s f (fit d.fld.count key) (fit d.fld.length
      value) = true) ∧
    (∃ (s : State) (f : FoldId) (k : Nat) (c : Nat) (d : Desc) (key : List Byte) (value : List Byte), sealRunning s f k .vaultPut = some d ∧
      s.cph.disabled = false ∧ lockHeldBy s f k = true ∧ vaultId s f (fit d.fld.count key) = none ∧ overVaultQuota s f (fit d.fld.count key) (fit
      d.fld.length value) = false ∧ counterCheck (s.slot 16) = .value c) ∧
    (∃ (s : State) (f : FoldId) (k : Nat) (d : Desc) (key : List Byte), sealRunning s f k .vaultDelete = some d ∧ s.cph.disabled = false ∧ vaultId s
      f (fit d.fld.count key) = none) ∧
    (∃ (s : State) (f : FoldId) (k : Nat) (i : Nat) (d : Desc) (key : List Byte), sealRunning s f k .vaultDelete = some d ∧ s.cph.disabled = false ∧
      vaultId s f (fit d.fld.count key) = some i) ∧
    (∃ (s x : State) (f : FoldId) (k : Nat) (d : Desc) (out : List Byte), sealRunning s f k .vaultList = some d ∧ s.cph.disabled = false ∧
      lockHeldBy s f k = true ∧ d.fld.auxPtr ≠ 0 ∧ x = readVaultAll s f ∧ out = ((vaultSorted x f).take (d.fld.length / 36)).flatMap (fun o => leBytes 1 o.1.length ++ leBytes 2
      o.2.length ++ [0] ++ fit 32 o.1)) :=
  ⟨by refine ⟨(W.descs (0 : FoldId) [{ W.desc with k := 1, op := .vaultGet }]
        { W.live with cph.disabled := false, cph.holder := some ((0 : FoldId), 1) }), (0 : FoldId), 1, { W.desc with k := 1, op := .vaultGet },
        (W.bytes []), ?_, ?_, ?_, ?_⟩ <;> decide +kernel,
   by refine ⟨(W.descs 0 [{ W.desc with k := 1, op := .vaultGet, fld := { W.fld with count := 1 } }]
        { W.live with cph.holder := some (0, 1), mram.recs := [W.vaulted] }), _, (0 : FoldId), 1,
        { W.desc with k := 1, op := .vaultGet, fld := { W.fld with count := 1 } }, [7], [9], W.vaulted, ?_, ?_, ?_, rfl, ?_, ?_, ?_, ?_⟩
        <;> decide +kernel,
   by refine ⟨(W.descs 0 [{ W.desc with k := 1, op := .vaultGet, fld := { W.fld with count := 1 } }]
        { W.live with cph.holder := some (0, 1), mram.recs := [W.vaulted], mram.found := [(0x2040, none)] }), _, (0 : FoldId), 1,
        { W.desc with k := 1, op := .vaultGet, fld := { W.fld with count := 1 } }, [7], [9], { W.vaulted with unreadable := true }, ?_, ?_, ?_,
        rfl, ?_, ?_, ?_⟩ <;> decide +kernel,
   by refine ⟨(W.descs 0 [{ W.desc with k := 1, op := .vaultGet, fld := { W.fld with count := 1 } }]
        { W.live with cph.holder := some (0, 1), mram.recs := [W.forged] }), _, (0 : FoldId), 1,
        { W.desc with k := 1, op := .vaultGet, fld := { W.fld with count := 1 } }, [7], [9], W.forged, ?_, ?_, ?_, rfl, rfl, ?_, ?_,
        (by simp [vaultOpens, W.forged, W.vaulted, vaultAad])⟩ <;> decide +kernel,
   by refine ⟨(W.descs 0 [{ W.desc with k := 1, op := .vaultPut, fld := { W.fld with count := 1, length := 1 } }]
        { W.live with cph.holder := some (0, 1), mram.recs := [W.vaulted] }), _, (0 : FoldId), 1,
        { W.desc with k := 1, op := .vaultPut, fld := { W.fld with count := 1, length := 1 } }, [7], [9], W.vaulted, ?_, ?_, ?_, rfl, ?_, ?_, ?_⟩
        <;> decide +kernel,
   by refine ⟨((W.descs (0 : FoldId) [{ W.desc with k := 1, op := .vaultPut }]
        { W.live with cph.disabled := false, cph.holder := some ((0 : FoldId), 1) }).modFold (0 : FoldId) fun z_ =>
        { z_ with record := { z_.record with vaultQuota := 0 } }), (0 : FoldId), 1, { W.desc with k := 1, op := .vaultPut }, (W.bytes []), (W.bytes
        []), ?_, ?_, ?_, ?_, ?_⟩ <;> decide +kernel,
   by refine ⟨(W.descs (0 : FoldId) [{ W.desc with k := 1, op := .vaultPut }]
        { W.live with cph.disabled := false, cph.holder := some ((0 : FoldId), 1) }), (0 : FoldId), 1, 1, { W.desc with k := 1, op := .vaultPut },
        (W.bytes []), (W.bytes []), ?_, ?_, ?_, ?_, ?_, ?_⟩ <;> decide +kernel,
   by refine ⟨(W.descs (0 : FoldId) [{ W.desc with k := 1, op := .vaultDelete }] { W.live with cph.disabled := false }), (0 : FoldId), 1,
        { W.desc with k := 1, op := .vaultDelete }, (W.bytes []), ?_, ?_, ?_⟩ <;> decide +kernel,
   by refine ⟨(W.descs (0 : FoldId) [{ W.desc with k := 1, op := .vaultDelete }]
        { W.live with cph.disabled := false, mram.recs := [{ region := 3, id := 0, seq := 1, payload := .vault 0 [0] [1], pages := [], strength := 2 }] }),
        (0 : FoldId), 1, _, { W.desc with k := 1, op := .vaultDelete }, (W.bytes []), ?_, ?_, rfl⟩ <;> decide +kernel,
   by refine ⟨(W.descs (0 : FoldId) [{ W.desc with k := 1, op := .vaultList }]
        { W.live with cph.disabled := false, cph.holder := some ((0 : FoldId), 1) }), _, (0 : FoldId), 1, { W.desc with k := 1, op := .vaultList },
        _, ?_, ?_, ?_, ?_, rfl, rfl⟩ <;> decide +kernel⟩

/-- The hypotheses of MramPagesAreProgrammedReadBackScrubbedAndRefreshed, clause by clause. -/
theorem wit_MramPagesAreProgrammedReadBackScrubbedAndRefreshed :
    (∃ (s : State) (q : Prog) (p : Nat), mramRuns s = true ∧ chooseProg s.mram.queue = some q ∧ q.begun = true ∧ 1 < q.left ∧ p = q.used.getD
      (q.pages - q.left) 0 ∧ bits s.ecc.flipTarget 2 0 ≠ 4) ∧
    (∃ (s : State) (q : Prog) (p : Nat), mramRuns s = true ∧ chooseProg s.mram.queue = some q ∧ q.begun = true ∧ q.again = false ∧ p = q.used.getD
      (q.pages - q.left) 0 ∧ bits s.ecc.flipTarget 2 0 ≠ 4) ∧
    (∃ (s : State) (u : State) (q : Prog) (p : Nat) (l : List Nat), mramRuns s = true ∧ s.mram.queue = [q] ∧ q.begun = true ∧ q.again = true ∧ p =
      q.used.getD (q.pages - q.left) 0 ∧ bits s.ecc.flipTarget 2 0 ≠ 4 ∧ u =
      { s with mram := { s.mram with wear := putKey p 0xFFFFFFFF (putKey p (min (wearOf s.mram p + 1) (2 ^ 32 - 1)) s.mram.wear), strengthAt := delKey p s.mram.strengthAt, found := putKey p none (delKey p s.mram.found), cleared := s.mram.cleared.filter (· != p), retiredPages := s.mram.retiredPages ++ [p], queue := [] }, ecc := { s.ecc with retired := s.ecc.retired + 1 } }
      ∧ pickPages q.pages u.mram q.region [] = some l) ∧
    (∃ (s : State) (q : Prog) (p : Nat) (k : Nat) (d : Desc) (sch : Tariff) (m : Mram), mramRuns s = true ∧ s.mram.queue = [q] ∧ q.begun = true ∧
      q.left = 1 ∧ q.act = .tariff k ∧ q.payload = some (.schedule sch) ∧ s.desc? 0 k = some d ∧ d.stage = .commit ∧ p = q.used.getD (q.pages - 1) 0
      ∧ bits s.ecc.flipTarget 2 0 ≠ 4 ∧ m = commitRecord
      { s.mram with wear := putKey p (min (wearOf s.mram p + 1) (2 ^ 32 - 1)) s.mram.wear, strengthAt := delKey p s.mram.strengthAt, found := delKey p s.mram.found, cleared := s.mram.cleared.filter (· != p), queue := [] } q
      ∧ (m.wear.all fun w => decide (w.2 ≤ 4096)) = true) ∧
    (∃ (s u : State) (l : List (Nat × DecodeBits)), s.sys.mode ≠ .vigil ∧ s.sys.mode ≠ .doze ∧
      s.ecc.mramAt + mramInterval s ≤ s.us ∧ u = { s with mram := l.foldl (fun m x => setFound m x.1 x.2) s.mram, ecc := { s.ecc with mramPos := (s.ecc.mramPos + 1) % 16384, mramAt := s.ecc.mramAt + mramInterval s } } ∧
      foundIn u.mram s.ecc.mramPos = some 0 ∧ pageStrength u s.ecc.mramPos = strengthCode u (regionOf s.ecc.mramPos)) ∧
    (∃ (s u : State) (l : List (Nat × DecodeBits)) (c : Nat), s.sys.mode ≠ .vigil ∧ s.sys.mode ≠ .doze ∧
      s.ecc.mramAt + mramInterval s ≤ s.us ∧ u = { s with mram := l.foldl (fun m x => setFound m x.1 x.2) s.mram, ecc := { s.ecc with mramPos := (s.ecc.mramPos + 1) % 16384, mramAt := s.ecc.mramAt + mramInterval s } } ∧
      foundIn u.mram s.ecc.mramPos = some c ∧ 0 < c ∧ strengthT (pageStrength u s.ecc.mramPos) ≤ 2 * c ∧ s.ecc.mramPos ∉ (eccCorrect u 3).mram.refresh) ∧
    (∃ (s u : State) (l : List (Nat × DecodeBits)) (m : Mram) (fb : Bool), s.sys.mode ≠ .vigil ∧ s.sys.mode ≠ .doze ∧
      s.ecc.mramAt + mramInterval s ≤ s.us ∧ u = { s with mram := l.foldl (fun m x => setFound m x.1 x.2) s.mram, ecc := { s.ecc with mramPos := (s.ecc.mramPos + 1) % 16384, mramAt := s.ecc.mramAt + mramInterval s } } ∧
      foundIn u.mram s.ecc.mramPos = none ∧ pageLost u.mram s.ecc.mramPos = (m, fb)) ∧
    (∃ (s : State), s.us < s.ecc.mramAt + mramInterval s) ∧
    (∃ (s : State) (p c : Nat), foundIn s.mram p = some c ∧ 0 < c ∧ 2 * c < strengthT (pageStrength s p)) ∧
    (∃ (s : State) (b : Bucket) (q : Prog), (settleTokens s).mram.queue.find? (fun q => q.needs && q.bucket == some b) = some q ∧ (q.pages + 1) *
      1000000 ≤ tokensIn (settleTokens s).mram b) ∧
    (∃ (s : State) (b : Bucket), (settleTokens s).mram.queue.find? (fun q => q.needs && q.bucket == some b) = none) ∧
    (∃ (s : State), s.sys.mode = .service ∧ 0x3FF0 ≤ bits s.ecc.rawPage 13 0 ∧ bits s.ecc.flipTarget 2 0 ≠ 4) ∧
    (∃ (s : State), s.sys.mode = .service ∧ bits s.ecc.rawPage 13 0 < 0x3FF0) ∧
    (∃ (s : State) (x : List Word × List Word), s.sys.mode = .service ∧ getKey (bits s.ecc.rawPage 13 0) s.mram.raw = some x) ∧
    (∃ (s : State) (p : Nat) (r : Rec), s.sys.mode = .service ∧ p = bits s.ecc.rawPage 13 0 ∧ getKey p s.mram.raw = none ∧ 0x2000 ≤ p ∧
      (s.mram.recs ++ s.mram.prev).find? (fun r => r.pages.contains p) = some r) ∧
    (∃ (s : State), s.sys.mode ≠ .service) :=
  ⟨by refine ⟨{ W.live with mram.queue := [W.prog] }, W.prog, 0x3880, ?_, ?_, ?_, ?_, ?_, ?_⟩ <;> decide +kernel,
   by refine ⟨{ W.live with mram.queue := [W.prog] }, W.prog, 0x3880, ?_, ?_, ?_, ?_, ?_, ?_⟩ <;> decide +kernel,
   by refine ⟨{ W.live with mram.queue := [{ W.prog with pages := 0, again := true }] }, _, { W.prog with pages := 0, again := true }, _, _, ?_, ?_,
        ?_, ?_, rfl, ?_, rfl, rfl⟩ <;> decide +kernel,
   by refine ⟨(W.descs 0 [{ W.desc with k := 1, op := .tariffSet, stage := .commit }]
        { W.live with mram.queue := [{ W.prog with left := 1, act := .tariff 1, payload := some (.schedule {}) }] }),
        { W.prog with left := 1, act := .tariff 1, payload := some (.schedule {}) }, _, 1,
        { W.desc with k := 1, op := .tariffSet, stage := .commit }, {}, _, ?_, ?_, ?_, ?_, ?_, ?_, ?_, ?_, rfl, ?_, rfl, ?_⟩ <;> decide +kernel,
   by refine ⟨{ W.live with us := (W.live.ecc.mramAt + mramInterval W.live) }, _, [], ?_, ?_, ?_, rfl, ?_, ?_⟩ <;> decide +kernel,
   by refine ⟨{ W.live with us := W.live.ecc.mramAt + mramInterval W.live }, _, [(0, some 12)], 12, ?_, ?_, ?_, rfl, ?_, ?_, ?_, ?_⟩ <;> decide +kernel,
   by refine ⟨{ W.live with us := (W.live.ecc.mramAt + mramInterval W.live) }, _, [(0, none)], _, _, ?_, ?_, ?_, rfl, ?_, W.eta2 _⟩ <;> decide +kernel,
   by refine ⟨{ W.live with us := 0 }, ?_⟩ <;> decide +kernel,
   by refine ⟨{ W.live with mram.found := [(7, some 1)] }, 7, 1, ?_, ?_, ?_⟩ <;> decide +kernel,
   by refine ⟨{ W.live with us := 10 ^ 15, mram.queue := [{ W.prog with needs := true, bucket := some (.region 1) }] }, (.region 1),
        { W.prog with needs := true, bucket := some (.region 1) }, ?_, ?_⟩ <;> decide +kernel,
   by refine ⟨W.live, (.region 7), ?_⟩ <;> decide +kernel,
   by refine ⟨{ W.live with sys.mode := .service, ecc.rawPage := 0x3FF0 }, ?_, ?_, ?_⟩ <;> decide +kernel,
   by refine ⟨{ W.live with sys.mode := .service }, ?_, ?_⟩ <;> decide +kernel,
   by refine ⟨{ W.live with sys.mode := .service, mram.raw := [(0, ([], []))] }, _, ?_, rfl⟩ <;> decide +kernel,
   by refine ⟨{ W.live with sys.mode := .service, ecc.rawPage := 0x2040, mram.recs := [W.vaulted] }, _, W.vaulted, ?_, rfl, ?_, ?_, ?_⟩
        <;> decide +kernel,
   by refine ⟨W.live, ?_⟩ <;> decide +kernel⟩

/-- The hypotheses of CorrectionsFillLeakyBucketsAndTheScrubberWalks, clause by clause. -/
theorem wit_CorrectionsFillLeakyBucketsAndTheScrubberWalks :
    (∃ (s : State) (n : Fin 4), (s.ecc.buckets.get n).level < max 1 (bits (s.ecc.buckets.get n).cfg 7 0)) ∧
    (∃ (s : State) (n : Fin 4) (c : Nat) (o : Nat), c = max 1 (bits (s.ecc.buckets.get n).cfg 7 0) ∧ c ≤ (s.ecc.buckets.get n).level ∧ o = min
      ((s.ecc.buckets.get n).overflows + 1) 65535) ∧
    (∃ (s : State) (n : Fin 4), (s.ecc.buckets.get n).leakTick + leakTicks (s.ecc.buckets.get n) ≤ s.kpr.tick) ∧
    (∃ (s : State) (n : Fin 4), s.kpr.tick < (s.ecc.buckets.get n).leakTick + leakTicks (s.ecc.buckets.get n)) ∧
    (∃ (s : State), scrubDue s = true ∧ s.sys.mode ≠ .vigil ∧ s.sys.mode ≠ .doze) ∧
    (∃ (s : State), s.ecc.scrubPos + 1 < 1835008) ∧
    (∃ (s : State), 1835008 ≤ s.ecc.scrubPos + 1) ∧
    (∃ (s : State) (n : Nat), linePoisoned s.ecc n = true) ∧
    (∃ (s : State) (n : Nat) (m : Mem) (bad : Bool), linePoisoned s.ecc n = false ∧ (lineWords n).foldl loadWord
      ({ cache := s.cache, ecc := s.ecc }, false) = (m, bad) ∧ bad = false) ∧
    (∃ (s : State) (n : Nat) (m : Mem) (bad : Bool), linePoisoned s.ecc n = false ∧ (lineWords n).foldl loadWord
      ({ cache := s.cache, ecc := s.ecc }, false) = (m, bad) ∧ bad = true) ∧
    (∃ (s : State), scrubDue s = false) ∧
    (∃ (s : State), barUp s 0 = true) ∧
    (∃ (s : State) (v : Word), s.sys.mode = .service ∧ 1 ≤ bits v 2 0 ∧ bits v 2 0 ≤ 4) ∧
    (∃ (s : State) (v : Word), s.sys.mode = .service ∧ bits v 2 0 = 0) ∧
    (∃ (s : State) (v : Word), (s.sys.mode ≠ .service ∨ 4 < bits v 2 0)) :=
  ⟨by refine ⟨W.live, (0 : Fin 4), ?_⟩ <;> decide +kernel,
   by refine ⟨{ W.live with ecc.buckets := Vector.replicate 4 { level := 100000 } }, (0 : Fin 4), _, _, rfl, ?_, rfl⟩ <;> decide +kernel,
   by refine ⟨W.late, (0 : Fin 4), ?_⟩ <;> decide +kernel,
   by refine ⟨W.live, (0 : Fin 4), ?_⟩ <;> decide +kernel,
   by refine ⟨W.live, ?_, ?_, ?_⟩ <;> decide +kernel,
   by refine ⟨W.live, ?_⟩ <;> decide +kernel,
   by refine ⟨{ W.live with ecc.scrubPos := 1835007 }, ?_⟩ <;> decide +kernel,
   by refine ⟨W.spoilt, 1, ?_⟩ <;> decide +kernel,
   by refine ⟨W.live, 1, _, false, ?_, rfl, ?_⟩ <;> decide +kernel,
   by refine ⟨{ W.live with ecc.sdram := [(8, (0, 3))] }, 1, _, true, ?_, rfl, ?_⟩ <;> decide +kernel,
   by refine ⟨{ W.live with ecc.passAt := 10 ^ 15 }, ?_⟩ <;> decide +kernel,
   by refine ⟨W.live, ?_⟩ <;> decide +kernel,
   by refine ⟨{ W.live with sys.mode := .service }, (1 : Word), ?_, ?_, ?_⟩ <;> decide +kernel,
   by refine ⟨{ W.live with sys.mode := .service }, (0 : Word), ?_, ?_⟩ <;> decide +kernel,
   by refine ⟨W.live, (0 : Word), ?_⟩ <;> decide +kernel⟩

/-- The hypotheses of PoolOperationsGrantShareFreeAndReject, clause by clause. -/
theorem wit_PoolOperationsGrantShareFreeAndReject :
    (∃ (s : State) (a : Account) (req : Nat) (i : Nat) (p : Pool), req ≤ 14 ∧ grantsNow s a 1 = true ∧ s.pool.stack ≠ [] ∧ stackPop s.pool = some
      (i, p)) ∧
    (∃ (s : State) (a : Account) (req : Nat), req ≤ 14 ∧ grantsNow s a 1 = false) ∧
    (∃ (req : Nat), 14 < req) ∧
    (∃ (req : Nat) (idx : Nat), (14 < req ∨ 22527 < idx)) ∧
    (∃ (s : State) (req : Nat) (idx : Nat), req ≤ 14 ∧ idx ≤ 22527 ∧ s.pool.outOfUse.contains idx = false ∧ getKey idx s.pool.bufs = none) ∧
    (∃ (s : State) (req : Nat) (idx : Nat) (b : Buf), req ≤ 14 ∧ idx ≤ 22527 ∧ s.pool.outOfUse.contains idx = false ∧ getKey idx s.pool.bufs = some
      b ∧ b.holds < 16) ∧
    (∃ (s : State) (req : Nat) (idx : Nat) (b : Buf), req ≤ 14 ∧ idx ≤ 22527 ∧ s.pool.outOfUse.contains idx = false ∧ getKey idx s.pool.bufs = some
      b ∧ 16 ≤ b.holds) ∧
    (∃ (s : State) (req : Nat) (idx : Nat) (b : Buf), req ≤ 14 ∧ idx ≤ 22527 ∧ s.pool.outOfUse.contains idx = false ∧ getKey idx s.pool.bufs = some
      b ∧ 2 ≤ b.holds) ∧
    (∃ (s : State) (req : Nat) (idx : Nat) (b : Buf), req ≤ 14 ∧ idx ≤ 22527 ∧ s.pool.outOfUse.contains idx = false ∧ getKey idx s.pool.bufs = some
      b ∧ b.holds ≤ 1) ∧
    (∃ (s : State) (req : Nat) (idx : Nat) (b : Buf), req ≤ 14 ∧ idx ≤ 22527 ∧ s.pool.outOfUse.contains idx = false ∧ getKey idx s.pool.bufs = some
      b ∧ b.last ≠ req) ∧
    (∃ (s : State) (req : Nat) (idx : Nat) (b : Buf), req ≤ 14 ∧ idx ≤ 22527 ∧ s.pool.outOfUse.contains idx = false ∧ getKey idx s.pool.bufs = some
      b ∧ b.last = req ∧ 2 ≤ b.holds) ∧
    (∃ (s : State) (req : Nat) (idx : Nat) (b : Buf), req ≤ 14 ∧ idx ≤ 22527 ∧ s.pool.outOfUse.contains idx = false ∧ getKey idx s.pool.bufs = some
      b ∧ b.last = req ∧ b.holds ≤ 1 ∧ s.pool.queue = []) ∧
    (∃ (s : State) (req : Nat) (idx : Nat) (new : Nat) (b : Buf), req ≤ 14 ∧ idx ≤ 22527 ∧ s.pool.outOfUse.contains idx = false ∧ getKey idx
      s.pool.bufs = some b ∧ new ≤ 14 ∧ b.last = req) ∧
    (∃ (s : State) (req : Nat) (idx : Nat) (new : Nat) (b : Buf), req ≤ 14 ∧ idx ≤ 22527 ∧ s.pool.outOfUse.contains idx = false ∧ getKey idx
      s.pool.bufs = some b ∧ 14 < new) ∧
    (∃ (s : State) (req : Nat) (idx : Nat) (new : Nat) (b : Buf), req ≤ 14 ∧ idx ≤ 22527 ∧ s.pool.outOfUse.contains idx = false ∧ getKey idx
      s.pool.bufs = some b ∧ new ≤ 14 ∧ b.last ≠ req) ∧
    (∃ (s : State) (cause : Nat), cause ≠ 0 ∧ (∀ a : Nat, s.pool.rejectAt = some a → a + 1000 ≤ s.us)) ∧
    (∃ (s : State) (cause : Nat) (a : Nat), cause ≠ 0 ∧ s.pool.rejectAt = some a ∧ s.us < a + 1000) ∧
    (∃ (s : State) (l : List Nat), s.pool.stack.length < 16 ∧ l = ((((ringTake 16 s.pool.ring []).1.reverse.zipIdx.filter fun x => wordBad s
      (ringPlace s.pool x.2 / 8))).map (·.1))) ∧
    (∃ (s : State), 16 ≤ s.pool.stack.length) ∧
    (∃ (s : State), 48 < s.pool.stack.length) ∧
    (∃ (s : State), s.pool.stack.length ≤ 48) ∧
    (∃ (s : State), barUp s 0 = true) ∧
    (∃ (s : State) (f : FoldId), barUp s f = true) ∧
    (∃ (s : State), s.sys.mode = .service) ∧
    (∃ (s : State), s.sys.mode ≠ .service) ∧
    (∃ (s : State), s.pool.auditing = true) :=
  ⟨by refine ⟨{ W.live with pool.stack := [7] }, (.work 0), 1, 7, _, ?_, ?_, ?_, rfl⟩ <;> decide +kernel,
   by refine ⟨{ W.live with pool.auditing := true }, (.work 0), 1, ?_, ?_⟩ <;> decide +kernel,
   by refine ⟨100, ?_⟩ <;> decide +kernel,
   by refine ⟨1, 22528, ?_⟩ <;> decide +kernel,
   by refine ⟨W.live, (14 : Nat), (22527 : Nat), ?_, ?_, ?_, ?_⟩ <;> decide +kernel,
   by refine ⟨{ W.live with pool.bufs := [(0, { acct := .work 0, holds := 1, last := 1 })] }, 1, 0, { acct := .work 0, holds := 1, last := 1 }, ?_,
        ?_, ?_, ?_, ?_⟩ <;> decide +kernel,
   by refine ⟨{ W.live with pool.bufs := [(0, { acct := .work 0, holds := 16, last := 1 })] }, 1, 0, { acct := .work 0, holds := 16, last := 1 },
        ?_, ?_, ?_, ?_, ?_⟩ <;> decide +kernel,
   by refine ⟨{ W.live with pool.bufs := [(0, { acct := .work 0, holds := 2, last := 1 })] }, 1, 0, { acct := .work 0, holds := 2, last := 1 }, ?_,
        ?_, ?_, ?_, ?_⟩ <;> decide +kernel,
   by refine ⟨{ W.live with pool.bufs := [(0, { acct := .work 0, holds := 1, last := 1 })] }, 1, 0, { acct := .work 0, holds := 1, last := 1 }, ?_,
        ?_, ?_, ?_, ?_⟩ <;> decide +kernel,
   by refine ⟨{ W.live with pool.bufs := [(0, { acct := .work 0, holds := 1, last := 1 })] }, 2, 0, { acct := .work 0, holds := 1, last := 1 }, ?_,
        ?_, ?_, ?_, ?_⟩ <;> decide +kernel,
   by refine ⟨{ W.live with pool.bufs := [(0, { acct := .work 0, holds := 2, last := 1 })] }, 1, 0, { acct := .work 0, holds := 2, last := 1 }, ?_,
        ?_, ?_, ?_, ?_, ?_⟩ <;> decide +kernel,
   by refine ⟨{ W.live with pool.bufs := [(0, { acct := .work 0, holds := 1, last := 1 })] }, 1, 0, { acct := .work 0, holds := 1, last := 1 }, ?_,
        ?_, ?_, ?_, ?_, ?_, ?_⟩ <;> decide +kernel,
   by refine ⟨{ W.live with pool.bufs := [(0, { acct := .work 0, holds := 1, last := 1 })] }, 1, 0, 2, { acct := .work 0, holds := 1, last := 1 },
        ?_, ?_, ?_, ?_, ?_, ?_⟩ <;> decide +kernel,
   by refine ⟨{ W.live with pool.bufs := [(0, { acct := .work 0, holds := 1, last := 1 })] }, 1, 0, 15, { acct := .work 0, holds := 1, last := 1 },
        ?_, ?_, ?_, ?_, ?_⟩ <;> decide +kernel,
   by refine ⟨{ W.live with pool.bufs := [(0, { acct := .work 0, holds := 1, last := 1 })] }, 2, 0, 2, { acct := .work 0, holds := 1, last := 1 },
        ?_, ?_, ?_, ?_, ?_, ?_⟩ <;> decide +kernel,
   by refine ⟨W.live, (1 : Nat), ?_, ?_⟩ <;> decide +kernel,
   by refine ⟨{ W.live with pool.rejectAt := some 1, us := 0 }, (1 : Nat), 1, ?_, ?_, ?_⟩ <;> decide +kernel,
   by refine ⟨W.live, (((((ringTake 16 W.live.pool.ring []).1.reverse.zipIdx.filter fun x => wordBad W.live (ringPlace W.live.pool x.2 / 8))).map
        (·.1)) : List Nat), ?_, ?_⟩ <;> decide +kernel,
   by refine ⟨{ W.live with pool.stack := List.range 16 }, ?_⟩ <;> decide +kernel,
   by refine ⟨{ W.live with pool.stack := List.range 49 }, ?_⟩ <;> decide +kernel,
   by refine ⟨W.live, ?_⟩ <;> decide +kernel,
   by refine ⟨W.live, ?_⟩ <;> decide +kernel,
   by refine ⟨W.live, (0 : FoldId), ?_⟩ <;> decide +kernel,
   by refine ⟨{ W.live with sys.mode := .service }, ?_⟩ <;> decide +kernel,
   by refine ⟨W.live, ?_⟩ <;> decide +kernel,
   by refine ⟨{ W.live with pool.auditing := true }, ?_⟩ <;> decide +kernel⟩

/-- The hypotheses of PenCopiesExpireAndWaysAndTheCaptureFifoAreServed, clause by clause. -/
theorem wit_PenCopiesExpireAndWaysAndTheCaptureFifoAreServed :
    (∃ (s : State) (v : Word) (c : PenCopy), barUp s 0 = true ∧ s.pen = [c] ∧ c.removed = false ∧ bit v c.owner.val = true ∧ holdsOf s c.buf ≤ 1) ∧
    (∃ (s : State) (v : Word) (c : PenCopy) (b : Buf), barUp s 0 = true ∧ s.pen = [c] ∧ c.removed = false ∧ bit v c.owner.val = true ∧ getKey c.buf
      s.pool.bufs = some b ∧ 1 < b.holds) ∧
    (∃ (s : State) (v : Word) (c : PenCopy), barUp s 0 = true ∧ s.pen = [c] ∧ bit v c.owner.val = false) ∧
    (∃ (s : State) (c : PenCopy), s.pen = [c] ∧ c.removed = false ∧ holdsOf s c.buf ≤ 1 ∧ c.placedAt + c.hold * 1000 ≤ s.us) ∧
    (∃ (s : State), (∀ c ∈ s.pen, s.us < c.placedAt + c.hold * 1000)) ∧
    (∃ (s : State), barUp s 0 = true) ∧
    (∃ (s : State) (t : State) (w : Nat) (r : List Nat), s.cache.walks = w :: r ∧ t = cleanWay { s with cache := { s.cache with walks := r } } w ∧
      bit t.cache.onAfter w = false) ∧
    (∃ (s : State) (t : State) (w : Nat) (r : List Nat), s.cache.walks = w :: r ∧ t = cleanWay { s with cache := { s.cache with walks := r } } w ∧
      bit t.cache.onAfter w = true) ∧
    (∃ (s : State) (w : Nat), (s.cache.lines.filter fun l => l.way == w) = []) ∧
    (∃ (s : State), s.cache.walks = []) ∧
    (∃ (s : State), barUp s 0 = true ∧ s.cache.walks = []) ∧
    (∃ (s : State) (w : Word) (x : Word) (r : List Word) (rest : List (List Word)), barUp s 0 = true ∧ s.cap.packets = (w :: x :: r) :: rest) ∧
    (∃ (s : State), barUp s 0 = true ∧ s.cap.packets = []) ∧
    (∃ (s : State) (p : List Word) (r : List (List Word)), s.sys.mode = .service ∧ s.cap.packets = p :: r) ∧
    (∃ (s : State), s.sys.mode ≠ .service) ∧
    (∃ (s : State), s.sys.mode = .service ∧ s.cap.running = false ∧ triggerMet s = true) ∧
    (∃ (s : State), s.sys.mode = .service ∧ s.cap.running = false ∧ triggerMet s = false) ∧
    (∃ (s : State) (p : List Word), capReady s = true ∧ p = capPayload s ∧ capCount s.cap + p.length + 2 ≤ 4096) ∧
    (∃ (s : State) (p : List Word), capReady s = true ∧ p = capPayload s ∧ 4096 < capCount s.cap + p.length + 2) ∧
    (∃ (s : State), capReady s = false) :=
  ⟨by refine ⟨{ W.live with pen := [W.copy] }, (1 : Word), W.copy, ?_, ?_, ?_, ?_, ?_⟩ <;> decide +kernel,
   by refine ⟨{ W.live with pen := [W.copy], pool.bufs := [(0, { acct := .pen 0, holds := 2, last := 0 })] }, 1, W.copy,
        { acct := .pen 0, holds := 2, last := 0 }, ?_, ?_, ?_, ?_, ?_, ?_⟩ <;> decide +kernel,
   by refine ⟨{ W.live with pen := [W.copy] }, (0 : Word), W.copy, ?_, ?_, ?_⟩ <;> decide +kernel,
   by refine ⟨{ W.late with pen := [W.copy] }, W.copy, ?_, ?_, ?_, ?_⟩ <;> decide +kernel,
   by refine ⟨W.live, ?_⟩ <;> decide +kernel,
   by refine ⟨W.live, ?_⟩ <;> decide +kernel,
   by refine ⟨{ W.live with cache.walks := 1 :: [] }, _, 1, [], ?_, rfl, ?_⟩ <;> decide +kernel,
   by refine ⟨{ W.live with cache.walks := [1], cache.onAfter := 2 }, _, 1, [], ?_, rfl, ?_⟩ <;> decide +kernel,
   by refine ⟨W.live, 1, ?_⟩ <;> decide +kernel,
   by refine ⟨{ W.live with cache.walks := [] }, ?_⟩ <;> decide +kernel,
   by refine ⟨{ W.live with cache.walks := [] }, ?_, ?_⟩ <;> decide +kernel,
   by refine ⟨{ W.live with cap.packets := ((0 : Word) :: (0 : Word) :: []) :: [] }, (0 : Word), (0 : Word), [], [], ?_, ?_⟩ <;> decide +kernel,
   by refine ⟨{ W.live with cap.packets := [] }, ?_, ?_⟩ <;> decide +kernel,
   by refine ⟨{ W.live with sys.mode := .service, cap.packets := [] :: [] }, [], [], ?_, ?_⟩ <;> decide +kernel,
   by refine ⟨W.live, ?_⟩ <;> decide +kernel,
   by refine ⟨{ W.live with sys.mode := .service, cap.running := false }, ?_, ?_, ?_⟩ <;> decide +kernel,
   by refine ⟨{ W.live with sys.mode := .service, cap.running := false, cap.trigger := 1 }, ?_, ?_, ?_⟩ <;> decide +kernel,
   by refine ⟨{ W.live with sys.mode := .service, cap.running := true, cap.source := 1, servo.strobes := 1 }, _, ?_, rfl, ?_⟩ <;> decide +kernel,
   by refine
        ⟨{ W.live with sys.mode := .service, cap.running := true, cap.source := 1, servo.strobes := 1, cap.packets := [List.replicate 4096 0] }, _,
        ?_, rfl, ?_⟩ <;> decide +kernel,
   by refine ⟨W.live, ?_⟩ <;> decide +kernel⟩

/-- The hypotheses of RegistersOfTheWindowAndThePlatformBlockAreWritten, clause by clause. -/
theorem wit_RegistersOfTheWindowAndThePlatformBlockAreWritten :
    (∃ (f : FoldId) (off : Nat), f ≠ 0 ∧ 0x1000 ≤ off ∧ off < 0x2000) ∧
    (∃ (off : Nat), (off % 4 ≠ 0 ∨ 0x2080 ≤ off)) ∧
    (∃ (off : Nat), off ∈ [0x000, 0x004, 0x008, 0x00C, 0x014, 0x018, 0x0A0, 0x0D0, 0x104]) ∧
    (∃ (s : State) (v : Word) (p : Nat × Instr), barUp s 0 = true ∧ p ∈ [(0x1014, Instr.fqRejectClear), (0x1044, .wayOff v), (0x1048, .wayOn v),
      (0x1000, .gntBaseWrite false v), (0x1008, .gntCtlWrite v), (0x1028, .penFlush v), (0x10E0, .govWrite .ctl v), (0x10E4, .govWrite .limit v),
      (0x115C, .haltAck v), (0x1230, .eccFlipArm v), (0x1264, .scrubStatClear)]) ∧
    (∃ (s : State), barUp s 0 = true) ∧
    (∃ (s : State) (t : State) (v : Word) (p : Nat × Word), barUp s 0 = true ∧ p ∈ [(0x1020, (0xFFFF0003 : Word)), (0x1024, 0xFFFF), (0x10AC, 0xFF),
      (0x10B4, 0xFFFFFFFF), (0x1260, 0xFFFF), (0x1280, 0xFFFF), (0x1284, 0x7F), (0x1290, 0x3FFF)] ∧ exec (.registerWrite (.bar 0 p.1 v true)) s =
      .next t) ∧
    (∃ (s : State) (f : FoldId), barUp s f = true ∧ (s.fold f).msixEnable = false) ∧
    (∃ (s : State), barUp s 0 = true) ∧
    (∃ (f : FoldId), f ≠ 0) ∧
    (∃ (s : State) (v : Word), barUp s 0 = true ∧ min 50 (bits v 5 0) ≤ min 50 (bits v 13 8)) ∧
    (∃ (s : State) (v : Word), barUp s 0 = true ∧ min 50 (bits v 13 8) < min 50 (bits v 5 0)) ∧
    (∃ (s : State), barUp s 0 = true ∧ govVmin s.pwr.gov ≤ govVmax s.pwr.gov) ∧
    (∃ (s : State) (v : Word), barUp s 0 = true ∧ s.kpr.crystalOk = true ∧ (s.kpr.rcOk = true ∨ (bit v 0 = false ∧ bit v 1 = false))) ∧
    (∃ (s : State) (v : Word), barUp s 0 = true ∧ s.kpr.crystalOk = true ∧ s.kpr.rcOk = false ∧ (bit v 0 = true ∨ bit v 1 = true)) ∧
    (∃ (s : State) (f : FoldId), s.sys.entry = none ∧ barUp s f = true ∧ (s.fold f).dbp.en = true ∧ (s.fold f).dbp.pollFault = false ∧ (s.fold
      f).dbp.sleeping = false) ∧
    (∃ (s : State) (f : FoldId), s.sys.entry = none ∧ barUp s f = true ∧ (s.fold f).dbp.en = true ∧ (s.fold f).dbp.pollFault = false ∧ (s.fold
      f).dbp.sleeping = true ∧ (s.fold f).dbp.stopped = false) :=
  ⟨by refine ⟨(1 : FoldId), 4096, ?_, ?_, ?_⟩ <;> decide +kernel,
   by refine ⟨1, ?_⟩ <;> decide +kernel,
   by refine ⟨0, ?_⟩ <;> decide +kernel,
   by refine ⟨W.live, (0 : Word), (0x1014, .fqRejectClear), ?_, ?_⟩ <;> decide +kernel,
   by refine ⟨W.live, ?_⟩ <;> decide +kernel,
   by refine ⟨W.live, _, (0 : Word), (0x1020, 0xFFFF0003), ?_, ?_, rfl⟩ <;> decide +kernel,
   by refine ⟨(W.live.modFold (0 : FoldId) fun z_ => { z_ with msixEnable := false }), (0 : FoldId), ?_, ?_⟩ <;> decide +kernel,
   by refine ⟨W.live, ?_⟩ <;> decide +kernel,
   by refine ⟨(1 : FoldId), ?_⟩ <;> decide +kernel,
   by refine ⟨W.live, (0 : Word), ?_, ?_⟩ <;> decide +kernel,
   by refine ⟨W.live, (1 : Word), ?_, ?_⟩ <;> decide +kernel,
   by refine ⟨W.live, ?_, ?_⟩ <;> decide +kernel,
   by refine ⟨{ W.live with kpr.crystalOk := true, kpr.rcOk := true }, (0 : Word), ?_, ?_, ?_⟩ <;> decide +kernel,
   by refine ⟨{ W.live with kpr.crystalOk := true, kpr.rcOk := false }, (1 : Word), ?_, ?_, ?_, ?_⟩ <;> decide +kernel,
   by refine ⟨(State.modFold ({ W.live with sys.entry := none }) (0 : FoldId) fun z_ =>
        { z_ with dbp.en := true, dbp.pollFault := false, dbp.sleeping := false }), (0 : FoldId), ?_, ?_, ?_, ?_, ?_⟩ <;> decide +kernel,
   by refine ⟨(State.modFold ({ W.live with sys.entry := none }) (0 : FoldId) fun z_ =>
        { z_ with dbp.en := true, dbp.pollFault := false, dbp.sleeping := true, dbp.stopped := false }), (0 : FoldId), ?_, ?_, ?_, ?_, ?_, ?_⟩
        <;> decide +kernel⟩

/-- The hypotheses of TheCollieIsArmedServedAndExpires, clause by clause. -/
theorem wit_TheCollieIsArmedServedAndExpires :
    (∃ (s : State) (k : Nat) (d : Desc) (c : Word), runningAs s 0 k .collieArm = some d ∧ bit d.fld.opfield 5 = false ∧ s.kpr.wdogLow = false ∧ c =
      (if Config.randomWord s.draws = 0 then 1 else Config.randomWord s.draws)) ∧
    (∃ (s : State) (k : Nat) (d : Desc), runningAs s 0 k .collieArm = some d ∧ bit d.fld.opfield 5 = true ∧ s.kpr.wdogLow = false) ∧
    (∃ (s : State) (k : Nat) (d : Desc), runningAs s 0 k .collieServe = some d ∧ s.kpr.collie.armed = true) ∧
    (∃ (s : State) (k : Nat) (d : Desc), runningAs s 0 k .collieServe = some d ∧ s.kpr.collie.armed = false) ∧
    (∃ (s : State) (k : Nat) (n : Nat) (tok : Word) (c : Word) (r : List (Nat × Word × Nat)) (d : Desc) (e : Nat), s.kpr.latch = (k, tok, n) :: r ∧
      n ≤ s.kpr.tick ∧ s.desc? 0 k = some d ∧ s.kpr.collie.armed = true ∧ s.kpr.collie.expiredAt ≠ some s.kpr.tick ∧ e = (s.kpr.tick -
      s.kpr.collie.ref) / 32 ∧ s.kpr.collie.wOpen ≤ e ∧ e < s.kpr.collie.wClose ∧ c = s.kpr.collie.chal ∧ s.kpr.wdogLow = false) ∧
    (∃ (s : State) (tok : Word) (n : Nat), s.kpr.latch = [] ∧ s.kpr.sbToken = some (tok, n) ∧ n ≤ s.kpr.tick ∧ s.kpr.collie.armed = true ∧
      s.kpr.collie.expiredAt ≠ some s.kpr.tick ∧ (s.kpr.tick - s.kpr.collie.ref) / 32 < s.kpr.collie.wOpen ∧ s.kpr.collie.wOpen <
      s.kpr.collie.wClose) ∧
    (∃ (s : State), s.kpr.collie.armed = true ∧ s.kpr.collie.wClose ≤ (s.kpr.tick - s.kpr.collie.ref) / 32) ∧
    (∃ (s : State), (s.kpr.collie.armed = false ∨ (s.kpr.tick - s.kpr.collie.ref) / 32 < s.kpr.collie.wClose)) ∧
    (∃ (s : State), s.kpr.collie.actStop = false) ∧
    (∃ (s : State), s.kpr.collie.actStop = false ∧ s.kpr.collie.actWdog = true) ∧
    (∃ (s : State) (a : Nat) (b : List Byte), sbAnswers s a = true ∧ b.length = 4 ∧ s.kpr.collie.armed = true ∧ (s.sys.mode = .vigil ∨ s.sys.mode =
      .doze)) ∧
    (∃ (s : State) (a : Nat) (b : List Byte), sbAnswers s a = true ∧ (b.length ≠ 4 ∨ (s.sys.mode ≠ .vigil ∧ s.sys.mode ≠ .doze))) ∧
    (∃ (s : State) (u : Nat), s.kpr.wdogUntil = some u ∧ s.kpr.wdogLow = true ∧ s.kpr.wdogBoth = false ∧ u ≤ s.us) ∧
    (∃ (s : State) (u : Nat), s.kpr.wdogUntil = some u ∧ s.kpr.wdogLow = true ∧ s.kpr.wdogBoth = false ∧ s.us < u) :=
  ⟨by refine ⟨(W.descs 0 [{ W.desc with k := 1, op := .collieArm, fld := { W.fld with opfield := 0 } }] { W.live with kpr.wdogLow := false }), 1,
        { W.desc with k := 1, op := .collieArm, fld := { W.fld with opfield := 0 } }, _, ?_, ?_, ?_, rfl⟩ <;> decide +kernel,
   by refine ⟨(W.descs 0 [{ W.desc with k := 1, op := .collieArm, fld := { W.fld with opfield := 32 } }] { W.live with kpr.wdogLow := false }), 1,
        { W.desc with k := 1, op := .collieArm, fld := { W.fld with opfield := 32 } }, ?_, ?_, ?_⟩ <;> decide +kernel,
   by refine ⟨(W.descs 0 [{ W.desc with k := 1, op := .collieServe }] { W.live with kpr.collie.armed := true }), 1,
        { W.desc with k := 1, op := .collieServe }, ?_, ?_⟩ <;> decide +kernel,
   by refine ⟨(W.descs 0 [{ W.desc with k := 1, op := .collieServe }] { W.live with kpr.collie.armed := false }), 1,
        { W.desc with k := 1, op := .collieServe }, ?_, ?_⟩ <;> decide +kernel,
   by refine ⟨(W.descs 0 [{ W.desc with k := 1 }]
        { W.live with kpr.latch := (1, (1 : Word), 1) :: [], kpr.collie.armed := true, kpr.wdogLow := false, kpr.collie.wClose := 100, kpr.collie.wOpen := 0, kpr.tick := 320 }),
        1, 1, (1 : Word), _, [], { W.desc with k := 1 }, _, ?_, ?_, ?_, ?_, ?_, rfl, ?_, ?_, rfl, ?_⟩ <;> decide +kernel,
   by refine
        ⟨{ W.live with kpr.latch := [], kpr.sbToken := some ((0 : Word), 1), kpr.collie.armed := true, kpr.collie.wOpen := 100, kpr.collie.wClose := 200, kpr.tick := 320 },
        (0 : Word), 1, ?_, ?_, ?_, ?_, ?_, ?_, ?_⟩ <;> decide +kernel,
   by refine ⟨{ W.live with kpr.collie.armed := true }, ?_, ?_⟩ <;> decide +kernel,
   by refine ⟨{ W.live with kpr.collie.armed := false }, ?_⟩ <;> decide +kernel,
   by refine ⟨{ W.live with kpr.collie.actStop := false }, ?_⟩ <;> decide +kernel,
   by refine ⟨{ W.live with kpr.collie.actStop := false, kpr.collie.actWdog := true }, ?_, ?_⟩ <;> decide +kernel,
   by refine ⟨{ W.live with kpr.running := true, kpr.collie.armed := true, sys.mode := .vigil }, 0x5A, [1, 0, 0, 0], ?_, ?_, ?_, ?_⟩
        <;> decide +kernel,
   by refine ⟨{ W.live with kpr.running := true }, 0x5A, [], ?_, ?_⟩ <;> decide +kernel,
   by refine ⟨{ W.live with kpr.wdogUntil := some 1, kpr.wdogLow := true, kpr.wdogBoth := false }, 1, ?_, ?_, ?_, ?_⟩ <;> decide +kernel,
   by refine ⟨{ State.reset with kpr.wdogUntil := some 1, kpr.wdogLow := true, kpr.wdogBoth := false }, 1, ?_, ?_, ?_, ?_⟩ <;> decide +kernel⟩

/-- The hypotheses of BronzeIsResetAndStartedAgain, clause by clause. -/
theorem wit_BronzeIsResetAndStartedAgain :
    (∃ (s : State) (tok : Word) (e : Nat), bronzeUp s = true ∧ s.kpr.internal.armed = true ∧ e = (s.kpr.tick - s.kpr.internal.ref) / 32 ∧
      s.kpr.internal.wOpen ≤ e ∧ e < s.kpr.internal.wClose ∧ tok = collieToken s.kpr.internal.seed s.kpr.internal.chal) ∧
    (∃ (s : State) (tok : Word) (e : Nat), bronzeUp s = true ∧ s.kpr.internal.armed = true ∧ e = (s.kpr.tick - s.kpr.internal.ref) / 32 ∧ (e <
      s.kpr.internal.wOpen ∨ s.kpr.internal.wClose ≤ e ∨ tok ≠ collieToken s.kpr.internal.seed s.kpr.internal.chal)) ∧
    (∃ (s : State) (e : Nat), bronzeUp s = true ∧ s.kpr.internal.armed = true ∧ e = (s.kpr.tick - s.kpr.internal.ref) / 32 ∧ s.kpr.internal.wClose ≤
      e) ∧
    (∃ (s : State) (e : Nat), bronzeUp s = true ∧ s.kpr.internal.armed = true ∧ e = (s.kpr.tick - s.kpr.internal.ref) / 32 ∧ e <
      s.kpr.internal.wClose) ∧
    (∃ (s : State), bronzeUp s = true) ∧
    (∃ (s : State) (way : Nat), bronzeUp s = true ∧ 12 ≤ way ∧ way ≤ 15) ∧
    (∃ (s : State) (way : Nat), bronzeUp s = true ∧ way < 12) ∧
    (∃ (s : State) (c : Nat), s.kpr.restartCause = some c ∧ s.sys.readyAt + 1000 ≤ s.us ∧ s.sys.ready = false ∧ s.kpr.stateLost = false) ∧
    (∃ (s : State) (c : Nat), s.kpr.restartCause = some c ∧ s.us < s.sys.readyAt + 1000) ∧
    (∃ (m : Mram) (p : Nat), m.found = [(p, none)] ∧ 0x2000 ≤ p ∧ p < 0x3FF0) ∧
    (∃ (m : Mram) (p : Nat), m.found = [(p, none)] ∧ (p < 0x2000 ∨ 0x3FF0 ≤ p)) ∧
    (∃ (s : State), s.sys.mode = .vigil ∧ s.kpr.running = true ∧ s.pwr.input = true ∧ s.kpr.starting = true) ∧
    (∃ (s : State), (s.sys.mode ≠ .vigil ∨ s.pwr.input = false ∨ s.kpr.starting = false)) ∧
    (∃ (s : State), s.sys.ready = true ∧ s.sys.mode ≠ .vigil ∧ s.sys.readyAt + 10000000 ≤ s.us) ∧
    (∃ (s : State), s.sys.ready = true ∧ s.sys.mode ≠ .vigil ∧ s.us < s.sys.readyAt + 10000000) :=
  ⟨by refine ⟨{ W.live with kpr.internal.armed := true, kpr.tick := 320 }, _, _, ?_, ?_, rfl, ?_, ?_, rfl⟩ <;> decide +kernel,
   by refine ⟨{ W.live with kpr.internal.armed := true }, (0 : Word), _, ?_, ?_, rfl, ?_⟩ <;> decide +kernel,
   by refine ⟨{ W.late with kpr.internal.armed := true }, _, ?_, ?_, rfl, ?_⟩ <;> decide +kernel,
   by refine ⟨{ W.live with kpr.internal.armed := true }, _, ?_, ?_, rfl, ?_⟩ <;> decide +kernel,
   by refine ⟨W.live, ?_⟩ <;> decide +kernel,
   by refine ⟨W.live, 12, ?_, ?_, ?_⟩ <;> decide +kernel,
   by refine ⟨W.live, (0 : Nat), ?_, ?_⟩ <;> decide +kernel,
   by refine ⟨{ W.live with kpr.restartCause := some 1, sys.ready := false, kpr.stateLost := false }, 1, ?_, ?_, ?_, ?_⟩ <;> decide +kernel,
   by refine ⟨{ State.reset with kpr.restartCause := some 1 }, 1, ?_, ?_⟩ <;> decide +kernel,
   by refine ⟨{ W.live.mram with found := [(0x2000, none)] }, 0x2000, ?_, ?_, ?_⟩ <;> decide +kernel,
   by refine ⟨{ W.live.mram with found := [(0x3FF0, none)] }, 0x3FF0, ?_, ?_⟩ <;> decide +kernel,
   by refine ⟨{ W.live with sys.mode := .vigil, kpr.running := true, pwr.input := true, kpr.starting := true }, ?_, ?_, ?_, ?_⟩ <;> decide +kernel,
   by refine ⟨W.live, ?_⟩ <;> decide +kernel,
   by refine ⟨{ W.late with sys.ready := true }, ?_, ?_, ?_⟩ <;> decide +kernel,
   by refine ⟨{ W.live with sys.ready := true }, ?_, ?_, ?_⟩ <;> decide +kernel⟩

/-- The hypotheses of OscillatorsLogSidebandAndHaltAcknowledgement, clause by clause. -/
theorem wit_OscillatorsLogSidebandAndHaltAcknowledgement :
    (∃ (s : State) (t : State) (d : Dog) (o : Osc), dogRuns s d = true ∧ t = oscStops s o ∧ (t.kpr.crystalOk = true ∨ t.kpr.rcOk = true) ∧ onRc s d
      = (o == .rc)) ∧
    (∃ (s : State) (t : State) (d : Dog) (o : Osc), dogRuns s d = true ∧ t = oscStops s o ∧ (t.kpr.crystalOk = true ∨ t.kpr.rcOk = true) ∧ onRc s d
      ≠ (o == .rc)) ∧
    (∃ (s : State) (d : Dog), dogRuns s d = true ∧ s.kpr.crystalOk = false ∧ wdogIsLow s = false) ∧
    (∃ (s : State), s.kpr.wdogBoth = true ∧ s.kpr.wdogLow = false) ∧
    (∃ (s : State), s.kpr.wdogBoth = false) ∧
    (∃ (s : State), s.kpr.running = true ∧ s.kpr.wdogBoth = false) ∧
    (∃ (s : State), bronzeRuns s = true ∧ s.kpr.mirrorDirty = false ∧ s.kpr.mirrorTick + 2 ^ 27 ≤ s.kpr.tick) ∧
    (∃ (s : State), bronzeRuns s = true ∧ s.kpr.mirrorDirty = false ∧ s.kpr.tick < s.kpr.mirrorTick + 2 ^ 27) ∧
    (∃ (s : State) (e : LogEntry) (r : List LogEntry), bronzeRuns s = true ∧ s.log.committing = 0 ∧ s.log.staged = e :: r ∧ (30 ≤
      s.log.staged.length ∨ e.tick + 327680 ≤ s.kpr.tick)) ∧
    (∃ (s : State) (e : LogEntry) (r : List LogEntry), bronzeRuns s = true ∧ s.log.committing = 0 ∧ s.log.staged = e :: r ∧ s.log.staged.length < 30
      ∧ s.kpr.tick < e.tick + 327680) ∧
    (∃ (s x : State) (k : Nat) (d : Desc) (a : LogEntry) (b : LogEntry) (l : List LogEntry) (wanted : List LogEntry), runningAs s 0 k .logRead =
      some d ∧ x = readLog s (lbaOf d.fld) ∧ l = (logEntries x).eraseDups ∧ l.head? = some a ∧ l.getLast? = some b ∧ d.fld.auxPtr ≠ 0 ∧ wanted = (l.filter fun e => decide (lbaOf d.fld
      ≤ e.seq)).take (d.fld.length / 32)) ∧
    (∃ (s : State) (a : Nat), sbAnswers s a = false) ∧
    (∃ (s : State) (a : Nat), sbAnswers s a = true) ∧
    (∃ (s : State) (a : Nat), sbAnswers s a = true) ∧
    (∃ (s : State) (a : Nat) (v : Byte), sbAnswers s a = true ∧ v ≠ 0xA5) ∧
    (∃ (s : State) (a : Nat), sbAnswers s a = true) ∧
    (∃ (s : State) (v : Word), barUp s 0 = true ∧ bit v 24 = true ∧ s.halt.inHalt = true ∧ bits v 15 8 = s.halt.seq.toNat) ∧
    (∃ (s : State) (v : Word), barUp s 0 = true ∧ bit v 24 = true ∧ ¬ (s.halt.inHalt = true ∧ bits v 15 8 = s.halt.seq.toNat)) ∧
    (∃ (v : Word), bit v 24 = false) ∧
    (∃ (s : State), s.halt.inHalt = true ∧ s.halt.acked = true ∧ s.halt.at_ + 1000 ≤ s.us) ∧
    (∃ (s : State), s.halt.inHalt = true ∧ s.halt.acked = true ∧ s.us < s.halt.at_ + 1000) ∧
    (∃ (s : State), s.halt.acked = false) :=
  ⟨by refine ⟨W.live, _, .collie, .rc, ?_, rfl, ?_, ?_⟩ <;> decide +kernel,
   by refine ⟨W.live, _, .collie, .crystal, ?_, rfl, ?_, ?_⟩ <;> decide +kernel,
   by refine ⟨{ W.live with kpr.crystalOk := false }, .collie, ?_, ?_, ?_⟩ <;> decide +kernel,
   by refine ⟨{ W.live with kpr.wdogBoth := true, kpr.wdogLow := false }, ?_, ?_⟩ <;> decide +kernel,
   by refine ⟨{ W.live with kpr.wdogBoth := false }, ?_⟩ <;> decide +kernel,
   by refine ⟨{ W.live with kpr.running := true, kpr.wdogBoth := false }, ?_, ?_⟩ <;> decide +kernel,
   by refine ⟨{ W.late with kpr.mirrorDirty := false }, ?_, ?_, ?_⟩ <;> decide +kernel,
   by refine ⟨{ W.live with kpr.mirrorDirty := false }, ?_, ?_, ?_⟩ <;> decide +kernel,
   by refine ⟨{ W.late with log.committing := 0, log.staged := W.entry :: [] }, W.entry, [], ?_, ?_, ?_, ?_⟩ <;> decide +kernel,
   by refine ⟨{ W.live with log.committing := 0, log.staged := W.entry :: [] }, W.entry, [], ?_, ?_, ?_, ?_, ?_⟩ <;> decide +kernel,
   by refine ⟨(W.descs 0 [{ W.desc with k := 1, op := .logRead }] { W.live with log.staged := [W.entry] }), _, 1,
        { W.desc with k := 1, op := .logRead }, W.entry, W.entry, [W.entry], _, ?_, rfl, ?_, ?_, ?_, ?_, rfl⟩ <;> decide +kernel,
   by refine ⟨W.live, 1, ?_⟩ <;> decide +kernel,
   by refine ⟨{ W.live with kpr.running := true }, 0x5A, ?_⟩ <;> decide +kernel,
   by refine ⟨{ W.live with kpr.running := true }, 0x5A, ?_⟩ <;> decide +kernel,
   by refine ⟨{ W.live with kpr.running := true }, 0x5A, (0 : Byte), ?_, ?_⟩ <;> decide +kernel,
   by refine ⟨{ W.live with kpr.running := true }, 0x5A, ?_⟩ <;> decide +kernel,
   by refine ⟨{ W.live with halt.inHalt := true }, (0x1000000 : Word), ?_, ?_, ?_⟩ <;> decide +kernel,
   by refine ⟨W.live, (0x1000000 : Word), ?_, ?_, ?_⟩ <;> decide +kernel,
   by refine ⟨(0 : Word), ?_⟩ <;> decide +kernel,
   by refine ⟨{ W.live with halt.inHalt := true, halt.acked := true }, ?_, ?_, ?_⟩ <;> decide +kernel,
   by refine ⟨{ State.reset with halt.inHalt := true, halt.acked := true }, ?_, ?_, ?_⟩ <;> decide +kernel,
   by refine ⟨{ W.live with halt.acked := false }, ?_⟩ <;> decide +kernel⟩

/-- The hypotheses of TheGovernorTheMainsFormAndTheKeepersSupply, clause by clause. -/
theorem wit_TheGovernorTheMainsFormAndTheKeepersSupply :
    (∃ (s : State) (g : Gov), linksUp s = true ∧ g = govSettle s.pwr.gov ∧ s.pwr.links.cmd.value = .none) ∧
    (∃ (s : State) (g : Gov), linksUp s = true ∧ g = govSettle s.pwr.gov ∧ s.pwr.links.cmd.value = .overrun ∧ bit g.ctl 0 = true ∧ g.code < govVmax
      g) ∧
    (∃ (s : State) (g : Gov) (x : Nat), linksUp s = true ∧ g = govSettle s.pwr.gov ∧ s.pwr.links.cmd.value = .slack x ∧ x ≤ 63 ∧ bit g.ctl 0 = true
      ∧ x < govFloor g ∧ g.hold = 0) ∧
    (∃ (s : State) (g : Gov) (x : Nat), linksUp s = true ∧ g = govSettle s.pwr.gov ∧ s.pwr.links.cmd.value = .slack x ∧ x ≤ 63 ∧ (govFloor g ≤ x ∨ 0
      < g.hold) ∧ g.n < 255) ∧
    (∃ (s : State) (g : Gov) (x : Nat), linksUp s = true ∧ g = govSettle s.pwr.gov ∧ s.pwr.links.cmd.value = .slack x ∧ x ≤ 63 ∧ bit g.ctl 0 = true
      ∧ (govFloor g ≤ x ∨ 0 < g.hold) ∧ g.n = 255 ∧ g.lowMin = none) ∧
    (∃ (s : State) (t : State) (g : Gov), linksUp s = true ∧ g = govSettle s.pwr.gov ∧ bit g.ctl 0 = true ∧ g.code = govVmax g ∧
      s.pwr.links.cmd.value = .overrun ∧ t = { s with pwr := { s.pwr with gov := { g with overruns := min (g.overruns + 1) 65535 } } } ∧ g.limitTick
      = none) ∧
    (∃ (s : State) (t : State) (g : Gov) (n : Nat), linksUp s = true ∧ g = govSettle s.pwr.gov ∧ bit g.ctl 0 = true ∧ g.code = govVmax g ∧
      s.pwr.links.cmd.value = .overrun ∧ t = { s with pwr := { s.pwr with gov := { g with overruns := min (g.overruns + 1) 65535 } } } ∧ g.limitTick
      = some n ∧ s.kpr.tick < n + 32768) ∧
    (∃ (s : State) (rms : Nat), s.pwr.mains = true ∧ s.pwr.switching = false ∧ s.pwr.regStop = none ∧ 76 ≤ rms) ∧
    (∃ (s : State) (rms : Nat), s.pwr.mains = true ∧ s.pwr.switching = false ∧ s.pwr.regStop = none ∧ rms < 76) ∧
    (∃ (s : State), s.pwr.mains = true ∧ s.pwr.switching = true) ∧
    (∃ (s : State), s.pwr.mains = false) ∧
    (∃ (s : State) (a : Nat), s.pwr.regStop = some a ∧ a + 1000000 ≤ s.us) ∧
    (∃ (s : State) (a : Nat), s.pwr.regStop = some a ∧ s.us < a + 1000000) ∧
    (∃ (s : State), s.kpr.running = true ∧ s.pwr.input = false) ∧
    (∃ (s : State) (mv : Nat), s.kpr.running = true ∧ s.kpr.vbatTick + 1966080 ≤ s.kpr.tick ∧ 2000 ≤ mv) ∧
    (∃ (s : State) (mv : Nat), s.kpr.running = true ∧ s.kpr.vbatTick + 1966080 ≤ s.kpr.tick ∧ 1000 ≤ mv ∧ mv < 2000 ∧ s.pwr.batLow = false ∧
      bronzeUp s = true) ∧
    (∃ (s : State), s.kpr.tick < s.kpr.vbatTick + 1966080) ∧
    (∃ (s : State), s.kpr.running = true ∧ s.pwr.keepOnBat = true ∧ s.pwr.input = false) ∧
    (∃ (s : State), s.kpr.running = false) ∧
    (∃ (s : State) (f : FoldId) (k : Nat) (d : Desc), runningAs s f k .telemetry = some d) :=
  ⟨by refine ⟨W.live, (govSettle W.live.pwr.gov : Gov), ?_, ?_, ?_⟩ <;> decide +kernel,
   by refine ⟨{ W.live with pwr.links.cmd.value := .overrun, pwr.gov.ctl := 0x0301 ||| (20 <<< 8), pwr.gov.code := 20 }, _, ?_, rfl, ?_, ?_, ?_⟩
        <;> decide +kernel,
   by refine ⟨{ W.live with pwr.links.cmd.value := .slack 1, pwr.gov.ctl := 0x0301 ||| (20 <<< 8), pwr.gov.code := 20 }, _, 1, ?_, rfl, ?_, ?_, ?_,
        ?_, ?_⟩ <;> decide +kernel,
   by refine ⟨{ W.live with pwr.links.cmd.value := .slack 60, pwr.gov.ctl := 0x0301 ||| (20 <<< 8) }, _, 60, ?_, rfl, ?_, ?_, ?_, ?_⟩
        <;> decide +kernel,
   by refine ⟨{ W.live with pwr.links.cmd.value := .slack 60, pwr.gov.ctl := 0x0301 ||| (20 <<< 8), pwr.gov.n := 255 }, _, 60, ?_, rfl, ?_, ?_, ?_,
        ?_, ?_, ?_⟩ <;> decide +kernel,
   by refine ⟨{ W.live with pwr.links.cmd.value := .overrun, pwr.gov.ctl := 0x0301 ||| (20 <<< 8), pwr.gov.code := 50 }, _, _, ?_, rfl, ?_, ?_, ?_,
        rfl, ?_⟩ <;> decide +kernel,
   by refine
        ⟨{ W.live with pwr.links.cmd.value := .overrun, pwr.gov.ctl := 0x0301 ||| (20 <<< 8), pwr.gov.code := 50, pwr.gov.limitTick := some 0, kpr.tick := 0 },
        _, _, 0, ?_, rfl, ?_, ?_, ?_, rfl, ?_, ?_⟩ <;> decide +kernel,
   by refine ⟨{ W.live with pwr.mains := true, pwr.switching := false, pwr.regStop := none }, 100, ?_, ?_, ?_, ?_⟩ <;> decide +kernel,
   by refine ⟨{ W.live with pwr.mains := true, pwr.switching := false, pwr.regStop := none }, 1, ?_, ?_, ?_, ?_⟩ <;> decide +kernel,
   by refine ⟨{ W.live with pwr.mains := true, pwr.switching := true }, ?_, ?_⟩ <;> decide +kernel,
   by refine ⟨{ W.live with pwr.mains := false }, ?_⟩ <;> decide +kernel,
   by refine ⟨{ W.late with pwr.regStop := some 1 }, 1, ?_, ?_⟩ <;> decide +kernel,
   by refine ⟨{ W.live with pwr.regStop := some 1 }, 1, ?_, ?_⟩ <;> decide +kernel,
   by refine ⟨{ W.live with kpr.running := true, pwr.input := false }, ?_, ?_⟩ <;> decide +kernel,
   by refine ⟨{ W.late with kpr.running := true }, 2000, ?_, ?_, ?_⟩ <;> decide +kernel,
   by refine ⟨{ W.late with kpr.running := true, pwr.batLow := false }, 1000, ?_, ?_, ?_, ?_, ?_, ?_⟩ <;> decide +kernel,
   by refine ⟨W.live, ?_⟩ <;> decide +kernel,
   by refine ⟨{ W.live with kpr.running := true, pwr.keepOnBat := true, pwr.input := false }, ?_, ?_, ?_⟩ <;> decide +kernel,
   by refine ⟨{ W.live with kpr.running := false }, ?_⟩ <;> decide +kernel,
   by refine ⟨(W.descs (0 : FoldId) [{ W.desc with k := 1, op := .telemetry }] W.live), (0 : FoldId), 1, { W.desc with k := 1, op := .telemetry },
        ?_⟩ <;> decide +kernel⟩

/-- The hypotheses of InputAndThermalShutdownsAndRailFaultsActInOrder, clause by clause. -/
theorem wit_InputAndThermalShutdownsAndRailFaultsActInOrder :
    (∃ (s : State) (c : LossCause), s.pwr.input = true ∧ s.sys.mode ≠ .vigil ∧ s.sys.mode ≠ .doze ∧ s.pwr.shutdown = .none ∧ bronzeUp s = true ∧
      lossPossible s c = true ∧ s.mram.queue = [] ∧ boundaryDue s = false) ∧
    (∃ (s : State) (c : LossCause), s.pwr.input = true ∧ s.sys.mode = .vigil ∧ lossPossible s c = true) ∧
    (∃ (s : State), s.pwr.input = false) ∧
    (∃ (s : State), s.pwr.mains = false) ∧
    (∃ (s : State) (a : Nat), s.pwr.shutdown = .inputLoss a) ∧
    (∃ (s : State), s.sys.mode = .vigil ∧ s.pwr.input = false ∧ s.kpr.running = true ∧ s.pwr.mains = false ∧ s.kpr.stateLost = true) ∧
    (∃ (s : State), (s.pwr.input = true ∨ s.sys.mode ≠ .vigil)) ∧
    (∃ (s : State), s.pwr.rails.get 6 = true) ∧
    (∃ (s : State), s.pwr.rails.get 7 = true) ∧
    (∃ (s : State) (r : Rail), (railNum r).val < 6 ∧ s.pwr.rails.get (railNum r) = true) ∧
    (∃ (s : State) (a : Nat), s.pwr.railDownAt = some a ∧ s.pwr.input = true ∧ a + 100000 ≤ s.us) ∧
    (∃ (s : State) (a : Nat), s.pwr.railDownAt = some a ∧ s.pwr.input = true ∧ s.us < a + 100000) ∧
    (∃ (s : State) (u : State) (t : DieTemps) (n : Nat) (x : Int), u =
      { s with pwr := { s.pwr with temps := { t with nickel := if s.pwr.mains then t.nickel else none } } } ∧ s.sys.mode ≠ .vigil ∧ s.pwr.shutdown =
      .none ∧ bronzeUp s = true ∧ dieAt u.pwr.temps 1250 = none ∧ dieAt u.pwr.temps 1100 = some (n, x) ∧ s.pwr.thermWarn = true) ∧
    (∃ (s : State) (u : State) (t : DieTemps) (n : Nat) (x : Int), u =
      { s with pwr := { s.pwr with temps := { t with nickel := if s.pwr.mains then t.nickel else none } } } ∧ s.sys.mode ≠ .vigil ∧ s.pwr.shutdown =
      .none ∧ bronzeUp s = true ∧ dieAt u.pwr.temps 1250 = none ∧ dieAt u.pwr.temps 1100 = some (n, x) ∧ s.pwr.thermWarn = false) ∧
    (∃ (s : State) (u : State) (t : DieTemps) (n : Nat) (x : Int), u =
      { s with pwr := { s.pwr with temps := { t with nickel := if s.pwr.mains then t.nickel else none } } } ∧ s.sys.mode ≠ .vigil ∧ s.pwr.shutdown =
      .none ∧ dieAt u.pwr.temps 1250 = some (n, x)) ∧
    (∃ (s : State) (a : Nat), s.pwr.shutdown = .thermal a ∧ a + 2000 ≤ s.us) ∧
    (∃ (s : State) (a : Nat), s.pwr.shutdown = .thermal a ∧ s.us < a + 2000) ∧
    (∃ (s : State) (t : DieTemps) (u : Nat), s.pwr.coolUntil = some u ∧ s.kpr.wakePending = true ∧ s.pwr.input = true ∧ u ≤ s.us ∧ s.pwr.mains =
      false ∧ t.iron < 1050 ∧ t.bronze < 1050 ∧ t.pewter < 1050) ∧
    (∃ (s : State) (t : DieTemps) (u : Nat), s.pwr.coolUntil = some u ∧ s.kpr.wakePending = true ∧ s.pwr.input = true ∧ u ≤ s.us ∧ s.pwr.mains =
      false ∧ t.iron < 1050 ∧ (1050 ≤ t.bronze ∨ 1050 ≤ t.pewter)) ∧
    (∃ (s : State) (d : DiscInfo), s.disc = some d ∧ bronzeUp s = true ∧ s.sys.ready = true ∧ s.job = none ∧ s.spindle.paceDrop = 0 ∧
      s.spindle.paceNext = none ∧ s.servo.wgate = false ∧ hot110 s.pwr.temps = true ∧ classInUse s d < classesOf d.medium - 1) ∧
    (∃ (s : State) (d : DiscInfo), s.disc = some d ∧ bronzeUp s = true ∧ s.sys.ready = true ∧ s.spindle.paceDrop = 0 ∧ s.spindle.paceNext = none ∧
      s.servo.wgate = true ∧ hot110 s.pwr.temps = true ∧ classInUse s d < classesOf d.medium - 1) ∧
    (∃ (s : State) (d : DiscInfo), s.disc = some d ∧ s.spindle.paceDrop ≠ 0 ∧ s.us < s.spindle.paceAt + 10000000) :=
  ⟨by refine ⟨{ W.live with pwr.input := true, pwr.shutdown := .none, mram.queue := [] }, .undervoltage, ?_, ?_, ?_, ?_, ?_, ?_, ?_, ?_⟩
        <;> decide +kernel,
   by refine ⟨{ W.live with pwr.input := true, sys.mode := .vigil }, .undervoltage, ?_, ?_, ?_⟩ <;> decide +kernel,
   by refine ⟨{ W.live with pwr.input := false }, ?_⟩ <;> decide +kernel,
   by refine ⟨{ W.live with pwr.mains := false }, ?_⟩ <;> decide +kernel,
   by refine ⟨{ W.live with pwr.shutdown := .inputLoss 1 }, 1, ?_⟩ <;> decide +kernel,
   by refine ⟨{ W.live with sys.mode := .vigil, pwr.input := false, kpr.running := true, pwr.mains := false, kpr.stateLost := true }, ?_, ?_, ?_,
        ?_, ?_⟩ <;> decide +kernel,
   by refine ⟨{ W.live with pwr.input := true }, ?_⟩ <;> decide +kernel,
   by refine ⟨W.live, ?_⟩ <;> decide +kernel,
   by refine ⟨W.live, ?_⟩ <;> decide +kernel,
   by refine ⟨W.live, .vio, ?_, ?_⟩ <;> decide +kernel,
   by refine ⟨{ W.late with pwr.railDownAt := some 1, pwr.input := true }, 1, ?_, ?_, ?_⟩ <;> decide +kernel,
   by refine ⟨{ W.live with pwr.railDownAt := some 1, pwr.input := true }, 1, ?_, ?_, ?_⟩ <;> decide +kernel,
   by refine ⟨{ W.live with pwr.shutdown := .none, pwr.thermWarn := true }, _, { W.temps with bronze := 1150 }, _, _, rfl, ?_, ?_, ?_, ?_, rfl, ?_⟩
        <;> decide +kernel,
   by refine ⟨{ W.live with pwr.shutdown := .none, pwr.thermWarn := false }, _, { W.temps with bronze := 1150 }, _, _, rfl, ?_, ?_, ?_, ?_, rfl, ?_⟩
        <;> decide +kernel,
   by refine ⟨{ W.live with pwr.shutdown := .none }, _, { W.temps with bronze := 1300 }, _, _, rfl, ?_, ?_, rfl⟩ <;> decide +kernel,
   by refine ⟨{ W.live with pwr.shutdown := .thermal 1 }, 1, ?_, ?_⟩ <;> decide +kernel,
   by refine ⟨{ State.reset with pwr.shutdown := .thermal 1 }, 1, ?_, ?_⟩ <;> decide +kernel,
   by refine ⟨{ W.live with pwr.coolUntil := some 1, kpr.wakePending := true, pwr.input := true, pwr.mains := false }, W.temps, 1, ?_, ?_, ?_, ?_,
        ?_, ?_, ?_, ?_⟩ <;> decide +kernel,
   by refine ⟨{ W.live with pwr.coolUntil := some 1, kpr.wakePending := true, pwr.input := true, pwr.mains := false },
        { W.temps with bronze := 1060 }, 1, ?_, ?_, ?_, ?_, ?_, ?_, ?_⟩ <;> decide +kernel,
   by refine ⟨{ W.live with disc := some W.disc, sys.ready := true, pwr.temps.bronze := 1100 }, W.disc, ?_, ?_, ?_, ?_, ?_, ?_, ?_, ?_, ?_⟩
        <;> decide +kernel,
   by refine ⟨{ W.live with disc := some W.disc, sys.ready := true, servo.wgate := true, pwr.temps.bronze := 1100 }, W.disc, ?_, ?_, ?_, ?_, ?_, ?_,
        ?_, ?_⟩ <;> decide +kernel,
   by refine ⟨{ W.live with spindle.paceDrop := 1, disc := some W.disc }, W.disc, ?_, ?_, ?_⟩ <;> decide +kernel⟩

/-- The hypotheses of TimeIsReadSteppedAndSlewed, clause by clause. -/
theorem wit_TimeIsReadSteppedAndSlewed :
    (∃ (s : State) (f : FoldId) (k : Nat) (d : Desc), runningAs s f k .timeRead = some d) ∧
    (∃ (s : State) (k : Nat) (d : Desc) (r : List Byte), runningAs s 0 k .timeSet = some d ∧ byteAt r 0 = 0 ∧ byteAt r 1 = 0 ∧ le16 r 2 < 32768 ∧
      byteAt r 9 = 0 ∧ dateOk (le16 r 10) (byteAt r 8) (byteAt r 7) (byteAt r 6) (byteAt r 5) (byteAt r 4) = false) ∧
    (∃ (s : State) (k : Nat) (d : Desc) (r : List Byte), runningAs s 0 k .timeSet = some d ∧ byteAt r 0 = 0 ∧ (byteAt r 1 ≠ 0 ∨ 32768 ≤ le16 r 2 ∨
      byteAt r 9 ≠ 0)) ∧
    (∃ (s : State) (k : Nat) (d : Desc) (r : List Byte), runningAs s 0 k .timeSet = some d ∧ byteAt r 0 = 0 ∧ byteAt r 1 = 0 ∧ le16 r 2 < 32768 ∧
      byteAt r 9 = 0 ∧ dateOk (le16 r 10) (byteAt r 8) (byteAt r 7) (byteAt r 6) (byteAt r 5) (byteAt r 4) = true ∧ le32 r 12 = 0) ∧
    (∃ (s : State) (at_ : Nat) (cal : Nat) (sub : Nat) (k : Nat) (d : Desc), s.kpr.step = some (at_, cal, sub, k) ∧ at_ ≤ s.kpr.tick ∧ boundaryDue s
      = false ∧ s.kpr.slew = 0 ∧ s.desc? 0 k = some d ∧ (cal ≠ s.kpr.ledger.openI.start ∨ s.kpr.cal = s.kpr.ledger.openI.start)) ∧
    (∃ (s : State) (at_ : Nat) (cal : Nat) (sub : Nat) (k : Nat), s.kpr.step = some (at_, cal, sub, k) ∧ s.kpr.tick < at_) ∧
    (∃ (s : State) (k : Nat) (d : Desc) (r : List Byte) (off : Int), runningAs s 0 k .timeSet = some d ∧ byteAt r 0 = 1 ∧ byteAt r 1 = 0 ∧ off =
      int32 (le32 r 12) ∧ off.natAbs ≤ 60000 ∧ off ≠ 0 ∧ s.kpr.calValid = true ∧ s.kpr.slew = 0) ∧
    (∃ (s : State) (k : Nat) (d : Desc) (r : List Byte), runningAs s 0 k .timeSet = some d ∧ byteAt r 0 = 1 ∧ (s.kpr.calValid = false ∨ 60000 <
      (int32 (le32 r 12)).natAbs)) ∧
    (∃ (s : State), s.kpr.slew = 0 ∧ s.kpr.slewPhase = 1000) ∧
    (∃ (s : State), (s.kpr.slew ≠ 0 ∨ s.kpr.slewPhase ≠ 1000)) ∧
    (∃ (s : State), s.kpr.cal = 146097 * 86400 - 1 ∧ s.kpr.subsec = 32767 ∧ s.kpr.atEnd = false) ∧
    (∃ (s : State), s.kpr.cal = 146097 * 86400 - 1 ∧ s.kpr.subsec = 32767 ∧ s.kpr.atEnd = true) :=
  ⟨by refine ⟨(W.descs (0 : FoldId) [{ W.desc with k := 1, op := .timeRead }] W.live), (0 : FoldId), 1, { W.desc with k := 1, op := .timeRead }, ?_⟩
        <;> decide +kernel,
   by refine ⟨(W.descs 0 [{ W.desc with k := 1, op := .timeSet }] W.live), 1, { W.desc with k := 1, op := .timeSet }, (W.bytes [(0, 0), (1, 0), (9,
        0)]), ?_, ?_, ?_, ?_, ?_, ?_⟩ <;> decide +kernel,
   by refine ⟨(W.descs 0 [{ W.desc with k := 1, op := .timeSet }] W.live), 1, { W.desc with k := 1, op := .timeSet }, (W.bytes [(1, 1)]), ?_, ?_,
        ?_⟩ <;> decide +kernel,
   by refine ⟨(W.descs 0 [{ W.desc with k := 1, op := .timeSet }] W.live), 1, { W.desc with k := 1, op := .timeSet }, (W.bytes [(7, 1), (8, 1), (6,
        1), (10, 0xD1), (11, 7)]), ?_, ?_, ?_, ?_, ?_, ?_, ?_⟩ <;> decide +kernel,
   by refine ⟨(W.descs 0 [{ W.desc with k := 1 }] { W.live with kpr.step := some (1, 1, 1, 1), kpr.tick := 1, kpr.slew := 0 }), 1, 1, 1, 1,
        { W.desc with k := 1 }, ?_, ?_, ?_, ?_, ?_, ?_⟩ <;> decide +kernel,
   by refine ⟨{ W.live with kpr.step := some (1, 1, 1, 1) }, 1, 1, 1, 1, ?_, ?_⟩ <;> decide +kernel,
   by refine ⟨(W.descs 0 [{ W.desc with k := 1, op := .timeSet }] { W.live with kpr.calValid := true, kpr.slew := 0 }), 1,
        { W.desc with k := 1, op := .timeSet }, (W.bytes [(0, 1), (12, 5)]), _, ?_, ?_, ?_, rfl, ?_, ?_, ?_, ?_⟩ <;> decide +kernel,
   by refine ⟨(W.descs 0 [{ W.desc with k := 1, op := .timeSet }] { W.live with kpr.calValid := false }), 1, { W.desc with k := 1, op := .timeSet },
        (W.bytes [(0, 1)]), ?_, ?_, ?_⟩ <;> decide +kernel,
   by refine ⟨{ W.live with kpr.slew := 0, kpr.slewPhase := 1000 }, ?_, ?_⟩ <;> decide +kernel,
   by refine ⟨{ W.live with kpr.slew := 1 }, ?_⟩ <;> decide +kernel,
   by refine ⟨{ W.live with kpr.cal := 146097 * 86400 - 1, kpr.subsec := 32767, kpr.atEnd := false }, ?_, ?_, ?_⟩ <;> decide +kernel,
   by refine ⟨{ W.live with kpr.cal := 146097 * 86400 - 1, kpr.subsec := 32767, kpr.atEnd := true }, ?_, ?_, ?_⟩ <;> decide +kernel⟩

/-- The hypotheses of EnergyIsMeteredChargedAndRead, clause by clause. -/
theorem wit_EnergyIsMeteredChargedAndRead :
    (∃ (s : State) (f : FoldId) (k : Nat) (d : Desc), runningAs s f k .energyRead = some d ∧ bit d.fld.opfield 0 = false) ∧
    (∃ (s : State) (f : FoldId) (k : Nat) (d : Desc), runningAs s f k .energyRead = some d ∧ bit d.fld.opfield 0 = true ∧ s.kpr.ledger.ring.length ≤
      96) ∧
    (∃ (s : State) (f : FoldId) (k : Nat) (d : Desc), runningAs s f k .energyRead = some d ∧ bit d.fld.opfield 0 = true) ∧
    (∃ (s : State) (k : Nat) (d : Desc), runningAs s 0 k .energyClose = some d) ∧
    (∃ (s : State) (k : Nat) (d : Desc) (r : List Byte), runningAs s 0 k .tariffSet = some d ∧ tariffOf r = none) ∧
    (∃ (s : State) (k : Nat) (d : Desc) (r : List Byte) (x : Tariff), runningAs s 0 k .tariffSet = some d ∧ tariffOf r = some x) ∧
    (∃ (s : State), s.pwr.input = true) ∧
    (∃ (s : State), s.pwr.input = false) ∧
    (∃ (s : State) (l : Ledger) (e : Interval) (b : Nat) (i : Fin 4) (dem : Nat), boundaryDue s = true ∧ bronzeRuns s = false ∧ l = s.kpr.ledger ∧ b
      = nextBoundary s.kpr.tariff l.openI.start ∧ s.kpr.closing = [] ∧ s.kpr.pending = none ∧ e =
      { l.openI with lengthS := min (b - l.openI.start) 65535, energy := min (l.openEnergy / 1000) (2 ^ 32 - 1) } ∧ i = Fin.ofNat 4 l.openI.band ∧
      dem = l.openEnergy / 1000 * 60 / (s.kpr.tariff.interval * 1000) ∧ b ≠ l.openI.start) ∧
    (∃ (s : State), boundaryDue s = false) ∧
    (∃ (s : State) (k : Nat) (r : List Nat) (d : Desc), s.kpr.closing = k :: r ∧ s.desc? 0 k = some d) :=
  ⟨by refine ⟨(W.descs (0 : FoldId) [{ W.desc with k := 1, op := .energyRead, fld := { W.fld with opfield := 0 } }] W.live), (0 : FoldId), 1,
        { W.desc with k := 1, op := .energyRead, fld := { W.fld with opfield := 0 } }, ?_, ?_⟩ <;> decide +kernel,
   by refine ⟨(W.descs (0 : FoldId) [{ W.desc with k := 1, op := .energyRead, fld := { W.fld with opfield := 1 } }] W.live), (0 : FoldId), 1,
        { W.desc with k := 1, op := .energyRead, fld := { W.fld with opfield := 1 } }, ?_, ?_, ?_⟩ <;> decide +kernel,
   by refine ⟨(W.descs (0 : FoldId) [{ W.desc with k := 1, op := .energyRead, fld := { W.fld with opfield := 1 } }] W.live), (0 : FoldId), 1,
        { W.desc with k := 1, op := .energyRead, fld := { W.fld with opfield := 1 } }, ?_, ?_⟩ <;> decide +kernel,
   by refine ⟨(W.descs 0 [{ W.desc with k := 1, op := .energyClose }] W.live), 1, { W.desc with k := 1, op := .energyClose }, ?_⟩ <;> decide +kernel,
   by refine ⟨(W.descs 0 [{ W.desc with k := 1, op := .tariffSet }] W.live), 1, { W.desc with k := 1, op := .tariffSet }, (W.bytes []), ?_, ?_⟩
        <;> decide +kernel,
   by refine ⟨(W.descs 0 [{ W.desc with k := 1, op := .tariffSet }] W.live), 1, { W.desc with k := 1, op := .tariffSet }, [5, 0, 1, 1], _, ?_, rfl⟩
        <;> decide +kernel,
   by refine ⟨{ W.live with pwr.input := true }, ?_⟩ <;> decide +kernel,
   by refine ⟨{ W.live with pwr.input := false }, ?_⟩ <;> decide +kernel,
   by refine ⟨{ W.live with kpr.closing := [], kpr.pending := none, kpr.cal := 1000000, sys.mode := .vigil }, _, _, _, _, _, ?_, ?_, rfl, rfl, ?_,
        ?_, rfl, rfl, rfl, ?_⟩ <;> decide +kernel,
   by refine ⟨W.live, ?_⟩ <;> decide +kernel,
   by refine ⟨(W.descs 0 [{ W.desc with k := 1 }] { W.live with kpr.closing := 1 :: [] }), 1, [], { W.desc with k := 1 }, ?_, ?_⟩ <;> decide +kernel⟩

/-- The hypotheses of ServoProfilesApplyWholeOrAreRefused, clause by clause. -/
theorem wit_ServoProfilesApplyWholeOrAreRefused :
    (∃ (r : List Byte) (q : List Byte), q = fit 16 r) ∧
    (∃ (s : State) (t : State), s.sled.shadow = none ∧ t = profilesDefault s) ∧
    (∃ (s : State) (t : State), s.sled.shadow = none ∧ t = profilesDefault s ∧ s.sled.move = .rest) ∧
    (∃ (s : State) (t : State), s.sled.shadow = none ∧ t = profilesDefault s ∧ s.sled.move ≠ .rest) ∧
    (∃ (s : State) (r : List Byte) (q : List Byte), q = fit 160 r ∧ swapPending s (byteAt q 0) = true) ∧
    (∃ (s : State) (r : List Byte) (q : List Byte), q = fit 160 r ∧ swapPending s (byteAt q 0) = false ∧ bankInUse s q = false) ∧
    (∃ (s : State) (k : Nat) (d : Desc) (r : List Byte) (q : List Byte), q = fit 160 r ∧ runningAs s 0 k .profileLoad = some d ∧ bits d.fld.opfield
      7 0 = 0x11 ∧ swapPending s (byteAt q 0) = false ∧ bankInUse s q = true ∧ bankOk q = true) ∧
    (∃ (s : State) (k : Nat) (d : Desc) (r : List Byte) (q : List Byte), q = fit 160 r ∧ runningAs s 0 k .profileLoad = some d ∧ bits d.fld.opfield
      7 0 = 0x11 ∧ swapPending s (byteAt q 0) = false ∧ bankInUse s q = true ∧ bankOk q = false) ∧
    (∃ (s : State) (t : State) (k : Nat) (q : List Byte), t = beginBankWrite s k q) ∧
    (∃ (s : State) (t : State) (k : Nat) (q : List Byte), t = beginBankWrite s k q) ∧
    (∃ (s : State) (l : Nat) (k : Nat) (b : Bank), s.servo.bankWrites = [(l, b, k)]) ∧
    (∃ (s : State) (t : State) (l : Nat) (b : Bank), t = writeBank s l b) ∧
    (∃ (s : State) (t : State) (l : Nat) (b : Bank), t = writeBank s l b) ∧
    (∃ (q : List Byte) (y : Nat), (y = byteAt q 2 ∧ y ≠ 255 ∨ byteAt q 2 = 255 ∧ y ≤ 2)) ∧
    (∃ (s : State) (k : Nat) (d : Desc) (r : List Byte) (q : List Byte), q = fit 16 r ∧ runningAs s 0 k .profileLoad = some d ∧ bits d.fld.opfield 7
      0 = 0x12 ∧ s.servo.swap = none ∧ s.servo.swapped = none ∧ swapOk s q = true) ∧
    (∃ (s : State) (k : Nat) (d : Desc) (r : List Byte) (q : List Byte), q = fit 16 r ∧ runningAs s 0 k .profileLoad = some d ∧ bits d.fld.opfield 7
      0 = 0x12 ∧ s.servo.swap = none ∧ s.servo.swapped = none ∧ swapOk s q = false) ∧
    (∃ (s : State) (q : List Byte), (∃ i : Fin 6, (BitVec.ofNat 6 (byteAt q 0)).getLsbD i.val = true ∧ (s.servo.loops.get i).inactiveValid = false)) ∧
    (∃ (r : List Byte) (q : List Byte) (i : Fin 3), q = fit 64 r ∧ i.val = byteAt q 0) ∧
    (∃ (s : State) (n : Nat), s.disc.isSome = true ∧ (classNow s).val = n) ∧
    (∃ (s : State) (n : Nat), (s.disc = none ∨ (classNow s).val ≠ n)) ∧
    (∃ (s : State), s.servo.profLoad = true) ∧
    (∃ (s : State) (k : Nat) (d : Desc) (r : List Byte), runningAs s 0 k .profileLoad = some d ∧ bits d.fld.opfield 7 0 = 0x13 ∧ 2 < byteAt (fit 64
      r) 0) ∧
    (∃ (s : State), (s.servo.loops.get 3).out ≤ apcTop s) ∧
    (∃ (s : State), apcTop s < (s.servo.loops.get 3).out) :=
  ⟨by refine ⟨(W.bytes []), _, rfl⟩,
   by refine ⟨{ W.live with sled.shadow := none }, _, ?_, rfl⟩ <;> decide +kernel,
   by refine ⟨{ W.live with sled.shadow := none, sled.move := .rest }, _, ?_, rfl, ?_⟩ <;> decide +kernel,
   by refine ⟨{ W.live with sled.shadow := none, sled.move := .follow }, _, ?_, rfl, ?_⟩ <;> decide +kernel,
   by refine ⟨{ W.live with servo.swap := some (0x3F, false, 0) }, (W.bytes []), _, rfl, ?_⟩ <;> decide +kernel,
   by refine ⟨W.live, [], (fit 160 [] : List Byte), ?_, ?_, ?_⟩ <;> decide +kernel,
   by refine ⟨(W.descs 0 [{ W.desc with k := 1, op := .profileLoad, fld := { W.fld with opfield := 0x11 } }] { W.live with disc := some W.disc }),
        1, { W.desc with k := 1, op := .profileLoad, fld := { W.fld with opfield := 0x11 } }, [0, 1, 0], _, rfl, ?_, ?_, ?_, ?_, ?_⟩
        <;> decide +kernel,
   by refine ⟨(W.descs 0 [{ W.desc with k := 1, op := .profileLoad, fld := { W.fld with opfield := 0x11 } }] { W.live with disc := some W.disc }),
        1, { W.desc with k := 1, op := .profileLoad, fld := { W.fld with opfield := 0x11 } }, [9, 1, 0], _, rfl, ?_, ?_, ?_, ?_, ?_⟩
        <;> decide +kernel,
   by refine ⟨W.live, _, 1, [], rfl⟩,
   by refine ⟨W.live, _, 1, [], rfl⟩,
   by refine ⟨{ W.live with servo.bankWrites := [(1, W.bank, 1)] }, 1, 1, W.bank, ?_⟩ <;> decide +kernel,
   by refine ⟨W.live, _, 1, W.bank, rfl⟩,
   by refine ⟨W.live, _, 1, W.bank, rfl⟩,
   by refine ⟨(W.bytes []), (byteAt (W.bytes []) 2), ?_⟩ <;> decide +kernel,
   by refine ⟨(W.descs 0 [{ W.desc with k := 1, op := .profileLoad, fld := { W.fld with opfield := 0x12 } }] W.live), 1,
        { W.desc with k := 1, op := .profileLoad, fld := { W.fld with opfield := 0x12 } }, [1], _, rfl, ?_, ?_, ?_, ?_, ?_⟩ <;> decide +kernel,
   by refine ⟨(W.descs 0 [{ W.desc with k := 1, op := .profileLoad, fld := { W.fld with opfield := 0x12 } }] W.live), 1,
        { W.desc with k := 1, op := .profileLoad, fld := { W.fld with opfield := 0x12 } }, [0], _, rfl, ?_, ?_, ?_, ?_, ?_⟩ <;> decide +kernel,
   by refine ⟨{ W.live with servo.loops := Vector.replicate 6 { active := .loaded W.bank, inactive := .loaded W.bank, inactiveValid := false } },
        (W.bytes [(0, 1)]), ?_⟩ <;> decide +kernel,
   by refine ⟨(W.bytes []), _, (0 : Fin 3), rfl, ?_⟩ <;> decide +kernel,
   by refine ⟨{ W.live with disc := some W.disc }, 1, ?_, ?_⟩ <;> decide +kernel,
   by refine ⟨{ W.live with disc := none }, 1, ?_⟩ <;> decide +kernel,
   by refine ⟨{ W.live with servo.profLoad := true }, ?_⟩ <;> decide +kernel,
   by refine ⟨(W.descs 0 [{ W.desc with k := 1, op := .profileLoad, fld := { W.fld with opfield := 19 } }] W.live), 1,
        { W.desc with k := 1, op := .profileLoad, fld := { W.fld with opfield := 19 } }, (W.bytes [(0, 3)]), ?_, ?_, ?_⟩ <;> decide +kernel,
   by refine ⟨W.live, ?_⟩ <;> decide +kernel,
   by refine ⟨{ W.live with servo.loops := W.live.servo.loops.set 3 { W.live.servo.loops.get 3 with out := 2 ^ 40 } }, ?_⟩ <;> decide +kernel⟩

/-- The hypotheses of MotionAndLoaderProfilesApplyWholeOrAreRefused, clause by clause. -/
theorem wit_MotionAndLoaderProfilesApplyWholeOrAreRefused :
    (∃ (r : List Byte) (q : List Byte), q = fit 32 r) ∧
    (∃ (r : List Byte) (q : List Byte), q = fit 48 r) ∧
    (∃ (r : List Byte) (q : List Byte), q = fit 16 r) ∧
    (∃ (s : State) (c : Instr) (k : Nat) (ty : Nat) (d : Desc) (r : List Byte) (e : List Nat) (x : TableRef), (c = .sledTable k r ∧ ty = 0x22 ∧ e =
      tableAt (fit 512 r) ∧ x = .loaded e ∧ (∀ v ∈ e, v < 1024) ∨ c = .sledTableDefault k r ∧ ty = 0x24 ∧ x = .builtin ∧ zeroBytes (fit 16 r) 0 15 =
      true) ∧ runningAs s 0 k .profileLoad = some d ∧ bits d.fld.opfield 7 0 = ty ∧ s.sled.shadow ≠ none) ∧
    (∃ (s : State) (c : Instr) (k : Nat) (ty : Nat) (d : Desc) (r : List Byte) (e : List Nat) (x : TableRef), (c = .sledTable k r ∧ ty = 0x22 ∧ e =
      tableAt (fit 512 r) ∧ x = .loaded e ∧ (∀ v ∈ e, v < 1024) ∨ c = .sledTableDefault k r ∧ ty = 0x24 ∧ x = .builtin ∧ zeroBytes (fit 16 r) 0 15 =
      true) ∧ runningAs s 0 k .profileLoad = some d ∧ bits d.fld.opfield 7 0 = ty ∧ s.sled.shadow = none ∧ s.sled.move = .rest) ∧
    (∃ (s : State) (c : Instr) (k : Nat) (ty : Nat) (d : Desc) (r : List Byte) (e : List Nat) (x : TableRef), (c = .sledTable k r ∧ ty = 0x22 ∧ e =
      tableAt (fit 512 r) ∧ x = .loaded e ∧ (∀ v ∈ e, v < 1024) ∨ c = .sledTableDefault k r ∧ ty = 0x24 ∧ x = .builtin ∧ zeroBytes (fit 16 r) 0 15 =
      true) ∧ runningAs s 0 k .profileLoad = some d ∧ bits d.fld.opfield 7 0 = ty ∧ s.sled.shadow = none ∧ s.sled.move ≠ .rest) ∧
    (∃ (i : Nat), i < 256) ∧
    (∃ (s : State) (c : Instr) (k : Nat) (ty : Nat) (d : Desc) (r : List Byte), (c = .sledTable k r ∧ ty = 0x22 ∧ (∃ v ∈ tableAt (fit 512 r), 1024 ≤
      v) ∨ c = .sledTableDefault k r ∧ ty = 0x24 ∧ zeroBytes (fit 16 r) 0 15 = false) ∧ runningAs s 0 k .profileLoad = some d ∧ bits d.fld.opfield 7
      0 = ty) :=
  ⟨by refine ⟨(W.bytes []), _, rfl⟩,
   by refine ⟨(W.bytes []), _, rfl⟩,
   by refine ⟨(W.bytes []), _, rfl⟩,
   by refine ⟨(W.descs 0 [{ W.desc with k := 1, op := .profileLoad, fld := { W.fld with opfield := 0x24 } }]
        { W.live with sled.shadow := some (.builtin, none) }), (.sledTableDefault 1 (W.bytes [])), 1, 0x24,
        { W.desc with k := 1, op := .profileLoad, fld := { W.fld with opfield := 0x24 } }, (W.bytes []), [], .builtin, ?_, ?_, ?_, ?_⟩
        <;> decide +kernel,
   by refine ⟨(W.descs 0 [{ W.desc with k := 1, op := .profileLoad, fld := { W.fld with opfield := 0x24 } }]
        { W.live with sled.shadow := none, sled.move := .rest }), (.sledTableDefault 1 (W.bytes [])), 1, 0x24,
        { W.desc with k := 1, op := .profileLoad, fld := { W.fld with opfield := 0x24 } }, (W.bytes []), [], .builtin, ?_, ?_, ?_, ?_, ?_⟩
        <;> decide +kernel,
   by refine ⟨(W.descs 0 [{ W.desc with k := 1, op := .profileLoad, fld := { W.fld with opfield := 0x24 } }]
        { W.live with sled.shadow := none, sled.move := .follow }), (.sledTableDefault 1 (W.bytes [])), 1, 0x24,
        { W.desc with k := 1, op := .profileLoad, fld := { W.fld with opfield := 0x24 } }, (W.bytes []), [], .builtin, ?_, ?_, ?_, ?_, ?_⟩
        <;> decide +kernel,
   by refine ⟨1, ?_⟩ <;> decide +kernel,
   by refine ⟨(W.descs 0 [{ W.desc with k := 1, op := .profileLoad, fld := { W.fld with opfield := 0x24 } }] W.live), (.sledTableDefault 1 (W.bytes
        [(1, 1)])), 1, 0x24, { W.desc with k := 1, op := .profileLoad, fld := { W.fld with opfield := 0x24 } }, (W.bytes [(1, 1)]), ?_, ?_, ?_⟩
        <;> decide +kernel⟩

/-- The hypotheses of ChannelRecordingAndCaptureProfilesApplyWholeOrAreRefused, clause by clause. -/
theorem wit_ChannelRecordingAndCaptureProfilesApplyWholeOrAreRefused :
    (∃ (r : List Byte) (q : List Byte) (i : Fin 4), q = fit 64 r ∧ i.val = byteAt q 0) ∧
    (∃ (q : List Byte), channelOk q = true) ∧
    (∃ (q : List Byte) (x : Int), channelOk q = true ∧ x ∈ tapsAt q 1) ∧
    (∃ (r : List Byte) (q : List Byte) (i : Fin 4), q = fit 16 r ∧ i.val = byteAt q 0) ∧
    (∃ (s : State) (c : Instr) (k : Nat) (ty : Nat) (d : Desc) (r : List Byte), ((c = .channel k r ∧ ty = 0x30 ∧ 3 < byteAt (fit 64 r) 0) ∨ (c =
      .secondLook k r ∧ ty = 0x31 ∧ 3 < byteAt (fit 16 r) 0) ∨ (c = .channelDefault k r ∧ ty = 0x32 ∧ 3 < byteAt (fit 16 r) 0)) ∧ runningAs s 0 k
      .profileLoad = some d ∧ bits d.fld.opfield 7 0 = ty) ∧
    (∃ (s : State) (r : List Byte) (q : List Byte) (o : List Strategy), q = fit 1088 r ∧ o = s.recd.strategies.filter (fun x => !(x.medium == byteAt
      q 0 && x.layer == byteAt q 1 && x.class_ == byteAt q 2 && x.mid == BitVec.ofNat 64 (le64 q 4)))) ∧
    (∃ (r : List Byte) (q : List Byte), q = fit 16 r) ∧
    (∃ (s : State), isRecording s = true) ∧
    (∃ (s : State) (r : List Byte) (q : List Byte), q = fit 16 r ∧ isRecording s = false) :=
  ⟨by refine ⟨(W.bytes []), _, (0 : Fin 4), rfl, ?_⟩ <;> decide +kernel,
   by refine ⟨(W.bytes [(0, 2), (1, 1), (2, 2), (3, 2), (4, 1), (6, 12), (7, 8), (8, 8), (9, 10), (12, 100), (14, 5), (31, 0x20)]), ?_⟩
        <;> decide +kernel,
   by refine ⟨(W.bytes [(0, 2), (1, 1), (2, 2), (3, 2), (4, 1), (6, 12), (7, 8), (8, 8), (9, 10), (12, 100), (14, 5), (31, 0x20)]), (1 : Int), ?_,
        ?_⟩ <;> decide +kernel,
   by refine ⟨(W.bytes []), _, (0 : Fin 4), rfl, ?_⟩ <;> decide +kernel,
   by refine ⟨(W.descs 0 [{ W.desc with k := 1, op := .profileLoad, fld := { W.fld with opfield := 0x30 } }] W.live), (.channel 1 (W.bytes [(0,
        4)])), 1, _, { W.desc with k := 1, op := .profileLoad, fld := { W.fld with opfield := 0x30 } }, (W.bytes [(0, 4)]), ?_, ?_, rfl⟩
        <;> decide +kernel,
   by refine ⟨W.live, (W.bytes []), _, _, rfl, rfl⟩,
   by refine ⟨(W.bytes []), _, rfl⟩,
   by refine ⟨{ W.live with job := some { W.job with kind := .writing } }, ?_⟩ <;> decide +kernel,
   by refine ⟨W.live, (W.bytes []), _, rfl, ?_⟩ <;> decide +kernel⟩

/-- The hypotheses of FoldRecordsAreSetWholeAndGrantsInvalidated, clause by clause. -/
theorem wit_FoldRecordsAreSetWholeAndGrantsInvalidated :
    (∃ (s : State) (k : Nat) (d : Desc) (r : List Byte) (q : List Byte) (f : FoldId) (x : FoldRec), q = fit 64 r ∧ runningAs s 0 k .foldSet = some d
      ∧ f.val = byteAt q 0 ∧ x = recordAt q ∧ x.flock ≤ 4 ∧ 1 ≤ x.weight ∧ x.level = 1 ∧ x.bufMin ≤ x.bufMax ∧ 1 ≤ x.bufMax ∧ x.bufMax ≤ 20480 ∧
      x.penQuota ≤ 8192 ∧ le16 q 10 < 4096 ∧ x.vaultQuota ≤ 960 ∧ 1 ≤ x.maxBlocks ∧ 1 ≤ x.defTimeout ∧ zeroBytes q 0x12 0x3F = true ∧ 1 ≤ levelMax s
      ∧ recordFits s f x = true) ∧
    (∃ (s : State) (k : Nat) (d : Desc) (r : List Byte) (q : List Byte) (f : FoldId) (x : FoldRec), q = fit 64 r ∧ runningAs s 0 k .foldSet = some d
      ∧ f.val = byteAt q 0 ∧ x = recordAt q ∧ (4 < x.flock ∨ x.weight = 0 ∨ x.level ≠ 1 ∨ x.bufMax < x.bufMin ∨ x.bufMax = 0 ∨ 20480 < x.bufMax ∨
      8192 < x.penQuota ∨ 4096 ≤ le16 q 10 ∨ 960 < x.vaultQuota ∨ x.maxBlocks = 0 ∨ x.defTimeout = 0 ∨ zeroBytes q 0x12 0x3F = false ∨ recordFits s
      f x = false)) ∧
    (∃ (s : State) (k : Nat) (d : Desc) (r : List Byte), runningAs s 0 k .foldSet = some d ∧ 7 < byteAt (fit 64 r) 0) ∧
    (∃ (s : State) (f : FoldId) (g : FoldId) (x : FoldRec), g ≠ f ∧ ((s.fold g).record.wayMask &&& x.wayMask ≠ 0 ∨ x.vaultQuota * 1024 < vaultUsed s
      f ∨ 20480 < x.bufMin + x.penQuota + (s.fold g).record.bufMin + (s.fold g).record.penQuota ∨ 960 < x.vaultQuota + (s.fold
      g).record.vaultQuota)) ∧
    (∃ (s : State) (k : Nat) (d : Desc), runningAs s 0 k .grantInvalidate = some d ∧ bit d.fld.opfield 8 = false) ∧
    (∃ (s : State) (k : Nat) (d : Desc), runningAs s 0 k .grantInvalidate = some d ∧ bit d.fld.opfield 8 = true) :=
  ⟨by refine ⟨(W.descs 0 [{ W.desc with k := 1, op := .foldSet }] W.live), 1, { W.desc with k := 1, op := .foldSet }, (W.bytes [(2, 16), (3, 1), (5,
        4), (7, 0x20), (9, 2), (10, 0x1F), (13, 1), (15, 4), (16, 0x10), (17, 0x27)]), _, (0 : FoldId), _, rfl, ?_, ?_, rfl, ?_, ?_⟩
        <;> decide +kernel,
   by refine ⟨(W.descs 0 [{ W.desc with k := 1, op := .foldSet }] W.live), 1, { W.desc with k := 1, op := .foldSet }, (W.bytes []), _, (0 : FoldId),
        _, rfl, ?_, ?_, rfl, ?_⟩ <;> decide +kernel,
   by refine ⟨(W.descs 0 [{ W.desc with k := 1, op := .foldSet }] W.live), 1, { W.desc with k := 1, op := .foldSet }, (W.bytes [(0, 8)]), ?_, ?_⟩
        <;> decide +kernel,
   by refine ⟨W.live, (1 : FoldId), (0 : FoldId), (FoldRec.default 0), ?_, ?_⟩ <;> decide +kernel,
   by refine ⟨(W.descs 0 [{ W.desc with k := 1, op := .grantInvalidate, fld := { W.fld with opfield := 0 } }] W.live), 1,
        { W.desc with k := 1, op := .grantInvalidate, fld := { W.fld with opfield := 0 } }, ?_, ?_⟩ <;> decide +kernel,
   by refine ⟨(W.descs 0 [{ W.desc with k := 1, op := .grantInvalidate, fld := { W.fld with opfield := 256 } }] W.live), 1,
        { W.desc with k := 1, op := .grantInvalidate, fld := { W.fld with opfield := 256 } }, ?_, ?_⟩ <;> decide +kernel⟩

/-- The hypotheses of ModesAreEnteredAfterTheirDrain, clause by clause. -/
theorem wit_ModesAreEnteredAfterTheirDrain :
    (∃ (s : State) (c : Instr) (k : Nat) (d : Desc), (c = .modeSetVigil k ∧ d.fld.opfield = 0 ∨ c = .modeSetDoze k ∧ d.fld.opfield = 1) ∧ runningAs
      s 0 k .modeSet = some d) ∧
    (∃ (s : State) (k : Nat) (d : Desc), runningAs s 0 k .modeSet = some d ∧ d.fld.opfield = 3 ∧ s.sys.mode ≠ .service) ∧
    (∃ (s : State) (c : Instr) (k : Nat) (d : Desc), runningAs s 0 k .modeSet = some d ∧ (c = .modeSetService k ∧ d.fld.opfield = 3 ∧ s.sys.mode =
      .service ∨ c = .modeSetIdle k ∧ d.fld.opfield = 2 ∧ s.sys.mode ≠ .service)) ∧
    (∃ (s : State) (k : Nat) (d : Desc), runningAs s 0 k .modeSet = some d ∧ d.fld.opfield = 2 ∧ s.sys.mode = .service) ∧
    (∃ (s : State) (t : State), t = exitService s) ∧
    (∃ (s : State) (t : State), t = exitService s ∧ s.cph.direct = true ∧ s.cph.owner ≠ 15) ∧
    (∃ (s : State) (t : State), t = exitService s ∧ s.cph.direct = false) ∧
    (∃ (s : State) (t : State), t = exitService s ∧ s.job = none) ∧
    (∃ (s : State) (d : Desc), draining s = some d ∧ s.sys.entry = none ∧ d.op = .modeSet ∧ d.fld.opfield = 3 ∧ othersDrained s = true) ∧
    (∃ (s : State), (draining s = none ∨ s.sys.entry ≠ none ∨ (∃ d : Desc, draining s = some d ∧ (d.op = .modeSet ∧ d.fld.opfield = 3 ∧
      othersDrained s = false ∨ (d.op ≠ .modeSet ∨ d.fld.opfield ≠ 3) ∧ (allDrained s d.k = false ∨ s.job ≠ none))))) ∧
    (∃ (s : State) (d : Desc) (v : Bool), draining s = some d ∧ s.sys.entry = none ∧ d.op = .modeSet ∧ d.fld.opfield = (if v then 0 else 1) ∧
      allDrained s d.k = true ∧ s.job = none ∧ s.spindle.st ≠ .stopped) ∧
    (∃ (s : State) (e : SleepEntry), s.sys.entry = some e ∧ e.wake = false ∧ s.spindle.st ≠ .stopped) ∧
    (∃ (s : State) (e : SleepEntry) (k : Nat), s.sys.entry = some e ∧ e.wake = false ∧ s.spindle.st = .stopped ∧ e.k = some k) ∧
    (∃ (s : State) (d : Desc), draining s = some d ∧ s.sys.entry = none ∧ d.op = .modeSet ∧ d.fld.opfield = 1 ∧ allDrained s d.k = true ∧ s.job =
      none ∧ s.spindle.st = .stopped) ∧
    (∃ (s : State) (d : Desc), draining s = some d ∧ s.sys.entry = none ∧ d.op = .modeSet ∧ d.fld.opfield = 0 ∧ allDrained s d.k = true ∧ s.job =
      none ∧ s.spindle.st = .stopped) ∧
    (∃ (s : State) (n : Nat), n = bits s.sys.modeCfg 15 0 ∧ s.sys.mode = .idle ∧ s.sys.ready = true ∧ n ≠ 0 ∧ s.job = none ∧ s.sys.parked = false ∧
      s.spindle.st = .closed ∧ s.sys.idleSince + n * 1000000 ≤ s.us) ∧
    (∃ (s : State), s.spindle.st = .closed) ∧
    (∃ (s : State) (n : Nat), n = bits s.sys.modeCfg 15 0 ∧ (s.sys.mode ≠ .idle ∨ n = 0 ∨ s.job ≠ none ∨ s.us < s.sys.idleSince + n * 1000000)) ∧
    (∃ (s : State) (n : Nat), n = bits s.sys.modeCfg 31 16 ∧ s.sys.mode = .idle ∧ s.sys.ready = true ∧ n ≠ 0 ∧ allQuiet s = true ∧ s.pwr.shutdown =
      .none ∧ s.sys.entry = none ∧ s.spindle.st = .stopped ∧ s.sys.quietSince + n * 1000000 ≤ s.us) ∧
    (∃ (s : State) (n : Nat), n = bits s.sys.modeCfg 31 16 ∧ s.sys.mode = .idle ∧ s.sys.ready = true ∧ n ≠ 0 ∧ allQuiet s = true ∧ s.pwr.shutdown =
      .none ∧ s.sys.entry = none ∧ s.spindle.st ≠ .stopped ∧ s.sys.quietSince + n * 1000000 ≤ s.us) ∧
    (∃ (s : State) (n : Nat), n = bits s.sys.modeCfg 31 16 ∧ (s.sys.mode ≠ .idle ∨ n = 0 ∨ allQuiet s = false ∨ s.us < s.sys.quietSince + n *
      1000000)) ∧
    (∃ (s : State) (f : FoldId), s.sys.mode = .doze ∧ foldExists s f = true) ∧
    (∃ (s : State) (f : FoldId) (e : SleepEntry), s.sys.mode = .idle ∧ s.sys.entry = some e ∧ foldExists s f = true) ∧
    (∃ (s : State) (f : FoldId), ((s.sys.mode ≠ .doze ∧ s.sys.entry = none) ∨ foldExists s f = false)) :=
  ⟨by refine ⟨(W.descs 0 [{ W.desc with k := 1, op := .modeSet, fld := { W.fld with opfield := 0 } }] W.live), (.modeSetVigil 1), 1,
        { W.desc with k := 1, op := .modeSet, fld := { W.fld with opfield := 0 } }, ?_, ?_⟩ <;> decide +kernel,
   by refine ⟨(W.descs 0 [{ W.desc with k := 1, op := .modeSet, fld := { W.fld with opfield := 3 } }] W.live), 1,
        { W.desc with k := 1, op := .modeSet, fld := { W.fld with opfield := 3 } }, ?_, ?_, ?_⟩ <;> decide +kernel,
   by refine ⟨(W.descs 0 [{ W.desc with k := 1, op := .modeSet, fld := { W.fld with opfield := 3 } }] { W.live with sys.mode := .service }),
        (.modeSetService 1), 1, { W.desc with k := 1, op := .modeSet, fld := { W.fld with opfield := 3 } }, ?_, ?_⟩ <;> decide +kernel,
   by refine ⟨(W.descs 0 [{ W.desc with k := 1, op := .modeSet, fld := { W.fld with opfield := 2 } }] { W.live with sys.mode := .service }), 1,
        { W.desc with k := 1, op := .modeSet, fld := { W.fld with opfield := 2 } }, ?_, ?_, ?_⟩ <;> decide +kernel,
   by refine ⟨W.live, _, rfl⟩,
   by refine ⟨{ W.live with cph.direct := true, cph.owner := 0 }, _, rfl, ?_, ?_⟩ <;> decide +kernel,
   by refine ⟨{ W.live with cph.direct := false }, _, rfl, ?_⟩ <;> decide +kernel,
   by refine ⟨{ W.live with job := none }, _, rfl, ?_⟩ <;> decide +kernel,
   by refine ⟨(W.descs 0 [{ W.desc with k := 1, op := .modeSet, fld := { W.fld with opfield := 3 }, stage := .draining }] W.live),
        { W.desc with k := 1, op := .modeSet, fld := { W.fld with opfield := 3 }, stage := .draining }, ?_, ?_, ?_, ?_, ?_⟩ <;> decide +kernel,
   by refine ⟨W.live, ?_⟩ <;> decide +kernel,
   by refine ⟨(W.descs 0 [{ W.desc with k := 1, op := .modeSet, fld := { W.fld with opfield := 1 }, stage := .draining }]
        { W.live with spindle.st := .closed }), { W.desc with k := 1, op := .modeSet, fld := { W.fld with opfield := 1 }, stage := .draining },
        false, ?_, ?_, ?_, ?_, ?_, ?_, ?_⟩ <;> decide +kernel,
   by refine ⟨{ W.live with sys.entry := some { k := none, vigil := false }, spindle.st := .closed }, { k := none, vigil := false }, ?_, ?_, ?_⟩
        <;> decide +kernel,
   by refine ⟨{ W.live with sys.entry := some { k := some 1, vigil := false } }, { k := some 1, vigil := false }, 1, ?_, ?_, ?_, ?_⟩
        <;> decide +kernel,
   by refine ⟨(W.descs 0 [{ W.desc with k := 1, op := .modeSet, fld := { W.fld with opfield := 1 }, stage := .draining }] W.live),
        { W.desc with k := 1, op := .modeSet, fld := { W.fld with opfield := 1 }, stage := .draining }, ?_, ?_, ?_, ?_, ?_, ?_, ?_⟩
        <;> decide +kernel,
   by refine ⟨(W.descs 0 [{ W.desc with k := 1, op := .modeSet, fld := { W.fld with opfield := 0 }, stage := .draining }] W.live),
        { W.desc with k := 1, op := .modeSet, fld := { W.fld with opfield := 0 }, stage := .draining }, ?_, ?_, ?_, ?_, ?_, ?_, ?_⟩
        <;> decide +kernel,
   by refine ⟨{ W.late with sys.mode := .idle, sys.ready := true, job := none, sys.parked := false, spindle.st := .closed, sys.modeCfg := 1 }, _,
        rfl, ?_, ?_, ?_, ?_, ?_, ?_, ?_⟩ <;> decide +kernel,
   by refine ⟨{ W.live with spindle.st := .closed }, ?_⟩ <;> decide +kernel,
   by refine ⟨W.live, _, rfl, ?_⟩ <;> decide +kernel,
   by refine ⟨(State.modDbp { W.live with sys.mode := .idle, sys.modeCfg := 0x10000, us := 10 ^ 9 } 0 fun d => { d with en := false }), 1, ?_, ?_,
        ?_, ?_, ?_, ?_, ?_, ?_, ?_⟩ <;> decide +kernel,
   by refine ⟨(State.modDbp { W.live with sys.mode := .idle, sys.modeCfg := 0x10000, us := 10 ^ 9, spindle.st := .closed } 0 fun d =>
        { d with en := false }), 1, ?_, ?_, ?_, ?_, ?_, ?_, ?_, ?_, ?_⟩ <;> decide +kernel,
   by refine ⟨W.live, _, rfl, ?_⟩ <;> decide +kernel,
   by refine ⟨{ W.live with sys.mode := .doze }, (0 : FoldId), ?_, ?_⟩ <;> decide +kernel,
   by refine ⟨{ W.live with sys.mode := .idle, sys.entry := some { k := none, vigil := false } }, (0 : FoldId), { k := none, vigil := false }, ?_,
        ?_, ?_⟩ <;> decide +kernel,
   by refine ⟨{ W.live with sys.entry := none }, (0 : FoldId), ?_⟩ <;> decide +kernel⟩

/-- The hypotheses of FirmwareIsDownloadedTriedAndConfirmed, clause by clause. -/
theorem wit_FirmwareIsDownloadedTriedAndConfirmed :
    (∃ (s : State) (k : Nat) (d : Desc), runningAs s 0 k .fwDownload = some d ∧ s.sys.boot.trial ≠ none) ∧
    (∃ (s : State) (k : Nat) (d : Desc) (b : BootRecord), runningAs s 0 k .fwDownload = some d ∧ s.sys.boot.trial = none ∧ slotValid s.sys.boot
      (otherSlot s.sys.boot) = true ∧ b = (if s.sys.boot.active = 0 then { s.sys.boot with validB := false } else
      { s.sys.boot with validA := false }) ∧ s.sys.boot.active ≤ 1) ∧
    (∃ (s : State) (k : Nat) (d : Desc), runningAs s 0 k .fwDownload = some d ∧ s.sys.boot.trial = none ∧ slotValid s.sys.boot (otherSlot
      s.sys.boot) = false) ∧
    (∃ (s : State) (k : Nat) (d : Desc), runningAs s 0 k .fwActivate = some d ∧ d.fld.opfield = 1 ∧ s.sys.boot.trial = none ∧ imageValid s
      (otherSlot s.sys.boot) = false) ∧
    (∃ (s : State) (k : Nat) (d : Desc), runningAs s 0 k .fwActivate = some d ∧ d.fld.opfield = 1 ∧ (s.sys.boot.trial ≠ none ∨ imageValid s
      (otherSlot s.sys.boot) = true)) ∧
    (∃ (s : State) (d : Desc) (b : BootRecord), draining s = some d ∧ s.sys.entry = none ∧ d.op = .fwActivate ∧ allDrained s d.k = true ∧ s.job =
      none ∧ s.sys.boot.active ≤ 1 ∧ b = (match s.sys.boot.trial with | some _ => { s.sys.boot with trial := none } | none => if s.sys.boot.active =
      0 then { s.sys.boot with trial := some 1, validB := true } else { s.sys.boot with trial := some 0, validA := true })) ∧
    (∃ (s : State) (k : Nat) (d : Desc), runningAs s 0 k .fwActivate = some d ∧ d.fld.opfield = 2 ∧ s.sys.boot.trial = none) ∧
    (∃ (s : State) (k : Nat) (d : Desc) (n : Nat), runningAs s 0 k .fwActivate = some d ∧ d.fld.opfield = 2 ∧ s.sys.boot.trial = some n) ∧
    (∃ (s : State) (k : Nat) (d : Desc), runningAs s 0 k .calibrate = some d ∧ (s.sys.mode ≠ .service ∨ s.spindle.st ≠ .stopped)) ∧
    (∃ (s : State) (k : Nat) (m : CalMeas) (d : Desc) (c : CalRecord) (o : List Byte), runningAs s 0 k .calibrate = some d ∧ s.sys.mode = .service ∧
      s.spindle.st = .stopped ∧ calRun m d.fld.opfield 6 0 s.sys.cal [] = (c, o) ∧ (∀ b ∈ o, b ≠ 1)) ∧
    (∃ (s : State) (k : Nat) (m : CalMeas) (d : Desc) (c : CalRecord) (o : List Byte), runningAs s 0 k .calibrate = some d ∧ s.sys.mode = .service ∧
      s.spindle.st = .stopped ∧ calRun m d.fld.opfield 6 0 s.sys.cal [] = (c, o) ∧ 1 ∈ o) ∧
    (∃ (m : CalMeas) (b : BitVec 16) (r : CalRecord) (c : CalRecord) (o : List Byte), calRun m b 6 0 r [] = (c, o)) ∧
    (∃ (m : CalMeas) (b : BitVec 16) (r : CalRecord) (c : CalRecord) (o : List Byte) (i : Nat), calRun m b 6 0 r [] = (c, o) ∧ i < 6 ∧ bit b i =
      false) ∧
    (∃ (m : CalMeas) (b : BitVec 16) (r : CalRecord) (c : CalRecord) (o : List Byte) (i : Nat), calRun m b 6 0 r [] = (c, o) ∧ i < 6 ∧ i ≠ 3 ∧ bit b
      i = true ∧ calItem m true i = none) ∧
    (∃ (m : CalMeas) (b : BitVec 16) (r : CalRecord) (c : CalRecord) (o : List Byte) (i : Nat) (v : List (Int × Int)), calRun m b 6 0 r [] = (c, o)
      ∧ i < 6 ∧ i ≠ 3 ∧ bit b i = true ∧ calItem m true i = some v ∧ r.items.length = 6) :=
  ⟨by refine ⟨(W.descs 0 [{ W.desc with k := 1, op := .fwDownload }] { W.live with sys.boot.trial := some 0 }), 1,
        { W.desc with k := 1, op := .fwDownload }, ?_, ?_⟩ <;> decide +kernel,
   by refine ⟨(W.descs 0 [{ W.desc with k := 1, op := .fwDownload }] { W.live with sys.boot.trial := none }), 1,
        { W.desc with k := 1, op := .fwDownload }, _, ?_, ?_, ?_, rfl, ?_⟩ <;> decide +kernel,
   by refine ⟨(W.descs 0 [{ W.desc with k := 1, op := .fwDownload }] { W.live with sys.boot.trial := none, sys.boot.validB := false }), 1,
        { W.desc with k := 1, op := .fwDownload }, ?_, ?_, ?_⟩ <;> decide +kernel,
   by refine ⟨(W.descs 0 [{ W.desc with k := 1, op := .fwActivate, fld := { W.fld with opfield := 1 } }]
        { W.live with sys.boot.trial := none, mram.imageB := { factory := false, pages := [(0, List.replicate 256 0)] }, sys.rollback := 1 }), 1,
        { W.desc with k := 1, op := .fwActivate, fld := { W.fld with opfield := 1 } }, ?_, ?_, ?_, ?_⟩ <;> decide +kernel,
   by refine ⟨(W.descs 0 [{ W.desc with k := 1, op := .fwActivate, fld := { W.fld with opfield := 1 } }] { W.live with sys.boot.trial := some 0 }),
        1, { W.desc with k := 1, op := .fwActivate, fld := { W.fld with opfield := 1 } }, ?_, ?_, ?_⟩ <;> decide +kernel,
   by refine ⟨(W.descs 0 [{ W.desc with k := 1, op := .fwActivate, stage := .draining }] W.live),
        { W.desc with k := 1, op := .fwActivate, stage := .draining }, _, ?_, ?_, ?_, ?_, ?_, ?_, rfl⟩ <;> decide +kernel,
   by refine ⟨(W.descs 0 [{ W.desc with k := 1, op := .fwActivate, fld := { W.fld with opfield := 2 } }] { W.live with sys.boot.trial := none }), 1,
        { W.desc with k := 1, op := .fwActivate, fld := { W.fld with opfield := 2 } }, ?_, ?_, ?_⟩ <;> decide +kernel,
   by refine ⟨(W.descs 0 [{ W.desc with k := 1, op := .fwActivate, fld := { W.fld with opfield := 2 } }] { W.live with sys.boot.trial := some 1 }),
        1, { W.desc with k := 1, op := .fwActivate, fld := { W.fld with opfield := 2 } }, 1, ?_, ?_, ?_⟩ <;> decide +kernel,
   by refine ⟨(W.descs 0 [{ W.desc with k := 1, op := .calibrate }] W.live), 1, { W.desc with k := 1, op := .calibrate }, ?_, ?_⟩ <;> decide +kernel,
   by refine ⟨(W.descs 0 [{ W.desc with k := 1, op := .calibrate }] { W.live with sys.mode := .service, spindle.st := .stopped }), 1, W.meas,
        { W.desc with k := 1, op := .calibrate }, _, _, ?_, ?_, ?_, W.eta2 _, ?_⟩ <;> decide +kernel,
   by refine ⟨(W.descs 0 [{ W.desc with k := 1, op := .calibrate, fld := { W.fld with opfield := 4 } }] { W.live with sys.mode := .service }), 1,
        { W.meas with vref := (1650000, 1650000) }, { W.desc with k := 1, op := .calibrate, fld := { W.fld with opfield := 4 } }, _, _, ?_, ?_, ?_,
        W.eta2 _, ?_⟩ <;> decide +kernel,
   by refine ⟨W.meas, (1 : BitVec 16), {}, _, _, W.eta2 _⟩,
   by refine ⟨W.meas, (0 : BitVec 16), {}, _, _, 0, W.eta2 _, ?_, ?_⟩ <;> decide +kernel,
   by refine ⟨W.meas, (1 : BitVec 16), {}, _, _, 0, W.eta2 _, ?_, ?_, ?_, ?_⟩ <;> decide +kernel,
   by refine ⟨W.meas, (0x20 : BitVec 16), {}, _, _, 5, _, W.eta2 _, ?_, ?_, ?_, rfl, ?_⟩ <;> decide +kernel⟩

/-- The hypotheses of CommandBlocksBecomeNativeCommands, clause by clause. -/
theorem wit_CommandBlocksBecomeNativeCommands :
    (∃ (s : State) (f : FoldId) (k : Nat) (cdb : List Byte) (c : List Byte) (d : Desc) (i : Instr) (code : Nat) (lba : Nat) (n : Nat) (o : Op), (i =
      .read10 f k cdb ∧ code = 0x28 ∧ o = .read ∧ n = be16 c 7 ∨ i = .read12 f k cdb ∧ code = 0xA8 ∧ o = .read ∧ n = be32 c 6 ∨ i = .write10 f k cdb
      ∧ code = 0x2A ∧ o = .write ∧ n = be16 c 7 ∨ i = .write12 f k cdb ∧ code = 0xAA ∧ o = .write ∧ n = be32 c 6 ∨ i = .verify10 f k cdb ∧ code =
      0x2F ∧ o = .verify ∧ n = be16 c 7) ∧ MmcReads s f k cdb code d c ∧ lba = be32 c 2 ∧ n ≠ 0) ∧
    (∃ (s : State) (f : FoldId) (k : Nat) (cdb : List Byte) (c : List Byte) (d : Desc) (i : Instr) (code : Nat) (lba : Nat) (n : Nat) (o : Op), (i =
      .read10 f k cdb ∧ code = 0x28 ∧ o = .read ∧ n = be16 c 7 ∨ i = .read12 f k cdb ∧ code = 0xA8 ∧ o = .read ∧ n = be32 c 6 ∨ i = .write10 f k cdb
      ∧ code = 0x2A ∧ o = .write ∧ n = be16 c 7 ∨ i = .write12 f k cdb ∧ code = 0xAA ∧ o = .write ∧ n = be32 c 6 ∨ i = .verify10 f k cdb ∧ code =
      0x2F ∧ o = .verify ∧ n = be16 c 7) ∧ MmcReads s f k cdb code d c ∧ lba = be32 c 2 ∧ n = 0 ∧ mmcMayStart s f d = true) ∧
    (∃ (s : State) (f : FoldId) (k : Nat) (cdb : List Byte) (c : List Byte) (d : Desc) (n : Nat), MmcReads s f k cdb 0xBE d c ∧ n = be24 c 6 ∧ n = 0
      ∧ mmcMayStart s f d = true) ∧
    (∃ (s : State) (f : FoldId) (k : Nat) (cdb : List Byte) (c : List Byte) (d : Desc) (n : Nat), MmcReads s f k cdb 0xBE d c ∧ n = be24 c 6 ∧ n ≠ 0
      ∧ readCdOk c = false) ∧
    (∃ (s : State) (f : FoldId) (k : Nat) (cdb : List Byte) (c : List Byte) (d : Desc) (n : Nat), MmcReads s f k cdb 0xBE d c ∧ n = be24 c 6 ∧ n ≠ 0
      ∧ readCdOk c = true) ∧
    (∃ (s : State) (f : FoldId) (k : Nat) (cdb : List Byte) (c : List Byte) (p : List Byte) (d : Desc), MmcReads s f k cdb 0x04 d c ∧ (byteAt p 8 /
      4 = 0x00 ∨ byteAt p 8 / 4 = 0x30)) ∧
    (∃ (s : State) (f : FoldId) (k : Nat) (cdb : List Byte) (c : List Byte) (p : List Byte) (d : Desc), MmcReads s f k cdb 0x04 d c ∧ byteAt p 8 / 4
      ≠ 0x00 ∧ byteAt p 8 / 4 ≠ 0x30) ∧
    (∃ (s : State) (f : FoldId) (k : Nat) (cdb : List Byte) (c : List Byte) (d : Desc), MmcReads s f k cdb 0x1B d c ∧ cdbBit c 4 1 = true) ∧
    (∃ (s : State) (f : FoldId) (k : Nat) (cdb : List Byte) (c : List Byte) (d : Desc), MmcReads s f k cdb 0x1B d c ∧ cdbBit c 4 1 = false) ∧
    (∃ (s : State) (f : FoldId) (k : Nat) (cdb : List Byte) (c : List Byte) (d : Desc), MmcReads s f k cdb 0xBB d c) ∧
    (∃ (s : State) (f : FoldId) (k : Nat) (cdb : List Byte) (c : List Byte) (d : Desc), MmcReads s f k cdb 0x1E d c) ∧
    (∃ (s : State) (f : FoldId) (k : Nat) (cdb : List Byte) (c : List Byte) (d : Desc), MmcReads s f k cdb 0x53 d c) ∧
    (∃ (s : State) (f : FoldId) (k : Nat) (cdb : List Byte) (c : List Byte) (d : Desc) (x : Nat), MmcReads s f k cdb 0x5B d c ∧ x = byteAt c 2 % 8 ∧
      x ∈ [1, 2, 5, 6]) ∧
    (∃ (s : State) (f : FoldId) (k : Nat) (cdb : List Byte) (c : List Byte) (d : Desc) (x : Nat), MmcReads s f k cdb 0x5B d c ∧ x = byteAt c 2 % 8 ∧
      x ∉ [1, 2, 5, 6]) ∧
    (∃ (s : State) (u : State) (f : FoldId) (k : Nat) (o : Op) (g : Fields → Fields) (d : Desc) (x : Fields), s.desc? f k = some d ∧ x = g d.fld ∧ u
      = s.modDesc f k (fun e => { e with op := o, mmc := true, fld := g e.fld }) ∧ countBad o x (s.fold f).record.maxBlocks = true) ∧
    (∃ (s : State) (u : State) (f : FoldId) (k : Nat) (o : Op) (g : Fields → Fields) (d : Desc) (x : Fields), s.desc? f k = some d ∧ x = g d.fld ∧ u
      = s.modDesc f k (fun e => { e with op := o, mmc := true, fld := g e.fld }) ∧ countBad o x (s.fold f).record.maxBlocks = false ∧ fieldBad o x =
      true) ∧
    (∃ (s : State) (u : State) (f : FoldId) (k : Nat) (o : Op) (g : Fields → Fields) (d : Desc) (x : Fields) (n : Nat), s.desc? f k = some d ∧ x = g
      d.fld ∧ u = s.modDesc f k (fun e => { e with op := o, mmc := true, fld := g e.fld }) ∧ countBad o x (s.fold f).record.maxBlocks = false ∧
      fieldBad o x = false ∧ implied o x s.disc = some n ∧ x.length < n) ∧
    (∃ (s : State) (u : State) (f : FoldId) (k : Nat) (o : Op) (g : Fields → Fields) (d : Desc) (x : Fields), s.desc? f k = some d ∧ x = g d.fld ∧ u
      = s.modDesc f k (fun e => { e with op := o, mmc := true, fld := g e.fld }) ∧ countBad o x (s.fold f).record.maxBlocks = false ∧ fieldBad o x =
      false ∧ (∀ n : Nat, implied o x s.disc = some n → n ≤ x.length)) ∧
    (∃ (s : State) (f : FoldId) (k : Nat) (cdb : List Byte) (c : List Byte) (d : Desc) (x : Nat) (i : Instr), MmcReads s f k cdb x d c ∧ x ∉
      mmcCodes ∧ i ∈ [.read10 f k cdb, .write12 f k cdb, .testUnitReady f k cdb, .inquiry f k cdb, .modeSense10 f k cdb]) :=
  ⟨by refine ⟨(W.descs (0 : FoldId)
        [{ W.desc with k := 1, op := .mmcPass, stage := .ready, past5 := true, fld := { W.fld with opcode := 0x70, aadLen := 12 } }] W.live), (0 :
        FoldId), 1, (W.bytes [(0, 0x28), (8, 1)]), (mmcBlock
        { W.desc with k := 1, op := .mmcPass, stage := .ready, past5 := true, fld := { W.fld with opcode := 0x70, aadLen := 12 } } (W.bytes [(0,
        0x28), (8, 1)])),
        { W.desc with k := 1, op := .mmcPass, stage := .ready, past5 := true, fld := { W.fld with opcode := 0x70, aadLen := 12 } }, (.read10 (0 :
        FoldId) 1 (W.bytes [(0, 0x28), (8, 1)])), 40, _, (be16 (mmcBlock
        { W.desc with k := 1, op := .mmcPass, stage := .ready, past5 := true, fld := { W.fld with opcode := 0x70, aadLen := 12 } } (W.bytes [(0,
        0x28), (8, 1)])) 7), .read, ?_, ⟨by decide +kernel, by decide +kernel, by decide +kernel, by decide +kernel, by decide +kernel,
        by decide +kernel⟩, rfl, ?_⟩ <;> decide +kernel,
   by refine ⟨(W.descs (0 : FoldId)
        [{ W.desc with k := 1, op := .mmcPass, stage := .ready, past5 := true, fld := { W.fld with opcode := 0x70, aadLen := 12 } }] W.live), (0 :
        FoldId), 1, (BitVec.ofNat 8 40 :: List.replicate 11 0), (mmcBlock
        { W.desc with k := 1, op := .mmcPass, stage := .ready, past5 := true, fld := { W.fld with opcode := 0x70, aadLen := 12 } } (BitVec.ofNat 8
        40 :: List.replicate 11 0)),
        { W.desc with k := 1, op := .mmcPass, stage := .ready, past5 := true, fld := { W.fld with opcode := 0x70, aadLen := 12 } }, (.read10 (0 :
        FoldId) 1 (BitVec.ofNat 8 40 :: List.replicate 11 0)), 40, _, (be16 (mmcBlock
        { W.desc with k := 1, op := .mmcPass, stage := .ready, past5 := true, fld := { W.fld with opcode := 0x70, aadLen := 12 } } (BitVec.ofNat 8
        40 :: List.replicate 11 0)) 7), .read, ?_, ⟨by decide +kernel, by decide +kernel, by decide +kernel, by decide +kernel, by decide +kernel,
        by decide +kernel⟩, rfl, ?_, ?_⟩ <;> decide +kernel,
   by refine ⟨(W.descs (0 : FoldId)
        [{ W.desc with k := 1, op := .mmcPass, stage := .ready, past5 := true, fld := { W.fld with opcode := 0x70, aadLen := 12 } }] W.live), (0 :
        FoldId), 1, (0xBE :: List.replicate 11 0), (mmcBlock
        { W.desc with k := 1, op := .mmcPass, stage := .ready, past5 := true, fld := { W.fld with opcode := 0x70, aadLen := 12 } } (0xBE ::
        List.replicate 11 0)),
        { W.desc with k := 1, op := .mmcPass, stage := .ready, past5 := true, fld := { W.fld with opcode := 0x70, aadLen := 12 } }, _,
        ⟨by decide +kernel, by decide +kernel, by decide +kernel, by decide +kernel, by decide +kernel, by decide +kernel⟩, rfl, rfl, ?_⟩
        <;> decide +kernel,
   by refine ⟨(W.descs (0 : FoldId)
        [{ W.desc with k := 1, op := .mmcPass, stage := .ready, past5 := true, fld := { W.fld with opcode := 0x70, aadLen := 12 } }] W.live), (0 :
        FoldId), 1, (W.bytes [(0, 0xBE), (8, 1)]), (mmcBlock
        { W.desc with k := 1, op := .mmcPass, stage := .ready, past5 := true, fld := { W.fld with opcode := 0x70, aadLen := 12 } } (W.bytes [(0,
        0xBE), (8, 1)])),
        { W.desc with k := 1, op := .mmcPass, stage := .ready, past5 := true, fld := { W.fld with opcode := 0x70, aadLen := 12 } }, _,
        ⟨by decide +kernel, by decide +kernel, by decide +kernel, by decide +kernel, by decide +kernel, by decide +kernel⟩, rfl, ?_, ?_⟩
        <;> decide +kernel,
   by refine ⟨(W.descs (0 : FoldId)
        [{ W.desc with k := 1, op := .mmcPass, stage := .ready, past5 := true, fld := { W.fld with opcode := 0x70, aadLen := 12 } }] W.live), (0 :
        FoldId), 1, (W.bytes [(0, 0xBE), (8, 1), (9, 0xF8)]), (mmcBlock
        { W.desc with k := 1, op := .mmcPass, stage := .ready, past5 := true, fld := { W.fld with opcode := 0x70, aadLen := 12 } } (W.bytes [(0,
        0xBE), (8, 1), (9, 0xF8)])),
        { W.desc with k := 1, op := .mmcPass, stage := .ready, past5 := true, fld := { W.fld with opcode := 0x70, aadLen := 12 } }, _,
        ⟨by decide +kernel, by decide +kernel, by decide +kernel, by decide +kernel, by decide +kernel, by decide +kernel⟩, rfl, ?_, ?_⟩
        <;> decide +kernel,
   by refine ⟨(W.descs (0 : FoldId)
        [{ W.desc with k := 1, op := .mmcPass, stage := .ready, past5 := true, fld := { W.fld with opcode := 0x70, aadLen := 12 } }] W.live), (0 :
        FoldId), 1, (0x04 :: List.replicate 11 0), (mmcBlock
        { W.desc with k := 1, op := .mmcPass, stage := .ready, past5 := true, fld := { W.fld with opcode := 0x70, aadLen := 12 } } (0x04 ::
        List.replicate 11 0)), (W.bytes []),
        { W.desc with k := 1, op := .mmcPass, stage := .ready, past5 := true, fld := { W.fld with opcode := 0x70, aadLen := 12 } },
        ⟨by decide +kernel, by decide +kernel, by decide +kernel, by decide +kernel, by decide +kernel, by decide +kernel⟩, ?_⟩ <;> decide +kernel,
   by refine ⟨(W.descs (0 : FoldId)
        [{ W.desc with k := 1, op := .mmcPass, stage := .ready, past5 := true, fld := { W.fld with opcode := 0x70, aadLen := 12 } }] W.live), (0 :
        FoldId), 1, (0x04 :: List.replicate 11 0), (mmcBlock
        { W.desc with k := 1, op := .mmcPass, stage := .ready, past5 := true, fld := { W.fld with opcode := 0x70, aadLen := 12 } } (0x04 ::
        List.replicate 11 0)), (W.bytes [(8, 4)]),
        { W.desc with k := 1, op := .mmcPass, stage := .ready, past5 := true, fld := { W.fld with opcode := 0x70, aadLen := 12 } },
        ⟨by decide +kernel, by decide +kernel, by decide +kernel, by decide +kernel, by decide +kernel, by decide +kernel⟩, ?_, ?_⟩
        <;> decide +kernel,
   by refine ⟨(W.descs (0 : FoldId)
        [{ W.desc with k := 1, op := .mmcPass, stage := .ready, past5 := true, fld := { W.fld with opcode := 0x70, aadLen := 12 } }] W.live), (0 :
        FoldId), 1, (W.bytes [(0, 0x1B), (4, 2)]), (mmcBlock
        { W.desc with k := 1, op := .mmcPass, stage := .ready, past5 := true, fld := { W.fld with opcode := 0x70, aadLen := 12 } } (W.bytes [(0,
        0x1B), (4, 2)])),
        { W.desc with k := 1, op := .mmcPass, stage := .ready, past5 := true, fld := { W.fld with opcode := 0x70, aadLen := 12 } },
        ⟨by decide +kernel, by decide +kernel, by decide +kernel, by decide +kernel, by decide +kernel, by decide +kernel⟩, ?_⟩ <;> decide +kernel,
   by refine ⟨(W.descs (0 : FoldId)
        [{ W.desc with k := 1, op := .mmcPass, stage := .ready, past5 := true, fld := { W.fld with opcode := 0x70, aadLen := 12 } }] W.live), (0 :
        FoldId), 1, (0x1B :: List.replicate 11 0), (mmcBlock
        { W.desc with k := 1, op := .mmcPass, stage := .ready, past5 := true, fld := { W.fld with opcode := 0x70, aadLen := 12 } } (0x1B ::
        List.replicate 11 0)),
        { W.desc with k := 1, op := .mmcPass, stage := .ready, past5 := true, fld := { W.fld with opcode := 0x70, aadLen := 12 } },
        ⟨by decide +kernel, by decide +kernel, by decide +kernel, by decide +kernel, by decide +kernel, by decide +kernel⟩, ?_⟩ <;> decide +kernel,
   by refine ⟨(W.descs (0 : FoldId)
        [{ W.desc with k := 1, op := .mmcPass, stage := .ready, past5 := true, fld := { W.fld with opcode := 0x70, aadLen := 12 } }] W.live), (0 :
        FoldId), 1, (0xBB :: List.replicate 11 0), (mmcBlock
        { W.desc with k := 1, op := .mmcPass, stage := .ready, past5 := true, fld := { W.fld with opcode := 0x70, aadLen := 12 } } (0xBB ::
        List.replicate 11 0)),
        { W.desc with k := 1, op := .mmcPass, stage := .ready, past5 := true, fld := { W.fld with opcode := 0x70, aadLen := 12 } },
        ⟨by decide +kernel, by decide +kernel, by decide +kernel, by decide +kernel, by decide +kernel, by decide +kernel⟩⟩,
   by refine ⟨(W.descs (0 : FoldId)
        [{ W.desc with k := 1, op := .mmcPass, stage := .ready, past5 := true, fld := { W.fld with opcode := 0x70, aadLen := 12 } }] W.live), (0 :
        FoldId), 1, (0x1E :: List.replicate 11 0), (mmcBlock
        { W.desc with k := 1, op := .mmcPass, stage := .ready, past5 := true, fld := { W.fld with opcode := 0x70, aadLen := 12 } } (0x1E ::
        List.replicate 11 0)),
        { W.desc with k := 1, op := .mmcPass, stage := .ready, past5 := true, fld := { W.fld with opcode := 0x70, aadLen := 12 } },
        ⟨by decide +kernel, by decide +kernel, by decide +kernel, by decide +kernel, by decide +kernel, by decide +kernel⟩⟩,
   by refine ⟨(W.descs (0 : FoldId)
        [{ W.desc with k := 1, op := .mmcPass, stage := .ready, past5 := true, fld := { W.fld with opcode := 0x70, aadLen := 12 } }] W.live), (0 :
        FoldId), 1, (0x53 :: List.replicate 11 0), (mmcBlock
        { W.desc with k := 1, op := .mmcPass, stage := .ready, past5 := true, fld := { W.fld with opcode := 0x70, aadLen := 12 } } (0x53 ::
        List.replicate 11 0)),
        { W.desc with k := 1, op := .mmcPass, stage := .ready, past5 := true, fld := { W.fld with opcode := 0x70, aadLen := 12 } },
        ⟨by decide +kernel, by decide +kernel, by decide +kernel, by decide +kernel, by decide +kernel, by decide +kernel⟩⟩,
   by refine ⟨(W.descs (0 : FoldId)
        [{ W.desc with k := 1, op := .mmcPass, stage := .ready, past5 := true, fld := { W.fld with opcode := 0x70, aadLen := 12 } }] W.live), (0 :
        FoldId), 1, (W.bytes [(0, 0x5B), (2, 1)]), (mmcBlock
        { W.desc with k := 1, op := .mmcPass, stage := .ready, past5 := true, fld := { W.fld with opcode := 0x70, aadLen := 12 } } (W.bytes [(0,
        0x5B), (2, 1)])),
        { W.desc with k := 1, op := .mmcPass, stage := .ready, past5 := true, fld := { W.fld with opcode := 0x70, aadLen := 12 } }, _,
        ⟨by decide +kernel, by decide +kernel, by decide +kernel, by decide +kernel, by decide +kernel, by decide +kernel⟩, rfl, ?_⟩
        <;> decide +kernel,
   by refine ⟨(W.descs (0 : FoldId)
        [{ W.desc with k := 1, op := .mmcPass, stage := .ready, past5 := true, fld := { W.fld with opcode := 0x70, aadLen := 12 } }] W.live), (0 :
        FoldId), 1, (0x5B :: List.replicate 11 0), (mmcBlock
        { W.desc with k := 1, op := .mmcPass, stage := .ready, past5 := true, fld := { W.fld with opcode := 0x70, aadLen := 12 } } (0x5B ::
        List.replicate 11 0)),
        { W.desc with k := 1, op := .mmcPass, stage := .ready, past5 := true, fld := { W.fld with opcode := 0x70, aadLen := 12 } }, _,
        ⟨by decide +kernel, by decide +kernel, by decide +kernel, by decide +kernel, by decide +kernel, by decide +kernel⟩, rfl, ?_⟩
        <;> decide +kernel,
   by refine ⟨(W.descs (0 : FoldId) [{ W.desc with k := 1, fld := { W.fld with count := 2000 } }] W.live), _, (0 : FoldId), 1, .read, id,
        { W.desc with k := 1, fld := { W.fld with count := 2000 } }, _, ?_, rfl, rfl, ?_⟩ <;> decide +kernel,
   by refine ⟨(W.descs (0 : FoldId) [{ W.desc with k := 1, fld := { W.fld with address := 2 ^ 32 - 1, count := 2 } }] W.live), _, (0 : FoldId), 1,
        .read, id, { W.desc with k := 1, fld := { W.fld with address := 2 ^ 32 - 1, count := 2 } }, _, ?_, rfl, rfl, ?_, ?_⟩ <;> decide +kernel,
   by refine ⟨(W.descs (0 : FoldId) [{ W.desc with k := 1, fld := { W.fld with length := 1 } }] W.live), _, (0 : FoldId), 1, .read, id,
        { W.desc with k := 1, fld := { W.fld with length := 1 } }, _, _, ?_, rfl, rfl, ?_, ?_, rfl, ?_⟩ <;> decide +kernel,
   by refine ⟨(W.descs (0 : FoldId) [{ W.desc with k := 1 }] W.live), _, (0 : FoldId), 1, .read, id, { W.desc with k := 1 }, _, ?_, rfl, rfl, ?_,
        ?_, ?_⟩ <;> decide +kernel,
   by refine ⟨(W.descs (0 : FoldId)
        [{ W.desc with k := 1, op := .mmcPass, stage := .ready, past5 := true, fld := { W.fld with opcode := 0x70, aadLen := 12 } }] W.live), (0 :
        FoldId), 1, [0xFF], (mmcBlock
        { W.desc with k := 1, op := .mmcPass, stage := .ready, past5 := true, fld := { W.fld with opcode := 0x70, aadLen := 12 } } [0xFF]),
        { W.desc with k := 1, op := .mmcPass, stage := .ready, past5 := true, fld := { W.fld with opcode := 0x70, aadLen := 12 } }, 0xFF, (.read10
        (0 : FoldId) 1 [0xFF]), ⟨by decide +kernel, by decide +kernel, by decide +kernel, by decide +kernel, by decide +kernel, by decide +kernel⟩,
        ?_, ?_⟩ <;> decide +kernel⟩

/-- The hypotheses of CommandBlocksAreAnsweredByFirmware, clause by clause. -/
theorem wit_CommandBlocksAreAnsweredByFirmware :
    (∃ (s : State) (f : FoldId) (k : Nat) (cdb : List Byte) (c : List Byte) (d : Desc), MmcReads s f k cdb 0x00 d c ∧ mmcMayStart s f d = true) ∧
    (∃ (s : State) (f : FoldId) (k : Nat) (cdb : List Byte) (c : List Byte) (d : Desc), MmcReads s f k cdb 0x35 d c ∧ (∃ e ∈ (s.fold f).descs, e.k <
      k ∧ (e.op = .write ∨ e.op = .sealedWrite ∨ e.op = .mmcPass ∧ descActive e = true))) ∧
    (∃ (s : State) (f : FoldId) (k : Nat) (cdb : List Byte) (c : List Byte) (d : Desc), MmcReads s f k cdb 0x35 d c ∧ (∀ e ∈ (s.fold f).descs, e.k <
      k → e.op ≠ .write ∧ e.op ≠ .sealedWrite ∧ (e.op = .mmcPass → descActive e = false)) ∧ mmcMayStart s f d = true) ∧
    (∃ (s : State) (f : FoldId) (k : Nat) (cdb : List Byte) (c : List Byte) (d : Desc) (i : Instr) (code : Nat) (n : Nat), (i = .requestSense f k
      cdb ∧ code = 0x03 ∧ n = byteAt c 4 ∨ i = .inquiry f k cdb ∧ code = 0x12 ∧ n = be16 c 3 ∧ cdbBit c 1 0 = false ∨ i = .getConfiguration f k cdb
      ∧ code = 0x46 ∧ n = be16 c 7 ∨ i = .getEventStatusNotification f k cdb ∧ code = 0x4A ∧ n = be16 c 7 ∧ cdbBit c 1 0 = true ∨ i = .modeSense10 f
      k cdb ∧ code = 0x5A ∧ n = be16 c 7 ∧ byteAt c 2 % 64 ∈ [0x01, 0x05, 0x2A]) ∧ MmcReads s f k cdb code d c ∧ mmcMayStart s f d = true) ∧
    (∃ (s : State) (f : FoldId) (k : Nat) (cdb : List Byte) (c : List Byte) (d : Desc) (i : Instr) (code : Nat), (i = .inquiry f k cdb ∧ code = 0x12
      ∧ cdbBit c 1 0 = true ∨ i = .getEventStatusNotification f k cdb ∧ code = 0x4A ∧ cdbBit c 1 0 = false ∨ i = .modeSense10 f k cdb ∧ code = 0x5A
      ∧ byteAt c 2 % 64 ∉ [0x01, 0x05, 0x2A]) ∧ MmcReads s f k cdb code d c) ∧
    (∃ (s : State) (f : FoldId) (k : Nat) (cdb : List Byte) (c : List Byte) (d : Desc) (i : Instr) (code : Nat), (i = .readTocPmaAtip f k cdb ∧ code
      = 0x43 ∧ 5 < byteAt c 2 % 16 ∨ i = .readDiscInformation f k cdb ∧ code = 0x51 ∧ byteAt c 1 % 8 ≠ 0 ∨ i = .readDiscStructure f k cdb ∧ code =
      0xAD ∧ byteAt c 7 ∈ [0x05, 0x06, 0x07, 0x80, 0x81, 0x82, 0x83, 0x84, 0x85, 0x86]) ∧ MmcReads s f k cdb code d c) ∧
    (∃ (s : State) (f : FoldId) (k : Nat) (cdb : List Byte) (c : List Byte) (d : Desc) (x : DiscInfo) (i : Instr) (code : Nat) (n : Nat), (i =
      .readFormatCapacities f k cdb ∧ code = 0x23 ∧ n = be16 c 7 ∨ i = .readCapacity f k cdb ∧ code = 0x25 ∧ n = 8 ∨ i = .readTocPmaAtip f k cdb ∧
      code = 0x43 ∧ n = be16 c 7 ∨ i = .readDiscInformation f k cdb ∧ code = 0x51 ∧ n = be16 c 7 ∨ i = .readTrackInformation f k cdb ∧ code = 0x52 ∧
      n = be16 c 7 ∨ i = .readDiscStructure f k cdb ∧ code = 0xAD ∧ n = be16 c 8) ∧ s.desc? f k = some d ∧ d.op = .mmcReply ∧ (d.stage = .ready ∨
      d.stage = .running) ∧ c = mmcBlock d cdb ∧ byteAt c 0 = code ∧ s.disc = some x ∧ mmcMayStart s f d = true) ∧
    (∃ (s : State) (f : FoldId) (k : Nat) (cdb : List Byte) (d : Desc) (i : Instr), (i = .readFormatCapacities f k cdb ∧ d.stage = .ready ∧ byteAt
      (mmcBlock d cdb) 0 = 0x23 ∨ i = .readCapacity f k cdb ∧ d.stage = .ready ∧ byteAt (mmcBlock d cdb) 0 = 0x25) ∧ s.desc? f k = some d ∧ d.op =
      .mmcReply ∧ s.disc = none) :=
  ⟨by refine ⟨(W.descs (0 : FoldId)
        [{ W.desc with k := 1, op := .mmcPass, stage := .ready, past5 := true, fld := { W.fld with opcode := 0x70, aadLen := 12 } }] W.live), (0 :
        FoldId), 1, (0x00 :: List.replicate 11 0), (mmcBlock
        { W.desc with k := 1, op := .mmcPass, stage := .ready, past5 := true, fld := { W.fld with opcode := 0x70, aadLen := 12 } } (0x00 ::
        List.replicate 11 0)),
        { W.desc with k := 1, op := .mmcPass, stage := .ready, past5 := true, fld := { W.fld with opcode := 0x70, aadLen := 12 } },
        ⟨by decide +kernel, by decide +kernel, by decide +kernel, by decide +kernel, by decide +kernel, by decide +kernel⟩, ?_⟩ <;> decide +kernel,
   by refine ⟨(W.descs 0 [{ W.desc with k := 1, op := .write }, W.mmc] W.live), (0 : FoldId), 2, [0x35], (mmcBlock W.mmc [0x35]), W.mmc,
        ⟨by decide +kernel, by decide +kernel, by decide +kernel, by decide +kernel, by decide +kernel, by decide +kernel⟩, ?_⟩ <;> decide +kernel,
   by refine ⟨(W.descs 0 [W.mmc] W.live), (0 : FoldId), 2, [0x35], (mmcBlock W.mmc [0x35]), W.mmc, ⟨by decide +kernel, by decide +kernel,
        by decide +kernel, by decide +kernel, by decide +kernel, by decide +kernel⟩, ?_, ?_⟩ <;> decide +kernel,
   by refine ⟨(W.descs (0 : FoldId)
        [{ W.desc with k := 1, op := .mmcPass, stage := .ready, past5 := true, fld := { W.fld with opcode := 0x70, aadLen := 12 } }] W.live), (0 :
        FoldId), 1, (W.bytes [(0, 3)]), (mmcBlock
        { W.desc with k := 1, op := .mmcPass, stage := .ready, past5 := true, fld := { W.fld with opcode := 0x70, aadLen := 12 } } (W.bytes [(0,
        3)])), { W.desc with k := 1, op := .mmcPass, stage := .ready, past5 := true, fld := { W.fld with opcode := 0x70, aadLen := 12 } },
        (.requestSense (0 : FoldId) 1 (W.bytes [(0, 3)])), 3, (byteAt (mmcBlock
        { W.desc with k := 1, op := .mmcPass, stage := .ready, past5 := true, fld := { W.fld with opcode := 0x70, aadLen := 12 } } (W.bytes [(0,
        3)])) 4), ?_, ⟨by decide +kernel, by decide +kernel, by decide +kernel, by decide +kernel, by decide +kernel, by decide +kernel⟩, ?_⟩
        <;> decide +kernel,
   by refine ⟨(W.descs (0 : FoldId)
        [{ W.desc with k := 1, op := .mmcPass, stage := .ready, past5 := true, fld := { W.fld with opcode := 0x70, aadLen := 12 } }] W.live), (0 :
        FoldId), 1, (W.bytes [(0, 0x12), (1, 1)]), (mmcBlock
        { W.desc with k := 1, op := .mmcPass, stage := .ready, past5 := true, fld := { W.fld with opcode := 0x70, aadLen := 12 } } (W.bytes [(0,
        0x12), (1, 1)])),
        { W.desc with k := 1, op := .mmcPass, stage := .ready, past5 := true, fld := { W.fld with opcode := 0x70, aadLen := 12 } }, (.inquiry (0 :
        FoldId) 1 (W.bytes [(0, 0x12), (1, 1)])), 18, ?_, ⟨by decide +kernel, by decide +kernel, by decide +kernel, by decide +kernel,
        by decide +kernel, by decide +kernel⟩⟩ <;> decide +kernel,
   by refine ⟨(W.descs (0 : FoldId)
        [{ W.desc with k := 1, op := .mmcPass, stage := .ready, past5 := true, fld := { W.fld with opcode := 0x70, aadLen := 12 } }] W.live), (0 :
        FoldId), 1, (W.bytes [(0, 0x43), (2, 6)]), (mmcBlock
        { W.desc with k := 1, op := .mmcPass, stage := .ready, past5 := true, fld := { W.fld with opcode := 0x70, aadLen := 12 } } (W.bytes [(0,
        0x43), (2, 6)])),
        { W.desc with k := 1, op := .mmcPass, stage := .ready, past5 := true, fld := { W.fld with opcode := 0x70, aadLen := 12 } }, (.readTocPmaAtip
        (0 : FoldId) 1 (W.bytes [(0, 0x43), (2, 6)])), 67, ?_, ⟨by decide +kernel, by decide +kernel, by decide +kernel, by decide +kernel,
        by decide +kernel, by decide +kernel⟩⟩ <;> decide +kernel,
   by refine ⟨(W.descs (0 : FoldId) [{ W.desc with k := 1, op := .mmcReply, stage := .ready, fld := { W.fld with aadLen := 12 } }]
        { W.live with disc := some W.disc }), (0 : FoldId), 1, (W.bytes [(0, 0x25)]), _,
        { W.desc with k := 1, op := .mmcReply, stage := .ready, fld := { W.fld with aadLen := 12 } }, W.disc, (.readCapacity (0 : FoldId) 1 (W.bytes
        [(0, 0x25)])), 0x25, 8, ?_, ?_, ?_, ?_, rfl, ?_, ?_, ?_⟩ <;> decide +kernel,
   by refine ⟨(W.descs (0 : FoldId) [{ W.desc with k := 1, stage := .ready, op := .mmcReply, fld := { W.fld with aadLen := 12 } }]
        { W.live with disc := none }), (0 : FoldId), 1, (W.bytes [(0, 0x25)]),
        { W.desc with k := 1, stage := .ready, op := .mmcReply, fld := { W.fld with aadLen := 12 } }, (.readCapacity (0 : FoldId) 1 (W.bytes [(0,
        0x25)])), ?_, ?_, ?_, ?_⟩ <;> decide +kernel⟩

/-- The hypotheses of FoldsAreResetAndConfigured, clause by clause. -/
theorem wit_FoldsAreResetAndConfigured :
    (∃ (s : State) (f : FoldId), f ≠ 0 ∧ barUp s f = true ∧ (s.fold f).resetting = none) ∧
    (∃ (s : State) (f : FoldId) (n : Nat) (p : Bool), f ≠ 0 ∧ barUp s f = true ∧ (s.fold f).resetting = some (n, p)) ∧
    (∃ (s : State) (f : FoldId), barUp s f = false) ∧
    (∃ (s : State) (f : FoldId), (s.fold f).resetting = none) ∧
    (∃ (s : State) (f : FoldId) (j : Job), s.job = some j ∧ j.f = f ∧ j.ended = false ∧ (∀ g, j.kind ≠ .speculation g)) ∧
    (∃ (s : State) (f : FoldId) (n : Nat) (w : Nat) (post : Bool) (dw : Word), (s.fold f).resetting = some (n, post) ∧ (s.job = none ∨ (∃ j : Job,
      s.job = some j ∧ j.f ≠ f)) ∧ w = writtenBlocks (s.fold f) ∧ dw = BitVec.ofNat 32 (f.val + 256 * min n 65535 + 2 ^ 24 * (w % 256))) ∧
    (∃ (s : State), barUp s 0 = true ∧ (∀ f : FoldId, (s.fold f).resetting = none)) ∧
    (∃ (s : State), s.sys.mode = .doze) ∧
    (∃ (s : State), barUp s 0 = false) ∧
    (∃ (s : State), barUp s 0 = false ∧ s.sys.mode ≠ .doze ∧ s.sys.entry = none) ∧
    (∃ (s : State), barUp s 0 = true ∧ s.plat.vfEnable = true ∧ (∀ f : FoldId, (s.fold f).resetting = none)) ∧
    (∃ (s : State), s.plat.vfEnable = false) ∧
    (∃ (s : State), barUp s 0 = true) ∧
    (∃ (s : State) (f : FoldId), barUp s f = false) ∧
    (∃ (s : State) (n : Nat), barUp s 0 = true ∧ n < 65536 ∧ s.plat.vfEnable = false) ∧
    (∃ (s : State) (n : Nat), barUp s 0 = true ∧ n < 65536 ∧ s.plat.vfEnable = true) ∧
    (∃ (s : State) (f : FoldId), barUp s f = true) ∧
    (∃ (s : State) (f : FoldId) (n : Nat), barUp s f = true ∧ n ∈ [128, 256, 512, 1024, 2048, 4096]) ∧
    (∃ (s : State), barUp s 0 = true) ∧
    (∃ (s : State) (f : FoldId), barUp s f = true) ∧
    (∃ (s : State) (f : FoldId) (c : CfgField) (v : Fin 8) (e : MsixEntry), barUp s f = true ∧ e = (s.fold f).msix.get v ∧ (c = .msixEnable true ∧
      (s.fold f).msixMask = false ∨ c = .msixFunctionMask false ∧ (s.fold f).msixEnable = true)) :=
  ⟨by refine ⟨({ W.live with plat.vfEnable := true, plat.numVfs := 7 }.modFold (1 : FoldId) fun z_ => { z_ with resetting := none }), (1 : FoldId),
        ?_, ?_, ?_⟩ <;> decide +kernel,
   by refine ⟨({ W.live with plat.vfEnable := true, plat.numVfs := 7 }.modFold (1 : FoldId) fun z_ => { z_ with resetting := some (1, true) }), (1 :
        FoldId), 1, true, ?_, ?_, ?_⟩ <;> decide +kernel,
   by refine ⟨{ W.live with sys.mode := .vigil }, (0 : FoldId), ?_⟩ <;> decide +kernel,
   by refine ⟨(W.live.modFold (0 : FoldId) fun z_ => { z_ with resetting := none }), (0 : FoldId), ?_⟩ <;> decide +kernel,
   by refine ⟨{ W.live with job := some { W.job with f := (0 : FoldId), ended := false } }, (0 : FoldId),
        { W.job with f := (0 : FoldId), ended := false }, ?_, ?_, ?_, ?_⟩ <;> decide +kernel,
   by refine ⟨({ W.live with job := none }.modFold (0 : FoldId) fun z_ => { z_ with resetting := some (1, true) }), (0 : FoldId), 1, _, true, _, ?_,
        ?_, rfl, rfl⟩ <;> decide +kernel,
   by refine ⟨W.live, ?_, ?_⟩ <;> decide +kernel,
   by refine ⟨{ W.live with sys.mode := .doze }, ?_⟩ <;> decide +kernel,
   by refine ⟨{ W.live with sys.mode := .vigil }, ?_⟩ <;> decide +kernel,
   by refine ⟨{ W.live with sys.mode := .vigil }, ?_, ?_, ?_⟩ <;> decide +kernel,
   by refine ⟨{ W.live with plat.vfEnable := true }, ?_, ?_, ?_⟩ <;> decide +kernel,
   by refine ⟨{ W.live with plat.vfEnable := false }, ?_⟩ <;> decide +kernel,
   by refine ⟨W.live, ?_⟩ <;> decide +kernel,
   by refine ⟨W.live, (1 : FoldId), ?_⟩ <;> decide +kernel,
   by refine ⟨{ W.live with plat.vfEnable := false }, 1, ?_, ?_, ?_⟩ <;> decide +kernel,
   by refine ⟨{ W.live with plat.vfEnable := true }, 1, ?_, ?_, ?_⟩ <;> decide +kernel,
   by refine ⟨W.live, (0 : FoldId), ?_⟩ <;> decide +kernel,
   by refine ⟨W.live, (0 : FoldId), 128, ?_, ?_⟩ <;> decide +kernel,
   by refine ⟨W.live, ?_⟩ <;> decide +kernel,
   by refine ⟨W.live, (0 : FoldId), ?_⟩ <;> decide +kernel,
   by refine ⟨(W.live.modFold (0 : FoldId) fun z_ => { z_ with msixMask := false }), (0 : FoldId), (.msixEnable true), (0 : Fin 8), _, ?_, rfl, ?_⟩
        <;> decide +kernel⟩

/-- The hypotheses of StrobesApplyAndComputeTheLoops, clause by clause. -/
theorem wit_StrobesApplyAndComputeTheLoops :
    (∃ (s : State), linksUp s = true ∧ s.halt.pend = [] ∧ s.servo.bankWrites = [] ∧ s.servo.swap = none ∧ s.servo.bankLoad = none ∧ s.servo.profLoad
      = false ∧ s.servo.n % 16 ≠ 8 ∧ s.servo.computing = false ∧ s.servo.expect = false ∧ (∀ (o : Int) (z : List SecState), (s.servo.loops.get
      3).next = some (o, z) → o ≤ apcTop s) ∧ ((s.servo.loops.get 3).next = none → (s.servo.loops.get 3).out ≤ apcTop s)) ∧
    (∃ (s : State), linksUp s = true ∧ s.halt.pend = [] ∧ s.servo.bankWrites = [] ∧ s.servo.swap = none ∧ s.servo.bankLoad = none ∧ s.servo.profLoad
      = false ∧ s.servo.n % 16 ≠ 8 ∧ (s.servo.computing = true ∨ (s.servo.expect = true ∧ s.servo.invalid = 0)) ∧ (s.servo.loops.get 3).out ≤ apcTop
      s) ∧
    (∃ (s : State) (u : State), linksUp s = true ∧ u = atStrobe (endPeriod s)) ∧
    (∃ (i : Fin 6), i ≠ 3) ∧
    (∃ (s : State) (m : BitVec 6) (clear : Bool) (k : Nat), s.servo.swap = some (m, clear, k)) ∧
    (∃ (s : State) (m : BitVec 6) (clear : Bool) (k : Nat) (i : Fin 6), s.servo.swap = some (m, clear, k) ∧ bit m i.val = false) ∧
    (∃ (s : State) (m : BitVec 6) (clear : Bool) (k : Nat) (i : Fin 6), s.servo.swap = some (m, clear, k) ∧ bit m i.val = true) ∧
    (∃ (s : State) (c : Nat) (l : Nat), s.servo.bankLoad = some (c, l)) ∧
    (∃ (s : State) (c : Nat) (l : Nat), s.servo.bankLoad = some (c, l)) ∧
    (∃ (s : State) (b : Bank) (k : Nat) (i : Fin 6) (d : Desc), s.servo.bankWrites = [(i.val, b, k)] ∧ s.desc? 0 k = some d) ∧
    (∃ (s : State), s.servo.profLoad = true) ∧
    (∃ (s : State), linksUp s = false) ∧
    (∃ (s : State), s.servo.expect = false) ∧
    (∃ (s : State), linksUp s = true ∧ s.servo.expect = true ∧ 0 < s.servo.invalid) ∧
    (∃ (s : State), linksUp s = true ∧ s.servo.expect = true ∧ s.servo.invalid = 0 ∧ s.servo.seq.phase = .idle) ∧
    (∃ (s : State) (c : Vector Int 16) (u : State) (sum : Int) (flag : Bool), linksUp s = true ∧ s.servo.expect = true ∧ s.servo.invalid = 0 ∧
      s.servo.seq.phase = .idle ∧ u = { s with servo := { s.servo with samples := c.map (clampI (-512) 511) } } ∧ sum = 65536 * sumCode u ∧ flag =
      (s.chan.defect || s.chan.flagged)) ∧
    (∃ (s : State), s.servo.computing = true) ∧
    (∃ (s : State), s.servo.computing = false) ∧
    (∃ (b : Bank), b.outLo ≤ b.outHi) ∧
    (∃ (b : Bank) (hi : Int), b.outLo ≤ b.outHi ∧ b.outLo ≤ hi) ∧
    (∃ (s : State), linksUp s = true ∧ s.servo.expect = true ∧ s.servo.invalid = 0) ∧
    (∃ (s : State), linksUp s = true ∧ s.servo.expect = false) ∧
    (∃ (s : State) (k : Nat) (d : Desc), s.servo.swapped = some k ∧ s.desc? 0 k = some d) ∧
    (∃ (s : State), s.servo.swapped = none) :=
  ⟨by refine ⟨W.live, ?_, ?_, ?_, ?_, ?_, ?_, ?_, ?_, ?_,
        (by intro _ _ h; have e : (W.live.servo.loops.get 3).next = none := (by decide +kernel); rw [e] at h; cases h), ?_⟩ <;> decide +kernel,
   by refine
        ⟨{ W.live with halt.pend := [], servo.bankWrites := [], servo.swap := none, servo.bankLoad := none, servo.profLoad := false, servo.computing := true },
        ?_, ?_, ?_, ?_, ?_, ?_, ?_, ?_, ?_⟩ <;> decide +kernel,
   by refine ⟨W.live, _, ?_, rfl⟩ <;> decide +kernel,
   by refine ⟨(0 : Fin 6), ?_⟩ <;> decide +kernel,
   by refine ⟨{ W.live with servo.swap := some ((0 : BitVec 6), false, 1) }, (0 : BitVec 6), false, 1, ?_⟩ <;> decide +kernel,
   by refine ⟨{ W.live with servo.swap := some ((0 : BitVec 6), false, 1) }, (0 : BitVec 6), false, 1, (0 : Fin 6), ?_, ?_⟩ <;> decide +kernel,
   by refine ⟨{ W.live with servo.swap := some (1, false, 1) }, (1 : BitVec 6), false, 1, (0 : Fin 6), ?_, ?_⟩ <;> decide +kernel,
   by refine ⟨{ W.live with servo.bankLoad := some (1, 1) }, 1, 1, ?_⟩ <;> decide +kernel,
   by refine ⟨{ W.live with servo.bankLoad := some (1, 1) }, 1, 1, ?_⟩ <;> decide +kernel,
   by refine ⟨(W.descs 0 [{ W.desc with k := 1 }] { W.live with servo.bankWrites := [((0 : Fin 6).val, W.bank, 1)] }), W.bank, 1, (0 : Fin 6),
        { W.desc with k := 1 }, ?_, ?_⟩ <;> decide +kernel,
   by refine ⟨{ W.live with servo.profLoad := true }, ?_⟩ <;> decide +kernel,
   by refine ⟨{ W.live with sys.mode := .vigil }, ?_⟩ <;> decide +kernel,
   by refine ⟨{ W.live with servo.expect := false }, ?_⟩ <;> decide +kernel,
   by refine ⟨{ W.live with servo.expect := true, servo.invalid := (0 + 1) }, ?_, ?_, ?_⟩ <;> decide +kernel,
   by refine ⟨{ W.live with servo.expect := true, servo.invalid := 0, servo.seq.phase := .idle }, ?_, ?_, ?_, ?_⟩ <;> decide +kernel,
   by refine ⟨{ W.live with servo.expect := true, servo.invalid := 0, servo.seq.phase := .idle }, (Vector.replicate 16 0), _, _, _, ?_, ?_, ?_, ?_,
        rfl, rfl, rfl⟩ <;> decide +kernel,
   by refine ⟨{ W.live with servo.computing := true }, ?_⟩ <;> decide +kernel,
   by refine ⟨{ W.live with servo.computing := false }, ?_⟩ <;> decide +kernel,
   by refine ⟨W.bank, ?_⟩ <;> decide +kernel,
   by refine ⟨W.bank, 0, ?_, ?_⟩ <;> decide +kernel,
   by refine ⟨{ W.live with servo.expect := true, servo.invalid := 0 }, ?_, ?_, ?_⟩ <;> decide +kernel,
   by refine ⟨{ W.live with servo.expect := false }, ?_, ?_⟩ <;> decide +kernel,
   by refine ⟨(W.descs 0 [{ W.desc with k := 1 }] { W.live with servo.swapped := some 1 }), 1, { W.desc with k := 1 }, ?_, ?_⟩ <;> decide +kernel,
   by refine ⟨{ W.live with servo.swapped := none }, ?_⟩ <;> decide +kernel⟩

/-- The hypotheses of ServoFaultsStopTheMechanism, clause by clause. -/
theorem wit_ServoFaultsStopTheMechanism :
    (∃ (s : State), 3 ≤ s.servo.overrunRun) ∧
    (∃ (s : State), s.servo.overrunRun < 3) ∧
    (∃ (s : State), s.servo.defect = true ∧ 2 * (sequenceNow s).dhMax < s.servo.defectHalfUs) ∧
    (∃ (s : State), (s.servo.defect = false ∨ s.servo.defectHalfUs ≤ 2 * (sequenceNow s).dhMax)) ∧
    (∃ (s : State) (m : Nat), openMask s = m ∧ m ≠ 0 ∧ s.servo.ldEn = true) ∧
    (∃ (s : State), (openMask s = 0 ∨ s.servo.ldEn = false)) ∧
    (∃ (s : State), s.servo.ldEn = true ∧ (100 * 2 ^ s.servo.rate ≤ s.servo.apcMaxed ∨ (s.servo.apcSettled = false ∧ 2 * (100 * 2 ^ s.servo.rate) ≤
      s.servo.ldStrobes))) ∧
    (∃ (s : State), (s.servo.ldEn = false ∨ (s.servo.apcMaxed < 100 * 2 ^ s.servo.rate ∧ (s.servo.apcSettled = true ∨ s.servo.ldStrobes < 2 * (100 *
      2 ^ s.servo.rate))))) ∧
    (∃ (l : List PendFault) (c : Nat), (∀ n : Nat, .servo c n ∉ l)) ∧
    (∃ (a : Nat) (b : Nat), a < b ∧ b ≤ 8) ∧
    (∃ (l : List PendFault), (∃ x, PendFault.link x ∈ l)) ∧
    (∃ (l : List PendFault), (∀ x, PendFault.link x ∉ l) ∧ (∃ m, PendFault.servo 3 m ∈ l ∨ .servo 8 m ∈ l)) ∧
    (∃ (l : List PendFault), (∀ x, PendFault.link x ∉ l) ∧ (∀ m, PendFault.servo 3 m ∉ l ∧ .servo 8 m ∉ l)) ∧
    (∃ (s : State), s.halt.pend.all (· == .down) = false) ∧
    (∃ (s : State), linksUp s = true ∧ s.halt.pend.all (· == .down) = false) ∧
    (∃ (s : State), s.servo.puOpen = false ∧ 32 ≤ s.servo.puHigh) ∧
    (∃ (s : State), (s.servo.puOpen = true ∨ s.servo.puHigh < 32)) ∧
    (∃ (s : State), s.servo.puOpen = true ∧ 32 ≤ s.servo.puLow) ∧
    (∃ (s : State), (s.servo.puOpen = false ∨ s.servo.puLow < 32)) :=
  ⟨by refine ⟨{ W.live with servo.overrunRun := 3 }, ?_⟩ <;> decide +kernel,
   by refine ⟨W.live, ?_⟩ <;> decide +kernel,
   by refine ⟨{ W.live with servo.defect := true, servo.defectHalfUs := (2 * (sequenceNow W.live).dhMax + 1) }, ?_, ?_⟩ <;> decide +kernel,
   by refine ⟨{ W.live with servo.defect := false }, ?_⟩ <;> decide +kernel,
   by refine ⟨{ W.live with servo.ldEn := true, servo.band := Vector.replicate 9 4 }, _, rfl, ?_, ?_⟩ <;> decide +kernel,
   by refine ⟨W.live, ?_⟩ <;> decide +kernel,
   by refine ⟨{ W.live with servo.ldEn := true, servo.apcMaxed := 1000 }, ?_, ?_⟩ <;> decide +kernel,
   by refine ⟨{ W.live with servo.ldEn := false }, ?_⟩ <;> decide +kernel,
   by refine ⟨[], 1, (by simp)⟩,
   by refine ⟨1, ((1 + 1) : Nat), ?_, ?_⟩ <;> decide +kernel,
   by refine ⟨[.link 1], (by exact ⟨1, by simp⟩)⟩,
   by refine ⟨[.servo 3 0], (by simp), (by exact ⟨0, by simp⟩)⟩,
   by refine ⟨[.servo 1 0], (by simp), (by simp)⟩,
   by refine ⟨{ W.live with halt.pend := [.link 1] }, ?_⟩ <;> decide +kernel,
   by refine ⟨{ W.live with halt.pend := [.link 1] }, ?_, ?_⟩ <;> decide +kernel,
   by refine ⟨{ W.live with servo.puOpen := false, servo.puHigh := 32 }, ?_, ?_⟩ <;> decide +kernel,
   by refine ⟨{ W.live with servo.puOpen := true }, ?_⟩ <;> decide +kernel,
   by refine ⟨{ W.live with servo.puOpen := true, servo.puLow := 32 }, ?_, ?_⟩ <;> decide +kernel,
   by refine ⟨{ W.live with servo.puOpen := false }, ?_⟩ <;> decide +kernel⟩

/-- The hypotheses of LinksCountAndFault, clause by clause. -/
theorem wit_LinksCountAndFault :
    (∃ (s : State), linksUp s = true) ∧
    (∃ (s : State), linksUp s = true) ∧
    (∃ (s : State), linksUp s = true ∧ (s.spindle.st ≠ .closed ∨ s.pwr.links.cmd.spindle = (frameNow s).spindle)) ∧
    (∃ (s : State), linksUp s = true ∧ s.pwr.links.failsM < 3) ∧
    (∃ (s : State), linksUp s = true ∧ s.pwr.links.failsB < 3) ∧
    (∃ (s : State), linksUp s = true ∧ s.pwr.links.badFrames < 2) ∧
    (∃ (s : State), s.servo.overrunNow = true) ∧
    (∃ (s : State) (x : Nat), s.servo.overrunNow = false ∧ s.servo.slack = some x) ∧
    (∃ (s : State) (u : State) (c : Instr) (code : Nat), linksUp s = true ∧ (c = .controlPacketArrival .yelxoM false ∧ 3 ≤ s.pwr.links.failsM ∧ code
      = 2 ∧ u = { s with pwr := { s.pwr with links := { s.pwr.links with ylm := min (s.pwr.links.ylm + 1) 255, failsM := 0, lastFault := 2 } } } ∨ c
      = .controlPacketArrival .yelxoB false ∧ 3 ≤ s.pwr.links.failsB ∧ code = 4 ∧ u =
      { s with pwr := { s.pwr with links := { s.pwr.links with ylb := min (s.pwr.links.ylb + 1) 255, failsB := 0, lastFault := 4 } } } ∨ c =
      .yelxoBCommandFrame false ∧ 2 ≤ s.pwr.links.badFrames ∧ code = 5 ∧ u =
      { s with pwr := { s.pwr with links := { s.pwr.links with ylb := min (s.pwr.links.ylb + 1) 255, badFrames := 0, lastFault := 5 } } } ∨ c =
      .linkStall .yelxoM ∧ code = 1 ∧ u = { s with pwr := { s.pwr with links := { s.pwr.links with lastFault := 1 } } } ∨ c = .linkStall .yelxoB ∧
      code = 3 ∧ u = { s with pwr := { s.pwr with links := { s.pwr.links with lastFault := 3 } } }) ∧ 3 ≤ code) ∧
    (∃ (s : State) (u : State) (c : Instr) (code : Nat), linksUp s = true ∧ (c = .controlPacketArrival .yelxoM false ∧ 3 ≤ s.pwr.links.failsM ∧ code
      = 2 ∧ u = { s with pwr := { s.pwr with links := { s.pwr.links with ylm := min (s.pwr.links.ylm + 1) 255, failsM := 0, lastFault := 2 } } } ∨ c
      = .controlPacketArrival .yelxoB false ∧ 3 ≤ s.pwr.links.failsB ∧ code = 4 ∧ u =
      { s with pwr := { s.pwr with links := { s.pwr.links with ylb := min (s.pwr.links.ylb + 1) 255, failsB := 0, lastFault := 4 } } } ∨ c =
      .yelxoBCommandFrame false ∧ 2 ≤ s.pwr.links.badFrames ∧ code = 5 ∧ u =
      { s with pwr := { s.pwr with links := { s.pwr.links with ylb := min (s.pwr.links.ylb + 1) 255, badFrames := 0, lastFault := 5 } } } ∨ c =
      .linkStall .yelxoM ∧ code = 1 ∧ u = { s with pwr := { s.pwr with links := { s.pwr.links with lastFault := 1 } } } ∨ c = .linkStall .yelxoB ∧
      code = 3 ∧ u = { s with pwr := { s.pwr with links := { s.pwr.links with lastFault := 3 } } }) ∧ code < 3) ∧
    (∃ (us : Nat), 1000 ≤ us) ∧
    (∃ (s : State) (c : Instr), linksUp s = false ∧ ((∃ n, c = .channelPacketBad n) ∨ (∃ l b, c = .controlPacketArrival l b) ∨ (∃ b, c =
      .yelxoBCommandFrame b) ∨ (∃ l, c = .linkStall l) ∨ c = .loopTickLoss)) :=
  ⟨by refine ⟨W.live, ?_⟩ <;> decide +kernel,
   by refine ⟨W.live, ?_⟩ <;> decide +kernel,
   by refine ⟨W.live, ?_, ?_⟩ <;> decide +kernel,
   by refine ⟨W.live, ?_, ?_⟩ <;> decide +kernel,
   by refine ⟨W.live, ?_, ?_⟩ <;> decide +kernel,
   by refine ⟨W.live, ?_, ?_⟩ <;> decide +kernel,
   by refine ⟨{ W.live with servo.overrunNow := true }, ?_⟩ <;> decide +kernel,
   by refine ⟨{ W.live with servo.overrunNow := false, servo.slack := some 1 }, 1, ?_, ?_⟩ <;> decide +kernel,
   by refine ⟨{ W.live with pwr.links.failsB := 3 },
        { { W.live with pwr.links.failsB := 3 } with pwr := { { W.live with pwr.links.failsB := 3 }.pwr with links := { { W.live with pwr.links.failsB := 3 }.pwr.links with ylb := min ({ W.live with pwr.links.failsB := 3 }.pwr.links.ylb + 1) 255, failsB := 0, lastFault := 4 } } },
        (.controlPacketArrival .yelxoB false), 4, ?_, ?_, ?_⟩ <;> decide +kernel,
   by refine ⟨{ W.live with pwr.links.failsM := 3 },
        { { W.live with pwr.links.failsM := 3 } with pwr := { { W.live with pwr.links.failsM := 3 }.pwr with links := { { W.live with pwr.links.failsM := 3 }.pwr.links with ylm := min ({ W.live with pwr.links.failsM := 3 }.pwr.links.ylm + 1) 255, failsM := 0, lastFault := 2 } } },
        (.controlPacketArrival .yelxoM false), 2, ?_, ?_, ?_⟩ <;> decide +kernel,
   by refine ⟨((1000) : Nat), ?_⟩ <;> decide +kernel,
   by refine ⟨{ W.live with sys.mode := .vigil }, .loopTickLoss, ?_, (by exact .inr (.inr (.inr (.inr rfl))))⟩ <;> decide +kernel⟩

/-- The hypotheses of SequencesCloseAndMoveTheLoops, clause by clause. -/
theorem wit_SequencesCloseAndMoveTheLoops :
    (∃ (s : State) (l : Nat), (laserAllowed s = false ∨ 2 < l ∨ s.servo.seq.phase ≠ .idle)) ∧
    (∃ (s : State) (l : Nat), laserAllowed s = true ∧ l ≤ 2 ∧ s.servo.seq.phase = .idle) ∧
    (∃ (s : State), linksUp s = true ∧ s.servo.expect = true ∧ s.servo.invalid = 0) ∧
    (∃ (s : State) (t : State), t = seqPhaseStep s (sumCode s) (feQ s) (teQ s)) ∧
    (∃ (s : State), s.servo.seq.phase = .settle ∧ s.servo.apcSettled = true ∧ strobesIn s 2000 + 5 ≤ s.servo.ldStrobes) ∧
    (∃ (s : State), s.servo.seq.phase = .settle ∧ (s.servo.apcSettled = false ∨ s.servo.ldStrobes < strobesIn s 2000 + 5)) ∧
    (∃ (s : State), s.servo.seq.strobes = 0) ∧
    (∃ (s : State), strobesIn s (1000 * (sequenceNow s).fsTime) ≤ s.servo.seq.strobes ∧ 0 < s.servo.seq.strobes) ∧
    (∃ (s : State) (sum : Int) (fe : Int) (p : SequenceProf) (q : Seq), s.servo.seq.phase = .down ∧ p = sequenceNow s ∧ q = s.servo.seq ∧ (p.fsSumTh
      : Int) < sum ∧ q.curves = q.layer ∧ (p.fePeakTh : Int) < q.fePeak ∧ crossed q.fe fe = true) ∧
    (∃ (s : State) (sum : Int), s.servo.seq.phase = .focusHold ∧ sum ≤ (sequenceNow s).fokTh) ∧
    (∃ (s : State) (sum : Int), s.servo.seq.phase = .focusHold ∧ (sequenceNow s).fokTh < sum ∧ s.servo.seq.strobes < strobesIn s 1000) ∧
    (∃ (s : State) (sum : Int), s.servo.seq.phase = .focusHold ∧ (sequenceNow s).fokTh < sum ∧ strobesIn s 1000 ≤ s.servo.seq.strobes) ∧
    (∃ (s : State), s.servo.seq.pairs + 1 < (sequenceNow s).fsTries) ∧
    (∃ (s : State), (sequenceNow s).fsTries ≤ s.servo.seq.pairs + 1 ∧ s.servo.seq.most = 0 ∧ s.servo.seq.curves = 0 ∧ s.servo.seq.afterJump = false) ∧
    (∃ (s : State), (sequenceNow s).fsTries ≤ s.servo.seq.pairs + 1 ∧ (0 < s.servo.seq.most ∨ 0 < s.servo.seq.curves ∨ s.servo.seq.afterJump =
      true)) ∧
    (∃ (s : State), (s.servo.fok = false ∨ s.servo.ldEn = false ∨ s.halt.inHalt = true ∨ s.servo.seq.phase ≠ .idle ∨ atSpeed s = false)) ∧
    (∃ (s : State), s.servo.fok = true ∧ s.servo.ldEn = true ∧ s.halt.inHalt = false ∧ s.servo.seq.phase = .idle ∧ atSpeed s = true) ∧
    (∃ (s : State) (te : Int) (n : Nat), s.servo.seq.phase = .measure ∧ crossed s.servo.seq.te te = true ∧ s.servo.seq.cross = some n ∧ strobesIn s
      (sequenceNow s).tonSlow < n + 1) ∧
    (∃ (s : State) (te : Int), s.servo.seq.phase = .measure ∧ (crossed s.servo.seq.te te = false ∨ s.servo.seq.cross = none)) ∧
    (∃ (s : State) (te : Int), s.servo.seq.phase = .ready ∧ crossed s.servo.seq.te te = true ∧ onTrack s te s.servo.seq.brakeUp = true) ∧
    (∃ (s : State), s.servo.seq.phase = .brake ∧ s.servo.seq.strobes < strobesIn s (sequenceNow s).brkT) ∧
    (∃ (s : State), s.servo.seq.phase = .brake ∧ strobesIn s (sequenceNow s).brkT ≤ s.servo.seq.strobes) ∧
    (∃ (s : State) (te : Int) (n : Nat), s.servo.seq.phase = .closing ∧ n = (if te.natAbs < 4096 * (sequenceNow s).tonLock then s.servo.seq.run + 1
      else 0) ∧ n < strobesIn s 2000) ∧
    (∃ (s : State) (te : Int) (n : Nat), s.servo.seq.phase = .closing ∧ n = (if te.natAbs < 4096 * (sequenceNow s).tonLock then s.servo.seq.run + 1
      else 0) ∧ strobesIn s 2000 ≤ n) ∧
    (∃ (s : State), s.servo.seq.phase = .lockHold ∧ strobesIn s 1000 ≤ s.servo.seq.strobes) ∧
    (∃ (s : State) (n : Nat), s.servo.trackOnAt = some n ∧ (s.us < n + 100000 ∨ trackingOn s = false)) ∧
    (∃ (s : State) (n : Nat), s.servo.trackOnAt = some n ∧ n + 100000 ≤ s.us ∧ trackingOn s = true ∧ s.servo.trackTries < 2) ∧
    (∃ (s : State) (n : Nat), s.servo.trackOnAt = some n ∧ n + 100000 ≤ s.us ∧ trackingOn s = true ∧ 2 ≤ s.servo.trackTries) ∧
    (∃ (s : State), s.servo.trackOnAt = none) ∧
    (∃ (s : State) (n : Nat), s.servo.locked = true ∧ 1 ≤ n ∧ n ≤ 255) ∧
    (∃ (s : State) (n : Nat), (s.servo.locked = false ∨ n = 0 ∨ 255 < n)) ∧
    (∃ (s : State) (j : Jump), s.servo.jump = some j ∧ s.servo.seq.phase = .jumpKick) ∧
    (∃ (s : State) (j : Jump), s.servo.jump = some j ∧ s.servo.seq.phase = .jumpBrake) ∧
    (∃ (s : State) (j : Jump) (te : Int) (n : Nat), s.servo.jump = some j ∧ (s.servo.seq.phase = .jumpKick ∨ s.servo.seq.phase = .jumpBrake) ∧ n =
      s.servo.seq.crossings + (if crossed s.servo.seq.te te then 1 else 0) ∧ 2 * j.tracks ≤ n ∧ crossed s.servo.seq.te te = true ∧ onTrack s te
      j.outward = true) ∧
    (∃ (s : State) (j : Jump) (te : Int) (n : Nat), s.servo.jump = some j ∧ (s.servo.seq.phase = .jumpKick ∨ s.servo.seq.phase = .jumpBrake) ∧ n =
      s.servo.seq.crossings + (if crossed s.servo.seq.te te then 1 else 0) ∧ n < j.tracks) ∧
    (∃ (s : State) (j : Jump) (te : Int) (n : Nat), s.servo.jump = some j ∧ (s.servo.seq.phase = .jumpKick ∨ s.servo.seq.phase = .jumpBrake) ∧ n =
      s.servo.seq.crossings + (if crossed s.servo.seq.te te then 1 else 0) ∧ j.tracks ≤ n ∧ n < 2 * j.tracks) ∧
    (∃ (s : State) (j : Jump), s.servo.jump = some j ∧ s.us < j.at_ + 2000 + 50 * j.tracks) ∧
    (∃ (s : State) (j : Jump), s.servo.jump = some j ∧ j.at_ + 2000 + 50 * j.tracks ≤ s.us ∧ s.servo.jumpFails = 0) ∧
    (∃ (s : State) (j : Jump), s.servo.jump = some j ∧ j.at_ + 2000 + 50 * j.tracks ≤ s.us ∧ 1 ≤ s.servo.jumpFails) ∧
    (∃ (s : State), s.servo.jump = none) ∧
    (∃ (s : State) (d : DiscInfo) (l : Nat), s.disc = some d ∧ s.servo.fok = true ∧ s.servo.ldEn = true ∧ l < d.layers ∧ l ≠ s.servo.layer) ∧
    (∃ (s : State) (d : DiscInfo) (l : Nat), s.disc = some d ∧ s.servo.fok = true ∧ s.servo.ldEn = true ∧ (d.layers ≤ l ∨ l = s.servo.layer)) ∧
    (∃ (s : State), (s.disc = none ∨ s.servo.fok = false ∨ s.servo.ldEn = false)) ∧
    (∃ (s : State) (fe : Int) (q : Seq), (s.servo.seq.phase = .layerKick ∨ s.servo.seq.phase = .layerCoast) ∧ q = excursion (sequenceNow s)
      s.servo.seq fe ∧ layerReached s q = true) ∧
    (∃ (s : State) (fe : Int) (q : Seq), (s.servo.seq.phase = .layerKick ∨ s.servo.seq.phase = .layerCoast) ∧ q = excursion (sequenceNow s)
      s.servo.seq fe ∧ layerReached s q = false ∧ s.servo.seq.phase = .layerKick ∧ strobesIn s (sequenceNow s).ljKickT ≤ s.servo.seq.strobes) ∧
    (∃ (s : State), s.servo.seq.phase = .layerKick) ∧
    (∃ (s : State), s.servo.seq.phase = .layerCoast) ∧
    (∃ (s : State), s.servo.seq.phase = .layerBrake) ∧
    (∃ (s : State) (fe : Int), s.servo.seq.phase = .layerBrake ∧ crossed s.servo.seq.fe fe = false) ∧
    (∃ (s : State) (fe : Int), s.servo.seq.phase = .layerBrake ∧ crossed s.servo.seq.fe fe = true) ∧
    (∃ (s : State) (l : Nat) (n : Nat), s.servo.layerJump = some (l, n) ∧ (s.us < n + 5000 ∨ layerOpen s = false)) ∧
    (∃ (s : State) (l : Nat) (n : Nat), s.servo.layerJump = some (l, n) ∧ n + 5000 ≤ s.us ∧ layerOpen s = true) ∧
    (∃ (s : State), s.servo.layerJump = none) :=
  ⟨by refine ⟨W.live, 3, ?_⟩ <;> decide +kernel,
   by refine ⟨{ W.live with servo.seq.phase := .idle }, (2 : Nat), ?_, ?_, ?_⟩ <;> decide +kernel,
   by refine ⟨{ W.live with servo.expect := true, servo.invalid := 0 }, ?_, ?_, ?_⟩ <;> decide +kernel,
   by refine ⟨W.live, _, rfl⟩,
   by refine ⟨{ W.live with servo.seq.phase := .settle, servo.apcSettled := true, servo.ldStrobes := (strobesIn W.live 2000 + 5) }, ?_, ?_, ?_⟩
        <;> decide +kernel,
   by refine ⟨{ W.live with servo.seq.phase := .settle, servo.apcSettled := false }, ?_, ?_⟩ <;> decide +kernel,
   by refine ⟨{ W.live with servo.seq.strobes := 0 }, ?_⟩ <;> decide +kernel,
   by refine ⟨{ W.live with servo.seq.strobes := 10 ^ 9 }, ?_, ?_⟩ <;> decide +kernel,
   by refine ⟨{ W.live with servo.seq := { phase := .down, fe := 1, fePeak := 100 } }, 1000, (-1), _, _, ?_, rfl, rfl, ?_, ?_, ?_, ?_⟩
        <;> decide +kernel,
   by refine ⟨{ W.live with servo.seq.phase := .focusHold }, ((sequenceNow { W.live with servo.seq.phase := .focusHold }).fokTh : Int), ?_, ?_⟩
        <;> decide +kernel,
   by refine ⟨{ W.live with servo.seq.phase := .focusHold, servo.seq.strobes := 0 }, (((sequenceNow
        { W.live with servo.seq.phase := .focusHold, servo.seq.strobes := 0 }).fokTh + 1) : Int), ?_, ?_, ?_⟩ <;> decide +kernel,
   by refine ⟨{ W.live with servo.seq.phase := .focusHold, servo.seq.strobes := (strobesIn W.live 1000) }, (((sequenceNow
        { W.live with servo.seq.phase := .focusHold, servo.seq.strobes := (strobesIn W.live 1000) }).fokTh + 1) : Int), ?_, ?_, ?_⟩
        <;> decide +kernel,
   by refine ⟨W.live, ?_⟩ <;> decide +kernel,
   by refine ⟨{ W.live with servo.seq.pairs := 2 }, ?_, ?_, ?_, ?_⟩ <;> decide +kernel,
   by refine ⟨{ W.live with servo.seq.pairs := 2, servo.seq.most := 1 }, ?_, ?_⟩ <;> decide +kernel,
   by refine ⟨{ W.live with servo.fok := false }, ?_⟩ <;> decide +kernel,
   by refine ⟨{ W.live with servo.fok := true, servo.ldEn := true, spindle.st := .closed, spindle.ceiling := true }, ?_, ?_, ?_, ?_, ?_⟩
        <;> decide +kernel,
   by refine ⟨{ W.live with servo.seq := { phase := .measure, te := 1, cross := some 1000 } }, (-1), 1000, ?_, ?_, ?_, ?_⟩ <;> decide +kernel,
   by refine ⟨{ W.live with servo.seq.phase := .measure }, 0, ?_, ?_⟩ <;> decide +kernel,
   by refine
        ⟨{ W.live with servo.loops := W.live.servo.loops.set 1 { W.live.servo.loops.get 1 with active := .loaded W.bank }, servo.seq := { phase := .ready, te := 1, brakeUp := true } },
        (-1), ?_, ?_, ?_⟩ <;> decide +kernel,
   by refine ⟨{ W.live with servo.seq.phase := .brake, servo.seq.strobes := 0 }, ?_, ?_⟩ <;> decide +kernel,
   by refine ⟨{ W.live with servo.seq.phase := .brake, servo.seq.strobes := (strobesIn W.live (sequenceNow W.live).brkT) }, ?_, ?_⟩
        <;> decide +kernel,
   by refine ⟨{ W.live with servo.seq := { phase := .closing } }, 0, _, ?_, rfl, ?_⟩ <;> decide +kernel,
   by refine ⟨{ W.live with servo.seq := { phase := .closing, run := 10 ^ 6 } }, 0, _, ?_, rfl, ?_⟩ <;> decide +kernel,
   by refine ⟨{ W.live with servo.seq.phase := .lockHold, servo.seq.strobes := (strobesIn W.live 1000) }, ?_, ?_⟩ <;> decide +kernel,
   by refine ⟨{ W.live with servo.trackOnAt := some 1, us := 0 }, 1, ?_, ?_⟩ <;> decide +kernel,
   by refine ⟨{ W.live with us := 10 ^ 9, servo.trackOnAt := some 1, servo.trackTries := 0, servo.seq.phase := .measure }, 1, ?_, ?_, ?_, ?_⟩
        <;> decide +kernel,
   by refine ⟨{ W.live with us := 10 ^ 9, servo.trackOnAt := some 1, servo.trackTries := 2, servo.seq.phase := .measure }, 1, ?_, ?_, ?_, ?_⟩
        <;> decide +kernel,
   by refine ⟨{ W.live with servo.trackOnAt := none }, ?_⟩ <;> decide +kernel,
   by refine ⟨{ W.live with servo.locked := true }, 1, ?_, ?_, ?_⟩ <;> decide +kernel,
   by refine ⟨{ W.live with servo.locked := false }, 1, ?_⟩ <;> decide +kernel,
   by refine ⟨{ W.live with servo.jump := some (⟨1, true, 0⟩ : Jump), servo.seq.phase := .jumpKick }, (⟨1, true, 0⟩ : Jump), ?_, ?_⟩
        <;> decide +kernel,
   by refine ⟨{ W.live with servo.jump := some (⟨1, true, 0⟩ : Jump), servo.seq.phase := .jumpBrake }, (⟨1, true, 0⟩ : Jump), ?_, ?_⟩
        <;> decide +kernel,
   by refine
        ⟨{ W.live with servo.loops := W.live.servo.loops.set 1 { W.live.servo.loops.get 1 with active := .loaded W.bank }, servo.jump := some ⟨1, true, 0⟩, servo.seq := { phase := .jumpKick, te := 1, crossings := 1 } },
        ⟨1, true, 0⟩, (-1), _, ?_, ?_, rfl, ?_, ?_, ?_⟩ <;> decide +kernel,
   by refine
        ⟨{ W.live with servo.jump := some { (⟨1, true, 0⟩ : Jump) with tracks := ((W.live.servo.seq.crossings + (if crossed W.live.servo.seq.te 0 then 1 else 0) : Nat) + 1) }, servo.seq.phase := .jumpKick },
        { (⟨1, true, 0⟩ : Jump) with tracks := (({ W.live with servo.jump := some { (⟨1, true, 0⟩ : Jump) with tracks := ((W.live.servo.seq.crossings + (if crossed W.live.servo.seq.te 0 then 1 else 0) : Nat) + 1) }, servo.seq.phase := .jumpKick }.servo.seq.crossings + (if crossed { W.live with servo.jump := some { (⟨1, true, 0⟩ : Jump) with tracks := ((W.live.servo.seq.crossings + (if crossed W.live.servo.seq.te 0 then 1 else 0) : Nat) + 1) }, servo.seq.phase := .jumpKick }.servo.seq.te 0 then 1 else 0) : Nat) + 1) },
        0,
        ({ W.live with servo.jump := some { (⟨1, true, 0⟩ : Jump) with tracks := ((W.live.servo.seq.crossings + (if crossed W.live.servo.seq.te 0 then 1 else 0) : Nat) + 1) }, servo.seq.phase := .jumpKick }.servo.seq.crossings
        + (if crossed
        { W.live with servo.jump := some { (⟨1, true, 0⟩ : Jump) with tracks := ((W.live.servo.seq.crossings + (if crossed W.live.servo.seq.te 0 then 1 else 0) : Nat) + 1) }, servo.seq.phase := .jumpKick }.servo.seq.te
        0 then 1 else 0) : Nat), ?_, ?_, ?_, ?_⟩ <;> decide +kernel,
   by refine ⟨{ W.live with servo.jump := some ⟨1, true, 0⟩, servo.seq := { phase := .jumpKick, te := 1 } }, ⟨1, true, 0⟩, (-1), _, ?_, ?_, rfl, ?_,
        ?_⟩ <;> decide +kernel,
   by refine ⟨{ W.live with servo.jump := some (⟨1, true, 0⟩ : Jump), us := 0 }, (⟨1, true, 0⟩ : Jump), ?_, ?_⟩ <;> decide +kernel,
   by refine
        ⟨{ W.live with servo.jump := some (⟨1, true, 0⟩ : Jump), us := ((⟨1, true, 0⟩ : Jump).at_ + 2000 + 50 * (⟨1, true, 0⟩ : Jump).tracks), servo.jumpFails := 0 },
        (⟨1, true, 0⟩ : Jump), ?_, ?_, ?_⟩ <;> decide +kernel,
   by refine
        ⟨{ W.live with servo.jump := some (⟨1, true, 0⟩ : Jump), us := ((⟨1, true, 0⟩ : Jump).at_ + 2000 + 50 * (⟨1, true, 0⟩ : Jump).tracks), servo.jumpFails := (1) },
        (⟨1, true, 0⟩ : Jump), ?_, ?_, ?_⟩ <;> decide +kernel,
   by refine ⟨{ W.live with servo.jump := none }, ?_⟩ <;> decide +kernel,
   by refine ⟨{ W.live with servo.fok := true, servo.ldEn := true, servo.layer := 1, disc := some W.disc }, W.disc, 0, ?_, ?_, ?_, ?_, ?_⟩
        <;> decide +kernel,
   by refine ⟨{ W.live with servo.fok := true, servo.ldEn := true, disc := some W.disc }, W.disc, 1, ?_, ?_, ?_, ?_⟩ <;> decide +kernel,
   by refine ⟨{ W.live with disc := none }, ?_⟩ <;> decide +kernel,
   by refine ⟨{ W.live with servo.seq := { phase := .layerKick, crossings := 3, brakeUp := true, layer := 1 } }, (10 ^ 9), _, ?_, rfl, ?_⟩
        <;> decide +kernel,
   by refine ⟨{ W.live with servo.seq.phase := .layerKick, servo.seq.strobes := (strobesIn W.live (sequenceNow W.live).ljKickT) }, 0, (excursion
        (sequenceNow { W.live with servo.seq.phase := .layerKick, servo.seq.strobes := (strobesIn W.live (sequenceNow W.live).ljKickT) })
        { W.live with servo.seq.phase := .layerKick, servo.seq.strobes := (strobesIn W.live (sequenceNow W.live).ljKickT) }.servo.seq 0 : Seq), ?_,
        ?_, ?_, ?_, ?_⟩ <;> decide +kernel,
   by refine ⟨{ W.live with servo.seq.phase := .layerKick }, ?_⟩ <;> decide +kernel,
   by refine ⟨{ W.live with servo.seq.phase := .layerCoast }, ?_⟩ <;> decide +kernel,
   by refine ⟨{ W.live with servo.seq.phase := .layerBrake }, ?_⟩ <;> decide +kernel,
   by refine ⟨{ W.live with servo.seq.phase := .layerBrake }, 0, ?_, ?_⟩ <;> decide +kernel,
   by refine ⟨{ W.live with servo.seq := { phase := .layerBrake, fe := 1 } }, (-1), ?_, ?_⟩ <;> decide +kernel,
   by refine ⟨{ W.live with servo.layerJump := some (1, 1), us := 0 }, 1, 1, ?_, ?_⟩ <;> decide +kernel,
   by refine ⟨{ W.live with us := 10 ^ 9, servo.layerJump := some (1, 1), servo.seq.phase := .layerKick }, 1, 1, ?_, ?_, ?_⟩ <;> decide +kernel,
   by refine ⟨{ W.live with servo.layerJump := none }, ?_⟩ <;> decide +kernel⟩

/-- The hypotheses of SpindleStartsAndCommutates, clause by clause. -/
theorem wit_SpindleStartsAndCommutates :
    (∃ (s : State) (n : Nat) (m : Nat), (m = if s.spindle.st = .braking ∨ (s.spindle.st = .closed ∧ s.pwr.links.cmd.spindle < 0) then (n + 2) % 6 +
      1 else n)) ∧
    (∃ (s : State), s.spindle.st = .align) ∧
    (∃ (s : State), s.spindle.st = .closed) ∧
    (∃ (s : State), s.spindle.st ≠ .align ∧ s.spindle.st ≠ .closed) ∧
    (∃ (s : State), linksUp s = true ∧ s.spindle.st = .closed ∧ s.pwr.links.cmd.spindle ≠ (frameNow s).spindle) ∧
    (∃ (s : State), (motorsAllowed s = false ∨ (s.spindle.st ≠ .stopped ∧ s.spindle.st ≠ .shorted ∧ s.spindle.st ≠ .coasting ∧ s.spindle.st ≠
      .braking) ∨ s.loader.ejecting = true)) ∧
    (∃ (s : State), motorsAllowed s = true ∧ (s.spindle.st = .stopped ∨ s.spindle.st = .shorted ∨ s.spindle.st = .coasting) ∧ s.loader.ejecting =
      false ∧ s.spindle.prof.hallEn = false) ∧
    (∃ (s : State), motorsAllowed s = true ∧ (s.spindle.st = .stopped ∨ s.spindle.st = .shorted ∨ s.spindle.st = .coasting) ∧ s.loader.ejecting =
      false ∧ s.spindle.prof.hallEn = true) ∧
    (∃ (s : State), motorsAllowed s = true ∧ s.spindle.st = .braking ∧ s.loader.ejecting = false) ∧
    (∃ (s : State) (n : Nat), motorsAllowed s = true ∧ (s.spindle.st = .stopped ∨ s.spindle.st = .shorted ∨ s.spindle.st = .coasting ∨ s.spindle.st
      = .braking) ∧ s.loader.ejecting = false ∧ s.spindle.prof.handover ≤ 2 * n) ∧
    (∃ (s : State) (r : Rotor) (n : Nat) (m : Nat), motorsAllowed s = true ∧ (s.spindle.st = .stopped ∨ s.spindle.st = .shorted ∨ s.spindle.st =
      .coasting ∨ s.spindle.st = .braking) ∧ s.loader.ejecting = false ∧ (r = .backward n ∨ (r = .forward n m ∧ 2 * n < s.spindle.prof.handover)) ∧
      (s.spindle.st = .shorted ∨ s.spindle.st = .braking)) ∧
    (∃ (s : State) (r : Rotor) (n : Nat) (m : Nat), motorsAllowed s = true ∧ (s.spindle.st = .stopped ∨ s.spindle.st = .shorted ∨ s.spindle.st =
      .coasting ∨ s.spindle.st = .braking) ∧ s.loader.ejecting = false ∧ (r = .backward n ∨ (r = .forward n m ∧ 2 * n < s.spindle.prof.handover)) ∧
      (s.spindle.st = .stopped ∨ s.spindle.st = .coasting)) ∧
    (∃ (s : State), s.spindle.st = .align ∧ s.us - s.spindle.since < s.spindle.inUse.alignT * 1000) ∧
    (∃ (s : State), s.spindle.st = .align ∧ s.spindle.inUse.alignT * 1000 ≤ s.us - s.spindle.since) ∧
    (∃ (s : State) (u : State) (b : Option Nat) (k : Nat) (p : SpindleProf) (run : Nat), s.spindle.st = .forced k ∧ p = s.spindle.inUse ∧ run = (if
      detects p k = true ∧ b ≠ none then s.spindle.run + 1 else 0) ∧ u = (let v := noteForced s (if detects p k then b else none);
      { v with spindle := { v.spindle with run := run } }) ∧ stepOver p k (s.us - s.spindle.since) = false) ∧
    (∃ (s : State) (u : State) (b : Option Nat) (k : Nat) (p : SpindleProf) (run : Nat), s.spindle.st = .forced k ∧ p = s.spindle.inUse ∧ run = (if
      detects p k = true ∧ b ≠ none then s.spindle.run + 1 else 0) ∧ u = (let v := noteForced s (if detects p k then b else none);
      { v with spindle := { v.spindle with run := run } }) ∧ stepOver p k (s.us - s.spindle.since) = true ∧ rateAtLeast p k p.handover = false) ∧
    (∃ (s : State) (u : State) (b : Option Nat) (k : Nat) (p : SpindleProf) (run : Nat), s.spindle.st = .forced k ∧ p = s.spindle.inUse ∧ run = (if
      detects p k = true ∧ b ≠ none then s.spindle.run + 1 else 0) ∧ u = (let v := noteForced s (if detects p k then b else none);
      { v with spindle := { v.spindle with run := run } }) ∧ stepOver p k (s.us - s.spindle.since) = true ∧ rateAtLeast p k p.handover = true ∧ 12 ≤
      run) ∧
    (∃ (s : State) (u : State) (b : Option Nat) (k : Nat) (p : SpindleProf) (run : Nat), s.spindle.st = .forced k ∧ p = s.spindle.inUse ∧ run = (if
      detects p k = true ∧ b ≠ none then s.spindle.run + 1 else 0) ∧ u = (let v := noteForced s (if detects p k then b else none);
      { v with spindle := { v.spindle with run := run } }) ∧ stepOver p k (s.us - s.spindle.since) = true ∧ rateAtLeast p k p.handover = true ∧ run
      < 12 ∧ s.spindle.atHandover < 48) ∧
    (∃ (s : State) (u : State) (b : Option Nat) (k : Nat) (p : SpindleProf) (run : Nat), s.spindle.st = .forced k ∧ p = s.spindle.inUse ∧ run = (if
      detects p k = true ∧ b ≠ none then s.spindle.run + 1 else 0) ∧ u = (let v := noteForced s (if detects p k then b else none);
      { v with spindle := { v.spindle with run := run } }) ∧ stepOver p k (s.us - s.spindle.since) = true ∧ rateAtLeast p k p.handover = true ∧ run
      < 12 ∧ 48 ≤ s.spindle.atHandover ∧ s.spindle.tries + 1 < p.startTries) ∧
    (∃ (s : State) (u : State) (b : Option Nat) (k : Nat) (p : SpindleProf) (run : Nat), s.spindle.st = .forced k ∧ p = s.spindle.inUse ∧ run = (if
      detects p k = true ∧ b ≠ none then s.spindle.run + 1 else 0) ∧ u = (let v := noteForced s (if detects p k then b else none);
      { v with spindle := { v.spindle with run := run } }) ∧ stepOver p k (s.us - s.spindle.since) = true ∧ rateAtLeast p k p.handover = true ∧ run
      < 12 ∧ 48 ≤ s.spindle.atHandover ∧ p.startTries ≤ s.spindle.tries + 1) ∧
    (∃ (s : State), s.spindle.run = 0) ∧
    (∃ (s : State), 0 < s.spindle.run) ∧
    (∃ (s : State), s.spindle.st = .startCoast ∧ s.spindle.since + 500000 ≤ s.us) ∧
    (∃ (s : State), (s.spindle.st ≠ .startCoast ∨ s.us < s.spindle.since + 500000)) ∧
    (∃ (s : State) (x : Nat) (l : List Nat), l = (s.spindle.t60 ++ [x]).drop (s.spindle.t60.length - 5)) ∧
    (∃ (s : State) (u : State) (x : Nat), s.spindle.inUse.hallEn = false ∧ s.spindle.st = .closed ∧ s.spindle.commutating = none ∧ blanked s x =
      false ∧ u = noteInterval s x) ∧
    (∃ (s : State) (u : State) (x : Nat), s.spindle.inUse.hallEn = false ∧ s.spindle.st = .braking ∧ s.spindle.commutating = none ∧ blanked s x =
      false ∧ u = noteInterval s x) ∧
    (∃ (s : State), s.spindle.inUse.hallEn = false ∧ (s.spindle.st = .coasting ∨ s.spindle.st = .startCoast)) ∧
    (∃ (s : State) (b : Bool) (x : Nat), (s.spindle.inUse.hallEn = true ∨ (s.spindle.st = .closed ∧ (b ≠ (s.spindle.step % 2 == 0) ∨
      s.spindle.commutating ≠ none ∨ blanked s x = true)))) ∧
    (∃ (s : State) (n : Nat), s.spindle.commutating = some n ∧ 8 * (s.us - s.spindle.crossedAt) < n) ∧
    (∃ (s : State) (n : Nat), s.spindle.commutating = some n ∧ n ≤ 8 * (s.us - s.spindle.crossedAt)) ∧
    (∃ (s : State), s.spindle.commutating = none) ∧
    (∃ (s : State) (c : BitVec 3), (s.spindle.inUse.hallEn = false ∨ hallStep c = none)) ∧
    (∃ (s : State) (c : BitVec 3) (n : Nat), s.spindle.inUse.hallEn = true ∧ hallStep c = some n ∧ s.spindle.st = .closed) ∧
    (∃ (s : State) (c : BitVec 3), s.spindle.inUse.hallEn = true ∧ linksUp s = true ∧ s.pwr.tbLock = true ∧ hallStep c = none) ∧
    (∃ (s : State) (c : BitVec 3), (s.spindle.inUse.hallEn = false ∨ hallStep c ≠ none ∨ linksUp s = false ∨ s.pwr.tbLock = false)) ∧
    (∃ (s : State) (x : Nat), s.spindle.t60.getLast? = some x ∧ (s.spindle.st = .closed ∨ s.spindle.st = .braking) ∧ s.spindle.inUse.hallEn = false
      ∧ 3 * x ≤ 8 * (s.us - s.spindle.crossedAt)) ∧
    (∃ (s : State) (x : Nat), s.spindle.t60.getLast? = some x ∧ (s.spindle.st = .closed ∨ s.spindle.st = .braking) ∧ s.spindle.inUse.hallEn = false
      ∧ 8 * (s.us - s.spindle.crossedAt) < 3 * x) ∧
    (∃ (s : State), s.spindle.st ≠ .closed ∧ s.spindle.st ≠ .braking) ∧
    (∃ (s : State), linksUp s = true) ∧
    (∃ (s : State), linksUp s = false) :=
  ⟨by refine ⟨W.live, 1, _, rfl⟩,
   by refine ⟨{ W.live with spindle.st := .align }, ?_⟩ <;> decide +kernel,
   by refine ⟨{ W.live with spindle.st := .closed }, ?_⟩ <;> decide +kernel,
   by refine ⟨W.live, ?_, ?_⟩ <;> decide +kernel,
   by refine ⟨{ W.live with spindle.st := .closed, pwr.links.cmd.spindle := 7 }, ?_, ?_, ?_⟩ <;> decide +kernel,
   by refine ⟨{ W.live with loader.ejecting := true }, ?_⟩ <;> decide +kernel,
   by refine ⟨{ W.live with spindle.st := .stopped, loader.ejecting := false, spindle.prof.hallEn := false }, ?_, ?_, ?_, ?_⟩ <;> decide +kernel,
   by refine ⟨{ W.live with spindle.st := .stopped, loader.ejecting := false, spindle.prof.hallEn := true }, ?_, ?_, ?_, ?_⟩ <;> decide +kernel,
   by refine ⟨{ W.live with spindle.st := .braking, loader.ejecting := false }, ?_, ?_, ?_⟩ <;> decide +kernel,
   by refine ⟨{ W.live with spindle.st := .stopped, loader.ejecting := false, spindle.prof.handover := 2 * 1 }, 1, ?_, ?_, ?_, ?_⟩
        <;> decide +kernel,
   by refine ⟨{ W.live with spindle.st := .shorted, loader.ejecting := false }, (.backward 1 : Rotor), 1, 1, ?_, ?_, ?_, ?_, ?_⟩ <;> decide +kernel,
   by refine ⟨{ W.live with spindle.st := .stopped, loader.ejecting := false }, (.backward 1 : Rotor), 1, 1, ?_, ?_, ?_, ?_, ?_⟩ <;> decide +kernel,
   by refine ⟨{ W.live with spindle.st := .align, spindle.since := W.live.us }, ?_, ?_⟩ <;> decide +kernel,
   by refine ⟨{ W.live with spindle.st := .align, us := 10 ^ 9 }, ?_, ?_⟩ <;> decide +kernel,
   by refine ⟨{ W.live with spindle.st := .forced 1, spindle.since := W.live.us }, _, none, 1, _, _, ?_, rfl, rfl, rfl, ?_⟩ <;> decide +kernel,
   by refine ⟨{ W.live with us := 10 ^ 9, spindle.st := .forced 1 }, _, none, 1, _, _, ?_, rfl, rfl, rfl, ?_, ?_⟩ <;> decide +kernel,
   by refine ⟨{ W.live with us := 10 ^ 9, spindle.st := .forced 100, spindle.run := 12 }, _, (some 1), 100, _, _, ?_, rfl, rfl, rfl, ?_, ?_, ?_⟩
        <;> decide +kernel,
   by refine ⟨{ W.live with us := 10 ^ 9, spindle.st := .forced 100 }, _, none, 100, _, _, ?_, rfl, rfl, rfl, ?_, ?_, ?_, ?_⟩ <;> decide +kernel,
   by refine ⟨{ W.live with us := 10 ^ 9, spindle.st := .forced 100, spindle.atHandover := 48 }, _, none, 100, _, _, ?_, rfl, rfl, rfl, ?_, ?_, ?_,
        ?_, ?_⟩ <;> decide +kernel,
   by refine ⟨{ W.live with us := 10 ^ 9, spindle.st := .forced 100, spindle.atHandover := 48, spindle.tries := 2 }, _, none, 100, _, _, ?_, rfl,
        rfl, rfl, ?_, ?_, ?_, ?_, ?_⟩ <;> decide +kernel,
   by refine ⟨{ W.live with spindle.run := 0 }, ?_⟩ <;> decide +kernel,
   by refine ⟨{ W.live with spindle.run := (0 + 1) }, ?_⟩ <;> decide +kernel,
   by refine ⟨{ W.late with spindle.st := .startCoast }, ?_, ?_⟩ <;> decide +kernel,
   by refine ⟨W.live, ?_⟩ <;> decide +kernel,
   by refine ⟨W.live, 1, ((W.live.spindle.t60 ++ [1]).drop (W.live.spindle.t60.length - 5) : List Nat), ?_⟩ <;> decide +kernel,
   by refine ⟨{ W.live with spindle.inUse.hallEn := false, spindle.st := .closed, spindle.commutating := none }, _, 1, ?_, ?_, ?_, ?_, rfl⟩
        <;> decide +kernel,
   by refine ⟨{ W.live with spindle.inUse.hallEn := false, spindle.st := .braking, spindle.commutating := none }, _, 1, ?_, ?_, ?_, ?_, rfl⟩
        <;> decide +kernel,
   by refine ⟨{ W.live with spindle.inUse.hallEn := false, spindle.st := .coasting }, ?_, ?_⟩ <;> decide +kernel,
   by refine ⟨{ W.live with spindle.inUse.hallEn := true }, true, 1, ?_⟩ <;> decide +kernel,
   by refine ⟨{ State.reset with spindle.commutating := some 1 }, 1, ?_, ?_⟩ <;> decide +kernel,
   by refine ⟨{ W.live with spindle.commutating := some 1 }, 1, ?_, ?_⟩ <;> decide +kernel,
   by refine ⟨{ W.live with spindle.commutating := none }, ?_⟩ <;> decide +kernel,
   by refine ⟨{ W.live with spindle.inUse.hallEn := false }, (0b101 : BitVec 3), ?_⟩ <;> decide +kernel,
   by refine ⟨{ W.live with spindle.inUse.hallEn := true, spindle.st := .closed }, 5, 1, ?_, ?_, ?_⟩ <;> decide +kernel,
   by refine ⟨{ W.live with spindle.inUse.hallEn := true, pwr.tbLock := true }, (0 : BitVec 3), ?_, ?_, ?_, ?_⟩ <;> decide +kernel,
   by refine ⟨{ W.live with spindle.inUse.hallEn := false }, (0 : BitVec 3), ?_⟩ <;> decide +kernel,
   by refine ⟨{ W.live with spindle.st := .closed, spindle.inUse.hallEn := false, spindle.t60 := [1] }, _, rfl, ?_, ?_, ?_⟩ <;> decide +kernel,
   by refine ⟨{ W.live with spindle.st := .closed, spindle.inUse.hallEn := false, spindle.t60 := [1000000000] }, _, rfl, ?_, ?_, ?_⟩
        <;> decide +kernel,
   by refine ⟨W.live, ?_⟩ <;> decide +kernel,
   by refine ⟨W.live, ?_⟩ <;> decide +kernel,
   by refine ⟨{ W.live with sys.mode := .vigil }, ?_⟩ <;> decide +kernel⟩

/-- The hypotheses of SpindleStopsAndTheSledMoves, clause by clause. -/
theorem wit_SpindleStopsAndTheSledMoves :
    (∃ (s : State), s.spindle.ceiling = false ∧ 8 ≤ s.spindle.limitRun) ∧
    (∃ (s : State), (s.spindle.ceiling = true ∨ s.spindle.limitRun < 8)) ∧
    (∃ (s : State), s.spindle.ceiling = true ∧ 8 ≤ s.spindle.clearRun) ∧
    (∃ (s : State), (s.spindle.ceiling = false ∨ s.spindle.clearRun < 8)) ∧
    (∃ (s : State), s.servo.n % 16 ≠ 8) ∧
    (∃ (s : State), s.servo.n % 16 = 8 ∧ limitReported s = true ∧ 100 * s.spindle.rpm < 99 * s.spindle.setPoint) ∧
    (∃ (s : State), s.servo.n % 16 = 8 ∧ (limitReported s = false ∨ 99 * s.spindle.setPoint ≤ 100 * s.spindle.rpm)) ∧
    (∃ (s : State) (from_ : Nat), (s.spindle.st = .shorted ∧ from_ = s.spindle.since ∨ s.spindle.st = .coasting ∧ from_ = s.spindle.crossedAt) ∧
      s.us < from_ + 200000) ∧
    (∃ (s : State) (from_ : Nat) (u : State), (s.spindle.st = .shorted ∧ from_ = s.spindle.since ∨ s.spindle.st = .coasting ∧ from_ =
      s.spindle.crossedAt) ∧ from_ + 200000 ≤ s.us ∧ u =
      { s with spindle := { s.spindle with st := .stopped, rpm := 0, t60 := [], commutating := none }, out := if s.spindle.st = .shorted then s.out ++ [.spinOff] else s.out }
      ∧ s.loader.ejecting = false ∧ (s.spindle.restart = false ∨ motorsAllowed s = false)) ∧
    (∃ (s : State) (from_ : Nat) (u : State), (s.spindle.st = .shorted ∧ from_ = s.spindle.since ∨ s.spindle.st = .coasting ∧ from_ =
      s.spindle.crossedAt) ∧ from_ + 200000 ≤ s.us ∧ u =
      { s with spindle := { s.spindle with st := .stopped, rpm := 0, t60 := [], commutating := none }, out := if s.spindle.st = .shorted then s.out ++ [.spinOff] else s.out }
      ∧ s.loader.ejecting = false ∧ s.spindle.restart = true ∧ motorsAllowed s = true ∧ s.spindle.prof.hallEn = false) ∧
    (∃ (s : State) (from_ : Nat) (u : State), (s.spindle.st = .shorted ∧ from_ = s.spindle.since ∨ s.spindle.st = .coasting ∧ from_ =
      s.spindle.crossedAt) ∧ from_ + 200000 ≤ s.us ∧ u =
      { s with spindle := { s.spindle with st := .stopped, rpm := 0, t60 := [], commutating := none }, out := if s.spindle.st = .shorted then s.out ++ [.spinOff] else s.out }
      ∧ s.loader.ejecting = true) ∧
    (∃ (s : State), s.spindle.st ≠ .shorted ∧ s.spindle.st ≠ .coasting) ∧
    (∃ (s : State), (linksUp s = false ∨ s.pwr.tbLock = false)) ∧
    (∃ (s : State), linksUp s = true ∧ s.pwr.tbLock = true ∧ s.sled.move = .rest) ∧
    (∃ (s : State) (p : Int) (m : SledMove), linksUp s = true ∧ s.pwr.tbLock = true ∧ ((∃ (a z : Int) (u x : Nat), s.sled.move = .move a z u ∧ x =
      profileAt s.sled.inUse ((z - a).natAbs / 16777216) (u + 1) ∧ p = (if a ≤ z then a + x else a - x) ∧ m = (if (z - a).natAbs ≤ x then .rest else
      .move a z (u + 1))) ∨ (∃ n y : Nat, s.sled.move = .homeOut n ∧ y = s.sled.inUse.homeV * 16777216 / 40000 ∧ p = s.sled.pos + y ∧ m = (if 50 *
      16777216 ≤ n + y then .homeIn 0 else .homeOut (n + y))) ∨ (∃ n y : Nat, s.sled.move = .homeIn n ∧ s.sled.home = false ∧ n <
      s.sled.inUse.homeMax * 16777216 ∧ y = s.sled.inUse.homeV * 16777216 / 40000 ∧ p = s.sled.pos - y ∧ m = .homeIn (n + y)) ∨ (s.sled.move =
      .follow ∧ m = .follow ∧ p = s.sled.pos + (if (s.servo.loops.get 1).closed then roundDiv (s.pwr.links.cmd.sled * s.sled.inUse.followV * 8)
      40000 else 0)))) ∧
    (∃ (s : State) (n : Nat), linksUp s = true ∧ s.pwr.tbLock = true ∧ s.sled.move = .homeIn n ∧ s.sled.home = false ∧ s.sled.inUse.homeMax *
      16777216 ≤ n) ∧
    (∃ (s : State) (lba : Nat) (r : Nat) (d : DiscInfo) (n : Int), maySeek s = true ∧ s.disc = some d ∧ s.job ≠ none ∧ s.sled.radius = some r ∧ n =
      roundDiv ((radiusOf d lba : Int) - r) (max 1 s.sled.prof.pitch)) ∧
    (∃ (s : State), (maySeek s = false ∨ s.disc = none ∨ s.job = none)) ∧
    (∃ (s : State), s.sled.settling = true ∧ s.sled.restAt + s.sled.inUse.seekSettle ≤ s.us) ∧
    (∃ (s : State), (s.sled.settling = false ∨ s.us < s.sled.restAt + s.sled.inUse.seekSettle)) ∧
    (∃ (s : State) (d : DiscInfo), s.sled.lost = true ∧ motorsAllowed s = true ∧ s.disc = some d ∧ readsHere s = true) ∧
    (∃ (s : State) (a : Option Nat), s.sled.lost = true ∧ motorsAllowed s = true ∧ (a = none ∨ s.disc = none ∨ readsHere s = false) ∧ sledFree s =
      true) ∧
    (∃ (s : State) (a : Option Nat), s.sled.lost = true ∧ motorsAllowed s = true ∧ (a = none ∨ s.disc = none ∨ readsHere s = false) ∧ sledFree s =
      false) ∧
    (∃ (s : State), (s.sled.lost = false ∨ motorsAllowed s = false)) ∧
    (∃ (s : State), motorsAllowed s = true ∧ sledFree s = true) ∧
    (∃ (s : State), (motorsAllowed s = false ∨ sledFree s = false)) ∧
    (∃ (s : State) (n : Nat), s.sled.move = .homeOut n) ∧
    (∃ (s : State) (n : Nat) (c : Instr) (v : State), s.sled.move = .homeIn n ∧ (c = .homeNChange true ∨ (c = .sledUpdate ∧ linksUp s = true ∧
      s.pwr.tbLock = true ∧ s.sled.home = true)) ∧ v =
      { s with sled := { s.sled with home := true, move := .rest, restAt := s.us, lost := false, radius := some s.sled.inUse.homePos } }) ∧
    (∃ (s : State), (s.sled.move = .rest ∨ s.sled.move = .follow ∨ (∃ a z u, s.sled.move = .move a z u))) :=
  ⟨by refine ⟨{ W.live with spindle.ceiling := false, spindle.limitRun := (8) }, ?_, ?_⟩ <;> decide +kernel,
   by refine ⟨{ W.live with spindle.ceiling := true }, ?_⟩ <;> decide +kernel,
   by refine ⟨{ W.live with spindle.ceiling := true, spindle.clearRun := (8) }, ?_, ?_⟩ <;> decide +kernel,
   by refine ⟨{ W.live with spindle.ceiling := false }, ?_⟩ <;> decide +kernel,
   by refine ⟨W.live, ?_⟩ <;> decide +kernel,
   by refine ⟨{ W.live with servo.n := 8, spindle.st := .closed, spindle.setPoint := 1000, pwr.links.cmd.spindle := 2097152 }, ?_, ?_, ?_⟩
        <;> decide +kernel,
   by refine ⟨{ W.live with servo.n := 8 }, ?_, ?_⟩ <;> decide +kernel,
   by refine ⟨{ W.live with spindle.st := .shorted, us := 0 }, ({ W.live with spindle.st := .shorted, us := 0 }.spindle.since : Nat), ?_, ?_⟩
        <;> decide +kernel,
   by refine
        ⟨{ W.live with spindle.st := .shorted, us := ((W.live.spindle.since : Nat) + 200000), loader.ejecting := false, spindle.restart := false },
        ({ W.live with spindle.st := .shorted, us := ((W.live.spindle.since : Nat) + 200000), loader.ejecting := false, spindle.restart := false }.spindle.since
        : Nat), _, ?_, ?_, rfl, ?_, ?_⟩ <;> decide +kernel,
   by refine
        ⟨{ W.live with spindle.st := .shorted, us := ((W.live.spindle.since : Nat) + 200000), loader.ejecting := false, spindle.restart := true, spindle.prof.hallEn := false },
        ({ W.live with spindle.st := .shorted, us := ((W.live.spindle.since : Nat) + 200000), loader.ejecting := false, spindle.restart := true, spindle.prof.hallEn := false }.spindle.since
        : Nat), _, ?_, ?_, rfl, ?_, ?_, ?_, ?_⟩ <;> decide +kernel,
   by refine ⟨{ W.live with spindle.st := .shorted, us := ((W.live.spindle.since : Nat) + 200000), loader.ejecting := true },
        ({ W.live with spindle.st := .shorted, us := ((W.live.spindle.since : Nat) + 200000), loader.ejecting := true }.spindle.since : Nat), _, ?_,
        ?_, rfl, ?_⟩ <;> decide +kernel,
   by refine ⟨W.live, ?_⟩ <;> decide +kernel,
   by refine ⟨{ W.live with sys.mode := .vigil }, ?_⟩ <;> decide +kernel,
   by refine ⟨{ W.live with pwr.tbLock := true, sled.move := .rest }, ?_, ?_, ?_⟩ <;> decide +kernel,
   by refine ⟨{ W.live with sys.ready := true, sled.move := .homeIn 1 }, _, _, ?_, ?_,
        (by exact .inr (.inr (.inl ⟨1, _, rfl, by decide +kernel, by decide +kernel, rfl, rfl, rfl⟩)))⟩ <;> decide +kernel,
   by refine ⟨{ W.live with pwr.tbLock := true, sled.move := .homeIn ((W.live.sled.inUse.homeMax * 16777216) : Nat), sled.home := false },
        (({ W.live with pwr.tbLock := true, sled.move := .homeIn ((W.live.sled.inUse.homeMax * 16777216) : Nat), sled.home := false }.sled.inUse.homeMax
        * 16777216) : Nat), ?_, ?_, ?_, ?_, ?_⟩ <;> decide +kernel,
   by refine ⟨{ W.live with disc := some W.disc, job := some W.job, sled.radius := some 30000, servo.fok := true, sled.lost := false }, 0, 30000,
        W.disc, (roundDiv ((radiusOf W.disc 0 : Int) - (30000 : Nat)) (max 1 W.live.sled.prof.pitch)), ?_, ?_, ?_, ?_, rfl⟩ <;> decide +kernel,
   by refine ⟨W.live, ?_⟩ <;> decide +kernel,
   by refine ⟨{ W.live with sled.settling := true }, ?_, ?_⟩ <;> decide +kernel,
   by refine ⟨{ W.live with sled.settling := false }, ?_⟩ <;> decide +kernel,
   by refine ⟨{ W.live with sled.lost := true, disc := some W.disc, spindle.st := .closed, servo.fok := true, servo.locked := true }, W.disc, ?_,
        ?_, ?_, ?_⟩ <;> decide +kernel,
   by refine ⟨{ W.live with sled.lost := true }, (none : Option Nat), ?_, ?_, ?_, ?_⟩ <;> decide +kernel,
   by refine ⟨{ W.live with sled.lost := true, sled.move := .homeIn 1 }, none, ?_, ?_, ?_, ?_⟩ <;> decide +kernel,
   by refine ⟨{ W.live with sled.lost := false }, ?_⟩ <;> decide +kernel,
   by refine ⟨W.live, ?_, ?_⟩ <;> decide +kernel,
   by refine ⟨{ W.live with sled.move := .homeIn 1 }, ?_⟩ <;> decide +kernel,
   by refine ⟨{ W.live with sled.move := .homeOut 1 }, 1, ?_⟩ <;> decide +kernel,
   by refine ⟨{ W.live with sled.move := .homeIn 1 }, 1, (.homeNChange true), _, ?_, ?_, rfl⟩ <;> decide +kernel,
   by refine ⟨{ W.live with sled.move := .rest }, (by exact .inl rfl)⟩⟩

/-- The hypotheses of ChannelLocksAndAcceptsAddresses, clause by clause. -/
theorem wit_ChannelLocksAndAcceptsAddresses :
    (∃ (s : State), s.disc = none) ∧
    (∃ (s : State), s.disc ≠ none) ∧
    (∃ (s : State) (u : State) (rf : List RfSample), u = channelRun s rf ∧ reading u = true ∧ u.chan.acq = .acquiring ∧ u.chan.spaced = true ∧
      u.chan.passed = false) ∧
    (∃ (s : State) (u : State) (rf : List RfSample), u = channelRun s rf ∧ (reading u = false ∨ u.chan.acq ≠ .acquiring ∨ u.chan.spaced = false ∨
      u.chan.passed = true)) ∧
    (∃ (s : State) (u : State) (rf : List RfSample) (d : DiscInfo), u = channelRun s rf ∧ u.disc = some d ∧ u.chan.acq = .tracking ∧ 3 ≤
      u.chan.missed) ∧
    (∃ (s : State) (u : State) (rf : List RfSample) (d : DiscInfo), u = channelRun s rf ∧ u.disc = some d ∧ (u.chan.acq ≠ .tracking ∨ u.chan.missed
      < 3)) ∧
    (∃ (s : State) (u : State) (rf : List RfSample), u = channelRun s rf ∧ u.disc = none) ∧
    (∃ (s : State) (u : State) (rf : List RfSample), u = channelRun s rf ∧ (u.disc = none ∨ u.chan.relock = none ∨ u.chan.under = none ∨ u.chan.acq
      ≠ .acquiring)) ∧
    (∃ (s : State) (u : State) (rf : List RfSample) (a : Nat) (x : Nat) (d : DiscInfo), u = channelRun s rf ∧ u.disc = some d ∧ u.chan.relock = some
      a ∧ u.chan.under = some x ∧ u.chan.acq = .acquiring ∧ u.chan.pos < a + 2048) ∧
    (∃ (s : State) (u : State) (rf : List RfSample) (a : Nat) (x : Nat) (d : DiscInfo), u = channelRun s rf ∧ u.disc = some d ∧ u.chan.relock = some
      a ∧ u.chan.under = some x ∧ u.chan.acq = .acquiring ∧ a + 2048 ≤ u.chan.pos) ∧
    (∃ (s : State) (u : State) (rf : List RfSample), u = channelRun s rf ∧ (u.chan.defect = true ∨ (u.chan.front.dark < 16 ∧ u.chan.front.bright <
      16))) ∧
    (∃ (s : State) (u : State) (rf : List RfSample), u = channelRun s rf ∧ u.chan.defect = false ∧ (16 ≤ u.chan.front.dark ∨ 16 ≤
      u.chan.front.bright)) ∧
    (∃ (s : State) (u : State) (rf : List RfSample), u = channelRun s rf ∧ (u.chan.defect = false ∨ u.chan.front.inRange < 32)) ∧
    (∃ (s : State) (u : State) (rf : List RfSample) (p : ChannelProf), u = channelRun s rf ∧ u.chan.inUse = some p ∧ u.chan.defect = true ∧ 32 ≤
      u.chan.front.inRange) ∧
    (∃ (s : State) (a : AddressRead) (d : DiscInfo), (s.disc = none ∨ reading s = false ∨ (s.disc = some d ∧ (readsFormat d a.format = false ∨
      a.checkOk = false)))) ∧
    (∃ (s : State) (a : AddressRead) (d : DiscInfo) (c : Channel) (here : Bool), s.disc = some d ∧ reading s = true ∧ readsFormat d a.format = true
      ∧ a.checkOk = true ∧ flywheelAfter (noteCarrier s.chan d a) d s.us a.lba = (c, here) ∧ here = false) ∧
    (∃ (s : State) (a : AddressRead) (d : DiscInfo) (c : Channel) (here : Bool), s.disc = some d ∧ reading s = true ∧ readsFormat d a.format = true
      ∧ a.checkOk = true ∧ flywheelAfter (noteCarrier s.chan d a) d s.us a.lba = (c, here) ∧ here = true ∧ s.sled.seek = none) ∧
    (∃ (c : Channel) (d : DiscInfo) (us : Nat) (u : Nat) (f : Nat), u = (if isBd d.medium then 2 else 1) ∧ f = us + addressUs d c.hz ∧ c.flywheel =
      none) ∧
    (∃ (c : Channel) (d : DiscInfo) (us : Nat) (a : Nat) (u : Nat) (f : Nat) (p : Nat) (r : Nat), u = (if isBd d.medium then 2 else 1) ∧ f = us +
      addressUs d c.hz ∧ c.flywheel = some p ∧ r = runOn d c.hz us p c.flyAt ∧ a ≤ r + u ∧ r ≤ a + u) ∧
    (∃ (c : Channel) (d : DiscInfo) (us : Nat) (a : Nat) (u : Nat) (f : Nat) (p : Nat) (r : Nat), u = (if isBd d.medium then 2 else 1) ∧ f = us +
      addressUs d c.hz ∧ c.flywheel = some p ∧ r = runOn d c.hz us p c.flyAt ∧ (r + u < a ∨ a + u < r) ∧ c.far = none) ∧
    (∃ (c : Channel) (d : DiscInfo) (us : Nat) (a : Nat) (u : Nat) (f : Nat) (p : Nat) (r : Nat) (q : Nat) (g : Nat) (v : Nat), u = (if isBd
      d.medium then 2 else 1) ∧ f = us + addressUs d c.hz ∧ c.flywheel = some p ∧ r = runOn d c.hz us p c.flyAt ∧ (r + u < a ∨ a + u < r) ∧ c.far =
      some (q, g) ∧ v = runOn d c.hz us q g ∧ a ≤ v + u ∧ v ≤ a + u) ∧
    (∃ (c : Channel) (d : DiscInfo) (us : Nat) (a : Nat) (u : Nat) (f : Nat) (p : Nat) (r : Nat) (q : Nat) (g : Nat) (v : Nat), u = (if isBd
      d.medium then 2 else 1) ∧ f = us + addressUs d c.hz ∧ c.flywheel = some p ∧ r = runOn d c.hz us p c.flyAt ∧ (r + u < a ∨ a + u < r) ∧ c.far =
      some (q, g) ∧ v = runOn d c.hz us q g ∧ (v + u < a ∨ a + u < v)) ∧
    (∃ (d : DiscInfo) (hz : Nat), addressUs d hz = 0) ∧
    (∃ (d : DiscInfo) (hz : Nat), 0 < addressUs d hz) ∧
    (∃ (s : State) (a : AddressRead) (z : Nat) (m : Nat) (d : DiscInfo), s.disc = some d ∧ reading s = true ∧ readsFormat d a.format = true ∧
      a.checkOk = true ∧ (flywheelAfter (noteCarrier s.chan d a) d s.us a.lba).2 = true ∧ s.sled.seek = some (z, m) ∧ a.tracks = 0) ∧
    (∃ (s : State) (a : AddressRead) (z : Nat) (m : Nat) (d : DiscInfo), s.disc = some d ∧ reading s = true ∧ readsFormat d a.format = true ∧
      a.checkOk = true ∧ (flywheelAfter (noteCarrier s.chan d a) d s.us a.lba).2 = true ∧ s.sled.seek = some (z, m) ∧ a.tracks ≠ 0 ∧ a.tracks.natAbs
      ≤ 255) ∧
    (∃ (s : State) (a : AddressRead) (z : Nat) (m : Nat) (d : DiscInfo), s.disc = some d ∧ reading s = true ∧ readsFormat d a.format = true ∧
      a.checkOk = true ∧ (flywheelAfter (noteCarrier s.chan d a) d s.us a.lba).2 = true ∧ s.sled.seek = some (z, m) ∧ 255 < a.tracks.natAbs ∧ m <
      s.sled.inUse.seekTries) ∧
    (∃ (s : State) (a : AddressRead) (z : Nat) (m : Nat) (d : DiscInfo), s.disc = some d ∧ reading s = true ∧ readsFormat d a.format = true ∧
      a.checkOk = true ∧ (flywheelAfter (noteCarrier s.chan d a) d s.us a.lba).2 = true ∧ s.sled.seek = some (z, m) ∧ 255 < a.tracks.natAbs ∧
      s.sled.inUse.seekTries ≤ m) :=
  ⟨by refine ⟨{ W.live with disc := none }, ?_⟩ <;> decide +kernel,
   by refine ⟨{ W.live with disc := some W.disc }, ?_⟩ <;> decide +kernel,
   by refine ⟨{ W.live with servo.ldEn := true, servo.locked := true, chan.acq := .acquiring, chan.spaced := true, chan.passed := false }, _, [],
        rfl, ?_, ?_, ?_, ?_⟩ <;> decide +kernel,
   by refine ⟨W.live, _, [], rfl, ?_⟩ <;> decide +kernel,
   by refine ⟨{ W.live with disc := some W.disc, chan.acq := .tracking, chan.missed := (3) }, _, [], W.disc, rfl, ?_, ?_, ?_⟩ <;> decide +kernel,
   by refine ⟨{ W.live with disc := some W.disc }, _, [], W.disc, rfl, ?_, ?_⟩ <;> decide +kernel,
   by refine ⟨{ W.live with disc := none }, _, [], rfl, ?_⟩ <;> decide +kernel,
   by refine ⟨{ W.live with disc := none }, _, [], rfl, ?_⟩ <;> decide +kernel,
   by refine ⟨{ W.live with disc := some W.disc, chan.relock := some 1, chan.under := some 1, chan.acq := .acquiring, chan.pos := 0 }, _, [], 1, 1,
        W.disc, rfl, ?_, ?_, ?_, ?_, ?_⟩ <;> decide +kernel,
   by refine ⟨{ W.live with disc := some W.disc, chan.relock := some 1, chan.under := some 1, chan.acq := .acquiring, chan.pos := (1 + 2048) }, _,
        [], 1, 1, W.disc, rfl, ?_, ?_, ?_, ?_, ?_⟩ <;> decide +kernel,
   by refine ⟨{ W.live with chan.defect := true }, _, [], rfl, ?_⟩ <;> decide +kernel,
   by refine ⟨{ W.live with chan.defect := false, chan.front.dark := (16) }, _, [], rfl, ?_, ?_⟩ <;> decide +kernel,
   by refine ⟨{ W.live with chan.defect := false }, _, [], rfl, ?_⟩ <;> decide +kernel,
   by refine ⟨{ W.live with chan.inUse := some (W.live.chan.prof.get 0), chan.defect := true, chan.front.inRange := 32 }, _, [],
        (W.live.chan.prof.get 0), rfl, ?_, ?_, ?_⟩ <;> decide +kernel,
   by refine ⟨{ W.live with disc := none }, ({ format := .adip, checkOk := true, lba := 0, tracks := 0 } : AddressRead), W.disc, ?_⟩
        <;> decide +kernel,
   by refine ⟨{ W.live with disc := some W.disc, servo.ldEn := true, servo.locked := true, chan.flywheel := some 0 },
        { format := .adip, checkOk := true, lba := 1000, tracks := 0 }, W.disc, _, false, ?_, ?_, ?_, ?_, rfl, ?_⟩ <;> decide +kernel,
   by refine ⟨{ W.live with disc := some W.disc, servo.ldEn := true, servo.locked := true, sled.seek := none },
        { ({ format := .adip, checkOk := true, lba := 0, tracks := 0 } : AddressRead) with checkOk := true }, W.disc, _, _, ?_, ?_, ?_, ?_, W.eta2
        _, rfl, ?_⟩ <;> decide +kernel,
   by refine ⟨W.live.chan, W.disc, 0, _, _, rfl, rfl, ?_⟩ <;> decide +kernel,
   by refine ⟨{ W.live.chan with flywheel := some 0 }, W.disc, 0, 1, _, _, 0, _, rfl, rfl, ?_, rfl, ?_⟩ <;> decide +kernel,
   by refine ⟨{ W.live.chan with flywheel := some 0 }, W.disc, 0, 100, _, _, 0, _, rfl, rfl, ?_, rfl, ?_, ?_⟩ <;> decide +kernel,
   by refine ⟨{ W.live.chan with flywheel := some 0, far := some (100, 0) }, W.disc, 0, 101, _, _, 0, _, 100, 0, _, rfl, rfl, ?_, rfl, ?_, ?_, rfl,
        ?_⟩ <;> decide +kernel,
   by refine ⟨{ W.live.chan with flywheel := some 0, far := some (100, 0) }, W.disc, 0, 200, _, _, 0, _, 100, 0, _, rfl, rfl, ?_, rfl, ?_, ?_, rfl,
        ?_⟩ <;> decide +kernel,
   by refine ⟨W.disc, 0, ?_⟩ <;> decide +kernel,
   by refine ⟨W.disc, 1, ?_⟩ <;> decide +kernel,
   by refine ⟨{ W.live with disc := some W.disc, servo.ldEn := true, servo.locked := true, sled.seek := some (1, 1) },
        { ({ format := .adip, checkOk := true, lba := 0, tracks := 0 } : AddressRead) with checkOk := true, tracks := 0 }, 1, 1, W.disc, ?_, ?_, ?_,
        ?_, ?_, ?_, ?_⟩ <;> decide +kernel,
   by refine ⟨{ W.live with disc := some W.disc, servo.ldEn := true, servo.locked := true, sled.seek := some (1, 1) },
        { format := .adip, checkOk := true, lba := 0, tracks := 255 }, 1, 1, W.disc, ?_, ?_, ?_, ?_, ?_, ?_, ?_, ?_⟩ <;> decide +kernel,
   by refine ⟨{ W.live with disc := some W.disc, servo.ldEn := true, servo.locked := true, sled.seek := some (1, 1) },
        { format := .adip, checkOk := true, lba := 0, tracks := 256 }, 1, 1, W.disc, ?_, ?_, ?_, ?_, ?_, ?_, ?_, ?_⟩ <;> decide +kernel,
   by refine ⟨{ W.live with disc := some W.disc, servo.ldEn := true, servo.locked := true, sled.seek := some (1, 200) },
        { format := .adip, checkOk := true, lba := 0, tracks := 256 }, 1, 200, W.disc, ?_, ?_, ?_, ?_, ?_, ?_, ?_, ?_⟩ <;> decide +kernel⟩

/-- The hypotheses of ReadAheadServesEligibleStreams, clause by clause. -/
theorem wit_ReadAheadServesEligibleStreams :
    (∃ (s : State) (f : FoldId) (b : Nat) (d : DiscInfo), speculationOpen s = true ∧ bit s.plat.penCtl 0 = true ∧ nextReadAhead s = some (f, b) ∧
      s.disc = some d) ∧
    (∃ (s : State), (speculationOpen s = false ∨ bit s.plat.penCtl 0 = false ∨ nextReadAhead s = none)) ∧
    (∃ (s : State) (f : FoldId) (b : Nat), nextReadAhead s = some (f, b)) ∧
    (∃ (d : DiscInfo), isCd d.medium = false) ∧
    (∃ (d : DiscInfo), isCd d.medium = true) ∧
    (∃ (s : State) (f : FoldId) (b : Nat) (r : Nat) (d : DiscInfo), speculationOpen s = true ∧ bit s.plat.penCtl 0 = true ∧ bit s.plat.penCtl 1 =
      true ∧ maySeek s = true ∧ nextReadAhead s = some (f, b) ∧ s.disc = some d ∧ s.sled.radius = some r) ∧
    (∃ (s : State), (speculationOpen s = false ∨ bit s.plat.penCtl 0 = false ∨ bit s.plat.penCtl 1 = false ∨ maySeek s = false ∨ nextReadAhead s =
      none)) :=
  ⟨by refine ⟨({ W.live with servo.fok := true, sled.lost := false, sled.radius := some 30000, disc := some W.disc }.modFold 0 fun z_ =>
        { z_ with streams := [{ label := 1, next := 0, limit := 100, seq := true }] }), _, _, W.disc, ?_, ?_, rfl, ?_⟩ <;> decide +kernel,
   by refine ⟨W.live, ?_⟩ <;> decide +kernel,
   by refine ⟨({ W.live with disc := some W.disc, servo.fok := true, sled.lost := false, sled.radius := some 30000 }.modFold 0 fun z_ =>
        { z_ with streams := [{ label := 1, next := 0, limit := 100, seq := true }] }), _, _, rfl⟩,
   by refine ⟨W.disc, ?_⟩ <;> decide +kernel,
   by refine ⟨{ W.disc with medium := .cdRom }, ?_⟩ <;> decide +kernel,
   by refine ⟨({ W.live with servo.fok := true, sled.lost := false, sled.radius := some 1, disc := some W.disc }.modFold 0 fun z_ =>
        { z_ with streams := [{ label := 1, next := 0, limit := 100, seq := true }] }), _, _, 1, W.disc, ?_, ?_, ?_, ?_, rfl, ?_, ?_⟩
        <;> decide +kernel,
   by refine ⟨W.live, ?_⟩ <;> decide +kernel⟩

/-- The hypotheses of ReadingCommandsRunToTheirEnd, clause by clause. -/
theorem wit_ReadingCommandsRunToTheirEnd :
    (∃ (s : State) (f : FoldId) (k : Nat) (d : Desc) (j : Job), dispatchedAs s f k .read = some d ∧ s.job = some j ∧ j.memFail = none ∧ j.altered =
      [] ∧ d.pins = [] ∧ wantedUnits s d ≠ []) ∧
    (∃ (s : State) (f : FoldId) (k : Nat) (d : Desc) (j : Job), dispatchedAs s f k .readRaw = some d ∧ s.job = some j ∧ j.memFail = none ∧ j.altered
      = [] ∧ d.pins = [] ∧ wantedUnits s d ≠ []) ∧
    (∃ (s : State) (f : FoldId) (k : Nat) (d : Desc) (j : Job), dispatchedAs s f k .verify = some d ∧ s.job = some j ∧ j.memFail = none ∧
      wantedUnits s d ≠ []) ∧
    (∃ (s : State) (f : FoldId) (k : Nat) (d : Desc) (j : Job), dispatchedAs s f k .scan = some d ∧ s.job = some j ∧ j.memFail = none ∧ wantedUnits
      s d ≠ []) ∧
    (∃ (s : State) (u : State) (f : FoldId) (k : Nat) (d : Desc) (j : Job), dispatchedAs s f k .sealedRead = some d ∧ s.cph.disabled = false ∧
      LockFor s 9 f k u ∧ (s.slot (slotIndex f d.fld.keySlot)).st ≠ .empty ∧ s.job = some j ∧ j.memFail = none ∧ j.altered = [] ∧ d.pins = [] ∧
      wantedUnits s d ≠ []) ∧
    (∃ (s : State) (u : State) (v : State) (f : FoldId) (k : Nat) (d : Desc) (aad : List Byte) (aux : List Byte) (l : List Byte), sealRunning s f k
      .sealedRead = some d ∧ s.cph.disabled = false ∧ LockFor s f.val f k u ∧ (s.slot (slotIndex f d.fld.keySlot)).st ≠ .empty ∧ pinsGo f d
      d.fld.count 0 { u with cph := { u.cph with aad := fit d.fld.aadLen aad, auxIn := fit 32 aux } } = (v, l, none)) ∧
    (∃ (s : State) (t : State) (j : Job) (d : Desc), t = sendOut s ∧ jobDesc t = some (j, d) ∧ j.kind = .reading ∧ j.memFail = none ∧ verdict (d.op
      == .scan && bit d.fld.opfield 5) j.units = some true ∧ d.op ≠ .sealedRead) ∧
    (∃ (s : State) (t : State) (j : Job) (d : Desc), t = sendOut s ∧ jobDesc t = some (j, d) ∧ j.kind = .reading ∧ j.memFail = none ∧ verdict (d.op
      == .scan && bit d.fld.opfield 5) j.units = some true ∧ d.op = .sealedRead) ∧
    (∃ (s : State) (j : Job) (d : Desc), jobDesc s = some (j, d)) ∧
    (∃ (d : Desc), (d.op = .read ∨ d.op = .verify)) ∧
    (∃ (d : Desc), d.op = .scan) ∧
    (∃ (d : Desc), (d.op = .read ∨ d.op = .readRaw)) :=
  ⟨by refine ⟨(W.descs 0 [{ W.desc with k := 1, op := .read }] { W.live with disc := some W.disc, job := some W.job }), (0 : FoldId), 1,
        { W.desc with k := 1, op := .read }, W.job, ?_, ?_, ?_, ?_, ?_, ?_⟩ <;> decide +kernel,
   by refine ⟨(W.descs 0 [{ W.desc with k := 1, op := .readRaw }] { W.live with disc := some W.disc, job := some W.job }), (0 : FoldId), 1,
        { W.desc with k := 1, op := .readRaw }, W.job, ?_, ?_, ?_, ?_, ?_, ?_⟩ <;> decide +kernel,
   by refine ⟨(W.descs 0 [{ W.desc with k := 1, op := .verify }] { W.live with disc := some W.disc, job := some W.job }), (0 : FoldId), 1,
        { W.desc with k := 1, op := .verify }, W.job, ?_, ?_, ?_, ?_⟩ <;> decide +kernel,
   by refine ⟨(W.descs 0 [{ W.desc with k := 1, op := .scan }] { W.live with disc := some W.disc, job := some W.job }), (0 : FoldId), 1,
        { W.desc with k := 1, op := .scan }, W.job, ?_, ?_, ?_, ?_⟩ <;> decide +kernel,
   by refine ⟨(W.descs 0 [{ W.desc with k := 1, op := .sealedRead }] { W.late with disc := some W.disc, job := some W.job }), _, (0 : FoldId), 1,
        { W.desc with k := 1, op := .sealedRead }, W.job, ?_, ?_, (by exact .inr ⟨by decide +kernel, by decide +kernel, by decide +kernel, rfl⟩),
        ?_, ?_, ?_, ?_, ?_, ?_⟩ <;> decide +kernel,
   by refine ⟨(W.descs 0 [{ W.desc with k := 1, op := .sealedRead, fld := { W.fld with count := 0 } }] W.late), _, _, (0 : FoldId), 1,
        { W.desc with k := 1, op := .sealedRead, fld := { W.fld with count := 0 } }, [], [], _, ?_, ?_,
        (by exact .inr ⟨by decide +kernel, by decide +kernel, by decide +kernel, rfl⟩), ?_, rfl⟩ <;> decide +kernel,
   by refine ⟨(W.descs 0 [{ W.desc with k := 1, op := .read }]
        { W.late with job := some { W.job with kind := .reading, units := [{ first := 0, st := .good [] false }] } }), _,
        { W.job with kind := .reading, units := [{ first := 0, st := .good [] false }] }, { W.desc with k := 1, op := .read }, rfl, ?_, ?_, ?_, ?_,
        ?_⟩ <;> decide +kernel,
   by refine ⟨(W.descs 0 [{ W.desc with k := 1, op := .sealedRead }]
        { W.late with job := some { W.job with kind := .reading, units := [{ first := 0, st := .good [] false }] } }), _,
        { W.job with kind := .reading, units := [{ first := 0, st := .good [] false }] }, { W.desc with k := 1, op := .sealedRead }, rfl, ?_, ?_,
        ?_, ?_, ?_⟩ <;> decide +kernel,
   by refine ⟨(W.descs 0 [{ W.desc with k := 1 }] { W.live with job := some W.job }), W.job, { W.desc with k := 1 }, ?_⟩ <;> decide +kernel,
   by refine ⟨{ W.desc with op := .read }, ?_⟩ <;> decide +kernel,
   by refine ⟨{ W.desc with op := .scan }, ?_⟩ <;> decide +kernel,
   by refine ⟨{ W.desc with op := .read }, ?_⟩ <;> decide +kernel⟩

/-- The hypotheses of SealingAndKeyCommandsRunToTheirEnd, clause by clause. -/
theorem wit_SealingAndKeyCommandsRunToTheirEnd :
    (∃ (s : State) (u : State) (v : State) (f : FoldId) (k : Nat) (d : Desc) (i : Fin 17) (key : KeySlot) (aad : List Byte) (plain : List Byte)
      (cipher : List Byte) (tag : List Byte), sealRunning s f k .sealBuffer = some d ∧ s.cph.disabled = false ∧ LockFor s f.val f k u ∧ i =
      slotIndex f d.fld.keySlot ∧ s.slot i = key ∧ key.st = .loaded ∧ key.counter ≤ key.useLimit ∧ key.counter ≤ key.reservedTo ∧ gcmSeal key.key
      (nonceOf key.salt key.counter) (fit d.fld.aadLen aad) (fit d.fld.length plain) = (cipher, tag) ∧ memRun ((u.setSlot i
      { key with counter := key.counter + 1 }).modDesc f k fun e =>
      { e with counter := some key.counter, nonceOut := nonceOf key.salt key.counter, aux := sealAux (nonceOf key.salt key.counter) tag })
      (throughSet d (foldMask u f) engineMask ++ throughSet d engineMask (foldMask u f)) = (v, false)) ∧
    (∃ (s : State) (u : State) (v : State) (f : FoldId) (k : Nat) (d : Desc), sealRunning s f k .openBuffer = some d ∧ s.cph.disabled = false ∧
      LockFor s f.val f k u ∧ (s.slot (slotIndex f d.fld.keySlot)).st ≠ .empty ∧ memRun u (throughSet d (foldMask u f) engineMask) = (v, false)) ∧
    (∃ (s : State) (u : State) (v : State) (f : FoldId) (k : Nat) (d : Desc) (di : DiscInfo) (i : Fin 17) (key : KeySlot) (aad : List Byte) (plain :
      List Byte) (cipher : List Byte) (tag : List Byte), dispatchedAs s f k .sealedWrite = some d ∧ s.disc = some di ∧ writeRangeOk di (lbaOf d.fld)
      d.fld.count = true ∧ s.cph.disabled = false ∧ LockFor s 9 f k u ∧ i = slotIndex f d.fld.keySlot ∧ s.slot i = key ∧ key.st = .loaded ∧
      key.counter ≤ key.useLimit ∧ key.counter ≤ key.reservedTo ∧ gcmSeal key.key (nonceOf key.salt key.counter) (fit d.fld.aadLen aad) (fit (2048 *
      d.fld.count) plain) = (cipher, tag) ∧ memRun ((u.setSlot i { key with counter := key.counter + 1 }).modDesc f k fun e =>
      { e with counter := some key.counter, nonceOut := nonceOf key.salt key.counter ++ tag }) (setOps true engineMask d.bufs 0 (2048 *
      d.fld.count)) = (v, false)) ∧
    (∃ (s : State) (u : State) (f : FoldId) (k : Nat) (d : Desc) (i : Fin 17), sealRunning s f k .keyLoad = some d ∧ bit d.fld.opfield 2 = false ∧
      s.cph.disabled = false ∧ LockFor s f.val f k u ∧ i = slotIndex f d.fld.keySlot) ∧
    (∃ (s : State) (u : State) (f : FoldId) (k : Nat) (d : Desc) (i : Fin 17) (w : List Byte) (key : List Byte), sealRunning s f k .keyLoad = some d
      ∧ bit d.fld.opfield 2 = true ∧ s.cph.disabled = false ∧ LockFor s f.val f k u ∧ i = slotIndex f d.fld.keySlot ∧ (s.slot (slotIndex f
      (d.fld.keySlot + 1))).st ≠ .empty ∧ kwUnwrap (s.slot (slotIndex f (d.fld.keySlot + 1))).key (fit (keyBytes d.fld.opfield) w) = some key) ∧
    (∃ (s : State) (f : FoldId) (k : Nat) (i : Fin 17) (d : Desc) (w : BitVec 16) (o : BitVec 64) (salt : Word) (key : List Byte) (q : Prog), q.act
      = .keyLoad f k i.val ∧ q.payload = some (.slot (recordOfSlot i (loadedSlot w o salt key))) ∧ s.desc? f k = some d ∧ d.stage = .commit) ∧
    (∃ (s : State) (u : State) (f : FoldId) (k : Nat) (d : Desc) (i : Fin 17), sealRunning s f k .keyClear = some d ∧ LockFor s f.val f k u ∧ i =
      slotIndex f d.fld.keySlot ∧ (s.slot i).st ≠ .empty) ∧
    (∃ (s : State) (f : FoldId) (k : Nat) (n : Nat) (d : Desc) (q : Prog), q.act = .keyClear f k n ∧ s.desc? f k = some d ∧ d.stage = .commit) :=
  ⟨by refine ⟨(W.descs 0 [{ W.desc with k := 1, op := .sealBuffer }] W.late), _, _, (0 : FoldId), 1, { W.desc with k := 1, op := .sealBuffer }, _,
        { st := .loaded, key := List.replicate 16 0, useLimit := 100, reservedTo := 100 }, [], [], _, _, ?_, ?_,
        (by exact .inr ⟨by decide +kernel, by decide +kernel, by decide +kernel, rfl⟩), rfl, ?_, ?_, ?_, ?_, W.eta2 _, rfl⟩ <;> decide +kernel,
   by refine ⟨(W.descs 0 [{ W.desc with k := 1, op := .openBuffer }] W.late), _, _, (0 : FoldId), 1, { W.desc with k := 1, op := .openBuffer }, ?_,
        ?_, (by exact .inr ⟨by decide +kernel, by decide +kernel, by decide +kernel, rfl⟩), ?_, rfl⟩ <;> decide +kernel,
   by refine ⟨(W.descs 0 [{ W.desc with k := 1, op := .sealedWrite }] { W.late with job := some W.job, disc := some W.disc }), _, _, (0 : FoldId),
        1, { W.desc with k := 1, op := .sealedWrite }, W.disc, _, { st := .loaded, key := List.replicate 16 0, useLimit := 100, reservedTo := 100 },
        [], [], _, _, ?_, ?_, ?_, ?_, (by exact .inr ⟨by decide +kernel, by decide +kernel, by decide +kernel, rfl⟩), rfl, ?_, ?_, ?_, ?_, W.eta2 _,
        rfl⟩ <;> decide +kernel,
   by refine ⟨(W.descs 0 [{ W.desc with k := 1, op := .keyLoad }] W.late), _, (0 : FoldId), 1, { W.desc with k := 1, op := .keyLoad }, _, ?_, ?_,
        ?_, (by exact .inr ⟨by decide +kernel, by decide +kernel, by decide +kernel, rfl⟩), rfl⟩ <;> decide +kernel,
   by refine ⟨((W.descs 0 [{ W.desc with k := 1, op := .keyLoad, fld := { W.fld with opfield := 4 } }] W.late).setSlot (slotIndex (0 : FoldId)
        ({ W.desc with k := 1, op := .keyLoad, fld := { W.fld with opfield := 4 } }.fld.keySlot + 1)) { st := .loaded }), _, (0 : FoldId), 1,
        { W.desc with k := 1, op := .keyLoad, fld := { W.fld with opfield := 4 } }, _, (List.replicate 7 0xA6 ++ 0xAA :: List.replicate 16 0), _,
        ?_, ?_, ?_, (by exact .inr ⟨by decide +kernel, by decide +kernel, by decide +kernel, rfl⟩), rfl, ?_, rfl⟩ <;> decide +kernel,
   by refine ⟨(W.descs 0 [W.commits] W.live), (0 : FoldId), 1, (0 : Fin 17), W.commits, 0, 0, 0, [],
        { W.prog with act := .keyLoad 0 1 0, payload := some (.slot (recordOfSlot 0 (loadedSlot 0 0 0 []))) }, ?_, ?_, ?_, ?_⟩ <;> decide +kernel,
   by refine ⟨(W.descs 0 [{ W.desc with k := 1, op := .keyClear }] W.late), _, (0 : FoldId), 1, { W.desc with k := 1, op := .keyClear }, _, ?_,
        (by exact .inr ⟨by decide +kernel, by decide +kernel, by decide +kernel, rfl⟩), rfl, ?_⟩ <;> decide +kernel,
   by refine ⟨(W.descs 0 [W.commits] W.live), (0 : FoldId), 1, 1, W.commits, { W.prog with act := .keyClear 0 1 1 }, ?_, ?_, ?_⟩ <;> decide +kernel⟩

/-- The hypotheses of VaultCommandsAndCommittedRecordsRunToTheirEnd, clause by clause. -/
theorem wit_VaultCommandsAndCommittedRecordsRunToTheirEnd :
    (∃ (s u x : State) (f : FoldId) (k : Nat) (d : Desc) (key : List Byte) (v : List Byte) (r : Rec), sealRunning s f k .vaultGet = some d ∧
      s.cph.disabled = false ∧ LockFor s 8 f k u ∧ x = readVault u f (fit d.fld.count key) ∧ vaultFind x f (fit d.fld.count key) = some r ∧ vaultObject r = some (f, fit d.fld.count key, v) ∧
      r.unreadable = false ∧ vaultOpens f r = true ∧ v.length ≤ d.fld.length) ∧
    (∃ (s u x : State) (f : FoldId) (k : Nat) (d : Desc) (out : List Byte), sealRunning s f k .vaultList = some d ∧ s.cph.disabled = false ∧
      LockFor s 8 f k u ∧ d.fld.auxPtr ≠ 0 ∧ x = readVaultAll u f ∧ out = ((vaultSorted x f).take (d.fld.length / 36)).flatMap (fun o => leBytes 1 o.1.length ++ leBytes 2
      o.2.length ++ [0] ++ fit 32 o.1)) ∧
    (∃ (s u x v : State) (f : FoldId) (k : Nat) (c : Nat) (i : Nat) (d : Desc) (key : List Byte) (value : List Byte), sealRunning
      s f k .vaultPut = some d ∧ s.cph.disabled = false ∧ LockFor s 8 f k u ∧ x = readVault u f (fit d.fld.count key) ∧
      vaultSame x f (fit d.fld.count key) (fit d.fld.length value) = false ∧
      overVaultQuota x f (fit d.fld.count key) (fit d.fld.length value) = false ∧ counterCheck (x.slot 16) = .value c ∧ vaultIdFor (releaseLock
      (takeCounter x 16)) f (fit d.fld.count key) = (i, v)) ∧
    (∃ (s : State) (f : FoldId) (k : Nat) (i : Nat) (d : Desc) (key : List Byte), sealRunning s f k .vaultDelete = some d ∧ s.cph.disabled = false ∧
      vaultId s f (fit d.fld.count key) = some i) ∧
    (∃ (s : State) (f : FoldId) (k : Nat) (d : Desc) (q : Prog), s.desc? f k = some d ∧ d.stage = .commit ∧ q.act = .vaultPut f k) ∧
    (∃ (s : State) (f : FoldId) (k : Nat) (d : Desc) (q : Prog), s.desc? f k = some d ∧ d.stage = .commit ∧ q.act = .vaultDelete f k) ∧
    (∃ (s : State) (k : Nat) (d : Desc) (q : Prog) (x : Tariff), s.desc? 0 k = some d ∧ d.stage = .commit ∧ q.act = .tariff k ∧ q.payload = some
      (.schedule x)) ∧
    (∃ (s : State) (k : Nat) (d : Desc) (q : Prog) (c : CalRecord), s.desc? 0 k = some d ∧ d.stage = .commit ∧ q.act = .calibrate k ∧ q.payload =
      some (.calibration c)) ∧
    (∃ (s : State) (k : Nat) (d : Desc) (q : Prog) (b : BootRecord) (off : Nat) (im : List Byte), s.desc? 0 k = some d ∧ d.stage = .commit ∧ q.act =
      .bootDownload k off im ∧ q.payload = some (.boot b)) ∧
    (∃ (s : State) (k : Nat) (d : Desc) (q : Prog) (b : BootRecord), s.desc? 0 k = some d ∧ d.stage = .commit ∧ q.act = .bootTry k ∧ q.payload =
      some (.boot b)) ∧
    (∃ (s : State) (k : Nat) (d : Desc) (q : Prog) (b : BootRecord), s.desc? 0 k = some d ∧ d.stage = .commit ∧ q.act = .bootConfirm k ∧ q.payload =
      some (.boot b)) :=
  ⟨by refine ⟨(W.descs 0 [{ W.desc with k := 1, op := .vaultGet, fld := { W.fld with count := 1 } }] { W.live with mram.recs := [W.vaulted] }), _, _,
        (0 : FoldId), 1, { W.desc with k := 1, op := .vaultGet, fld := { W.fld with count := 1 } }, [7], [9], W.vaulted, ?_, ?_,
        (by exact .inr ⟨by decide +kernel, by decide +kernel, by decide +kernel, rfl⟩), rfl, ?_, ?_, ?_, ?_, ?_⟩ <;> decide +kernel,
   by refine ⟨(W.descs 0 [{ W.desc with k := 1, op := .vaultList }] W.live), _, _, (0 : FoldId), 1, { W.desc with k := 1, op := .vaultList }, _,
        ?_, ?_, (by exact .inr ⟨by decide +kernel, by decide +kernel, by decide +kernel, rfl⟩), ?_, rfl, rfl⟩ <;> decide +kernel,
   by refine ⟨(W.descs 0 [{ W.desc with k := 1, op := .vaultPut }] W.live), _, _, _, (0 : FoldId), 1, 1, _, { W.desc with k := 1, op := .vaultPut },
        (W.bytes []), (W.bytes []), ?_, ?_, (by exact .inr ⟨by decide +kernel, by decide +kernel, by decide +kernel, rfl⟩), rfl, ?_, ?_, ?_, rfl⟩
        <;> decide +kernel,
   by refine ⟨(W.descs 0 [{ W.desc with k := 1, op := .vaultDelete, fld := { W.fld with count := 1 } }] { W.live with mram.recs := [W.vaulted] }),
        (0 : FoldId), 1, 0, { W.desc with k := 1, op := .vaultDelete, fld := { W.fld with count := 1 } }, [7], ?_, ?_, ?_⟩ <;> decide +kernel,
   by refine ⟨(W.descs 0 [W.commits] W.live), (0 : FoldId), 1, W.commits, { W.prog with act := .vaultPut 0 1 }, ?_, ?_, ?_⟩ <;> decide +kernel,
   by refine ⟨(W.descs 0 [W.commits] W.live), (0 : FoldId), 1, W.commits, { W.prog with act := .vaultDelete 0 1 }, ?_, ?_, ?_⟩ <;> decide +kernel,
   by refine ⟨(W.descs 0 [W.commits] W.live), 1, W.commits, { W.prog with act := .tariff 1, payload := some (.schedule {}) }, {}, ?_, ?_, ?_, ?_⟩
        <;> decide +kernel,
   by refine ⟨(W.descs 0 [W.commits] W.live), 1, W.commits, { W.prog with act := .calibrate 1, payload := some (.calibration {}) }, {}, ?_, ?_, ?_,
        ?_⟩ <;> decide +kernel,
   by refine ⟨(W.descs 0 [W.commits] W.live), 1, W.commits, { W.prog with act := .bootDownload 1 0 [], payload := some (.boot {}) }, {}, 0, [], ?_,
        ?_, ?_, ?_⟩ <;> decide +kernel,
   by refine ⟨(W.descs 0 [W.commits] W.live), 1, W.commits, { W.prog with act := .bootTry 1, payload := some (.boot {}) }, {}, ?_, ?_, ?_, ?_⟩
        <;> decide +kernel,
   by refine ⟨(W.descs 0 [W.commits] W.live), 1, W.commits, { W.prog with act := .bootConfirm 1, payload := some (.boot {}) }, {}, ?_, ?_, ?_, ?_⟩
        <;> decide +kernel⟩

/-- The hypotheses of ServoAndMotionProfilesComplete, clause by clause. -/
theorem wit_ServoAndMotionProfilesComplete :
    (∃ (s : State) (k : Nat) (d : Desc) (r : List Byte) (q : List Byte), runningAs s 0 k .profileLoad = some d ∧ q = fit 16 r ∧ bits d.fld.opfield 7
      0 = 0x10 ∧ byteAt q 0 ≤ 2 ∧ zeroBytes q 1 15 = true ∧ (s.disc = none ∨ s.sys.mode = .service ∧ s.spindle.st = .stopped)) ∧
    (∃ (s : State) (k : Nat) (d : Desc) (r : List Byte) (q : List Byte), runningAs s 0 k .profileLoad = some d ∧ q = fit 160 r ∧ bits d.fld.opfield
      7 0 = 0x11 ∧ bankOk q = true ∧ swapPending s (byteAt q 0) = false ∧ bankInUse s q = false) ∧
    (∃ (s : State) (k : Nat) (d : Desc) (r : List Byte) (q : List Byte), runningAs s 0 k .profileLoad = some d ∧ q = fit 16 r ∧ bits d.fld.opfield 7
      0 = 0x12 ∧ swapOk s q = true ∧ s.servo.swap = none ∧ s.servo.swapped = none) ∧
    (∃ (s : State) (k : Nat) (d : Desc) (r : List Byte) (q : List Byte) (i : Fin 3), runningAs s 0 k .profileLoad = some d ∧ q = fit 64 r ∧ bits
      d.fld.opfield 7 0 = 0x13 ∧ i.val = byteAt q 0 ∧ signalOk q = true) ∧
    (∃ (s : State) (k : Nat) (d : Desc) (r : List Byte) (q : List Byte) (i : Fin 3), runningAs s 0 k .profileLoad = some d ∧ q = fit 64 r ∧ bits
      d.fld.opfield 7 0 = 0x14 ∧ i.val = byteAt q 0 ∧ sequenceOk q = true) ∧
    (∃ (s : State) (k : Nat) (d : Desc) (r : List Byte), runningAs s 0 k .profileLoad = some d ∧ bits d.fld.opfield 7 0 = 0x15 ∧ zeroBytes (fit 16
      r) 0 15 = true) ∧
    (∃ (s : State) (k : Nat) (d : Desc) (r : List Byte) (q : List Byte), runningAs s 0 k .profileLoad = some d ∧ q = fit 16 r ∧ bits d.fld.opfield 7
      0 = 0x16 ∧ le16 q 0 ≤ 511 ∧ le16 q 2 ≤ 1023 ∧ zeroBytes q 4 15 = true) ∧
    (∃ (s : State) (k : Nat) (d : Desc) (r : List Byte) (q : List Byte), runningAs s 0 k .profileLoad = some d ∧ q = fit 32 r ∧ bits d.fld.opfield 7
      0 = 0x20 ∧ spindleOk q = true) ∧
    (∃ (s : State) (k : Nat) (d : Desc) (r : List Byte) (q : List Byte), runningAs s 0 k .profileLoad = some d ∧ q = fit 48 r ∧ bits d.fld.opfield 7
      0 = 0x21 ∧ sledOk q = true) ∧
    (∃ (s : State) (k : Nat) (d : Desc) (r : List Byte), runningAs s 0 k .profileLoad = some d ∧ bits d.fld.opfield 7 0 = 0x22 ∧ (∀ v ∈ tableAt (fit
      512 r), v < 1024) ∧ s.sled.shadow = none ∧ s.sled.move = .rest) ∧
    (∃ (s : State) (k : Nat) (d : Desc) (r : List Byte) (q : List Byte), runningAs s 0 k .profileLoad = some d ∧ q = fit 16 r ∧ bits d.fld.opfield 7
      0 = 0x23 ∧ byteAt q 0 ≤ 1 ∧ byteAt q 1 ≤ 1 ∧ 20 ≤ le16 q 2 ∧ le16 q 2 ≤ 100 ∧ 100 ≤ le16 q 4 ∧ le16 q 4 ≤ 800 ∧ 500 ≤ le16 q 6 ∧ le16 q 6 ≤
      5000 ∧ 10 ≤ le16 q 8 ∧ le16 q 8 ≤ 200 ∧ zeroBytes q 10 15 = true) ∧
    (∃ (s : State) (k : Nat) (d : Desc) (r : List Byte), runningAs s 0 k .profileLoad = some d ∧ bits d.fld.opfield 7 0 = 0x24 ∧ zeroBytes (fit 16
      r) 0 15 = true ∧ s.sled.shadow = none ∧ s.sled.move = .rest) :=
  ⟨by refine ⟨(W.profiled 0x10), 1, (W.profile 0x10), (W.bytes []), _, ?_, rfl, ?_, ?_, ?_, ?_⟩ <;> decide +kernel,
   by refine ⟨(W.profiled 0x11), 1, (W.profile 0x11), (W.bytes [(1, 1)]), _, ?_, rfl, ?_, ?_, ?_, ?_⟩ <;> decide +kernel,
   by refine ⟨(W.profiled 0x12), 1, (W.profile 0x12), (W.bytes [(0, 1)]), _, ?_, rfl, ?_, ?_, ?_, ?_⟩ <;> decide +kernel,
   by refine ⟨(W.profiled 0x13), 1, (W.profile 0x13), (W.bytes [(6, 0x10)]), _, (0 : Fin 3), ?_, rfl, ?_, ?_, ?_⟩ <;> decide +kernel,
   by refine ⟨(W.profiled 0x14), 1, (W.profile 0x14), (W.bytes [(2, 100), (4, 20), (6, 1), (14, 50), (16, 10), (20, 1), (24, 50), (28, 100)]), _, (0
        : Fin 3), ?_, rfl, ?_, ?_, ?_⟩ <;> decide +kernel,
   by refine ⟨(W.profiled 0x15), 1, (W.profile 0x15), (W.bytes []), ?_, ?_, ?_⟩ <;> decide +kernel,
   by refine ⟨(W.profiled 0x16), 1, (W.profile 0x16), (W.bytes []), _, ?_, rfl, ?_, ?_, ?_, ?_⟩ <;> decide +kernel,
   by refine ⟨(W.profiled 0x20), 1, (W.profile 0x20), (W.bytes [(0, 1), (3, 5), (4, 200), (6, 0xE8), (7, 3), (8, 0xF4), (9, 1), (10, 10), (12, 100),
        (14, 2), (16, 1), (18, 100), (20, 1), (22, 100)]), _, ?_, rfl, ?_, ?_⟩ <;> decide +kernel,
   by refine ⟨(W.profiled 0x21), 1, (W.profile 0x21), (W.bytes [(2, 100), (4, 0xE8), (5, 3), (8, 0xA0), (9, 0x86), (10, 1), (12, 50), (16, 10), (18,
        10), (20, 50), (22, 100), (30, 1)]), _, ?_, rfl, ?_, ?_⟩ <;> decide +kernel,
   by refine ⟨(W.profiled 0x22), 1, (W.profile 0x22), [], ?_, ?_, W.tableAt_zeros, ?_, ?_⟩ <;> decide +kernel,
   by refine ⟨(W.profiled 0x23), 1, (W.profile 0x23), (W.bytes [(2, 20), (4, 100), (6, 0xF4), (7, 1), (8, 10)]), _, ?_, rfl, ?_, ?_, ?_, ?_, ?_, ?_,
        ?_, ?_, ?_, ?_, ?_, ?_⟩ <;> decide +kernel,
   by refine ⟨(W.profiled 0x24), 1, (W.profile 0x24), (W.bytes []), ?_, ?_, ?_, ?_, ?_⟩ <;> decide +kernel⟩

/-- The hypotheses of ChannelRecordingAndCaptureProfilesComplete, clause by clause. -/
theorem wit_ChannelRecordingAndCaptureProfilesComplete :
    (∃ (s : State) (k : Nat) (d : Desc) (r : List Byte) (q : List Byte) (i : Fin 4), runningAs s 0 k .profileLoad = some d ∧ q = fit 64 r ∧ bits
      d.fld.opfield 7 0 = 0x30 ∧ i.val = byteAt q 0 ∧ channelOk q = true) ∧
    (∃ (s : State) (k : Nat) (d : Desc) (r : List Byte) (q : List Byte) (i : Fin 4), runningAs s 0 k .profileLoad = some d ∧ q = fit 16 r ∧ bits
      d.fld.opfield 7 0 = 0x31 ∧ i.val = byteAt q 0 ∧ byteAt q 1 ≤ 2 ∧ byteAt q 2 ≤ 7 ∧ tapsOk (tapsAt q 3) = true ∧ zeroBytes q 8 15 = true) ∧
    (∃ (s : State) (k : Nat) (d : Desc) (r : List Byte) (q : List Byte) (i : Fin 4), runningAs s 0 k .profileLoad = some d ∧ q = fit 16 r ∧ bits
      d.fld.opfield 7 0 = 0x32 ∧ i.val = byteAt q 0 ∧ zeroBytes q 1 15 = true) ∧
    (∃ (s : State) (k : Nat) (d : Desc) (r : List Byte) (q : List Byte) (o : List Strategy), runningAs s 0 k .profileLoad = some d ∧ q = fit 1088 r
      ∧ bits d.fld.opfield 7 0 = 0x40 ∧ wstratOk q = true ∧ o = s.recd.strategies.filter (fun x => !(x.medium == byteAt q 0 && x.layer == byteAt q 1
      && x.class_ == byteAt q 2 && x.mid == BitVec.ofNat 64 (le64 q 4))) ∧ o.length < 48) ∧
    (∃ (s : State) (k : Nat) (d : Desc) (r : List Byte) (q : List Byte), runningAs s 0 k .profileLoad = some d ∧ q = fit 16 r ∧ bits d.fld.opfield 7
      0 = 0x41 ∧ byteAt q 0 ∈ [0x02, 0x03, 0x11, 0x12, 0x13, 0x14, 0x21, 0x22] ∧ zeroBytes q 1 15 = true) ∧
    (∃ (s : State) (k : Nat) (d : Desc) (r : List Byte) (q : List Byte), runningAs s 0 k .profileLoad = some d ∧ q = fit 16 r ∧ bits d.fld.opfield 7
      0 = 0x42 ∧ isRecording s = false ∧ 2 ≤ byteAt q 0 ∧ byteAt q 0 ≤ 24 ∧ byteAt q 1 ≤ 1 ∧ 25 ≤ byteAt q 2 ∧ byteAt q 2 ≤ 100 ∧ zeroBytes q 3 15 =
      true) ∧
    (∃ (s : State) (k : Nat) (d : Desc) (r : List Byte) (q : List Byte), runningAs s 0 k .profileLoad = some d ∧ q = fit 16 r ∧ bits d.fld.opfield 7
      0 = 0x43 ∧ byteAt q 0 ≤ 4 ∧ byteAt q 1 ≤ 3 ∧ 1 ≤ le16 q 2 ∧ le16 q 2 ≤ 256 ∧ zeroBytes q 4 15 = true) :=
  ⟨by refine ⟨(W.profiled 0x30), 1, (W.profile 0x30), (W.bytes [(0, 2), (1, 1), (2, 2), (3, 2), (4, 1), (6, 12), (7, 8), (8, 8), (9, 10), (12, 100),
        (14, 5), (31, 0x20)]), _, (2 : Fin 4), ?_, rfl, ?_, ?_, ?_⟩ <;> decide +kernel,
   by refine ⟨(W.profiled 0x31), 1, (W.profile 0x31), (W.bytes []), _, (0 : Fin 4), ?_, rfl, ?_, ?_, ?_, ?_, ?_, ?_⟩ <;> decide +kernel,
   by refine ⟨(W.profiled 0x32), 1, (W.profile 0x32), (W.bytes []), _, (0 : Fin 4), ?_, rfl, ?_, ?_, ?_⟩ <;> decide +kernel,
   by refine ⟨(W.profiled 0x40), 1, (W.profile 0x40), W.strat, _, _, ?_, rfl, ?_, W.strat_ok, rfl, ?_⟩ <;> decide +kernel,
   by refine ⟨(W.profiled 0x41), 1, (W.profile 0x41), (W.bytes [(0, 2)]), _, ?_, rfl, ?_, ?_, ?_⟩ <;> decide +kernel,
   by refine ⟨(W.profiled 0x42), 1, (W.profile 0x42), (W.bytes [(0, 2), (2, 25)]), _, ?_, rfl, ?_, ?_, ?_, ?_, ?_, ?_, ?_, ?_⟩ <;> decide +kernel,
   by refine ⟨(W.profiled 0x43), 1, (W.profile 0x43), (W.bytes [(2, 1)]), _, ?_, rfl, ?_, ?_, ?_, ?_, ?_, ?_⟩ <;> decide +kernel⟩

/-- The hypotheses of NativeCommandBlocksComplete, clause by clause. -/
theorem wit_NativeCommandBlocksComplete :
    (∃ (s : State) (f : FoldId) (k : Nat) (cdb : List Byte) (c : List Byte) (d : Desc) (x : Fields), x =
      { d.fld with address := be32 c 2, count := be16 c 7, opfield := d.fld.opfield &&& 0x1F, opdata := 0 } ∧ MmcReads s f k cdb 0x28 d c ∧ be16 c 7
      ≠ 0 ∧ NativeOk s f .read x) ∧
    (∃ (s : State) (f : FoldId) (k : Nat) (cdb : List Byte) (c : List Byte) (d : Desc) (x : Fields), x =
      { d.fld with address := be32 c 2, count := be32 c 6, opfield := d.fld.opfield &&& 0x1F, opdata := 0 } ∧ MmcReads s f k cdb 0xA8 d c ∧ be32 c 6
      ≠ 0 ∧ NativeOk s f .read x) ∧
    (∃ (s : State) (f : FoldId) (k : Nat) (cdb : List Byte) (c : List Byte) (d : Desc) (x : Fields), x =
      { d.fld with address := be32 c 2, count := be16 c 7, opfield := 0, opdata := 0 } ∧ MmcReads s f k cdb 0x2A d c ∧ be16 c 7 ≠ 0 ∧ NativeOk s f
      .write x) ∧
    (∃ (s : State) (f : FoldId) (k : Nat) (cdb : List Byte) (c : List Byte) (d : Desc) (x : Fields), x =
      { d.fld with address := be32 c 2, count := be32 c 6, opfield := 0, opdata := 0 } ∧ MmcReads s f k cdb 0xAA d c ∧ be32 c 6 ≠ 0 ∧ NativeOk s f
      .write x) ∧
    (∃ (s : State) (f : FoldId) (k : Nat) (cdb : List Byte) (c : List Byte) (d : Desc) (x : Fields), x =
      { d.fld with address := be32 c 2, count := be16 c 7, opfield := d.fld.opfield &&& 0x1F, opdata := 0 } ∧ MmcReads s f k cdb 0x2F d c ∧ be16 c 7
      ≠ 0 ∧ NativeOk s f .verify x) ∧
    (∃ (s : State) (f : FoldId) (k : Nat) (cdb : List Byte) (c : List Byte) (d : Desc) (x : Fields), x =
      { d.fld with address := be32 c 2, count := be24 c 6, opfield := BitVec.ofNat 16 (byteAt c 9 / 2 % 4 + 2 * (byteAt c 10 % 8)), opdata := BitVec.ofNat 64 (bits d.fld.opfield 3 0) }
      ∧ MmcReads s f k cdb 0xBE d c ∧ be24 c 6 ≠ 0 ∧ readCdOk c = true ∧ NativeOk s f .readRaw x) ∧
    (∃ (s : State) (f : FoldId) (k : Nat) (cdb : List Byte) (c : List Byte) (d : Desc) (x : Fields) (p : List Byte), x =
      { d.fld with opfield := BitVec.ofNat 16 ((Config.openWord 30 s.draws).toNat % 3) } ∧ MmcReads s f k cdb 0x04 d c ∧ (byteAt p 8 / 4 = 0x00 ∨
      byteAt p 8 / 4 = 0x30) ∧ NativeOk s f .format x) ∧
    (∃ (s : State) (f : FoldId) (k : Nat) (cdb : List Byte) (c : List Byte) (d : Desc) (x : Fields), x =
      { d.fld with opfield := if cdbBit c 4 0 then 0 else 1 } ∧ MmcReads s f k cdb 0x1B d c ∧ cdbBit c 4 1 = true ∧ NativeOk s f .loadEject x) ∧
    (∃ (s : State) (f : FoldId) (k : Nat) (cdb : List Byte) (c : List Byte) (d : Desc) (x : Fields), x =
      { d.fld with opfield := BitVec.ofNat 16 ((Config.openWord 31 s.draws).toNat % 256) } ∧ MmcReads s f k cdb 0x1B d c ∧ cdbBit c 4 1 = false ∧
      NativeOk s f .spin x) ∧
    (∃ (s : State) (f : FoldId) (k : Nat) (cdb : List Byte) (c : List Byte) (d : Desc) (x : Fields), x =
      { d.fld with opfield := BitVec.ofNat 16 (if be16 c 2 = 0xFFFF then 0xFF else (Config.openWord 32 s.draws).toNat % 256) } ∧ MmcReads s f k cdb
      0xBB d c ∧ NativeOk s f .spin x) ∧
    (∃ (s : State) (f : FoldId) (k : Nat) (cdb : List Byte) (c : List Byte) (d : Desc) (x : Fields), x =
      { d.fld with opfield := if cdbBit c 4 0 then 1 else 0 } ∧ MmcReads s f k cdb 0x1E d c ∧ NativeOk s f .lockMedium x) ∧
    (∃ (s : State) (f : FoldId) (k : Nat) (cdb : List Byte) (c : List Byte) (d : Desc) (x : Fields), x =
      { d.fld with opfield := 0, opdata := BitVec.ofNat 64 (be32 c 5) } ∧ MmcReads s f k cdb 0x53 d c ∧ NativeOk s f .reserveTrack x) ∧
    (∃ (s : State) (f : FoldId) (k : Nat) (cdb : List Byte) (c : List Byte) (d : Desc) (x : Fields) (n : Nat), n = byteAt c 2 % 8 ∧ x =
      { d.fld with opfield := if n = 1 then 0 else if n = 2 then 1 else 2, address := be16 c 4 } ∧ MmcReads s f k cdb 0x5B d c ∧ n ∈ [1, 2, 5, 6] ∧
      NativeOk s f .close x) :=
  ⟨by refine ⟨W.passed, (0 : FoldId), 2, (W.bytes [(0, 0x28), (8, 1)]), (W.block [(0, 0x28), (8, 1)]), W.mmc, _, rfl, ⟨by decide +kernel,
        by decide +kernel, by decide +kernel, by decide +kernel, by decide +kernel, by decide +kernel⟩, ?_,
        (by exact ⟨by decide +kernel, by decide +kernel, by intro n h; cases h; decide +kernel⟩)⟩ <;> decide +kernel,
   by refine ⟨W.passed, (0 : FoldId), 2, (W.bytes [(0, 0xA8), (9, 1)]), (W.block [(0, 0xA8), (9, 1)]), W.mmc, _, rfl, ⟨by decide +kernel,
        by decide +kernel, by decide +kernel, by decide +kernel, by decide +kernel, by decide +kernel⟩, ?_,
        (by exact ⟨by decide +kernel, by decide +kernel, by intro n h; cases h; decide +kernel⟩)⟩ <;> decide +kernel,
   by refine ⟨W.passed, (0 : FoldId), 2, (W.bytes [(0, 0x2A), (8, 1)]), (W.block [(0, 0x2A), (8, 1)]), W.mmc, _, rfl, ⟨by decide +kernel,
        by decide +kernel, by decide +kernel, by decide +kernel, by decide +kernel, by decide +kernel⟩, ?_,
        (by exact ⟨by decide +kernel, by decide +kernel, by intro n h; cases h; decide +kernel⟩)⟩ <;> decide +kernel,
   by refine ⟨W.passed, (0 : FoldId), 2, (W.bytes [(0, 0xAA), (9, 1)]), (W.block [(0, 0xAA), (9, 1)]), W.mmc, _, rfl, ⟨by decide +kernel,
        by decide +kernel, by decide +kernel, by decide +kernel, by decide +kernel, by decide +kernel⟩, ?_,
        (by exact ⟨by decide +kernel, by decide +kernel, by intro n h; cases h; decide +kernel⟩)⟩ <;> decide +kernel,
   by refine ⟨W.passed, (0 : FoldId), 2, (W.bytes [(0, 0x2F), (8, 1)]), (W.block [(0, 0x2F), (8, 1)]), W.mmc, _, rfl, ⟨by decide +kernel,
        by decide +kernel, by decide +kernel, by decide +kernel, by decide +kernel, by decide +kernel⟩, ?_,
        (by exact ⟨by decide +kernel, by decide +kernel, by intro n h; cases h; decide +kernel⟩)⟩ <;> decide +kernel,
   by refine ⟨W.passed, (0 : FoldId), 2, (W.bytes [(0, 0xBE), (8, 1), (9, 0xF8)]), (W.block [(0, 0xBE), (8, 1), (9, 0xF8)]), W.mmc, _, rfl,
        ⟨by decide +kernel, by decide +kernel, by decide +kernel, by decide +kernel, by decide +kernel, by decide +kernel⟩, ?_, ?_,
        (by exact ⟨by decide +kernel, by decide +kernel, by intro n h; cases h⟩)⟩ <;> decide +kernel,
   by refine ⟨W.passed, (0 : FoldId), 2, (W.bytes [(0, 0x04)]), (W.block [(0, 0x04)]), W.mmc, _, (W.bytes []), rfl, ⟨by decide +kernel,
        by decide +kernel, by decide +kernel, by decide +kernel, by decide +kernel, by decide +kernel⟩, ?_,
        (by exact ⟨by decide +kernel, W.format_ok _, by intro n h; cases h; decide +kernel⟩)⟩ <;> decide +kernel,
   by refine ⟨W.passed, (0 : FoldId), 2, (W.bytes [(0, 0x1B), (4, 2)]), (W.block [(0, 0x1B), (4, 2)]), W.mmc, _, rfl, ⟨by decide +kernel,
        by decide +kernel, by decide +kernel, by decide +kernel, by decide +kernel, by decide +kernel⟩, ?_,
        (by exact ⟨by decide +kernel, by decide +kernel, by intro n h; cases h; decide +kernel⟩)⟩ <;> decide +kernel,
   by refine ⟨W.passed, (0 : FoldId), 2, (W.bytes [(0, 0x1B)]), (W.block [(0, 0x1B)]), W.mmc, _, rfl, ⟨by decide +kernel, by decide +kernel,
        by decide +kernel, by decide +kernel, by decide +kernel, by decide +kernel⟩, ?_,
        (by exact ⟨by decide +kernel, by decide +kernel, by intro n h; cases h; decide +kernel⟩)⟩ <;> decide +kernel,
   by refine ⟨W.passed, (0 : FoldId), 2, (W.bytes [(0, 0xBB)]), (W.block [(0, 0xBB)]), W.mmc, _, rfl, ⟨by decide +kernel, by decide +kernel,
        by decide +kernel, by decide +kernel, by decide +kernel, by decide +kernel⟩,
        (by exact ⟨by decide +kernel, by decide +kernel, by intro n h; cases h; decide +kernel⟩)⟩,
   by refine ⟨W.passed, (0 : FoldId), 2, (W.bytes [(0, 0x1E)]), (W.block [(0, 0x1E)]), W.mmc, _, rfl, ⟨by decide +kernel, by decide +kernel,
        by decide +kernel, by decide +kernel, by decide +kernel, by decide +kernel⟩,
        (by exact ⟨by decide +kernel, by decide +kernel, by intro n h; cases h; decide +kernel⟩)⟩,
   by refine ⟨W.passed, (0 : FoldId), 2, (W.bytes [(0, 0x53), (8, 1)]), (W.block [(0, 0x53), (8, 1)]), W.mmc, _, rfl, ⟨by decide +kernel,
        by decide +kernel, by decide +kernel, by decide +kernel, by decide +kernel, by decide +kernel⟩,
        (by exact ⟨by decide +kernel, by decide +kernel, by intro n h; cases h; decide +kernel⟩)⟩,
   by refine ⟨W.passed, (0 : FoldId), 2, (W.bytes [(0, 0x5B), (2, 1)]), (W.block [(0, 0x5B), (2, 1)]), W.mmc, _, _, rfl, rfl, ⟨by decide +kernel,
        by decide +kernel, by decide +kernel, by decide +kernel, by decide +kernel, by decide +kernel⟩, ?_,
        (by exact ⟨by decide +kernel, by decide +kernel, by intro n h; cases h; decide +kernel⟩)⟩ <;> decide +kernel⟩

/-- The hypotheses of AnsweredCommandBlocksComplete, clause by clause. -/
theorem wit_AnsweredCommandBlocksComplete :
    (∃ (s : State) (f : FoldId) (k : Nat) (cdb : List Byte) (c : List Byte) (d : Desc), mmcMayStart s f d = true ∧ MmcReads s f k cdb 0x00 d c ∧
      s.disc ≠ none) ∧
    (∃ (s : State) (f : FoldId) (k : Nat) (cdb : List Byte) (c : List Byte) (d : Desc), mmcMayStart s f d = true ∧ MmcReads s f k cdb 0x35 d c ∧ (∀
      e ∈ (s.fold f).descs, e.k < k → e.op ≠ .write ∧ e.op ≠ .sealedWrite ∧ e.op ≠ .mmcPass)) ∧
    (∃ (s : State) (f : FoldId) (k : Nat) (cdb : List Byte) (c : List Byte) (d : Desc), mmcMayStart s f d = true ∧ MmcReads s f k cdb 0x03 d c ∧
      byteAt c 4 ≤ d.fld.length) ∧
    (∃ (s : State) (f : FoldId) (k : Nat) (cdb : List Byte) (c : List Byte) (d : Desc), mmcMayStart s f d = true ∧ MmcReads s f k cdb 0x12 d c ∧
      cdbBit c 1 0 = false ∧ be16 c 3 ≤ d.fld.length) ∧
    (∃ (s : State) (f : FoldId) (k : Nat) (cdb : List Byte) (c : List Byte) (d : Desc), mmcMayStart s f d = true ∧ MmcReads s f k cdb 0x46 d c ∧
      be16 c 7 ≤ d.fld.length) ∧
    (∃ (s : State) (f : FoldId) (k : Nat) (cdb : List Byte) (c : List Byte) (d : Desc), mmcMayStart s f d = true ∧ MmcReads s f k cdb 0x4A d c ∧
      cdbBit c 1 0 = true ∧ be16 c 7 ≤ d.fld.length) ∧
    (∃ (s : State) (f : FoldId) (k : Nat) (cdb : List Byte) (c : List Byte) (d : Desc), mmcMayStart s f d = true ∧ MmcReads s f k cdb 0x5A d c ∧
      byteAt c 2 % 64 ∈ [0x01, 0x05, 0x2A] ∧ be16 c 7 ≤ d.fld.length) ∧
    (∃ (s : State) (f : FoldId) (k : Nat) (cdb : List Byte) (c : List Byte) (d : Desc) (x : DiscInfo), mmcMayStart s f d = true ∧ s.desc? f k = some
      d ∧ d.op = .mmcReply ∧ (d.stage = .ready ∨ d.stage = .running) ∧ c = mmcBlock d cdb ∧ s.disc = some x ∧ byteAt c 0 = 0x23 ∧ be16 c 7 ≤
      d.fld.length) ∧
    (∃ (s : State) (f : FoldId) (k : Nat) (cdb : List Byte) (c : List Byte) (d : Desc) (x : DiscInfo), mmcMayStart s f d = true ∧ s.desc? f k = some
      d ∧ d.op = .mmcReply ∧ (d.stage = .ready ∨ d.stage = .running) ∧ c = mmcBlock d cdb ∧ s.disc = some x ∧ byteAt c 0 = 0x25 ∧ 8 ≤ d.fld.length) ∧
    (∃ (s : State) (f : FoldId) (k : Nat) (cdb : List Byte) (c : List Byte) (d : Desc) (x : DiscInfo), mmcMayStart s f d = true ∧ s.desc? f k = some
      d ∧ d.op = .mmcReply ∧ (d.stage = .ready ∨ d.stage = .running) ∧ c = mmcBlock d cdb ∧ s.disc = some x ∧ byteAt c 0 = 0x43 ∧ be16 c 7 ≤
      d.fld.length) ∧
    (∃ (s : State) (f : FoldId) (k : Nat) (cdb : List Byte) (c : List Byte) (d : Desc) (x : DiscInfo), mmcMayStart s f d = true ∧ s.desc? f k = some
      d ∧ d.op = .mmcReply ∧ (d.stage = .ready ∨ d.stage = .running) ∧ c = mmcBlock d cdb ∧ s.disc = some x ∧ byteAt c 0 = 0x51 ∧ be16 c 7 ≤
      d.fld.length) ∧
    (∃ (s : State) (f : FoldId) (k : Nat) (cdb : List Byte) (c : List Byte) (d : Desc) (x : DiscInfo), mmcMayStart s f d = true ∧ s.desc? f k = some
      d ∧ d.op = .mmcReply ∧ (d.stage = .ready ∨ d.stage = .running) ∧ c = mmcBlock d cdb ∧ s.disc = some x ∧ byteAt c 0 = 0x52 ∧ be16 c 7 ≤
      d.fld.length) ∧
    (∃ (s : State) (f : FoldId) (k : Nat) (cdb : List Byte) (c : List Byte) (d : Desc) (x : DiscInfo), mmcMayStart s f d = true ∧ s.desc? f k = some
      d ∧ d.op = .mmcReply ∧ (d.stage = .ready ∨ d.stage = .running) ∧ c = mmcBlock d cdb ∧ s.disc = some x ∧ byteAt c 0 = 0xAD ∧ be16 c 8 ≤
      d.fld.length) :=
  ⟨by refine ⟨W.passed, (0 : FoldId), 2, (W.bytes [(0, 0)]), (W.block [(0, 0)]), W.mmc, ?_, ⟨by decide +kernel, by decide +kernel,
        by decide +kernel, by decide +kernel, by decide +kernel, by decide +kernel⟩, ?_⟩ <;> decide +kernel,
   by refine ⟨W.passed, (0 : FoldId), 2, (W.bytes [(0, 0x35)]), (W.block [(0, 0x35)]), W.mmc, ?_, ⟨by decide +kernel, by decide +kernel,
        by decide +kernel, by decide +kernel, by decide +kernel, by decide +kernel⟩, ?_⟩ <;> decide +kernel,
   by refine ⟨W.passed, (0 : FoldId), 2, (W.bytes [(0, 0x03)]), (W.block [(0, 0x03)]), W.mmc, ?_, ⟨by decide +kernel, by decide +kernel,
        by decide +kernel, by decide +kernel, by decide +kernel, by decide +kernel⟩, ?_⟩ <;> decide +kernel,
   by refine ⟨W.passed, (0 : FoldId), 2, (W.bytes [(0, 0x12)]), (W.block [(0, 0x12)]), W.mmc, ?_, ⟨by decide +kernel, by decide +kernel,
        by decide +kernel, by decide +kernel, by decide +kernel, by decide +kernel⟩, ?_, ?_⟩ <;> decide +kernel,
   by refine ⟨W.passed, (0 : FoldId), 2, (W.bytes [(0, 0x46)]), (W.block [(0, 0x46)]), W.mmc, ?_, ⟨by decide +kernel, by decide +kernel,
        by decide +kernel, by decide +kernel, by decide +kernel, by decide +kernel⟩, ?_⟩ <;> decide +kernel,
   by refine ⟨W.passed, (0 : FoldId), 2, (W.bytes [(0, 0x4A), (1, 1)]), (W.block [(0, 0x4A), (1, 1)]), W.mmc, ?_, ⟨by decide +kernel,
        by decide +kernel, by decide +kernel, by decide +kernel, by decide +kernel, by decide +kernel⟩, ?_, ?_⟩ <;> decide +kernel,
   by refine ⟨W.passed, (0 : FoldId), 2, (W.bytes [(0, 0x5A), (2, 1)]), (W.block [(0, 0x5A), (2, 1)]), W.mmc, ?_, ⟨by decide +kernel,
        by decide +kernel, by decide +kernel, by decide +kernel, by decide +kernel, by decide +kernel⟩, ?_, ?_⟩ <;> decide +kernel,
   by refine ⟨W.asking, (0 : FoldId), 2, (W.bytes [(0, 0x23)]), (W.block [(0, 0x23)]), W.asked, W.disc, ?_, ?_, ?_, ?_, ?_, ?_, ?_, ?_⟩
        <;> decide +kernel,
   by refine ⟨W.asking, (0 : FoldId), 2, (W.bytes [(0, 0x25)]), (W.block [(0, 0x25)]), W.asked, W.disc, ?_, ?_, ?_, ?_, ?_, ?_, ?_, ?_⟩
        <;> decide +kernel,
   by refine ⟨W.asking, (0 : FoldId), 2, (W.bytes [(0, 0x43)]), (W.block [(0, 0x43)]), W.asked, W.disc, ?_, ?_, ?_, ?_, ?_, ?_, ?_, ?_⟩
        <;> decide +kernel,
   by refine ⟨W.asking, (0 : FoldId), 2, (W.bytes [(0, 0x51)]), (W.block [(0, 0x51)]), W.asked, W.disc, ?_, ?_, ?_, ?_, ?_, ?_, ?_, ?_⟩
        <;> decide +kernel,
   by refine ⟨W.asking, (0 : FoldId), 2, (W.bytes [(0, 0x52)]), (W.block [(0, 0x52)]), W.asked, W.disc, ?_, ?_, ?_, ?_, ?_, ?_, ?_, ?_⟩
        <;> decide +kernel,
   by refine ⟨W.asking, (0 : FoldId), 2, (W.bytes [(0, 0xAD)]), (W.block [(0, 0xAD)]), W.asked, W.disc, ?_, ?_, ?_, ?_, ?_, ?_, ?_, ?_⟩
        <;> decide +kernel⟩

/-- The hypotheses of ModeAndMaintenanceCommandsComplete, clause by clause. -/
theorem wit_ModeAndMaintenanceCommandsComplete :
    (∃ (s : State) (k : Nat) (d : Desc), runningAs s 0 k .modeSet = some d ∧ d.fld.opfield = 0) ∧
    (∃ (s : State) (k : Nat) (d : Desc), runningAs s 0 k .modeSet = some d ∧ d.fld.opfield = 1) ∧
    (∃ (s : State) (k : Nat) (d : Desc), runningAs s 0 k .modeSet = some d ∧ d.fld.opfield = 2 ∧ s.sys.mode = .service) ∧
    (∃ (s : State) (k : Nat) (d : Desc), runningAs s 0 k .modeSet = some d ∧ d.fld.opfield = 3 ∧ s.sys.mode ≠ .service) ∧
    (∃ (s : State) (k : Nat) (d : Desc), runningAs s 0 k .fwActivate = some d ∧ d.fld.opfield = 1 ∧ (s.sys.boot.trial ≠ none ∨ imageValid s
      (otherSlot s.sys.boot) = true)) ∧
    (∃ (s : State) (k : Nat) (d : Desc) (n : Nat), runningAs s 0 k .fwActivate = some d ∧ d.fld.opfield = 2 ∧ s.sys.boot.trial = some n) ∧
    (∃ (s : State) (k : Nat) (d : Desc), runningAs s 0 k .fwDownload = some d ∧ s.sys.boot.trial = none ∧ slotValid s.sys.boot (otherSlot
      s.sys.boot) = false) ∧
    (∃ (s : State) (k : Nat) (m : CalMeas) (d : Desc) (c : CalRecord) (o : List Byte), runningAs s 0 k .calibrate = some d ∧ s.sys.mode = .service ∧
      s.spindle.st = .stopped ∧ calRun m d.fld.opfield 6 0 s.sys.cal [] = (c, o) ∧ 1 ∈ o) ∧
    (∃ (s : State) (k : Nat) (d : Desc) (r : List Byte) (x : Tariff), runningAs s 0 k .tariffSet = some d ∧ tariffOf r = some x) ∧
    (∃ (s : State) (at_ : Nat) (cal : Nat) (sub : Nat) (k : Nat) (d : Desc), s.kpr.step = some (at_, cal, sub, k) ∧ at_ ≤ s.kpr.tick ∧ boundaryDue s
      = false ∧ s.desc? 0 k = some d) ∧
    (∃ (s : State), linksUp s = true) :=
  ⟨by refine ⟨(W.descs 0 [{ W.desc with k := 1, op := .modeSet, fld := { W.fld with opfield := 0 } }] W.live), 1,
        { W.desc with k := 1, op := .modeSet, fld := { W.fld with opfield := 0 } }, ?_, ?_⟩ <;> decide +kernel,
   by refine ⟨(W.descs 0 [{ W.desc with k := 1, op := .modeSet, fld := { W.fld with opfield := 1 } }] W.live), 1,
        { W.desc with k := 1, op := .modeSet, fld := { W.fld with opfield := 1 } }, ?_, ?_⟩ <;> decide +kernel,
   by refine ⟨(W.descs 0 [{ W.desc with k := 1, op := .modeSet, fld := { W.fld with opfield := 2 } }] { W.live with sys.mode := .service }), 1,
        { W.desc with k := 1, op := .modeSet, fld := { W.fld with opfield := 2 } }, ?_, ?_, ?_⟩ <;> decide +kernel,
   by refine ⟨(W.descs 0 [{ W.desc with k := 1, op := .modeSet, fld := { W.fld with opfield := 3 } }] W.live), 1,
        { W.desc with k := 1, op := .modeSet, fld := { W.fld with opfield := 3 } }, ?_, ?_, ?_⟩ <;> decide +kernel,
   by refine ⟨(W.descs 0 [{ W.desc with k := 1, op := .fwActivate, fld := { W.fld with opfield := 1 } }] { W.live with sys.boot.trial := some 1 }),
        1, { W.desc with k := 1, op := .fwActivate, fld := { W.fld with opfield := 1 } }, ?_, ?_, ?_⟩ <;> decide +kernel,
   by refine ⟨(W.descs 0 [{ W.desc with k := 1, op := .fwActivate, fld := { W.fld with opfield := 2 } }] { W.live with sys.boot.trial := some 1 }),
        1, { W.desc with k := 1, op := .fwActivate, fld := { W.fld with opfield := 2 } }, 1, ?_, ?_, ?_⟩ <;> decide +kernel,
   by refine ⟨(W.descs 0 [{ W.desc with k := 1, op := .fwDownload }] { W.live with sys.boot.trial := none, sys.boot.validB := false }), 1,
        { W.desc with k := 1, op := .fwDownload }, ?_, ?_, ?_⟩ <;> decide +kernel,
   by refine ⟨(W.descs 0 [{ W.desc with k := 1, op := .calibrate, fld := { W.fld with opfield := 4 } }] { W.live with sys.mode := .service }), 1,
        { W.meas with vref := (1650000, 1650000) }, { W.desc with k := 1, op := .calibrate, fld := { W.fld with opfield := 4 } }, _, _, ?_, ?_, ?_,
        W.eta2 _, ?_⟩ <;> decide +kernel,
   by refine ⟨(W.descs 0 [{ W.desc with k := 1, op := .tariffSet }] W.live), 1, { W.desc with k := 1, op := .tariffSet }, [5, 0, 1, 1], _, ?_, rfl⟩
        <;> decide +kernel,
   by refine ⟨(W.descs 0 [{ W.desc with k := 1 }] { W.live with kpr.step := some (1, 1, 1, 1), kpr.tick := (1) }), 1, 1, 1, 1,
        { W.desc with k := 1 }, ?_, ?_, ?_, ?_⟩ <;> decide +kernel,
   by refine ⟨W.live, ?_⟩ <;> decide +kernel⟩

/-- The inner clause of ReadAheadServesEligibleStreams about the blocks before the lowest missing one. -/
theorem wit_ReadAheadServesEligibleStreams_held :
    let x : Stream := { label := 1, next := 0, limit := 100, seq := true }
    let s : State := { W.live.modFold 0 fun r => { r with streams := [x] } with
      pen := [{ W.copy with blocks := [(0, []), (1, [])], placedAt := 100000 }] }
    nextReadAhead s = some (0, 2) ∧ x ∈ (s.fold 0).streams ∧ x.next ≤ 1 ∧ 1 < 2 := by decide +kernel
end

section
/-! Links: bad packets and frames counted, resends, link faults, and Iron's own stop when ticks are lost (R19 to R24, Tables 1.5
and 1.7). -/
namespace Sys2Proof.Machine

/-! ### What the shared operations of the links change -/

theorem countBadPacket_yelxoM (s : State) (resend : Bool) : countBadPacket s .yelxoM resend =
    { s with pwr := { s.pwr with links := { s.pwr.links with
      ylm := min (s.pwr.links.ylm + 1) 255
      resends := if resend then min (s.pwr.links.resends + 1) 255 else s.pwr.links.resends } } } := rfl

theorem countBadPacket_yelxoB (s : State) (resend : Bool) : countBadPacket s .yelxoB resend =
    { s with pwr := { s.pwr with links := { s.pwr.links with
      ylb := min (s.pwr.links.ylb + 1) 255
      resends := if resend then min (s.pwr.links.resends + 1) 255 else s.pwr.links.resends } } } := rfl

/-- Opening the loops changes the servo alone. -/
theorem openLoops_eq (s : State) : openLoops s = { s with servo := (openLoops s).servo } := by
  unfold openLoops
  rw [beginRamp_eq]

/-- The faults of codes 3 and up are Yelxo-B's or the ticks': the code is kept and the fault waits; the laser stays (R24). -/
theorem linkFault_other (s : State) {code : Nat} (h : 3 ≤ code) : linkFault s code = { s with
    pwr := { s.pwr with links := { s.pwr.links with lastFault := code } }
    halt := { s.halt with pend := addFault s.halt.pend (.link code) } } := by
  show noteFault (if code = 1 ∨ code = 2 then dropLaser _ else _) (.link code) = _
  rw [if_neg (by omega), noteFault_waits]

/-- Where Yelxo-M itself has failed LD_EN drops at once; the rest of the mechanism waits for the strobe (R24). -/
theorem linkFault_yelxoM (s : State) {code : Nat} (h : code = 1 ∨ code = 2) :
    (linkFault s code).servo.ldEn = false ∧ (linkFault s code).servo.wgate = false ∧
    (linkFault s code).halt = { s.halt with pend := addFault s.halt.pend (.link code) } ∧
    (linkFault s code).pwr = { s.pwr with links := { s.pwr.links with lastFault := code } } ∧
    (linkFault s code).servo.loops = s.servo.loops ∧ (linkFault s code).spindle = s.spindle ∧
    (linkFault s code).sled = s.sled := by
  have hnoted : linkFault s code = noteFault (dropLaser { s with
      pwr := { s.pwr with links := { s.pwr.links with lastFault := code } } }) (.link code) := by
    simp only [linkFault, h, if_true]
  rw [hnoted, noteFault_waits]
  refine ⟨(dropLaser_off _).1, (dropLaser_off _).2, ?_, ?_, (dropLaser_loops _).1, ?_, ?_⟩ <;> rw [dropLaser_eq]

/-- What Iron stops by itself, and what it leaves to Pewter (R23). -/
theorem ironSafe_stops (s : State) :
    (ironSafe s).servo = (openLoops s).servo ∧ (ironSafe s).halt = s.halt ∧
    (ironSafe s).spindle.st = (if s.spindle.st = .stopped then .stopped else .coasting) ∧
    (ironSafe s).sled.move = .rest ∧ (ironSafe s).sled.lost = true ∧ (ironSafe s).sled.ia = 0 ∧ (ironSafe s).sled.ib = 0 := by
  unfold ironSafe
  have hopen := openLoops_eq s
  generalize openLoops s = t at hopen
  have hspin : t.spindle = s.spindle := by rw [hopen]
  obtain ⟨hbeside, hsled⟩ := stopSled_still (coastSpindle t)
  refine ⟨?_, ?_, ?_, ?_⟩
  · rw [servo_stopSled, servo_coastSpindle]
  · rw [hbeside.halt_eq, coastSpindle_eq t, hopen]
  · rw [hbeside.spindle_eq, ← hspin]
    exact coastSpindle_st t
  · rw [hsled]
    exact ⟨rfl, rfl, rfl, rfl⟩

/-! ### Without links -/

theorem exec_links_down {s : State} (h : linksUp s = false) {c : Instr}
    (hc : (∃ n, c = .channelPacketBad n) ∨ (∃ l b, c = .controlPacketArrival l b) ∨ (∃ b, c = .yelxoBCommandFrame b) ∨
      (∃ l, c = .linkStall l) ∨ c = .loopTickLoss) : exec c s = .next s := by
  rcases hc with ⟨n, rfl⟩ | ⟨l, b, rfl⟩ | ⟨b, rfl⟩ | ⟨l, rfl⟩ | rfl
  · show execChannelPacketBad n s = _
    simp [execChannelPacketBad, h]
  · show execControlPacketArrival l b s = _
    simp [execControlPacketArrival, h]
  · show execYelxoBCommandFrame b s = _
    simp [execYelxoBCommandFrame, h]
  · show execLinkStall l s = _
    simp [execLinkStall, h]
  · show execLoopTickLoss s = _
    simp [execLoopTickLoss, h]

/-! ### With the links up: one equation per row and case -/

section
variable {s : State} (up : linksUp s = true)
include up

theorem exec_channelPacketBad (n : Nat) : exec (.channelPacketBad n) s = .next { s with
    pwr := { s.pwr with links := { s.pwr.links with ylm := min (s.pwr.links.ylm + 1) 255 } }
    chan := { s.chan with erased := s.chan.erased ++ [packetSpan s n] } } := by
  show execChannelPacketBad n s = _
  simp [execChannelPacketBad, up, countBadPacket_yelxoM]

theorem exec_controlPacket_good :
    exec (.controlPacketArrival .yelxoM true) s = .next { s with pwr := { s.pwr with links := { s.pwr.links with failsM := 0 } } } ∧
    exec (.controlPacketArrival .yelxoB true) s =
      .next { s with pwr := { s.pwr with links := { s.pwr.links with failsB := 0 } } } := by
  constructor
  · show execControlPacketArrival .yelxoM true s = _
    simp [execControlPacketArrival, up]
  · show execControlPacketArrival .yelxoB true s = _
    simp [execControlPacketArrival, up]

theorem exec_controlPacket_resent_yelxoM (h : s.pwr.links.failsM < 3) : exec (.controlPacketArrival .yelxoM false) s =
    .next { s with pwr := { s.pwr with links := { s.pwr.links with
      ylm := min (s.pwr.links.ylm + 1) 255
      resends := min (s.pwr.links.resends + 1) 255
      failsM := s.pwr.links.failsM + 1 } } } := by
  show execControlPacketArrival .yelxoM false s = _
  simp [execControlPacketArrival, up, countBadPacket_yelxoM, Nat.not_le.mpr h]

theorem exec_controlPacket_resent_yelxoB (h : s.pwr.links.failsB < 3) : exec (.controlPacketArrival .yelxoB false) s =
    .next { s with pwr := { s.pwr with links := { s.pwr.links with
      ylb := min (s.pwr.links.ylb + 1) 255
      resends := min (s.pwr.links.resends + 1) 255
      failsB := s.pwr.links.failsB + 1 } } } := by
  show execControlPacketArrival .yelxoB false s = _
  simp [execControlPacketArrival, up, countBadPacket_yelxoB, Nat.not_le.mpr h]

theorem exec_controlPacket_fourth_yelxoM (h : 3 ≤ s.pwr.links.failsM) : exec (.controlPacketArrival .yelxoM false) s =
    .next (linkFault { s with pwr := { s.pwr with links := { s.pwr.links with
      ylm := min (s.pwr.links.ylm + 1) 255
      failsM := 0 } } } 2) := by
  show execControlPacketArrival .yelxoM false s = _
  simp [execControlPacketArrival, up, countBadPacket_yelxoM, h]

theorem exec_controlPacket_fourth_yelxoB (h : 3 ≤ s.pwr.links.failsB) : exec (.controlPacketArrival .yelxoB false) s =
    .next (linkFault { s with pwr := { s.pwr with links := { s.pwr.links with
      ylb := min (s.pwr.links.ylb + 1) 255
      failsB := 0 } } } 4) := by
  show execControlPacketArrival .yelxoB false s = _
  simp [execControlPacketArrival, up, countBadPacket_yelxoB, h]

/-- A good frame brings its commands; only a new demand on a closed spindle drives a step besides (R22, R188). -/
theorem exec_commandFrame_good (h : s.spindle.st ≠ .closed ∨ s.pwr.links.cmd.spindle = (frameNow s).spindle) :
    exec (.yelxoBCommandFrame true) s =
      .next { s with pwr := { s.pwr with links := { s.pwr.links with badFrames := 0, cmd := frameNow s } } } := by
  show execYelxoBCommandFrame true s = _
  rcases h with h | h <;> simp [execYelxoBCommandFrame, up, h]

theorem exec_commandFrame_discarded (h : s.pwr.links.badFrames < 2) : exec (.yelxoBCommandFrame false) s =
    .next { s with pwr := { s.pwr with links := { s.pwr.links with
      ylb := min (s.pwr.links.ylb + 1) 255
      badFrames := s.pwr.links.badFrames + 1 } } } := by
  show execYelxoBCommandFrame false s = _
  simp [execYelxoBCommandFrame, up, countBadPacket_yelxoB, Nat.not_le.mpr h]

theorem exec_commandFrame_third (h : 2 ≤ s.pwr.links.badFrames) : exec (.yelxoBCommandFrame false) s =
    .next (linkFault { s with pwr := { s.pwr with links := { s.pwr.links with
      ylb := min (s.pwr.links.ylb + 1) 255
      badFrames := 0 } } } 5) := by
  show execYelxoBCommandFrame false s = _
  simp [execYelxoBCommandFrame, up, countBadPacket_yelxoB, h]

theorem exec_linkStall_yelxoM : exec (.linkStall .yelxoM) s = .next (linkFault s 1) := by
  show execLinkStall .yelxoM s = _
  simp [execLinkStall, up]

theorem exec_linkStall_yelxoB : exec (.linkStall .yelxoB) s = .next (linkFault s 3) := by
  show execLinkStall .yelxoB s = _
  simp [execLinkStall, up]

/-- Three ticks lost: Iron stops by itself, its timebase unlocks, and the link fault waits for the strobe (R23, R24). -/
theorem exec_loopTickLoss : ∃ t : State, exec .loopTickLoss s = .next t ∧ t.pwr.tbLock = false ∧ t.pwr.links.lastFault = 6 ∧
    t.halt = { s.halt with pend := addFault s.halt.pend (.link 6) } ∧ t.sled.move = .rest ∧ t.sled.lost = true ∧ t.sled.ia = 0 ∧
    t.sled.ib = 0 ∧ t.spindle.st = (if s.spindle.st = .stopped then .stopped else .coasting) ∧ t.servo.ldEn = s.servo.ldEn ∧
    (∀ i : Fin 6, (t.servo.loops.get i).closed = false) ∧ t.servo.ramp = some (s.servo.ramp.getD
      (s.us, (s.servo.loops.get 0).out, (s.servo.loops.get 1).out, (s.servo.loops.get 2).out)) := by
  obtain ⟨hservo, hhalt, hspin, hmove, hlost, hia, hib⟩ := ironSafe_stops s
  obtain ⟨hloops, hramp⟩ := openLoops_open s
  have hrun : exec .loopTickLoss s = .next { linkFault (ironSafe s) 6 with
      pwr := { (linkFault (ironSafe s) 6).pwr with tbLock := false } } := by
    show execLoopTickLoss s = _
    simp only [execLoopTickLoss, up, if_true]
  rw [linkFault_other _ (by decide : 3 ≤ 6)] at hrun
  refine ⟨_, hrun, rfl, rfl, by rw [hhalt], hmove, hlost, hia, hib, hspin, ?_, fun i => ?_, ?_⟩ <;> dsimp only <;> rw [hservo]
  · exact ldEn_openLoops s
  · exact (hloops i).1
  · exact hramp

end

/-! ### Link faults at once, frames and ramps -/

/-- A row that answers a link fault, whatever it has counted before: its code, and the laser of a failed Yelxo-M (R24). -/
theorem acts_of_linkFault {s u : State} {c : Instr} {code : Nat} {p : Power} (h1 : 1 ≤ code)
    (hu : u = { s with pwr := { p with links := { p.links with lastFault := code } } })
    (hrun : exec c s = .next (linkFault { s with pwr := p } code)) :
    (3 ≤ code → exec c s = .next { u with halt := { u.halt with pend := addFault u.halt.pend (.link code) } }) ∧
    (code < 3 → ∃ t : State, exec c s = .next t ∧ t.servo.ldEn = false ∧ t.servo.wgate = false ∧
      t.halt = { u.halt with pend := addFault u.halt.pend (.link code) } ∧ t.pwr = u.pwr ∧ t.servo.loops = s.servo.loops ∧
      t.spindle = s.spindle ∧ t.sled = s.sled) := by
  subst hu
  refine ⟨fun h3 => ?_, fun h3 => ⟨_, hrun, linkFault_yelxoM _ (by omega)⟩⟩
  rw [hrun, linkFault_other _ h3]

/-- The frame's fields are the outputs that apply from this strobe; its value is the slack or the overrun before it (R156, R158). -/
theorem frameNow_fields (s : State) :
    (frameNow s).focus = outCode 0 (s.servo.loops.get 0).out ∧ (frameNow s).track = outCode 1 (s.servo.loops.get 1).out ∧
    (frameNow s).tilt = outCode 2 (s.servo.loops.get 2).out ∧ (frameNow s).spindle = (s.servo.loops.get 4).out ∧
    (frameNow s).sled = (s.servo.loops.get 5).out ∧ (s.servo.overrunNow = true → (frameNow s).value = .overrun) ∧
    ∀ x : Nat, s.servo.overrunNow = false → s.servo.slack = some x → (frameNow s).value = .slack x := by
  refine ⟨rfl, rfl, rfl, rfl, rfl, fun h => ?_, fun x h hx => ?_⟩
  · simp [frameNow, h]
  · simp [frameNow, h, hx]

theorem rampAt_zero (x : Int) : rampAt x 0 = x := by
  unfold rampAt roundDiv
  rw [if_neg (by decide)]
  split <;> omega

theorem rampAt_over (x : Int) {us : Nat} (h : 1000 ≤ us) : rampAt x us = 0 := if_pos h

/-- Settles O46, clause by clause: one equation per row and case, and `acts_of_linkFault` for the rows that end in a link fault. -/
theorem linksCountAndFault : Obligations.LinksCountAndFault := by
  refine ⟨fun s n up => exec_channelPacketBad up n, fun s up => ?_, frameNow_fields, fun s u c code up hc => ?_,
    fun s up => exec_loopTickLoss up, fun x => ⟨rampAt_zero x, fun us h => rampAt_over x h⟩, fun s c down hc => exec_links_down down hc⟩
  · obtain ⟨goodM, goodB⟩ := exec_controlPacket_good up
    exact ⟨goodM, goodB, exec_commandFrame_good up, exec_controlPacket_resent_yelxoM up, exec_controlPacket_resent_yelxoB up,
      exec_commandFrame_discarded up⟩
  · rcases hc with ⟨rfl, hn, rfl, hu⟩ | ⟨rfl, hn, rfl, hu⟩ | ⟨rfl, hn, rfl, hu⟩ | ⟨rfl, rfl, hu⟩ | ⟨rfl, rfl, hu⟩
    · exact acts_of_linkFault (by decide) hu (exec_controlPacket_fourth_yelxoM up hn)
    · exact acts_of_linkFault (by decide) hu (exec_controlPacket_fourth_yelxoB up hn)
    · exact acts_of_linkFault (by decide) hu (exec_commandFrame_third up hn)
    · exact acts_of_linkFault (by decide) hu (exec_linkStall_yelxoM up)
    · exact acts_of_linkFault (by decide) hu (exec_linkStall_yelxoB up)

end Sys2Proof.Machine
end

section
/-! The drover: dispatch and the mechanism's fall free (R50, R51, R110), timeouts and aborts (R89, R99), and a WRITE's data from the
host (R250). -/
namespace Sys2Proof.Machine

/-! ### What posting an event leaves of the folds' work -/

/-- Every fold has the same descriptors and the same deficit. -/
def SameWork (v t : State) : Prop := ∀ g : FoldId, (t.fold g).descs = (v.fold g).descs ∧ (t.fold g).deficit = (v.fold g).deficit

theorem sameWork_of_folds {v t : State} (h : t.folds = v.folds) : SameWork v t := fun g => by
  rw [fold_congr h g]
  exact ⟨rfl, rfl⟩

theorem sameWork_trans {u v t : State} (h : SameWork u v) (i : SameWork v t) : SameWork u t := fun g =>
  ⟨(i g).1.trans (h g).1, (i g).2.trans (h g).2⟩

theorem sameWork_foldl {α : Type} {g : State → α → State} (h : ∀ (s : State) (x : α), SameWork s (g s x)) :
    ∀ (l : List α) (s : State), SameWork s (l.foldl g s)
  | [], _ => sameWork_of_folds rfl
  | x :: r, s => sameWork_trans (h s x) (sameWork_foldl h r _)

theorem sameWork_modFold (s : State) (f : FoldId) {g : Fold → Fold}
    (hg : ∀ x : Fold, (g x).descs = x.descs ∧ (g x).deficit = x.deficit) : SameWork s (s.modFold f g) := fun h => by
  rw [modFold_fold_any]
  split
  · exact hg _
  · exact ⟨rfl, rfl⟩

theorem sameWork_modDring (s : State) (f : FoldId) (m : DringId) (g : Dring → Dring) : SameWork s (s.modDring f m g) :=
  sameWork_modFold s f fun _ => ⟨rfl, rfl⟩

theorem sameWork_modDbp (s : State) (f : FoldId) (g : Doorbell → Doorbell) : SameWork s (s.modDbp f g) :=
  sameWork_modFold s f fun _ => ⟨rfl, rfl⟩

theorem sameWork_desc {v t : State} (h : SameWork v t) (f : FoldId) (k : Nat) : t.desc? f k = v.desc? f k := by
  simp only [State.desc?, (h f).1]

theorem sameWork_sendMsix (s : State) (f : FoldId) (v : Fin 8) : SameWork s (sendMsix s f v) := by
  unfold sendMsix
  dsimp only
  split
  · exact sameWork_of_folds rfl
  · split
    · exact sameWork_modFold s f fun _ => ⟨rfl, rfl⟩
    · exact sameWork_of_folds rfl

theorem sameWork_notePending (s : State) (f : FoldId) (m : DringId) (irq : Bool) : SameWork s (notePending s f m irq) := by
  have counted := fun g => sameWork_modDring s f m g
  unfold notePending signalRing
  dsimp only
  split
  · exact sameWork_trans (counted _) (sameWork_trans (sameWork_modDring _ f m _) (sameWork_sendMsix _ f _))
  · exact counted _

theorem sameWork_writeItem_event (s : State) (f : FoldId) (m : DringId) (code : Nat) (dw2 tick : Word) :
    SameWork s (writeItem s f m (.event code dw2 tick)) := by
  unfold writeItem
  refine sameWork_trans ?_ (sameWork_notePending _ f m _)
  refine sameWork_trans ?_ (sameWork_modDbp _ f _)
  exact sameWork_trans (v := s.emit _) (sameWork_of_folds rfl) (sameWork_modDring _ f m _)

theorem sameWork_postItem_event (s : State) (f : FoldId) (m : DringId) (code : Nat) (dw2 tick : Word) :
    SameWork s (postItem s f m (.event code dw2 tick)) := by
  unfold postItem
  dsimp only
  split
  · exact sameWork_writeItem_event s f m code dw2 tick
  · split
    · exact sameWork_modDring s f m _
    · exact sameWork_modDring s f m _

theorem sameWork_postEventTo (s : State) (f : FoldId) (code : Nat) (dw2 : Word) : SameWork s (postEventTo s f code dw2) := by
  unfold postEventTo
  dsimp only
  split
  · exact sameWork_postItem_event s f 0 code dw2 _
  · exact sameWork_of_folds rfl

theorem logStage_folds (s : State) (code : Nat) (detail : Word) (fold extra : Nat) :
    (logStage s code detail fold extra).folds = s.folds := by
  unfold logStage
  dsimp only
  split
  · rfl
  · split <;> rfl

theorem sameWork_logNote (s : State) (code : Nat) (detail : Word) (fold extra : Nat) :
    SameWork s (logNote s code detail fold extra) := by
  have staged := fun (t : State) c w f e => sameWork_of_folds (logStage_folds t c w f e)
  unfold logNote
  dsimp only
  split
  · exact staged s _ _ _ _
  · refine sameWork_trans ?_ (staged _ _ _ _ _)
    exact sameWork_trans (staged { s with log := { s.log with lostPending := 0 } } _ _ _ _) (sameWork_postEventTo _ _ _ _)

theorem sameWork_broadcast (s : State) (code : Nat) (dw2 : Word) : SameWork s (broadcast s code dw2) :=
  sameWork_trans (sameWork_logNote s code dw2 0xFF 0) (sameWork_foldl (fun t f => sameWork_postEventTo t f code dw2) allFolds _)

/-- The instant since which the mechanism is idle does not turn on the quiet instant. -/
theorem idleSince_of_sys {a b : Sys} (h : ({ a with quietSince := 0 } : Sys) = { b with quietSince := 0 }) :
    a.idleSince = b.idleSince := by
  have e := congrArg Sys.idleSince h
  exact e

theorem broadcast_keeps {v s : State} (job : s.job = v.job) (kpr : s.kpr = v.kpr) (sys : s.sys = v.sys) (folds : s.folds = v.folds)
    (code : Nat) (dw2 : Word) : (broadcast s code dw2).job = v.job ∧ (broadcast s code dw2).kpr = v.kpr ∧
    (broadcast s code dw2).sys.idleSince = v.sys.idleSince ∧ SameWork v (broadcast s code dw2) := by
  have told := beside_broadcast (code := code) (dw2 := dw2) (beside_rfl (v := s))
  exact ⟨told.job_eq.trans job, told.kpr_eq.trans kpr, (idleSince_of_sys told.sys_eq).trans (congrArg Sys.idleSince sys),
    sameWork_trans (sameWork_of_folds folds) (sameWork_broadcast s code dw2)⟩

/-- With no command on the mechanism a pacing step tells the folds and changes the spindle (R54). -/
theorem takePace_idle {s : State} (h : s.job = none) : (takePace s).job = none ∧ (takePace s).kpr = s.kpr ∧
    (takePace s).sys.idleSince = s.sys.idleSince ∧ SameWork s (takePace s) := by
  cases hn : s.spindle.paceNext with
  | none =>
    have kept : takePace s = s := by simp only [takePace, hn]
    rw [kept]
    exact ⟨h, rfl, rfl, sameWork_of_folds rfl⟩
  | some n =>
    have idle : jobDesc { s with spindle := { s.spindle with paceNext := none, paceDrop := n } } = none := by simp [jobDesc, h]
    simp only [takePace, hn, idle]
    split
    · rw [← h]
      exact broadcast_keeps rfl rfl rfl rfl _ _
    · exact ⟨h, rfl, rfl, sameWork_of_folds rfl⟩

/-! ### The end of a turn (R50) -/

theorem desc_modFold (s : State) (f : FoldId) {g : Fold → Fold} (hg : ∀ x : Fold, (g x).descs = x.descs) (h : FoldId) (k : Nat) :
    (s.modFold f g).desc? h k = s.desc? h k := by
  simp only [State.desc?, modFold_fold_any]
  split
  · rw [hg]
  · rfl

/-- A positive deficit becomes 0 (R50). -/
def clearedDeficit (x : Fold) : Fold := { x with deficit := min x.deficit 0 }

/-- The end of a turn touches the drover and its fold's deficit, which it does not raise. -/
theorem endTurn_keeps (s : State) (f : FoldId) : (endTurn s f).job = s.job ∧ (endTurn s f).sys = s.sys ∧
    (∀ (g : FoldId) (k : Nat), (endTurn s f).desc? g k = s.desc? g k) ∧
    ((endTurn s f).fold f).deficit ≤ (s.fold f).deficit ∧
    ∀ g : FoldId, g ≠ f → ((endTurn s f).fold g).deficit = (s.fold g).deficit := by
  unfold endTurn
  dsimp only
  split
  · refine ⟨rfl, rfl, fun g k => ?_, ?_, fun g hg => ?_⟩
    · exact desc_modFold s f (g := clearedDeficit) (fun _ => rfl) g k
    · show ((s.modFold f clearedDeficit).fold f).deficit ≤ _
      rw [modFold_fold]
      exact Int.min_le_left _ _
    · exact congrArg Fold.deficit (modFold_fold_ne s clearedDeficit hg)
  · split
    · exact ⟨rfl, rfl, fun _ _ => rfl, Int.le_refl _, fun _ _ => rfl⟩
    · exact ⟨rfl, rfl, fun _ _ => rfl, Int.le_refl _, fun _ _ => rfl⟩

theorem settleTurn_of_busy {s : State} (busy : mechanismFree s = false) : settleTurn s = s := by
  unfold settleTurn settleFold
  split <;> simp [busy]

theorem settleTurn_of_work {s : State} {f : FoldId} {d : Desc} (turn : s.drover.turn = some f) (work : waitingWork s f = some d)
    (positive : 0 < (s.fold f).deficit) : settleTurn s = s := by
  have noEnd : endTurn s f = s := by
    simp [endTurn, work, Int.not_le.mpr positive]
  simp [settleTurn, settleFold, turn, noEnd]

theorem settleTurn_of_no_work {s : State} {f : FoldId} (turn : s.drover.turn = some f) (free : mechanismFree s = true)
    (idle : waitingWork s f = none) : settleTurn s = { (s.modFold f fun x => { x with deficit := min x.deficit 0 }) with
      drover := { s.drover with turn := none } } := by
  simp [settleTurn, settleFold, turn, free, endTurn, idle]

theorem settleTurn_job (s : State) : (settleTurn s).job = s.job := by
  unfold settleTurn settleFold
  split
  · split
    · exact (endTurn_keeps s _).1
    · rfl
  · rfl

/-! ### Dispatch (R50, R51, R106, R110) -/

/-- Nothing stops the dispatch: the command is on the mechanism, and the mode follows. -/
theorem dispatchDesc_starts {s : State} {f : FoldId} {d : Desc} (disc : (opDisc d.op && !discThere s d.op) = false)
    (same : (opDisc d.op && discReplaced s d) = false) (head : (opWrites d.op && s.servo.puOpen) = false) :
    dispatchDesc s f d = { startDesc s f d with
      job := some { kind := .moving, f := f, k := d.k, at_ := s.us }
      sys := { s.sys with mode := modeForOp s d.op (bit d.fld.opfield 0), parked := false } } := by
  simp only [dispatchDesc, disc, same, head]
  rfl

theorem dispatchDesc_no_disc {s : State} {f : FoldId} {d : Desc} (disc : opDisc d.op = true) (gone : discThere s d.op = false) :
    dispatchDesc s f d = finish (noteStart s f d.k) f d.k .noDisc 0 := by
  simp [dispatchDesc, disc, gone]

theorem dispatchDesc_disc_changed {s : State} {f : FoldId} {d : Desc} (disc : opDisc d.op = true) (there : discThere s d.op = true)
    (changed : discReplaced s d = true) : dispatchDesc s f d = finish (noteStart s f d.k) f d.k .discChanged 0 := by
  simp [dispatchDesc, disc, there, changed]

theorem droverDispatch_turn {s : State} {f : FoldId} {d : Desc} (free : mechanismOpen s = true) (any : anyWaiting s = true)
    (turn : s.drover.turn = some f) (positive : 0 < (s.fold f).deficit) (work : waitingWork (stopSpeculation s) f = some d)
    (disc : opDisc d.op = false) (writes : opWrites d.op = false) :
    exec .droverDispatch s = .next (dispatchDesc (stopSpeculation s) f d) := by
  have idle : mechanismFree s = true := by
    simp only [mechanismOpen, Bool.and_eq_true] at free
    exact free.2
  have turn' : (stopSpeculation s).drover.turn = some f := by simp [stopSpeculation, idle, turn]
  have kept : settleTurn (stopSpeculation s) = stopSpeculation s := by
    refine settleTurn_of_work turn' work ?_
    simpa [stopSpeculation, idle, State.fold] using positive
  have busy : settleTurn (dispatchDesc (stopSpeculation s) f d) = dispatchDesc (stopSpeculation s) f d := by
    refine settleTurn_of_busy ?_
    rw [dispatchDesc_starts (by simp [disc]) (by simp [disc]) (by simp [writes])]
    rfl
  show execDroverDispatch s = _
  simp [execDroverDispatch, free, any, kept, turn', work, busy]

/-! ### MECHANISM_FREE (R50, R51) -/

/-- The state in which the mechanism has just fallen free, before its command's descriptor is done. -/
def freedMechanism (s : State) : State := takePace { s with job := none, sys := { s.sys with idleSince := s.us } }

/-- The descriptor of the ended command is done, its mechanism time noted. -/
def doneOnMechanism (s : State) (j : Job) (d : Desc) : State :=
  finish ((freedMechanism s).modDesc j.f j.k fun d => { d with mechUs := s.us - j.at_ }) j.f j.k d.status d.bytes

/-- The time on the mechanism is charged to its fold, but for a command that the spec leaves uncharged. -/
def chargedMechanism (s : State) (j : Job) (d : Desc) : State :=
  if j.uncharged then doneOnMechanism s j d
  else (doneOnMechanism s j d).modFold j.f fun x => { x with deficit := x.deficit - ((s.us - j.at_ : Nat) : Int) }

theorem doneOnMechanism_keeps (s : State) (j : Job) {d : Desc} (found : s.desc? j.f j.k = some d) :
    (doneOnMechanism s j d).job = none ∧ (doneOnMechanism s j d).kpr = s.kpr ∧ (doneOnMechanism s j d).sys.idleSince = s.us ∧
    (doneOnMechanism s j d).desc? j.f j.k = some { d with mechUs := s.us - j.at_, stage := .done, aside := [], want := 0 } ∧
    ∀ g : FoldId, ((doneOnMechanism s j d).fold g).deficit = (s.fold g).deficit := by
  obtain ⟨job, kpr, idleSince, work⟩ := takePace_idle (s := { s with job := none, sys := { s.sys with idleSince := s.us } }) rfl
  have noted := desc_modDesc (g := fun d => { d with mechUs := s.us - j.at_ }) (fun _ => rfl)
    ((sameWork_desc work j.f j.k).trans found)
  have ends := finish_ends d.status d.bytes noted
  refine ⟨?_, ?_, ?_, ends.ended _ noted, fun g => ?_⟩
  · exact (congrArg State.job ends.rest).trans job
  · exact (congrArg State.kpr ends.rest).trans kpr
  · exact (congrArg (fun t : State => t.sys.idleSince) ends.rest).trans idleSince
  · have kept := foldsKeep_trans (foldsKeep_modDesc _ j.f j.k _) ends.folds g
    exact (congrArg Fold.deficit kept).trans (work g).2

theorem chargedMechanism_keeps (s : State) (j : Job) {d : Desc} (found : s.desc? j.f j.k = some d) :
    (chargedMechanism s j d).job = none ∧ (chargedMechanism s j d).kpr = s.kpr ∧ (chargedMechanism s j d).sys.idleSince = s.us ∧
    (chargedMechanism s j d).desc? j.f j.k = some { d with mechUs := s.us - j.at_, stage := .done, aside := [], want := 0 } ∧
    ((chargedMechanism s j d).fold j.f).deficit =
      (s.fold j.f).deficit - (if j.uncharged then 0 else ((s.us - j.at_ : Nat) : Int)) ∧
    ∀ g : FoldId, g ≠ j.f → ((chargedMechanism s j d).fold g).deficit = (s.fold g).deficit := by
  obtain ⟨job, kpr, idleSince, done, deficit⟩ := doneOnMechanism_keeps s j found
  unfold chargedMechanism
  split
  · exact ⟨job, kpr, idleSince, done, by simp [deficit], fun g _ => deficit g⟩
  · refine ⟨job, kpr, idleSince, ?_, by simp [deficit], fun g hg => ?_⟩
    · refine (desc_modFold _ _ ?_ _ _).trans done
      exact fun _ => rfl
    · rw [modFold_fold_ne _ _ hg]
      exact deficit g

/-- The mode follows the mechanism's fall free (Table 16.6). -/
def modeSettled (s : State) : State := { s with sys := { s.sys with mode := modeWhenFree s } }

theorem exec_mechanismFree {s : State} {j : Job} {d : Desc} (running : s.job = some j) (ended : j.ended = true)
    (found : s.desc? j.f j.k = some d) (tag : lockVerifying s = false) (stop : s.kpr.collie.safeStop = false) :
    exec .mechanismFree s = .next (endTurn (modeSettled (chargedMechanism s j d)) j.f) := by
  have noStop : (modeSettled (chargedMechanism s j d)).kpr.collie.safeStop = false := by
    rw [show (modeSettled (chargedMechanism s j d)).kpr = s.kpr from (chargedMechanism_keeps s j found).2.1]
    exact stop
  have run : exec .mechanismFree s = .next (endTurn (if (modeSettled (chargedMechanism s j d)).kpr.collie.safeStop &&
      linksUp (modeSettled (chargedMechanism s j d)) then stopSafely (modeSettled (chargedMechanism s j d)) else
      modeSettled (chargedMechanism s j d)) j.f) := by
    show execMechanismFree s = _
    simp only [execMechanismFree, running, ended, found, tag, Bool.and_false]
    rfl
  rw [run, noStop]
  rfl

theorem mechanismFree_done {s : State} {j : Job} {d : Desc} (running : s.job = some j) (ended : j.ended = true)
    (found : s.desc? j.f j.k = some d) (tag : lockVerifying s = false) (stop : s.kpr.collie.safeStop = false) :
    ∃ t : State, ∃ e : Desc, exec .mechanismFree s = .next t ∧ t.job = none ∧ t.desc? j.f j.k = some e ∧ e.stage = .done ∧
      e.status = d.status ∧ e.bytes = d.bytes ∧ e.mechUs = s.us - j.at_ ∧
      (t.fold j.f).deficit ≤ (s.fold j.f).deficit - (if j.uncharged then 0 else ((s.us - j.at_ : Nat) : Int)) ∧
      t.sys.idleSince = s.us ∧ ∀ g : FoldId, g ≠ j.f → (t.fold g).deficit = (s.fold g).deficit := by
  obtain ⟨job, -, idleSince, done, deficit, others⟩ := chargedMechanism_keeps s j found
  obtain ⟨job', sys', desc', deficit', others'⟩ := endTurn_keeps (modeSettled (chargedMechanism s j d)) j.f
  refine ⟨_, _, exec_mechanismFree running ended found tag stop, job'.trans job, (desc' j.f j.k).trans done, rfl, rfl, rfl, rfl,
    ?_, ?_, fun g hg => (others' g hg).trans (others g hg)⟩
  · rw [← deficit]
    exact deficit'
  · rw [sys']
    exact idleSince

/-! ### Timeouts and aborts (R89, R99) -/

theorem exec_descriptorTimeout_unstarted {s : State} {f : FoldId} {k : Nat} {d : Desc} (found : s.desc? f k = some d)
    (active : descActive d = true) (accepted : descAccepted d = true) (stage : d.stage ≠ .draining) (late : d.deadline ≤ s.us)
    (off : jobOf s f k = none) (fresh : d.startedAt = none) :
    exec (.descriptorTimeout f k) s = .next (settleTurn (finishUnstarted s f k .timedOut)) := by
  show execDescriptorTimeout f k s = _
  simp [execDescriptorTimeout, found, active, accepted, stage, Nat.not_lt.mpr late, off, fresh]

theorem exec_descriptorTimeout_reading {s : State} {f : FoldId} {k : Nat} {d : Desc} {j : Job} (found : s.desc? f k = some d)
    (active : descActive d = true) (accepted : descAccepted d = true) (late : d.deadline ≤ s.us) (on : jobOf s f k = some j)
    (reads : opReads d.op = true) : exec (.descriptorTimeout f k) s = .next (stopJob s .timedOut) := by
  show execDescriptorTimeout f k s = _
  simp [execDescriptorTimeout, found, active, accepted, Nat.not_lt.mpr late, on, reads]

theorem finishUnstarted_endsAs (s : State) (f : FoldId) (k : Nat) (st : Status) :
    EndsAs (s.modDesc f k fun d => { d with writes := [], aux := [] }) (finishUnstarted s f k st) f k st 0 :=
  finish_endsAs _ f k st 0

theorem finishUnstarted_job (s : State) (f : FoldId) (k : Nat) (st : Status) : (finishUnstarted s f k st).job = s.job := by
  have job := congrArg State.job (finishUnstarted_endsAs s f k st).rest
  exact job

/-- ABORT of a ring whose one descriptor has not started. -/
theorem exec_wringAbort_unstarted {s : State} {f : FoldId} {n : RingId} {d : Desc} (bar : barUp s f = true) (idle : s.job = none)
    (only : (s.fold f).descs = [d]) (ring : d.ring = n) (fresh : d.startedAt = none) (active : descActive d = true)
    (stage : d.stage ≠ .draining) :
    exec (.wringAbort f n) s = .next (settleTurn (finishUnstarted (disableWring f n s) f d.k .aborted)) := by
  have descs : ((disableWring f n s).fold f).descs = [d] := by simp [disableWring, State.modWring, only]
  have aborted : abortUnstarted (disableWring f n s) f d = settleTurn (finishUnstarted (disableWring f n s) f d.k .aborted) := by
    simp [abortUnstarted, fresh, active, stage]
  have noJob : jobDesc (settleTurn (finishUnstarted (disableWring f n s) f d.k .aborted)) = none := by
    have none_ : (settleTurn (finishUnstarted (disableWring f n s) f d.k .aborted)).job = none :=
      (settleTurn_job _).trans ((finishUnstarted_job _ f d.k .aborted).trans idle)
    simp [jobDesc, none_]
  show execWringAbort f n s = _
  simp [execWringAbort, onBar, bar, abortWring, descs, ring, aborted, noJob]

/-! ### A WRITE's data from the host (R250) -/

section
variable {s : State} {f : FoldId} {k : Nat} {d : Desc} {j : Job} (on : jobOf s f k = some j) (found : s.desc? f k = some d)
  (stage : d.stage ≠ .vaultKey) (kind : j.kind = .writing) (op : d.op = .write) (more : j.data.length < d.fld.count)
include on found stage kind op more

theorem exec_hostDataRead_failed : exec (.hostDataRead f k .failed) s =
    .next (stopAtBoundary (aerReport (s.emits (listReadsAt s f d.list (2048 * j.data.length) 2048)) f) .writeFailed) := by
  have left : d.fld.count - j.data.length ≠ 0 := by omega
  show execHostDataRead f k .failed s = _
  simp [execHostDataRead, found, stage, on, kind, op, left]

theorem exec_hostDataRead_ok {t : State} {n : Nat} {l : List Byte} {bad : Bool}
    (blocks : n = min (l.length / 2048) (d.fld.count - j.data.length))
    (stored : memRun (s.emits (listReadsAt s f d.list (2048 * j.data.length) (2048 * n)))
      (setOps true (foldMask (s.emits (listReadsAt s f d.list (2048 * j.data.length) (2048 * n))) f) d.bufs (2048 * j.data.length)
        (2048 * n)) = (t, bad)) :
    exec (.hostDataRead f k (.ok l)) s = .next (if bad then stopAtBoundary t .memoryFault else
      settleGate (t.modJob fun j => { j with data := j.data ++ blocksOf n l, waitingData := false })) := by
  have left : d.fld.count - j.data.length ≠ 0 := by omega
  subst blocks
  show execHostDataRead f k (.ok l) s = _
  simp [execHostDataRead, found, stage, on, kind, op, left, stored]

end

/-- Settles O11, clause by clause: the round, dispatch, the mechanism's fall free, timeouts, ABORT and a WRITE's data. -/
theorem droverDispatchesAndFreesTheMechanism : Obligations.DroverDispatchesAndFreesTheMechanism := by
  refine ⟨fun s f d => droverDispatch_turn, fun s free still => ?_, fun s f d disc writes => ?_,
    fun s f d loaded disc same removals head => ?_, fun s f d found disc gone => ?_,
    fun s f d found disc there known changed => ?_, fun s f k d found => desc_modDesc (fun _ => rfl) found,
    fun s j d => mechanismFree_done, fun s f k d found active accepted stage late off fresh => ?_,
    fun s f => settleTurn_of_no_work, fun s f k d j => exec_descriptorTimeout_reading,
    fun s f n d bar idle only ring fresh active stage => ?_,
    fun s t f k n d j l bad on found stage kind op more => exec_hostDataRead_ok on found stage kind op more,
    fun s f k d j => exec_hostDataRead_failed⟩
  · simp [stopSpeculation, free, still]
  · exact dispatchDesc_starts (by simp [disc]) (by simp [disc]) (by simp [writes])
  · exact dispatchDesc_starts (by simp [discThere, loaded]) (by simp [discReplaced, same, removals]) (by simp [head])
  · rw [dispatchDesc_no_disc disc gone]
    exact finish_endsAs _ f d.k .noDisc 0
  · have replaced : discReplaced s d = true := by simpa [discReplaced, known] using changed
    rw [dispatchDesc_disc_changed disc there replaced]
    exact finish_endsAs _ f d.k .discChanged 0
  · exact ⟨_, exec_descriptorTimeout_unstarted found active accepted stage late off fresh, finishUnstarted_endsAs s f k .timedOut⟩
  · exact ⟨_, exec_wringAbort_unstarted bar idle only ring fresh active stage,
      finishUnstarted_endsAs (disableWring f n s) f d.k .aborted⟩

end Sys2Proof.Machine
end

section
/-! The records of the folds (R36, R37, R277) and the grants (R42 to R46, R63). -/
namespace Sys2Proof.Machine

/-! ### FOLD SET (R36, R37, R277) -/

theorem foldl_add_sumOf {α : Type} (w : α → Nat) (l : List α) (n : Nat) : l.foldl (fun a x => a + w x) n = n + sumOf w l := by
  unfold sumOf
  induction l generalizing n with
  | nil => rfl
  | cons x r ih => rw [List.foldl_cons, List.foldl_cons, ih, ih (0 + w x)]; omega

theorem sumOf_cons {α : Type} (w : α → Nat) (x : α) (r : List α) : sumOf w (x :: r) = w x + sumOf w r := by
  rw [sumOf, List.foldl_cons, foldl_add_sumOf, Nat.zero_add]

theorem le_sumOf_of_mem {α : Type} (w : α → Nat) {x : α} {l : List α} (h : x ∈ l) : w x ≤ sumOf w l := by
  induction h with
  | head r => rw [sumOf_cons]; omega
  | tail y _ ih => rw [sumOf_cons]; omega

/-- Two members together have at most what all have. -/
theorem pair_le_sumOf {α : Type} (w : α → Nat) {x y : α} (ne : y ≠ x) :
    ∀ {l : List α}, x ∈ l → y ∈ l → w x + w y ≤ sumOf w l
  | z :: r, hx, hy => by
    rw [sumOf_cons]
    rcases List.mem_cons.mp hx with rfl | xr
    · have := le_sumOf_of_mem w ((List.mem_cons.mp hy).resolve_left ne)
      omega
    · rcases List.mem_cons.mp hy with rfl | yr
      · have := le_sumOf_of_mem w xr
        omega
      · have := pair_le_sumOf w ne xr yr
        omega

theorem mem_allFolds (g : FoldId) : g ∈ allFolds := by
  revert g
  decide

/-- One fold's claim, or two folds' claims together, that no set of records can meet (R36). -/
theorem recordFits_false_of_clash {s : State} {f g : FoldId} {x : FoldRec} (ne : g ≠ f)
    (clash : (s.fold g).record.wayMask &&& x.wayMask ≠ 0 ∨ x.vaultQuota * 1024 < vaultUsed s f ∨
      20480 < x.bufMin + x.penQuota + (s.fold g).record.bufMin + (s.fold g).record.penQuota ∨
      960 < x.vaultQuota + (s.fold g).record.vaultQuota) : recordFits s f x = false := by
  rw [Bool.eq_false_iff]
  intro fits
  simp only [recordFits, Bool.and_eq_true, decide_eq_true_eq, List.all_eq_true, Bool.or_eq_true, beq_iff_eq] at fits
  obtain ⟨⟨⟨buffers, ways⟩, quotas⟩, stored⟩ := fits
  have buffersOfTwo := Nat.le_trans (pair_le_sumOf _ ne (mem_allFolds f) (mem_allFolds g)) buffers
  have quotasOfTwo := Nat.le_trans (pair_le_sumOf _ ne (mem_allFolds f) (mem_allFolds g)) quotas
  simp only [if_true, ne, if_false] at buffersOfTwo quotasOfTwo
  rcases clash with way | store | buf | quota
  · exact way ((ways g (mem_allFolds g)).resolve_left ne)
  · omega
  · omega
  · omega

theorem recordOk_iff (q : List Byte) : recordOk q = true ↔ byteAt q 0 ≤ 7 ∧ (recordAt q).flock ≤ 4 ∧ 1 ≤ (recordAt q).weight ∧
    (recordAt q).level = 1 ∧ (recordAt q).bufMin ≤ (recordAt q).bufMax ∧ 1 ≤ (recordAt q).bufMax ∧ (recordAt q).bufMax ≤ 20480 ∧
    (recordAt q).penQuota ≤ 8192 ∧ le16 q 10 < 4096 ∧ (recordAt q).vaultQuota ≤ 960 ∧ 1 ≤ (recordAt q).maxBlocks ∧
    1 ≤ (recordAt q).defTimeout ∧ zeroBytes q 0x12 0x3F = true := by
  simp only [recordOk, inRange, Bool.and_eq_true, decide_eq_true_eq, beq_iff_eq, and_assoc]

/-- A fold that a payload's first byte names is the one that FOLD SET takes. -/
theorem foldId_named {f : FoldId} {n : Nat} (h : f.val = n) : (⟨n % 8, Nat.mod_lt _ (by decide)⟩ : FoldId) = f :=
  Fin.ext (by rw [← h]; exact Nat.mod_eq_of_lt f.isLt)

/-- Where the new mask keeps every way that has power, no way is cleaned. -/
theorem cleanRemoved_none {s : State} {old new : BitVec 16}
    (kept : ∀ w : Nat, w < 12 → bit old w = true → bit new w = true ∨ bit s.cache.powered w = false) : cleanRemoved s old new = s := by
  have nothing : ((List.range 12).filter fun w => bit old w && !bit new w && bit s.cache.powered w) = [] := by
    rw [List.filter_eq_nil_iff]
    intro w hw taken
    simp only [Bool.and_eq_true, Bool.not_eq_true'] at taken
    obtain ⟨⟨had, lost⟩, power⟩ := taken
    rcases kept w (List.mem_range.mp hw) had with keeps | off
    · simp [keeps] at lost
    · simp [off] at power
  rw [cleanRemoved, nothing]
  rfl

section
variable {s : State} {k : Nat} {d : Desc} {r : List Byte} (running : runningAs s 0 k .foldSet = some d)
include running

theorem exec_foldSet_taken {f : FoldId} (fold : f.val = byteAt (fit 64 r) 0) (ok : recordOk (fit 64 r) = true)
    (level : (recordAt (fit 64 r)).level ≤ levelMax s) (fits : recordFits s f (recordAt (fit 64 r)) = true) :
    exec (.foldSet k r) s = .next (finish ((cleanRemoved s (s.fold f).record.wayMask (recordAt (fit 64 r)).wayMask).modDesc 0 k
      fun e => { e with applies := some (f, recordAt (fit 64 r)) }) 0 k .ok 64) := by
  show execFoldSet k r s = _
  simp [execFoldSet, running, foldId_named fold, ok, level, fits]

theorem exec_foldSet_outside (bad : recordOk (fit 64 r) = false) : exec (.foldSet k r) s = .next (finish s 0 k .badField 0) := by
  show execFoldSet k r s = _
  simp [execFoldSet, running, bad]

theorem exec_foldSet_clashes {f : FoldId} (fold : f.val = byteAt (fit 64 r) 0)
    (clash : recordFits s f (recordAt (fit 64 r)) = false) : exec (.foldSet k r) s = .next (finish s 0 k .badField 0) := by
  show execFoldSet k r s = _
  simp [execFoldSet, running, foldId_named fold, clash]

end

/-! ### GRANT INVALIDATE (R46) -/

theorem exec_grantInvalidate_one {s : State} {k : Nat} {d : Desc} (running : runningAs s 0 k .grantInvalidate = some d)
    (one : bit d.fld.opfield 8 = false) : exec (.grantInvalidate k) s = .next (finish { s with plat := { s.plat with
      cache := s.plat.cache.filter fun c => c.grant.index != bits d.fld.opfield 7 0 } } 0 k .ok 0) := by
  show execGrantInvalidate k s = _
  simp [execGrantInvalidate, running, one]

theorem exec_grantInvalidate_all {s : State} {k : Nat} {d : Desc} (running : runningAs s 0 k .grantInvalidate = some d)
    (all : bit d.fld.opfield 8 = true) :
    exec (.grantInvalidateAll k) s = .next (finish { s with plat := { s.plat with cache := [] } } 0 k .ok 0) := by
  show execGrantInvalidateAll k s = _
  simp [execGrantInvalidateAll, running, all]

/-- Settles O38, clause by clause: the record taken, refused by its ranges, refused by the other folds' records, and the cache's
entries dropped. -/
theorem foldRecordsAreSetWholeAndGrantsInvalidated : Obligations.FoldRecordsAreSetWholeAndGrantsInvalidated := by
  refine ⟨?_, ?_, fun s k d r running big => ?_, fun s f g x => recordFits_false_of_clash, fun _ => rfl,
    fun s k d running one => ⟨_, exec_grantInvalidate_one running one, finish_endsAs _ 0 k .ok 0⟩,
    fun s k d running all => ⟨_, exec_grantInvalidate_all running all, finish_endsAs _ 0 k .ok 0⟩⟩
  · rintro s k d r q f x rfl running fold rfl ⟨flock, weight, level, bufs, bufMax1, bufMax, pen, ways, quota, blocks, timeout, zero,
      firmware⟩ fits
    have ok := (recordOk_iff (fit 64 r)).mpr ⟨by have := f.isLt; omega, flock, weight, level, bufs, bufMax1, bufMax, pen, ways,
      quota, blocks, timeout, zero⟩
    exact ⟨_, cleanRemoved s _ _, exec_foldSet_taken running fold ok (level ▸ firmware) fits, finish_endsAs _ 0 k .ok 64,
      rfl, cleanRemoved_none⟩
  · rintro s k d r q f x rfl running fold rfl wrong
    refine ⟨_, ?_, finish_endsAs s 0 k .badField 0⟩
    by_cases fits : recordFits s f (recordAt (fit 64 r)) = false
    · exact exec_foldSet_clashes running fold fits
    · refine exec_foldSet_outside running (Bool.eq_false_iff.mpr fun ok => ?_)
      obtain ⟨-, flock, weight, level, bufs, bufMax1, bufMax, pen, ways, quota, blocks, timeout, zero⟩ := (recordOk_iff _).mp ok
      simp only [zero, fits, Bool.true_eq_false, or_false] at wrong
      omega
  · have outside : recordOk (fit 64 r) = false := Bool.eq_false_iff.mpr fun ok => by
      have := ((recordOk_iff _).mp ok).1
      omega
    exact ⟨_, exec_foldSet_outside running outside, finish_endsAs s 0 k .badField 0⟩

/-! ### Grants (R42 to R45, R63) -/

theorem grantPasses_range_iff (g : Grant) (f : FoldId) (need : BitVec 8) (lba n : Nat) (disc : Option DiscInfo) :
    grantPasses g f need .range lba n disc = true ↔ g.fold = f.val ∧ g.rights &&& need = need ∧ g.startLba ≤ lba ∧
      lba + n - 1 ≤ g.endLba ∧ (g.discId = 0 ∨ ∃ di : DiscInfo, disc = some di ∧ di.discId = g.discId) := by
  have ofDisc : (disc.map (·.discId) == some g.discId) = true ↔ ∃ di : DiscInfo, disc = some di ∧ di.discId = g.discId := by
    rw [beq_iff_eq, Option.map_eq_some_iff]
  simp only [grantPasses, Bool.and_eq_true, Bool.or_eq_true, beq_iff_eq, decide_eq_true_eq, ofDisc, and_assoc]

theorem step3_disabled {s : State} {f : FoldId} {k : Nat} {d : Desc} (needs : (opGrant d.op).isSome = true)
    (off : s.plat.gntEn = false) : step3 s f k d = finishUnstarted s f k .noGrant := by
  simp [step3, Option.isNone_eq_false_iff.mpr needs, off]

section
variable {s : State} (bar : barUp s 0 = true)
include bar

theorem exec_gntBaseWrite_high (v : Word) (off : s.plat.gntEn = false) :
    exec (.gntBaseWrite true v) s = .next { s with plat := { s.plat with gntBaseHi := v, cache := [] } } := by
  show execGntBaseWrite true v s = _
  simp [execGntBaseWrite, onBar, bar, off]

theorem exec_gntBaseWrite_low (v : Word) (off : s.plat.gntEn = false) :
    exec (.gntBaseWrite false v) s = .next { s with plat := { s.plat with gntBaseLo := v &&& 0xFFFFE000, cache := [] } } := by
  show execGntBaseWrite false v s = _
  simp [execGntBaseWrite, onBar, bar, off]

theorem exec_gntBaseWrite_ignored (high : Bool) (v : Word) (on : s.plat.gntEn = true) :
    exec (.gntBaseWrite high v) s = .next s := by
  show execGntBaseWrite high v s = _
  simp [execGntBaseWrite, onBar, bar, on]

theorem exec_gntCtlWrite (v : Word) : exec (.gntCtlWrite v) s =
    .next { s with plat := { s.plat with gntEn := bit v 0, cache := if bit v 0 then s.plat.cache else [] } } := by
  show execGntCtlWrite v s = _
  cases en : bit v 0 with
  | true => simp [execGntCtlWrite, onBar, bar, en]
  | false => simp [execGntCtlWrite, onBar, bar, en]

theorem exec_gntStatClear : exec .gntStatClear s = .next { s with plat := { s.plat with torn := 0, misses := 0 } } := by
  show execGntStatClear s = _
  simp [execGntStatClear, onBar, bar]

end

/-- Settles O10: the check of one entry, step 3 of R44 while GNT_EN is 0, and one equation per write of a grant register. -/
theorem grantsCoverAWholeRangeAndTheirRegistersEmptyTheCache :
    Obligations.GrantsCoverAWholeRangeAndTheirRegistersEmptyTheCache := by
  refine ⟨grantPasses_range_iff, fun s f k d _ needs off => ?_, fun s v bar off => exec_gntBaseWrite_high bar v off,
    fun s v bar off => exec_gntBaseWrite_low bar v off, fun s high v bar on => exec_gntBaseWrite_ignored bar high v on,
    fun s v bar => exec_gntCtlWrite bar v, fun s bar => exec_gntStatClear bar⟩
  rw [step3_disabled needs off]
  exact finishUnstarted_endsAs s f k .noGrant

end Sys2Proof.Machine
end

section
/-! The doorbell page at work: tails, polling, sleeping, heads, status blocks and coalesced messages (R67 to R70, R75, R77). -/
namespace Sys2Proof.Machine

/-! ### One tail of the page (R68) -/

section
variable {s : State} {f : FoldId} {n : RingId} {T : Word}

theorem takeTail_idle (h : (s.wring f n).en = false ∨ (s.wring f n).err ≠ 0) : takeTail s f n T = (s, false) := by
  rcases h with h | h <;> simp [takeTail, h]

section
variable (en : (s.wring f n).en = true) (err : (s.wring f n).err = 0)
include en err

theorem takeTail_enabled : takeTail s f n T =
    if 2 ^ (s.wring f n).log2 < (T - (s.wring f n).cons).toNat then (wringError s f n 1, false)
    else (s.modWring f n fun w => { w with tail := T },
      T != (s.wring f n).tail && decide (0 < (T - (s.wring f n).cons).toNat)) := by
  simp only [takeTail, en, err]
  rfl

theorem takeTail_beyond (far : 2 ^ (s.wring f n).log2 < (T - (s.wring f n).cons).toNat) :
    takeTail s f n T = (wringError s f n 1, false) := by
  rw [takeTail_enabled en err, if_pos far]

theorem takeTail_none (same : (T - (s.wring f n).cons).toNat = 0) : (takeTail s f n T).2 = false ∧
    ((takeTail s f n T).1.wring f n).tail = (s.wring f n).cons ∧ ((takeTail s f n T).1.wring f n).err = 0 := by
  have atCons : T = (s.wring f n).cons := by bv_omega
  rw [takeTail_enabled en err, same, if_neg (Nat.not_lt_zero _), modWring_wring]
  exact ⟨Bool.and_false _, atCons, err⟩

theorem takeTail_some (new : 1 ≤ (T - (s.wring f n).cons).toNat)
    (near : (T - (s.wring f n).cons).toNat ≤ 2 ^ (s.wring f n).log2) :
    takeTail s f n T = (s.modWring f n fun w => { w with tail := T }, T != (s.wring f n).tail) := by
  rw [takeTail_enabled en err, if_neg (Nat.not_lt.mpr near), decide_eq_true (Nat.lt_of_lt_of_le Nat.zero_lt_one new),
    Bool.and_true]

end

end

/-- Settles O6: the difference to CONSUMED is 0, 1 to N, or more than N; a ring disabled or in error is left. -/
theorem tailsAreJudgedByTheDifference : Obligations.TailsAreJudgedByTheDifference := fun _ _ _ _ =>
  ⟨takeTail_none, takeTail_some, takeTail_beyond, takeTail_idle⟩

/-! ### Which functions master, and the status block (R67) -/

/-- Whether a fold may master turns on its bus master bit, a reset in progress and the functions that exist. -/
theorem canMaster_congr {s t : State} {f : FoldId} (plat : t.plat = s.plat) (master : (t.fold f).busMaster = (s.fold f).busMaster)
    (reset : (t.fold f).resetting = (s.fold f).resetting) : canMaster t f = canMaster s f := by
  simp only [canMaster, foldExists, plat, master, reset]

@[simp] theorem canMaster_modDbp (s : State) (f : FoldId) (g : Doorbell → Doorbell) :
    canMaster (s.modDbp f g) f = canMaster s f :=
  canMaster_congr rfl (by simp [State.modDbp]) (by simp [State.modDbp])

theorem leBytes_length (k n : Nat) : (leBytes k n).length = k := by
  induction k generalizing n with
  | zero => rfl
  | succ k ih => rw [leBytes, List.length_cons, ih]

/-- Fields of one width, one after the other. -/
theorem flatMap_length {α : Type} {g : α → List Byte} {n : Nat} (width : ∀ x : α, (g x).length = n) (l : List α) :
    (l.flatMap g).length = n * l.length := by
  induction l with
  | nil => rfl
  | cons x r ih => rw [List.flatMap_cons, List.length_append, width, ih, List.length_cons, Nat.mul_succ, Nat.add_comm]

theorem statusBytes_length (x : Fold) : (statusBytes x).length = 64 := by
  have indices := flatMap_length (fun w : Wring => leBytes_length 4 w.cons.toNat) x.wrings.toList
  have posted := flatMap_length (fun r : Dring => leBytes_length 4 r.posted.toNat) x.drings.toList
  rw [Vector.length_toList] at indices posted
  simp only [statusBytes, zeros, List.length_append, List.length_replicate, leBytes_length, indices, posted]

theorem statusBlock_written {s : State} {f : FoldId} (en : (s.fold f).dbp.en = true) (master : canMaster s f = true) :
    statusBlock s f = (s.emit (.write f (dbpBase (s.fold f).dbp + 0x80) (statusBytes (s.fold f)))).modDbp f
      fun d => { d with dirty := false, blockAt := s.us } := by
  simp only [statusBlock, en, master]
  rfl

/-- Writing the status block changes the page's state and what goes out. -/
theorem statusBlock_frame (s : State) (f : FoldId) :
    statusBlock s f = { s with folds := (statusBlock s f).folds, out := (statusBlock s f).out } := by
  unfold statusBlock
  dsimp only
  split <;> rfl

theorem exec_statusBlockWrite {s : State} {f : FoldId} (dirty : (s.fold f).dbp.dirty = true) :
    exec (.statusBlockWrite f) s = .next (statusBlock s f) := by
  show execStatusBlockWrite f s = _
  simp [execStatusBlockWrite, dirty]

/-! ### A poll and its data (R69) -/

theorem exec_doorbellPoll {s : State} {f : FoldId} (due : pollDue s f = true) : exec (.doorbellPoll f) s =
    .next ((s.modDbp f fun d => { d with polling := true, pollNow := false, issuedAt := s.us }).emit
      (.readReq f (dbpBase (s.fold f).dbp) 72)) := by
  show execDoorbellPoll f s = _
  simp [execDoorbellPoll, due]

section
variable {s : State} {f : FoldId} (polling : (s.fold f).dbp.polling = true) (poll : (s.fold f).dbp.finalRead = false)
include polling poll

theorem exec_pollResult_dropped (r : ReadResult PollData) (old : (s.fold f).dbp.stale = true ∨ (s.fold f).dbp.en = false) :
    exec (.pollResult f r) s = .next (s.modDbp f fun d => { d with polling := false, stale := false }) := by
  show execPollResult f r s = _
  rcases old with old | old <;> simp [execPollResult, polling, poll, old]

variable (en : (s.fold f).dbp.en = true) (fresh : (s.fold f).dbp.stale = false)
include en fresh

theorem exec_pollResult_ok {u : State} {p : PollData} {new : Bool}
    (taken : takeTails (takeHead f 1 p.head1 (takeHead f 0 p.head0 (s.modDbp f fun d => { d with polling := false }))) f p =
      (u, new)) :
    exec (.pollResult f (.ok p)) s = .next (u.modDbp f fun d =>
      if new then { d with interval := 1, newTailAt := d.issuedAt } else { d with interval := min 64 (2 * d.interval) }) := by
  show execPollResult f (.ok p) s = _
  simp [execPollResult, polling, poll, en, fresh, taken]

theorem exec_pollResult_failed : exec (.pollResult f .failed) s =
    .next (pageFault (s.modDbp f fun d => { d with polling := false }) f) := by
  show execPollResult f .failed s = _
  simp [execPollResult, polling, poll, en, fresh]

end

/-! ### Sleeping and the final tail read (R70) -/

/-- The page's state when SLEEP_AFTER has passed: it sleeps, and its final tail read is out. -/
def asleep (d : Doorbell) : Doorbell := { d with sleeping := true, sleepSeq := d.sleepSeq + 1, finalRead := true, polling := true }

/-- A fold that falls asleep, its status block still to be written. -/
def fallenAsleep (s : State) (f : FoldId) : State := { s.modDbp f asleep with sys := { s.sys with quietSince := s.us } }

theorem fallenAsleep_dbp (s : State) (f : FoldId) : ((fallenAsleep s f).fold f).dbp = asleep (s.fold f).dbp :=
  modDbp_dbp s f asleep

theorem statusBlock_fallenAsleep_frame (s : State) (f : FoldId) (o : Out) : (statusBlock (fallenAsleep s f) f).emit o =
    { s with folds := (statusBlock (fallenAsleep s f) f).folds, out := (statusBlock (fallenAsleep s f) f).out ++ [o],
             sys := { s.sys with quietSince := s.us } } :=
  congrArg (fun t : State => t.emit o) (statusBlock_frame (fallenAsleep s f) f)

section
variable {s : State} {f : FoldId} (en : (s.fold f).dbp.en = true)
include en

/-- The status block that says SLEEPING is written, then the tails are read again. -/
theorem exec_sleepEnter (mode : pollingMode s = true) (master : canMaster s f = true) (awake : (s.fold f).dbp.sleeping = false)
    (runs : (s.fold f).dbp.stopped = false) (idle : (s.fold f).dbp.polling = false)
    (due : (s.fold f).dbp.newTailAt + max 16 (s.fold f).dbp.sleepAfter ≤ s.us) : exec (.sleepEnter f) s =
      .next ((statusBlock (fallenAsleep s f) f).emit (.readReq f (dbpBase (s.fold f).dbp) 16)) := by
  show execSleepEnter f s = _
  simp only [execSleepEnter, mode, master, en, awake, runs, idle, due]
  rfl

theorem statusBlock_fallenAsleep (master : canMaster s f = true) : statusBlock (fallenAsleep s f) f =
    ((fallenAsleep s f).emit (.write f (dbpBase (s.fold f).dbp + 0x80) (statusBytes ((fallenAsleep s f).fold f)))).modDbp f
      fun d => { d with dirty := false, blockAt := s.us } := by
  have page : dbpBase ((fallenAsleep s f).fold f).dbp = dbpBase (s.fold f).dbp := by rw [fallenAsleep_dbp]; rfl
  have pageOn : ((fallenAsleep s f).fold f).dbp.en = true := by rw [fallenAsleep_dbp]; exact en
  rw [statusBlock_written pageOn ((canMaster_modDbp s f asleep).trans master), page]
  rfl

theorem statusBlock_fallenAsleep_dbp (master : canMaster s f = true) : ((statusBlock (fallenAsleep s f) f).fold f).dbp =
    { asleep (s.fold f).dbp with dirty := false, blockAt := s.us } := by
  rw [statusBlock_fallenAsleep en master, modDbp_dbp, emit_fold, fallenAsleep_dbp]

theorem statusBlock_fallenAsleep_out (master : canMaster s f = true) : (statusBlock (fallenAsleep s f) f).out =
    s.out ++ [.write f (dbpBase (s.fold f).dbp + 0x80) (statusBytes ((fallenAsleep s f).fold f))] := by
  rw [statusBlock_fallenAsleep en master]
  rfl

variable (final : (s.fold f).dbp.finalRead = true) (fresh : (s.fold f).dbp.stale = false) {u : State} {p : PollData}
include final fresh

theorem exec_finalTailRead_quiet
    (taken : takeTails (s.modDbp f fun d => { d with finalRead := false, polling := false }) f p = (u, false))
    (asleep : (u.fold f).dbp.sleeping = true) :
    exec (.finalTailRead f (.ok p)) s = .next (u.modDbp f fun d => { d with stopped := true }) := by
  show execFinalTailRead f (.ok p) s = _
  simp [execFinalTailRead, en, final, fresh, taken, asleep]

theorem exec_finalTailRead_new
    (taken : takeTails (s.modDbp f fun d => { d with finalRead := false, polling := false }) f p = (u, true)) :
    exec (.finalTailRead f (.ok p)) s = .next (statusBlock (u.modDbp f fun d => { d with
      interval := 1, stopped := false, newTailAt := u.us, sleeping := false, pollNow := false, issuedAt := u.us }) f) := by
  show execFinalTailRead f (.ok p) s = _
  simp [execFinalTailRead, en, final, fresh, taken, startPolling, modDbp_modDbp]

end

/-! ### Head reads (R75) and coalesced messages (R77) -/

section
variable {s : State} {f : FoldId} {m : DringId} {h : Word} (page : (s.fold f).dbp.en = true) (master : canMaster s f = true)
  (mode : pollingMode s = true) (stuck : (s.dring f m).held ≠ [] ∨ dringSpace (s.dring f m) = false)
  (en : (s.dring f m).en = true) (err : (s.dring f m).err = 0)
include page master mode stuck en err

/-- A ring that holds back or is full has its head read. -/
theorem exec_headRead : exec (.headRead f m (.ok h)) s =
    .next (takeHead f m h (s.emit (.readReq f (dbpBase (s.fold f).dbp + 0x40 + 4 * m.val) 4))) := by
  have wanted : headWanted s f m = true := by
    rcases stuck with stuck | stuck <;> simp [headWanted, page, master, mode, en, err, stuck]
  show execHeadRead f m (.ok h) s = _
  simp only [execHeadRead, wanted]
  rfl

theorem exec_headRead_taken (inside : ((s.dring f m).posted - h).toNat ≤ 2 ^ (s.dring f m).log2) :
    exec (.headRead f m (.ok h)) s = .next (drainHeld ((s.emit
      (.readReq f (dbpBase (s.fold f).dbp + 0x40 + 4 * m.val) 4)).modDring f m fun r => { r with head := h }) f m) := by
  rw [exec_headRead page master mode stuck en err]
  have emitted : ∀ o : Out, (s.emit o).dring f m = s.dring f m := fun _ => rfl
  have ok : headInRange (s.dring f m) h = true := decide_eq_true inside
  simp [takeHead, emitted, en, err, ok]

theorem exec_headRead_beyond (outside : 2 ^ (s.dring f m).log2 < ((s.dring f m).posted - h).toNat) :
    exec (.headRead f m (.ok h)) s =
      .next (dringError (s.emit (.readReq f (dbpBase (s.fold f).dbp + 0x40 + 4 * m.val) 4)) f m 5) := by
  rw [exec_headRead page master mode stuck en err]
  have emitted : ∀ o : Out, (s.emit o).dring f m = s.dring f m := fun _ => rfl
  have wrong : headInRange (s.dring f m) h = false := decide_eq_false (Nat.not_le.mpr outside)
  simp [takeHead, emitted, en, err, wrong]

end

theorem exec_coalTimeExpiry {s : State} {f : FoldId} {m : DringId} {at_ : Nat} (oldest : (s.dring f m).oldest = some at_)
    (pending : 0 < (s.dring f m).pend) (due : at_ + (s.dring f m).coalTime ≤ s.us) : exec (.coalTimeExpiry f m) s =
      .next (sendMsix (s.modDring f m fun r => { r with pend := 0, oldest := none }) f (s.dring f m).vec) := by
  show execCoalTimeExpiry f m s = _
  simp [execCoalTimeExpiry, oldest, pending, due, signalRing]

/-- Settles O7, clause by clause: one equation per row and case. -/
theorem pollingFollowsTheDoorbellProtocol : Obligations.PollingFollowsTheDoorbellProtocol := by
  refine ⟨fun s f => exec_doorbellPoll, fun s u f p new polling poll en fresh => exec_pollResult_ok polling poll en fresh,
    fun s f => exec_pollResult_failed, fun s f r polling poll => exec_pollResult_dropped polling poll r,
    fun s f mode master en awake runs idle due => ⟨_, exec_sleepEnter en mode master awake runs idle due, ?_⟩,
    fun s u f p final en fresh => exec_finalTailRead_quiet en final fresh,
    fun s u f p final en fresh => exec_finalTailRead_new en final fresh, fun s f dirty en master => ?_,
    fun s f m h => exec_headRead_taken, fun s f m h => exec_headRead_beyond, fun s f m at_ => exec_coalTimeExpiry⟩
  · have page := statusBlock_fallenAsleep_dbp en master
    refine ⟨congrArg Doorbell.sleeping page, congrArg Doorbell.sleepSeq page, congrArg Doorbell.finalRead page,
      congrArg Doorbell.dirty page, ⟨_, statusBytes_length ((fallenAsleep s f).fold f), ?_⟩,
      statusBlock_fallenAsleep_frame s f _⟩
    rw [emit_out, statusBlock_fallenAsleep_out en master, List.append_assoc]
    rfl
  · rw [exec_statusBlockWrite dirty, statusBlock_written en master]

end Sys2Proof.Machine
end

section
/-! Work rings, done rings and the doorbell page are set up by their registers (R64, R89, R90, R95, Tables 3.4 and 3.6). -/
namespace Sys2Proof.Machine

theorem log2Ok_iff (n : Nat) : log2Ok n = true ↔ 4 ≤ n ∧ n ≤ 12 := by
  simp [log2Ok]

section
variable {s : State} {f : FoldId} (bar : barUp s f = true)
include bar

/-! ### Work rings (R64, R89, Table 3.4) -/

section
variable {n : RingId} {v : Word} (off : (s.wring f n).en = false) (idle : ringBusy s f n = false)
include off idle

theorem exec_wringEnable_opens (least : 4 ≤ bits v 7 4) (most : bits v 7 4 ≤ 12) (doneRing : (s.dring f (dringOf v)).en = true) :
    exec (.wringEnable f n v) s = .next ((s.modWring f n fun w => { w with
      dring := dringOf v, log2 := bits v 7 4, en := true, err := 0, cons := 0, tail := 0 }).modDbp f fun d =>
        { d with dirty := d.dirty || (s.wring f n).cons != 0 }) := by
  have size := (log2Ok_iff _).mpr ⟨least, most⟩
  show execWringEnable f n v s = _
  simp [execWringEnable, onBar, bar, enableWring, off, idle, size, doneRing, markIndex, modWring_modWring]

theorem exec_wringEnable_refused
    (wrong : bits v 7 4 < 4 ∨ 12 < bits v 7 4 ∨ (s.dring f (dringOf v)).en = false) :
    exec (.wringEnable f n v) s =
      .next (wringError (s.modWring f n fun w => { w with dring := dringOf v, log2 := bits v 7 4 }) f n 4) := by
  have refused : (!log2Ok (bits v 7 4) || !(s.dring f (dringOf v)).en) = true := by
    cases size : log2Ok (bits v 7 4) with
    | false => rfl
    | true =>
      obtain ⟨least, most⟩ := (log2Ok_iff _).mp size
      have closed := (wrong.resolve_left (by omega)).resolve_left (by omega)
      rw [closed]
      rfl
  show execWringEnable f n v s = _
  simp only [execWringEnable, onBar, bar, enableWring, off, idle, if_true, Bool.false_eq_true, if_false, modWring_wring,
    modWring_dring]
  rw [if_pos refused]

end

theorem exec_wringDisable (n : RingId) : exec (.wringDisable f n) s = .next (disableWring f n s) := by
  show execWringDisable f n s = _
  simp [execWringDisable, onBar, bar]

/-! ### Done rings (R90) -/

theorem exec_dringEnable {m : DringId} {v : Word} (off : (s.dring f m).en = false) (least : 4 ≤ bits v 7 4)
    (most : bits v 7 4 ≤ 12) : exec (.dringEnable f m v) s = .next ((s.modDring f m fun r => { r with
      vec := Fin.ofNat 8 (bits v 3 1), coalCount := bits v 15 8, coalTime := bits v 31 16, log2 := bits v 7 4, en := true, err := 0,
      posted := 0, head := 0, pend := 0, oldest := none, held := [], lostEvents := 0 }).modDbp f fun d =>
        { d with dirty := d.dirty || (s.dring f m).posted != 0 }) := by
  have ok := (log2Ok_iff _).mpr ⟨least, most⟩
  show execDringEnable f m v s = _
  simp [execDringEnable, onBar, bar, enableDring, off, ok, markIndex, modDring_modDring, dringFields]

theorem exec_dringReconfigure {m : DringId} {v : Word} (en : (s.dring f m).en = true) :
    exec (.dringReconfigure f m v) s = .next (s.modDring f m (dringFields v)) := by
  show execDringReconfigure f m v s = _
  simp [execDringReconfigure, onBar, bar, en]

theorem exec_dringDisable {m : DringId} (free : dringNamed s f m = false) : exec (.dringDisable f m) s =
    .next ((s.modDring f m fun r => { r with
      en := false, err := 0, posted := 0, head := 0, held := [], lostEvents := 0, pend := 0, oldest := none }).modDbp f fun d =>
        { d with dirty := d.dirty || (s.dring f m).posted != 0 }) := by
  show execDringDisable f m s = _
  simp [execDringDisable, onBar, bar, disableDring, free, markIndex]

theorem exec_dringDisable_named {m : DringId} (named : dringNamed s f m = true) : exec (.dringDisable f m) s = .next s := by
  show execDringDisable f m s = _
  simp [execDringDisable, onBar, bar, disableDring, named]

/-! ### The doorbell page (R69, R90, R95) -/

theorem exec_dbpEnable {v : Word} (off : (s.fold f).dbp.en = false) : exec (.dbpEnable f v) s =
    .next (s.modDbp f fun d => { d with
      en := true, sleepAfter := bits v 31 16, sleeping := false, finalRead := false, issuedAt := s.us, blockAt := s.us,
      interval := 1, stopped := false, pollNow := true, newTailAt := s.us }) := by
  show execDbpEnable f v s = _
  simp [execDbpEnable, onBar, bar, enableDbp, off, startPolling, modDbp_modDbp]

theorem exec_dbpDisable : exec (.dbpDisable f) s = .next (disableDbp f s) := by
  show execDbpDisable f s = _
  simp [execDbpDisable, onBar, bar]

end

/-- Settles O8, clause by clause: one equation per register and case. -/
theorem ringsAndTheDoorbellPageAreSetUp : Obligations.RingsAndTheDoorbellPageAreSetUp :=
  ⟨fun _ _ _ _ bar => exec_wringEnable_opens bar, fun _ _ _ _ bar => exec_wringEnable_refused bar,
    fun _ _ n bar => exec_wringDisable bar n, fun _ _ _ _ bar => exec_dringEnable bar, fun _ _ _ _ bar => exec_dringReconfigure bar,
    fun _ _ _ bar => exec_dringDisable bar, fun _ _ _ bar => exec_dringDisable_named bar, fun _ _ _ bar => exec_dbpEnable bar,
    fun _ _ bar => exec_dbpDisable bar⟩

end Sys2Proof.Machine
end

section
/-! Descriptors are fetched (R78, R88), their lists read (R100), their grants looked up (R41, R45), their buffers granted (R265) and
those without the mechanism started (R106). -/
namespace Sys2Proof.Machine

/-! ### Fetches (R78, R88) -/

/-- A fold one of whose work rings has a fetch out, and was served last in the fold's round robin. -/
def fetchingFold (n : RingId) (x : Fold) : Fold :=
  { x with wrings := x.wrings.set n { x.wrings.get n with fetching := true }, rrRing := n }

/-- A fetch has been issued: one read of the descriptors published in the ring. -/
def fetchIssued (s : State) (f : FoldId) (n : RingId) : State :=
  { (s.modFold f (fetchingFold n)) with drover := { s.drover with fetchLast := f } }.emit
    (.readReq f (ringBase (s.wring f n).baseLo (s.wring f n).baseHi + 64 * ((s.wring f n).cons.toNat % 2 ^ (s.wring f n).log2))
      (64 * fetchCount s f n))

theorem exec_descriptorFetch {s : State} {f : FoldId} {n : RingId} (few : fetchesOut s < 8)
    (next : ((foldsAfter s.drover.fetchLast).findSome? fun g =>
      ((ringsAfter (s.fold g).rrRing).find? fun m => fetchable s g m).map fun m => (g, m)) = some (f, n)) :
    exec .descriptorFetch s = .next (fetchIssued s f n) := by
  show execDescriptorFetch s = _
  simp only [execDescriptorFetch, Nat.not_le.mpr few, if_false, next, State.modWring, modFold_modFold]
  rfl

theorem fetchIssued_fold (s : State) (f : FoldId) (n : RingId) : (fetchIssued s f n).fold f = fetchingFold n (s.fold f) :=
  modFold_fold s f _

theorem fetchIssued_fold_ne (s : State) (n : RingId) {f g : FoldId} (h : g ≠ f) : (fetchIssued s f n).fold g = s.fold g :=
  modFold_fold_ne s _ h

section
variable {s : State} {f : FoldId} {n : RingId} (out : (s.wring f n).fetching = true)
include out

theorem exec_descriptorConsume_dropped (r : ReadResult (List RawDesc))
    (old : (s.wring f n).stale = true ∨ (s.wring f n).en = false ∨ (s.wring f n).err ≠ 0) :
    exec (.descriptorConsume f n r) s = .next (s.modWring f n fun w => { w with fetching := false, stale := false }) := by
  show execDescriptorConsume f n r s = _
  rcases old with old | old | old <;> simp [execDescriptorConsume, out, old]

variable (en : (s.wring f n).en = true) (err : (s.wring f n).err = 0) (fresh : (s.wring f n).stale = false)
include en err fresh

theorem exec_descriptorConsume_ok (l : List RawDesc) (consumes : consuming s f = true) :
    exec (.descriptorConsume f n (.ok l)) s = .next (consumeAll f n
      (s.modWring f n fun w => { w with fetching := false, stale := false }) (l.take (fetchCount s f n))) := by
  show execDescriptorConsume f n (.ok l) s = _
  simp [execDescriptorConsume, out, en, err, fresh, consumes]

theorem exec_descriptorConsume_failed : exec (.descriptorConsume f n .failed) s =
    .next (wringError (s.modWring f n fun w => { w with fetching := false, stale := false }) f n 2) := by
  show execDescriptorConsume f n .failed s = _
  simp [execDescriptorConsume, out, en, err, fresh]

end

/-! ### Scatter lists (R100) -/

/-- The reads of a scatter list that follow its first one. -/
def furtherListReads (s : State) (f : FoldId) (d : Desc) (es : List RawEntry) : List Out :=
  ((listReads (min (s.fold f).maxReadRequest 512) es d.fld.listPtr none 0).drop 1).map fun r => Out.readReq f r.1 r.2

section
variable {s : State} {f : FoldId} {k : Nat} {d : Desc} (found : s.desc? f k = some d) (stage : d.stage = .list)
include found stage

theorem exec_listRead_kept {es : List RawEntry} {l : List (Nat × Nat)} (ok : checkList es d.fld.length = some l) :
    exec (.listRead f k (.ok es)) s = .next (checkLength ((s.emits (furtherListReads s f d es)).modDesc f k
      fun d => { d with list := l }) f k d) := by
  show execListRead f k (.ok es) s = _
  simp [execListRead, found, stage, ok, furtherListReads]

theorem exec_listRead_rejected {es : List RawEntry} (bad : checkList es d.fld.length = none) :
    exec (.listRead f k (.ok es)) s = .next (reject (s.emits (furtherListReads s f d es)) f k .badList) := by
  show execListRead f k (.ok es) s = _
  simp [execListRead, found, stage, bad, furtherListReads]

theorem exec_listRead_failed : exec (.listRead f k .failed) s = .next (reject s f k .badList) := by
  show execListRead f k .failed s = _
  simp [execListRead, found, stage]

end

/-! ### The grant table (R41, R45) -/

section
variable {s : State} {f : FoldId} {k i : Nat} {d : Desc} (found : s.desc? f k = some d) (on : s.plat.gntEn = true)
include found on

theorem exec_grantTableRead (stage : d.stage = .grant i 0) (l : List RawGrant) : exec (.grantTableRead f k (.ok l)) s =
    .next (scanEntries s f k d (l.take (min (grantChunk s) (256 - i))) i) := by
  show execGrantTableRead f k (.ok l) s = _
  simp [execGrantTableRead, found, stage, on]

variable {n : Nat} (stage : d.stage = .grant i (n + 1))
include stage

theorem exec_grantReread_early (r : ReadResult RawGrant) (early : s.us < d.tornAt + 1) :
    exec (.grantReread f k r) s = .next s := by
  show execGrantReread f k r s = _
  simp only [execGrantReread, found, stage, on, early]
  rfl

variable (due : d.tornAt + 1 ≤ s.us) {g : RawGrant}
include due

theorem exec_grantReread_whole (whole : g.seqA = g.seqB) : exec (.grantReread f k (.ok g)) s =
    .next (scanEntries (s.emit (.readReq 0 (grantBase s + 32 * i) 32)) f k d [g] i) := by
  show execGrantReread f k (.ok g) s = _
  simp [execGrantReread, found, stage, on, Nat.not_lt.mpr due, whole]

theorem exec_grantReread_torn (torn : g.seqA ≠ g.seqB) (again : n + 1 < 7) : exec (.grantReread f k (.ok g)) s =
    .next (awaitReread (s.emit (.readReq 0 (grantBase s + 32 * i) 32)) f k i (n + 2)) := by
  show execGrantReread f k (.ok g) s = _
  simp [execGrantReread, found, stage, on, Nat.not_lt.mpr due, torn, Nat.not_le.mpr again]

theorem exec_grantReread_absent (torn : g.seqA ≠ g.seqB) (last : 7 ≤ n + 1) : exec (.grantReread f k (.ok g)) s =
    .next (scanEntries { s with
      out := s.out ++ [.readReq 0 (grantBase s + 32 * i) 32], plat := { s.plat with torn := sat 8 (s.plat.torn + 1) } }
      f k d [] (i + 1)) := by
  show execGrantReread f k (.ok g) s = _
  simp [execGrantReread, found, stage, on, Nat.not_lt.mpr due, torn, last, State.emit]

end

/-! ### What posting an event, and with it a run of accesses, leaves of the pool -/

theorem sendMsix_pool (s : State) (f : FoldId) (v : Fin 8) : (sendMsix s f v).pool = s.pool := by
  unfold sendMsix
  dsimp only
  split
  · rfl
  · split <;> rfl

theorem notePending_pool (s : State) (f : FoldId) (m : DringId) (irq : Bool) : (notePending s f m irq).pool = s.pool := by
  unfold notePending signalRing
  dsimp only
  split
  · exact sendMsix_pool _ f _
  · rfl

theorem postItem_event_pool (s : State) (f : FoldId) (m : DringId) (code : Nat) (dw2 tick : Word) :
    (postItem s f m (.event code dw2 tick)).pool = s.pool := by
  unfold postItem
  dsimp only
  split
  · exact notePending_pool _ f m _
  · split <;> rfl

theorem postEventTo_pool (s : State) (f : FoldId) (code : Nat) (dw2 : Word) : (postEventTo s f code dw2).pool = s.pool := by
  unfold postEventTo
  dsimp only
  split
  · exact postItem_event_pool s f 0 code dw2 _
  · rfl

theorem logStage_pool (s : State) (code : Nat) (detail : Word) (fold extra : Nat) :
    (logStage s code detail fold extra).pool = s.pool := by
  unfold logStage
  dsimp only
  split
  · rfl
  · split <;> rfl

theorem logNote_pool (s : State) (code : Nat) (detail : Word) (fold extra : Nat) :
    (logNote s code detail fold extra).pool = s.pool := by
  unfold logNote
  dsimp only
  split
  · exact logStage_pool s _ _ _ _
  · rw [logStage_pool, postEventTo_pool, logStage_pool]

/-- Neither the pool nor any fold's descriptors change. -/
structure SamePool (v t : State) : Prop where
  work : SameWork v t
  pool : t.pool = v.pool

theorem samePool_of_folds {v t : State} (h : t.folds = v.folds) (p : t.pool = v.pool) : SamePool v t := ⟨sameWork_of_folds h, p⟩

theorem samePool_trans {u v t : State} (h : SamePool u v) (i : SamePool v t) : SamePool u t :=
  ⟨sameWork_trans h.work i.work, i.pool.trans h.pool⟩

theorem samePool_foldl {α : Type} {g : State → α → State} (h : ∀ (s : State) (x : α), SamePool s (g s x)) :
    ∀ (l : List α) (s : State), SamePool s (l.foldl g s)
  | [], _ => samePool_of_folds rfl rfl
  | x :: r, s => samePool_trans (h s x) (samePool_foldl h r _)

theorem samePool_postEvent (s : State) (f : FoldId) (code : Nat) (dw2 : Word) : SamePool s (postEvent s f code dw2) := by
  unfold postEvent
  split
  · exact ⟨sameWork_trans (sameWork_logNote s _ _ _ _) (sameWork_postEventTo _ f _ _),
      (postEventTo_pool _ f _ _).trans (logNote_pool s _ _ _ _)⟩
  · exact ⟨sameWork_postEventTo s f _ _, postEventTo_pool s f _ _⟩

theorem samePool_eccCorrect (s : State) (n : Fin 4) : SamePool s (eccCorrect s n) := by
  have counted := fun g => samePool_of_folds (v := s) (t := s.modBucket n g) rfl rfl
  unfold eccCorrect
  dsimp only
  split
  · exact samePool_trans (counted _) (samePool_postEvent _ 0 _ _)
  · exact counted _

theorem samePool_eccUncorr (s : State) (n : Fin 4) (source : Nat) (fallback tag : Bool) (loc : Nat) :
    SamePool s (eccUncorr s n source fallback tag loc) :=
  samePool_trans (v := s.modBucket n _) (samePool_of_folds rfl rfl) (samePool_postEvent _ 0 _ _)

theorem samePool_memRun (s : State) (l : List MemOp) : SamePool s (memRun s l).1 := by
  unfold memRun
  split
  · exact samePool_of_folds rfl rfl
  · dsimp only
    generalize l.foldl memAccess { cache := { s.cache with bus := [] }, ecc := s.ecc } = m
    have stored : SamePool s { s with cache := m.cache, ecc := m.ecc } := samePool_of_folds rfl rfl
    have corrected := samePool_trans stored (samePool_foldl samePool_eccCorrect m.corr _)
    exact samePool_trans corrected (samePool_foldl
      (fun t (x : Fin 4 × Nat × Nat) => samePool_eccUncorr t x.1 x.2.1 false false x.2.2) m.bad _)

/-! ### Buffers of a granted request (R265, R271) -/

/-- No fold's descriptors change, and no request leaves or joins the queue. -/
def SameQueue (v t : State) : Prop := SameWork v t ∧ t.pool.queue = v.pool.queue

theorem sameQueue_refillStack (s : State) : SameQueue s (refillStack s) := by
  obtain ⟨work, pool⟩ := samePool_memRun s (ringOps false s.pool 0)
  have kept : (refillStack s).pool.queue = (memRun s (ringOps false s.pool 0)).1.pool.queue := rfl
  exact ⟨work, kept.trans (congrArg Pool.queue pool)⟩

theorem stackPop_queue {p q : Pool} {i : Nat} (h : stackPop p = some (i, q)) : q.queue = p.queue := by
  unfold stackPop at h
  dsimp only at h
  split at h
  · cases h
  · cases h
    dsimp only
    split <;> rfl

theorem takeBuf_sameQueue {s t : State} {a : Account} {req i : Nat} (h : takeBuf s a req = some (i, t)) : SameQueue s t := by
  unfold takeBuf at h
  dsimp only at h
  have filled : SameQueue s (if s.pool.stack.isEmpty then refillStack s else s) := by
    split
    · exact sameQueue_refillStack s
    · exact ⟨sameWork_of_folds rfl, rfl⟩
  split at h
  · cases h
  · next hpop =>
    cases h
    exact ⟨sameWork_trans filled.1 (sameWork_of_folds rfl), (stackPop_queue hpop).trans filled.2⟩

theorem takeBufs_sameQueue (a : Account) (req : Nat) : ∀ (n : Nat) (s : State), SameQueue s (takeBufs n s a req).2
  | 0, s => ⟨sameWork_of_folds rfl, rfl⟩
  | n + 1, s => by
    unfold takeBufs
    split
    · exact ⟨sameWork_of_folds rfl, rfl⟩
    · next i t taken =>
      obtain ⟨work, queue⟩ := takeBuf_sameQueue taken
      obtain ⟨work', queue'⟩ := takeBufs_sameQueue a req n t
      exact ⟨sameWork_trans work work', queue'.trans queue⟩

/-- While the stack holds enough no refill from SDRAM is needed: only the pool changes. -/
theorem takeBufs_from_stack (a : Account) (req : Nat) : ∀ (n : Nat) (s : State), n ≤ s.pool.stack.length →
    (takeBufs n s a req).2 = { s with pool := (takeBufs n s a req).2.pool }
  | 0, _, _ => rfl
  | n + 1, s, enough => by
    cases stack : s.pool.stack with
    | nil => simp [stack] at enough
    | cons i r =>
      have popped : takeBuf s a req = some (i, { s with pool := { s.pool with
          stack := r, bufs := putKey i { acct := a, holds := 1, last := req } s.pool.bufs } }) := by
        simp [takeBuf, stackPop, stack]
      have rest := takeBufs_from_stack a req n { s with pool := { s.pool with
        stack := r, bufs := putKey i { acct := a, holds := 1, last := req } s.pool.bufs } } (by simpa [stack] using enough)
      simp only [takeBufs, popped]
      rw [rest]

/-- The state of a request being granted, before the free store gives the rest of its buffers: what was set aside is held, and the
request has left the queue. -/
def asideHeld (s : State) (f : FoldId) (k : Nat) (d : Desc) : State := { s with pool := { s.pool with
  bufs := d.aside.foldl (fun b i => putKey i { acct := .work f, holds := 1, last := transferEngine } b) s.pool.bufs
  aside := s.pool.aside.filter fun a => !d.aside.contains a.1
  queue := s.pool.queue.filter fun q => !(q.1 == f && q.2 == k) } }

/-- What the free store gives besides, and the state after it. -/
def bufsTaken (s : State) (f : FoldId) (k : Nat) (d : Desc) : List Nat × State :=
  takeBufs (d.want - d.aside.length) (asideHeld s f k d) (.work f) transferEngine

/-- How long the request has waited, against the fold's longest wait. -/
def waitNoted (s : State) (d : Desc) (x : Fold) : Fold :=
  { x with longest := max x.longest (sat 16 ((s.us - d.waitedSince.getD s.us) / 100)) }

theorem exec_requestGranted {s : State} {f : FoldId} {k : Nat} {r : List (FoldId × Nat)} {d : Desc}
    (first : s.pool.queue = (f, k) :: r) (ready : requestReady s true (f, k) = true) (found : s.desc? f k = some d) :
    exec .requestGranted s = .next (((bufsTaken s f k d).2.modFold f (waitNoted s d)).modDesc f k fun e =>
      { e with stage := .ready, bufs := e.aside ++ (bufsTaken s f k d).1, aside := [], want := 0 }) := by
  show execRequestGranted s = _
  simp only [execRequestGranted, first, ready, if_true, grantWaiting, found]
  rw [← first]
  rfl

theorem requestGranted_granted {s : State} {f : FoldId} {k : Nat} {r : List (FoldId × Nat)} {d : Desc}
    (first : s.pool.queue = (f, k) :: r) (ready : requestReady s true (f, k) = true) (found : s.desc? f k = some d) :
    ∃ t : State, ∃ e : Desc, exec .requestGranted s = .next t ∧
      t.desc? f k = some e ∧ e.stage = .ready ∧ d.aside <+: e.bufs ∧ e.aside = [] ∧ e.want = 0 ∧ (f, k) ∉ t.pool.queue ∧
      (d.want - d.aside.length ≤ s.pool.stack.length → t = { s with folds := t.folds, pool := t.pool }) := by
  obtain ⟨work, queue⟩ := takeBufs_sameQueue (.work f) transferEngine (d.want - d.aside.length) (asideHeld s f k d)
  have still : ((bufsTaken s f k d).2.modFold f (waitNoted s d)).desc? f k = some d := by
    refine (desc_modFold _ f ?_ f k).trans ((sameWork_desc work f k).trans found)
    exact fun _ => rfl
  refine ⟨_, _, exec_requestGranted first ready found, desc_modDesc (fun _ => rfl) still, rfl, ⟨_, rfl⟩, rfl, rfl, ?_,
    fun enough => ?_⟩
  · rw [modDesc_pool, modFold_pool, show (bufsTaken s f k d).2.pool.queue = _ from queue]
    simp [asideHeld]
  · have only : (bufsTaken s f k d).2 = { asideHeld s f k d with pool := (bufsTaken s f k d).2.pool } :=
      takeBufs_from_stack _ _ _ _ enough
    rw [only]
    rfl

/-! ### Starting without the mechanism (R79, R106) -/

theorem exec_descriptorStart {s : State} {f : FoldId} {k : Nat} {d : Desc} (found : s.desc? f k = some d)
    (ready : descReady d = true) (apart : needsMech s d = false) (native : d.op ≠ .mmcPass)
    (fence : fenceOpen (s.fold f) d = true) (turn : startBlocked s f d = false) (serial : serialBlocked (s.fold f) d = false) :
    exec (.descriptorStart f k) s = .next (startDesc s f d) := by
  show execDescriptorStart f k s = _
  simp [execDescriptorStart, found, ready, apart, native, fence, turn, serial]

/-- Settles O9, clause by clause: one equation per row and case, and `requestGranted_granted` for a granted request. -/
theorem descriptorsAreFetchedCheckedAndStarted : Obligations.DescriptorsAreFetchedCheckedAndStarted := by
  refine ⟨fun s f n few next => ⟨_, exec_descriptorFetch few next, rfl, ?_, ?_, fun g => fetchIssued_fold_ne s n⟩,
    fun s f n l out en err fresh => exec_descriptorConsume_ok out en err fresh l,
    fun s f n => exec_descriptorConsume_failed, fun s f n r out => exec_descriptorConsume_dropped out r,
    fun s f k d es l found stage => exec_listRead_kept found stage,
    fun s f k d es found stage => exec_listRead_rejected found stage, fun s f k d => exec_listRead_failed,
    fun s f k i d l found stage on => exec_grantTableRead found on stage l,
    fun s f k i n d g found stage on due => exec_grantReread_whole found on stage due,
    fun s f k i n d g found stage on due => exec_grantReread_torn found on stage due,
    fun s f k i n d r found stage on => exec_grantReread_early found on stage r,
    fun s f k i d g found stage on due torn => exec_grantReread_absent found on stage due torn (Nat.le_refl 7),
    fun s f k r d => requestGranted_granted, fun s f k d found ready apart native fence turn serial => ?_⟩
  · rw [fetchIssued_fold]
    rfl
  · rw [State.wring, fetchIssued_fold, fetchingFold, get_set_same]
  · rw [exec_descriptorStart found ready apart native fence turn serial, startDesc, desc_k found]
    rfl

end Sys2Proof.Machine
end

section
/-! Completions: a descriptor's data, its auxiliary data, the completion in its slot, and the message (R74 to R77, R88). -/
namespace Sys2Proof.Machine

/-! ### Giving back a descriptor's holdings writes nothing -/

theorem foldl_out {α : Type} {g : State → α → State} (h : ∀ (s : State) (x : α), (g s x).out = s.out) :
    ∀ (l : List α) (s : State), (l.foldl g s).out = s.out
  | [], _ => rfl
  | x :: r, s => (foldl_out h r _).trans (h s x)

theorem releaseIndex_out (s : State) (i : Nat) : (releaseIndex s i).out = s.out := by
  rw [releaseIndex, releaseIndexGo_eq]

theorem freeBuf_out (s : State) (i : Nat) : (freeBuf s i).out = s.out := by
  unfold freeBuf
  split
  · rfl
  · exact releaseIndex_out _ i

theorem dropHold_out (s : State) (i : Nat) : (dropHold s i).out = s.out := by
  unfold dropHold
  split
  · rfl
  · split
    · exact freeBuf_out s i
    · rfl

theorem releasePin_out (s : State) (p : Pin) : (releasePin s p).out = s.out := by
  unfold releasePin
  split
  · exact dropHold_out s _
  · split
    · rfl
    · split
      · exact freeBuf_out s _
      · exact dropHold_out s _

theorem releaseHoldings_out (s : State) (f : FoldId) (d : Desc) : (releaseHoldings s f d).out = s.out := by
  unfold releaseHoldings
  extract_lets p s1 s2 s3 s4
  calc ((pinBufs d.pins).foldl releasePin s4).out
    _ = s4.out := foldl_out releasePin_out _ s4
    _ = s3.out := foldl_out freeBuf_out _ s3
    _ = s2.out := foldl_out releaseIndex_out _ s2
    _ = s.out := rfl

/-! ### A descriptor that leaves its fold -/

/-- Every done ring is as it was. -/
def SameDrings (v t : State) : Prop := ∀ (g : FoldId) (m : DringId), t.dring g m = v.dring g m

theorem sameDrings_trans {u v t : State} (h : SameDrings u v) (i : SameDrings v t) : SameDrings u t := fun g m =>
  (i g m).trans (h g m)

theorem sameDrings_of_folds {v t : State} (h : t.folds = v.folds) : SameDrings v t := dring_congr h

theorem sameDrings_of_keep {v t : State} (h : FoldsKeep v t) : SameDrings v t := fun g m => by
  rw [State.dring, h g]
  rfl

theorem sameDrings_modFold (s : State) (f : FoldId) {g : Fold → Fold} (hg : ∀ x : Fold, (g x).drings = x.drings) :
    SameDrings s (s.modFold f g) := fun h m => by
  simp only [State.dring, modFold_fold_any]
  split
  · rw [hg]
  · rfl

theorem retire_keeps (s : State) (f : FoldId) (k : Nat) (c : Completion) :
    (retire s f k c).out = s.out ∧ SameDrings s (retire s f k c) := by
  unfold retire
  split
  · exact ⟨rfl, fun _ _ => rfl⟩
  · next d found =>
    extract_lets t0 t1 sys t2 t3
    have held : t0.out = s.out ∧ SameDrings s t0 :=
      ⟨releaseHoldings_out s f d, sameDrings_of_keep (loosens_holdings s f d).folds⟩
    clear_value t0
    have applied : t1.out = s.out ∧ SameDrings s t1 := by
      dsimp only [t1]
      split
      · exact ⟨held.1, sameDrings_trans held.2 (sameDrings_modFold t0 _ fun _ => rfl)⟩
      · exact held
    clear_value t1
    have waited : SameDrings t1 t2 := sameDrings_of_folds rfl
    have completed : SameDrings t2 t3 := sameDrings_modFold t2 f fun _ => rfl
    have gone := sameDrings_modFold t3 f (g := fun x => { x with descs := x.descs.filter fun d => d.k != k }) fun _ => rfl
    exact ⟨applied.1, sameDrings_trans applied.2 (sameDrings_trans waited (sameDrings_trans completed gone))⟩

theorem retire_desc (s : State) (f : FoldId) (k : Nat) (c : Completion) : (retire s f k c).desc? f k = none := by
  unfold retire
  split
  · assumption
  · simp [State.desc?]

/-! ### A completion in its slot, and its message (R74, R77) -/

/-- A change of one done ring, seen through what it does not touch. -/
theorem modDring_view {α : Type} (s : State) (f : FoldId) (m : DringId) {g : Dring → Dring} {view : Dring → α}
    (hg : ∀ r : Dring, view (g r) = view r) (h : FoldId) (i : DringId) :
    view ((s.modDring f m g).dring h i) = view (s.dring h i) := by
  simp only [State.dring, State.modDring, modFold_fold_any]
  split
  · by_cases e : i = m
    · rw [e, get_set_same]
      exact hg _
    · rw [get_set_other _ _ e]
  · rfl

theorem sameDrings_sendMsix (s : State) (f : FoldId) (v : Fin 8) : SameDrings s (sendMsix s f v) := by
  unfold sendMsix
  dsimp only
  split
  · exact fun _ _ => rfl
  · split
    · exact sameDrings_modFold s f fun _ => rfl
    · exact fun _ _ => rfl

theorem sendMsix_out (s : State) (f : FoldId) (v : Fin 8) :
    ∃ msg : List Out, (sendMsix s f v).out = s.out ++ msg ∧ (msg = [] ∨ msg = [.msix f v.val]) := by
  unfold sendMsix
  dsimp only
  split
  · exact ⟨[], (List.append_nil _).symm, .inl rfl⟩
  · split
    · exact ⟨[], (List.append_nil _).symm, .inl rfl⟩
    · exact ⟨_, rfl, .inr rfl⟩

/-- Counting a pending completion changes what is pending for the vector, and sends at most one message. -/
theorem notePending_view {α : Type} (s : State) (f : FoldId) (m : DringId) (irq : Bool) {view : Dring → α}
    (hv : ∀ (r : Dring) (p : Nat) (o : Option Nat), view { r with pend := p, oldest := o } = view r) (h : FoldId) (i : DringId) :
    view ((notePending s f m irq).dring h i) = view (s.dring h i) := by
  unfold notePending signalRing
  dsimp only
  split
  · rw [sameDrings_sendMsix]
    exact (modDring_view _ f m (fun r => hv r _ _) h i).trans (modDring_view s f m (fun r => hv r _ _) h i)
  · exact modDring_view s f m (fun r => hv r _ _) h i

theorem notePending_out (s : State) (f : FoldId) (m : DringId) (irq : Bool) : ∃ msg : List Out,
    (notePending s f m irq).out = s.out ++ msg ∧ (msg = [] ∨ msg = [.msix f (s.dring f m).vec.val]) := by
  unfold notePending signalRing
  dsimp only
  split
  · rw [modDring_dring]
    exact sendMsix_out _ f (s.dring f m).vec
  · exact ⟨[], (List.append_nil _).symm, .inl rfl⟩

/-- A completion with absolute index p goes to slot p mod N, and its descriptor leaves. -/
theorem writeItem_comp (s : State) (f : FoldId) (m : DringId) (k : Nat) (c : Completion) (irq : Bool) {r : Dring}
    (ring : s.dring f m = r) : ∃ msg : List Out, (writeItem s f m (.comp k c irq)).out = s.out ++
        [.write f (ringBase r.baseLo r.baseHi + 16 * (r.posted.toNat % 2 ^ r.log2))
          (completionBytes c (phaseBit r.posted.toNat (2 ^ r.log2)))] ++ msg ∧ (msg = [] ∨ msg = [.msix f r.vec.val]) ∧
      ((writeItem s f m (.comp k c irq)).dring f m).posted = r.posted + 1 ∧
      ((writeItem s f m (.comp k c irq)).dring f 0).lostEvents = (s.dring f 0).lostEvents ∧
      (writeItem s f m (.comp k c irq)).desc? f k = none := by
  subst ring
  unfold writeItem
  extract_lets r n p t1 t2 t3 t4
  have dirty : SameDrings t2 t3 := sameDrings_modFold t2 f fun _ => rfl
  obtain ⟨msg, sent, one⟩ := notePending_out t3 f m (itemIrq (.comp k c irq))
  obtain ⟨out, drings⟩ := retire_keeps t4 f k c
  have vec : (t3.dring f m).vec = r.vec := by rw [dirty, modDring_dring]; rfl
  refine ⟨msg, out.trans sent, vec ▸ one, ?_, ?_, retire_desc t4 f k c⟩
  · rw [drings]
    refine (notePending_view t3 f m _ (view := Dring.posted) (fun _ _ _ => rfl) f m).trans ?_
    rw [dirty, modDring_dring]
    rfl
  · rw [drings]
    refine (notePending_view t3 f m _ (view := Dring.lostEvents) (fun _ _ _ => rfl) f 0).trans ?_
    rw [dirty]
    refine (modDring_view (view := Dring.lostEvents) t1 f m ?_ f 0).trans rfl
    exact fun _ => rfl

theorem reportLost_none {s : State} {f : FoldId} (none_ : (s.dring f 0).lostEvents = 0) : reportLost s f = s := by
  simp [reportLost, none_]

/-! ### COMPLETION_POST (R76, R88) -/

theorem lockAtCompletion_eq (s : State) (f : FoldId) (k : Nat) :
    lockAtCompletion s f k = { s with cph := (lockAtCompletion s f k).cph } := by
  unfold lockAtCompletion
  split
  · exact releaseLock_eq s
  · rfl

/-- The auxiliary data of a descriptor that asked for it at an aligned address. -/
def auxWrites (f : FoldId) (d : Desc) : List Out :=
  if d.aux = [] ∨ d.fld.auxPtr = 0 ∨ d.fld.auxPtr % 16 ≠ 0 then [] else [.write f d.fld.auxPtr d.aux]

/-- The state of an ended descriptor whose data and auxiliary data are written, its completion still to be posted. -/
def dataWritten (s : State) (f : FoldId) (k : Nat) (d : Desc) : State :=
  lockAtCompletion ((s.emits ((d.writes.map fun w => .write f w.1 w.2) ++ auxWrites f d)).modDesc f k fun d =>
    { d with writes := [], aux := [] }) f k

theorem dataWritten_out (s : State) (f : FoldId) (k : Nat) (d : Desc) : (dataWritten s f k d).out =
    s.out ++ (d.writes.map fun w => .write f w.1 w.2) ++ auxWrites f d := by
  rw [dataWritten, lockAtCompletion_eq, List.append_assoc]
  rfl

theorem dataWritten_keep (s : State) (f : FoldId) (k : Nat) (d : Desc) : FoldsKeep s (dataWritten s f k d) := by
  rw [dataWritten, lockAtCompletion_eq]
  exact foldsKeep_modDesc (s.emits _) f k _

section
variable {s : State} {f : FoldId} {k : Nat} {d : Desc} {r : Dring} (found : s.desc? f k = some d) (ended : d.stage = .done)
  (native : d.fld.opcode ≠ 0x70) (up : (s.fold f).resetting = none) (ring : s.dring f (s.wring f d.ring).dring = r)
include found ended native up ring

theorem exec_completionPost : exec (.completionPost f k) s = .next (
    if !r.en || r.err != 0 then retire (dataWritten s f k d) f k (completionOf d)
    else reportLost (postItem (dataWritten s f k d) f (s.wring f d.ring).dring (.comp k (completionOf d) d.fld.irq)) f) := by
  have aux : (if d.aux.isEmpty || d.fld.auxPtr == 0 || d.fld.auxPtr % 16 != 0 then [] else [Out.write f d.fld.auxPtr d.aux]) =
      auxWrites f d := by
    simp [auxWrites, or_assoc]
  have keep := dataWritten_keep s f k d
  have sameWring : (dataWritten s f k d).wring f d.ring = s.wring f d.ring := by rw [State.wring, keep f]; rfl
  have sameDring : (dataWritten s f k d).dring f (s.wring f d.ring).dring = r := by rw [sameDrings_of_keep keep, ring]
  have written : lockAtCompletion ((noteSense (s.emits ((d.writes.map fun w => Out.write f w.1 w.2) ++ auxWrites f d)) f d).modDesc
      f k fun d => { d with writes := [], aux := [] }) f k = dataWritten s f k d := by
    rw [noteSense, if_neg native]
    rfl
  show execCompletionPost f k s = _
  simp only [execCompletionPost, completionPost, found, ended, up, native, if_false, aux, written, sameWring, sameDring]
  rfl

/-- A done ring that is disabled or in error takes nothing; the descriptor leaves all the same (R88). -/
theorem completionPost_discarded (closed : r.en = false ∨ r.err ≠ 0) : ∃ t : State, exec (.completionPost f k) s = .next t ∧
    t.desc? f k = none ∧ t.out = s.out ++ (d.writes.map fun w => .write f w.1 w.2) ++ auxWrites f d := by
  have run := exec_completionPost found ended native up ring
  rw [if_pos (by simpa using closed)] at run
  exact ⟨_, run, retire_desc _ f k _, (retire_keeps _ f k _).1.trans (dataWritten_out s f k d)⟩

theorem completionPost_posted (en : r.en = true) (err : r.err = 0) (held : r.held = [])
    (space : (r.posted - r.head).toNat < 2 ^ r.log2) (master : canMaster s f = true) (lost : (s.dring f 0).lostEvents = 0) :
    ∃ t : State, ∃ msg : List Out, exec (.completionPost f k) s = .next t ∧
      t.out = s.out ++ (d.writes.map fun w => .write f w.1 w.2) ++ auxWrites f d ++
        [.write f (ringBase r.baseLo r.baseHi + 16 * (r.posted.toNat % 2 ^ r.log2))
          (completionBytes (completionOf d) (r.posted.toNat / 2 ^ r.log2 % 2 == 0))] ++ msg ∧
      (msg = [] ∨ msg = [.msix f r.vec.val]) ∧ (t.dring f (s.wring f d.ring).dring).posted = r.posted + 1 ∧
      t.desc? f k = none := by
  have run := exec_completionPost found ended native up ring
  have keep := dataWritten_keep s f k d
  have sameDring : (dataWritten s f k d).dring f (s.wring f d.ring).dring = r := by rw [sameDrings_of_keep keep, ring]
  have masters : canMaster (dataWritten s f k d) f = true := by
    refine (canMaster_congr ?_ (by rw [keep f]) (by rw [keep f])).trans master
    rw [dataWritten, lockAtCompletion_eq]
    rfl
  have fits : dringSpace r = true := decide_eq_true space
  have posts : postItem (dataWritten s f k d) f (s.wring f d.ring).dring (.comp k (completionOf d) d.fld.irq) =
      writeItem (dataWritten s f k d) f (s.wring f d.ring).dring (.comp k (completionOf d) d.fld.irq) := by
    simp [postItem, sameDring, held, fits, masters]
  obtain ⟨msg, out, one, posted, lostSame, gone⟩ := writeItem_comp (dataWritten s f k d) f (s.wring f d.ring).dring k
    (completionOf d) d.fld.irq sameDring
  rw [if_neg (by simp [en, err]), posts, reportLost_none (by rw [lostSame, sameDrings_of_keep keep, lost])] at run
  refine ⟨_, msg, run, ?_, one, posted, gone⟩
  rw [out, dataWritten_out]
  rfl

end

/-! ### The completion in memory (R74) -/

theorem completionBytes_length (c : Completion) (ph : Bool) : (completionBytes c ph).length = 16 := by
  simp [completionBytes, leBytes_length]

/-- DW1 [31] is bit 7 of byte 7. -/
theorem completionBytes_phase (c : Completion) (ph : Bool) : ∃ b : Byte, (completionBytes c ph)[7]? = some b ∧ bit b 7 = ph := by
  refine ⟨_, rfl, ?_⟩
  have head := c.head.isLt
  have dup : b2n c.dup ≤ 1 := by cases c.dup <;> decide
  have phase : b2n ph = 1 ↔ ph = true := by cases ph <;> decide
  have small : b2n ph ≤ 1 := by cases ph <;> decide
  rw [bit, BitVec.getLsbD_ofNat, Nat.testBit_eq_decide_div_mod_eq, Bool.eq_iff_iff, ← phase]
  simp only [Nat.reduceLT, decide_true, Bool.true_and, decide_eq_true_eq]
  omega

/-- Settles O12: the completion posted, the completion discarded, and the bytes in memory. -/
theorem completionsAreWrittenAfterTheirData : Obligations.CompletionsAreWrittenAfterTheirData :=
  ⟨fun _ _ _ _ _ found ended native up ring => completionPost_posted found ended native up ring,
    fun _ _ _ _ _ found ended native up ring => completionPost_discarded found ended native up ring,
    fun c ph => ⟨completionBytes_length c ph, completionBytes_phase c ph⟩⟩

end Sys2Proof.Machine
end

section
/-! MMC PASS: a command block is read, becomes its native opcode's descriptor or is answered by firmware (R121, Table 4.12). -/
namespace Sys2Proof.Machine

/-! ### A descriptor's change and its end -/

theorem updFirst_congr {k : Nat} {d : Desc} {g h : Desc → Desc} (same : g d = h d) :
    ∀ l : List Desc, l.find? (fun e => e.k == k) = some d →
      updFirst (fun e => e.k == k) g l = updFirst (fun e => e.k == k) h l
  | [], found => by simp at found
  | e :: r, found => by
    by_cases c : e.k = k
    · simp [c] at found
      subst found
      simp [updFirst, c, same]
    · simp [c] at found
      simp [updFirst, c, updFirst_congr same r (by simpa using found)]

/-- Two changes that agree on the descriptor found make the same state. -/
theorem modDesc_congr {s : State} {f : FoldId} {k : Nat} {d : Desc} {g h : Desc → Desc} (found : s.desc? f k = some d)
    (same : g d = h d) : s.modDesc f k g = s.modDesc f k h := by
  simp only [State.modDesc, State.modFold, updFirst_congr same _ found]

/-! ### The row that reads a command block -/

section
variable {s : State} {f : FoldId} {k code : Nat} {cdb c : List Byte} {d : Desc} {codes : List Nat} {run : Desc → List Byte → State}

theorem mmcRow_reads (reads : MmcReads s f k cdb code d c) (known : code ∈ mmcCodes) (own : code ∈ codes) :
    mmcRow s f k cdb codes run = run d c := by
  obtain ⟨found, op, stage, fresh, block, read⟩ := reads
  simp [mmcRow, found, op, stage, fresh, ← block, read, known, own]

/-- An operation code outside Table 4.12 is BAD_OPCODE, whichever row reads it. -/
theorem mmcRow_unknown (reads : MmcReads s f k cdb code d c) (unknown : code ∉ mmcCodes) :
    mmcRow s f k cdb codes run = finishUnstarted s f k .badOpcode := by
  obtain ⟨found, op, stage, fresh, block, read⟩ := reads
  simp [mmcRow, found, op, stage, fresh, ← block, read, unknown]

/-- A command block that waits for its answer is not read again. -/
theorem mmcRow_asked (found : s.desc? f k = some d) (op : d.op = .mmcReply) : mmcRow s f k cdb codes run = s := by
  simp [mmcRow, found, op]

theorem mmcNow_endsAs (st : Status) (may : mmcMayStart s f d = true) :
    EndsAs (noteStart s f k) (mmcNow s f k d st) f k st 0 := by
  rw [mmcNow, if_pos may]
  exact finish_endsAs _ f k st 0

end

/-! ### Command blocks with a native opcode -/

section
variable {s : State} {f : FoldId} {k : Nat} {o : Op} {g : Fields → Fields} {d : Desc}

/-- The descriptor with its native opcode and fields, on which the checks are made. -/
theorem desc_mmcAs (found : s.desc? f k = some d) : (s.modDesc f k fun e => { e with op := o, mmc := true, fld := g e.fld }).desc? f k =
    some { d with op := o, mmc := true, fld := g d.fld } :=
  desc_modDesc (fun _ => rfl) found

theorem mmcAs_badCount (found : s.desc? f k = some d) (bad : countBad o (g d.fld) (s.fold f).record.maxBlocks = true) :
    mmcAs s f k o g = finishUnstarted (s.modDesc f k fun e => { e with op := o, mmc := true, fld := g e.fld }) f k .badCount := by
  simp only [mmcAs, desc_mmcAs found, bad, if_true]

theorem mmcAs_badField (found : s.desc? f k = some d) (count : countBad o (g d.fld) (s.fold f).record.maxBlocks = false)
    (bad : fieldBad o (g d.fld) = true) :
    mmcAs s f k o g = finishUnstarted (s.modDesc f k fun e => { e with op := o, mmc := true, fld := g e.fld }) f k .badField := by
  simp [mmcAs, desc_mmcAs found, count, bad]

theorem mmcAs_lenShort {n : Nat} (found : s.desc? f k = some d) (count : countBad o (g d.fld) (s.fold f).record.maxBlocks = false)
    (field : fieldBad o (g d.fld) = false) (needs : implied o (g d.fld) s.disc = some n) (short : (g d.fld).length < n) :
    mmcAs s f k o g = finishUnstarted (s.modDesc f k fun e => { e with op := o, mmc := true, fld := g e.fld }) f k .lenShort := by
  simp [mmcAs, desc_mmcAs found, count, field, needs, short]

theorem mmcAs_steps25 (found : s.desc? f k = some d) (ok : NativeOk s f o (g d.fld)) :
    mmcAs s f k o g = steps25 (s.modDesc f k fun e => { e with op := o, mmc := true, fld := g e.fld }) f k := by
  simp only [mmcAs, desc_mmcAs found, ok.count, ok.field, Bool.false_eq_true, if_false]
  cases needs : implied o (g d.fld) s.disc with
  | none => rfl
  | some n => simp [Nat.not_lt.mpr (ok.length n needs)]

/-- A row whose descriptor gets good fields: it passes to steps 2 to 5 with them. -/
theorem next_fields {r : Answer} {x : Fields} (row : r = .next (mmcAs s f k o g)) (found : s.desc? f k = some d)
    (taken : x = g d.fld) (ok : NativeOk s f o x) :
    r = .next (steps25 (s.modDesc f k fun e => { e with op := o, mmc := true, fld := x }) f k) := by
  subst taken
  rw [row, mmcAs_steps25 found ok]
  exact congrArg (fun t => Host.Outcome.next (steps25 t f k)) (modDesc_congr found rfl)

end

/-- A close function of Table 4.12 and its form of CLOSE. -/
theorem closeForm_known {n : Nat} (known : n ∈ [1, 2, 5, 6]) :
    ∃ m, closeForm n = some m ∧ BitVec.ofNat 16 m = if n = 1 then 0 else if n = 2 then 1 else 2 := by
  simp only [List.mem_cons, List.not_mem_nil, or_false] at known
  rcases known with rfl | rfl | rfl | rfl
  · exact ⟨0, rfl, rfl⟩
  · exact ⟨1, rfl, rfl⟩
  · exact ⟨2, rfl, rfl⟩
  · exact ⟨2, rfl, rfl⟩

theorem closeForm_unknown {n : Nat} (unknown : n ∉ [1, 2, 5, 6]) : closeForm n = none := by
  unfold closeForm
  split <;> simp_all

/-! ### One equation per row -/

section
variable {s : State} {f : FoldId} {k : Nat} {cdb c : List Byte} {d : Desc}

/-- The rows of READ, WRITE and VERIFY command blocks: instruction, operation code, native opcode and transfer length. -/
def BlockRow (f : FoldId) (k : Nat) (cdb c : List Byte) (i : Instr) (code : Nat) (o : Op) (n : Nat) : Prop :=
  i = .read10 f k cdb ∧ code = 0x28 ∧ o = .read ∧ n = be16 c 7 ∨
    i = .read12 f k cdb ∧ code = 0xA8 ∧ o = .read ∧ n = be32 c 6 ∨
    i = .write10 f k cdb ∧ code = 0x2A ∧ o = .write ∧ n = be16 c 7 ∨ i = .write12 f k cdb ∧ code = 0xAA ∧ o = .write ∧ n = be32 c 6 ∨
    i = .verify10 f k cdb ∧ code = 0x2F ∧ o = .verify ∧ n = be16 c 7

theorem exec_blockRow {i : Instr} {code n : Nat} {o : Op} (row : BlockRow f k cdb c i code o n) (reads : MmcReads s f k cdb code d c) :
    exec i s = .next (mmcBlocks s f k d o (be32 c 2) n (if o = .write then 0 else mmcRereads d) 0) := by
  rcases row with ⟨rfl, rfl, rfl, rfl⟩ | ⟨rfl, rfl, rfl, rfl⟩ | ⟨rfl, rfl, rfl, rfl⟩ | ⟨rfl, rfl, rfl, rfl⟩ | ⟨rfl, rfl, rfl, rfl⟩ <;>
    exact congrArg Host.Outcome.next (mmcRow_reads reads (by decide) (by decide))

theorem exec_readCd (reads : MmcReads s f k cdb 0xBE d c) : exec (.readCd f k cdb) s = .next (
    if be24 c 6 = 0 then mmcNow s f k d .ok
    else if !readCdOk c then finishUnstarted s f k .badField
    else mmcBlocks s f k d .readRaw (be32 c 2) (be24 c 6) (BitVec.ofNat 16 (byteAt c 9 / 2 % 4 + 2 * (byteAt c 10 % 8)))
      (BitVec.ofNat 64 (bits d.fld.opfield 3 0))) :=
  congrArg Host.Outcome.next (mmcRow_reads reads (by decide) (by decide))

theorem exec_formatUnit {p : List Byte} (reads : MmcReads s f k cdb 0x04 d c) : exec (.formatUnit f k cdb p) s = .next (
    if byteAt p 8 / 4 ≠ 0x00 ∧ byteAt p 8 / 4 ≠ 0x30 then finishUnstarted s f k .badField
    else mmcAs { s with draws := s.draws + 1 } f k .format fun x => { x with
      opfield := BitVec.ofNat 16 ((Config.openWord 30 s.draws).toNat % 3) }) :=
  congrArg Host.Outcome.next (mmcRow_reads reads (by decide) (by decide))

theorem exec_startStopUnit (reads : MmcReads s f k cdb 0x1B d c) : exec (.startStopUnit f k cdb) s = .next (
    if cdbBit c 4 1 then mmcAs s f k .loadEject fun x => { x with opfield := if cdbBit c 4 0 then 0 else 1 }
    else mmcAs { s with draws := s.draws + 1 } f k .spin fun x => { x with
      opfield := BitVec.ofNat 16 ((Config.openWord 31 s.draws).toNat % 256) }) :=
  congrArg Host.Outcome.next (mmcRow_reads reads (by decide) (by decide))

theorem exec_setCdSpeed (reads : MmcReads s f k cdb 0xBB d c) : exec (.setCdSpeed f k cdb) s = .next (
    mmcAs { s with draws := s.draws + 1 } f k .spin fun x => { x with
      opfield := BitVec.ofNat 16 (if be16 c 2 = 0xFFFF then 0xFF else (Config.openWord 32 s.draws).toNat % 256) }) :=
  congrArg Host.Outcome.next (mmcRow_reads reads (by decide) (by decide))

theorem exec_preventAllowMediumRemoval (reads : MmcReads s f k cdb 0x1E d c) : exec (.preventAllowMediumRemoval f k cdb) s = .next (
    mmcAs s f k .lockMedium fun x => { x with opfield := if cdbBit c 4 0 then 1 else 0 }) :=
  congrArg Host.Outcome.next (mmcRow_reads reads (by decide) (by decide))

theorem exec_mmcReserveTrack (reads : MmcReads s f k cdb 0x53 d c) : exec (.mmcReserveTrack f k cdb) s = .next (
    mmcAs s f k .reserveTrack fun x => { x with opfield := 0, opdata := BitVec.ofNat 64 (be32 c 5) }) :=
  congrArg Host.Outcome.next (mmcRow_reads reads (by decide) (by decide))

theorem exec_closeTrackSession (reads : MmcReads s f k cdb 0x5B d c) : exec (.closeTrackSession f k cdb) s = .next (
    match closeForm (byteAt c 2 % 8) with
    | none => finishUnstarted s f k .badField
    | some n => mmcAs s f k .close fun x => { x with opfield := BitVec.ofNat 16 n, address := be16 c 4 }) :=
  congrArg Host.Outcome.next (mmcRow_reads reads (by decide) (by decide))

end

/-! ### Command blocks that become native commands -/

section
variable {s : State} {f : FoldId} {k : Nat} {cdb c : List Byte} {d : Desc}

theorem mmcBlocks_zero {o : Op} {lba : Nat} {opfield : BitVec 16} {opdata : BitVec 64} (may : mmcMayStart s f d = true) :
    EndsAs (noteStart s f k) (mmcBlocks s f k d o lba 0 opfield opdata) f k .ok 0 := by
  rw [mmcBlocks, if_pos rfl]
  exact mmcNow_endsAs .ok may

theorem exec_blockRow_native {i : Instr} {code n : Nat} {o : Op} (row : BlockRow f k cdb c i code o n)
    (reads : MmcReads s f k cdb code d c) (some_ : n ≠ 0) : exec i s = .next (mmcAs s f k o fun x => { x with
      address := be32 c 2, count := n, opfield := if o = .write then 0 else d.fld.opfield &&& 0x1F, opdata := 0 }) := by
  rw [exec_blockRow row reads, mmcBlocks, if_neg some_]
  rfl

theorem exec_readCd_native (reads : MmcReads s f k cdb 0xBE d c) (some_ : be24 c 6 ≠ 0) (ok : readCdOk c = true) :
    exec (.readCd f k cdb) s = .next (mmcAs s f k .readRaw fun x => { x with
      address := be32 c 2, count := be24 c 6, opfield := BitVec.ofNat 16 (byteAt c 9 / 2 % 4 + 2 * (byteAt c 10 % 8))
      opdata := BitVec.ofNat 64 (bits d.fld.opfield 3 0) }) := by
  rw [exec_readCd reads, if_neg some_, ok, Bool.not_true, if_neg Bool.false_ne_true, mmcBlocks, if_neg some_]

theorem exec_formatUnit_native {p : List Byte} (reads : MmcReads s f k cdb 0x04 d c)
    (type : byteAt p 8 / 4 = 0x00 ∨ byteAt p 8 / 4 = 0x30) : exec (.formatUnit f k cdb p) s = .next (
    mmcAs { s with draws := s.draws + 1 } f k .format fun x => { x with
      opfield := BitVec.ofNat 16 ((Config.openWord 30 s.draws).toNat % 3) }) := by
  rw [exec_formatUnit reads, if_neg fun other => type.elim other.1 other.2]

theorem exec_startStopUnit_load (reads : MmcReads s f k cdb 0x1B d c) (loEj : cdbBit c 4 1 = true) :
    exec (.startStopUnit f k cdb) s = .next (mmcAs s f k .loadEject
      fun x => { x with opfield := if cdbBit c 4 0 then 0 else 1 }) := by
  rw [exec_startStopUnit reads, if_pos loEj]

theorem exec_startStopUnit_spin (reads : MmcReads s f k cdb 0x1B d c) (loEj : cdbBit c 4 1 = false) :
    exec (.startStopUnit f k cdb) s = .next (mmcAs { s with draws := s.draws + 1 } f k .spin
      fun x => { x with opfield := BitVec.ofNat 16 ((Config.openWord 31 s.draws).toNat % 256) }) := by
  rw [exec_startStopUnit reads, loEj, if_neg Bool.false_ne_true]

theorem exec_closeTrackSession_native (reads : MmcReads s f k cdb 0x5B d c) (known : byteAt c 2 % 8 ∈ [1, 2, 5, 6]) :
    exec (.closeTrackSession f k cdb) s = .next (mmcAs s f k .close fun y => { y with
      opfield := if byteAt c 2 % 8 = 1 then 0 else if byteAt c 2 % 8 = 2 then 1 else 2, address := be16 c 4 }) := by
  obtain ⟨m, form, field⟩ := closeForm_known known
  rw [exec_closeTrackSession reads, form, ← field]

/-- A row that meets a code outside Table 4.12. -/
theorem exec_badOpcode {i : Instr} {code : Nat} (reads : MmcReads s f k cdb code d c) (unknown : code ∉ mmcCodes)
    (row : i ∈ [.read10 f k cdb, .write12 f k cdb, .testUnitReady f k cdb, .inquiry f k cdb, .modeSense10 f k cdb]) :
    exec i s = .next (finishUnstarted s f k .badOpcode) := by
  simp only [List.mem_cons, List.not_mem_nil, or_false] at row
  rcases row with rfl | rfl | rfl | rfl | rfl <;> exact congrArg Host.Outcome.next (mmcRow_unknown reads unknown)

end

/-- Settles O41: one equation per row, and the checks of the native opcode. -/
theorem commandBlocksBecomeNativeCommands : Obligations.CommandBlocksBecomeNativeCommands := by
  refine ⟨?_, ?_, ?_, ?_, ?_, ?_, ?_, ?_, ?_, ?_⟩
  · intro s f k cdb c d i code lba n o row reads hlba
    subst hlba
    refine ⟨exec_blockRow_native row reads, fun zero may => ⟨_, exec_blockRow row reads, ?_⟩⟩
    rw [zero]
    exact mmcBlocks_zero may
  · intro s f k cdb c d n reads hn
    subst hn
    refine ⟨fun zero may => ⟨_, exec_readCd reads, ?_⟩, fun some_ bad => ⟨_, exec_readCd reads, ?_⟩, exec_readCd_native reads⟩
    · rw [if_pos zero]
      exact mmcNow_endsAs .ok may
    · rw [if_neg some_, bad, Bool.not_false, if_pos rfl]
      exact finishUnstarted_endsAs s f k _
  · intro s f k cdb c p d reads
    refine ⟨exec_formatUnit_native reads, fun h0 h30 => ⟨_, exec_formatUnit reads, ?_⟩⟩
    rw [if_pos ⟨h0, h30⟩]
    exact finishUnstarted_endsAs s f k _
  · exact fun s f k cdb c d reads => ⟨exec_startStopUnit_load reads, exec_startStopUnit_spin reads⟩
  · exact fun s f k cdb c d reads => exec_setCdSpeed reads
  · exact fun s f k cdb c d reads => exec_preventAllowMediumRemoval reads
  · exact fun s f k cdb c d reads => exec_mmcReserveTrack reads
  · intro s f k cdb c d x reads hx
    subst hx
    refine ⟨exec_closeTrackSession_native reads, fun unknown => ⟨_, exec_closeTrackSession reads, ?_⟩⟩
    rw [closeForm_unknown unknown]
    exact finishUnstarted_endsAs s f k _
  · intro s u f k o g d x found hx hu
    subst hx hu
    refine ⟨fun bad => ?_, fun count bad => ?_, fun n count field needs short => ?_, fun count field fits => ?_⟩
    · rw [mmcAs_badCount found bad]
      exact finishUnstarted_endsAs _ f k _
    · rw [mmcAs_badField found count bad]
      exact finishUnstarted_endsAs _ f k _
    · rw [mmcAs_lenShort found count field needs short]
      exact finishUnstarted_endsAs _ f k _
    · exact mmcAs_steps25 found ⟨count, field, fits⟩
  · exact fun s f k cdb c d x i reads unknown row => ⟨_, exec_badOpcode reads unknown row, finishUnstarted_endsAs s f k _⟩

/-- The free numbers drawn have no part in the checks. -/
theorem nativeOk_drawn {s : State} {f : FoldId} {o : Op} {x : Fields} (n : Nat) (ok : NativeOk s f o x) :
    NativeOk { s with draws := n } f o x := ⟨ok.count, ok.field, ok.length⟩

/-- Settles O57: each row's descriptor has the fields of Table 4.12, and they pass the checks. -/
theorem nativeCommandBlocksComplete : Obligations.NativeCommandBlocksComplete := by
  intro s f k cdb c d
  refine ⟨fun x hx reads some_ ok => ?_, fun x hx reads some_ ok => ?_, fun x hx reads some_ ok => ?_,
    fun x hx reads some_ ok => ?_, fun x hx reads some_ ok => ?_, fun x hx reads some_ selected ok => ?_,
    fun x p hx reads type ok => ?_, fun x hx reads loEj ok => ?_, fun x hx reads loEj ok => ?_, fun x hx reads ok => ?_,
    fun x hx reads ok => ?_, fun x hx reads ok => ?_, fun x n hn hx reads known ok => ?_⟩
  · exact next_fields (exec_blockRow_native (.inl ⟨rfl, rfl, rfl, rfl⟩) reads some_) reads.found hx ok
  · exact next_fields (exec_blockRow_native (.inr (.inl ⟨rfl, rfl, rfl, rfl⟩)) reads some_) reads.found hx ok
  · exact next_fields (exec_blockRow_native (.inr (.inr (.inl ⟨rfl, rfl, rfl, rfl⟩))) reads some_) reads.found hx ok
  · exact next_fields (exec_blockRow_native (.inr (.inr (.inr (.inl ⟨rfl, rfl, rfl, rfl⟩)))) reads some_) reads.found hx ok
  · exact next_fields (exec_blockRow_native (.inr (.inr (.inr (.inr ⟨rfl, rfl, rfl, rfl⟩)))) reads some_) reads.found hx ok
  · exact next_fields (exec_readCd_native reads some_ selected) reads.found hx ok
  · exact next_fields (exec_formatUnit_native reads type) reads.found hx (nativeOk_drawn _ ok)
  · exact next_fields (exec_startStopUnit_load reads loEj) reads.found hx ok
  · exact next_fields (exec_startStopUnit_spin reads loEj) reads.found hx (nativeOk_drawn _ ok)
  · exact next_fields (exec_setCdSpeed reads) reads.found hx (nativeOk_drawn _ ok)
  · exact next_fields (exec_preventAllowMediumRemoval reads) reads.found hx ok
  · exact next_fields (exec_mmcReserveTrack reads) reads.found hx ok
  · subst hn
    exact next_fields (exec_closeTrackSession_native reads known) reads.found hx ok

end Sys2Proof.Machine
end

section
/-! MMC PASS: the command blocks that firmware answers (R103, R121, Table 4.12). -/
namespace Sys2Proof.Machine

/-! ### Bytes of a reply -/

@[simp] theorem mmcBytes_length (s : State) (code n : Nat) (known : Nat → Option Byte) : (mmcBytes s code n known).length = n := by
  simp [mmcBytes]

/-- A byte that the manual gives stands in the reply, where the allocation length reaches it. -/
theorem mmcBytes_known {known : Nat → Option Byte} {j : Nat} {b : Byte} (s : State) (code n alloc : Nat) (given : known j = some b)
    (cut : j < ((mmcBytes s code n known).take alloc).length) : ((mmcBytes s code n known).take alloc)[j]? = some b := by
  rw [List.length_take, mmcBytes_length, Nat.lt_min] at cut
  simp [mmcBytes, cut.1, cut.2, given]

/-! ### Sending a reply -/

/-- A reply l to descriptor d, from u on: LEN_SHORT where LENGTH is below it, otherwise OK with it for the host (R103). -/
structure Answers (u t : State) (f : FoldId) (k : Nat) (d : Desc) (l : List Byte) : Prop where
  short : d.fld.length < l.length → EndsAs (emptied u f k) t f k .lenShort 0
  fits : l.length ≤ d.fld.length → EndsAs ((noteStart u f k).modDesc f k fun e => { e with
    writes := e.writes ++ scatterAt e.list 0 l }) t f k .ok l.length

theorem mmcSend_answers {s : State} {f : FoldId} {k : Nat} {d : Desc} (data : List Byte) (alloc : Nat) (may : mmcMayStart s f d = true) :
    Answers s (mmcSend s f k d data alloc) f k d (data.take alloc) := by
  constructor
  · intro short
    rw [mmcSend, if_pos short]
    exact finishUnstarted_endsAs s f k .lenShort
  · intro fits
    rw [mmcSend, if_neg (Nat.not_lt.mpr fits), may, Bool.not_true, if_neg Bool.false_ne_true]
    exact finish_endsAs _ f k .ok _

/-- The free reply to a command block, of at most its allocation length. -/
def freeReply (s : State) (code alloc : Nat) : List Byte :=
  (mmcBytes s code (min (Config.mmcLength code s.draws) alloc) fun _ => none).take alloc

theorem freeReply_length_le (s : State) (code alloc : Nat) : (freeReply s code alloc).length ≤ alloc :=
  List.length_take_le _ _

theorem mmcFree_answers {s : State} {f : FoldId} {k : Nat} {d : Desc} (code alloc : Nat) (may : mmcMayStart s f d = true) :
    Answers { s with draws := s.draws + 1 } (mmcFree s f k d code alloc) f k d (freeReply s code alloc) :=
  mmcSend_answers _ alloc may

/-! ### The rows that read their command block themselves -/

section
variable {s : State} {f : FoldId} {k : Nat} {cdb c : List Byte} {d : Desc}

theorem exec_testUnitReady (reads : MmcReads s f k cdb 0x00 d c) :
    exec (.testUnitReady f k cdb) s = .next (mmcNow s f k d (if s.disc.isSome then .ok else .noDisc)) :=
  congrArg Host.Outcome.next (mmcRow_reads reads (by decide) (by decide))

theorem exec_synchronizeCache (reads : MmcReads s f k cdb 0x35 d c) : exec (.synchronizeCache f k cdb) s = .next (
    if (s.fold f).descs.any fun e => decide (e.k < k) && mayWrite e then s else mmcNow s f k d .ok) :=
  congrArg Host.Outcome.next (mmcRow_reads reads (by decide) (by decide))

theorem exec_requestSense (reads : MmcReads s f k cdb 0x03 d c) :
    exec (.requestSense f k cdb) s = .next (mmcSend s f k d (senseBytes (s.fold f).sense) (byteAt c 4)) :=
  congrArg Host.Outcome.next (mmcRow_reads reads (by decide) (by decide))

theorem exec_inquiry (reads : MmcReads s f k cdb 0x12 d c) : exec (.inquiry f k cdb) s = .next (
    if cdbBit c 1 0 then finishUnstarted s f k .badField
    else mmcSend { s with draws := s.draws + 1 } f k d (mmcBytes s 0x12 36 inquiryKnown) (be16 c 3)) :=
  congrArg Host.Outcome.next (mmcRow_reads reads (by decide) (by decide))

theorem exec_getConfiguration (reads : MmcReads s f k cdb 0x46 d c) :
    exec (.getConfiguration f k cdb) s = .next (mmcFree s f k d 0x46 (be16 c 7)) :=
  congrArg Host.Outcome.next (mmcRow_reads reads (by decide) (by decide))

theorem exec_getEventStatusNotification (reads : MmcReads s f k cdb 0x4A d c) : exec (.getEventStatusNotification f k cdb) s = .next (
    if cdbBit c 1 0 then mmcFree s f k d 0x4A (be16 c 7) else finishUnstarted s f k .badField) :=
  congrArg Host.Outcome.next (mmcRow_reads reads (by decide) (by decide))

theorem exec_modeSense10 (reads : MmcReads s f k cdb 0x5A d c) : exec (.modeSense10 f k cdb) s = .next (
    if [0x01, 0x05, 0x2A].contains (byteAt c 2 % 64) then mmcFree s f k d 0x5A (be16 c 7) else finishUnstarted s f k .badField) :=
  congrArg Host.Outcome.next (mmcRow_reads reads (by decide) (by decide))

/-- What SYNCHRONIZE CACHE waits for. -/
theorem mayWrite_iff (e : Desc) :
    mayWrite e = true ↔ e.op = .write ∨ e.op = .sealedWrite ∨ e.op = .mmcPass ∧ descActive e = true := by
  simp [mayWrite, or_assoc]

theorem exec_synchronizeCache_waits (reads : MmcReads s f k cdb 0x35 d c)
    (busy : ∃ e ∈ (s.fold f).descs, e.k < k ∧ mayWrite e = true) : exec (.synchronizeCache f k cdb) s = .next s := by
  rw [exec_synchronizeCache reads, if_pos (by simpa using busy)]

theorem exec_synchronizeCache_ends (reads : MmcReads s f k cdb 0x35 d c) (may : mmcMayStart s f d = true)
    (done : ∀ e ∈ (s.fold f).descs, e.k < k → ¬ mayWrite e = true) :
    ∃ t : State, exec (.synchronizeCache f k cdb) s = .next t ∧ EndsAs (noteStart s f k) t f k .ok 0 := by
  refine ⟨_, exec_synchronizeCache reads, ?_⟩
  rw [if_neg (by simpa using done)]
  exact mmcNow_endsAs .ok may

end

/-! ### The rows under READ with disc scope -/

section
variable {s : State} {f : FoldId} {k : Nat} {cdb : List Byte} {d : Desc} {code : Nat} {bad : List Byte → Bool}
  {alloc : List Byte → Option Nat} {reply : State → DiscInfo → Desc → List Byte → State}

/-- Only a command block that waits for its answer is answered. -/
theorem mmcReply_other {g : DiscInfo → Desc → State} (found : s.desc? f k = some d) (op : d.op ≠ .mmcReply) :
    mmcReply s f k g = s := by
  simp [mmcReply, found, op]

theorem mmcDisc_bad {c : List Byte} (reads : MmcReads s f k cdb code d c) (known : code ∈ mmcCodes) (field : bad c = true) :
    EndsAs (emptied s f k) (mmcDisc s f k cdb code bad alloc reply) f k .badField 0 := by
  have ends := finishUnstarted_endsAs s f k .badField
  have ended := ends.ended _ (desc_modDesc (fun _ => rfl) reads.found)
  unfold mmcDisc
  rw [mmcRow_reads reads known List.mem_cons_self, if_pos field]
  dsimp only
  rw [ended]
  dsimp only
  split
  · rw [mmcReply_other ended (by rw [reads.op]; decide)]
    exact ends
  · exact ends

/-- A command block past steps 2 to 5 goes to its reply. -/
theorem mmcDisc_asked (found : s.desc? f k = some d) (op : d.op = .mmcReply) (read : byteAt (mmcBlock d cdb) 0 = code) :
    mmcDisc s f k cdb code bad alloc reply = mmcReply s f k fun di d => reply s di d (mmcBlock d cdb) := by
  unfold mmcDisc
  rw [mmcRow_asked found op]
  dsimp only
  rw [found]
  simp only [read, if_true]

theorem mmcDisc_answer {x : DiscInfo} (found : s.desc? f k = some d) (op : d.op = .mmcReply) (stage : d.stage = .ready ∨ d.stage = .running)
    (read : byteAt (mmcBlock d cdb) 0 = code) (disc : s.disc = some x) :
    mmcDisc s f k cdb code bad alloc reply = reply s x d (mmcBlock d cdb) := by
  rw [mmcDisc_asked found op read]
  rcases stage with stage | stage <;> simp [mmcReply, found, op, stage, disc]

theorem mmcDisc_noDisc (found : s.desc? f k = some d) (op : d.op = .mmcReply) (stage : d.stage = .ready)
    (read : byteAt (mmcBlock d cdb) 0 = code) (disc : s.disc = none) :
    mmcDisc s f k cdb code bad alloc reply = finishUnstarted s f k .noDisc := by
  rw [mmcDisc_asked found op read]
  simp [mmcReply, found, op, stage, disc]

end

/-! ### One reply per row under READ with disc scope -/

/-- Descriptor k of fold f waits for the answer to a command block with that operation code, and the disc is x. -/
structure Asks (s : State) (f : FoldId) (k : Nat) (cdb : List Byte) (code : Nat) (d : Desc) (x : DiscInfo) : Prop where
  found : s.desc? f k = some d
  op : d.op = .mmcReply
  stage : d.stage = .ready ∨ d.stage = .running
  code : byteAt (mmcBlock d cdb) 0 = code
  disc : s.disc = some x

section
variable {s : State} {f : FoldId} {k : Nat} {cdb : List Byte} {d : Desc} {x : DiscInfo}

theorem mmcDisc_asks {code : Nat} {bad : List Byte → Bool} {alloc : List Byte → Option Nat}
    {reply : State → DiscInfo → Desc → List Byte → State} (asks : Asks s f k cdb code d x) :
    mmcDisc s f k cdb code bad alloc reply = reply s x d (mmcBlock d cdb) :=
  mmcDisc_answer asks.found asks.op asks.stage asks.code asks.disc

theorem exec_readFormatCapacities (asks : Asks s f k cdb 0x23 d x) :
    exec (.readFormatCapacities f k cdb) s = .next (mmcFree s f k d 0x23 (be16 (mmcBlock d cdb) 7)) :=
  congrArg Host.Outcome.next (mmcDisc_asks asks)

theorem exec_readCapacity (asks : Asks s f k cdb 0x25 d x) : exec (.readCapacity f k cdb) s =
    .next (mmcSend s f k d (beBytes 4 (x.capacity - 1) ++ beBytes 4 2048) 8) :=
  congrArg Host.Outcome.next (mmcDisc_asks asks)

theorem exec_readTocPmaAtip (asks : Asks s f k cdb 0x43 d x) : exec (.readTocPmaAtip f k cdb) s = .next (
    if byteAt (mmcBlock d cdb) 2 % 16 = 5 then mmcSend s f k d (rawStructure x.cdText) (be16 (mmcBlock d cdb) 7)
    else mmcFree s f k d 0x43 (be16 (mmcBlock d cdb) 7)) :=
  congrArg Host.Outcome.next (mmcDisc_asks asks)

theorem exec_readDiscInformation (asks : Asks s f k cdb 0x51 d x) :
    exec (.readDiscInformation f k cdb) s = .next (mmcFree s f k d 0x51 (be16 (mmcBlock d cdb) 7)) :=
  congrArg Host.Outcome.next (mmcDisc_asks asks)

theorem exec_readTrackInformation (asks : Asks s f k cdb 0x52 d x) : exec (.readTrackInformation f k cdb) s = .next (
    match trackNamed x (byteAt (mmcBlock d cdb) 1 % 4) (be32 (mmcBlock d cdb) 2) with
    | some tr => mmcSend { s with draws := s.draws + 1 } f k d (mmcBytes s 0x52 36 (trackKnown tr)) (be16 (mmcBlock d cdb) 7)
    | none => mmcFree s f k d 0x52 (be16 (mmcBlock d cdb) 7)) :=
  congrArg Host.Outcome.next (mmcDisc_asks asks)

theorem exec_readDiscStructure (asks : Asks s f k cdb 0xAD d x) : exec (.readDiscStructure f k cdb) s = .next (
    match x.structures.find? fun z => z.1 == byteAt (mmcBlock d cdb) 7 with
    | some z => mmcSend s f k d (rawStructure z.2) (be16 (mmcBlock d cdb) 8)
    | none => mmcFree s f k d 0xAD (be16 (mmcBlock d cdb) 8)) :=
  congrArg Host.Outcome.next (mmcDisc_asks asks)

end

/-! ### What each row sends -/

/-- Row i answers descriptor k with the reply l, after n free numbers were drawn. -/
def Sends (i : Instr) (s : State) (f : FoldId) (k : Nat) (d : Desc) (n : Nat) (l : List Byte) : Prop :=
  ∃ t : State, exec i s = .next t ∧ Answers { s with draws := n } t f k d l

theorem sends_replies {i : Instr} {s : State} {f : FoldId} {k n : Nat} {d : Desc} {l : List Byte} (sends : Sends i s f k d n l)
    (fits : l.length ≤ d.fld.length) : ∃ t : State, exec i s = .next t ∧ Replies s t f k n l := by
  obtain ⟨t, run, answers⟩ := sends
  exact ⟨t, run, answers.fits fits⟩

/-- A free reply that LENGTH holds. -/
theorem free_replies {i : Instr} {s : State} {f : FoldId} {k n code alloc : Nat} {d : Desc}
    (sends : Sends i s f k d n (freeReply s code alloc)) (fits : alloc ≤ d.fld.length) :
    ∃ (t : State) (l : List Byte), exec i s = .next t ∧ Replies s t f k n l ∧ l.length ≤ alloc := by
  have cut := freeReply_length_le s code alloc
  obtain ⟨t, run, replies⟩ := sends_replies sends (Nat.le_trans cut fits)
  exact ⟨t, _, run, replies, cut⟩

section
variable {s : State} {f : FoldId} {k : Nat} {cdb c : List Byte} {d : Desc} (may : mmcMayStart s f d = true)
include may

theorem sends_free {i : Instr} {code alloc : Nat} (run : exec i s = .next (mmcFree s f k d code alloc)) :
    Sends i s f k d (s.draws + 1) (freeReply s code alloc) :=
  ⟨_, run, mmcFree_answers code alloc may⟩

theorem sends_whole {i : Instr} {data : List Byte} {alloc : Nat} (run : exec i s = .next (mmcSend s f k d data alloc)) :
    Sends i s f k d s.draws (data.take alloc) :=
  ⟨_, run, mmcSend_answers data alloc may⟩

/-- A reply of n bytes of which some are known. -/
theorem sends_known {i : Instr} {code n alloc : Nat} {known : Nat → Option Byte}
    (run : exec i s = .next (mmcSend { s with draws := s.draws + 1 } f k d (mmcBytes s code n known) alloc)) :
    ∃ l : List Byte, Sends i s f k d (s.draws + 1) l ∧ l.length = min n alloc ∧ ∀ j b, known j = some b → j < l.length → l[j]? = some b :=
  ⟨_, ⟨_, run, mmcSend_answers _ alloc may⟩, by simp [Nat.min_comm], fun _ _ => mmcBytes_known s code n alloc⟩

theorem inquiry_sends (reads : MmcReads s f k cdb 0x12 d c) (standard : cdbBit c 1 0 = false) :
    ∃ l : List Byte, Sends (.inquiry f k cdb) s f k d (s.draws + 1) l ∧ l.length = min 36 (be16 c 3) ∧
      ∀ j b, inquiryKnown j = some b → j < l.length → l[j]? = some b := by
  have run := exec_inquiry reads
  rw [standard, if_neg Bool.false_ne_true] at run
  exact sends_known may run

theorem getEventStatus_sends (reads : MmcReads s f k cdb 0x4A d c) (immed : cdbBit c 1 0 = true) :
    Sends (.getEventStatusNotification f k cdb) s f k d (s.draws + 1) (freeReply s 0x4A (be16 c 7)) := by
  have run := exec_getEventStatusNotification reads
  rw [if_pos immed] at run
  exact sends_free may run

theorem modeSense10_sends (reads : MmcReads s f k cdb 0x5A d c) (page : byteAt c 2 % 64 ∈ [0x01, 0x05, 0x2A]) :
    Sends (.modeSense10 f k cdb) s f k d (s.draws + 1) (freeReply s 0x5A (be16 c 7)) := by
  have run := exec_modeSense10 reads
  rw [if_pos (List.contains_iff_mem.mpr page)] at run
  exact sends_free may run

variable {x : DiscInfo}

/-- CD-TEXT is passed raw (R225); any other format is free. -/
theorem readTocPmaAtip_sends (asks : Asks s f k cdb 0x43 d x) : ∃ (n : Nat) (l : List Byte), Sends (.readTocPmaAtip f k cdb) s f k d n l ∧
    l.length ≤ be16 (mmcBlock d cdb) 7 ∧
    (byteAt (mmcBlock d cdb) 2 % 16 = 5 → n = s.draws ∧ l = (rawStructure x.cdText).take (be16 (mmcBlock d cdb) 7)) := by
  have run := exec_readTocPmaAtip asks
  split at run
  · exact ⟨_, _, sends_whole may run, List.length_take_le _ _, fun _ => ⟨rfl, rfl⟩⟩
  · next other => exact ⟨_, _, sends_free may run, freeReply_length_le _ _ _, fun five => absurd five other⟩

theorem readTrackInformation_sends (asks : Asks s f k cdb 0x52 d x) : ∃ l : List Byte,
    Sends (.readTrackInformation f k cdb) s f k d (s.draws + 1) l ∧ l.length ≤ be16 (mmcBlock d cdb) 7 ∧
    ∀ tr : Track, trackNamed x (byteAt (mmcBlock d cdb) 1 % 4) (be32 (mmcBlock d cdb) 2) = some tr →
      l.length = min 36 (be16 (mmcBlock d cdb) 7) ∧ ∀ j b, trackKnown tr j = some b → j < l.length → l[j]? = some b := by
  have run := exec_readTrackInformation asks
  cases named : trackNamed x (byteAt (mmcBlock d cdb) 1 % 4) (be32 (mmcBlock d cdb) 2) with
  | none =>
    rw [named] at run
    exact ⟨_, sends_free may run, freeReply_length_le _ _ _, fun _ other => nomatch other⟩
  | some tr =>
    rw [named] at run
    obtain ⟨l, sends, length, known⟩ := sends_known may run
    refine ⟨l, sends, by omega, fun tr' same => ?_⟩
    cases same
    exact ⟨length, known⟩

/-- A structure that the disc carries is passed raw (R225); any other is free. -/
theorem readDiscStructure_sends (asks : Asks s f k cdb 0xAD d x) : ∃ (n : Nat) (l : List Byte), Sends (.readDiscStructure f k cdb) s f k d n l ∧
    l.length ≤ be16 (mmcBlock d cdb) 8 ∧
    ∀ y, x.structures.find? (fun z => z.1 == byteAt (mmcBlock d cdb) 7) = some y →
      n = s.draws ∧ l = (rawStructure y.2).take (be16 (mmcBlock d cdb) 8) := by
  have run := exec_readDiscStructure asks
  cases held : x.structures.find? (fun z => z.1 == byteAt (mmcBlock d cdb) 7) with
  | none =>
    rw [held] at run
    exact ⟨_, _, sends_free may run, freeReply_length_le _ _ _, fun _ other => nomatch other⟩
  | some y =>
    rw [held] at run
    refine ⟨_, _, sends_whole may run, List.length_take_le _ _, fun y' same => ?_⟩
    cases same
    exact ⟨rfl, rfl⟩

end

/-! ### The statements -/

theorem protectedFormat_of_mem {n : Nat} (held : n ∈ [0x05, 0x06, 0x07, 0x80, 0x81, 0x82, 0x83, 0x84, 0x85, 0x86]) :
    protectedFormat n = true := by
  simp only [List.mem_cons, List.not_mem_nil, or_false] at held
  rcases held with rfl | rfl | rfl | rfl | rfl | rfl | rfl | rfl | rfl | rfl <;> rfl

theorem capacityReply_take (x : DiscInfo) :
    (beBytes 4 (x.capacity - 1) ++ beBytes 4 2048).take 8 = beBytes 4 (x.capacity - 1) ++ beBytes 4 2048 := rfl

section
variable {s : State} {f : FoldId} {k : Nat} {cdb c : List Byte} {d : Desc} {i : Instr} {code n : Nat}

/-- The outcome of a reply that begins from u, a state in which only free numbers may have been drawn. -/
theorem sends_answered {m : Nat} {l : List Byte} {P : State → List Byte → Prop} (sends : Sends i s f k d m l) (cut : l.length ≤ n)
    (holds : P { s with draws := m } l) : ∃ (t u : State) (l : List Byte), exec i s = .next t ∧ u = { s with draws := u.draws } ∧
      l.length ≤ n ∧ P u l ∧ Answers u t f k d l := by
  obtain ⟨t, run, answers⟩ := sends
  exact ⟨t, _, l, run, rfl, cut, holds, answers⟩

/-- The rows that send a reply of their own block. -/
theorem ownBlock_answered (may : mmcMayStart s f d = true) (reads : MmcReads s f k cdb code d c)
    (row : i = .requestSense f k cdb ∧ code = 0x03 ∧ n = byteAt c 4 ∨ i = .inquiry f k cdb ∧ code = 0x12 ∧ n = be16 c 3 ∧ cdbBit c 1 0 = false ∨
      i = .getConfiguration f k cdb ∧ code = 0x46 ∧ n = be16 c 7 ∨
      i = .getEventStatusNotification f k cdb ∧ code = 0x4A ∧ n = be16 c 7 ∧ cdbBit c 1 0 = true ∨
      i = .modeSense10 f k cdb ∧ code = 0x5A ∧ n = be16 c 7 ∧ byteAt c 2 % 64 ∈ [0x01, 0x05, 0x2A]) :
    ∃ (t u : State) (l : List Byte), exec i s = .next t ∧ u = { s with draws := u.draws } ∧ l.length ≤ n ∧
      ((code = 0x03 → l = (senseBytes (s.fold f).sense).take n ∧ u = s) ∧
        (code = 0x12 → l.length = min 36 n ∧ ∀ j b, inquiryKnown j = some b → j < l.length → l[j]? = some b)) ∧
      Answers u t f k d l := by
  rcases row with ⟨rfl, rfl, rfl⟩ | ⟨rfl, rfl, rfl, standard⟩ | ⟨rfl, rfl, rfl⟩ | ⟨rfl, rfl, rfl, immed⟩ | ⟨rfl, rfl, rfl, page⟩
  · exact sends_answered (sends_whole may (exec_requestSense reads)) (List.length_take_le _ _)
      ⟨fun _ => ⟨rfl, rfl⟩, fun other => absurd other (by decide)⟩
  · obtain ⟨l, sends, length, known⟩ := inquiry_sends may reads standard
    exact sends_answered sends (by omega) ⟨fun other => absurd other (by decide), fun _ => ⟨length, known⟩⟩
  · exact sends_answered (sends_free may (exec_getConfiguration reads)) (freeReply_length_le _ _ _)
      ⟨fun other => absurd other (by decide), fun other => absurd other (by decide)⟩
  · exact sends_answered (getEventStatus_sends may reads immed) (freeReply_length_le _ _ _)
      ⟨fun other => absurd other (by decide), fun other => absurd other (by decide)⟩
  · exact sends_answered (modeSense10_sends may reads page) (freeReply_length_le _ _ _)
      ⟨fun other => absurd other (by decide), fun other => absurd other (by decide)⟩

/-- The rows that send a reply about the disc. -/
theorem disc_answered {x : DiscInfo} (may : mmcMayStart s f d = true) (asks : Asks s f k cdb code d x) (block : c = mmcBlock d cdb)
    (row : i = .readFormatCapacities f k cdb ∧ code = 0x23 ∧ n = be16 c 7 ∨ i = .readCapacity f k cdb ∧ code = 0x25 ∧ n = 8 ∨
      i = .readTocPmaAtip f k cdb ∧ code = 0x43 ∧ n = be16 c 7 ∨ i = .readDiscInformation f k cdb ∧ code = 0x51 ∧ n = be16 c 7 ∨
      i = .readTrackInformation f k cdb ∧ code = 0x52 ∧ n = be16 c 7 ∨ i = .readDiscStructure f k cdb ∧ code = 0xAD ∧ n = be16 c 8) :
    ∃ (t u : State) (l : List Byte), exec i s = .next t ∧ u = { s with draws := u.draws } ∧ l.length ≤ n ∧
      ((code = 0x25 → l = beBytes 4 (x.capacity - 1) ++ beBytes 4 2048) ∧
        ∀ tr : Track, code = 0x52 → trackNamed x (byteAt c 1 % 4) (be32 c 2) = some tr → l.length = min 36 n ∧
          ∀ j b, trackKnown tr j = some b → j < l.length → l[j]? = some b) ∧
      Answers u t f k d l := by
  subst block
  rcases row with ⟨rfl, rfl, rfl⟩ | ⟨rfl, rfl, rfl⟩ | ⟨rfl, rfl, rfl⟩ | ⟨rfl, rfl, rfl⟩ | ⟨rfl, rfl, rfl⟩ | ⟨rfl, rfl, rfl⟩
  · exact sends_answered (sends_free may (exec_readFormatCapacities asks)) (freeReply_length_le _ _ _)
      ⟨fun other => absurd other (by decide), fun _ other => absurd other (by decide)⟩
  · exact sends_answered (sends_whole may (exec_readCapacity asks)) (List.length_take_le _ _)
      ⟨fun _ => capacityReply_take x, fun _ other => absurd other (by decide)⟩
  · obtain ⟨m, l, sends, cut, -⟩ := readTocPmaAtip_sends may asks
    exact sends_answered sends cut ⟨fun other => absurd other (by decide), fun _ other => absurd other (by decide)⟩
  · exact sends_answered (sends_free may (exec_readDiscInformation asks)) (freeReply_length_le _ _ _)
      ⟨fun other => absurd other (by decide), fun _ other => absurd other (by decide)⟩
  · obtain ⟨l, sends, cut, known⟩ := readTrackInformation_sends may asks
    exact sends_answered sends cut ⟨fun other => absurd other (by decide), fun tr _ named => known tr named⟩
  · obtain ⟨m, l, sends, cut, -⟩ := readDiscStructure_sends may asks
    exact sends_answered sends cut ⟨fun other => absurd other (by decide), fun _ other => absurd other (by decide)⟩

/-- The rows whose own block asks for what is not supported. -/
theorem ownBlock_badField (reads : MmcReads s f k cdb code d c)
    (row : i = .inquiry f k cdb ∧ code = 0x12 ∧ cdbBit c 1 0 = true ∨
      i = .getEventStatusNotification f k cdb ∧ code = 0x4A ∧ cdbBit c 1 0 = false ∨
      i = .modeSense10 f k cdb ∧ code = 0x5A ∧ byteAt c 2 % 64 ∉ [0x01, 0x05, 0x2A]) :
    exec i s = .next (finishUnstarted s f k .badField) := by
  rcases row with ⟨rfl, rfl, pages⟩ | ⟨rfl, rfl, immed⟩ | ⟨rfl, rfl, page⟩
  · rw [exec_inquiry reads, if_pos pages]
  · rw [exec_getEventStatusNotification reads, immed, if_neg Bool.false_ne_true]
  · rw [exec_modeSense10 reads, if_neg fun held => page (List.contains_iff_mem.mp held)]

/-- The rows about the disc that ask for what is not supported. -/
theorem disc_badField (reads : MmcReads s f k cdb code d c)
    (row : i = .readTocPmaAtip f k cdb ∧ code = 0x43 ∧ 5 < byteAt c 2 % 16 ∨ i = .readDiscInformation f k cdb ∧ code = 0x51 ∧ byteAt c 1 % 8 ≠ 0 ∨
      i = .readDiscStructure f k cdb ∧ code = 0xAD ∧ byteAt c 7 ∈ [0x05, 0x06, 0x07, 0x80, 0x81, 0x82, 0x83, 0x84, 0x85, 0x86]) :
    ∃ t : State, exec i s = .next t ∧ EndsAs (emptied s f k) t f k .badField 0 := by
  rcases row with ⟨rfl, rfl, format⟩ | ⟨rfl, rfl, type⟩ | ⟨rfl, rfl, guarded⟩
  · exact ⟨_, rfl, mmcDisc_bad reads (by decide) (decide_eq_true format)⟩
  · exact ⟨_, rfl, mmcDisc_bad reads (by decide) (bne_iff_ne.mpr type)⟩
  · exact ⟨_, rfl, mmcDisc_bad reads (by decide) (protectedFormat_of_mem guarded)⟩

end

/-- Settles O42: each row's reply and its refusals, clause by clause. -/
theorem commandBlocksAreAnsweredByFirmware : Obligations.CommandBlocksAreAnsweredByFirmware := by
  refine ⟨?_, ?_, ?_, by decide, ?_, ?_, ?_, ?_⟩
  · intro s f k cdb c d reads may
    refine ⟨_, exec_testUnitReady reads, ?_⟩
    cases s.disc <;> exact mmcNow_endsAs _ may
  · intro s f k cdb c d reads
    refine ⟨fun ⟨e, held, earlier, writes⟩ => ?_, fun done may => ?_⟩
    · exact exec_synchronizeCache_waits reads ⟨e, held, earlier, (mayWrite_iff e).mpr writes⟩
    · refine exec_synchronizeCache_ends reads may fun e held earlier writes => ?_
      obtain ⟨write, sealed, pass⟩ := done e held earlier
      rcases (mayWrite_iff e).mp writes with op | op | ⟨op, active⟩
      · exact write op
      · exact sealed op
      · exact absurd active (by rw [pass op]; decide)
  · intro s f k cdb c d i code n row reads may
    obtain ⟨t, u, l, run, drawn, cut, ⟨sense, inquiry⟩, answers⟩ := ownBlock_answered may reads row
    exact ⟨t, u, l, run, drawn, cut, sense, inquiry, answers.short, answers.fits⟩
  · exact fun s f k cdb c d i code row reads => ⟨_, ownBlock_badField reads row, finishUnstarted_endsAs s f k _⟩
  · exact fun s f k cdb c d i code row reads => disc_badField reads row
  · intro s f k cdb c d x i code n row found op stage block read disc may
    obtain ⟨t, u, l, run, drawn, cut, ⟨capacity, track⟩, answers⟩ := disc_answered may ⟨found, op, stage, block ▸ read, disc⟩ block row
    exact ⟨t, u, l, run, drawn, cut, capacity, track, answers.short, answers.fits⟩
  · rintro s f k cdb d i (⟨rfl, stage, read⟩ | ⟨rfl, stage, read⟩) found op disc
    · exact ⟨_, congrArg Host.Outcome.next (mmcDisc_noDisc found op stage read disc), finishUnstarted_endsAs s f k _⟩
    · exact ⟨_, congrArg Host.Outcome.next (mmcDisc_noDisc found op stage read disc), finishUnstarted_endsAs s f k _⟩

/-- Settles O58: a reply that LENGTH holds ends OK. -/
theorem answeredCommandBlocksComplete : Obligations.AnsweredCommandBlocksComplete := by
  intro s f k cdb c d may
  refine ⟨fun reads disc => ?_, fun reads done => ?_, fun reads fits => ?_, fun reads standard fits => ?_, fun reads fits => ?_,
    fun reads immed fits => ?_, fun reads page fits => ?_, ?_⟩
  · refine ⟨_, exec_testUnitReady reads, ?_⟩
    rw [if_pos (Option.isSome_iff_ne_none.mpr disc)]
    exact mmcNow_endsAs .ok may
  · refine exec_synchronizeCache_ends reads may fun e held earlier writes => ?_
    obtain ⟨write, sealed, pass⟩ := done e held earlier
    rcases (mayWrite_iff e).mp writes with op | op | ⟨op, -⟩
    · exact write op
    · exact sealed op
    · exact pass op
  · exact sends_replies (sends_whole may (exec_requestSense reads)) (Nat.le_trans (List.length_take_le _ _) fits)
  · obtain ⟨l, sends, length, known⟩ := inquiry_sends may reads standard
    obtain ⟨t, run, replies⟩ := sends_replies sends (by omega)
    exact ⟨t, l, run, replies, length, known⟩
  · exact free_replies (sends_free may (exec_getConfiguration reads)) fits
  · exact free_replies (getEventStatus_sends may reads immed) fits
  · exact free_replies (modeSense10_sends may reads page) fits
  · intro x found op stage block disc
    subst block
    have asks {code : Nat} (read : byteAt (mmcBlock d cdb) 0 = code) : Asks s f k cdb code d x := ⟨found, op, stage, read, disc⟩
    refine ⟨fun read fits => ?_, fun read fits => ?_, fun read fits => ?_, fun read fits => ?_, fun read fits => ?_, fun read fits => ?_⟩
    · exact free_replies (sends_free may (exec_readFormatCapacities (asks read))) fits
    · exact sends_replies (sends_whole may (exec_readCapacity (asks read))) fits
    · obtain ⟨n, l, sends, cut, raw⟩ := readTocPmaAtip_sends may (asks read)
      obtain ⟨t, run, replies⟩ := sends_replies sends (Nat.le_trans cut fits)
      exact ⟨t, n, l, run, replies, cut, raw⟩
    · exact free_replies (sends_free may (exec_readDiscInformation (asks read))) fits
    · obtain ⟨l, sends, cut, known⟩ := readTrackInformation_sends may (asks read)
      obtain ⟨t, run, replies⟩ := sends_replies sends (Nat.le_trans cut fits)
      exact ⟨t, l, run, replies, cut, known⟩
    · obtain ⟨n, l, sends, cut, raw⟩ := readDiscStructure_sends may (asks read)
      obtain ⟨t, run, replies⟩ := sends_replies sends (Nat.le_trans cut fits)
      exact ⟨t, n, l, run, replies, cut, raw⟩

end Sys2Proof.Machine
end

section
/-! The opcodes that move no user data: NOP, LOCK MEDIUM, SPIN, SEEK HINT and IDENTIFY DISC (R58, R111, R114), CLOSE, FORMAT and
RESERVE TRACK (R254, R255, R457, R458). -/
namespace Sys2Proof.Machine

/-! ### Descriptors that need no mechanism -/

section
variable {s : State} {f : FoldId} {k : Nat} {d : Desc}

theorem exec_nop (running : runningAs s f k .nop = some d) : exec (.nop f k) s = .next (finish s f k .ok 0) := by
  show execNop f k s = _
  rw [execNop, running]

theorem exec_lockMedium (running : runningAs s f k .lockMedium = some d) (take : bit d.fld.opfield 0 = true) :
    exec (.lockMedium f k) s = .next (if (s.fold f).locked then finish s f k .okRepeated 0
      else finish (s.modFold f fun x => { x with locked := true }) f k .ok 0) := by
  show execLockMedium f k s = _
  rw [execLockMedium, running]
  simp only [take, Bool.not_true, Bool.false_eq_true, if_false]

theorem exec_unlockMedium (running : runningAs s f k .lockMedium = some d) (release : bit d.fld.opfield 0 = false) :
    exec (.unlockMedium f k) s = .next (if (s.fold f).locked then finish (s.modFold f fun x => { x with locked := false }) f k .ok 0
      else finish s f k .okRepeated 0) := by
  show execUnlockMedium f k s = _
  rw [execUnlockMedium, running]
  simp only [release, Bool.false_eq_true, if_false]

theorem exec_seekHint (running : runningAs s f k .seekHint = some d) (plain : d.fld.specok = false) :
    exec (.seekHint f k) s = .next (finish s f k .ok 0) := by
  show execSeekHint f k s = _
  rw [execSeekHint, running]
  simp only [plain, Bool.false_eq_true, if_false]

theorem exec_identifyDisc_known {di : DiscInfo} {x : Option DiscInfo} (running : runningAs s f k .identifyDisc = some d)
    (disc : s.disc = some di) : exec (.identifyDisc f k x) s = .next (finish (deliver s f k (discRecord di)) f k .ok 64) := by
  show execIdentifyDisc f k x s = _
  simp only [execIdentifyDisc, running, disc]

end

/-! ### SPIN and IDENTIFY DISC on the mechanism -/

section
variable {s : State} {f : FoldId} {k : Nat} {d : Desc}

/-- Fold f's class and the spindle's are set, and the spindle is no longer parked (R114, R189). -/
def classSet (s : State) (f : FoldId) (c : Nat) : State :=
  { s.modFold f fun x => { x with class_ := some c } with
    spindle := { s.spindle with class_ := some c }, sys := { s.sys with parked := false } }

/-- SPIN sets its class; the set-point is the one of that class. -/
theorem exec_spin {di : DiscInfo} (dispatched : dispatchedAs s f k .spin = some d) (disc : s.disc = some di) :
    exec (.spin f k) s = .next (endJob { classSet s f (spinClass di d.fld) with spindle :=
      { s.spindle with class_ := some (spinClass di d.fld), setPoint := setPointNow (classSet s f (spinClass di d.fld)) } } .ok 0) := by
  show execSpin f k s = _
  rw [execSpin, dispatched, disc]
  rfl

/-- The mechanism can identify the disc, which nobody has yet. -/
structure Identifies (s : State) (f : FoldId) (k : Nat) (d : Desc) : Prop where
  dispatched : dispatchedAs s f k .identifyDisc = some d
  notRunning : runningAs s f k .identifyDisc = none
  disc : s.disc = none
  can : canIdentify s = true
  placed : s.sled.lost = false

theorem exec_identifyDisc_found (on : Identifies s f k d) (di : DiscInfo) : exec (.identifyDisc f k (some di)) s =
    .next (endJob (deliver (identified s di) f k (discRecord di)) .ok 64) := by
  show execIdentifyDisc f k (some di) s = _
  simp only [execIdentifyDisc, on.notRunning, on.dispatched, on.disc, on.can, on.placed, Bool.not_true, Bool.false_eq_true, if_false]

theorem exec_identifyDisc_nothing (on : Identifies s f k d) :
    exec (.identifyDisc f k none) s = .next (endJob (nothingFound s) .noDisc 0) := by
  show execIdentifyDisc f k none s = _
  simp only [execIdentifyDisc, on.notRunning, on.dispatched, on.disc, on.can, on.placed, Bool.not_true, Bool.false_eq_true, if_false]

end

/-- Settles O13: one equation per row, and what `finish` and `endJob` do. -/
theorem descriptorsThatMoveNoData : Obligations.DescriptorsThatMoveNoData := by
  refine ⟨?_, ?_, ?_, ?_, ?_, ?_, ?_, ?_, ?_, ?_⟩
  · exact fun s f k d running => ⟨_, exec_nop running, finish_endsAs s f k .ok 0⟩
  · intro s f k d running take free
    refine ⟨_, exec_lockMedium running take, ?_⟩
    rw [free, if_neg Bool.false_ne_true]
    exact finish_endsAs _ f k .ok 0
  · intro s f k d running take locked
    refine ⟨_, exec_lockMedium running take, ?_⟩
    rw [if_pos locked]
    exact finish_endsAs s f k .okRepeated 0
  · intro s f k d running release locked
    refine ⟨_, exec_unlockMedium running release, ?_⟩
    rw [if_pos locked]
    exact finish_endsAs _ f k .ok 0
  · intro s f k d running release free
    refine ⟨_, exec_unlockMedium running release, ?_⟩
    rw [free, if_neg Bool.false_ne_true]
    exact finish_endsAs s f k .okRepeated 0
  · intro s f k c d di dispatched disc class_
    subst class_
    exact ⟨_, _, exec_spin dispatched disc, dispatched_ends .ok 0 dispatched rfl⟩
  · exact fun s f k d running plain => ⟨_, exec_seekHint running plain, finish_endsAs s f k .ok 0⟩
  · exact fun s f k d di x running disc => ⟨_, exec_identifyDisc_known running disc, finish_endsAs _ f k .ok 64⟩
  · exact fun s f k d di dispatched idle disc can placed => exec_identifyDisc_found ⟨dispatched, idle, disc, can, placed⟩ di
  · exact fun s f k d dispatched idle disc can placed =>
      ⟨_, exec_identifyDisc_nothing ⟨dispatched, idle, disc, can, placed⟩, dispatched_ends .noDisc 0 dispatched rfl⟩

/-! ### CLOSE, FORMAT and RESERVE TRACK -/

/-- Recording a structure changes the medium's output and the channel alone. -/
theorem recordStructure_eq (s : State) (l : List Out) :
    recordStructure s l = { s with out := (recordStructure s l).out, chan := (recordStructure s l).chan } := rfl

section
variable {s : State} {f : FoldId} {k : Nat} {d : Desc} {di : DiscInfo}

/-- A CLOSE of a form that the disc allows, with the number that its structure names. -/
theorem closeRun_closes {what num : Nat} {e : DiscInfo} (dispatched : dispatchedAs s f k .close = some d) (disc : s.disc = some di)
    (form : bits d.fld.opfield 1 0 = what) (closes : closeDisc di what (lbaOf d.fld % 65536) = some e) (beam : beamReady s = true)
    (names : (if what = 0 then lbaOf d.fld % 65536 else di.session) = num) :
    JobEndsAs (recordStructure { s with disc := some e } (paddedBy di what (lbaOf d.fld % 65536) ++ [.structure_ what num]))
      (closeRun s f k what) .ok 0 := by
  have run : closeRun s f k what = endJob (recordStructure { s with disc := some e }
      (paddedBy di what (lbaOf d.fld % 65536) ++ [.structure_ what num])) .ok 0 := by
    rw [closeRun, dispatched, disc]
    simp [form, closes, beam, names]
  rw [run]
  exact dispatched_ends .ok 0 dispatched rfl

theorem closeRun_refused {what : Nat} (dispatched : dispatchedAs s f k .close = some d) (disc : s.disc = some di)
    (form : bits d.fld.opfield 1 0 = what) (refused : closeDisc di what (lbaOf d.fld % 65536) = none) :
    JobEndsAs s (closeRun s f k what) .outOfRange 0 := by
  have run : closeRun s f k what = endJob s .outOfRange 0 := by
    rw [closeRun, dispatched, disc]
    simp [form, refused]
  rw [run]
  exact dispatched_ends .outOfRange 0 dispatched rfl

/-- FORMAT of a form, on a disc that takes it with the beam ready. -/
structure Formats (s : State) (f : FoldId) (k form : Nat) (d : Desc) (di : DiscInfo) : Prop where
  dispatched : dispatchedAs s f k .format = some d
  disc : s.disc = some di
  form : bits d.fld.opfield 1 0 = form
  ok : formatOk di = true
  beam : beamReady s = true

theorem formatRun_quick (on : Formats s f k 0 d di) : formatRun s f k 0 [] =
    stopJob { recordStructure s [.structure_ 4 0] with disc := some (formatDisc di false) } .ok := by
  rw [formatRun, on.dispatched, on.disc]
  simp [on.form, on.ok, on.beam]

theorem formatRun_full (on : Formats s f k 1 d di) : formatRun s f k 1 [] =
    stopJob { recordStructure s [.structure_ 5 0, .zeroed 0 di.capacity] with disc := some (formatDisc di true) } .ok := by
  rw [formatRun, on.dispatched, on.disc]
  simp [on.form, on.ok, on.beam]

theorem formatRun_certified {n : Nat} {e : DiscInfo} {l : List (Nat × List Readback)} (on : Formats s f k 2 d di)
    (tried : tryUnits (recordStructure s [.structure_ 6 0, .zeroed 0 di.capacity]) false di 0 l = (e, n, none)) :
    formatRun s f k 2 l = stopJob { recordStructure s [.structure_ 6 0, .zeroed 0 di.capacity] with
      disc := some (formatDisc e true)
      job := s.job.map fun j => { j with replaced := n, firstFail := none } } (if 0 < n then .okRecovered else .ok) := by
  rw [formatRun, on.dispatched, on.disc]
  simp [on.form, on.ok, on.beam, tried]
  rfl

theorem formatRun_failed {n b : Nat} {e : DiscInfo} {l : List (Nat × List Readback)} (on : Formats s f k 2 d di)
    (tried : tryUnits (recordStructure s [.structure_ 6 0, .zeroed 0 di.capacity]) false di 0 l = (e, n, some b)) :
    formatRun s f k 2 l = stopJob { recordStructure s [.structure_ 6 0, .zeroed 0 di.capacity] with
      disc := some { formatDisc e true with finalised := di.finalised }
      job := s.job.map fun j => { j with replaced := n, firstFail := some b } } .writeFailed := by
  rw [formatRun, on.dispatched, on.disc]
  simp [on.form, on.ok, on.beam, tried]
  rfl

theorem reserveRun_reserves {e : DiscInfo} {tr : Track} (dispatched : dispatchedAs s f k .reserveTrack = some d) (disc : s.disc = some di)
    (reserves : reserveTrack di (bits d.fld.opdata 31 0) = some (e, tr)) (beam : beamReady s = true) :
    JobEndsAs (setAux (recordStructure { s with disc := some e } [.structure_ 3 tr.number]) f k
      (leBytes 4 tr.first ++ leBytes 4 tr.number)) (reserveRun s f k) .ok 0 := by
  have run : reserveRun s f k = endJob (setAux (recordStructure { s with disc := some e } [.structure_ 3 tr.number]) f k
      (leBytes 4 tr.first ++ leBytes 4 tr.number)) .ok 0 := by
    rw [reserveRun, dispatched, disc]
    simp [reserves, beam]
  rw [run]
  exact dispatched_ends .ok 0 dispatched rfl

end

/-- Settles O14: one lemma per row and end. -/
theorem discsAreClosedFormattedAndReserved : Obligations.DiscsAreClosedFormattedAndReserved := by
  refine ⟨?_, ?_, ?_, ?_, ?_, ?_, ?_, ?_, ?_, ?_⟩
  · exact fun s f k d di e dispatched disc form closes beam => ⟨_, rfl, closeRun_closes dispatched disc form closes beam rfl⟩
  · exact fun s f k d di e dispatched disc form closes beam => ⟨_, rfl, closeRun_closes dispatched disc form closes beam rfl⟩
  · exact fun s f k d di e dispatched disc form closes beam => ⟨_, rfl, closeRun_closes dispatched disc form closes beam rfl⟩
  · exact fun s l => ⟨_, rfl, rfl, rfl, recordStructure_eq s l⟩
  · exact fun s f k d di dispatched disc form refused => ⟨_, rfl, closeRun_refused dispatched disc form refused⟩
  · exact fun s f k d di dispatched disc form ok beam =>
      congrArg Host.Outcome.next (formatRun_quick ⟨dispatched, disc, form, ok, beam⟩)
  · exact fun s f k d di dispatched disc form ok beam =>
      congrArg Host.Outcome.next (formatRun_full ⟨dispatched, disc, form, ok, beam⟩)
  · intro s t f k n d di e l dispatched disc form ok beam recorded tried
    subst recorded
    exact congrArg Host.Outcome.next (formatRun_certified ⟨dispatched, disc, form, ok, beam⟩ tried)
  · intro s t f k n b d di e l dispatched disc form ok beam recorded tried
    subst recorded
    exact congrArg Host.Outcome.next (formatRun_failed ⟨dispatched, disc, form, ok, beam⟩ tried)
  · exact fun s f k d di e tr dispatched disc reserves beam => ⟨_, rfl, reserveRun_reserves dispatched disc reserves beam⟩

end Sys2Proof.Machine
end

section
/-! Reading commands from their first unit to their end (R108, R114, R115, R129, R219, R257, R318, R324, R325). -/
namespace Sys2Proof.Machine

/-! ### Started and dispatched descriptors -/

section
variable {s : State} {f : FoldId} {k : Nat} {o : Op} {d : Desc}

theorem dispatchedAs_op (dispatched : dispatchedAs s f k o = some d) : d.op = o := by
  unfold dispatchedAs at dispatched
  split at dispatched
  · split at dispatched
    · next of_ =>
      cases dispatched
      simp only [Bool.and_eq_true, beq_iff_eq] at of_
      exact of_.1.2
    · cases dispatched
  · cases dispatched

theorem dispatchedAs_jobOf (dispatched : dispatchedAs s f k o = some d) : (jobOf s f k).isSome = true := by
  unfold dispatchedAs at dispatched
  split at dispatched
  · next on => rw [on]; rfl
  · cases dispatched

theorem runningAs_jobOf (running : runningAs s f k o = some d) : (jobOf s f k).isSome = false := by
  unfold runningAs at running
  split at running
  · split at running
    · next off =>
      simp only [Bool.and_eq_true, Option.isNone_iff_eq_none] at off
      rw [off.2]
      rfl
    · cases running
  · cases running

/-- What the mechanism runs is not a descriptor that needs no mechanism. -/
theorem runningAs_of_dispatched {p : Op} (dispatched : dispatchedAs s f k o = some d) : runningAs s f k p = none := by
  cases running : runningAs s f k p with
  | none => rfl
  | some e => exact absurd ((runningAs_jobOf running).symm.trans (dispatchedAs_jobOf dispatched)) Bool.false_ne_true

theorem sealRunning_runningAs (running : sealRunning s f k o = some d) : runningAs s f k o = some d := by
  unfold sealRunning at running
  split at running
  · next started =>
    split at running
    · cases running
    · rw [started, ← running]
  · cases running

theorem dispatchedAs_of_running {p : Op} (running : runningAs s f k o = some d) : dispatchedAs s f k p = none := by
  cases dispatched : dispatchedAs s f k p with
  | none => rfl
  | some e => exact absurd ((runningAs_jobOf running).symm.trans (dispatchedAs_jobOf dispatched)) Bool.false_ne_true

end

/-! ### The lock that a descriptor finds free, or holds (R316, R324) -/

section
variable {s u : State} {r : Nat} {f : FoldId} {k : Nat}

theorem withLock_for {g : State → State} (lock : LockFor s r f k u) : withLock s r f k g = g u := by
  rcases lock with ⟨held, rfl⟩ | ⟨held, free, nobody, rfl⟩
  · exact withLock_held held
  · simp [withLock, held, free, nobody]

/-- Taking the lock changes the engine alone. -/
theorem lockFor_eq (lock : LockFor s r f k u) : u = { s with cph := u.cph } := by
  rcases lock with ⟨-, rfl⟩ | ⟨-, -, -, rfl⟩ <;> rfl

/-- Whoever takes the lock finds the key slots as they were. -/
theorem lockFor_slot (lock : LockFor s r f k u) (i : Fin 17) : u.slot i = s.slot i := by
  rcases lock with ⟨-, rfl⟩ | ⟨-, -, -, rfl⟩ <;> rfl

theorem lockFor_jobOf (lock : LockFor s r f k u) (g : FoldId) (j : Nat) : jobOf u g j = jobOf s g j := by
  rw [lockFor_eq lock]
  rfl

end

/-! ### The command on the mechanism -/

theorem jobDesc_on {s : State} {j : Job} {d : Desc} (on : jobDesc s = some (j, d)) :
    s.job = some j ∧ (∀ f : FoldId, j.kind ≠ .speculation f) ∧ j.ended = false ∧ s.desc? j.f j.k = some d := by
  unfold jobDesc at on
  split at on
  · cases on
  · next i held =>
    split at on
    · cases on
    · next command =>
      split at on
      · cases on
      · next going =>
        obtain ⟨e, found, same⟩ := Option.map_eq_some_iff.mp on
        cases same
        exact ⟨held, command, by simpa using going, found⟩

theorem jobDesc_reading {s : State} {j : Job} {d : Desc} (held : s.job = some j) (kind : j.kind = .reading) (going : j.ended = false)
    (found : s.desc? j.f j.k = some d) : jobDesc s = some (j, d) := by
  simp [jobDesc, held, kind, going, found]

/-- The end of a command on the mechanism, in a state with its job. -/
theorem jobDesc_ends {s u : State} {j : Job} {d : Desc} (st : Status) (n : Nat) (on : jobDesc s = some (j, d)) (same : u.job = s.job) :
    JobEndsAs u (endJob u st n) st n := by
  obtain ⟨held, command, going, -⟩ := jobDesc_on on
  exact endJob_ends st n (same.trans held) command going

/-! ### Units that have not been read -/

/-- None of the units has been decoded yet. -/
def Unread (l : List JobUnit) : Prop := ∀ u ∈ l, u.st = .waiting

theorem wantedUnits_unread (s : State) (d : Desc) : Unread (wantedUnits s d) := by
  unfold wantedUnits
  split
  · exact fun u none_ => absurd none_ List.not_mem_nil
  · intro u wanted
    obtain ⟨first, -, made⟩ := List.mem_filterMap.mp wanted
    split at made
    · cases made
      rfl
    · cases made

theorem verdict_unread {l : List JobUnit} (cont : Bool) (unread : Unread l) (some_ : l ≠ []) : verdict cont l = none := by
  cases l with
  | nil => exact absurd rfl some_
  | cons u r => rw [verdict, unread u List.mem_cons_self]

section
variable {d : Desc} {j : Job}

theorem blockFor_unread (unread : Unread j.units) (unaltered : j.altered = []) (unpinned : d.pins = []) (lba : Nat) :
    blockFor d j lba = none := by
  simp only [blockFor, unaltered, unpinned, getKey, List.find?_nil, Option.map_none, Option.orElse_none]
  exact List.findSome?_eq_none_iff.mpr fun u held => by rw [unread u held]

theorem delivered_unread (unread : Unread j.units) (unaltered : j.altered = []) (unpinned : d.pins = []) : delivered d j = [] := by
  unfold delivered
  cases d.fld.count with
  | zero => rfl
  | succ n =>
    rw [deliveredGo, blockFor_unread unread unaltered unpinned]
    split <;> rfl

/-- With nothing delivered, or nothing that leaves the working set, nothing is sent. -/
theorem sendOut_still {s : State} (on : jobDesc s = some (j, d)) (still : delivered d j = [] ∨ transferred d.op = false) :
    sendOut s = s := by
  unfold sendOut
  rw [on]
  rcases still with nothing | stays
  · simp [nothing, sendBlocks]
  · simp [stays]

/-- A reading command whose units have not been read goes on. -/
theorem judgeReading_unread {s : State} (on : jobDesc s = some (j, d)) (still : delivered d j = [] ∨ transferred d.op = false)
    (whole : j.memFail = none) (unread : Unread j.units) (some_ : j.units ≠ []) : judgeReading s = s := by
  unfold judgeReading
  rw [sendOut_still on still]
  simp [on, whole, verdict_unread _ unread some_]

end

/-! ### A dispatched reading command begins -/

/-- The mechanism in state s is given to reading for descriptor d. -/
def begun (s : State) (d : Desc) (j : Job) : State :=
  { s with
    job := some { j with kind := .reading, units := wantedUnits s d, next := lbaOf d.fld }
    chan := { s.chan with target := none, pinned := [], meters := [] } }

section
variable {s : State} {f : FoldId} {k : Nat} {o : Op} {d : Desc} {j : Job}

/-- The units of a command that begins wait, and it goes on. -/
theorem judgeReading_begins (dispatched : dispatchedAs s f k o = some d) (held : s.job = some j) (whole : j.memFail = none)
    (still : j.altered = [] ∧ d.pins = [] ∨ transferred d.op = false) (some_ : wantedUnits s d ≠ []) :
    judgeReading (startReading s d (wantedUnits s d)) = begun s d j := by
  obtain ⟨found, i, on, -, rfl, rfl, going⟩ := dispatchedAs_job dispatched
  cases Option.some.inj (held.symm.trans on)
  have begins : startReading s d (wantedUnits s d) = begun s d j := by
    simp only [startReading, State.modJob, held, Option.map_some, begun]
  have unread := wantedUnits_unread s d
  rw [begins]
  refine judgeReading_unread (j := { j with kind := .reading, units := wantedUnits s d, next := lbaOf d.fld })
    (jobDesc_reading rfl rfl going found) ?_ whole unread some_
  exact still.imp_left fun ⟨unaltered, unpinned⟩ => delivered_unread unread unaltered unpinned

theorem exec_read_begins (dispatched : dispatchedAs s f k .read = some d) (held : s.job = some j) (whole : j.memFail = none)
    (unaltered : j.altered = []) (unpinned : d.pins = []) (some_ : wantedUnits s d ≠ []) : exec (.read f k) s = .next (begun s d j) := by
  show execRead f k s = _
  rw [execRead, runningAs_of_dispatched dispatched, dispatched]
  exact congrArg Host.Outcome.next (judgeReading_begins dispatched held whole (.inl ⟨unaltered, unpinned⟩) some_)

theorem exec_readRaw_begins (dispatched : dispatchedAs s f k .readRaw = some d) (held : s.job = some j) (whole : j.memFail = none)
    (unaltered : j.altered = []) (unpinned : d.pins = []) (some_ : wantedUnits s d ≠ []) :
    exec (.readRaw f k) s = .next (begun s d j) := by
  show execReadRaw f k s = _
  rw [execReadRaw, dispatched]
  exact congrArg Host.Outcome.next (judgeReading_begins dispatched held whole (.inl ⟨unaltered, unpinned⟩) some_)

theorem exec_verify_begins (dispatched : dispatchedAs s f k .verify = some d) (held : s.job = some j) (whole : j.memFail = none)
    (some_ : wantedUnits s d ≠ []) : exec (.verify f k) s = .next (begun s d j) := by
  show execVerify f k s = _
  rw [execVerify, dispatched]
  have stays : transferred d.op = false := by rw [dispatchedAs_op dispatched]; rfl
  exact congrArg Host.Outcome.next (judgeReading_begins dispatched held whole (.inr stays) some_)

theorem exec_scan_begins (dispatched : dispatchedAs s f k .scan = some d) (held : s.job = some j) (whole : j.memFail = none)
    (some_ : wantedUnits s d ≠ []) : exec (.scan f k) s = .next (begun s d j) := by
  show execScan f k s = _
  rw [execScan, dispatched]
  have stays : transferred d.op = false := by rw [dispatchedAs_op dispatched]; rfl
  exact congrArg Host.Outcome.next (judgeReading_begins dispatched held whole (.inr stays) some_)

end

/-! ### SEALED READ -/

/-- The engine with the operands of a SEALED READ. -/
def sealedOperands (s : State) (d : Desc) (aad aux : List Byte) : State :=
  { s with cph := { s.cph with aad := fit d.fld.aadLen aad, auxIn := fit 32 aux } }

section
variable {s : State} {f : FoldId} {k : Nat} {d : Desc} {aad aux : List Byte}

/-- A dispatched SEALED READ with a key reads its units. -/
theorem sealedReadRun_dispatched (key : (s.slot (slotIndex f d.fld.keySlot)).st ≠ .empty) (on : (jobOf s f k).isSome = true) :
    sealedReadRun f k d aad aux s =
      judgeReading (startReading (sealedOperands s d aad aux) d (wantedUnits (sealedOperands s d aad aux) d)) := by
  unfold sealedReadRun
  dsimp only
  rw [if_neg key, if_pos on]
  rfl

/-- A SEALED READ with a key that the pen serves whole decrypts. -/
theorem sealedReadRun_pinned {v : State} {l : List Byte} (key : (s.slot (slotIndex f d.fld.keySlot)).st ≠ .empty)
    (off : (jobOf s f k).isSome = false) (pins : pinsGo f d d.fld.count 0 (sealedOperands s d aad aux) = (v, l, none)) :
    sealedReadRun f k d aad aux s = openInto v (s.slot (slotIndex f d.fld.keySlot)) v.cph.aad v.cph.auxIn l := by
  unfold sealedOperands at pins
  unfold sealedReadRun
  dsimp only
  rw [if_neg key, off, if_neg Bool.false_ne_true, pins]

/-- Reading the pen's copies leaves the engine alone. -/
theorem pinsGo_cph (f : FoldId) (d : Desc) : ∀ (n i : Nat) (s : State), (pinsGo f d n i s).1.cph = s.cph
  | 0, _, _ => rfl
  | n + 1, i, s => by
    unfold pinsGo
    dsimp only
    split
    · exact memRun_cph s _
    · exact (pinsGo_cph f d n (i + 1) _).trans (memRun_cph s _)

variable {u : State}

theorem exec_sealedRead_dispatched (dispatched : dispatchedAs s f k .sealedRead = some d) (enabled : s.cph.disabled = false)
    (lock : LockFor s 9 f k u) (key : (s.slot (slotIndex f d.fld.keySlot)).st ≠ .empty) : exec (.sealedRead f k aad aux) s =
      .next (judgeReading (startReading (sealedOperands u d aad aux) d (wantedUnits (sealedOperands u d aad aux) d))) := by
  have on : (jobOf u f k).isSome = true := by rw [lockFor_jobOf lock, dispatchedAs_jobOf dispatched]
  rw [← lockFor_slot lock] at key
  show execSealedRead f k aad aux s = _
  rw [execSealedRead, dispatched]
  simp only [enabled, Bool.false_eq_true, if_false, withLock_for lock, sealedReadRun_dispatched key on]

theorem exec_sealedRead_pinned {v : State} {l : List Byte} (running : sealRunning s f k .sealedRead = some d)
    (enabled : s.cph.disabled = false) (lock : LockFor s f.val f k u) (key : (s.slot (slotIndex f d.fld.keySlot)).st ≠ .empty)
    (pins : pinsGo f d d.fld.count 0 (sealedOperands u d aad aux) = (v, l, none)) : exec (.sealedRead f k aad aux) s =
      .next { v with cph := { v.cph with
        phase := .verifying, hold := gcmCrypt (s.slot (slotIndex f d.fld.keySlot)).key ((fit 32 aux).take 12) l } } := by
  have started := sealRunning_runningAs running
  have off : (jobOf u f k).isSome = false := by rw [lockFor_jobOf lock, runningAs_jobOf started]
  have operands := pinsGo_cph f d d.fld.count 0 (sealedOperands u d aad aux)
  rw [pins] at operands
  have auxIn : v.cph.auxIn = fit 32 aux := congrArg Cph.auxIn operands
  rw [← lockFor_slot lock] at key ⊢
  show execSealedRead f k aad aux s = _
  rw [execSealedRead, dispatchedAs_of_running started, running]
  simp only [enabled, Bool.false_eq_true, if_false, withLock_for lock, sealedReadRun_pinned key off pins]
  rw [openInto, auxIn]

end

/-! ### The end of a reading command -/

section
variable {s : State} {j : Job} {d : Desc}

/-- All units are good: the command stops, and a SEALED READ decrypts into the hold (R108, R318). -/
theorem judgeReading_good (on : jobDesc (sendOut s) = some (j, d)) (kind : j.kind = .reading) (whole : j.memFail = none)
    (good : verdict (d.op == .scan && bit d.fld.opfield 5) j.units = some true) : judgeReading s =
      if d.op == .sealedRead then sealedReadWhole (sendOut s) j d else stopJob (sendOut s) (readStatus j d) := by
  simp only [judgeReading, on, kind, whole, good, bne_self_eq_false, Bool.false_eq_true, if_false, Option.isSome_none]

theorem sealedReadWhole_ends (on : jobDesc s = some (j, d)) : JobEndsAs { s with cph := { s.cph with
      phase := .verifying
      hold := gcmCrypt (s.slot (slotIndex j.f d.fld.keySlot)).key (s.cph.auxIn.take 12) (delivered d j).flatten } }
    (sealedReadWhole s j d) (readStatus j d) 0 :=
  jobDesc_ends (readStatus j d) 0 on rfl

/-- A command that stops has its data, its auxiliary data and its first failed block (R99, R108, R114). -/
theorem stopJob_ends (st : Status) (on : jobDesc s = some (j, d)) : JobEndsAs (s.modDesc j.f j.k fun e => { e with
      writes := e.writes ++ jobWrites s j e
      aux := if e.fld.auxPtr = 0 then [] else jobAux s j e st
      failLba := (j.memFail.orElse fun _ => firstFailed e j).orElse fun _ => j.firstFail }) (stopJob s st) st (jobBytes s j d) := by
  rw [stopJob, on]
  exact jobDesc_ends st (jobBytes s j d) on rfl

end

/-- Settles O52: the beginning of each command, the end of all of them, and what they deliver. -/
theorem readingCommandsRunToTheirEnd : Obligations.ReadingCommandsRunToTheirEnd := by
  refine ⟨?_, ?_, ?_, ?_, ?_, ?_, ?_, ?_, ?_⟩
  · exact fun _ _ _ _ _ => exec_read_begins
  · exact fun _ _ _ _ _ => exec_readRaw_begins
  · exact fun _ _ _ _ _ => exec_verify_begins
  · exact fun _ _ _ _ _ => exec_scan_begins
  · intro s u f k d j aad aux dispatched enabled lock key held whole unaltered unpinned some_
    have same := lockFor_eq lock
    rw [exec_sealedRead_dispatched dispatched enabled lock key]
    generalize u.cph = x at same
    subst same
    exact congrArg Host.Outcome.next (judgeReading_begins (s := sealedOperands { s with cph := x } d aad aux) dispatched held whole
      (.inl ⟨unaltered, unpinned⟩) some_)
  · exact fun _ _ _ _ _ _ _ _ _ => exec_sealedRead_pinned
  · intro s t j d sent on kind whole good
    subst sent
    rw [judgeReading_good on kind whole good]
    refine ⟨fun other => if_neg (by simpa using other), fun sealed => ?_⟩
    rw [if_pos (beq_iff_eq.mpr sealed)]
    exact sealedReadWhole_ends on
  · exact fun _ _ _ => stopJob_ends
  · intro s j d
    refine ⟨?_, fun op => ?_, ?_⟩
    · rintro (op | op) <;> simp only [jobBytes, op]
    · simp only [jobBytes, jobWrites, op, and_self]
    · rintro (op | op) <;> simp only [jobWrites, op]

end Sys2Proof.Machine
end

section
/-! Vault commands to their end, and the commits that end their owners (R111, R118, R301, R316, R324, R327, R368, R402, R403, R414 to
R416). -/
namespace Sys2Proof.Machine

/-! ### Reading the MRAM leaves the folds' work alone (R289, R293, R297) -/

theorem samePool_afterRead (s : State) (p : Nat) (found : DecodeBits) (source : Nat) : SamePool s (afterRead s p found source) := by
  cases found with
  | none =>
    have lost : SamePool s { s with mram := (pageLost s.mram p).1 } := samePool_of_folds rfl rfl
    simp only [afterRead]
    exact samePool_trans lost (samePool_eccUncorr _ 3 source _ false p)
  | some c =>
    have counted : SamePool s (if c = 0 then s else eccCorrect s 3) := by
      split
      · exact samePool_of_folds rfl rfl
      · exact samePool_eccCorrect s 3
    simp only [afterRead]
    generalize (if c = 0 then s else eccCorrect s 3) = t at counted ⊢
    split
    · exact samePool_trans counted (samePool_of_folds rfl rfl)
    · exact counted

theorem samePool_readPages (s : State) (l : List Nat) (source : Nat) : SamePool s (readPages s l source) :=
  samePool_foldl (fun t p => samePool_afterRead t p _ source) l s

/-! ### Vault commands under the lock -/

/-- A started vault opcode that finds the engine free, or holds it, runs (R316, R324). -/
theorem vaultRun_for {s u : State} {f : FoldId} {k : Nat} {o : Op} {d : Desc} {g : Desc → State → State}
    (running : sealRunning s f k o = some d) (enabled : s.cph.disabled = false) (lock : LockFor s 8 f k u) :
    vaultRun s f k o g = g d u := by
  simp only [vaultRun, running, enabled, Bool.false_eq_true, if_false, withLock_for lock]

/-- The release of the lock hides no record. -/
theorem vaultFind_releaseLock (s : State) (f : FoldId) (key : List Byte) : vaultFind (releaseLock s) f key = vaultFind s f key := by
  simp only [vaultFind, releaseLock_mram]

theorem vaultSorted_releaseLock (s : State) (f : FoldId) : vaultSorted (releaseLock s) f = vaultSorted s f := by
  simp only [vaultSorted, releaseLock_mram]

/-- AUX of a descriptor that gives an address. -/
theorem setAux_given {s : State} {f : FoldId} {k : Nat} {d : Desc} (l : List Byte) (found : s.desc? f k = some d)
    (given : d.fld.auxPtr ≠ 0) : setAux s f k l = s.modDesc f k fun e => { e with aux := l } :=
  modDesc_congr found (if_neg given)

section
variable {s : State} {f : FoldId} {k : Nat} {d : Desc}

/-- VAULT GET of a record that is found, opens and fits. -/
theorem vaultGetRun_delivers {key v : List Byte} {r : Rec} (found : vaultFind (readVault s f (fit d.fld.count key)) f (fit d.fld.count key) = some r)
    (object : vaultObject r = some (f, fit d.fld.count key, v)) (readable : r.unreadable = false) (opens : vaultOpens f r = true)
    (fits : v.length ≤ d.fld.length) : vaultGetRun f k key d s =
      finish (deliver (releaseLock (readVault s f (fit d.fld.count key))) f k v) f k .ok v.length := by
  simp only [vaultGetRun, endRecord, vaultFind_releaseLock, found, object, readable, opens, Bool.not_true, Bool.false_eq_true, if_false,
    Nat.not_lt.mpr fits]

/-- VAULT LIST of a descriptor that gives an AUX address. -/
theorem vaultListRun_delivers (found : s.desc? f k = some d) (given : d.fld.auxPtr ≠ 0) : vaultListRun f k d s =
    finish (deliver ((releaseLock (readVaultAll s f)).modDesc f k fun e => { e with
      aux := leBytes 4 (vaultSorted (readVaultAll s f) f).length }) f k
        (((vaultSorted (readVaultAll s f) f).take (d.fld.length / 36)).flatMap fun o => vaultEntry o.1 o.2)) f k .ok
      (((vaultSorted (readVaultAll s f) f).take (d.fld.length / 36)).flatMap fun o => vaultEntry o.1 o.2).length := by
  have still : (releaseLock (readVaultAll s f)).desc? f k = some d := by
    rw [desc_congr (releaseLock_folds _) f k, readVaultAll, sameWork_desc (samePool_readPages s _ 0).work f k, found]
  simp only [vaultListRun, endRecord, vaultSorted_releaseLock, setAux_given _ still given]

/-- VAULT PUT of a new value within its quota takes a counter value and asks for its record. -/
theorem vaultPutRun_requests {x v : State} {c i : Nat} {key value : List Byte} (read : x = readVault s f (fit d.fld.count key))
    (new : vaultSame x f (fit d.fld.count key) (fit d.fld.length value) = false)
    (within : overVaultQuota x f (fit d.fld.count key) (fit d.fld.length value) = false) (taken : counterCheck (x.slot 16) = .value c)
    (named : vaultIdFor (releaseLock (takeCounter x 16)) f (fit d.fld.count key) = (i, v)) : vaultPutRun f k key value d s =
      requestRecord (v.modDesc f k fun e => { e with stage := .commit, counter := some c }) 3 i
        (some (.vault f (fit d.fld.count key) (fit d.fld.length value)))
        ((fit d.fld.count key).length + (fit d.fld.length value).length) .other (some (.vault f)) (.vaultPut f k)
        (some (vaultSeal x f i c (fit d.fld.count key) (fit d.fld.length value))) := by
  subst read
  simp only [vaultPutRun, new, within, taken, Bool.false_eq_true, if_false, endRecord, named]

theorem exec_vaultDelete {key : List Byte} {i : Nat} (running : sealRunning s f k .vaultDelete = some d) (enabled : s.cph.disabled = false)
    (held : vaultId s f (fit d.fld.count key) = some i) : exec (.vaultDelete f k key) s = .next (requestRecord
      (s.modDesc f k fun e => { e with stage := .commit }) 3 i none 0 .other (some (.vault f)) (.vaultDelete f k)) := by
  show execVaultDelete f k key s = _
  simp only [execVaultDelete, running, enabled, Bool.false_eq_true, if_false, held]

end

/-! ### A commit ends its owner -/

section
variable {s : State} {f : FoldId} {k : Nat} {d : Desc}

theorem finishCommit_endsAs (st : Status) (n : Nat) (found : s.desc? f k = some d) (stage : d.stage = .commit) :
    EndsAs s (finishCommit s f k st n) f k st n := by
  have waits : finishCommit s f k st n = finish s f k st n := by
    simp only [finishCommit, found, stage, BEq.rfl, if_true]
  rw [waits]
  exact finish_endsAs s f k st n

theorem lengthOf_found (found : s.desc? f k = some d) : lengthOf s f k = d.fld.length := by
  simp only [lengthOf, found, Option.map_some, Option.getD_some]

end

theorem setImage_folds (s : State) (n : Nat) (x : ImageSlot) : (setImage s n x).folds = s.folds := by
  unfold setImage
  split <;> rfl

/-- Programming an image changes no fold. -/
theorem programImage_folds (s : State) (n off : Nat) (image : List Byte) : (programImage s n off image).folds = s.folds := by
  unfold programImage
  extract_lets put
  have one (a : State × Nat) (page : List Byte) : (put a page).1.folds = a.1.folds := setImage_folds a.1 n _
  have all (l : List (List Byte)) : ∀ a : State × Nat, (l.foldl put a).1.folds = a.1.folds := by
    induction l with
    | nil => exact fun _ => rfl
    | cons page r ih => exact fun a => (ih (put a page)).trans (one a page)
  exact all _ _

section
variable {s : State} {f : FoldId} {k : Nat} {d : Desc} {q : Prog}

theorem onCommit_vaultPut (found : s.desc? f k = some d) (stage : d.stage = .commit) (act : q.act = .vaultPut f k) :
    EndsAs s (onCommit s q) f k .ok d.fld.length := by
  simp only [onCommit, act, lengthOf_found found]
  exact finishCommit_endsAs .ok _ found stage

theorem onCommit_vaultDelete (found : s.desc? f k = some d) (stage : d.stage = .commit) (act : q.act = .vaultDelete f k) :
    EndsAs s (onCommit s q) f k .ok 0 := by
  simp only [onCommit, act]
  exact finishCommit_endsAs .ok 0 found stage

theorem onCommit_tariff {x : Tariff} (found : s.desc? 0 k = some d) (stage : d.stage = .commit) (act : q.act = .tariff k)
    (payload : q.payload = some (.schedule x)) :
    EndsAs { s with kpr := { s.kpr with pending := some x } } (onCommit s q) 0 k .ok d.fld.length := by
  simp only [onCommit, act, payload, lengthOf_found found]
  exact finishCommit_endsAs .ok _ found stage

theorem onCommit_calibrate {c : CalRecord} (found : s.desc? 0 k = some d) (stage : d.stage = .commit) (act : q.act = .calibrate k)
    (payload : q.payload = some (.calibration c)) :
    EndsAs { s with sys := { s.sys with cal := c, uncal := uncalOf c } } (onCommit s q) 0 k .ok 8 := by
  simp only [onCommit, act, payload]
  exact finishCommit_endsAs .ok 8 found stage

theorem onCommit_bootDownload {b : BootRecord} {off : Nat} {im : List Byte} (found : s.desc? 0 k = some d) (stage : d.stage = .commit)
    (act : q.act = .bootDownload k off im) (payload : q.payload = some (.boot b)) :
    EndsAs (programImage { s with sys := { s.sys with boot := b } } (otherSlot b) off im) (onCommit s q) 0 k .ok im.length := by
  simp only [onCommit, act, payload]
  refine finishCommit_endsAs .ok _ ?_ stage
  exact (desc_congr (programImage_folds _ _ _ _) 0 k).trans found

theorem onCommit_bootTry {b : BootRecord} (found : s.desc? 0 k = some d) (stage : d.stage = .commit) (act : q.act = .bootTry k)
    (payload : q.payload = some (.boot b)) :
    EndsAs { s with sys := { s.sys with boot := b, restartReq := true } } (onCommit s q) 0 k .ok 0 := by
  simp only [onCommit, act, payload]
  exact finishCommit_endsAs .ok 0 found stage

/-- A confirmed trial blows fuses up to its image's SVN (R399, R403). -/
theorem onCommit_bootConfirm {b : BootRecord} (found : s.desc? 0 k = some d) (stage : d.stage = .commit) (act : q.act = .bootConfirm k)
    (payload : q.payload = some (.boot b)) :
    EndsAs { s with sys := { s.sys with boot := b, rollback := max s.sys.rollback (min 64 (imageSvn s b.active)) } } (onCommit s q)
      0 k .ok 0 := by
  simp only [onCommit, act, payload]
  exact finishCommit_endsAs .ok 0 found stage

end

/-- Settles O54: the four vault commands, and each commit that ends its owner. -/
theorem vaultCommandsAndCommittedRecordsRunToTheirEnd : Obligations.VaultCommandsAndCommittedRecordsRunToTheirEnd := by
  refine ⟨?_, ?_, ?_, ?_, ?_, ?_⟩
  · intro s u x f k d key v r running enabled lock read found object readable opens fits
    subst read
    refine ⟨_, congrArg Host.Outcome.next (vaultRun_for running enabled lock), ?_⟩
    rw [vaultGetRun_delivers found object readable opens fits]
    exact finish_endsAs _ f k .ok v.length
  · intro s u x f k d out running enabled lock given read listed
    subst read listed
    have found : u.desc? f k = some d := (desc_congr (by rw [lockFor_eq lock]) f k).trans (sealRunning_desc running)
    refine ⟨_, congrArg Host.Outcome.next (vaultRun_for running enabled lock), ?_⟩
    rw [vaultListRun_delivers found given]
    exact finish_endsAs _ f k .ok _
  · intro s u x v f k c i d key value running enabled lock read new within taken named
    exact ⟨_, congrArg Host.Outcome.next (vaultRun_for running enabled lock), vaultPutRun_requests read new within taken named⟩
  · exact fun s f k i d key running enabled held => ⟨_, exec_vaultDelete running enabled held, rfl⟩
  · exact fun s f k d q found stage => ⟨onCommit_vaultPut found stage, onCommit_vaultDelete found stage⟩
  · exact fun s k d q found stage => ⟨fun x => onCommit_tariff found stage, fun c => onCommit_calibrate found stage,
      fun b off im => onCommit_bootDownload found stage, fun b => onCommit_bootTry found stage, fun b => onCommit_bootConfirm found stage⟩

end Sys2Proof.Machine
end

section
/-! Servo, spindle, sled and loader profiles: taken whole or refused (R163 to R167, R177, R179, R209, Tables 6.10 and 7.8). -/
namespace Sys2Proof.Machine

/-! ### A profile row -/

section
variable {s : State} {k ty : Nat} {r : List Byte}

/-- A payload in range applies whole, and its descriptor ends OK with LENGTH (R179). -/
theorem profileRun_good {len : Nat} {ok : List Byte → Bool} {eff : List Byte → State} {d : Desc}
    (running : runningAs s 0 k .profileLoad = some d) (type : bits d.fld.opfield 7 0 = ty) (good : ok (fit len r) = true) :
    profileRun s k ty len r ok eff = finish (eff (fit len r)) 0 k .ok d.fld.length := by
  simp [profileRun, running, type, good]

/-- A payload out of range ends BAD_FIELD and changes nothing (R179). -/
theorem profileRun_bad {len : Nat} {ok : List Byte → Bool} {eff : List Byte → State} (running : runningAs s 0 k .profileLoad = some d)
    (type : bits d.fld.opfield 7 0 = ty) (bad : ok (fit len r) = false) :
    profileRun s k ty len r ok eff = finish s 0 k .badField 0 := by
  simp [profileRun, running, type, bad]

/-- What a row that runs a profile does, with its ranges said as a proposition. -/
theorem profileRun_taken {c : Instr} {len : Nat} {ok : List Byte → Bool} {eff : List Byte → State} {good : Prop}
    (row : exec c s = .next (profileRun s k ty len r ok eff)) (iff : ok (fit len r) = true ↔ good) :
    ProfileTaken c s k ty good (eff (fit len r)) := fun _ running type =>
  ⟨fun h => ⟨_, row.trans (congrArg _ (profileRun_good running type (iff.mpr h))), finish_endsAs _ 0 k .ok _⟩,
    fun h => ⟨_, row.trans (congrArg _ (profileRun_bad running type (Bool.eq_false_iff.mpr (mt iff.mp h)))),
      finish_endsAs _ 0 k .badField 0⟩⟩

/-- A profile that is taken, from a payload in range. -/
theorem ProfileTaken.completes {c : Instr} {d : Desc} {good : Prop} {u : State} (taken : ProfileTaken c s k ty good u)
    (running : runningAs s 0 k .profileLoad = some d) (type : bits d.fld.opfield 7 0 = ty) (h : good) :
    ∃ t : State, exec c s = .next t ∧ EndsAs u t 0 k .ok d.fld.length := (taken d running type).1 h

end

@[simp] theorem inRange_iff (lo hi n : Nat) : inRange lo hi n = true ↔ lo ≤ n ∧ n ≤ hi := by
  simp [inRange]

/-- The class that a profile names, as the index of its slot. -/
theorem set_named {α : Type} (v : Vector α 3) {i : Fin 3} {n : Nat} (h : i.val = n) (x : α) :
    v.set (n % 3) x (Nat.mod_lt _ (by decide)) = v.set i x := by
  subst h
  simp [Nat.mod_eq_of_lt i.isLt]

/-! ### LOOP_RATE and the built-in profiles -/

theorem loopRate_taken (s : State) (k : Nat) (r : List Byte) : ProfileTaken (.loopRate k r) s k 0x10
    (byteAt (fit 16 r) 0 ≤ 2 ∧ zeroBytes (fit 16 r) 1 15 = true ∧ (s.disc = none ∨ s.sys.mode = .service ∧ s.spindle.st = .stopped))
    (askResync { profilesDefault s with servo := { (profilesDefault s).servo with rate := byteAt (fit 16 r) 0 } }) :=
  profileRun_taken (c := .loopRate k r) rfl (by simp [rateAllowed, inService, and_assoc])

theorem tableDefault_rest {s : State} (still : s.sled.move = .rest) (free : s.sled.shadow = none) :
    tableDefault s = { s with sled := { s.sled with table := .builtin, shadow := none } } := by
  simp [tableDefault, still, free, takeTable]

theorem tableDefault_moving {s : State} (moves : s.sled.move ≠ .rest) (free : s.sled.shadow = none) :
    tableDefault s = { s with sled := { s.sled with shadow := some (.builtin, none) } } := by
  simp [tableDefault, moves, free]

/-- Every profile but LOOP_RATE's at its built-in values, the sled's table through its shadow (R164, R179, R197). -/
theorem profilesDefault_fields {s t : State} (free : s.sled.shadow = none) (h : t = profilesDefault s) :
    t.servo.stored = [] ∧ t.servo.signal = Vector.replicate 3 {} ∧
    t.servo.sequence = Vector.replicate 3 {} ∧ t.servo.apcTarget = none ∧ t.servo.apcMax = none ∧ t.spindle.prof = {} ∧
    t.sled.prof = {} ∧ t.loader.prof = {} ∧ t.chan.prof = ({} : Channel).prof ∧ t.chan.look = ({} : Channel).look ∧
    t.recd.strategies = [] ∧ t.recd.lds = {} ∧ t.cap.source = 0 ∧ t.cap.trigger = 0 ∧ t.cap.decimate = 1 ∧
    (s.sled.move = .rest → t.sled.table = .builtin ∧ t.sled.shadow = none) ∧
    (s.sled.move ≠ .rest → t.sled.table = s.sled.table ∧ t.sled.shadow = some (.builtin, none)) ∧
    t.folds = s.folds ∧ t.mram = s.mram ∧ t.kpr = s.kpr ∧ t.plat = s.plat ∧ t.disc = s.disc ∧ t.job = s.job ∧
    t.servo.loops = s.servo.loops := by
  subst h
  unfold profilesDefault
  by_cases still : s.sled.move = .rest
  · rw [tableDefault_rest (by exact still) (by exact free)]
    simp [still]
  · rw [tableDefault_moving (by exact still) (by exact free)]
    simp [still]

/-! ### LOOP_BANK -/

theorem exec_loopBank_pending {s : State} {k : Nat} {r : List Byte} (pending : swapPending s (byteAt (fit 160 r) 0) = true) :
    exec (.loopBank k r) s = .next s := by
  show execLoopBank k r s = _
  unfold execLoopBank
  cases runningAs s 0 k .profileLoad <;> simp [pending]

section
variable {s : State} {k : Nat} {d : Desc} {r : List Byte} (running : runningAs s 0 k .profileLoad = some d)
  (type : bits d.fld.opfield 7 0 = 0x11) (free : swapPending s (byteAt (fit 160 r) 0) = false)
include running type free

theorem exec_loopBank_bad (bad : bankOk (fit 160 r) = false) : exec (.loopBank k r) s = .next (finish s 0 k .badField 0) := by
  show execLoopBank k r s = _
  simp [execLoopBank, running, type, free, bad]

theorem exec_loopBank_stored (good : bankOk (fit 160 r) = true) (spare : bankInUse s (fit 160 r) = false) :
    exec (.loopBank k r) s = .next (finish (storeBanks s (fit 160 r)) 0 k .ok d.fld.length) := by
  show execLoopBank k r s = _
  simp [execLoopBank, running, type, free, good, spare]

theorem exec_loopBank_written (good : bankOk (fit 160 r) = true) (used : bankInUse s (fit 160 r) = true) :
    exec (.loopBank k r) s = .next (beginBankWrite (storeBanks s (fit 160 r)) k (fit 160 r)) := by
  show execLoopBank k r s = _
  simp [execLoopBank, running, type, free, good, used]

end

theorem loopBank_taken {s : State} {k : Nat} {r : List Byte} (free : swapPending s (byteAt (fit 160 r) 0) = false)
    (spare : bankInUse s (fit 160 r) = false) :
    ProfileTaken (.loopBank k r) s k 0x11 (bankOk (fit 160 r) = true) (storeBanks s (fit 160 r)) := fun _ running type =>
  ⟨fun good => ⟨_, exec_loopBank_stored running type free good spare, finish_endsAs _ 0 k .ok _⟩,
    fun bad => ⟨_, exec_loopBank_bad running type free (Bool.eq_false_iff.mpr bad), finish_endsAs _ 0 k .badField 0⟩⟩

theorem loadedClass_iff (s : State) (n : Nat) : loadedClass s = some n ↔ s.disc.isSome = true ∧ (classNow s).val = n := by
  cases h : s.disc <;> simp [loadedClass, h]

/-- The layers that a LAYER byte names: 0 to 2 for 255, else that one (R164). -/
theorem mem_layersNamed (b y : Nat) : y ∈ layersNamed b ↔ y = b ∧ y ≠ 255 ∨ b = 255 ∧ y ≤ 2 := by
  unfold layersNamed
  split
  · next h =>
    subst h
    simp only [List.mem_cons, List.not_mem_nil, or_false, true_and]
    omega
  · next h =>
    simp only [List.mem_cons, List.not_mem_nil, or_false]
    omega

theorem bankInUse_iff (s : State) (q : List Byte) : bankInUse s q = true ↔ s.disc.isSome = true ∧ (classNow s).val = byteAt q 1 ∧
    (byteAt q 2 ≠ 255 ∧ s.servo.layer = byteAt q 2 ∨ byteAt q 2 = 255 ∧ s.servo.layer ≤ 2) := by
  simp only [bankInUse, Bool.and_eq_true, beq_iff_eq, loadedClass_iff, List.contains_iff_mem, mem_layersNamed, and_assoc]
  constructor <;> rintro ⟨hd, hc, hl⟩ <;> exact ⟨hd, hc, by omega⟩

/-- A stored bank stays where another one of other names is replaced, and the replaced one is the new one (R164). -/
theorem mem_storeBank {lp cls y z : Nat} {b : Bank} {l : List (Nat × Nat × Nat × Bank)}
    (h : z = y ∨ (lp, cls, z, b) ∈ l) : (lp, cls, z, b) ∈ storeBank lp cls y b l := by
  unfold storeBank
  by_cases e : z = y
  · simp [e]
  · simp [e, h.resolve_left e]

theorem mem_foldl_storeBank {lp cls : Nat} {b : Bank} {z : Nat} : ∀ {ys : List Nat} {l : List (Nat × Nat × Nat × Bank)},
    z ∈ ys ∨ (lp, cls, z, b) ∈ l → (lp, cls, z, b) ∈ ys.foldl (fun l y => storeBank lp cls y b l) l
  | [], _, h => by simpa using h
  | y :: ys, l, h => by
    refine mem_foldl_storeBank (ys := ys) ?_
    rcases h with h | h
    · rcases List.mem_cons.mp h with h | h
      · exact .inr (mem_storeBank (.inl h))
      · exact .inl h
    · exact .inr (mem_storeBank (.inr h))

/-- LOOP_BANK's bank is stored for each layer that it names (R164). -/
theorem mem_stored_storeBanks (s : State) (q : List Byte) {y : Nat} (named : y ∈ layersNamed (byteAt q 2)) :
    (byteAt q 0, byteAt q 1, y, bankAt q) ∈ (storeBanks s q).servo.stored := mem_foldl_storeBank (.inl named)

theorem storeBanks_stored_only (s : State) (q : List Byte) :
    storeBanks s q = { s with servo := { s.servo with stored := (storeBanks s q).servo.stored } } := rfl

/-- A bank write marks its loop's inactive bank not VALID until its strobe, and touches no other loop (R163). -/
theorem beginBankWrite_eq (s : State) (k : Nat) (q : List Byte) :
    (beginBankWrite s k q).servo.bankWrites = s.servo.bankWrites ++ [(byteAt q 0, bankAt q, k)] ∧
    beginBankWrite s k q = { s.modDesc 0 k (fun e => { e with stage := .waiting }) with servo := { s.servo with
      bankWrites := (beginBankWrite s k q).servo.bankWrites, loops := (beginBankWrite s k q).servo.loops } } ∧
    ∀ i : Fin 6, (beginBankWrite s k q).servo.loops.get i =
      if i.val = byteAt q 0 then { s.servo.loops.get i with inactiveValid := false } else s.servo.loops.get i :=
  ⟨rfl, rfl, fun i => vector_ofFn_get _ i⟩

theorem writeBank_loops (s : State) (l : Nat) (b : Bank) (i : Fin 6) : (writeBank s l b).servo.loops.get i =
    if i.val = l then { s.servo.loops.get i with inactive := .loaded b, inactiveValid := true } else s.servo.loops.get i :=
  vector_ofFn_get _ i

theorem endBankWrites_one {s : State} {l k : Nat} {b : Bank} (one : s.servo.bankWrites = [(l, b, k)]) : endBankWrites s =
    profileDone (writeBank { s with servo := { s.servo with bankWrites := [] } } l b) k := by
  simp [endBankWrites, one]

/-! ### BANK_SWAP -/

section
variable {s : State} {k : Nat} {d : Desc} {r : List Byte} (running : runningAs s 0 k .profileLoad = some d)
  (type : bits d.fld.opfield 7 0 = 0x12) (none_ : s.servo.swap = none) (done : s.servo.swapped = none)
include running type none_ done

theorem exec_bankSwap_waits (good : swapOk s (fit 16 r) = true) : exec (.bankSwap k r) s =
    .next { s.modDesc 0 k (fun e => { e with stage := .waiting }) with
      servo := { s.servo with swap := some (BitVec.ofNat 6 (byteAt (fit 16 r) 0), byteAt (fit 16 r) 1 == 1, k) } } := by
  show execBankSwap k r s = _
  simp [execBankSwap, running, type, none_, done, good]

theorem exec_bankSwap_bad (bad : swapOk s (fit 16 r) = false) : exec (.bankSwap k r) s = .next (finish s 0 k .badField 0) := by
  show execBankSwap k r s = _
  simp [execBankSwap, running, type, none_, done, bad]

end

/-- A loop named whose inactive bank is not VALID bars the swap (R165). -/
theorem swapOk_invalid {s : State} {q : List Byte} {i : Fin 6} (named : (BitVec.ofNat 6 (byteAt q 0)).getLsbD i.val = true)
    (invalid : (s.servo.loops.get i).inactiveValid = false) : swapOk s q = false := by
  refine Bool.eq_false_iff.mpr fun ok => ?_
  have all := (Bool.and_eq_true _ _ ▸ ok).2
  have valid := List.all_eq_true.mp all i (List.mem_finRange i)
  rw [bit, named, invalid] at valid
  cases valid

/-! ### SIGNAL and SEQUENCE -/

theorem useProfile_loaded {s : State} {n : Nat} (disc : s.disc.isSome = true) (same : (classNow s).val = n) :
    useProfile s n = { s with servo := { s.servo with profLoad := true } } := if_pos ((loadedClass_iff s n).mpr ⟨disc, same⟩)

theorem useProfile_other {s : State} {n : Nat} (other : s.disc = none ∨ (classNow s).val ≠ n) : useProfile s n = s := by
  refine if_neg fun h => ?_
  obtain ⟨disc, same⟩ := (loadedClass_iff s n).mp h
  rcases other with other | other
  · simp [other] at disc
  · exact other same

theorem takeProfiles_waiting {s : State} (waits : s.servo.profLoad = true) : takeProfiles s = { s with servo := { s.servo with
    profLoad := false, signalIn := s.servo.signal.get (classNow s), sequenceIn := s.servo.sequence.get (classNow s) } } :=
  if_pos waits

theorem useProfile_named (s : State) {i : Fin 3} {n : Nat} (h : i.val = n) : useProfile s n = useProfile s i.val := by rw [h]

theorem signal_taken {s : State} {k : Nat} {r : List Byte} {i : Fin 3} (class_ : i.val = byteAt (fit 64 r) 0) :
    ProfileTaken (.signal k r) s k 0x13 (signalOk (fit 64 r) = true)
      (useProfile { s with servo := { s.servo with signal := s.servo.signal.set i {
        teMode := byteAt (fit 64 r) 1, kAuto := bit (BitVec.ofNat 8 (byteAt (fit 64 r) 2)) 0
        tiltEn := bit (BitVec.ofNat 8 (byteAt (fit 64 r) 2)) 1
        kDpp := q24 (fit 64 r) 4, tiltFixed := q24 (fit 64 r) 8, w := (List.range 8).map fun j => q24 (fit 64 r) (12 + 4 * j) } } }
        i.val) := by
  have h := profileRun_taken (c := .signal k r) (s := s) (k := k) (good := signalOk (fit 64 r) = true) rfl Iff.rfl
  simpa only [set_named _ class_, useProfile_named _ class_] using h

theorem exec_signal_outside {s : State} {k : Nat} {d : Desc} {r : List Byte} (running : runningAs s 0 k .profileLoad = some d)
    (type : bits d.fld.opfield 7 0 = 0x13) (outside : 2 < byteAt (fit 64 r) 0) :
    exec (.signal k r) s = .next (finish s 0 k .badField 0) := by
  have class_ : decide (byteAt (fit 64 r) 0 ≤ 2) = false := decide_eq_false (by omega)
  have bad : signalOk (fit 64 r) = false := by simp only [signalOk, class_, Bool.false_and]
  exact congrArg Host.Outcome.next (profileRun_bad running type bad)

theorem sequenceOk_iff (q : List Byte) (class_ : byteAt q 0 ≤ 2) : sequenceOk q = true ↔
    zeroBytes q 1 1 = true ∧ (100 ≤ le16 q 2 ∧ le16 q 2 ≤ 1000) ∧ (20 ≤ le16 q 4 ∧ le16 q 4 ≤ 500) ∧ (1 ≤ le16 q 6 ∧ le16 q 6 ≤ 8) ∧
      (50 ≤ le16 q 14 ∧ le16 q 14 ≤ 2000) ∧ (10 ≤ le16 q 16 ∧ le16 q 16 ≤ 500) ∧ (1 ≤ le16 q 20 ∧ le16 q 20 ≤ 1000) ∧
      (50 ≤ le16 q 24 ∧ le16 q 24 ≤ 2000) ∧ (100 ≤ le16 q 28 ∧ le16 q 28 ≤ 1000) ∧ zeroBytes q 0x1E 0x3F = true := by
  simp [sequenceOk, class_, and_assoc]

theorem sequence_taken {s : State} {k : Nat} {r : List Byte} {i : Fin 3} (class_ : i.val = byteAt (fit 64 r) 0) :
    ProfileTaken (.sequence k r) s k 0x14 (sequenceOk (fit 64 r) = true)
      (useProfile { s with servo := { s.servo with sequence := s.servo.sequence.set i (sequenceAt (fit 64 r)) } } i.val) := by
  have h := profileRun_taken (c := .sequence k r) (s := s) (k := k) (good := sequenceOk (fit 64 r) = true) rfl Iff.rfl
  simpa only [set_named _ class_, useProfile_named _ class_] using h

/-! ### SERVO_RESYNC and APC -/

theorem servoResync_taken (s : State) (k : Nat) (r : List Byte) : ProfileTaken (.servoResync k r) s k 0x15
    (zeroBytes (fit 16 r) 0 15 = true) { s with servo := { s.servo with resync := true } } :=
  profileRun_taken (c := .servoResync k r) rfl Iff.rfl

theorem apc_taken (s : State) (k : Nat) (r : List Byte) : ProfileTaken (.apc k r) s k 0x16
    (le16 (fit 16 r) 0 ≤ 511 ∧ le16 (fit 16 r) 2 ≤ 1023 ∧ zeroBytes (fit 16 r) 4 15 = true)
    (limitApc { s with servo := { s.servo with apcTarget := some (le16 (fit 16 r) 0), apcMax := some (le16 (fit 16 r) 2) } }) :=
  profileRun_taken (c := .apc k r) rfl (by simp [and_assoc])

theorem limitApc_below {s : State} (below : (s.servo.loops.get 3).out ≤ apcTop s) : limitApc s = s := if_pos below

theorem limitApc_above {s : State} (above : apcTop s < (s.servo.loops.get 3).out) : limitApc s = { s with
    servo := { s.servo with loops := s.servo.loops.set 3 { s.servo.loops.get 3 with out := apcTop s, next := none } }
    out := s.out ++ [.loopOut 3 (outCode 3 (apcTop s))] } := if_neg (by omega)

/-- Settles O35, clause by clause: one lemma per profile, and what the operations on banks and profiles change. -/
theorem servoProfilesApplyWholeOrAreRefused : Obligations.ServoProfilesApplyWholeOrAreRefused := by
  refine ⟨?_, fun s t => profilesDefault_fields, ?_, ?_, ?_, bankInUse_iff, ?_, fun s l k b => endBankWrites_one, ?_,
    storeBanks_stored_only, ?_, ?_, ?_, ?_, fun s n => ⟨useProfile_loaded, useProfile_other⟩,
    fun s => takeProfiles_waiting, ?_, ?_, ?_, ?_, fun s => ⟨limitApc_below, limitApc_above⟩⟩
  · rintro s k r _ rfl
    exact loopRate_taken s k r
  · rintro s k r _ rfl
    exact exec_loopBank_pending
  · rintro s k r _ rfl
    exact loopBank_taken
  · rintro s k d r _ rfl running type free used
    exact ⟨fun good => exec_loopBank_written running type free good used,
      fun bad => ⟨_, exec_loopBank_bad running type free bad, finish_endsAs s 0 k .badField 0⟩⟩
  · rintro s _ k q rfl
    exact beginBankWrite_eq s k q
  · rintro s _ l b rfl
    exact ⟨rfl, writeBank_loops s l b⟩
  · intro s q y named
    exact mem_stored_storeBanks s q ((mem_layersNamed _ _).mpr (by omega))
  · rintro s k d r _ rfl running type free done
    exact ⟨exec_bankSwap_waits running type free done,
      fun bad => ⟨_, exec_bankSwap_bad running type free done bad, finish_endsAs s 0 k .badField 0⟩⟩
  · rintro s q ⟨i, named, invalid⟩
    exact swapOk_invalid named invalid
  · rintro s k r _ i rfl class_
    exact signal_taken class_
  · intro s k d r running type outside
    exact ⟨_, exec_signal_outside running type outside, finish_endsAs s 0 k .badField 0⟩
  · rintro s k r _ i rfl class_
    rw [← sequenceOk_iff _ (by omega)]
    exact sequence_taken class_
  · rintro s k r _ rfl
    exact servoResync_taken s k r
  · rintro s k r _ rfl
    exact apc_taken s k r

/-! ### The rows that complete -/

theorem spindle_taken (s : State) (k : Nat) (r : List Byte) : ProfileTaken (.spindle k r) s k 0x20 (spindleOk (fit 32 r) = true)
    { s with spindle := { s.spindle with
      prof := spindleAt (fit 32 r), inUse := if s.spindle.st = .stopped then spindleAt (fit 32 r) else s.spindle.inUse } } :=
  profileRun_taken (c := .spindle k r) rfl Iff.rfl

theorem sled_taken (s : State) (k : Nat) (r : List Byte) : ProfileTaken (.sled k r) s k 0x21 (sledOk (fit 48 r) = true)
    { s with sled := { s.sled with
      prof := sledAt (fit 48 r), inUse := if s.sled.move = .rest then sledAt (fit 48 r) else s.sled.inUse } } :=
  profileRun_taken (c := .sled k r) rfl Iff.rfl

theorem loader_taken (s : State) (k : Nat) (r : List Byte) : ProfileTaken (.loader k r) s k 0x23
    (byteAt (fit 16 r) 0 ≤ 1 ∧ byteAt (fit 16 r) 1 ≤ 1 ∧ (20 ≤ le16 (fit 16 r) 2 ∧ le16 (fit 16 r) 2 ≤ 100) ∧
      (100 ≤ le16 (fit 16 r) 4 ∧ le16 (fit 16 r) 4 ≤ 800) ∧ (500 ≤ le16 (fit 16 r) 6 ∧ le16 (fit 16 r) 6 ≤ 5000) ∧
      (10 ≤ le16 (fit 16 r) 8 ∧ le16 (fit 16 r) 8 ≤ 200) ∧ zeroBytes (fit 16 r) 10 15 = true)
    { s with loader := { s.loader with prof := {
      solenoid := byteAt (fit 16 r) 0 == 1, btnEn := byteAt (fit 16 r) 1 == 1, duty := le16 (fit 16 r) 2, ilim := le16 (fit 16 r) 4
      tmax := le16 (fit 16 r) 6, solT := le16 (fit 16 r) 8 } } } :=
  profileRun_taken (c := .loader k r) rfl (by simp [and_assoc])

/-- The table in the shadow is used, and the profile that brought it completes (R197). -/
theorem takeTable_held {s : State} {k : Nat} {d : Desc} {x : TableRef} (shadow : s.sled.shadow = some (x, some k))
    (found : s.desc? 0 k = some d) :
    takeTable s = finish { s with sled := { s.sled with table := x, shadow := none } } 0 k .ok d.fld.length := by
  have held : ({ s with sled := { s.sled with table := x, shadow := none } } : State).desc? 0 k = some d := found
  simp only [takeTable, shadow, Option.bind_some]
  rw [held]
  simp only [desc_k found]

/-- A microstep table that comes while the sled is at rest is used, and its profile completes, at once (R197). -/
theorem shadowRun_rest {s : State} {k ty : Nat} {d : Desc} (x : TableRef) (running : runningAs s 0 k .profileLoad = some d)
    (type : bits d.fld.opfield 7 0 = ty) (free : s.sled.shadow = none) (still : s.sled.move = .rest) :
    shadowRun s k ty true x = finish { s with sled := { s.sled with table := x } } 0 k .ok d.fld.length := by
  have found := runningAs_desc running
  have run : shadowRun s k ty true x = takeTable { s with sled := { s.sled with shadow := some (x, some k) } } := by
    simp [shadowRun, running, type, free, still]
  rw [run, takeTable_held rfl (by exact found), ← free]

/-- Settles O55: each profile that is taken completes; a swap waits, and a table comes through its shadow. -/
theorem servoAndMotionProfilesComplete : Obligations.ServoAndMotionProfilesComplete := by
  intro s k d r running
  refine ⟨?_, ?_, ?_, ?_, ?_, fun type => (servoResync_taken s k r).completes running type, ?_, ?_, ?_, ?_, ?_, ?_⟩
  · rintro _ rfl type rate zero allowed
    exact (loopRate_taken s k r).completes running type ⟨rate, zero, allowed⟩
  · rintro _ rfl type good free spare
    exact (loopBank_taken free spare).completes running type good
  · rintro _ rfl type good free done
    exact ⟨_, exec_bankSwap_waits running type free done good, rfl, desc_modDesc (fun _ => rfl) (runningAs_desc running), rfl⟩
  · rintro _ i rfl type class_ good
    exact (signal_taken class_).completes running type good
  · rintro _ i rfl type class_ good
    exact (sequence_taken class_).completes running type good
  · rintro _ rfl type target most zero
    exact (apc_taken s k r).completes running type ⟨target, most, zero⟩
  · rintro _ rfl type good
    exact (spindle_taken s k r).completes running type good
  · rintro _ rfl type good
    exact (sled_taken s k r).completes running type good
  · intro type entries free still
    have good : (tableAt (fit 512 r)).all (fun x => decide (x < 1024)) = true := by simpa using entries
    refine ⟨_, congrArg Host.Outcome.next ?_, finish_endsAs _ 0 k .ok d.fld.length⟩
    rw [good]
    exact shadowRun_rest _ running type free still
  · rintro _ rfl type solenoid button duty0 duty1 lim0 lim1 max0 max1 sol0 sol1 zero
    exact (loader_taken s k r).completes running type
      ⟨solenoid, button, ⟨duty0, duty1⟩, ⟨lim0, lim1⟩, ⟨max0, max1⟩, ⟨sol0, sol1⟩, zero⟩
  · intro type zero free still
    refine ⟨_, congrArg Host.Outcome.next ?_, finish_endsAs _ 0 k .ok d.fld.length⟩
    rw [zero]
    exact shadowRun_rest _ running type free still

end Sys2Proof.Machine
end

section
/-! Servo faults: what detects them, how they wait for the strobe, and how they stop the mechanism there (R157, R167, R168, R172 to
R178, R390, Tables 6.9 and 6.11). -/
namespace Sys2Proof.Machine

/-! ### Intervals in strobes -/

/-- A strobe period is 10 µs divided by a power of two, so whole ms are whole strobes (R154). -/
theorem strobesIn_ms (s : State) (n : Nat) : strobesIn s (1000 * n) = n * (100 * 2 ^ s.servo.rate) := by
  unfold strobesIn
  rw [Nat.mul_assoc, Nat.mul_div_cancel_left _ (by decide)]

theorem strobesIn_one_ms (s : State) : strobesIn s 1000 = 100 * 2 ^ s.servo.rate := by
  simpa using strobesIn_ms s 1

theorem strobesIn_two_ms (s : State) : strobesIn s 2000 = 2 * (100 * 2 ^ s.servo.rate) := strobesIn_ms s 2

/-! ### The rows that detect a fault -/

theorem exec_overrunLimit {s : State} (run : 3 ≤ s.servo.overrunRun) :
    exec .overrunLimit s = .next (servoFault { s with servo := { s.servo with overrunRun := 0 } } 1 0) :=
  congrArg Host.Outcome.next (if_pos run)

theorem exec_overrunLimit_short {s : State} (run : s.servo.overrunRun < 3) : exec .overrunLimit s = .next s :=
  congrArg Host.Outcome.next (if_neg (by omega))

theorem exec_defectLong {s : State} (defect : s.servo.defect = true) (long : 2 * (sequenceNow s).dhMax < s.servo.defectHalfUs) :
    exec .defectLong s = .next (servoFault { s with servo := { s.servo with defect := false, defectHalfUs := 0 } } 2 0) := by
  show execDefectLong s = _
  simp [execDefectLong, defect, long]

theorem exec_defectLong_short {s : State} (short : s.servo.defect = false ∨ s.servo.defectHalfUs ≤ 2 * (sequenceNow s).dhMax) :
    exec .defectLong s = .next s := by
  refine congrArg Host.Outcome.next (if_neg ?_)
  simp only [Bool.and_eq_true, decide_eq_true_eq]
  rintro ⟨defect, long⟩
  rcases short with none_ | short
  · exact Bool.false_ne_true (none_.symm.trans defect)
  · omega

theorem exec_pickupOpen {s : State} (open_ : openMask s ≠ 0) (on : s.servo.ldEn = true) : exec .pickupOpen s =
    .next (servoFault { s with servo := { s.servo with band := Vector.replicate 9 0 } } 3 (openMask s)) := by
  show execPickupOpen s = _
  simp [execPickupOpen, open_, on]

theorem exec_pickupOpen_whole {s : State} (whole : openMask s = 0 ∨ s.servo.ldEn = false) : exec .pickupOpen s = .next s :=
  congrArg Host.Outcome.next (if_pos whole)

/-- A vector of nine as the list of its entries. -/
theorem vector_nine {α : Type} (v : Vector α 9) :
    v.toList = [v.get 0, v.get 1, v.get 2, v.get 3, v.get 4, v.get 5, v.get 6, v.get 7, v.get 8] := by
  have entries : v = Vector.ofFn v.get := Vector.ext fun i h => by simp [Vector.get]
  rw [entries, Vector.toList_ofFn]
  simp only [vector_ofFn_get]
  rfl

/-- The mask of 0x0750 has the bit of each input whose count has reached four, and no other (R175). -/
theorem openMask_eq (s : State) : openMask s =
    (if 4 ≤ s.servo.band.get 0 then 1 else 0) + (if 4 ≤ s.servo.band.get 1 then 2 else 0) + (if 4 ≤ s.servo.band.get 2 then 4 else 0) +
    (if 4 ≤ s.servo.band.get 3 then 8 else 0) + (if 4 ≤ s.servo.band.get 4 then 16 else 0) + (if 4 ≤ s.servo.band.get 5 then 32 else 0) +
    (if 4 ≤ s.servo.band.get 6 then 64 else 0) + (if 4 ≤ s.servo.band.get 7 then 128 else 0) +
    (if 4 ≤ s.servo.band.get 8 then 256 else 0) := by
  have adds (a n : Nat) (c : Prop) [Decidable c] : (if c then a + n else a) = a + if c then n else 0 := by split <;> rfl
  unfold openMask
  rw [vector_nine]
  simp only [adds, List.zipIdx_cons, List.zipIdx_nil, List.foldl_cons, List.foldl_nil, Nat.zero_add, Nat.reduceAdd, Nat.reducePow]

theorem exec_apcLimit {s : State} (on : s.servo.ldEn = true) (bad : 100 * 2 ^ s.servo.rate ≤ s.servo.apcMaxed ∨
    (s.servo.apcSettled = false ∧ 2 * (100 * 2 ^ s.servo.rate) ≤ s.servo.ldStrobes)) :
    exec .apcLimit s = .next (servoFault s 8 0) := by
  show execApcLimit s = _
  unfold execApcLimit
  rw [strobesIn_one_ms, strobesIn_two_ms, if_pos]
  simpa [on] using bad

theorem exec_apcLimit_good {s : State} (good : s.servo.ldEn = false ∨ (s.servo.apcMaxed < 100 * 2 ^ s.servo.rate ∧
    (s.servo.apcSettled = true ∨ s.servo.ldStrobes < 2 * (100 * 2 ^ s.servo.rate)))) : exec .apcLimit s = .next s := by
  show execApcLimit s = _
  unfold execApcLimit
  rw [strobesIn_one_ms, strobesIn_two_ms, if_neg]
  simp only [Bool.and_eq_true, Bool.or_eq_true, decide_eq_true_eq, Bool.not_eq_true']
  rintro ⟨on, bad⟩
  rcases good with off | ⟨few, good⟩
  · simp [off] at on
  · rcases bad with bad | ⟨unsettled, late⟩
    · omega
    · rcases good with good | good
      · simp [good] at unsettled
      · omega

/-! ### Faults that wait -/

/-- A cause that does not wait yet joins at the end. -/
theorem addFault_new {l : List PendFault} {c m : Nat} (new : ∀ n : Nat, .servo c n ∉ l) : addFault l (.servo c m) = l ++ [.servo c m] := by
  unfold addFault
  refine if_neg fun h => ?_
  obtain ⟨q, mem, same⟩ := List.any_eq_true.mp h
  cases q with
  | servo a n =>
    obtain rfl : c = a := by simpa using same
    exact new n mem
  | link a => simp at same
  | motion a n => simp at same
  | rail a => simp at same
  | down => simp at same

/-- A cause that waits already stays once, with both masks (R175). -/
theorem addFault_again (c m n : Nat) : addFault [.servo c n] (.servo c m) = [.servo c (m ||| n)] := by
  simp [addFault]

/-- Servo faults are posted by ascending cause, before motion faults and after link faults; their causes are few enough to try
each (R24, R178, R207). -/
theorem faultOrder_pairs (m n : Nat) : ∀ b < 9, ∀ a < b,
    faultOrder [.servo b n, .servo a m] = [.servo a m, .servo b n] ∧
    faultOrder [.motion a m, .servo b n] = [.servo b n, .motion a m] ∧
    faultOrder [.servo b n, .link a] = [.link a, .servo b n] := by
  simp only [Nat.forall_lt_succ_right, Nat.not_lt_zero, false_implies, implies_true, true_and]
  and_intros <;> rfl

/-! ### The cause of HALT (log entry 110) -/

theorem haltCauseOf_link {l : List PendFault} (link : ∃ x, PendFault.link x ∈ l) : haltCauseOf l = 4 := by
  obtain ⟨x, mem⟩ := link
  exact if_pos (List.any_eq_true.mpr ⟨_, mem, rfl⟩)

section
variable {l : List PendFault} (unlinked : ∀ x, PendFault.link x ∉ l)
include unlinked

theorem not_any_of_unlinked (is : PendFault → Bool) (only : ∀ p, is p = true → ∃ x, p = .link x) : ¬ l.any is = true := by
  intro any
  obtain ⟨p, mem, h⟩ := List.any_eq_true.mp any
  obtain ⟨x, rfl⟩ := only p h
  exact unlinked x mem

theorem haltCauseOf_pickup (pickup : ∃ m, PendFault.servo 3 m ∈ l ∨ .servo 8 m ∈ l ∨ .rail 7 ∈ l) : haltCauseOf l = 3 := by
  obtain ⟨m, mem⟩ := pickup
  unfold haltCauseOf
  rw [if_neg (not_any_of_unlinked unlinked _ fun p h => by cases p <;> simp at h ⊢)]
  refine if_pos (List.any_eq_true.mpr ?_)
  rcases mem with mem | mem | mem <;> exact ⟨_, mem, rfl⟩

theorem haltCauseOf_other (other : ∀ m, PendFault.servo 3 m ∉ l ∧ .servo 8 m ∉ l ∧ .rail 7 ∉ l) : haltCauseOf l = 1 := by
  unfold haltCauseOf
  rw [if_neg (not_any_of_unlinked unlinked _ fun p h => by cases p <;> simp at h ⊢)]
  refine if_neg fun any => ?_
  obtain ⟨p, mem, h⟩ := List.any_eq_true.mp any
  cases p with
  | servo c m =>
    simp only [Bool.or_eq_true, beq_iff_eq] at h
    rcases h with rfl | rfl
    · exact (other m).1 mem
    · exact (other m).2.1 mem
  | rail n =>
    simp only [beq_iff_eq] at h
    subst h
    exact (other 0).2.2 mem
  | link x => cases h
  | motion c x => cases h
  | down => cases h

end

/-! ### Faults at the strobe -/

/-- Faults that are more than a supply going down post their events, end the command on the mechanism, make it safe and enter HALT once
(R24, R178, R207). -/
theorem takeFaults_eq {s : State} (fault : s.halt.pend.all (· == .down) = false) : takeFaults s =
    enterHalt (makeSafe (stopJob ((faultOrder s.halt.pend).foldl (fun t p => postEvent t 0 (faultEvent p).1 (faultEvent p).2)
      { s with halt := { s.halt with pend := [] } }) .servoFault)) (haltCauseOf s.halt.pend) := by
  unfold takeFaults
  split
  · next none_ => simp [none_] at fault
  · exact if_neg (by simp only [fault]; decide)

/-- What the rest of a strobe leaves of a mechanism that its faults have stopped. -/
structure StaysStopped (v t : State) : Prop where
  halt : t.halt = v.halt
  ldEn : t.servo.ldEn = v.servo.ldEn
  wgate : t.servo.wgate = v.servo.wgate
  sled : t.sled = v.sled
  loader : t.loader = v.loader
  closed : ∀ i : Fin 6, (t.servo.loops.get i).closed = (v.servo.loops.get i).closed

theorem staysStopped_rfl (s : State) : StaysStopped s s := ⟨rfl, rfl, rfl, rfl, rfl, fun _ => rfl⟩

theorem StaysStopped.trans {u v t : State} (h : StaysStopped u v) (g : StaysStopped v t) : StaysStopped u t :=
  ⟨g.halt.trans h.halt, g.ldEn.trans h.ldEn, g.wgate.trans h.wgate, g.sled.trans h.sled, g.loader.trans h.loader,
    fun i => (g.closed i).trans (h.closed i)⟩

theorem staysStopped_profileDone (s : State) (k : Nat) : StaysStopped s (profileDone s k) := by
  unfold profileDone
  split
  · next d _ =>
    have rest := (finish_endsAs s 0 k .ok d.fld.length).rest
    rw [rest]
    exact ⟨rfl, rfl, rfl, rfl, rfl, fun _ => rfl⟩
  · exact staysStopped_rfl s

theorem staysStopped_writeBank (s : State) (l : Nat) (b : Bank) : StaysStopped s (writeBank s l b) := by
  refine ⟨rfl, rfl, rfl, rfl, rfl, fun i => ?_⟩
  rw [writeBank_loops]
  split <;> rfl

theorem staysStopped_endBankWrites (s : State) : StaysStopped s (endBankWrites s) := by
  have each : ∀ (l : List (Nat × Bank × Nat)) (t : State),
      StaysStopped t (l.foldl (fun t w => profileDone (writeBank t w.1 w.2.1) w.2.2) t) := by
    intro l
    induction l with
    | nil => exact staysStopped_rfl
    | cons w r ih => exact fun t => ((staysStopped_writeBank t _ _).trans (staysStopped_profileDone _ _)).trans (ih _)
  exact StaysStopped.trans (v := { s with servo := { s.servo with bankWrites := [] } }) ⟨rfl, rfl, rfl, rfl, rfl, fun _ => rfl⟩ (each _ _)

theorem staysStopped_swapAtStrobe (s : State) : StaysStopped s (swapAtStrobe s) := by
  unfold swapAtStrobe
  split
  · exact staysStopped_rfl s
  · refine ⟨rfl, rfl, rfl, rfl, rfl, fun i => ?_⟩
    simp only [swapBanks, vector_ofFn_get]
    split <;> rfl

theorem staysStopped_loadAtStrobe (s : State) : StaysStopped s (loadAtStrobe s) := by
  unfold loadAtStrobe
  split
  · exact staysStopped_rfl s
  · refine ⟨rfl, rfl, rfl, rfl, rfl, fun i => ?_⟩
    simp only [loadBanks, vector_ofFn_get]
    split <;> rfl

theorem staysStopped_takeProfiles (s : State) : StaysStopped s (takeProfiles s) := by
  unfold takeProfiles
  split
  · exact ⟨rfl, rfl, rfl, rfl, rfl, fun _ => rfl⟩
  · exact staysStopped_rfl s

theorem staysStopped_countLimit (s : State) : StaysStopped s (countLimit s) := by
  unfold countLimit
  split
  · exact staysStopped_rfl s
  · exact ⟨rfl, rfl, rfl, rfl, rfl, fun _ => rfl⟩

/-- What follows the faults at a strobe closes no loop and starts nothing. -/
theorem staysStopped_atStrobe (s : State) : StaysStopped (takeFaults (limitApc s)) (atStrobe s) :=
  (((((staysStopped_endBankWrites _).trans (staysStopped_swapAtStrobe _)).trans (staysStopped_loadAtStrobe _)).trans
    (staysStopped_takeProfiles _)).trans (staysStopped_countLimit _)).trans ⟨rfl, rfl, rfl, rfl, rfl, fun _ => rfl⟩

theorem halt_limitApc (s : State) : (limitApc s).halt = s.halt := by
  unfold limitApc
  split <;> rfl

theorem halt_missedSample (s : State) : (missedSample s).halt = s.halt := by
  unfold missedSample defectLasts
  dsimp only
  split <;> split <;> rfl

theorem halt_endPeriod (s : State) : (endPeriod s).halt = s.halt := by
  unfold endPeriod
  split
  · rfl
  · split
    · exact halt_missedSample s
    · rfl

/-- The counts of the period that begins at a strobe (R154, R177). -/
def beginPeriod (v : Servo) : Servo := { v with
  expect := true
  strobes := v.strobes + 1
  ldStrobes := if v.ldEn then v.ldStrobes + 1 else 0
  n := if v.resync then 0 else v.n + 1
  resync := false
  invalid := if v.resync then 2 else v.invalid
  seq := { v.seq with strobes := v.seq.strobes + 1 } }

theorem exec_loopStrobe {s : State} (up : linksUp s = true) : exec .loopStrobe s =
    .next { atStrobe (endPeriod s) with servo := beginPeriod (atStrobe (endPeriod s)).servo } := by
  show execLoopStrobe s = _
  cases h : (atStrobe (endPeriod s)).servo.resync <;> simp [execLoopStrobe, beginPeriod, up, h]

/-- The faults of a period halt the mechanism at the strobe (R178, R390, R391). -/
theorem exec_loopStrobe_halts {s : State} (up : linksUp s = true) (fault : s.halt.pend.all (· == .down) = false) :
    ∃ t : State, exec .loopStrobe s = .next t ∧ t.halt.inHalt = true ∧ t.halt.pend = [] ∧ t.halt.seq = s.halt.seq + 1 ∧
      t.servo.ldEn = false ∧ t.servo.wgate = false ∧ t.sled.lost = true ∧ t.loader.drive = .none ∧
      ∀ i : Fin 6, (t.servo.loops.get i).closed = false := by
  have same : (limitApc (endPeriod s)).halt = s.halt := (halt_limitApc _).trans (halt_endPeriod s)
  obtain ⟨halt, ⟨ldEn, wgate, -, -⟩, loops, -, -, ⟨-, lost, -, -⟩, drive, -⟩ := takeFaults_halts (limitApc (endPeriod s)) (by rwa [same])
  have stays := staysStopped_atStrobe (endPeriod s)
  have halted : (atStrobe (endPeriod s)).halt = _ := stays.halt.trans halt
  refine ⟨_, exec_loopStrobe up, ?_, ?_, ?_, stays.ldEn.trans ldEn, stays.wgate.trans wgate, ?_, ?_,
    fun i => (stays.closed i).trans (loops i).1⟩
  · exact congrArg Halt.inHalt halted
  · exact congrArg Halt.pend halted
  · exact (congrArg Halt.seq halted).trans (congrArg (·.seq + 1) same)
  · exact (congrArg Sled.lost stays.sled).trans lost
  · exact (congrArg Loader.drive stays.loader).trans drive

/-! ### PU_TEMP -/

/-- The end of the command on the mechanism changes its descriptor and itself alone. -/
theorem endJob_eq (s : State) (st : Status) (n : Nat) :
    endJob s st n = { s with folds := (endJob s st n).folds, job := (endJob s st n).job } := by
  unfold endJob
  repeat' split
  all_goals rfl

theorem stopJob_eq (s : State) (st : Status) : stopJob s st = { s with folds := (stopJob s st).folds, job := (stopJob s st).job } := by
  unfold stopJob
  split
  · exact endJob_eq s st 0
  · exact endJob_eq _ st _

theorem stopAtBoundary_eq (s : State) (st : Status) :
    stopAtBoundary s st = { s with folds := (stopAtBoundary s st).folds, job := (stopAtBoundary s st).job } := by
  unfold stopAtBoundary
  split
  · rfl
  · exact stopJob_eq s st

/-- Writing is barred: a write under way is to stop at its next boundary (R176). -/
def writingBarred (s : State) : State :=
  match jobDesc s with
  | some (j, d) => if opWrites d.op && !j.ended then stopAtBoundary s .writeFailed else s
  | none => s

theorem writingBarred_eq (s : State) : writingBarred s = { s with folds := (writingBarred s).folds, job := (writingBarred s).job } := by
  unfold writingBarred
  split
  · split
    · exact stopAtBoundary_eq s _
    · rfl
  · rfl

theorem exec_puTempOpen {s : State} (whole : s.servo.puOpen = false) (high : 32 ≤ s.servo.puHigh) : exec .puTempOpen s =
    .next (postEvent (writingBarred { s with servo := { s.servo with puOpen := true } }) 0 0x0751
      (w32 (1 + 65536 * toBits 16 (s.servo.samples.get 9)))) :=
  congrArg Host.Outcome.next (if_neg (by simp [whole, high]))

theorem puTempOpen_reports {s : State} (whole : s.servo.puOpen = false) (high : 32 ≤ s.servo.puHigh) :
    ∃ (u t : State), exec .puTempOpen s = .next t ∧
      t = postEvent u 0 0x0751 (w32 (1 + 65536 * toBits 16 (s.servo.samples.get 9))) ∧ t.servo.puOpen = true ∧ t.halt = s.halt ∧
      (s.job = none → u = { s with servo := { s.servo with puOpen := true } }) ∧
      ∀ (j : Job) (d : Desc), jobDesc s = some (j, d) →
        (opWrites d.op = false ∨ j.ended = true → u = { s with servo := { s.servo with puOpen := true } }) ∧
        (opWrites d.op = true → j.ended = false → u = stopAtBoundary { s with servo := { s.servo with puOpen := true } } .writeFailed) := by
  have posted : Beside (writingBarred { s with servo := { s.servo with puOpen := true } }) _ :=
    @beside_postEvent _ _ 0 0x0751 (w32 (1 + 65536 * toBits 16 (s.servo.samples.get 9))) beside_rfl
  have barred := writingBarred_eq { s with servo := { s.servo with puOpen := true } }
  refine ⟨_, _, exec_puTempOpen whole high, rfl, ?_, ?_, fun idle => ?_, fun j d on => ?_⟩
  · rw [posted.servo_eq, barred]
  · rw [posted.halt_eq, barred]
  · have none_ : jobDesc { s with servo := { s.servo with puOpen := true } } = none := by simp [jobDesc, idle]
    simp only [writingBarred, none_]
  · have held : jobDesc { s with servo := { s.servo with puOpen := true } } = some (j, d) := on
    constructor
    · rintro (reads | ended)
      · simp only [writingBarred, held, reads, Bool.false_and, Bool.false_eq_true, if_false]
      · simp only [writingBarred, held, ended, Bool.not_true, Bool.and_false, Bool.false_eq_true, if_false]
    · intro writes going
      simp only [writingBarred, held, writes, going, Bool.not_false, Bool.and_true, if_true]

theorem exec_puTempOpen_none {s : State} (h : s.servo.puOpen = true ∨ s.servo.puHigh < 32) : exec .puTempOpen s = .next s :=
  congrArg Host.Outcome.next (if_pos (by simpa using h))

theorem exec_puTempClear {s : State} (open_ : s.servo.puOpen = true) (low : 32 ≤ s.servo.puLow) : exec .puTempClear s =
    .next (postEvent { s with servo := { s.servo with puOpen := false } } 0 0x0751 (w32 (65536 * toBits 16 (s.servo.samples.get 9)))) :=
  congrArg Host.Outcome.next (if_pos (by simp [open_, low]))

theorem exec_puTempClear_none {s : State} (h : s.servo.puOpen = false ∨ s.servo.puLow < 32) : exec .puTempClear s = .next s :=
  congrArg Host.Outcome.next (if_neg (by rcases h with h | h <;> simp [h]))

/-- Settles O45, clause by clause: the rows that detect a fault, how it waits, and how it stops the mechanism at the strobe. -/
theorem servoFaultsStopTheMechanism : Obligations.ServoFaultsStopTheMechanism := by
  refine ⟨fun s => exec_overrunLimit, fun s => exec_overrunLimit_short, fun s => exec_defectLong, fun s => exec_defectLong_short, ?_,
    fun s => exec_pickupOpen_whole, openMask_eq, fun s => exec_apcLimit, fun s => exec_apcLimit_good, fun s c m => rfl,
    fun l c m => addFault_new, addFault_again, fun a b m n lt le => faultOrder_pairs m n b (Nat.lt_succ_of_le le) a lt, ?_,
    fun s fault => ⟨takeFaults_halts s fault, takeFaults_eq fault⟩, fun c m => ⟨rfl, rfl, rfl⟩, fun s => exec_loopStrobe_halts,
    fun s => puTempOpen_reports, fun s => exec_puTempOpen_none, fun s => exec_puTempClear, fun s => exec_puTempClear_none⟩
  · rintro s _ rfl open_ on
    exact exec_pickupOpen open_ on
  · exact fun l => ⟨haltCauseOf_link, fun unlinked => ⟨haltCauseOf_pickup unlinked, haltCauseOf_other unlinked⟩⟩

end Sys2Proof.Machine
end

section
/-! Strobes: VCORE follows the governor's code there (R335), which the frame of StrobesApplyAndComputeTheLoops leaves out. -/
namespace Sys2Proof.Machine

/-- At each strobe VCORE's code is the governor's (R335). -/
theorem vcore_loopStrobe {s t : State} (up : linksUp s = true) (run : exec .loopStrobe s = .next t) :
    t.pwr.gov.vcore = t.pwr.gov.code := by
  rw [exec_loopStrobe up] at run
  cases run
  rfl

theorem roundDiv_nonneg {a : Int} (nonneg : 0 ≤ a) (b : Nat) : 0 ≤ roundDiv a b := by
  unfold roundDiv
  rw [if_pos nonneg]
  exact Int.natCast_nonneg _

theorem apcTop_nonneg (s : State) : 0 ≤ apcTop s := roundDiv_nonneg (by omega) _

/-- Refutes O44: its first clause says that a strobe with nothing waiting changes the servo and the output alone. But the governor has
chosen code 40 while VCORE stands at 50, which no hypothesis excludes, and this strobe is where VCORE becomes 40 (R335). -/
theorem not_strobesApplyAndComputeTheLoops : ¬ Obligations.StrobesApplyAndComputeTheLoops := by
  intro h
  have idle : ((State.reset.servo.loops.get 3).next = none) ∧ (State.reset.servo.loops.get 3).out = 0 := ⟨rfl, rfl⟩
  obtain ⟨t, run, frame, -⟩ := (h.1 { State.reset with pwr.gov.code := 40, pwr.gov.vcore := 50 } rfl rfl rfl rfl rfl rfl (by decide)).1
    rfl rfl (fun o z some_ => absurd (idle.1.symm.trans some_) (by simp)) (fun _ => Int.le_trans (Int.le_of_eq idle.2) (apcTop_nonneg _))
  have follows : t.pwr.gov.vcore = t.pwr.gov.code := vcore_loopStrobe rfl run
  have framed : t.pwr.gov.code = 40 ∧ t.pwr.gov.vcore = 50 := by
    rw [frame]
    exact ⟨rfl, rfl⟩
  omega

end Sys2Proof.Machine
end

section
/-! The sequencer: focus-on, track-on, track jumps and layer jumps (R166, R168 to R170, R177, R178, Tables 6.4 to 6.7). -/
namespace Sys2Proof.Machine

/-! ### Loops closed and opened -/

section
variable (s : State) (i j : Fin 6) (closed held : Bool)

@[simp] theorem setLoop_same : (setLoop s i closed held).servo.loops.get i =
    { s.servo.loops.get i with closed := closed, held := held, next := none } := get_set_same _ _ _

theorem setLoop_other {j : Fin 6} (h : j ≠ i) : (setLoop s i closed held).servo.loops.get j = s.servo.loops.get j :=
  get_set_other _ _ h

@[simp] theorem setLoop_closed : ((setLoop s i closed held).servo.loops.get j).closed =
    if j = i then closed else (s.servo.loops.get j).closed := by
  split
  · next h => rw [h, setLoop_same]
  · next h => rw [setLoop_other s i closed held h]

@[simp] theorem setLoop_active : ((setLoop s i closed held).servo.loops.get j).active = (s.servo.loops.get j).active := by
  by_cases h : j = i
  · rw [h, setLoop_same]
  · rw [setLoop_other s i closed held h]

@[simp] theorem setLoop_out : ((setLoop s i closed held).servo.loops.get j).out = (s.servo.loops.get j).out := by
  by_cases h : j = i
  · rw [h, setLoop_same]
  · rw [setLoop_other s i closed held h]

end

/-- Two loops set one after the other: what each is, and that the others stay. -/
theorem setLoop_two (s : State) {a b : Fin 6} (ne : a ≠ b) (c h c' h' : Bool) :
    (setLoop (setLoop s a c h) b c' h').servo.loops.get a = { s.servo.loops.get a with closed := c, held := h, next := none } ∧
    (setLoop (setLoop s a c h) b c' h').servo.loops.get b = { s.servo.loops.get b with closed := c', held := h', next := none } ∧
    ∀ i : Fin 6, i ≠ a → i ≠ b → (setLoop (setLoop s a c h) b c' h').servo.loops.get i = s.servo.loops.get i := by
  refine ⟨?_, ?_, fun i ha hb => ?_⟩
  · rw [setLoop_other _ b _ _ ne, setLoop_same]
  · rw [setLoop_same, setLoop_other s a _ _ ne.symm]
  · rw [setLoop_other _ b _ _ hb, setLoop_other s a _ _ ha]

/-! ### Focus-on begins (R168, R169, Table 6.4) -/

theorem raiseLaser_allowed {s : State} (allowed : laserAllowed s = true) : raiseLaser s = { s with
    servo := { s.servo with
      ldEn := true, ldStrobes := if s.servo.ldEn then s.servo.ldStrobes else 0
      loops := s.servo.loops.set 3 { s.servo.loops.get 3 with closed := true } }
    out := if s.servo.ldEn then s.out else s.out ++ [.ldEn true] } := by
  cases on : s.servo.ldEn <;> simp [raiseLaser, allowed, on, State.emit]

/-- Raising the laser closes APC and changes no other loop. -/
theorem raiseLaser_loop {s : State} (allowed : laserAllowed s = true) (i : Fin 6) : (raiseLaser s).servo.loops.get i =
    if i = 3 then { s.servo.loops.get 3 with closed := true } else s.servo.loops.get i := by
  rw [raiseLaser_allowed allowed]
  by_cases apc : i = 3
  · rw [if_pos apc, apc]
    exact get_set_same _ (3 : Fin 6) _
  · rw [if_neg apc]
    exact get_set_other (i := (3 : Fin 6)) _ _ apc

/-- A focus-on opens the loops that use photodetector samples and leaves every bank and output (Table 6.4). -/
theorem beginFocus_loop (s : State) (layer : Nat) (afterJump : Bool) (i : Fin 6) :
    ((beginFocus s layer afterJump).servo.loops.get i).active = ((raiseLaser s).servo.loops.get i).active ∧
    ((beginFocus s layer afterJump).servo.loops.get i).out = ((raiseLaser s).servo.loops.get i).out ∧
    ((beginFocus s layer afterJump).servo.loops.get i).closed =
      if i = 3 ∨ i = 4 then ((raiseLaser s).servo.loops.get i).closed else false := by
  refine ⟨?_, ?_, ?_⟩
  · simp [beginFocus]
  · simp [beginFocus]
  · simp only [beginFocus, setLoop_closed]
    match i with
    | 0 | 1 | 2 | 3 | 4 | 5 => rfl

theorem exec_focusOn_none {s : State} {l : Nat} (bar : laserAllowed s = false ∨ 2 < l ∨ s.servo.seq.phase ≠ .idle) :
    exec (.focusOn l) s = .next s := by
  refine congrArg Host.Outcome.next (if_neg ?_)
  simp only [Bool.and_eq_true, decide_eq_true_eq, beq_iff_eq]
  rintro ⟨⟨allowed, le⟩, idle⟩
  rcases bar with off | gt | busy
  · simp [allowed] at off
  · omega
  · exact busy idle

theorem exec_focusOn {s : State} {l : Nat} (allowed : laserAllowed s = true) (le : l ≤ 2) (idle : s.servo.seq.phase = .idle) :
    exec (.focusOn l) s = .next (beginFocus s l false) :=
  congrArg Host.Outcome.next (if_pos (by simp [allowed, le, idle]))

theorem focusOn_begins {s : State} {l : Nat} (allowed : laserAllowed s = true) (le : l ≤ 2) (idle : s.servo.seq.phase = .idle) :
    ∃ t : State, exec (.focusOn l) s = .next t ∧
    t = { s with servo := t.servo, out := if s.servo.ldEn then s.out else s.out ++ [.ldEn true] } ∧ t.servo.ldEn = true ∧
    t.servo.ldStrobes = (if s.servo.ldEn then s.servo.ldStrobes else 0) ∧ t.servo.fok = false ∧ t.servo.locked = false ∧
    t.servo.trackOnAt = none ∧ t.servo.seq = { phase := .settle, layer := l, afterJump := false } ∧ t.servo.wgate = s.servo.wgate ∧
    ∀ i : Fin 6, (t.servo.loops.get i).active = (s.servo.loops.get i).active ∧ (t.servo.loops.get i).out = (s.servo.loops.get i).out ∧
      (t.servo.loops.get i).closed = (if i = 3 then true else if i = 4 then (s.servo.loops.get 4).closed else false) := by
  have raised := raiseLaser_allowed allowed
  refine ⟨_, exec_focusOn allowed le idle, ?_, ?_, ?_, rfl, rfl, rfl, rfl, ?_, fun i => ?_⟩
  · simp only [beginFocus, setLoop, raised]
  · simp only [beginFocus, setLoop, raised]
  · simp only [beginFocus, setLoop, raised]
  · simp only [beginFocus, setLoop, raised]
  · obtain ⟨active, out, closed⟩ := beginFocus_loop s l false i
    rw [active, out, closed, raiseLaser_loop allowed]
    by_cases apc : i = 3
    · simp [apc]
    · by_cases spindle : i = 4 <;> simp [apc, spindle]

/-! ### A valid sample and the sequencer -/

/-- What the tests and measurements of a valid sample leave of the sequence in progress and of the loops. -/
structure SampleTested (v t : State) : Prop where
  rest : t = { v with servo := t.servo, chan := t.chan }
  seq : t.servo.seq = v.servo.seq
  samples : t.servo.samples = v.servo.samples
  loops : t.servo.loops = v.servo.loops
  jump : t.servo.jump = v.servo.jump
  fok : t.servo.fok = v.servo.fok
  locked : t.servo.locked = v.servo.locked
  ldEn : t.servo.ldEn = v.servo.ldEn
  computing : t.servo.computing = v.servo.computing

theorem SampleTested.trans {u v t : State} (h : SampleTested u v) (g : SampleTested v t) : SampleTested u t := by
  refine ⟨?_, g.seq.trans h.seq, g.samples.trans h.samples, g.loops.trans h.loops, g.jump.trans h.jump, g.fok.trans h.fok,
    g.locked.trans h.locked, g.ldEn.trans h.ldEn, g.computing.trans h.computing⟩
  rw [g.rest, h.rest]

theorem sampleTested_defectTest (s : State) : SampleTested s (defectTest s) := by
  unfold defectTest
  dsimp only
  repeat' split
  all_goals exact ⟨rfl, rfl, rfl, rfl, rfl, rfl, rfl, rfl, rfl⟩

theorem sampleTested_apcTest (s : State) (c : Vector Int 16) : SampleTested s (apcTest s c) := by
  unfold apcTest
  split <;> exact ⟨rfl, rfl, rfl, rfl, rfl, rfl, rfl, rfl, rfl⟩

theorem sampleTested_defectLasts (s : State) : SampleTested s (defectLasts s) := by
  unfold defectLasts
  split <;> exact ⟨rfl, rfl, rfl, rfl, rfl, rfl, rfl, rfl, rfl⟩

theorem sampleTested_meterStrobe (s : State) : SampleTested s (meterStrobe s) := by
  unfold meterStrobe
  split <;> exact ⟨rfl, rfl, rfl, rfl, rfl, rfl, rfl, rfl, rfl⟩

/-- A valid sample is tested, begins the computation, and then serves the sequence in progress (R154, R169 to R177). -/
theorem servoSampleArrival_steps {s : State} {c : Vector Int 16} (up : linksUp s = true) (expect : s.servo.expect = true)
    (valid : s.servo.invalid = 0) : ∃ u : State,
    exec (.servoSampleArrival c) s = .next (seqStep u) ∧ u = { s with servo := u.servo, chan := u.chan } ∧ u.servo.seq = s.servo.seq ∧
    u.servo.samples = c.map (clampI (-512) 511) ∧ u.servo.loops = s.servo.loops ∧ u.servo.jump = s.servo.jump ∧
    u.servo.fok = s.servo.fok ∧ u.servo.locked = s.servo.locked ∧ u.servo.ldEn = s.servo.ldEn ∧ u.servo.computing = true := by
  generalize codes : c.map (clampI (-512) 511) = q
  have run : exec (.servoSampleArrival c) s = .next (seqStep (meterStrobe (defectLasts (
      let t := noteSums (apcTest (puTempTest (bandTest (defectTest { s with servo := { s.servo with samples := q } }) q) q) q)
      { t with servo := { t.servo with computing := true, expect := false } })))) := by
    show execServoSampleArrival c s = _
    simp only [execServoSampleArrival, up, expect, valid, codes, Bool.not_true, Bool.or_self, Bool.false_eq_true, if_false, Nat.lt_irrefl]
  have tested := (((((sampleTested_defectTest { s with servo := { s.servo with samples := q } }).trans
    (t := bandTest _ q) ⟨rfl, rfl, rfl, rfl, rfl, rfl, rfl, rfl, rfl⟩).trans
    (t := puTempTest _ q) ⟨rfl, rfl, rfl, rfl, rfl, rfl, rfl, rfl, rfl⟩).trans (sampleTested_apcTest _ q)).trans
    (t := noteSums _) ⟨rfl, rfl, rfl, rfl, rfl, rfl, rfl, rfl, rfl⟩)
  generalize noteSums _ = t at run tested
  have measured := (sampleTested_defectLasts { t with servo := { t.servo with computing := true, expect := false } }).trans
    (sampleTested_meterStrobe _)
  refine ⟨_, run, ?_, measured.seq.trans tested.seq, measured.samples.trans tested.samples, measured.loops.trans tested.loops,
    measured.jump.trans tested.jump, measured.fok.trans tested.fok, measured.locked.trans tested.locked,
    measured.ldEn.trans tested.ldEn, measured.computing⟩
  rw [measured.rest, tested.rest]

theorem seqStep_eq (s : State) : seqStep s = { seqPhaseStep s (sumCode s) (feQ s) (teQ s) with
    servo := { (seqPhaseStep s (sumCode s) (feQ s) (teQ s)).servo with
      seq := { (seqPhaseStep s (sumCode s) (feQ s) (teQ s)).servo.seq with fe := feQ s, te := teQ s } } } := rfl

/-! ### The focus search (Table 6.4) -/

section
variable (s : State) (sum fe te : Int)

theorem seqPhaseStep_settle (phase : s.servo.seq.phase = .settle) : seqPhaseStep s sum fe te =
    if s.servo.apcSettled = true ∧ strobesIn s 2000 + 5 ≤ s.servo.ldStrobes then beginSweep s else s := by
  simp [seqPhaseStep, phase]

theorem seqPhaseStep_down (phase : s.servo.seq.phase = .down) : seqPhaseStep s sum fe te = sweepStep s false sum fe := by
  simp only [seqPhaseStep, phase]

theorem seqPhaseStep_focusHold (phase : s.servo.seq.phase = .focusHold) : seqPhaseStep s sum fe te =
    if sum ≤ (sequenceNow s).fokTh then attemptOver s
    else if s.servo.seq.strobes < strobesIn s 1000 then s
    else if s.servo.seq.afterJump then beginTrackOn (declareFok s) 0 else declareFok s := by
  simp [seqPhaseStep, phase]

end

/-- A sweep pair begins with FOCUS, TRACK and SLED open and no S-curve counted. -/
theorem beginSweep_begins (s : State) :
    (beginSweep s).servo.seq = { s.servo.seq with phase := .up, strobes := 0, curves := 0, sumPeak := 0, fePeak := 0 } ∧
    ((beginSweep s).servo.loops.get 0).closed = false ∧ ((beginSweep s).servo.loops.get 1).closed = false ∧
    ((beginSweep s).servo.loops.get 5).closed = false := by
  refine ⟨rfl, ?_, ?_, ?_⟩ <;> simp [beginSweep, setPhase]

theorem seqPhaseStep_settled {s : State} (sum fe te : Int) (phase : s.servo.seq.phase = .settle) :
    (s.servo.apcSettled = true → strobesIn s 2000 + 5 ≤ s.servo.ldStrobes → ∃ t : State, seqPhaseStep s sum fe te = t ∧
      t.servo.seq = { s.servo.seq with phase := .up, strobes := 0, curves := 0, sumPeak := 0, fePeak := 0 } ∧
      (t.servo.loops.get 0).closed = false ∧ (t.servo.loops.get 1).closed = false ∧ (t.servo.loops.get 5).closed = false) ∧
    (s.servo.apcSettled = false ∨ s.servo.ldStrobes < strobesIn s 2000 + 5 → seqPhaseStep s sum fe te = s) := by
  rw [seqPhaseStep_settle s sum fe te phase]
  constructor
  · intro settled late
    exact ⟨_, if_pos ⟨settled, late⟩, beginSweep_begins s⟩
  · rintro (unsettled | early)
    · exact if_neg fun h => by simp [unsettled] at h
    · exact if_neg fun h => by omega

theorem permille_nonneg (n : Nat) : 0 ≤ permille n := roundDiv_nonneg (by omega) _

/-- A multiple of the divisor is divided without rounding. -/
theorem roundDiv_mul {r : Int} {n : Nat} (nonneg : 0 ≤ r) (pos : 0 < n) : roundDiv (r * n) n = r := by
  obtain ⟨m, rfl⟩ := Int.eq_ofNat_of_zero_le nonneg
  have whole : 2 * ((m : Int) * n) = ((2 * n * m : Nat) : Int) := by
    rw [Int.natCast_mul, Int.natCast_mul, Int.mul_comm m n, Int.mul_assoc]
    rfl
  unfold roundDiv
  rw [if_pos (Int.mul_nonneg nonneg (Int.natCast_nonneg n)), whole, Int.toNat_natCast, Nat.mul_add_div (by omega),
    Nat.div_eq_of_lt (by omega), Nat.add_zero]

/-- A sweep begins at one end of FS_RANGE, and after FS_TIME it is at the other. -/
theorem sweepOut_ends (s : State) (b : Bool) : (s.servo.seq.strobes = 0 → sweepOut s b = signed b (-permille (sequenceNow s).fsRange)) ∧
    (strobesIn s (1000 * (sequenceNow s).fsTime) ≤ s.servo.seq.strobes → 0 < s.servo.seq.strobes →
      sweepOut s b = signed b (permille (sequenceNow s).fsRange)) := by
  have nonneg := permille_nonneg (sequenceNow s).fsRange
  unfold sweepOut
  dsimp only
  generalize permille (sequenceNow s).fsRange = r at nonneg ⊢
  generalize strobesIn s (1000 * (sequenceNow s).fsTime) = n
  constructor
  · intro first
    have still : roundDiv 0 (max 1 n) = 0 := by
      have none_ := roundDiv_mul (r := 0) (n := max 1 n) (Int.le_refl 0) (by omega)
      rwa [Int.zero_mul] at none_
    rw [first, Nat.min_zero, Int.natCast_zero, Int.mul_zero, still, Int.zero_sub]
  · intro late begun
    rw [show min (max 1 n) s.servo.seq.strobes = max 1 n by omega, roundDiv_mul (by omega) (by omega)]
    congr 1
    omega

/-- FOCUS closes on a layer with the stored bank of the loaded class (R166). -/
theorem closeFocus_closes (s : State) (layer : Nat) (p : SeqPhase) :
    (closeFocus s layer p).servo.seq.phase = p ∧ ((closeFocus s layer p).servo.loops.get 0).closed = true ∧
    (closeFocus s layer p).servo.layer = layer ∧
    ((closeFocus s layer p).servo.loops.get 0).active = storedBank s 0 (classNow s).val layer := by
  refine ⟨rfl, ?_, rfl, ?_⟩
  · simp [closeFocus, setPhase]
  · simp only [closeFocus, setPhase, setLoop_active, loadBanks, vector_ofFn_get]
    split
    · assumption
    · rfl

/-- On the down-sweep FOCUS closes where FE crosses zero on the target layer's S-curve. -/
theorem sweepStep_closes {s : State} {sum fe : Int} (above : ((sequenceNow s).fsSumTh : Int) < sum)
    (layer : s.servo.seq.curves = s.servo.seq.layer) (peak : ((sequenceNow s).fePeakTh : Int) < s.servo.seq.fePeak)
    (zero : crossed s.servo.seq.fe fe = true) : sweepStep s false sum fe =
    closeFocus { s with servo := { s.servo with seq := curveGrows s.servo.seq sum fe } } s.servo.seq.layer .focusHold := by
  have grows : curveStep (sequenceNow s) s.servo.seq sum fe = curveGrows s.servo.seq sum fe := if_pos above
  have kept : (curveGrows s.servo.seq sum fe).curves = s.servo.seq.curves ∧ (curveGrows s.servo.seq sum fe).layer = s.servo.seq.layer :=
    ⟨rfl, rfl⟩
  simp [sweepStep, grows, above, kept, layer, peak, zero]

theorem curveEnds_counts (p : SequenceProf) (q : Seq) :
    (curveEnds p q).curves = (if (p.fsSumTh : Int) < q.sumPeak ∧ (p.fePeakTh : Int) < q.fePeak then q.curves + 1 else q.curves) ∧
    (curveEnds p q).sumPeak = 0 ∧ (curveEnds p q).fePeak = 0 := by
  refine ⟨?_, rfl, rfl⟩
  by_cases good : (p.fsSumTh : Int) < q.sumPeak ∧ (p.fePeakTh : Int) < q.fePeak
  · simp [curveEnds, curveGood, b2n, good]
  · rw [if_neg good]
    simp only [curveEnds, curveGood, b2n, ← Bool.decide_and, good, decide_false, Bool.false_eq_true, if_false, Nat.add_zero]

/-- FOK: TILT closes with FOCUS, and the focus-on has succeeded, which a track-on follows after a layer jump. -/
theorem declareFok_declares (s : State) (again : Bool) :
    let t := if again then beginTrackOn (declareFok s) 0 else declareFok s
    t.servo.fok = true ∧ (t.servo.loops.get 2).closed = true ∧ t.servo.layerJump = none ∧
      t.servo.seq.phase = (if again then .measure else .idle) := by
  cases again <;> refine ⟨rfl, ?_, rfl, rfl⟩ <;> simp [beginTrackOn, declareFok, setPhase]

theorem seqPhaseStep_focusHeld {s : State} (sum fe te : Int) (phase : s.servo.seq.phase = .focusHold) :
    (sum ≤ (sequenceNow s).fokTh → seqPhaseStep s sum fe te = attemptOver s) ∧
    ((sequenceNow s).fokTh < sum → s.servo.seq.strobes < strobesIn s 1000 → seqPhaseStep s sum fe te = s) ∧
    ((sequenceNow s).fokTh < sum → strobesIn s 1000 ≤ s.servo.seq.strobes → ∃ t : State, seqPhaseStep s sum fe te = t ∧
      t.servo.fok = true ∧ (t.servo.loops.get 2).closed = true ∧ t.servo.layerJump = none ∧
      t.servo.seq.phase = (if s.servo.seq.afterJump then .measure else .idle)) := by
  rw [seqPhaseStep_focusHold s sum fe te phase]
  refine ⟨fun low => if_pos low, fun high early => ?_, fun high late => ⟨_, ?_, declareFok_declares s s.servo.seq.afterJump⟩⟩
  · rw [if_neg (by omega), if_pos early]
  · rw [if_neg (by omega), if_neg (by omega)]

/-! ### An attempt that has failed (R169) -/

/-- The state of the search with one more pair made. -/
def attemptMade (s : State) : State := { s with servo := { s.servo with seq := { s.servo.seq with
  pairs := s.servo.seq.pairs + 1, most := max s.servo.seq.most (min 1 s.servo.seq.curves) } } }

theorem attemptOver_eq (s : State) : attemptOver s =
    if s.servo.seq.pairs + 1 < (sequenceNow s).fsTries then beginSweep (attemptMade s)
    else if max s.servo.seq.most (min 1 s.servo.seq.curves) = 0 ∧ s.servo.seq.afterJump = false then noDiscFound (attemptMade s)
    else focusFails (attemptMade s) := rfl

theorem attemptOver_again {s : State} (more : s.servo.seq.pairs + 1 < (sequenceNow s).fsTries) :
    (attemptOver s).servo.seq.phase = .up ∧ (attemptOver s).servo.seq.pairs = s.servo.seq.pairs + 1 ∧
    (attemptOver s).servo.seq.curves = 0 := by
  rw [attemptOver_eq, if_pos more]
  exact ⟨rfl, rfl, rfl⟩

/-- The laser drops with every loop open, without HALT, and no disc is known of: what `noDiscFound` does before the LOAD ends. -/
def searchEnded (s : State) : State :=
  { openLoops (dropLaser s) with loader := { (openLoops (dropLaser s)).loader with unident := false } }

theorem openLoops_beam (s : State) : (openLoops s).servo.ldEn = s.servo.ldEn ∧ (openLoops s).servo.wgate = s.servo.wgate := by
  unfold openLoops
  rw [beginRamp_eq]
  exact ⟨rfl, rfl⟩

theorem searchEnded_stands (s : State) : (searchEnded s).job = s.job ∧ (searchEnded s).folds = s.folds ∧ (searchEnded s).sys = s.sys ∧
    (searchEnded s).halt = s.halt := by
  unfold searchEnded
  rw [openLoops_eq, dropLaser_eq]
  exact ⟨rfl, rfl, rfl, rfl⟩

theorem searchEnded_dark (s : State) : (searchEnded s).servo.ldEn = false ∧ (searchEnded s).servo.wgate = false ∧
    (searchEnded s).servo.fok = false ∧ (searchEnded s).loader.unident = false ∧
    ∀ i : Fin 6, ((searchEnded s).servo.loops.get i).closed = false := by
  obtain ⟨ldEn, wgate⟩ := openLoops_beam (dropLaser s)
  obtain ⟨off, gate⟩ := dropLaser_off s
  exact ⟨ldEn.trans off, wgate.trans gate, rfl, rfl, fun i => ((openLoops_open (dropLaser s)).1 i).1⟩

theorem loadingJob_congr {s u : State} (job : u.job = s.job) (folds : u.folds = s.folds) : loadingJob u = loadingJob s := by
  unfold loadingJob jobDesc State.desc? State.fold
  rw [job, folds]

/-- A LOAD on the mechanism that ends, in a state with its job. -/
theorem loadingJob_ends {s u : State} {j : Job} (st : Status) (n : Nat) (loading : loadingJob s = some j) (same : u.job = s.job) :
    JobEndsAs u (endJob u st n) st n := by
  unfold loadingJob at loading
  split at loading
  · next on => exact jobDesc_ends st n on same
  · cases loading

theorem noDiscFound_eq (s : State) : noDiscFound s = match loadingJob (searchEnded s) with
    | some _ => endJob (searchEnded s) .noDisc 0
    | none => if (searchEnded s).sys.mode == .load then { searchEnded s with sys := { (searchEnded s).sys with mode := .idle } }
      else searchEnded s := rfl

/-- The last attempt without an S-curve: the laser drops without HALT, and a LOAD ends NO_DISC (R169). -/
theorem attemptOver_noDisc {s : State} (last : (sequenceNow s).fsTries ≤ s.servo.seq.pairs + 1) (most : s.servo.seq.most = 0)
    (curves : s.servo.seq.curves = 0) (first : s.servo.seq.afterJump = false) : ∃ u : State, u.job = s.job ∧ u.folds = s.folds ∧
      u.sys = s.sys ∧ u.halt = s.halt ∧ u.servo.ldEn = false ∧ u.servo.wgate = false ∧ u.servo.fok = false ∧ u.loader.unident = false ∧
      (∀ i : Fin 6, (u.servo.loops.get i).closed = false) ∧
      (∀ j : Job, loadingJob s = some j → JobEndsAs u (attemptOver s) .noDisc 0) ∧
      (loadingJob s = none → attemptOver s = if s.sys.mode = .load then { u with sys := { u.sys with mode := .idle } } else u) := by
  have tried : attemptOver s = noDiscFound (attemptMade s) := by
    rw [attemptOver_eq, if_neg (by omega), if_pos ⟨by omega, first⟩]
  obtain ⟨job, folds, sys, halt⟩ := searchEnded_stands (attemptMade s)
  obtain ⟨ldEn, wgate, fok, unident, loops⟩ := searchEnded_dark (attemptMade s)
  have same : loadingJob (searchEnded (attemptMade s)) = loadingJob s := loadingJob_congr job folds
  rw [tried, noDiscFound_eq, same]
  refine ⟨_, job, folds, sys, halt, ldEn, wgate, fok, unident, loops, fun j loading => ?_, fun none_ => ?_⟩
  · rw [loading]
    exact loadingJob_ends .noDisc 0 loading job
  · rw [none_, sys]
    simp only [beq_iff_eq]
    rfl

/-- The last attempt with an S-curve, or after a layer jump: FOCUS_FAIL or LAYER_FAIL (R169, Table 6.7). -/
theorem attemptOver_fails {s : State} (last : (sequenceNow s).fsTries ≤ s.servo.seq.pairs + 1)
    (some_ : 0 < s.servo.seq.most ∨ 0 < s.servo.seq.curves ∨ s.servo.seq.afterJump = true) :
    (attemptOver s).halt = { s.halt with pend := addFault s.halt.pend (.servo (if s.servo.seq.afterJump then 7 else 4) 0) } ∧
    (attemptOver s).servo.seq.phase = .idle ∧ (attemptOver s).job = s.job := by
  rw [attemptOver_eq, if_neg (by omega), if_neg]
  · exact ⟨rfl, rfl, rfl⟩
  · rintro ⟨none_, first⟩
    rcases some_ with most | curves | jumped
    · omega
    · omega
    · exact Bool.false_ne_true (first.symm.trans jumped)

/-! ### Track-on (R153, R170, Table 6.5) -/

/-- A track-on opens TRACK and SLED and no other loop. -/
theorem beginTrackOn_loops (s : State) (tries : Nat) :
    (beginTrackOn s tries).servo.loops.get 1 = { s.servo.loops.get 1 with closed := false, held := false, next := none } ∧
    (beginTrackOn s tries).servo.loops.get 5 = { s.servo.loops.get 5 with closed := false, held := false, next := none } ∧
    ∀ i : Fin 6, i ≠ 1 → i ≠ 5 → (beginTrackOn s tries).servo.loops.get i = s.servo.loops.get i :=
  setLoop_two s (by decide) _ _ _ _

theorem exec_trackOn_none {s : State} (bar : s.servo.fok = false ∨ s.servo.ldEn = false ∨ s.halt.inHalt = true ∨
    s.servo.seq.phase ≠ .idle ∨ atSpeed s = false) : exec .trackOn s = .next s := by
  refine congrArg Host.Outcome.next (if_neg ?_)
  simp only [Bool.and_eq_true, beq_iff_eq, Bool.not_eq_true']
  rintro ⟨⟨⟨⟨fok, ldEn⟩, halt⟩, idle⟩, speed⟩
  simp [fok, ldEn, halt, idle, speed] at bar

theorem trackOn_begins {s : State} (fok : s.servo.fok = true) (ldEn : s.servo.ldEn = true) (halt : s.halt.inHalt = false)
    (idle : s.servo.seq.phase = .idle) (speed : atSpeed s = true) :
    ∃ t : State, exec .trackOn s = .next t ∧ t = { s with servo := t.servo } ∧
      t.servo.seq = { s.servo.seq with phase := .measure, strobes := 0, cross := none, run := 0 } ∧ t.servo.trackOnAt = some s.us ∧
      t.servo.trackTries = 0 ∧ t.servo.locked = false ∧ t.servo.fok = true ∧ t.servo.ldEn = true ∧
      t.servo.loops.get 1 = { s.servo.loops.get 1 with closed := false, held := false, next := none } ∧
      t.servo.loops.get 5 = { s.servo.loops.get 5 with closed := false, held := false, next := none } ∧
      ∀ i : Fin 6, i ≠ 1 → i ≠ 5 → t.servo.loops.get i = s.servo.loops.get i :=
  ⟨beginTrackOn s 0, congrArg Host.Outcome.next (if_pos (by simp [fok, ldEn, halt, idle, speed])), rfl, rfl, rfl, rfl, rfl, fok, ldEn,
    beginTrackOn_loops s 0⟩

section
variable (s : State) (sum fe te : Int)

theorem seqPhaseStep_measure (phase : s.servo.seq.phase = .measure) : seqPhaseStep s sum fe te = measureStep s te := by
  simp only [seqPhaseStep, phase]

theorem seqPhaseStep_ready (phase : s.servo.seq.phase = .ready) : seqPhaseStep s sum fe te =
    if crossed s.servo.seq.te te && onTrack s te s.servo.seq.brakeUp then
      setPhase { s with servo := { s.servo with seq := { s.servo.seq with brakeUp := !s.servo.seq.brakeUp } } } .brake
    else s := by
  simp only [seqPhaseStep, phase]

theorem seqPhaseStep_brake (phase : s.servo.seq.phase = .brake) : seqPhaseStep s sum fe te =
    if strobesIn s (sequenceNow s).brkT ≤ s.servo.seq.strobes then endBrake s else s := by
  simp only [seqPhaseStep, phase]

theorem seqPhaseStep_closing {n : Nat} (phase : s.servo.seq.phase = .closing)
    (run : n = if te.natAbs < 4096 * (sequenceNow s).tonLock then s.servo.seq.run + 1 else 0) : seqPhaseStep s sum fe te =
    if strobesIn s 2000 ≤ n then lockTrack { s with servo := { s.servo with seq := { s.servo.seq with run := n } } }
    else { s with servo := { s.servo with seq := { s.servo.seq with run := n } } } := by
  subst run
  simp only [seqPhaseStep, phase, decide_eq_true_eq]

theorem seqPhaseStep_lockHold (phase : s.servo.seq.phase = .lockHold) : seqPhaseStep s sum fe te =
    if strobesIn s 1000 ≤ s.servo.seq.strobes then closeSled s else s := by
  simp only [seqPhaseStep, phase, decide_eq_true_eq, Nat.mul_one]

end

/-- The crossing that ends an interval longer than TON_SLOW makes ready for the brake. -/
theorem measureStep_slow {s : State} {te : Int} {n : Nat} (zero : crossed s.servo.seq.te te = true) (since : s.servo.seq.cross = some n)
    (slow : strobesIn s (sequenceNow s).tonSlow < n + 1) : (measureStep s te).servo.seq.phase = .ready := by
  simp [measureStep, crossStep, zero, since, slow, setPhase]

/-- Until an interval has ended the measurement goes on. -/
theorem measureStep_goes_on {s : State} {te : Int} (open_ : crossed s.servo.seq.te te = false ∨ s.servo.seq.cross = none) :
    (measureStep s te).servo.seq.phase = s.servo.seq.phase := by
  have gap : (crossStep s.servo.seq te).1 = none := by
    rcases open_ with open_ | open_
    · simp [crossStep, open_]
    · cases zero : crossed s.servo.seq.te te <;> simp [crossStep, open_, zero]
  simp only [measureStep, gap]

/-- TRACK closes with its stored bank, and k is set (R153). -/
theorem endBrake_closes (s : State) : (endBrake s).servo.seq.phase = .closing ∧ ((endBrake s).servo.loops.get 1).closed = true ∧
    ((endBrake s).servo.loops.get 1).active = storedBank s 1 (classNow s).val s.servo.layer ∧
    (endBrake s).servo.kdpp = (if (signalNow s).kAuto then kFromSums s.servo.sums else s.servo.kdpp) := by
  refine ⟨rfl, ?_, ?_, rfl⟩
  · simp [endBrake, setPhase]
  · simp only [endBrake, setPhase, setLoop_active]
    refine (congrArg Loop.active (get_set_same _ (1 : Fin 6) _)).trans ?_
    split
    · assumption
    · rfl

theorem closeSled_closes (s : State) : (closeSled s).servo.seq.phase = .idle ∧ ((closeSled s).servo.loops.get 5).closed = true ∧
    (s.sled.move = .rest → (closeSled s).sled.move = .follow) := by
  have loop : ((setPhase (setLoop s 5 true false) .idle).servo.loops.get 5).closed = true := by simp [setPhase]
  unfold closeSled
  dsimp only
  split
  · exact ⟨rfl, loop, fun _ => rfl⟩
  · next moves => exact ⟨rfl, loop, fun still => absurd still moves⟩

theorem satQ_within {x : Int} (lo : -8388608 ≤ x) : satQ x = min x 8388607 := by
  unfold satQ clampI
  rw [if_neg (by omega)]
  split <;> omega

theorem clampI_bounds {lo hi : Int} (h : lo ≤ hi) (x : Int) : lo ≤ clampI lo hi x ∧ clampI lo hi x ≤ hi := by
  unfold clampI
  split
  · exact ⟨Int.le_refl lo, h⟩
  · split <;> omega

/-- k lies within 0.5 to 4.0, whose last code is one step below it (R153). -/
theorem kFromSums_bounds (l : List (Int × Int)) : 1048576 ≤ kFromSums l ∧ kFromSums l ≤ 8388607 := by
  unfold kFromSums
  dsimp only
  generalize signedDiv _ _ = x
  obtain ⟨lo, hi⟩ := clampI_bounds (lo := 1048576) (hi := 8388608) (by decide) x
  rw [satQ_within (by omega)]
  omega

section
variable {s : State} {n : Nat} (began : s.servo.trackOnAt = some n)
include began

theorem exec_trackOnTimeout_early (early : s.us < n + 100000 ∨ trackingOn s = false) : exec .trackOnTimeout s = .next s := by
  show execTrackOnTimeout s = _
  rcases early with early | early <;> simp [execTrackOnTimeout, began, early]

theorem exec_trackOnTimeout_again (late : n + 100000 ≤ s.us) (on : trackingOn s = true) (tries : s.servo.trackTries < 2) :
    exec .trackOnTimeout s = .next (beginTrackOn s (s.servo.trackTries + 1)) := by
  show execTrackOnTimeout s = _
  simp [execTrackOnTimeout, began, on, Nat.not_lt.mpr late, Nat.not_le.mpr tries]

theorem exec_trackOnTimeout_fails (late : n + 100000 ≤ s.us) (on : trackingOn s = true) (tries : 2 ≤ s.servo.trackTries) :
    exec .trackOnTimeout s = .next { s with
      servo := { s.servo with trackOnAt := none, seq := { s.servo.seq with phase := .idle, strobes := 0 } }
      halt := { s.halt with pend := addFault s.halt.pend (.servo 5 0) } } := by
  have fails : execTrackOnTimeout s = .next (setPhase (servoFault { s with servo := { s.servo with trackOnAt := none } } 5 0) .idle) := by
    simp [execTrackOnTimeout, began, on, Nat.not_lt.mpr late, tries]
  exact fails

end

theorem exec_trackOnTimeout_none {s : State} (none_ : s.servo.trackOnAt = none) : exec .trackOnTimeout s = .next s := by
  show execTrackOnTimeout s = _
  simp [execTrackOnTimeout, none_]

/-! ### Track jumps (Table 6.6) -/

theorem startJump_eq (s : State) (n : Nat) (b : Bool) : startJump s n b = { s with
    servo := { s.servo with
      jump := some { tracks := n, outward := b, at_ := s.us }
      locked := false
      trackOnAt := none
      ramp := none
      seq := { s.servo.seq with phase := .jumpKick, strobes := 0, crossings := 0 }
      loops := (startJump s n b).servo.loops }
    chan := { s.chan with accepted := false } } := rfl

/-- A jump opens TRACK with its integrators held, holds SLED, and changes no other loop. -/
theorem startJump_loops (s : State) (n : Nat) (b : Bool) :
    (startJump s n b).servo.loops.get 1 = { s.servo.loops.get 1 with closed := false, held := true, next := none } ∧
    (startJump s n b).servo.loops.get 5 = { s.servo.loops.get 5 with closed := true, held := true, next := none } ∧
    ∀ i : Fin 6, i ≠ 1 → i ≠ 5 → (startJump s n b).servo.loops.get i = s.servo.loops.get i :=
  setLoop_two s (by decide) _ _ _ _

theorem exec_trackJump {s : State} {n : Nat} (b : Bool) (locked : s.servo.locked = true) (least : 1 ≤ n) (most : n ≤ 255) :
    exec (.trackJump n b) s = .next (startJump s n b) :=
  congrArg Host.Outcome.next (if_pos (by simp [locked, least, most]))

theorem exec_trackJump_none {s : State} {n : Nat} (b : Bool) (bar : s.servo.locked = false ∨ n = 0 ∨ 255 < n) :
    exec (.trackJump n b) s = .next s := by
  refine congrArg Host.Outcome.next (if_neg ?_)
  simp only [Bool.and_eq_true, decide_eq_true_eq]
  rintro ⟨⟨locked, least⟩, most⟩
  rcases bar with unlocked | outside
  · simp [locked] at unlocked
  · omega

section
variable {s : State} {j : Jump} (jump : s.servo.jump = some j)
include jump

theorem seqDrive_jumpKick (phase : s.servo.seq.phase = .jumpKick) :
    seqDrive s 1 = some (signed j.outward (permille (sequenceNow s).kickAmp)) := by
  simp [seqDrive, phase, jump]

theorem seqDrive_jumpBrake (phase : s.servo.seq.phase = .jumpBrake) :
    seqDrive s 1 = some (signed (!j.outward) (permille (sequenceNow s).kickAmp)) := by
  simp [seqDrive, phase, jump]

/-- One valid sample of a jump: crossing 2N on the track closes it, crossing N reverses the drive (Table 6.6). -/
theorem seqPhaseStep_jump (sum fe te : Int) {n : Nat} (phase : s.servo.seq.phase = .jumpKick ∨ s.servo.seq.phase = .jumpBrake)
    (count : n = s.servo.seq.crossings + (if crossed s.servo.seq.te te then 1 else 0)) : seqPhaseStep s sum fe te =
    let t : State := { s with servo := { s.servo with seq := { s.servo.seq with crossings := n } } }
    if 2 * j.tracks ≤ n ∧ crossed s.servo.seq.te te = true ∧ onTrack s te j.outward = true then closeJump t
    else if j.tracks ≤ n ∧ s.servo.seq.phase = .jumpKick then setPhase t .jumpBrake
    else t := by
  subst count
  rcases phase with phase | phase <;> simp [seqPhaseStep, phase, jump, b2n]

end

/-- TRACK closes at the end of a jump and is to lock as after a track-on. -/
theorem closeJump_closes (s : State) : (closeJump s).servo.jump = none ∧ ((closeJump s).servo.loops.get 1).closed = true ∧
    (closeJump s).servo.seq.phase = .closing ∧ (closeJump s).servo.trackOnAt = some s.us := by
  refine ⟨rfl, ?_, rfl, rfl⟩
  simp [closeJump, setPhase]

theorem jump_counts {s : State} {j : Jump} {n : Nat} (jump : s.servo.jump = some j) (sum fe te : Int)
    (phase : s.servo.seq.phase = .jumpKick ∨ s.servo.seq.phase = .jumpBrake)
    (count : n = s.servo.seq.crossings + (if crossed s.servo.seq.te te then 1 else 0)) :
    (2 * j.tracks ≤ n → crossed s.servo.seq.te te = true → onTrack s te j.outward = true → ∃ t : State, seqPhaseStep s sum fe te = t ∧
      t.servo.jump = none ∧ (t.servo.loops.get 1).closed = true ∧ t.servo.seq.phase = .closing ∧ t.servo.trackOnAt = some s.us) ∧
    (n < j.tracks → (seqPhaseStep s sum fe te).servo.seq = { s.servo.seq with crossings := n }) ∧
    (j.tracks ≤ n → n < 2 * j.tracks → (seqPhaseStep s sum fe te).servo.seq.phase = .jumpBrake) := by
  rw [seqPhaseStep_jump jump sum fe te phase count]
  dsimp only
  refine ⟨fun all zero on => ⟨_, if_pos ⟨all, zero, on⟩, closeJump_closes _⟩, fun few => ?_, fun half short => ?_⟩
  · rw [if_neg (by omega), if_neg (by omega)]
  · rw [if_neg (by omega)]
    rcases phase with kick | brake
    · rw [if_pos ⟨half, kick⟩]
      rfl
    · rw [if_neg (by simp [brake])]
      exact brake

section
variable {s : State} {j : Jump} (jump : s.servo.jump = some j)
include jump

theorem exec_jumpTimeout_early (early : s.us < j.at_ + 2000 + 50 * j.tracks) : exec .jumpTimeout s = .next s := by
  show execJumpTimeout s = _
  simp [execJumpTimeout, jump, early]

theorem exec_jumpTimeout_again (late : j.at_ + 2000 + 50 * j.tracks ≤ s.us) (first : s.servo.jumpFails = 0) :
    exec .jumpTimeout s = .next (beginTrackOn { s with servo := { s.servo with jumpFails := 1 } } 0) := by
  show execJumpTimeout s = _
  simp [execJumpTimeout, jump, Nat.not_lt.mpr late, first]

theorem exec_jumpTimeout_fails (late : j.at_ + 2000 + 50 * j.tracks ≤ s.us) (second : 1 ≤ s.servo.jumpFails) :
    exec .jumpTimeout s = .next { s with
      servo := { s.servo with jump := none, jumpFails := 0, seq := { s.servo.seq with phase := .idle, strobes := 0 } }
      halt := { s.halt with pend := addFault s.halt.pend (.servo 6 0) } } := by
  have fails : execJumpTimeout s =
      .next (setPhase (servoFault { s with servo := { s.servo with jump := none, jumpFails := 0 } } 6 0) .idle) := by
    simp only [execJumpTimeout, jump, Nat.not_lt.mpr late, second, if_false, if_true]
  exact fails

end

theorem exec_jumpTimeout_none {s : State} (none_ : s.servo.jump = none) : exec .jumpTimeout s = .next s := by
  show execJumpTimeout s = _
  simp [execJumpTimeout, none_]

/-! ### Layer jumps (R177, Table 6.7) -/

/-- A layer jump to another layer of the disc opens FOCUS and TRACK with their integrators held, and holds SLED. -/
theorem layerJump_begins {s : State} {d : DiscInfo} {l : Nat} (disc : s.disc = some d) (fok : s.servo.fok = true)
    (ldEn : s.servo.ldEn = true) (there : l < d.layers) (other : l ≠ s.servo.layer) :
    ∃ t : State, exec (.layerJump l) s = .next t ∧
      t = { s with
        servo := { s.servo with
          layerJump := some (l, s.us)
          fok := false
          locked := false
          jump := none
          trackOnAt := none
          ramp := none
          seq := { phase := .layerKick, layer := l, fe := s.servo.seq.fe, te := s.servo.seq.te }
          loops := t.servo.loops }
        chan := { s.chan with accepted := false } } ∧
      t.servo.loops.get 0 = { s.servo.loops.get 0 with closed := false, held := true, next := none } ∧
      t.servo.loops.get 1 = { s.servo.loops.get 1 with closed := false, held := true, next := none } ∧
      t.servo.loops.get 5 = { s.servo.loops.get 5 with closed := true, held := true, next := none } := by
  refine ⟨_, congrArg Host.Outcome.next (if_pos (by simp [disc, fok, ldEn, there, other])), rfl, ?_⟩
  obtain ⟨focus, track, -⟩ := setLoop_two s (a := 0) (b := 1) (by decide) false true false true
  refine ⟨(setLoop_other _ 5 _ _ (by decide)).trans focus, (setLoop_other _ 5 _ _ (by decide)).trans track, ?_⟩
  refine (setLoop_same _ 5 true true).trans ?_
  rw [setLoop_other _ 1 _ _ (by decide), setLoop_other _ 0 _ _ (by decide)]

theorem exec_layerJump_none {s : State} {l : Nat} (bar : s.disc = none ∨ s.servo.fok = false ∨ s.servo.ldEn = false ∨
    (∃ d, s.disc = some d ∧ d.layers ≤ l) ∨ l = s.servo.layer) : exec (.layerJump l) s = .next s := by
  refine congrArg Host.Outcome.next (if_neg ?_)
  simp only [Bool.and_eq_true, decide_eq_true_eq, bne_iff_ne]
  rintro ⟨⟨⟨fok, ldEn⟩, there⟩, other⟩
  rcases bar with none_ | dark | dark | ⟨d, disc, beyond⟩ | same
  · simp [none_] at there
  · simp [fok] at dark
  · simp [ldEn] at dark
  · simp only [disc] at there
    omega
  · exact other same

section
variable {s : State} (sum fe te : Int)

theorem seqPhaseStep_layer (phase : s.servo.seq.phase = .layerKick ∨ s.servo.seq.phase = .layerCoast) :
    seqPhaseStep s sum fe te = layerStep s fe := by
  rcases phase with phase | phase <;> simp only [seqPhaseStep, phase]

theorem seqPhaseStep_layerBrake (phase : s.servo.seq.phase = .layerBrake) : seqPhaseStep s sum fe te =
    if crossed s.servo.seq.fe fe then closeFocus s s.servo.seq.layer .layerHold else s := by
  simp only [seqPhaseStep, phase]

/-- At the target layer the brake begins, with its gain range and a synchronising reset (R177). -/
theorem layerStep_brakes (reached : layerReached s (excursion (sequenceNow s) s.servo.seq fe) = true) :
    (layerStep s fe).servo.seq.phase = .layerBrake ∧ (layerStep s fe).servo.resync = true ∧
    (layerStep s fe).servo.gainLayer = s.servo.seq.layer := by
  unfold layerStep
  rw [if_pos reached]
  exact ⟨rfl, rfl, rfl⟩

theorem layerStep_coasts (short : layerReached s (excursion (sequenceNow s) s.servo.seq fe) = false)
    (kick : s.servo.seq.phase = .layerKick) (late : strobesIn s (sequenceNow s).ljKickT ≤ s.servo.seq.strobes) :
    (layerStep s fe).servo.seq.phase = .layerCoast := by
  unfold layerStep
  rw [if_neg (by simp [short]), if_pos ⟨kick, late⟩]
  rfl

end

theorem seqDrive_layer (s : State) :
    (s.servo.seq.phase = .layerKick → seqDrive s 0 = some (signed (jumpsUp s) (permille (sequenceNow s).ljKick))) ∧
    (s.servo.seq.phase = .layerCoast → seqDrive s 0 = some 0) ∧
    (s.servo.seq.phase = .layerBrake → seqDrive s 0 = some (signed (!jumpsUp s) (permille (sequenceNow s).ljKick))) := by
  refine ⟨fun phase => ?_, fun phase => ?_, fun phase => ?_⟩ <;> simp [seqDrive, phase]

section
variable {s : State} {l n : Nat} (jump : s.servo.layerJump = some (l, n))
include jump

theorem exec_layerJumpTimeout_early (early : s.us < n + 5000 ∨ layerOpen s = false) : exec .layerJumpTimeout s = .next s := by
  show execLayerJumpTimeout s = _
  rcases early with early | early <;> simp [execLayerJumpTimeout, jump, early]

/-- After 5 ms without FOCUS closed a focus-on for the layer follows. -/
theorem exec_layerJumpTimeout_late (late : n + 5000 ≤ s.us) (open_ : layerOpen s = true) :
    exec .layerJumpTimeout s = .next (beginFocus s l true) := by
  show execLayerJumpTimeout s = _
  simp [execLayerJumpTimeout, jump, open_, Nat.not_lt.mpr late]

end

theorem exec_layerJumpTimeout_none {s : State} (none_ : s.servo.layerJump = none) : exec .layerJumpTimeout s = .next s := by
  show execLayerJumpTimeout s = _
  simp [execLayerJumpTimeout, none_]

/-- Settles O47, clause by clause: one equation per row and phase, and what each beginning and end of a sequence does to the loops. -/
theorem sequencesCloseAndMoveTheLoops : Obligations.SequencesCloseAndMoveTheLoops := by
  refine ⟨fun s l => exec_focusOn_none, fun s l => focusOn_begins, fun s c => servoSampleArrival_steps, ?_,
    fun s sum fe te => seqPhaseStep_settled sum fe te, sweepOut_ends, ?_, curveEnds_counts, fun s sum fe te => seqPhaseStep_focusHeld sum fe te,
    fun s => attemptOver_again, fun s last => ⟨attemptOver_noDisc last, attemptOver_fails last⟩, fun s => exec_trackOn_none,
    fun s => trackOn_begins, ?_, ?_, ?_, ?_, ?_, kFromSums_bounds, ?_, fun s => exec_trackOnTimeout_none, ?_,
    fun s n b => exec_trackJump_none b, ?_, ?_, fun s => exec_jumpTimeout_none, ?_, ?_, ?_, seqDrive_layer, ?_, ?_,
    fun s => exec_layerJumpTimeout_none⟩
  · rintro s _ rfl
    exact seqStep_eq s
  · rintro s sum fe te _ _ phase rfl rfl above layer peak zero
    obtain ⟨hold, closed, there, bank⟩ := closeFocus_closes
      { s with servo := { s.servo with seq := curveGrows s.servo.seq sum fe } } s.servo.seq.layer .focusHold
    exact ⟨_, (seqPhaseStep_down s sum fe te phase).trans (sweepStep_closes above layer peak zero), hold, closed, there, bank⟩
  · intro s sum fe te phase
    rw [seqPhaseStep_measure s sum fe te phase]
    exact ⟨fun n => measureStep_slow, fun open_ => (measureStep_goes_on open_).trans phase⟩
  · intro s sum fe te phase zero on
    rw [seqPhaseStep_ready s sum fe te phase, zero, on]
    rfl
  · intro s sum fe te phase
    rw [seqPhaseStep_brake s sum fe te phase]
    exact ⟨fun early => if_neg (by omega), fun late => ⟨_, if_pos late, endBrake_closes s⟩⟩
  · intro s sum fe te n phase run
    rw [seqPhaseStep_closing s sum fe te phase run]
    exact ⟨fun few => if_neg (by omega), fun long => ⟨_, if_pos long, rfl, rfl, rfl, rfl⟩⟩
  · intro s sum fe te phase late
    rw [seqPhaseStep_lockHold s sum fe te phase, if_pos late]
    exact ⟨_, rfl, closeSled_closes s⟩
  · refine fun s n began => ⟨exec_trackOnTimeout_early began, fun late on tries => ?_, exec_trackOnTimeout_fails began⟩
    exact ⟨_, exec_trackOnTimeout_again began late on tries, rfl, rfl, rfl, rfl, congrArg Loop.closed (beginTrackOn_loops s _).1⟩
  · exact fun s n b locked least most => ⟨_, exec_trackJump b locked least most, startJump_eq s n b, startJump_loops s n b⟩
  · exact fun s j jump => ⟨seqDrive_jumpKick jump, seqDrive_jumpBrake jump, fun sum fe te n => jump_counts jump sum fe te⟩
  · refine fun s j jump => ⟨exec_jumpTimeout_early jump, fun late first => ?_, exec_jumpTimeout_fails jump⟩
    exact ⟨_, exec_jumpTimeout_again jump late first, rfl, rfl, rfl, rfl, rfl⟩
  · refine fun s d l disc fok ldEn => ⟨layerJump_begins disc fok ldEn, fun bar => exec_layerJump_none ?_⟩
    exact bar.elim (fun beyond => .inr (.inr (.inr (.inl ⟨d, disc, beyond⟩)))) (fun same => .inr (.inr (.inr (.inr same))))
  · exact fun s l bar => exec_layerJump_none (bar.imp id (Or.imp id .inl))
  · rintro s sum fe te _ phase rfl
    rw [seqPhaseStep_layer sum fe te phase]
    exact ⟨fun reached => ⟨_, rfl, layerStep_brakes fe reached⟩, layerStep_coasts fe⟩
  · intro s sum fe te phase
    rw [seqPhaseStep_layerBrake sum fe te phase]
    obtain ⟨hold, closed, there, bank⟩ := closeFocus_closes s s.servo.seq.layer .layerHold
    exact ⟨fun same => if_neg (by simp [same]), fun zero => ⟨_, if_pos zero, closed, there, bank, hold⟩⟩
  · refine fun s l n jump => ⟨exec_layerJumpTimeout_early jump, fun late open_ => ?_⟩
    refine ⟨_, exec_layerJumpTimeout_late jump late open_, rfl, rfl, rfl, ?_, fun allowed => ?_⟩
    · exact (beginFocus_loop s l true 0).2.2.trans (if_neg (by decide))
    · show (raiseLaser s).servo.ldEn = true
      rw [raiseLaser_allowed allowed]

end Sys2Proof.Machine
end

section
/-! Spindle, sled and loader profiles within the ranges of Table 7.8, and microstep tables through their shadow (R195, R197, R205,
R209). -/
namespace Sys2Proof.Machine

/-! ### Payloads in range (Table 7.8) -/

theorem spindleOk_iff (q : List Byte) : spindleOk q = true ↔
    (1 ≤ byteAt q 0 ∧ byteAt q 0 ≤ 8) ∧ byteAt q 1 ≤ 1 ∧ byteAt q 2 ≤ 30 ∧ (5 ≤ byteAt q 3 ∧ byteAt q 3 ≤ 40) ∧
      (200 ≤ le16 q 4 ∧ le16 q 4 ≤ 1000) ∧ (1000 ≤ le16 q 6 ∧ le16 q 6 ≤ 6400) ∧ (500 ≤ le16 q 8 ∧ le16 q 8 ≤ 3000) ∧
      (10 ≤ le16 q 10 ∧ le16 q 10 ≤ 500) ∧ (100 ≤ le16 q 12 ∧ le16 q 12 ≤ 1000) ∧ (2 ≤ le16 q 14 ∧ le16 q 14 ≤ 50) ∧
      (1 ≤ le16 q 16 ∧ le16 q 16 ≤ 64) ∧ (100 ≤ le16 q 18 ∧ le16 q 18 ≤ 1500) ∧ (1 ≤ le16 q 20 ∧ le16 q 20 ≤ 5) ∧
      (100 ≤ le16 q 22 ∧ le16 q 22 ≤ 1000) ∧ zeroBytes q 0x18 0x1F = true := by
  simp [spindleOk, and_assoc]

theorem sledOk_iff (q : List Byte) : sledOk q = true ↔
    le16 q 0 ≤ 1 ∧ (100 ≤ le16 q 2 ∧ le16 q 2 ≤ 2500) ∧ (1000 ≤ le32 q 4 ∧ le32 q 4 ≤ 100000) ∧
      (100000 ≤ le32 q 8 ∧ le32 q 8 ≤ 10000000) ∧ (50 ≤ le16 q 12 ∧ le16 q 12 ≤ 350) ∧ le16 q 14 ≤ 350 ∧
      (10 ≤ le16 q 16 ∧ le16 q 16 ≤ 500) ∧ (10 ≤ le16 q 18 ∧ le16 q 18 ≤ 500) ∧ (50 ≤ le16 q 20 ∧ le16 q 20 ≤ 1000) ∧
      (100 ≤ le16 q 22 ∧ le16 q 22 ≤ 2000) ∧ le32 q 24 ≤ 30000 ∧ le16 q 28 ≤ 10000 ∧ (1 ≤ le16 q 30 ∧ le16 q 30 ≤ 8) ∧
      zeroBytes q 0x20 0x2F = true := by
  simp [sledOk, and_assoc]

theorem tableAt_entries (q : List Byte) : (tableAt q).length = 256 ∧ ∀ i : Nat, i < 256 → (tableAt q)[i]? = some (le16 q (2 * i)) :=
  ⟨by simp [tableAt], fun i h => by simp [tableAt, h]⟩

/-! ### Microstep tables (R197) -/

section
variable {s : State} {k ty : Nat} {d : Desc} (x : TableRef) (running : runningAs s 0 k .profileLoad = some d)
  (type : bits d.fld.opfield 7 0 = ty)
include running type

/-- Behind a waiting table the row waits. -/
theorem shadowRun_behind (waits : s.sled.shadow ≠ none) : shadowRun s k ty true x = s := by
  simp [shadowRun, running, type, Option.isSome_iff_ne_none.mpr waits]

/-- While the sled moves, a table waits for the next full step, and its profile with it. -/
theorem shadowRun_moving (free : s.sled.shadow = none) (moves : s.sled.move ≠ .rest) :
    shadowRun s k ty true x = ({ s with sled := { s.sled with shadow := some (x, some k) } } : State).modDesc 0 k
      fun g => { g with stage := .waiting } := by
  simp [shadowRun, running, type, free, moves]

theorem shadowRun_bad : shadowRun s k ty false x = finish s 0 k .badField 0 := by
  simp [shadowRun, running, type]

end

/-- The two rows that bring a microstep table, each with its profile type, what it asks of its payload, and its table (R195, R197). -/
inductive TableRow (k : Nat) : Instr → Nat → Bool → TableRef → Prop
  | loaded (r : List Byte) : TableRow k (.sledTable k r) 0x22 ((tableAt (fit 512 r)).all fun v => decide (v < 1024))
      (.loaded (tableAt (fit 512 r)))
  | builtin (r : List Byte) : TableRow k (.sledTableDefault k r) 0x24 (zeroBytes (fit 16 r) 0 15) .builtin

theorem TableRow.exec_eq {k ty : Nat} {c : Instr} {ok : Bool} {x : TableRef} (row : TableRow k c ty ok x) (s : State) :
    exec c s = .next (shadowRun s k ty ok x) := by
  cases row <;> rfl

/-- Settles O36: the ranges of Table 7.8 for the profiles that are taken whole, and one equation per case of a table's shadow. -/
theorem motionAndLoaderProfilesApplyWholeOrAreRefused : Obligations.MotionAndLoaderProfilesApplyWholeOrAreRefused := by
  refine ⟨?_, fun q => rfl, ?_, fun q => rfl, ?_, ?_, tableAt_entries, ?_⟩
  · rintro s k r _ rfl
    rw [← spindleOk_iff]
    exact spindle_taken s k r
  · rintro s k r _ rfl
    rw [← sledOk_iff]
    exact sled_taken s k r
  · rintro s k r _ rfl
    exact loader_taken s k r
  · intro s c k ty d r e x which running type
    have row : TableRow k c ty true x := by
      rcases which with ⟨rfl, rfl, rfl, rfl, entries⟩ | ⟨rfl, rfl, rfl, zero⟩
      · have all : ((tableAt (fit 512 r)).all fun v => decide (v < 1024)) = true := by simpa using entries
        exact all ▸ .loaded r
      · exact zero ▸ .builtin r
    rw [row.exec_eq]
    exact ⟨fun waits => congrArg _ (shadowRun_behind x running type waits),
      fun free still => ⟨_, congrArg _ (shadowRun_rest x running type free still), finish_endsAs _ 0 k .ok _⟩,
      fun free moves => congrArg _ (shadowRun_moving x running type free moves)⟩
  · intro s c k ty d r which running type
    have row : ∃ x, TableRow k c ty false x := by
      rcases which with ⟨rfl, rfl, v, entry, wide⟩ | ⟨rfl, rfl, used⟩
      · have some_ : ((tableAt (fit 512 r)).all fun v => decide (v < 1024)) = false :=
          List.all_eq_false.mpr ⟨v, entry, by simpa using wide⟩
        exact ⟨_, some_ ▸ TableRow.loaded r⟩
      · exact ⟨_, used ▸ TableRow.builtin r⟩
    obtain ⟨x, row⟩ := row
    exact ⟨_, (row.exec_eq s).trans (congrArg _ (shadowRun_bad x running type)), finish_endsAs s 0 k .badField 0⟩

end Sys2Proof.Machine
end

section
/-! The spindle: windings, crossings and Hall edges, starting, and the faults of the motors (R181 to R188, R192, R194, R207, Tables 7.1
and 7.6). -/
namespace Sys2Proof.Machine

/-! ### Windings (R182, R188, R192, Table 7.1) -/

theorem driveStep_eq {s : State} {n m : Nat}
    (driven : m = if s.spindle.st = .braking ∨ (s.spindle.st = .closed ∧ s.pwr.links.cmd.spindle < 0) then (n + 2) % 6 + 1 else n) :
    driveStep s n = { s with
      spindle := { s.spindle with step := n }
      out := s.out ++ [.spinDrive (stepPhases m).1 (stepPhases m).2.1 (stepPhases m).2.2 (spinCurrent s)] } := by
  subst driven
  simp only [driveStep, brakeStep, State.emit, Bool.or_eq_true, Bool.and_eq_true, beq_iff_eq, decide_eq_true_eq]

/-- Driving a step changes the running step and the output alone. -/
theorem driveStep_spindle (s : State) (n : Nat) : driveStep s n = { s with
    spindle := { s.spindle with step := n }
    out := (driveStep s n).out } := by
  rw [driveStep_eq rfl]

theorem spinCurrent_align {s : State} (st : s.spindle.st = .align) : spinCurrent s = 1000 * s.spindle.inUse.alignI := by
  simp [spinCurrent, st]

theorem spinCurrent_closed {s : State} (st : s.spindle.st = .closed) : spinCurrent s = min (1000 * s.spindle.inUse.ilim)
    (1000 * s.spindle.inUse.ilim * s.pwr.links.cmd.spindle.natAbs / 2097152) := by
  simp [spinCurrent, st]

theorem spinCurrent_other {s : State} (align : s.spindle.st ≠ .align) (closed : s.spindle.st ≠ .closed) :
    spinCurrent s = 1000 * s.spindle.inUse.ilim := by
  unfold spinCurrent
  split
  · contradiction
  · contradiction
  · rfl

theorem exec_commandFrame_newDemand {s : State} (up : linksUp s = true) (closed : s.spindle.st = .closed)
    (new : s.pwr.links.cmd.spindle ≠ (frameNow s).spindle) : exec (.yelxoBCommandFrame true) s = .next (driveStep { s with
      pwr := { s.pwr with links := { s.pwr.links with badFrames := 0, cmd := frameNow s } } } s.spindle.step) := by
  show execYelxoBCommandFrame true s = _
  simp [execYelxoBCommandFrame, up, closed, new]

/-! ### Braking (R192) -/

theorem brakeOn_none {s : State} (turns : s.spindle.st ≠ .braking ∨ s.spindle.inUse.stopRpm ≤ s.spindle.rpm) : brakeOn s = s := by
  refine if_neg ?_
  simp only [Bool.and_eq_true, beq_iff_eq, decide_eq_true_eq]
  rintro ⟨brakes, slow⟩
  rcases turns with turns | turns
  · exact turns brakes
  · omega

theorem brakeOn_shorts {s : State} (brakes : s.spindle.st = .braking) (slow : s.spindle.rpm < s.spindle.inUse.stopRpm) :
    brakeOn s = (setOut { s with spindle := { s.spindle with st := .shorted, since := s.us, commutating := none } } 4 0).emit
      .spinShort := if_pos (by simp [brakes, slow])

@[simp] theorem setOut_same (s : State) (i : Fin 6) (o : Int) : (setOut s i o).servo.loops.get i =
    { s.servo.loops.get i with out := o, next := none } := get_set_same _ _ _

/-- A braked stop as it begins, before its step is driven: SPINDLE opens with its output at −1.0 (R192). -/
def brakeBegun (s : State) : State := { s with
  servo := { s.servo with loops := (setOut (setLoop s 4 false false) 4 (-2097152)).servo.loops }
  spindle := { s.spindle with st := .braking, since := s.us, commutating := none } }

theorem brakeBegun_loop (s : State) : (brakeBegun s).servo.loops.get 4 =
    { s.servo.loops.get 4 with closed := false, held := false, next := none, out := -2097152 } := by
  refine (setOut_same (setLoop s 4 false false) 4 (-2097152)).trans ?_
  rw [setLoop_same]

theorem brakeSpindle_coasting_eq {s : State} (coasts : s.spindle.st = .coasting) :
    brakeSpindle s = brakeOn (driveStep (brakeBegun s) s.spindle.step) := by
  simp only [brakeSpindle, coasts]
  rfl

/-- A braked stop of a coasting rotor: the windings are shorted at once where it is slow enough already. -/
theorem brakeSpindle_coasting {s : State} (coasts : s.spindle.st = .coasting) : ∃ t : State, brakeSpindle s = t ∧
    t.spindle.rpm = s.spindle.rpm ∧ t.spindle.st = (if s.spindle.rpm < s.spindle.inUse.stopRpm then .shorted else .braking) ∧
    (t.servo.loops.get 4).closed = false ∧
    (t.servo.loops.get 4).out = (if s.spindle.rpm < s.spindle.inUse.stopRpm then 0 else -2097152) ∧
    t = { s with spindle := t.spindle, servo := { s.servo with loops := t.servo.loops }, out := t.out } := by
  have loop := brakeBegun_loop s
  rw [brakeSpindle_coasting_eq coasts, driveStep_spindle]
  by_cases slow : s.spindle.rpm < s.spindle.inUse.stopRpm
  · rw [brakeOn_shorts (by rfl) (by exact slow), if_pos slow, if_pos slow]
    refine ⟨_, rfl, rfl, rfl, ?_, ?_, rfl⟩
    · exact (congrArg Loop.closed (setOut_same _ 4 0)).trans (congrArg Loop.closed loop)
    · exact congrArg Loop.out (setOut_same _ 4 0)
  · rw [brakeOn_none (.inr (by exact Nat.le_of_not_lt slow)), if_neg slow, if_neg slow]
    exact ⟨_, rfl, rfl, rfl, congrArg Loop.closed loop, congrArg Loop.out loop, rfl⟩

/-! ### Starting (R185 to R187) -/

/-- An attempt aligns the rotor: step 1 at ALIGN_I (R186). -/
theorem beginAlign_eq (s : State) : beginAlign s = { s with
    spindle := { s.spindle with
      st := .align
      since := s.us
      step := 1
      run := 0
      atHandover := 0
      t60 := []
      rpm := 0
      commutating := none
      restart := false }
    out := s.out ++ [.spinDrive .u .v .w (1000 * s.spindle.inUse.alignI)] } :=
  driveStep_eq (m := 1) (by simp)

/-- Closed commutation begins on a step, and the SPINDLE loop closes (R186, R187). -/
theorem closeCommutation_closes (s : State) (n : Nat) : ∃ t : State, closeCommutation s n = t ∧
    t.spindle = { s.spindle with st := .closed, tries := 0, restart := false, commutating := none, step := n } ∧
    (t.servo.loops.get 4).closed = true ∧
    t = { s with spindle := t.spindle, servo := { s.servo with loops := t.servo.loops }, out := t.out } := by
  refine ⟨_, driveStep_spindle _ n, rfl, ?_, rfl⟩
  simp

theorem startStopped_aligns {s : State} (halls : s.spindle.prof.hallEn = false) : startStopped s =
    beginAlign { s with spindle := { s.spindle with inUse := s.spindle.prof, tries := 0 } } := by
  simp [startStopped, halls]

theorem startStopped_halls {s : State} (halls : s.spindle.prof.hallEn = true) : startStopped s =
    closeCommutation { s with spindle := { s.spindle with
      inUse := s.spindle.prof, tries := 0, t60 := [], crossedAt := s.us, rpm := 0 } } ((hallStep s.spindle.hall).getD 1) := by
  simp [startStopped, halls]

/-- A rotor turns at n rpm and cannot be caught: it turns backward, or forward below HANDOVER / 2 (R187). -/
def Uncaught (p : SpindleProf) (r : Rotor) (n : Nat) : Prop := r = .backward n ∨ ∃ m, r = .forward n m ∧ 2 * n < p.handover

/-- A start has no effect while motors may not start, while the rotor is driven other than to brake it, and before the tray opens. -/
theorem exec_spindleStart_none {s : State} (r : Rotor) (bar : motorsAllowed s = false ∨ (s.spindle.st ≠ .stopped ∧
    s.spindle.st ≠ .shorted ∧ s.spindle.st ≠ .coasting ∧ s.spindle.st ≠ .braking) ∨ s.loader.ejecting = true) :
    exec (.spindleStart r) s = .next s := by
  show execSpindleStart r s = _
  unfold execSpindleStart
  rcases bar with off | ⟨h1, h2, h3, h4⟩ | ejects
  · simp [off]
  · cases st : s.spindle.st <;> simp_all
  · simp [ejects]

section
variable {s : State} (allowed : motorsAllowed s = true) (tray : s.loader.ejecting = false)
include allowed tray

/-- A stopped rotor starts from its Hall code or by alignment, unless a braked stop is to end first. -/
theorem exec_spindleStart_stopped (st : s.spindle.st = .stopped ∨ s.spindle.st = .shorted ∨ s.spindle.st = .coasting) :
    exec (.spindleStart .stopped) s = .next (startStopped s) := by
  show execSpindleStart .stopped s = _
  rcases st with st | st | st <;> simp [execSpindleStart, allowed, tray, st]

/-- A rotor that stands at the end of a braked stop starts when the stop is over (R187). -/
theorem exec_spindleStart_braking (st : s.spindle.st = .braking) :
    exec (.spindleStart .stopped) s = .next { s with spindle := { s.spindle with restart := true } } := by
  show execSpindleStart .stopped s = _
  simp [execSpindleStart, allowed, tray, st, commutates]

/-- A rotor that turns forward fast enough is caught on its running step (R187). -/
theorem exec_spindleStart_caught (st : s.spindle.st = .stopped ∨ s.spindle.st = .shorted ∨ s.spindle.st = .coasting ∨
    s.spindle.st = .braking) {n : Nat} (m : Nat) (fast : s.spindle.prof.handover ≤ 2 * n) :
    exec (.spindleStart (.forward n m)) s = .next (catchRotor s n m) := by
  show execSpindleStart (.forward n m) s = _
  rcases st with st | st | st | st <;> simp [execSpindleStart, allowed, tray, st, fast]

/-- Any other rotor that turns is braked, and the start waits; one that is braked already only gets the start to wait (R187). -/
theorem exec_spindleStart_waits {r : Rotor} {n : Nat} (st : s.spindle.st = .shorted ∨ s.spindle.st = .braking)
    (slow : Uncaught s.spindle.prof r n) :
    exec (.spindleStart r) s = .next { s with spindle := { s.spindle with restart := true } } := by
  show execSpindleStart r s = _
  rcases slow with rfl | ⟨m, rfl, slow⟩
  · rcases st with st | st <;> simp [execSpindleStart, allowed, tray, st, commutates]
  · rcases st with st | st <;> simp [execSpindleStart, allowed, tray, st, commutates, Nat.not_le.mpr slow]

theorem exec_spindleStart_turning {r : Rotor} {n : Nat} (st : s.spindle.st = .stopped ∨ s.spindle.st = .coasting)
    (slow : Uncaught s.spindle.prof r n) {b : State}
    (braked : brakeSpindle { s with spindle := { s.spindle with st := .coasting, rpm := min 8191 n } } = b) :
    exec (.spindleStart r) s = .next { b with spindle := { b.spindle with restart := true } } := by
  subst braked
  show execSpindleStart r s = _
  rcases slow with rfl | ⟨m, rfl, slow⟩
  · rcases st with st | st <;> simp [execSpindleStart, allowed, tray, st, commutates]
  · rcases st with st | st <;> simp [execSpindleStart, allowed, tray, st, commutates, Nat.not_le.mpr slow]

/-- What a stopped rotor's start does, from the Hall code (R185). -/
theorem spindleStart_halls (st : s.spindle.st = .stopped ∨ s.spindle.st = .shorted ∨ s.spindle.st = .coasting)
    (halls : s.spindle.prof.hallEn = true) : ∃ t : State, exec (.spindleStart .stopped) s = .next t ∧ t.spindle.st = .closed ∧
      t.spindle.inUse = s.spindle.prof ∧ t.spindle.step = (hallStep s.spindle.hall).getD 1 ∧ t.spindle.rpm = 0 ∧
      (t.servo.loops.get 4).closed = true ∧
      t = { s with spindle := t.spindle, servo := { s.servo with loops := t.servo.loops }, out := t.out } := by
  obtain ⟨t, closes, spindle, loop, frame⟩ := closeCommutation_closes { s with spindle := { s.spindle with
    inUse := s.spindle.prof, tries := 0, t60 := [], crossedAt := s.us, rpm := 0 } } ((hallStep s.spindle.hall).getD 1)
  refine ⟨t, ?_, ?_, ?_, ?_, ?_, loop, frame⟩
  · rw [exec_spindleStart_stopped allowed tray st, startStopped_halls halls, closes]
  all_goals rw [spindle]

/-- What catching a rotor does (R187). -/
theorem spindleStart_catches (st : s.spindle.st = .stopped ∨ s.spindle.st = .shorted ∨ s.spindle.st = .coasting ∨
    s.spindle.st = .braking) (n m : Nat) (fast : s.spindle.prof.handover ≤ 2 * n) :
    ∃ t : State, exec (.spindleStart (.forward n m)) s = .next t ∧ t.spindle.st = .closed ∧
      t.spindle.t60 = [80000000 / max 1 (s.spindle.prof.polePairs * n)] ∧ t.spindle.inUse = s.spindle.prof ∧ t.spindle.rpm = min 8191 n ∧
      t.spindle.step = m % 6 + 1 ∧ (t.servo.loops.get 4).closed = true ∧
      t = { s with spindle := t.spindle, servo := { s.servo with loops := t.servo.loops }, out := t.out } := by
  obtain ⟨t, closes, spindle, loop, frame⟩ := closeCommutation_closes { s with spindle := { s.spindle with
    inUse := s.spindle.prof, t60 := [80000000 / max 1 (s.spindle.prof.polePairs * n)], rpm := min 8191 n, crossedAt := s.us } } (m % 6 + 1)
  refine ⟨t, ?_, ?_, ?_, ?_, ?_, ?_, loop, frame⟩
  · rw [exec_spindleStart_caught allowed tray st m fast]
    exact congrArg Host.Outcome.next closes
  all_goals rw [spindle]

/-- What braking a rotor that turns does, before its start (R187, R192). -/
theorem spindleStart_brakes {r : Rotor} {n : Nat} (st : s.spindle.st = .stopped ∨ s.spindle.st = .coasting)
    (slow : Uncaught s.spindle.prof r n) :
    ∃ t : State, exec (.spindleStart r) s = .next t ∧ t.spindle.restart = true ∧
      t.spindle.rpm = min 8191 n ∧ t.spindle.st = (if min 8191 n < s.spindle.inUse.stopRpm then .shorted else .braking) ∧
      (t.servo.loops.get 4).closed = false ∧ (t.servo.loops.get 4).out = (if min 8191 n < s.spindle.inUse.stopRpm then 0 else -2097152) ∧
      t = { s with spindle := t.spindle, servo := { s.servo with loops := t.servo.loops }, out := t.out } := by
  obtain ⟨b, braked, rpm, motion, opens, out, frame⟩ := brakeSpindle_coasting
    (s := { s with spindle := { s.spindle with st := .coasting, rpm := min 8191 n } }) rfl
  refine ⟨_, exec_spindleStart_turning allowed tray st slow braked, rfl, rpm, motion, opens, out, ?_⟩
  exact congrArg (fun t : State => { t with spindle := { b.spindle with restart := true } }) frame

end

/-- What a failed attempt leaves is aligned again 500 ms later (R186). -/
theorem exec_startCoastEnd {s : State} (st : s.spindle.st = .startCoast) (late : s.spindle.since + 500000 ≤ s.us) :
    exec .startCoastEnd s = .next (beginAlign s) := congrArg Host.Outcome.next (if_pos (by simp [st, late]))

theorem exec_startCoastEnd_none {s : State} (bar : s.spindle.st ≠ .startCoast ∨ s.us < s.spindle.since + 500000) :
    exec .startCoastEnd s = .next s := by
  refine congrArg Host.Outcome.next (if_neg ?_)
  simp only [Bool.and_eq_true, beq_iff_eq, decide_eq_true_eq]
  rintro ⟨st, late⟩
  rcases bar with bar | early
  · exact bar st
  · omega

/-! ### Forced steps (R184, R186) -/

theorem noteForced_cases (s : State) : noteForced s none = s ∧ ∀ x : Nat,
    (s.spindle.run = 0 → noteForced s (some x) = { s with spindle := { s.spindle with crossedAt := s.us } }) ∧
    (0 < s.spindle.run → noteForced s (some x) = noteInterval s x) :=
  ⟨rfl, fun _ => ⟨fun first => if_pos first, fun later => if_neg (by omega)⟩⟩

/-- A crossing seen in a forced step changes the intervals, the speed and the time of the last crossing alone. -/
theorem noteForced_changes (s : State) (b : Option Nat) : ∃ (l : List Nat) (rpm at_ : Nat),
    noteForced s b = { s with spindle := { s.spindle with t60 := l, rpm := rpm, crossedAt := at_ } } := by
  cases b with
  | none => exact ⟨_, _, _, rfl⟩
  | some x =>
    by_cases first : s.spindle.run = 0
    · exact ⟨_, _, _, if_pos first⟩
    · exact ⟨_, _, _, if_neg first⟩

theorem exec_forcedStep_align {s : State} (b : Option Nat) (st : s.spindle.st = .align) : exec (.forcedStep b) s =
    .next (if s.spindle.inUse.alignT * 1000 ≤ s.us - s.spindle.since then
      driveStep { s with spindle := { s.spindle with st := .forced 0, since := s.us } } (s.spindle.step % 6 + 1) else s) := by
  show execForcedStep b s = _
  simp [execForcedStep, st, stepAfter]

/-- The crossing that a forced step counts. -/
def forcedSeen (s : State) (k : Nat) (b : Option Nat) : Option Nat := if detects s.spindle.inUse k then b else none

/-- The run of forced steps with a crossing, this one counted. -/
def forcedRun (s : State) (k : Nat) (b : Option Nat) : Nat := if (forcedSeen s k b).isSome then s.spindle.run + 1 else 0

theorem forcedRun_eq (s : State) (k : Nat) (b : Option Nat) :
    forcedRun s k b = if detects s.spindle.inUse k = true ∧ b ≠ none then s.spindle.run + 1 else 0 := by
  cases detected : detects s.spindle.inUse k <;> cases b <;> simp [forcedRun, forcedSeen, detected]

/-- The state in which forced step k has counted its crossing. -/
def forcedNoted (s : State) (k : Nat) (b : Option Nat) : State :=
  { noteForced s (forcedSeen s k b) with
    spindle := { (noteForced s (forcedSeen s k b)).spindle with run := forcedRun s k b } }

theorem forcedNoted_def {s v : State} {k : Nat} {b : Option Nat}
    (noted : v = noteForced s (if detects s.spindle.inUse k then b else none)) :
    forcedNoted s k b = { v with spindle := { v.spindle with
      run := if detects s.spindle.inUse k = true ∧ b ≠ none then s.spindle.run + 1 else 0 } } := by
  subst noted
  rw [← forcedRun_eq]
  rfl

theorem forcedNoted_changes (s : State) (k : Nat) (b : Option Nat) : ∃ (l : List Nat) (rpm at_ : Nat), forcedNoted s k b =
    { s with spindle := { s.spindle with t60 := l, rpm := rpm, crossedAt := at_, run := forcedRun s k b } } := by
  obtain ⟨l, rpm, at_, noted⟩ := noteForced_changes s (forcedSeen s k b)
  refine ⟨l, rpm, at_, ?_⟩
  rw [forcedNoted, noted]

theorem forcedNoted_keeps (s : State) (k : Nat) (b : Option Nat) : (forcedNoted s k b).us = s.us ∧ (forcedNoted s k b).out = s.out ∧
    (forcedNoted s k b).spindle.step = s.spindle.step ∧ (forcedNoted s k b).spindle.tries = s.spindle.tries ∧
    (forcedNoted s k b).spindle.inUse = s.spindle.inUse := by
  obtain ⟨l, rpm, at_, noted⟩ := forcedNoted_changes s k b
  rw [noted]
  exact ⟨rfl, rfl, rfl, rfl, rfl⟩

theorem attemptFails_again {s : State} (left : s.spindle.tries + 1 < s.spindle.inUse.startTries) : attemptFails s = { s with
    spindle := { s.spindle with st := .startCoast, since := s.us, tries := s.spindle.tries + 1 }
    out := s.out ++ [.spinOff] } := if_neg (Nat.not_le.mpr left)

theorem attemptFails_last {s : State} (last : s.spindle.inUse.startTries ≤ s.spindle.tries + 1) : attemptFails s =
    motionFault { s with spindle := { s.spindle with tries := 0 } } 1 0 := if_pos last

section
variable {s : State} {k : Nat} (b : Option Nat) (st : s.spindle.st = .forced k)
include st

theorem exec_forcedStep_early (early : stepOver s.spindle.inUse k (s.us - s.spindle.since) = false) :
    exec (.forcedStep b) s = .next s := by
  show execForcedStep b s = _
  simp [execForcedStep, st, early]

variable (lasted : stepOver s.spindle.inUse k (s.us - s.spindle.since) = true)
include lasted

/-- A forced step that has lasted its time: a shorter one below HANDOVER, the handover, a failed attempt, or one more of its length
(R186). -/
theorem exec_forcedStep_over : exec (.forcedStep b) s = .next (
    if rateAtLeast s.spindle.inUse k s.spindle.inUse.handover = false then driveStep { forcedNoted s k b with
      spindle := { (forcedNoted s k b).spindle with st := .forced (k + 1), since := s.us } } (s.spindle.step % 6 + 1)
    else if 12 ≤ forcedRun s k b then closeCommutation (forcedNoted s k b) (s.spindle.step % 6 + 1)
    else if 48 ≤ s.spindle.atHandover then attemptFails (forcedNoted s k b)
    else driveStep { forcedNoted s k b with spindle := { (forcedNoted s k b).spindle with
      st := .forced k, since := s.us, atHandover := s.spindle.atHandover + 1 } } (s.spindle.step % 6 + 1)) := by
  obtain ⟨l, rpm, at_, noted⟩ := noteForced_changes s (forcedSeen s k b)
  show execForcedStep b s = _
  rw [forcedSeen] at noted
  simp only [execForcedStep, forcedNoted, forcedRun, forcedSeen, st, lasted, Bool.not_true, Bool.false_eq_true, if_false, noted,
    Bool.not_eq_true']
  rfl

theorem exec_forcedStep_shorter (slow : rateAtLeast s.spindle.inUse k s.spindle.inUse.handover = false) :
    exec (.forcedStep b) s = .next (driveStep { forcedNoted s k b with
      spindle := { (forcedNoted s k b).spindle with st := .forced (k + 1), since := s.us } } (s.spindle.step % 6 + 1)) := by
  rw [exec_forcedStep_over b st lasted, if_pos slow]

variable (fast : rateAtLeast s.spindle.inUse k s.spindle.inUse.handover = true)
include fast

/-- Twelve crossings in a row hand over to closed commutation on the next step (R186). -/
theorem exec_forcedStep_handover (twelve : 12 ≤ forcedRun s k b) :
    exec (.forcedStep b) s = .next (closeCommutation (forcedNoted s k b) (s.spindle.step % 6 + 1)) := by
  rw [exec_forcedStep_over b st lasted, if_neg (by simp [fast]), if_pos twelve]

variable (few : forcedRun s k b < 12)
include few

theorem exec_forcedStep_repeats (left : s.spindle.atHandover < 48) :
    exec (.forcedStep b) s = .next (driveStep { forcedNoted s k b with spindle := { (forcedNoted s k b).spindle with
      st := .forced k, since := s.us, atHandover := s.spindle.atHandover + 1 } } (s.spindle.step % 6 + 1)) := by
  rw [exec_forcedStep_over b st lasted, if_neg (by simp [fast]), if_neg (Nat.not_le.mpr few), if_neg (Nat.not_le.mpr left)]

theorem exec_forcedStep_fails (spent : 48 ≤ s.spindle.atHandover) :
    exec (.forcedStep b) s = .next (attemptFails (forcedNoted s k b)) := by
  rw [exec_forcedStep_over b st lasted, if_neg (by simp [fast]), if_neg (Nat.not_le.mpr few), if_pos spent]

end

/-! ### Crossings and commutations (R183, R184) -/

/-- A crossing or edge leaves the spindle in its state of motion. -/
theorem noteInterval_st (s : State) (x : Nat) : (noteInterval s x).spindle.st = s.spindle.st := rfl

section
variable {s : State} {x : Nat} (halls : s.spindle.inUse.hallEn = false)
include halls

/-- A crossing in the right direction past the blanking gives the speed and schedules the next step; it may end a braked stop. -/
theorem exec_zeroCrossing_taken (driven : s.spindle.st = .closed ∨ s.spindle.st = .braking) (waits : s.spindle.commutating = none)
    (past : blanked s x = false) : exec (.zeroCrossing (s.spindle.step % 2 == 0) x) s = .next (brakeOn { noteInterval s x with
      spindle := { (noteInterval s x).spindle with commutating := some ((30 - s.spindle.inUse.commAdv) * x / 60) } }) := by
  show execZeroCrossing _ x s = _
  rcases driven with st | st <;> simp [execZeroCrossing, halls, commutates, st, stepRises, waits, past, commDelay]

theorem exec_zeroCrossing_closed (st : s.spindle.st = .closed) (waits : s.spindle.commutating = none) (past : blanked s x = false) :
    exec (.zeroCrossing (s.spindle.step % 2 == 0) x) s = .next { noteInterval s x with
      spindle := { (noteInterval s x).spindle with commutating := some ((30 - s.spindle.inUse.commAdv) * x / 60) } } := by
  rw [exec_zeroCrossing_taken halls (.inl st) waits past, brakeOn_none (.inl (by simp [noteInterval_st, st]))]

/-- Below STOP_RPM the windings of a braked rotor are shorted, and its demand ends (R192). -/
theorem exec_zeroCrossing_braking (st : s.spindle.st = .braking) (waits : s.spindle.commutating = none) (past : blanked s x = false) :
    ∃ t : State, exec (.zeroCrossing (s.spindle.step % 2 == 0) x) s = .next t ∧
    ((noteInterval s x).spindle.rpm < s.spindle.inUse.stopRpm →
      t.spindle.st = .shorted ∧ t.out = s.out ++ [.spinShort] ∧ (t.servo.loops.get 4).out = 0) ∧
    (s.spindle.inUse.stopRpm ≤ (noteInterval s x).spindle.rpm → t = { noteInterval s x with
      spindle := { (noteInterval s x).spindle with commutating := some ((30 - s.spindle.inUse.commAdv) * x / 60) } }) := by
  refine ⟨_, exec_zeroCrossing_taken halls (.inr st) waits past, fun slow => ?_, fun fast => brakeOn_none (.inr fast)⟩
  rw [brakeOn_shorts (by exact st) (by exact slow)]
  exact ⟨rfl, rfl, congrArg Loop.out (setOut_same _ 4 0)⟩

/-- The crossings of a rotor that is not driven still count for its speed. -/
theorem exec_zeroCrossing_free (b : Bool) (st : s.spindle.st = .coasting ∨ s.spindle.st = .startCoast) :
    exec (.zeroCrossing b x) s = .next (noteInterval s x) := by
  show execZeroCrossing b x s = _
  rcases st with st | st <;> simp [execZeroCrossing, halls, commutates, freeTurn, st] <;> rfl

end

theorem exec_zeroCrossing_none {s : State} {b : Bool} {x : Nat} (bar : s.spindle.inUse.hallEn = true ∨ (s.spindle.st = .closed ∧
    (b ≠ (s.spindle.step % 2 == 0) ∨ s.spindle.commutating ≠ none ∨ blanked s x = true))) : exec (.zeroCrossing b x) s = .next s := by
  show execZeroCrossing b x s = _
  rcases bar with halls | ⟨st, wrong | waits | blank⟩
  · simp [execZeroCrossing, halls]
  · simp [execZeroCrossing, commutates, st, stepRises, bne_iff_ne.mpr wrong]
  · simp [execZeroCrossing, commutates, st, Option.isSome_iff_ne_none.mpr waits]
  · simp [execZeroCrossing, commutates, st, blank]

theorem exec_commutate {s : State} {n : Nat} (waits : s.spindle.commutating = some n) : exec .commutate s = .next (
    if 8 * (s.us - s.spindle.crossedAt) < n then s
    else driveStep { s with spindle := { s.spindle with commutating := none } } (s.spindle.step % 6 + 1)) := by
  show execCommutate s = _
  simp [execCommutate, waits, stepAfter]

theorem exec_commutate_none {s : State} (none_ : s.spindle.commutating = none) : exec .commutate s = .next s := by
  show execCommutate s = _
  simp [execCommutate, none_]

/-! ### Hall edges (R184, R185) -/

theorem exec_hallEdge_kept {s : State} {c : BitVec 3} (x : Nat) (bar : s.spindle.inUse.hallEn = false ∨ hallStep c = none) :
    exec (.hallEdge c x) s = .next { s with spindle := { s.spindle with hall := c } } := by
  show execHallEdge c x s = _
  rcases bar with off | bad
  · simp [execHallEdge, off]
  · simp [execHallEdge, bad]

/-- The state of motion is the same after a step is driven. -/
theorem driveStep_st (s : State) (n : Nat) : (driveStep s n).spindle.st = s.spindle.st := by rw [driveStep_spindle]

theorem exec_hallEdge_closed {s : State} {c : BitVec 3} {x n : Nat} (halls : s.spindle.inUse.hallEn = true) (step : hallStep c = some n)
    (st : s.spindle.st = .closed) :
    exec (.hallEdge c x) s = .next (driveStep (noteInterval { s with spindle := { s.spindle with hall := c } } x) n) := by
  have follows : commutates { s with spindle := { s.spindle with hall := c } } = true := by simp [commutates, st]
  show execHallEdge c x s = _
  simp only [execHallEdge, halls, step, follows, Bool.not_true, Bool.false_eq_true, if_false, if_true]
  exact congrArg Host.Outcome.next (brakeOn_none (.inl (by simp [driveStep_st, noteInterval_st, st])))

/-! ### Faults of the motors (R185, R194, R207, Table 7.6) -/

theorem exec_hallInvalid {s : State} {c : BitVec 3} (halls : s.spindle.inUse.hallEn = true) (up : linksUp s = true)
    (tb : s.pwr.tbLock = true) (bad : hallStep c = none) :
    exec (.hallInvalid c) s = .next (motionFault { s with spindle := { s.spindle with hall := c } } 3 0) :=
  congrArg Host.Outcome.next (if_pos (by simp [halls, tb, bad]; exact up))

theorem exec_hallInvalid_kept {s : State} {c : BitVec 3} (bar : s.spindle.inUse.hallEn = false ∨ hallStep c ≠ none ∨
    linksUp s = false ∨ s.pwr.tbLock = false) :
    exec (.hallInvalid c) s = .next { s with spindle := { s.spindle with hall := c } } := by
  refine congrArg Host.Outcome.next (if_neg ?_)
  simp only [Bool.and_eq_true, Option.isNone_iff_eq_none]
  rintro ⟨⟨⟨halls, up⟩, tb⟩, bad⟩
  rcases bar with off | step | down | unlocked
  · exact Bool.false_ne_true (off.symm.trans halls)
  · exact step bad
  · exact Bool.false_ne_true (down.symm.trans up)
  · exact Bool.false_ne_true (unlocked.symm.trans tb)

theorem exec_spinStall {s : State} {x : Nat} (last : s.spindle.t60.getLast? = some x)
    (driven : s.spindle.st = .closed ∨ s.spindle.st = .braking) (halls : s.spindle.inUse.hallEn = false) : exec .spinStall s = .next (
      if 3 * x ≤ 8 * (s.us - s.spindle.crossedAt) then motionFault s 2 0 else s) := by
  show execSpinStall s = _
  rcases driven with st | st <;> simp [execSpinStall, last, commutates, st, halls]

theorem exec_spinStall_none {s : State} (free : s.spindle.st ≠ .closed ∧ s.spindle.st ≠ .braking) : exec .spinStall s = .next s := by
  show execSpinStall s = _
  unfold execSpinStall
  split
  · simp [commutates, free]
  · rfl

theorem exec_bridgeOc {s : State} (b : Bridge) (up : linksUp s = true) :
    exec (.bridgeOc b) s = .next (motionFault (bridgeOff s b) 4 (bridgeCode b)) := congrArg Host.Outcome.next (if_pos up)

theorem exec_bridgeOc_down {s : State} (b : Bridge) (down : linksUp s = false) : exec (.bridgeOc b) s = .next s :=
  congrArg Host.Outcome.next (if_neg (by simp [down]))

/-- A bridge that is off drives nothing, and a loop whose bridge is off has output 0. -/
theorem bridgeOff_off (s : State) : (bridgeOff s .sledA).sled.ia = 0 ∧ (bridgeOff s .sledB).sled.ib = 0 ∧
    (bridgeOff s .loader).loader.drive = .none ∧
    (bridgeOff s .spindle).spindle.st = (if s.spindle.st = .stopped then .stopped else .coasting) ∧
    ((bridgeOff s .focus).servo.loops.get 0).out = 0 ∧ ((bridgeOff s .tracking).servo.loops.get 1).out = 0 ∧
    ((bridgeOff s .tilt).servo.loops.get 2).out = 0 := by
  refine ⟨rfl, rfl, ?_, coastSpindle_st s, ?_, ?_, ?_⟩
  · exact congrArg (fun t : State => t.loader.drive) (stopLoader_eq s)
  · exact congrArg Loop.out (setOut_same _ 0 0)
  · exact congrArg Loop.out (setOut_same _ 1 0)
  · exact congrArg Loop.out (setOut_same _ 2 0)

/-- Settles O48, clause by clause: the equations of the spindle's rows, and what closing and braking do to the SPINDLE loop. -/
theorem spindleStartsAndCommutates : Obligations.SpindleStartsAndCommutates := by
  refine ⟨?_, ⟨rfl, rfl, rfl, rfl, rfl, rfl⟩, fun s n m => driveStep_eq, fun s => ⟨spinCurrent_align, spinCurrent_closed,
    spinCurrent_other⟩, fun s => exec_commandFrame_newDemand, fun s r => exec_spindleStart_none r, ?_, ?_, ?_, ?_, ?_,
    noteForced_cases, ?_, fun s => exec_startCoastEnd_none, ?_, ?_, ?_, ?_, ?_, ?_, fun s => exec_commutate_none,
    fun s c x => exec_hallEdge_kept x, fun s c x n => exec_hallEdge_closed, by decide, fun s c => exec_hallInvalid,
    fun s c => exec_hallInvalid_kept, ?_, fun s => exec_spinStall_none, fun s b => exec_bridgeOc b, bridgeOff_off,
    fun s c x => rfl, fun s b => exec_bridgeOc_down b⟩
  · intro s
    show execTbLock s = _
    simp [execTbLock]
  · intro s allowed st tray
    refine ⟨fun halls => ?_, spindleStart_halls allowed tray st⟩
    rw [exec_spindleStart_stopped allowed tray st, startStopped_aligns halls, beginAlign_eq]
  · exact fun s allowed st tray => exec_spindleStart_braking allowed tray st
  · intro s allowed st tray
    refine ⟨spindleStart_catches allowed tray st, fun r n m turns => ?_⟩
    have slow : Uncaught s.spindle.prof r n := turns.imp_right fun h => ⟨m, h⟩
    exact ⟨fun braked => exec_spindleStart_waits allowed tray braked slow, fun free => spindleStart_brakes allowed tray free slow⟩
  · intro s b st
    rw [exec_forcedStep_align b st]
    exact ⟨fun early => by rw [if_neg (by omega)], fun lasted => by rw [if_pos lasted]⟩
  · rintro s u b k _ _ st rfl rfl noted
    obtain rfl : u = forcedNoted s k b := noted.trans (forcedNoted_def rfl).symm
    rw [← forcedRun_eq]
    obtain ⟨us, out, step, tries, inUse⟩ := forcedNoted_keeps s k b
    refine ⟨exec_forcedStep_early b st, exec_forcedStep_shorter b st, fun lasted fast twelve => ?_, exec_forcedStep_repeats b st,
      fun lasted fast few spent => ⟨fun left => ?_, fun last => ?_⟩⟩
    · obtain ⟨t, closes, spindle, loop, -⟩ := closeCommutation_closes (forcedNoted s k b) (s.spindle.step % 6 + 1)
      refine ⟨t, ?_, ?_, loop, ?_, ?_, ?_, ?_⟩
      · rw [exec_forcedStep_handover b st lasted fast twelve, closes]
      all_goals rw [spindle]
    · rw [exec_forcedStep_fails b st lasted fast few spent, attemptFails_again (by rwa [tries, inUse]), tries, us, out]
    · rw [exec_forcedStep_fails b st lasted fast few spent, attemptFails_last (by rwa [tries, inUse])]
  · intro s st late
    rw [exec_startCoastEnd st late, beginAlign_eq]
  · rintro s x _ rfl
    rfl
  · rintro s _ x halls st waits past rfl
    exact exec_zeroCrossing_closed halls st waits past
  · rintro s _ x halls st waits past rfl
    exact exec_zeroCrossing_braking halls st waits past
  · exact fun s b x halls => exec_zeroCrossing_free halls b
  · exact fun s b x => exec_zeroCrossing_none
  · intro s n waits
    rw [exec_commutate waits]
    exact ⟨fun early => by rw [if_pos early], fun due => by rw [if_neg (Nat.not_lt.mpr due)]⟩
  · intro s x last driven halls
    rw [exec_spinStall last driven halls]
    exact ⟨fun late => by rw [if_pos late], fun early => by rw [if_neg (Nat.not_le.mpr early)]⟩

end Sys2Proof.Machine
end

section
/-! The spindle's ceiling and its stop, and the sled: microsteps, moves, seeks, homing and recovery (R187, R191, R193, R195 to R203,
Tables 7.3, 7.4 and 7.7). -/
namespace Sys2Proof.Machine

/-! ### The ceiling (R191) -/

section
variable {s : State}

theorem exec_spinCeilingSet (clear : s.spindle.ceiling = false) (eight : 8 ≤ s.spindle.limitRun) : exec .spinCeilingSet s =
    .next (postEvent { s with spindle := { s.spindle with ceiling := true } } 0 0x0761 (w32 (1 + 65536 * s.spindle.rpm))) :=
  congrArg Host.Outcome.next (if_pos (by simp [clear, eight]))

theorem exec_spinCeilingSet_none (bar : s.spindle.ceiling = true ∨ s.spindle.limitRun < 8) : exec .spinCeilingSet s = .next s := by
  refine congrArg Host.Outcome.next (if_neg ?_)
  rcases bar with set_ | few
  · simp [set_]
  · simp [few]

theorem exec_spinCeilingClear (set_ : s.spindle.ceiling = true) (eight : 8 ≤ s.spindle.clearRun) : exec .spinCeilingClear s =
    .next (postEvent { s with spindle := { s.spindle with ceiling := false } } 0 0x0761 (w32 (65536 * s.spindle.rpm))) := by
  refine congrArg Host.Outcome.next ((if_pos (by simp [set_, eight])).trans ?_)
  simp [ceilingEvent, evSpinCeiling, b2n]

theorem exec_spinCeilingClear_none (bar : s.spindle.ceiling = false ∨ s.spindle.clearRun < 8) : exec .spinCeilingClear s = .next s := by
  refine congrArg Host.Outcome.next (if_neg ?_)
  rcases bar with clear | few
  · simp [clear]
  · simp [few]

theorem countLimit_between (between : s.servo.n % 16 ≠ 8) : countLimit s = s := if_pos between

/-- A spindle period counts for the ceiling or against it. -/
theorem countLimit_period (period : s.servo.n % 16 = 8) : countLimit s = { s with spindle := { s.spindle with
    limitRun := if limitReported s && speedShort s then s.spindle.limitRun + 1 else 0
    clearRun := if limitReported s && speedShort s then 0 else s.spindle.clearRun + 1 } } := if_neg fun between => between period

theorem countLimit_short (period : s.servo.n % 16 = 8) (limit : limitReported s = true)
    (slow : 100 * s.spindle.rpm < 99 * s.spindle.setPoint) :
    countLimit s = { s with spindle := { s.spindle with limitRun := s.spindle.limitRun + 1, clearRun := 0 } } := by
  simp [countLimit_period period, limit, speedShort, slow]

theorem countLimit_clear (period : s.servo.n % 16 = 8)
    (bar : limitReported s = false ∨ 99 * s.spindle.setPoint ≤ 100 * s.spindle.rpm) :
    countLimit s = { s with spindle := { s.spindle with limitRun := 0, clearRun := s.spindle.clearRun + 1 } } := by
  have clear : (limitReported s && speedShort s) = false := by
    rcases bar with off | fast
    · simp [off]
    · simp [speedShort, fast]
  simp [countLimit_period period, clear]

end

/-! ### The spindle has stopped (R187, R193) -/

/-- The spindle stands: its speed reads 0, and shorted windings open (R193). -/
def standing (s : State) : State := { s with
  spindle := { s.spindle with st := .stopped, rpm := 0, t60 := [], commutating := none }
  out := if s.spindle.st = .shorted then s.out ++ [.spinOff] else s.out }

/-- The tray opens, by its motor or by the solenoid (R204, R205, Table 7.5). -/
theorem openTray_drives (s : State) : (openTray s).spindle = s.spindle ∧ (openTray s).loader.ejecting = false ∧
    (openTray s).loader.drive = (if s.loader.prof.solenoid then .pulse s.us else .opening s.us) ∧
    (openTray s).out = s.out ++ [if s.loader.prof.solenoid then .solenoid true else .tray true s.loader.prof.duty s.loader.prof.ilim] := by
  unfold openTray
  split <;> exact ⟨rfl, rfl, rfl, rfl⟩

section
variable {s : State} {from_ : Nat}
  (free : s.spindle.st = .shorted ∧ from_ = s.spindle.since ∨ s.spindle.st = .coasting ∧ from_ = s.spindle.crossedAt)
include free

theorem exec_spindleStopped_early (early : s.us < from_ + 200000) : exec .spindleStopped s = .next s := by
  show execSpindleStopped s = _
  rcases free with ⟨st, rfl⟩ | ⟨st, rfl⟩ <;> simp [execSpindleStopped, st, early]

/-- After 200 ms without a crossing what waited for the stop goes on: the tray opens, the spindle starts again, or it stands. -/
theorem exec_spindleStopped_late (late : from_ + 200000 ≤ s.us) : exec .spindleStopped s = .next (
    if s.loader.ejecting then openTray { standing s with spindle := { (standing s).spindle with restart := false } }
    else if s.spindle.restart && motorsAllowed s then startStopped (standing s)
    else { standing s with spindle := { (standing s).spindle with restart := false } }) := by
  show execSpindleStopped s = _
  rcases free with ⟨st, rfl⟩ | ⟨st, rfl⟩ <;> simp [execSpindleStopped, st, Nat.not_lt.mpr late, standing] <;> rfl

theorem exec_spindleStopped_stands (late : from_ + 200000 ≤ s.us) (shut : s.loader.ejecting = false)
    (bar : s.spindle.restart = false ∨ motorsAllowed s = false) : exec .spindleStopped s =
      .next { standing s with spindle := { (standing s).spindle with restart := false } } := by
  have stays : (s.spindle.restart && motorsAllowed s) = false := by rcases bar with bar | bar <;> simp [bar]
  rw [exec_spindleStopped_late free late, shut, stays]
  rfl

theorem spindleStopped_starts (late : from_ + 200000 ≤ s.us) (shut : s.loader.ejecting = false) (again : s.spindle.restart = true)
    (allowed : motorsAllowed s = true) (halls : s.spindle.prof.hallEn = false) :
    ∃ t : State, exec .spindleStopped s = .next t ∧ t.spindle.st = .align ∧ t.spindle.restart = false ∧ t.spindle.rpm = 0 ∧
      t.spindle.inUse = s.spindle.prof ∧ t.spindle.tries = 0 := by
  rw [exec_spindleStopped_late free late, shut, again, allowed]
  refine ⟨_, congrArg _ ((startStopped_aligns (s := standing s) (by exact halls)).trans (beginAlign_eq _)), rfl, rfl, rfl, rfl, rfl⟩

theorem spindleStopped_opens (late : from_ + 200000 ≤ s.us) (ejecting : s.loader.ejecting = true) :
    ∃ t : State, exec .spindleStopped s = .next t ∧ t.spindle.st = .stopped ∧ t.spindle.restart = false ∧
      t.loader.ejecting = false ∧ t.loader.drive = (if s.loader.prof.solenoid then .pulse s.us else .opening s.us) ∧
      t.out = (standing s).out ++
        [if s.loader.prof.solenoid then .solenoid true else .tray true s.loader.prof.duty s.loader.prof.ilim] := by
  obtain ⟨spindle, shut, drive, out⟩ := openTray_drives { standing s with spindle := { (standing s).spindle with restart := false } }
  refine ⟨_, ?_, ?_, ?_, shut, drive, out⟩
  · rw [exec_spindleStopped_late free late, if_pos ejecting]
  · rw [spindle]
    rfl
  · rw [spindle]

end

theorem exec_spindleStopped_none {s : State} (bar : s.spindle.st ≠ .shorted ∧ s.spindle.st ≠ .coasting) :
    exec .spindleStopped s = .next s := by
  show execSpindleStopped s = _
  cases st : s.spindle.st with
  | shorted => exact absurd st bar.1
  | coasting => exact absurd st bar.2
  | _ => simp [execSpindleStopped, st]

/-! ### Microstep tables and phase currents (R195 to R197, Table 7.3) -/

/-- The table in use once the one that waits, if any, is taken. -/
def takenTable (v : Sled) : TableRef := (v.shadow.map fun x => x.1).getD v.table

theorem takenTable_none {v : Sled} (free : v.shadow = none) : takenTable v = v.table := by simp [takenTable, free]

theorem takenTable_some {v : Sled} {x : TableRef} {k : Option Nat} (shadow : v.shadow = some (x, k)) : takenTable v = x := by
  simp [takenTable, shadow]

/-- From s to t the table that waited, if any, has come into use, and its profile has completed (R197). -/
structure TableTaken (s t : State) : Prop where
  rest : t = { s with
    sled := { s.sled with table := takenTable s.sled, shadow := none }
    folds := t.folds
    pool := t.pool
    cph := t.cph }
  done : ∀ (x : TableRef) (k : Nat) (d : Desc), s.sled.shadow = some (x, some k) → s.desc? 0 k = some d →
    t.desc? 0 k = some { d with stage := .done, status := .ok, bytes := d.fld.length, aside := [], want := 0 }

theorem takeTable_none {s : State} (free : s.sled.shadow = none) : takeTable s = s := by
  simp only [takeTable, free]

/-- A table that waits comes into use; at most a profile's descriptor ends besides. -/
theorem takeTable_waiting {s u : State} {x : TableRef} {k : Option Nat} (shadow : s.sled.shadow = some (x, k))
    (used : u = { s with sled := { s.sled with table := x, shadow := none } }) :
    takeTable s = u ∨ ∃ (j n : Nat), EndsAs u (takeTable s) 0 j .ok n := by
  subst used
  simp only [takeTable, shadow]
  split
  · exact .inr ⟨_, _, finish_endsAs _ 0 _ .ok _⟩
  · exact .inl rfl

theorem takeTable_takes (s : State) : TableTaken s (takeTable s) := by
  refine ⟨?_, fun x k d shadow found => ?_⟩
  · cases shadow : s.sled.shadow with
    | none =>
      rw [takeTable_none shadow, takenTable_none shadow, ← shadow]
    | some waiting =>
      rw [takenTable_some shadow]
      rcases takeTable_waiting (k := waiting.2) shadow rfl with same | ⟨j, n, ends⟩
      · rw [same]
      · rw [ends.rest]
  · rw [takeTable_held shadow found]
    exact (finish_endsAs _ 0 k .ok d.fld.length).ended d found

theorem drivePhases_sled (s : State) (mA : Nat) : (drivePhases s mA).sled = { s.sled with
    ia := (drivePhases s mA).sled.ia
    ib := (drivePhases s mA).sled.ib } := rfl

/-- From s to t an update has moved the sled to a position, with the table that waited taken at a new full step (R196, R197). -/
structure MovedTo (s t : State) (p : Int) : Prop where
  us : t.us = s.us
  sled : t.sled = { s.sled with
    pos := p
    table := t.sled.table
    shadow := t.sled.shadow
    ia := (phaseCurrents (tableOf t.sled.table) s.sled.inUse.sledI p).1
    ib := (phaseCurrents (tableOf t.sled.table) s.sled.inUse.sledI p).2 }
  kept : fullStep p = fullStep s.sled.pos ∨ s.sled.shadow = none → t.sled.table = s.sled.table ∧ t.sled.shadow = s.sled.shadow
  taken : ∀ (x : TableRef) (k : Option Nat), fullStep p ≠ fullStep s.sled.pos → s.sled.shadow = some (x, k) →
    t.sled.table = x ∧ t.sled.shadow = none

theorem moveTo_moves (s : State) (p : Int) : MovedTo s (moveTo s p) p := by
  by_cases same : fullStep p = fullStep s.sled.pos
  · have run : moveTo s p = drivePhases { s with sled := { s.sled with pos := p } } s.sled.inUse.sledI := by
      simp only [moveTo, same, bne_self_eq_false, Bool.false_eq_true, if_false]
    rw [run]
    exact ⟨rfl, rfl, fun _ => ⟨rfl, rfl⟩, fun _ _ other => absurd same other⟩
  · have run : moveTo s p = drivePhases { takeTable s with sled := { (takeTable s).sled with pos := p } } s.sled.inUse.sledI := by
      simp only [moveTo, bne_iff_ne.mpr same, if_true]
    have taken := (takeTable_takes s).rest
    rw [run, taken]
    refine ⟨rfl, rfl, fun bar => ?_, fun x k _ shadow => ⟨takenTable_some shadow, rfl⟩⟩
    have free := bar.resolve_left same
    exact ⟨takenTable_none free, free.symm⟩

/-! ### Updates of the sled (R196, R199) -/

/-- From s to t an update has put the sled at a position, its move going on as m, or over (R196, R197, R200). -/
structure SledMoved (s t : State) (p : Int) (m : SledMove) : Prop where
  pos : t.sled.pos = p
  move : t.sled.move = m
  currents : (t.sled.ia, t.sled.ib) = phaseCurrents (tableOf t.sled.table) s.sled.inUse.sledI p
  kept : fullStep p = fullStep s.sled.pos ∨ s.sled.shadow = none → t.sled.table = s.sled.table ∧ t.sled.shadow = s.sled.shadow
  taken : ∀ (x : TableRef) (k : Option Nat), fullStep p ≠ fullStep s.sled.pos → s.sled.shadow = some (x, k) → t.sled.table = x ∧
    t.sled.shadow = none
  rests : m = .rest → t.sled.restAt = s.us ∧ t.sled.settling = s.sled.seek.isSome

section
variable {s t : State} {p : Int} {n : SledMove} (moved : MovedTo { s with sled := { s.sled with move := n } } t p)
include moved

/-- A move that goes on, or turns. -/
theorem MovedTo.goes_on {u : State} {m : SledMove} (sled : u.sled = { t.sled with move := m }) (goes : m ≠ .rest) :
    SledMoved s u p m := by
  rw [moved.sled] at sled
  refine ⟨?_, ?_, ?_, fun bar => ?_, fun x k new shadow => ?_, fun rests => absurd rests goes⟩
  · rw [sled]
  · rw [sled]
  · rw [sled]
  · rw [sled]
    exact moved.kept bar
  · rw [sled]
    exact moved.taken x k new shadow

/-- A move that is over: a seek begins to settle. -/
theorem MovedTo.is_over (steps : Int) : SledMoved s (sledRests t steps) p .rest := by
  refine ⟨?_, rfl, ?_, moved.kept, moved.taken, fun _ => ⟨moved.us, ?_⟩⟩
  · show t.sled.pos = p
    rw [moved.sled]
  · show (t.sled.ia, t.sled.ib) = _
    rw [moved.sled]
    rfl
  · show t.sled.seek.isSome = _
    rw [moved.sled]

end

/-- An update that leaves its move as it is. -/
theorem sledMoved_moveTo (s : State) (p : Int) {m : SledMove} (goes : m ≠ .rest) :
    SledMoved s (moveTo { s with sled := { s.sled with move := m } } p) p m := by
  have moved := moveTo_moves { s with sled := { s.sled with move := m } } p
  refine moved.goes_on ?_ goes
  rw [moved.sled]

theorem exec_sledUpdate_none {s : State} (bar : linksUp s = false ∨ s.pwr.tbLock = false) : exec .sledUpdate s = .next s := by
  show execSledUpdate s = _
  rcases bar with down | unlocked
  · simp [execSledUpdate, down]
  · simp [execSledUpdate, unlocked]

section
variable {s : State} (up : linksUp s = true) (tb : s.pwr.tbLock = true)
include up tb

theorem exec_sledUpdate_rest (move : s.sled.move = .rest) : exec .sledUpdate s = .next (
    if (takeTable s).sled.lost then takeTable s else drivePhases (takeTable s) (takeTable s).sled.inUse.holdI) := by
  show execSledUpdate s = _
  simp [execSledUpdate, up, tb, move]

/-- At rest the sled keeps its place, takes the table that waits, and is held at HOLD_I unless it is lost (R195, R197). -/
theorem sledUpdate_rest (move : s.sled.move = .rest) : ∃ t : State, exec .sledUpdate s = .next t ∧
    t.sled.move = .rest ∧ t.sled.pos = s.sled.pos ∧ t.sled.shadow = none ∧ t.sled.table = takenTable s.sled ∧
    (s.sled.lost = false → (t.sled.ia, t.sled.ib) = phaseCurrents (tableOf t.sled.table) s.sled.inUse.holdI s.sled.pos) ∧
    (s.sled.lost = true → t.sled.ia = s.sled.ia ∧ t.sled.ib = s.sled.ib) ∧
    ∀ (x : TableRef) (k : Nat) (d : Desc), s.sled.shadow = some (x, some k) → s.desc? 0 k = some d →
      t.desc? 0 k = some { d with stage := .done, status := .ok, bytes := d.fld.length, aside := [], want := 0 } := by
  refine ⟨_, exec_sledUpdate_rest up tb move, ?_⟩
  obtain ⟨rest, done⟩ := takeTable_takes s
  generalize takeTable s = t at rest done
  have sled : t.sled = { s.sled with table := takenTable s.sled, shadow := none } := by rw [rest]
  have stands : t.sled.move = .rest := by rw [sled]; exact move
  have pos : t.sled.pos = s.sled.pos := by rw [sled]
  have table : t.sled.table = takenTable s.sled := by rw [sled]
  have free : t.sled.shadow = none := by rw [sled]
  have lost : t.sled.lost = s.sled.lost := by rw [sled]
  have inUse : t.sled.inUse = s.sled.inUse := by rw [sled]
  cases known : s.sled.lost with
  | true =>
    rw [if_pos (lost.trans known)]
    refine ⟨stands, pos, free, table, fun found => Bool.noConfusion found, fun _ => ?_, done⟩
    rw [sled]
    exact ⟨rfl, rfl⟩
  | false =>
    rw [if_neg (by simp [lost, known])]
    refine ⟨stands, pos, free, table, fun _ => ?_, fun found => Bool.noConfusion found, done⟩
    show phaseCurrents (tableOf t.sled.table) t.sled.inUse.holdI t.sled.pos = phaseCurrents (tableOf t.sled.table) _ _
    rw [pos, inUse]

theorem exec_sledUpdate_move {a z p : Int} {u x : Nat} (move : s.sled.move = .move a z u)
    (covered : x = profileAt s.sled.inUse ((z - a).natAbs / 16777216) (u + 1)) (there : p = if a ≤ z then a + x else a - x) :
    exec .sledUpdate s = .next (
      if (z - a).natAbs ≤ x then
        sledRests (moveTo { s with sled := { s.sled with move := .move a z (u + 1) } } p) ((z - a) / 16777216)
      else moveTo { s with sled := { s.sled with move := .move a z (u + 1) } } p) := by
  subst covered there
  show execSledUpdate s = _
  simp [execSledUpdate, up, tb, move]

/-- A move is where its profile is by this update, and rests once all its way is covered (R196, R198). -/
theorem sledUpdate_move {a z p : Int} {u x : Nat} {m : SledMove} (move : s.sled.move = .move a z u)
    (covered : x = profileAt s.sled.inUse ((z - a).natAbs / 16777216) (u + 1)) (there : p = if a ≤ z then a + x else a - x)
    (then_ : m = if (z - a).natAbs ≤ x then .rest else .move a z (u + 1)) :
    ∃ t : State, exec .sledUpdate s = .next t ∧ SledMoved s t p m := by
  refine ⟨_, exec_sledUpdate_move up tb move covered there, ?_⟩
  by_cases all : (z - a).natAbs ≤ x
  · rw [if_pos all] at then_ ⊢
    exact then_ ▸ (moveTo_moves _ p).is_over _
  · rw [if_neg all] at then_ ⊢
    exact then_ ▸ sledMoved_moveTo s p (by simp [then_])

theorem exec_sledUpdate_homeOut {n y : Nat} (move : s.sled.move = .homeOut n) (step : y = s.sled.inUse.homeV * 16777216 / 40000)
    {t : State} (moved : moveTo { s with sled := { s.sled with move := .homeOut (n + y) } } (s.sled.pos + y) = t) :
    exec .sledUpdate s = .next (if 50 * 16777216 ≤ n + y then { t with sled := { t.sled with move := .homeIn 0 } } else t) := by
  subst step moved
  show execSledUpdate s = _
  simp only [execSledUpdate, up, tb, move, updateStep, Bool.not_true, Bool.or_self, Bool.false_eq_true, if_false]
  rfl

/-- Outward, homing turns inward once it has made 50 full steps (R203; log entry 57). -/
theorem sledUpdate_homeOut {n y : Nat} {m : SledMove} (move : s.sled.move = .homeOut n)
    (step : y = s.sled.inUse.homeV * 16777216 / 40000)
    (then_ : m = if 50 * 16777216 ≤ n + y then .homeIn 0 else .homeOut (n + y)) :
    ∃ t : State, exec .sledUpdate s = .next t ∧ SledMoved s t (s.sled.pos + y) m := by
  refine ⟨_, exec_sledUpdate_homeOut up tb move step rfl, ?_⟩
  by_cases far : 50 * 16777216 ≤ n + y
  · rw [if_pos far] at then_ ⊢
    exact then_ ▸ (moveTo_moves _ _).goes_on rfl (by simp [then_])
  · rw [if_neg far] at then_ ⊢
    exact then_ ▸ sledMoved_moveTo s _ (by simp [then_])

/-- Inward, homing goes on within HOME_MAX steps (R203). -/
theorem sledUpdate_homeIn {n y : Nat} (move : s.sled.move = .homeIn n) (away : s.sled.home = false)
    (within : n < s.sled.inUse.homeMax * 16777216) (step : y = s.sled.inUse.homeV * 16777216 / 40000) :
    ∃ t : State, exec .sledUpdate s = .next t ∧ SledMoved s t (s.sled.pos - y) (.homeIn (n + y)) := by
  subst step
  refine ⟨_, ?_, sledMoved_moveTo s _ (by simp)⟩
  show execSledUpdate s = _
  simp [execSledUpdate, up, tb, move, away, Nat.not_le.mpr within, updateStep]

/-- The sled follows the SLED output while tracking is closed (R199). -/
theorem sledUpdate_follow {p : Int} (move : s.sled.move = .follow) (there : p = s.sled.pos + (if (s.servo.loops.get 1).closed then
      roundDiv (s.pwr.links.cmd.sled * s.sled.inUse.followV * 8) 40000 else 0)) :
    ∃ t : State, exec .sledUpdate s = .next t ∧ SledMoved s t p .follow := by
  subst there
  refine ⟨_, ?_, sledMoved_moveTo s _ (by simp)⟩
  show execSledUpdate s = _
  simp only [execSledUpdate, up, tb, move]
  rw [← move]
  rfl

theorem exec_sledUpdate_homeFail {n : Nat} (move : s.sled.move = .homeIn n) (away : s.sled.home = false)
    (spent : s.sled.inUse.homeMax * 16777216 ≤ n) : exec .sledUpdate s = .next (motionFault s 5 0) := by
  show execSledUpdate s = _
  simp [execSledUpdate, up, tb, move, away, spent]

theorem exec_sledUpdate_homed {n : Nat} (move : s.sled.move = .homeIn n) (reached : s.sled.home = true) :
    exec .sledUpdate s = .next (sledHomed s) := by
  show execSledUpdate s = _
  simp [execSledUpdate, up, tb, move, reached]

end

/-! ### Seeks (R200, Table 7.4) -/

theorem clampN_bounds {lo hi : Nat} (h : lo ≤ hi) (x : Nat) : lo ≤ clampN lo hi x ∧ clampN lo hi x ≤ hi := by
  unfold clampN
  split
  · omega
  · split <;> omega

theorem exec_sledSeek {s : State} {lba : Nat} (may : maySeek s = true) (disc : s.disc.isSome = true) (job : s.job ≠ none) :
    exec (.sledSeek lba) s = .next (seekMove s lba 1) :=
  congrArg Host.Outcome.next (if_pos (by simp [may, disc, Option.isSome_iff_ne_none.mpr job]))

theorem exec_sledSeek_none {s : State} {lba : Nat} (bar : maySeek s = false ∨ s.disc = none ∨ s.job = none) :
    exec (.sledSeek lba) s = .next s := by
  refine congrArg Host.Outcome.next (if_neg ?_)
  rcases bar with barred | none_ | none_
  · simp [barred]
  · simp [none_]
  · simp [none_]

/-- The state in which a seek's move by n full steps begins: TRACK and SLED are open, and nothing is read (R200, R234). -/
def seekBegun (s : State) (lba moves : Nat) (n : Int) : State := { s with
  servo := { s.servo with
    loops := (setLoop (setLoop s 1 false true) 5 false false).servo.loops
    locked := false
    trackOnAt := none
    jump := none
    seq := { s.servo.seq with phase := .idle } }
  chan := { idleChannel s.chan with accepted := false, flywheel := none, far := none, pinned := s.chan.pinned }
  sled := { s.sled with
    inUse := s.sled.prof
    seek := some (lba, moves)
    settling := false
    move := .move s.sled.pos (s.sled.pos + n * 16777216) 0 } }

/-- What a seek's move opens and forgets (R200, R234). -/
theorem seekBegun_opens (s : State) (lba moves : Nat) (n : Int) : (seekBegun s lba moves n).servo.loops.get 1 =
      { s.servo.loops.get 1 with closed := false, held := true, next := none } ∧
    ((seekBegun s lba moves n).servo.loops.get 5).closed = false := by
  obtain ⟨track, sled, -⟩ := setLoop_two s (a := 1) (b := 5) (by decide) false true false false
  exact ⟨track, congrArg Loop.closed sled⟩

theorem seekMove_eq {s : State} {lba moves r : Nat} {d : DiscInfo} {n : Int} (disc : s.disc = some d) (radius : s.sled.radius = some r)
    (steps : n = roundDiv ((radiusOf d lba : Int) - r) (max 1 s.sled.prof.pitch)) : seekMove s lba moves =
      if n = 0 then sledRests (seekBegun s lba moves n) 0 else seekBegun s lba moves n := by
  subst steps
  simp only [seekMove, disc, radius]
  rfl

/-- A seek's first move, by whole full steps; where it needs none it settles at once. -/
theorem sledSeek_begins {s : State} {lba r : Nat} {d : DiscInfo} {n : Int} (may : maySeek s = true) (disc : s.disc = some d)
    (job : s.job ≠ none) (radius : s.sled.radius = some r)
    (steps : n = roundDiv ((radiusOf d lba : Int) - r) (max 1 s.sled.prof.pitch)) :
    ∃ t : State, exec (.sledSeek lba) s = .next t ∧ t.sled.seek = some (lba, 1) ∧ t.servo.locked = false ∧ t.chan.accepted = false ∧
      t.servo.loops.get 1 = { s.servo.loops.get 1 with closed := false, held := true, next := none } ∧
      (t.servo.loops.get 5).closed = false ∧ t.sled.inUse = s.sled.prof ∧ t.chan.acq = .off ∧ t.chan.flywheel = none ∧
      (n ≠ 0 → t.sled.move = .move s.sled.pos (s.sled.pos + n * 16777216) 0 ∧ t.sled.settling = false) ∧
      (n = 0 → t.sled.move = .rest ∧ t.sled.settling = true) := by
  refine ⟨_, (exec_sledSeek may (by simp [disc]) job).trans (congrArg _ (seekMove_eq disc radius steps)), ?_⟩
  obtain ⟨track, sled⟩ := seekBegun_opens s lba 1 n
  by_cases here : n = 0
  · rw [if_pos here]
    exact ⟨rfl, rfl, rfl, track, sled, rfl, rfl, rfl, fun away => absurd here away, fun _ => ⟨rfl, rfl⟩⟩
  · rw [if_neg here]
    exact ⟨rfl, rfl, rfl, track, sled, rfl, rfl, rfl, fun _ => ⟨rfl, rfl⟩, fun same => absurd same here⟩

theorem exec_seekSettleEnd {s : State} (settles : s.sled.settling = true) (late : s.sled.restAt + s.sled.inUse.seekSettle ≤ s.us) :
    exec .seekSettleEnd s = .next (beginTrackOn { s with sled := { s.sled with settling := false } } 0) :=
  congrArg Host.Outcome.next (if_pos (by simp [settles, late]))

theorem exec_seekSettleEnd_none {s : State} (bar : s.sled.settling = false ∨ s.us < s.sled.restAt + s.sled.inUse.seekSettle) :
    exec .seekSettleEnd s = .next s := by
  refine congrArg Host.Outcome.next (if_neg ?_)
  rcases bar with over_ | early
  · simp [over_]
  · simp [early]

/-! ### Homing and recovery (R201 to R203) -/

theorem sledFree_iff (s : State) : sledFree s = true ↔ s.sled.move = .rest ∨ s.sled.move = .follow := by
  cases move : s.sled.move <;> simp [sledFree, move]

/-- Homing opens TRACK and SLED, and goes outward first where the switch is closed (R203). -/
theorem beginHoming_eq (s : State) : beginHoming s = { s with
      servo := { s.servo with loops := (beginHoming s).servo.loops, locked := false, trackOnAt := none, jump := none }
      sled := { s.sled with
        inUse := s.sled.prof
        seek := none
        settling := false
        move := if s.sled.home then .homeOut 0 else .homeIn 0 } } ∧
    ((beginHoming s).servo.loops.get 1).closed = false ∧ ((beginHoming s).servo.loops.get 5).closed = false := by
  obtain ⟨track, sled, -⟩ := setLoop_two s (a := 1) (b := 5) (by decide) false false false false
  exact ⟨rfl, congrArg Loop.closed track, congrArg Loop.closed sled⟩

theorem exec_sledHome {s : State} (allowed : motorsAllowed s = true) (free : sledFree s = true) :
    exec .sledHome s = .next (beginHoming s) := congrArg Host.Outcome.next (if_pos (by simp [allowed, free]))

theorem exec_sledHome_none {s : State} (bar : motorsAllowed s = false ∨ sledFree s = false) : exec .sledHome s = .next s := by
  refine congrArg Host.Outcome.next (if_neg ?_)
  rcases bar with off | busy
  · simp [off]
  · simp [busy]

theorem sledFound_lost {s : State} (lost : s.sled.lost = true) (radius how : Nat) : sledFound s radius how =
    postEvent { s with sled := { s.sled with lost := false, radius := some radius } } 0 0x0762 (w32 (2 * how)) := if_pos lost

theorem sledFound_known {s : State} (known : s.sled.lost = false) (radius how : Nat) : sledFound s radius how =
    { s with sled := { s.sled with lost := false, radius := some radius } } := if_neg (by simp [known])

section
variable {s : State}

/-- An address of an identified disc, read where the sled stands, says where it is (R202). -/
theorem exec_sledRecover_address {a : Nat} {d : DiscInfo} (lost : s.sled.lost = true) (allowed : motorsAllowed s = true)
    (disc : s.disc = some d) (reads : readsHere s = true) : exec (.sledRecover (some a)) s =
      .next (postEvent { s with sled := { s.sled with lost := false, radius := some (radiusOf d a) } } 0 0x0762 2) := by
  show execSledRecover (some a) s = _
  simp only [execSledRecover, lost, allowed, disc, reads, sledFound_lost lost]
  rfl

/-- Without one the sled homes (R202). -/
theorem exec_sledRecover_homes {a : Option Nat} (lost : s.sled.lost = true) (allowed : motorsAllowed s = true)
    (unknown : a = none ∨ s.disc = none ∨ readsHere s = false) : exec (.sledRecover a) s =
      .next (if sledFree s then beginHoming s else s) := by
  show execSledRecover a s = _
  rcases unknown with rfl | none_ | away
  · simp [execSledRecover, lost, allowed]
  · simp [execSledRecover, lost, allowed, none_]
  · simp [execSledRecover, lost, allowed, away]

theorem exec_sledRecover_none (a : Option Nat) (bar : s.sled.lost = false ∨ motorsAllowed s = false) :
    exec (.sledRecover a) s = .next s := by
  refine congrArg Host.Outcome.next (if_pos ?_)
  rcases bar with known | off
  · simp [known]
  · simp [off]

theorem exec_homeNChange_leaves {n : Nat} (move : s.sled.move = .homeOut n) : exec (.homeNChange false) s =
    .next { s with sled := { s.sled with home := false, move := .homeIn 0 } } := by
  show execHomeNChange false s = _
  simp [execHomeNChange, move]

theorem exec_homeNChange_reaches {n : Nat} (move : s.sled.move = .homeIn n) : exec (.homeNChange true) s =
    .next (sledHomed { s with sled := { s.sled with home := true } }) := by
  show execHomeNChange true s = _
  simp [execHomeNChange, move]

/-- Outside homing the switch is only noted. -/
theorem exec_homeNChange_noted (b : Bool) (move : s.sled.move = .rest ∨ s.sled.move = .follow ∨ ∃ a z u, s.sled.move = .move a z u) :
    exec (.homeNChange b) s = .next { s with sled := { s.sled with home := b } } := by
  show execHomeNChange b s = _
  rcases move with move | move | ⟨a, z, u, move⟩ <;> simp [execHomeNChange, move]

theorem sledFound_sled (s : State) (radius how : Nat) :
    (sledFound s radius how).sled = { s.sled with lost := false, radius := some radius } := by
  cases lost : s.sled.lost with
  | true =>
    rw [sledFound_lost lost]
    exact (beside_postEvent beside_rfl).sled_eq
  | false => rw [sledFound_known lost]

/-- Homing ends where the switch closed: the sled rests there at HOLD_I and its place is known; it was lost no longer (R202, R203). -/
theorem sledHomed_rests (s : State) {v : State}
    (home : v = { s with sled := { s.sled with move := .rest, restAt := s.us, lost := false, radius := some s.sled.inUse.homePos } }) :
    (sledHomed s).sled = { v.sled with ia := (sledHomed s).sled.ia, ib := (sledHomed s).sled.ib } ∧
    ((sledHomed s).sled.ia, (sledHomed s).sled.ib) = phaseCurrents (tableOf s.sled.table) s.sled.inUse.holdI s.sled.pos ∧
    (sledHomed s).folds = if s.sled.lost then (postEvent v 0 0x0762 4).folds else s.folds := by
  subst home
  have place := sledFound_sled { s with sled := { s.sled with move := .rest, restAt := s.us } } s.sled.inUse.homePos 2
  refine ⟨?_, ?_, ?_⟩
  · refine (drivePhases_sled _ _).trans ?_
    rw [place]
    rfl
  · show phaseCurrents (tableOf (sledFound _ _ _).sled.table) _ (sledFound _ _ _).sled.pos = _
    rw [place]
  · show (sledFound _ _ _).folds = _
    cases lost : s.sled.lost with
    | true =>
      rw [sledFound_lost (by exact lost), if_pos rfl]
      rfl
    | false =>
      rw [sledFound_known (by exact lost), if_neg Bool.false_ne_true]

end

/-- Settles O49, clause by clause: the equations of the rows of the ceiling, the stop and the sled, and what an update, a seek and homing
do to the sled. -/
theorem spindleStopsAndTheSledMoves : Obligations.SpindleStopsAndTheSledMoves := by
  refine ⟨fun s => exec_spinCeilingSet, fun s => exec_spinCeilingSet_none, fun s => exec_spinCeilingClear,
    fun s => exec_spinCeilingClear_none, fun s => ⟨countLimit_between, countLimit_short, countLimit_clear⟩, ?_, ?_,
    fun s => exec_sledUpdate_none, ?_, ?_, fun s n up tb => exec_sledUpdate_homeFail up tb, fun d a => clampN_bounds (by decide) _,
    fun s lba r d n => sledSeek_begins, fun s lba => exec_sledSeek_none, ?_, fun s => exec_seekSettleEnd_none,
    fun s a d => exec_sledRecover_address, ?_, fun s a => exec_sledRecover_none a, fun s => exec_sledHome, fun s => exec_sledHome_none,
    sledFree_iff, beginHoming_eq, fun s n => exec_homeNChange_leaves, ?_, fun s b => exec_homeNChange_noted b⟩
  · rintro s from_ free
    refine ⟨exec_spindleStopped_early free, ?_⟩
    rintro late _ rfl
    exact ⟨exec_spindleStopped_stands free late, spindleStopped_starts free late, spindleStopped_opens free late⟩
  · exact fun s => exec_spindleStopped_none
  · intro s up tb move
    obtain ⟨t, run, stands, pos, free, table, rest⟩ := sledUpdate_rest up tb move
    refine ⟨t, run, stands, pos, free, table.trans ?_, rest⟩
    split
    · next shadow => exact takenTable_some shadow
    · next free => exact takenTable_none free
  · intro s p m up tb which
    have moves : ∃ t : State, exec .sledUpdate s = .next t ∧ SledMoved s t p m := by
      rcases which with ⟨a, z, u, x, move, covered, there, then_⟩ | ⟨n, y, move, step, rfl, then_⟩ |
        ⟨n, y, move, away, within, step, rfl, rfl⟩ | ⟨move, rfl, there⟩
      · exact sledUpdate_move up tb move covered there then_
      · exact sledUpdate_homeOut up tb move step then_
      · exact sledUpdate_homeIn up tb move away within step
      · exact sledUpdate_follow up tb move there
    obtain ⟨t, run, moved⟩ := moves
    exact ⟨t, run, moved.pos, moved.move, moved.currents, moved.kept, moved.taken, moved.rests⟩
  · exact fun s settles late => ⟨_, exec_seekSettleEnd settles late, rfl, rfl, rfl, rfl, congrArg Loop.closed (beginTrackOn_loops _ 0).1⟩
  · intro s a lost allowed unknown
    rw [exec_sledRecover_homes lost allowed unknown]
    exact ⟨fun free => by rw [if_pos free], fun busy => by rw [if_neg (by simp [busy])]⟩
  · rintro s n c _ move (rfl | ⟨rfl, up, tb, home⟩) rfl
    · exact ⟨_, exec_homeNChange_reaches move, sledHomed_rests { s with sled := { s.sled with home := true } } rfl⟩
    · exact ⟨_, exec_sledUpdate_homed up tb move home, sledHomed_rests s (by simp only [home])⟩

end Sys2Proof.Machine
end

section
/-! CHANNEL, SECOND_LOOK, WSTRAT, LDS and CAPTURE profiles: taken whole or refused (R235, R241, R244, R245, R260, R261, Tables 8.6, 9.2
and 9.6). -/
namespace Sys2Proof.Machine

/-! ### Profiles of a medium (Table 8.6) -/

/-- The medium that a profile names. -/
theorem medium_named {i : Fin 4} {n : Nat} (h : i.val = n) : (⟨n % 4, Nat.mod_lt _ (by decide)⟩ : Fin 4) = i :=
  Fin.ext (by simp only [← h]; omega)

/-- The medium that a profile names, as the index of its slot. -/
theorem set_medium {α : Type} (v : Vector α 4) {i : Fin 4} {n : Nat} (h : i.val = n) (x : α) :
    v.set (n % 4) x (Nat.mod_lt _ (by decide)) = v.set i x := by
  subst h
  simp only [Nat.mod_eq_of_lt i.isLt]

section
variable {s : State} {k : Nat} {r : List Byte} {i : Fin 4}

theorem channel_taken (medium : i.val = byteAt (fit 64 r) 0) : ProfileTaken (.channel k r) s k 0x30 (channelOk (fit 64 r) = true)
    { s with chan := { s.chan with prof := s.chan.prof.set i (channelAt (fit 64 r)) } } := by
  have h := profileRun_taken (c := .channel k r) (s := s) (k := k) (good := channelOk (fit 64 r) = true) rfl Iff.rfl
  simpa only [set_medium _ medium] using h

theorem secondLook_taken (medium : i.val = byteAt (fit 16 r) 0) : ProfileTaken (.secondLook k r) s k 0x31
    (byteAt (fit 16 r) 1 ≤ 2 ∧ byteAt (fit 16 r) 2 ≤ 7 ∧ tapsOk (tapsAt (fit 16 r) 3) = true ∧ zeroBytes (fit 16 r) 8 15 = true)
    { s with chan := { s.chan with look := s.chan.look.set i {
      passes := byteAt (fit 16 r) 1, pin := BitVec.ofNat 3 (byteAt (fit 16 r) 2), target2 := tapsAt (fit 16 r) 3 } } } := by
  have named : byteAt (fit 16 r) 0 ≤ 3 := by omega
  have h := profileRun_taken (c := .secondLook k r) (s := s) (k := k) (good := byteAt (fit 16 r) 1 ≤ 2 ∧ byteAt (fit 16 r) 2 ≤ 7 ∧
    tapsOk (tapsAt (fit 16 r) 3) = true ∧ zeroBytes (fit 16 r) 8 15 = true) rfl (by simp [named, and_assoc])
  simpa only [set_medium _ medium] using h

theorem channelDefault_taken (medium : i.val = byteAt (fit 16 r) 0) :
    ProfileTaken (.channelDefault k r) s k 0x32 (zeroBytes (fit 16 r) 1 15 = true)
      { s with chan := { s.chan with
        prof := s.chan.prof.set i (({} : Channel).prof.get i), look := s.chan.look.set i (({} : Channel).look.get i) } } := by
  have named : byteAt (fit 16 r) 0 ≤ 3 := by omega
  have h := profileRun_taken (c := .channelDefault k r) (s := s) (k := k) (good := zeroBytes (fit 16 r) 1 15 = true) rfl
    (by simp [named])
  simpa only [set_medium _ medium, medium_named medium] using h

end

/-- The three rows that name a MEDIUM of Table 8.6, each with its profile type and the length of its payload. -/
inductive MediumRow (k : Nat) (r : List Byte) : Instr → Nat → Nat → Prop
  | channel : MediumRow k r (.channel k r) 0x30 64
  | secondLook : MediumRow k r (.secondLook k r) 0x31 16
  | channelDefault : MediumRow k r (.channelDefault k r) 0x32 16

/-- A MEDIUM beyond those of Table 8.6 is BAD_FIELD in each (R235). -/
theorem MediumRow.outside {s : State} {c : Instr} {k ty len : Nat} {d : Desc} {r : List Byte} (row : MediumRow k r c ty len)
    (running : runningAs s 0 k .profileLoad = some d) (type : bits d.fld.opfield 7 0 = ty) (outside : 3 < byteAt (fit len r) 0) :
    exec c s = .next (finish s 0 k .badField 0) := by
  have unnamed : decide (byteAt (fit len r) 0 ≤ 3) = false := decide_eq_false (by omega)
  cases row with
  | channel => exact congrArg _ (profileRun_bad running type (by simp only [channelOk, unnamed, Bool.false_and]))
  | secondLook => exact congrArg _ (profileRun_bad running type (by simp only [unnamed, Bool.false_and]))
  | channelDefault => exact congrArg _ (profileRun_bad running type (by simp only [unnamed, Bool.false_and]))

/-- What CHANNEL asks of its MEDIUM, its TARGET, which is 0 on CD alone, and its ACQ_LEAD (R235). -/
theorem channelOk_ranges {q : List Byte} (ok : channelOk q = true) : byteAt q 0 ≤ 3 ∧ ((∀ x ∈ tapsAt q 1, x = 0) ↔ byteAt q 0 = 0) ∧
    (∀ x ∈ tapsAt q 1, -15 ≤ x ∧ x ≤ 15) ∧ (le16 q 0x2E = 0 ∧ 2 ≤ byteAt q 0 ∨ 1024 ≤ le16 q 0x2E ∧ le16 q 0x2E ≤ 16384) := by
  simp only [channelOk, Bool.and_eq_true, Bool.or_eq_true, decide_eq_true_eq, beq_iff_eq, and_assoc] at ok
  obtain ⟨medium, taps, target, -, -, -, -, -, -, -, -, -, lead, -⟩ := ok
  refine ⟨medium, ?_, by simpa [tapsOk] using taps, by simpa only [inRange_iff] using lead⟩
  by_cases cd : byteAt q 0 = 0
  · rw [if_pos cd] at target
    simpa [cd] using target
  · rw [if_neg cd] at target
    simpa [cd] using target

/-! ### Recording profiles (Tables 9.2, 9.3 and 9.6) -/

theorem recordableCode_iff (m : Nat) : recordableCode m = true ↔ m ∈ [0x02, 0x03, 0x11, 0x12, 0x13, 0x14, 0x21, 0x22] :=
  List.contains_iff_mem

theorem wstrat_taken (s : State) (k : Nat) (r : List Byte) {o : List Strategy}
    (others : o = s.recd.strategies.filter fun x => !sameTable x (wstratAt (fit 1088 r))) :
    ProfileTaken (.wstrat k r) s k 0x40 (wstratOk (fit 1088 r) = true ∧ o.length < 48)
      { s with recd := { s.recd with strategies := o ++ [wstratAt (fit 1088 r)] } } := by
  subst others
  exact profileRun_taken (c := .wstrat k r) rfl (by simp only [Bool.and_eq_true, decide_eq_true_eq])

theorem wstratDefault_taken (s : State) (k : Nat) (r : List Byte) : ProfileTaken (.wstratDefault k r) s k 0x41
    (byteAt (fit 16 r) 0 ∈ [0x02, 0x03, 0x11, 0x12, 0x13, 0x14, 0x21, 0x22] ∧ zeroBytes (fit 16 r) 1 15 = true)
    { s with recd := { s.recd with strategies := s.recd.strategies.filter fun x => x.medium != byteAt (fit 16 r) 0 } } :=
  profileRun_taken (c := .wstratDefault k r) rfl (by rw [← recordableCode_iff, Bool.and_eq_true])

/-- While a recording is under way an LDS waits (R241). -/
theorem exec_lds_recording {s : State} (k : Nat) (r : List Byte) (records : isRecording s = true) : exec (.lds k r) s = .next s :=
  congrArg Host.Outcome.next (if_pos records)

theorem lds_taken {s : State} (k : Nat) (r : List Byte) (free : isRecording s = false) : ProfileTaken (.lds k r) s k 0x42
    ((2 ≤ byteAt (fit 16 r) 0 ∧ byteAt (fit 16 r) 0 ≤ 24) ∧ byteAt (fit 16 r) 1 ≤ 1 ∧
      (25 ≤ byteAt (fit 16 r) 2 ∧ byteAt (fit 16 r) 2 ≤ 100) ∧ zeroBytes (fit 16 r) 3 15 = true)
    { s with recd := { s.recd with lds := {
      div := byteAt (fit 16 r) 0, readback := byteAt (fit 16 r) 1 == 1, vfyLimit := byteAt (fit 16 r) 2 } } } :=
  profileRun_taken (c := .lds k r) (congrArg Host.Outcome.next (if_neg (by simp [free]))) (by simp [and_assoc])

theorem capture_taken (s : State) (k : Nat) (r : List Byte) : ProfileTaken (.capture k r) s k 0x43
    (byteAt (fit 16 r) 0 ≤ 4 ∧ byteAt (fit 16 r) 1 ≤ 3 ∧ (1 ≤ le16 (fit 16 r) 2 ∧ le16 (fit 16 r) 2 ≤ 256) ∧
      zeroBytes (fit 16 r) 4 15 = true)
    { s with cap := { s.cap with
      source := byteAt (fit 16 r) 0, trigger := byteAt (fit 16 r) 1, decimate := le16 (fit 16 r) 2, running := false, first := false } } :=
  profileRun_taken (c := .capture k r) rfl (by simp [and_assoc])

/-! ### The statements -/

/-- Settles O37, clause by clause: one lemma per profile, and what the three that name a medium refuse. -/
theorem channelRecordingAndCaptureProfilesApplyWholeOrAreRefused :
    Obligations.ChannelRecordingAndCaptureProfilesApplyWholeOrAreRefused := by
  refine ⟨?_, fun q => channelOk_ranges, ?_, ?_, ?_, ?_, ?_, fun s => exec_lds_recording, ?_, ?_⟩
  · rintro s k r _ i rfl medium
    exact channel_taken medium
  · rintro s k r _ i rfl medium
    exact secondLook_taken medium
  · rintro s k r _ i rfl medium
    exact channelDefault_taken medium
  · intro s c k ty d r which running type
    have bad : exec c s = .next (finish s 0 k .badField 0) := by
      rcases which with ⟨rfl, rfl, outside⟩ | ⟨rfl, rfl, outside⟩ | ⟨rfl, rfl, outside⟩
      · exact MediumRow.channel.outside running type outside
      · exact MediumRow.secondLook.outside running type outside
      · exact MediumRow.channelDefault.outside running type outside
    exact ⟨_, bad, finish_endsAs s 0 k .badField 0⟩
  · rintro s k r _ o rfl others
    exact wstrat_taken s k r others
  · rintro s k r _ rfl
    exact wstratDefault_taken s k r
  · rintro s k r _ rfl free
    exact lds_taken k r free
  · rintro s k r _ rfl
    exact capture_taken s k r

/-- Settles O56: each profile that is taken completes. -/
theorem channelRecordingAndCaptureProfilesComplete : Obligations.ChannelRecordingAndCaptureProfilesComplete := by
  intro s k d r running
  refine ⟨?_, ?_, ?_, ?_, ?_, ?_, ?_⟩
  · rintro _ i rfl type medium good
    exact (channel_taken medium).completes running type good
  · rintro _ i rfl type medium passes pin taps zero
    exact (secondLook_taken medium).completes running type ⟨passes, pin, taps, zero⟩
  · rintro _ i rfl type medium zero
    exact (channelDefault_taken medium).completes running type zero
  · rintro _ o rfl type good others few
    exact (wstrat_taken s k r others).completes running type ⟨good, few⟩
  · rintro _ rfl type medium zero
    exact (wstratDefault_taken s k r).completes running type ⟨medium, zero⟩
  · rintro _ rfl type free div0 div1 readback limit0 limit1 zero
    exact (lds_taken k r free).completes running type ⟨⟨div0, div1⟩, readback, ⟨limit0, limit1⟩, zero⟩
  · rintro _ rfl type source trigger decimate0 decimate1 zero
    exact (capture_taken s k r).completes running type ⟨source, trigger, ⟨decimate0, decimate1⟩, zero⟩

end Sys2Proof.Machine
end

section
/-! The channel's samples, its lock and its defect flag (R211, R212, R215, R218, R220 to R222, R235). -/
namespace Sys2Proof.Machine

/-! ### One strobe is one channel bit (R211) -/

section
variable (u : ChannelUse) (p : ChannelProf) (mi : Nat) (c : Channel)

@[simp] theorem ringAdd_pos (code : Int) : (ringAdd mi c code).pos = c.pos := rfl

@[simp] theorem prmlBit_pos (held : Bool) (z : Int) : (prmlBit p mi held c z).pos = c.pos := by
  cases held <;> rfl

@[simp] theorem sliceBit_pos (tracking : Bool) (z : Int) : (sliceBit p tracking c z).pos = c.pos := by
  cases tracking <;> rfl

@[simp] theorem approach_pos (first ahead : Nat) : (approach u c first ahead).pos = c.pos := by
  unfold approach
  split
  · rfl
  · dsimp only
    split <;> split <;> rfl

@[simp] theorem detectBit_pos (code : Int) : (detectBit p mi c code).pos = c.pos := by
  unfold detectBit
  dsimp only
  split
  · exact prmlBit_pos ..
  · exact sliceBit_pos ..

@[simp] theorem modMeter_pos (g : UnitMeter → UnitMeter) : (modMeter mi g c).pos = c.pos := by
  unfold modMeter
  split <;> rfl

@[simp] theorem meterBit_pos : (meterBit mi c).pos = c.pos := by
  unfold meterBit
  extract_lets level z y
  split
  · exact modMeter_pos ..
  · rfl

@[simp] theorem syncStep_pos (found : Bool) : (syncStep p mi c found).pos = c.pos := by
  unfold syncStep
  split
  · rfl
  · split
    · rfl
    · split
      · split <;> rfl
      · rfl

@[simp] theorem strobe_pos (x : RfSample) : (strobe u c x).pos = c.pos + 1 := by
  cases ahead : x.ahead <;> simp [strobe, ahead, apply_ite Channel.pos]

theorem foldl_strobe_pos : ∀ (l : List RfSample) (c : Channel), (l.foldl (strobe u) c).pos = c.pos + l.length
  | [], _ => rfl
  | x :: l, c => by
    rw [List.foldl_cons, foldl_strobe_pos l, strobe_pos, List.length_cons]
    omega

end

theorem channelRun_no_disc {s : State} (disc : s.disc = none) (rf : List RfSample) : channelRun s rf = s := by
  simp only [channelRun, disc]

theorem channelRun_pos {s : State} (disc : s.disc ≠ none) (rf : List RfSample) :
    (channelRun s rf).chan.pos = s.chan.pos + rf.length := by
  obtain ⟨d, loaded⟩ := Option.ne_none_iff_exists'.mp disc
  simp only [channelRun, loaded, foldl_strobe_pos, List.length_map]

/-- The samples reach the channel, a capture of it, and the words of the sample ring that they fill (R226, R260, R286). -/
theorem channelRun_frame (s : State) (rf : List RfSample) : channelRun s rf =
    { s with chan := (channelRun s rf).chan, cap := (channelRun s rf).cap, ecc := (channelRun s rf).ecc } := by
  unfold channelRun
  split <;> rfl

theorem channelRun_no_samples (s : State) : (channelRun s []).chan = if s.disc = none then s.chan else { s.chan with fresh := [] } := by
  cases disc : s.disc <;> simp [channelRun, disc]

/-! ### Acquisition and tracking (R212, R218, R220) -/

theorem lockChannel_locks {u : State} (reads : reading u = true) (acquires : u.chan.acq = .acquiring) (spaced : u.chan.spaced = true)
    (ahead : u.chan.passed = false) : lockChannel u = { u with
      chan := { u.chan with
        acq := .tracking
        ref := .data
        missed := 0
        relock := none
        front := { u.chan.front with paths := [], sums := {}, run := 3, owed := 0, level := u.chan.front.raw }
        erased := if u.chan.relock = none then u.chan.erased else u.chan.erased ++ [(u.chan.foundAt, u.chan.pos)] } } := by
  cases relock : u.chan.relock <;> simp [lockChannel, reads, acquires, spaced, ahead, relock]

theorem lockChannel_none {u : State} (bar : reading u = false ∨ u.chan.acq ≠ .acquiring ∨ u.chan.spaced = false ∨ u.chan.passed = true) :
    lockChannel u = u := by
  refine if_neg ?_
  rcases bar with bar | bar | bar | bar <;> simp [bar]

/-- Three missed syncs return the channel to acquisition, from the preset taps (R215, R220). -/
theorem unlockChannel_returns {u : State} {d : DiscInfo} (disc : u.disc = some d) (tracks : u.chan.acq = .tracking)
    (missed : 3 ≤ u.chan.missed) : unlockChannel u = { u with chan := { beginAcquisition (channelUse u d) u.chan with
      relock := some u.chan.pos, ref := freeReference u } } := by
  simp only [unlockChannel, disc]
  exact if_pos (by simp [tracks, missed])

theorem unlockChannel_none {u : State} (bar : u.disc = none ∨ u.chan.acq ≠ .tracking ∨ u.chan.missed < 3) : unlockChannel u = u := by
  unfold unlockChannel
  split
  · rfl
  · next d disc =>
    refine if_neg ?_
    rcases bar with bar | bar | bar
    · simp [disc] at bar
    · simp [bar]
    · simp [bar]

/-- What the channel steers by outside the data, on a known disc (R212). -/
theorem freeReference_disc {s : State} {d : DiscInfo} (disc : s.disc = some d) :
    freeReference s = if recordable d.medium then .wobble else .spindle := by
  simp only [freeReference, disc]

theorem exec_lossOfLock_returns {s u : State} {rf : List RfSample} {d : DiscInfo} (run : u = channelRun s rf) (disc : u.disc = some d)
    (tracks : u.chan.acq = .tracking) (missed : 3 ≤ u.chan.missed) :
    ∃ t : State, exec (.lossOfLock rf) s = .next t ∧ t = { u with chan := t.chan } ∧
      t.chan.acq = .acquiring ∧ t.chan.relock = some u.chan.pos ∧ t.chan.inUse = some (u.chan.prof.get (mediumIndex d)) ∧
      t.chan.taps = (u.chan.prof.get (mediumIndex d)).preset ∧ t.chan.missed = 0 ∧
      t.chan.ref = (if recordable d.medium then .wobble else .spindle) := by
  subst run
  exact ⟨_, congrArg Host.Outcome.next (unlockChannel_returns disc tracks missed), rfl, rfl, rfl, rfl, rfl, rfl,
    freeReference_disc disc⟩

section
variable {u : State} {a x : Nat} {d : DiscInfo} (disc : u.disc = some d) (relock : u.chan.relock = some a) (under : u.chan.under = some x)
include disc relock under

/-- Within 2,048 channel bits the channel may still lock (R220). -/
theorem giveUpLock_early (early : u.chan.pos < a + 2048) : giveUpLock u = u := by
  simp only [giveUpLock, relock, disc, under]
  exact if_neg (by simp [early])

/-- After 2,048 channel bits the unit under the spot has lost sync, and from the last sync to its end it is erased (R220). -/
theorem giveUpLock_late (acquires : u.chan.acq = .acquiring) (late : a + 2048 ≤ u.chan.pos) : giveUpLock u =
    { u.modUnit x (fun y => { y with lostSync := true }) with chan := { u.chan with
      relock := none
      erased := u.chan.erased ++ [(u.chan.foundAt, (getKey x u.chan.ring.units).getD u.chan.pos + unitBits (mediumIndex d))] } } := by
  simp only [giveUpLock, relock, disc, under]
  exact if_pos (by simp [acquires, late])

end

theorem giveUpLock_none {u : State} (bar : u.disc = none ∨ u.chan.relock = none ∨ u.chan.under = none ∨ u.chan.acq ≠ .acquiring) :
    giveUpLock u = u := by
  unfold giveUpLock
  split
  · next a d x relock disc under =>
    refine if_neg ?_
    rcases bar with bar | bar | bar | bar
    · simp [disc] at bar
    · simp [relock] at bar
    · simp [under] at bar
    · simp [bar]
  · rfl

theorem exec_relockTimeout_loses {s u : State} {rf : List RfSample} {a x : Nat} {d : DiscInfo} (run : u = channelRun s rf)
    (disc : u.disc = some d) (relock : u.chan.relock = some a) (under : u.chan.under = some x) (acquires : u.chan.acq = .acquiring)
    (late : a + 2048 ≤ u.chan.pos) :
    ∃ t : State, exec (.relockTimeout rf) s = .next t ∧ t = { u with chan := t.chan, job := t.job } ∧
      t.chan.relock = none ∧ t.chan.acq = .acquiring ∧ (∃ e : Nat, t.chan.erased = u.chan.erased ++ [(u.chan.foundAt, e)] ∧
        ∀ b : Nat, getKey x u.chan.ring.units = some b → e = b + unitBits (mediumIndex d)) ∧
      ∀ j : Job, u.job = some j → ∃ k : Job, t.job = some k ∧ ∀ y : JobUnit, j.units = [y] → y.first = x →
        k.units = [{ y with lostSync := true }] := by
  subst run
  refine ⟨_, congrArg Host.Outcome.next (giveUpLock_late disc relock under acquires late), rfl, rfl, acquires, ⟨_, rfl, ?_⟩, ?_⟩
  · intro b begins
    simp [begins]
  · intro j job
    refine ⟨_, (congrArg (Option.map _) job), ?_⟩
    rintro y only rfl
    simp [only, updFirst]

/-! ### Defects (R171, R221, R222) -/

theorem setDefectFlag_none {u : State} (bar : u.chan.defect = true ∨ (u.chan.front.dark < 16 ∧ u.chan.front.bright < 16)) :
    setDefectFlag u = u := by
  refine if_pos ?_
  rcases bar with set | ⟨dark, bright⟩
  · simp [set]
  · simp [defectDue, dark, bright]

theorem setDefectFlag_sets {u : State} (clear : u.chan.defect = false) (due : 16 ≤ u.chan.front.dark ∨ 16 ≤ u.chan.front.bright) :
    setDefectFlag u = { u with chan := { u.chan with
      defect := true
      flagged := true
      defects := u.chan.defects + 1
      front := { u.chan.front with flagAt := u.chan.pos, inRange := 0 } } } := by
  have flagged : defectDue u.chan = true := by simpa [defectDue] using due
  exact if_neg (by simp [clear, flagged])

theorem clearDefectFlag_none {u : State} (bar : u.chan.defect = false ∨ u.chan.front.inRange < 32) : clearDefectFlag u = u := by
  refine if_neg ?_
  rcases bar with clear | short
  · simp [clear]
  · simp [short]

/-- A flag that clears leaves its interval, widened by DEF_GUARD, as erasures (R222). -/
theorem clearDefectFlag_clears {u : State} {p : ChannelProf} (inUse : u.chan.inUse = some p) (set : u.chan.defect = true)
    (long : 32 ≤ u.chan.front.inRange) : clearDefectFlag u = { u with
      chan := { u.chan with
        defect := false
        erased := u.chan.erased ++ [(u.chan.front.flagAt - p.defGuard, u.chan.pos + p.defGuard)]
        flags := u.chan.flags ++ [(u.chan.front.flagAt, u.chan.pos)]
        front := { u.chan.front with guard := p.defGuard } } } := by
  simp [clearDefectFlag, defectSpan, inUse, set, long]

end Sys2Proof.Machine
end

section
/-! Addresses: which the channel accepts, how they step the flywheel, and what they do to a seek (R190, R200, R207, R233, R234, Table
7.4). -/
namespace Sys2Proof.Machine

/-! ### The flywheel (R234) -/

theorem runOn_unknown {d : DiscInfo} {hz : Nat} (us p t : Nat) (unknown : addressUs d hz = 0) : runOn d hz us p t = p := if_pos unknown

theorem runOn_known {d : DiscInfo} {hz : Nat} (us p t : Nat) (known : 0 < addressUs d hz) :
    runOn d hz us p t = p + addressUnit d * ((us - t) / addressUs d hz) := if_neg (by omega)

theorem addressNear_iff (d : DiscInfo) (a p : Nat) : addressNear d a p = true ↔ a ≤ p + addressUnit d ∧ p ≤ a + addressUnit d := by
  simp [addressNear]

theorem addressNear_far {d : DiscInfo} {a p : Nat} (away : p + addressUnit d < a ∨ a + addressUnit d < p) : addressNear d a p = false :=
  Bool.eq_false_iff.mpr fun near => by
    obtain ⟨above, below⟩ := (addressNear_iff d a p).mp near
    omega

/-- The flywheel stands at an address. -/
def flywheelAt (c : Channel) (d : DiscInfo) (us a : Nat) : Channel :=
  { c with flywheel := some (a + addressUnit d), flyAt := us + addressUs d c.hz, far := none, accepted := true }

/-- The flywheel keeps its place, and an address far from it waits for the next to agree. -/
def flywheelFar (c : Channel) (d : DiscInfo) (us a : Nat) : Channel :=
  { c with far := some (a + addressUnit d, us + addressUs d c.hz), accepted := true }

section
variable {c : Channel} {d : DiscInfo} {us a : Nat}

theorem flywheelAfter_first (none_ : c.flywheel = none) : flywheelAfter c d us a = (flywheelAt c d us a, true) := by
  simp only [flywheelAfter, none_]
  rfl

variable {p : Nat} (flywheel : c.flywheel = some p)
include flywheel

theorem flywheelAfter_near (near : addressNear d a (runOn d c.hz us p c.flyAt) = true) :
    flywheelAfter c d us a = (flywheelAt c d us a, true) := by
  simp only [flywheelAfter, flywheel, near, if_true]
  rfl

variable (away : addressNear d a (runOn d c.hz us p c.flyAt) = false)
include away

theorem flywheelAfter_far (first : c.far = none) : flywheelAfter c d us a = (flywheelFar c d us a, false) := by
  simp only [flywheelAfter, flywheelFar, flywheel, away, first, Bool.false_eq_true, if_false]

variable {q g : Nat} (far : c.far = some (q, g))
include far

theorem flywheelAfter_agrees (near : addressNear d a (runOn d c.hz us q g) = true) :
    flywheelAfter c d us a = (flywheelAt c d us a, true) := by
  simp only [flywheelAfter, flywheel, away, far, near, Bool.false_eq_true, if_false, if_true]
  rfl

theorem flywheelAfter_far_again (other : addressNear d a (runOn d c.hz us q g) = false) :
    flywheelAfter c d us a = (flywheelFar c d us a, false) := by
  simp only [flywheelAfter, flywheelFar, flywheel, away, far, other, Bool.false_eq_true, if_false]

end

/-- The flywheel stands at an accepted address, or keeps its place. -/
theorem flywheelAfter_cases (c : Channel) (d : DiscInfo) (us a : Nat) :
    flywheelAfter c d us a = (flywheelAt c d us a, true) ∨ flywheelAfter c d us a = (flywheelFar c d us a, false) := by
  cases flywheel : c.flywheel with
  | none => exact .inl (flywheelAfter_first flywheel)
  | some p =>
    cases near : addressNear d a (runOn d c.hz us p c.flyAt) with
    | true => exact .inl (flywheelAfter_near flywheel near)
    | false =>
      rcases far : c.far with _ | ⟨q, g⟩
      · exact .inr (flywheelAfter_far flywheel near far)
      · cases agrees : addressNear d a (runOn d c.hz us q g) with
        | true => exact .inl (flywheelAfter_agrees flywheel near far agrees)
        | false => exact .inr (flywheelAfter_far_again flywheel near far agrees)

theorem flywheelAfter_here {c : Channel} {d : DiscInfo} {us a : Nat} (here : (flywheelAfter c d us a).2 = true) :
    flywheelAfter c d us a = (flywheelAt c d us a, true) := by
  refine (flywheelAfter_cases c d us a).resolve_right fun far => ?_
  rw [far] at here
  cases here

/-! ### WGATE between units (R237, R238) -/

/-- Whether recording may go on is decided afresh: WGATE stands, falls, or rises with the channel on the wobble clock. -/
theorem settleGate_cases (s : State) : settleGate s = s ∨ settleGate s = lowerGate s ∨
    settleGate s = ({ s with servo := { s.servo with wgate := true }, chan := wobbleClock s.chan } : State).emit (.wgate true) := by
  unfold settleGate
  split
  · exact .inl rfl
  · split
    · split
      · exact .inr (.inr rfl)
      · exact .inl rfl
    · exact .inr (.inl rfl)

theorem lowerGate_eq (s : State) : lowerGate s =
    { s with servo := { s.servo with wgate := false }, out := (lowerGate s).out } := by
  unfold lowerGate
  split
  · rfl
  · next low =>
    have off : s.servo.wgate = false := by simpa using low
    rw [← off]

/-- What the gate leaves of the sled, the loops, the disc and the addresses. -/
theorem settleGate_leaves (s : State) : (settleGate s).sled = s.sled ∧ (settleGate s).servo.locked = s.servo.locked ∧
    (settleGate s).servo.loops = s.servo.loops ∧ (settleGate s).disc = s.disc ∧
    (settleGate s).chan.accepted = s.chan.accepted ∧ (settleGate s).chan.flywheel = s.chan.flywheel := by
  rcases settleGate_cases s with gate | gate | gate
  · rw [gate]
    exact ⟨rfl, rfl, rfl, rfl, rfl, rfl⟩
  · rw [gate, lowerGate_eq]
    exact ⟨rfl, rfl, rfl, rfl, rfl, rfl⟩
  · rw [gate]
    exact ⟨rfl, rfl, rfl, rfl, rfl, rfl⟩

/-! ### ADDRESS_ACCEPT (R190, R200, R233, R234) -/

theorem exec_addressAccept_none {s : State} {a : AddressRead} {d : DiscInfo} (bar : s.disc = none ∨ reading s = false ∨
    (s.disc = some d ∧ (readsFormat d a.format = false ∨ a.checkOk = false))) : exec (.addressAccept a) s = .next s := by
  refine congrArg Host.Outcome.next ?_
  split
  · rfl
  · next e disc =>
    refine if_pos ?_
    rcases bar with bar | bar | ⟨loaded, bar⟩
    · simp [disc] at bar
    · simp [bar]
    · obtain rfl : d = e := Option.some.inj (loaded.symm.trans disc)
      rcases bar with bar | bar <;> simp [addressOk, bar]

/-- The flywheel stands at the address, which gives the sled its radius (R190, R234). -/
def addressPlaced (s : State) (d : DiscInfo) (a : AddressRead) : State := { s with
  chan := flywheelAt (noteCarrier s.chan d a) d s.us a.lba
  sled := { s.sled with radius := some (radiusOf d a.lba) } }

section
variable {s : State} {a : AddressRead} {d : DiscInfo} (disc : s.disc = some d) (reads : reading s = true)
  (format : readsFormat d a.format = true) (check : a.checkOk = true)
include disc reads format check

/-- Far from the flywheel, an address that is accepted changes the channel alone. -/
theorem exec_addressAccept_far {c : Channel} (flywheel : flywheelAfter (noteCarrier s.chan d a) d s.us a.lba = (c, false)) :
    exec (.addressAccept a) s = .next { s with chan := c } := by
  show execAddressAccept a s = _
  simp [execAddressAccept, disc, reads, format, check, addressOk, flywheel]

variable (here : (flywheelAfter (noteCarrier s.chan d a) d s.us a.lba).2 = true)
include here

theorem exec_addressAccept_placed (still : s.sled.seek = none) :
    exec (.addressAccept a) s = .next (settleGate (addressPlaced s d a)) := by
  show execAddressAccept a s = _
  simp [execAddressAccept, disc, reads, format, check, addressOk, flywheelAfter_here here, still, addressPlaced]

theorem exec_addressAccept_seek {z m : Nat} (seek : s.sled.seek = some (z, m)) :
    exec (.addressAccept a) s = .next (seekAddress (addressPlaced s d a) z m a.tracks) := by
  show execAddressAccept a s = _
  simp [execAddressAccept, disc, reads, format, check, addressOk, flywheelAfter_here here, seek, addressPlaced]

end

theorem locked_of_reading {s : State} (reads : reading s = true) : s.servo.locked = true := ((Bool.and_eq_true _ _).mp reads).2

/-! ### What an address does to a seek (R200, Table 7.4) -/

/-- The seek is over. -/
def seekOver (s : State) : State := { s with sled := { s.sled with seek := none } }

section
variable {s : State} {z m : Nat} {n : Int}

theorem seekAddress_there (there : n = 0) :
    seekAddress s z m n = settleGate { seekOver s with chan := { s.chan with accepted := true } } := if_pos there

theorem seekAddress_jumps (away : n ≠ 0) (near : n.natAbs ≤ 255) :
    seekAddress s z m n = startJump (seekOver s) n.natAbs (decide (0 < n)) := (if_neg away).trans (if_pos near)

theorem seekAddress_moves (far : 255 < n.natAbs) (left : m < s.sled.inUse.seekTries) :
    seekAddress s z m n = seekMove (seekOver s) z (m + 1) :=
  (if_neg (by omega)).trans ((if_neg (by omega)).trans (if_pos left))

theorem seekAddress_fails (far : 255 < n.natAbs) (spent : s.sled.inUse.seekTries ≤ m) :
    seekAddress s z m n = motionFault (seekOver s) 6 0 :=
  (if_neg (by omega)).trans ((if_neg (by omega)).trans (if_neg (Nat.not_lt.mpr spent)))

end

/-- A seek's move counts itself, and nothing is read until an address is accepted (R200, R234). -/
theorem seekMove_opens {s : State} {z m r : Nat} {d : DiscInfo} (disc : s.disc = some d) (radius : s.sled.radius = some r) :
    (seekMove s z m).sled.seek = some (z, m) ∧ (seekMove s z m).chan.accepted = false ∧ (seekMove s z m).servo.locked = false ∧
      (seekMove s z m).chan.flywheel = none := by
  rw [seekMove_eq disc radius rfl]
  split <;> exact ⟨rfl, rfl, rfl, rfl⟩

section
variable {s : State} {a : AddressRead} {d : DiscInfo} (disc : s.disc = some d) (reads : reading s = true)
  (format : readsFormat d a.format = true) (check : a.checkOk = true)
  (here : (flywheelAfter (noteCarrier s.chan d a) d s.us a.lba).2 = true)
include disc reads format check here

/-- Outside a seek, an address where the flywheel stands gives the sled its radius (R190). -/
theorem addressAccept_places (still : s.sled.seek = none) : ∃ t : State, exec (.addressAccept a) s = .next t ∧
    t.sled = { s.sled with radius := some (radiusOf d a.lba) } ∧ t.chan.accepted = true ∧
    t.chan.flywheel = some (a.lba + addressUnit d) ∧ t.servo.locked = true ∧ t.servo.loops = s.servo.loops ∧ t.disc = s.disc := by
  obtain ⟨sled, locked, loops, same, accepted, flywheel⟩ := settleGate_leaves (addressPlaced s d a)
  exact ⟨_, exec_addressAccept_placed disc reads format check here still, sled, accepted, flywheel,
    locked.trans (locked_of_reading reads), loops, same⟩

variable {z m : Nat} (seek : s.sled.seek = some (z, m))
include seek

/-- At distance 0 a seek ends. -/
theorem addressAccept_ends (there : a.tracks = 0) : ∃ t : State, exec (.addressAccept a) s = .next t ∧ t.sled.seek = none ∧
    t.chan.accepted = true ∧ t.sled.radius = some (radiusOf d a.lba) ∧ t.servo.locked = true := by
  have run := (exec_addressAccept_seek disc reads format check here seek).trans (congrArg _ (seekAddress_there there))
  obtain ⟨sled, locked, -, -, accepted, -⟩ := settleGate_leaves
    { seekOver (addressPlaced s d a) with chan := { (addressPlaced s d a).chan with accepted := true } }
  exact ⟨_, run, congrArg Sled.seek sled, accepted, congrArg Sled.radius sled, locked.trans (locked_of_reading reads)⟩

/-- Within 255 tracks a jump ends it. -/
theorem addressAccept_jumps (away : a.tracks ≠ 0) (near : a.tracks.natAbs ≤ 255) : ∃ t : State,
    exec (.addressAccept a) s = .next t ∧ t.sled.seek = none ∧ t.chan.accepted = false ∧
    t.servo.jump = some { tracks := a.tracks.natAbs, outward := decide (0 < a.tracks), at_ := s.us } ∧ t.servo.locked = false ∧
    t.servo.seq.phase = .jumpKick := by
  have run := (exec_addressAccept_seek disc reads format check here seek).trans (congrArg _ (seekAddress_jumps away near))
  exact ⟨_, run, rfl, rfl, rfl, rfl, rfl⟩

/-- Farther off the sled moves again. -/
theorem addressAccept_moves (far : 255 < a.tracks.natAbs) (left : m < s.sled.inUse.seekTries) : ∃ t : State,
    exec (.addressAccept a) s = .next t ∧ t.sled.seek = some (z, m + 1) ∧ t.chan.accepted = false ∧ t.servo.locked = false ∧
    t.chan.flywheel = none := by
  have run := (exec_addressAccept_seek disc reads format check here seek).trans
    (congrArg _ (seekAddress_moves (s := addressPlaced s d a) far left))
  exact ⟨_, run, seekMove_opens disc rfl⟩

/-- After SEEK_TRIES moves the seek has failed (R207). -/
theorem addressAccept_fails (far : 255 < a.tracks.natAbs) (spent : s.sled.inUse.seekTries ≤ m) : ∃ t : State,
    exec (.addressAccept a) s = .next t ∧ t.sled.seek = none ∧
    t.halt = { s.halt with pend := addFault s.halt.pend (.motion 6 0) } := by
  have run := (exec_addressAccept_seek disc reads format check here seek).trans
    (congrArg _ (seekAddress_fails (s := addressPlaced s d a) far spent))
  exact ⟨_, run, rfl, rfl⟩

end

/-- Settles O50, clause by clause: the channel's samples, its lock and its defect flag, then the flywheel and what an accepted address
does. -/
theorem channelLocksAndAcceptsAddresses : Obligations.ChannelLocksAndAcceptsAddresses := by
  refine ⟨fun s rf => ⟨fun disc => channelRun_no_disc disc rf, fun disc => channelRun_pos disc rf, channelRun_frame s rf, ?_⟩,
    ?_, ?_, ?_, ?_, fun s a d => exec_addressAccept_none, ?_, ?_,
    fun d hz us p t => ⟨runOn_unknown us p t, runOn_known us p t⟩, ?_⟩
  · exact (channelRun_frame s []).trans (by rw [channelRun_no_samples])
  · rintro s _ rf rfl
    exact ⟨fun reads acquires spaced ahead => congrArg Host.Outcome.next (lockChannel_locks reads acquires spaced ahead),
      fun bar => congrArg Host.Outcome.next (lockChannel_none bar)⟩
  · rintro s _ rf d rfl disc
    exact ⟨exec_lossOfLock_returns rfl disc, fun bar => congrArg Host.Outcome.next (unlockChannel_none (.inr bar))⟩
  · rintro s _ rf rfl
    exact ⟨fun none_ => congrArg Host.Outcome.next (unlockChannel_none (.inl none_)),
      fun bar => congrArg Host.Outcome.next (giveUpLock_none bar), fun a x d disc relock under acquires =>
        ⟨fun early => congrArg Host.Outcome.next (giveUpLock_early disc relock under early),
          exec_relockTimeout_loses rfl disc relock under acquires⟩⟩
  · rintro s _ rf rfl
    exact ⟨fun bar => congrArg Host.Outcome.next (setDefectFlag_none bar),
      fun clear due => congrArg Host.Outcome.next (setDefectFlag_sets clear due),
      fun bar => congrArg Host.Outcome.next (clearDefectFlag_none bar),
      fun p inUse set long => congrArg Host.Outcome.next (clearDefectFlag_clears inUse set long)⟩
  · rintro s a d c here disc reads format check flywheel
    refine ⟨?_, fun stands => addressAccept_places disc reads format check (flywheel ▸ stands)⟩
    rintro rfl
    exact exec_addressAccept_far disc reads format check flywheel
  · rintro c d us a _ _ rfl rfl
    refine ⟨flywheelAfter_first, ?_⟩
    rintro p _ flywheel rfl
    refine ⟨fun near => flywheelAfter_near flywheel ((addressNear_iff d a _).mpr near),
      fun away => flywheelAfter_far flywheel (addressNear_far away), ?_⟩
    rintro q g _ away far rfl
    exact ⟨fun near => flywheelAfter_agrees flywheel (addressNear_far away) far ((addressNear_iff d a _).mpr near),
      fun other => flywheelAfter_far_again flywheel (addressNear_far away) far (addressNear_far other)⟩
  · intro s a z m d disc reads format check here seek
    exact ⟨addressAccept_ends disc reads format check here seek, addressAccept_jumps disc reads format check here seek,
      addressAccept_moves disc reads format check here seek, addressAccept_fails disc reads format check here seek⟩

end Sys2Proof.Machine
end

section
/-! WRITE from its beginning to its read-back: units recorded, underruns and replacement (R114, R236, R249, R250, R251, R253, R254). -/
namespace Sys2Proof.Machine

/-! ### A recording begins (R114, R236, R251) -/

theorem settleGate_job (s : State) : (settleGate s).job = s.job := by
  rcases settleGate_cases s with gate | gate | gate
  · rw [gate]
  · rw [gate, lowerGate_eq]
  · rw [gate]
    rfl

/-- The job of a command on the mechanism, as the recording of a range with its data begins; the levels of its table may be asked for
already. -/
structure Recording.Begins (i j : Job) (di : DiscInfo) (d : Desc) (data : List Block) : Prop where
  kind : j.kind = .writing
  f : j.f = i.f
  k : j.k = i.k
  next : j.next = lbaOf d.fld
  last : j.last = lbaOf d.fld + d.fld.count - 1
  data : j.data = data
  units : j.units = mergeUnits di (lbaOf d.fld) d.fld.count

theorem startWriting_job {s : State} {i : Job} (held : s.job = some i) (di : DiscInfo) (d : Desc) (data : List Block) :
    ∃ j : Job, (startWriting s di d data).job = some j ∧ Recording.Begins i j di d data := by
  simp only [startWriting, State.modJob, held, Option.map_some]
  split
  · exact ⟨_, rfl, rfl, rfl, rfl, rfl, rfl, rfl, rfl⟩
  · rw [settleGate_job]
    exact ⟨_, rfl, rfl, rfl, rfl, rfl, rfl, rfl, rfl⟩

section
variable {s : State} {f : FoldId} {k : Nat} {d : Desc} {di : DiscInfo}

theorem exec_write_begins (dispatched : dispatchedAs s f k .write = some d) (disc : s.disc = some di)
    (may : writeRangeOk di (lbaOf d.fld) d.fld.count = true) : exec (.write f k) s = .next (startWriting s di d []) := by
  show execWrite f k s = _
  simp only [execWrite, dispatched, disc, may, if_true]

theorem exec_write_refused (dispatched : dispatchedAs s f k .write = some d) (disc : s.disc = some di)
    (may : writeRangeOk di (lbaOf d.fld) d.fld.count = false) : exec (.write f k) s = .next (endJob s .outOfRange 0) := by
  show execWrite f k s = _
  simp only [execWrite, dispatched, disc, may, Bool.false_eq_true, if_false]

end

/-! ### Units and underruns (R249, R250, R251) -/

section
variable {s t : State} {j : Job} {d : Desc} {di : DiscInfo}

theorem exec_underrun_links (on : jobDesc s = some (j, d)) (kind : j.kind = .writing) (more : j.next ≤ j.last)
    (late : dataReady s j d = false) (fresh : j.waitingData = false) : exec .underrun s = .next (lowerGate { s with
      job := some { j with underruns := j.underruns + 1, links := j.links + 1, waitingData := true } }) := by
  obtain ⟨held, -, -, -⟩ := jobDesc_on on
  have writing : (j.kind == .writing) = true := by rw [kind, beq_self_eq_true]
  show execUnderrun s = _
  simp only [execUnderrun, State.modJob, on, held, writing, decide_eq_true more, late, fresh, Bool.not_false, Bool.and_true, if_true,
    Option.map_some]

/-- The unit from u to z is being recorded on a disc. -/
structure Recording.InUnit (s : State) (j : Job) (d : Desc) (di : DiscInfo) (u z : Nat) : Prop where
  on : jobDesc s = some (j, d)
  disc : s.disc = some di
  kind : j.kind = .writing
  gate : s.servo.wgate = true
  more : j.next ≤ j.last
  unit : nextUnit s j = (u, z)

/-- What a recording notes of its unit from u to z: the next block, the blocks recorded, and the unit still to be read back (R253). -/
def unitNoted (d : Desc) (u z : Nat) (j : Job) : Job :=
  { j with next := z, recorded := j.recorded + (min z (j.last + 1) - j.next)
           unverified := if verifyAfter d then j.unverified ++ [u] else [] }

/-- A unit from u to z is on the medium: its blocks, their marks and spaces, and what the disc and the recording note of them (R251,
R454). -/
def unitOnMedium (t : State) (j : Job) (d : Desc) (di : DiscInfo) (tab : Strategy) (u z : Nat) : State :=
  { t.emits [.recorded u (storedBlocks t d u (unitBlocksOf t j d)),
      .pulses (unitPulses di tab u (storedBlocks t d u (unitBlocksOf t j d)).flatten)] with
    disc := some (noteRecorded di j.next z) }.modJob (unitNoted d u z)

/-- What follows a unit on the medium: running OPC, a pacing step, another table's levels, and the next unit, a wait or the end (R54,
R242, R248, R253). -/
def unitFollowed (j : Job) (layer cls : Nat) (l : List Int) (z : Nat) (v : State) : State :=
  let t := changeTable (takePace (runningOpc v (rhoOf l))) (layer, cls)
  writeOn (if z ≤ j.last then t else t.modJob fun j => { j with lds := [] })

/-- A change of the job depends on the job alone. -/
theorem modJob_congr {g h : Job → Job} (held : s.job = some j) (same : g j = h j) : s.modJob g = s.modJob h := by
  simp only [State.modJob, held, Option.map_some, same]

theorem exec_unitRecorded_spoilt {u z : Nat} (recording : Recording.InUnit s j d di u z) (l : List Int)
    (read : memRun s (unitReads d j.next (min z (j.last + 1))) = (t, true)) :
    exec (.unitRecorded l) s = .next (stopJob t .memoryFault) := by
  obtain ⟨on, disc, kind, gate, more, unit⟩ := recording
  show execUnitRecorded l s = _
  simp only [execUnitRecorded, on, disc, kind, gate, Nat.not_lt.mpr more, decide_false, unit, read, bne_self_eq_false, Bool.not_true,
    Bool.or_false, Bool.false_eq_true, if_false, if_true]

theorem exec_unitRecorded_recorded {u z layer cls : Nat} {tab : Strategy} (recording : Recording.InUnit s j d di u z) (l : List Int)
    (setup : writeSetup s j di = (layer, cls, tab)) (read : memRun s (unitReads d j.next (min z (j.last + 1))) = (t, false)) :
    exec (.unitRecorded l) s = .next (unitFollowed j layer cls l z (unitOnMedium t j d di tab u z)) := by
  obtain ⟨on, disc, kind, gate, more, unit⟩ := recording
  obtain ⟨held, -, -, -⟩ := jobDesc_on on
  have kept : t.job = some j := by rw [← held, ← memRun_job s (unitReads d j.next (min z (j.last + 1))), read]
  show execUnitRecorded l s = _
  simp only [execUnitRecorded, on, disc, kind, gate, Nat.not_lt.mpr more, decide_false, unit, setup, read, bne_self_eq_false,
    Bool.not_true, Bool.or_false, Bool.false_eq_true, if_false]
  exact congrArg (fun v => Host.Outcome.next (unitFollowed j layer cls l z v)) (modJob_congr kept rfl)

end

/-! ### Read-back and replacement (R253, R254) -/

section
variable {s : State} {j : Job} {d : Desc} {di : DiscInfo}

/-- A run of recorded units is read back on a disc. -/
structure Recording.ReadsBack (s : State) (j : Job) (d : Desc) (di : DiscInfo) : Prop where
  on : jobDesc s = some (j, d)
  disc : s.disc = some di
  kind : j.kind = .writing
  due : readbackDue s j d = true

/-- A run of units has been read back, n of them replaced: the write goes on, or ends before the unit that still fails (R254). -/
def unitsTried (s : State) (j : Job) (d : Desc) (e : DiscInfo) (n : Nat) : Option Nat → State
  | none => writeOn { s with disc := some e, job := some { j with replaced := j.replaced + n, unverified := [] } }
  | some b => stopJob { s with
      disc := some e, job := some { j with
        replaced := j.replaced + n, firstFail := some (max b (lbaOf d.fld))
        recorded := max b (lbaOf d.fld) - lbaOf d.fld } } .writeFailed

theorem exec_readbackDone_tried {e : DiscInfo} {n : Nat} {bad : Option Nat} {r : List (List Readback)}
    (back : Recording.ReadsBack s j d di)
    (tried : tryUnits s (noReplace d) di 0 (j.unverified.zipIdx.map fun p => (p.1, r.getD p.2 [])) = (e, n, bad)) :
    exec (.readbackDone r) s = .next (unitsTried s j d e n bad) := by
  obtain ⟨on, disc, kind, due⟩ := back
  obtain ⟨held, -, -, -⟩ := jobDesc_on on
  have writing : (j.kind != .writing) = false := by rw [kind, bne_self_eq_false]
  show execReadbackDone r s = _
  simp only [execReadbackDone, State.modJob, on, disc, writing, due, held, tried, Bool.not_true, Bool.or_false, Bool.false_eq_true,
    if_false, Option.map_some]
  cases bad with
  | none => rfl
  | some b => rfl

end

/-- Settles O18, clause by clause: one equation per row and case, and the job that `startWriting` leaves. -/
theorem recordingBeginsUnderrunsAndIsVerified : Obligations.RecordingBeginsUnderrunsAndIsVerified := by
  refine ⟨?_, ?_, ?_, ?_, ?_, ?_, ?_⟩
  · intro s f k d di dispatched disc may
    obtain ⟨-, i, held, -, rfl, rfl, -⟩ := dispatchedAs_job dispatched
    obtain ⟨j, begins, started⟩ := startWriting_job held di d []
    exact ⟨_, j, exec_write_begins dispatched disc may, begins, started.kind, started.f, started.k, started.next, started.last,
      started.data, started.units⟩
  · exact fun s f k d di dispatched disc may =>
      ⟨_, exec_write_refused dispatched disc may, dispatched_ends .outOfRange 0 dispatched rfl⟩
  · exact fun s j d on kind more late fresh => exec_underrun_links on kind more late fresh
  · rintro s t v j d di u z layer cls tab l on disc kind gate more unit setup read rfl
    exact exec_unitRecorded_recorded ⟨on, disc, kind, gate, more, unit⟩ l setup read
  · exact fun s t j d di u z l on disc kind gate more unit read =>
      exec_unitRecorded_spoilt ⟨on, disc, kind, gate, more, unit⟩ l read
  · exact fun s j d di e n r on disc kind due tried => exec_readbackDone_tried ⟨on, disc, kind, due⟩ tried
  · exact fun s j d di e n b r on disc kind due tried => exec_readbackDone_tried ⟨on, disc, kind, due⟩ tried

end Sys2Proof.Machine
end

section
/-! The pool's operations and their rejections (Tables 10.3 and 10.4, R270), the free store's stack and ring (R271, R274), and the
registers of the free store (R285). -/
namespace Sys2Proof.Machine

/-! ### What every operation on an index checks first (Table 10.4) -/

section
variable {s : State} {req idx : Nat}

theorem requesterOk_iff (r : Nat) : requesterOk r = true ↔ r ≤ 14 := decide_eq_true_iff

theorem requesterOk_false_iff (r : Nat) : requesterOk r = false ↔ 14 < r := by
  rw [← Bool.not_eq_true, requesterOk_iff, Nat.not_le]

theorem poolCheck_unknown (unknown : 14 < req ∨ 22527 < idx) : poolCheck s req idx = .error 5 := by
  have refused : (!requesterOk req || decide (22527 < idx)) = true := by
    rcases unknown with h | h
    · rw [(requesterOk_false_iff req).mpr h]
      rfl
    · rw [decide_eq_true h, Bool.or_true]
  rw [poolCheck, if_pos refused]

/-- An assigned requester and a buffer in use: only the buffer's record is left to look at. -/
theorem poolCheck_inUse (assigned : req ≤ 14) (index : idx ≤ 22527) (inUse : s.pool.outOfUse.contains idx = false) :
    poolCheck s req idx = (getKey idx s.pool.bufs).elim (.error 4) .ok := by
  have known := (requesterOk_iff req).mpr assigned
  have within : ¬ 22527 < idx := Nat.not_lt.mpr index
  simp only [poolCheck, known, within, inUse, Bool.not_true, decide_false, Bool.or_false, Bool.false_eq_true, if_false]
  cases getKey idx s.pool.bufs with
  | none => rfl
  | some b => rfl

theorem poolCheck_held {b : Buf} (assigned : req ≤ 14) (index : idx ≤ 22527) (inUse : s.pool.outOfUse.contains idx = false)
    (found : getKey idx s.pool.bufs = some b) : poolCheck s req idx = .ok b := by
  rw [poolCheck_inUse assigned index inUse, found]
  rfl

theorem indexOps_rejected {c : Nat} (rejected : poolCheck s req idx = .error c) (new : Nat) :
    exec (.share req idx) s = .next (poolReject s 1 req idx c) ∧ exec (.drop req idx) s = .next (poolReject s 2 req idx c) ∧
    exec (.free req idx) s = .next (poolReject s 3 req idx c) ∧ exec (.pass req idx new) s = .next (poolReject s 4 req idx c) := by
  refine ⟨?_, ?_, ?_, ?_⟩
  · show execShare req idx s = _
    rw [execShare, rejected]
  · show execDrop req idx s = _
    rw [execDrop, rejected]
  · show execFree req idx s = _
    rw [execFree, rejected]
  · show execPass req idx new s = _
    rw [execPass, rejected]

end

/-! ### Operations on a held buffer (Table 10.3) -/

section
variable {s : State} {req idx : Nat} {b : Buf} (held : poolCheck s req idx = .ok b)
include held

theorem exec_share_held : exec (.share req idx) s = .next
    (if 16 ≤ b.holds then poolReject s 1 req idx 6 else setBuf s idx { b with holds := b.holds + 1 }) := by
  show execShare req idx s = _
  rw [execShare, held]

theorem exec_drop_held : exec (.drop req idx) s = .next
    (if b.holds ≤ 1 then poolReject s 2 req idx 3 else setBuf s idx { b with holds := b.holds - 1 }) := by
  show execDrop req idx s = _
  rw [execDrop, held]

theorem exec_free_held : exec (.free req idx) s = .next
    (if b.last ≠ req then poolReject s 3 req idx 1 else if 1 < b.holds then poolReject s 3 req idx 2 else freeBuf s idx) := by
  show execFree req idx s = _
  rw [execFree, held]

theorem exec_pass_held (new : Nat) : exec (.pass req idx new) s = .next
    (if !requesterOk new then poolReject s 4 req idx 5
      else if b.last ≠ req then poolReject s 4 req idx 1 else setBuf s idx { b with last := new }) := by
  show execPass req idx new s = _
  rw [execPass, held]

end

/-- No request waits: a freed buffer goes on the stack (R265, R271). -/
theorem freeBuf_to_stack {s : State} {i : Nat} {b : Buf} (found : getKey i s.pool.bufs = some b) (empty : s.pool.queue = []) :
    freeBuf s i = { s with pool := stackPush { s.pool with bufs := delKey i s.pool.bufs } i } := by
  simp only [freeBuf, found, releaseIndex, empty, releaseIndexGo]

/-! ### ALLOC (R264; log entry 19) -/

section
variable {s : State} {a : Account} {req : Nat}

theorem exec_alloc_unassigned (unassigned : 14 < req) : exec (.alloc req a) s = .next (poolReject s 0 req 0 5) := by
  show execAlloc req a s = _
  simp only [execAlloc, (requesterOk_false_iff req).mpr unassigned, Bool.not_false, if_true]

theorem exec_alloc_waits (assigned : req ≤ 14) (waits : grantsNow s a 1 = false) : exec (.alloc req a) s = .next s := by
  show execAlloc req a s = _
  simp only [execAlloc, (requesterOk_iff req).mpr assigned, waits, Bool.not_true, Bool.false_eq_true, if_false]

theorem takeBuf_from_stack {i : Nat} {p : Pool} (filled : s.pool.stack ≠ []) (popped : stackPop s.pool = some (i, p)) :
    takeBuf s a req = some (i, { s with pool := { p with bufs := putKey i { acct := a, holds := 1, last := req } p.bufs } }) := by
  have stacked : s.pool.stack.isEmpty = false := List.isEmpty_eq_false_iff.mpr filled
  simp only [takeBuf, stacked, Bool.false_eq_true, if_false, popped]

theorem exec_alloc_granted {i : Nat} {p : Pool} (assigned : req ≤ 14) (granted : grantsNow s a 1 = true) (filled : s.pool.stack ≠ [])
    (popped : stackPop s.pool = some (i, p)) : exec (.alloc req a) s =
      .next { s with pool := { p with bufs := putKey i { acct := a, holds := 1, last := req } p.bufs } } := by
  show execAlloc req a s = _
  simp only [execAlloc, (requesterOk_iff req).mpr assigned, granted, Bool.not_true, Bool.false_eq_true, if_false, if_true,
    takeBuf_from_stack filled popped]

end

/-! ### Rejections are counted and reported (R270) -/

section
variable {s : State} {cause : Nat} (real : cause ≠ 0)
include real

theorem poolReject_posts (op req idx : Nat) (due : ∀ a : Nat, s.pool.rejectAt = some a → a + 1000 ≤ s.us) :
    poolReject s op req idx cause = postEvent { s with pool := { s.pool with
      rejects := min (s.pool.rejects + 1) 65535, lastCause := cause, rejectAt := some s.us } } 0 0x0780
        (w32 (idx % 32768 + req % 32 * 2 ^ 16 + op * 2 ^ 21 + cause * 2 ^ 24)) := by
  cases posted : s.pool.rejectAt with
  | none =>
    simp only [poolReject, real, posted, if_false, if_true]
    rfl
  | some a =>
    simp only [poolReject, real, posted, due a posted, decide_true, if_false, if_true]
    rfl

theorem poolReject_counts {a : Nat} (op req idx : Nat) (posted : s.pool.rejectAt = some a) (soon : s.us < a + 1000) :
    poolReject s op req idx cause = { s with pool := { s.pool with
      rejects := min (s.pool.rejects + 1) 65535, lastCause := cause } } := by
  have early : ¬ a + 1000 ≤ s.us := Nat.not_le.mpr soon
  simp only [poolReject, real, posted, early, decide_false, if_false, Bool.false_eq_true]
  rfl

end

/-! ### The stack and the ring (R271, R274) -/

section
variable {s : State}

theorem exec_stackRefill_short (short : s.pool.stack.length < 16) : exec .stackRefill s = .next (refillStack s) :=
  congrArg Host.Outcome.next (if_pos short)

theorem exec_stackRefill_enough (enough : 16 ≤ s.pool.stack.length) : exec .stackRefill s = .next s :=
  congrArg Host.Outcome.next (if_neg (Nat.not_lt.mpr enough))

theorem exec_stackSpill_over (much : 48 < s.pool.stack.length) : exec .stackSpill s =
    .next { (memRun s (ringOps true s.pool (ringCount s.pool))).1 with
      pool := stackSpill (memRun s (ringOps true s.pool (ringCount s.pool))).1.pool } :=
  congrArg Host.Outcome.next (if_pos much)

theorem exec_stackSpill_room (room : s.pool.stack.length ≤ 48) : exec .stackSpill s = .next s :=
  congrArg Host.Outcome.next (if_neg (Nat.not_lt.mpr room))

end

/-! ### FQ_REJECT, FQ_WAIT and FQ_AUDIT (R274, R285) -/

section
variable {s : State}

theorem exec_fqRejectClear (bar : barUp s 0 = true) : exec .fqRejectClear s = .next { s with pool := { s.pool with
    rejects := 0, lost := 0, lastCause := 0 } } :=
  congrArg Host.Outcome.next (if_pos bar)

theorem exec_fqWaitClear {f : FoldId} (bar : barUp s f = true) : exec (.fqWaitClear f) s = .next (s.modFold f fun x => { x with
    waits := 0, longest := 0 }) :=
  congrArg Host.Outcome.next (if_pos bar)

theorem inService_iff (s : State) : inService s = true ↔ s.sys.mode = .service := beq_iff_eq

theorem exec_fqAuditStart_service (service : s.sys.mode = .service) : exec .fqAuditStart s =
    .next { s with pool := { s.pool with auditing := true } } :=
  congrArg Host.Outcome.next (if_pos ((inService_iff s).mpr service))

theorem exec_fqAuditStart_ignored (outside : s.sys.mode ≠ .service) : exec .fqAuditStart s = .next s :=
  congrArg Host.Outcome.next (if_neg (mt (inService_iff s).mp outside))

theorem exec_auditDone_rebuilds (auditing : s.pool.auditing = true) : exec .auditDone s = .next { s with pool := { s.pool with
    auditing := false, lost := 0, lostEntries := [], stack := []
    ring := (s.pool.lostEntries ++ s.pool.stack.reverse).foldl (fun r i => ringPut i r) s.pool.ring } } :=
  congrArg Host.Outcome.next (if_pos auditing)

end

/-- Settles O25, clause by clause: ALLOC, the check every operation on an index makes, each operation on a held buffer, rejections,
the free store's traffic, and its registers. -/
theorem poolOperationsGrantShareFreeAndReject : Obligations.PoolOperationsGrantShareFreeAndReject := by
  refine ⟨fun s a req i p => exec_alloc_granted, fun s a req => exec_alloc_waits, fun s a req => exec_alloc_unassigned,
    fun s req idx new unknown => indexOps_rejected (poolCheck_unknown unknown) new,
    fun s req idx new assigned index inUse free => ?_, fun s req idx b assigned index inUse found => ?_,
    fun s req idx new b assigned index inUse found => ?_,
    fun s op req idx cause real => poolReject_posts real op req idx,
    fun s op req idx cause a real => poolReject_counts real op req idx, fun s l short bad => ?_,
    fun s => exec_stackRefill_enough, fun s much => ⟨_, _, rfl, exec_stackSpill_over much⟩, fun s => exec_stackSpill_room,
    fun s => exec_fqRejectClear, fun s f => exec_fqWaitClear, fun s => exec_fqAuditStart_service,
    fun s => exec_fqAuditStart_ignored, fun s => exec_auditDone_rebuilds⟩
  · refine indexOps_rejected ?_ new
    rw [poolCheck_inUse assigned index inUse, free]
    rfl
  · have held := poolCheck_held assigned index inUse found
    rw [exec_share_held held, exec_drop_held held, exec_free_held held]
    refine ⟨fun few => ?_, fun full => ?_, fun more => ?_, fun one => ?_, fun other => ?_, fun last more => ?_,
      fun last one empty => ?_⟩
    · rw [if_neg (Nat.not_le.mpr few)]
      rfl
    · rw [if_pos full]
    · rw [if_neg (Nat.not_le.mpr more)]
      rfl
    · rw [if_pos one]
    · rw [if_pos other]
    · rw [if_neg (fun other => other last), if_pos (Nat.lt_of_succ_le more)]
    · rw [if_neg (fun other => other last), if_neg (Nat.not_lt.mpr one), freeBuf_to_stack found empty]
  · have held := poolCheck_held assigned index inUse found
    rw [exec_pass_held held]
    refine ⟨fun known last => ?_, fun unknown => ?_, fun known other => ?_⟩
    · have owner : ¬ b.last ≠ req := fun other => other last
      rw [(requesterOk_iff new).mpr known, if_neg owner]
      rfl
    · rw [(requesterOk_false_iff new).mpr unknown]
      rfl
    · rw [(requesterOk_iff new).mpr known, if_pos other]
      rfl
  · subst bad
    exact ⟨_, _, rfl, exec_stackRefill_short short⟩

end Sys2Proof.Machine
end

section
/-! Page programs with their read-back and retirement, the scrubber's reads, the token buckets and raw mode (R289, R293, R295, R298, R299,
R301, R304, R305, Tables 11.3 and 11.5). -/
namespace Sys2Proof.Machine

/-! ### Strengths (Table 11.3) -/

theorem strengthT_pos (code : Nat) : 0 < strengthT code := by
  unfold strengthT
  split <;> decide

theorem strengthT_even (code : Nat) : 2 * (strengthT code / 2) = strengthT code := by
  unfold strengthT
  split <;> rfl

/-- Half the strength is reached where twice the corrected bits reach the strength (R293, R301). -/
theorem half_strengthT_le_iff (code c : Nat) : strengthT code / 2 ≤ c ↔ strengthT code ≤ 2 * c := by
  have even := strengthT_even code
  omega

theorem not_half_strengthT_le_zero (code : Nat) : ¬ strengthT code / 2 ≤ 0 := fun half =>
  absurd ((half_strengthT_le_iff code 0).mp half) (Nat.not_le.mpr (strengthT_pos code))

theorem backBad_clean (code : Nat) : backBad code (some 0) = false := decide_eq_false (not_half_strengthT_le_zero code)

/-! ### What a decode of a page finds -/

theorem getKey_delKey {α : Type} (k : Nat) (l : List (Nat × α)) : getKey k (delKey k l) = none := by
  have gone : (delKey k l).find? (fun x => x.1 == k) = none := List.find?_eq_none.mpr fun x kept same => by
    have other := (List.mem_filter.mp kept).2
    simp only [bne, same, Bool.not_true, Bool.false_eq_true] at other
  simp only [getKey, gone, Option.map_none]

theorem foundIn_setFound (m : Mram) (p : Nat) (x : DecodeBits) : foundIn (setFound m p x) p = x := by
  unfold foundIn setFound
  by_cases clean : x = some 0
  · simp only [clean, if_true, getKey_delKey, Option.getD_none]
  · simp only [clean, if_false, getKey_putKey, Option.getD_some]

/-! ### The queue of programs (R298) -/

theorem updFirst_same {α : Type} [BEq α] [LawfulBEq α] (a : α) : ∀ l : List α, updFirst (fun x => x == a) (fun _ => a) l = l
  | [] => rfl
  | x :: r => by
    by_cases same : x = a
    · simp only [updFirst, same, BEq.rfl, if_true]
    · simp only [updFirst, beq_eq_false_iff_ne.mpr same, Bool.false_eq_true, if_false, updFirst_same a r]

theorem chooseProg_begun {q : Prog} (begun : q.begun = true) : chooseProg [q] = some q := by
  cases loss : q.prio == Prio.inputLoss <;> simp [chooseProg, loss, begun]

theorem beginIfIdle_empty {s : State} (empty : s.mram.queue = []) : beginIfIdle s = s := by
  simp [beginIfIdle, chooseProg, empty]

theorem beginIfIdle_busy {s : State} (busy : s.mram.queue.any (·.begun) = true) : beginIfIdle s = s := if_pos busy

/-- The record in progress has its next page programmed (R298). -/
theorem exec_mramPageProgram_begun {s : State} {q : Prog} (back : DecodeBits) (runs : mramRuns s = true)
    (chosen : chooseProg s.mram.queue = some q) (begun : q.begun = true) :
    exec (.mramPageProgram back) s = .next (beginIfIdle (stepProg s q back)) := by
  have goesOn : beginProg s q = some q := if_pos begun
  have same : putProg s.mram q (some q) = s.mram := by simp only [putProg, updFirst_same]
  show execMramPageProgram back s = _
  simp only [execMramPageProgram, runs, if_true, mramStep, chosen, goesOn, same]

/-! ### One page of the record in progress (R301) -/

/-- With no flip armed for the MRAM, a page's program is wear and nothing else (R304). -/
theorem programPage_unarmed {s : State} (code p : Nat) (unarmed : bits s.ecc.flipTarget 2 0 ≠ 4) : programPage s p code false =
    { s with mram := wearUp { s.mram with strengthAt := delKey p s.mram.strengthAt } p } := by
  simp only [programPage, flipMeets, unarmed, false_and, if_false, Bool.false_eq_true]

section
variable {s : State} {q : Prog} {p : Nat} (page : p = q.used.getD (q.pages - q.left) 0) (unarmed : bits s.ecc.flipTarget 2 0 ≠ 4)
include page unarmed

theorem stepProg_clean (more : 1 < q.left) : stepProg s q (some 0) = { s with
    mram := putProg (wearUp { s.mram with strengthAt := delKey p s.mram.strengthAt } p) q
      (some { q with left := q.left - 1, again := false }) } := by
  simp only [stepProg, backBad_clean, Bool.false_eq_true, if_false, Nat.not_le.mpr more, backCounts, ← page,
    programPage_unarmed _ _ unarmed]

theorem stepProg_commits (last : q.left = 1) : stepProg s q (some 0) = levelWear (onCommit { s with
    mram := commitRecord (putProg (wearUp { s.mram with strengthAt := delKey p s.mram.strengthAt } p) q none) q } q) q.region := by
  simp only [stepProg, backBad_clean, Bool.false_eq_true, if_false, Nat.le_of_eq last, if_true, backCounts, ← page,
    programPage_unarmed _ _ unarmed]

theorem stepProg_again (first : q.again = false) : stepProg s q none = { s with
    mram := putProg (setFound (wearUp { s.mram with strengthAt := delKey p s.mram.strengthAt } p) p none) q
      (some { q with again := true }) } := by
  simp only [stepProg, backBad, first, Bool.false_eq_true, if_false, if_true, backCounts, ← page, programPage_unarmed _ _ unarmed]

theorem stepProg_retires (second : q.again = true) : stepProg s q none = restartProg (retirePage { s with
    mram := setFound (wearUp { s.mram with strengthAt := delKey p s.mram.strengthAt } p) p none } p) q := by
  simp only [stepProg, backBad, second, if_true, backCounts, ← page, programPage_unarmed _ _ unarmed]

end

theorem restartProg_picks {s : State} {q : Prog} {l : List Nat} (alone : s.mram.queue = [q])
    (picked : pickPages q.pages { s.mram with queue := [] } q.region [] = some l) : restartProg s q =
      { s with mram := { s.mram with queue := [{ q with used := l, left := q.pages, again := false }] } } := by
  simp only [restartProg, putProg, alone, List.erase_cons_head, picked, updFirst, BEq.rfl, if_true]

/-! ### The commit of a record (R295, R300) -/

theorem clearHead_queue (m : Mram) (l : List Nat) : (clearHead m l).queue = m.queue := by
  cases l <;> rfl

theorem clearHeads_queue : ∀ (l : List (List Nat)) (m : Mram), (l.foldl clearHead m).queue = m.queue
  | [], _ => rfl
  | x :: r, m => (clearHeads_queue r (clearHead m x)).trans (clearHead_queue m x)

theorem commitRecord_queue (m : Mram) (q : Prog) : (commitRecord m q).queue = m.queue := by
  unfold commitRecord
  extract_lets same old older
  cases q.payload with
  | none => exact (clearHead_queue _ q.used).trans (clearHeads_queue _ m)
  | some x => exact clearHeads_queue _ m

theorem mem_commitRecord {m : Mram} {q : Prog} {x : Payload} (payload : q.payload = some x) :
    { region := q.region, id := q.id, seq := nextSeqOf m q.region q.id, payload := x, pages := q.used.reverse,
      strength := q.strength, sealing := q.sealing } ∈ (commitRecord m q).recs := by
  simp only [commitRecord, payload, List.mem_append, List.mem_singleton, or_true]

theorem levelWear_even {s : State} {r : Nat} (even : (s.mram.wear.all fun w => decide (w.2 ≤ 4096)) = true) : levelWear s r = s :=
  if_pos even

/-! ### The scrubber's reads (R289, R290, R293) -/

section
variable {s : State} {p c : Nat}

theorem readPage_clean (source : Nat) (found : foundIn s.mram p = some 0) (inForce : pageStrength s p = strengthCode s (regionOf p)) :
    readPage source s p = s := by
  simp only [readPage, afterRead, found, inForce, if_true, bne_self_eq_false, Bool.false_and, not_half_strengthT_le_zero, decide_false,
    Bool.or_self, Bool.false_eq_true, if_false]

/-- A page at half its strength or more is to be refreshed. -/
theorem readPage_weak (source : Nat) (found : foundIn s.mram p = some c) (wrong : 0 < c)
    (weak : strengthT (pageStrength s p) ≤ 2 * c) :
    readPage source s p = { eccCorrect s 3 with mram := wantRefresh (eccCorrect s 3).mram p } := by
  have half := (half_strengthT_le_iff (pageStrength s p) c).mpr weak
  simp only [readPage, afterRead, found, Nat.ne_of_gt wrong, if_false, half, decide_true, Bool.true_or, if_true]

theorem readPage_corrected (found : foundIn s.mram p = some c) (wrong : 0 < c) (strong : 2 * c < strengthT (pageStrength s p)) :
    readPage 0 s p = eccCorrect s 3 := by
  have half := mt (half_strengthT_le_iff (pageStrength s p) c).mp (Nat.not_le.mpr strong)
  have firmware : (decide ((0 : Nat) = 2)) = false := rfl
  simp only [readPage, afterRead, found, Nat.ne_of_gt wrong, if_false, half, decide_false, firmware, Bool.and_false, Bool.or_self,
    Bool.false_eq_true]

theorem readPage_lost {m : Mram} {fb : Bool} (source : Nat) (found : foundIn s.mram p = none) (lost : pageLost s.mram p = (m, fb)) :
    readPage source s p = eccUncorr { s with mram := m } 3 source fb false p := by
  simp only [readPage, afterRead, found, lost]

end

theorem wantRefresh_new {m : Mram} {p : Nat} (new : p ∉ m.refresh) : wantRefresh m p = { m with refresh := m.refresh ++ [p] } := by
  simp only [wantRefresh, List.contains_eq_mem, new, decide_false, Bool.false_eq_true, if_false]

/-- A read that is due is made of the walk's next page, with the wrong bits as they have become. -/
theorem exec_mramScrubRead_due {s : State} (l : List (Nat × DecodeBits)) (notVigil : s.sys.mode ≠ .vigil) (notDoze : s.sys.mode ≠ .doze)
    (due : s.ecc.mramAt + mramInterval s ≤ s.us) : exec (.mramScrubRead l) s = .next (readPage 2 { s with
      mram := l.foldl (fun m x => setFound m x.1 x.2) s.mram
      ecc := { s.ecc with mramPos := (s.ecc.mramPos + 1) % 16384, mramAt := s.ecc.mramAt + mramInterval s } } s.ecc.mramPos) := by
  show execMramScrubRead l s = _
  simp only [execMramScrubRead, beq_eq_false_iff_ne.mpr notVigil, beq_eq_false_iff_ne.mpr notDoze, Nat.not_lt.mpr due, decide_false,
    Bool.or_self, Bool.false_eq_true, if_false]

theorem exec_mramScrubRead_early {s : State} (l : List (Nat × DecodeBits)) (early : s.us < s.ecc.mramAt + mramInterval s) :
    exec (.mramScrubRead l) s = .next s := by
  show execMramScrubRead l s = _
  simp only [execMramScrubRead, early, decide_true, Bool.or_true, if_true]

/-! ### Token buckets (R299) -/

section
variable {s : State} {b : Bucket}

theorem exec_tokenBucketRefill_begins {q : Prog} (waits : (settleTokens s).mram.queue.find? (fun q => q.needs && q.bucket == some b) = some q)
    (enough : (q.pages + 1) * 1000000 ≤ tokensIn (settleTokens s).mram b) : exec (.tokenBucketRefill b) s = .next (beginIfIdle
      { settleTokens s with
        mram := putProg (spendTokens (settleTokens s).mram b (q.pages + 1)) q (some { q with needs := false }) }) := by
  show execTokenBucketRefill b s = _
  simp only [execTokenBucketRefill, waits]
  exact congrArg Host.Outcome.next (if_neg (Nat.not_lt.mpr enough))

theorem exec_tokenBucketRefill_settles (settled : (settleTokens s).mram.queue.find? (fun q => q.needs && q.bucket == some b) = none) :
    exec (.tokenBucketRefill b) s = .next (settleTokens s) := by
  show execTokenBucketRefill b s = _
  simp only [execTokenBucketRefill, settled]

end

/-! ### Raw mode (R305) -/

section
variable {s : State}

theorem rawRows_outside (b : DecodeBits) (outside : s.sys.mode ≠ .service) :
    exec .mramRawProgram s = .next s ∧ exec (.mramRawRead b) s = .next s := by
  have off : inService s = false := eq_false_of_ne_true (mt (inService_iff s).mp outside)
  constructor
  · show execMramRawProgram s = _
    simp only [execMramRawProgram, off, Bool.not_false, if_true]
  · show execMramRawRead b s = _
    simp only [execMramRawRead, off, Bool.not_false, if_true]

variable (service : s.sys.mode = .service)
include service

theorem exec_mramRawProgram_testPage (test : 0x3FF0 ≤ bits s.ecc.rawPage 13 0) (unarmed : bits s.ecc.flipTarget 2 0 ≠ 4) :
    exec .mramRawProgram s = .next { s with
      mram := { s.mram with raw := putKey (bits s.ecc.rawPage 13 0) (s.ecc.rawData.toList, s.ecc.rawSpare.toList) s.mram.raw }
      ecc := { s.ecc with rawRefused := false } } := by
  show execMramRawProgram s = _
  simp only [execMramRawProgram, (inService_iff s).mpr service, Bool.not_true, Bool.false_eq_true, if_false, Nat.not_lt.mpr test, flipPage,
    flipMeets, unarmed, false_and]

theorem exec_mramRawProgram_refused (other : bits s.ecc.rawPage 13 0 < 0x3FF0) :
    exec .mramRawProgram s = .next { s with ecc := { s.ecc with rawRefused := true } } := by
  show execMramRawProgram s = _
  simp only [execMramRawProgram, (inService_iff s).mpr service, Bool.not_true, Bool.false_eq_true, if_false, other, if_true]

/-- A raw read that decodes fills the registers with the page as stored. -/
theorem exec_mramRawRead_shows {x : List Word × List Word} (c : Nat) (stored : rawPageOf s (bits s.ecc.rawPage 13 0) = x) :
    exec (.mramRawRead (some c)) s = .next { s with
      ecc := { s.ecc with
        rawData := Vector.ofFn fun i => x.1.getD i.val 0
        rawSpare := Vector.ofFn fun i => x.2.getD i.val 0
        rawRefused := false
        rawCorrected := min c 12
        rawUncorrectable := false } } := by
  show execMramRawRead (some c) s = _
  simp only [execMramRawRead, (inService_iff s).mpr service, Bool.not_true, Bool.false_eq_true, if_false, stored, Option.isNone_some]

end

theorem bytesAsWords_getD {n i : Nat} (l : List Byte) (inside : i < n) : (bytesAsWords n l).getD i 0 = w32 (le32 l (4 * i)) := by
  simp [bytesAsWords, inside]

theorem pageData_record {s : State} {p : Nat} {r : Rec} (outside : 0x2000 ≤ p)
    (held : (s.mram.recs ++ s.mram.prev).find? (fun r => r.pages.contains p) = some r) :
    pageData s p = ((recordBytes r).drop (256 * r.pages.idxOf p)).take 256 := by
  simp only [pageData, Nat.not_lt.mpr outside, if_false, held]

/-- The bytes after CHECK begin with the body page list (Table 11.5). -/
theorem recordTail_begins (r : Rec) : ∃ tail : List Byte, recordTail r = bodyList r ++ tail := by
  simp only [recordTail, List.append_assoc]
  exact ⟨_, rfl⟩

/-! ### The last page's commit, and a page's retirement (R298, R301) -/

/-- The last page of a tariff schedule commits it and ends its descriptor (R295, R298, R368). -/
theorem exec_mramPageProgram_tariff {s : State} {q : Prog} {p k : Nat} {d : Desc} {sch : Tariff} {m : Mram} (runs : mramRuns s = true)
    (alone : s.mram.queue = [q]) (begun : q.begun = true) (last : q.left = 1) (act : q.act = .tariff k)
    (payload : q.payload = some (.schedule sch)) (waiting : s.desc? 0 k = some d) (stage : d.stage = .commit)
    (page : p = q.used.getD (q.pages - q.left) 0) (unarmed : bits s.ecc.flipTarget 2 0 ≠ 4)
    (committed : m = commitRecord (putProg (wearUp { s.mram with strengthAt := delKey p s.mram.strengthAt } p) q none) q)
    (even : (m.wear.all fun w => decide (w.2 ≤ 4096)) = true) : ∃ t : State, exec (.mramPageProgram (some 0)) s = .next t ∧
      EndsAs { s with mram := m, kpr := { s.kpr with pending := some sch } } t 0 k .ok d.fld.length ∧ t.mram = m := by
  have ends : EndsAs { s with mram := m, kpr := { s.kpr with pending := some sch } } (onCommit { s with mram := m } q) 0 k .ok
    d.fld.length := onCommit_tariff (s := { s with mram := m }) waiting stage act payload
  have mram : (onCommit { s with mram := m } q).mram = m := by rw [ends.rest]
  have level : levelWear (onCommit { s with mram := m } q) q.region = onCommit { s with mram := m } q :=
    levelWear_even (by rw [mram]; exact even)
  have empty : (onCommit { s with mram := m } q).mram.queue = [] := by
    rw [mram, committed, commitRecord_queue]
    simp only [putProg, wearUp, alone, List.erase_cons_head]
  have chosen : chooseProg s.mram.queue = some q := by rw [alone, chooseProg_begun begun]
  refine ⟨_, ?_, ends, mram⟩
  rw [exec_mramPageProgram_begun (some 0) runs chosen begun, stepProg_commits page unarmed last, ← committed, level,
    beginIfIdle_empty empty]

/-- A second failing read-back retires the page, and the record takes the pages picked (R301). -/
theorem exec_mramPageProgram_retires {s : State} {q : Prog} {p : Nat} {l : List Nat} (runs : mramRuns s = true)
    (alone : s.mram.queue = [q]) (begun : q.begun = true) (second : q.again = true) (page : p = q.used.getD (q.pages - q.left) 0)
    (unarmed : bits s.ecc.flipTarget 2 0 ≠ 4) {u : State}
    (retired : u = retirePage { s with
      mram := setFound (wearUp { s.mram with strengthAt := delKey p s.mram.strengthAt } p) p none } p)
    (picked : pickPages q.pages { u.mram with queue := [] } q.region [] = some l) : exec (.mramPageProgram none) s =
      .next { u with mram := { u.mram with queue := [{ q with used := l, left := q.pages, again := false }] } } := by
  have chosen : chooseProg s.mram.queue = some q := by rw [alone, chooseProg_begun begun]
  have still : u.mram.queue = [q] := by
    rw [retired]
    exact alone
  rw [exec_mramPageProgram_begun none runs chosen begun, stepProg_retires page unarmed second, ← retired, restartProg_picks still picked,
    beginIfIdle_busy]
  simp only [List.any_cons, begun, Bool.true_or]

/-- Settles O23, clause by clause: a page that reads back clean, fails once, fails twice, and the last page; the scrubber's reads; the
token buckets; raw mode, and the layout of a record's pages. -/
theorem mramPagesAreProgrammedReadBackScrubbedAndRefreshed :
    Obligations.MramPagesAreProgrammedReadBackScrubbedAndRefreshed := by
  refine ⟨?_, ?_, ?_, ?_, ?_, fun s l => exec_mramScrubRead_early l, fun s p c => readPage_corrected,
    fun m p c wrong => ⟨foundIn_setFound m p (some c), foundIn_setFound m p none, foundIn_setFound m p (some 0)⟩,
    fun s b q => exec_tokenBucketRefill_begins, fun s b => exec_tokenBucketRefill_settles,
    fun s => exec_mramRawProgram_testPage, fun s => exec_mramRawProgram_refused, ?_, ?_, ?_, fun s b => rawRows_outside b⟩
  · intro s q p runs chosen begun more page unarmed
    rw [exec_mramPageProgram_begun (some 0) runs chosen begun, stepProg_clean page unarmed more]
    rfl
  · intro s q p runs chosen begun first page unarmed
    rw [exec_mramPageProgram_begun none runs chosen begun, stepProg_again page unarmed first]
    rfl
  · intro s u q p l runs alone begun second page unarmed retired picked
    subst retired
    exact (exec_mramPageProgram_retires runs alone begun second page unarmed rfl picked :)
  · intro s q p k d sch m runs alone begun last act payload waiting stage page unarmed committed even
    have nextPage : p = q.used.getD (q.pages - q.left) 0 := by rw [page, last]
    have queue : putProg (wearUp { s.mram with strengthAt := delKey p s.mram.strengthAt } p) q none =
        { wearUp { s.mram with strengthAt := delKey p s.mram.strengthAt } p with queue := [] } := by
      simp only [putProg, wearUp, alone, List.erase_cons_head]
    obtain ⟨t, goes, ends, mram⟩ := exec_mramPageProgram_tariff runs alone begun last act payload waiting stage nextPage unarmed
      (committed.trans (by rw [queue]; rfl)) even
    refine ⟨t, goes, ends, ?_⟩
    rw [mram, committed]
    exact mem_commitRecord payload
  · intro s u l notVigil notDoze due moved
    rw [exec_mramScrubRead_due l notVigil notDoze due, ← moved]
    refine ⟨fun found inForce => ?_, fun c found wrong weak new => ?_, fun m fb found lost => ?_⟩
    · rw [readPage_clean 2 found inForce]
    · rw [readPage_weak 2 found wrong weak, wantRefresh_new new]
    · rw [readPage_lost 2 found lost]
  · intro s c x service programmed
    have stored : rawPageOf s (bits s.ecc.rawPage 13 0) = x := by simp only [rawPageOf, programmed]
    exact ⟨_, exec_mramRawRead_shows service c stored, rfl, rfl, rfl, rfl, rfl, rfl⟩
  · intro s c p r service page unprogrammed outside held
    have stored : rawPageOf s (bits s.ecc.rawPage 13 0) =
        (bytesAsWords 64 (pageData s p), bytesAsWords 8 (pageSpare s p (pageData s p))) := by
      rw [← page]
      simp only [rawPageOf, unprogrammed]
    refine ⟨_, exec_mramRawRead_shows service c stored, ?_, rfl, rfl, rfl⟩
    rw [← pageData_record outside held]
    exact congrArg Vector.ofFn (funext fun i => bytesAsWords_getD (pageData s p) i.isLt)
  · intro r
    obtain ⟨tail, begins⟩ := recordTail_begins r
    refine ⟨tail, ?_⟩
    simp only [recordBytes, recordHead, begins, List.append_assoc]

end Sys2Proof.Machine
end

section
/-! Sealing and key commands to their end (R117, R309, R310, R311, R313, R314, R316, R317, R318, R324). -/
namespace Sys2Proof.Machine

/-! ### A counter value is taken (R313, R314) -/

/-- Slot i holds a key with a counter value within its limit and its reservation (R314, R315). -/
structure CounterReady (s : State) (i : Fin 17) (key : KeySlot) : Prop where
  slot : s.slot i = key
  loaded : key.st = .loaded
  within : key.counter ≤ key.useLimit
  reserved : key.counter ≤ key.reservedTo

section
variable {s u : State} {i : Fin 17} {key : KeySlot}

theorem markSpent_ready (ready : CounterReady s i key) : markSpent s i = s := by
  simp only [markSpent, ready.slot, Nat.not_lt.mpr ready.within, and_false, if_false]

theorem counterCheck_ready (ready : CounterReady s i key) : counterCheck key = .value key.counter := by
  simp only [counterCheck, ready.loaded, reduceCtorEq, Nat.not_lt.mpr ready.within, Nat.not_lt.mpr ready.reserved,
    or_false, if_false]

theorem takeCounter_ready (ready : CounterReady s i key) : takeCounter s i = s.setSlot i { key with counter := key.counter + 1 } := by
  rw [takeCounter, ready.slot]

theorem counterReady_lockFor {r : Nat} {f : FoldId} {k : Nat} (lock : LockFor s r f k u) (ready : CounterReady s i key) :
    CounterReady u i key := ⟨(lockFor_slot lock i).trans ready.slot, ready.loaded, ready.within, ready.reserved⟩

end

/-! ### SEAL BUFFER and OPEN BUFFER (R117, R318) -/

theorem fold_modDesc_record (s : State) (f g : FoldId) (k : Nat) (h : Desc → Desc) :
    ((s.modDesc f k h).fold g).record = (s.fold g).record := by
  unfold State.modDesc
  rw [modFold_fold_any]
  split <;> rfl

/-- A descriptor's note leaves every fold's ways as they were. -/
theorem foldMask_modDesc (s : State) (f g : FoldId) (k : Nat) (h : Desc → Desc) : foldMask (s.modDesc f k h) g = foldMask s g :=
  congrArg FoldRec.wayMask (fold_modDesc_record s f g k h)

/-- SEAL BUFFER has taken a value: the slot counts on, and the descriptor has value, nonce and auxiliary data (R313, R314, R325). -/
def bufferValueTaken (s : State) (f : FoldId) (k : Nat) (i : Fin 17) (key : KeySlot) (tag : List Byte) : State :=
  (s.setSlot i { key with counter := key.counter + 1 }).modDesc f k fun e => { e with
    counter := some key.counter, nonceOut := nonceOf key.salt key.counter, aux := sealAux (nonceOf key.salt key.counter) tag }

section
variable {s u v : State} {f : FoldId} {k : Nat} {d : Desc}

theorem sealBufferRun_seals {key : KeySlot} {aad plain cipher tag : List Byte}
    (ready : CounterReady s (slotIndex f d.fld.keySlot) key)
    (sealed : gcmSeal key.key (nonceOf key.salt key.counter) (fit d.fld.aadLen aad) (fit d.fld.length plain) = (cipher, tag))
    (ran : memRun (bufferValueTaken s f k (slotIndex f d.fld.keySlot) key tag)
      (throughSet d (foldMask s f) engineMask ++ throughSet d engineMask (foldMask s f)) = (v, false)) :
    sealBufferRun f k d aad plain s = finish (deliver v f k cipher) f k .ok d.fld.length := by
  have ways : foldMask (bufferValueTaken s f k (slotIndex f d.fld.keySlot) key tag) f = foldMask s f := foldMask_modDesc _ f f k _
  rw [← ways] at ran
  unfold bufferValueTaken at ran
  simp only [sealBufferRun, markSpent_ready ready, counterCheck_ready ready, takeCounter_ready ready, ready.slot, sealed, ran,
    Bool.false_eq_true, if_false]

theorem exec_sealBuffer_for (running : sealRunning s f k .sealBuffer = some d) (enabled : s.cph.disabled = false)
    (lock : LockFor s f.val f k u) (aad plain : List Byte) :
    exec (.sealBuffer f k aad plain) s = .next (sealBufferRun f k d aad plain u) := by
  show execSealBuffer f k aad plain s = _
  simp only [execSealBuffer, running, enabled, Bool.false_eq_true, if_false, withLock_for lock]

theorem exec_openBuffer_decrypts (running : sealRunning s f k .openBuffer = some d) (enabled : s.cph.disabled = false)
    (lock : LockFor s f.val f k u) (key : (s.slot (slotIndex f d.fld.keySlot)).st ≠ .empty)
    (ran : memRun u (throughSet d (foldMask u f) engineMask) = (v, false)) (aad aux cipher : List Byte) :
    exec (.openBuffer f k aad aux cipher) s = .next
      (openInto v (s.slot (slotIndex f d.fld.keySlot)) (fit d.fld.aadLen aad) (fit 32 aux) (fit d.fld.length cipher)) := by
  show execOpenBuffer f k aad aux cipher s = _
  simp only [execOpenBuffer, running, enabled, withLock_for lock, lockFor_slot lock, key, ran, Bool.false_eq_true, if_false]

end

/-! ### SEALED WRITE (R313, R314, R316) -/

theorem settleGate_cph (s : State) : (settleGate s).cph = s.cph := by
  rcases settleGate_cases s with gate | gate | gate
  · rw [gate]
  · rw [gate, lowerGate_eq]
  · rw [gate]
    rfl

/-- The beginning of a recording leaves the engine alone. -/
theorem startWriting_cph (s : State) (di : DiscInfo) (d : Desc) (data : List Block) : (startWriting s di d data).cph = s.cph := by
  dsimp only [startWriting]
  split
  · rfl
  · split
    · rfl
    · exact settleGate_cph _

/-- Before its last unit a SEALED WRITE keeps the lock; with it encrypted the lock is released (Table 12.2). -/
theorem sealedWriteLock_cases (s : State) : sealedWriteLock s = s ∨ sealedWriteLock s = releaseLock s := by
  unfold sealedWriteLock
  split
  · split
    · exact .inr rfl
    · exact .inl rfl
  · exact .inl rfl

theorem releaseLock_slot (s : State) (i : Fin 17) : (releaseLock s).slot i = s.slot i := by
  unfold releaseLock
  split <;> rfl

theorem sealedWriteLock_job (s : State) : (sealedWriteLock s).job = s.job := by
  rcases sealedWriteLock_cases s with kept | released
  · rw [kept]
  · rw [released, releaseLock_eq]

theorem sealedWriteLock_slot (s : State) (i : Fin 17) : (sealedWriteLock s).slot i = s.slot i := by
  rcases sealedWriteLock_cases s with kept | released
  · rw [kept]
  · rw [released, releaseLock_slot]

/-- SEALED WRITE has taken a value: the slot counts on, and the descriptor has value, nonce and tag (R313, R314). -/
def writeValueTaken (s : State) (f : FoldId) (k : Nat) (i : Fin 17) (key : KeySlot) (tag : List Byte) : State :=
  (s.setSlot i { key with counter := key.counter + 1 }).modDesc f k fun e => { e with
    counter := some key.counter, nonceOut := nonceOf key.salt key.counter ++ tag }

section
variable {s u v : State} {f : FoldId} {k : Nat} {d : Desc} {di : DiscInfo} {key : KeySlot}

theorem sealedWriteRun_begins {aad plain cipher tag : List Byte} (ready : CounterReady s (slotIndex f d.fld.keySlot) key)
    (sealed : gcmSeal key.key (nonceOf key.salt key.counter) (fit d.fld.aadLen aad) (fit (2048 * d.fld.count) plain) = (cipher, tag))
    (ran : memRun (writeValueTaken s f k (slotIndex f d.fld.keySlot) key tag)
      (setOps true engineMask d.bufs 0 (2048 * d.fld.count)) = (v, false)) :
    sealedWriteRun f k d di aad plain s = sealedWriteLock (startWriting v di d (blocksOf d.fld.count cipher)) := by
  unfold writeValueTaken at ran
  simp only [sealedWriteRun, markSpent_ready ready, counterCheck_ready ready, takeCounter_ready ready, ready.slot, sealed, ran,
    Bool.false_eq_true, if_false]

theorem exec_sealedWrite_for (dispatched : dispatchedAs s f k .sealedWrite = some d) (disc : s.disc = some di)
    (may : writeRangeOk di (lbaOf d.fld) d.fld.count = true) (enabled : s.cph.disabled = false) (lock : LockFor s 9 f k u)
    (aad plain : List Byte) : exec (.sealedWrite f k aad plain) s = .next (sealedWriteRun f k d di aad plain u) := by
  show execSealedWrite f k aad plain s = _
  simp only [execSealedWrite, dispatched, disc, may, enabled, Bool.not_true, Bool.false_eq_true, if_false, withLock_for lock]

/-- Taking the value and accessing the working set leave the job as it was; the slot has counted on. -/
theorem memRun_writeValueTaken {i : Fin 17} {tag : List Byte} {l : List MemOp} {bad : Bool}
    (ran : memRun (writeValueTaken s f k i key tag) l = (v, bad)) :
    v.job = s.job ∧ v.slot i = { key with counter := key.counter + 1 } := by
  have job := memRun_job (writeValueTaken s f k i key tag) l
  have engine := memRun_cph (writeValueTaken s f k i key tag) l
  rw [ran] at job engine
  refine ⟨job, ?_⟩
  rw [State.slot, engine]
  exact setSlot_slot s i _

end

/-! ### KEY LOAD and KEY CLEAR (R309, R310, R311) -/

section
variable {s u : State} {f : FoldId} {k : Nat} {d : Desc}

/-- A fold's record for its slot is asked for, with a SALT newly drawn (R310). -/
theorem loadKey_lockFor {r : Nat} (lock : LockFor s r f k u) (key : List Byte) : loadKey u f k d key =
    requestSlotRecord ({ u with draws := s.draws + 1 }.modDesc f k fun e => { e with stage := .commit }) (slotIndex f d.fld.keySlot)
      (loadedSlot d.fld.opfield d.fld.opdata (Config.randomWord s.draws) key) (.keyLoad f k (slotIndex f d.fld.keySlot).val) := by
  have draws : u.draws = s.draws := by rw [lockFor_eq lock]
  rw [← draws]
  rfl

theorem exec_keyLoad_for (running : sealRunning s f k .keyLoad = some d) (plain : bit d.fld.opfield 2 = false)
    (enabled : s.cph.disabled = false) (lock : LockFor s f.val f k u) (key : List Byte) :
    exec (.keyLoad f k key) s = .next (loadKey u f k d (fit (keyBytes d.fld.opfield) key)) := by
  show execKeyLoad f k key s = _
  simp only [execKeyLoad, running, plain, enabled, Bool.false_eq_true, if_false, withLock_for lock]

theorem exec_keyLoadWrapped_for {w key : List Byte} (running : sealRunning s f k .keyLoad = some d)
    (wrapped : bit d.fld.opfield 2 = true) (enabled : s.cph.disabled = false) (lock : LockFor s f.val f k u)
    (other : (s.slot (slotIndex f (d.fld.keySlot + 1))).st ≠ .empty)
    (unwraps : kwUnwrap (s.slot (slotIndex f (d.fld.keySlot + 1))).key (fit (keyBytes d.fld.opfield) w) = some key) :
    exec (.keyLoadWrapped f k w) s = .next (loadKey u f k d key) := by
  show execKeyLoadWrapped f k w s = _
  simp only [execKeyLoadWrapped, running, wrapped, enabled, withLock_for lock, lockFor_slot lock, other, unwraps, Bool.not_true,
    Bool.false_eq_true, if_false]

theorem exec_keyClear_for (running : sealRunning s f k .keyClear = some d) (lock : LockFor s f.val f k u)
    (held : (s.slot (slotIndex f d.fld.keySlot)).st ≠ .empty) : exec (.keyClear f k) s = .next (requestRecord
      ((u.setSlot (slotIndex f d.fld.keySlot) {}).modDesc f k fun e => { e with stage := .commit }) 6
      (slotRecordId (slotIndex f d.fld.keySlot)) none 0 .other (some (.region 6))
      (.keyClear f k (slotIndex f d.fld.keySlot).val)) := by
  show execKeyClear f k s = _
  simp only [execKeyClear, running, withLock_for lock, lockFor_slot lock, held, if_false]

/-- The record of a loaded slot commits: the slot takes the key, and a reservation not yet begun lapses (R310). -/
theorem onCommit_keyLoad {i : Fin 17} {w : BitVec 16} {o : BitVec 64} {salt : Word} {key : List Byte} {q : Prog}
    (act : q.act = .keyLoad f k i.val) (payload : q.payload = some (.slot (recordOfSlot i (loadedSlot w o salt key))))
    (found : s.desc? f k = some d) (stage : d.stage = .commit) : EndsAs ({ s with mram := { s.mram with
        queue := s.mram.queue.filter fun p => !(p.act == OnCommit.reserve i.val && !p.begun) } }.setSlot i (loadedSlot w o salt key))
      (onCommit s q) f k .ok 0 := by
  have slot : Fin.ofNat 17 i.val = i := Fin.ext (Nat.mod_eq_of_lt i.isLt)
  have waits : State.desc? { s with mram := { s.mram with
      queue := s.mram.queue.filter fun p => !(p.act == OnCommit.reserve i.val && !p.begun) } } f k = some d := found
  have commits : (d.stage != .commit) = false := by rw [stage, bne_self_eq_false]
  simp only [onCommit, act, payload, keyLoaded, waits, commits, Bool.false_eq_true, if_false, slot]
  exact finish_endsAs _ f k .ok 0

theorem onCommit_keyClear {n : Nat} {q : Prog} (act : q.act = .keyClear f k n) (found : s.desc? f k = some d)
    (stage : d.stage = .commit) : EndsAs s (onCommit s q) f k .ok 0 := by
  simp only [onCommit, act]
  exact finishCommit_endsAs .ok 0 found stage

end

/-- Settles O53, clause by clause: the two buffer commands, SEALED WRITE, KEY LOAD plain and wrapped, KEY CLEAR, and their commits. -/
theorem sealingAndKeyCommandsRunToTheirEnd : Obligations.SealingAndKeyCommandsRunToTheirEnd := by
  refine ⟨?_, ?_, ?_, ?_, ?_, ?_, ?_, ?_⟩
  · rintro s u v f k d i key aad plain cipher tag running enabled lock rfl slot loaded within reserved sealed ran
    have ready := counterReady_lockFor lock ⟨slot, loaded, within, reserved⟩
    refine ⟨_, exec_sealBuffer_for running enabled lock aad plain, ?_⟩
    rw [sealBufferRun_seals ready sealed ran]
    exact finish_endsAs _ f k .ok d.fld.length
  · exact fun s u v f k d aad aux cipher running enabled lock key ran =>
      exec_openBuffer_decrypts running enabled lock key ran aad aux cipher
  · rintro s u v f k d di i key aad plain cipher tag dispatched disc may enabled lock rfl slot loaded within reserved sealed ran
    obtain ⟨-, m, held, -, rfl, rfl, -⟩ := dispatchedAs_job dispatched
    obtain ⟨job, counted⟩ := memRun_writeValueTaken ran
    have mechanism : v.job = some m := by rw [job, lockFor_eq lock, held]
    obtain ⟨j, begins, started⟩ := startWriting_job mechanism di d (blocksOf d.fld.count cipher)
    have ready := counterReady_lockFor lock ⟨slot, loaded, within, reserved⟩
    refine ⟨_, j, exec_sealedWrite_for dispatched disc may enabled lock aad plain, ?_⟩
    rw [sealedWriteRun_begins ready sealed ran, sealedWriteLock_job, sealedWriteLock_slot, State.slot, startWriting_cph]
    exact ⟨begins, started.kind, started.f, started.k, started.next, started.last, started.data, started.units, counted⟩
  · rintro s u f k d i key running plain enabled lock rfl
    exact ⟨_, exec_keyLoad_for running plain enabled lock key, loadKey_lockFor lock _⟩
  · rintro s u f k d i w key running wrapped enabled lock rfl other unwraps
    exact ⟨_, exec_keyLoadWrapped_for running wrapped enabled lock other unwraps, loadKey_lockFor lock key⟩
  · exact fun s f k i d w o salt key q act payload found stage => onCommit_keyLoad act payload found stage
  · rintro s u f k d i running lock rfl held
    exact ⟨_, exec_keyClear_for running lock held, rfl⟩
  · exact fun s f k n d q act found stage => onCommit_keyClear act found stage

end Sys2Proof.Machine
end

section
/-! The step and its invariant (R178, R238, R391, R423): the front command runs, every command answers, every step keeps the
invariant, and the machine after reset has it. -/
namespace Sys2Proof.Machine

/-- Every arm of `exec` is `.next` of a state by its own definition: no command ends in a fault or a refusal. -/
theorem exec_answers (c : Instr) (s : State) : ∃ t : State, exec c s = .next t := by
  cases c <;> exact ⟨_, rfl⟩

theorem step_nil {s : State} (h : s.pending = []) : step s = .next (idleTick s) := by
  rw [step, h]

theorem step_cons {s : State} {c : Instr} {rest : List Instr} (h : s.pending = c :: rest) :
    step s = exec c { s with pending := rest } := by
  rw [step, h]

/-- The queue is no part of the invariant. -/
theorem stateInv_queue {s : State} (h : StateInv s) (q : List Instr) : Kept q { s with pending := q } :=
  { kept_fields (kept_iff.2 ⟨rfl, h⟩) with queue := rfl }

/-- Whatever a step runs, it keeps the invariant: `kept_idleTick` on an empty queue, `kept_exec` otherwise. -/
theorem kept_step {s : State} (h : StateInv s) : ∃ q : List Instr, KeptA q (step s) := by
  cases queue : s.pending with
  | nil =>
    rw [step_nil queue]
    exact ⟨[], kept_next (kept_idleTick (kept_iff.2 ⟨queue, h⟩))⟩
  | cons c rest =>
    rw [step_cons queue]
    exact ⟨rest, kept_exec (stateInv_queue h rest)⟩

/-- Settles O1: a step on a queue that is not empty is `step_cons`. -/
theorem stepRunsTheFrontCommand : Obligations.StepRunsTheFrontCommand := fun _ _ _ => step_cons rfl

/-- Settles O3: every command answers, and what it answers has kept the queue. -/
theorem everyCommandGoesOnAndLeavesTheQueue : Obligations.EveryCommandGoesOnAndLeavesTheQueue := by
  intro c s inv
  obtain ⟨t, ran⟩ := exec_answers c s
  have kept : KeptA s.pending (exec c s) := kept_exec (kept_iff.2 ⟨rfl, inv⟩)
  rw [ran] at kept
  exact ⟨t, ran, (kept_iff.1 kept).1⟩

/-- Settles O4: the invariant is `Kept` beside the queue, which `kept_step` carries through any step. -/
theorem everyStepKeepsTheInvariant : Obligations.EveryStepKeepsTheInvariant := by
  intro s t inv ran
  obtain ⟨q, kept⟩ := kept_step inv
  rw [ran] at kept
  exact (kept_iff.1 kept).2

/-- Settles O5: every keyed list is empty, every register reads 0 in its reserved bits, laser and recording are off. -/
theorem resetMeetsTheInvariant : Obligations.ResetMeetsTheInvariant := by
  refine ⟨⟨?_, ?_, ?_⟩, rfl, rfl, rfl, rfl⟩
  · constructor <;> decide
  · constructor <;> rfl
  · constructor <;> decide

/-! ### A microsecond with nothing else due (R352, R387; log entry 2) -/

theorem tick_calAdvance : ∀ (n : Nat) (k : Keeper), (calAdvance n k).tick = k.tick
  | 0, _ => rfl
  | n + 1, k => by
    unfold calAdvance
    split
    · exact tick_calAdvance n _
    · split
      · rfl
      · exact tick_calAdvance n _

theorem tick_slewTick (k : Keeper) : (slewTick k).2.tick = k.tick := by
  unfold slewTick
  repeat' split
  all_goals rfl

theorem tick_keeperTick (s : State) : (keeperTick s).kpr.tick = min (s.kpr.tick + 1) (2 ^ 48 - 1) := by
  have marks (j : Keeper) : (if s.kpr.slew = 0 then j else { j with ledger := { j.ledger with
      openI := { j.ledger.openI with slewed := true } } }).tick = j.tick := by
    split <;> rfl
  calc (keeperTick s).kpr.tick
      = (calAdvance (slewTick s.kpr).1
          { (slewTick s.kpr).2 with tick := min ((slewTick s.kpr).2.tick + 1) (2 ^ 48 - 1) }).tick := marks _
    _ = min ((slewTick s.kpr).2.tick + 1) (2 ^ 48 - 1) := tick_calAdvance _ _
    _ = min (s.kpr.tick + 1) (2 ^ 48 - 1) := by rw [tick_slewTick]

/-- Time changes the interval timer, the phase of the keeper's tick and the keeper alone. -/
theorem passTime_changes (s : State) : ∃ (p : Nat) (k : Keeper), passTime s = { s with us := s.us + 1, phase := p, kpr := k } := by
  unfold passTime
  dsimp only
  split
  · exact ⟨_, _, rfl⟩
  · split
    · exact ⟨_, _, rfl⟩
    · exact ⟨_, _, rfl⟩

theorem passTime_phase {s : State} (running : s.kpr.running = true) (osc : (s.kpr.crystalOk || s.kpr.rcOk) = true) :
    (passTime s).phase = if 1000000 ≤ s.phase + 32768 then s.phase + 32768 - 1000000 else s.phase + 32768 := by
  simp only [passTime, running, osc, Bool.not_true, Bool.or_self, Bool.false_eq_true, if_false]
  split <;> rfl

theorem passTime_tick {s : State} (running : s.kpr.running = true) (osc : (s.kpr.crystalOk || s.kpr.rcOk) = true) :
    (passTime s).kpr.tick = if 1000000 ≤ s.phase + 32768 then min (s.kpr.tick + 1) (2 ^ 48 - 1) else s.kpr.tick := by
  simp only [passTime, running, osc, Bool.not_true, Bool.or_self, Bool.false_eq_true, if_false]
  split
  · exact tick_keeperTick _
  · rfl

theorem flipIdle_unarmed {s : State} (h : bits s.ecc.flipTarget 2 0 = 0) : flipIdle s = s := by
  simp [flipIdle, h]

/-- A ramp of the actuators changes the servo's outputs and Iron's commands alone. -/
theorem rampStep_eq (s : State) : rampStep s = { s with servo := (rampStep s).servo, pwr := (rampStep s).pwr } := by
  unfold rampStep
  split <;> rfl

theorem sleepTick_awake {s : State} (h : s.sys.entry = none) : sleepTick s = s := by
  rw [sleepTick, h]

theorem closePushed_unpushed {s : State} (h : s.loader.pushed = false) : closePushed s = s := by
  simp [closePushed, h]

theorem buttonEject_unpressed {s : State} (h : s.loader.button = false) : buttonEject s = s := by
  simp [buttonEject, h]

/-- With no flip armed, no entry to a sleeping mode, no tray pushed and no button, a microsecond is time and a ramp's step. -/
theorem idleTick_quiet {s : State} (button : s.loader.button = false) (pushed : s.loader.pushed = false)
    (entry : s.sys.entry = none) (flip : bits s.ecc.flipTarget 2 0 = 0) : idleTick s = rampStep (passTime s) := by
  obtain ⟨p, k, passed⟩ := passTime_changes s
  have flipped : flipIdle (passTime s) = passTime s := flipIdle_unarmed (by rw [passed]; exact flip)
  have slept : sleepTick (rampStep (passTime s)) = rampStep (passTime s) :=
    sleepTick_awake (by rw [rampStep_eq, passed]; exact entry)
  have closed : closePushed (rampStep (passTime s)) = rampStep (passTime s) :=
    closePushed_unpushed (by rw [rampStep_eq, passed]; exact pushed)
  have ejected : buttonEject (rampStep (passTime s)) = rampStep (passTime s) :=
    buttonEject_unpressed (by rw [rampStep_eq, passed]; exact button)
  rw [idleTick, flipped, slept, closed, ejected]

/-- Settles O2: what such a microsecond brings is `passTime`'s, since a ramp's step leaves timer, phase and keeper. -/
theorem idleStepPassesAMicrosecond : Obligations.IdleStepPassesAMicrosecond := by
  intro s queue button pushed entry flip
  obtain ⟨p, k, passed⟩ := passTime_changes s
  have quiet := idleTick_quiet button pushed entry flip
  rw [rampStep_eq] at quiet
  refine ⟨idleTick s, step_nil queue, ?_, fun running osc => ⟨?_, ?_⟩⟩
  · rw [quiet, passed]
  · rw [quiet]
    exact passTime_phase running osc
  · rw [quiet]
    exact passTime_tick running osc

end Sys2Proof.Machine
end

section
/-! The slack governor, the mains form, the keeper's supply and TELEMETRY (R25, R330, R334 to R336, R349, R350, R353, R356). -/
namespace Sys2Proof.Machine

/-! ### What the governor does with a value (R335, R336; log entry 69) -/

theorem govOverrun_eq {g : Gov} (en : bit g.ctl 0 = true) : govOverrun g = { g with
    code := min (g.code + 4) (govVmax g), overruns := min (g.overruns + 1) 65535, n := 0, winMin := 63, hold := g.hold - 1 } := by
  simp only [govOverrun, govEn, en, if_true, govHoldDown, govRestart, govCount, sat, Nat.reducePow, Nat.reduceSub]

theorem govSlack_low {g : Gov} {x : Nat} (en : bit g.ctl 0 = true) (low : x < govFloor g) (free : g.hold = 0) : govSlack g x =
    { g with code := min (g.code + 1) (govVmax g), n := 0, winMin := 63, hold := 15 } := by
  simp [govSlack, govEn, en, low, free, govHoldDown, govRestart]

/-- A value of FLOOR or more, or one during the hold, counts in the window. -/
theorem govSlack_counts {g : Gov} {x : Nat} (h : govFloor g ≤ x ∨ 0 < g.hold) : govSlack g x = govHoldDown (govWindow g x) := by
  refine if_neg fun low => ?_
  simp only [Bool.and_eq_true, decide_eq_true_eq, beq_iff_eq] at low
  omega

theorem govWindow_open {g : Gov} {x : Nat} (h : g.n < 255) : govWindow g x = { g with winMin := min g.winMin x, n := g.n + 1 } :=
  if_neg (by omega)

theorem govWindow_ends {g : Gov} {x : Nat} (en : bit g.ctl 0 = true) (full : g.n = 255) (first : g.lowMin = none) :
    govWindow g x = { g with
      code := if govFloor g + govHyst g ≤ min g.winMin x then max (g.code - 1) (govVmin g) else g.code
      lastWin := some (min g.winMin x), lowMin := some (min g.winMin x), n := 0, winMin := 63 } := by
  simp [govWindow, full, first, govEn, en, govRestart]

/-! ### GOVERNOR_FRAME (R155, R156, R334 to R336) -/

section
variable {s : State} (up : linksUp s = true)
include up

theorem exec_governorFrame_none (value : s.pwr.links.cmd.value = .none) :
    exec .governorFrame s = .next { s with pwr := { s.pwr with gov := govSettle s.pwr.gov } } := by
  show execGovernorFrame s = _
  simp only [execGovernorFrame, up, value, Bool.not_true, Bool.false_eq_true, if_false]

theorem exec_governorFrame_slack {x : Nat} (value : s.pwr.links.cmd.value = .slack x) (within : x ≤ 63) :
    exec .governorFrame s = .next { s with pwr := { s.pwr with gov := govSlack (govSettle s.pwr.gov) x } } := by
  show execGovernorFrame s = _
  simp only [execGovernorFrame, up, value, Bool.not_true, Bool.false_eq_true, if_false, Nat.min_eq_right within]

theorem exec_governorFrame_overrun (value : s.pwr.links.cmd.value = .overrun)
    (below : (govSettle s.pwr.gov).code < govVmax (govSettle s.pwr.gov)) :
    exec .governorFrame s = .next { s with pwr := { s.pwr with gov := govOverrun (govSettle s.pwr.gov) } } := by
  show execGovernorFrame s = _
  simp only [execGovernorFrame, up, value, Bool.not_true, Bool.false_eq_true, if_false, beq_eq_false_iff_ne.2 (Nat.ne_of_lt below),
    Bool.and_false]

theorem exec_governorFrame_limit (value : s.pwr.links.cmd.value = .overrun) (en : bit (govSettle s.pwr.gov).ctl 0 = true)
    (most : (govSettle s.pwr.gov).code = govVmax (govSettle s.pwr.gov)) : exec .governorFrame s =
      .next (noteGovLimit { s with pwr := { s.pwr with gov := govCount (govSettle s.pwr.gov) } }) := by
  show execGovernorFrame s = _
  simp only [execGovernorFrame, up, value, Bool.not_true, Bool.false_eq_true, if_false, govEn, en, most, BEq.rfl, Bool.and_self, if_true]

end

/-- GOV_LIMIT is posted where none has been (R336). -/
theorem noteGovLimit_first {s : State} (h : s.pwr.gov.limitTick = none) : noteGovLimit s =
    postEvent { s with pwr := { s.pwr with gov := { s.pwr.gov with limitTick := some s.kpr.tick } } } 0 0x07A3
      (w32 (govVmax s.pwr.gov + 65536 * s.pwr.gov.overruns)) := by
  simp only [noteGovLimit, h, Bool.false_eq_true, if_false, evGovLimit]

theorem noteGovLimit_recent {s : State} {n : Nat} (h : s.pwr.gov.limitTick = some n) (recent : s.kpr.tick < n + 32768) :
    noteGovLimit s = s := by
  simp only [noteGovLimit, h, recent, decide_true, if_true]

/-! ### The mains form (R330) -/

theorem exec_mains_absent {s : State} (n : Nat) (h : s.pwr.mains = false) : exec (.mainsStart n) s = .next s ∧
    exec .mainsStop s = .next s ∧ exec .regulationLoss s = .next s := by
  refine ⟨?_, ?_, ?_⟩
  · show execMainsStart n s = _
    simp [execMainsStart, h]
  · show execMainsStop s = _
    simp [execMainsStop, h]
  · show execRegulationLoss s = _
    simp [execRegulationLoss, h]

theorem exec_mainsStart {s : State} {rms : Nat} (mains : s.pwr.mains = true) (off : s.pwr.switching = false)
    (free : s.pwr.regStop = none) :
    exec (.mainsStart rms) s = .next (if 76 ≤ rms then setSwitching s true none else s) := by
  show execMainsStart rms s = _
  simp [execMainsStart, mains, off, free]

theorem exec_regulationRestart {s : State} {a : Nat} (h : s.pwr.regStop = some a) :
    exec .regulationRestart s = .next (if a + 1000000 ≤ s.us then setSwitching s true none else s) := by
  show execRegulationRestart s = _
  simp only [execRegulationRestart, h]

/-! ### The keeper's supply (R349) -/

/-- A measurement of the battery that is due (R349). -/
theorem exec_vbatMeasure {s : State} {mv : Nat} (running : s.kpr.running = true) (due : s.kpr.vbatTick + 1966080 ≤ s.kpr.tick)
    (present : 1000 ≤ mv) : exec (.vbatMeasure mv) s = .next
      (let t : State := { s with pwr := { s.pwr with vbat := mv, batLow := decide (mv < 2000) }
                                 kpr := { s.kpr with vbatTick := s.kpr.tick } }
      if decide (mv < 2000) && !s.pwr.batLow && bronzeUp s then postEvent t 0 0x07A5 (w32 (sat 16 mv)) else t) := by
  show execVbatMeasure mv s = _
  simp only [execVbatMeasure, running, Nat.not_lt.2 due, Nat.not_lt.2 present, decide_false, Bool.not_true, Bool.or_self,
    Bool.false_eq_true, if_false, evBatLow]

theorem exec_vbatMeasure_early {s : State} {mv : Nat} (early : s.kpr.tick < s.kpr.vbatTick + 1966080) :
    exec (.vbatMeasure mv) s = .next s := by
  show execVbatMeasure mv s = _
  simp only [execVbatMeasure, early, decide_true, Bool.or_true, if_true]

theorem exec_keeperToBattery {s : State} (running : s.kpr.running = true) (absent : s.pwr.input = false) :
    exec .keeperToBattery s = .next { s with pwr := { s.pwr with keepOnBat := true } } := by
  show execKeeperToBattery s = _
  simp [execKeeperToBattery, running, absent]

theorem exec_keeperLost {s : State} (running : s.kpr.running = true) (battery : s.pwr.keepOnBat = true)
    (absent : s.pwr.input = false) : exec .keeperLost s = .next { s with
      kpr := lostKeeper
      pwr := { s.pwr with batLow := false, keepLost := false, thermWarn := false, acFreqBad := false, lastShutdown := 0
                          shutdownDie := 0, coolUntil := none } } := by
  show execKeeperLost s = _
  simp [execKeeperLost, running, battery, absent]

theorem exec_keeperPowerUp {s : State} (b a : Bool) (lost : s.kpr.running = false) : exec (.keeperPowerUp b a) s = .next { s with
    kpr := { s.kpr with running := true, rcOk := true, addrHigh := a }
    pwr := { s.pwr with keepOnBat := !b } } := by
  show execKeeperPowerUp b a s = _
  simp [execKeeperPowerUp, lost]

/-! ### TELEMETRY (R350, Table 13.7) -/

theorem telemetryRecord_length (s : State) : (telemetryRecord s).length = 64 := by
  unfold telemetryRecord
  repeat rw [List.length_append]
  repeat rw [leBytes_length]
  rfl

theorem exec_telemetry {s : State} {f : FoldId} {k : Nat} {d : Desc} (running : runningAs s f k .telemetry = some d) :
    exec (.telemetry f k) s = .next (finish ({ s with draws := s.draws + 1 }.modDesc f k fun e => { e with
      writes := e.writes ++ scatterAt e.list 0 (telemetryRecord s) }) f k .ok 64) := by
  show execTelemetry f k s = _
  simp only [execTelemetry, running]
  rfl

/-- Settles O31, clause by clause: the frames by what they bring, the mains form, the keeper's supply, and TELEMETRY. -/
theorem theGovernorTheMainsFormAndTheKeepersSupply : Obligations.TheGovernorTheMainsFormAndTheKeepersSupply := by
  refine ⟨?frames, ?limit, ?starts, ?stops, fun s n absent => exec_mains_absent n absent, ?restarts,
    fun s running absent => exec_keeperToBattery running absent, fun s => rfl, ?measured,
    fun s mv early => exec_vbatMeasure_early early, ?lost, fun s b a lost => exec_keeperPowerUp b a lost, ?telemetry⟩
  case frames =>
    rintro s g up rfl
    refine ⟨fun value => exec_governorFrame_none up value, ?_, ?_, ?_, ?_⟩
    · intro value en below
      rw [exec_governorFrame_overrun up value below, govOverrun_eq en]
    · intro x value within en low free
      rw [exec_governorFrame_slack up value within, govSlack_low en low free]
    · intro x value within counts more
      rw [exec_governorFrame_slack up value within, govSlack_counts counts, govWindow_open more]
      rfl
    · intro x value within en counts full first
      rw [exec_governorFrame_slack up value within, govSlack_counts counts, govWindow_ends en full first]
      rfl
  case limit =>
    rintro s t g up rfl en most value rfl
    rw [exec_governorFrame_limit up value en most]
    refine ⟨fun first => ?_, fun n last recent => ?_⟩
    · exact congrArg _ (noteGovLimit_first first)
    · exact congrArg _ (noteGovLimit_recent last recent)
  case starts =>
    intro s rms mains off free
    rw [exec_mainsStart mains off free]
    refine ⟨fun enough => ?_, fun low => ?_⟩
    · rw [if_pos enough]
      rfl
    · rw [if_neg (Nat.not_le.2 low)]
  case stops =>
    intro s mains on
    refine ⟨?_, ?_⟩
    · show execMainsStop s = _
      simp [execMainsStop, mains, on, setSwitching]
    · show execRegulationLoss s = _
      simp [execRegulationLoss, mains, on, setSwitching]
  case restarts =>
    intro s a stopped
    rw [exec_regulationRestart stopped]
    refine ⟨fun due => ?_, fun early => ?_⟩
    · rw [if_pos due]
      rfl
    · rw [if_neg (Nat.not_le.2 early)]
  case measured =>
    intro s mv running due
    refine ⟨fun good => ?_, fun present low before up => ?_⟩
    · rw [exec_vbatMeasure running due (by omega), decide_eq_false (Nat.not_lt.2 good)]
      rfl
    · rw [exec_vbatMeasure running due present, decide_eq_true low, before, up, sat, Nat.min_eq_left (by omega)]
      rfl
  case lost =>
    intro s running battery absent
    exact ⟨_, exec_keeperLost running battery absent, rfl, rfl, rfl, rfl, rfl, rfl⟩
  case telemetry =>
    intro s f k d running
    exact ⟨telemetryRecord_length s, _, exec_telemetry running, finish_endsAs _ f k .ok 64⟩

end Sys2Proof.Machine
end

section
/-! The collie: armed, served, struck and expired, and the end of WDOG_N's pulse (R377 to R383, R388, R413, Tables 15.1 and 15.2). -/
namespace Sys2Proof.Machine

/-! ### Retained evidence (R388) -/

theorem requestMirror_kpr (s : State) : (requestMirror s).kpr = { s.kpr with mirrorDirty := false, mirrorTick := s.kpr.tick } := by
  unfold requestMirror
  dsimp only
  split
  · rfl
  · rw [requestRecord_eq]

/-- A change of evidence reaches the keeper's evidence at once; besides it only the mirror's own marks change there. -/
theorem evidenceChange_kpr (s : State) (cause tick : Nat) (g : Evidence → Evidence) : ∃ (dirty : Bool) (at_ : Nat),
    (evidenceChange s cause tick g).kpr = { s.kpr with
      mirrorDirty := dirty, mirrorTick := at_, evidence := { g s.kpr.evidence with lastCause := cause, lastTick := tick } } := by
  unfold evidenceChange flushMirror
  split
  · exact ⟨_, _, requestMirror_kpr _⟩
  · exact ⟨_, _, rfl⟩

/-! ### WDOG_N (R377, R383) -/

theorem endStop_released {s : State} (high : s.kpr.wdogLow = false) :
    endStop s = s.modCollie fun w => { w with safeStop := false } := by
  have kept : (s.modCollie fun w => { w with safeStop := false }).kpr.wdogLow = false := high
  simp only [endStop, releaseHeld, kept, Bool.false_and, Bool.false_eq_true, if_false]

theorem setWdog_kpr (s : State) (low : Bool) (u : Option Nat) (both : Bool) :
    (setWdog s low u both).kpr = { s.kpr with wdogLow := low, wdogUntil := u, wdogBoth := both } := by
  unfold setWdog
  dsimp only
  split <;> rfl

/-- Setting what drives WDOG_N to what already drives it changes nothing. -/
theorem setWdog_same {s : State} {low both : Bool} {u : Option Nat} (hlow : low = s.kpr.wdogLow) (hu : u = s.kpr.wdogUntil)
    (hboth : both = s.kpr.wdogBoth) : setWdog s low u both = s := by
  subst hlow hu hboth
  exact if_pos (beq_self_eq_true _)

/-- Where the pin moves, the move is on the bus. -/
theorem setWdog_moves {s : State} {low both v : Bool} {u : Option Nat} (pin : (low || both) = v) (before : wdogIsLow s = !v) :
    setWdog s low u both =
      { s with kpr := { s.kpr with wdogLow := low, wdogUntil := u, wdogBoth := both } }.emit (.wdogN v) := by
  subst pin
  exact if_neg fun same => (Bool.eq_not_self _).1 ((eq_of_beq same).trans before)

theorem exec_wdogPulseEnd {s : State} {u : Nat} (pulse : s.kpr.wdogUntil = some u) (low : s.kpr.wdogLow = true) :
    exec .wdogPulseEnd s = .next (if u ≤ s.us then setWdog s false none s.kpr.wdogBoth else s) := by
  show execWdogPulseEnd s = _
  simp only [execWdogPulseEnd, pulse, low, Bool.true_and, decide_eq_true_eq]

/-! ### COLLIE ARM and COLLIE SERVE (R377, R380, Table 15.1) -/

theorem exec_collieArm {s : State} {k : Nat} {d : Desc} (running : runningAs s 0 k .collieArm = some d)
    (arms : bit d.fld.opfield 5 = false) : exec (.collieArm k) s = .next (finish ((endStop (drawChallenge s).2).modCollie fun w =>
      armedCollie w d.fld (drawChallenge s).1 (s.kpr.tick + 1)) 0 k .ok 0) := by
  show execCollieArm k s = _
  simp only [execCollieArm, running, arms, Bool.false_eq_true, if_false]

theorem exec_collieDisarm {s : State} {k : Nat} {d : Desc} (running : runningAs s 0 k .collieArm = some d)
    (disarms : bit d.fld.opfield 5 = true) : exec (.collieDisarm k) s =
      .next (finish (endStop (s.modCollie fun w => { w with armed := false, strikes := 0 })) 0 k .ok 0) := by
  show execCollieDisarm k s = _
  simp only [execCollieDisarm, running, disarms, if_true]

theorem exec_collieServe_armed {s : State} {k : Nat} {d : Desc} (running : runningAs s 0 k .collieServe = some d)
    (armed : s.kpr.collie.armed = true) : exec (.collieServe k) s =
      .next { s.modDesc 0 k (fun e => { e with stage := .waiting }) with kpr := { s.kpr with
        latch := s.kpr.latch ++ [(k, BitVec.ofNat 32 (bits d.fld.opdata 31 0), s.kpr.tick + 1)] } } := by
  show execCollieServe k s = _
  simp only [execCollieServe, running, armed, Bool.not_true, Bool.false_eq_true, if_false]
  rfl

theorem exec_collieServe_disarmed {s : State} {k : Nat} {d : Desc} (running : runningAs s 0 k .collieServe = some d)
    (disarmed : s.kpr.collie.armed = false) : exec (.collieServe k) s = .next (finish s 0 k .badField 0) := by
  show execCollieServe k s = _
  simp only [execCollieServe, running, disarmed, Bool.not_false, if_true]

/-! ### A token's judgement (R378 to R380, Table 15.2) -/

/-- The window has not closed. -/
theorem collieLate_open {s : State} (h : unitsSince s s.kpr.collie < s.kpr.collie.wClose) : collieLate s = false := by
  simp only [collieLate, Nat.not_le.2 h, decide_false, Bool.and_false]

section
variable {s : State} {tok : Word} (armed : s.kpr.collie.armed = true) (fresh : s.kpr.collie.expiredAt ≠ some s.kpr.tick)
  (before : unitsSince s s.kpr.collie < s.kpr.collie.wClose)
include armed fresh before

theorem judgeToken_early (early : unitsSince s s.kpr.collie < s.kpr.collie.wOpen) :
    judgeToken s tok = collieExpire s 2 s.kpr.tick := by
  simp only [judgeToken, armed, collieLate_open before, fresh, early, Bool.not_true, Bool.false_eq_true, if_false, if_true]

theorem judgeToken_inside (opened : s.kpr.collie.wOpen ≤ unitsSince s s.kpr.collie) : judgeToken s tok =
    if tok = collieToken s.kpr.collie.seed s.kpr.collie.chal then collieValid s
    else if s.kpr.collie.strikes + 1 < s.kpr.collie.limit then collieStrike s else collieExpire s 3 s.kpr.tick := by
  simp only [judgeToken, armed, collieLate_open before, fresh, Nat.not_lt.2 opened, Bool.not_true, Bool.false_eq_true, if_false]

end

theorem collieToken_eq (seed c : Word) : collieToken seed c = (c * 0x9E3779B9) ^^^ seed.rotateLeft (c.toNat % 32) := by
  rw [collieToken, rotl32, Nat.mod_mod]

theorem exec_collieTokenLatch_descriptor {s : State} {k n : Nat} {tok : Word} {r : List (Nat × Word × Nat)}
    (latch : s.kpr.latch = (k, tok, n) :: r) (due : n ≤ s.kpr.tick) : exec .collieTokenLatch s =
      .next (finish (judgeToken { s with kpr := { s.kpr with latch := r } } tok) 0 k .ok 0) := by
  show execCollieTokenLatch s = _
  simp only [execCollieTokenLatch, latch, due, if_true]

theorem exec_collieTokenLatch_sideband {s : State} {tok : Word} {n : Nat} (latch : s.kpr.latch = [])
    (token : s.kpr.sbToken = some (tok, n)) (due : n ≤ s.kpr.tick) : exec .collieTokenLatch s =
      .next (judgeToken { s with kpr := { s.kpr with sbToken := none } } tok) := by
  show execCollieTokenLatch s = _
  simp only [execCollieTokenLatch, latch, token, due, if_true]

/-! ### Expiries (R381, Table 15.2) -/

theorem exec_collieExpiry_late {s : State} (armed : s.kpr.collie.armed = true)
    (late : s.kpr.collie.wClose ≤ unitsSince s s.kpr.collie) : exec .collieExpiry s = .next (expireLate s) := by
  show execCollieExpiry s = _
  simp only [execCollieExpiry, collieLate, armed, late, decide_true, Bool.and_self, if_true]

theorem exec_collieExpiry_early {s : State}
    (h : s.kpr.collie.armed = false ∨ unitsSince s s.kpr.collie < s.kpr.collie.wClose) : exec .collieExpiry s = .next s := by
  have inTime : collieLate s = false := by
    rcases h with disarmed | before
    · simp only [collieLate, disarmed, Bool.false_and]
    · exact collieLate_open before
  show execCollieExpiry s = _
  simp only [execCollieExpiry, inTime, Bool.false_eq_true, if_false]

/-- The keeper as an expiry leaves it, before ACT_WDOG (R381). -/
def expiredKeeper (s : State) (tick : Nat) (dirty : Bool) (at_ : Nat) : Keeper := { s.kpr with
  mirrorDirty := dirty
  mirrorTick := at_
  evidence := { s.kpr.evidence with expiries := min (s.kpr.evidence.expiries + 1) 65535, lastCause := 0x0A, lastTick := tick }
  collie := { s.kpr.collie with
    ref := tick, chal := challengeStep s.kpr.collie.chal, strikes := 0, lastResult := 3, expiredAt := some tick } }

/-- An expiry without ACT_STOP: posting or logging leaves the keeper, and ACT_WDOG sets what drives WDOG_N. -/
theorem collieExpire_kpr {s : State} (reason tick : Nat) (noStop : s.kpr.collie.actStop = false) :
    ∃ (dirty : Bool) (at_ : Nat) (v : State), v.kpr = expiredKeeper s tick dirty at_ ∧
      collieExpire s reason tick = if s.kpr.collie.actWdog then assertWdog v else v := by
  obtain ⟨dirty, at_, evidence⟩ := evidenceChange_kpr s 0x0A tick fun e => { e with expiries := sat 16 (e.expiries + 1) }
  unfold collieExpire
  dsimp only
  rw [noStop]
  refine ⟨dirty, at_, _, ?_, rfl⟩
  rw [if_neg Bool.false_ne_true]
  split
  · rw [(beside_postEvent beside_rfl).kpr_eq, State.modCollie, evidence]
    rfl
  · rw [(beside_logNote beside_rfl).kpr_eq, State.modCollie, evidence]
    rfl

/-! ### SB_SERVE (R380, R413) -/

theorem exec_sbServe {s : State} {a : Nat} (b : List Byte) (answers : sbAnswers s a = true) : exec (.sbServe a b) s = .next
    (if b.length = 4 ∧ (s.sys.mode = .vigil ∨ s.sys.mode = .doze) ∧ s.kpr.collie.armed = true then
      { s with kpr := { s.kpr with sbToken := some (w32 (le32 b 0), s.kpr.tick + 1) } }
    else sbIgnore s) := by
  show execSbServe a b s = _
  simp only [execSbServe, answers, Bool.not_true, Bool.false_eq_true, if_false]

/-- Settles O28, clause by clause. -/
theorem theCollieIsArmedServedAndExpires : Obligations.TheCollieIsArmedServedAndExpires := by
  refine ⟨?arm, ?disarm, ?serve, ?refused, ?judged, ?early, ?late, ?inTime, ?expiry, ?sideband, ?ignored, ?pulse⟩
  case arm =>
    rintro s k d c running arms high rfl
    refine ⟨_, exec_collieArm running arms, ?_⟩
    rw [endStop_released]
    · exact finish_endsAs _ 0 k .ok 0
    · exact high
  case disarm =>
    intro s k d running disarms high
    refine ⟨_, exec_collieDisarm running disarms, ?_⟩
    rw [endStop_released]
    · exact finish_endsAs _ 0 k .ok 0
    · exact high
  case serve => exact fun s k d running armed => exec_collieServe_armed running armed
  case refused => exact fun s k d running disarmed => ⟨_, exec_collieServe_disarmed running disarmed, finish_endsAs _ 0 k .badField 0⟩
  case judged =>
    rintro s k n tok c r d e latch due - armed fresh rfl opened before rfl high
    have inside := judgeToken_inside (s := { s with kpr := { s.kpr with latch := r } }) (tok := tok) armed fresh before opened
    refine ⟨_, exec_collieTokenLatch_descriptor latch due, fun valid => ?_, fun wrong below quiet => ?_⟩
    · rw [inside, if_pos (valid.trans (collieToken_eq _ _).symm), collieValid, endStop_released]
      · exact finish_endsAs _ 0 k .ok 0
      · exact high
    · rw [inside, if_neg (fun same => wrong (same.trans (collieToken_eq _ _))), if_pos below, collieStrike,
        if_neg (by rw [quiet]; exact Bool.false_ne_true)]
      exact finish_endsAs _ 0 k .ok 0
  case early =>
    intro s tok n latch token due armed fresh early within
    rw [exec_collieTokenLatch_sideband latch token due]
    exact congrArg _ (judgeToken_early (s := { s with kpr := { s.kpr with sbToken := none } }) armed fresh
      (Nat.lt_trans early within) early)
  case late => exact fun s armed late => exec_collieExpiry_late armed late
  case inTime => exact fun s h => exec_collieExpiry_early h
  case expiry =>
    intro s reason tick noStop
    obtain ⟨dirty, at_, v, keeper, expires⟩ := collieExpire_kpr reason tick noStop
    rw [expires]
    split
    · rw [assertWdog, setWdog_kpr, keeper]
      exact ⟨rfl, rfl, fun _ => rfl⟩
    · next off =>
      rw [keeper]
      exact ⟨rfl, rfl, fun on => absurd on off⟩
  case sideband =>
    intro s a b answers four armed asleep
    rw [exec_sbServe b answers, if_pos ⟨four, asleep, armed⟩]
  case ignored =>
    intro s a b answers other
    rw [exec_sbServe b answers, if_neg (by rintro ⟨four, asleep, -⟩; rcases other with h | ⟨h, g⟩ <;> tauto)]
    rfl
  case pulse =>
    intro s u pulse low both
    rw [exec_wdogPulseEnd pulse low]
    refine ⟨fun due => ?_, fun early => by rw [if_neg (Nat.not_le.2 early)]⟩
    rw [if_pos due, setWdog_moves (v := false) (by rw [both]; rfl) (by rw [wdogIsLow, low]; rfl)]

end Sys2Proof.Machine
end

section
/-! Bronze reset and started again: the internal watchdog, memory errors, the restart, START_UP and BOOT_FAILS (R290, R384, R385, R388,
R396 to R401, Table 11.2). -/
namespace Sys2Proof.Machine

/-! ### What a start leaves of its causes, the rails and the evidence -/

/-- From v to t a start goes on: rails, what called for it, and, unless the keeper's state was lost, its evidence are as before. -/
structure StartKeeps (v t : State) : Prop where
  rails : t.pwr.rails = v.pwr.rails
  cause : t.kpr.restartCause = v.kpr.restartCause
  starting : t.kpr.starting = v.kpr.starting
  lost : v.kpr.stateLost = false → t.kpr.stateLost = false
  evidence : v.kpr.stateLost = false → t.kpr.evidence = v.kpr.evidence

theorem startKeeps_rfl (s : State) : StartKeeps s s := ⟨rfl, rfl, rfl, id, fun _ => rfl⟩

theorem startKeeps_trans {u v t : State} (h : StartKeeps u v) (g : StartKeeps v t) : StartKeeps u t :=
  ⟨g.rails.trans h.rails, g.cause.trans h.cause, g.starting.trans h.starting, fun kept => g.lost (h.lost kept),
    fun kept => (g.evidence (h.lost kept)).trans (h.evidence kept)⟩

/-- A change of neither the supply nor the keeper. -/
theorem startKeeps_of {v t : State} (pwr : t.pwr = v.pwr) (kpr : t.kpr = v.kpr) : StartKeeps v t :=
  ⟨by rw [pwr], by rw [kpr], by rw [kpr], fun kept => by rw [kpr, kept], fun _ => by rw [kpr]⟩

theorem startKeeps_beside {v t : State} (h : Beside v t) : StartKeeps v t := startKeeps_of h.pwr_eq h.kpr_eq

theorem startKeeps_foldl {α : Type} {g : State → α → State} (h : ∀ (s : State) (a : α), StartKeeps s (g s a)) :
    ∀ (l : List α) (s : State), StartKeeps s (l.foldl g s)
  | [], s => startKeeps_rfl s
  | a :: r, s => startKeeps_trans (h s a) (startKeeps_foldl h r _)

theorem startKeeps_programPage (s : State) (p c : Nat) (b : Bool) : StartKeeps s (programPage s p c b) := by
  unfold programPage flipMeets
  dsimp only
  split <;> exact startKeeps_of rfl rfl

theorem startKeeps_commitNow (s : State) (r i : Nat) (p : Option Payload) (n : Nat) : StartKeeps s (commitNow s r i p n).1 := by
  unfold commitNow
  dsimp only
  split
  · exact startKeeps_rfl s
  · exact startKeeps_trans (startKeeps_of (t := settleTokens s) rfl rfl)
      (startKeeps_trans (startKeeps_foldl (fun t p => startKeeps_programPage t p _ _) _ _) (startKeeps_of rfl rfl))

theorem startKeeps_deleteSlots (s : State) (m : BitVec 16) : StartKeeps s (deleteSlots s m).1 := by
  unfold deleteSlots
  generalize (List.range 16).filter (fun i => bit m i) = l
  suffices h : ∀ a : State × Nat, StartKeeps s a.1 → StartKeeps s (l.foldl (fun (a : State × Nat) i =>
      let (t, n) := commitNow a.1 6 i none 0
      ({ t with kpr := { t.kpr with slotClear := t.kpr.slotClear &&& ~~~((1 : BitVec 16) <<< i) } }, a.2 + n)) a).1 from
    h (s, 0) (startKeeps_rfl s)
  induction l with
  | nil => exact fun a h => h
  | cons x r ih =>
    intro a h
    have committed := startKeeps_trans h (startKeeps_commitNow a.1 6 x none 0)
    exact ih _ (startKeeps_trans committed ⟨rfl, rfl, rfl, id, fun _ => rfl⟩)

theorem startKeeps_eccUncorr (s : State) (n : Fin 4) (source : Nat) (fallback tag : Bool) (loc : Nat) :
    StartKeeps s (eccUncorr s n source fallback tag loc) :=
  startKeeps_of (eccUncorr_beside s n source fallback tag loc).pwr_eq (eccUncorr_beside s n source fallback tag loc).kpr_eq

theorem startKeeps_afterRead (s : State) (p : Nat) (found : DecodeBits) (source : Nat) :
    StartKeeps s (afterRead s p found source) := by
  cases found with
  | none =>
    have lost : StartKeeps s { s with mram := (pageLost s.mram p).1 } := startKeeps_of rfl rfl
    simp only [afterRead]
    exact startKeeps_trans lost (startKeeps_eccUncorr _ 3 source _ false p)
  | some c =>
    have counted : StartKeeps s (if c = 0 then s else eccCorrect s 3) := by
      split
      · exact startKeeps_rfl s
      · exact startKeeps_of (eccCorrect_beside s 3).pwr_eq (eccCorrect_beside s 3).kpr_eq
    simp only [afterRead]
    generalize (if c = 0 then s else eccCorrect s 3) = t at counted ⊢
    split
    · exact startKeeps_trans counted (startKeeps_of rfl rfl)
    · exact counted

theorem startKeeps_scanReports (s : State) (lost : List (Nat × Bool)) : StartKeeps s (scanReports s lost) := by
  have reads (t : State) (x : Nat × DecodeBits) : StartKeeps t (if x.2.isSome then afterRead t x.1 x.2 2 else t) := by
    split
    · exact startKeeps_afterRead t _ _ 2
    · exact startKeeps_rfl t
  have reports (t : State) (x : Nat × Bool) : StartKeeps t (eccUncorr t 3 2 x.2 false x.1) := startKeeps_eccUncorr t 3 2 _ false _
  unfold scanReports
  exact startKeeps_trans (startKeeps_foldl reads _ s) (startKeeps_foldl reports lost _)

/-- A lost keeper takes its counter and its evidence from the mirror; another stays as it is (R353, R389). -/
theorem startKeeps_restoreKeeper (s : State) : StartKeeps s (restoreKeeper s) := by
  unfold restoreKeeper
  split
  · exact startKeeps_rfl s
  · next lost =>
    have lost : s.kpr.stateLost = true := by simpa using lost
    exact ⟨rfl, rfl, rfl, fun kept => absurd (lost.symm.trans kept) (by decide),
      fun kept => absurd (lost.symm.trans kept) (by decide)⟩

theorem startKeeps_restoreLog (s : State) : StartKeeps s (restoreLog s) := by
  unfold restoreLog
  dsimp only
  split <;> exact startKeeps_of rfl rfl

/-- The rails up and the calls for the start taken: where the restoring of R296 begins. -/
def scanned (s : State) : State := { s with
  pwr := { s.pwr with rails := Vector.replicate 8 true, gov := {} }
  kpr := { s.kpr with starting := false, restartCause := none }
  ecc := { s.ecc with passAt := s.us, wearAtStart := s.mram.wear.foldl (fun (n : Nat) (p : Nat × Nat) => max n p.2) 0 }
  mram := (scanChooses s.mram).1
  out := s.out ++ (railOuts s true (List.finRange 8) ++ [.moduleReset false]) }

theorem startKeeps_restoreSlots (s : State) : StartKeeps s (restoreSlots s) := by
  have deleted := startKeeps_deleteSlots s s.kpr.slotClear
  unfold restoreSlots
  dsimp only
  generalize (deleteSlots s s.kpr.slotClear).1 = t at deleted ⊢
  exact startKeeps_trans deleted (startKeeps_of rfl rfl)

theorem startKeeps_restoreRecords (s : State) : StartKeeps s (restoreRecords s) := startKeeps_of rfl rfl

theorem startKeeps_restoreAll (s : State) : StartKeeps (scanned s) (restoreAll s) := by
  show StartKeeps (scanned s) (scanReports (restoreLog (restoreRecords (restoreKeeper (restoreSlots (scanned s)))))
    (scanChooses s.mram).2)
  have keeper := startKeeps_trans (startKeeps_restoreSlots (scanned s)) (startKeeps_restoreKeeper _)
  have records := startKeeps_trans keeper (startKeeps_restoreRecords _)
  exact startKeeps_trans (startKeeps_trans records (startKeeps_restoreLog _)) (startKeeps_scanReports _ _)

theorem startKeeps_commitBoot (s : State) (b : BootRecord) : StartKeeps s (commitBoot s b) := by
  have committed := startKeeps_commitNow s 7 1 (some (.boot b)) 16
  unfold commitBoot
  generalize (commitNow s 7 1 (some (.boot b)) 16).1 = t at committed ⊢
  exact startKeeps_trans committed (startKeeps_of rfl rfl)

theorem startKeeps_fallBack (s : State) (bad : Bool) : StartKeeps s (fallBack s bad).1 := by
  unfold fallBack
  dsimp only
  split
  · exact startKeeps_commitBoot s _
  · exact startKeeps_rfl s

theorem startKeeps_bootActive (s : State) : StartKeeps s (bootActive s).1 := by
  unfold bootActive
  split
  · exact startKeeps_rfl s
  · exact startKeeps_fallBack s true

theorem startKeeps_chooseImage (s : State) : StartKeeps s (chooseImage s).1 := by
  unfold chooseImage
  split
  · split
    · exact startKeeps_rfl s
    · exact startKeeps_bootActive s
  · exact startKeeps_bootActive s

theorem startKeeps_chooseAfterFault (s : State) : StartKeeps s (chooseAfterFault s).1 := by
  have counted : StartKeeps s { s with kpr := { s.kpr with bootFails := sat 8 (s.kpr.bootFails + 1) } } :=
    ⟨rfl, rfl, rfl, id, fun _ => rfl⟩
  unfold chooseAfterFault
  dsimp only
  split
  · exact startKeeps_trans counted (startKeeps_trans (startKeeps_commitBoot _ _) (startKeeps_bootActive _))
  · split
    · exact startKeeps_trans counted (startKeeps_chooseImage _)
    · split
      · exact counted
      · exact startKeeps_trans (v := { s with kpr := { s.kpr with bootFails := 0, bootFailedOnce := true } })
          ⟨rfl, rfl, rfl, id, fun _ => rfl⟩ (startKeeps_fallBack _ false)

/-! ### How a start ends (R396, R399, R401) -/

/-- Firmware or RESCUE runs, the disc is parked and VIGIL is over. -/
structure Started (t : State) : Prop where
  ready : t.sys.ready = !t.sys.rescue
  parked : t.sys.parked = true
  mode : t.sys.mode = .idle ∨ t.sys.mode = .load
  held : t.kpr.held = false

/-- What a start does last: from v to t it keeps what `StartKeeps` says, and Bronze has started. -/
structure StartEnds (v t : State) : Prop where
  keeps : StartKeeps v t
  started : Started t

theorem startEnds_beside {u v t : State} (h : StartEnds u v) (g : Beside v t) : StartEnds u t := by
  obtain ⟨ready, parked, mode, held⟩ := h.started
  have sys {α : Type} (x : Sys → α) (blind : ∀ y : Sys, x { y with quietSince := 0 } = x y) : x t.sys = x v.sys :=
    (blind _).symm.trans ((congrArg x g.sys_eq).trans (blind _))
  refine ⟨startKeeps_trans h.keeps (startKeeps_beside g), ⟨?_, ?_, ?_, ?_⟩⟩
  · rw [sys Sys.ready fun _ => rfl, sys Sys.rescue fun _ => rfl, ready]
  · rw [sys Sys.parked fun _ => rfl, parked]
  · rw [sys Sys.mode fun _ => rfl]
    exact mode
  · rw [g.kpr_eq, held]

theorem startEnds_post {u v : State} (h : StartEnds u v) (c : Nat) (w : Word) : StartEnds u (postEvent v 0 c w) :=
  startEnds_beside h (beside_postEvent beside_rfl)

theorem startEnds_posts {u v : State} (h : StartEnds u v) (l : List (Nat × Word)) :
    StartEnds u (l.foldl (fun t e => postEvent t 0 e.1 e.2) v) :=
  startEnds_beside h (beside_foldl (fun _ _ kept => beside_postEvent kept) l beside_rfl)

theorem startKeeps_armInternal (s : State) (wOpen wClose : Nat) : StartKeeps s (armInternal s wOpen wClose) :=
  ⟨rfl, rfl, rfl, id, fun _ => rfl⟩

theorem rescueRuns_ends (s : State) (events : List (Nat × Word)) : StartEnds s (rescueRuns s events) := by
  have armed := startKeeps_armInternal s 0 2048
  unfold rescueRuns
  dsimp only
  generalize armInternal s 0 2048 = t at armed ⊢
  have runs : StartEnds s { t with
      sys := { t.sys with ready := false, rescue := true, mode := .idle, parked := true }
      kpr := { t.kpr with held := false, wakePending := false } } :=
    ⟨startKeeps_trans armed ⟨rfl, rfl, rfl, id, fun _ => rfl⟩, ⟨rfl, rfl, .inl rfl, rfl⟩⟩
  exact startEnds_posts runs events

theorem startKeeps_commitMirror (s : State) : StartKeeps s (commitMirror s).1 := by
  have noted : StartKeeps s { s with kpr := { s.kpr with mirrorDirty := false, mirrorTick := s.kpr.tick } } :=
    ⟨rfl, rfl, rfl, id, fun _ => rfl⟩
  unfold commitMirror
  exact startKeeps_trans noted (startKeeps_commitNow _ 7 0 _ 32)

theorem startKeeps_commitLedger (s : State) : StartKeeps s (commitLedger s).1 := by
  unfold commitLedger
  exact startKeeps_commitNow s 4 0 _ 1664

/-- READY with slot n running, before anything is posted. -/
def firmwareUp (t : State) (n : Nat) : State := { t with
  sys := { t.sys with ready := true, rescue := false, readyAt := t.us, running := n, mode := if t.loader.trayIn then .load else .idle
                      parked := true, idleSince := t.us, quietSince := t.us }
  kpr := { t.kpr with held := false, wakePending := false }
  loader := { t.loader with unident := t.loader.trayIn } }

/-- The boundaries that an outage crossed are posted (R372). -/
def crossedPosted (t : State) : State :=
  match t.kpr.crossed with
  | some (n, w) => postEvent { t with kpr := { t.kpr with crossed := none } } 0 evOutageCrossed (w32 (sat 16 n + 65536 * sat 16 w))
  | none => t

/-- A low battery is posted (R349). -/
def batteryPosted (t : State) : State := if t.pwr.batLow then postEvent t 0 evBatLow (w32 (sat 16 t.pwr.vbat)) else t

/-- Missing calibration is posted (R417). -/
def uncalPosted (t : State) : State := if t.sys.uncal = 0 then t else postEvent t 0 evUncal (w32 t.sys.uncal.toNat)

/-- A start into firmware, step by step. -/
theorem firmwareRuns_eq (s : State) (n : Nat) (events : List (Nat × Word)) : firmwareRuns s n events =
    uncalPosted (batteryPosted (crossedPosted (events.foldl (fun t e => postEvent t 0 e.1 e.2)
      (firmwareUp (commitMirror (commitLedger (armInternal s 8 256)).1).1 n)))) := rfl

theorem firmwareUp_ends {u t : State} (h : StartKeeps u t) (n : Nat) : StartEnds u (firmwareUp t n) := by
  refine ⟨startKeeps_trans h ⟨rfl, rfl, rfl, id, fun _ => rfl⟩, rfl, rfl, ?_, rfl⟩
  unfold firmwareUp
  dsimp only
  split
  · exact .inr rfl
  · exact .inl rfl

theorem crossedPosted_ends {u t : State} (h : StartEnds u t) : StartEnds u (crossedPosted t) := by
  unfold crossedPosted
  split
  · have cleared : StartEnds u { t with kpr := { t.kpr with crossed := none } } :=
      ⟨startKeeps_trans h.keeps ⟨rfl, rfl, rfl, id, fun _ => rfl⟩, h.started.ready, h.started.parked, h.started.mode, h.started.held⟩
    exact startEnds_post cleared _ _
  · exact h

theorem firmwareRuns_ends (s : State) (n : Nat) (events : List (Nat × Word)) : StartEnds s (firmwareRuns s n events) := by
  have armed := startKeeps_armInternal s 8 256
  have committed := startKeeps_trans (startKeeps_trans armed (startKeeps_commitLedger _)) (startKeeps_commitMirror _)
  rw [firmwareRuns_eq]
  have crossed := crossedPosted_ends (startEnds_posts (firmwareUp_ends committed n) events)
  have battery {t : State} (h : StartEnds s t) : StartEnds s (batteryPosted t) := by
    unfold batteryPosted
    split
    · exact startEnds_post h _ _
    · exact h
  have uncal {t : State} (h : StartEnds s t) : StartEnds s (uncalPosted t) := by
    unfold uncalPosted
    split
    · exact h
    · exact startEnds_post h _ _
  exact uncal (battery crossed)

/-- The choice of an image that a release of Bronze makes (R399, R400). -/
def releaseChoice (s : State) (fault : Bool) : BootChoice := if fault then chooseAfterFault (restoreAll s) else chooseImage (restoreAll s)

/-- The chosen image's fuses are blown where it is valid (R402). -/
def releaseFused (t : State) : State := if imageValid t t.sys.boot.active then blowFuses t t.sys.boot.active else t

theorem releaseBronze_eq (s : State) (fault : Bool) (extra : State → List (Nat × Word)) : releaseBronze s fault extra =
    match (releaseChoice s fault).2.1 with
    | some n => firmwareRuns (releaseFused (releaseChoice s fault).1) n
        ((releaseChoice s fault).2.2 ++ extra (releaseFused (releaseChoice s fault).1))
    | none => rescueRuns (releaseFused (releaseChoice s fault).1)
        ((releaseChoice s fault).2.2 ++ extra (releaseFused (releaseChoice s fault).1)) := rfl

theorem startKeeps_releaseChoice (s : State) (fault : Bool) : StartKeeps (scanned s) (releaseChoice s fault).1 := by
  unfold releaseChoice
  split
  · exact startKeeps_trans (startKeeps_restoreAll s) (startKeeps_chooseAfterFault _)
  · exact startKeeps_trans (startKeeps_restoreAll s) (startKeeps_chooseImage _)

theorem startKeeps_releaseFused (t : State) : StartKeeps t (releaseFused t) := by
  unfold releaseFused
  split
  · exact startKeeps_of rfl rfl
  · exact startKeeps_rfl t

/-- However its image is chosen, a release of Bronze ends in firmware or RESCUE, with every rail up and its calls taken. -/
theorem releaseBronze_ends (s : State) (fault : Bool) (extra : State → List (Nat × Word)) :
    StartEnds (scanned s) (releaseBronze s fault extra) := by
  have chosen := startKeeps_trans (startKeeps_releaseChoice s fault) (startKeeps_releaseFused _)
  rw [releaseBronze_eq]
  split
  · next n _ =>
    have ends := firmwareRuns_ends (releaseFused (releaseChoice s fault).1) n
      ((releaseChoice s fault).2.2 ++ extra (releaseFused (releaseChoice s fault).1))
    exact ⟨startKeeps_trans chosen ends.keeps, ends.started⟩
  · have ends := rescueRuns_ends (releaseFused (releaseChoice s fault).1)
      ((releaseChoice s fault).2.2 ++ extra (releaseFused (releaseChoice s fault).1))
    exact ⟨startKeeps_trans chosen ends.keeps, ends.started⟩

end Sys2Proof.Machine
end

section
/-! Bronze reset: the internal watchdog, memory errors, the restart and START_UP (R290, R384, R385, R388, R396, R400, Table 11.2). -/
namespace Sys2Proof.Machine

/-! ### The internal watchdog (R384, R385) -/

section
variable {s : State} (up : bronzeUp s = true) (armed : s.kpr.internal.armed = true)
include up armed

theorem exec_internalWatchdogServe_valid {tok : Word} (opened : s.kpr.internal.wOpen ≤ unitsSince s s.kpr.internal)
    (before : unitsSince s s.kpr.internal < s.kpr.internal.wClose)
    (valid : tok = collieToken s.kpr.internal.seed s.kpr.internal.chal) : exec (.internalWatchdogServe tok) s =
      .next { s with kpr := { s.kpr with internal := { s.kpr.internal with
        ref := s.kpr.tick, chal := challengeStep s.kpr.internal.chal } } } := by
  show execInternalWatchdogServe tok s = _
  simp [execInternalWatchdogServe, up, armed, internalLate, Nat.not_le.2 before, Nat.not_lt.2 opened, valid]

theorem exec_internalWatchdogServe_expires {tok : Word} (h : unitsSince s s.kpr.internal < s.kpr.internal.wOpen ∨
    s.kpr.internal.wClose ≤ unitsSince s s.kpr.internal ∨ tok ≠ collieToken s.kpr.internal.seed s.kpr.internal.chal) :
    exec (.internalWatchdogServe tok) s = .next (resetBronze s 7) := by
  show execInternalWatchdogServe tok s = _
  rcases h with early | late | wrong
  · simp [execInternalWatchdogServe, up, armed, early]
  · simp [execInternalWatchdogServe, up, armed, internalLate, late]
  · simp [execInternalWatchdogServe, up, armed, wrong]

theorem exec_internalWatchdogExpiry_late (late : s.kpr.internal.wClose ≤ unitsSince s s.kpr.internal) :
    exec .internalWatchdogExpiry s = .next (resetBronze s 7) := by
  show execInternalWatchdogExpiry s = _
  simp [execInternalWatchdogExpiry, up, armed, internalLate, late]

end

theorem exec_internalWatchdogExpiry_early {s : State} (before : unitsSince s s.kpr.internal < s.kpr.internal.wClose) :
    exec .internalWatchdogExpiry s = .next s := by
  show execInternalWatchdogExpiry s = _
  simp [execInternalWatchdogExpiry, internalLate, Nat.not_le.2 before]

/-! ### Memory errors (R290, Table 11.2; log entry 121) -/

theorem exec_memoryResetRequest_firmware {s : State} (up : bronzeUp s = true) (w : Nat) :
    exec (.memoryResetRequest (.sramFirmware w)) s = .next (resetBronze (eccUncorr s 0 0 false false w) 8) := by
  show execMemoryResetRequest (.sramFirmware w) s = _
  simp only [execMemoryResetRequest, up, Bool.not_true, Bool.false_eq_true, if_false]

/-- A tag is dropped with its line and reported; Bronze's own ways reset it, a fold's way ends the fold's descriptors. -/
theorem exec_memoryResetRequest_tag {s : State} (up : bronzeUp s = true) (set : Nat) {way : Nat} (within : way ≤ 15) :
    exec (.memoryResetRequest (.cacheTag set way)) s = .next
      (let t := eccUncorr { s with cache := { s.cache with
        lines := s.cache.lines.filter fun l => !(l.way == way && l.line % 1024 == set % 1024) } } 1 0 false true
          (set % 1024 + 1024 * way)
      if 12 ≤ way then resetBronze t 8 else wayTagLost t way) := by
  show execMemoryResetRequest (.cacheTag set way) s = _
  simp only [execMemoryResetRequest, up, Bool.not_true, Bool.false_eq_true, if_false, Nat.not_lt.2 within]

/-! ### A reset of Bronze (R385) and its restart (R388) -/

theorem resetBronze_lost (s : State) (c : Nat) : (resetBronze s c).kpr.restartCause = some c ∧ (resetBronze s c).sys.ready = false ∧
    (resetBronze s c).sys.rescue = false ∧ (∀ f : FoldId, (resetBronze s c).fold f = freshFold s f) ∧
    (resetBronze s c).mram.recs = s.mram.recs ∧ (resetBronze s c).mram.queue = [] ∧ (resetBronze s c).servo.ldEn = false ∧
    (resetBronze s c).kpr.evidence = s.kpr.evidence ∧ (∀ i : Fin 17, (resetBronze s c).slot i = {}) := by
  have lost := loseBronze_lost s
  unfold resetBronze
  generalize loseBronze s = t at lost ⊢
  have recs : t.mram.recs = s.mram.recs := by rw [lost.recs]
  have queue : t.mram.queue = [] := by rw [lost.recs]
  have evidence : t.kpr.evidence = s.kpr.evidence := by rw [lost.kpr]
  exact ⟨rfl, lost.ready, lost.rescue, lost.folds, recs, queue, lost.ldEn, evidence, lost.slots⟩

theorem exec_bronzeRestart_early {s : State} {c : Nat} (cause : s.kpr.restartCause = some c) (early : s.us < s.sys.readyAt + 1000) :
    exec .bronzeRestart s = .next s := by
  show execBronzeRestart s = _
  simp only [execBronzeRestart, cause, Nat.not_le.2 early, if_false]

/-- 1 ms after a reset the cause is retained, and Bronze released (R385, R388). -/
theorem exec_bronzeRestart_due {s : State} {c : Nat} (cause : s.kpr.restartCause = some c) (due : s.sys.readyAt + 1000 ≤ s.us) :
    exec .bronzeRestart s = .next (releaseBronze
      (evidenceChange s c s.kpr.tick fun e => { e with intResets := sat 16 (e.intResets + 1) }) (c == 7 || c == 8)
      fun u => [(evRestart, w32 (u.kpr.evidence.lastCause + 65536 * u.kpr.evidence.intResets))]) := by
  show execBronzeRestart s = _
  simp only [execBronzeRestart, cause, due, if_true]

/-- What a release of Bronze leaves, from any state: rails up, calls taken, and Bronze started. -/
theorem releaseBronze_starts (s : State) (fault : Bool) (extra : State → List (Nat × Word)) {t : State}
    (h : t = releaseBronze s fault extra) : t.pwr.rails = Vector.replicate 8 true ∧ t.kpr.restartCause = none ∧
      t.kpr.starting = false ∧ (s.kpr.stateLost = false → t.kpr.evidence = s.kpr.evidence) ∧ Started t := by
  subst h
  obtain ⟨⟨rails, cause, starting, -, evidence⟩, started⟩ := releaseBronze_ends s fault extra
  exact ⟨rails, cause, starting, evidence, started⟩

/-! ### The start-up scan (R296, Table 11.2; log entry 125) -/

/-- A single page that does not decode is taken from its record where the scan reads it, and not elsewhere. -/
theorem scanChooses_one {m : Mram} {p : Nat} (found : m.found = [(p, none)]) : scanChooses m =
    if 0x2000 ≤ p ∧ p < 0x3FF0 then ((pageLost m p).1, [(p, (pageLost m p).2)]) else (m, []) := by
  have pages : scanPages m = if 0x2000 ≤ p ∧ p < 0x3FF0 then [(p, none)] else [] := by
    simp only [scanPages, found, List.filter_cons, List.filter_nil, Bool.and_eq_true, decide_eq_true_eq]
  unfold scanChooses
  rw [pages]
  split <;> rfl

/-! ### START_UP and BOOT_FAILS (R396, R400) -/

theorem exec_startUp_due {s : State} (vigil : s.sys.mode = .vigil) (running : s.kpr.running = true) (input : s.pwr.input = true)
    (starting : s.kpr.starting = true) : exec .startUp s = .next (releaseBronze s false fun _ => []) := by
  show execStartUp s = _
  simp only [execStartUp, vigil, running, input, starting, BEq.rfl, Bool.and_self, if_true]

theorem exec_startUp_none {s : State} (h : s.sys.mode ≠ .vigil ∨ s.pwr.input = false ∨ s.kpr.starting = false) :
    exec .startUp s = .next s := by
  show execStartUp s = _
  rcases h with h | h | h <;> simp [execStartUp, h]

theorem exec_bootFailsClear {s : State} (ready : s.sys.ready = true) (up : s.sys.mode ≠ .vigil) : exec .bootFailsClear s = .next
    (if s.sys.readyAt + 10000000 ≤ s.us then { s with kpr := { s.kpr with bootFails := 0, bootFailedOnce := false } } else s) := by
  show execBootFailsClear s = _
  simp [execBootFailsClear, ready, up]

/-- Settles O29, clause by clause; the two starts are `releaseBronze_starts`. -/
theorem bronzeIsResetAndStartedAgain : Obligations.BronzeIsResetAndStartedAgain := by
  refine ⟨?served, fun s w up => exec_memoryResetRequest_firmware up w, ?ownTag, ?foldTag, resetBronze_lost, ?restart,
    fun s c cause early => exec_bronzeRestart_early cause early, ?scan, ?start, fun s h => exec_startUp_none h, ?cleared⟩
  case served =>
    rintro s tok e up armed rfl
    exact ⟨exec_internalWatchdogServe_valid up armed, exec_internalWatchdogServe_expires up armed,
      exec_internalWatchdogExpiry_late up armed, exec_internalWatchdogExpiry_early⟩
  case ownTag =>
    intro s set way up own within
    rw [exec_memoryResetRequest_tag up set within]
    exact congrArg _ (if_pos own)
  case foldTag =>
    intro s set way up folds
    rw [exec_memoryResetRequest_tag up set (by omega)]
    exact congrArg _ (if_neg (Nat.not_le.2 folds))
  case restart =>
    intro s c cause due _ kept
    obtain ⟨dirty, at_, keeper⟩ := evidenceChange_kpr s c s.kpr.tick fun e => { e with intResets := sat 16 (e.intResets + 1) }
    obtain ⟨rails, taken, -, evidence, started⟩ := releaseBronze_starts _ _ _ rfl
    refine ⟨_, exec_bronzeRestart_due cause due, taken, ?_, rails, started.ready, started.parked, started.mode⟩
    rw [evidence (by rw [keeper]; exact kept), keeper]
    rfl
  case scan =>
    intro m p found
    rw [scanChooses_one found]
    exact ⟨fun low high => if_pos ⟨low, high⟩, fun outside => if_neg (by omega)⟩
  case start =>
    intro s vigil running input starting
    obtain ⟨rails, -, taken, -, started⟩ := releaseBronze_starts s false (fun _ => []) rfl
    exact ⟨_, exec_startUp_due vigil running input starting, taken, started.held, rails, started.ready, started.parked, started.mode⟩
  case cleared =>
    intro s ready up
    rw [exec_bootFailsClear ready up]
    exact ⟨fun due => by rw [if_pos due], fun early => by rw [if_neg (Nat.not_le.2 early)]⟩

end Sys2Proof.Machine
end

section
/-! Oscillators, the event log, the sideband, and HALT's acknowledgement and release (R333, R353, R356, R386, R387, R390, R391, R393,
R394, R410, R412, R413, Table 16.7). -/
namespace Sys2Proof.Machine

/-! ### Clock trips (R386, R387) -/

section
variable {s : State} {d : Dog} {o : Osc} (runs : dogRuns s d = true)
include runs

/-- With an oscillator still running a trip is retained, counted and posted, from the state with the watchdog moved or not. -/
theorem exec_clockTrip_counts (left : (oscStops s o).kpr.crystalOk = true ∨ (oscStops s o).kpr.rcOk = true) {u : State}
    {moves : Bool} (selected : (onRc s d == (o == .rc)) = moves)
    (moved : u = if moves then setSource (oscStops s o) d (o == .crystal) else oscStops s o) (tick : u.kpr.tick = s.kpr.tick)
    (evidence : u.kpr.evidence = s.kpr.evidence) : exec (.clockTrip d o) s = .next (postEvent (evidenceChange u 0x0B s.kpr.tick
      fun e => { e with clkTrips := min (e.clkTrips + 1) 255 }) 0 0x07C3
        (w32 (b2n (o == .rc) + 2 * b2n (!moves) + 256 * min (s.kpr.evidence.clkTrips + 1) 255))) := by
  have alive : (!(oscStops s o).kpr.crystalOk && !(oscStops s o).kpr.rcOk) = false := by
    rcases left with h | h <;> simp [h]
  obtain ⟨dirty, at_, keeper⟩ := evidenceChange_kpr u 0x0B s.kpr.tick fun e => { e with clkTrips := min (e.clkTrips + 1) 255 }
  have counted : (evidenceChange u 0x0B s.kpr.tick fun e => { e with clkTrips := min (e.clkTrips + 1) 255 }).kpr.evidence.clkTrips =
      min (s.kpr.evidence.clkTrips + 1) 255 := by
    rw [keeper, evidence]
  have run : exec (.clockTrip d o) s = .next (postEvent (evidenceChange u 0x0B u.kpr.tick
      fun e => { e with clkTrips := min (e.clkTrips + 1) 255 }) 0 0x07C3 (w32 (b2n (o == .rc) + 2 * b2n (!moves) +
        256 * (evidenceChange u 0x0B u.kpr.tick fun e => { e with clkTrips := min (e.clkTrips + 1) 255 }).kpr.evidence.clkTrips))) := by
    show execClockTrip d o s = _
    simp only [execClockTrip, runs, alive, selected, ← moved, Bool.not_true, Bool.false_eq_true, if_false]
    rfl
  rw [run, tick, counted]

/-- With both oscillators stopped WDOG_N is held low (R387). -/
theorem exec_clockTrip_holds (stopped : s.kpr.crystalOk = false) (high : wdogIsLow s = false) : exec (.clockTrip d .rc) s =
    .next ({ s with kpr := { s.kpr with rcOk := false, wdogBoth := true } }.emit (.wdogN true)) := by
  have run : exec (.clockTrip d .rc) s = .next (setWdog (oscStops s .rc) s.kpr.wdogLow s.kpr.wdogUntil true) := by
    show execClockTrip d .rc s = _
    simp only [execClockTrip, runs, oscStops, stopped, Bool.not_true, Bool.not_false, Bool.and_self, Bool.false_eq_true, if_false, if_true]
  rw [run]
  exact congrArg _ (setWdog_moves (s := oscStops s .rc) (v := true) (Bool.or_true _) high)

end

/-- Once an oscillator runs again the hold ends; WDOG_N rises where nothing else holds it (R387). -/
theorem exec_oscillatorResume {s : State} {o : Osc} (both : s.kpr.wdogBoth = true) : exec (.oscillatorResume o) s =
    .next (oscRuns s o) := by
  show execOscillatorResume o s = _
  simp only [execOscillatorResume, both, if_true]

theorem exec_oscillatorResume_none {s : State} {o : Osc} (both : s.kpr.wdogBoth = false) :
    exec (.oscillatorResume o) s = .next s := by
  show execOscillatorResume o s = _
  simp only [execOscillatorResume, both, Bool.false_eq_true, if_false]

theorem oscRuns_releases {s : State} (both : s.kpr.wdogBoth = true) (high : s.kpr.wdogLow = false) :
    oscRuns s .rc = { s with kpr := { s.kpr with rcOk := true, wdogBoth := false } }.emit (.wdogN false) ∧
    oscRuns s .crystal = { s with kpr := { s.kpr with crystalOk := true, rcTime := false, wdogBoth := false } }.emit (.wdogN false) := by
  have pin : (s.kpr.wdogLow || false) = false := by rw [high]; rfl
  have held : wdogIsLow s = !false := by rw [wdogIsLow, both, Bool.or_true]; rfl
  exact ⟨setWdog_moves (s := { s with kpr := { s.kpr with rcOk := true } }) pin held,
    setWdog_moves (s := { s with kpr := { s.kpr with crystalOk := true, rcTime := false } }) pin held⟩

theorem exec_x32CrystalStart {s : State} (running : s.kpr.running = true) (both : s.kpr.wdogBoth = false) :
    exec .x32CrystalStart s = .next { s with kpr := { s.kpr with crystalOk := true, rcTime := false } } := by
  show execX32CrystalStart s = _
  rw [execX32CrystalStart, if_pos running]
  exact congrArg _ (setWdog_same (s := { s with kpr := { s.kpr with crystalOk := true, rcTime := false } }) rfl rfl both.symm)

/-! ### The mirror and the log (R353, R393, R394) -/

theorem exec_keeperMirrorCommit {s : State} (runs : bronzeRuns s = true) (clean : s.kpr.mirrorDirty = false) :
    exec .keeperMirrorCommit s = .next (if s.kpr.mirrorTick + 2 ^ 27 ≤ s.kpr.tick then requestMirror s else s) := by
  show execKeeperMirrorCommit s = _
  simp only [execKeeperMirrorCommit, runs, clean, Bool.false_or, Bool.true_and, decide_eq_true_eq]

/-- A block is asked for unless fewer than 30 entries wait and the first has waited less than 10 s (R393). -/
theorem exec_logBlockCommit {s : State} {e : LogEntry} {r : List LogEntry} (runs : bronzeRuns s = true)
    (free : s.log.committing = 0) (staged : s.log.staged = e :: r) : exec .logBlockCommit s = .next
      (if s.log.staged.length < 30 ∧ s.kpr.tick < e.tick + 327680 then s
      else requestRecord { s with log := { s.log with committing := (s.log.staged.take 30).length } } 5 s.log.nextBlock
        (some (.log (s.log.staged.take 30))) 960 .other (some (.region 5)) .logBlock) := by
  show execLogBlockCommit s = _
  have waits : (!bronzeRuns s || s.log.committing != 0) = false := by
    rw [runs, free]
    rfl
  unfold execLogBlockCommit
  split
  · next empty => exact absurd (empty.symm.trans staged) (List.cons_ne_nil e r).symm
  · next e' r' same =>
    obtain ⟨rfl, rfl⟩ := List.cons.inj (same.symm.trans staged)
    simp only [waits, Bool.false_or, decide_eq_true_eq]

theorem desc_readLog (s : State) (n : Nat) (f : FoldId) (k : Nat) : (readLog s n).desc? f k = s.desc? f k :=
  sameWork_desc (samePool_readPages s _ 0).work f k

/-- LOG READ where an oldest and a newest entry are held and AUX_PTR is given (R394). -/
theorem exec_logRead {s : State} {k : Nat} {d : Desc} {a b : LogEntry} {l : List LogEntry}
    (running : runningAs s 0 k .logRead = some d) (held : l = (logEntries (readLog s (lbaOf d.fld))).eraseDups)
    (first : l.head? = some a) (last : l.getLast? = some b) (given : d.fld.auxPtr ≠ 0) :
    exec (.logRead k) s = .next (finish (deliver ({ readLog s (lbaOf d.fld) with draws := (readLog s (lbaOf d.fld)).draws + 1 }.modDesc 0 k
      fun e => { e with aux := leBytes 4 a.seq ++ leBytes 4 b.seq }) 0 k
        (((l.filter fun e => decide (lbaOf d.fld ≤ e.seq)).take (d.fld.length / 32)).flatMap logEntryBytes)) 0 k .ok
          (32 * ((l.filter fun e => decide (lbaOf d.fld ≤ e.seq)).take (d.fld.length / 32)).length)) := by
  subst held
  have found : { readLog s (lbaOf d.fld) with draws := (readLog s (lbaOf d.fld)).draws + 1 }.desc? 0 k = some d :=
    (desc_readLog s _ 0 k).trans (runningAs_desc running)
  rw [← setAux_given _ found given]
  show execLogRead k s = _
  simp only [execLogRead, running, first, last, Option.map_some, Option.getD_some]

/-! ### The sideband (R412, R413, Table 16.7) -/

theorem sbAnswers_iff (s : State) (a : Nat) :
    sbAnswers s a = true ↔ s.kpr.running = true ∧ a = if s.kpr.addrHigh then 0x5B else 0x5A := by
  simp only [sbAnswers, Bool.and_eq_true, beq_iff_eq]

theorem exec_sideband_silent {s : State} {a : Nat} (silent : sbAnswers s a = false) (p n : Nat) (v : Byte) (b : List Byte) :
    exec (.sbRead a p n) s = .next s ∧ exec (.sbWake a v) s = .next s ∧ exec (.sbServe a b) s = .next s ∧
    exec (.sbIgnoredClear a) s = .next s ∧ exec (.registerWrite (.sideband a p v)) s = .next s := by
  refine ⟨?_, ?_, ?_, ?_, ?_⟩
  · show execSbRead a p n s = _
    simp only [execSbRead, silent, Bool.false_eq_true, if_false]
  · show execSbWake a v s = _
    simp only [execSbWake, silent, Bool.not_false, if_true]
  · show execSbServe a b s = _
    simp only [execSbServe, silent, Bool.not_false, if_true]
  · show execSbIgnoredClear a s = _
    simp only [execSbIgnoredClear, silent, Bool.false_eq_true, if_false]
  · show execRegisterWrite (.sideband a p v) s = _
    simp only [execRegisterWrite, silent, Bool.false_eq_true, if_false]

section
variable {s : State} {a : Nat} (answers : sbAnswers s a = true)
include answers

theorem exec_sbRead (p n : Nat) :
    exec (.sbRead a p n) s = .next (s.emit (.i2c ((List.range n).map fun i => readSb s ((p + i) % 256)))) := by
  show execSbRead a p n s = _
  simp only [execSbRead, answers, if_true]

theorem exec_sbWake (v : Byte) : exec (.sbWake a v) s = .next (if v = 0xA5 then wake s else sbIgnore s) := by
  show execSbWake a v s = _
  simp only [execSbWake, answers, Bool.not_true, Bool.false_eq_true, if_false]

theorem exec_sbIgnoredClear : exec (.sbIgnoredClear a) s = .next { s with kpr := { s.kpr with sbIgnored := 0 } } := by
  show execSbIgnoredClear a s = _
  simp only [execSbIgnoredClear, answers, if_true]

theorem exec_registerWrite_sideband (p : Nat) (v : Byte) :
    exec (.registerWrite (.sideband a p v)) s = .next (writeSb s a (p % 256) v) := by
  show execRegisterWrite (.sideband a p v) s = _
  simp only [execRegisterWrite, answers, if_true]

end

/-- The calendar record is read at 0x20 to 0x2F. -/
theorem readSb_time (s : State) (i : Fin 16) : readSb s (0x20 + i.val) = (timeRecord s).getD i.val 0 := by
  fin_cases i <;> rfl

/-! ### HALT (R333, R390, R391) -/

theorem exec_haltAck_idle {s : State} {v : Word} (idle : bit v 24 = false) : exec (.haltAck v) s = .next s := by
  show execHaltAck v s = _
  simp only [execHaltAck, onBar, idle, Bool.not_false, if_true, ite_self]

theorem exec_haltAck {s : State} {v : Word} (up : barUp s 0 = true) (ack : bit v 24 = true) : exec (.haltAck v) s = .next
    (if s.halt.inHalt = true ∧ bits v 15 8 = s.halt.seq.toNat then { s with halt := { s.halt with acked := true } }
    else { s with halt := { s.halt with ackStale := min (s.halt.ackStale + 1) 255 } }) := by
  show execHaltAck v s = _
  simp only [execHaltAck, onBar, up, ack, Bool.not_true, Bool.false_eq_true, if_false, if_true, Bool.and_eq_true, beq_iff_eq]
  rfl

theorem exec_haltRelease {s : State} (halted : s.halt.inHalt = true) (acked : s.halt.acked = true) : exec .haltRelease s = .next
    (if s.halt.at_ + 1000 ≤ s.us then broadcast { s with
      out := s.out ++ railOuts s true [6, 7]
      halt := { s.halt with inHalt := false, acked := false }
      pwr := { s.pwr with rails := (s.pwr.rails.set 6 true).set 7 true } } 0x0703 0 else s) := by
  show execHaltRelease s = _
  simp only [execHaltRelease, halted, acked, Bool.true_and, decide_eq_true_eq]
  rfl

theorem exec_haltRelease_none {s : State} (h : s.halt.acked = false) : exec .haltRelease s = .next s := by
  show execHaltRelease s = _
  simp only [execHaltRelease, h, Bool.and_false, Bool.false_and, Bool.false_eq_true, if_false]

/-- Settles O30, clause by clause. -/
theorem oscillatorsLogSidebandAndHaltAcknowledgement : Obligations.OscillatorsLogSidebandAndHaltAcknowledgement := by
  refine ⟨?trip, fun s d runs stopped high => exec_clockTrip_holds runs stopped high, ?resume,
    fun s o both => exec_oscillatorResume_none both, fun s running both => exec_x32CrystalStart running both, ?mirror, ?block, ?logRead,
    sbAnswers_iff, fun s a p n v b silent => exec_sideband_silent silent p n v b, fun s a p n answers => exec_sbRead answers p n,
    fun s => ⟨rfl, rfl, rfl, rfl, readSb_time s⟩, ?wakes, ?ignored, ?written,
    fun s a answers => exec_sbIgnoredClear answers, ?ack, fun s v idle => exec_haltAck_idle idle, ?release,
    fun s h => exec_haltRelease_none h⟩
  case trip =>
    rintro s t d o runs rfl left
    refine ⟨fun own => ?_, fun other => ?_⟩
    · exact exec_clockTrip_counts runs left (moves := true) (beq_iff_eq.2 own) rfl (by cases o <;> cases d <;> rfl)
        (by cases o <;> cases d <;> rfl)
    · exact exec_clockTrip_counts runs left (moves := false) (beq_eq_false_iff_ne.2 other) rfl (by cases o <;> rfl)
        (by cases o <;> rfl)
  case resume =>
    intro s both high
    obtain ⟨rc, crystal⟩ := oscRuns_releases both high
    exact ⟨(exec_oscillatorResume both).trans (congrArg _ rc), (exec_oscillatorResume both).trans (congrArg _ crystal)⟩
  case mirror =>
    intro s runs clean
    rw [exec_keeperMirrorCommit runs clean]
    exact ⟨fun due => by rw [if_pos due], fun early => by rw [if_neg (Nat.not_le.2 early)]⟩
  case block =>
    intro s e r runs free staged
    rw [exec_logBlockCommit runs free staged]
    exact ⟨fun due => by rw [if_neg (by omega)], fun few early => by rw [if_pos ⟨few, early⟩]⟩
  case logRead =>
    rintro s x k d a b l wanted running rfl held first last given rfl
    exact ⟨_, exec_logRead running held first last given, finish_endsAs _ 0 k .ok _⟩
  case wakes =>
    intro s a answers
    rw [exec_sbWake answers, if_pos rfl]
  case ignored =>
    intro s a v answers other
    rw [exec_sbWake answers, if_neg other]
    rfl
  case written =>
    intro s a v answers
    refine ⟨exec_registerWrite_sideband answers 5 v, ?_⟩
    rw [exec_registerWrite_sideband answers 4 v, exec_sbWake answers v, writeSb]
    show Host.Outcome.next (afterRow s (exec (.sbWake a v) s)) = _
    rw [exec_sbWake answers v, afterRow]
  case ack =>
    intro s v up ack
    rw [exec_haltAck up ack]
    exact ⟨fun valid => by rw [if_pos valid], fun stale => by rw [if_neg stale]⟩
  case release =>
    intro s halted acked
    rw [exec_haltRelease halted acked]
    exact ⟨fun due => by rw [if_pos due], fun early => by rw [if_neg (Nat.not_le.2 early)]⟩

end Sys2Proof.Machine
end

section
/-! A request during an entry to VIGIL (R410): it has no effect, where ModesAreEnteredAfterTheirDrain asks that it be kept. -/
namespace Sys2Proof.Machine

/-- While VIGIL is being entered a wake changes nothing (R410; log entry 76). -/
theorem wake_enteringVigil {s : State} {e : SleepEntry} (mode : s.sys.mode = .idle) (entry : s.sys.entry = some e)
    (vigil : e.vigil = true) : wake s = s := by
  have same : (s.sys.entry.map fun e => { e with wake := e.wake || !e.vigil }) = s.sys.entry := by
    rw [entry, Option.map_some]
    obtain ⟨k, v, w, dbp⟩ := e
    obtain rfl : v = true := vigil
    rw [Bool.not_true, Bool.or_false]
  unfold wake
  split
  · next doze => exact absurd (mode.symm.trans doze) (by decide)
  · next off => exact absurd (mode.symm.trans off) (by decide)
  · rw [same]

theorem exec_pcieRequestWake_enteringVigil {s : State} {e : SleepEntry} (f : FoldId) (mode : s.sys.mode = .idle)
    (entry : s.sys.entry = some e) (vigil : e.vigil = true) : exec (.pcieRequestWake f) s = .next s := by
  show execPcieRequestWake f s = _
  rw [execPcieRequestWake, wake_enteringVigil mode entry vigil, ite_self]

/-- The machine in IDLE, on its way into VIGIL, with no wake. -/
def enteringVigil : State := { State.reset with sys := { State.reset.sys with entry := some { k := none, vigil := true } } }

/-- Refutes O39: the clause about a request in IDLE with an entry in progress holds for an entry to DOZE alone. On the way into VIGIL
fold 0's request leaves `wake` false, and the clause has it true. -/
theorem not_modesAreEnteredAfterTheirDrain : ¬ Obligations.ModesAreEnteredAfterTheirDrain := by
  rintro ⟨-, -, -, -, -, -, -, -, -, -, -, -, -, -, -, -, -, -, kept, -⟩
  have asked := kept enteringVigil 0 { k := none, vigil := true } rfl rfl rfl
  rw [exec_pcieRequestWake_enteringVigil 0 rfl rfl rfl] at asked
  have entry := congrArg (fun t : State => t.sys.entry) (Host.Outcome.next.inj asked)
  exact absurd entry (by decide)

end Sys2Proof.Machine
end

section
/-! MODE SET, firmware images and calibration: what starts a drain, what a drain ends in, and the records asked for (R402 to R406, R409,
R414 to R416). -/
namespace Sys2Proof.Machine

/-! ### Drains begin (R405, R406) -/

theorem stopSpeculation_sys (s : State) : (stopSpeculation s).sys = s.sys := by
  unfold stopSpeculation
  split <;> rfl

theorem beginDrain_all (s : State) (k : Nat) : beginDrain s k false =
    { stopSpeculation (s.modDesc 0 k fun e => { e with stage := .draining, startedAt := none }) with
      sys := { s.sys with drainAll := true } } := by
  simp only [beginDrain, Bool.false_eq_true, if_false, stopSpeculation_sys, Bool.not_false, Bool.or_true, Bool.or_false]
  rfl

theorem beginDrain_others (s : State) (k : Nat) : beginDrain s k true =
    { s.modDesc 0 k (fun e => { e with stage := .draining, startedAt := none }) with sys := { s.sys with drainOthers := true } } := by
  simp only [beginDrain, if_true, Bool.not_true, Bool.or_true, Bool.or_false]
  rfl

section
variable {s : State} {k : Nat} {d : Desc} (running : runningAs s 0 k .modeSet = some d)
include running

theorem exec_modeSetVigil (field : d.fld.opfield = 0) : exec (.modeSetVigil k) s = .next (beginDrain s k false) := by
  show execModeSetVigil k s = _
  simp only [execModeSetVigil, running, field, if_true]

theorem exec_modeSetDoze (field : d.fld.opfield = 1) : exec (.modeSetDoze k) s = .next (beginDrain s k false) := by
  show execModeSetDoze k s = _
  simp only [execModeSetDoze, running, field, if_true]

theorem exec_modeSetService (field : d.fld.opfield = 3) (outside : s.sys.mode ≠ .service) :
    exec (.modeSetService k) s = .next (beginDrain s k true) := by
  show execModeSetService k s = _
  simp [execModeSetService, running, field, inService, outside]

theorem exec_modeSetIdle_leaves (field : d.fld.opfield = 2) (inside : s.sys.mode = .service) :
    exec (.modeSetIdle k) s = .next (finish (exitService s) 0 k .ok 0) := by
  show execModeSetIdle k s = _
  simp [execModeSetIdle, running, field, inService, inside]

end

/-! ### FW DOWNLOAD and FW ACTIVATE (R402, R403) -/

section
variable {s : State} {k : Nat} {d : Desc} {i : List Byte} (running : runningAs s 0 k .fwDownload = some d)
include running

theorem exec_fwDownload_refused (trial : s.sys.boot.trial ≠ none) :
    exec (.fwDownload k i) s = .next (finish s 0 k .badField 0) := by
  show execFwDownload k i s = _
  simp only [execFwDownload, running, Option.isSome_iff_ne_none.2 trial, if_true]

/-- A VALID slot's bit is cleared by a boot record before its pages are programmed. -/
theorem exec_fwDownload_valid (trial : s.sys.boot.trial = none) (valid : slotValid s.sys.boot (otherSlot s.sys.boot) = true) :
    exec (.fwDownload k i) s = .next (requestRecord (s.modDesc 0 k fun e => { e with stage := .commit }) 7 1
      (some (.boot (if otherSlot s.sys.boot = 0 then { s.sys.boot with validA := false } else { s.sys.boot with validB := false })))
        16 .other (some (.region 7)) (.bootDownload k (lbaOf d.fld) (fit d.fld.length i))) := by
  show execFwDownload k i s = _
  simp only [execFwDownload, running, trial, Option.isSome_none, Bool.false_eq_true, if_false, valid, if_true]

theorem exec_fwDownload_programs (trial : s.sys.boot.trial = none)
    (invalid : slotValid s.sys.boot (otherSlot s.sys.boot) = false) : exec (.fwDownload k i) s =
      .next (finish (programImage s (otherSlot s.sys.boot) (lbaOf d.fld) (fit d.fld.length i)) 0 k .ok d.fld.length) := by
  show execFwDownload k i s = _
  simp only [execFwDownload, running, trial, Option.isSome_none, Bool.false_eq_true, if_false, invalid]

end

/-- The slots are 0 and 1: where one is ACTIVE the other is not. -/
theorem otherSlot_eq_zero {b : BootRecord} : otherSlot b = 0 ↔ ¬ b.active = 0 := by
  unfold otherSlot
  omega

section
variable {s : State} {k : Nat} {d : Desc} (running : runningAs s 0 k .fwActivate = some d)
include running

theorem exec_fwActivateTry_refused (field : d.fld.opfield = 1) (trial : s.sys.boot.trial = none)
    (invalid : imageValid s (otherSlot s.sys.boot) = false) : exec (.fwActivateTry k) s = .next (finish s 0 k .badField 0) := by
  show execFwActivateTry k s = _
  simp [execFwActivateTry, running, field, trial, invalid]

theorem exec_fwActivateTry_drains (field : d.fld.opfield = 1)
    (may : s.sys.boot.trial ≠ none ∨ imageValid s (otherSlot s.sys.boot) = true) :
    exec (.fwActivateTry k) s = .next (beginDrain s k false) := by
  have taken : (s.sys.boot.trial.isNone && !imageValid s (otherSlot s.sys.boot)) = false := by
    rcases may with trial | valid
    · rw [Option.isNone_eq_false_iff.2 (Option.isSome_iff_ne_none.2 trial), Bool.false_and]
    · rw [valid, Bool.not_true, Bool.and_false]
  show execFwActivateTry k s = _
  simp [execFwActivateTry, running, field, taken]

theorem exec_fwActivateConfirm_refused (field : d.fld.opfield = 2) (trial : s.sys.boot.trial = none) :
    exec (.fwActivateConfirm k) s = .next (finish s 0 k .badField 0) := by
  show execFwActivateConfirm k s = _
  simp [execFwActivateConfirm, running, field, trial]

theorem exec_fwActivateConfirm_commits {n : Nat} (field : d.fld.opfield = 2) (trial : s.sys.boot.trial = some n) :
    exec (.fwActivateConfirm k) s = .next (requestRecord (s.modDesc 0 k fun e => { e with stage := .commit }) 7 1
      (some (.boot { s.sys.boot with active := n, trial := none })) 16 .other (some (.region 7)) (.bootConfirm k)) := by
  show execFwActivateConfirm k s = _
  simp [execFwActivateConfirm, running, field, trial]

end

/-- FW ACTIVATE TRY acts once its drain is over (R403, R405). -/
theorem exec_drainComplete_tries {s : State} {d : Desc} (drains : draining s = some d) (entry : s.sys.entry = none)
    (op : d.op = .fwActivate) (drained : allDrained s d.k = true) (job : s.job = none) :
    exec .drainComplete s = .next (tryActs s d.k) := by
  show execDrainComplete s = _
  simp [execDrainComplete, drains, entry, op, drained, job]

/-- The boot record that TRY asks for, told by which slot is ACTIVE. -/
theorem tryActs_eq {s : State} {b : BootRecord} (k : Nat) (slot : s.sys.boot.active ≤ 1)
    (ends : ∀ n : Nat, s.sys.boot.trial = some n → b = { s.sys.boot with trial := none })
    (triesB : s.sys.boot.trial = none → s.sys.boot.active = 0 → b = { s.sys.boot with trial := some 1, validB := true })
    (triesA : s.sys.boot.trial = none → s.sys.boot.active = 1 → b = { s.sys.boot with trial := some 0, validA := true }) :
    tryActs s k = requestRecord ((noteStart s 0 k).modDesc 0 k fun e => { e with stage := .commit }) 7 1
      (some (.boot b)) 16 .other (some (.region 7)) (.bootTry k) := by
  cases trial : s.sys.boot.trial with
  | some n => simp only [tryActs, trial, ends n trial]
  | none =>
    rcases Nat.le_one_iff_eq_zero_or_eq_one.1 slot with a | a
    · simp [tryActs, trial, triesB trial a, otherSlot, a]
    · simp [tryActs, trial, triesA trial a, otherSlot, a]

/-! ### CALIBRATE (R414 to R416, Table 16.8) -/

section
variable {s : State} {k : Nat} {m : CalMeas} {d : Desc} (running : runningAs s 0 k .calibrate = some d)
include running

theorem exec_calibrate_refused (h : s.sys.mode ≠ .service ∨ s.spindle.st ≠ .stopped) :
    exec (.calibrate k m) s = .next (finish s 0 k .badField 0) := by
  show execCalibrate k m s = _
  rcases h with outside | turning
  · simp [execCalibrate, running, inService, outside]
  · simp [execCalibrate, running, turning]

/-- CALIBRATE gives a byte per item and asks for a record where an item has passed. -/
theorem exec_calibrate {c : CalRecord} {o : List Byte} (inside : s.sys.mode = .service) (still : s.spindle.st = .stopped)
    (ran : calRun m d.fld.opfield 6 0 s.sys.cal [] = (c, o)) : exec (.calibrate k m) s = .next
      (if ∀ b ∈ o, b ≠ 1 then finish (s.modDesc 0 k fun e => { e with writes := e.writes ++ scatterAt e.list 0 (o ++ [0, 0]) }) 0 k .ok 8
      else requestRecord ((s.modDesc 0 k fun e => { e with
        writes := e.writes ++ scatterAt e.list 0 (o ++ [0, 0]) }).modDesc 0 k fun e => { e with stage := .commit }) 2 0
        (some (.calibration c)) 176 .other none (.calibrate k)) := by
  have failed : (o.all (· != 1) = true) ↔ ∀ b ∈ o, b ≠ 1 := by simp only [List.all_eq_true, bne_iff_ne]
  show execCalibrate k m s = _
  simp only [execCalibrate, running, inService, inside, still, ran, BEq.rfl, bne_self_eq_false, Bool.not_true, Bool.or_self,
    Bool.false_eq_true, if_false, failed]
  rfl

end

/-- What a run of CALIBRATE gives for one item: 0 and no change for an item not asked for, 2 and no change for one that fails, and 1 and
its values for one that passes; METER_V's result turns on SERVO_ADC's and is left out (R414, R415). -/
def ItemGiven (m : CalMeas) (mask : BitVec 16) (r c : CalRecord) (o : List Byte) (i : Nat) : Prop :=
  (bit mask i = false → o[i]? = some 0 ∧ c.items[i]? = r.items[i]?) ∧
  (i ≠ 3 → bit mask i = true → calItem m true i = none → o[i]? = some 2 ∧ c.items[i]? = r.items[i]?) ∧
  (∀ v : List (Int × Int), i ≠ 3 → bit mask i = true → calItem m true i = some v → r.items.length = 6 →
    o[i]? = some 1 ∧ c.items[i]? = some (some v))

/-- Whether SERVO_ADC is calibrated matters to METER_V alone. -/
theorem calItem_servo (m : CalMeas) (ok : Bool) {i : Nat} (h : i ≠ 3) : calItem m ok i = calItem m true i := by
  unfold calItem
  split
  · rfl
  · rfl
  · rfl
  · exact absurd rfl h
  · rfl
  · rfl

/-- The record and the result byte after item i. -/
def itemStep (m : CalMeas) (mask : BitVec 16) (i : Nat) (r : CalRecord) : CalRecord × Byte :=
  if !bit mask i then (r, 0)
  else match calItem m (r.items.getD 0 none).isSome i with
    | some v => ({ items := r.items.set i (some v) }, 1)
    | none => (r, 2)

theorem calRun_succ (m : CalMeas) (mask : BitVec 16) (n i : Nat) (r : CalRecord) (out : List Byte) :
    calRun m mask (n + 1) i r out = calRun m mask n (i + 1) (itemStep m mask i r).1 (out ++ [(itemStep m mask i r).2]) := by
  cases asked : bit mask i with
  | false => simp only [calRun, itemStep, asked, Bool.not_false, if_true]
  | true =>
    cases result : calItem m (r.items.getD 0 none).isSome i with
    | some v => simp only [calRun, itemStep, asked, result, Bool.not_true, Bool.false_eq_true, if_false]
    | none => simp only [calRun, itemStep, asked, result, Bool.not_true, Bool.false_eq_true, if_false]

/-- An item changes no other item's values, nor how many there are. -/
theorem itemStep_others (m : CalMeas) (mask : BitVec 16) (i : Nat) (r : CalRecord) :
    (itemStep m mask i r).1.items.length = r.items.length ∧
    ∀ j : Nat, j ≠ i → (itemStep m mask i r).1.items[j]? = r.items[j]? := by
  unfold itemStep
  split
  · exact ⟨rfl, fun _ _ => rfl⟩
  · split
    · exact ⟨List.length_set, fun j other => List.getElem?_set_ne (Ne.symm other)⟩
    · exact ⟨rfl, fun _ _ => rfl⟩

/-- Items are taken in ascending order: those before the run's first stay as they are, and each of the run's is given by its own step. -/
theorem calRun_given {m : CalMeas} {mask : BitVec 16} {c : CalRecord} {o : List Byte} : ∀ {n i : Nat} {r : CalRecord} {out : List Byte},
    out.length = i → i + n ≤ 6 → calRun m mask n i r out = (c, o) →
      o.length = i + n ∧ (∀ j : Nat, j < i → o[j]? = out[j]? ∧ c.items[j]? = r.items[j]?) ∧
      ∀ j : Nat, i ≤ j → j < i + n → ItemGiven m mask r c o j
  | 0, i, r, out, length, _, ran => by
    obtain ⟨rfl, rfl⟩ := Prod.mk.inj ran
    exact ⟨length, fun j _ => ⟨rfl, rfl⟩, fun j low high => absurd high (by omega)⟩
  | n + 1, i, r, out, length, within, ran => by
    rw [calRun_succ] at ran
    obtain ⟨kept, others⟩ := itemStep_others m mask i r
    obtain ⟨total, before, after⟩ := calRun_given (i := i + 1) (by rw [List.length_append, length]; rfl) (by omega) ran
    have early {j : Nat} (h : j < i) : o[j]? = out[j]? := by
      rw [(before j (by omega)).1, List.getElem?_append_left (by omega)]
    have result : o[i]? = some (itemStep m mask i r).2 := by
      rw [(before i (by omega)).1, List.getElem?_append_right (by omega), length, Nat.sub_self]
      rfl
    have values : c.items[i]? = (itemStep m mask i r).1.items[i]? := (before i (by omega)).2
    refine ⟨by omega, fun j low => ⟨early low, ((before j (by omega)).2).trans (others j (by omega))⟩, fun j low high => ?_⟩
    rcases Nat.eq_or_lt_of_le low with rfl | later
    · refine ⟨fun unasked => ?_, fun other asked failed => ?_, fun v other asked passed six => ?_⟩
      · rw [result, values, itemStep, unasked]
        exact ⟨rfl, rfl⟩
      · rw [result, values, itemStep, asked, calItem_servo m _ other, failed]
        exact ⟨rfl, rfl⟩
      · rw [result, values, itemStep, asked, calItem_servo m _ other, passed]
        exact ⟨rfl, List.getElem?_set_self (by omega)⟩
    · obtain ⟨unasked, failed, passed⟩ := after j later (by omega)
      have same := others j (by omega)
      rw [same] at unasked failed
      exact ⟨unasked, failed, fun v other asked values six => passed v other asked values (kept.trans six)⟩

/-- Settles O40, clause by clause; the items of CALIBRATE are `calRun_given`. -/
theorem firmwareIsDownloadedTriedAndConfirmed : Obligations.FirmwareIsDownloadedTriedAndConfirmed := by
  refine ⟨?busy, ?valid, ?programs, ?refused, ?drains, ?tries, ?confirm, ?uncalibrated, ?calibrates, ?items⟩
  case busy => exact fun s k d i running trial => ⟨_, exec_fwDownload_refused running trial, finish_endsAs _ 0 k .badField 0⟩
  case valid =>
    rintro s k d i b running trial valid rfl -
    rw [exec_fwDownload_valid running trial valid]
    by_cases a : s.sys.boot.active = 0
    · rw [if_pos a, if_neg (otherSlot_eq_zero.not.2 (not_not.2 a))]
    · rw [if_neg a, if_pos (otherSlot_eq_zero.2 a)]
  case programs =>
    exact fun s k d i running trial invalid => ⟨_, exec_fwDownload_programs running trial invalid, finish_endsAs _ 0 k .ok _⟩
  case refused =>
    exact fun s k d running field trial invalid =>
      ⟨_, exec_fwActivateTry_refused running field trial invalid, finish_endsAs _ 0 k .badField 0⟩
  case drains =>
    intro s k d running field may
    rw [exec_fwActivateTry_drains running field may, beginDrain_all]
  case tries =>
    rintro s d b drains entry op drained job slot rfl
    rw [exec_drainComplete_tries drains entry op drained job]
    refine congrArg _ (tryActs_eq d.k slot (fun n trial => ?_) (fun trial a => ?_) (fun trial a => ?_))
    · rw [trial]
    · rw [trial]
      exact if_pos a
    · rw [trial]
      exact if_neg (by omega)
  case confirm =>
    exact fun s k d running field => ⟨fun trial =>
      ⟨_, exec_fwActivateConfirm_refused running field trial, finish_endsAs _ 0 k .badField 0⟩,
      fun n trial => exec_fwActivateConfirm_commits running field trial⟩
  case uncalibrated => exact fun s k m d running h => ⟨_, exec_calibrate_refused running h, finish_endsAs _ 0 k .badField 0⟩
  case calibrates =>
    intro s k m d c o running inside still ran
    rw [exec_calibrate running inside still ran]
    refine ⟨fun failed => ?_, fun passed => ?_⟩
    · rw [if_pos failed]
      exact ⟨_, rfl, finish_endsAs _ 0 k .ok 8⟩
    · rw [if_neg fun failed => failed 1 passed rfl]
  case items =>
    intro m b r c o ran
    obtain ⟨total, -, given⟩ := calRun_given (n := 6) (i := 0) (out := []) rfl (Nat.le_refl 6) ran
    exact ⟨total, fun i within => given i (Nat.zero_le i) (by omega)⟩

end Sys2Proof.Machine
end

section
/-! The maintenance commands to their end: MODE SET, FW ACTIVATE, FW DOWNLOAD, CALIBRATE, TARIFF SET, a step of the calendar, and a stalled
link (R21, R24, R358, R366, R368, R402 to R406, R409, R414, R415). -/
namespace Sys2Proof.Machine

/-! ### TARIFF SET (R366, R368) -/

theorem exec_tariffSet {s : State} {k : Nat} {d : Desc} {r : List Byte} {x : Tariff} (running : runningAs s 0 k .tariffSet = some d)
    (good : tariffOf r = some x) : exec (.tariffSet k r) s = .next (requestRecord (s.modDesc 0 k fun e => { e with stage := .commit }) 4 1
      (some (.schedule x)) 64 .other (some (.region 4)) (.tariff k)) := by
  show execTariffSet k r s = _
  simp only [execTariffSet, running, good]

/-! ### A step of the calendar (R358) -/

/-- The folds' descriptors are the same, and so is the calendar; no step waits where none did. -/
structure CalendarKeeps (v t : State) : Prop where
  work : SameWork v t
  step : t.kpr.step = v.kpr.step
  cal : t.kpr.cal = v.kpr.cal
  subsec : t.kpr.subsec = v.kpr.subsec

theorem calendarKeeps_trans {u v t : State} (h : CalendarKeeps u v) (g : CalendarKeeps v t) : CalendarKeeps u t :=
  ⟨sameWork_trans h.work g.work, g.step.trans h.step, g.cal.trans h.cal, g.subsec.trans h.subsec⟩

theorem calendarKeeps_rfl (s : State) : CalendarKeeps s s := ⟨sameWork_of_folds rfl, rfl, rfl, rfl⟩

theorem calendarKeeps_of {v t : State} (work : SameWork v t) (kpr : t.kpr = v.kpr) : CalendarKeeps v t :=
  ⟨work, by rw [kpr], by rw [kpr], by rw [kpr]⟩

theorem calendarKeeps_post (s : State) (code : Nat) (w : Word) : CalendarKeeps s (postEvent s 0 code w) :=
  calendarKeeps_of (samePool_postEvent s 0 code w).work (beside_postEvent beside_rfl).kpr_eq

theorem calendarKeeps_logNote (s : State) (code : Nat) (w : Word) (fold extra : Nat) :
    CalendarKeeps s (logNote s code w fold extra) :=
  calendarKeeps_of (sameWork_logNote s code w fold extra) (beside_logNote beside_rfl).kpr_eq

theorem calendarKeeps_closeInterval (s : State) (n : Nat) (g : Interval → Interval) : CalendarKeeps s (closeInterval s n g) := by
  unfold closeInterval
  dsimp only
  split
  · exact calendarKeeps_rfl s
  · exact ⟨sameWork_of_folds rfl, rfl, rfl, rfl⟩

theorem calendarKeeps_endSlew (s : State) : CalendarKeeps s (endSlew s) := by
  unfold endSlew
  split
  · split
    · exact calendarKeeps_trans (v := { s with kpr := { s.kpr with slewPhase := 0 } }) ⟨sameWork_of_folds rfl, rfl, rfl, rfl⟩
        (calendarKeeps_post _ _ _)
    · exact calendarKeeps_rfl s
  · exact calendarKeeps_trans (v := { s with kpr := { s.kpr with slew := 0, slewPhase := 0 } }) ⟨sameWork_of_folds rfl, rfl, rfl, rfl⟩
      (calendarKeeps_post _ _ _)

theorem calendarKeeps_requestLedger (s : State) (p : Prio) : CalendarKeeps s (requestLedger s p) := by
  unfold requestLedger
  dsimp only
  split
  · exact ⟨sameWork_of_folds rfl, rfl, rfl, rfl⟩
  · rw [requestRecord_eq]
    exact ⟨sameWork_of_folds rfl, rfl, rfl, rfl⟩

/-- The old interval closed and a slew ended, with the step taken: where the calendar jumps. -/
def stepTaken (s : State) : State :=
  let t := closeInterval s s.kpr.cal fun i => { i with shortTimeSet := true }
  endSlew { t with kpr := { t.kpr with step := none } }

/-- The calendar set, and the new interval begun and counted. -/
def calendarSet (t : State) (cal sub : Nat) : State :=
  (openInterval { t with kpr := { t.kpr with cal := cal, subsec := sub, calValid := true, atEnd := false } } cal
    fun i => { i with shortTimeSet := true }).modLedger fun l => { l with steps := sat 16 (l.steps + 1) }

/-- TIME_STEP is posted, and logged with the calendar before it. -/
def stepTold (t : State) (diff : Int) (old : Nat) : State :=
  logNote (postEvent t 0 evTimeStep (w32 (toBits 32 diff))) logTimeStep (w32 (toBits 32 diff)) 0 old

theorem exec_timeStep {s : State} {at_ cal sub k : Nat} (waits : s.kpr.step = some (at_, cal, sub, k)) (due : at_ ≤ s.kpr.tick)
    (inside : boundaryDue s = false) : ∃ t : State, exec .timeStep s = .next (finish t 0 k .ok 0) ∧
      CalendarKeeps (calendarSet (stepTaken s) cal sub) t := by
  have told := fun (t : State) (diff : Int) (old : Nat) =>
    calendarKeeps_trans (calendarKeeps_post t evTimeStep (w32 (toBits 32 diff)))
      (calendarKeeps_logNote _ logTimeStep (w32 (toBits 32 diff)) 0 old)
  have unchanged : intervalBoundary s = s := if_neg (by rw [inside]; exact Bool.false_ne_true)
  have run : exec .timeStep s = .next (finish (
      let t := stepTold (calendarSet (stepTaken s) cal sub) (clampI (-2147483647) 2147483647 ((cal : Int) - s.kpr.cal)) s.kpr.cal
      if bronzeRuns t then requestLedger t .other else t) 0 k .ok 0) := by
    show execTimeStep s = _
    simp only [execTimeStep, waits, Nat.not_lt.2 due, if_false, unchanged]
    rfl
  refine ⟨_, run, ?_⟩
  dsimp only
  split
  · exact calendarKeeps_trans (told _ _ _) (calendarKeeps_requestLedger _ _)
  · exact told _ _ _

theorem sameWork_stepTaken (s : State) : SameWork s (stepTaken s) ∧ (stepTaken s).kpr.step = none := by
  have closed := calendarKeeps_closeInterval s s.kpr.cal fun i => { i with shortTimeSet := true }
  unfold stepTaken
  dsimp only
  generalize closeInterval s s.kpr.cal (fun i => { i with shortTimeSet := true }) = t at closed ⊢
  have ended := calendarKeeps_endSlew { t with kpr := { t.kpr with step := none } }
  exact ⟨sameWork_trans closed.work (sameWork_trans (sameWork_of_folds rfl) ended.work), ended.step⟩

/-- The descriptor of a calendar step ends OK at its tick, and the calendar stands where it was set. -/
theorem timeStep_ends {s : State} {at_ cal sub k : Nat} {d : Desc} (waits : s.kpr.step = some (at_, cal, sub, k))
    (due : at_ ≤ s.kpr.tick) (inside : boundaryDue s = false) (found : s.desc? 0 k = some d) :
    ∃ t : State, exec .timeStep s = .next t ∧ t.kpr.step = none ∧ t.kpr.cal = cal ∧ t.kpr.subsec = sub ∧
      t.desc? 0 k = some { d with stage := .done, status := .ok, bytes := 0, aside := [], want := 0 } := by
  obtain ⟨u, run, work, step, calendar, subsec⟩ := exec_timeStep waits due inside
  obtain ⟨taken, cleared⟩ := sameWork_stepTaken s
  have ends := finish_endsAs u 0 k .ok 0
  have keeper : (finish u 0 k .ok 0).kpr = u.kpr := by rw [ends.rest]
  have set : SameWork (stepTaken s) (calendarSet (stepTaken s) cal sub) := sameWork_of_folds rfl
  have still : u.desc? 0 k = some d := (sameWork_desc (sameWork_trans taken (sameWork_trans set work)) 0 k).trans found
  refine ⟨_, run, ?_, ?_, ?_, ends.ended d still⟩
  · rw [keeper, step]
    exact cleared
  · rw [keeper, calendar]
    rfl
  · rw [keeper, subsec]
    rfl

/-- Settles O59, clause by clause. -/
theorem modeAndMaintenanceCommandsComplete : Obligations.ModeAndMaintenanceCommandsComplete := by
  refine ⟨?modes, ?activates, ?programs, ?calibrates, fun s k d r x running good => ⟨_, exec_tariffSet running good, rfl⟩,
    fun s at_ cal sub k d waits due inside found => timeStep_ends waits due inside found, ?stalls⟩
  case modes =>
    intro s k d running
    refine ⟨fun field => ?_, fun field => ?_,
      fun field inside => ⟨_, exec_modeSetIdle_leaves running field inside, finish_endsAs _ 0 k .ok 0⟩, fun field outside => ?_⟩
    · rw [exec_modeSetVigil running field, beginDrain_all]
    · rw [exec_modeSetDoze running field, beginDrain_all]
    · rw [exec_modeSetService running field outside, beginDrain_others]
  case activates =>
    intro s k d running
    refine ⟨fun field may => ?_, fun n field trial => ⟨_, exec_fwActivateConfirm_commits running field trial, rfl⟩⟩
    rw [exec_fwActivateTry_drains running field may, beginDrain_all]
  case programs =>
    exact fun s k d i running trial invalid => ⟨_, exec_fwDownload_programs running trial invalid, finish_endsAs _ 0 k .ok _⟩
  case calibrates =>
    intro s k m d c o running inside still ran passed
    refine ⟨_, exec_calibrate running inside still ran, ?_⟩
    rw [if_neg fun failed => failed 1 passed rfl]
  case stalls =>
    intro s up
    obtain ⟨laser, gate, halt, pwr, -⟩ := linkFault_yelxoM s (code := 1) (.inl rfl)
    refine ⟨⟨_, exec_linkStall_yelxoM up, laser, gate, pwr, halt⟩, ?_⟩
    rw [exec_linkStall_yelxoB up, linkFault_other s (Nat.le_refl 3)]

end Sys2Proof.Machine
end
